-- ==== Sys2Proof/Word.lean ====
section
/-! DEFINITION. The word types of the engine: a byte, a 64-bit lane word or memory word, a 256-bit token or tile word,
a 288-bit link word's parts (data and tag), and the 48-bit beat number (00_scope.md, 04_forge_fabric.md, 02_clocks_time.md). -/

namespace Sys2Proof

/-- One byte of an object's encoding (Table 12.1) or of engine memory (R176). -/
abbrev Byte := BitVec 8

/-- One 64-bit word: a lane block's payload (R56) or a tile instruction (R129). -/
abbrev Word64 := BitVec 64

/-- One 256-bit word: a token's data, a tile memory word, a vector register (R83, R115, R127). -/
abbrev Word256 := BitVec 256

/-- A token's tag (R88). -/
abbrev Tag := BitVec 32

/-- A 48-bit beat number (R29). -/
abbrev Beat := BitVec 48

end Sys2Proof
end

