-- ==== Sys2Proof/Syntax.lean ====
section
/-! DEFINITION. The commands of the block, one constructor per row of spec/opcode_table.json, and their operand types.
The table gives the rows no fields; the operands are what the rule of each row names (notes/assumptions/1.md). -/

namespace Sys2Proof

/-- A TIME96 value (R33): seconds modulo 2^48, nanoseconds in [0, 999,999,999], fraction in units of 2^-16 ns. -/
structure Time96 where
  sec : Nat
  ns : Nat
  frac : Nat
  deriving DecidableEq, Repr

/-- A tile in logical coordinates (R5): island 8y + x, column, row. -/
structure TileId where
  island : Nat
  col : Nat
  row : Nat
  deriving DecidableEq, Repr

/-- A neighbour port of a tile (Table 4.1), numbered 0 to 3. -/
inductive Port where
  | n | e | s | w
  deriving DecidableEq, Repr

/-- Who runs an instruction of Table 6.4 or 8.6: a tile program's instance on a plane, or the kernel of a temper of a harbour. -/
inductive Seat where
  | tile (t : TileId) (plane : Bool)
  | temper (harbour unit : Nat)
  deriving DecidableEq, Repr

/-- The fields of an instruction word other than OP (R129). -/
structure AnvilFields where
  pn : Bool
  ps : BitVec 3
  rm : BitVec 2
  fmt : BitVec 8
  d : BitVec 4
  a : BitVec 4
  b : BitVec 4
  x : BitVec 32
  deriving DecidableEq, Repr

/-- What the SECDED check of a read reports (R371). -/
inductive ReadCheck where
  | clean
  | corrected
  /-- the 64-bit word `part` of the 256-bit word is uncorrectable -/
  | lost (part : Nat)
  deriving DecidableEq, Repr

/-- What the checks of a read of the stack report (R204): the controller's code and the on-die severity. -/
structure EccReport where
  corrected : Bool
  uncorrected : Bool
  odCorrected : Bool
  odUncorrected : Bool
  deriving DecidableEq, Repr

/-- An error that a banked cycle of a tile finds (R371): the store, the plane, the 64-bit word, and whether it is
uncorrectable. -/
inductive TileStore where
  | instr | const | work
  deriving DecidableEq, Repr

structure TileError where
  store : TileStore
  plane : Bool
  word : Nat
  lost : Bool
  deriving DecidableEq, Repr

/-- An error that a harbour scrub finds (R372, Table 17.2 kind 2): store 0 to 5, line, and whether it is uncorrectable. -/
structure SramError where
  store : Nat
  line : Nat
  lost : Bool
  deriving DecidableEq, Repr

/-- A unit of Table 17.2: kind, unit number of Table 12.12, location field. -/
structure FaultUnit where
  kind : Nat
  unit : Nat
  loc : Nat
  deriving DecidableEq, Repr

/-- What a receive lane takes next: a block after decoding, or as its deserializer or decoder has it (R56, R62, R71, R74,
R75). An `age` says how many 1/64 core cycles ago the first bit passed the deserializer (R36, R63). -/
inductive LaneBlock where
  | data (w : Word64)
  | badSync (w : Word64)
  | badControl (w : Word64)
  /-- a 66-bit block as it came, scrambled -/
  | raw (b : BitVec 66) (age : Nat)
  /-- a block that finds the elastic buffer full (R62) -/
  | overflow (w : Word64)
  /-- the 224 symbols of two interleaved codewords (R74), with the ages of the headers among their blocks -/
  | interleave (symbols : List Nat) (ages : List Nat)
  /-- the FEC decoder's next block comes out (R74) -/
  | decoded
  deriving DecidableEq, Repr

/-- What an Ethernet port sees of a frame: one that it takes, or one of those that it drops (R302). -/
inductive EthFrame where
  | whole | tagged | long | errored | fragment | pause
  deriving DecidableEq, Repr

/-- The format of a CAN frame: classical, or CAN FD with or without bit rate switching (R291). -/
inductive CanFrame where
  | classical
  | fd (switched : Bool)
  deriving DecidableEq, Repr

/-- Which way a PTP message takes: ETH port, mapping 0 UDP over IPv4, 1 UDP over IPv6, 2 Layer 2 (R38), and its frame. -/
structure PtpVia where
  port : Nat
  mapping : Nat
  frame : EthFrame
  deriving DecidableEq, Repr

/-- A PTP Sync (R38): master identity, sequence, domain, two-step flag, origin stamp, correction in 2^-16 ns. The `age` of a
message says how many 1/8 core cycles ago its time-stamp point passed (R36, R40). -/
structure PtpSync where
  via : PtpVia
  master : Nat
  seq : Nat
  domain : Nat
  twoStep : Bool
  logInterval : Int
  origin : Time96
  age : Nat
  correction : Int
  deriving DecidableEq, Repr

structure PtpFollowUp where
  via : PtpVia
  master : Nat
  seq : Nat
  domain : Nat
  origin : Time96
  correction : Int
  deriving DecidableEq, Repr

/-- A PTP Announce with the data set that the best master clock algorithm compares (R41; IEEE 1588-2019). -/
structure PtpAnnounce where
  via : PtpVia
  master : Nat
  domain : Nat
  priority1 : Nat
  clockClass : Nat
  accuracy : Nat
  variance : Nat
  priority2 : Nat
  stepsRemoved : Nat
  utcOffset : Int
  deriving DecidableEq, Repr

structure PtpDelayResp where
  via : PtpVia
  master : Nat
  seq : Nat
  domain : Nat
  rx : Time96
  correction : Int
  deriving DecidableEq, Repr

structure PtpDelayReq where
  via : PtpVia
  slave : Nat
  seq : Nat
  domain : Nat
  age : Nat
  correction : Int
  deriving DecidableEq, Repr

structure PtpPdelayReq where
  via : PtpVia
  peer : Nat
  seq : Nat
  domain : Nat
  age : Nat
  correction : Int
  /-- the eighth of the present core cycle in which the answer leaves (R36, R39) -/
  leave : Nat
  deriving DecidableEq, Repr

/-- A Pdelay_Resp as the engine receives it, with the peer's turnaround (correction). -/
structure PtpPdelayResp where
  via : PtpVia
  peer : Nat
  seq : Nat
  domain : Nat
  age : Nat
  correction : Int
  deriving DecidableEq, Repr

/-- What Virrin reads from the carrier and the fuses (R40, R63, R73, R207, R258, Table 15.5). `stackTimings` holds the six
timing objects of each stack in turn, `stampOffsets` a value for each receive lane and `stampUncs` one for each shoal. -/
structure Carrier where
  grade : Nat
  stepping : Nat
  serial : List Byte
  revision : Nat
  virrin : Nat
  nodeId : Nat
  mac0 : Nat
  mac1 : Nat
  ptpRxLat : Nat
  ptpTxLat : Nat
  stampOffsets : List Nat
  stampUncs : List Nat
  eqTable : List Byte
  stackTimings : List Nat
  patchFloor : Nat
  remapFactory : List (Nat × List Byte)
  productRevision : Nat
  deriving DecidableEq, Repr

/-- What a BIST at BOOT found that is not the ROM's: the unit's signatures, and its failing rows with SPARE (R386). -/
structure BistFound where
  unit : Nat
  logic : BitVec 64
  memory : BitVec 64
  rows : List (Nat × Bool)
  deriving DecidableEq, Repr

/-- What BOOT meets (R342): the carrier, the inputs present, REFCLK, hearth lock, BIST and stack outcomes. -/
structure BootInputs where
  carrier : Carrier
  testEn : Bool
  mainPresent : Bool
  refclk : Bool
  hearthLocks : Bool
  failedDomains : List Nat
  failedStacks : List Nat
  failedBist : List BistFound
  deriving DecidableEq, Repr

/-- What the sensors read at a publication (R400, R402, R407): inputs in mV, draws in W, temperatures in °C. -/
structure Sensors where
  mainMv : Nat
  auxMv : Nat
  totalW : Nat
  domainW : List (Nat × Nat)
  islandC : List (Nat × Int)
  stackC : List (Nat × Int)
  deriving DecidableEq, Repr

/-- The source of a dictionary access: a CAN client node, an Ethernet source, or the UART (R276). -/
inductive Via where
  | can (node : Nat)
  | eth (port addr udp : Nat)
  | uart
  deriving DecidableEq, Repr

/-- A dictionary datagram (Table 13.5) other than its op, which the row gives, with its frame and the link-layer source of
that frame. -/
structure Datagram where
  frame : EthFrame
  mac : Nat
  port : Nat
  addr : Nat
  udp : Nat
  magic : Nat
  version : Nat
  reqId : Nat
  length : Nat
  zero : Nat
  status : Nat
  payload : List Byte
  crc : Nat
  deriving DecidableEq, Repr

/-- A character as the UART receiver delivers it (R310, R311). -/
structure RxChar where
  code : Nat
  framing : Bool
  parity : Bool
  brk : Bool
  deriving DecidableEq, Repr

/-- What arrives on the UART's receive signal: whole characters, or the samples of every tick (R310). `early` says that what
arrives was complete before the response to the line before it had been sent (R312). -/
inductive UartLine where
  | chars (early : Bool) (cs : List RxChar)
  | samples (early : Bool) (bits : List Bool)
  deriving DecidableEq, Repr

/-- A Silush burst: the instant of its first preamble bit within the present core cycle, in 1/64 UI, and its 72 payload
bits as received, the first bit highest (R318). -/
structure Burst where
  sub : Nat
  bits : BitVec 72
  deriving DecidableEq, Repr

/-- What the stores and K registers report at a micro-word's issue (R255, R256). -/
inductive SeqCheck where
  | clean | microParity | nanoParity | dispatchParity | matchParity | kCorrected (reg : Nat) | kLost (reg : Nat)
  deriving DecidableEq, Repr

/-- One issue of a bellows context: harbour, context, the ROM words fetched, and whether the named condition holds
(R245 to R247). A fetch that a match register redirects takes the patch word in State instead (R249). -/
structure MicroIssue where
  h : Nat
  ctx : Nat
  word : BitVec 24
  nano : BitVec 144
  cond : Bool
  check : SeqCheck
  deriving DecidableEq, Repr

/-- The commands of the block, one constructor per row of the opcode table, in the table's order. -/
inductive Instr where
  /-- POWER_UP (R342). -/
  | powerUp (b : BootInputs)
  /-- HEARTH_LOCK_TIMEOUT (R27). -/
  | hearthLockTimeout
  /-- HEARTH_UNLOCK (R27). -/
  | hearthUnlock
  /-- REFCLK_ABSENT (R27). -/
  | refclkAbsent
  /-- BEAT_BOUNDARY (R29). -/
  | beatBoundary
  /-- ACTION_DUE_IN_HELD (R412). -/
  | actionDueInHeld (slot : Nat)
  /-- ACTION_COMMIT (R48). -/
  | actionCommit (slot : Nat)
  /-- ACTION_CANCEL (R52). -/
  | actionCancel (slot : Nat)
  /-- TIME_ACT_FIELD_WRITE (R46). -/
  | timeActFieldWrite (slot sub : Nat) (v : List Byte)
  /-- PTP_SYNC (R41). -/
  | ptpSync (m : PtpSync)
  /-- PTP_FOLLOW_UP (R38). -/
  | ptpFollowUp (m : PtpFollowUp)
  /-- PTP_ANNOUNCE (R41). -/
  | ptpAnnounce (m : PtpAnnounce)
  /-- PTP_DELAY_RESP (R38). -/
  | ptpDelayResp (m : PtpDelayResp)
  /-- PTP_PDELAY_REQ (R39). -/
  | ptpPdelayReq (m : PtpPdelayReq)
  /-- PTP_PDELAY_RESP (R38). -/
  | ptpPdelayResp (m : PtpPdelayResp)
  /-- PTP_MANAGEMENT (R38). -/
  | ptpManagement
  /-- PTP_SYNC_TX (R39). -/
  | ptpSyncTx (eighth : Nat)
  /-- PTP_DELAY_REQ_TX (R38). -/
  | ptpDelayReqTx (eighth : Nat)
  /-- ANNOUNCE_RECEIPT_TIMEOUT (R41). -/
  | announceReceiptTimeout
  /-- PTP_PORT_LINK_DOWN (R41). -/
  | ptpPortLinkDown
  /-- TIME_PTP_ENABLE (R41). -/
  | timePtpEnable (v : List Byte)
  /-- SIGNAL_PRESENT (R66). -/
  | signalPresent (lane : Nat)
  /-- LOSS_OF_SIGNAL (R66). -/
  | lossOfSignal (lane : Nat)
  /-- BLOCK_LOCK (R66). -/
  | blockLock (lane : Nat) (sync : List (BitVec 2))
  /-- BLOCK_LOCK_LOSS (R66). -/
  | blockLockLoss (lane : Nat) (sync : List (BitVec 2))
  /-- FEC_LOCK (R75). -/
  | fecLock (lane : Nat) (interleaves : List (List Nat))
  /-- FEC_LOCK_LOSS (R75). -/
  | fecLockLoss (lane : Nat)
  /-- BEAT_HEADER (R62). -/
  | beatHeader (lane : Nat) (w : Word64) (age : Nat)
  /-- ALIGN_MARKER (R66). -/
  | alignMarker (lane : Nat) (a : Word64) (b : Option Word64) (age : Nat)
  /-- DATA_BLOCK (R62). -/
  | dataBlock (lane : Nat) (b : LaneBlock)
  /-- FILL_BLOCK (R62). -/
  | fillBlock (lane : Nat)
  /-- SHOAL_TOKEN_RELEASE (R60). -/
  | shoalTokenRelease (shoal position token : Nat)
  /-- LANE_CONFIG_WRITE (R66). -/
  | laneConfigWrite (lane sub : Nat) (v : List Byte)
  /-- LANE_INJECT_FIRE (R77). -/
  | laneInjectFire (tx : Bool) (lane : Nat) (v : List Byte)
  /-- INJECT_PERIODIC (R77). -/
  | injectPeriodic (tx : Bool) (lane : Nat)
  /-- PRBS_LOCK (R76). -/
  | prbsLock (lane : Nat) (bits : List Bool)
  /-- PRBS_LOCK_LOSS (R76). -/
  | prbsLockLoss (lane : Nat) (bits : List Bool)
  /-- FERRY_TOKEN (R79). -/
  | ferryToken (lane : Nat) (header : Word64) (words : Word256)
  /-- FERRY_TOKEN_RELEASE (R79). -/
  | ferryTokenRelease (lane slot : Nat)
  /-- TRIGGER_ARRIVAL (R92). -/
  | triggerArrival (t : TileId) (plane : Bool)
  /-- ORPHAN_TOKEN (R95). -/
  | orphanToken (t : TileId) (port : Port) (plane : Bool)
  /-- BANKED_CYCLE (R93). -/
  | bankedCycle (t : TileId) (e : Option TileError)
  /-- NOP (R138). -/
  | nop (u : Seat) (f : AnvilFields)
  /-- REP (R152). -/
  | rep (u : Seat) (f : AnvilFields)
  /-- PSET (R151). -/
  | pset (u : Seat) (f : AnvilFields)
  /-- TTEST (R151). -/
  | ttest (u : Seat) (f : AnvilFields)
  /-- TFLAG (R151). -/
  | tflag (u : Seat) (f : AnvilFields)
  /-- RECV (R147). -/
  | recv (u : Seat) (f : AnvilFields)
  /-- SEND (R148). -/
  | send (u : Seat) (f : AnvilFields)
  /-- LDC (R138). -/
  | ldc (u : Seat) (f : AnvilFields) (e : ReadCheck)
  /-- LDW (R138). -/
  | ldw (u : Seat) (f : AnvilFields) (e : ReadCheck)
  /-- STW (R138). -/
  | stw (u : Seat) (f : AnvilFields)
  /-- HPUSH (R150). -/
  | hpush (u : Seat) (f : AnvilFields)
  /-- HLD (R150). -/
  | hld (u : Seat) (f : AnvilFields) (e : ReadCheck)
  /-- ACCI (R141). -/
  | acci (u : Seat) (f : AnvilFields)
  /-- DOT (R140). -/
  | dot (u : Seat) (f : AnvilFields)
  /-- ACCOUT (R141). -/
  | accout (u : Seat) (f : AnvilFields)
  /-- ACCRED (R141). -/
  | accred (u : Seat) (f : AnvilFields)
  /-- VADD (R139). -/
  | vadd (u : Seat) (f : AnvilFields)
  /-- VSUB (R139). -/
  | vsub (u : Seat) (f : AnvilFields)
  /-- VMUL (R139). -/
  | vmul (u : Seat) (f : AnvilFields)
  /-- VFMA (R139). -/
  | vfma (u : Seat) (f : AnvilFields)
  /-- VMAX (R139). -/
  | vmax (u : Seat) (f : AnvilFields)
  /-- VMIN (R139). -/
  | vmin (u : Seat) (f : AnvilFields)
  /-- VSHR (R139). -/
  | vshr (u : Seat) (f : AnvilFields)
  /-- VCVT (R142). -/
  | vcvt (u : Seat) (f : AnvilFields)
  /-- VBC (R142). -/
  | vbc (u : Seat) (f : AnvilFields)
  /-- VSLIDE (R142). -/
  | vslide (u : Seat) (f : AnvilFields)
  /-- LUT (R143). -/
  | lut (u : Seat) (f : AnvilFields)
  /-- LUTI (R143). -/
  | luti (u : Seat) (f : AnvilFields)
  /-- CMP (R144). -/
  | cmp (u : Seat) (f : AnvilFields)
  /-- TESTV (R144). -/
  | testv (u : Seat) (f : AnvilFields)
  /-- SEL (R144). -/
  | sel (u : Seat) (f : AnvilFields)
  /-- MLOG (R145). -/
  | mlog (u : Seat) (f : AnvilFields)
  /-- POPC (R145). -/
  | popc (u : Seat) (f : AnvilFields)
  /-- LDA (R193). -/
  | lda (u : Seat) (f : AnvilFields)
  /-- STA (R193). -/
  | sta (u : Seat) (f : AnvilFields)
  /-- REDA (R217). -/
  | reda (u : Seat) (f : AnvilFields)
  /-- ARADD (R193). -/
  | aradd (u : Seat) (f : AnvilFields)
  /-- BR (R193). -/
  | br (u : Seat) (f : AnvilFields)
  /-- END (R193). -/
  | endKernel (u : Seat) (f : AnvilFields)
  /-- BUDGET_EXHAUSTED (R193). -/
  | budgetExhausted (h t : Nat)
  /-- DBG_HAZ_CLEAR (R155). -/
  | dbgHazClear (v : List Byte)
  /-- SOUNDING_END (R97). -/
  | soundingEnd
  /-- SOUND_LOST (R97). -/
  | soundLost
  /-- SHADOW_LOAD_COMPLETE (R20). -/
  | shadowLoadComplete
  /-- IMG_SHADOW_LOAD (R352). -/
  | imgShadowLoad (v : List Byte)
  /-- FORGE_SOUND_LOADED (R102). -/
  | forgeSoundLoaded (forging : Nat)
  /-- FORGE_SOUND_REPRIME (R102). -/
  | forgeSoundReprime (forging : Nat)
  /-- FORGE_SOUND_RELOAD (R380). -/
  | forgeSoundReload (forging : Nat)
  /-- QUENCH_FINAL_TOKEN (R157). -/
  | quenchFinalToken (forging input : Nat) (plane : Bool)
  /-- VERDICT_ISSUE (R161). -/
  | verdictIssue (forging : Nat) (stateLost : Bool)
  /-- VERDICT_RING_ARRIVAL (R17). -/
  | verdictRingArrival (forging harbour : Nat) (beat : Beat)
  /-- NOP_COMMAND (R179). -/
  | nopCommand (h e q : Nat)
  /-- SIGNAL (R179). -/
  | signal (h e q : Nat)
  /-- LIST (R181). -/
  | list (h e q : Nat)
  /-- COPY (R179). -/
  | copy (h e q : Nat)
  /-- FILL (R179). -/
  | fill (h e q : Nat)
  /-- FETCH (R186). -/
  | fetch (h e q : Nat)
  /-- STORE (R186). -/
  | store (h e q : Nat)
  /-- PIN (R195). -/
  | pin (h e q : Nat)
  /-- PIN_COPY (R198). -/
  | pinCopy (h e q : Nat)
  /-- LAUNCH (R192). -/
  | launch (h e q : Nat)
  /-- RANGE_PREFETCH (R223). -/
  | rangePrefetch (h e q : Nat)
  /-- RANGE_FLUSH (R223). -/
  | rangeFlush (h e q : Nat)
  /-- RANGE_INVALIDATE (R223). -/
  | rangeInvalidate (h e q : Nat)
  /-- SIEVE_JOB (R230). -/
  | sieveJob (h e q : Nat)
  /-- PAIR_JOB (R235). -/
  | pairJob (h e q : Nat)
  /-- COMMAND_START (R182). -/
  | commandStart (h e q : Nat)
  /-- COMMAND_COMPLETE (R184). -/
  | commandComplete (h e q : Nat)
  /-- ENG_TOKENS (R178). -/
  | engTokens (h : Nat) (v : List Byte)
  /-- ENG_RESUME (R185). -/
  | engResume (h e : Nat) (v : List Byte)
  /-- ENG_COMPLETIONS_READ (R279). -/
  | engCompletionsRead (via : Via) (h : Nat)
  /-- ITEM_ARRIVAL (R186). -/
  | itemArrival (h dq index : Nat) (ecc : EccReport)
  /-- ITEM_DUE (R189). -/
  | itemDue (h : Nat)
  /-- ITEM_TIMEOUT (R200). -/
  | itemTimeout (h dq index : Nat)
  /-- REDUCTION_APPLY (R219). -/
  | reductionApply (h : Nat)
  /-- ORDERED_REDUCTION_APPLY (R221). -/
  | orderedReductionApply (h : Nat)
  /-- CACHE_HOLD_DIRECT_MIB (R208). -/
  | cacheHoldDirectMib (h : Nat) (v : List Byte)
  /-- HBM_REFRESH (R206). -/
  | hbmRefresh (h bank : Nat)
  /-- HBM_SCRUB (R206). -/
  | hbmScrub (h line : Nat) (ecc : EccReport)
  /-- SEQ_NEXT (R246). -/
  | seqNext (i : MicroIssue)
  /-- SEQ_JUMP (R246). -/
  | seqJump (i : MicroIssue)
  /-- SEQ_JUMP_P (R246). -/
  | seqJumpP (i : MicroIssue)
  /-- SEQ_BRANCH (R246). -/
  | seqBranch (i : MicroIssue)
  /-- SEQ_CALL (R246). -/
  | seqCall (i : MicroIssue)
  /-- SEQ_RETURN (R246). -/
  | seqReturn (i : MicroIssue)
  /-- SEQ_WAIT (R246). -/
  | seqWait (i : MicroIssue)
  /-- SEQ_END (R250). -/
  | seqEnd (i : MicroIssue)
  /-- ROUTINE_RESTART (R253). -/
  | routineRestart (h ctx : Nat)
  /-- PUBLICATION (R270). -/
  | publication (x : Sensors)
  /-- MAIN_RAIL_TIMEOUT (R403). -/
  | mainRailTimeout
  /-- MAIN_POWER_REMOVAL (R405). -/
  | mainPowerRemoval
  /-- SNAPSHOT_EXPIRY (R272). -/
  | snapshotExpiry (via : Via) (key : Nat)
  /-- UART_PART_EXPIRY (R275). -/
  | uartPartExpiry (key : Nat)
  /-- DOMAIN_SESSION_IDLE (R278). -/
  | domainSessionIdle (key : Nat)
  /-- DOMAIN_READ_IDLE (R279). -/
  | domainReadIdle (via : Via) (key : Nat)
  /-- REGISTER_WRITE (R266). -/
  | registerWrite (index sub : Nat) (v : List Byte)
  /-- READ (R305). -/
  | read (d : Datagram)
  /-- WRITE (R305). -/
  | write (d : Datagram)
  /-- DOMAIN_OPEN (R277). -/
  | domainOpen (d : Datagram)
  /-- DOMAIN_CHUNK (R277). -/
  | domainChunk (d : Datagram)
  /-- DOMAIN_COMMIT (R278). -/
  | domainCommit (d : Datagram)
  /-- DOMAIN_CANCEL (R278). -/
  | domainCancel (d : Datagram)
  /-- DOMAIN_READ (R279). -/
  | domainRead (d : Datagram)
  /-- SUBSCRIBE (R308). -/
  | subscribe (d : Datagram)
  /-- CLOSE (R307). -/
  | close (d : Datagram)
  /-- SESSION_TIMEOUT (R307). -/
  | sessionTimeout (via : Via)
  /-- ARP_REQUEST (R303). -/
  | arpRequest (f : EthFrame) (port mac target : Nat)
  /-- ICMP_ECHO (R303). -/
  | icmpEcho (f : EthFrame) (port mac : Nat) (v6 : Bool) (target : Nat) (body : List Byte)
  /-- NEIGHBOUR_SOLICITATION (R303). -/
  | neighbourSolicitation (f : EthFrame) (port mac target : Nat) (dad : Bool)
  /-- ETH_LINK_CHANGE (R302). -/
  | ethLinkChange (port : Nat) (up : Bool)
  /-- USDO_UPLOAD (R295): the request that opens an upload, or one for its next segment. -/
  | usdoUpload (f : CanFrame) (node index sub : Nat) (next : Bool)
  /-- USDO_DOWNLOAD (R296). -/
  | usdoDownload (f : CanFrame) (node index sub size : Nat) (data : List Byte)
  /-- NMT_START_REMOTE_NODE (R293). -/
  | nmtStartRemoteNode (node : Nat)
  /-- NMT_STOP_REMOTE_NODE (R293). -/
  | nmtStopRemoteNode (node : Nat)
  /-- NMT_ENTER_PRE_OPERATIONAL (R293). -/
  | nmtEnterPreOperational (node : Nat)
  /-- NMT_RESET_NODE (R293). -/
  | nmtResetNode (node : Nat)
  /-- NMT_RESET_COMMUNICATION (R293). -/
  | nmtResetCommunication (node : Nat)
  /-- HEARTBEAT (R294). -/
  | heartbeat
  /-- SYNC (R301). -/
  | sync
  /-- TPDO_EVENT_TIMER (R298). -/
  | tpdoEventTimer (pdo : Nat)
  /-- RECEIVE_PDO (R299). -/
  | receivePdo (f : CanFrame) (pdo : Nat) (data : List Byte)
  /-- EMCY_TRANSMIT (R300). -/
  | emcyTransmit
  /-- BUS_OFF (R291). -/
  | busOff
  /-- BUS_OFF_RECOVERY (R291). -/
  | busOffRecovery
  /-- UART_READ_LINE (R313). -/
  | uartReadLine (l : UartLine)
  /-- UART_WRITE_LINE (R313). -/
  | uartWriteLine (l : UartLine)
  /-- UART_OPEN_LINE (R312). -/
  | uartOpenLine (l : UartLine)
  /-- UART_COMMIT_LINE (R312). -/
  | uartCommitLine (l : UartLine)
  /-- UART_CANCEL_LINE (R312). -/
  | uartCancelLine (l : UartLine)
  /-- SILUSH_CYCLE_START (R326). -/
  | silushCycleStart
  /-- SLOT0_BEAT (R321). -/
  | slot0Beat (b : Burst)
  /-- SLOT0_PHASE (R322). -/
  | slot0Phase (b : Burst)
  /-- SLOT0_RANGE (R323). -/
  | slot0Range (b : Burst)
  /-- RANGING_RETURN (R323). -/
  | rangingReturn (b : Burst)
  /-- OWN_BURST (R324). -/
  | ownBurst (b : Burst)
  /-- SLOT_BURST (R327). -/
  | slotBurst (slot : Nat) (b : Burst)
  /-- SLOT_ABSENT (R330). -/
  | slotAbsent (slot : Nat)
  /-- SIL_REENABLE (R329). -/
  | silReenable (v : List Byte)
  /-- ACTIVATE (R348). -/
  | activate
  /-- NO_BEAT_TIMEOUT (R346). -/
  | noBeatTimeout
  /-- START (R337). -/
  | start
  /-- STOP (R338). -/
  | stop
  /-- HOLD (R339). -/
  | hold
  /-- REARM (R339). -/
  | rearm
  /-- RESET (R341). -/
  | reset (b : BootInputs)
  /-- DRAIN_END (R339). -/
  | drainEnd
  /-- DIGEST (R369). -/
  | digest (lane : Nat) (w : Word64)
  /-- HARBOUR_SCRUB (R372). -/
  | harbourScrub (h : Nat) (e : Option SramError)
  /-- TEST_START (R373). -/
  | testStart (x : FaultUnit)
  /-- TEST_FORCED_START (R374). -/
  | testForcedStart (x : FaultUnit)
  /-- TEST_COMPLETE (R375). -/
  | testComplete (x : FaultUnit) (fails : Bool)
  /-- FLT_LOG_CLEAR (R382). -/
  | fltLogClear (v : List Byte)
  /-- BIST_LOGIC (R385). -/
  | bistLogic (unit : Nat)
  /-- BIST_MEMORY (R385). -/
  | bistMemory (unit : Nat)
  /-- BIST_BOTH (R385). -/
  | bistBoth (unit : Nat)
  /-- BIST_COMPLETE (R386). -/
  | bistComplete (logic memory : BitVec 64) (rows : List (Nat × Bool))
  /-- PWR_DOMAIN_ON (R394). -/
  | pwrDomainOn (domain : Nat) (v : List Byte)
  /-- RAMP_COMPLETE (R394). -/
  | rampComplete (domain : Nat) (ok : Bool)
  /-- DOMAIN_FAILED (R399). -/
  | domainFailed (domain : Nat)
  /-- JTAG_IDCODE (R409). -/
  | jtagIdcode
  /-- JTAG_BYPASS (R409). -/
  | jtagBypass (tdi : Bool)
  /-- PTP_DELAY_REQ (R38). -/
  | ptpDelayReq (m : PtpDelayReq)
  /-- CAN_ERROR_PASSIVE (R383). -/
  | canErrorPassive (passive : Bool)
  /-- USDO_ABORT (R296). -/
  | usdoAbort (f : CanFrame) (node index sub : Nat)
  deriving DecidableEq, Repr

end Sys2Proof
end

