-- ==== Sys2Proof/Machine/Plan.lean ====
section
/-! DEFINITION. What the sections of an image say once read (Tables 15.7, 4.2; R15, R16, R59 to R65, R99, R107, R129,
R156, R158, R159, R165). The bytes' layout within a section is Tlale's and not in the manual (notes/assumptions/7.md). -/

namespace Sys2Proof.Machine

/-- An element of a route (Table 4.2). `step` crosses from logical column c to c + 1 of a row or back; `east` and `west`
cross the row's outer edge; these meet the bypass registers that the remap of R111 gives. A strait link is named by the island
that it leaves, the edge and its place on the edge, a harbour link by its island, its harbour and its place on the island's
outer edge (R8, R87). -/
inductive PathEl where
  /-- one of a tile's 12 pass-through registers: from an input port to another port's output (Table 4.1) -/
  | pass (t : TileId) (input output : Port)
  | step (island row col : Nat)
  | east (island row : Nat)
  | west (island row : Nat)
  | strait (island : Nat) (edge : Port) (place : Nat)
  /-- from a harbour into the core -/
  | inward (harbour island place : Nat)
  /-- from the core to a harbour -/
  | outward (island harbour place : Nat)
  | crossbar (island : Nat)
  /-- the harbours passed on the strait ring -/
  | ring (harbours : List Nat)
  deriving DecidableEq, Repr

/-- Where a route's tokens come from (R86, R96 step 2). -/
inductive Source where
  | shoal (shoal position : Nat)
  | tile (t : TileId) (port : Port)
  | ferry (lane : Nat)
  deriving DecidableEq, Repr

/-- Where a route ends: a tile's input port, a quench input, or a transmit ferry lane. -/
inductive Dest where
  | port (t : TileId) (port : Port)
  | quench (input : Nat)
  | ferry (lane : Nat)
  deriving DecidableEq, Repr

/-- One route of a forging's placement. -/
structure Link where
  src : Source
  dst : Dest
  path : List PathEl
  deriving DecidableEq, Repr

/-- A history declaration (R107, R150): base working word, entry width, depth, prime value of every word of an entry. -/
structure History where
  h : Nat
  base : Nat
  width : Nat
  depth : Nat
  prime : List Word256
  deriving DecidableEq, Repr

/-- One tile of a forging's placement, program and constants. -/
structure TilePlan where
  tile : TileId
  trigger : Port
  program : List Word64
  formats : List (Port × Nat)
  drawId : Nat
  workBytes : Nat
  constants : List (Nat × Word256)
  histories : List History
  deriving DecidableEq, Repr

/-- A window as a WINDOWS section or the objects give it (R159). -/
structure Window where
  opens : Time96
  closes : Time96
  ctrl : Nat
  deriving DecidableEq, Repr

/-- A reference shoal or shoal group of a forging (R158). -/
inductive Ref where
  | shoal (s : Nat)
  | group (g : Nat)
  deriving DecidableEq, Repr

/-- A contributing harbour on another wafer (R167): the beat's share there and its partition. -/
structure RemotePart where
  share : Nat
  g0 : Nat
  gPlus : Nat
  cap0 : Nat
  capPlus : Nat
  deriving DecidableEq, Repr

/-- Everything an image says of one forging (Table 15.7). -/
structure ForgingPlan where
  forging : Nat
  target : Nat
  minPeriod : Nat
  home : Nat
  cls : Nat
  refs : List Ref
  windows : List Window
  inputs : List Nat
  tiles : List TilePlan
  links : List Link
  /-- declared formats of input ports that no tile plan declares: those of pass-throughs (R89, R130) -/
  portFormats : List ((TileId × Port) × Nat)
  remote : List RemotePart
  /-- where the program part lies in the image store: harbour, first byte in the image's half of its stack, bytes (R345) -/
  stored : List (Nat × Nat × Nat) := []
  deriving DecidableEq, Repr

/-- A shoal's declaration (R59 to R65): lanes with positions, width, format descriptor, marker period, group, and the
release offset of each token of each position. -/
structure ShoalPlan where
  shoal : Nat
  lanes : List (Nat × Nat)
  width : Nat
  format : Nat
  marker : Nat
  group : Nat
  release : List (Nat × List Nat)
  forgings : List Nat
  deriving DecidableEq, Repr

/-- One direction of a ferry of a FERRIES section (R21, R99): its lane, the direction, the ferry's other lane at this wafer,
slot offsets, sounding slot, forging, declared format, and the sequence that the token of each slot carries. -/
structure FerryPlan where
  lane : Nat
  transmit : Bool
  mate : Nat
  slots : List Nat
  soundSlot : Nat
  forging : Nat
  format : Nat
  seqs : List Nat
  deriving DecidableEq, Repr

/-- A partition entry (R165). -/
structure PartPlan where
  harbour : Nat
  forging : Nat
  g0 : Nat
  gPlus : Nat
  cap0 : Nat
  capPlus : Nat
  deriving DecidableEq, Repr

/-- The reading of an image's sections. -/
structure ImagePlan where
  debug : Bool
  forgings : List ForgingPlan
  shoals : List ShoalPlan
  parts : List PartPlan
  ferries : List FerryPlan
  deriving DecidableEq, Repr

end Sys2Proof.Machine
end

