-- ==== Sys2Proof/Config.lean ====
section
/-! DEFINITION. What the manual leaves to an implementation or to Caertur, and the free values: constants with no body,
so that nothing can be proved of their values. -/

namespace Sys2Proof.Config

/-- A fresh undefined value of `w` bits; applied to State.free, which the step advances (notes/assumptions/6.md). -/
opaque freeBits (w : Nat) : Nat → BitVec w

/-- Tlale's image reference: what the sections of an image say, none where they do not follow it (R343, R346). -/
opaque tlaleReading (image : List Byte) : Option Machine.ImagePlan

/-- The ECDSA P-384 check of an image signature under one of the keys fused into the wafer (R346): key index, the signed
hash, r then s. The keys are not in the manual. -/
opaque signatureValid (key : Nat) (hash sig : List Byte) : Bool

/-- Whether an image key index is revoked in the fuses (R346). -/
opaque keyRevoked (key : Nat) : Bool

/-- The ECDSA P-384 check of a patch signature under one of the keys in a harbour's fuses (R258): harbour, key index, the
signed hash, r then s. -/
opaque patchSigned (harbour key : Nat) (hash sig : List Byte) : Bool

/-- Whether a patch key index is revoked in a harbour's fuses (R258). -/
opaque patchRevoked (harbour key : Nat) : Bool

/-- Whether the GCM tag of a patch container is valid under the key in a harbour's fuses (R258). -/
opaque patchTagged (harbour : Nat) (container : List Byte) : Bool

/-- The AES-256-GCM plaintext of a patch container under the key it was made with (R257). -/
opaque patchPlaintext (container : List Byte) : List Byte

/-- Whether the ROM word at a micro address has COMMIT set (R246, R258). -/
opaque romCommits (stepping addr : Nat) : Bool

/-- The dispatch table entry of an opcode in the ROM of a stepping: engine mask and entry address (R248). -/
opaque dispatchEntry (stepping opcode : Nat) : BitVec 16

/-- The ROM entry of the routine that refuses a command whose engine bit is 0 (R248). -/
opaque refusalEntry (stepping : Nat) : BitVec 11

/-- The signatures the ROM holds for a stepping (R386): stepping, fabric-only, harbour, memory kind. -/
opaque bistSignature (stepping : Nat) (fabricOnly harbour memory : Bool) : BitVec 64

/-- Whether the stepping defines a nano-word's ALU code (R247). -/
opaque aluDefined (stepping : Nat) (code : Nat) : Bool

/-- What the stepping's ALU computes (R247). -/
opaque aluResult (stepping : Nat) (code : Nat) (a b : BitVec 64) : BitVec 64

/-- The condition flags Z, N, C, UNIT_DONE that an ALU operation forms (R247). -/
opaque aluFlags (stepping : Nat) (code : Nat) (a b : BitVec 64) : BitVec 4

/-- What a unit answers to a bus operation whose effect the manual leaves to the unit (R247), by unit, operation,
address and a fresh number. -/
opaque busAnswer (unit op : Nat) (addr : BitVec 64) (n : Nat) : BitVec 64

/-- What a K register takes of a line or half-line that a bus read brings (R247): operation, address, line. -/
opaque busTake (op : Nat) (addr : BitVec 64) (line : BitVec 512) : BitVec 64

/-- The bytes that a bus write of a K register puts into a line or half-line (R247): operation, address, register. -/
opaque busPut (op : Nat) (addr data : BitVec 64) : BitVec 512

/-- Words 2 and 4 of the identity object 0x1018: product and serial numbers (Table 12.6). -/
opaque identityWord (k : Nat) : BitVec 32

/-- The identification code of the wafer TAP (R409). -/
opaque idcode : BitVec 32

end Sys2Proof.Config
end

