-- ==== Sys2Proof/Machine/Bits.lean ====
section
/-! DEFINITION. Bit fields, byte order, and sparse tables keyed by a number: the helpers that every family uses. -/

namespace Sys2Proof.Machine

/-- Field [lo + n - 1 : lo] of a number (R4: bit 0 is least significant). -/
def field (x lo n : Nat) : Nat := (x >>> lo) % 2 ^ n

/-- Bit `i` of a number. -/
def bit (x i : Nat) : Bool := x.testBit i

/-- A Boolean as the number 0 or 1 (R263, BOOLEAN). -/
def ofBool (b : Bool) : Nat := if b then 1 else 0

/-- `x` read as an n-bit two's complement integer. -/
def signed (n x : Nat) : Int :=
  let y := x % 2 ^ n
  if y < 2 ^ (n - 1) then (y : Int) else (y : Int) - (2 ^ n : Nat)

/-- The n-bit two's complement code of an integer. -/
def toCode (n : Nat) (x : Int) : Nat := (x % ((2 ^ n : Nat) : Int)).toNat

/-- The `n` bytes of a number, least significant first (R263). -/
def leBytes : Nat → Nat → List Byte
  | 0, _ => []
  | n + 1, x => BitVec.ofNat 8 x :: leBytes n (x / 256)

/-- The number whose bytes, least significant first, are given (R263). -/
def leNat : List Byte → Nat
  | [] => 0
  | b :: bs => b.toNat + 256 * leNat bs

/-- The number whose bytes, most significant first, are given. -/
def beNat (bs : List Byte) : Nat := bs.foldl (fun a b => a * 256 + b.toNat) 0

/-- The `n` bytes of a number, most significant first. -/
def beBytes (n x : Nat) : List Byte := (leBytes n x).reverse

/-- `n` copies of the byte 0. -/
def zeros (n : Nat) : List Byte := List.replicate n 0#8

/-- Bytes `[off, off + n)` of a byte string, 0 beyond its end. -/
def slice (bs : List Byte) (off n : Nat) : List Byte :=
  let t := (bs.drop off).take n
  t ++ zeros (n - t.length)

/-- The little-endian number of `n` bytes at `off`. -/
def leAt (bs : List Byte) (off n : Nat) : Nat := leNat (slice bs off n)

/-- Entry `k` of a sparse table, `d` where the table lists none. -/
def tabGet {α : Type} (d : α) : List (Nat × α) → Nat → α
  | [], _ => d
  | (k', v) :: t, k => if k' = k then v else tabGet d t k

/-- The table with entry `k` set to `v`; keys stay rising. -/
def tabSet {α : Type} : List (Nat × α) → Nat → α → List (Nat × α)
  | [], k, v => [(k, v)]
  | (k', v') :: t, k, v =>
    if k < k' then (k, v) :: (k', v') :: t
    else if k' = k then (k, v) :: t
    else (k', v') :: tabSet t k v

/-- The table with entry `k` changed by `f`, from `d` where it lists none. -/
def tabMod {α : Type} (d : α) (t : List (Nat × α)) (k : Nat) (f : α → α) : List (Nat × α) :=
  tabSet t k (f (tabGet d t k))

/-- The table without entry `k`. -/
def tabDel {α : Type} (t : List (Nat × α)) (k : Nat) : List (Nat × α) := t.filter fun e => e.1 != k

/-- The table with every listed entry changed by `f`. -/
def tabMap {α : Type} (f : Nat → α → α) (t : List (Nat × α)) : List (Nat × α) := t.map fun e => (e.1, f e.1 e.2)

/-- A store of `w`-bit cells by address, sorted by address, no cell equal to 0. -/
abbrev Store (w : Nat) := List (Nat × BitVec w)

/-- What a store reads at an address: 0 where nothing is listed (R208, R211, R397). -/
def storeGet {w : Nat} (m : Store w) (a : Nat) : BitVec w := tabGet 0#w m a

/-- The store with one cell written. Writing 0 removes the entry, so that equal stores are equal lists. -/
def storeSet {w : Nat} : Store w → Nat → BitVec w → Store w
  | [], a, v => if v = 0#w then [] else [(a, v)]
  | (a', v') :: t, a, v =>
    if a < a' then (if v = 0#w then (a', v') :: t else (a, v) :: (a', v') :: t)
    else if a' = a then (if v = 0#w then t else (a, v) :: t)
    else (a', v') :: storeSet t a v

/-- The canonical form of a store: addresses strictly rising, no cell equal to 0. -/
def storeWf {w : Nat} : Store w → Bool
  | [] => true
  | [(_, v)] => v != 0#w
  | (a, v) :: (a', v') :: t => decide (a < a') && v != 0#w && storeWf ((a', v') :: t)

/-- `n` consecutive cells from address `a`. -/
def storeRead {w : Nat} (m : Store w) (a : Nat) : Nat → List (BitVec w)
  | 0 => []
  | n + 1 => storeGet m a :: storeRead m (a + 1) n

/-- Consecutive cells written from address `a`. -/
def storeWrite {w : Nat} (m : Store w) (a : Nat) : List (BitVec w) → Store w
  | [] => m
  | v :: vs => storeWrite (storeSet m a v) (a + 1) vs

/-- The store without the cells of `[lo, hi)`: they read 0. -/
def storeClear {w : Nat} (m : Store w) (lo hi : Nat) : Store w := m.filter fun e => e.1 < lo || hi ≤ e.1

/-- Replaces element `i` of a list; the list is unchanged when it has no such element. -/
def listSet {α : Type} (l : List α) (i : Nat) (v : α) : List α := l.set i v

/-- Element `i` of a list, `d` beyond its end. -/
def listGet {α : Type} (d : α) (l : List α) (i : Nat) : α := l.getD i d

/-- Changes element `i` of a list. -/
def listMod {α : Type} (l : List α) (i : Nat) (f : α → α) : List α := l.modify i f

/-- Ceiling of a / b. -/
def ceilDiv (a b : Nat) : Nat := (a + b - 1) / b

/-- The signed difference of two numbers modulo 2^n, as beats and seconds are compared (R29, R37). -/
def modDiff (n a b : Nat) : Int := signed n ((a + 2 ^ n - b % 2 ^ n) % 2 ^ n)

end Sys2Proof.Machine
end

