-- ==== Sys2Proof/Machine/Crypto.lean ====
section
/-! DEFINITION. CRC-16 (R57), CRC-32C (R277), SHA-384 (R343, R359) and AES-128 (R359, FIPS 197). The constants are those
of the published standards the manual names. -/

namespace Sys2Proof.Machine

/-- One step of CRC-16, polynomial 0x1021, on one bit (R57). -/
def crc16Bit (c : Nat) (b : Bool) : Nat :=
  let top := c.testBit 15 != b
  let c' := (c * 2) % 2 ^ 16
  if top then c' ^^^ 0x1021 else c'

/-- CRC-16 over the `n` low bits of `x`, most significant first. -/
def crc16Bits (c x : Nat) : Nat → Nat
  | 0 => c
  | n + 1 => crc16Bits (crc16Bit c (x.testBit n)) x n

/-- CRC-16 of a list of 64-bit words in order of arrival (R57): initial value 0xFFFF. -/
def crc16 (ws : List Nat) : Nat := ws.foldl (fun c w => crc16Bits c w 64) 0xFFFF

/-- One step of the reflected CRC-32C register (R277). -/
def crc32cStep : Nat → Nat → Nat
  | 0, c => c
  | n + 1, c => crc32cStep n (if c % 2 = 1 then (c / 2) ^^^ 0x82F63B78 else c / 2)

/-- CRC-32C of a byte string: Castagnoli, reflected, initial value 0xFFFF_FFFF, final inversion (R277). -/
def crc32c (bs : List Byte) : Nat :=
  (bs.foldl (fun c b => crc32cStep 8 (c ^^^ b.toNat)) 0xFFFFFFFF) ^^^ 0xFFFFFFFF

/-- Round constants of SHA-384, eight 64-bit words to a row. -/
def shaK : Nat → Nat
  | 0 => 0xab1c5ed5da6d8118923f82a4af194f9b59f111f1b605d0193956c25bf348b538e9b5dba58189dbbcb5c0fbcfec4d3b2f7137449123ef65cd428a2f98d728ae22
  | 1 => 0xc19bf174cf6926949bdc06a725c7123580deb1fe3b1696b172be5d74f27b896f550c7dc3d5ffb4e2243185be4ee4b28c12835b0145706fbed807aa98a3030242
  | 2 => 0x76f988da831153b55cb0a9dcbd41fbd44a7484aa6ea6e4832de92c6f592b0275240ca1cc77ac9c650fc19dc68b8cd5b5efbe4786384f25e3e49b69c19ef14ad2
  | 3 => 0x142929670a0e6e7006ca6351e003826fd5a79147930aa725c6e00bf33da88fc2bf597fc7beef0ee4b00327c898fb213fa831c66d2db43210983e5152ee66dfab
  | 4 => 0x92722c851482353b81c2c92e47edaee6766a0abb3c77b2a8650a73548baf63de53380d139d95b3df4d2c6dfc5ac42aed2e1b21385c26c92627b70a8546d22ffc
  | 5 => 0x106aa07032bbd1b8f40e35855771202ad69906245565a910d192e819d6ef5218c76c51a30654be30c24b8b70d0f89791a81a664bbc423001a2bfe8a14cf10364
  | 6 => 0x682e6ff3d6b2b8a35b9cca4f7763e3734ed8aa4ae3418acb391c0cb3c5c95a6334b0bcb5e19b48a82748774cdf8eeb991e376c085141ab5319a4c116b8d2d0c8
  | 7 => 0xc67178f2e372532bbef9a3f7b2c67915a4506cebde82bde990befffa23631e288cc702081a6439ec84c87814a1f0ab7278a5636f43172f60748f82ee5defb2fc
  | 8 => 0x1b710b35131c471b113f9804bef90dae0a637dc5a2c898a606f067aa72176fbaf57d4f7fee6ed178eada7dd6cde0eb1ed186b8c721c0c207ca273eceea26619c
  | _ => 0x6c44198c4a4758175fcb6fab3ad6faec597f299cfc657e2a4cc5d4becb3e42b6431d67c49c100d4c3c9ebe0a15c9bebc32caab7b40c7249328db77f523047d84

/-- Initial hash value of SHA-384. -/
def shaInit : List Nat := [0xcbbb9d5dc1059ed8, 0x629a292a367cd507, 0x9159015a3070dd17, 0x152fecd8f70e5939, 0x67332667ffc00b31, 0x8eb44a8768581511, 0xdb0c2e0d64f98fa7, 0x47b5481dbefa4fa4]

/-- Rotates a 64-bit word right. -/
def rotr64 (x n : Nat) : Nat := (x >>> n) ||| ((x <<< (64 - n)) % 2 ^ 64)

/-- Extends the message schedule to 80 words, kept newest first. -/
def shaSchedule : Nat → List Nat → List Nat
  | 0, w => w
  | n + 1, w =>
    let w2 := w.getD 1 0
    let w15 := w.getD 14 0
    let s1 := rotr64 w2 19 ^^^ rotr64 w2 61 ^^^ (w2 >>> 6)
    let s0 := rotr64 w15 1 ^^^ rotr64 w15 8 ^^^ (w15 >>> 7)
    shaSchedule n ((w.getD 15 0 + s0 + w.getD 6 0 + s1) % 2 ^ 64 :: w)

/-- One round of SHA-384 on its eight working words. -/
def shaRound (v : List Nat) (kw : Nat) : List Nat :=
  match v with
  | [a, b, c, d, e, f, g, h] =>
    let s1 := rotr64 e 14 ^^^ rotr64 e 18 ^^^ rotr64 e 41
    let ch := (e &&& f) ^^^ ((2 ^ 64 - 1 - e) &&& g)
    let t1 := (h + s1 + ch + kw) % 2 ^ 64
    let s0 := rotr64 a 28 ^^^ rotr64 a 34 ^^^ rotr64 a 39
    let maj := (a &&& b) ^^^ (a &&& c) ^^^ (b &&& c)
    [(t1 + s0 + maj) % 2 ^ 64, a, b, c, (d + t1) % 2 ^ 64, e, f, g]
  | _ => v

/-- The rounds over a schedule, oldest word first, round number counted from `i`. -/
def shaRounds (v : List Nat) (i : Nat) : List Nat → List Nat
  | [] => v
  | w :: ws => shaRounds (shaRound v ((shaK (i / 8) >>> (64 * (i % 8))) % 2 ^ 64 + w)) (i + 1) ws

/-- One 128-byte block. -/
def shaBlock (h : List Nat) (block : List Byte) : List Nat :=
  let w := (List.range 16).map fun i => beNat (slice block (8 * i) 8)
  let v := shaRounds h 0 (shaSchedule 64 w.reverse).reverse
  List.zipWith (fun a b => (a + b) % 2 ^ 64) h v

/-- The blocks of a padded message, `n` of them. -/
def shaBlocks (h : List Nat) (bs : List Byte) : Nat → List Nat
  | 0 => h
  | n + 1 => shaBlocks (shaBlock h (bs.take 128)) (bs.drop 128) n

/-- SHA-384 of a byte string, 48 bytes. -/
def sha384 (bs : List Byte) : List Byte :=
  let n := bs.length
  let k := (n + 17 + 127) / 128
  let padded := bs ++ [0x80#8] ++ zeros (128 * k - n - 17) ++ beBytes 16 (8 * n)
  ((shaBlocks shaInit padded k).take 6).flatMap (beBytes 8)

/-- The AES S-box, 32 bytes to a row. -/
def aesSboxRow : Nat → Nat
  | 0 => 0xc072a49cafa2d4adf04759fa7dc982ca76abd7fe2b670130c56f6bf27b777c63
  | 1 => 0x75b227ebe28012079a059618c323c7041531d871f1e5a534ccf73f362693fdb7
  | 2 => 0xcf584c4a39becb6a5bb1fc20ed00d153842fe329b3d63b52a05a6e1b1a2c8309
  | 3 => 0xd2f3ff1021dab6bcf5389d928f40a351a89f3c507f02f94585334d43fbaaefd0
  | 4 => 0xdb0b5ede14b8ee4688902a22dc4f816073195d643d7ea7c41744975fec130ccd
  | 5 => 0x8ae7a65eaf4566ca94ed58d6d37c8e779e4959162acd3c25c2406490a3a32e0
  | 6 => 0x9e1dc186b95735610ef6034866b53e708a8bbd4b1f74dde8c6b4a61c2e2578ba
  | _ => 0x16bb54b00f2d99416842e6bf0d89a18cdf2855cee9871e9b948ed9691198f8e1

/-- One S-box lookup. -/
def aesSub (b : Nat) : Nat := (aesSboxRow (b / 32) >>> (8 * (b % 32))) % 256

/-- Doubling in GF(2^8). -/
def aesDouble (b : Nat) : Nat := if b ≥ 128 then (2 * b - 256) ^^^ 0x1B else 2 * b

/-- One column of MixColumns. -/
def aesMixColumn (c : List Nat) : List Nat :=
  match c with
  | [a, b, c, d] =>
    let t := a ^^^ b ^^^ c ^^^ d
    [a ^^^ t ^^^ aesDouble (a ^^^ b), b ^^^ t ^^^ aesDouble (b ^^^ c), c ^^^ t ^^^ aesDouble (c ^^^ d),
     d ^^^ t ^^^ aesDouble (d ^^^ a)]
  | c => c

/-- SubBytes and ShiftRows on the 16 bytes, column by column. -/
def aesSubShift (s : List Nat) : List Nat :=
  [0, 5, 10, 15, 4, 9, 14, 3, 8, 13, 2, 7, 12, 1, 6, 11].map fun i => aesSub (s.getD i 0)

/-- MixColumns on the 16 bytes. -/
def aesMix (s : List Nat) : List Nat :=
  aesMixColumn (s.take 4) ++ aesMixColumn ((s.drop 4).take 4) ++ aesMixColumn ((s.drop 8).take 4) ++
    aesMixColumn ((s.drop 12).take 4)

/-- The next round key, with the round constant. -/
def aesNextKey (k : List Nat) (rcon : Nat) : List Nat :=
  let x := List.zipWith (· ^^^ ·)
  let t := [13, 14, 15, 12].map fun i => aesSub (k.getD i 0)
  let w0 := x (k.take 4) (x t [rcon, 0, 0, 0])
  let w1 := x w0 ((k.drop 4).take 4)
  let w2 := x w1 ((k.drop 8).take 4)
  let w3 := x w2 ((k.drop 12).take 4)
  w0 ++ w1 ++ w2 ++ w3

/-- The rounds of AES-128 that are left: the last has no MixColumns. -/
def aesRounds (s k : List Nat) (rcon : Nat) : Nat → List Nat
  | 0 => s
  | n + 1 =>
    let k' := aesNextKey k rcon
    let t := aesSubShift s
    aesRounds (List.zipWith (· ^^^ ·) (if n = 0 then t else aesMix t) k') k' (aesDouble rcon) n

/-- AES-128 of one 16-byte block (R359): bits [127:120] are byte 0. -/
def aes128 (key block : List Byte) : List Byte :=
  let k := key.map BitVec.toNat
  (aesRounds (List.zipWith (· ^^^ ·) (block.map BitVec.toNat) k) k 1 10).map (BitVec.ofNat 8)

end Sys2Proof.Machine
end

