-- ==== Sys2Proof/Machine/Objects.lean ====
section
/-! DEFINITION. The object dictionary's registers by name, and the table of every object: type, access and range
(R261 to R264; Tables 2.6, 2.9, 3.10, 4.8, 6.5, 6.8, 7.8, 8.7, 9.7, 11.8, 12.6 to 12.14, 13.10). -/

namespace Sys2Proof.Machine

/-- A register of the dictionary: its index (the first of a run of units), its subindex and its default (R267). -/
structure Reg where
  base : Nat
  sub : Nat
  dflt : Nat
  deriving DecidableEq, Repr

/-- The key of a register of unit `n`: index and subindex (R261). -/
def Reg.key (r : Reg) (n : Nat) : Nat := (r.base + n) * 256 + r.sub

/-- Entry `k` of a run of subindices. -/
def Reg.at (r : Reg) (k : Nat) : Reg := { r with sub := r.sub + k }

/-- The types of Table 12.1. A DOMAIN gives its greatest size and whether the size is fixed. -/
inductive ObjType where
  | boolean
  | unsigned (bytes : Nat)
  | integer (bytes : Nat)
  | visible (max : Nat)
  | time96
  | domain (max : Nat) (fixed : Bool)
  deriving DecidableEq, Repr

/-- The access rights of Table 12.2; `live` is ro read live (R270). -/
inductive Access where
  | const | ro | wo | rw | rwHeld | live
  deriving DecidableEq, Repr

/-- The valid values of an object's row (R266). -/
inductive Check where
  | any
  | range (lo hi : Nat)
  | mask (m : Nat)
  | multiple (k lo hi : Nat)
  | time
  | prbs
  | inject
  | pdoType
  deriving DecidableEq, Repr

/-- One row of the table: a register, how many units it has, how many subindices run from it, type, access, valid values. -/
structure ObjRow where
  reg : Reg
  units : Nat
  subs : Nat
  type : ObjType
  access : Access
  check : Check
  deriving DecidableEq, Repr

namespace Reg
def deviceType : Reg := ⟨0x1000, 0x00, 0⟩
def errorRegister : Reg := ⟨0x1001, 0x00, 0⟩
def errorField : Reg := ⟨0x1003, 0x01, 0⟩
def cobSync : Reg := ⟨0x1005, 0x00, 0x80⟩
def deviceName : Reg := ⟨0x1008, 0x00, 0⟩
def hardwareVersion : Reg := ⟨0x1009, 0x00, 0⟩
def softwareVersion : Reg := ⟨0x100A, 0x00, 0⟩
def cobEmcy : Reg := ⟨0x1014, 0x00, 0x80⟩
def heartbeatTime : Reg := ⟨0x1017, 0x00, 1000⟩
def identity : Reg := ⟨0x1018, 0x01, 0⟩
def rpdoCob : Reg := ⟨0x1400, 0x01, 0x80000000⟩
def rpdoType : Reg := ⟨0x1400, 0x02, 255⟩
def rpdoMapCount : Reg := ⟨0x1600, 0x00, 0⟩
def rpdoMap : Reg := ⟨0x1600, 0x01, 0⟩
def tpdoCob : Reg := ⟨0x1800, 0x01, 0x80000000⟩
def tpdoType : Reg := ⟨0x1800, 0x02, 255⟩
def tpdoInhibit : Reg := ⟨0x1800, 0x03, 0⟩
def tpdoEvent : Reg := ⟨0x1800, 0x05, 0⟩
def tpdoMapCount : Reg := ⟨0x1A00, 0x00, 0⟩
def tpdoMap : Reg := ⟨0x1A00, 0x01, 0⟩
def idVendor : Reg := ⟨0x2000, 0x01, 0xC7A⟩
def idProduct : Reg := ⟨0x2000, 0x02, 0⟩
def idGrade : Reg := ⟨0x2000, 0x03, 0⟩
def idStepping : Reg := ⟨0x2000, 0x04, 0⟩
def idSerial : Reg := ⟨0x2000, 0x05, 0⟩
def idCarrierRev : Reg := ⟨0x2000, 0x06, 0⟩
def idVirrinVersion : Reg := ⟨0x2000, 0x07, 0⟩
def idState : Reg := ⟨0x2001, 0x01, 0⟩
def idCommand : Reg := ⟨0x2001, 0x02, 0⟩
def idStateReason : Reg := ⟨0x2001, 0x03, 0⟩
def idStateGen : Reg := ⟨0x2001, 0x04, 0⟩
def odDomainIdle : Reg := ⟨0x2003, 0x01, 10000⟩
def odSnapshotExpired : Reg := ⟨0x2003, 0x02, 0⟩
def odWritesRefused : Reg := ⟨0x2003, 0x03, 0⟩
def odGen : Reg := ⟨0x2003, 0x04, 0⟩
def canNodeId : Reg := ⟨0x2004, 0x01, 0⟩
def canDataRate : Reg := ⟨0x2004, 0x02, 2⟩
def canState : Reg := ⟨0x2004, 0x03, 0⟩
def canBusoff : Reg := ⟨0x2004, 0x04, 0⟩
def canNmtIgnored : Reg := ⟨0x2004, 0x05, 0⟩
def canRpdoRefused : Reg := ⟨0x2004, 0x06, 0⟩
def canEmcyLost : Reg := ⟨0x2004, 0x07, 0⟩
def canGen : Reg := ⟨0x2004, 0x08, 0⟩
def ethEnable : Reg := ⟨0x2005, 0x01, 1⟩
def ethFec : Reg := ⟨0x2005, 0x02, 1⟩
def ethMac : Reg := ⟨0x2005, 0x03, 0⟩
def ethIpv4 : Reg := ⟨0x2005, 0x04, 0⟩
def ethIpv4Prefix : Reg := ⟨0x2005, 0x05, 24⟩
def ethIpv6 : Reg := ⟨0x2005, 0x06, 0⟩
def ethLink : Reg := ⟨0x2005, 0x07, 0⟩
def ethRxDropped : Reg := ⟨0x2005, 0x08, 0⟩
def ethCrcErrors : Reg := ⟨0x2005, 0x09, 0⟩
def ethGen : Reg := ⟨0x2005, 0x0A, 0⟩
def uartBaud : Reg := ⟨0x2007, 0x01, 115200⟩
def uartFormat : Reg := ⟨0x2007, 0x02, 0⟩
def uartFraming : Reg := ⟨0x2007, 0x03, 0⟩
def uartParity : Reg := ⟨0x2007, 0x04, 0⟩
def uartBreaks : Reg := ⟨0x2007, 0x05, 0⟩
def uartGen : Reg := ⟨0x2007, 0x06, 0⟩
def imgDomain : Reg := ⟨0x2100, 0x01, 0⟩
def imgState : Reg := ⟨0x2100, 0x02, 0⟩
def imgReason : Reg := ⟨0x2100, 0x03, 0⟩
def imgHash : Reg := ⟨0x2100, 0x04, 0⟩
def imgSigned : Reg := ⟨0x2100, 0x05, 0⟩
def imgRequireSig : Reg := ⟨0x2100, 0x06, 0⟩
def imgGen : Reg := ⟨0x2100, 0x07, 0⟩
def imgShadow : Reg := ⟨0x2101, 0x01, 0⟩
def imgShadowLoad : Reg := ⟨0x2101, 0x02, 0⟩
def imgShadowState : Reg := ⟨0x2101, 0x03, 0⟩
def imgShadowGen : Reg := ⟨0x2101, 0x04, 0⟩
def timeState : Reg := ⟨0x2200, 0x01, 0⟩
def timeServoMode : Reg := ⟨0x2200, 0x02, 0⟩
def timeGuardNs : Reg := ⟨0x2200, 0x03, 1000⟩
def timeSlewMaxPpb : Reg := ⟨0x2200, 0x04, 100000⟩
def timeGuardLimit : Reg := ⟨0x2200, 0x05, 8⟩
def timeGuardRefused : Reg := ⟨0x2200, 0x06, 0⟩
def timeRelockCount : Reg := ⟨0x2200, 0x07, 8⟩
def timeHoldoverReason : Reg := ⟨0x2200, 0x08, 0⟩
def timeStateFlags : Reg := ⟨0x2200, 0x09, 0⟩
def timeOffset : Reg := ⟨0x2200, 0x0A, 0⟩
def timeUtcOffset : Reg := ⟨0x2200, 0x0B, 0⟩
def timeLastStep : Reg := ⟨0x2200, 0x0C, 0⟩
def timeLastStepBeat : Reg := ⟨0x2200, 0x0D, 0⟩
def timeNow : Reg := ⟨0x2201, 0x00, 0⟩
def ptpEnable : Reg := ⟨0x2202, 0x01, 1⟩
def ptpPort : Reg := ⟨0x2202, 0x02, 0⟩
def ptpRole : Reg := ⟨0x2202, 0x03, 0⟩
def ptpDelay : Reg := ⟨0x2202, 0x04, 0⟩
def ptpMapping : Reg := ⟨0x2202, 0x05, 0⟩
def ptpDomain : Reg := ⟨0x2202, 0x06, 0⟩
def ptpPriority1 : Reg := ⟨0x2202, 0x07, 128⟩
def ptpPriority2 : Reg := ⟨0x2202, 0x08, 128⟩
def ptpRxLat : Reg := ⟨0x2202, 0x09, 0⟩
def ptpTxLat : Reg := ⟨0x2202, 0x0A, 0⟩
def actKind : Reg := ⟨0x2210, 0x01, 0⟩
def actMode : Reg := ⟨0x2210, 0x02, 0⟩
def actTime : Reg := ⟨0x2210, 0x03, 0⟩
def actBeat : Reg := ⟨0x2210, 0x04, 0⟩
def actArg : Reg := ⟨0x2210, 0x05, 0⟩
def actCommit : Reg := ⟨0x2210, 0x06, 0⟩
def actStatus : Reg := ⟨0x2210, 0x07, 0⟩
def actReason : Reg := ⟨0x2210, 0x08, 0⟩
def actNote : Reg := ⟨0x2210, 0x09, 0⟩
def actDoneBeat : Reg := ⟨0x2210, 0x0A, 0⟩
def actDoneTime : Reg := ⟨0x2210, 0x0B, 0⟩
def actGen : Reg := ⟨0x2210, 0x0C, 0⟩
def silEnable : Reg := ⟨0x2300, 0x01, 1⟩
def silSlot : Reg := ⟨0x2300, 0x02, 2⟩
def silCycle : Reg := ⟨0x2300, 0x03, 1024⟩
def silState : Reg := ⟨0x2300, 0x04, 0⟩
def silReenable : Reg := ⟨0x2300, 0x05, 0⟩
def silSkew : Reg := ⟨0x2300, 0x06, 0⟩
def silCollided : Reg := ⟨0x2300, 0x07, 0⟩
def silCrcErrors : Reg := ⟨0x2300, 0x08, 0⟩
def silAbsentMask : Reg := ⟨0x2300, 0x09, 0⟩
def silGen : Reg := ⟨0x2300, 0x0A, 0⟩
def hearthState : Reg := ⟨0x2400, 0x01, 0⟩
def beatPeriod : Reg := ⟨0x2401, 0x01, 1600⟩
def beatSource : Reg := ⟨0x2401, 0x02, 0⟩
def beatStart : Reg := ⟨0x2401, 0x03, 0⟩
def beatNumber : Reg := ⟨0x2401, 0x04, 0⟩
def beatMismatch : Reg := ⟨0x2401, 0x05, 0⟩
def beatGen : Reg := ⟨0x2401, 0x06, 0⟩
def laneEnable : Reg := ⟨0x2800, 0x01, 0⟩
def laneRate : Reg := ⟨0x2800, 0x02, 2⟩
def laneFec : Reg := ⟨0x2800, 0x03, 0⟩
def laneRole : Reg := ⟨0x2800, 0x04, 0⟩
def laneShoal : Reg := ⟨0x2800, 0x05, 0xFFFF⟩
def lanePosition : Reg := ⟨0x2800, 0x06, 0⟩
def laneState : Reg := ⟨0x2800, 0x07, 0⟩
def laneStampOffset : Reg := ⟨0x2800, 0x08, 0⟩
def laneUnderruns : Reg := ⟨0x2800, 0x09, 0⟩
def laneShortBeats : Reg := ⟨0x2800, 0x0A, 0⟩
def laneOverruns : Reg := ⟨0x2800, 0x0B, 0⟩
def laneCrcErrors : Reg := ⟨0x2800, 0x0C, 0⟩
def laneBlockErrors : Reg := ⟨0x2800, 0x0D, 0⟩
def laneFecUncorr : Reg := ⟨0x2800, 0x0E, 0⟩
def laneFerryDrops : Reg := ⟨0x2800, 0x0F, 0⟩
def laneTruncWords : Reg := ⟨0x2800, 0x10, 0⟩
def laneFecCorrected : Reg := ⟨0x2800, 0x11, 0⟩
def lanePrbsPoly : Reg := ⟨0x2800, 0x12, 0x84⟩
def lanePrbsLock : Reg := ⟨0x2800, 0x13, 0⟩
def lanePrbsBits : Reg := ⟨0x2800, 0x14, 0⟩
def lanePrbsErrors : Reg := ⟨0x2800, 0x15, 0⟩
def laneInjectMode : Reg := ⟨0x2800, 0x16, 0⟩
def laneInjectPeriod : Reg := ⟨0x2800, 0x17, 20⟩
def laneInjectFire : Reg := ⟨0x2800, 0x18, 0⟩
def laneGen : Reg := ⟨0x2800, 0x19, 0⟩
def shoalEnabled : Reg := ⟨0x2C00, 0x01, 0⟩
def shoalFormat : Reg := ⟨0x2C00, 0x02, 0⟩
def shoalWidth : Reg := ⟨0x2C00, 0x03, 0⟩
def shoalMarkerPeriod : Reg := ⟨0x2C00, 0x04, 0⟩
def shoalGroup : Reg := ⟨0x2C00, 0x05, 0⟩
def shoalVerifyCount : Reg := ⟨0x2C00, 0x06, 2⟩
def shoalStampUnc : Reg := ⟨0x2C00, 0x07, 320⟩
def shoalDegradedBeats : Reg := ⟨0x2C00, 0x08, 0⟩
def shoalOverfullBeats : Reg := ⟨0x2C00, 0x09, 0⟩
def shoalGen : Reg := ⟨0x2C00, 0x0A, 0⟩
def xlaneEnable : Reg := ⟨0x2D00, 0x01, 0⟩
def xlaneRate : Reg := ⟨0x2D00, 0x02, 2⟩
def xlaneFec : Reg := ⟨0x2D00, 0x03, 0⟩
def xlaneRole : Reg := ⟨0x2D00, 0x04, 0⟩
def xlanePrbsPoly : Reg := ⟨0x2D00, 0x05, 0x84⟩
def xlaneInjectMode : Reg := ⟨0x2D00, 0x06, 0⟩
def xlaneInjectPeriod : Reg := ⟨0x2D00, 0x07, 20⟩
def xlaneInjectFire : Reg := ⟨0x2D00, 0x08, 0⟩
def laneEqTable : Reg := ⟨0x2E00, 0x00, 0⟩
def islRemapFactory : Reg := ⟨0x3000, 0x01, 0⟩
def islRemap0 : Reg := ⟨0x3000, 0x02, 0⟩
def islRemap1 : Reg := ⟨0x3000, 0x03, 0⟩
def islSatClamps : Reg := ⟨0x3000, 0x04, 0⟩
def islPortFaults : Reg := ⟨0x3000, 0x05, 0⟩
def islTrigDrops : Reg := ⟨0x3000, 0x06, 0⟩
def islGen : Reg := ⟨0x3000, 0x07, 0⟩
def harbTempC : Reg := ⟨0x3040, 0x01, 0⟩
def harbGen : Reg := ⟨0x3040, 0x02, 0⟩
def forgeActiveMask : Reg := ⟨0x3100, 0x01, 0⟩
def forgeSoundBeats : Reg := ⟨0x3100, 0x02, 16⟩
def forgeFerryMargin : Reg := ⟨0x3100, 0x03, 4⟩
def forgeTarget : Reg := ⟨0x3101, 0x01, 0⟩
def forgeLivePlane : Reg := ⟨0x3101, 0x02, 0⟩
def forgePlane0State : Reg := ⟨0x3101, 0x03, 0⟩
def forgePlane1State : Reg := ⟨0x3101, 0x04, 0⟩
def forgeActReason : Reg := ⟨0x3101, 0x05, 0⟩
def forgeSoundedEnd : Reg := ⟨0x3101, 0x06, 0⟩
def forgePrimePolicy : Reg := ⟨0x3101, 0x07, 0⟩
def forgePrimePrescale : Reg := ⟨0x3101, 0x08, 100⟩
def forgePrimeDepth : Reg := ⟨0x3101, 0x09, 0⟩
def forgePrimeLeft : Reg := ⟨0x3101, 0x0A, 0⟩
def forgeSwapConflict : Reg := ⟨0x3101, 0x0B, 0⟩
def forgeSound : Reg := ⟨0x3101, 0x0C, 0⟩
def forgeGen : Reg := ⟨0x3101, 0x0D, 0⟩
def qnLateAccept : Reg := ⟨0x3200, 0x01, 1⟩
def qnBusyOn : Reg := ⟨0x3200, 0x02, 192⟩
def qnBusyOff : Reg := ⟨0x3200, 0x03, 128⟩
def qnBusyWord : Reg := ⟨0x3200, 0x04, 0⟩
def qnLateTokens : Reg := ⟨0x3200, 0x05, 0⟩
def qnTagMismatch : Reg := ⟨0x3200, 0x06, 0⟩
def qnGen : Reg := ⟨0x3200, 0x07, 0⟩
def qnHome : Reg := ⟨0x3201, 0x01, 0⟩
def qnClass : Reg := ⟨0x3201, 0x02, 0⟩
def qnThreshold : Reg := ⟨0x3201, 0x03, 0x8001⟩
def qnDegradedPolicy : Reg := ⟨0x3201, 0x04, 0⟩
def qnWinTable : Reg := ⟨0x3201, 0x05, 0⟩
def qnDeferLimit : Reg := ⟨0x3201, 0x06, 16⟩
def qnAccepted : Reg := ⟨0x3211, 0x01, 0⟩
def qnDeferred : Reg := ⟨0x3211, 0x09, 0⟩
def qnRefused : Reg := ⟨0x3211, 0x11, 0⟩
def qnRejected : Reg := ⟨0x3211, 0x19, 0⟩
def qnLateAccepted : Reg := ⟨0x3211, 0x1A, 0⟩
def qnCountGen : Reg := ⟨0x3211, 0x1B, 0⟩
def qnWinOpen : Reg := ⟨0x3221, 0x01, 0⟩
def qnWinClose : Reg := ⟨0x3221, 0x11, 0⟩
def qnWinCtrl : Reg := ⟨0x3221, 0x21, 0⟩
def qnWinGen : Reg := ⟨0x3221, 0x31, 0⟩
def qnPartitions : Reg := ⟨0x3231, 0x01, 0⟩
def qnTankWords : Reg := ⟨0x3231, 0x02, 0⟩
def qnSpareFree : Reg := ⟨0x3231, 0x03, 524288⟩
def qnTankGen : Reg := ⟨0x3231, 0x04, 0⟩
def engQueueMode : Reg := ⟨0x3401, 0x01, 1⟩
def engDqDueLocal : Reg := ⟨0x3401, 0x02, 320⟩
def engDqDueRemote : Reg := ⟨0x3401, 0x03, 736⟩
def engGroupCycles : Reg := ⟨0x3401, 0x04, 0⟩
def engStallCycles : Reg := ⟨0x3401, 0x05, 0⟩
def engTokens : Reg := ⟨0x3401, 0x06, 0⟩
def engPoisonPolicy : Reg := ⟨0x3401, 0x07, 0⟩
def engPoisoned : Reg := ⟨0x3401, 0x08, 0⟩
def engItemTimeout : Reg := ⟨0x3401, 0x09, 100000⟩
def engPinRules : Reg := ⟨0x3401, 0x0A, 0⟩
def engPinsGranted : Reg := ⟨0x3401, 0x0B, 0⟩
def engPinsRefused : Reg := ⟨0x3401, 0x0C, 0⟩
def engCompletions : Reg := ⟨0x3401, 0x0D, 0⟩
def engOutstanding : Reg := ⟨0x3401, 0x0E, 0⟩
def engGen : Reg := ⟨0x3401, 0x0F, 0⟩
def engSubmit : Reg := ⟨0x3411, 0x01, 0⟩
def engQueueFree : Reg := ⟨0x3411, 0x02, 64⟩
def engResume : Reg := ⟨0x3411, 0x06, 0⟩
def engHalted : Reg := ⟨0x3411, 0x07, 0⟩
def engCommands : Reg := ⟨0x3411, 0x08, 0⟩
def engSatClamps : Reg := ⟨0x3411, 0x09, 0⟩
def engEngineGen : Reg := ⟨0x3411, 0x0A, 0⟩
def cacheArraySplitInit : Reg := ⟨0x3800, 0x01, 4⟩
def cacheHoldDirectMib : Reg := ⟨0x3801, 0x01, 8⟩
def cacheHoldHits : Reg := ⟨0x3801, 0x02, 0⟩
def cacheHoldMisses : Reg := ⟨0x3801, 0x03, 0⟩
def cacheHoldDupMisses : Reg := ⟨0x3801, 0x04, 0⟩
def cacheHoldWritebacks : Reg := ⟨0x3801, 0x05, 0⟩
def cacheRedOps : Reg := ⟨0x3801, 0x06, 0⟩
def cacheRedClamps : Reg := ⟨0x3801, 0x07, 0⟩
def cacheRedPoisoned : Reg := ⟨0x3801, 0x08, 0⟩
def cacheHoldGen : Reg := ⟨0x3801, 0x09, 0⟩
def hbmState : Reg := ⟨0x3811, 0x01, 0⟩
def hbmTempC : Reg := ⟨0x3811, 0x02, 0⟩
def hbmCorrected : Reg := ⟨0x3811, 0x03, 0⟩
def hbmUncorr : Reg := ⟨0x3811, 0x04, 0⟩
def hbmOdeccCorr : Reg := ⟨0x3811, 0x05, 0⟩
def hbmOdeccUncorr : Reg := ⟨0x3811, 0x06, 0⟩
def hbmScrubPasses : Reg := ⟨0x3811, 0x07, 0⟩
def hbmTiming : Reg := ⟨0x3811, 0x08, 0⟩
def hbmHotC : Reg := ⟨0x3811, 0x0E, 85⟩
def hbmScrubH : Reg := ⟨0x3811, 0x0F, 24⟩
def hbmGen : Reg := ⟨0x3811, 0x10, 0⟩
def temperCount : Reg := ⟨0x3821, 0x01, 0⟩
def arraySplit : Reg := ⟨0x3821, 0x0B, 4⟩
def temperGen : Reg := ⟨0x3821, 0x0C, 0⟩
def seqPatchState : Reg := ⟨0x3A00, 0x01, 0⟩
def seqPatchLevel : Reg := ⟨0x3A00, 0x02, 0⟩
def seqPatchFloor : Reg := ⟨0x3A00, 0x03, 0⟩
def seqPatchBlob : Reg := ⟨0x3A00, 0x04, 0⟩
def seqPatchHash : Reg := ⟨0x3A00, 0x05, 0⟩
def seqRomId : Reg := ⟨0x3A00, 0x06, 0⟩
def seqGen : Reg := ⟨0x3A00, 0x07, 0⟩
def seqPatchReason : Reg := ⟨0x3A01, 0x01, 0⟩
def seqMcRecord : Reg := ⟨0x3A01, 0x02, 0⟩
def seqMcCount : Reg := ⟨0x3A01, 0x03, 0⟩
def seqRestarts : Reg := ⟨0x3A01, 0x04, 0⟩
def seqRoutines : Reg := ⟨0x3A01, 0x05, 0⟩
def seqCtxState : Reg := ⟨0x3A01, 0x06, 0⟩
def seqHarbGen : Reg := ⟨0x3A01, 0x07, 0⟩
def fltLog : Reg := ⟨0x3C00, 0x01, 0⟩
def fltLogClear : Reg := ⟨0x3C00, 0x02, 0⟩
def fltTransient : Reg := ⟨0x3C00, 0x03, 0⟩
def fltIntermittent : Reg := ⟨0x3C00, 0x04, 0⟩
def fltPersistent : Reg := ⟨0x3C00, 0x05, 0⟩
def fltRecurWindow : Reg := ⟨0x3C00, 0x06, 60000⟩
def fltRemapOffer : Reg := ⟨0x3C00, 0x07, 0⟩
def fltScrubEnable : Reg := ⟨0x3C00, 0x08, 1⟩
def fltGen : Reg := ⟨0x3C00, 0x09, 0⟩
def bistAtBoot : Reg := ⟨0x3E00, 0x01, 0⟩
def bistStart : Reg := ⟨0x3E00, 0x02, 0⟩
def bistState : Reg := ⟨0x3E00, 0x03, 0⟩
def bistGen : Reg := ⟨0x3E00, 0x04, 0⟩
def bistResult : Reg := ⟨0x3E01, 0x01, 0⟩
def bistMisrLogic : Reg := ⟨0x3E01, 0x02, 0⟩
def bistMisrMemory : Reg := ⟨0x3E01, 0x03, 0⟩
def bistUnitGen : Reg := ⟨0x3E01, 0x04, 0⟩
def pwrTotalW : Reg := ⟨0x4000, 0x01, 0⟩
def pwrLimitW : Reg := ⟨0x4000, 0x02, 20000⟩
def pwrMainMv : Reg := ⟨0x4000, 0x03, 0⟩
def pwrAuxMv : Reg := ⟨0x4000, 0x04, 0⟩
def pwrGen : Reg := ⟨0x4000, 0x05, 0⟩
def pwrDomainOn : Reg := ⟨0x4001, 0x01, 0⟩
def pwrDomainState : Reg := ⟨0x4001, 0x02, 0⟩
def pwrDomainW : Reg := ⟨0x4001, 0x03, 0⟩
def pwrDomainGen : Reg := ⟨0x4001, 0x04, 0⟩
def detStrict : Reg := ⟨0x4200, 0x01, 0⟩
def detRunSeed : Reg := ⟨0x4200, 0x02, 0⟩
def detStep : Reg := ⟨0x4200, 0x03, 0⟩
def detFaults : Reg := ⟨0x4200, 0x04, 0⟩
def detReplayEnable : Reg := ⟨0x4200, 0x05, 0⟩
def detReplayData : Reg := ⟨0x4200, 0x06, 0⟩
def detTapSelect : Reg := ⟨0x4200, 0x07, 0⟩
def detTapRing : Reg := ⟨0x4200, 0x08, 0⟩
def detLsEnable : Reg := ⟨0x4200, 0x09, 0⟩
def detLsDiverged : Reg := ⟨0x4200, 0x0A, 0xFFFFFFFFFFFFFFFF⟩
def detGen : Reg := ⟨0x4200, 0x0B, 0⟩
def hazPresent : Reg := ⟨0x4400, 0x01, 0⟩
def hazClear : Reg := ⟨0x4400, 0x02, 0⟩
def hazLog : Reg := ⟨0x4400, 0x03, 0⟩
def hazGen : Reg := ⟨0x4400, 0x04, 0⟩
def hazCount : Reg := ⟨0x4401, 0x01, 0⟩
end Reg

/-- Part 1 of the table. -/
def objRows1 : List ObjRow := [
  ⟨Reg.deviceType, 1, 1, .unsigned 4, .const, .any⟩,
  ⟨Reg.errorRegister, 1, 1, .unsigned 1, .ro, .any⟩,
  ⟨Reg.errorField, 1, 16, .unsigned 4, .ro, .any⟩,
  ⟨Reg.cobSync, 1, 1, .unsigned 4, .rwHeld, .any⟩,
  ⟨Reg.deviceName, 1, 1, .visible 16, .const, .any⟩,
  ⟨Reg.hardwareVersion, 1, 1, .visible 32, .const, .any⟩,
  ⟨Reg.softwareVersion, 1, 1, .visible 32, .const, .any⟩,
  ⟨Reg.cobEmcy, 1, 1, .unsigned 4, .rwHeld, .any⟩,
  ⟨Reg.heartbeatTime, 1, 1, .unsigned 2, .rw, .any⟩,
  ⟨Reg.identity, 1, 4, .unsigned 4, .const, .any⟩,
  ⟨Reg.rpdoCob, 8, 1, .unsigned 4, .rwHeld, .any⟩,
  ⟨Reg.rpdoType, 8, 1, .unsigned 1, .rwHeld, .pdoType⟩,
  ⟨Reg.rpdoMapCount, 8, 1, .unsigned 1, .rwHeld, .range 0 16⟩,
  ⟨Reg.rpdoMap, 8, 16, .unsigned 4, .rwHeld, .any⟩,
  ⟨Reg.tpdoCob, 16, 1, .unsigned 4, .rwHeld, .any⟩,
  ⟨Reg.tpdoType, 16, 1, .unsigned 1, .rwHeld, .pdoType⟩,
  ⟨Reg.tpdoInhibit, 16, 1, .unsigned 2, .rwHeld, .any⟩,
  ⟨Reg.tpdoEvent, 16, 1, .unsigned 2, .rwHeld, .any⟩,
  ⟨Reg.tpdoMapCount, 16, 1, .unsigned 1, .rwHeld, .range 0 16⟩,
  ⟨Reg.tpdoMap, 16, 16, .unsigned 4, .rwHeld, .any⟩,
  ⟨Reg.idVendor, 1, 1, .unsigned 4, .const, .any⟩,
  ⟨Reg.idProduct, 1, 1, .visible 16, .const, .any⟩,
  ⟨Reg.idGrade, 1, 1, .unsigned 1, .const, .any⟩,
  ⟨Reg.idStepping, 1, 1, .unsigned 4, .const, .any⟩,
  ⟨Reg.idSerial, 1, 1, .visible 16, .const, .any⟩,
  ⟨Reg.idCarrierRev, 1, 1, .unsigned 2, .const, .any⟩,
  ⟨Reg.idVirrinVersion, 1, 1, .unsigned 4, .const, .any⟩,
  ⟨Reg.idState, 1, 1, .unsigned 1, .ro, .any⟩,
  ⟨Reg.idCommand, 1, 1, .unsigned 1, .wo, .range 1 6⟩,
  ⟨Reg.idStateReason, 1, 1, .unsigned 1, .ro, .any⟩,
  ⟨Reg.idStateGen, 1, 1, .unsigned 2, .ro, .any⟩,
  ⟨Reg.odDomainIdle, 1, 1, .unsigned 4, .rw, .range 100 600000⟩,
  ⟨Reg.odSnapshotExpired, 1, 1, .unsigned 4, .ro, .any⟩,
  ⟨Reg.odWritesRefused, 1, 1, .unsigned 4, .ro, .any⟩,
  ⟨Reg.odGen, 1, 1, .unsigned 2, .ro, .any⟩,
  ⟨Reg.canNodeId, 1, 1, .unsigned 1, .rwHeld, .range 1 127⟩,
  ⟨Reg.canDataRate, 1, 1, .unsigned 1, .rwHeld, .range 0 3⟩,
  ⟨Reg.canState, 1, 1, .unsigned 1, .ro, .any⟩,
  ⟨Reg.canBusoff, 1, 1, .unsigned 4, .ro, .any⟩,
  ⟨Reg.canNmtIgnored, 1, 1, .unsigned 4, .ro, .any⟩]

/-- Part 2 of the table. -/
def objRows2 : List ObjRow := [
  ⟨Reg.canRpdoRefused, 1, 1, .unsigned 4, .ro, .any⟩,
  ⟨Reg.canEmcyLost, 1, 1, .unsigned 4, .ro, .any⟩,
  ⟨Reg.canGen, 1, 1, .unsigned 2, .ro, .any⟩,
  ⟨Reg.ethEnable, 2, 1, .boolean, .rwHeld, .range 0 1⟩,
  ⟨Reg.ethFec, 2, 1, .unsigned 1, .rwHeld, .range 0 1⟩,
  ⟨Reg.ethMac, 2, 1, .unsigned 8, .const, .any⟩,
  ⟨Reg.ethIpv4, 2, 1, .unsigned 4, .rwHeld, .any⟩,
  ⟨Reg.ethIpv4Prefix, 2, 1, .unsigned 1, .rwHeld, .range 8 30⟩,
  ⟨Reg.ethIpv6, 2, 1, .domain 16 true, .rwHeld, .any⟩,
  ⟨Reg.ethLink, 2, 1, .boolean, .ro, .any⟩,
  ⟨Reg.ethRxDropped, 2, 1, .unsigned 4, .ro, .any⟩,
  ⟨Reg.ethCrcErrors, 2, 1, .unsigned 4, .ro, .any⟩,
  ⟨Reg.ethGen, 2, 1, .unsigned 2, .ro, .any⟩,
  ⟨Reg.uartBaud, 1, 1, .unsigned 4, .rwHeld, .range 9600 3000000⟩,
  ⟨Reg.uartFormat, 1, 1, .unsigned 1, .rwHeld, .range 0 1⟩,
  ⟨Reg.uartFraming, 1, 1, .unsigned 4, .ro, .any⟩,
  ⟨Reg.uartParity, 1, 1, .unsigned 4, .ro, .any⟩,
  ⟨Reg.uartBreaks, 1, 1, .unsigned 4, .ro, .any⟩,
  ⟨Reg.uartGen, 1, 1, .unsigned 2, .ro, .any⟩,
  ⟨Reg.imgDomain, 1, 1, .domain 1073741824 false, .rwHeld, .any⟩,
  ⟨Reg.imgState, 1, 1, .unsigned 1, .ro, .any⟩,
  ⟨Reg.imgReason, 1, 1, .unsigned 1, .ro, .any⟩,
  ⟨Reg.imgHash, 1, 1, .domain 48 true, .ro, .any⟩,
  ⟨Reg.imgSigned, 1, 1, .boolean, .ro, .any⟩,
  ⟨Reg.imgRequireSig, 1, 1, .boolean, .rwHeld, .range 0 1⟩,
  ⟨Reg.imgGen, 1, 1, .unsigned 2, .ro, .any⟩,
  ⟨Reg.imgShadow, 1, 1, .domain 1073741824 false, .rw, .any⟩,
  ⟨Reg.imgShadowLoad, 1, 1, .unsigned 4, .wo, .mask 0x1FFFF⟩,
  ⟨Reg.imgShadowState, 1, 1, .unsigned 1, .ro, .any⟩,
  ⟨Reg.imgShadowGen, 1, 1, .unsigned 2, .ro, .any⟩,
  ⟨Reg.timeState, 1, 1, .unsigned 1, .ro, .any⟩,
  ⟨Reg.timeServoMode, 1, 1, .unsigned 1, .rw, .range 0 1⟩,
  ⟨Reg.timeGuardNs, 1, 1, .unsigned 4, .rw, .range 10 999999999⟩,
  ⟨Reg.timeSlewMaxPpb, 1, 1, .unsigned 4, .rw, .range 1000 500000⟩,
  ⟨Reg.timeGuardLimit, 1, 1, .unsigned 1, .rw, .range 1 255⟩,
  ⟨Reg.timeGuardRefused, 1, 1, .unsigned 4, .ro, .any⟩,
  ⟨Reg.timeRelockCount, 1, 1, .unsigned 1, .rw, .range 1 255⟩,
  ⟨Reg.timeHoldoverReason, 1, 1, .unsigned 1, .ro, .any⟩,
  ⟨Reg.timeStateFlags, 1, 1, .unsigned 1, .ro, .any⟩,
  ⟨Reg.timeOffset, 1, 1, .integer 8, .ro, .any⟩]

/-- Part 3 of the table. -/
def objRows3 : List ObjRow := [
  ⟨Reg.timeUtcOffset, 1, 1, .integer 2, .ro, .any⟩,
  ⟨Reg.timeLastStep, 1, 1, .integer 8, .ro, .any⟩,
  ⟨Reg.timeLastStepBeat, 1, 1, .unsigned 8, .ro, .any⟩,
  ⟨Reg.timeNow, 1, 1, .time96, .live, .any⟩,
  ⟨Reg.ptpEnable, 1, 1, .boolean, .rwHeld, .range 0 1⟩,
  ⟨Reg.ptpPort, 1, 1, .unsigned 1, .rwHeld, .range 0 1⟩,
  ⟨Reg.ptpRole, 1, 1, .unsigned 1, .rwHeld, .range 0 1⟩,
  ⟨Reg.ptpDelay, 1, 1, .unsigned 1, .rwHeld, .range 0 1⟩,
  ⟨Reg.ptpMapping, 1, 1, .unsigned 1, .rwHeld, .range 0 2⟩,
  ⟨Reg.ptpDomain, 1, 1, .unsigned 1, .rwHeld, .range 0 127⟩,
  ⟨Reg.ptpPriority1, 1, 1, .unsigned 1, .rwHeld, .any⟩,
  ⟨Reg.ptpPriority2, 1, 1, .unsigned 1, .rwHeld, .any⟩,
  ⟨Reg.ptpRxLat, 1, 1, .unsigned 4, .rwHeld, .any⟩,
  ⟨Reg.ptpTxLat, 1, 1, .unsigned 4, .rwHeld, .any⟩,
  ⟨Reg.actKind, 16, 1, .unsigned 1, .rw, .any⟩,
  ⟨Reg.actMode, 16, 1, .unsigned 1, .rw, .mask 3⟩,
  ⟨Reg.actTime, 16, 1, .time96, .rw, .time⟩,
  ⟨Reg.actBeat, 16, 1, .unsigned 8, .rw, .mask 0xFFFFFFFFFFFF⟩,
  ⟨Reg.actArg, 16, 1, .unsigned 4, .rw, .any⟩,
  ⟨Reg.actCommit, 16, 1, .unsigned 1, .wo, .range 1 2⟩,
  ⟨Reg.actStatus, 16, 1, .unsigned 1, .ro, .any⟩,
  ⟨Reg.actReason, 16, 1, .unsigned 1, .ro, .any⟩,
  ⟨Reg.actNote, 16, 1, .unsigned 1, .ro, .any⟩,
  ⟨Reg.actDoneBeat, 16, 1, .unsigned 8, .ro, .any⟩,
  ⟨Reg.actDoneTime, 16, 1, .time96, .ro, .any⟩,
  ⟨Reg.actGen, 16, 1, .unsigned 2, .ro, .any⟩,
  ⟨Reg.silEnable, 1, 1, .boolean, .rwHeld, .range 0 1⟩,
  ⟨Reg.silSlot, 1, 1, .unsigned 1, .rwHeld, .range 2 7⟩,
  ⟨Reg.silCycle, 1, 1, .unsigned 2, .rwHeld, .multiple 8 128 1024⟩,
  ⟨Reg.silState, 1, 1, .unsigned 1, .ro, .any⟩,
  ⟨Reg.silReenable, 1, 1, .unsigned 1, .wo, .range 1 1⟩,
  ⟨Reg.silSkew, 1, 1, .unsigned 4, .ro, .any⟩,
  ⟨Reg.silCollided, 1, 1, .unsigned 4, .ro, .any⟩,
  ⟨Reg.silCrcErrors, 1, 1, .unsigned 4, .ro, .any⟩,
  ⟨Reg.silAbsentMask, 1, 1, .unsigned 1, .ro, .any⟩,
  ⟨Reg.silGen, 1, 1, .unsigned 2, .ro, .any⟩,
  ⟨Reg.hearthState, 1, 1, .unsigned 1, .ro, .any⟩,
  ⟨Reg.beatPeriod, 1, 1, .unsigned 2, .rwHeld, .range 16 65535⟩,
  ⟨Reg.beatSource, 1, 1, .unsigned 1, .rwHeld, .range 0 1⟩,
  ⟨Reg.beatStart, 1, 1, .unsigned 8, .rwHeld, .mask 0xFFFFFFFFFFFF⟩]

/-- Part 4 of the table. -/
def objRows4 : List ObjRow := [
  ⟨Reg.beatNumber, 1, 1, .unsigned 8, .live, .any⟩,
  ⟨Reg.beatMismatch, 1, 1, .unsigned 4, .ro, .any⟩,
  ⟨Reg.beatGen, 1, 1, .unsigned 2, .ro, .any⟩,
  ⟨Reg.laneEnable, 1024, 1, .boolean, .rwHeld, .range 0 1⟩,
  ⟨Reg.laneRate, 1024, 1, .unsigned 1, .rwHeld, .range 0 2⟩,
  ⟨Reg.laneFec, 1024, 1, .boolean, .rwHeld, .range 0 1⟩,
  ⟨Reg.laneRole, 1024, 1, .unsigned 1, .rwHeld, .range 0 2⟩,
  ⟨Reg.laneShoal, 1024, 1, .unsigned 2, .ro, .any⟩,
  ⟨Reg.lanePosition, 1024, 1, .unsigned 1, .ro, .any⟩,
  ⟨Reg.laneState, 1024, 1, .unsigned 1, .ro, .any⟩,
  ⟨Reg.laneStampOffset, 1024, 1, .integer 4, .ro, .any⟩,
  ⟨Reg.laneUnderruns, 1024, 1, .unsigned 4, .ro, .any⟩,
  ⟨Reg.laneShortBeats, 1024, 1, .unsigned 4, .ro, .any⟩,
  ⟨Reg.laneOverruns, 1024, 1, .unsigned 4, .ro, .any⟩,
  ⟨Reg.laneCrcErrors, 1024, 1, .unsigned 4, .ro, .any⟩,
  ⟨Reg.laneBlockErrors, 1024, 1, .unsigned 4, .ro, .any⟩,
  ⟨Reg.laneFecUncorr, 1024, 1, .unsigned 4, .ro, .any⟩,
  ⟨Reg.laneFerryDrops, 1024, 1, .unsigned 4, .ro, .any⟩,
  ⟨Reg.laneTruncWords, 1024, 1, .unsigned 8, .ro, .any⟩,
  ⟨Reg.laneFecCorrected, 1024, 1, .unsigned 8, .ro, .any⟩,
  ⟨Reg.lanePrbsPoly, 1024, 1, .unsigned 1, .rwHeld, .prbs⟩,
  ⟨Reg.lanePrbsLock, 1024, 1, .boolean, .ro, .any⟩,
  ⟨Reg.lanePrbsBits, 1024, 1, .unsigned 8, .ro, .any⟩,
  ⟨Reg.lanePrbsErrors, 1024, 1, .unsigned 8, .ro, .any⟩,
  ⟨Reg.laneInjectMode, 1024, 1, .unsigned 1, .rw, .inject⟩,
  ⟨Reg.laneInjectPeriod, 1024, 1, .unsigned 1, .rw, .range 10 40⟩,
  ⟨Reg.laneInjectFire, 1024, 1, .unsigned 1, .wo, .any⟩,
  ⟨Reg.laneGen, 1024, 1, .unsigned 2, .ro, .any⟩,
  ⟨Reg.shoalEnabled, 256, 1, .boolean, .ro, .any⟩,
  ⟨Reg.shoalFormat, 256, 1, .unsigned 1, .ro, .any⟩,
  ⟨Reg.shoalWidth, 256, 1, .unsigned 2, .ro, .any⟩,
  ⟨Reg.shoalMarkerPeriod, 256, 1, .unsigned 2, .ro, .any⟩,
  ⟨Reg.shoalGroup, 256, 1, .unsigned 1, .ro, .any⟩,
  ⟨Reg.shoalVerifyCount, 256, 1, .unsigned 1, .rwHeld, .range 1 8⟩,
  ⟨Reg.shoalStampUnc, 256, 1, .unsigned 4, .rwHeld, .range 320 4294967295⟩,
  ⟨Reg.shoalDegradedBeats, 256, 1, .unsigned 8, .ro, .any⟩,
  ⟨Reg.shoalOverfullBeats, 256, 1, .unsigned 8, .ro, .any⟩,
  ⟨Reg.shoalGen, 256, 1, .unsigned 2, .ro, .any⟩,
  ⟨Reg.xlaneEnable, 256, 1, .boolean, .rwHeld, .range 0 1⟩,
  ⟨Reg.xlaneRate, 256, 1, .unsigned 1, .rwHeld, .range 0 2⟩]

/-- Part 5 of the table. -/
def objRows5 : List ObjRow := [
  ⟨Reg.xlaneFec, 256, 1, .boolean, .rwHeld, .range 0 1⟩,
  ⟨Reg.xlaneRole, 256, 1, .unsigned 1, .rwHeld, .range 0 2⟩,
  ⟨Reg.xlanePrbsPoly, 256, 1, .unsigned 1, .rwHeld, .prbs⟩,
  ⟨Reg.xlaneInjectMode, 256, 1, .unsigned 1, .rw, .inject⟩,
  ⟨Reg.xlaneInjectPeriod, 256, 1, .unsigned 1, .rw, .range 10 40⟩,
  ⟨Reg.xlaneInjectFire, 256, 1, .unsigned 1, .wo, .any⟩,
  ⟨Reg.laneEqTable, 1, 1, .domain 65536 false, .ro, .any⟩,
  ⟨Reg.islRemapFactory, 64, 1, .domain 16 true, .ro, .any⟩,
  ⟨Reg.islRemap0, 64, 1, .domain 16 true, .rw, .any⟩,
  ⟨Reg.islRemap1, 64, 1, .domain 16 true, .rw, .any⟩,
  ⟨Reg.islSatClamps, 64, 1, .unsigned 8, .ro, .any⟩,
  ⟨Reg.islPortFaults, 64, 1, .unsigned 4, .ro, .any⟩,
  ⟨Reg.islTrigDrops, 64, 1, .unsigned 4, .ro, .any⟩,
  ⟨Reg.islGen, 64, 1, .unsigned 2, .ro, .any⟩,
  ⟨Reg.harbTempC, 16, 1, .integer 1, .ro, .any⟩,
  ⟨Reg.harbGen, 16, 1, .unsigned 2, .ro, .any⟩,
  ⟨Reg.forgeActiveMask, 1, 1, .unsigned 2, .ro, .any⟩,
  ⟨Reg.forgeSoundBeats, 1, 1, .unsigned 1, .rwHeld, .range 1 64⟩,
  ⟨Reg.forgeFerryMargin, 1, 1, .unsigned 1, .rwHeld, .range 0 64⟩,
  ⟨Reg.forgeTarget, 16, 1, .unsigned 2, .ro, .any⟩,
  ⟨Reg.forgeLivePlane, 16, 1, .unsigned 1, .ro, .any⟩,
  ⟨Reg.forgePlane0State, 16, 1, .unsigned 1, .ro, .any⟩,
  ⟨Reg.forgePlane1State, 16, 1, .unsigned 1, .ro, .any⟩,
  ⟨Reg.forgeActReason, 16, 1, .unsigned 1, .ro, .any⟩,
  ⟨Reg.forgeSoundedEnd, 16, 1, .unsigned 2, .ro, .any⟩,
  ⟨Reg.forgePrimePolicy, 16, 1, .unsigned 1, .rwHeld, .range 0 2⟩,
  ⟨Reg.forgePrimePrescale, 16, 1, .unsigned 2, .rwHeld, .range 1 65535⟩,
  ⟨Reg.forgePrimeDepth, 16, 1, .unsigned 2, .ro, .any⟩,
  ⟨Reg.forgePrimeLeft, 16, 1, .unsigned 2, .ro, .any⟩,
  ⟨Reg.forgeSwapConflict, 16, 1, .unsigned 4, .ro, .any⟩,
  ⟨Reg.forgeSound, 16, 1, .unsigned 1, .wo, .range 1 3⟩,
  ⟨Reg.forgeGen, 16, 1, .unsigned 2, .ro, .any⟩,
  ⟨Reg.qnLateAccept, 1, 1, .boolean, .rwHeld, .range 0 1⟩,
  ⟨Reg.qnBusyOn, 1, 1, .unsigned 1, .rwHeld, .any⟩,
  ⟨Reg.qnBusyOff, 1, 1, .unsigned 1, .rwHeld, .any⟩,
  ⟨Reg.qnBusyWord, 1, 1, .unsigned 4, .ro, .any⟩,
  ⟨Reg.qnLateTokens, 1, 1, .unsigned 4, .ro, .any⟩,
  ⟨Reg.qnTagMismatch, 1, 1, .unsigned 4, .ro, .any⟩,
  ⟨Reg.qnGen, 1, 1, .unsigned 2, .ro, .any⟩,
  ⟨Reg.qnHome, 16, 1, .unsigned 1, .ro, .any⟩]

/-- Part 6 of the table. -/
def objRows6 : List ObjRow := [
  ⟨Reg.qnClass, 16, 1, .unsigned 1, .ro, .any⟩,
  ⟨Reg.qnThreshold, 16, 1, .integer 2, .rwHeld, .any⟩,
  ⟨Reg.qnDegradedPolicy, 16, 1, .unsigned 1, .rwHeld, .range 0 1⟩,
  ⟨Reg.qnWinTable, 16, 1, .unsigned 1, .ro, .any⟩,
  ⟨Reg.qnDeferLimit, 16, 7, .unsigned 1, .rwHeld, .range 1 255⟩,
  ⟨Reg.qnAccepted, 16, 8, .unsigned 8, .ro, .any⟩,
  ⟨Reg.qnDeferred, 16, 8, .unsigned 8, .ro, .any⟩,
  ⟨Reg.qnRefused, 16, 8, .unsigned 8, .ro, .any⟩,
  ⟨Reg.qnRejected, 16, 1, .unsigned 8, .ro, .any⟩,
  ⟨Reg.qnLateAccepted, 16, 1, .unsigned 8, .ro, .any⟩,
  ⟨Reg.qnCountGen, 16, 1, .unsigned 2, .ro, .any⟩,
  ⟨Reg.qnWinOpen, 16, 16, .time96, .rw, .time⟩,
  ⟨Reg.qnWinClose, 16, 16, .time96, .rw, .time⟩,
  ⟨Reg.qnWinCtrl, 16, 16, .unsigned 1, .rw, .mask 3⟩,
  ⟨Reg.qnWinGen, 16, 1, .unsigned 2, .ro, .any⟩,
  ⟨Reg.qnPartitions, 16, 1, .domain 256 false, .ro, .any⟩,
  ⟨Reg.qnTankWords, 16, 1, .unsigned 4, .ro, .any⟩,
  ⟨Reg.qnSpareFree, 16, 1, .unsigned 4, .ro, .any⟩,
  ⟨Reg.qnTankGen, 16, 1, .unsigned 2, .ro, .any⟩,
  ⟨Reg.engQueueMode, 16, 1, .unsigned 1, .rwHeld, .range 0 1⟩,
  ⟨Reg.engDqDueLocal, 16, 1, .unsigned 2, .rwHeld, .range 64 4096⟩,
  ⟨Reg.engDqDueRemote, 16, 1, .unsigned 2, .rwHeld, .range 64 8192⟩,
  ⟨Reg.engGroupCycles, 16, 1, .unsigned 8, .ro, .any⟩,
  ⟨Reg.engStallCycles, 16, 1, .unsigned 8, .ro, .any⟩,
  ⟨Reg.engTokens, 16, 1, .domain 128 true, .rw, .any⟩,
  ⟨Reg.engPoisonPolicy, 16, 1, .unsigned 1, .rwHeld, .range 0 1⟩,
  ⟨Reg.engPoisoned, 16, 1, .unsigned 4, .ro, .any⟩,
  ⟨Reg.engItemTimeout, 16, 1, .unsigned 4, .rwHeld, .range 10000 10000000⟩,
  ⟨Reg.engPinRules, 16, 1, .domain 64 false, .ro, .any⟩,
  ⟨Reg.engPinsGranted, 16, 1, .unsigned 8, .ro, .any⟩,
  ⟨Reg.engPinsRefused, 16, 1, .unsigned 8, .ro, .any⟩,
  ⟨Reg.engCompletions, 16, 1, .domain 16384 false, .ro, .any⟩,
  ⟨Reg.engOutstanding, 16, 1, .unsigned 2, .ro, .any⟩,
  ⟨Reg.engGen, 16, 1, .unsigned 2, .ro, .any⟩,
  ⟨Reg.engSubmit, 128, 1, .domain 2048 false, .wo, .any⟩,
  ⟨Reg.engQueueFree, 128, 4, .unsigned 1, .ro, .any⟩,
  ⟨Reg.engResume, 128, 1, .unsigned 1, .wo, .range 0 3⟩,
  ⟨Reg.engHalted, 128, 1, .unsigned 1, .ro, .any⟩,
  ⟨Reg.engCommands, 128, 1, .unsigned 8, .ro, .any⟩,
  ⟨Reg.engSatClamps, 128, 1, .unsigned 8, .ro, .any⟩]

/-- Part 7 of the table. -/
def objRows7 : List ObjRow := [
  ⟨Reg.engEngineGen, 128, 1, .unsigned 2, .ro, .any⟩,
  ⟨Reg.cacheArraySplitInit, 1, 1, .unsigned 1, .rwHeld, .range 0 8⟩,
  ⟨Reg.cacheHoldDirectMib, 16, 1, .unsigned 1, .rwHeld, .multiple 4 4 28⟩,
  ⟨Reg.cacheHoldHits, 16, 1, .unsigned 8, .ro, .any⟩,
  ⟨Reg.cacheHoldMisses, 16, 1, .unsigned 8, .ro, .any⟩,
  ⟨Reg.cacheHoldDupMisses, 16, 1, .unsigned 8, .ro, .any⟩,
  ⟨Reg.cacheHoldWritebacks, 16, 1, .unsigned 8, .ro, .any⟩,
  ⟨Reg.cacheRedOps, 16, 1, .unsigned 8, .ro, .any⟩,
  ⟨Reg.cacheRedClamps, 16, 1, .unsigned 8, .ro, .any⟩,
  ⟨Reg.cacheRedPoisoned, 16, 1, .unsigned 4, .ro, .any⟩,
  ⟨Reg.cacheHoldGen, 16, 1, .unsigned 2, .ro, .any⟩,
  ⟨Reg.hbmState, 16, 1, .unsigned 1, .ro, .any⟩,
  ⟨Reg.hbmTempC, 16, 1, .integer 1, .ro, .any⟩,
  ⟨Reg.hbmCorrected, 16, 1, .unsigned 8, .ro, .any⟩,
  ⟨Reg.hbmUncorr, 16, 1, .unsigned 4, .ro, .any⟩,
  ⟨Reg.hbmOdeccCorr, 16, 1, .unsigned 8, .ro, .any⟩,
  ⟨Reg.hbmOdeccUncorr, 16, 1, .unsigned 4, .ro, .any⟩,
  ⟨Reg.hbmScrubPasses, 16, 1, .unsigned 4, .ro, .any⟩,
  ⟨Reg.hbmTiming, 16, 6, .unsigned 2, .rwHeld, .any⟩,
  ⟨Reg.hbmHotC, 16, 1, .unsigned 1, .rwHeld, .range 70 90⟩,
  ⟨Reg.hbmScrubH, 16, 1, .unsigned 1, .rwHeld, .range 0 168⟩,
  ⟨Reg.hbmGen, 16, 1, .unsigned 2, .ro, .any⟩,
  ⟨Reg.temperCount, 32, 10, .unsigned 8, .ro, .any⟩,
  ⟨Reg.arraySplit, 32, 1, .unsigned 1, .ro, .any⟩,
  ⟨Reg.temperGen, 32, 1, .unsigned 2, .ro, .any⟩,
  ⟨Reg.seqPatchState, 1, 1, .unsigned 1, .ro, .any⟩,
  ⟨Reg.seqPatchLevel, 1, 1, .unsigned 4, .ro, .any⟩,
  ⟨Reg.seqPatchFloor, 1, 1, .unsigned 4, .ro, .any⟩,
  ⟨Reg.seqPatchBlob, 1, 1, .domain 1904 true, .rwHeld, .any⟩,
  ⟨Reg.seqPatchHash, 1, 1, .domain 48 true, .ro, .any⟩,
  ⟨Reg.seqRomId, 1, 1, .unsigned 4, .ro, .any⟩,
  ⟨Reg.seqGen, 1, 1, .unsigned 2, .ro, .any⟩,
  ⟨Reg.seqPatchReason, 16, 1, .unsigned 1, .ro, .any⟩,
  ⟨Reg.seqMcRecord, 16, 1, .domain 16 true, .ro, .any⟩,
  ⟨Reg.seqMcCount, 16, 1, .unsigned 4, .ro, .any⟩,
  ⟨Reg.seqRestarts, 16, 1, .unsigned 8, .ro, .any⟩,
  ⟨Reg.seqRoutines, 16, 1, .unsigned 8, .ro, .any⟩,
  ⟨Reg.seqCtxState, 16, 1, .domain 10 true, .ro, .any⟩,
  ⟨Reg.seqHarbGen, 16, 1, .unsigned 2, .ro, .any⟩,
  ⟨Reg.fltLog, 1, 1, .domain 4096 false, .ro, .any⟩]

/-- Part 8 of the table. -/
def objRows8 : List ObjRow := [
  ⟨Reg.fltLogClear, 1, 1, .unsigned 1, .wo, .range 1 1⟩,
  ⟨Reg.fltTransient, 1, 1, .unsigned 4, .ro, .any⟩,
  ⟨Reg.fltIntermittent, 1, 1, .unsigned 4, .ro, .any⟩,
  ⟨Reg.fltPersistent, 1, 1, .unsigned 4, .ro, .any⟩,
  ⟨Reg.fltRecurWindow, 1, 1, .unsigned 4, .rwHeld, .range 1000 3600000⟩,
  ⟨Reg.fltRemapOffer, 1, 1, .domain 512 false, .ro, .any⟩,
  ⟨Reg.fltScrubEnable, 1, 1, .boolean, .rw, .range 0 1⟩,
  ⟨Reg.fltGen, 1, 1, .unsigned 2, .ro, .any⟩,
  ⟨Reg.bistAtBoot, 1, 1, .boolean, .rwHeld, .range 0 1⟩,
  ⟨Reg.bistStart, 1, 1, .unsigned 2, .wo, .mask 0x3FF⟩,
  ⟨Reg.bistState, 1, 1, .unsigned 1, .ro, .any⟩,
  ⟨Reg.bistGen, 1, 1, .unsigned 2, .ro, .any⟩,
  ⟨Reg.bistResult, 80, 1, .unsigned 1, .ro, .any⟩,
  ⟨Reg.bistMisrLogic, 80, 1, .unsigned 8, .ro, .any⟩,
  ⟨Reg.bistMisrMemory, 80, 1, .unsigned 8, .ro, .any⟩,
  ⟨Reg.bistUnitGen, 80, 1, .unsigned 2, .ro, .any⟩,
  ⟨Reg.pwrTotalW, 1, 1, .unsigned 4, .ro, .any⟩,
  ⟨Reg.pwrLimitW, 1, 1, .unsigned 4, .rwHeld, .range 2000 20000⟩,
  ⟨Reg.pwrMainMv, 1, 1, .unsigned 4, .ro, .any⟩,
  ⟨Reg.pwrAuxMv, 1, 1, .unsigned 4, .ro, .any⟩,
  ⟨Reg.pwrGen, 1, 1, .unsigned 2, .ro, .any⟩,
  ⟨Reg.pwrDomainOn, 128, 1, .boolean, .rw, .range 0 1⟩,
  ⟨Reg.pwrDomainState, 128, 1, .unsigned 1, .ro, .any⟩,
  ⟨Reg.pwrDomainW, 128, 1, .unsigned 4, .ro, .any⟩,
  ⟨Reg.pwrDomainGen, 128, 1, .unsigned 2, .ro, .any⟩,
  ⟨Reg.detStrict, 1, 1, .boolean, .rwHeld, .range 0 1⟩,
  ⟨Reg.detRunSeed, 1, 1, .domain 16 true, .rwHeld, .any⟩,
  ⟨Reg.detStep, 1, 1, .unsigned 8, .live, .any⟩,
  ⟨Reg.detFaults, 1, 1, .unsigned 4, .ro, .any⟩,
  ⟨Reg.detReplayEnable, 1, 1, .boolean, .rwHeld, .range 0 1⟩,
  ⟨Reg.detReplayData, 1, 1, .domain 500000000 false, .rwHeld, .any⟩,
  ⟨Reg.detTapSelect, 1, 1, .domain 512 false, .rwHeld, .any⟩,
  ⟨Reg.detTapRing, 1, 1, .domain 4194304 false, .ro, .any⟩,
  ⟨Reg.detLsEnable, 1, 1, .boolean, .rwHeld, .range 0 1⟩,
  ⟨Reg.detLsDiverged, 1, 1, .unsigned 8, .ro, .any⟩,
  ⟨Reg.detGen, 1, 1, .unsigned 2, .ro, .any⟩,
  ⟨Reg.hazPresent, 1, 1, .boolean, .ro, .any⟩,
  ⟨Reg.hazClear, 1, 1, .unsigned 1, .wo, .range 1 1⟩,
  ⟨Reg.hazLog, 1, 1, .domain 1024 false, .ro, .any⟩,
  ⟨Reg.hazGen, 1, 1, .unsigned 2, .ro, .any⟩]

/-- Part 9 of the table. -/
def objRows9 : List ObjRow := [
  ⟨Reg.hazCount, 1, 9, .unsigned 4, .ro, .any⟩]

/-- Every object of the dictionary. -/
def objRows : List ObjRow :=
  objRows1 ++ objRows2 ++ objRows3 ++ objRows4 ++ objRows5 ++ objRows6 ++ objRows7 ++ objRows8 ++ objRows9

/-- Does a row hold a subindex of an index. -/
def ObjRow.holds (r : ObjRow) (index sub : Nat) : Bool :=
  r.reg.base ≤ index && index < r.reg.base + r.units && r.reg.sub ≤ sub && sub < r.reg.sub + r.subs

/-- The row of an object, if the manual defines it (R262). -/
def findRow (index sub : Nat) : Option ObjRow := objRows.find? fun r => r.holds index sub

/-- The unit number of an index within its row. -/
def ObjRow.unit (r : ObjRow) (index : Nat) : Nat := index - r.reg.base

/-- Does any row hold the index. -/
def indexDefined (index : Nat) : Bool := objRows.any fun r => r.reg.base ≤ index && index < r.reg.base + r.units

/-- The highest subindex of an index (R261). -/
def highestSub (index : Nat) : Nat :=
  objRows.foldl (fun m r => if r.reg.base ≤ index ∧ index < r.reg.base + r.units then max m (r.reg.sub + r.subs - 1) else m) 0

/-- Bytes of a value of the type on the wire (Table 12.1); 0 for strings and DOMAINs, which carry their own length. -/
def ObjType.bytes : ObjType → Nat
  | .boolean => 1
  | .unsigned n => n
  | .integer n => n
  | .time96 => 12
  | .visible _ => 0
  | .domain _ _ => 0

/-- The generation registers and how many indices each covers from its own (R271). DBG_HAZ_GEN covers 0x4400 and 0x4401. -/
def genRows : List (Reg × Nat) :=
  [(Reg.idStateGen, 1), (Reg.odGen, 1), (Reg.canGen, 1), (Reg.ethGen, 2), (Reg.uartGen, 1), (Reg.imgGen, 1),
   (Reg.imgShadowGen, 1), (Reg.actGen, 16), (Reg.silGen, 1), (Reg.beatGen, 1), (Reg.laneGen, 1024), (Reg.shoalGen, 256),
   (Reg.islGen, 64), (Reg.harbGen, 16), (Reg.forgeGen, 16), (Reg.qnGen, 1), (Reg.qnCountGen, 16)] ++
  [(Reg.qnWinGen, 16), (Reg.qnTankGen, 16), (Reg.engGen, 16), (Reg.engEngineGen, 128), (Reg.cacheHoldGen, 16),
   (Reg.hbmGen, 16), (Reg.temperGen, 32), (Reg.seqGen, 1), (Reg.seqHarbGen, 16), (Reg.fltGen, 1), (Reg.bistGen, 1),
   (Reg.bistUnitGen, 80), (Reg.pwrGen, 1), (Reg.pwrDomainGen, 128), (Reg.detGen, 1), (Reg.hazGen, 1)]

/-- The key of the generation that covers an index, if it has one (R271). -/
def genKey (index : Nat) : Option Nat :=
  if index = 0x4401 then some (Reg.hazGen.key 0)
  else (genRows.find? fun r => r.1.base ≤ index && index < r.1.base + r.2).map fun r => r.1.key (index - r.1.base)

end Sys2Proof.Machine
end

