-- ==== Sys2Proof/Machine/State.lean ====
section
/-! DEFINITION. The state of the block as plain data, what a step can stop with, and the state after reset. Registers of
the dictionary stand in `regs` under their index and subindex (Sys2Proof/Machine/Objects.lean names them). -/

namespace Sys2Proof.Machine

/-- What stops a step. -/
inductive Fault where
  /-- Raised by every command that names a unit which Table 0.4 does not number, or whose harbour, lane or island the
  grade does not enable (R6, R10): such a unit does not exist, so nothing can happen on it. Safe: nothing runs on. -/
  | absentUnit
  deriving DecidableEq, Repr

/-- Why a command has no meaning. -/
inductive Refusal where
  /-- Raised by an arm of exec that has no meaning yet. Safe: nothing runs on. -/
  | notModelled (mnemonic : String)
  deriving DecidableEq, Repr

/-- A token: 256 data bits and its tag (R8, R88). -/
structure Token where
  data : Word256
  tag : Tag
  deriving DecidableEq, Repr

/-- A token in a delay register, with the core cycle in which it leaves (R95). -/
structure Timed where
  at' : Nat
  tok : Token
  deriving DecidableEq, Repr

/-- A REP waiting for the instruction it repeats (R152). -/
structure Repeat where
  n : Nat
  sd : Nat
  sa : Nat
  sb : Nat
  sm : Nat
  /-- the REP's own word was lost: only scheduled port operations happen in its slots (R411) -/
  lost : Bool
  deriving DecidableEq, Repr

/-- The registers of a tile instance or of a temper kernel (R127, R192). `fl` holds the five flags as tag[9:5]. -/
structure Regfile where
  v : List Word256
  acc : List (List (BitVec 32))
  p : List Bool
  it : Tag
  fl : BitVec 5
  /-- how each accumulator was last written: 0 cleared or loaded, 1 INT32, 2 FP32 (Table 6.6 class 9) -/
  kinds : List Nat
  deriving DecidableEq, Repr

/-- A running instance of a tile program (R92, R127, R128). -/
structure Instance where
  rf : Regfile
  /-- the cycle a of R92 -/
  start : Nat
  /-- slots used so far: the number of the next slot -/
  slot : Nat
  /-- the next instruction's index in the plane's program -/
  pos : Nat
  beat : Beat
  ordinal : Nat
  rep : Option Repeat
  /-- working words that an STW of this instance has written (Table 6.6 class 4) -/
  wrote : List Nat
  deriving DecidableEq, Repr

/-- One tile (R83), with its memories of 256-bit words and 64-bit instructions, by plane. -/
structure Tile where
  inst : Option Instance
  /-- the cycles before and at the end of the present or last instance's occupancy (R92) -/
  busyFrom : Nat
  busyTo : Nat
  prog0 : List Word64
  prog1 : List Word64
  const0 : Store 256
  const1 : Store 256
  work : Store 256
  /-- the plan of each plane's program: trigger port, formats, draw identity, histories -/
  plan0 : Option TilePlan
  plan1 : Option TilePlan
  /-- the vertical port selects of each plane: to column c − 1, c or c + 1 of the row above and of the row below (Table 4.1) -/
  north0 : Int
  south0 : Int
  north1 : Int
  south1 : Int
  /-- 256-bit words of each plane's load that banked cycles have written (R93) -/
  served0 : Nat
  served1 : Nat
  forging0 : Nat
  forging1 : Nat
  /-- instruction and 64-bit constant words that read 0 until restored (R371): plane, word -/
  lostInstr : List (Bool × Nat)
  lostConst : List (Bool × Nat)
  /-- from a lost working word: tokens of beats in [m, m + D] carry DEGRADED (R371) -/
  degraded : List (Beat × Nat)
  /-- instances of the newest beats, for the ordinal of R360 -/
  ordinals : List (Beat × Nat)
  /-- words of histories pushed: history, word, beat (Table 6.6 class 5) -/
  pushed : List (Nat × Nat × Beat)
  /-- sequences and LAST sent by port in a beat (Table 6.6 class 7) -/
  sentSeqs : List (Nat × Beat × Nat)
  deriving DecidableEq, Repr

/-- A word in a landing buffer (R62): its beat, its place in the lane's beat, its data, whether it counts as invalid
(R71, R75), and the core cycle in which it landed. -/
structure LaneWord where
  beat : Beat
  idx : Nat
  data : Word64
  bad : Bool
  at' : Nat
  deriving DecidableEq, Repr

/-- A block that the FEC decoder holds for its latency: its payload, whether it comes from an uncorrectable codeword, the core
cycle in which it lands, and its stamp where it is a header (R63, R74, R75). -/
structure FecBlock where
  control : Bool
  word : Word64
  bad : Bool
  due : Nat
  stamp : Time96
  deriving DecidableEq, Repr

/-- The pattern checker of a receive lane (R76): the last 31 bits, the newest lowest, how many have come, error-free bits in a
row, whether it is locked, bits since the lock, and the numbers of the errors among the last 1,024 of them. -/
structure Prbs where
  hist : Nat
  fill : Nat
  run : Nat
  locked : Bool
  seen : Nat
  bad : List Nat
  deriving DecidableEq, Repr

/-- The receive side of one lane (03_lanes_shoals.md) other than its objects. -/
structure Lane where
  signal : Bool
  blockLock : Bool
  fecLock : Bool
  armed : Bool
  armBeat : Beat
  /-- consistent markers since VERIFY was entered (R66), or good TOKEN blocks of a ferry in a row (R80) -/
  verify : Nat
  /-- words landed and not yet released -/
  words : List LaneWord
  /-- blocks of the beat that count as words, since its header -/
  count : Nat
  /-- the beat whose header was accepted last -/
  beat : Option Beat
  declared : Nat
  crc : Nat
  crcValid : Bool
  /-- stamps of headers accepted, by beat, newest first (R63) -/
  stamps : List (Beat × Time96)
  /-- an ALIGN_A that waits for its ALIGN_B within decoded blocks -/
  alignA : Option (Word64 × Time96)
  /-- the lane's tokens carry data from this beat on (ALIGNED from the marker's beat) -/
  alignedFrom : Beat
  /-- the core cycle in which the lane left ALIGNED last (R70) -/
  leftAt : Option Nat
  injectCount : Nat
  /-- a shot of error injection that the next block meets: bits to flip (R77) -/
  injectBits : Nat
  /-- the core cycle from which the period of injected errors runs (R77) -/
  injectAt : Nat
  /-- the descrambler's register (R56) -/
  scrambler : Nat
  /-- blocks in the FEC decoder, and the interleaves with an uncorrectable codeword in a row (R74, R75) -/
  fecOut : List FecBlock
  fecBad : Nat
  prbs : Prbs
  /-- a TOKEN block and its data blocks so far, within decoded blocks -/
  ferryPart : List Word64
  /-- last ferry sequence of a good TOKEN block -/
  ferrySeq : Option Nat
  /-- ferry tokens held until their release (R79) -/
  ferryTokens : List Timed
  ferryLost : Bool
  /-- release cycle of each slot after the boundary of the token's beat (R99) -/
  ferryRelease : List Nat
  /-- the greatest landing cycle, after the boundary of its beat, of the sounding tokens of a sounding in progress (R99) -/
  ferryLanding : Option Int
  /-- slots released, with the beat in which they were -/
  ferryDone : List (Nat × Beat)
  /-- the beat from which a realigned ferry lane delivers (R80) -/
  ferryFrom : Option Beat
  deriving DecidableEq, Repr

/-- What a shoal keeps of a beat: the core cycles from which it sets DEGRADED and OVERFULL (R70 to R72), words discarded,
and the tokens released, by lane position and number. -/
structure ShoalBeat where
  beat : Beat
  degraded : Option Nat
  overfull : Option Nat
  trunc : Nat
  released : List (Nat × Nat)
  deriving DecidableEq, Repr

/-- The transmit side of one lane (R56, R74, R77): the scrambler's register, scrambled blocks that wait for an interleave of
the FEC, bits to flip before the serializer, and the core cycle from which the period of injected errors runs. -/
structure XLane where
  scrambler : Nat
  part : List (Bool × Word64)
  inject : Nat
  injectAt : Nat
  deriving DecidableEq, Repr

structure Shoal where
  beats : List ShoalBeat
  /-- beat stamps (R63), newest first -/
  stamps : List (Beat × Time96)
  deriving DecidableEq, Repr

/-- One plane of one forging, beside its state object (R84, R101). -/
structure Plane where
  plan : Option ForgingPlan
  shoals : List ShoalPlan
  parts : List PartPlan
  hash : List Byte
  /-- which store the plane was loaded from: the committed IMG_DOMAIN or IMG_SHADOW -/
  fromShadow : Bool
  first : Beat
  last : Beat
  /-- remap tables in force on the islands that the plane uses, since its last load or sounding (R112) -/
  tables : List (Nat × List Byte)
  /-- the delay registers' settings: tile input ports and quench inputs -/
  portDelay : List (Nat × Nat)
  quenchDelay : List (Nat × Nat)
  /-- for R104: shared elements (kind and place as FORGE_SWAP_CONFLICT names them) and offsets from the boundary -/
  offsets : List (Nat × Nat)
  /-- both parts of the load in progress are complete (R20, R101) -/
  loaded : Bool
  /-- sounding in progress: the boundary s -/
  soundBeat : Option Beat
  /-- the wafer's own sounding of the plane has ended with this code of Table 4.4, and the peers' results are awaited (R100) -/
  ownResult : Option Nat
  deriving DecidableEq, Repr

/-- An entry of a ledger (R167). -/
structure LedEntry where
  beat : Beat
  cls : Nat
  owed : Nat
  slack : Int
  deriving DecidableEq, Repr

/-- A refused beat kept for late accept (R170). -/
structure Refused where
  beat : Beat
  cls : Nat
  slot : Beat
  record : BitVec 128
  deriving DecidableEq, Repr

/-- A forging at its home quench. -/
structure Quench where
  /-- final tokens taken: beat, input, token -/
  taken : List (Beat × Nat × Token)
  inbox : List (Nat × List Timed)
  led0 : List (Nat × List LedEntry)
  ledP : List (Nat × List LedEntry)
  refused : List Refused
  /-- the window table selected from a beat on, newest first -/
  tables : List (Beat × Nat)
  /-- the plane each beat runs on: from a beat on, newest first -/
  planes : List (Beat × Bool)
  /-- beats with a verdict whose first record is still to be issued -/
  toIssue : List Beat
  records : List (BitVec 128)
  deriving DecidableEq, Repr

/-- A token of a beat's payload in a staging buffer (R166). -/
structure Staged where
  forging : Nat
  beat : Beat
  shoal : Nat
  position : Nat
  token : Nat
  data : Word256
  deriving DecidableEq, Repr

/-- A share of a beat's payload at a harbour (R166): its words in the order of R172. -/
structure Share where
  forging : Nat
  beat : Beat
  cls : Nat
  words : List Word64
  sent : Nat
  late : Bool
  deriving DecidableEq, Repr

/-- A granted pin (R195). -/
structure Pin where
  forging : Nat
  beat : Beat
  /-- words reserved in the spare area -/
  size : Nat
  words : List Word64
  release : Beat
  deriving DecidableEq, Repr

/-- A pin rule (R195). -/
structure PinRule where
  forging : Nat
  start : Beat
  beats : Nat
  mask : Nat
  life : Nat
  live : Bool
  deriving DecidableEq, Repr

/-- A block on a transmit lane (Tables 3.2 and 7.4). -/
inductive TxBlock where
  | txBeat (beat : Beat) (lane crc : Nat)
  | verdict (crc : Nat)
  | payload (beat : Beat) (forging count offset : Nat)
  | data (w : Word64)
  | fill
  | token (tag : Tag) (seq crc : Nat)
  | digest (w : Word64)
  deriving DecidableEq, Repr

/-- Tank, staging and readout of one harbour. -/
structure Tank where
  staging : List Staged
  queued : List Share
  pins : List Pin
  /-- records of forgings homed here that wait for the next slot; the flag marks second records -/
  outRecords : List (Bool × BitVec 128)
  laneCrc : List Nat
  deriving DecidableEq, Repr

/-- A command of a harbour queue (R177). -/
abbrev Cmd := BitVec 256

/-- A pending add-to-line reduction (R217, R221). -/
structure Reduction where
  temper : Nat
  addr : Nat
  fmt : Nat
  data : Word256
  ordered : Bool
  cycle : Nat
  harbour : Nat
  deriving DecidableEq, Repr

/-- What an item of a decoupling queue does when it is delivered (R186, R199, R216, R219, R223). -/
inductive ItemUse where
  /-- the line of `src` goes to `dst`: FETCH, STORE and COPY -/
  | copy
  /-- the first `bytes` bytes of the item's data go to `dst`: FILL, PIN_COPY, outputs of a job, writes of a temper -/
  | write (bytes : Nat)
  /-- a line of a list, a descriptor or coefficients, or of an image, for the command that reads it -/
  | read (image : Bool)
  /-- a line for class `cls` of the first levels of temper `u`; class 4 stands for no cache -/
  | first (u cls : Nat)
  /-- a fill of RANGE_PREFETCH: into the classes named of the command's temper, or into the hold alone -/
  | prefetch (classes : List Nat)
  /-- a hold line is written back, and dropped or kept: RANGE_INVALIDATE, RANGE_FLUSH -/
  | clean (drop : Bool)
  /-- an evicted dirty line on its way from its hold to its stack -/
  | evict
  /-- a reduction on its way to the hold that performs it -/
  | reduce (r : Reduction)
  deriving DecidableEq, Repr

/-- A decoupling queue item (R186). -/
structure Item where
  engine : Nat
  queue : Nat
  use : ItemUse
  src : Nat
  dst : Nat
  /-- offset in lines within its command -/
  offset : Nat
  issued : Nat
  due : Nat
  /-- the line must come from its stack; and the stack has taken the request (R186) -/
  stack : Bool
  taken : Bool
  arrived : Bool
  /-- the line has been read into `data` -/
  got : Bool
  poisoned : Bool
  data : BitVec 512
  deriving DecidableEq, Repr

/-- A line that has come for a command or for an instruction of a kernel: its first-level class, number, data, poison. -/
structure Got where
  cls : Nat
  line : Nat
  data : BitVec 512
  poison : Bool
  deriving DecidableEq, Repr

/-- A command that an engine runs (R182, R184). -/
structure Running where
  engine : Nat
  queue : Nat
  cmd : Cmd
  started : Nat
  /-- body done: COMMAND_COMPLETE may end it -/
  finished : Bool
  status : Nat
  detail : Nat
  /-- lines issued, lines delivered, and lines in all -/
  issued : Nat
  delivered : Nat
  total : Nat
  /-- what it has read of a list, a descriptor, coefficients or images -/
  lines : List Got
  poison : Bool
  /-- the listed commands of a LIST still to run, and the LIST itself -/
  listLeft : List Cmd
  listCmd : Option Cmd
  /-- a LIST was found inside the list: every command after it ends with OPCODE too (R181) -/
  listBad : Bool
  /-- committed at the bellows (R250) -/
  posted : Bool
  deriving DecidableEq, Repr

/-- A kernel on a temper (R192, R193). -/
structure Kernel where
  rf : Regfile
  ar : List (BitVec 64)
  budget : Nat
  executed : Nat
  pos : Nat
  slot : Nat
  rep : Option Repeat
  addr : Nat
  len : Nat
  seedIndex : Nat
  tag : Nat
  queue : Nat
  status : Nat
  detail : Nat
  ended : Bool
  /-- repetitions done of the instruction in progress, none before it has been fetched -/
  done : Option Nat
  /-- lines that have come for the instruction in progress (R214) -/
  arrived : List Got
  deriving DecidableEq, Repr

/-- A line of a first-level cache (R213), newest first in its list. -/
structure CLine where
  line : Nat
  data : BitVec 512
  dirty : Bool
  /-- it came poisoned (R199) -/
  poison : Bool
  deriving DecidableEq, Repr

/-- One temper's first levels, split and kernel (R211, R213). -/
structure Temper where
  data : List CLine
  const : List CLine
  desc : List CLine
  instr : List CLine
  kernel : Option Kernel
  /-- misses of the repetition that is being tried: class and line -/
  wants : List (Nat × Nat)
  deriving DecidableEq, Repr

/-- A bellows context (R244). -/
structure Ctx where
  state : Nat
  opcode : Nat
  addr : Nat
  k : List (BitVec 64)
  stack : List Nat
  commit : Bool
  flags : BitVec 4
  issued : Nat
  restarts : Nat
  engine : Nat
  queue : Nat
  /-- unit events that may satisfy a later WAIT (Table 11.2) -/
  events : BitVec 16
  /-- the earliest group cycle of its next issue (R245) -/
  next : Nat
  /-- the unit, claimed by a test, at whose release it restarts (R252) -/
  awaits : Option FaultUnit
  deriving DecidableEq, Repr

/-- The engines, hold and bellows of one harbour. -/
structure Harbour where
  /-- token counters by number, 0 where none is listed (R178) -/
  tokens : List (Nat × BitVec 16)
  queues : List (Nat × List Cmd)
  running : List Running
  /-- the items of a decoupling queue by its number, oldest first (R186) -/
  dqs : List (Nat × List Item)
  pinRules : List PinRule
  completions : List (BitVec 128)
  /-- hold cache lines: line number in the stack and dirty, most recent first (R209) -/
  hold : List (Nat × Bool)
  temper0 : Temper
  temper1 : Temper
  reductions : List Reduction
  ordered : List Reduction
  ctxs : List (Nat × Ctx)
  stalled : Bool
  scratch : List (Nat × Nat × Nat)
  scrubLine : Nat
  refreshAt : List (Nat × Nat)
  /-- the timing objects of the stack in force: TRCD, TRP, TRAS, TWR, TRFCPB, TREFI (R207) -/
  timing : List Nat
  /-- evicted dirty lines that wait for an entry of DQ3 (R186) -/
  victims : List Nat
  /-- the queue whose turn it is to hand a request to the stack: DQ0 to DQ3, 4 for remote harbours (R186) -/
  takeNext : Nat
  /-- the tongs queue whose turn it is to issue a line, and the core cycle from which it may (R182) -/
  tongsNext : Nat
  tongsFree : Nat
  /-- core cycles from which the hold may perform an unordered and the ordering unit an ordered reduction (R219, R221) -/
  redFree : Nat
  orderedFree : Nat
  /-- lines bad in the stack while the hold has them good (R206) -/
  badLines : List Nat
  /-- the core cycle from which the system pipe may issue, and the context that issued there last (R245) -/
  pipeAt : Nat
  pipeLast : Nat
  deriving DecidableEq, Repr

/-- Microcode patch in force on every enabled harbour, with the parity of each word, one bit per byte (R249, R255, R259). -/
structure Patch where
  micro : List (BitVec 24)
  nano : List (BitVec 144)
  match' : List (BitVec 32)
  microParity : List (BitVec 3)
  nanoParity : List (BitVec 18)
  matchParity : List (BitVec 4)
  deriving DecidableEq, Repr

/-- A snapshot of a wide read (R272). -/
structure Snapshot where
  via : Via
  key : Nat
  bytes : List Byte
  parts : List Nat
  opened : Nat
  /-- the core cycle of its last fragment, for a DOMAIN read session (R279) -/
  touched : Nat
  isDomain : Bool
  /-- ended before every part was delivered (R272) -/
  dead : Bool
  deriving DecidableEq, Repr

/-- A pending UART wide write (R275). -/
structure PendingWrite where
  via : Via
  key : Nat
  parts : List (Nat × Nat)
  opened : Nat
  /-- discarded before its last part came (R275) -/
  dead : Bool
  deriving DecidableEq, Repr

/-- A DOMAIN write session (R277). -/
structure WriteSession where
  id : Nat
  via : Via
  key : Nat
  size : Nat
  /-- none while a USDO download has not brought it yet (R296) -/
  crc : Option Nat
  /-- offset and bytes of each chunk, oldest first -/
  chunks : List (Nat × List Byte)
  touched : Nat
  deriving DecidableEq, Repr

/-- An Ethernet transport session (R276, R307, R308). -/
structure EthSession where
  via : Via
  replies : List (Nat × List Byte)
  mask : Nat
  /-- the link-layer source of the frame that subscribed (R303) -/
  mac : Nat
  seq : Nat
  lastSeen : Nat
  deriving DecidableEq, Repr

/-- A USDO segmented download in progress: its client, its object, the bytes it announced and those that have come, and the
DOMAIN write session it opened (R296). -/
structure UsdoTransfer where
  node : Nat
  key : Nat
  size : Nat
  data : List Byte
  session : Nat
  deriving DecidableEq, Repr

/-- A queued EMCY (R300). -/
structure Emcy where
  code : Nat
  register : Nat
  unit : Nat
  beat : Nat
  deriving DecidableEq, Repr

/-- A master that announces itself (R41). -/
structure Foreign where
  master : Nat
  rank : List Nat
  utcOffset : Int
  deriving DecidableEq, Repr

/-- The PTP servo (R38 to R45). -/
structure Servo where
  /-- masters heard, and the one selected last with whether it has been lost since -/
  masters : List Foreign
  selected : Option Nat
  lost : Bool
  /-- good samples in a row, and refused ones (R41, R42) -/
  good : Nat
  refusedRun : Nat
  /-- a two-step Sync that waits for its Follow_Up, with its receive stamp (R36, R38) -/
  waiting : Option (PtpSync × Int)
  /-- one-way delay in 2^-16 ns -/
  delay : Int
  /-- the last sampled Sync: its corrected origin and receive times in 2^-16 ns, for the end-to-end delay -/
  lastSync : Option (Int × Int)
  /-- the last Delay_Req or Pdelay_Req sent: sequence and transmit time -/
  request : Option (Nat × Int)
  reqSeq : Nat
  syncSeq : Nat
  deriving DecidableEq, Repr

/-- The Silush receiver and slot timer; times in 1/64 UI (R317). -/
structure Silush where
  /-- the origin of the cycle in progress, and whether a slot 0 preamble has given it -/
  origin : Nat
  originKnown : Bool
  /-- a slot 0 preamble has arrived in this cycle -/
  slot0Seen : Bool
  /-- one arrived in the cycle before -/
  slot0Before : Bool
  /-- the sequence of the last slot 0 whose data was used -/
  seq : Nat
  /-- A of R320, once ranged -/
  loopDelay : Nat
  /-- slot 0 arrivals off the pace, in a row (R330) -/
  offRun : Nat
  /-- cycles in a row in which the engine transmitted and its own slot was COLLIDED (R329) -/
  collRun : Nat
  /-- the engine has transmitted in this cycle, or must not -/
  sent : Bool
  dark : Bool
  /-- this is a RANGE cycle; the send time of the ranging burst -/
  rangeCycle : Bool
  rangeSent : Option Nat
  /-- cycles in a row without a burst, by slot (R330) -/
  absentRun : List (Nat × Nat)
  /-- slots with a burst in this cycle, COLLIDED slots, and a collision that spills into the next slot 0 (R328) -/
  seen : List Nat
  collided : List Nat
  spill : Bool
  /-- a BEAT that waits for its PHASE: sequence, beat, arrival; and the cycles since -/
  beatHeard : Option (Nat × Nat × Nat)
  beatAge : Nat
  /-- a REFUSE was issued in the previous cycle, and in this one (Table 7.6) -/
  refusing : Bool
  refusedNow : Bool
  deriving DecidableEq, Repr

/-- A targeted self-test that is pending or running (R373). -/
structure Test where
  unit : FaultUnit
  running : Bool
  since : Nat
  uncorrectable : Bool
  errors : Nat
  detail : Nat
  deriving DecidableEq, Repr

/-- What the fault logic remembers of a unit (R375): times of its classes, of its INTERMITTENT classes, PERSISTENT. -/
structure UnitClass where
  unit : FaultUnit
  last : Option Nat
  intermittent : List Nat
  persistent : Bool
  deriving DecidableEq, Repr

/-- A remap offer (R379). -/
structure Offer where
  island : Nat
  row : Nat
  plane : Bool
  newByte : Nat
  forgings : Nat
  beat : Beat
  table : List Byte
  deriving DecidableEq, Repr

/-- A failed tile whose offer waits for a free plane (R378). -/
structure Waiting where
  island : Nat
  row : Nat
  col : Nat
  beat : Beat
  deriving DecidableEq, Repr

/-- A record of the tap memory (R364). -/
structure TapRecord where
  tok : Token
  beat : Beat
  entry : Nat
  lost : Bool
  step : Nat
  deriving DecidableEq, Repr

/-- What a one-step PTP frame needs once its stamp is written (R39): over IPv4 a UDP checksum of 0; over IPv6 two appended
octets that keep the checksum right; on Layer 2 a new frame check sequence. -/
inductive PtpFix where
  | udpChecksum (v : Nat)
  | octets (v : Nat)
  | frameCheck
  deriving DecidableEq, Repr

/-- Everything a pin, fibre or bus of the carrier has shown, newest first: the model's own record of outputs. -/
inductive Out where
  | answer (via : Via) (bytes : List Byte)
  /-- a datagram to an Ethernet source, and the link-layer address that its frame goes to (R303) -/
  | udp (mac : Nat) (via : Via) (bytes : List Byte)
  /-- a response on the UART, at a divisor of the sample tick (R309) -/
  | uart (divisor : Nat) (bytes : List Byte)
  | status (code : Nat)
  /-- a CAN frame, its format and its data rate code (R291, Table 13.1) -/
  | can (frame : CanFrame) (rate id : Nat) (bytes : List Byte)
  | eth (port mac : Nat) (bytes : List Byte)
  | slot (harbour : Nat) (beat : Beat) (blocks : List TxBlock)
  | verdict (forging : Nat) (record : BitVec 128)
  | ferry (lane at' : Nat) (tok : Token) (blocks : List TxBlock)
  /-- a burst: the start of its preamble, then preamble and payload, first bit highest (R318) -/
  | silush (at' : Nat) (bits : BitVec 88)
  | compare (lane : Nat) (w : Word64)
  /-- a PTP message on a port, its stamp and correction, and what its mapping then needs (R39) -/
  | ptp (port kind seq : Nat) (stamp : Time96) (correction : Int) (fix : PtpFix)
  | jtag (bits : Nat) (value : Nat)
  /-- symbols on the line of a transmit lane: bits, or PAM4 levels (R56) -/
  | line (lane : Nat) (levels : List Nat)
  deriving DecidableEq, Repr

/-- The beat counter (R29, R30, R412): whether a count runs, the number, the cycle of the last boundary, the period in
force, boundaries since the count began, and whether the count is the one that actions see. -/
structure BeatCount where
  on : Bool
  n : Beat
  at' : Nat
  period : Nat
  since : Nat
  /-- boundaries passed, with their cycles, newest first -/
  past : List (Beat × Nat)
  /-- under SILUSH the first pair after entering ARMED is still to come -/
  fresh : Bool
  deriving DecidableEq, Repr

/-- A reading of the local clock in a core cycle, and the increment from there on. -/
structure ClockMark where
  cycle : Nat
  sec : Nat
  sub : Nat
  inc : Nat
  deriving DecidableEq, Repr

/-- Clocks (R25, R33, R35) and the servo's increment. `sub` counts units of 2^-32 ns within the second. -/
structure Clocks where
  cycle : Nat
  sec : Nat
  sub : Nat
  inc : Nat
  nextPub : Nat
  hearth : Bool
  refclk : Bool
  /-- the clock's reading and increment from a core cycle on, newest first: one entry for each step and each change of the
  increment, so that an instant gone by has the reading it had (R36, R63) -/
  marks : List ClockMark
  deriving DecidableEq, Repr

/-- A run and the commands that wait for a boundary (R337 to R339). -/
structure Run where
  /-- first beat with verdicts, once a run has started -/
  first : Option Beat
  /-- first beat without verdicts -/
  stopAt : Option Beat
  startAt : Option Beat
  stopCmd : Option Beat
  holdAt : Option Beat
  /-- 0 none, 1 drain to HELD, 2 drain to ARMED -/
  drain : Nat
  drainStop : Beat
  deriving DecidableEq, Repr

/-- An activation under way (R348): 0 none, 1 waiting for the slot 0 pair, 2 loading, 3 sounding, 4 ready. -/
structure Activation where
  phase : Nat
  cancelled : Bool
  /-- receive ferries on which a peer reported a failure that is still to be relayed (R100) -/
  relay : List Nat
  /-- results that ferry peers have reported in the present sounding, by receive lane (R100) -/
  results : List (Nat × Bool)
  /-- the beat in which the wafer's own sounding ended, while its peers' results are awaited (R100) -/
  endedAt : Option Beat
  deriving DecidableEq, Repr

/-- Which of a scheduled action's facts the slot's objects do not show (R48, R49): the beat it is rewritten to when it
was past with ASAP, whether a step carried it past its time, whether it was committed in HELD, and where it was expected. -/
structure ActionExtra where
  asapBeat : Option Beat
  stepped : Bool
  inHeld : Bool
  /-- the boundary expected at commit (R104) -/
  expected : Beat
  deriving DecidableEq, Repr

/-- Images: the committed contents beside their objects (R345, R346). -/
structure Images where
  main : Option ImagePlan
  shadow : Option ImagePlan
  active : Option ImagePlan
  /-- raw SHOALS, PARTITIONS and FERRIES sections of the active and the shadow image, for R352 -/
  activeFrame : List (List Byte)
  shadowFrame : List (List Byte)
  shadowHash : List Byte
  mainHash : List Byte
  deriving DecidableEq, Repr

/-- The transports' sessions and queues. -/
structure Links where
  snapshots : List Snapshot
  pendingWrites : List PendingWrite
  writes : List WriteSession
  nextSession : Nat
  sessions : List EthSession
  transfers : List UsdoTransfer
  emcys : List Emcy
  /-- the heartbeat of the entry to FAULTED waits for the EMCY of its cause (R294) -/
  beatOwed : Bool
  lastEmcy : Nat
  heartbeatAt : Nat
  syncCount : Nat
  tpdoLast : List (Nat × Nat)
  tpdoSyncs : List (Nat × Nat)
  /-- transmit PDOs whose change waits for the inhibit time (R298) -/
  tpdoChanged : List Nat
  rpdoWaiting : List (Nat × List Byte)
  /-- node-ID and data rate in force (R292) -/
  node : Nat
  rate : Nat
  /-- characters of a UART line that no CR has ended yet (R312) -/
  uartLine : List RxChar
  /-- the divisor of the UART's sample tick in force (R309) -/
  uartDivisor : Nat
  /-- the CONTROL cycle in which the last access took effect, and the place of its transport in the order of R269 -/
  applied : Nat × Nat
  deriving DecidableEq, Repr

/-- Faults, self-tests, BIST, taps and digests. -/
structure Faults where
  log : List (BitVec 128)
  hazards : List (BitVec 128)
  tests : List Test
  classes : List UnitClass
  offers : List Offer
  offersWaiting : List Waiting
  /-- BIST running: unit and kinds (1 logic, 2 memory, 3 both) -/
  bist : Option (Nat × Nat)
  taps : List TapRecord
  /-- the buffers of tapped elements, by entry and plane, and those whose next token carries LOST (R363) -/
  tapBuffers : List (Nat × List TapRecord)
  tapLost : List Nat
  frozen : Bool
  digests : List (Beat × Nat)
  peers : List (Beat × Nat × Nat)
  recordsOf : List (Beat × Nat × BitVec 128)
  deriving DecidableEq, Repr

/-- Rails, temperatures and the throttle (R401 to R407). -/
structure Power where
  aux : Bool
  mainOn : Bool
  mainOut : Bool
  auxOut : Bool
  mainOutSince : Nat
  warm : List Nat
  throttled : Bool
  testEn : Bool
  /-- the core cycle in which the last ramp of a domain began (R394) -/
  rampFrom : Nat
  deriving DecidableEq, Repr

/-- The persistent objects in carrier flash (R267, R292). -/
structure Flash where
  patch : List Byte
  bistAtBoot : Nat
  nodeId : Option Nat
  dataRate : Option Nat
  deriving DecidableEq, Repr

/-- The state of the block. -/
structure State where
  /-- commands that wait, first in, first out -/
  pending : List Instr
  clocks : Clocks
  beat : BeatCount
  run : Run
  act : Activation
  carrier : Carrier
  flash : Flash
  /-- the dictionary's registers: those not listed hold their default -/
  regs : List (Nat × Nat)
  /-- the dictionary's byte strings that the host writes or the engine keeps whole -/
  domains : List (Nat × List Byte)
  /-- the published copy of the ro values (R270) -/
  pub : List (Nat × Nat)
  pubDomains : List (Nat × List Byte)
  actions : List (Nat × ActionExtra)
  /-- beats of executed PLANE_SWAPs and BEAT_PERIODs since ARMED (R104) -/
  swaps : List Beat
  periods : List Beat
  servo : Servo
  lanes : List (Nat × Lane)
  /-- the next ferry sequence of each transmit lane (R78) -/
  xseq : List (Nat × Nat)
  /-- the transmit lanes beside their objects -/
  xlanes : List (Nat × XLane)
  shoals : List (Nat × Shoal)
  /-- physical tiles, by island, row and physical column -/
  tiles : List (Nat × Tile)
  /-- tokens in tile input delay registers, by tile, port and plane -/
  lines : List (Nat × List Timed)
  /-- remap tables in force, by island and plane: those of the last load or sounding of the plane there (R112) -/
  remaps : List (Nat × List Byte)
  planes : List (Nat × Plane)
  quenches : List (Nat × Quench)
  tanks : List (Nat × Tank)
  harbours : List (Nat × Harbour)
  /-- bytes of spaces 0, 1 and 2 by engine address (R176) -/
  mem : List Host.Cell
  /-- poisoned lines, by engine address / 64 (R199) -/
  poison : List Nat
  patch : Patch
  images : Images
  links : Links
  silush : Silush
  faults : Faults
  power : Power
  /-- what has left the carrier, newest first: the model's own record -/
  outbox : List Out
  /-- counts the free values used: the model's own counter (notes/assumptions/6.md) -/
  free : Nat
  deriving DecidableEq, Repr

/-- An empty register file (R128): all registers 0, P0 reads 1. -/
def Regfile.clear : Regfile :=
  { v := List.replicate 16 0#256, acc := List.replicate 4 (List.replicate 16 0#32),
    p := true :: List.replicate 7 false, it := 0#32, fl := 0#5, kinds := [0, 0, 0, 0] }

/-- A tile with no program and memories of 0 (R397). -/
def Tile.empty : Tile :=
  { inst := none, busyFrom := 0, busyTo := 0, prog0 := [], prog1 := [], const0 := [], const1 := [], work := [], plan0 := none,
    plan1 := none, north0 := 0, south0 := 0, north1 := 0, south1 := 0, served0 := 0, served1 := 0, forging0 := 0, forging1 := 0, lostInstr := [], lostConst := [], degraded := [],
    ordinals := [], pushed := [], sentSeqs := [] }

/-- A pattern checker that has seen nothing. -/
def Prbs.idle : Prbs := { hist := 0, fill := 0, run := 0, locked := false, seen := 0, bad := [] }

/-- A transmit lane that has sent nothing. DESIGN CHOICE (notes/assumptions/108.md): the scrambler begins with zeros. -/
def XLane.idle : XLane := { scrambler := 0, part := [], inject := 0, injectAt := 0 }

/-- A lane without signal. -/
def Lane.down : Lane :=
  { signal := false, blockLock := false, fecLock := false, armed := false, armBeat := 0#48, verify := 0, words := [],
    count := 0, beat := none, declared := 0, crc := 0xFFFF, crcValid := false, stamps := [], alignA := none,
    alignedFrom := 0#48, leftAt := none, injectCount := 0, injectBits := 0, injectAt := 0,
    scrambler := 0, fecOut := [], fecBad := 0, prbs := Prbs.idle, ferryPart := [], ferrySeq := none, ferryTokens := [],
    ferryLost := false, ferryRelease := [], ferryLanding := none, ferryDone := [],
    ferryFrom := none }

def Shoal.empty : Shoal := { beats := [], stamps := [] }

def Plane.empty : Plane :=
  { plan := none, shoals := [], parts := [], hash := [], fromShadow := false, first := 0#48, last := 0#48, tables := [], portDelay := [],
    quenchDelay := [], offsets := [], loaded := false, soundBeat := none, ownResult := none }

def Quench.empty : Quench :=
  { taken := [], inbox := [], led0 := [], ledP := [], refused := [], tables := [], planes := [], toIssue := [],
    records := [] }

def Tank.empty : Tank := { staging := [], queued := [], pins := [], outRecords := [], laneCrc := [] }

def Temper.empty : Temper := { data := [], const := [], desc := [], instr := [], kernel := none, wants := [] }

def Ctx.idle : Ctx :=
  { state := 0, opcode := 0, addr := 0, k := List.replicate 32 0#64, stack := [], commit := false, flags := 0#4,
    issued := 0, restarts := 0, engine := 0, queue := 0, events := 0#16, next := 0, awaits := none }

def Harbour.empty : Harbour :=
  { tokens := [], queues := [], running := [], dqs := [], pinRules := [],
    completions := [], hold := [], temper0 := Temper.empty, temper1 := Temper.empty, reductions := [], ordered := [],
    ctxs := [], stalled := false, scratch := [], scrubLine := 0, refreshAt := [], timing := [], victims := [], takeNext := 0,
    tongsNext := 0, tongsFree := 0, redFree := 0, orderedFree := 0, badLines := [], pipeAt := 0, pipeLast := 0 }

def Servo.free : Servo :=
  { masters := [], selected := none, lost := false, good := 0, refusedRun := 0, waiting := none, delay := 0,
    lastSync := none, request := none, reqSeq := 0, syncSeq := 0 }

def Silush.off : Silush :=
  { origin := 0, originKnown := false, slot0Seen := false, slot0Before := false, seq := 0, loopDelay := 0, offRun := 0, collRun := 0, sent := false,
    dark := false, rangeCycle := false, rangeSent := none, absentRun := [], seen := [], collided := [], spill := false,
    beatHeard := none, beatAge := 0, refusing := false, refusedNow := false }

def Run.none : Run :=
  { first := Option.none, stopAt := Option.none, startAt := Option.none, stopCmd := Option.none, holdAt := Option.none,
    drain := 0, drainStop := 0#48 }

def Activation.none : Activation := { phase := 0, cancelled := false, relay := [], results := [], endedAt := Option.none }

def BeatCount.off : BeatCount := { on := false, n := 0#48, at' := 0, period := 1600, since := 0, past := [], fresh := false }

def Images.none : Images :=
  { main := Option.none, shadow := Option.none, active := Option.none, activeFrame := [], shadowFrame := [],
    shadowHash := [], mainHash := [] }

def Links.none : Links :=
  { snapshots := [], pendingWrites := [], writes := [], nextSession := 1, sessions := [], transfers := [], emcys := [],
    beatOwed := false, lastEmcy := 0, heartbeatAt := 0, syncCount := 0, tpdoLast := [], tpdoSyncs := [],
    tpdoChanged := [], rpdoWaiting := [], uartLine := [], uartDivisor := 27778, applied := (0, 0), node := 1, rate := 2 }

def Faults.none : Faults :=
  { log := [], hazards := [], tests := [], classes := [], offers := [], offersWaiting := [], bist := Option.none,
    taps := [], tapBuffers := [], tapLost := [], frozen := false, digests := [], peers := [], recordsOf := [] }

def Power.off : Power :=
  { aux := false, mainOn := false, mainOut := false, auxOut := false, mainOutSince := 0, warm := [],
    throttled := false, testEn := false, rampFrom := 0 }

def Patch.none : Patch := { micro := [], nano := [], match' := [], microParity := [], nanoParity := [], matchParity := [] }

/-- The carrier before Virrin has read it: DESIGN CHOICE (notes/assumptions/5.md). -/
def Carrier.blank : Carrier :=
  { grade := 0, stepping := 0, serial := [], revision := 0, virrin := 0, nodeId := 1, mac0 := 0, mac1 := 0,
    ptpRxLat := 0, ptpTxLat := 0, stampOffsets := [], stampUncs := [], eqTable := [], stackTimings := [], patchFloor := 0,
    remapFactory := [], productRevision := 0 }

/-- The nominal increment of the local clock, 0.625 ns in units of 2^-32 ns (R35). -/
def nominalInc : Nat := 2684354560

/-- The block before its first POWER_UP: state OFF, every object at its default, nothing placed anywhere
(R267, R333; notes/assumptions/4.md). -/
def State.reset : State :=
  { pending := [], clocks := { cycle := 0, sec := 0, sub := 0, inc := nominalInc, nextPub := 0, hearth := false, refclk := false, marks := [] },
    beat := BeatCount.off, run := Run.none, act := Activation.none, carrier := Carrier.blank,
    flash := { patch := [], bistAtBoot := 0, nodeId := none, dataRate := none }, regs := [], domains := [], pub := [],
    pubDomains := [], actions := [], swaps := [], periods := [], servo := Servo.free, lanes := [], xseq := [], xlanes := [], shoals := [],
    tiles := [], lines := [], remaps := [], planes := [], quenches := [], tanks := [], harbours := [], mem := [], poison := [],
    patch := Patch.none, images := Images.none, links := Links.none, silush := Silush.off, faults := Faults.none,
    power := Power.off, outbox := [], free := 0 }

end Sys2Proof.Machine
end

