-- ==== Sys2Proof/Machine/Ops.lean ====
section
/-! DEFINITION. The named operations over registers, states of the engine, units, time, memory, the fault log and EMCYs
that every family uses. -/

namespace Sys2Proof.Machine

/-- How every command ends: with a next state that keeps the queue of waiting commands as the step left it. -/
def done (s t : State) : Host.Outcome State Fault Refusal := .next { t with pending := s.pending }

/-- A command on a unit that Table 0.4 or the grade does not have is no command (R6). -/
def onUnit (present : Bool) (s t : State) : Host.Outcome State Fault Refusal :=
  if present then done s t else .fault .absentUnit

/-! ### Status codes (Table 12.3) -/

/-- Success. -/
def scOk : Nat := 0
/-- Value refused. -/
def scValue : Nat := 0x06090030
/-- Refused in the present state of the engine or the object. -/
def scState : Nat := 0x08000022
/-- Length does not match the type or exceeds the maximum. -/
def scLength : Nat := 0x06070010

/-! ### Registers -/

/-- The value of a register of unit `n`. -/
def State.reg (s : State) (r : Reg) (n : Nat := 0) : Nat := tabGet r.dflt s.regs (r.key n)

/-- Writes a register of unit `n`. -/
def State.setReg (s : State) (r : Reg) (n v : Nat) : State := { s with regs := tabSet s.regs (r.key n) v }

/-- Adds to a counter, which wraps at its width (R267). -/
def State.count (s : State) (r : Reg) (n : Nat) (bits : Nat := 32) (k : Nat := 1) : State :=
  s.setReg r n ((s.reg r n + k) % 2 ^ bits)

/-- A BOOLEAN register. -/
def State.flag (s : State) (r : Reg) (n : Nat := 0) : Bool := s.reg r n != 0

/-! ### States of the engine (R333) -/

inductive Mode where
  | off | boot | held | armed | running | stopped | faulted
  deriving DecidableEq, Repr

/-- ID_STATE (Table 15.1); OFF has no code and reads 0 here. -/
def Mode.code : Mode → Nat
  | .off => 0
  | .boot => 1
  | .held => 2
  | .armed => 3
  | .running => 4
  | .stopped => 5
  | .faulted => 6

def Mode.ofCode : Nat → Mode
  | 1 => .boot
  | 2 => .held
  | 3 => .armed
  | 4 => .running
  | 5 => .stopped
  | 6 => .faulted
  | _ => .off

/-- The state the engine is in. -/
def State.mode (s : State) : Mode := Mode.ofCode (s.reg Reg.idState)

/-- ARMED, RUNNING or STOPPED: tokens flow (Table 15.2). -/
def Mode.flows : Mode → Bool
  | .armed => true
  | .running => true
  | .stopped => true
  | _ => false

/-- HELD, ARMED, RUNNING or STOPPED: the dictionary takes writes of rw objects (Table 12.2). -/
def Mode.online : Mode → Bool
  | .held => true
  | m => m.flows

/-- The heartbeat byte (R294). -/
def Mode.heartbeat : Mode → Option Nat
  | .running => some 0x05
  | .faulted => some 0x04
  | .off => none
  | .boot => none
  | _ => some 0x7F

/-- Whether strict mode holds (R355). -/
def State.strict (s : State) : Bool := s.flag Reg.detStrict

/-! ### Units and grades (R5, R6, R10; Table 1.3) -/

/-- The rows of islands that a grade enables. -/
def gradeRows : Nat → Nat
  | 0 => 8
  | 1 => 6
  | _ => 4

/-- Whether a grade enables an anvil island 8y + x. -/
def gradeIsland (grade i : Nat) : Bool := i / 8 < gradeRows grade

/-- Whether a grade enables a harbour. -/
def gradeHarbour : Nat → Nat → Bool
  | 0, h => h < 16
  | 1, h => h < 8 || (12 ≤ h && h < 16)
  | _, h => h < 6 || (14 ≤ h && h < 16)

def State.hasIsland (s : State) (i : Nat) : Bool := gradeIsland s.carrier.grade i
def State.hasHarbour (s : State) (h : Nat) : Bool := gradeHarbour s.carrier.grade h
def State.hasLane (s : State) (l : Nat) : Bool := s.hasHarbour (l / 64)
def State.hasXlane (s : State) (x : Nat) : Bool := s.hasHarbour (x / 16)
def State.hasTile (s : State) (t : TileId) : Bool := s.hasIsland t.island && t.col < 16 && t.row < 16

/-- Whether a seat's tile or temper exists. -/
def State.hasSeat (s : State) : Seat → Bool
  | .tile t _ => s.hasTile t
  | .temper h u => s.hasHarbour h && u < 2

/-- The harbours that the grade enables, ascending. -/
def State.harbourList (s : State) : List Nat := (List.range 16).filter s.hasHarbour

/-- The islands that the grade enables, ascending. -/
def State.islandList (s : State) : List Nat := (List.range 64).filter s.hasIsland

/-- The key of a logical tile. -/
def tileKey (t : TileId) : Nat := (t.island * 16 + t.row) * 16 + t.col

/-- The key of a physical tile: its column lies in [0, 16] (R110). -/
def physKey (island row col : Nat) : Nat := (island * 16 + row) * 32 + col

def portIdx : Port → Nat
  | .n => 0
  | .e => 1
  | .s => 2
  | .w => 3

/-- The port that a two-bit field names (R138). -/
def portOf : Nat → Port
  | 0 => .n
  | 1 => .e
  | 2 => .s
  | _ => .w

/-- The words of a beat of a forging at a harbour: W per lane of its shoals there (R166). -/
def shareOf (shoals : List ShoalPlan) (f h : Nat) : Nat :=
  ((shoals.filter fun x => x.forgings.contains f).map fun x => x.width * (x.lanes.filter fun l => l.1 / 64 = h).length).sum

/-- The key of a tile input port on a plane in the table of delay registers. -/
def lineKey (t : TileId) (p : Port) (plane : Bool) : Nat := (tileKey t * 4 + portIdx p) * 2 + ofBool plane

/-- The key of a forging's plane. -/
def planeKey (f : Nat) (q : Bool) : Nat := f * 2 + ofBool q

/-- The committed content of a DOMAIN of unit `n`. -/
def State.domain (s : State) (r : Reg) (n : Nat := 0) : List Byte := tabGet [] s.domains (r.key n)
def State.setDomain (s : State) (r : Reg) (n : Nat) (v : List Byte) : State :=
  { s with domains := tabSet s.domains (r.key n) v }

/-- The qualification table of an island (R112): all rows unshifted where the carrier lists none. -/
def State.remapFactory (s : State) (island : Nat) : List Byte := tabGet (zeros 16) s.carrier.remapFactory island

/-- The remap table written for an island's plane, which defaults to the factory table (R110, R112). -/
def State.remapWritten (s : State) (island : Nat) (q : Bool) : List Byte :=
  match s.domain (if q then Reg.islRemap1 else Reg.islRemap0) island with
  | [] => s.remapFactory island
  | bs => bs

/-- The key of an island's plane in the tables in force. -/
def remapKey (island : Nat) (q : Bool) : Nat := island * 2 + ofBool q

/-- The remap table in force on an island's plane: the one of the last load or sounding of the plane there (R112). -/
def State.remap (s : State) (island : Nat) (q : Bool) : List Byte := tabGet (s.remapFactory island) s.remaps (remapKey island q)

/-- The written tables of islands take effect on a plane: a load or a sounding there begins (R112). -/
def State.latchRemaps (s : State) (q : Bool) (islands : List Nat) : State :=
  { s with remaps := islands.foldl (fun m i => tabSet m (remapKey i q) (s.remapWritten i q)) s.remaps }

/-- The remap byte of a row. -/
def State.remapByte (s : State) (island row : Nat) (q : Bool) : Nat := leAt (s.remap island q) row 1

/-- The physical column of a logical column under a remap byte (R111). -/
def physCol (byte col : Nat) : Nat := if bit byte 7 && byte % 32 ≤ col then col + 1 else col

/-- The physical tile that a logical tile lies on, on a plane. -/
def State.physOf (s : State) (t : TileId) (q : Bool) : Nat := physKey t.island t.row (physCol (s.remapByte t.island t.row q) t.col)

def State.tileAt (s : State) (k : Nat) : Tile := tabGet Tile.empty s.tiles k
def State.setTileAt (s : State) (k : Nat) (v : Tile) : State := { s with tiles := tabSet s.tiles k v }
def State.tile (s : State) (t : TileId) (q : Bool) : Tile := s.tileAt (s.physOf t q)
def State.setTile (s : State) (t : TileId) (q : Bool) (v : Tile) : State := s.setTileAt (s.physOf t q) v
def State.lane (s : State) (l : Nat) : Lane := tabGet Lane.down s.lanes l
def State.setLane (s : State) (l : Nat) (v : Lane) : State := { s with lanes := tabSet s.lanes l v }
def State.shoal (s : State) (k : Nat) : Shoal := tabGet Shoal.empty s.shoals k
def State.setShoal (s : State) (k : Nat) (v : Shoal) : State := { s with shoals := tabSet s.shoals k v }
def State.plane (s : State) (f : Nat) (q : Bool) : Plane := tabGet Plane.empty s.planes (planeKey f q)
def State.setPlane (s : State) (f : Nat) (q : Bool) (v : Plane) : State := { s with planes := tabSet s.planes (planeKey f q) v }
def State.quench (s : State) (f : Nat) : Quench := tabGet Quench.empty s.quenches f
def State.setQuench (s : State) (f : Nat) (v : Quench) : State := { s with quenches := tabSet s.quenches f v }
def State.tank (s : State) (h : Nat) : Tank := tabGet Tank.empty s.tanks h
def State.setTank (s : State) (h : Nat) (v : Tank) : State := { s with tanks := tabSet s.tanks h v }
def State.harbour (s : State) (h : Nat) : Harbour := tabGet Harbour.empty s.harbours h
def State.setHarbour (s : State) (h : Nat) (v : Harbour) : State := { s with harbours := tabSet s.harbours h v }
def State.modHarbour (s : State) (h : Nat) (f : Harbour → Harbour) : State := s.setHarbour h (f (s.harbour h))

/-- The register of a forging's plane state (Table 4.8). -/
def planeReg : Bool → Reg
  | false => Reg.forgePlane0State
  | true => Reg.forgePlane1State

/-- The state of a plane (R101). -/
def State.planeState (s : State) (f : Nat) (q : Bool) : Nat := s.reg (planeReg q) f
def State.setPlaneState (s : State) (f : Nat) (q : Bool) (v : Nat) : State := s.setReg (planeReg q) f v

/-! ### Free values (notes/assumptions/6.md) -/

/-- A value that the manual leaves undefined, and the state in which the next one is another. -/
def State.fresh (s : State) (w : Nat) : BitVec w × State :=
  (Config.freeBits w s.free, { s with free := s.free + 1 })

/-! ### Time (R33 to R37) -/

/-- Units of 2^-32 ns in a second. -/
def secUnits : Nat := 1000000000 * 2 ^ 32

/-- A TIME96 value as the 96-bit number of Table 2.3. -/
def packTime (t : Time96) : Nat := (t.sec % 2 ^ 48) * 2 ^ 48 + (t.ns % 2 ^ 32) * 2 ^ 16 + t.frac % 2 ^ 16

/-- The TIME96 value that a 96-bit number encodes. -/
def unpackTime (x : Nat) : Time96 := { sec := field x 48 48, ns := field x 16 32, frac := field x 0 16 }

/-- The local clock (R35). -/
def State.now (s : State) : Time96 :=
  { sec := s.clocks.sec, ns := s.clocks.sub / 2 ^ 32, frac := s.clocks.sub / 2 ^ 16 % 2 ^ 16 }

/-- R37: −1 where b is before a, 0 where they are equal, 1 where b is after a. -/
def compareTime (a b : Time96) : Int :=
  let sub : Int := ((b.ns : Int) - a.ns) * 65536 + ((b.frac : Int) - a.frac)
  let ds0 := (b.sec + 2 ^ 48 - a.sec % 2 ^ 48) % 2 ^ 48
  let ds := if sub < 0 then (ds0 + 2 ^ 48 - 1) % 2 ^ 48 else ds0
  let dsub := if sub < 0 then sub + 65536000000000 else sub
  if ds = 0 ∧ dsub = 0 then 0
  else if ds < 2 ^ 47 then 1
  else if ds = 2 ^ 47 ∧ dsub = 0 then 1
  else -1

/-- The clock moved by `d` units of 2^-16 ns; seconds wrap modulo 2^48 (R34). -/
def Clocks.step (c : Clocks) (d : Int) : Clocks :=
  let total : Int := ((c.sec * secUnits + c.sub : Nat) : Int) + d * 65536
  let w := (total % ((2 ^ 48 * secUnits : Nat) : Int)).toNat
  { c with sec := w / secUnits, sub := w % secUnits }

/-- The clock after `n` core cycles, each adding the increment (R35). -/
def Clocks.run (c : Clocks) (n : Nat) : Clocks :=
  let t := c.sub + n * c.inc
  { c with cycle := c.cycle + n, sec := (c.sec + t / secUnits) % 2 ^ 48, sub := t % secUnits }

/-- A time in units of 2^-16 ns. -/
def timeUnits (t : Time96) : Int := ((t.sec * 1000000000 + t.ns) * 65536 + t.frac : Nat)

/-- The time `n` units of 2^-16 ns after the epoch. -/
def timeOfUnits (n : Int) : Time96 :=
  let w := (n % ((2 ^ 48 * 65536000000000 : Nat) : Int)).toNat
  { sec := w / 65536000000000, ns := w % 65536000000000 / 65536, frac := w % 65536 }

/-- The reading and increment of the clock in the present core cycle. -/
def Clocks.mark (c : Clocks) : ClockMark := { cycle := c.cycle, sec := c.sec, sub := c.sub, inc := c.inc }

/-- The clock after a step or a change of its increment, which is kept. -/
def Clocks.marked (c : Clocks) : Clocks := { c with marks := c.mark :: c.marks.take 15 }

/-- What the local clock read `n` times 1/`d` core cycle before the present one: a later step or change of the increment does
not move it (R36, R63). -/
def State.stampAt (s : State) (n d : Nat) : Time96 :=
  let t : Int := ((s.clocks.cycle * d : Nat) : Int) - n
  let m := match s.clocks.marks.find? fun m => decide (((m.cycle * d : Nat) : Int) ≤ t) with
    | some m => m
    | none => s.clocks.marks.getLast?.getD s.clocks.mark
  timeOfUnits ((((m.sec * secUnits + m.sub : Nat) : Int) + (t - (m.cycle * d : Nat)) * m.inc / d) / 65536)

/-- HARBOUR cycles, two core cycles each, that end in (from, to] (Table 2.1). -/
def harbourCycles (c n : Nat) : Nat := (c + n) / 2 - c / 2

/-- Lockstep or queue mode of a harbour; strict mode forces lockstep (R191). -/
def State.lockstep (s : State) (h : Nat) : Bool := s.strict || s.reg Reg.engQueueMode h == 0

/-- The earliest due cycle of a harbour's items. -/
def Harbour.nextDue (x : Harbour) : Option Nat :=
  (x.dqs.flatMap Prod.snd).foldl (fun m i => some (match m with | some d => min d i.due | none => i.due)) none

/-- Does a harbour's group stand still: it is stalled, or in lockstep one of its contexts waits to restart (R189, R253). -/
def State.groupStands (s : State) (h : Nat) : Bool :=
  (s.harbour h).stalled || (s.lockstep h && (s.harbour h).ctxs.any fun c => decide (c.1 < 8) && c.2.awaits.isSome)

/-- A harbour's group counts group cycles, or stall cycles while it is stalled; above the power limit it stalls every
other cycle; in lockstep it does not pass the due cycle of an item that has not been delivered (R188, R189, R401). -/
def groupTick (n : Nat) (s : State) (h : Nat) : State :=
  let c := s.clocks.cycle
  let k := harbourCycles c n
  let free := if s.groupStands h then 0 else if s.power.throttled then (c + n) / 4 - c / 4 else k
  let g :=
    match (s.harbour h).nextDue with
    | some d => if s.lockstep h then min free (d - s.reg Reg.engGroupCycles h) else free
    | none => free
  (s.count Reg.engGroupCycles h 64 g).count Reg.engStallCycles h 64 (k - g)

/-- `n` core cycles pass: the clock runs, and the groups of the enabled harbours count (R35, R188). -/
def State.advance (s : State) (n : Nat) : State :=
  let s1 := if s.mode = .off ∨ s.mode = .boot then s else s.harbourList.foldl (groupTick n) s
  { s1 with clocks := s1.clocks.run n }

/-- Lets cycles pass up to cycle `c`, none when it has come (notes/assumptions/2.md). -/
def State.runTo (s : State) (c : Nat) : State := s.advance (c - s.clocks.cycle)

/-- The number of the beat in progress. -/
def State.beatNow (s : State) : Beat := s.beat.n

/-- The signed difference a − b of two beat numbers: 2^47 apart counts as after, as R37 has it (R29). -/
def beatDiff (a b : Beat) : Int :=
  let d := (a - b).toNat
  if d ≤ 2 ^ 47 then (d : Int) else (d : Int) - 2 ^ 48

/-- CLK_BEAT_NUMBER and DET_STEP as a live read gives them (R270, R358): DET_STEP from the first beat of the run. -/
def State.detStep (s : State) : Nat :=
  match s.run.first with
  | some b => if s.mode.flows then (s.beat.n - b).toNat else 0
  | none => 0

/-! ### Memory of the engines (R176) -/

/-- The byte at an engine address: 0 where nothing has been written (R397; notes/assumptions/8.md). -/
def State.byte (s : State) (a : Nat) : Byte := storeGet s.mem a

/-- `n` bytes from an engine address. -/
def State.load (s : State) (a n : Nat) : List Byte := storeRead s.mem a n

/-- Bytes written from an engine address. -/
def State.store (s : State) (a : Nat) (bs : List Byte) : State := { s with mem := storeWrite s.mem a bs }

/-- Whether a line is poisoned (R199). -/
def State.poisoned (s : State) (line : Nat) : Bool := s.poison.contains line

/-- Marks a line poisoned, or clears the mark. -/
def State.setPoison (s : State) (line : Nat) (p : Bool) : State :=
  let rest := s.poison.filter (· != line)
  { s with poison := if p then line :: rest else rest }

/-! ### Outputs -/

/-- Something leaves the carrier. -/
def State.emit (s : State) (o : Out) : State := { s with outbox := o :: s.outbox }

/-- A CAN FD frame with bit rate switching, unless the controller is bus-off (R291). -/
def State.sendCan (s : State) (id : Nat) (bs : List Byte) : State :=
  if s.reg Reg.canState = 2 then s else s.emit (.can (.fd true) s.links.rate id bs)

/-- What a port does with a frame: one that it does not take is dropped and counted (R302). -/
def State.onFrame (s : State) (port : Nat) (f : EthFrame) (taken : State → State) : State :=
  if f = .whole then taken s
  else if s.mode = .off ∨ 2 ≤ port ∨ !s.flag Reg.ethEnable port then s
  else s.count Reg.ethRxDropped port

/-- The place of a transport in the order of R269. -/
def viaPlace : Via → Nat
  | .can _ => 0
  | .eth port _ _ => 1 + port
  | .uart => 3

/-- An access takes effect in the present CONTROL cycle, or in the next one where a transport that comes later in the order of
R269 has had an access in this one. -/
def State.accessed (s : State) (via : Via) : State :=
  let now := s.clocks.cycle / 8
  let s := if s.links.applied.1 = now ∧ viaPlace via < s.links.applied.2 then s.runTo (8 * (now + 1)) else s
  { s with links := { s.links with applied := (s.clocks.cycle / 8, viaPlace via) } }

/-- A datagram of Table 13.5. -/
def datagram (op reqId status : Nat) (payload : List Byte) : List Byte :=
  let head := leBytes 2 0xC47E ++ leBytes 1 1 ++ leBytes 1 op ++ leBytes 4 reqId ++ leBytes 2 payload.length
    ++ leBytes 2 0 ++ leBytes 4 status
  let body := head ++ payload
  body ++ leBytes 4 (crc32c body)

/-- Bytes padded with 0 to a multiple of 4 (Table 13.6). -/
def pad4 (bs : List Byte) : List Byte := bs ++ zeros ((4 - bs.length % 4) % 4)

/-- Sends a NOTIFY to every session subscribed to the mask bit, with its own sequence (R308). -/
def State.notify (s : State) (maskBit kind : Nat) (body : List Byte) : State :=
  s.links.sessions.foldl (fun t e =>
    if bit e.mask maskBit then
      let out := datagram 0xC0 0 0 (leBytes 4 e.seq ++ leBytes 1 kind ++ zeros 3 ++ pad4 body)
      { (t.emit (.udp e.mac e.via out)) with
        links := { t.links with sessions := t.links.sessions.map fun x =>
          if x.via = e.via then { x with seq := (x.seq + 1) % 2 ^ 32 } else x } }
    else t) s

/-- Sends the heartbeat of the state the engine is in and restarts the period (R294). -/
def State.sendHeartbeat (s : State) : State :=
  match s.mode.heartbeat with
  | none => s
  | some b =>
    if s.reg Reg.heartbeatTime = 0 then s
    else
      let t := s.sendCan (0x700 + s.links.node) (leBytes 1 b)
      { t with links := { t.links with heartbeatAt := t.clocks.cycle + t.reg Reg.heartbeatTime * 1600000 } }

/-- Sends the boot-up byte (R294). -/
def State.sendBootUp (s : State) : State := s.sendCan (0x700 + s.links.node) [0#8]

/-- Enters a state with a reason of Table 15.4: ID_STATE, ID_STATE_REASON, NOTIFY and heartbeat. The heartbeat of FAULTED
waits for the EMCY of its cause (R294, R308, R336). -/
def State.enter (s : State) (m : Mode) (reason : Nat) : State :=
  let t := (s.setReg Reg.idState 0 m.code).setReg Reg.idStateReason 0 reason
  if m = s.mode then t
  else
    let t := t.notify 1 2 (leBytes 1 m.code ++ leBytes 8 s.beat.n.toNat)
    if m = .faulted then { t with links := { t.links with beatOwed := true } }
    else if s.mode = .boot ∧ m = .held then t.sendBootUp.sendHeartbeat
    else t.sendHeartbeat

/-! ### The fault log and EMCYs (R300, R382, R383) -/

/-- A fault log record (Table 17.6). -/
def logRecord (beat : Beat) (code unit cls kind loc detail : Nat) : BitVec 128 :=
  beat ++ BitVec.ofNat 16 code ++ BitVec.ofNat 8 unit ++ BitVec.ofNat 2 cls ++ BitVec.ofNat 6 kind
    ++ BitVec.ofNat 16 loc ++ BitVec.ofNat 32 detail

/-- What a log record says, beside its beat. -/
structure Event where
  code : Nat := 0
  unit : Nat := 0xFF
  cls : Nat := 0
  kind : Nat := 0
  loc : Nat := 0
  detail : Nat := 0
  deriving DecidableEq, Repr

/-- Writes a record: the 256 newest stay, oldest first (R382). -/
def State.log (s : State) (e : Event) : State :=
  let r := logRecord s.beat.n e.code e.unit e.cls e.kind e.loc e.detail
  let l := s.faults.log ++ [r]
  { s with faults := { s.faults with log := l.drop (l.length - 256) } }

/-- The bit of 0x1001 that an EMCY sets, none for 0x0000 (Table 17.5). -/
def emcyBit (code : Nat) : Option Nat :=
  if code = 0 then none
  else if code = 0x3100 ∨ code = 0x3200 ∨ code = 0xFF70 then some 2
  else if code = 0x4210 ∨ code = 0x4310 then some 3
  else if code = 0x8120 ∨ code = 0x8140 ∨ code = 0x8210 ∨ code = 0xFF90 ∨ code = 0xFF91 ∨ code = 0xFF92 then some 4
  else some 7

/-- 0x1001 with the bits given: bit 0 is 1 while another is, and throughout FAULTED (R383). -/
def errorRegisterOf (faulted : Bool) (bits : Nat) : Nat :=
  let hi := bits / 2 * 2 % 256
  if faulted || hi != 0 then hi + 1 else hi

/-- An EMCY enters 0x1003, the newest first (R300; notes/assumptions/12.md). -/
def State.pushErrorField (s : State) (code unit : Nat) : State :=
  let v := code + unit * 65536
  let old := (List.range 15).map fun k => s.reg (Reg.errorField.at k)
  (v :: old).zipIdx.foldl (fun (t : State) (x : Nat × Nat) => t.setReg (Reg.errorField.at x.2) 0 x.1) s

/-- Sends an EMCY: its log record, its bit of 0x1001, 0x1003 and the queue of at most 32 (R300, R382, R383). -/
def State.emcy (s : State) (e : Event) : State :=
  let s := s.log e
  let reg := match emcyBit e.code with
    | some b => errorRegisterOf (s.mode = .faulted) (s.reg Reg.errorRegister ||| 2 ^ b)
    | none => s.reg Reg.errorRegister
  let s := (s.setReg Reg.errorRegister 0 reg).pushErrorField e.code e.unit
  let q := s.links.emcys
  if q.length < 32 then
    { s with links := { s.links with
      emcys := q ++ [{ code := e.code, register := reg, unit := e.unit, beat := s.beat.n.toNat }] } }
  else s.count Reg.canEmcyLost 0

/-- A determinism fault, counted in strict mode only (R356). -/
def State.detFault (s : State) (unit detail : Nat) : State :=
  if s.strict then (s.count Reg.detFaults 0).emcy { code := 0xFF22, unit := unit, detail := detail } else s

end Sys2Proof.Machine
end

