-- ==== Sys2Proof/Machine/Faulted.lean ====
section
/-! DEFINITION. Commands of the harbour queues as words, completion records, and the entry to FAULTED, which every
machine check shares (R177, R184, R200, R254, R340, R381). -/

namespace Sys2Proof.Machine

/-! ### Command words (Table 8.3; the header is bits [255:128]) -/

def cmdOpcode (c : Cmd) : Nat := field c.toNat 248 8
def cmdQueue (c : Cmd) : Nat := field c.toNat 246 2
def cmdFence (c : Cmd) : Bool := c.getLsbD 245
def cmdNotify (c : Cmd) : Bool := c.getLsbD 244
def cmdWaitA (c : Cmd) : Bool := c.getLsbD 243
def cmdWaitB (c : Cmd) : Bool := c.getLsbD 242
def cmdDoneEn (c : Cmd) : Bool := c.getLsbD 241
def cmdPerItem (c : Cmd) : Bool := c.getLsbD 240
def cmdErrStop (c : Cmd) : Bool := c.getLsbD 239
def cmdTokenA (c : Cmd) : Nat := field c.toNat 233 6
def cmdTokenB (c : Cmd) : Nat := field c.toNat 227 6
def cmdDone (c : Cmd) : Nat := field c.toNat 221 6
def cmdValueA (c : Cmd) : Nat := field c.toNat 192 16
def cmdValueB (c : Cmd) : Nat := field c.toNat 176 16
def cmdTag (c : Cmd) : Nat := field c.toNat 160 16

/-- Header bits that Table 8.3 gives no field. -/
def cmdHeaderZero (c : Cmd) : Bool := field c.toNat 208 13 = 0 && field c.toNat 128 32 = 0

/-- Field [lo + n - 1 : lo] of the body. -/
def cmdBody (c : Cmd) (lo n : Nat) : Nat := field c.toNat lo n

/-- A completion record (Table 8.5). -/
def completionRecord (opcode h e q status tag group detail : Nat) : BitVec 128 :=
  BitVec.ofNat 8 opcode ++ BitVec.ofNat 4 h ++ BitVec.ofNat 4 e ++ BitVec.ofNat 2 q ++ 0#6 ++ BitVec.ofNat 8 status
    ++ BitVec.ofNat 16 tag ++ BitVec.ofNat 48 group ++ BitVec.ofNat 32 detail

/-- Writes a completion record; ENG_COMPLETIONS holds 1,024 (R185; notes/assumptions/13.md). -/
def Harbour.complete (x : Harbour) (r : BitVec 128) : Harbour :=
  if x.completions.length < 1024 then { x with completions := x.completions ++ [r] } else x

/-- The record that the retire hardware writes for a command it stops: ABORTED, and for a command past its commit point
the first line not written (R254). -/
def abortRecord (h group : Nat) (r : Running) (c : Cmd) : BitVec 128 :=
  completionRecord (cmdOpcode c) h r.engine r.queue 4 (cmdTag c) group (if r.posted then r.delivered % 2 ^ 32 else 0)

/-- A command that is stopped completes for tokens, and its record is written (R185, R254). -/
def Harbour.abort (h group : Nat) (x : Harbour) (y : Running × Cmd) : Harbour :=
  let x := if cmdDoneEn y.2 && !cmdPerItem y.2 then { x with tokens := tabMod 0#16 x.tokens (cmdDone y.2) fun v => v + 1#16 } else x
  x.complete (abortRecord h group y.1 y.2)

/-- Is the running entry a LIST between two of its commands. -/
def betweenListed (r : Running) : Bool := r.listCmd == some r.cmd && !r.finished

/-- What a running entry stops: its command, and the list that the command belongs to. -/
def Running.stops (r : Running) : List (Running × Cmd) :=
  match r.listCmd with
  | some l => if r.cmd = l then [(r, l)] else [(r, r.cmd), (r, l)]
  | none => [(r, r.cmd)]

/-- Everything that a harbour's command engines stop and record on entry to FAULTED (R196, R200, R254). -/
def Harbour.stopAll (x : Harbour) (h group : Nat) : Harbour :=
  let y := (x.running.flatMap Running.stops).foldl (Harbour.abort h group) x
  { y with running := [], dqs := [], victims := [], pinRules := [], reductions := [], ordered := [], ctxs := [],
           stalled := false, scratch := [], temper0 := { y.temper0 with kernel := none }, temper1 := { y.temper1 with kernel := none } }

/-- One harbour on entry to FAULTED: its engines stop and every queue halts. -/
def stopHarbour (s : State) (h : Nat) : State :=
  let t := s.modHarbour h fun x => x.stopAll h (s.reg Reg.engGroupCycles h)
  (List.range 5).foldl (fun t e => t.setReg Reg.engHalted (8 * h + e) 0xF) t

/-- Sets every PENDING action to CANCELLED (R52). -/
def cancelActions (s : State) : State :=
  (List.range 16).foldl (fun t k => if t.reg Reg.actStatus k = 1 then t.setReg Reg.actStatus k 5 else t) s

/-- Whether beat a is before beat b (R29). -/
def beatBefore (a b : Beat) : Bool := beatDiff a b < 0

/-- The older of two beats. -/
def olderBeat (a b : Beat) : Beat := if beatBefore b a then b else a

/-- Has a beat of a forging an ACCEPT record. -/
def hasAccept (s : State) (f : Nat) (n : Beat) : Bool :=
  (s.quench f).records.any fun r => r.extractLsb' 80 48 == n && r.extractLsb' 74 2 == 0#2

/-- Beats of accepted payload of a forging that have not been wholly sent, over all harbours: in a tank, or in staging while
the verdict is on its way (R17, R340). -/
def unsentBeats (s : State) (f : Nat) : List Beat :=
  s.tanks.flatMap fun e => (e.2.queued.filter fun x => x.forging = f).map Share.beat
    ++ (e.2.staging.filter fun x => x.forging = f && hasAccept s f x.beat).map Staged.beat

/-- Logs the oldest beat of each forging whose accepted payload was not wholly sent (R340). -/
def logUnsent (s : State) : State :=
  (List.range 16).foldl (fun t f =>
    match unsentBeats s f with
    | [] => t
    | b :: bs => t.log { detail := (bs.foldl olderBeat b).toNat % 2 ^ 32 }) s

/-- A running BIST ends with ABORTED (R386). -/
def abortBist (s : State) : State :=
  match s.faults.bist with
  | none => s
  | some (u, _) =>
    let t := (s.setReg Reg.bistResult u 6).setReg Reg.bistState 0 0
    { t with faults := { t.faults with bist := none } }

/-- Tokens and verdicts stop: nothing is left on the links, in the tiles or at the quenches. -/
def stopTokens (s : State) : State :=
  { s with
    lines := []
    tiles := tabMap (fun _ t => { t with inst := none }) s.tiles
    quenches := tabMap (fun _ q => { q with taken := [], inbox := [], toIssue := [], refused := [], led0 := [], ledP := [] }) s.quenches
    lanes := tabMap (fun _ l => { l with ferryTokens := [] }) s.lanes
    run := Run.none
    act := Activation.none }

/-- The engine leaves RUNNING: every arming of a lane ends, and lanes in WAIT_HOST become SLIPPED (R67, Table 3.6). -/
def leaveRunning (s : State) : State :=
  let waiting := s.lanes.filter fun e => s.reg Reg.laneState e.1 = 6
  let s := waiting.foldl (fun s e => s.setReg Reg.laneState e.1 5) s
  { s with lanes := tabMap (fun _ l => { l with armed := false }) s.lanes }

/-- The entry to FAULTED (R340): tokens and verdicts stop, PENDING actions are cancelled, commands and routines stop,
staging and tanks are discarded. An engine that is OFF has nothing to stop. -/
def enterFaulted (s : State) : State :=
  if s.mode = .off ∨ s.mode = .faulted then s
  else
    let boot := s.mode = .boot
    let s := if s.mode = .running then leaveRunning s else s
    let s := abortBist (cancelActions (stopTokens s))
    let s := (List.range 16).foldl stopHarbour s
    let s := { logUnsent s with tanks := [] }
    s.enter .faulted (if boot then 10 else 9)

/-- A machine check (R381): the engine is FAULTED, the log has its record and the EMCY goes out. -/
def machineCheck (s : State) (e : Event) : State :=
  if s.mode = .off then s else (enterFaulted s).emcy e

end Sys2Proof.Machine
end

