-- ==== Sys2Proof/Machine/Errors.lean ====
section
/-! DEFINITION. Errors found by a store or a path: the log record, the targeted test, the class and the remap offer
(R371, R373, R375, R376, R378, R379). A unit's `loc` holds its place in the low 16 bits and its word or line above them;
the place of kind 1 is 32 × row + physical column (notes/assumptions/16.md). -/

namespace Sys2Proof.Machine

/-- The place of a physical tile. -/
def tilePlace (row pcol : Nat) : Nat := 32 * row + pcol

/-- The address of a tile word in log records: store, plane and word (notes/assumptions/16.md). -/
def tileWordAddr (store : TileStore) (plane : Bool) (word : Nat) : Nat :=
  (match store with | .instr => 0 | .const => 1 | .work => 2) * 65536 + ofBool plane * 32768 + word

/-- The unit of a word of a physical tile. -/
def tileUnit (island row pcol word : Nat) : FaultUnit :=
  { kind := 1, unit := island, loc := word * 65536 + tilePlace row pcol }

/-- The logical column of a physical column under a remap byte, none where no logical tile lies on it (R111). -/
def logicalCol (byte pcol : Nat) : Option Nat :=
  if bit byte 7 then
    if pcol < byte % 32 then some pcol else if pcol = byte % 32 then none else some (pcol - 1)
  else if pcol < 16 then some pcol else none

/-- The location field of a tile: its logical column on the plane of the error, and row, SPARE for column 16 (R5, R84,
Table 17.2). DESIGN CHOICE (notes/assumptions/88.md): a tile that bears no logical tile on that plane has the column of the
other plane, and 0 where neither plane gives it one. -/
def tileLoc (s : State) (q : Bool) (island row pcol : Nat) : Nat :=
  let col := match logicalCol (s.remapByte island row q) pcol with
    | some c => c
    | none => (logicalCol (s.remapByte island row (!q)) pcol).getD 0
  col * 4096 + row * 256 + ofBool (pcol = 16) * 128

/-- The location field of a log record (Table 17.2). -/
def locField (s : State) (u : FaultUnit) : Nat :=
  let place := u.loc % 65536
  if u.kind = 1 then tileLoc s (bit (u.loc / 65536) 15) u.unit (place / 32) (place % 32) else place

/-- What the fault logic remembers of a unit. -/
def classOf (s : State) (u : FaultUnit) : UnitClass :=
  (s.faults.classes.find? fun c => c.unit = u).getD { unit := u, last := none, intermittent := [], persistent := false }

/-- Is the unit classed PERSISTENT since the last BOOT. -/
def isPersistent (s : State) (u : FaultUnit) : Bool := (classOf s u).persistent

/-- Is some word of a physical tile classed PERSISTENT since the last BOOT (R377, R378). -/
def tilePersistent (s : State) (island row pcol : Nat) : Bool :=
  s.faults.classes.any fun c => c.persistent && c.unit.kind == 1 && c.unit.unit == island && c.unit.loc % 65536 == tilePlace row pcol

def setClass (s : State) (c : UnitClass) : State :=
  { s with faults := { s.faults with classes := c :: s.faults.classes.filter fun x => x.unit != c.unit } }

/-- FLT_RECUR_WINDOW in core cycles. -/
def recurWindow (s : State) : Nat := s.reg Reg.fltRecurWindow * 1600000

/-- The class of an error by the first matching line of R375; `at'` is its detection. -/
def classCode (s : State) (u : FaultUnit) (fails : Bool) (at' : Nat) : Nat :=
  let c := classOf s u
  let recent := match c.last with
    | some t => decide (at' ≤ t + recurWindow s)
    | none => false
  let twice := decide (2 ≤ (c.intermittent.filter fun t => s.clocks.cycle ≤ t + recurWindow s).length)
  if fails then 3 else if recent && twice then 3 else if recent then 2 else 1

/-- Forgings that have a tile of some plane on an island. -/
def forgingsOn (s : State) (island : Nat) : List Nat :=
  (List.range 16).filter fun f => [false, true].any fun q =>
    match (s.plane f q).plan with
    | some p => p.tiles.any fun t => t.tile.island = island
    | none => false

/-- A plane state in which a plane holds nothing that runs or waits to run: EMPTY, STALE or LOADED (R378). -/
def isIdlePlane (n : Nat) : Bool := n = 0 || n = 6 || n = 7

/-- LIVE or RETIRING. -/
def isLivePlane (n : Nat) : Bool := n = 4 || n = 5

/-- The planes that the program of a physical tile is live or retiring on. -/
def livePlanesOf (s : State) (t : Tile) : List Bool :=
  [false, true].filter fun q =>
    match if q then t.plan1 else t.plan0 with
    | some _ => isLivePlane (s.planeState (if q then t.forging1 else t.forging0) q)
    | none => false

/-- The planes that some forging with a tile on an island has live or retiring. -/
def livePlanesOn (s : State) (island : Nat) : List Bool :=
  [false, true].filter fun q => (forgingsOn s island).any fun f => isLivePlane (s.planeState f q)

/-- The first condition of R378: under every table in force for the island's live planes, the row has a spare. -/
def rowHasSpare (s : State) (island row : Nat) : Bool :=
  (livePlanesOn s island).all (fun q => !bit (s.remapByte island row q) 7 && !bit (s.remapByte island row q) 6)
    && !tilePersistent s island row 16

/-- The lower plane that no forging of the island needs (R378). -/
def freePlane (s : State) (island : Nat) : Option Bool :=
  [false, true].find? fun q => (forgingsOn s island).all fun f => isIdlePlane (s.planeState f q)

/-- The offered table: the plane's table with the row shifted at the failed column (Table 17.4). -/
def offeredTable (s : State) (island row col : Nat) (q : Bool) : List Byte :=
  listSet (s.remapWritten island q) row (BitVec.ofNat 8 (128 + col))

/-- Makes an offer, or lets it wait for a free plane (R378). -/
def makeOffer (s : State) (w : Waiting) : State :=
  match freePlane s w.island with
  | some q =>
    if s.faults.offers.length < 16 then
      let mask := (forgingsOn s w.island).foldl (fun m f => m + 2 ^ f) 0
      let o : Offer :=
        { island := w.island, row := w.row, plane := q, newByte := 128 + w.col, forgings := mask, beat := w.beat,
          table := offeredTable s w.island w.row w.col q }
      let s := { s with faults := { s.faults with offers := s.faults.offers ++ [o] } }
      s.emcy { code := 0xFF82, unit := w.island, kind := 1, loc := tileLoc s (((livePlanesOf s (s.tileAt (physKey w.island w.row w.col))).head?).getD q) w.island w.row w.col }
    else { s with faults := { s.faults with offersWaiting := s.faults.offersWaiting ++ [w] } }
  | none => { s with faults := { s.faults with offersWaiting := s.faults.offersWaiting ++ [w] } }

/-- What a PERSISTENT class of a tile brings about (R378). -/
def remapOffer (s : State) (u : FaultUnit) : State :=
  let row := u.loc % 65536 / 32
  let pcol := u.loc % 32
  match livePlanesOf s (s.tileAt (physKey u.unit row pcol)) with
  | [] => s
  | _ :: _ =>
    if rowHasSpare s u.unit row then makeOffer s { island := u.unit, row := row, col := pcol, beat := s.beat.n }
    else s.emcy { code := 0xFF83, unit := u.unit, kind := 1, loc := locField s u }

/-- Offers that waited are made once a plane is free (R378). -/
def retryOffers (s : State) : State :=
  let w := s.faults.offersWaiting
  w.foldl makeOffer { s with faults := { s.faults with offersWaiting := [] } }

/-- Classes an error: its counter, its record and EMCY, and the effects of Table 17.3 (R375, R376). -/
def classify (s : State) (u : FaultUnit) (fails : Bool) (at' detail : Nat) : State :=
  let k := classCode s u fails at'
  let c := classOf s u
  let now := s.clocks.cycle
  let times := if k = 2 then now :: c.intermittent else c.intermittent
  let c' := { c with last := some now, persistent := c.persistent || k == 3, intermittent := times }
  let s := setClass s c'
  let ev : Event := { unit := u.unit, cls := k, kind := u.kind, loc := locField s u, detail := detail }
  if k = 1 then (s.count Reg.fltTransient 0).log ev
  else if k = 2 then (s.count Reg.fltIntermittent 0).emcy { ev with code := 0xFF80 }
  else
    let s := (s.count Reg.fltPersistent 0).emcy { ev with code := 0xFF81 }
    if u.kind = 1 then remapOffer s u else s

/-- A detected error: its record, with the EMCY of an uncorrectable one, and its test (R371, R373, R375). -/
def detect (s : State) (u : FaultUnit) (uncorrectable : Bool) (detail code : Nat) : State :=
  let pers := isPersistent s u
  let ev : Event := { code := code, unit := u.unit, cls := if pers then 3 else 0, kind := u.kind, loc := locField s u, detail := detail }
  let s := if code = 0 then s.log ev else s.emcy ev
  if pers then s
  else if s.faults.tests.any fun t => t.unit = u then
    { s with faults := { s.faults with tests := s.faults.tests.map fun t =>
      if t.unit = u then { t with errors := t.errors + 1, uncorrectable := t.uncorrectable || uncorrectable } else t } }
  else if u.kind = 5 ∨ (u.kind = 3 ∧ uncorrectable) then classify s u false s.clocks.cycle detail
  else
    { s with faults := { s.faults with tests := s.faults.tests ++
      [{ unit := u, running := decide (u.kind = 4), since := s.clocks.cycle, uncorrectable := uncorrectable, errors := 0, detail := detail }] } }

/-- The unit number of a harbour (Table 12.12). -/
def harbourUnit (h : Nat) : Nat := 64 + h

/-- An error of a harbour SRAM line: store 0 hold, 1 array, 2 read-only cache, 3 tank, 4 staging, 5 queue (Table 17.2). -/
def sramUnit (h store line : Nat) : FaultUnit := { kind := 2, unit := harbourUnit h, loc := line * 65536 + store * 4096 }

/-- An error of an HBM line; its pseudo-channel is the line mod 32 (Tables 9.1, 17.2). -/
def hbmUnit (h line : Nat) : FaultUnit := { kind := 3, unit := harbourUnit h, loc := line * 65536 + line % 32 * 256 }

/-- A receive lane or ferry (Table 17.2, kind 4). -/
def laneUnit (l : Nat) : FaultUnit := { kind := 4, unit := harbourUnit (l / 64), loc := l * 64 }

/-- A port or link error (Table 17.2, kind 5). -/
def portUnit (t : TileId) (p : Nat) : FaultUnit := { kind := 5, unit := t.island, loc := t.col * 4096 + t.row * 256 + p * 64 }

end Sys2Proof.Machine
end

