-- ==== Sys2Proof/Machine/Format.lean ====
section
/-! DEFINITION. Number formats, exact values, rounding, clamping, overflow and conversion (05_number_formats.md). -/

namespace Sys2Proof.Machine

/-- The formats of Table 5.1; FX16 carries its binary point q (R114). -/
inductive Fmt where
  | uint1 | int4 | int8 | uint12 | int16 | int32 | fx16 (q : Nat) | e4m3 | e5m2 | fp16 | bf16 | fp32
  deriving DecidableEq, Repr

/-- The format a descriptor names (R114); none for a code in [12, 15] or non-zero bits [3:0] without FX16. -/
def Fmt.ofDesc (d : Nat) : Option Fmt :=
  let q := field d 0 4
  match field d 4 4 with
  | 6 => some (.fx16 q)
  | c =>
    if q ≠ 0 then none else
    match c with
    | 0 => some .uint1 | 1 => some .int4 | 2 => some .int8 | 3 => some .uint12 | 4 => some .int16 | 5 => some .int32
    | 7 => some .e4m3 | 8 => some .e5m2 | 9 => some .fp16 | 10 => some .bf16 | 11 => some .fp32 | _ => none

/-- Container width of an element (Table 5.1); a UINT1 element counts its value bit and its mask bit. -/
def Fmt.width : Fmt → Nat
  | .uint1 => 2 | .int4 => 4 | .int8 => 8 | .uint12 => 16 | .int16 => 16 | .int32 => 32 | .fx16 _ => 16
  | .e4m3 => 8 | .e5m2 => 8 | .fp16 => 16 | .bf16 => 16 | .fp32 => 32

/-- Elements per 256-bit word, n(F) of R135. -/
def Fmt.count : Fmt → Nat
  | .uint1 => 128 | .int4 => 64 | .int8 => 32 | .uint12 => 16 | .int16 => 16 | .int32 => 8 | .fx16 _ => 16
  | .e4m3 => 32 | .e5m2 => 32 | .fp16 => 16 | .bf16 => 16 | .fp32 => 8

/-- The fields of a float format (Table 5.2): exponent bits, mantissa bits, bias. -/
def Fmt.float? : Fmt → Option (Nat × Nat × Nat)
  | .e4m3 => some (4, 3, 7)
  | .e5m2 => some (5, 2, 15)
  | .fp16 => some (5, 10, 15)
  | .bf16 => some (8, 7, 127)
  | .fp32 => some (8, 23, 127)
  | _ => none

/-- Is the format a float format. -/
def Fmt.isFloat (f : Fmt) : Bool := f.float?.isSome

/-- The valid range of an integer or FX16 format, in units of its step (Table 5.1). -/
def Fmt.intRange : Fmt → Int × Int
  | .uint1 => (0, 1) | .int4 => (-7, 7) | .int8 => (-127, 127) | .uint12 => (0, 4094)
  | .int32 => (-(2 ^ 31) + 1, 2 ^ 31 - 1) | _ => (-32767, 32767)

/-- The invalid code (Table 5.1); for UINT1 mask bit 1 and value bit 0, mask first. -/
def Fmt.invalid : Fmt → Nat
  | .uint1 => 2 | .int4 => 0x8 | .int8 => 0x80 | .uint12 => 0x0FFF | .int16 => 0x8000 | .int32 => 0x80000000
  | .fx16 _ => 0x8000 | .e4m3 => 0xFF | .e5m2 => 0xFF | .fp16 => 0xFE01 | .bf16 => 0xFFC1 | .fp32 => 0xFFC00001

/-- An exact value: invalid, an infinity, or (-1)^neg * m * 2^e. A zero keeps its sign (R124). -/
inductive Num where
  | invalid
  | inf (neg : Bool)
  | fin (neg : Bool) (m : Nat) (e : Int)
  deriving DecidableEq, Repr

/-- Element `j` of a word in a format (R115); a UINT1 element is its mask bit and value bit, mask first. -/
def getElem (f : Fmt) (w : Nat) (j : Nat) : Nat :=
  match f with
  | .uint1 => 2 * field w (128 + j) 1 + field w j 1
  | f => field w (f.width * j) f.width

/-- A number with the `n` bits from `lo` replaced by `v`. -/
def putField (w lo n v : Nat) : Nat :=
  w % 2 ^ lo + (v % 2 ^ n) * 2 ^ lo + (w >>> (lo + n)) * 2 ^ (lo + n)

/-- The word with element `j` replaced (R115). -/
def putElem (f : Fmt) (w : Nat) (j c : Nat) : Nat :=
  match f with
  | .uint1 => putField (putField w (128 + j) 1 (c / 2)) j 1 (c % 2)
  | f => putField w (f.width * j) f.width c

/-- The word made of element codes, element 0 first; UINT1 words hold values low and masks high (R115). -/
def packElems (f : Fmt) (cs : List Nat) : Nat :=
  match f with
  | .uint1 =>
    cs.foldr (fun c a => c % 2 + 2 * a) 0 + 2 ^ 128 * cs.foldr (fun c a => c / 2 % 2 + 2 * a) 0
  | f => cs.foldr (fun c a => c % 2 ^ f.width + 2 ^ f.width * a) 0

/-- The value an element code stands for (R116, R117, R125). -/
def decodeNum (f : Fmt) (c : Nat) : Num :=
  match f.float? with
  | some (eb, mb, bias) =>
    let neg := bit c (eb + mb)
    let e := field c mb eb
    let m := field c 0 mb
    if e = 0 then
      if f = .fp32 then .fin neg m (1 - (bias : Int) - mb) else .fin neg 0 0
    else if f = .e4m3 then
      if e = 15 ∧ m = 7 then .invalid else .fin neg (2 ^ mb + m) ((e : Int) - bias - mb)
    else if e = 2 ^ eb - 1 then
      if m = 0 then .inf neg else .invalid
    else .fin neg (2 ^ mb + m) ((e : Int) - bias - mb)
  | none =>
    match f with
    | .uint1 => if c ≥ 2 then .invalid else .fin false c 0
    | .uint12 => if c ≥ 0xFFF then .invalid else .fin false c 0
    | f =>
      if c = f.invalid then .invalid
      else
        let x := signed f.width c
        let q : Int := match f with | .fx16 q => q | _ => 0
        .fin (x < 0) x.natAbs (-q)

/-- Is an element code invalid under R117. -/
def isInvalid (f : Fmt) (c : Nat) : Bool := decodeNum f c == .invalid

/-- The signed integer of a finite value in units of 2^e', exact when e' is at most the value's exponent. -/
def scaled (neg : Bool) (m : Nat) (e e' : Int) : Int :=
  let v : Int := (m * 2 ^ (e - e').toNat : Nat)
  if neg then -v else v

/-- The exact sum (R118, R124). -/
def Num.add : Num → Num → Num
  | .invalid, _ => .invalid
  | _, .invalid => .invalid
  | .inf a, .inf b => if a = b then .inf a else .invalid
  | .inf a, _ => .inf a
  | _, .inf b => .inf b
  | .fin n1 m1 e1, .fin n2 m2 e2 =>
    let e := min e1 e2
    let s := scaled n1 m1 e1 e + scaled n2 m2 e2 e
    if s = 0 then .fin (n1 && n2) 0 0 else .fin (s < 0) s.natAbs e

/-- The negated value. -/
def Num.neg : Num → Num
  | .invalid => .invalid
  | .inf n => .inf (!n)
  | .fin n m e => .fin (!n) m e

/-- The exact product (R118). -/
def Num.mul : Num → Num → Num
  | .invalid, _ => .invalid
  | _, .invalid => .invalid
  | .inf a, .inf b => .inf (a != b)
  | .inf a, .fin b m _ => if m = 0 then .invalid else .inf (a != b)
  | .fin b m _, .inf a => if m = 0 then .invalid else .inf (a != b)
  | .fin n1 m1 e1, .fin n2 m2 e2 => .fin (n1 != n2) (m1 * m2) (e1 + e2)

/-- The value times 2^k, exact. -/
def Num.scale (k : Int) : Num → Num
  | .fin n m e => .fin n m (e + k)
  | x => x

/-- Compares two valid values as numbers: -1, 0 or 1; +0 equals -0, infinities as numbers (R144). -/
def Num.cmp : Num → Num → Int
  | .inf a, .inf b => if a = b then 0 else if a then -1 else 1
  | .inf a, _ => if a then -1 else 1
  | _, .inf b => if b then 1 else -1
  | .fin n1 m1 e1, .fin n2 m2 e2 =>
    let e := min e1 e2
    let d := scaled n1 m1 e1 e - scaled n2 m2 e2 e
    if d < 0 then -1 else if d = 0 then 0 else 1
  | _, _ => 0

/-- Is the value a zero with a negative sign. -/
def Num.isNegZero : Num → Bool
  | .fin n m _ => n && m == 0
  | _ => false

/-- Rounding modes of R122; SR carries its draw of 16 bits. -/
inductive Rnd where
  | rne
  | sr (u : Nat)
  deriving DecidableEq, Repr

/-- m * 2^e rounded to a whole number, magnitudes only: RNE with ties to even, SR by f16 > u (R122, R123). -/
def roundMag (r : Rnd) (m : Nat) (e : Int) : Nat :=
  match e with
  | .ofNat k => m * 2 ^ k
  | .negSucc k =>
    let d := 2 ^ (k + 1)
    let q := m / d
    let rem := m % d
    match r with
    | .rne => if 2 * rem > d ∨ (2 * rem = d ∧ q % 2 = 1) then q + 1 else q
    | .sr u => if rem ≠ 0 ∧ (2 ^ 16 * rem) / d > u then q + 1 else q

/-- A result of rounding into a format: its code, and whether a clamp was counted (R120). -/
structure Rounded where
  code : Nat
  clamped : Bool
  deriving DecidableEq, Repr

/-- Rounds and clamps into an integer or FX16 format (R120, R122; Table 5.3 row 7 for infinities). -/
def roundInt (f : Fmt) (r : Rnd) (x : Num) : Rounded :=
  let (lo, hi) := f.intRange
  let q : Int := match f with | .fx16 q => q | _ => 0
  match x with
  | .invalid => ⟨f.invalid, false⟩
  | .inf neg => ⟨toCode f.width (if neg then lo else hi), true⟩
  | .fin neg m e =>
    let a := roundMag r m (e + q)
    let v : Int := if neg then -(a : Int) else a
    if v < lo then ⟨toCode f.width lo, true⟩
    else if hi < v then ⟨toCode f.width hi, true⟩
    else ⟨toCode f.width v, false⟩

/-- Rounds into a float format: rounding, then overflow (R121), then the flush or the FP32 denormals (R123, R125). -/
def roundFloat (f : Fmt) (eb mb bias : Nat) (r : Rnd) (x : Num) : Nat :=
  let signBit (n : Bool) : Nat := ofBool n * 2 ^ (eb + mb)
  let overflow (n : Bool) : Nat :=
    if f = .e4m3 then signBit n + 0x7E else signBit n + (2 ^ eb - 1) * 2 ^ mb
  match x with
  | .invalid => f.invalid
  | .inf n => overflow n
  | .fin n m e =>
    if m = 0 then signBit n
    else
      let top : Int := (Nat.log2 m : Int) + e
      let emin : Int := 1 - (bias : Int)
      let step : Int := (if f = .fp32 then max top emin else top) - mb
      let a := roundMag r m (e - step)
      -- a counts steps of 2^step; a = 2^(mb+1) is the next binade
      let a' := if a = 2 ^ (mb + 1) then 2 ^ mb else a
      let step' := if a = 2 ^ (mb + 1) then step + 1 else step
      if a' < 2 ^ mb then signBit n + a'          -- FP32 denormal or zero
      else
        let be : Int := step' + mb + bias
        let maxE : Int := if f = .e4m3 then 15 else (2 ^ eb - 2 : Nat)
        if be > maxE ∨ (f = .e4m3 ∧ be = 15 ∧ a' = 15) then overflow n
        else if be < 1 then signBit n
        else signBit n + be.toNat * 2 ^ mb + (a' - 2 ^ mb)

/-- Rounds an exact value into a format ("round into F" of R135). UINT1 takes row 2 of Table 5.3. -/
def roundInto (f : Fmt) (r : Rnd) (x : Num) : Rounded :=
  match f.float? with
  | some (eb, mb, bias) => ⟨roundFloat f eb mb bias r x, false⟩
  | none =>
    match f with
    | .uint1 =>
      match x with
      | .invalid => ⟨2, false⟩
      | .inf _ => ⟨1, false⟩
      | .fin _ m _ => ⟨if m = 0 then 0 else 1, false⟩
    | f => roundInt f r x

/-- A code with exponent field 0 written as zero with its sign in FP8, FP16 and BF16 (Table 5.3 row 9). -/
def flushCode (f : Fmt) (c : Nat) : Nat :=
  match f.float? with
  | some (eb, mb, _) => if f ≠ .fp32 ∧ field c mb eb = 0 then (c / 2 ^ (eb + mb)) * 2 ^ (eb + mb) else c
  | none => c

/-- Converts an element code between formats by the first matching row of Table 5.3 (R126). -/
def convert (src dst : Fmt) (r : Rnd) (c : Nat) : Rounded :=
  if isInvalid src c then ⟨dst.invalid, false⟩
  else if src = dst then ⟨flushCode src c, false⟩
  else roundInto dst r (decodeNum src c)

/-- A code as a unit that computes writes it again: an invalid one as the exact invalid code, and one with exponent field 0 as
zero with its sign; only the moves of R137 copy such codes (R117, R125). -/
def cleanCode (f : Fmt) (c : Nat) : Nat := if isInvalid f c then f.invalid else flushCode f c

/-- A word with the invalid code of a format in every element (R69, R147). -/
def invalidWord (f : Fmt) : Nat := packElems f (List.replicate f.count f.invalid)

end Sys2Proof.Machine
end

