-- ==== Sys2Proof/Machine/Cache.lean ====
section
/-! DEFINITION. Engine addresses, holds and first-level caches (R176, R202 to R216, R222 to R224, R345). The bytes of
every space stand in `mem`; a hold keeps which lines it has and which are dirty, a first level keeps its lines' data. -/

namespace Sys2Proof.Machine

def addrSpace (a : Nat) : Nat := field a 44 4
def addrHarbour (a : Nat) : Nat := field a 40 4
def addrOffset (a : Nat) : Nat := field a 0 40

/-- An engine address from its fields (Table 8.2). -/
def mkAddr (space h off : Nat) : Nat := space * 2 ^ 44 + h * 2 ^ 40 + off % 2 ^ 40

/-- The line of the engine memory that is line `line` of a stack. -/
def stackLine (h line : Nat) : Nat := h * 2 ^ 34 + line

/-- First byte and size of the image store of a stack (R345). -/
def imageStoreLo : Nat := 23000000000
def stackBytes : Nat := 24000000000

/-- Bytes of the scratchpad of a temper under the split in force (R211). -/
def scratchBytes (s : State) (h u : Nat) : Nat := s.reg Reg.arraySplit (2 * h + u) * 131072

/-- The first address of a temper's scratchpad. -/
def scratchBase (h u : Nat) : Nat := mkAddr 2 h ((u + 1) * 2 ^ 36)

/-- Do two byte ranges, start and length, share a byte. -/
def overlap (a n b m : Nat) : Bool := decide (a < b + m) && decide (b < a + n)

/-- Does a range meet the scratch range of a pair job that runs, but for those that are the access's own, by harbour and
queue of the pair (R236). -/
def scratchHeld (s : State) (own : Nat → Nat → Bool) (a n : Nat) : Bool :=
  s.harbours.any fun x => x.2.scratch.any fun y => !own x.1 y.1 && overlap a n y.2.1 y.2.2

/-- Does `[a, a + n)` lie in one space of an enabled harbour, clear of the image store (R176, R212, R345). -/
def spaceOk (s : State) (a n : Nat) : Bool :=
  let h := addrHarbour a
  let off := addrOffset a
  decide (a < 2 ^ 48) && s.hasHarbour h &&
  match addrSpace a with
  | 0 => decide (off + n ≤ imageStoreLo)
  | 1 => decide (off + n ≤ s.reg Reg.cacheHoldDirectMib h * 1048576)
  | 2 =>
    let e := field off 36 4
    (e == 1 || e == 2) && decide (field off 0 36 + n ≤ scratchBytes s h (e - 1))
  | _ => false

/-- May any command access `[a, a + n)`: it lies in a space and clear of a running pair job's scratch range (R176, R236). -/
def rangeOk (s : State) (a n : Nat) : Bool := spaceOk s a n && !scratchHeld s (fun _ _ => false) a n

/-- Is a scratch range the one of the command of queue `q` of engine `e` of harbour `h` (R236). -/
def ownScratch (h e q : Nat) : Nat → Nat → Bool := fun x y => e == 4 && x == h && y == q

/-- May the command of a queue access `[a, a + n)`: its own scratch range does not bar it (R176, R236). -/
def rangeFor (s : State) (h e q a n : Nat) : Bool := spaceOk s a n && !scratchHeld s (ownScratch h e q) a n

/-- Sets of a hold's cache region (R209). -/
def holdSets (s : State) (h : Nat) : Nat := (32 - s.reg Reg.cacheHoldDirectMib h) * 1024

/-- The last listed, that is least recently used, entry of a set. -/
def lruOf {α : Type} (key : α → Nat) (sets line : Nat) (l : List α) : Option α :=
  l.foldl (fun r e => if key e % sets = line % sets then some e else r) none

/-- A line leaves a hold: a dirty one is written back, over the stack's copy; a clean one whose copy in the stack is bad
is poisoned from now on (R205, R206, R209). -/
def holdLeaves (s : State) (h : Nat) (v : Nat × Bool) : State :=
  let x := s.harbour h
  let rest := x.badLines.filter (· != v.1)
  if v.2 then (s.setHarbour h { x with victims := x.victims ++ [v.1], badLines := rest }).count Reg.cacheHoldWritebacks h 64
  else if x.badLines.contains v.1 then (s.setHarbour h { x with badLines := rest }).setPoison (stackLine h v.1) true
  else s

/-- Installs a line in a hold as most recent, evicting the least recently used line of a full set (R209). -/
def holdInstall (s : State) (h line : Nat) (dirty : Bool) : State :=
  let x := s.harbour h
  let sets := holdSets s h
  let same := x.hold.filter fun e => e.1 % sets = line % sets
  match if same.length < 16 then none else lruOf (fun e : Nat × Bool => e.1) sets line x.hold with
  | none => s.setHarbour h { x with hold := (line, dirty) :: x.hold }
  | some v => holdLeaves (s.setHarbour h { x with hold := (line, dirty) :: x.hold.filter fun e => e.1 != v.1 }) h v

/-- Is a line in a hold's cache. -/
def holdHas (s : State) (h line : Nat) : Bool := (s.harbour h).hold.any fun e => e.1 == line

/-- Marks a line of a hold dirty. -/
def holdDirty (s : State) (h line : Nat) : State :=
  s.modHarbour h fun x => { x with hold := x.hold.map fun e => if e.1 = line then (e.1, true) else e }

/-- A hold line moved to the front, dirty from now on or as it was (R209). -/
def holdTouch (s : State) (h line : Nat) (write : Bool) : State :=
  s.modHarbour h fun x =>
    match x.hold.find? fun e => e.1 == line with
    | some e => { x with hold := (line, e.2 || write) :: x.hold.filter fun y => y.1 != line }
    | none => x

/-- An access that a hold accepts is a hit or a miss (R210, R224). -/
def holdLook (s : State) (h line : Nat) : State :=
  if holdHas s h line then (holdTouch s h line false).count Reg.cacheHoldHits h 64 else s.count Reg.cacheHoldMisses h 64

/-- A line as a write leaves it in its hold: dirty, and installed where it was absent (R209). -/
def holdWrites (s : State) (h line : Nat) : State :=
  if holdHas s h line then holdTouch s h line true else holdInstall s h line true

/-- An access to a stack line through its hold that waits for no fill: counted, moved to the front, installed where
absent (R209, R224). -/
def holdAccess (s : State) (h line : Nat) (write : Bool) : State :=
  if holdHas s h line then (holdTouch s h line write).count Reg.cacheHoldHits h 64
  else holdInstall (s.count Reg.cacheHoldMisses h 64) h line write

/-- A fill arrives at its hold, which installs it only where the line is absent: with the poison of an uncorrectable line,
dirty where it was corrected (R199, R204, R216). -/
def fillArrives (s : State) (h line : Nat) (bad corrected : Bool) : State :=
  if holdHas s h line then s
  else
    let s := holdInstall s h line corrected
    if bad then s.setPoison (stackLine h line) true else s

/-- The line number within its stack or region. -/
def lineOf (a : Nat) : Nat := addrOffset a / 64

/-- Is the stack of a harbour READY (Table 9.7). -/
def stackReady (s : State) (h : Nat) : Bool := s.reg Reg.hbmState h == 1

/-- What a read of a line gives. -/
structure LineRead where
  data : BitVec 512
  poison : Bool
  deriving DecidableEq, Repr

/-- 64 bytes as one number, byte 0 lowest. -/
def lineData (s : State) (a : Nat) : BitVec 512 := BitVec.ofNat 512 (leNat (s.load (a / 64 * 64) 64))

/-- Writes a whole line, with or without poison, through the hold that owns it (R199, R209). -/
def writeLine (s : State) (a : Nat) (d : BitVec 512) (poison : Bool) : State :=
  let a := a / 64 * 64
  let s := if addrSpace a = 0 then holdAccess s (addrHarbour a) (lineOf a) true else s
  (s.store a (leBytes 64 d.toNat)).setPoison (a / 64) poison

/-- Writes part of a line that its hold has, or of another space; a poisoned line stays poisoned until a full-line write
(R199, R209). -/
def writePart (s : State) (a : Nat) (bs : List Byte) : State :=
  let s := if addrSpace a = 0 then holdWrites s (addrHarbour a) (lineOf a) else s
  s.store a bs

/-- Writes the first `n` bytes of a line's data at an address; a line that cannot be reached becomes poisoned (R205). -/
def putBytes (s : State) (a n : Nat) (d : BitVec 512) (poison : Bool) : State :=
  if 64 ≤ n then writeLine s a d poison
  else
    let s := writePart s a (leBytes n d.toNat)
    if poison then s.setPoison (a / 64) true else s

/-! ### First levels of a temper (R213) -/

/-- The caches of a temper by class: 0 data, 1 constant, 2 descriptor, 3 instruction. -/
def Temper.cache (t : Temper) : Nat → List CLine
  | 0 => t.data
  | 1 => t.const
  | 2 => t.desc
  | _ => t.instr

def Temper.setCache (t : Temper) (cls : Nat) (l : List CLine) : Temper :=
  match cls with
  | 0 => { t with data := l }
  | 1 => { t with const := l }
  | 2 => { t with desc := l }
  | _ => { t with instr := l }

/-- The temper `u` of a harbour. -/
def State.temper (s : State) (h u : Nat) : Temper := if u = 0 then (s.harbour h).temper0 else (s.harbour h).temper1

def State.setTemper (s : State) (h u : Nat) (t : Temper) : State :=
  s.modHarbour h fun x => if u = 0 then { x with temper0 := t } else { x with temper1 := t }

/-- Sets of a first level (Table 9.2). -/
def firstSets (s : State) (h u cls : Nat) : Nat :=
  match cls with
  | 0 => (8 - s.reg Reg.arraySplit (2 * h + u)) * 256
  | 2 => 64
  | _ => 256

/-- Ways of a first level (Table 9.2). -/
def firstWays (cls : Nat) : Nat := if cls = 0 then 8 else 4

/-- Counts a hit or a miss of a class: data, constant, descriptor, instruction, reduction (R224, Table 9.7). -/
def countClass (s : State) (h u cls : Nat) (hit : Bool) : State :=
  s.count (Reg.temperCount.at (2 * cls + if hit then 0 else 1)) (2 * h + u) 64

/-- The `n` bits of a line from byte `b`. -/
def lineBits (d : BitVec 512) (b n : Nat) : Nat := field d.toNat (8 * b) n

/-- Writes back every dirty data line of a temper at once; the lines stay, clean (Table 9.3, entry to HELD). -/
def flushTemper (s : State) (h u : Nat) : State :=
  let t := s.temper h u
  let put : State → CLine → State := fun s c => if c.dirty then writeLine s (c.line * 64) c.data c.poison else s
  t.data.foldl put (s.setTemper h u { t with data := t.data.map fun c => { c with dirty := false } })

/-- Drops the lines of the masked first levels: bit 0 data, 1 constant, 2 descriptor, 3 instruction (Tables 9.3, 9.5). -/
def invalidateTemper (s : State) (h u mask : Nat) : State :=
  let t := s.temper h u
  s.setTemper h u { t with
    data := if bit mask 0 then [] else t.data
    const := if bit mask 1 then [] else t.const
    desc := if bit mask 2 then [] else t.desc
    instr := if bit mask 3 then [] else t.instr }

/-- Every dirty line of a hold goes to the stack, and the lines stay clean (R208, R223). -/
def flushHold (s : State) (h : Nat) : State :=
  let x := s.harbour h
  let n := (x.hold.filter fun e => e.2).length
  (s.setHarbour h { x with hold := x.hold.map fun e => (e.1, false) }).count Reg.cacheHoldWritebacks h 64 n

/-- The bytes of `[lo, hi)` read 0 and hold no poison. -/
def clearMem (s : State) (lo hi : Nat) : State :=
  { s with mem := storeClear s.mem lo hi, poison := s.poison.filter fun l => l < lo / 64 || hi / 64 ≤ l }

/-- A change of split at a launch or at ARMED: the scratchpad keeps what both splits hold, gained bytes read 0, and the
data cache starts empty (R211, R212). -/
def changeSplit (s : State) (h u k : Nat) : State :=
  let old := s.reg Reg.arraySplit (2 * h + u)
  let b := scratchBase h u
  let s := clearMem s (b + min old k * 131072) (b + 8 * 131072)
  let s := s.setTemper h u { s.temper h u with data := [] }
  s.setReg Reg.arraySplit (2 * h + u) k

end Sys2Proof.Machine
end

