-- ==== Sys2Proof/Machine/Routes.lean ====
section
/-! DEFINITION. The floor plan: which islands and harbours the straits join, the walk of a route over it, and the links that
are left for the temper plane (R7, R8, R12, R13, R86, R87, R194, R396; Table 1.1; notes/assumptions/86.md,
notes/assumptions/87.md). -/

namespace Sys2Proof.Machine

/-- The two edge islands that a harbour adjoins (Table 1.1). -/
def adjoining (h : Nat) : List Nat :=
  if h < 4 then [2 * h, 2 * h + 1]
  else if h < 8 then [8 * (2 * (h - 4)) + 7, 8 * (2 * (h - 4) + 1) + 7]
  else if h < 12 then [56 + (7 - 2 * (h - 8)), 56 + (6 - 2 * (h - 8))]
  else if h < 16 then [8 * (7 - 2 * (h - 12)), 8 * (6 - 2 * (h - 12))]
  else []

/-- The island edge on which a harbour's links lie (Table 1.1). -/
def harbourEdge (h : Nat) : Port := if h < 4 then .n else if h < 8 then .e else if h < 12 then .s else .w

/-- A harbour's 8 links into each adjoining island stand at the even positions of its outer edge (R87). -/
def harbourPlace (k : Nat) : Bool := k % 2 == 0 && decide (k < 16)

/-- The opposite edge. -/
def facing : Port → Port
  | .n => .s
  | .s => .n
  | .e => .w
  | .w => .e

/-- The anvil island beyond an edge of island 8y + x (R8). -/
def neighbour (i : Nat) : Port → Option Nat
  | .n => if 8 ≤ i then some (i - 8) else none
  | .s => if i < 56 then some (i + 8) else none
  | .w => if i % 8 = 0 then none else some (i - 1)
  | .e => if i % 8 = 7 then none else some (i + 1)

/-- The next harbour on the strait ring, either way (R8). -/
def ringNext (a b : Nat) : Bool := decide (a < 16) && decide (b < 16) && ((a + 1) % 16 == b || (b + 1) % 16 == a)

/-- Where a token stands on its route. -/
inductive Spot where
  | harbour (h : Nat)
  /-- on a link that enters an island over an edge, before it attaches to a tile or to the crossbar -/
  | entering (island : Nat) (edge : Port) (place : Nat)
  /-- past an edge tile or the crossbar, before a link over that edge -/
  | leaving (island : Nat) (edge : Port) (place : Nat)
  | inCrossbar (island : Nat)
  | atInput (t : TileId) (port : Port)
  | atOutput (t : TileId) (port : Port)
  deriving DecidableEq, Repr

/-- A token at an output port of a row's north or south side stands at once at the neighbour's input port, or before the
edge's link: neither adds a cycle (R87). East and west crossings are elements of their own, since a bypass may lie there. -/
def outputSpot (t : TileId) : Port → Spot
  | .n => if t.row = 0 then .leaving t.island .n t.col else .atInput { t with row := t.row - 1 } .s
  | .s => if t.row = 15 then .leaving t.island .s t.col else .atInput { t with row := t.row + 1 } .n
  | p => .atOutput t p

/-- A link that attaches to an edge tile of the north or south edge leads to its port (R87). -/
def inputSpot : Spot → Spot
  | .entering i .n c => .atInput { island := i, col := c, row := 0 } .n
  | .entering i .s c => .atInput { island := i, col := c, row := 15 } .s
  | x => x

/-- Where a route's source places its tokens. -/
def sourceSpot : Source → Spot
  | .shoal k _ => .harbour (k / 16)
  | .ferry l => .harbour (l / 64)
  | .tile t p => outputSpot t p

/-- Where a route must end, at a forging's home. -/
def destSpot (home : Nat) : Dest → Spot
  | .port t p => .atInput t p
  | .quench _ => .harbour home
  | .ferry x => .harbour (x / 16)

/-- Tiles exist on the islands that the grade enables only (R11). -/
def spotTile (grade : Nat) (t : TileId) : Bool := gradeIsland grade t.island && decide (t.col < 16) && decide (t.row < 16)

/-- The spot that a path element leads to, none where the element does not lie there (R7, R8, R87, R111). -/
def moveSpot (grade : Nat) (x : Spot) : PathEl → Option Spot
  | .inward h i k =>
    if x = .harbour h ∧ (adjoining h).contains i ∧ harbourPlace k then some (.entering i (harbourEdge h) k) else none
  | .outward i h k =>
    if (x = .leaving i (harbourEdge h) k ∨ x = .inCrossbar i) ∧ (adjoining h).contains i ∧ harbourPlace k then some (.harbour h) else none
  | .ring hs =>
    match x with
    | .harbour h => if ((h :: hs).zip hs).all fun y => ringNext y.1 y.2 then some (.harbour (hs.getLast?.getD h)) else none
    | _ => none
  | .crossbar i =>
    match x with
    | .entering j _ _ => if i = j then some (.inCrossbar i) else none
    | _ => none
  | .strait i ed k =>
    match neighbour i ed with
    | some j => if (x = .leaving i ed k ∨ x = .inCrossbar i) ∧ k < 16 then some (.entering j (facing ed) k) else none
    | none => none
  | .pass t i o => if inputSpot x = .atInput t i ∧ i ≠ o ∧ spotTile grade t then some (outputSpot t o) else none
  | .step i r c =>
    let a : TileId := { island := i, col := c, row := r }
    let b : TileId := { island := i, col := c + 1, row := r }
    if !spotTile grade a || !spotTile grade b then none
    else if x = .atOutput a .e then some (.atInput b .w)
    else if x = .atOutput b .w then some (.atInput a .e)
    else none
  | .east i r =>
    let t : TileId := { island := i, col := 15, row := r }
    if !spotTile grade t then none
    else if x = .atOutput t .e then some (.leaving i .e r)
    else if x = .entering i .e r then some (.atInput t .e)
    else none
  | .west i r =>
    let t : TileId := { island := i, col := 0, row := r }
    if !spotTile grade t then none
    else if x = .atOutput t .w then some (.leaving i .w r)
    else if x = .entering i .w r then some (.atInput t .w)
    else none

/-- The spots of a path from a spot, the last one first; none where the path is broken. -/
def walk (grade : Nat) : List Spot → List PathEl → Option (List Spot)
  | xs, [] => some xs
  | [], _ => none
  | x :: xs, e :: es =>
    match moveSpot grade x e with
    | some y => walk grade (y :: x :: xs) es
    | none => none

/-- The spots of a route, first to last, where it leads from its source to its destination. -/
def routeSpots (grade home : Nat) (l : Link) : Option (List Spot) :=
  match walk grade [sourceSpot l.src] l.path with
  | some (x :: xs) =>
    let last := match l.dst with | .port _ _ => inputSpot x | _ => x
    if last = destSpot home l.dst then some (last :: xs).reverse else none
  | _ => none

/-- The number of a strait link, or of a harbour link, none for other elements. -/
def linkKey : PathEl → Option Nat
  | .strait i ed k => some ((i * 4 + portIdx ed) * 16 + k)
  | .inward h i k => some (4096 + (h * 64 + i) * 16 + k)
  | .outward i h k => some (20480 + (h * 64 + i) * 16 + k)
  | _ => none

/-- What feeds each link that leaves an island's crossbar: the link that entered it. Every other link, and every tile input
port, joins one place only (R86, R87). -/
def crossbarFeeds (grade : Nat) : Spot → List PathEl → List (Option Nat × Spot)
  | x, .crossbar i :: e :: es => (linkKey e, x) :: crossbarFeeds grade ((moveSpot grade x (.crossbar i)).getD x) (e :: es)
  | x, e :: es => crossbarFeeds grade ((moveSpot grade x e).getD x) es
  | _, [] => []

/-- What drives each tile output port of a route: the program's sends, or a pass-through's input port (R86). -/
def outputDrives (l : Link) : List ((TileId × Port) × Option Port) :=
  (match l.src with | .tile t p => [((t, p), none)] | _ => [])
    ++ l.path.filterMap fun e => match e with | .pass t i o => some ((t, o), some i) | _ => none

/-- No key has two values. -/
def functional {α β : Type} [DecidableEq α] [DecidableEq β] (l : List (α × β)) : Bool :=
  l.all fun x => l.all fun y => decide (x.1 = y.1 → x.2 = y.2)

/-- Every route of a forging's placement lies on the floor plan, and every port has one source (R7, R8, R86, R87). -/
def routesOk (grade : Nat) (p : ForgingPlan) : Bool :=
  p.links.all (fun l => (routeSpots grade p.home l).isSome)
    && functional (p.links.flatMap fun l => crossbarFeeds grade (sourceSpot l.src) l.path) && functional (p.links.flatMap outputDrives)

/-! ### Strait links (R8, R13) -/

/-- The number of a hop of the strait ring from one harbour to the next. -/
def hopKey (a b : Nat) : Nat := 36864 + a * 16 + b

/-- The hops of a ring element that a token takes from a harbour. -/
def hopKeys (h : Nat) (hs : List Nat) : List Nat := ((h :: hs).zip hs).map fun x => hopKey x.1 x.2

/-- The links and ring hops of a path from a spot on. -/
def pathKeys (grade : Nat) : Spot → List PathEl → List Nat
  | _, [] => []
  | x, e :: es =>
    let here := match e, x with
      | .ring hs, .harbour h => hopKeys h hs
      | e, _ => (linkKey e).toList
    here ++ pathKeys grade ((moveSpot grade x e).getD x) es

/-- Harbours that a verdict passes on the ring from its home to another harbour, the shorter way
(notes/assumptions/22.md). -/
def ringHops (home h : Nat) : List Nat :=
  let up := (h + 16 - home) % 16
  if up ≤ 8 then (List.range up).map fun k => (home + k + 1) % 16
  else (List.range (16 - up)).map fun k => (home + 16 - k - 1) % 16

/-- The links and hops that the LIVE and RETIRING planes reserve: those of their routes, and of their verdicts to the
contributing harbours (R13, R17). -/
def reservedLinks (s : State) : List Nat :=
  (List.range 32).flatMap fun k =>
    let f := k / 2
    let q := k % 2 == 1
    let st := s.planeState f q
    match (s.plane f q).plan with
    | some p =>
      if st = 4 ∨ st = 5 then
        (p.links.flatMap fun l => pathKeys s.carrier.grade (sourceSpot l.src) l.path)
          ++ ((s.plane f q).shoals.filter fun x => x.forgings.contains f).flatMap fun x => hopKeys p.home (ringHops p.home (x.shoal / 16))
      else []
    | none => []

/-- Places of a floor plan for the temper plane: islands 0 to 63, and harbour h at 64 + h. -/
def freeSteps (taken : List Nat) (x : Nat) : List Nat :=
  let free (e : PathEl) : Bool := (linkKey e).all fun k => !taken.contains k
  if x < 64 then
    ([Port.n, .e, .s, .w].filterMap fun ed => (neighbour x ed).bind fun j =>
      if (List.range 16).any fun k => free (.strait x ed k) then some j else none)
    ++ ((List.range 16).filter fun h => (adjoining h).contains x && (List.range 8).any fun k => free (.outward x h (2 * k))).map (64 + ·)
  else
    let h := x - 64
    ((adjoining h).filter fun i => (List.range 8).any fun k => free (.inward h i (2 * k)))
    ++ ([(h + 1) % 16, (h + 15) % 16].filter fun g => !taken.contains (hopKey h g)).map (64 + ·)

/-- The places that free links reach within `n` links. -/
def freeReach (taken : List Nat) : Nat → List Nat → List Nat → List Nat
  | 0, seen, _ => seen
  | n + 1, seen, front =>
    let next := front.foldl (fun acc x => (freeSteps taken x).foldl (fun acc y => if seen.contains y || acc.contains y then acc else y :: acc) acc) []
    if next.isEmpty then seen else freeReach taken n (next ++ seen) next

/-- Is there a free route from a harbour to another over links that no live forging reserves (R13, R194). -/
def freeRoute (s : State) (h g : Nat) : Bool :=
  h == g || (freeReach (reservedLinks s) 80 [64 + h] [64 + h]).contains (64 + g)

end Sys2Proof.Machine
end

