-- ==== Sys2Proof/Machine/Queues.lean ====
section
/-! DEFINITION. The queues of a harbour's engines and what a running command learns as its lines come: tokens, its commit,
its status, its end, and the kernel of a temper (R175, R178, R182, R184, R185, R193, R199, R212, R244, R251). -/

namespace Sys2Proof.Machine

/-- The bellows context that serves a queue (R244). -/
def ctxOf (e q : Nat) : Nat := if e = 0 then q else 3 + e

/-- The key of a queue in Harbour.queues. -/
def queueKey (e q : Nat) : Nat := 4 * e + q

/-- The commands waiting in a queue. -/
def Harbour.queue (x : Harbour) (e q : Nat) : List Cmd := tabGet [] x.queues (queueKey e q)

/-- The command of an engine's queue that runs. -/
def Harbour.runningAt (x : Harbour) (e q : Nat) : Option Running := x.running.find? fun r => r.engine == e && r.queue == q

/-- Changes the running command of an engine's queue. -/
def modRunning (s : State) (h e q : Nat) (g : Running → Running) : State :=
  let pick : Running → Running := fun r => if r.engine = e ∧ r.queue = q then g r else r
  s.modHarbour h fun x => { x with running := x.running.map pick }

/-- Is a queue halted (R185). -/
def queueHalted (s : State) (h e q : Nat) : Bool := bit (s.reg Reg.engHalted (8 * h + e)) q

/-- Halts a queue. -/
def haltQueue (s : State) (h e q : Nat) : State := s.setReg Reg.engHalted (8 * h + e) (s.reg Reg.engHalted (8 * h + e) ||| 2 ^ q)

/-- Advances a token counter (R178, R184). -/
def advanceToken (s : State) (h t n : Nat) : State :=
  s.modHarbour h fun x => { x with tokens := tabMod 0#16 x.tokens t fun v => v + BitVec.ofNat 16 n }

/-! ### Items and their places (R186) -/

/-- The items of a decoupling queue. -/
def Harbour.dq (x : Harbour) (d : Nat) : List Item := tabGet [] x.dqs d

/-- Has a decoupling queue a free entry (R186). -/
def Harbour.dqRoom (x : Harbour) (d : Nat) : Bool := decide ((x.dq d).length < 512)

/-- Is an item of the command of a queue. -/
def Item.isOf (i : Item) (e q : Nat) : Bool := i.engine == e && i.queue == q

/-- Has the command of a queue items that have not been delivered. -/
def Harbour.outstanding (x : Harbour) (e q : Nat) : Bool := x.dqs.any fun l => l.2.any fun i => i.isOf e q

/-- Takes the items of the command of a queue out of the decoupling queues. -/
def dropItems (s : State) (h e q : Nat) : State :=
  s.modHarbour h fun x => { x with dqs := tabMap (fun _ l => l.filter fun i => !i.isOf e q) x.dqs }

/-! ### Contexts of the bellows (R244, R248) -/

/-- Context `k` of a harbour. -/
def Harbour.ctx (x : Harbour) (k : Nat) : Ctx := tabGet Ctx.idle x.ctxs k

/-- Sets context `k`. -/
def setCtx (s : State) (h k : Nat) (c : Ctx) : State := s.modHarbour h fun x => { x with ctxs := tabSet x.ctxs k c }

/-- Dispatches a routine into its context: PRE at the entry of its opcode, or at that of the routine that refuses an opcode
whose engine bit is 0 (R244, R248, R250; notes/assumptions/105.md). -/
def dispatch (s : State) (h k op bit' e q : Nat) : State :=
  let rom := s.reg Reg.seqRomId
  let word := Config.dispatchEntry rom op
  let entry := if word.getLsbD bit' then word.toNat % 2048 else (Config.refusalEntry rom).toNat % 2048
  let c : Ctx := { Ctx.idle with state := 1, opcode := op, addr := entry, engine := e, queue := q, next := s.reg Reg.engGroupCycles h }
  s.modHarbour h fun x => { x with ctxs := tabSet x.ctxs k c }

/-- The context of a queue idle again, its routine counted as retired (R250, Table 11.8). -/
def idleCtx (s : State) (h k : Nat) : State :=
  (s.modHarbour h fun x => { x with ctxs := tabSet x.ctxs k Ctx.idle }).count Reg.seqRoutines h 64

/-! ### What a running command learns -/

/-- The command of a queue passes its commit point: a routine that runs for it is POST (R250, R251). -/
def commitCmd (s : State) (h e q : Nat) : State :=
  let post : Nat × Ctx → Nat × Ctx := fun c =>
    if c.1 = ctxOf e q ∧ c.2.state ≠ 0 then
      (c.1, { c.2 with commit := true, restarts := 0, state := if c.2.state = 3 then 3 else 2 })
    else c
  (modRunning s h e q fun r => { r with posted := true }).modHarbour h fun x => { x with ctxs := x.ctxs.map post }

/-- Marks the running command done, with a status and a detail. -/
def finish (s : State) (h e q status detail : Nat) : State :=
  modRunning (commitCmd s h e q) h e q fun r => { r with finished := true, status := status, detail := detail }

/-- A command ends at once: what it has in the decoupling queues is dropped. -/
def endCommand (s : State) (h e q status detail : Nat) : State := finish (dropItems s h e q) h e q status detail

/-- Access `k` of a command lies outside its space by now, in line `d` of its range: it ends with RANGE and that line once
the accesses before it are done (R184, R212). -/
def stopAt (s : State) (h e q k d : Nat) : State :=
  modRunning s h e q fun r =>
    { r with issued := k, total := k, finished := decide (r.delivered = k), status := if r.status = 0 then 2 else r.status,
             detail := if r.status = 0 then d % 2 ^ 32 else r.detail }

/-- One line of a command is done; PER_ITEM advances the done token (R184). -/
def lineDone (s : State) (h : Nat) (c : Cmd) : State :=
  if cmdPerItem c && cmdDoneEn c then advanceToken s h (cmdDone c) 1 else s

/-- A poisoned line counts (R199). -/
def countPoison (s : State) (h : Nat) (poison : Bool) : State := if poison then s.count Reg.engPoisoned h else s

/-- Does a poisoned line stop a command at this harbour (R199). -/
def abortsOn (s : State) (h : Nat) (poison : Bool) : Bool := poison && s.reg Reg.engPoisonPolicy h == 1

/-- The command of a queue has one line more, poisoned or not: its token with PER_ITEM, its status under ENG_POISON_POLICY,
its end after the last (R184, R199). -/
def noteLine (s : State) (h e q k : Nat) (poison : Bool) : State :=
  match (s.harbour h).runningAt e q with
  | none => s
  | some r =>
    let s := countPoison s h poison
    if r.finished then s
    else if abortsOn s h poison then endCommand s h e q 4 (k % 2 ^ 32)
    else
      let first := poison && r.status == 0
      modRunning (lineDone s h r.cmd) h e q fun y =>
        { y with delivered := y.delivered + 1, poison := y.poison || poison, status := if first then 3 else y.status,
                 detail := if first then k % 2 ^ 32 else y.detail, finished := decide (y.delivered + 1 = y.total) }

/-- The command of a queue has read a line for itself; an image's poisoned line aborts or marks it (R199, R243). -/
def noteRead (s : State) (h e q k : Nat) (image : Bool) (g : Got) : State :=
  match (s.harbour h).runningAt e q with
  | none => s
  | some r =>
    let s := countPoison s h g.poison
    if r.finished then s
    else if image && abortsOn s h g.poison then endCommand s h e q 4 (k % 2 ^ 32)
    else
      let first := image && g.poison && r.status == 0
      modRunning s h e q fun y =>
        { y with lines := y.lines ++ [g], poison := y.poison || (image && g.poison), status := if first then 3 else y.status,
                 detail := if first then k % 2 ^ 32 else y.detail }

/-! ### Kernels -/

/-- Changes the kernel of a temper. -/
def modKernel (s : State) (h k : Nat) (g : Kernel → Kernel) : State :=
  let t := s.temper h k
  s.setTemper h k { t with kernel := t.kernel.map g }

/-- A kernel ends with a status and a detail; an earlier POISONED stands over OK (R199). -/
def endKernel (s : State) (h k status detail : Nat) : State :=
  modKernel s h k fun x =>
    if x.ended then x
    else if status = 0 then { x with ended := true }
    else { x with ended := true, status := status, detail := detail }

/-- A read of a poisoned line: counted, and by ENG_POISON_POLICY the kernel goes on to end POISONED, or stops ABORTED
(R199). The line's number is the detail. -/
def kernelPoison (s : State) (h k line : Nat) : State × Option (Nat × Nat) :=
  let s := s.count Reg.engPoisoned h
  if s.reg Reg.engPoisonPolicy h = 1 then (s, some (4, line % 2 ^ 32))
  else
    (modKernel s h k fun x => if x.status = 0 then { x with status := 3, detail := line % 2 ^ 32 } else x, none)

/-- An access of a command is refused: its kernel, or the command itself, ends with RANGE (R236). -/
def refuseAccess (s : State) (h e q k line : Nat) : State :=
  match if e = 1 ∨ e = 2 then (s.temper h (e - 1)).kernel else none with
  | some _ => modKernel s h (e - 1) fun x => { x with ended := true, status := 2, detail := line % 2 ^ 32 }
  | none => endCommand s h e q 2 (k % 2 ^ 32)

end Sys2Proof.Machine
end

