-- ==== Sys2Proof/Machine/Items.lean ====
section
/-! DEFINITION. The decoupling queues: how an item is issued, taken by its stack, arrives and is delivered, in queue mode and
in lockstep; stalls and timeouts; refresh and scrub of a stack (R186 to R191, R199, R200, R204 to R206, R210, R216). -/

namespace Sys2Proof.Machine

/-! ### Issue (R186, R189, R205, R216) -/

/-- The line that an item reads at a hold or another memory: its source, or what a part-line write is merged into. -/
def Item.reads (i : Item) : Option Nat :=
  match i.use with
  | .copy => some i.src
  | .read _ => some i.src
  | .first _ _ => some i.src
  | .prefetch _ => some i.src
  | .write n => if n < 64 then some i.dst else none
  | _ => none

/-- The addresses that an item accesses. -/
def Item.places (i : Item) : List Nat :=
  match i.use with
  | .copy => [i.src, i.dst]
  | .read _ => [i.src]
  | .first _ _ => [i.src]
  | .prefetch _ => [i.src]
  | _ => [i.dst]

/-- The line that an item writes, if it does. -/
def Item.writes (i : Item) : Option Nat :=
  match i.use with
  | .copy => some (i.dst / 64)
  | .write _ => some (i.dst / 64)
  | .reduce _ => some (i.dst / 64)
  | _ => none

/-- A stack line that an item reads: the harbour and the line in its stack. -/
def Item.fill (i : Item) : Option (Nat × Nat) :=
  match i.reads with
  | some a => if addrSpace a = 0 then some (addrHarbour a, lineOf a) else none
  | none => none

/-- The bytes that an item accesses at each of its places. -/
def Item.span (i : Item) : Nat :=
  match i.use with
  | .write n => min n 64
  | .reduce _ => 32
  | _ => 64

/-- The harbour to whose stack an item's request goes, if it needs one: for a line it reads, or for a write-back. -/
def Item.request (i : Item) : Option Nat :=
  match i.use with
  | .evict => some (addrHarbour i.dst)
  | .clean _ => some (addrHarbour i.dst)
  | _ => i.fill.map Prod.fst

/-- The due group cycle of an item issued now: local where all that it accesses is its own harbour's (R189). -/
def itemDue (s : State) (h : Nat) (i : Item) : Nat :=
  s.reg Reg.engGroupCycles h
    + if i.places.all fun a => addrHarbour a == h then s.reg Reg.engDqDueLocal h else s.reg Reg.engDqDueRemote h

/-- Does a hold lack the line that an item reads. -/
def missesHold (s : State) (i : Item) : Bool :=
  match i.fill with
  | some x => !holdHas s x.1 x.2
  | none => false

/-- Is a fill of a stack line outstanding anywhere (R216). -/
def fillOutstanding (s : State) (h line : Nat) : Bool :=
  s.harbours.any fun x => x.2.dqs.any fun l => l.2.any fun i => i.stack && !i.arrived && i.fill == some (h, line)

/-- Is an item addressed to a stack that is not READY, but for a line that its hold has (R205). -/
def addressesLost (s : State) (i : Item) : Bool :=
  i.places.any fun a => addrSpace a == 0 && !stackReady s (addrHarbour a)
    && (i.reads != some a || !holdHas s (addrHarbour a) (lineOf a))

/-- What the hold counts of an access that an item makes: a hit, a miss, a duplicate miss (R216, R224). -/
def countFill (s : State) (i : Item) : State :=
  match i.fill with
  | some x =>
    let dup := !holdHas s x.1 x.2 && fillOutstanding s x.1 x.2
    let s := holdLook s x.1 x.2
    if dup then s.count Reg.cacheHoldDupMisses x.1 64 else s
  | none => s

/-- A line that a hold cannot get from its stack is poisoned there (R199, R205). -/
def loseFill (s : State) (i : Item) : State :=
  match i.fill with
  | some x => fillArrives s x.1 x.2 true false
  | none => s

/-- Does an item need a stack: for the line that its hold lacks, or for a dirty line that it writes back. -/
def needsStack (s : State) (i : Item) : Bool :=
  match i.use with
  | .evict => true
  | .clean _ => (s.harbour (addrHarbour i.dst)).hold.any fun y => y.1 == lineOf i.dst && y.2
  | _ => missesHold s i

/-- Needs an item neither a stack nor another harbour: it has arrived as soon as it is issued. -/
def arrivesAtOnce (s : State) (h : Nat) (i : Item) : Bool := (i.places.all fun a => addrHarbour a == h) && !needsStack s i

/-- An item as it is issued now, and what its hold does at once: one to a stack that is not READY is delivered poisoned
without reaching it (R189, R205, R216). -/
def launchItem (s : State) (h : Nat) (i : Item) : State × Item :=
  let lost := addressesLost s i
  let i' : Item :=
    { i with issued := s.clocks.cycle, due := itemDue s h i, stack := needsStack s i && !lost, taken := false,
             arrived := lost || arrivesAtOnce s h i, poisoned := i.poisoned || lost }
  let t := countFill s i
  (if lost then loseFill t i else t, i')

/-- The line of an item that has arrived is read, unless an item issued before it on its queue still writes that line
(R187, R210). -/
def capture (s : State) (earlier : List Item) (i : Item) : Item :=
  match i.reads with
  | some a =>
    if i.got || !i.arrived || (earlier.any fun j => j.writes == some (a / 64)) then i
    else { i with got := true, data := lineData s a, poisoned := i.poisoned || s.poisoned (a / 64) }
  | none => i

/-! ### Requests of a stack (R186) -/

/-- Waits an item for stack `g` to take its request. -/
def Item.waitsFor (i : Item) (g : Nat) : Bool := i.stack && !i.taken && !i.arrived && i.request == some g

/-- Requests that stack `g` has taken and not answered. -/
def takenOf (s : State) (g : Nat) : Nat :=
  (s.harbours.map fun x => (x.2.dqs.map fun l => (l.2.filter fun i => i.stack && i.taken && !i.arrived
    && i.request == some g).length).sum).sum

/-- The place of the request that member `m` offers stack `g`: the oldest of DQ0 to DQ3, or of the remote harbours. -/
def offerOf (s : State) (g m : Nat) : Option (Nat × Nat × Nat) :=
  if m < 4 then
    let l := (s.harbour g).dq m
    if l.any fun i => i.waitsFor g then some (g, m, l.findIdx fun i => i.waitsFor g) else none
  else
    let all := s.harbours.flatMap fun x => (List.range 4).flatMap fun d =>
      (x.2.dq d).zipIdx.filterMap fun y => if x.1 != g && y.1.waitsFor g then some (y.1.issued, x.1, d, y.2) else none
    (all.foldl (fun (b : Option (Nat × Nat × Nat × Nat)) y =>
      match b with
      | some z => if y.1 < z.1 then some y else some z
      | none => some y) none).map Prod.snd

/-- Changes item `n` of a decoupling queue. -/
def modItem (s : State) (h d n : Nat) (g : Item → Item) : State :=
  s.modHarbour h fun x => { x with dqs := tabMod [] x.dqs d fun l => listMod l n g }

/-- A stack takes its next request, from DQ0 to DQ3 and the remote harbours in turn, while fewer than 1,024 are outstanding
(R186; notes/assumptions/103.md). -/
def takeOne (s : State) (g : Nat) : Option State :=
  if 1024 ≤ takenOf s g then none
  else
    ((List.range 5).map fun k => ((s.harbour g).takeNext + k) % 5).findSome? fun m =>
      (offerOf s g m).map fun p =>
        (modItem s p.1 p.2.1 p.2.2 fun i => { i with taken := true }).modHarbour g fun x => { x with takeNext := (m + 1) % 5 }

/-- A stack takes what it may. -/
def takeAll (g : Nat) : Nat → State → State
  | 0, s => s
  | n + 1, s =>
    match takeOne s g with
    | some t => takeAll g n t
    | none => s

/-- The stack that an item's request goes to takes what it may. -/
def takeFor (s : State) (i : Item) : State :=
  match i.request with
  | some g => if i.stack then takeAll g 1024 s else s
  | none => s

/-- An item enters a decoupling queue. -/
def appendItem (s : State) (h d : Nat) (i : Item) : State :=
  let x := launchItem s h i
  let it := capture x.1 ((x.1.harbour h).dq d) x.2
  takeFor (x.1.modHarbour h fun y => { y with dqs := tabMod [] y.dqs d fun l => l ++ [it] }) it

/-- A new item of a command, before it is issued. -/
def itemOf (e q : Nat) (use : ItemUse) (src dst k : Nat) (data : BitVec 512) (poison : Bool) : Item :=
  { engine := e, queue := q, use := use, src := src, dst := dst, offset := k, issued := 0, due := 0, stack := false, taken := false,
    arrived := false, got := false, poisoned := poison, data := data }

/-- The engine number of items that no command owns. -/
def noEngine : Nat := 5

/-- Evicted lines of a hold enter DQ3 while it has room (R186; notes/assumptions/104.md). -/
def drainOne (s : State) (h : Nat) : State :=
  let x := s.harbour h
  let n := 512 - (x.dq 3).length
  let s := s.modHarbour h fun y => { y with victims := y.victims.drop n }
  (x.victims.take n).foldl (fun s l => appendItem s h 3 (itemOf noEngine 0 .evict 0 (mkAddr 0 h (64 * l)) 0 0#512 false)) s

/-- Evicted lines of every hold enter DQ3. -/
def drainVictims (s : State) : State := (s.harbourList.filter fun h => !(s.harbour h).victims.isEmpty).foldl drainOne s

/-! ### First levels (R213, R215) -/

/-- A temper sends bytes of a line to the memory that owns it: through its hold at once in queue mode where the hold needs
no fill, else as an item on DQ3 (R189, R190; notes/assumptions/104.md). -/
def sendWrite (s : State) (h u a n : Nat) (d : BitVec 512) (poison : Bool) : State :=
  let q := ((s.temper h u).kernel.map Kernel.queue).getD 0
  let i := itemOf (u + 1) q (.write n) 0 a 0 d poison
  if !s.lockstep h && arrivesAtOnce s h i && !addressesLost s i then putBytes (countFill s i) a n d poison
  else appendItem s h 3 i

/-- Writes a dirty line back to the owning hold (R215). -/
def writeBack (s : State) (h u : Nat) (c : CLine) : State := if c.dirty then sendWrite s h u (c.line * 64) 64 c.data c.poison else s

/-- The line number L of Table 9.1, which selects a set of a first level (R213). -/
def CLine.key (c : CLine) : Nat := c.line % 2 ^ 34

/-- Installs a line in a first level as most recent, writing back a dirty victim (R213). -/
def firstInstall (s : State) (h u cls : Nat) (c : CLine) : State :=
  let t := s.temper h u
  let sets := firstSets s h u cls
  let l := (t.cache cls).filter fun e => e.line != c.line
  let same := l.filter fun e => e.key % sets = c.key % sets
  match if same.length < firstWays cls then none else lruOf CLine.key sets c.key l with
  | none => s.setTemper h u (t.setCache cls (c :: l))
  | some v => writeBack (s.setTemper h u (t.setCache cls (c :: l.filter fun e => e.line != v.line))) h u v

/-- Has a temper this class of first level: a data cache of split 8 has no sets (R212). -/
def hasLevel (s : State) (h u cls : Nat) : Bool := decide (cls < 4) && firstSets s h u cls != 0

/-- A read of the line that holds an address through a first level: the line that has come for the instruction, or a hit; a
miss is noted, and what is read then does not matter, since the repetition is tried again (R213, R214, R224). -/
def firstRead (s : State) (h u cls a : Nat) : State × LineRead :=
  let line := a / 64
  let t := s.temper h u
  match t.kernel.bind fun x => x.arrived.find? fun g => g.cls == cls && g.line == line with
  | some g =>
    (modKernel s h u fun x => { x with arrived := x.arrived.filter fun y => !(y.cls == cls && y.line == line) },
      { data := g.data, poison := g.poison })
  | none =>
    match if hasLevel s h u cls then (t.cache cls).find? fun e => e.line == line else none with
    | some c => (countClass (firstInstall s h u cls c) h u cls true, { data := c.data, poison := c.poison })
    | none => (s.setTemper h u { t with wants := t.wants ++ [(cls, line)] }, { data := 0#512, poison := false })

/-! ### Delivery (R187, R189, R190, R199) -/

/-- The line of an item: as it was read, or as it stands now (R187, R210). -/
def Item.value (s : State) (i : Item) : BitVec 512 × Bool :=
  match i.reads with
  | some a => if i.got then (i.data, i.poisoned) else (lineData s a, i.poisoned || s.poisoned (a / 64))
  | none => (i.data, i.poisoned)

/-- A line of a first level comes: the level keeps it, and what asked for it has it (R213, R214). -/
def firstArrives (s : State) (h u cls : Nat) (i : Item) (v : BitVec 512 × Bool) : State :=
  let line := i.src / 64
  let s := if hasLevel s h u cls then firstInstall s h u cls { line := line, data := v.1, dirty := false, poison := v.2 } else s
  let g : Got := { cls := cls, line := line, data := v.1, poison := v.2 }
  if cls = 2 then noteRead s h i.engine i.queue i.offset false g
  else modKernel s h u fun x => { x with arrived := x.arrived ++ [g] }

/-- Fills of a prefetch enter the classes that still lack the line (R223). -/
def prefetchArrives (s : State) (h u : Nat) (classes : List Nat) (line : Nat) (v : BitVec 512 × Bool) : State :=
  classes.foldl (fun s cls =>
    if !hasLevel s h u cls || ((s.temper h u).cache cls).any fun c => c.line == line then s
    else firstInstall s h u cls { line := line, data := v.1, dirty := false, poison := v.2 }) s

/-- A hold line written back, and dropped or kept clean (R223). -/
def cleanLine (s : State) (h line : Nat) (drop : Bool) : State :=
  let x := s.harbour h
  match x.hold.find? fun y => y.1 == line with
  | none => s
  | some y =>
    let s := if y.2 then (s.setHarbour h { x with badLines := x.badLines.filter (· != line) }).count Reg.cacheHoldWritebacks h 64 else s
    if drop then
      let s := if y.2 then s else holdLeaves s h (line, false)
      s.modHarbour h fun z => { z with hold := z.hold.filter fun w => w.1 != line }
    else s.modHarbour h fun z => { z with hold := z.hold.map fun w => if w.1 = line then (line, false) else w }

/-- Does an access of a command meet the scratch range of another's pair job (R236). -/
def scratchBars (s : State) (h : Nat) (i : Item) : Bool :=
  i.places.any fun a => scratchHeld s (ownScratch h i.engine i.queue) a i.span

/-- What an item does that no scratch range bars. -/
def useItem (s : State) (h : Nat) (i : Item) : State :=
  let v := i.value s
  match i.use with
  | .copy =>
    if abortsOn s h v.2 then noteLine s h i.engine i.queue i.offset true
    else noteLine (writeLine s i.dst v.1 v.2) h i.engine i.queue i.offset v.2
  | .write n =>
    if i.engine = 1 ∨ i.engine = 2 then putBytes s i.dst n i.data i.poisoned
    else if abortsOn s h i.poisoned then noteLine s h i.engine i.queue i.offset true
    else noteLine (putBytes s i.dst n i.data i.poisoned) h i.engine i.queue i.offset i.poisoned
  | .read image => noteRead s h i.engine i.queue i.offset image { cls := 0, line := i.src / 64, data := v.1, poison := v.2 }
  | .first u cls => firstArrives s h u cls i v
  | .prefetch classes =>
    noteLine (prefetchArrives s h (i.engine - 1) classes (i.src / 64) v) h i.engine i.queue i.offset v.2
  | .clean drop => noteLine (cleanLine s (addrHarbour i.dst) (lineOf i.dst) drop) h i.engine i.queue i.offset i.poisoned
  | .evict => s
  | .reduce r => s.modHarbour (addrHarbour i.dst) fun x => { x with reductions := x.reductions ++ [r] }

/-- Delivers an item that has left its queue; one that meets another's scratch range ends its command with RANGE (R236). -/
def deliverItem (s : State) (h : Nat) (i : Item) : State :=
  if scratchBars s h i && i.use != .evict then refuseAccess s h i.engine i.queue i.offset (i.dst / 64) else useItem s h i

/-- The next item of a queue that a condition allows, and the rest; only items of the second condition are passed over. -/
def nextItem (p skip : Item → Bool) : List Item → Option (Item × List Item)
  | [] => none
  | i :: rest =>
    if p i then some (i, rest)
    else if skip i then (nextItem p skip rest).map fun x => (x.1, i :: x.2)
    else none

/-- Delivers, in the order of issue, items of a queue that a condition allows (R187). -/
def deliverHead (p skip : Item → Bool) (h d : Nat) : Nat → State → State
  | 0, s => s
  | n + 1, s =>
    match nextItem p skip ((s.harbour h).dq d) with
    | some x => deliverHead p skip h d n (deliverItem (s.modHarbour h fun y => { y with dqs := tabSet y.dqs d x.2 }) h x.1)
    | none => s

/-- Every decoupling queue of a harbour. -/
def deliverAll (p skip : Item → Bool) (h : Nat) (s : State) : State :=
  (List.range 4).foldl (fun s d => deliverHead p skip h d ((s.harbour h).dq d).length s) s

/-- The items due by the present group cycle. -/
def dueNow (s : State) (h : Nat) : List Item :=
  let g := s.reg Reg.engGroupCycles h
  (s.harbour h).dqs.flatMap fun l => l.2.filter fun i => decide (i.due ≤ g)

/-- Lockstep: the due items are delivered when all have arrived; else the group stalls until they have (R189). -/
def settleLockstep (s : State) (h : Nat) : State :=
  let g := s.reg Reg.engGroupCycles h
  if (dueNow s h).all Item.arrived then
    deliverAll (fun i => decide (i.due ≤ g)) (fun _ => true) h (s.modHarbour h fun x => { x with stalled := false })
  else s.modHarbour h fun x => { x with stalled := true }

/-- Delivery after an arrival: on arrival in queue mode, where an eviction holds up no other item, and at the due cycle in
lockstep (R187, R189, R190). -/
def settle (s : State) (h : Nat) : State :=
  drainVictims (if s.lockstep h then settleLockstep s h else deliverAll Item.arrived (fun i => i.use == .evict) h s)

/-- An item of a command is issued. In queue mode an access that needs no item, of a command that has none outstanding, is
carried out at once (R186, R190); `named` items stand in the queue that their command names. -/
def placeItem (s : State) (h d : Nat) (named : Bool) (i : Item) : State :=
  if s.lockstep h then drainVictims (appendItem s h d i)
  else
    let x := launchItem s h i
    if x.2.arrived && !named && !(s.harbour h).outstanding i.engine i.queue then drainVictims (deliverItem x.1 h x.2)
    else settle (appendItem s h d i) h

/-! ### Arrival (R186, R199, R200, R204, R216) -/

/-- What the controller counts of a read of line `line` of stack `h`, and the tests that its errors begin (R204, R371). -/
def eccCounts (s : State) (h line : Nat) (c : EccReport) : State :=
  let s := if c.odCorrected then s.count Reg.hbmOdeccCorr h 64 else s
  let s := if c.odUncorrected then s.count Reg.hbmOdeccUncorr h else s
  let s := if c.corrected then detect (s.count Reg.hbmCorrected h 64) (hbmUnit h line) false line 0 else s
  let s := if c.uncorrected then s.count Reg.hbmUncorr h else s
  if c.uncorrected || c.odUncorrected then detect s (hbmUnit h line) true line 0xFF60 else s

/-- A report of an uncorrectable line. -/
def eccBad (c : EccReport) : Bool := c.uncorrected || c.odUncorrected

/-- The line of an item that its stack has sent comes to its hold (R204, R216). -/
def stackSends (s : State) (i : Item) (c : EccReport) : State :=
  match if i.stack then i.fill else none with
  | some x => fillArrives (eccCounts s x.1 x.2 c) x.1 x.2 (eccBad c) (c.corrected && !eccBad c)
  | none => s

/-- Item `n` of a queue has arrived: its line is read, and its stack may take another request. -/
def itemArrived (s : State) (h d n : Nat) (i : Item) (poison : Bool) : State :=
  let i' := capture s (((s.harbour h).dq d).take n) { i with arrived := true, poisoned := i.poisoned || poison }
  settle (takeFor (modItem s h d n fun _ => i') i) h

/-- An item arrives: with its ECC report where the line came from its stack (R199, R204). A request that its stack has not
taken cannot arrive (R186). -/
def itemArrives (s : State) (h d n : Nat) (c : EccReport) : State :=
  match ((s.harbour h).dq d)[n]? with
  | none => s
  | some i => if i.arrived || (i.stack && !i.taken) then s else itemArrived (stackSends s i c) h d n i false

/-- ITEM_ARRIVAL. -/
def execItemArrival (h dq index : Nat) (ecc : EccReport) (s : State) : Host.Outcome State Fault Refusal :=
  onUnit (s.hasHarbour h && dq < 4) s (itemArrives s h dq index ecc)

/-- Core cycles of a group cycle that the power limit does not lengthen, or does (R188, R401). -/
def groupPace (s : State) : Nat := if s.power.throttled then 4 else 2

/-- The next due cycle comes (R189). -/
def dueComes (s : State) (h : Nat) : State :=
  if !s.lockstep h || s.groupStands h then s
  else
    match (s.harbour h).nextDue with
    | none => s
    | some d =>
      drainVictims (settleLockstep (s.runTo (s.clocks.cycle + groupPace s * (d - s.reg Reg.engGroupCycles h))) h)

/-- ITEM_DUE. -/
def execItemDue (h : Nat) (s : State) : Host.Outcome State Fault Refusal := onUnit (s.hasHarbour h) s (dueComes s h)

/-- ENG_ITEM_TIMEOUT in core cycles: 0.625 ns each. -/
def timeoutCycles (s : State) (h : Nat) : Nat := s.reg Reg.engItemTimeout h * 8 / 5

/-- An item that has not been delivered in time is delivered poisoned, and its hold keeps the poison (R199, R200, R356). -/
def itemTimesOut (s : State) (h d n : Nat) : State :=
  match ((s.harbour h).dq d)[n]? with
  | none => s
  | some i =>
    if i.arrived then s
    else
      let s := s.runTo (i.issued + timeoutCycles s h)
      let s := s.detFault (harbourUnit h) (i.offset % 2 ^ 32)
      itemArrived (if i.stack then loseFill s i else s) h d n i true

/-- ITEM_TIMEOUT. -/
def execItemTimeout (h dq index : Nat) (s : State) : Host.Outcome State Fault Refusal :=
  onUnit (s.hasHarbour h && dq < 4) s (itemTimesOut s h dq index)

/-- Outstanding items of a harbour (ENG_OUTSTANDING). -/
def outstanding (x : Harbour) : Nat := (x.dqs.map fun l => l.2.length).sum

/-! ### Refresh and scrub (R206) -/

/-- The interval of per-bank refresh, halved while the stack is hot (R206). -/
def refreshInterval (s : State) (h : Nat) : Nat :=
  let t := listGet 0 (s.harbour h).timing 5 * 8 / 5
  if (s.reg Reg.hbmHotC h : Int) ≤ signed 8 (s.reg Reg.hbmTempC h) then t / 2 else t

/-- A bank is refreshed, never postponed: the controller notes the core cycle of its next one (R206). -/
def refreshes (s : State) (h bank : Nat) : State :=
  s.modHarbour h fun x => { x with refreshAt := tabSet x.refreshAt bank (s.clocks.cycle + refreshInterval s h) }

/-- HBM_REFRESH. -/
def execHbmRefresh (h bank : Nat) (s : State) : Host.Outcome State Fault Refusal :=
  onUnit (s.hasHarbour h) s (if stackReady s h then refreshes s h bank else s)

/-- Lines of a stack (R202). -/
def stackLines : Nat := 375000000

/-- An uncorrectable line is rewritten with the pattern that keeps it so: readers meet it at once, or once its hold has let
a good copy go (R205, R206). -/
def scrubBad (s : State) (h line : Nat) : State :=
  if holdHas s h line then s.modHarbour h fun x => { x with badLines := line :: x.badLines.filter (· != line) }
  else s.setPoison (stackLine h line) true

/-- The stack scrub reads its next line, rewrites a corrected one in place, and an uncorrectable one with its pattern (R206).
A pass ends after the last line. Another line than the next is no read of the scrub. -/
def hbmScrubs (s : State) (h line : Nat) (c : EccReport) : State :=
  if s.reg Reg.hbmScrubH h = 0 ∨ !stackReady s h ∨ line ≠ (s.harbour h).scrubLine then s
  else
    let s := eccCounts s h line c
    let s := if eccBad c then scrubBad s h line else s
    let s := s.modHarbour h fun x => { x with scrubLine := (line + 1) % stackLines }
    if line + 1 = stackLines then s.count Reg.hbmScrubPasses h else s

/-- HBM_SCRUB. -/
def execHbmScrub (h line : Nat) (ecc : EccReport) (s : State) : Host.Outcome State Fault Refusal :=
  onUnit (s.hasHarbour h) s (hbmScrubs s h line ecc)

end Sys2Proof.Machine
end

