-- ==== Sys2Proof/Machine/Rs.lean ====
section
/-! DEFINITION. The Reed–Solomon code RS(112, 104) over GF(2^10) of the lanes' FEC, and the 16 transcoded blocks of a
codeword (R74). The first symbol on the line is the highest power of the codeword polynomial, and the bits of a symbol
run most significant first (notes/assumptions/21.md). -/

namespace Sys2Proof.Machine

/-- Multiplication by α in GF(2^10) with the field polynomial x^10 + x^3 + 1. -/
def gfDouble (a : Nat) : Nat := if a ≥ 512 then (2 * a) ^^^ 0x409 else 2 * a

/-- The product of `a` and the `n` low bits of `b`. -/
def gfMulBits (a b : Nat) : Nat → Nat
  | 0 => 0
  | n + 1 => (if b.testBit 0 then a else 0) ^^^ gfMulBits (gfDouble a) (b / 2) n

def gfMul (a b : Nat) : Nat := gfMulBits a b 10

/-- `a` to the power whose `n` low bits `e` gives. -/
def gfPow (a e : Nat) : Nat → Nat
  | 0 => 1
  | n + 1 => gfMul (if e.testBit 0 then a else 1) (gfPow (gfMul a a) (e / 2) n)

/-- α to a power. -/
def gfAlpha (e : Nat) : Nat := gfPow 2 (e % 1023) 10

/-- The inverse of a non-zero element. -/
def gfInv (a : Nat) : Nat := gfPow a 1022 10

/-- A polynomial, lowest coefficient first, at a point. -/
def gfEval (p : List Nat) (x : Nat) : Nat := p.foldr (fun c a => c ^^^ gfMul a x) 0

/-- The sum of two polynomials. -/
def polyAdd : List Nat → List Nat → List Nat
  | [], q => q
  | p, [] => p
  | a :: p, b :: q => (a ^^^ b) :: polyAdd p q

/-- c x^m p. -/
def polyShift (c m : Nat) (p : List Nat) : List Nat := List.replicate m 0 ++ p.map (gfMul c)

/-- The eight syndromes of a received codeword, first symbol highest. -/
def syndromes (r : List Nat) : List Nat :=
  (List.range 8).map fun j => r.foldl (fun a c => gfMul a (gfAlpha j) ^^^ c) 0

/-- The state of the Berlekamp–Massey recursion. -/
structure Massey where
  c : List Nat
  b : List Nat
  l : Nat
  m : Nat
  d : Nat

/-- One step of the recursion on syndrome `n`. -/
def masseyStep (s : List Nat) (x : Massey) (n : Nat) : Massey :=
  let d := (List.range (x.l + 1)).foldl (fun a i => a ^^^ gfMul (x.c.getD i 0) (if i ≤ n then s.getD (n - i) 0 else 0)) 0
  if d = 0 then { x with m := x.m + 1 }
  else
    let c := polyAdd x.c (polyShift (gfMul d (gfInv x.d)) x.m x.b)
    if 2 * x.l ≤ n then { c := c, b := x.c, l := n + 1 - x.l, m := 1, d := d } else { x with c := c, m := x.m + 1 }

/-- The error locator of eight syndromes, and its degree. -/
def locator (s : List Nat) : List Nat × Nat :=
  let x := (List.range 8).foldl (masseyStep s) { c := [1], b := [1], l := 0, m := 1, d := 1 }
  (x.c, x.l)

/-- The formal derivative of a polynomial: its odd coefficients. -/
def polyDeriv (p : List Nat) : List Nat := (p.zipIdx.drop 1).map fun x => if x.2 % 2 = 1 then x.1 else 0

/-- The evaluator polynomial: syndromes times locator modulo x^8. -/
def evaluator (s c : List Nat) : List Nat :=
  (List.range 8).map fun n => (List.range (n + 1)).foldl (fun a i => a ^^^ gfMul (s.getD i 0) (c.getD (n - i) 0)) 0

/-- Corrects a codeword of 112 symbols: its symbols and how many were corrected, none where more than 4 are wrong. -/
def rsDecode (r : List Nat) : Option (List Nat × Nat) :=
  let s := syndromes r
  if s.all (· == 0) then some (r, 0)
  else
    let k := locator s
    let c := k.1
    let w := evaluator s c
    let dc := polyDeriv c
    let fix : Nat × Nat → Nat × Bool := fun x =>
      let p := 111 - x.2
      let xi := gfInv (gfAlpha p)
      if gfEval c xi = 0 then (x.1 ^^^ gfMul (gfAlpha p) (gfMul (gfEval w xi) (gfInv (gfEval dc xi))), true) else (x.1, false)
    let out := r.zipIdx.map fix
    let n := (out.filter Prod.snd).length
    if n = k.2 ∧ k.2 ≤ 4 ∧ (syndromes (out.map Prod.fst)).all (· == 0) then some (out.map Prod.fst, n) else none

/-- The 16 blocks that 104 symbols carry: the control bit, and the 64 payload bits (R74). -/
def codewordBlocks (symbols : List Nat) : List (Bool × Word64) :=
  let x := (symbols.take 104).foldl (fun a c => a * 1024 + c % 1024) 0
  (List.range 16).map fun i =>
    let b := x >>> (65 * (15 - i))
    (b.testBit 64, BitVec.ofNat 64 b)

end Sys2Proof.Machine
end

