-- ==== Sys2Proof/Machine/Line.lean ====
section
/-! DEFINITION. What a lane carries on its line: 64b/66b blocks, scrambler, FEC interleaves, PAM4, patterns, and the transmit
lanes (R55, R56, R74, R76 to R78, R172, R334; Tables 3.2, 3.9, 7.4, 15.2). A block's payload runs from bit 63 down
(notes/assumptions/21.md). -/

namespace Sys2Proof.Machine

/-- Line bits per core cycle of a rate (Table 3.1). -/
def rateBits (rate : Nat) : Nat := if rate = 0 then 8 else if rate = 1 then 16 else 32

/-! ### Blocks (R56; Tables 3.2, 7.4) -/

/-- A block as it is coded: whether it is a control block, and its payload. -/
abbrev Coded := Bool × Word64

/-- The IDLE_HELD and FILL blocks that the engine sends. -/
def idleBlock : Coded := (true, 0xC500000000000000#64)
def fillBlock : Coded := (true, 0xC400000000000000#64)

/-- A transmit block, coded. -/
def TxBlock.coded : TxBlock → Coded
  | .txBeat beat lane crc => (true, 0xC9#8 ++ beat.extractLsb' 0 32 ++ BitVec.ofNat 4 lane ++ 0#4 ++ BitVec.ofNat 16 crc)
  | .verdict crc => (true, 0xC7#8 ++ 0#40 ++ BitVec.ofNat 16 crc)
  | .payload beat f n off =>
    (true, 0xC8#8 ++ beat.extractLsb' 0 24 ++ BitVec.ofNat 4 f ++ BitVec.ofNat 6 (n - 1) ++ BitVec.ofNat 22 off)
  | .data w => (false, w)
  | .fill => fillBlock
  | .token tag seq crc => (true, 0xC6#8 ++ tag ++ BitVec.ofNat 8 seq ++ BitVec.ofNat 16 crc)
  | .digest w => (true, w)

/-- The 66 bits of a block: sync header 01 before data, 10 before a control block. -/
def blockBits (b : Coded) : Nat := (if b.1 then 2 else 1) * 2 ^ 64 + b.2.toNat

/-! ### The scrambler of Clause 49: x^58 + x^39 + 1 over the payload -/

/-- `n` ≤ 39 bits with those 39 and 58 places earlier added; `st` holds the last 58 bits of the line, the newest lowest. -/
def scrambleBits (st d n : Nat) : Nat := d ^^^ field st (39 - n) n ^^^ field st (58 - n) n

/-- The register after `n` more bits of the line. -/
def scramblerNext (st x n : Nat) : Nat := (st * 2 ^ n + x) % 2 ^ 58

/-- A payload scrambled, and the register after it. -/
def laneScramble (st : Nat) (w : Word64) : Nat × Word64 :=
  let a := scrambleBits st (field w.toNat 25 39) 39
  let st' := scramblerNext st a 39
  let b := scrambleBits st' (field w.toNat 0 25) 25
  (scramblerNext st' b 25, BitVec.ofNat 64 (a * 2 ^ 25 + b))

/-- A payload descrambled, and the register after it. -/
def laneDescramble (st : Nat) (w : Word64) : Nat × Word64 :=
  let x := field w.toNat 25 39
  let y := field w.toNat 0 25
  let st' := scramblerNext st x 39
  (scramblerNext st' y 25, BitVec.ofNat 64 (scrambleBits st x 39 * 2 ^ 25 + scrambleBits st' y 25))

/-- Blocks with their payloads scrambled, or descrambled, in line order. -/
def through (f : Nat → Word64 → Nat × Word64) : Nat → List Coded → Nat × List Coded
  | st, [] => (st, [])
  | st, (c, w) :: rest =>
    let x := f st w
    let y := through f x.1 rest
    (y.1, (c, x.2) :: y.2)

/-! ### FEC (R74) -/

/-- The product of a polynomial with x + c, lowest coefficient first. -/
def polyTimesRoot (p : List Nat) (c : Nat) : List Nat := polyAdd (0 :: p) (p.map (gfMul c))

/-- The generator polynomial, with roots α^0 to α^7. -/
def rsGenerator : List Nat := (List.range 8).foldl (fun p j => polyTimesRoot p (gfAlpha j)) [1]

/-- One symbol through the division by the generator `g`; the register holds the remainder, highest coefficient first. -/
def rsStep (g r : List Nat) (c : Nat) : List Nat :=
  let f := c ^^^ r.headD 0
  ((r.drop 1 ++ [0]).zip (g.take 8).reverse).map fun (x : Nat × Nat) => x.1 ^^^ gfMul f x.2

/-- A codeword: 104 symbols and their 8 parity symbols. -/
def rsEncode (m : List Nat) : List Nat := m ++ m.foldl (rsStep rsGenerator) (List.replicate 8 0)

/-- Sixteen blocks transcoded to 65 bits each, as 104 symbols. -/
def codewordSymbols (bs : List Coded) : List Nat :=
  let v := bs.foldl (fun a b => a * 2 ^ 65 + ofBool b.1 * 2 ^ 64 + b.2.toNat) 0
  (List.range 104).map fun i => field v (10 * (103 - i)) 10

/-- Two codewords interleaved by symbol, even symbols from the first. -/
def interleave (a b : List Nat) : List Nat := (a.zip b).flatMap fun x => [x.1, x.2]

/-- The codewords of an interleave. -/
def codewordsOf (xs : List Nat) : List Nat × List Nat :=
  ((List.range 112).map fun i => xs.getD (2 * i) 0, (List.range 112).map fun i => xs.getD (2 * i + 1) 0)

/-- The 224 symbols of an interleave that carries 32 blocks. -/
def fecInterleave (bs : List Coded) : List Nat :=
  interleave (rsEncode (codewordSymbols (bs.take 16))) (rsEncode (codewordSymbols ((bs.drop 16).take 16)))

/-- Is an interleave clean: both codewords have a zero syndrome (R75). -/
def isClean (xs : List Nat) : Bool :=
  ((syndromes (codewordsOf xs).1).all (· == 0)) && (syndromes (codewordsOf xs).2).all (· == 0)

/-! ### Levels (R56) -/

/-- The PAM4 level of a pair of line bits, the first the more significant: 00→0, 01→1, 11→2, 10→3. -/
def pamLevel (pair : Nat) : Nat := match pair with | 0 => 0 | 1 => 1 | 3 => 2 | _ => 3

/-- The symbols on the line of `n` bits: pairs of bits as PAM4 levels at rate code 2, else the bits (Table 3.1). -/
def lineLevels (rate n v : Nat) : List Nat :=
  if rate = 2 then (List.range (n / 2)).map fun i => pamLevel (field v (n - 2 - 2 * i) 2)
  else (List.range n).map fun i => field v (n - 1 - i) 1

/-! ### Patterns (R76; Table 3.9) -/

/-- The two taps of a pattern. -/
def prbsTaps (poly : Nat) : Nat × Nat :=
  match poly % 128 with
  | 0 => (7, 6)
  | 1 => (9, 5)
  | 2 => (15, 14)
  | 3 => (23, 18)
  | _ => (31, 28)

/-- The next bit of a pattern after the bits in `hist`, the newest lowest. -/
def prbsNext (poly hist : Nat) : Bool := bit hist ((prbsTaps poly).1 - 1) != bit hist ((prbsTaps poly).2 - 1)

/-- The first `n` bits of a pattern after `hist`, as they are sent: bit 7 of the code inverts. -/
def prbsStream (poly : Nat) : Nat → Nat → List Bool
  | 0, _ => []
  | n + 1, hist =>
    let b := prbsNext poly hist
    (b != bit poly 7) :: prbsStream poly n ((2 * hist + ofBool b) % 2 ^ 31)

/-- One received bit at the checker: bits and errors it counts, and its state after it. It predicts from the bits received
until 64 in a row were right, and from its own pattern from then on (DESIGN CHOICE, notes/assumptions/109.md). -/
def Prbs.take (poly : Nat) (x : Prbs) (b : Bool) : Prbs × Nat × Nat :=
  let r := b != bit poly 7
  let want := prbsNext poly x.hist
  if x.locked then
    let seen := x.seen + 1
    let bad := (if r = want then x.bad else seen :: x.bad).filter fun k => decide (seen < k + 1024)
    let lost := decide (256 ≤ bad.length)
    ((if lost then Prbs.idle else { x with hist := (2 * x.hist + ofBool want) % 2 ^ 31, seen := seen, bad := bad }), 1,
      ofBool (r != want))
  else
    let run := if (prbsTaps poly).1 ≤ x.fill && r == want then x.run + 1 else 0
    ({ hist := (2 * x.hist + ofBool r) % 2 ^ 31, fill := x.fill + 1, run := run, locked := decide (64 ≤ run), seen := 0, bad := [] }, 0, 0)

/-- Received bits at the checker. -/
def Prbs.takeAll (poly : Nat) : List Bool → Prbs × Nat × Nat → Prbs × Nat × Nat
  | [], x => x
  | b :: bs, x =>
    let y := Prbs.take poly x.1 b
    Prbs.takeAll poly bs (y.1, x.2.1 + y.2.1, x.2.2 + y.2.2)

/-! ### Block lock (R56, Clause 49) -/

/-- A valid sync header: 01 or 10. -/
def syncOk (x : BitVec 2) : Bool := x == 1#2 || x == 2#2

/-- 64 valid sync headers in a row gain block lock. -/
def gainsBlockLock (hs : List (BitVec 2)) : Bool := decide (64 ≤ hs.length) && (hs.drop (hs.length - 64)).all syncOk

/-- 16 invalid sync headers within 64 lose it. -/
def losesBlockLock (hs : List (BitVec 2)) : Bool := decide (16 ≤ ((hs.take 64).filter fun x => !syncOk x).length)

/-! ### Transmit lanes -/

def State.xlane (s : State) (x : Nat) : XLane := tabGet XLane.idle s.xlanes x
def State.setXlane (s : State) (x : Nat) (v : XLane) : State := { s with xlanes := tabSet s.xlanes x v }

/-- What an enabled transmit lane carries between its frames, by the engine's state (R76, R334; Table 15.2). -/
inductive LaneOut where
  | dark
  | idleHeld
  | frames
  | pattern (first : List Bool)
  deriving DecidableEq, Repr

/-- What a transmit lane sends: a disabled lane is dark, a lane of role PRBS sends its pattern, and the others bundles or
tokens while those flow, IDLE_HELD while the outputs are quiet (R56, R76, R334). -/
def laneSends (s : State) (x : Nat) : LaneOut :=
  let role := s.reg Reg.xlaneRole x
  if s.mode = .off ∨ s.mode = .boot ∨ !s.flag Reg.xlaneEnable x then .dark
  else if role = 2 then .pattern (prbsStream (s.reg Reg.xlanePrbsPoly x) 64 (2 ^ 31 - 1))
  else if s.mode = .running ∨ s.mode = .stopped ∨ (role = 1 ∧ s.mode = .armed) then .frames
  else .idleHeld

/-- Interleaves of 32 blocks, and the blocks that are left for the next. `fuel` bounds their number. -/
def fecBlocks : Nat → List Coded → List (List Nat) × List Coded
  | 0, bs => ([], bs)
  | fuel + 1, bs =>
    if bs.length < 32 then ([], bs)
    else
      let y := fecBlocks fuel (bs.drop 32)
      (fecInterleave (bs.take 32) :: y.1, y.2)

/-- Bits before the serializer, with the first of them flipped by a pending error (R77), as levels on the line. -/
def serialize (s : State) (x n v : Nat) : State :=
  if n = 0 then s
  else
    let y := s.xlane x
    let flip := (2 ^ y.inject - 1) * 2 ^ (n - y.inject)
    (s.setXlane x { y with inject := 0 }).emit (.line x (lineLevels (s.reg Reg.xlaneRate x) n (v ^^^ flip)))

/-- Blocks leave on a transmit lane: scrambled, through the FEC where the lane has it, and onto the line (R56, R74). -/
def transmit (s : State) (x : Nat) (bs : List Coded) : State :=
  if !s.flag Reg.xlaneEnable x then s
  else
    let y := s.xlane x
    let z := through laneScramble y.scrambler bs
    if s.flag Reg.xlaneFec x then
      let w := fecBlocks (y.part.length + z.2.length) (y.part ++ z.2)
      let xs := w.1.flatMap id
      serialize (s.setXlane x { y with scrambler := z.1, part := w.2 }) x (10 * xs.length) (xs.foldl (fun a c => a * 1024 + c) 0)
    else
      serialize (s.setXlane x { y with scrambler := z.1 }) x (66 * z.2.length) (z.2.foldl (fun a b => a * 2 ^ 66 + blockBits b) 0)

end Sys2Proof.Machine
end

