-- ==== Sys2Proof/Machine/Operands.lean ====
section
/-! DEFINITION. The operands of an instruction word: its fields, the registers they name, what REP steps, and the static
rules of R130 (Tables 6.2 and 6.4, 8.6; R129 to R132, R142, R152). -/

namespace Sys2Proof.Machine

/-- An instruction word with its opcode (Table 6.2). -/
def encodeWord (op : Nat) (f : AnvilFields) : Word64 :=
  BitVec.ofNat 6 op ++ BitVec.ofBool f.pn ++ f.ps ++ f.rm ++ f.fmt ++ f.d ++ f.a ++ f.b ++ f.x

/-- The opcode of a word. -/
def wordOp (w : Word64) : Nat := (w.extractLsb' 58 6).toNat

/-- The fields of a word (Table 6.2). -/
def wordFields (w : Word64) : AnvilFields :=
  { pn := w.getLsbD 57, ps := w.extractLsb' 54 3, rm := w.extractLsb' 52 2, fmt := w.extractLsb' 44 8,
    d := w.extractLsb' 40 4, a := w.extractLsb' 36 4, b := w.extractLsb' 32 4, x := w.extractLsb' 0 32 }

/-- Field X[lo + n - 1 : lo]. -/
def xf (f : AnvilFields) (lo n : Nat) : Nat := field f.x.toNat lo n

/-- The format that FMT names, none for a descriptor R114 refuses. -/
def fmtOf (f : AnvilFields) : Option Fmt := Fmt.ofDesc f.fmt.toNat

/-- The source format of VCVT, LUT and LUTI. -/
def srcOf (f : AnvilFields) : Option Fmt := Fmt.ofDesc (xf f 0 8)

/-- What a register field names. -/
inductive FieldKind where
  | none | reg | acc | pred | ar
  deriving DecidableEq, Repr

/-- The shape of an opcode (Table 6.4): slots, whether it can be predicated, and what D, A and B name. -/
structure Shape where
  slots : Nat
  pred : Bool
  d : FieldKind
  a : FieldKind
  b : FieldKind
  deriving DecidableEq, Repr

/-- Is the format an FP8 format. -/
def isFp8 (f : AnvilFields) : Bool := f.fmt.toNat / 16 = 7 || f.fmt.toNat / 16 = 8

/-- Table 6.4 and Table 8.6, by opcode. -/
def shapeOf (op : Nat) (f : AnvilFields) : Option Shape :=
  match op with
  | 0x00 => some ⟨xf f 0 7 + 1, false, .none, .none, .none⟩
  | 0x01 => some ⟨1, false, .none, .none, .none⟩
  | 0x02 => some ⟨1, true, .pred, .pred, .pred⟩
  | 0x03 => some ⟨1, true, .pred, .none, .none⟩
  | 0x04 => some ⟨1, true, .none, .none, .none⟩
  | 0x08 => some ⟨1, false, .reg, .none, .none⟩
  | 0x09 => some ⟨1, false, .none, .reg, .none⟩
  | 0x10 => some ⟨1, true, .reg, .none, .none⟩
  | 0x11 => some ⟨1, true, .reg, .none, .none⟩
  | 0x12 => some ⟨1, true, .none, .reg, .none⟩
  | 0x13 => some ⟨1, false, .none, .reg, .none⟩
  | 0x14 => some ⟨1, true, .reg, .none, .none⟩
  | 0x18 => some ⟨1, true, .acc, .none, .none⟩
  | 0x19 => some ⟨if isFp8 f then 2 else 1, true, .acc, .reg, if f.x.getLsbD 11 then .reg else .none⟩
  | 0x1A => some ⟨1, true, .reg, .acc, .none⟩
  | 0x1B => some ⟨2, true, .reg, .acc, .none⟩
  | 0x20 => some ⟨1, true, .reg, .reg, .reg⟩
  | 0x21 => some ⟨1, true, .reg, .reg, .reg⟩
  | 0x22 => some ⟨1, true, .reg, .reg, .reg⟩
  | 0x23 => some ⟨1, true, .reg, .reg, .reg⟩
  | 0x24 => some ⟨1, true, .reg, .reg, .reg⟩
  | 0x25 => some ⟨1, true, .reg, .reg, .reg⟩
  | 0x26 => some ⟨1, true, .reg, .reg, .none⟩
  | 0x27 => some ⟨1, true, .reg, .reg, .none⟩
  | 0x28 => some ⟨1, true, .reg, if f.x.getLsbD 16 then .none else .reg, .none⟩
  | 0x29 => some ⟨1, true, .reg, .reg, .reg⟩
  | 0x2C => some ⟨2, true, .reg, .reg, .none⟩
  | 0x2D => some ⟨4, true, .reg, .reg, .none⟩
  | 0x30 => some ⟨1, true, .reg, .reg, .reg⟩
  | 0x31 => some ⟨1, true, .reg, .reg, .none⟩
  | 0x32 => some ⟨1, true, .reg, .reg, .reg⟩
  | 0x33 => some ⟨1, true, .reg, .reg, .reg⟩
  | 0x34 => some ⟨1, true, .reg, .reg, .none⟩
  | 0x38 => some ⟨1, false, .reg, .ar, .none⟩
  | 0x39 => some ⟨1, false, .none, .reg, .ar⟩
  | 0x3A => some ⟨1, false, .none, .reg, .ar⟩
  | 0x3B => some ⟨1, false, .ar, .none, .none⟩
  | 0x3C => some ⟨1, true, .none, .none, .none⟩
  | 0x3D => some ⟨1, false, .none, .none, .none⟩
  | _ => none

/-- A register field stepped by REP: modulo 16 for registers, 4 for accumulators, 8 for predicates (R152). -/
def stepField (k : FieldKind) (v : BitVec 4) (by' : Nat) : BitVec 4 :=
  match k with
  | .none => v
  | .reg => BitVec.ofNat 4 ((v.toNat + by') % 16)
  | .acc => BitVec.ofNat 4 ((v.toNat + by') % 4)
  | .pred => BitVec.ofNat 4 ((v.toNat + by') % 8)
  | .ar => BitVec.ofNat 4 ((v.toNat + by') % 8)

/-- The register fields of repetition `t` (R152). -/
def stepFields (sh : Shape) (r : Repeat) (t : Nat) (f : AnvilFields) : AnvilFields :=
  { f with d := stepField sh.d f.d (t * r.sd), a := stepField sh.a f.a (t * r.sa), b := stepField sh.b f.b (t * r.sb) }

/-- How far the word address of repetition `t` lies above the one in X (R152). -/
def stepOffset (r : Option Repeat) (t : Nat) : Nat :=
  match r with
  | some r => t * r.sm
  | none => 0

/-- Opcodes that may round and accept RM = 1 (R130). -/
def mayRound (op : Nat) : Bool :=
  [0x20, 0x21, 0x22, 0x23, 0x24, 0x25, 0x26, 0x27, 0x19, 0x1A, 0x1B, 0x2D, 0x34].contains op

/-- Opcodes that take FMT (Table 6.4; REDA of Table 8.6). -/
def takesFmt (op : Nat) : Bool :=
  [0x19, 0x1A, 0x1B, 0x20, 0x21, 0x22, 0x23, 0x24, 0x25, 0x26, 0x27, 0x28, 0x29, 0x2C, 0x2D, 0x30, 0x31, 0x32, 0x33,
   0x34, 0x3A].contains op

/-- The bits of X that an instruction uses (Table 6.4, Table 8.6). DESIGN CHOICE (notes/assumptions/101.md): VBC in immediate
mode uses the immediate's bits up to its format's width and no field A. -/
def xMask (op : Nat) (f : AnvilFields) : Nat :=
  match op with
  | 0x00 => 0x7F
  | 0x01 => 0xFFFFF
  | 0x02 => 0xF
  | 0x03 => 0xFFFFFF1F
  | 0x08 => 0x3
  | 0x09 => 0xFF
  | 0x10 => 0x7FF
  | 0x11 => 0x3FF
  | 0x12 => 0x3FF
  | 0x13 => 0xFF
  | 0x14 => 0xFFFFFF
  | 0x18 => 0x107FF
  | 0x19 => if f.x.getLsbD 11 then 0x800 else 0xFFF
  | 0x1A => 0xF1F
  | 0x1B => 0xFF1F
  | 0x26 => 0x3F
  | 0x27 => 0x3FFF
  | 0x28 => if f.x.getLsbD 16 then
      0x10000 + (match fmtOf f with
        | some .uint1 => 3
        | some g => 2 ^ min 16 g.width - 1
        | none => 0xFFFF)
    else 0x7F
  | 0x29 => 0xFF
  | 0x2C => 0x1FFFFFF
  | 0x2D => 0x1FFFFFF
  | 0x30 => 0xF7
  | 0x31 => 0x70
  | 0x32 => 0xF
  | 0x33 => 0x3
  | 0x34 => 0xFF
  | 0x38 => 0x1FFFFFF
  | 0x39 => 0x1FFFFFF
  | 0x3A => 0x2FFFFFF
  | 0x3B => 0xFFFFFFFF
  | 0x3C => 0x3FFF
  | _ => 0

/-- Does a register field hold only what its kind allows, and 0 where the instruction does not use it (R129, R130). -/
def fieldOk (k : FieldKind) (v : BitVec 4) : Bool :=
  match k with
  | .none => v == 0#4
  | .reg => true
  | .acc => decide (v.toNat < 4)
  | .pred => decide (v.toNat < 8)
  | .ar => decide (v.toNat < 8)

/-- Groups of VCVT, LUT and LUTI lie in range (R142, R143). -/
def groupsOk (src dst : Fmt) (gs gd : Nat) : Bool :=
  let c := min src.count dst.count
  decide (gs < src.count / c) && decide (gd < dst.count / c)

/-- Formats that DOT takes (R140). -/
def dotFmt : Fmt → Bool
  | .uint1 => false
  | .int32 => false
  | _ => true

/-- The per-instruction static rules of R130 that need no declaration of the image. -/
def staticOk (op : Nat) (f : AnvilFields) : Bool :=
  match shapeOf op f with
  | none => false
  | some sh =>
    let fmt := fmtOf f
    fieldOk sh.d f.d && fieldOk sh.a f.a && fieldOk sh.b f.b
    && (f.rm == 0#2 || f.rm == 1#2 && mayRound op)
    && !(f.ps == 0#3 && f.pn) && (sh.pred || f.ps == 0#3 && !f.pn)
    && (f.x.toNat &&& (0xFFFFFFFF - xMask op f)) == 0
    && (if takesFmt op then (op = 0x3A || fmt.isSome) else f.fmt == 0#8)
    && (match op, fmt with
      | 0x01, _ => decide (2 ≤ xf f 0 10) && decide (xf f 0 10 ≤ 512)
      | 0x02, _ => decide (xf f 0 3 < 5) && f.d != 0#4
      | 0x03, _ => decide (xf f 0 4 < 9)
      | 0x19, some g => dotFmt g && f.a.toNat % 2 == 0 && (!f.x.getLsbD 11 || f.b.toNat % 2 == 0)
      | 0x1A, some g => decide (xf f 9 3 < (if g.count = 8 then 2 else g.count / 16))
      | 0x1B, some g => decide (xf f 9 7 < g.count)
      | 0x34, some g => decide (xf f 0 7 < g.count)
      | 0x27, some g => match srcOf f with
          | some src => groupsOk src g (xf f 8 3) (xf f 11 3)
          | none => false
      | 0x28, some g => f.x.getLsbD 16 || decide (xf f 0 7 < g.count)
      | 0x29, some g => decide (xf f 0 8 ≤ g.count)
      | 0x2C, some g => match srcOf f with
          | some src => src.width != 32 && src != .uint1 && groupsOk src g (xf f 19 3) (xf f 22 3)
          | none => false
      | 0x2D, some g => match srcOf f with
          | some src => src.width != 32 && src != .uint1 && groupsOk src g (xf f 19 3) (xf f 22 3)
          | none => false
      | 0x30, _ => decide (xf f 0 3 < 6)
      | 0x33, some g => g == .uint1
      | _, some g => !(0x20 ≤ op && op ≤ 0x26 && g == .uint1)
      | _, none => true)

/-- The constant words that LDC, ACCI and DOT name in X[10:0]: one, or a pair. -/
def constWords (op : Nat) (f : AnvilFields) : Nat :=
  match op with
  | 0x10 => 1
  | 0x18 => 2
  | 0x19 => if f.x.getLsbD 11 then 0 else 2
  | _ => 0

/-- A pair of constant words starts at an even one, `off` words above the one in X (Table 6.4). -/
def constEven (op : Nat) (f : AnvilFields) (off : Nat) : Bool := constWords op f != 2 || (xf f 0 11 + off) % 2 == 0

/-- The constant words lie in a tile's constant region (R138). -/
def constFits (op : Nat) (f : AnvilFields) (off : Nat) : Bool :=
  constWords op f == 0 || decide (xf f 0 11 + off + constWords op f ≤ 1536)

/-- The fields that a REP gives each repetition of a word, with the offset of its word address; without a REP the word's own
fields (R152). -/
def repetitions (rep : Option Word64) (w : Word64) : List (AnvilFields × Nat) :=
  let f := wordFields w
  match rep, shapeOf (wordOp w) f with
  | some r, some sh =>
    let g := wordFields r
    let x : Repeat := { n := xf g 0 10, sd := xf g 10 2, sa := xf g 12 2, sb := xf g 14 2, sm := xf g 16 4, lost := false }
    (List.range x.n).map fun t => (stepFields sh x t f, stepOffset (some x) t)
  | _, _ => [(f, 0)]

/-- A word, where it is a REP. -/
def asRep (w : Word64) : Option Word64 := if wordOp w = 1 then some w else none

/-- Each word of a program with the REP before it, where there is one. -/
def withReps (ws : List Word64) : List (Word64 × Option Word64) := ws.zip (none :: ws.map asRep)

/-- A program does not end with REP (R152). -/
def repLast (ws : List Word64) : Bool := (ws.getLast?.bind asRep).isSome

/-- The static rules of R130 and R152 that hold on tiles and on tempers alike: of a word, and of every repetition that the
REP before it makes, which is no REP and no RECV. -/
def wordOk (rep : Option Word64) (w : Word64) : Bool :=
  let op := wordOp w
  staticOk op (wordFields w) && (rep.isNone || (op != 1 && op != 0x08))
    && (repetitions rep w).all fun x => staticOk op x.1 && constEven op x.1 x.2

/-- The predicate of an instruction reads 1 (R132). -/
def predOn (rf : Regfile) (f : AnvilFields) : Bool := (listGet true rf.p f.ps.toNat) != f.pn

/-- Vector register `k`. -/
def vReg (rf : Regfile) (k : Nat) : Word256 := listGet 0#256 rf.v (k % 16)

/-- Writes a vector register. -/
def setV (rf : Regfile) (k : Nat) (w : Word256) : Regfile := { rf with v := listSet rf.v (k % 16) w }

/-- The pair Vk, Vk+1 as 512 bits, Vk low (R129). -/
def vPair (rf : Regfile) (k : Nat) : Nat := (vReg rf k).toNat + 2 ^ 256 * (vReg rf (k + 1)).toNat

/-- Accumulator `k`: its 16 lanes. -/
def accReg (rf : Regfile) (k : Nat) : List (BitVec 32) := listGet [] rf.acc (k % 4)

/-- Writes an accumulator and remembers the kind it was written as: 0 cleared or loaded, 1 INT32, 2 FP32. -/
def setAcc (rf : Regfile) (k : Nat) (lanes : List (BitVec 32)) (kind : Nat) : Regfile :=
  { rf with acc := listSet rf.acc (k % 4) lanes, kinds := listSet rf.kinds (k % 4) kind }

/-- Predicate `k`. -/
def pReg (rf : Regfile) (k : Nat) : Bool := listGet true rf.p (k % 8)

/-- Writes a predicate; P0 always reads 1, and writes to it are ignored (R127). -/
def setP (rf : Regfile) (k : Nat) (v : Bool) : Regfile := if k % 8 = 0 then rf else { rf with p := listSet rf.p (k % 8) v }

end Sys2Proof.Machine
end

