-- ==== Sys2Proof/Machine/Flags.lean ====
section
/-! DEFINITION. The five flags of a token and of a tile instance, and the tag (Table 4.3, R88, R90, R128, R147, R148,
R151). `fl` holds tag[9:5]: PRIMING, DEGRADED, EDGE, OVERFULL, REPLAY from bit 4 down to bit 0. -/

namespace Sys2Proof.Machine

/-- DEGRADED as bit 3 of the flags. -/
def flDegraded : BitVec 5 := 0b01000#5

/-- EDGE as bit 2 of the flags. -/
def flEdge : BitVec 5 := 0b00100#5

/-- The flags of a tag. -/
def tagFlags (t : Tag) : BitVec 5 := t.extractLsb' 5 5

/-- The beat field of a tag. -/
def tagBeat (t : Tag) : BitVec 16 := t.extractLsb' 16 16

/-- The forging of a tag. -/
def tagForging (t : Tag) : Nat := (t.extractLsb' 12 4).toNat

/-- The plane bit of a tag. -/
def tagPlane (t : Tag) : Bool := t.getLsbD 11

/-- VALID. -/
def tagValid (t : Tag) : Bool := t.getLsbD 10

/-- LAST. -/
def tagLast (t : Tag) : Bool := t.getLsbD 4

/-- The sequence within the beat. -/
def tagSeq (t : Tag) : BitVec 4 := t.extractLsb' 0 4

/-- A tag from its fields (Table 4.3). -/
def makeTag (beat : BitVec 16) (forging : Nat) (plane valid : Bool) (flags : BitVec 5) (last : Bool) (seq : BitVec 4) : Tag :=
  beat ++ BitVec.ofNat 4 forging ++ BitVec.ofBool plane ++ BitVec.ofBool valid ++ flags ++ BitVec.ofBool last ++ seq

/-- ORs flags into FL (R147, Table 17.1). -/
def orFlags (rf : Regfile) (g : BitVec 5) : Regfile := { rf with fl := rf.fl ||| g }

/-- The full beat number nearest to beat `c` whose low 16 bits a tag holds (R79, R150). -/
def rebuildBeat (c : Beat) (low : BitVec 16) : Beat :=
  c + (low - c.extractLsb' 0 16).signExtend 48

/-- The tag of a sent token (R148): beat, forging and plane of IT, VALID 1, FL, and LAST and sequence of IT with COPY. -/
def sentTag (it : Tag) (fl : BitVec 5) (copy last : Bool) (seq : BitVec 4) : Tag :=
  makeTag (tagBeat it) (tagForging it) (tagPlane it) true fl (if copy then tagLast it else last)
    (if copy then tagSeq it else seq)

/-- Whether two tags name the same beat, forging and plane (R147). -/
def sameTrigger (a b : Tag) : Bool := tagBeat a == tagBeat b && tagForging a == tagForging b && tagPlane a == tagPlane b

/-- The result of the tag test `k` of TTEST before X[4] (R151). -/
def tagTest (it : Tag) (fl : BitVec 5) (k : Nat) (seq : BitVec 4) (m value : Nat) : Bool :=
  match k with
  | 0 => tagPlane it
  | 1 => fl.getLsbD 4
  | 2 => fl.getLsbD 3
  | 3 => fl.getLsbD 2
  | 4 => fl.getLsbD 1
  | 5 => fl.getLsbD 0
  | 6 => tagLast it
  | 7 => tagSeq it == seq
  | 8 => (tagBeat it).toNat % 2 ^ m == value % 2 ^ m
  | _ => false

/-- The predicate logic of PSET (R151). -/
def predLogic (op : Nat) (const a b : Bool) : Bool :=
  match op with
  | 0 => const
  | 1 => a && b
  | 2 => a || b
  | 3 => a != b
  | _ => a && !b

/-- The condition of CMP on the sign of a comparison (R144). -/
def condHolds (c : Nat) (d : Int) : Bool :=
  match c with
  | 0 => d == 0
  | 1 => d != 0
  | 2 => decide (d < 0)
  | 3 => decide (d ≤ 0)
  | 4 => decide (0 < d)
  | _ => decide (0 ≤ d)

end Sys2Proof.Machine
end

