-- ==== Sys2Proof/Machine/Vector.lean ====
section
/-! DEFINITION. What the vector instructions compute on whole words, with the number of elements that clamped
(R135 to R146). `rnd e` is the rounding mode with the draw of element e (R123, R136). -/

namespace Sys2Proof.Machine

/-- A word and the number of clamps counted while it was formed (R120, R153). -/
structure WordOut where
  word : Nat
  clamps : Nat
  deriving DecidableEq, Repr

/-- Packs rounded elements (R115). -/
def packRounded (f : Fmt) (rs : List Rounded) : WordOut :=
  { word := packElems f (rs.map Rounded.code), clamps := (rs.filter Rounded.clamped).length }

/-- Element `j` of a word as a number. -/
def elemNum (f : Fmt) (w j : Nat) : Num := decodeNum f (getElem f w j)

/-- Element-wise operation of three sources, rounded into the format (R139). -/
def mapElems (f : Fmt) (rnd : Nat → Rnd) (g : Num → Num → Num → Num) (a b d : Nat) : WordOut :=
  packRounded f ((List.range f.count).map fun j => roundInto f (rnd j) (g (elemNum f a j) (elemNum f b j) (elemNum f d j)))

/-- The larger of two values; +0 counts as larger than −0 (R139). -/
def Num.max (x y : Num) : Num :=
  match x, y with
  | .invalid, _ => .invalid
  | _, .invalid => .invalid
  | x, y =>
    let c := x.cmp y
    if c > 0 then x else if c < 0 then y else if x.isNegZero then y else x

/-- The smaller of two values; −0 counts as smaller than +0 (R139). -/
def Num.min (x y : Num) : Num :=
  match x, y with
  | .invalid, _ => .invalid
  | _, .invalid => .invalid
  | x, y =>
    let c := x.cmp y
    if c < 0 then x else if c > 0 then y else if x.isNegZero then x else y

/-- The word with elements from `at'` on replaced by rounded codes. -/
def putRounded (f : Fmt) (w at' : Nat) (rs : List Rounded) : WordOut :=
  { word := (rs.zipIdx.foldl (fun (w : Nat) (x : Rounded × Nat) => putElem f w (at' + x.2) x.1.code) w)
    clamps := (rs.filter Rounded.clamped).length }

/-- The accumulator formats: INT32 and FP32 (R140). -/
def accFmt (fp : Bool) : Fmt := if fp then .fp32 else .int32

/-- DOT sums in FP32 for float formats, and in INT32 for the others (R140). -/
def dotIsFp (f : Fmt) : Bool := f.isFloat

/-- A DOT input: the value, but the raw integer of FX16 (R140). -/
def dotNum (f : Fmt) (c : Nat) : Num :=
  match f with
  | .fx16 _ => decodeNum .int16 c
  | f => decodeNum f c

/-- Element `j` of a 512-bit operand. -/
def pairElem (f : Fmt) (w j : Nat) : Nat :=
  if j < f.count then getElem f (w % 2 ^ 256) j else getElem f (w / 2 ^ 256) (j - f.count)

/-- One lane of a DOT: products of elements [g·k, g·k + g − 1] added to the lane, rounded once (R140). -/
def dotLane (f : Fmt) (rnd : Nat → Rnd) (a b : Nat) (k : Nat) (lane : BitVec 32) : Rounded :=
  let g := f.count / 8
  let kf := accFmt (dotIsFp f)
  let prods := (List.range g).map fun i => (dotNum f (pairElem f a (g * k + i))).mul (dotNum f (pairElem f b (g * k + i)))
  roundInto kf (rnd k) (prods.foldl Num.add (decodeNum kf lane.toNat))

/-- DOT over the 16 lanes: the new lanes and the clamps (R140). -/
def dotLanes (f : Fmt) (rnd : Nat → Rnd) (a b : Nat) (lanes : List (BitVec 32)) : List (BitVec 32) × Nat :=
  let rs := lanes.zipIdx.map fun x => dotLane f rnd a b x.2 x.1
  (rs.map fun r => BitVec.ofNat 32 r.code, (rs.filter Rounded.clamped).length)

/-- ACCOUT: lanes × 2^−s converted into elements of D (R141). -/
def accOut (f : Fmt) (fp : Bool) (rnd : Nat → Rnd) (s g : Nat) (lanes : List (BitVec 32)) (d : Nat) : WordOut :=
  let conv (e : Nat) (l : BitVec 32) : Rounded := roundInto f (rnd e) ((decodeNum (accFmt fp) l.toNat).scale (-(s : Int)))
  if f.count = 8 then putRounded f d 0 (((lanes.drop (8 * g)).take 8).zipIdx.map fun x => conv x.2 x.1)
  else putRounded f d (16 * g) (lanes.zipIdx.map fun x => conv (16 * g + x.2) x.1)

/-- ACCRED: the sum of the lanes × 2^−s converted into one element of D (R141). -/
def accRed (f : Fmt) (fp : Bool) (rnd : Nat → Rnd) (s e : Nat) (lanes : List (BitVec 32)) (d : Nat) : WordOut :=
  match lanes.map fun l => decodeNum (accFmt fp) l.toNat with
  | [] => { word := d, clamps := 0 }
  | x :: xs => putRounded f d e [roundInto f (rnd e) ((xs.foldl Num.add x).scale (-(s : Int)))]

/-- VCVT: a group of elements of A converted into a group of D (R142). -/
def vConvert (src f : Fmt) (rnd : Nat → Rnd) (gs gd a d : Nat) : WordOut :=
  let c := min src.count f.count
  putRounded f d (c * gd) ((List.range c).map fun i => convert src f (rnd (c * gd + i)) (getElem src a (c * gs + i)))

/-- The element code of a VBC immediate; an invalid one is the exact invalid code (R142). -/
def immCode (f : Fmt) (x : Nat) : Nat :=
  let c := match f with
    | .uint1 => x % 4
    | .int32 => toCode 32 (signed 16 x)
    | .fp32 => (x % 2 ^ 16) * 2 ^ 16
    | f => x % 2 ^ f.width
  if isInvalid f c then f.invalid else c

/-- Every element the same code. -/
def broadcast (f : Fmt) (c : Nat) : Nat := packElems f (List.replicate f.count c)

/-- VSLIDE: elements j + t of A:B, A first (R142). -/
def vSlide (f : Fmt) (t a b : Nat) : Nat :=
  packElems f ((List.range f.count).map fun j =>
    if j + t < f.count then getElem f a (j + t) else getElem f b (j + t - f.count))

/-- The index and the fraction t/256 of a lookup (R143). -/
def lutIndex (src : Fmt) (c : Nat) : Nat × Nat :=
  match src with
  | .uint12 => (field c 4 8, 16 * (c % 16))
  | src => if src.width = 16 then (field c 8 8, c % 256) else (c, 0)

/-- LUT: table entries by index, read as R117 and R125 say; an invalid source element gives the invalid code (R143). -/
def vLut (src f : Fmt) (table : Nat → Nat) (gs gd a d : Nat) : WordOut :=
  let c := min src.count f.count
  putRounded f d (c * gd) ((List.range c).map fun i =>
    let x := getElem src a (c * gs + i)
    if isInvalid src x then ⟨f.invalid, false⟩ else ⟨cleanCode f (table (lutIndex src x).1), false⟩)

/-- LUTI: e[i] + (e[i+1] − e[i]) × t / 256, rounded into FMT; sources that do not interpolate give e[i] (R143). -/
def vLuti (src f : Fmt) (rnd : Nat → Rnd) (table : Nat → Nat) (gs gd a d : Nat) : WordOut :=
  let c := min src.count f.count
  putRounded f d (c * gd) ((List.range c).map fun i =>
    let x := getElem src a (c * gs + i)
    if isInvalid src x then ⟨f.invalid, false⟩
    else
      let k := lutIndex src x
      let e0 := decodeNum f (table k.1)
      let y := if src.width = 16 then
          e0.add (((decodeNum f (table (k.1 + 1))).add e0.neg).mul (.fin false k.2 (-8)))
        else e0
      roundInto f (rnd (c * gd + i)) y)

/-- The mask of CMP: elements below n compared, elements above 0 (R144). -/
def cmpMask (f : Fmt) (cond a b : Nat) : List Nat :=
  (List.range 128).map fun j =>
    if j < f.count then
      match elemNum f a j, elemNum f b j with
      | .invalid, _ => 2
      | _, .invalid => 2
      | x, y => ofBool (condHolds cond (x.cmp y))
    else 0

/-- The predicate that CMP and TESTV write: ANY or ALL over the n(FMT) elements (R144). -/
def maskPred (all : Bool) (n : Nat) (mask : List Nat) : Bool :=
  if all then (mask.take n).all (· == 1) else (mask.take n).any (· == 1)

/-- The mask of TESTV (R144). -/
def testMask (f : Fmt) (a : Nat) : List Nat :=
  (List.range 128).map fun j => if j < f.count then ofBool (isInvalid f (getElem f a j)) else 0

/-- SEL: a[j], b[j] or the invalid code by the mask element (R144). -/
def vSelect (f : Fmt) (mask a b : Nat) : Nat :=
  packElems f ((List.range f.count).map fun j =>
    match getElem .uint1 mask j with
    | 0 => getElem f b j
    | 1 => getElem f a j
    | _ => f.invalid)

/-- MLOG: element-wise logic of two masks; an invalid element gives an invalid element (R145). -/
def maskLogic (op a b : Nat) : Nat :=
  packElems .uint1 ((List.range 128).map fun j =>
    let x := getElem .uint1 a j
    let y := getElem .uint1 b j
    if x ≥ 2 ∨ y ≥ 2 then 2
    else
      match op with
      | 0 => x * y
      | 1 => max x y
      | 2 => (x + y) % 2
      | _ => x * (1 - y))

/-- POPC: how many mask elements are valid and 1; invalid when one is invalid, unless IGN (R145). -/
def popCount (ign : Bool) (mask : Nat) : Num :=
  let cs := (List.range 128).map (getElem .uint1 mask)
  if !ign && cs.any (· ≥ 2) then .invalid else .fin false (cs.filter (· == 1)).length 0

/-- The AES block of a tile's draw (Table 16.5). -/
def tileBlock (beat : Beat) (forging drawId ordinal slot group : Nat) : BitVec 128 :=
  0#3 ++ beat ++ BitVec.ofNat 4 forging ++ 0#1 ++ BitVec.ofNat 20 drawId ++ BitVec.ofNat 8 ordinal
    ++ BitVec.ofNat 13 slot ++ BitVec.ofNat 4 group ++ 0#27

/-- The AES block of a temper's draw (Table 16.5). -/
def temperBlock (tag seed harbour temper executed group : Nat) : BitVec 128 :=
  1#3 ++ BitVec.ofNat 16 tag ++ BitVec.ofNat 8 seed ++ BitVec.ofNat 4 harbour ++ 0#20 ++ BitVec.ofNat 1 temper ++ 0#3
    ++ BitVec.ofNat 40 executed ++ BitVec.ofNat 4 group ++ 0#29

/-- AES-128 of a block, its input byte 0 from the block's highest bits (R359). -/
def aesBlock (key : List Byte) (b : BitVec 128) : Nat := beNat (aes128 key (beBytes 16 b.toNat))

/-- The draw of element `e`: field [16j + 15 : 16j], j = e mod 8, of the output for group ⌊e/8⌋ (R360). -/
def drawOf (key : List Byte) (block : Nat → BitVec 128) (e : Nat) : Nat :=
  field (aesBlock key (block (e / 8))) (16 * (e % 8)) 16

/-- The rounding of each element: RNE, or SR with its draw (R122, R123). -/
def rounding (rm : BitVec 2) (draw : Nat → Nat) (e : Nat) : Rnd := if rm = 1#2 then .sr (draw e) else .rne

/-- The seed of a forging whose plane was loaded from the image with this hash (Table 16.4). -/
def forgingSeed (runSeed : List Byte) (forging : Nat) (hash : List Byte) : List Byte :=
  aes128 (slice runSeed 0 16)
    (beBytes 1 0xF0 ++ beBytes 3 (forging * 2 ^ 20) ++ slice hash 0 12)

/-- The temper rounding seed with index k (Table 16.4). -/
def temperSeed (runSeed : List Byte) (k : Nat) : List Byte :=
  aes128 (slice runSeed 0 16) (beBytes 1 0xF1 ++ beBytes 3 (k * 2 ^ 16) ++ zeros 12)

end Sys2Proof.Machine
end

