-- ==== Sys2Proof/Machine/Fabric.lean ====
section
/-! DEFINITION. How a token crosses the fabric: path elements, delay registers, quench inputs and transmit ferries
(Table 4.2; R78, R86, R87, R95, R105, R111). -/

namespace Sys2Proof.Machine

/-- The key of a tile port in a plane's delay settings. -/
def portKey (t : TileId) (p : Port) : Nat := tileKey t * 4 + portIdx p

/-- The remap byte of a row on an island that a forging's plane crosses, as its last load or sounding found it (R112). -/
def crossByte (s : State) (f : Nat) (q : Bool) (i r : Nat) : Nat := leAt (tabGet (s.remap i q) (s.plane f q).tables i) r 1

/-- The delay of a path element on a forging's plane (Table 4.2), with the bypass registers that the remap gives (R111). A
token takes a pass-through in the cycle after it left its input port's delay register, whose setting is `pad` (R86). -/
def elDelay (pad : TileId → Port → Nat) (s : State) (f : Nat) (q : Bool) : PathEl → Nat
  | .pass t i _ => pad t i + 1
  | .step i r c =>
    let b := crossByte s f q i r
    if bit b 7 && b % 32 == c + 1 then 1 else 0
  | .east i r => if bit (crossByte s f q i r) 7 then 0 else 1
  | .west i r =>
    let b := crossByte s f q i r
    if bit b 7 && b % 32 == 0 then 1 else 0
  | .strait _ _ _ => 2
  | .inward _ _ _ => 2
  | .outward _ _ _ => 2
  | .crossbar _ => 6
  | .ring hs => 3 * hs.length

/-- The setting of a tile input port's delay register on a forging's plane (R95). -/
def portPad (s : State) (f : Nat) (q : Bool) (t : TileId) (p : Port) : Nat := tabGet 0 (s.plane f q).portDelay (portKey t p)

/-- The delay of a path: the sum over its elements (R87). -/
def pathDelay (s : State) (f : Nat) (q : Bool) (p : List PathEl) : Nat := (p.map (elDelay (portPad s f q) s f q)).sum

/-- Tokens in order of the cycle in which they leave. -/
def insertTimed (x : Timed) : List Timed → List Timed
  | [] => [x]
  | y :: ys => if x.at' < y.at' then x :: y :: ys else y :: insertTimed x ys

/-- The key of a quench input's delay register on a plane. -/
def inputKey (input : Nat) (q : Bool) : Nat := input * 2 + ofBool q

/-- Is a power domain ON (R394). -/
def State.domainOn (s : State) (d : Nat) : Bool := s.reg Reg.pwrDomainState d == 2

/-- The CRC of a ferry token: its tag and its four words (Table 3.2). -/
def ferryCrc (tag : Tag) (ws : List Nat) : Nat := ws.foldl (fun c w => crc16Bits c w 64) (crc16Bits 0xFFFF tag.toNat 32)

/-- The four 64-bit words of a token, word 0 first (R60). -/
def tokenWords (d : Word256) : List Word64 := [d.extractLsb' 0 64, d.extractLsb' 64 64, d.extractLsb' 128 64, d.extractLsb' 192 64]

/-- The token data that four words form (R60). -/
def wordsToken (ws : List Word64) : Word256 :=
  BitVec.ofNat 256 (ws.foldr (fun w a => w.toNat + 2 ^ 64 * a) 0)

/-- A token leaves on a transmit ferry in a cycle: a TOKEN block and four data blocks, with the lane's next sequence (R78). -/
def sendFerry (s : State) (x at' : Nat) (tok : Token) : State :=
  let seq := tabGet 0 s.xseq x
  let ws := tokenWords tok.data
  let crc := ferryCrc tok.tag (ws.map BitVec.toNat)
  let blocks := TxBlock.token tok.tag seq crc :: ws.map TxBlock.data
  transmit { (s.emit (.ferry x at' tok blocks)) with xseq := tabSet s.xseq x ((seq + 1) % 256) } x (blocks.map TxBlock.coded)

/-- The image whose ferries are in use: the active one, or the one that an activation sounds. -/
def ferryImage (s : State) : Option ImagePlan :=
  match s.images.active with
  | some i => some i
  | none => if s.act.phase = 0 then none else s.images.main

/-- The transmit ferries in use. -/
def txFerries (s : State) : List FerryPlan := ((ferryImage s).map fun i => i.ferries.filter FerryPlan.transmit).getD []

/-- The slot whose token carries a sequence. -/
def ferrySlot (p : FerryPlan) (seq : Nat) : Option Nat := p.seqs.findIdx? (· == seq)

/-- The cycle in which a transmit ferry sends what stands there at `at'`: in the first slot of its sequence from then on, its
offset being counted from each beat boundary (R99). A sequence that has no slot leaves at once (notes/assumptions/90.md). -/
def slotCycle (s : State) (x seq at' : Nat) : Nat :=
  match (txFerries s).find? fun p => p.lane = x with
  | none => at'
  | some p =>
    match ferrySlot p seq with
    | none => at'
    | some j =>
      let c := s.beat.at' + p.slots.getD j 0
      c + ceilDiv (at' - c) s.beat.period * s.beat.period

/-- A token reaches the end of one route at cycle `at'` (before the delay register there). Nothing reaches a unit whose
power domain is off (R399). -/
def deliver (s : State) (f : Nat) (q : Bool) (dst : Dest) (at' : Nat) (tok : Token) : State :=
  let pl := s.plane f q
  match dst with
  | .port t p =>
    if s.domainOn t.island then
      let k := lineKey t p q
      let d := tabGet 0 pl.portDelay (portKey t p)
      { s with lines := tabMod [] s.lines k (insertTimed { at' := at' + d, tok := tok }) }
    else s
  | .quench input =>
    let qu := s.quench f
    let d := tabGet 0 pl.quenchDelay input
    s.setQuench f { qu with inbox := tabMod [] qu.inbox (inputKey input q) (insertTimed { at' := at' + d, tok := tok }) }
  | .ferry x => sendFerry s x (slotCycle s x (tagSeq tok.tag).toNat at') tok

/-- The routes of a forging's plane that start at a source. -/
def routesFrom (s : State) (f : Nat) (q : Bool) (src : Source) : List Link :=
  match (s.plane f q).plan with
  | some p => p.links.filter fun l => l.src = src
  | none => []

/-- The islands whose registers a path crosses. -/
def elIslands : PathEl → List Nat
  | .pass t _ _ => [t.island]
  | .step i _ _ => [i]
  | .east i _ => [i]
  | .west i _ => [i]
  | _ => []

/-- Every island that a path crosses is powered: a token on another path is lost (R399). -/
def pathPowered (s : State) (p : List PathEl) : Bool := (p.flatMap elIslands).all s.domainOn

/-- The first token of a delay register, if it leaves in or before the cycle. -/
def lineHead (s : State) (t : TileId) (p : Port) (q : Bool) : Option Timed := (tabGet [] s.lines (lineKey t p q)).head?

/-- The delay register without its first token. -/
def dropLine (s : State) (t : TileId) (p : Port) (q : Bool) : State :=
  { s with lines := tabMod [] s.lines (lineKey t p q) List.tail }

/-- The plan of a physical tile on a plane. -/
def planOf (t : Tile) (q : Bool) : Option TilePlan := if q then t.plan1 else t.plan0

/-- The forging of a physical tile on a plane. -/
def forgingOf (t : Tile) (q : Bool) : Nat := if q then t.forging1 else t.forging0

/-- The program of a physical tile on a plane. -/
def progOf (t : Tile) (q : Bool) : List Word64 := if q then t.prog1 else t.prog0

/-- The declared format of a port on a plane; UINT1 where none is declared. -/
def portFmt (t : Tile) (q : Bool) (p : Port) : Fmt :=
  match planOf t q with
  | some pl => ((pl.formats.find? fun x => x.1 = p).bind fun x => Fmt.ofDesc x.2).getD .uint1
  | none => .uint1

/-- Entry `i` of DET_TAP_SELECT (Table 16.6). -/
def tapEntry (s : State) (i : Nat) : List Byte := slice (s.domain Reg.detTapSelect) (8 * i) 8

/-- A tapped element copies a token of a captured beat into its buffer of 4; one that finds it full is not captured, and
the next captured one carries LOST (R363). -/
def tapInto (s : State) (i : Nat) (q : Bool) (tok : Token) (beat : Beat) : State :=
  let k := 2 * i + ofBool q
  let buf := tabGet [] s.faults.tapBuffers k
  if buf.length < 4 then
    let step := match s.run.first with
      | some b => (beat - b).toNat
      | none => 0
    let r : TapRecord := { tok := tok, beat := beat, entry := i, lost := s.faults.tapLost.contains k, step := step }
    { s with faults := { s.faults with
      tapBuffers := tabSet s.faults.tapBuffers k (buf ++ [r]), tapLost := s.faults.tapLost.filter (· != k) } }
  else { s with faults := { s.faults with tapLost := k :: s.faults.tapLost.filter (· != k) } }

/-- Copies a token into the buffer of every tap entry that names its element (R362, R363). -/
def tap (s : State) (kind place colRow port : Nat) (q : Bool) (tok : Token) (beat : Beat) : State :=
  (List.range (min 64 ((s.domain Reg.detTapSelect).length / 8))).foldl (fun t i =>
    let e := tapEntry s i
    if leAt e 0 1 = kind ∧ leAt e 1 1 = tagForging tok.tag ∧ leAt e 2 1 = place ∧ leAt e 3 1 = colRow ∧ leAt e 4 1 = port
        ∧ beat.toNat % 2 ^ leAt e 5 1 = 0 then tapInto t i q tok beat
    else t) s

/-- Whether the active image was built with debug (R133, R155). -/
def State.debug (s : State) : Bool :=
  if s.act.phase = 0 then s.flag Reg.hazPresent else (s.images.main.map ImagePlan.debug).getD false

/-- Slots between the non-issue cycles of R92, or of R133 in a debug image. -/
def bankEvery (s : State) : Nat := if s.debug then 7 else 31

/-- Cycle in which slot i of an instance that started in cycle a issues (R92, R133). -/
def issueCycle (s : State) (a i : Nat) : Nat := a + 1 + i + i / bankEvery s

/-- The last cycle of an instance's occupancy (R92). -/
def occupancyEnd (s : State) (a l : Nat) : Nat := a + l + ceilDiv l (bankEvery s)

/-- Records a hazard: its count, and the first 64 records after a clear (R154, R155; Table 6.7). -/
def hazard (s : State) (cls : Nat) (beat : Beat) (forging : Nat) (q : Bool) (t : TileId) (slot port detail : Nat) : State :=
  if s.debug then
    let r : BitVec 128 := beat ++ BitVec.ofNat 4 cls ++ BitVec.ofNat 4 forging ++ BitVec.ofBool q ++ BitVec.ofNat 6 t.island
      ++ BitVec.ofNat 4 t.col ++ BitVec.ofNat 4 t.row ++ BitVec.ofNat 13 slot ++ BitVec.ofNat 2 port ++ 0#10
      ++ BitVec.ofNat 32 detail
    let s := s.count (Reg.hazCount.at (cls - 1)) 0
    if s.faults.hazards.length < 64 then { s with faults := { s.faults with hazards := s.faults.hazards ++ [r] } } else s
  else s

/-- The word of the invalid code of a format, in every element. -/
def invalidOf (m : Fmt) : Word256 := BitVec.ofNat 256 (invalidWord m)

/-- A token with the wrong VALID for its channel: counted, logged as kind 5, and its data is the invalid code of the port's
format with DEGRADED (R89). DESIGN CHOICE (notes/assumptions/96.md): its hazard record names the beat in progress and the
forging of the token's tag. -/
def faultToken (m : Fmt) (s : State) (t : TileId) (q : Bool) (p : Port) (slot : Nat) (tok : Token) : State × Token :=
  let s := s.count Reg.islPortFaults t.island
  let s := detect s (portUnit t (portIdx p)) false 0 0
  let s := hazard s 8 s.beat.n (tagForging tok.tag) q t slot (portIdx p) tok.tag.toNat
  (s, { data := invalidOf m, tag := tok.tag ||| 0x100#32 })

/-- A token with the wrong VALID at a port that a tile's program reads. -/
def channelFault (s : State) (t : TileId) (q : Bool) (p : Port) (slot : Nat) (tok : Token) : State × Token :=
  faultToken (portFmt (s.tile t q) q p) s t q p slot tok

/-- The declared format of a tile input port of a forging's plane: of its tile plan, or among the pass-through ports (R89, R130). -/
def declaredFmt (p : ForgingPlan) (t : TileId) (port : Port) : Option Nat :=
  match (p.tiles.find? fun x => x.tile = t).bind fun x => x.formats.find? fun y => y.1 = port with
  | some y => some y.2
  | none => (p.portFormats.find? fun y => y.1 = (t, port)).map Prod.snd

/-- The format of a pass-through's input port; UINT1 where none is declared. -/
def passFmt (s : State) (f : Nat) (q : Bool) (t : TileId) (port : Port) : Fmt :=
  (((s.plane f q).plan.bind fun p => declaredFmt p t port).bind Fmt.ofDesc).getD .uint1

/-- A data token crosses the pass-through register from an input to an output port: one with the wrong VALID is a fault in
the tile, and a tap of the output port copies it (R89, R363). -/
def crossPass (f : Nat) (q : Bool) (beat : Beat) (t : TileId) (i o : Port) (y : State × Token) : State × Token :=
  let y := if tagValid y.2.tag then y else faultToken (passFmt y.1 f q t i) y.1 t q i 0 y.2
  (tap y.1 1 t.island (t.col * 16 + t.row) (portIdx o) q y.2 beat, y.2)

/-- A data token crosses the pass-through registers of a path. Registers that an earlier route of the same source has met, in
`seen`, carry it once: only what they make of the token is taken again. -/
def crossPasses (s : State) (f : Nat) (q : Bool) (beat : Beat) (seen : List (TileId × Port)) (path : List PathEl) (tok : Token) :
    State × Token :=
  path.foldl (fun (y : State × Token) el =>
    match el with
    | .pass t i o => if seen.contains (t, o) then (y.1, (crossPass f q beat t i o y).2) else crossPass f q beat t i o y
    | _ => y) (s, tok)

/-- The output ports that a path leaves pass-through registers by. -/
def passOutputs (path : List PathEl) : List (TileId × Port) :=
  path.filterMap fun el => match el with | .pass t _ o => some (t, o) | _ => none

/-- A token crosses the routes of its source, one after another. -/
def crossRoutes (f : Nat) (q : Bool) (cycle : Nat) (beat : Beat) (tok : Token) (seen : List (TileId × Port)) : List Link → State → State
  | [], s => s
  | l :: ls, s =>
    let y := crossPasses s f q beat seen l.path tok
    crossRoutes f q cycle beat tok (passOutputs l.path ++ seen) ls (deliver y.1 f q l.dst (cycle + pathDelay s f q l.path) y.2)

/-- A source places a token of a beat on the fabric in a cycle: it crosses every route that starts there (R86). -/
def launchToken (s : State) (f : Nat) (q : Bool) (src : Source) (cycle : Nat) (beat : Beat) (tok : Token) : State :=
  crossRoutes f q cycle beat tok [] ((routesFrom s f q src).filter fun l => pathPowered s l.path) s

end Sys2Proof.Machine
end

