-- ==== Sys2Proof/Machine/Tile.lean ====
section
/-! DEFINITION. A tile between its instructions: the start of an instance, orphan tokens, errors of its memories, taps and
banked cycles, and the hazard log's clear (R92 to R95, R128, R149, R154, R155, R363, R371). -/

namespace Sys2Proof.Machine

/-- Slots of an instruction word (Table 6.4). -/
def slotsOf (w : Word64) : Nat := ((shapeOf (wordOp w) (wordFields w)).map Shape.slots).getD 1

/-- The loop length L of a program (R131, R152). -/
def programSlots : List Word64 → Nat
  | [] => 0
  | [w] => if wordOp w = 1 then 1 else slotsOf w
  | w :: v :: ws =>
    if wordOp w = 1 then 1 + xf (wordFields w) 0 10 * slotsOf v + programSlots ws
    else slotsOf w + programSlots (v :: ws)

/-- First 256-bit working word of a plane's allocation (R85). -/
def workBase (tl : Tile) (q : Bool) : Nat :=
  if q then (32768 - ((planOf tl true).map TilePlan.workBytes).getD 0) / 32 else 0

/-- The priming depth of a forging's plane: the largest history depth over its tiles (R107). -/
def primeDepth (p : ForgingPlan) : Nat :=
  p.tiles.foldl (fun d t => t.histories.foldl (fun d h => max d h.depth) d) 0

/-- The priming depth in force for a plane, 0 where it holds no plan. -/
def State.primeDepth (s : State) (f : Nat) (q : Bool) : Nat :=
  ((s.plane f q).plan.map Sys2Proof.Machine.primeDepth).getD 0

/-- Adds to a tile's ordinal list of a beat, keeping the newest beats; answers the ordinal of the new instance (R360). -/
def nextOrdinal (tl : Tile) (b : Beat) : Nat × List (Beat × Nat) :=
  let n := ((tl.ordinals.find? fun x => x.1 = b).map fun x => x.2).getD 0
  (n, (b, n + 1) :: (tl.ordinals.filter fun x => x.1 != b).take 15)

/-- The register file of a new instance (R128). -/
def startRegs (tok : Token) : Regfile :=
  { Regfile.clear with v := tok.data :: List.replicate 15 0#256, it := tok.tag, fl := tagFlags tok.tag }

/-- Starts an instance of the plane's program in cycle `a`; where a word of the program is known lost, every token that the
instance sends is DEGRADED (R92, R128, R411). -/
def startInstance (s : State) (t : TileId) (q : Bool) (a : Nat) (tok : Token) : State :=
  let tl := s.tile t q
  let b := rebuildBeat s.beat.n (tagBeat tok.tag)
  let o := nextOrdinal tl b
  let i : Instance := { rf := if tl.lostInstr.any (fun x => x.1 == q) then orFlags (startRegs tok) flDegraded else startRegs tok, start := a, slot := 0, pos := 0, beat := b, ordinal := o.1, rep := none, wrote := [] }
  s.setTile t q { tl with
    inst := if (progOf tl q).isEmpty then none else some i
    busyFrom := a
    busyTo := occupancyEnd s a (programSlots (progOf tl q))
    ordinals := o.2 }

/-- A trigger that finds an instance running is discarded and counted (R149). DESIGN CHOICE (notes/assumptions/95.md): its
hazard record has slot 0 and port 0. -/
def dropTrigger (s : State) (t : TileId) (q : Bool) (tok : Token) : State :=
  let s := s.count Reg.islTrigDrops t.island
  let b := rebuildBeat s.beat.n (tagBeat tok.tag)
  hazard s 3 b (tagForging tok.tag) q t 0 0 tok.tag.toNat

/-- The token at the head of the trigger port's delay register leaves it (R92, R149). -/
def triggerArrives (s : State) (t : TileId) (q : Bool) : State :=
  match planOf (s.tile t q) q with
  | none => s
  | some pl =>
    match lineHead s t pl.trigger q with
    | none => s
    | some x =>
      let s := dropLine (s.runTo x.at') t pl.trigger q
      let y := if tagValid x.tok.tag then (s, x.tok) else channelFault s t q pl.trigger 0 x.tok
      if x.at' ≤ (y.1.tile t q).busyTo then dropTrigger y.1 t q y.2 else startInstance y.1 t q x.at' y.2

/-- TRIGGER_ARRIVAL. -/
def execTriggerArrival (t : TileId) (plane : Bool) (s : State) : Host.Outcome State Fault Refusal :=
  onUnit (s.hasTile t) s (triggerArrives s t plane)

/-- A token discarded at a port that no RECV reads in its cycle (R95, Table 6.6 class 2); its record has slot 0
(notes/assumptions/95.md). -/
def discardToken (s : State) (t : TileId) (p : Port) (q : Bool) (x : Timed) : State :=
  hazard (dropLine s t p q) 2 (rebuildBeat s.beat.n (tagBeat x.tok.tag)) (tagForging x.tok.tag) q t 0 (portIdx p) x.tok.tag.toNat

/-- A token leaves a non-trigger port's delay register and no RECV takes it (R95). -/
def orphanLeaves (s : State) (t : TileId) (p : Port) (q : Bool) : State :=
  match lineHead s t p q with
  | none => s
  | some x =>
    if ((planOf (s.tile t q) q).map TilePlan.trigger) = some p then s
    else discardToken (s.runTo x.at') t p q x

/-- ORPHAN_TOKEN. -/
def execOrphanToken (t : TileId) (port : Port) (plane : Bool) (s : State) : Host.Outcome State Fault Refusal :=
  onUnit (s.hasTile t) s (orphanLeaves s t port plane)

/-! ### Errors of tile memories (Table 17.1) -/

/-- A word with one 64-bit part cleared. -/
def clearPart (w : Word256) (part : Nat) : Word256 := BitVec.ofNat 256 (putField w.toNat (64 * (part % 4)) 64 0)

/-- A word with the parts that a list of lost 64-bit words names cleared. -/
def clearLost (lost : List (Bool × Nat)) (q : Bool) (word : Nat) (w : Word256) : Word256 :=
  (List.range 4).foldl (fun w k => if lost.contains (q, 4 * word + k) then clearPart w k else w) w

/-- Whether some part of a 256-bit constant word is lost. -/
def anyLost (lost : List (Bool × Nat)) (q : Bool) (word : Nat) : Bool :=
  (List.range 4).any fun k => lost.contains (q, 4 * word + k)

/-- An uncorrectable error of a 64-bit tile word; a lost working word is rewritten 0 and degrades the beats [m, m + D]. -/
def loseTileWord (tl : Tile) (store : TileStore) (q : Bool) (word : Nat) (m : Beat) (d : Nat) : Tile :=
  match store with
  | .instr => { tl with lostInstr := (q, word) :: tl.lostInstr.filter (· != (q, word)) }
  | .const => { tl with lostConst := (q, word) :: tl.lostConst.filter (· != (q, word)) }
  | .work =>
    { tl with
      work := storeSet tl.work (word / 4) (clearPart (storeGet tl.work (word / 4)) word)
      degraded := (m, d) :: tl.degraded.take 15 }

/-- An error of a word of a physical tile: handled, logged, tested (R371). -/
def tileError (s : State) (island row pcol : Nat) (e : TileError) (m : Beat) (d : Nat) : State :=
  let k := physKey island row pcol
  let addr := tileWordAddr e.store e.plane e.word
  let s := if e.lost then s.setTileAt k (loseTileWord (s.tileAt k) e.store e.plane e.word m d) else s
  detect s (tileUnit island row pcol addr) e.lost addr (if e.lost then 0xFF62 else 0)

/-! ### Taps and banked cycles -/

/-- The first token of a tap buffer goes to the tap memory, which holds the 65,536 newest (R363, R364). -/
def tapDrain (s : State) (k : Nat) : State :=
  match tabGet [] s.faults.tapBuffers k with
  | [] => s
  | r :: rest =>
    let l := if s.faults.frozen then s.faults.taps else s.faults.taps ++ [r]
    { s with faults := { s.faults with tapBuffers := tabSet s.faults.tapBuffers k rest, taps := l.drop (l.length - 65536) } }

/-- The tap buffers, with tokens, of a physical tile. -/
def tileTaps (s : State) (island row pcol : Nat) : List Nat :=
  (s.faults.tapBuffers.filter fun x =>
    let e := tapEntry s (x.1 / 2)
    !x.2.isEmpty && leAt e 0 1 == 1 && leAt e 2 1 == island && leAt e 3 1 % 16 == row
      && physCol (s.remapByte island row (x.1 % 2 == 1)) (leAt e 3 1 / 16) == pcol).map fun x => x.1

/-- The first word that a shadow-load write restores. -/
def restoreOne (tl : Tile) : Tile :=
  match tl.lostInstr with
  | _ :: rest => { tl with lostInstr := rest }
  | [] => { tl with lostConst := tl.lostConst.tail }

/-! ### Shadow loads in banked cycles (R20, R93, R107) -/

/-- The prime values of a plan's histories: working word and value (R107, R150). -/
def primeWords (base : Nat) (tp : TilePlan) : List (Nat × Word256) :=
  tp.histories.flatMap fun h => (List.range (h.depth + 1)).flatMap fun i =>
    h.prime.zipIdx.map fun x => (base + h.base + i * h.width + x.2, x.1)

/-- First word of a plan's allocation on a plane (R85). -/
def planBase (q : Bool) (tp : TilePlan) : Nat := if q then (32768 - tp.workBytes) / 32 else 0

/-- The constants of a plan as a store. -/
def constStore (tp : TilePlan) : Store 256 := tp.constants.foldl (fun m x => storeSet m x.1 x.2) []

/-- The 256-bit words of a tile's load: 1,536 of constants, its prime values, 128 of program and 4 of port configuration. -/
def loadSize (tp : TilePlan) : Nat := 1536 + (primeWords 0 tp).length + 132

/-- Instructions 4k to 4k + 3 of a program written into a plane's memory. -/
def loadProgram (new old : List Word64) (k : Nat) : List Word64 := new.take (4 * k + 4) ++ old.drop (min (4 * k + 4) new.length)

/-- Write `n` of a plane's load: constants first, then primes, then the program; the port configuration takes effect with the
rest when the load completes. -/
def loadWrite (tl : Tile) (q : Bool) (tp : TilePlan) (n : Nat) : Tile :=
  let primes := primeWords (planBase q tp) tp
  if n < 1536 then
    let w := storeGet (constStore tp) n
    if q then { tl with const1 := storeSet tl.const1 n w } else { tl with const0 := storeSet tl.const0 n w }
  else if n < 1536 + primes.length then
    match primes[n - 1536]? with
    | some x => { tl with work := storeSet tl.work x.1 x.2 }
    | none => tl
  else if n < 1664 + primes.length then
    let k := n - 1536 - primes.length
    if q then { tl with prog1 := loadProgram tp.program tl.prog1 k } else { tl with prog0 := loadProgram tp.program tl.prog0 k }
  else tl

/-- Words of a plane's load that a tile has taken in banked cycles. -/
def servedOf (tl : Tile) (q : Bool) : Nat := if q then tl.served1 else tl.served0

def setServed (tl : Tile) (q : Bool) (n : Nat) : Tile := if q then { tl with served1 := n } else { tl with served0 := n }

/-- A plane whose load in progress still has words for a physical tile, with the plan of that tile. -/
def loadingOn (s : State) (k : Nat) : Option (Bool × TilePlan) :=
  (List.range 32).findSome? fun n =>
    let f := n / 2
    let q := n % 2 == 1
    let x := s.plane f q
    if s.planeState f q = 1 ∧ !x.loaded then
      (x.plan.bind fun p => p.tiles.find? fun tp => s.physOf tp.tile q = k ∧ servedOf (s.tileAt k) q < loadSize tp).map fun tp => (q, tp)
    else none

/-- Is a cycle of a tile banked: no instance runs, or it is one of the non-issue cycles of the instance that does (R93, R133). -/
def isBanked (s : State) (tl : Tile) : Bool :=
  let c := s.clocks.cycle
  let o := c - tl.busyFrom - 1
  decide (tl.busyTo < c) || decide (c ≤ tl.busyFrom) || o % (bankEvery s + 1) == bankEvery s || c == tl.busyTo

/-- Starts the pending tests among those that a condition names. -/
def startTests (s : State) (p : Test → Bool) : State :=
  let start : Test → Test := fun x => if p x then { x with running := true } else x
  { s with faults := { s.faults with tests := s.faults.tests.map start } }

/-- Is a test on the physical tile. -/
def testOnTile (island row pcol : Nat) (x : Test) : Bool :=
  x.unit.kind == 1 && x.unit.unit == island && x.unit.loc % 65536 == tilePlace row pcol

/-- What a banked cycle serves, in the order of R93: a targeted self-test, a shadow-load write (one that restores a lost word,
or the next of a load in progress), a tap read, a scrub. -/
def serveBanked (s : State) (island row pcol : Nat) (e : Option TileError) : State :=
  let k := physKey island row pcol
  let tl := s.tileAt k
  if s.faults.tests.any (testOnTile island row pcol) then startTests s (testOnTile island row pcol)
  else if !tl.lostInstr.isEmpty || !tl.lostConst.isEmpty then s.setTileAt k (restoreOne tl)
  else
    match loadingOn s k, tileTaps s island row pcol with
    | some (q, tp), _ => s.setTileAt k (setServed (loadWrite tl q tp (servedOf tl q)) q (servedOf tl q + 1))
    | none, b :: _ => tapDrain s b
    | none, [] =>
      match e with
      | none => s
      | some e =>
        if s.flag Reg.fltScrubEnable then tileError s island row pcol e s.beat.n (s.primeDepth (forgingOf tl e.plane) e.plane)
        else s

/-- A tile serves in its banked cycles only (R14, R93). -/
def bankedServes (s : State) (island row pcol : Nat) (e : Option TileError) : State :=
  if isBanked s (s.tileAt (physKey island row pcol)) then serveBanked s island row pcol e else s

/-- BANKED_CYCLE; the column is physical. -/
def execBankedCycle (t : TileId) (e : Option TileError) (s : State) : Host.Outcome State Fault Refusal :=
  onUnit (s.hasIsland t.island && t.row < 16 && t.col < 17) s (bankedServes s t.island t.row t.col e)

/-- The hazard log and counts cleared (R155). -/
def clearHazards (s : State) : State :=
  (List.range 9).foldl (fun t k => t.setReg (Reg.hazCount.at k) 0 0) { s with faults := { s.faults with hazards := [] } }

end Sys2Proof.Machine
end

