-- ==== Sys2Proof/Machine/Runner.lean ====
section
/-! DEFINITION. How an instruction runs on a tile's instance or on a temper's kernel: the program word, its slots, the
predicate, the repetitions of a REP, lost words and the kernel's budget (R92, R131, R132, R152, R193, R214, R411). -/

namespace Sys2Proof.Machine

/-- Where and when one repetition of an instruction runs. -/
structure Exec where
  u : Seat
  /-- the instruction word, or its REP's, is lost (R411) -/
  lost : Bool
  slot : Nat
  /-- what a REP adds to the word address in X (R152) -/
  off : Nat
  cycle : Nat
  beat : Beat
  /-- the draw of an element (R360) -/
  draw : Nat → Nat

/-- What one repetition leaves: the state, the registers, the status and detail of a kernel that stops, and whether it
cannot issue yet (R186, R221). -/
structure Ran where
  s : State
  rf : Regfile
  stop : Option (Nat × Nat)
  wait : Bool := false

/-- What an instruction does, once, with its fields. -/
abbrev Body := Exec → AnvilFields → State → Regfile → Ran

/-- The tile of an instruction that runs on one. -/
def Exec.t (e : Exec) : TileId :=
  match e.u with
  | .tile t _ => t
  | .temper _ _ => { island := 0, col := 0, row := 0 }

/-- The plane of an instruction that runs on a tile. -/
def Exec.q (e : Exec) : Bool :=
  match e.u with
  | .tile _ q => q
  | .temper _ _ => false

/-- Does the instruction run on a tile. -/
def Exec.onTile (e : Exec) : Bool :=
  match e.u with
  | .tile _ _ => true
  | .temper _ _ => false

/-- The rounding of each element of an instruction (R122, R123, R136). -/
def Exec.rnd (e : Exec) (f : AnvilFields) : Nat → Rnd := rounding f.rm e.draw

/-- Clamped elements count at the island or the temper (R120, R153, R193). -/
def countClamps (u : Seat) (s : State) (n : Nat) : State :=
  if n = 0 then s
  else
    match u with
    | .tile t _ => s.count Reg.islSatClamps t.island 64 n
    | .temper h k => s.count Reg.engSatClamps (8 * h + 1 + k) 64 n

/-- An instruction on registers alone, with the clamps it counts. -/
def regBody (g : (Nat → Rnd) → AnvilFields → Regfile → Regfile × Nat) : Body := fun e f s rf =>
  let r := g (e.rnd f) f rf
  { s := countClamps e.u s r.2, rf := r.1, stop := none }

/-- The REP that an instruction leaves for the next one: REP itself alone leaves one (R152). -/
def nextRepeat (op : Nat) (f : AnvilFields) (lost : Bool) : Option Repeat :=
  if op = 1 then
    some { n := xf f 0 10, sd := xf f 10 2, sa := xf f 12 2, sb := xf f 14 2, sm := xf f 16 4, lost := lost }
  else none

/-- How often an instruction runs. -/
def repeats : Option Repeat → Nat
  | some r => r.n
  | none => 1

/-- The fields of repetition `j`. -/
def fieldsAt (sh : Shape) (r : Option Repeat) (j : Nat) (f : AnvilFields) : AnvilFields :=
  match r with
  | some r => stepFields sh r j f
  | none => f

/-- Is the opcode a port operation that the schedule performs without its word: RECV or SEND (R411). -/
def isPortOp (op : Nat) : Bool := op == 0x08 || op == 0x09

/-- One repetition: nothing with its predicate off (R132), nothing but port operations with its word lost (R411), and
nothing once a kernel has stopped. -/
def runOnce (op : Nat) (body : Body) (e : Exec) (f : AnvilFields) (x : Ran) : Ran :=
  match x.stop with
  | some _ => x
  | none =>
    if e.lost && !isPortOp op then x
    else if !e.lost && !predOn x.rf f then x
    else body e f x.s x.rf

/-! ### Tiles -/

/-- The draws of a tile instance in a slot (Table 16.5). -/
def tileDraw (s : State) (q : Bool) (tl : Tile) (i : Instance) (slot : Nat) : Nat → Nat :=
  let f := tagForging i.rf.it
  let key := forgingSeed (s.domain Reg.detRunSeed) f (s.plane f q).hash
  let d := ((planOf tl q).map TilePlan.drawId).getD 0
  drawOf key fun g => tileBlock i.beat f d (i.ordinal % 256) slot g

/-- Repetition `j` of an instruction of an instance, in its slot and cycle. -/
def tileOnce (op : Nat) (body : Body) (sh : Shape) (f : AnvilFields) (t : TileId) (q : Bool) (tl : Tile) (i : Instance)
    (lost : Bool) (x : Ran) (j : Nat) : Ran :=
  let slot := i.slot + j * sh.slots
  let c := issueCycle x.s i.start slot
  let e : Exec := { u := .tile t q, lost := lost, slot := slot, off := stepOffset i.rep j, cycle := c, beat := i.beat, draw := tileDraw x.s q tl i slot }
  runOnce op body e (fieldsAt sh i.rep j f) { x with s := x.s.runTo c }

/-- The instance after an instruction: its registers, its next slot and word; it ends after its last word (R92). -/
def tileNext (op : Nat) (sh : Shape) (f : AnvilFields) (t : TileId) (q : Bool) (i : Instance) (lost : Bool) (x : Ran) : State :=
  let tl := x.s.tile t q
  let wrote := (tl.inst.map Instance.wrote).getD i.wrote
  let i' : Instance :=
    { i with rf := x.rf, slot := i.slot + repeats i.rep * sh.slots, pos := i.pos + 1, rep := nextRepeat op f lost, wrote := wrote }
  x.s.setTile t q { tl with inst := if i'.pos < (progOf tl q).length then some i' else none }

/-- Whether the word of an instance's next instruction, or the REP before it, is lost (R371, R411). -/
def wordLost (tl : Tile) (q : Bool) (i : Instance) : Bool :=
  tl.lostInstr.contains (q, i.pos) || ((i.rep.map Repeat.lost).getD false)

/-- An instruction on a tile. It is the next word of the program of an instance that runs there on that plane; anything
else is no event of the tile (notes/assumptions/9.md). -/
def runTile (op : Nat) (body : Body) (t : TileId) (q : Bool) (f : AnvilFields) (s : State) : State :=
  let tl := s.tile t q
  match tl.inst, shapeOf op f with
  | some i, some sh =>
    if tagPlane i.rf.it == q && (progOf tl q)[i.pos]? == some (encodeWord op f) then
      let lost := wordLost tl q i
      let rf := if lost then orFlags i.rf flDegraded else i.rf
      let x := (List.range (repeats i.rep)).foldl (tileOnce op body sh f t q tl i lost) { s := s, rf := rf, stop := none }
      tileNext op sh f t q i lost x
    else s
  | _, _ => s

/-! ### Tempers -/

/-- Address register `n` of a temper's kernel. -/
def arOf (s : State) (h k n : Nat) : Nat :=
  (((s.temper h k).kernel.map fun x => (listGet 0#64 x.ar (n % 8)).toNat).getD 0)

/-- Sets an address register. -/
def setAr (s : State) (h k n : Nat) (v : Int) : State :=
  modKernel s h k fun x => { x with ar := listSet x.ar (n % 8) (BitVec.ofInt 64 v) }

/-- The draws of a temper instruction with executed-instruction index `n` (Table 16.5). -/
def kernelDraw (s : State) (h k : Nat) (x : Kernel) (n : Nat) : Nat → Nat :=
  drawOf (temperSeed (s.domain Reg.detRunSeed) x.seedIndex) fun g => temperBlock x.tag x.seedIndex h k n g

/-- Instructions that no temper runs (R193). -/
def tileOnly (op : Nat) : Bool := [0x08, 0x09, 0x13, 0x14, 0x03, 0x04].contains op

/-- A kernel's word as its temper has it, or else as memory does. -/
def kernelWord (s : State) (h k a : Nat) : Word64 :=
  let t := s.temper h k
  let come := t.kernel.bind fun x => x.arrived.find? fun g => g.cls == 3 && g.line == a / 64
  match come, t.instr.find? fun c => c.line == a / 64 with
  | some g, _ => BitVec.ofNat 64 (lineBits g.data (a % 64) 64)
  | none, some c => BitVec.ofNat 64 (lineBits c.data (a % 64) 64)
  | none, none => BitVec.ofNat 64 (leNat (s.load a 8))

/-- The address of a kernel's next instruction. -/
def Kernel.next (x : Kernel) : Nat := x.addr + 8 * x.pos

/-- Does a kernel wait for a line that it has missed (R214). -/
def kernelWaits (s : State) (h k : Nat) : Bool :=
  (s.harbour h).dqs.any fun l => l.2.any fun i =>
    match i.use with
    | .first u cls => i.engine == k + 1 && u == k && cls != 2
    | _ => false

/-- The misses of a try. -/
def State.wants (s : State) (h k : Nat) : List (Nat × Nat) := (s.temper h k).wants

/-- A kernel's miss goes to the memory that owns the line, over a free route; it counts as a miss of its class (R186, R194,
R214, R216, R224). A full DQ3 holds it up. -/
def sendWant (s : State) (h k : Nat) (x : Kernel) (want : Nat × Nat) : State :=
  let a := 64 * want.2
  if !(s.harbour h).dqRoom 3 then s
  else if !freeRoute s h (addrHarbour a) then endKernel s h k 5 (want.2 % 2 ^ 32)
  else
    placeItem (if want.1 < 4 then countClass s h k want.1 false else s) h 3 false
      (itemOf (k + 1) x.queue (.first k want.1) a 0 0 0#512 false)

/-- The lines that have come for a kernel's instruction. -/
def cameFor (s : State) (h k : Nat) : Nat := ((s.temper h k).kernel.map fun x => x.arrived.length).getD 0

/-- A try that missed: nothing of it stays but the miss, and whether its line has come already. -/
def missed (s : State) (h k : Nat) (x : Kernel) (want : Nat × Nat) : State × Bool :=
  let t := sendWant s h k x want
  (t, decide (cameFor s h k < cameFor t h k))

/-- Repetition `j` of a kernel's instruction; it counts one against the budget (R193). -/
def kernelOnce (op : Nat) (body : Body) (sh : Shape) (f : AnvilFields) (h k : Nat) (x : Kernel) (s : State) (j : Nat) : Ran :=
  let e : Exec :=
    { u := .temper h k, lost := false, slot := x.slot + j * sh.slots, off := stepOffset x.rep j, cycle := s.clocks.cycle,
      beat := s.beat.n, draw := kernelDraw s h k x x.executed }
  let s := modKernel s h k fun y => { y with executed := x.executed + 1 }
  runOnce op body e (fieldsAt sh x.rep j f) { s := s, rf := x.rf, stop := none }

/-- The kernel after an instruction: the next word, or the target of a branch that was taken. -/
def kernelNext (op : Nat) (sh : Shape) (f : AnvilFields) (h k : Nat) (x : Kernel) (r : Ran) : State :=
  let pos := if op = 0x3C && predOn x.rf f then xf f 0 14 else x.pos + 1
  let s := modKernel r.s h k fun y =>
    { y with rf := r.rf, slot := x.slot + repeats x.rep * sh.slots, pos := pos, rep := nextRepeat op f false, done := none, arrived := [] }
  match r.stop with
  | some (st, d) => endKernel s h k st d
  | none => if x.len ≤ pos then endKernel s h k 0 0 else s

/-- A kernel fetches its next instruction: what it does then, and whether it goes on with its repetitions. Its first one is
the commit point of its LAUNCH; a word that no temper runs ends it with OPCODE (R193, R251; notes/assumptions/19.md). -/
def kernelFetch (op : Nat) (sh : Shape) (f : AnvilFields) (h k : Nat) (x : Kernel) (s : State) : State × Bool :=
  let a := x.next
  let y := firstRead s h k 3 a
  match y.1.wants h k with
  | w :: _ => missed s h k x w
  | [] =>
    if BitVec.ofNat 64 (lineBits y.2.data (a % 64) 64) == encodeWord op f then
      let p := if y.2.poison then kernelPoison y.1 h k (a / 64) else (y.1, none)
      match p.2.or (if tileOnly op then some (1, 0) else none) with
      | some st => (kernelNext op sh f h k x { s := p.1, rf := x.rf, stop := some st }, false)
      | none =>
        let s := if x.executed = 0 then commitCmd p.1 h (k + 1) x.queue else p.1
        (modKernel s h k fun z => { z with done := some 0 }, true)
    else (s, false)

/-- A kernel does repetition `j` of its instruction, or leaves the instruction after its last. A repetition that misses a
line stays undone until the line has come (R214). -/
def kernelRepeat (op : Nat) (body : Body) (sh : Shape) (f : AnvilFields) (h k : Nat) (x : Kernel) (s : State) (j : Nat) :
    State × Bool :=
  if j < repeats x.rep ∧ x.executed < x.budget then
    let r := kernelOnce op body sh f h k x s j
    match r.s.wants h k, r.stop with
    | w :: _, _ => missed s h k x w
    | [], some _ => (kernelNext op sh f h k x r, false)
    | [], none =>
      if r.wait then (s, false)
      else (modKernel r.s h k fun y => { y with rf := r.rf, done := some (j + 1), arrived := [] }, true)
  else (kernelNext op sh f h k x { s := s, rf := x.rf, stop := none }, false)

/-- A kernel works on one instruction until it is done or waits for a line. -/
def kernelRun (op : Nat) (body : Body) (sh : Shape) (f : AnvilFields) (h k : Nat) : Nat → State → State
  | 0, s => s
  | n + 1, s =>
    match (s.temper h k).kernel with
    | none => s
    | some x =>
      if x.ended then s
      else
        let r := match x.done with
          | none => kernelFetch op sh f h k x s
          | some j => kernelRepeat op body sh f h k x s j
        if r.2 then kernelRun op body sh f h k n r.1 else r.1

/-- An instruction on a temper. It is the word that the kernel fetches next through the instruction cache, while the
kernel runs, its budget lasts, it waits for no line and its group does not stall (R189, R193, R214). -/
def runKernel (op : Nat) (body : Body) (h k : Nat) (f : AnvilFields) (s : State) : State :=
  match (s.temper h k).kernel, shapeOf op f with
  | some x, some sh =>
    if x.ended || s.groupStands h || (x.done.isNone && decide (x.budget ≤ x.executed)) || kernelWaits s h k
      || kernelWord s h k x.next != encodeWord op f then s
    else kernelRun op body sh f h k 16384 s
  | _, _ => s

/-- An instruction on its seat. -/
def anvil (op : Nat) (body : Body) (u : Seat) (f : AnvilFields) (s : State) : Host.Outcome State Fault Refusal :=
  onUnit (s.hasSeat u) s
    (match u with
    | .tile t q => runTile op body t q f s
    | .temper h k => runKernel op body h k f s)

end Sys2Proof.Machine
end

