-- ==== Sys2Proof/Machine/Reads.lean ====
section
/-! DEFINITION. What instructions read and write in memories: constant and working words of a tile, histories, and the
lines and scratchpad of a temper (R85, R107, R150, R193, R199, R211 to R215, R371). -/

namespace Sys2Proof.Machine

/-- A read: its bits, flags that it sets in FL, whether its line is poisoned, and a kernel's stop. -/
structure MemRead where
  s : State
  data : Nat
  fl : BitVec 5
  poison : Bool
  stop : Option (Nat × Nat)

/-- A history of a tile's plane. -/
def historyOf (tl : Tile) (q : Bool) (h : Nat) : Option History :=
  (planOf tl q).bind fun p => p.histories.find? fun x => x.h = h

/-- Working word of history entry of beat n − k, word j (R108, R150): `first` is the plane's first beat a. -/
def historyWord (tl : Tile) (q : Bool) (x : History) (n first : Beat) (k j : Nat) : Nat :=
  let i := (((n - first).toInt - k) % ((x.depth + 1 : Nat) : Int)).toNat
  workBase tl q + x.base + i * x.width + j

/-- Is a word of the plane's allocation in some history (Table 6.6 class 4). -/
def inHistory (tl : Tile) (q : Bool) (word : Nat) : Bool :=
  match planOf tl q with
  | some p => p.histories.any fun x => decide (x.base ≤ word) && decide (word < x.base + (x.depth + 1) * x.width)
  | none => false

/-- The error that a read of a tile word reports (R371). -/
def readError (s : State) (t : TileId) (q : Bool) (store : TileStore) (word : Nat) (c : ReadCheck) (beat : Beat) : State :=
  let pcol := physCol (s.remapByte t.island t.row q) t.col
  let d := s.primeDepth (forgingOf (s.tile t q) q) q
  match c with
  | .clean => s
  | .corrected => tileError s t.island t.row pcol { store := store, plane := q, word := 4 * word, lost := false } beat d
  | .lost p => tileError s t.island t.row pcol { store := store, plane := q, word := 4 * word + p % 4, lost := true } beat d

/-- A constant word of a tile's plane: lost words read 0 and set DEGRADED (R371). -/
def tileConst (s : State) (t : TileId) (q : Bool) (word : Nat) : MemRead :=
  let tl := s.tile t q
  let w := storeGet (if q then tl.const1 else tl.const0) word
  { s := s, data := (clearLost tl.lostConst q word w).toNat, fl := if anyLost tl.lostConst q word then flDegraded else 0#5,
    poison := false, stop := none }

/-- 256 bits from an engine address through class `cls` of a temper's first levels; they may span two lines. -/
def temperBits (s : State) (h k cls a : Nat) : MemRead :=
  let x := firstRead s h k cls a
  if a % 64 ≤ 32 then { s := x.1, data := lineBits x.2.data (a % 64) 256, fl := 0#5, poison := x.2.poison, stop := none }
  else
    let y := firstRead x.1 h k cls (a + 31)
    { s := y.1, data := field (x.2.data.toNat + 2 ^ 512 * y.2.data.toNat) (8 * (a % 64)) 256, fl := 0#5,
      poison := x.2.poison || y.2.poison, stop := none }

/-- The policy of a poisoned read of a kernel (R199). -/
def notePoison (h k line : Nat) (r : MemRead) : MemRead :=
  if r.poison then
    let x := kernelPoison r.s h k line
    { r with s := x.1, stop := x.2 }
  else r

/-- The status with which a kernel's access to `[a, a + 32)` stops it, none where it may go: RANGE outside its space, and
NO_ROUTE to another harbour without a free route (R193, R194, R212). The line's number is the detail. -/
def accessStop (s : State) (h a : Nat) : Option (Nat × Nat) :=
  if !rangeOk s a 32 then some (2, a / 64 % 2 ^ 32)
  else if !freeRoute s h (addrHarbour a) then some (5, a / 64 % 2 ^ 32)
  else none

/-- A read that stops its kernel. -/
def stopRead (s : State) (x : Nat × Nat) : MemRead := { s := s, data := 0, fl := 0#5, poison := false, stop := some x }

/-- A constant word of a temper, at AR7 + 32 × word (R193). -/
def temperConst (s : State) (h k word : Nat) : MemRead :=
  let a := (arOf s h k 7 + 32 * word) % 2 ^ 64
  if a % 32 ≠ 0 ∨ 1 < addrSpace a then stopRead s (2, a / 64 % 2 ^ 32)
  else
    match accessStop s h a with
    | some x => stopRead s x
    | none => notePoison h k (a / 64) (temperBits s h k 1 a)

/-- A constant word of the instruction's seat. -/
def constWord (e : Exec) (s : State) (word : Nat) : MemRead :=
  match e.u with
  | .tile t q => tileConst s t q word
  | .temper h k => temperConst s h k word

/-- Two constant words as 512 bits, the first low (R129, R138). -/
def constPair (e : Exec) (s : State) (word : Nat) : MemRead :=
  let x := constWord e s word
  match x.stop with
  | some _ => x
  | none =>
    let y := constWord e x.s (word + 1)
    { y with data := x.data + 2 ^ 256 * y.data, fl := x.fl ||| y.fl, poison := x.poison || y.poison }

/-- Raw bits of a read: those of a poisoned line are a free value where no format reads them (R199). -/
def rawBits (w : Nat) (r : MemRead) : State × BitVec w :=
  if r.poison then
    let x := r.s.fresh w
    (x.2, x.1)
  else (r.s, BitVec.ofNat w r.data)

/-- A read of a poisoned line in a format: every element is the invalid code (R199). -/
def inFormat (f : Fmt) (n : Nat) (r : MemRead) : Nat :=
  if r.poison then (List.range n).foldl (fun a k => a + 2 ^ (256 * k) * invalidWord f) 0 else r.data

/-- A word of a tile's working region by its number in the plane's allocation, as the read finds it. -/
def tileWorking (s : State) (t : TileId) (q : Bool) (word : Nat) (c : ReadCheck) (beat : Beat) : MemRead :=
  let s := readError s t q .work word c beat
  { s := s, data := (storeGet (s.tile t q).work word).toNat, fl := 0#5, poison := false, stop := none }

/-- Writes a word of a tile's working region. -/
def setWorking (s : State) (t : TileId) (q : Bool) (word : Nat) (v : Word256) : State :=
  let tl := s.tile t q
  s.setTile t q { tl with work := storeSet tl.work word v }

/-- The error that a read of a temper's array or constant cache reports: an uncorrectable one poisons the line (R371). -/
def arrayError (s : State) (h store line : Nat) (c : ReadCheck) : State :=
  match c with
  | .clean => s
  | .corrected => detect s (sramUnit h store line) false line 0
  | .lost _ => detect (s.setPoison line true) (sramUnit h store line) true line 0xFF61

/-- The address of scratchpad word `word` of a temper (R193). -/
def scratchAddr (h k word : Nat) : Nat := scratchBase h k + 32 * word

/-- A 256-bit scratchpad word; a split change keeps it in range (R212). -/
def temperWorking (s : State) (h k word : Nat) (c : ReadCheck) : MemRead :=
  let a := scratchAddr h k word
  let s := arrayError s h 1 (a / 64) c
  notePoison h k (a / 64)
    { s := s, data := leNat (s.load a 32), fl := 0#5, poison := s.poisoned (a / 64), stop := none }

/-- Is an address in a scratchpad of the temper's own harbour. -/
def ownArray (h a : Nat) : Bool := addrSpace a == 2 && addrHarbour a == h

/-- Reads 256 bits at an address of a kernel's LDA: a scratchpad of the own harbour at once, one of another over the straits,
spaces 0 and 1 through the data cache (R193, R194, R212, R213). -/
def temperLoad (s : State) (h k a : Nat) : MemRead :=
  match accessStop s h a with
  | some x => stopRead s x
  | none =>
    if ownArray h a then
      notePoison h k (a / 64)
        { s := s, data := leNat (s.load a 32), fl := 0#5, poison := s.poisoned (a / 64) || s.poisoned ((a + 31) / 64), stop := none }
    else notePoison h k (a / 64) (temperBits s h k (if addrSpace a = 2 then 4 else 0) a)

/-- Writes `n` bytes in one line through the data cache, which reads the line first; without a data cache they go on to the
hold that has read it (R209, R212, R213). Answers whether the line is poisoned. -/
def firstPut (s : State) (h k a n v : Nat) : State × Bool :=
  let x := firstRead s h k 0 a
  if hasLevel s h k 0 then
    let d := BitVec.ofNat 512 (putField x.2.data.toNat (8 * (a % 64)) (8 * n) v)
    (firstInstall x.1 h k 0 { line := a / 64, data := d, dirty := true, poison := x.2.poison }, x.2.poison)
  else (sendWrite x.1 h k a n (BitVec.ofNat 512 (v % 2 ^ (8 * n))) false, x.2.poison)

/-- Writes 256 bits at an address of a kernel's STA: through the data cache for spaces 0 and 1, line by line, and into a
scratchpad for space 2 (R193, R194, R213). Answers whether a line that it fills is poisoned. -/
def temperStore (s : State) (h k a : Nat) (v : Word256) : State × Bool :=
  if ownArray h a then (s.store a (leBytes 32 v.toNat), false)
  else if addrSpace a = 2 then (sendWrite s h k a 32 (BitVec.ofNat 512 v.toNat) false, false)
  else
    let n := min 32 (64 - a % 64)
    let x := firstPut s h k a n (v.toNat % 2 ^ (8 * n))
    if n = 32 then x
    else
      let y := firstPut x.1 h k (a + n) (32 - n) (v.toNat >>> (8 * n))
      (y.1, x.2 || y.2)

end Sys2Proof.Machine
end

