-- ==== Sys2Proof/Machine/AnvilControl.lean ====
section
/-! DEFINITION. Slots, repetition, predicates, tag tests and ports (R138, R147, R148, R151, R152, R411). -/

namespace Sys2Proof.Machine

/-- NOP: nothing but its slots. -/
def nopBody : Body := regBody fun _ _ rf => (rf, 0)

/-- NOP. -/
def execNop (u : Seat) (f : AnvilFields) (s : State) : Host.Outcome State Fault Refusal := anvil 0x00 nopBody u f s

/-- REP: the runner takes its fields for the next instruction (nextRepeat). -/
def repBody : Body := regBody fun _ _ rf => (rf, 0)

/-- REP. -/
def execRep (u : Seat) (f : AnvilFields) (s : State) : Host.Outcome State Fault Refusal := anvil 0x01 repBody u f s

/-- PSET: predicate logic (R151). -/
def psetBody : Body := regBody fun _ f rf =>
  (setP rf f.d.toNat (predLogic (xf f 0 3) (f.x.getLsbD 3) (pReg rf f.a.toNat) (pReg rf f.b.toNat)), 0)

/-- PSET. -/
def execPset (u : Seat) (f : AnvilFields) (s : State) : Host.Outcome State Fault Refusal := anvil 0x02 psetBody u f s

/-- TTEST: a tag test, inverted with X[4] (R151). -/
def ttestBody : Body := regBody fun _ f rf =>
  let r := tagTest rf.it rf.fl (xf f 0 4) (BitVec.ofNat 4 (xf f 8 4)) (xf f 12 4 + 1) (xf f 16 16)
  (setP rf f.d.toNat (r != f.x.getLsbD 4), 0)

/-- TTEST. -/
def execTtest (u : Seat) (f : AnvilFields) (s : State) : Host.Outcome State Fault Refusal := anvil 0x03 ttestBody u f s

/-- TFLAG: sets EDGE in FL (R151). -/
def tflagBody : Body := regBody fun _ _ rf => (orFlags rf flEdge, 0)

/-- TFLAG. -/
def execTflag (u : Seat) (f : AnvilFields) (s : State) : Host.Outcome State Fault Refusal := anvil 0x04 tflagBody u f s

/-- Tokens that have left a delay register before cycle `c` with no RECV to take them are discarded (R95). -/
def purge (s : State) (t : TileId) (p : Port) (q : Bool) (c : Nat) : State :=
  ((tabGet [] s.lines (lineKey t p q)).takeWhile fun x => decide (x.at' < c)).foldl (fun s x => discardToken s t p q x) s

/-- A port fault of R147: counted and logged as an error of kind 5. -/
def portFault (s : State) (t : TileId) (p : Port) : State :=
  detect (s.count Reg.islPortFaults t.island) (portUnit t (portIdx p)) false 0 0

/-- No token: the invalid code in every element and DEGRADED (R147). DESIGN CHOICE (notes/assumptions/99.md): the detail of a
MISSING and of a KIND record is 0. -/
def recvMissing (e : Exec) (f : AnvilFields) (p : Port) (s : State) (rf : Regfile) : Ran :=
  let t := e.t
  let q := e.q
  let w := BitVec.ofNat 256 (invalidWord (portFmt (s.tile t q) q p))
  let s := hazard (portFault s t p) 1 e.beat (tagForging rf.it) q t e.slot (portIdx p) 0
  let rf := orFlags rf flDegraded
  { s := s, rf := if e.lost then rf else setV rf f.d.toNat w, stop := none }

/-- A token that the port presents (R89, R147). -/
def recvToken (e : Exec) (f : AnvilFields) (p : Port) (tok : Token) (s : State) (rf : Regfile) : Ran :=
  let t := e.t
  let q := e.q
  let y := if tagValid tok.tag then (s, tok) else channelFault s t q p e.slot tok
  let rf := orFlags rf (tagFlags y.2.tag)
  let rf := if e.lost then rf else setV rf f.d.toNat y.2.data
  if sameTrigger y.2.tag rf.it then { s := y.1, rf := rf, stop := none }
  else
    let s := if tagValid tok.tag then portFault y.1 t p else y.1
    { s := hazard s 6 e.beat (tagForging rf.it) q t e.slot (portIdx p) tok.tag.toNat, rf := orFlags rf flDegraded, stop := none }

/-- RECV: takes what the port's delay register presents in the slot's cycle (R147). -/
def recvBody : Body := fun e f s rf =>
  let t := e.t
  let q := e.q
  let p := portOf (xf f 0 2)
  let s := purge s t p q e.cycle
  match lineHead s t p q with
  | some x => if x.at' = e.cycle then recvToken e f p x.tok (dropLine s t p q) rf else recvMissing e f p s rf
  | none => recvMissing e f p s rf

/-- RECV. -/
def execRecv (u : Seat) (f : AnvilFields) (s : State) : Host.Outcome State Fault Refusal := anvil 0x08 recvBody u f s

/-- From the boundary after a word of the tile was classed PERSISTENT, every token it sends is DEGRADED (R376). -/
def tileDegrades (s : State) (island row pcol : Nat) : Bool :=
  s.faults.classes.any fun c =>
    c.persistent && c.unit.kind == 1 && c.unit.unit == island && c.unit.loc % 65536 == tilePlace row pcol
      && decide (c.last.getD 0 ≤ s.beat.at')

/-- Does a lost working word degrade the tokens of a beat (R371). -/
def beatDegraded (tl : Tile) (b : Beat) : Bool :=
  tl.degraded.any fun x => decide (0 ≤ beatDiff b x.1) && decide (beatDiff b x.1 ≤ x.2)

/-- The tag of a sent token, DEGRADED where the tile degrades (R148, R371, R376). -/
def sendTag (s : State) (e : Exec) (f : AnvilFields) (rf : Regfile) : Tag :=
  let t := e.t
  let q := e.q
  let deg := tileDegrades s t.island t.row (physCol (s.remapByte t.island t.row q) t.col) || beatDegraded (s.tile t q) e.beat
  sentTag rf.it (if deg then rf.fl ||| flDegraded else rf.fl) (f.x.getLsbD 7) (f.x.getLsbD 6) (BitVec.ofNat 4 (xf f 2 4))

/-- What the hazard detector keeps of a sent token, and class 7 where a sequence or LAST comes twice in a beat on a port
(Table 6.6). LAST stands as sequence 16. -/
def noteSent (s : State) (e : Exec) (p : Port) (tag : Tag) : State :=
  let t := e.t
  let q := e.q
  let tl := s.tile t q
  let key (n : Nat) : Nat × Beat × Nat := (portIdx p, e.beat, n)
  let marks := key (tagSeq tag).toNat :: if tagLast tag then [key 16] else []
  let again := marks.any tl.sentSeqs.contains
  let recent := tl.sentSeqs.filter fun x => decide ((beatDiff e.beat x.2.1).natAbs < 128)
  let s := if s.debug then s.setTile t q { tl with sentSeqs := marks ++ recent } else s
  if again then hazard s 7 e.beat (tagForging tag) q t e.slot (portIdx p) tag.toNat else s

/-- SEND: the token stands on the output port in the cycle after its slot (R92, R148). -/
def sendBody : Body := fun e f s rf =>
  let t := e.t
  let q := e.q
  let p := portOf (xf f 0 2)
  let w := if e.lost then BitVec.ofNat 256 (invalidWord (portFmt (s.tile t q) q p)) else vReg rf f.a.toNat
  let tok : Token := { data := w, tag := sendTag s e f rf }
  let s := noteSent s e p tok.tag
  let s := tap s 1 t.island (t.col * 16 + t.row) (portIdx p) q tok e.beat
  { s := launchToken s (tagForging rf.it) q (.tile t p) (e.cycle + 1) e.beat tok, rf := rf, stop := none }

/-- SEND. -/
def execSend (u : Seat) (f : AnvilFields) (s : State) : Host.Outcome State Fault Refusal := anvil 0x09 sendBody u f s

/-- Clears the hazard counts and log on a write of 1 (R155). -/
def hazClearWrite (v : Nat) (s : State) : State := if v = 1 then clearHazards s else s

end Sys2Proof.Machine
end

