-- ==== Sys2Proof/Machine/AnvilMemory.lean ====
section
/-! DEFINITION. Constant and working words, histories, and accumulators loaded from constants (R138, R141, R150, R193). -/

namespace Sys2Proof.Machine

/-- An error of a constant that an LDC reads (R371): of the tile's region, or of the temper's constant cache. -/
def constError (e : Exec) (s : State) (word : Nat) (c : ReadCheck) : State :=
  match e.u with
  | .tile t q => readError s t q .const word c e.beat
  | .temper h k => arrayError s h 2 ((arOf s h k 7 + 32 * word) / 64) c

/-- A register written from a read. -/
def loadInto (f : AnvilFields) (rf : Regfile) (r : MemRead) : Ran :=
  match r.stop with
  | some x => { s := r.s, rf := rf, stop := some x }
  | none =>
    let w := rawBits 256 r
    { s := w.1, rf := orFlags (setV rf f.d.toNat w.2) r.fl, stop := none }

/-- LDC: D ← constant word. -/
def ldcBody (c : ReadCheck) : Body := fun e f s rf =>
  loadInto f rf (constWord e (constError e s (xf f 0 11 + e.off) c) (xf f 0 11 + e.off))

/-- LDC. -/
def execLdc (u : Seat) (f : AnvilFields) (e : ReadCheck) (s : State) : Host.Outcome State Fault Refusal :=
  anvil 0x10 (ldcBody e) u f s

/-- The working word that a static address names: in the plane's allocation on a tile (R85), in the scratchpad on a
temper (R193). -/
def ldwRead (e : Exec) (f : AnvilFields) (c : ReadCheck) (s : State) : MemRead :=
  let w := xf f 0 10 + e.off
  match e.u with
  | .tile t q => tileWorking s t q (workBase (s.tile t q) q + w) c e.beat
  | .temper h k => temperWorking s h k w c

/-- Class 4 of the hazard detector: a word outside every history that this instance has not written (Table 6.6). -/
def ldwHazard (e : Exec) (f : AnvilFields) (s : State) (rf : Regfile) : State :=
  let t := e.t
  let q := e.q
  let tl := s.tile t q
  let w := xf f 0 10 + e.off
  if e.onTile && !inHistory tl q w && !((tl.inst.map Instance.wrote).getD []).contains w then
    hazard s 4 e.beat (tagForging rf.it) q t e.slot 0 w
  else s

/-- LDW: D ← working word. -/
def ldwBody (c : ReadCheck) : Body := fun e f s rf => loadInto f rf (ldwRead e f c (ldwHazard e f s rf))

/-- LDW. -/
def execLdw (u : Seat) (f : AnvilFields) (e : ReadCheck) (s : State) : Host.Outcome State Fault Refusal :=
  anvil 0x11 (ldwBody e) u f s

/-- Marks a working word as written by the running instance. -/
def markWrote (s : State) (t : TileId) (q : Bool) (w : Nat) : State :=
  let tl := s.tile t q
  let mark : Instance → Instance := fun i => if i.wrote.contains w then i else { i with wrote := w :: i.wrote }
  s.setTile t q { tl with inst := tl.inst.map mark }

/-- STW: working word ← A. -/
def stwBody : Body := fun e f s rf =>
  let w := xf f 0 10 + e.off
  let v := vReg rf f.a.toNat
  let s := match e.u with
    | .tile t q => setWorking (markWrote s t q w) t q (workBase (s.tile t q) q + w) v
    | .temper h k => s.store (scratchAddr h k w) (leBytes 32 v.toNat)
  { s := s, rf := rf, stop := none }

/-- STW. -/
def execStw (u : Seat) (f : AnvilFields) (s : State) : Host.Outcome State Fault Refusal := anvil 0x12 stwBody u f s

/-- The word of a history that HPUSH (k = 0) or HLD names, none where the image declares no such history. -/
def histWord (e : Exec) (s : State) (h j k : Nat) (rf : Regfile) : Option Nat :=
  let t := e.t
  let q := e.q
  let tl := s.tile t q
  (historyOf tl q h).map fun x => historyWord tl q x e.beat (s.plane (tagForging rf.it) q).first k j

/-- HPUSH: word j of the entry of the instance's beat ← A (R150). -/
def hpushBody : Body := fun e f s rf =>
  let t := e.t
  let q := e.q
  let h := xf f 0 4
  let j := xf f 4 4
  match histWord e s h j 0 rf with
  | none => { s := s, rf := rf, stop := none }
  | some w =>
    let s := setWorking s t q w (vReg rf f.a.toNat)
    let tl := s.tile t q
    let recent := tl.pushed.filter fun x => x != (h, j, e.beat) && decide ((beatDiff e.beat x.2.2).natAbs < 128)
    { s := if s.debug then s.setTile t q { tl with pushed := (h, j, e.beat) :: recent } else s, rf := rf, stop := none }

/-- HPUSH. -/
def execHpush (u : Seat) (f : AnvilFields) (s : State) : Host.Outcome State Fault Refusal := anvil 0x13 hpushBody u f s

/-- HLD: D ← word j of the entry of k beats ago (R150). DESIGN CHOICE (notes/assumptions/100.md): the detail of an RBW_HISTORY
record holds h above bit 4 and j below it. -/
def hldBody (c : ReadCheck) : Body := fun e f s rf =>
  let t := e.t
  let q := e.q
  let h := xf f 0 4
  let j := xf f 4 4
  let k := xf f 8 16
  match histWord e s h j k rf with
  | none => { s := s, rf := rf, stop := none }
  | some w =>
    let s := if k = 0 ∧ !(s.tile t q).pushed.contains (h, j, e.beat) then
        hazard s 5 e.beat (tagForging rf.it) q t e.slot 0 (h * 16 + j)
      else s
    loadInto f rf (tileWorking s t q w c e.beat)

/-- HLD. -/
def execHld (u : Seat) (f : AnvilFields) (e : ReadCheck) (s : State) : Host.Outcome State Fault Refusal :=
  anvil 0x14 (hldBody e) u f s

/-- The 16 lanes that 512 bits hold as raw codes (R141). -/
def rawLanes (bits : Nat) : List (BitVec 32) := (List.range 16).map fun k => BitVec.ofNat 32 (field bits (32 * k) 32)

/-- ACCI: D ← 0, or D ← 512 constant bits (R138, R141). -/
def acciBody : Body := fun e f s rf =>
  if f.x.getLsbD 16 then
    let r := constPair e s (xf f 0 11 + e.off)
    match r.stop with
    | some x => { s := r.s, rf := rf, stop := some x }
    | none =>
      let w := rawBits 512 r
      { s := w.1, rf := orFlags (setAcc rf f.d.toNat (rawLanes w.2.toNat) 0) r.fl, stop := none }
  else { s := s, rf := setAcc rf f.d.toNat (List.replicate 16 0#32) 0, stop := none }

/-- ACCI. -/
def execAcci (u : Seat) (f : AnvilFields) (s : State) : Host.Outcome State Fault Refusal := anvil 0x18 acciBody u f s

end Sys2Proof.Machine
end

