-- ==== Sys2Proof/Machine/AnvilVector.lean ====
section
/-! DEFINITION. Dot products, accumulators, element-wise arithmetic, conversion, lookup, compare and masks
(R139 to R146). -/

namespace Sys2Proof.Machine

/-- An instruction that writes D as a whole word formed in FMT. -/
def vecBody (g : Fmt → (Nat → Rnd) → AnvilFields → Regfile → WordOut) : Body := regBody fun rnd f rf =>
  match fmtOf f with
  | none => (rf, 0)
  | some m =>
    let o := g m rnd f rf
    (setV rf f.d.toNat (BitVec.ofNat 256 o.word), o.clamps)

/-- Class 9 of the hazard detector: an accumulator read as another kind than it was written as (Table 6.6). -/
def kindHazard (e : Exec) (s : State) (rf : Regfile) (acc : Nat) (fp : Bool) : State :=
  let k := listGet 0 rf.kinds (acc % 4)
  if e.onTile && (k == 1 && fp || k == 2 && !fp) then hazard s 9 e.beat (tagForging rf.it) e.q e.t e.slot 0 0 else s

/-- The second operand of DOT: a register pair, or two constant words (R140). -/
def dotSecond (e : Exec) (f : AnvilFields) (s : State) (rf : Regfile) : MemRead :=
  if f.x.getLsbD 11 then { s := s, data := vPair rf f.b.toNat, fl := 0#5, poison := false, stop := none }
  else constPair e s (xf f 0 11 + e.off)

/-- DOT: products of 512 bits added to the lanes of D, one rounding each (R140). -/
def dotBody : Body := fun e f s rf =>
  match fmtOf f with
  | none => { s := s, rf := rf, stop := none }
  | some m =>
    let fp := dotIsFp m
    let r := dotSecond e f (kindHazard e s rf f.d.toNat fp) rf
    match r.stop with
    | some x => { s := r.s, rf := rf, stop := some x }
    | none =>
      let o := dotLanes m (e.rnd f) (vPair rf f.a.toNat) (inFormat m 2 r) (accReg rf f.d.toNat)
      { s := countClamps e.u r.s o.2, rf := orFlags (setAcc rf f.d.toNat o.1 (if fp then 2 else 1)) r.fl, stop := none }

/-- DOT. -/
def execDot (u : Seat) (f : AnvilFields) (s : State) : Host.Outcome State Fault Refusal := anvil 0x19 dotBody u f s

/-- An instruction that reads an accumulator of the kind X[8] and writes D in FMT (R141). -/
def accBody (g : Fmt → (Nat → Rnd) → AnvilFields → Regfile → WordOut) : Body := fun e f s rf =>
  vecBody g e f (kindHazard e s rf f.a.toNat (f.x.getLsbD 8)) rf

/-- ACCOUT: lanes × 2^−s into elements of D (R141). -/
def accoutBody : Body := accBody fun m rnd f rf =>
  accOut m (f.x.getLsbD 8) rnd (xf f 0 5) (xf f 9 3) (accReg rf f.a.toNat) (vReg rf f.d.toNat).toNat

/-- ACCOUT. -/
def execAccout (u : Seat) (f : AnvilFields) (s : State) : Host.Outcome State Fault Refusal := anvil 0x1A accoutBody u f s

/-- ACCRED: the sum of the lanes × 2^−s into one element of D (R141). -/
def accredBody : Body := accBody fun m rnd f rf =>
  accRed m (f.x.getLsbD 8) rnd (xf f 0 5) (xf f 9 7) (accReg rf f.a.toNat) (vReg rf f.d.toNat).toNat

/-- ACCRED. -/
def execAccred (u : Seat) (f : AnvilFields) (s : State) : Host.Outcome State Fault Refusal := anvil 0x1B accredBody u f s

/-- An element-wise operation on A, B and D (R139). -/
def elemBody (g : AnvilFields → Num → Num → Num → Num) : Body := vecBody fun m rnd f rf =>
  mapElems m rnd (g f) (vReg rf f.a.toNat).toNat (vReg rf f.b.toNat).toNat (vReg rf f.d.toNat).toNat

/-- VADD: a + b. -/
def execVadd (u : Seat) (f : AnvilFields) (s : State) : Host.Outcome State Fault Refusal :=
  anvil 0x20 (elemBody fun _ a b _ => a.add b) u f s

/-- VSUB: a − b. -/
def execVsub (u : Seat) (f : AnvilFields) (s : State) : Host.Outcome State Fault Refusal :=
  anvil 0x21 (elemBody fun _ a b _ => a.add b.neg) u f s

/-- VMUL: a × b. -/
def execVmul (u : Seat) (f : AnvilFields) (s : State) : Host.Outcome State Fault Refusal :=
  anvil 0x22 (elemBody fun _ a b _ => a.mul b) u f s

/-- VFMA: a × b + d with one rounding. -/
def execVfma (u : Seat) (f : AnvilFields) (s : State) : Host.Outcome State Fault Refusal :=
  anvil 0x23 (elemBody fun _ a b d => (a.mul b).add d) u f s

/-- VMAX: the larger of a and b. -/
def execVmax (u : Seat) (f : AnvilFields) (s : State) : Host.Outcome State Fault Refusal :=
  anvil 0x24 (elemBody fun _ a b _ => a.max b) u f s

/-- VMIN: the smaller of a and b. -/
def execVmin (u : Seat) (f : AnvilFields) (s : State) : Host.Outcome State Fault Refusal :=
  anvil 0x25 (elemBody fun _ a b _ => a.min b) u f s

/-- VSHR: a × 2^−t, t signed. -/
def execVshr (u : Seat) (f : AnvilFields) (s : State) : Host.Outcome State Fault Refusal :=
  anvil 0x26 (elemBody fun f a _ _ => a.scale (-(signed 6 (xf f 0 6)))) u f s

/-- VCVT: conversion of a group (R142). -/
def vcvtBody : Body := vecBody fun m rnd f rf =>
  match srcOf f with
  | none => { word := (vReg rf f.d.toNat).toNat, clamps := 0 }
  | some src => vConvert src m rnd (xf f 8 3) (xf f 11 3) (vReg rf f.a.toNat).toNat (vReg rf f.d.toNat).toNat

/-- VCVT. -/
def execVcvt (u : Seat) (f : AnvilFields) (s : State) : Host.Outcome State Fault Refusal := anvil 0x27 vcvtBody u f s

/-- VBC: an immediate, or an element of A, in every element (R142). -/
def vbcBody : Body := vecBody fun m _ f rf =>
  { word := broadcast m (if f.x.getLsbD 16 then immCode m (xf f 0 16) else getElem m (vReg rf f.a.toNat).toNat (xf f 0 7))
    clamps := 0 }

/-- VBC. -/
def execVbc (u : Seat) (f : AnvilFields) (s : State) : Host.Outcome State Fault Refusal := anvil 0x28 vbcBody u f s

/-- VSLIDE: element j ← element j + t of A:B (R142). -/
def vslideBody : Body := vecBody fun m _ f rf =>
  { word := vSlide m (xf f 0 8) (vReg rf f.a.toNat).toNat (vReg rf f.b.toNat).toNat, clamps := 0 }

/-- VSLIDE. -/
def execVslide (u : Seat) (f : AnvilFields) (s : State) : Host.Outcome State Fault Refusal := anvil 0x29 vslideBody u f s

/-- The table entries that a lookup reads: those of its valid source elements, and the next one where it interpolates
(R143). -/
def lutEntries (src m : Fmt) (interp : Bool) (gs a : Nat) : List Nat :=
  let c := min src.count m.count
  (List.range c).flatMap fun i =>
    let x := getElem src a (c * gs + i)
    if isInvalid src x then []
    else
      let k := (lutIndex src x).1
      if interp && src.width == 16 then [k, k + 1] else [k]

/-- The words of a table, read in ascending order: word number and bits, with the state and flags after them. -/
def readTable (e : Exec) (s : State) (m : Fmt) (base : Nat) (entries : List Nat) : MemRead × List (Nat × Nat) :=
  let words := (List.range 64).filter fun w => entries.any fun k => k / m.count == w
  words.foldl (fun (r : MemRead × List (Nat × Nat)) w =>
    match r.1.stop with
    | some _ => r
    | none =>
      let x := constWord e r.1.s (base + w)
      ({ x with fl := r.1.fl ||| x.fl }, (w, inFormat m 1 x) :: r.2))
    ({ s := s, data := 0, fl := 0#5, poison := false, stop := none }, [])

/-- LUT and LUTI: a lookup of a group of A in a table of constants (R143). -/
def lookupBody (interp : Bool) : Body := fun e f s rf =>
  match fmtOf f, srcOf f with
  | some m, some src =>
    let a := (vReg rf f.a.toNat).toNat
    let d := (vReg rf f.d.toNat).toNat
    let gs := xf f 19 3
    let gd := xf f 22 3
    let r := readTable e s m (xf f 8 11 + e.off) (lutEntries src m interp gs a)
    match r.1.stop with
    | some x => { s := r.1.s, rf := rf, stop := some x }
    | none =>
      let entry (k : Nat) : Nat := getElem m (tabGet 0 r.2 (k / m.count)) (k % m.count)
      let o := if interp then vLuti src m (e.rnd f) entry gs gd a d else vLut src m entry gs gd a d
      { s := countClamps e.u r.1.s o.clamps, rf := orFlags (setV rf f.d.toNat (BitVec.ofNat 256 o.word)) r.1.fl, stop := none }
  | _, _ => { s := s, rf := rf, stop := none }

/-- LUT. -/
def execLut (u : Seat) (f : AnvilFields) (s : State) : Host.Outcome State Fault Refusal := anvil 0x2C (lookupBody false) u f s

/-- LUTI. -/
def execLuti (u : Seat) (f : AnvilFields) (s : State) : Host.Outcome State Fault Refusal := anvil 0x2D (lookupBody true) u f s

/-- A mask written to D and, where k ≠ 0, predicate k (R144). -/
def writeMask (rf : Regfile) (d k : Nat) (all : Bool) (n : Nat) (mask : List Nat) : Regfile :=
  let rf := setV rf d (BitVec.ofNat 256 (packElems .uint1 mask))
  setP rf k (maskPred all n mask)

/-- CMP: a mask of comparisons, and a predicate of it (R144). -/
def cmpBody : Body := regBody fun _ f rf =>
  match fmtOf f with
  | none => (rf, 0)
  | some m =>
    (writeMask rf f.d.toNat (xf f 4 3) (f.x.getLsbD 7) m.count
      (cmpMask m (xf f 0 3) (vReg rf f.a.toNat).toNat (vReg rf f.b.toNat).toNat), 0)

/-- CMP. -/
def execCmp (u : Seat) (f : AnvilFields) (s : State) : Host.Outcome State Fault Refusal := anvil 0x30 cmpBody u f s

/-- TESTV: a mask of invalid elements, and ANY of it (R144). -/
def testvBody : Body := regBody fun _ f rf =>
  match fmtOf f with
  | none => (rf, 0)
  | some m => (writeMask rf f.d.toNat (xf f 4 3) false m.count (testMask m (vReg rf f.a.toNat).toNat), 0)

/-- TESTV. -/
def execTestv (u : Seat) (f : AnvilFields) (s : State) : Host.Outcome State Fault Refusal := anvil 0x31 testvBody u f s

/-- SEL: elements of A or B by a mask register (R144). -/
def selBody : Body := vecBody fun m _ f rf =>
  { word := vSelect m (vReg rf (xf f 0 4)).toNat (vReg rf f.a.toNat).toNat (vReg rf f.b.toNat).toNat, clamps := 0 }

/-- SEL. -/
def execSel (u : Seat) (f : AnvilFields) (s : State) : Host.Outcome State Fault Refusal := anvil 0x32 selBody u f s

/-- MLOG: logic of two masks (R145). -/
def mlogBody : Body := vecBody fun _ _ f rf =>
  { word := maskLogic (xf f 0 2) (vReg rf f.a.toNat).toNat (vReg rf f.b.toNat).toNat, clamps := 0 }

/-- MLOG. -/
def execMlog (u : Seat) (f : AnvilFields) (s : State) : Host.Outcome State Fault Refusal := anvil 0x33 mlogBody u f s

/-- POPC: the count of ones of a mask, rounded into one element of D (R145). -/
def popcBody : Body := vecBody fun m rnd f rf =>
  let k := xf f 0 7
  putRounded m (vReg rf f.d.toNat).toNat k [roundInto m (rnd k) (popCount (f.x.getLsbD 7) (vReg rf f.a.toNat).toNat)]

/-- POPC. -/
def execPopc (u : Seat) (f : AnvilFields) (s : State) : Host.Outcome State Fault Refusal := anvil 0x34 popcBody u f s

end Sys2Proof.Machine
end

