-- ==== Sys2Proof/Machine/Lanes.lean ====
section
/-! DEFINITION. Receive lanes: signal, locks, PRBS, error injection, headers, landing and alignment (R55 to R72, R74 to
R77). -/

namespace Sys2Proof.Machine

/-- The codes of LANE_STATE (Table 3.5). -/
def lsDown : Nat := 0
def lsBlockHunt : Nat := 1
def lsMarkerHunt : Nat := 2
def lsVerify : Nat := 3
def lsAligned : Nat := 4
def lsSlipped : Nat := 5
def lsWaitHost : Nat := 6
def lsPrbs : Nat := 7

def State.laneSt (s : State) (l : Nat) : Nat := s.reg Reg.laneState l
def State.setLaneSt (s : State) (l v : Nat) : State := s.setReg Reg.laneState l v
def State.modLane (s : State) (l : Nat) (f : Lane → Lane) : State := s.setLane l (f (s.lane l))

/-- Strict mode while RUNNING (Table 3.6). -/
def State.strictRun (s : State) : Bool := s.strict && s.mode == .running

/-- A shoal of the active image (R68). -/
def State.shoalPlan (s : State) (k : Nat) : Option ShoalPlan := s.images.active.bind fun i => i.shoals.find? fun p => p.shoal = k

/-- A lane's shoal in the active image, and its position (R64). -/
def State.laneHome (s : State) (l : Nat) : Option (ShoalPlan × Nat) :=
  s.images.active.bind fun i => i.shoals.findSome? fun p => (p.lanes.find? fun x => x.1 = l).map fun x => (p, x.2)

/-! ### What a shoal keeps of a beat -/

def State.shoalBeat (s : State) (k : Nat) (b : Beat) : ShoalBeat :=
  ((s.shoal k).beats.find? fun x => x.beat = b).getD
    { beat := b, degraded := none, overfull := none, trunc := 0, released := [] }

def State.setShoalBeat (s : State) (k : Nat) (v : ShoalBeat) : State :=
  let x := s.shoal k
  s.setShoal k { x with beats := v :: x.beats.filter fun y => y.beat != v.beat }

/-- The earlier of two cycles, where either may be absent. -/
def earlier (a : Option Nat) (t : Nat) : Option Nat := some (match a with | some x => min x t | none => t)

/-- From cycle `t` the shoal sets DEGRADED on its tokens of a beat; the beat is counted once (R70). -/
def degrade (s : State) (k : Nat) (b : Beat) (t : Nat) : State :=
  let x := s.shoalBeat k b
  let s := if x.degraded.isNone then s.count Reg.shoalDegradedBeats k 64 else s
  s.setShoalBeat k { x with degraded := earlier x.degraded t }

/-- From cycle `t` the shoal sets OVERFULL on its tokens of a beat; the beat is counted once (R72). -/
def overfill (s : State) (k : Nat) (b : Beat) (t : Nat) : State :=
  let x := s.shoalBeat k b
  let s := if x.overfull.isNone then s.count Reg.shoalOverfullBeats k 64 else s
  s.setShoalBeat k { x with overfull := earlier x.overfull t }

/-! ### Alignment (R66 to R70) -/

/-- The lane's shoal, if it has one in the active image, becomes DEGRADED in the beat in progress from now on. -/
def degradeHome (s : State) (l : Nat) : State :=
  match s.laneHome l with
  | some (p, _) => degrade s p.shoal s.beat.n s.clocks.cycle
  | none => s

/-- The lane leaves ALIGNED for a state (R70). -/
def leaveAligned (s : State) (l st : Nat) : State :=
  let s := if s.laneSt l = lsAligned then degradeHome s l else s
  let s := s.modLane l fun x => { x with leftAt := if s.laneSt l = lsAligned then some s.clocks.cycle else x.leftAt, crcValid := false }
  s.setLaneSt l st

/-- Underrun, header out of sequence, inconsistent marker or overflow in ALIGNED (Table 3.6). -/
def loseAlign (s : State) (l : Nat) : State :=
  if s.laneSt l = lsAligned then leaveAligned s l (if s.strictRun then lsWaitHost else lsSlipped) else s

/-- The lane enters ALIGNED and delivers from beat `b`; an arming ends (R67, R68). -/
def intoAligned (s : State) (l : Nat) (b : Beat) : State :=
  let s := s.modLane l fun x => { x with armed := false, alignedFrom := b, words := [], verify := 0 }
  s.setLaneSt l lsAligned

/-- Every block in flight is forgotten when a lane loses its signal or its locks. -/
def Lane.unframed (x : Lane) : Lane :=
  { x with verify := 0, beat := none, count := 0, crcValid := false, alignA := none, ferryPart := [], ferrySeq := none,
           fecOut := [], fecBad := 0 }

/-- DOWN goes onward with the lane enabled and signal present, BLOCK_HUNT with its locks (Table 3.6, R80). -/
def laneOnward (s : State) (l : Nat) : State :=
  let x := s.lane l
  let s :=
    if s.laneSt l = lsDown ∧ s.flag Reg.laneEnable l ∧ x.signal then
      s.setLaneSt l (if s.reg Reg.laneRole l = 2 then lsPrbs else lsBlockHunt)
    else s
  if s.laneSt l = lsBlockHunt ∧ x.blockLock ∧ (!s.flag Reg.laneFec l ∨ x.fecLock) then s.setLaneSt l lsMarkerHunt else s

/-- The lane goes DOWN: its locks and its pattern checker are lost. -/
def laneDown (s : State) (l : Nat) : State :=
  let s := leaveAligned s l lsDown
  let s := s.modLane l fun x => { x.unframed with blockLock := false, fecLock := false, prbs := Prbs.idle }
  s.setReg Reg.lanePrbsLock l 0

/-- Loss of block or FEC lock: MARKER_HUNT to WAIT_HOST go to BLOCK_HUNT (Table 3.6). -/
def loseLock (s : State) (l : Nat) : State :=
  let st := s.laneSt l
  let s := if lsMarkerHunt ≤ st ∧ st ≤ lsWaitHost then leaveAligned s l lsBlockHunt else s
  s.modLane l Lane.unframed

/-- The harbour, the optical group and the lane bank of a lane are ON (R399). -/
def State.lanePowered (s : State) (l : Nat) : Bool :=
  s.domainOn (64 + l / 64) && s.domainOn (96 + l / 64) && s.domainOn (112 + l / 64)

/-- SIGNAL_PRESENT: a lane without power sees none. -/
def execSignalPresent (lane : Nat) (s : State) : Host.Outcome State Fault Refusal :=
  onUnit (s.hasLane lane) s (laneOnward (s.modLane lane fun x => { x with signal := s.lanePowered lane }) lane)

/-- LOSS_OF_SIGNAL. -/
def execLossOfSignal (lane : Nat) (s : State) : Host.Outcome State Fault Refusal :=
  onUnit (s.hasLane lane) s (laneDown (s.modLane lane fun x => { x with signal := false }) lane)

/-- Sync headers at a candidate position, with what an injected error flips in the first (R77). -/
def flipSync (hs : List (BitVec 2)) (n : Nat) : List (BitVec 2) :=
  match hs with
  | [] => []
  | h :: rest => (if n = 0 then h else h ^^^ 2#2) :: rest

/-- The bits that an injected error flips in what the lane takes now, and the lane with the shot used. -/
def takeInject (s : State) (l : Nat) : Nat × State :=
  ((s.lane l).injectBits, s.modLane l fun x => { x with injectBits := 0 })

/-- BLOCK_LOCK: the sync headers at a candidate position gain block lock by the rule of Clause 49, with the FEC on the blocks
that it has decoded (R56, R66, R75). -/
def blockLocks (s : State) (l : Nat) (hs : List (BitVec 2)) : State :=
  let x := takeInject s l
  if gainsBlockLock (flipSync hs x.1) ∧ (s.lane l).signal ∧ (!s.flag Reg.laneFec l ∨ (s.lane l).fecLock) then
    laneOnward (x.2.modLane l fun x => { x with blockLock := true }) l
  else x.2

/-- BLOCK_LOCK. -/
def execBlockLock (lane : Nat) (sync : List (BitVec 2)) (s : State) : Host.Outcome State Fault Refusal :=
  onUnit (s.hasLane lane) s (blockLocks s lane sync)

/-- BLOCK_LOCK_LOSS: the sync headers of the lane's blocks lose block lock by the rule of Clause 49 (R56, R66). -/
def blockUnlocks (s : State) (l : Nat) (hs : List (BitVec 2)) : State :=
  let x := takeInject s l
  if losesBlockLock (flipSync hs x.1) then loseLock (x.2.modLane l fun x => { x with blockLock := false }) l else x.2

/-- BLOCK_LOCK_LOSS. -/
def execBlockLockLoss (lane : Nat) (sync : List (BitVec 2)) (s : State) : Host.Outcome State Fault Refusal :=
  onUnit (s.hasLane lane) s (blockUnlocks s lane sync)

/-- Symbols with the first `n` bits flipped. -/
def flipSymbols (xs : List Nat) (n : Nat) : List Nat :=
  match xs with
  | [] => []
  | x :: rest => (x ^^^ ((2 ^ n - 1) * 2 ^ (10 - n))) :: rest

/-- Do the last 4 interleaves at a candidate boundary gain FEC lock: both codewords of each have a zero syndrome (R75). -/
def gainsFecLock (xs : List (List Nat)) : Bool := decide (4 ≤ xs.length) && (xs.drop (xs.length - 4)).all isClean

/-- FEC_LOCK: from BLOCK_HUNT, of a lane with LANE_FEC set; block lock is then taken on the decoded blocks (R75). -/
def fecLocks (s : State) (l : Nat) (xs : List (List Nat)) : State :=
  let x := takeInject s l
  let ys := match xs with | [] => [] | y :: rest => flipSymbols y x.1 :: rest
  if s.flag Reg.laneFec l ∧ (s.lane l).signal ∧ s.laneSt l = lsBlockHunt ∧ gainsFecLock ys then
    x.2.modLane l fun x => { x with fecLock := true, blockLock := false, fecBad := 0 }
  else x.2

/-- FEC_LOCK. -/
def execFecLock (lane : Nat) (interleaves : List (List Nat)) (s : State) : Host.Outcome State Fault Refusal :=
  onUnit (s.hasLane lane) s (fecLocks s lane interleaves)

/-- FEC_LOCK_LOSS: after 8 interleaves in a row with an uncorrectable codeword; block lock stands on the decoded blocks and
goes with it (R75). -/
def fecUnlocks (s : State) (l : Nat) : State :=
  if s.flag Reg.laneFec l ∧ 8 ≤ (s.lane l).fecBad then
    loseLock (s.modLane l fun x => { x with fecLock := false, blockLock := false }) l
  else s

/-- FEC_LOCK_LOSS. -/
def execFecLockLoss (lane : Nat) (s : State) : Host.Outcome State Fault Refusal :=
  onUnit (s.hasLane lane) s (fecUnlocks s lane)

/-- What a write of LANE_ENABLE, LANE_RATE, LANE_FEC or LANE_ROLE does beyond the object; `old` is its value before
(Table 3.6). -/
def laneWritten (s : State) (l sub old v : Nat) : State :=
  if sub = 1 then (if v = 0 then laneDown s l else laneOnward s l)
  else if sub ≤ 4 ∧ old ≠ v ∧ s.flag Reg.laneEnable l then laneOnward (laneDown s l) l
  else s

/-! ### Patterns and injected errors (R76, R77) -/

/-- The first `n` of a list of bits flipped. -/
def flipBits (n : Nat) : List Bool → List Bool
  | [] => []
  | b :: bs => if n = 0 then b :: bs else (!b) :: flipBits (n - 1) bs

/-- Bits at the pattern checker of a lane of role PRBS: it counts from its lock onward (R76). -/
def prbsBits (s : State) (l : Nat) (bs : List Bool) : State :=
  if s.laneSt l = lsPrbs then
    let y := Prbs.takeAll (s.reg Reg.lanePrbsPoly l) bs ((s.lane l).prbs, 0, 0)
    let s := (s.count Reg.lanePrbsBits l 64 y.2.1).count Reg.lanePrbsErrors l 64 y.2.2
    (s.modLane l fun x => { x with prbs := y.1 }).setReg Reg.lanePrbsLock l (ofBool y.1.locked)
  else s

/-- PRBS_LOCK: with these bits the checker may lock. -/
def execPrbsLock (lane : Nat) (bits : List Bool) (s : State) : Host.Outcome State Fault Refusal :=
  let x := takeInject s lane
  onUnit (s.hasLane lane) s (prbsBits x.2 lane (flipBits x.1 bits))

/-- PRBS_LOCK_LOSS: with these bits the checker may lose its lock. -/
def execPrbsLockLoss (lane : Nat) (bits : List Bool) (s : State) : Host.Outcome State Fault Refusal :=
  let x := takeInject s lane
  onUnit (s.hasLane lane) s (prbsBits x.2 lane (flipBits x.1 bits))

/-- The injection mode of a lane. -/
def injectMode (s : State) (tx : Bool) (l : Nat) : Nat := s.reg (if tx then Reg.xlaneInjectMode else Reg.laneInjectMode) l

/-- One injected error, a burst of 8 bits where bit 2 of the mode says so: on a transmit lane in the next bits before the
serializer, on a receive lane in the next that the deserializer gives (R77; notes/assumptions/21.md). -/
def injectError (s : State) (tx : Bool) (l : Nat) : State :=
  let bits := if bit (injectMode s tx l) 2 then 8 else 1
  if tx then s.setXlane l { s.xlane l with inject := bits }
  else s.modLane l fun x => { x with injectBits := bits, injectCount := x.injectCount + 1 }

/-- A write of 1 to LANE_INJECT_FIRE: an error in mode SINGLE. -/
def injectFired (s : State) (tx : Bool) (l : Nat) : State := if injectMode s tx l % 4 = 1 then injectError s tx l else s

/-- The core cycle from which the present period of injected errors runs, and its length of 2^k line bits in core cycles at
the lane's rate (R77; Table 3.1). -/
def injectSince (s : State) (tx : Bool) (l : Nat) : Nat := if tx then (s.xlane l).injectAt else (s.lane l).injectAt
def injectCycles (s : State) (tx : Bool) (l : Nat) : Nat :=
  2 ^ s.reg (if tx then Reg.xlaneInjectPeriod else Reg.laneInjectPeriod) l / rateBits (s.reg (if tx then Reg.xlaneRate else Reg.laneRate) l)

/-- A period of injected errors runs from a core cycle. -/
def injectFrom (s : State) (tx : Bool) (l at' : Nat) : State :=
  if tx then s.setXlane l { s.xlane l with injectAt := at' } else s.modLane l fun x => { x with injectAt := at' }

/-- The period of the mode PERIODIC passes, and an error is injected (R77). -/
def injectPeriod (s : State) (tx : Bool) (l : Nat) : State :=
  if injectMode s tx l % 4 = 2 then
    let due := injectSince s tx l + injectCycles s tx l
    injectFrom (injectError (s.runTo due) tx l) tx l due
  else s

/-- INJECT_PERIODIC. -/
def execInjectPeriodic (tx : Bool) (lane : Nat) (s : State) : Host.Outcome State Fault Refusal :=
  onUnit (if tx then s.hasXlane lane else s.hasLane lane) s (injectPeriod s tx lane)

/-- A 64-bit payload with its first `n` bits flipped. -/
def flipWord (w : Word64) (n : Nat) : Word64 := w ^^^ BitVec.ofNat 64 ((2 ^ n - 1) * 2 ^ (64 - n))

/-! ### Words and headers -/

/-- An error of a lane is logged and its test counts it (R371, Table 17.2 kind 4). -/
def laneError (s : State) (l : Nat) : State := detect s (laneUnit l) true 0 0

/-- The release offset of a token of a position (R60). -/
def releaseOffset (p : ShoalPlan) (pos tok : Nat) : Option Nat :=
  ((p.release.find? fun x => x.1 = pos).map Prod.snd).bind fun l => l[tok]?

/-- Does a word that lands now land no later than the cycle before the release of the lane's last token of the beat. -/
def beforeLastRelease (s : State) (p : ShoalPlan) (pos : Nat) (b : Beat) : Bool :=
  if b = s.beat.n then decide (s.clocks.cycle < s.beat.at' + ((releaseOffset p pos (p.width / 4 - 1)).getD 0))
  else beatBefore s.beat.n b

/-- A block that counts as a word lands on an ALIGNED lane (R57, R62, R71, R72). -/
def landWord (s : State) (l : Nat) (w : Word64) (bad : Bool) : State :=
  match s.laneHome l with
  | none => s
  | some (p, pos) =>
    let x := s.lane l
    match x.beat with
    | none => s
    | some b =>
      if s.laneSt l ≠ lsAligned then s
      else
        let now := s.clocks.cycle
        let s := s.modLane l fun x => { x with count := x.count + 1, crc := crc16Bits x.crc w.toNat 64 }
        let s := if bad ∧ x.count < p.width then degrade s p.shoal b now else s
        if p.width ≤ x.count then
          let s := s.count Reg.laneTruncWords l 64
          let s := if x.declared ≤ p.width then overfill s p.shoal b (now + 1) else s
          if beforeLastRelease s p pos b then
            let y := s.shoalBeat p.shoal b
            s.setShoalBeat p.shoal { y with trunc := y.trunc + 1 }
          else s
        else if 512 ≤ x.words.length then loseAlign (s.count Reg.laneOverruns l) l
        else s.modLane l fun x => { x with words := x.words ++ [{ beat := b, idx := x.count - 1, data := w, bad := bad, at' := now }] }

/-- A block with an invalid sync header or an unknown control type (R71). -/
def badBlock (s : State) (l : Nat) (w : Word64) : State :=
  if s.laneSt l = lsAligned then landWord (laneError (s.count Reg.laneBlockErrors l) l) l w true else s

/-- A header is accepted when it names one of the 64 beats after the beat in progress (R62). -/
def headerAccepted (s : State) (b : Beat) : Bool := decide (1 ≤ beatDiff b s.beat.n) && decide (beatDiff b s.beat.n ≤ 64)

/-- The beat whose header ends: its CRC, and whether it ended short (R57, R71). -/
def closeBeat (s : State) (l : Nat) (p : ShoalPlan) (crc : Nat) : State :=
  let x := s.lane l
  match x.beat with
  | none => s
  | some b =>
    let s := if x.crcValid ∧ x.crc ≠ crc then laneError (s.count Reg.laneCrcErrors l) l else s
    if x.count < p.width ∧ p.width ≤ x.declared then degrade (s.count Reg.laneShortBeats l) p.shoal b s.clocks.cycle else s

/-- A time less LANE_STAMP_OFFSET (R63). -/
def portStamp (s : State) (l : Nat) (t : Time96) : Time96 := timeOfUnits (timeUnits t - signed 32 (s.reg Reg.laneStampOffset l))

/-- The beat that an accepted header opens (R63, R71, R72). -/
def openBeat (s : State) (l : Nat) (p : ShoalPlan) (b : Beat) (declared : Nat) (stamp : Time96) : State :=
  let s := s.modLane l fun x =>
    { x with beat := some b, declared := declared, count := 0, crc := 0xFFFF, crcValid := true,
             stamps := (b, portStamp s l stamp) :: x.stamps.filter fun y => decide (0 ≤ beatDiff y.1 s.beat.n) }
  if declared < p.width then degrade (s.count Reg.laneShortBeats l) p.shoal b 0
  else if p.width < declared then overfill s p.shoal b 0
  else s

/-- An inconsistent marker (Table 3.6). -/
def inconsistentMarker (s : State) (l : Nat) : State :=
  if s.laneSt l = lsVerify then (s.modLane l fun x => { x with verify := 0 }).setLaneSt l lsMarkerHunt else loseAlign s l

/-- Does a beat lie on a shoal's marker period (R58). -/
def isMarkerBeat (p : ShoalPlan) (b : Beat) : Bool := b.toNat % p.marker == 0

/-- Is a header the one that an ALIGNED lane expects next. -/
def isNextHeader (s : State) (l : Nat) (b : Beat) : Bool := (s.lane l).beat == some (b - 1#48)

/-- A BEAT block lands (R58, R62, R66). -/
def beatBlock (s : State) (l : Nat) (w : Word64) (stamp : Time96) : State :=
  match s.laneHome l with
  | none => s
  | some (p, _) =>
    let b := rebuildBeat s.beat.n (w.extractLsb' 40 16)
    let st := s.laneSt l
    if st < lsVerify ∨ st = lsPrbs then s
    else if isMarkerBeat p b then inconsistentMarker s l
    else if st ≠ lsAligned then s
    else if headerAccepted s b && isNextHeader s l b then
      openBeat (closeBeat s l p (field w.toNat 0 16)) l p b (field w.toNat 16 16) stamp
    else loseAlign s l

/-- BEAT_HEADER: its first bit passed the deserializer `age` 1/64 core cycles ago (R36, R63). -/
def execBeatHeader (lane : Nat) (w : Word64) (age : Nat) (s : State) : Host.Outcome State Fault Refusal :=
  let x := takeInject s lane
  onUnit (s.hasLane lane) s (if x.1 = 0 then beatBlock x.2 lane w (s.stampAt age 64) else badBlock x.2 lane (flipWord w x.1))

/-- Is a marker consistent (R66). -/
def markerOk (s : State) (l : Nat) (p : ShoalPlan) (pos : Nat) (a : Word64) (b : Option Word64) : Bool :=
  let beat := a.extractLsb' 0 48
  match b with
  | none => false
  | some b =>
    field a.toNat 48 8 == p.shoal && field b.toNat 50 6 == pos && headerAccepted s beat && isMarkerBeat p beat
      && (s.laneSt l != lsAligned || isNextHeader s l beat)

/-- A lane that a consistent marker brings into ALIGNED from the marker's beat. -/
def alignFrom (s : State) (l : Nat) (p : ShoalPlan) (beat : Beat) (declared : Nat) (stamp : Time96) : State :=
  openBeat (intoAligned s l beat) l p beat declared stamp

/-- A consistent marker (Table 3.6). -/
def consistentMarker (s : State) (l : Nat) (p : ShoalPlan) (beat : Beat) (declared crc : Nat) (stamp : Time96) : State :=
  let x := s.lane l
  let st := s.laneSt l
  if st = lsMarkerHunt then (s.modLane l fun x => { x with verify := 0 }).setLaneSt l lsVerify
  else if st = lsVerify then
    if x.verify + 1 < s.reg Reg.shoalVerifyCount p.shoal then s.modLane l fun x => { x with verify := x.verify + 1 }
    else if s.strictRun ∧ !x.armed then s.setLaneSt l lsWaitHost
    else alignFrom s l p beat declared stamp
  else if st = lsAligned then openBeat (closeBeat s l p crc) l p beat declared stamp
  else if st = lsSlipped then alignFrom s l p beat declared stamp
  else if st = lsWaitHost ∧ x.armed ∧ 0 ≤ beatDiff beat x.armBeat then alignFrom s l p beat declared stamp
  else s

/-- An ALIGN_A block, with the ALIGN_B block that follows it if one does (R66, R68). -/
def alignBlock (s : State) (l : Nat) (a : Word64) (b : Option Word64) (stamp : Time96) : State :=
  match s.laneHome l with
  | none => s
  | some (p, pos) =>
    let w := (b.getD 0#64).toNat
    if s.laneSt l < lsMarkerHunt ∨ s.laneSt l = lsPrbs then s
    else if markerOk s l p pos a b then consistentMarker s l p (a.extractLsb' 0 48) (field w 16 16) (field w 0 16) stamp
    else inconsistentMarker s l

/-- ALIGN_MARKER. -/
def execAlignMarker (lane : Nat) (a : Word64) (b : Option Word64) (age : Nat) (s : State) : Host.Outcome State Fault Refusal :=
  let x := takeInject s lane
  onUnit (s.hasLane lane) s (if x.1 = 0 then alignBlock x.2 lane a b (s.stampAt age 64) else badBlock x.2 lane (flipWord a x.1))

/-- FILL_BLOCK: the elastic buffer passes none into the landing buffer (R62). -/
def execFillBlock (lane : Nat) (s : State) : Host.Outcome State Fault Refusal :=
  let x := takeInject s lane
  onUnit (s.hasLane lane) s (if x.1 = 0 then x.2 else badBlock x.2 lane (flipWord 0xC400000000000000#64 x.1))

/-- An ALIGN_A that no ALIGN_B followed is an inconsistent marker. -/
def flushAlignA (s : State) (l : Nat) : State :=
  match (s.lane l).alignA with
  | none => s
  | some (a, t) => alignBlock (s.modLane l fun x => { x with alignA := none }) l a none t

end Sys2Proof.Machine
end

