-- ==== Sys2Proof/Machine/Shoals.lean ====
section
/-! DEFINITION. Shoals: beat stamps, the release of tokens with their tags and flags, underruns, replay injection and the
staging of payload (R60, R63, R65, R69, R70, R88, R105, R108, R166, R365, R366). -/

namespace Sys2Proof.Machine

/-! ### What a run says of a beat -/

/-- Has a beat a verdict: it lies in the present run (R162; Table 2.7). -/
def State.hasVerdict (s : State) (n : Beat) : Bool :=
  match s.run.first with
  | none => false
  | some f => !beatBefore n f && (match s.run.stopAt with | none => true | some z => beatBefore n z)

/-- The plane that a forging runs a beat on, none for a beat before its first (R105). -/
def State.planeFor (s : State) (f : Nat) (n : Beat) : Option Bool :=
  ((s.quench f).planes.find? fun x => !beatBefore n x.1).map Prod.snd

/-- Does PRIMING hold for a beat of a plane: it lies in [a, a + D) (R108). -/
def isPriming (s : State) (f : Nat) (q : Bool) (n : Beat) : Bool :=
  let d := beatDiff n (s.plane f q).first
  decide (0 ≤ d) && decide (d < s.primeDepth f q)

/-- The cycle of a boundary: one that has passed, or one to come at the period in force. -/
def State.boundaryAt (s : State) (n : Beat) : Nat :=
  match s.beat.past.find? fun x => x.1 = n with
  | some x => x.2
  | none => ((s.beat.at' : Int) + beatDiff n s.beat.n * s.beat.period).toNat

/-- T of a forging for a beat: the target of the plane that the beat runs on (R105, R161). -/
def State.targetFor (s : State) (f : Nat) (n : Beat) : Nat :=
  match s.planeFor f n with
  | some q => ((s.plane f q).plan.map ForgingPlan.target).getD 0
  | none => 0

/-- The issue cycle of a beat's first record: boundary(n) + T (R162). -/
def State.verdictCycle (s : State) (f : Nat) (n : Beat) : Nat := s.boundaryAt n + s.targetFor f n

/-- The beat whose first record a forging issues next: the earliest issue cycle, then the earliest beat (R105). -/
def State.nextIssue (s : State) (f : Nat) : Option Beat :=
  (s.quench f).toIssue.foldl (fun (r : Option Beat) n =>
    match r with
    | none => some n
    | some m => if s.verdictCycle f n < s.verdictCycle f m then some n else some m) none

/-! ### Stamps (R63, R65) -/

/-- Is a lane ALIGNED for a beat. -/
def alignedFor (s : State) (l : Nat) (n : Beat) : Bool := s.laneSt l == lsAligned && !beatBefore n (s.lane l).alignedFrom

/-- Lanes of a shoal in order of position. -/
def byPosition (p : ShoalPlan) : List (Nat × Nat) :=
  (List.range 64).filterMap fun k => p.lanes.find? fun x => x.2 = k

/-- The shoal's beat stamp: that of its ALIGNED lane of lowest position (R63). -/
def laneStamp (s : State) (p : ShoalPlan) (n : Beat) : Option Time96 :=
  ((byPosition p).find? fun x => alignedFor s x.1 n).bind fun x =>
    ((s.lane x.1).stamps.find? fun y => y.1 = n).map Prod.snd

/-- At boundary n every shoal of the active image takes its beat stamp; what it keeps of old beats is dropped. -/
def takeStamps (s : State) : State :=
  match s.images.active with
  | none => s
  | some i => i.shoals.foldl (fun s p =>
      let x := s.shoal p.shoal
      let old := x.stamps.take 200
      let st := match laneStamp s p s.beat.n with
        | some t => (s.beat.n, t) :: old
        | none => old
      s.setShoal p.shoal { x with stamps := st, beats := x.beats.filter fun y => decide (beatDiff s.beat.n y.beat ≤ 200) }) s

/-! ### Replay (R365, R366) -/

def State.replaying (s : State) : Bool := s.flag Reg.detReplayEnable

/-- First beat, and number of beats, of DET_REPLAY_DATA. -/
def replayFirst (d : List Byte) : Beat := BitVec.ofNat 48 (leAt d 8 8)
def replayCount (d : List Byte) : Nat := leAt d 16 4

/-- Bytes of a shoal in a beat entry. -/
def replayShoalBytes (p : ShoalPlan) : Nat := 24 + 8 * p.width * p.lanes.length

/-- Shoals in ascending number. -/
def byShoal (ps : List ShoalPlan) : List ShoalPlan := (List.range 256).filterMap fun k => ps.find? fun p => p.shoal = k

/-- Bytes of a beat entry. -/
def replayEntryBytes (ps : List ShoalPlan) : Nat := (ps.map replayShoalBytes).sum

/-- Does DET_REPLAY_DATA hold the layout of R365 for an image's shoals. -/
def replayOk (d : List Byte) (ps : List ShoalPlan) : Bool :=
  leAt d 0 4 == 0x59504C52 && leAt d 4 2 == 1 && leAt d 6 2 == 0 && leAt d 14 2 == 0 && (slice d 20 44).all (· == 0#8)
    && d.length == 64 + replayCount d * replayEntryBytes ps

/-- Offset of a shoal's part of the entry of beat n, none outside the recorded beats. -/
def replayOffset (s : State) (p : ShoalPlan) (n : Beat) : Option Nat :=
  let d := s.domain Reg.detReplayData
  let ps := byShoal ((s.images.active.map ImagePlan.shoals).getD [])
  let k := beatDiff n (replayFirst d)
  if 0 ≤ k ∧ k < replayCount d then
    some (64 + k.toNat * replayEntryBytes ps + ((ps.takeWhile fun x => x.shoal ≠ p.shoal).map replayShoalBytes).sum)
  else none

/-- The beat stamp that a quench sees of a shoal (R63, R366). -/
def State.shoalStamp (s : State) (k : Nat) (n : Beat) : Option Time96 :=
  if s.replaying then
    match (s.shoalPlan k).bind fun p => replayOffset s p n with
    | some o => if leAt (s.domain Reg.detReplayData) (o + 12) 1 % 2 = 1 then none else some (unpackTime (leAt (s.domain Reg.detReplayData) o 12))
    | none => none
  else ((s.shoal k).stamps.find? fun x => x.1 = n).map Prod.snd

/-- Words that a shoal discarded from a beat (R72, R365). -/
def State.shoalTrunc (s : State) (k : Nat) (n : Beat) : Nat :=
  if s.replaying then
    match (s.shoalPlan k).bind fun p => replayOffset s p n with
    | some o => leAt (s.domain Reg.detReplayData) (o + 13) 1
    | none => 0
  else (s.shoalBeat k n).trunc

/-! ### Release (R60, R69, R70) -/

/-- What the shoal releases as one token before its tag: four words, DEGRADED, OVERFULL, REPLAY. -/
structure Release where
  words : List Word64
  degraded : Bool
  overfull : Bool
  replay : Bool

/-- The invalid code of a format descriptor, as the `i`-th 64-bit word of a token. -/
def invalidPart (desc i : Nat) : Word64 := BitVec.ofNat 64 ((invalidWord ((Fmt.ofDesc desc).getD .uint1)) >>> (64 * i))

/-- A token of a replayed beat (R366); from beat f0 + k onward the invalid code. -/
def replayRelease (s : State) (p : ShoalPlan) (pos tok off : Nat) (n : Beat) : Release :=
  let d := s.domain Reg.detReplayData
  match replayOffset s p n with
  | none => { words := (List.range 4).map (invalidPart p.format), degraded := true, overfull := false, replay := true }
  | some o =>
    let row := ((byPosition p).takeWhile fun x => x.2 ≠ pos).length
    let w := (List.range 4).map fun i => BitVec.ofNat 64 (leAt d (o + 24 + 8 * (row * p.width + 4 * tok + i)) 8)
    { words := w, degraded := decide (leAt d (o + 14) 2 ≤ off) && leAt d (o + 14) 2 != 0xFFFF,
      overfull := decide (leAt d (o + 16) 2 ≤ off) && leAt d (o + 16) 2 != 0xFFFF, replay := true }

/-- The words of a token that have landed no later than the cycle before now. -/
def landedWords (s : State) (l : Nat) (n : Beat) (tok : Nat) : List LaneWord :=
  (s.lane l).words.filter fun w => w.beat == n && w.idx / 4 == tok && decide (w.at' < s.clocks.cycle)

/-- Does the lane underrun: a declared word has not landed, and neither has the next header (R69, R71). -/
def underruns (s : State) (l : Nat) (n : Beat) (tok : Nat) (have' : List LaneWord) : Bool :=
  let x := s.lane l
  let missing := (List.range 4).filter fun i => !have'.any fun w => w.idx % 4 == i
  match x.beat with
  | some b =>
    if b = n then missing.any fun i => decide (4 * tok + i < x.declared)
    else beatBefore b n && !missing.isEmpty
  | none => !missing.isEmpty

/-- A lane that was out of alignment when the beat began, or delivers from a later beat (R70). -/
def outSince (s : State) (l : Nat) (n : Beat) : Bool :=
  !alignedFor s l n && !(match (s.lane l).leftAt with | some c => decide (s.beat.at' ≤ c) | none => false)

/-- The lane's token: landed words, the invalid code in place of the others (R69, R71). -/
def laneRelease (s : State) (p : ShoalPlan) (l : Nat) (n : Beat) (tok : Nat) : State × Release :=
  let live := alignedFor s l n || (s.lane l).leftAt == some s.clocks.cycle
  let have' := if live then landedWords s l n tok else []
  let word (i : Nat) : Word64 :=
    match have'.find? fun w => w.idx % 4 = i with
    | some w => if w.bad then invalidPart p.format i else w.data
    | none => invalidPart p.format i
  let s := if alignedFor s l n && underruns s l n tok have' then loseAlign (s.count Reg.laneUnderruns l) l else s
  let s := if p.lanes.any fun x => outSince s x.1 n then degrade s p.shoal n s.beat.at' else s
  let b := s.shoalBeat p.shoal n
  let on (c : Option Nat) : Bool := match c with | some t => decide (t ≤ s.clocks.cycle) | none => false
  (s, { words := (List.range 4).map word, degraded := on b.degraded, overfull := on b.overfull, replay := false })

/-- The flags of a released token (Table 4.3). -/
def releaseFlags (priming : Bool) (r : Release) : BitVec 5 :=
  BitVec.ofBool priming ++ BitVec.ofBool r.degraded ++ 0#1 ++ BitVec.ofBool r.overfull ++ BitVec.ofBool r.replay

/-- A released token goes to one forging: on the routes of its plane, to the taps, and into the staging buffer of the
shoal's harbour where the beat has a verdict (R105, R166, R362). -/
def sendRelease (p : ShoalPlan) (pos tok : Nat) (n : Beat) (r : Release) (s : State) (f : Nat) : State :=
  match s.planeFor f n with
  | none => s
  | some q =>
    let last := decide (tok + 1 = p.width / 4)
    let tag := makeTag (n.extractLsb' 0 16) f q true (releaseFlags (isPriming s f q n) r) last (BitVec.ofNat 4 tok)
    let t : Token := { data := wordsToken r.words, tag := tag }
    let s := launchToken s f q (.shoal p.shoal pos) s.clocks.cycle n t
    let s := tap s 3 p.shoal 0 pos q t n
    if s.hasVerdict n then
      let h := p.shoal / 16
      let x := s.tank h
      s.setTank h { x with staging := { forging := f, beat := n, shoal := p.shoal, position := pos, token := tok, data := t.data } :: x.staging }
    else s

/-- The shoal releases a token of the beat in progress at its offset; each token once (R60, R106). -/
def releaseToken (s : State) (k pos tok : Nat) : State :=
  match s.shoalPlan k with
  | none => s
  | some p =>
    match p.lanes.find? fun x => x.2 = pos with
    | none => s
    | some (l, _) =>
      match releaseOffset p pos tok with
      | none => s
      | some off =>
        let n := s.beat.n
        if !s.mode.flows || (s.shoalBeat k n).released.contains (pos, tok) || p.width / 4 ≤ tok then s
        else
          let s := s.runTo (s.beat.at' + off)
          let y := if s.replaying then (s, replayRelease s p pos tok off n) else laneRelease s p l n tok
          let s := y.1.modLane l fun x =>
            { x with words := x.words.filter fun w => !(beatBefore w.beat n || (w.beat == n && w.idx / 4 == tok)) }
          let b := s.shoalBeat k n
          let s := s.setShoalBeat k { b with released := (pos, tok) :: b.released }
          p.forgings.foldl (sendRelease p pos tok n y.2) s

/-- SHOAL_TOKEN_RELEASE. -/
def execShoalTokenRelease (shoal position token : Nat) (s : State) : Host.Outcome State Fault Refusal :=
  onUnit (s.hasHarbour (shoal / 16)) s (releaseToken s shoal position token)

end Sys2Proof.Machine
end

