-- ==== Sys2Proof/Machine/TemperOps.lean ====
section
/-! DEFINITION. The temper instructions of Table 8.6 and the end of a budget (R193, R217 to R221). -/

namespace Sys2Proof.Machine

/-- The byte offset of LDA, STA and REDA: X[23:0] signed, in 32-byte units (Table 8.6). -/
def arOffset (f : AnvilFields) : Int := 32 * signed 24 (xf f 0 24)

/-- The address AR + offset, modulo 2^64. -/
def arAddr (s : State) (h k n : Nat) (f : AnvilFields) : Nat := toCode 64 ((arOf s h k n : Int) + arOffset f)

/-- The post-add of X[24]. -/
def postAdd (s : State) (h k n : Nat) (f : AnvilFields) : State :=
  if f.x.getLsbD 24 then setAr s h k n ((arOf s h k n : Int) + arOffset f) else s

/-- LDA: D ← 256 bits at AR + offset; outside its space the kernel stops with RANGE (R193, R212). -/
def ldaBody (h k : Nat) : Body := fun _ f s rf =>
  let n := f.a.toNat
  let r := temperLoad s h k (arAddr s h k n f)
  match r.stop with
  | some x => { s := r.s, rf := rf, stop := some x }
  | none =>
    let w := rawBits 256 r
    { s := postAdd w.1 h k n f, rf := setV rf f.d.toNat w.2, stop := none }

/-- A temper instruction: no tile runs it, since Table 6.4 does not list it (R130). -/
def temperOnly (op : Nat) (body : Nat → Nat → Body) (u : Seat) (f : AnvilFields) (s : State) :
    Host.Outcome State Fault Refusal :=
  onUnit (s.hasSeat u) s
    (match u with
    | .tile _ _ => s
    | .temper h k => runKernel op (body h k) h k f s)

/-- LDA. -/
def execLda (u : Seat) (f : AnvilFields) (s : State) : Host.Outcome State Fault Refusal := temperOnly 0x38 ldaBody u f s

/-- Needs an access of a temper an entry of DQ3 that is not free (R186). -/
def noEntry (s : State) (h : Nat) : Bool := !(s.harbour h).dqRoom 3

/-- What does not happen yet. -/
def holdUp (s : State) (rf : Regfile) : Ran := { s := s, rf := rf, stop := none, wait := true }

/-- STA: 256 bits at AR + offset ← A. A line that comes poisoned for it counts (R199). -/
def staBody (h k : Nat) : Body := fun _ f s rf =>
  let n := f.b.toNat
  let a := arAddr s h k n f
  match accessStop s h a with
  | some x => { s := s, rf := rf, stop := some x }
  | none =>
    if !ownArray h a && noEntry s h then holdUp s rf
    else
      let w := temperStore s h k a (vReg rf f.a.toNat)
      let p := if w.2 then kernelPoison w.1 h k (a / 64) else (w.1, none)
      { s := postAdd p.1 h k n f, rf := rf, stop := p.2 }

/-- STA. -/
def execSta (u : Seat) (f : AnvilFields) (s : State) : Host.Outcome State Fault Refusal := temperOnly 0x39 staBody u f s

/-- Elements of a half-line in a reduction format: 4 for INT64, 8 for INT32 and FP32 (Table 9.4). -/
def redCount (fmt : Nat) : Nat := if fmt = 0xC0 then 4 else 8

/-- One element of an add-to-line: its code and whether it clamped (R217, R218, Table 9.4). -/
def redElem (fmt x y : Nat) : Nat × Bool :=
  if fmt = 0xC0 then
    let inv := 2 ^ 63
    if x = inv ∨ y = inv then (inv, false)
    else
      let v := signed 64 x + signed 64 y
      let lim : Int := 2 ^ 63 - 1
      if lim < v then (toCode 64 lim, true) else if v < -lim then (toCode 64 (-lim), true) else (toCode 64 v, false)
  else
    let f : Fmt := if fmt = 0x50 then .int32 else .fp32
    let r := roundInto f .rne ((decodeNum f x).add (decodeNum f y))
    (r.code, r.clamped)

/-- The half-line after a reduction, and the elements that clamped. -/
def redLine (fmt : Nat) (line add : Word256) : Word256 × Nat :=
  let n := redCount fmt
  let w := 256 / n
  let rs := (List.range n).map fun j => redElem fmt (field line.toNat (w * j) w) (field add.toNat (w * j) w)
  (BitVec.ofNat 256 (rs.foldr (fun r a => r.1 + 2 ^ w * a) 0), (rs.filter fun r => r.2).length)

/-- Counts the clamps of a reduction, and the determinism faults they are in strict mode (R218, R220, R356). -/
def redClamps (s : State) (a h k n : Nat) : State :=
  let s := if n = 0 then s
    else if addrSpace a = 2 then s.count Reg.engSatClamps (8 * h + 1 + k) 64 n
    else s.count Reg.cacheRedClamps (addrHarbour a) 64 n
  (List.range n).foldl (fun s _ => s.detFault (harbourUnit (addrHarbour a)) (addrOffset a / 64 % 2 ^ 32)) s

/-- A reduction takes effect (R217 to R219, R224): the line is found in the hold or not, and a poisoned line discards the
contribution; a line that its stack cannot give is poisoned (R205). One into the scratch range of a pair job is refused
(R236). -/
def applyReduction (s : State) (r : Reduction) : State :=
  let a := r.addr
  let h := addrHarbour a
  if scratchHeld s (fun _ _ => false) a 32 then refuseAccess s r.harbour (r.temper + 1) 0 0 (a / 64)
  else
    let hit := decide (addrSpace a ≠ 0) || holdHas s h (lineOf a)
    let s := countClass s r.harbour r.temper 4 hit
    let s := if addrSpace a = 0 && !hit && !stackReady s h then fillArrives s h (lineOf a) true false else s
    let s := if addrSpace a = 0 then holdAccess s h (lineOf a) true else s
    let s := if addrSpace a = 2 then s else s.count Reg.cacheRedOps h 64
    if s.poisoned (a / 64) then s.count Reg.cacheRedPoisoned h
    else
      let x := redLine r.fmt (BitVec.ofNat 256 (leNat (s.load a 32))) r.data
      redClamps (s.store a (leBytes 32 x.1.toNat)) a r.harbour r.temper x.2

/-- Writes back the line of an address from the data cache where it is dirty there, and drops it (R219). -/
def dropForReduction (s : State) (h k a : Nat) : State :=
  let t := s.temper h k
  match t.data.find? fun c => c.line == a / 64 with
  | none => s
  | some c => writeBack (s.setTemper h k { t with data := t.data.filter fun x => x.line != a / 64 }) h k c

/-- Where a REDA may reduce (R217, R221). -/
def redRange (s : State) (h k a : Nat) (ordered : Bool) : Bool :=
  rangeOk s a 32
    && (if addrSpace a = 2 then addrHarbour a == h && field (addrOffset a) 36 4 == k + 1
        else !ordered || addrHarbour a == h)

/-- A reduction leaves its temper: an ordered one for the ordering unit, one of the own array into it, and any other for the
hold where the address lives, over DQ3 in lockstep or to another harbour (R189, R194, R217, R221). -/
def sendReduction (s : State) (h k : Nat) (r : Reduction) : State :=
  if r.ordered then s.modHarbour h fun x => { x with ordered := x.ordered ++ [r] }
  else if addrSpace r.addr = 2 then applyReduction s r
  else if !s.lockstep h && addrHarbour r.addr == h then s.modHarbour h fun x => { x with reductions := x.reductions ++ [r] }
  else appendItem s h 3 (itemOf (k + 1) (((s.temper h k).kernel.map Kernel.queue).getD 0) (.reduce r) 0 r.addr 0 0#512 false)

/-- REDA: an add-to-line of A, on its way to where the address lives (R217, R219, R221). It waits to issue while the
ordering unit holds 64, or DQ3 is full where it may need an entry. -/
def redaBody (h k : Nat) : Body := fun _ f s rf =>
  let a := arAddr s h k f.b.toNat f / 32 * 32
  let ordered := f.x.getLsbD 25
  if !redRange s h k a ordered then { s := s, rf := rf, stop := some (2, a / 64 % 2 ^ 32) }
  else if !freeRoute s h (addrHarbour a) then { s := s, rf := rf, stop := some (5, a / 64 % 2 ^ 32) }
  else if (addrSpace a != 2 && noEntry s h) || (ordered && decide (64 ≤ (s.harbour h).ordered.length)) then holdUp s rf
  else
    let r : Reduction :=
      { temper := k, addr := a, fmt := f.fmt.toNat, data := vReg rf f.a.toNat, ordered := ordered,
        cycle := s.reg Reg.engGroupCycles h, harbour := h }
    { s := sendReduction (dropForReduction s h k a) h k r, rf := rf, stop := none }

/-- REDA. -/
def execReda (u : Seat) (f : AnvilFields) (s : State) : Host.Outcome State Fault Refusal := temperOnly 0x3A redaBody u f s

/-- ARADD: AR ← AR + X, signed. -/
def araddBody (h k : Nat) : Body := fun _ f s rf =>
  { s := setAr s h k f.d.toNat ((arOf s h k f.d.toNat : Int) + f.x.toInt), rf := rf, stop := none }

/-- ARADD. -/
def execAradd (u : Seat) (f : AnvilFields) (s : State) : Host.Outcome State Fault Refusal := temperOnly 0x3B araddBody u f s

/-- BR: the runner takes the target when the predicate reads 1 (kernelNext). -/
def brBody (_ _ : Nat) : Body := fun _ _ s rf => { s := s, rf := rf, stop := none }

/-- BR. -/
def execBr (u : Seat) (f : AnvilFields) (s : State) : Host.Outcome State Fault Refusal := temperOnly 0x3C brBody u f s

/-- END: the kernel completes. -/
def endBody (_ _ : Nat) : Body := fun _ _ s rf => { s := s, rf := rf, stop := some (0, 0) }

/-- END. -/
def execEndKernel (u : Seat) (f : AnvilFields) (s : State) : Host.Outcome State Fault Refusal := temperOnly 0x3D endBody u f s

/-- A kernel whose budget is used up stops with BUDGET; its writes stand (R193). -/
def budgetEnds (s : State) (h t : Nat) : State :=
  match (s.temper h t).kernel with
  | some x => if x.budget ≤ x.executed ∧ !x.ended then endKernel s h t 8 0 else s
  | none => s

/-- BUDGET_EXHAUSTED. -/
def execBudgetExhausted (h t : Nat) (s : State) : Host.Outcome State Fault Refusal :=
  onUnit (s.hasHarbour h && t < 2) s (budgetEnds s h t)

/-- The hold performs its oldest unordered reduction, one per HARBOUR cycle; it is no part of a group and never stalls with
one (R188, R219). -/
def holdReduces (s : State) (h : Nat) : State :=
  match (s.harbour h).reductions with
  | [] => s
  | r :: rest =>
    let s := s.runTo (s.harbour h).redFree
    let free := s.clocks.cycle + 2
    drainVictims (applyReduction (s.modHarbour h fun x => { x with reductions := rest, redFree := free }) r)

/-- REDUCTION_APPLY. -/
def execReductionApply (h : Nat) (s : State) : Host.Outcome State Fault Refusal :=
  onUnit (s.hasHarbour h) s (holdReduces s h)

/-- Is one ordered reduction applied before another: by issue group cycle, then temper 0 first (R221). -/
def redBefore (a b : Reduction) : Bool := decide (a.cycle < b.cycle) || (a.cycle == b.cycle && decide (a.temper < b.temper))

/-- The first ordered reduction in the order of R221, and the others in their places. -/
def nextOrdered : List Reduction → Option (Reduction × List Reduction)
  | [] => none
  | r :: rest =>
    match nextOrdered rest with
    | none => some (r, [])
    | some (b, others) => if redBefore b r then some (b, r :: others) else some (r, rest)

/-- May an ordered reduction take effect: in lockstep not before the due cycle of its access, nor before items of its harbour
that are due by then (R189, R219, R221). -/
def orderedDue (s : State) (h : Nat) (r : Reduction) : Bool :=
  !s.lockstep h || addrSpace r.addr == 2
    || (decide (r.cycle + s.reg Reg.engDqDueLocal h ≤ s.reg Reg.engGroupCycles h) && (dueNow s h).isEmpty)

/-- The ordering unit applies one reduction, every 8 HARBOUR cycles (R221). -/
def orderedReduces (s : State) (h : Nat) : State :=
  match nextOrdered (s.harbour h).ordered with
  | none => s
  | some (r, rest) =>
    let due := if s.lockstep h then r.cycle + s.reg Reg.engDqDueLocal h - s.reg Reg.engGroupCycles h else 0
    let s' := s.runTo (max (s.harbour h).orderedFree (s.clocks.cycle + groupPace s * due))
    if orderedDue s' h r then
      let free := s'.clocks.cycle + 16
      drainVictims (applyReduction (s'.modHarbour h fun x => { x with ordered := rest, orderedFree := free }) r)
    else s

/-- ORDERED_REDUCTION_APPLY. -/
def execOrderedReductionApply (h : Nat) (s : State) : Host.Outcome State Fault Refusal :=
  onUnit (s.hasHarbour h) s (orderedReduces s h)

end Sys2Proof.Machine
end

