-- ==== Sys2Proof/Machine/Engines.lean ====
section
/-! DEFINITION. Commands of a harbour's engines: start, checks, listed commands, completion, and the lines of the tongs and
of range operations (R175 to R186, R194, R195, R212, R215, R222, R223, R244, R248, R250, R251, R254). A command that runs
stands in Harbour.running; the row of its opcode is what its routine does next, and COMMAND_COMPLETE retires it
(notes/assumptions/11.md). -/

namespace Sys2Proof.Machine

/-- A wait on a token counter (R178). -/
def tokenReached (x : Harbour) (t v : Nat) : Bool :=
  decide (((tabGet 0#16 x.tokens t).toNat + 65536 - v % 65536) % 65536 < 32768)

/-- Every enabled wait of a command is satisfied (R178). -/
def waitsMet (x : Harbour) (c : Cmd) : Bool :=
  (!cmdWaitA c || tokenReached x (cmdTokenA c) (cmdValueA c)) && (!cmdWaitB c || tokenReached x (cmdTokenB c) (cmdValueB c))

/-- A fence: every command that started earlier on the harbour has completed (R183). A listed command's own LIST does not
hold its fence. -/
def fenceMet (x : Harbour) (e q : Nat) (c : Cmd) : Bool :=
  !cmdFence c || x.running.all fun r => r.engine == e && r.queue == q

/-- A command with NOTIFY does not start while the completion ring is full (R185). -/
def ringMet (x : Harbour) (c : Cmd) : Bool := !cmdNotify c || decide (x.completions.length < 1024)

/-- Can a command start now, waits, fence and ring considered. -/
def canStart (x : Harbour) (e q : Nat) (c : Cmd) : Bool := waitsMet x c && fenceMet x e q c && ringMet x c

/-! ### Checks (R176, R177, R179, R184) -/

/-- The engines that Table 8.4 names for an opcode; none for an opcode it does not list. -/
def opcodeOn (op e : Nat) : Bool :=
  if op ≤ 0x02 then true
  else if 0x10 ≤ op && op ≤ 0x15 then e == 0
  else if op = 0x20 then e == 1 || e == 2
  else if 0x21 ≤ op && op ≤ 0x23 then e ≤ 2
  else if op = 0x30 then e == 3
  else if op = 0x38 then e == 4
  else false

/-- Bits of the body that Table 8.4 defines for an opcode, as [lo, lo + n) ranges left 0. -/
def bodyZero (op : Nat) (c : Cmd) : Bool :=
  match op with
  | 0x00 => cmdBody c 0 128 == 0
  | 0x01 => cmdBody c 6 10 == 0 && cmdBody c 32 96 == 0
  | 0x02 => cmdBody c 60 68 == 0
  | 0x11 => cmdBody c 48 16 == 0
  | 0x12 => cmdBody c 122 6 == 0
  | 0x13 => cmdBody c 122 6 == 0
  | 0x14 => cmdBody c 96 32 == 0
  | 0x15 => cmdBody c 100 28 == 0
  | 0x20 => cmdBody c 48 80 == 0
  | 0x30 => cmdBody c 48 80 == 0
  | 0x38 => cmdBody c 48 80 == 0
  | _ => true

/-- Is PER_ITEM allowed with the opcode (R184). -/
def perItemOk (op : Nat) : Bool := 0x10 ≤ op && op ≤ 0x13

/-- The address ranges that a command names: address and bytes. -/
def cmdRanges (c : Cmd) : List (Nat × Nat) :=
  match cmdOpcode c with
  | 0x02 => [(cmdBody c 0 48, 32 * (cmdBody c 48 12 + 1))]
  | 0x10 => [(cmdBody c 0 48, 64 * cmdBody c 96 32), (cmdBody c 48 48, 64 * cmdBody c 96 32)]
  | 0x11 => [(cmdBody c 0 48, 64 * cmdBody c 96 32)]
  | 0x12 => [(cmdBody c 0 48, 64 * cmdBody c 96 24), (cmdBody c 48 48, 64 * cmdBody c 96 24)]
  | 0x13 => [(cmdBody c 0 48, 64 * cmdBody c 96 24), (cmdBody c 48 48, 64 * cmdBody c 96 24)]
  | 0x15 => [(cmdBody c 52 48, 64)]
  | 0x20 => [(cmdBody c 0 48, 64)]
  | 0x21 => [(cmdBody c 0 48, 64 * cmdBody c 48 32)]
  | 0x22 => [(cmdBody c 0 48, 64 * cmdBody c 48 32)]
  | 0x23 => [(cmdBody c 0 48, 64 * cmdBody c 48 32)]
  | 0x30 => [(cmdBody c 0 48, 64)]
  | 0x38 => [(cmdBody c 0 48, 64)]
  | _ => []

/-- The spaces that Table 8.4 allows its addresses (FETCH, STORE, LIST). -/
def spacesOk (c : Cmd) : Bool :=
  let a := addrSpace (cmdBody c 0 48)
  let b := addrSpace (cmdBody c 48 48)
  match cmdOpcode c with
  | 0x02 => a ≤ 1
  | 0x12 => a == 0 && (b == 1 || b == 2)
  | 0x13 => (a == 1 || a == 2) && b == 0
  | _ => true

/-- The body of a range operation (Table 9.5). -/
def rangeBodyOk (e : Nat) (c : Cmd) : Bool :=
  if 0x21 ≤ cmdOpcode c && cmdOpcode c ≤ 0x23 then
    cmdBody c 86 42 == 0 && (cmdOpcode c == 0x21 || cmdBody c 84 2 == 0)
      && ((cmdBody c 80 4 == 0) == (e == 0)) && cmdBody c 48 32 != 0 && addrSpace (cmdBody c 0 48) ≤ 1 && cmdBody c 0 6 == 0
  else true

/-- The offset in lines of the first line of a range that lies outside its space, where the range begins in one: a
scratchpad's part under the split, the direct region, or a stack's bytes below the image store (R176, R184, R212). -/
def badLine (s : State) (r : Nat × Nat) : Nat :=
  if spaceOk s r.1 0 then
    match addrSpace r.1 with
    | 0 => (imageStoreLo - addrOffset r.1) / 64
    | 1 => (s.reg Reg.cacheHoldDirectMib (addrHarbour r.1) * 1048576 - addrOffset r.1) / 64
    | _ => (scratchBytes s (addrHarbour r.1) (field (addrOffset r.1) 36 4 - 1) - field (addrOffset r.1) 0 36) / 64
  else 0

/-- The detail of a range that a command may not access: its first line outside its space, or 0 where another pair job's
scratch range bars it (R184, R236). -/
def badDetail (s : State) (r : Nat × Nat) : Nat := if spaceOk s r.1 r.2 then 0 else badLine s r % 2 ^ 32

/-- The status and detail with which a command ends at once, none where it may run (R176, R177, R179, R184, R194, R222). A
remote address needs a free route (R13, R194). -/
def cmdCheck (s : State) (h e : Nat) (c : Cmd) : Option (Nat × Nat) :=
  let op := cmdOpcode c
  if !cmdHeaderZero c || !opcodeOn op e || !bodyZero op c || (cmdPerItem c && !perItemOk op) then some (1, 0)
  else if !spacesOk c || !rangeBodyOk e c then some (2, 0)
  else if e == 0 && op != 0x02 && (cmdRanges c).any fun r => r.1 % 64 != 0 then some (2, 0)
  else
    match (cmdRanges c).find? fun r => !rangeOk s r.1 r.2 with
    | some r => some (2, badDetail s r)
    | none => if (cmdRanges c).all fun r => freeRoute s h (addrHarbour r.1) then none else some (5, 0)

/-! ### Start (R181, R182, R183, R248) -/

/-- The lines of a command that moves or visits lines; a PIN_COPY learns its number at its first (R198). -/
def cmdLines (c : Cmd) : Nat :=
  match cmdOpcode c with
  | 0x10 => cmdBody c 96 32
  | 0x11 => cmdBody c 96 32
  | 0x12 => cmdBody c 96 24
  | 0x13 => cmdBody c 96 24
  | 0x15 => 1
  | 0x21 => cmdBody c 48 32
  | 0x22 => cmdBody c 48 32
  | 0x23 => cmdBody c 48 32
  | _ => 0

/-- A command that has just started. -/
def newRunning (e q : Nat) (c : Cmd) (now : Nat) (chk : Option (Nat × Nat)) : Running :=
  { engine := e, queue := q, cmd := c, started := now, finished := chk.isSome, status := (chk.map Prod.fst).getD 0,
    detail := (chk.map Prod.snd).getD 0, issued := 0, delivered := 0, total := cmdLines c, lines := [], poison := false, listLeft := [],
    listCmd := none, listBad := false, posted := false }

/-- The engine mask bit of the dispatch table for an engine: [15] tongs, [14] temper, [13] sieve, [12] pair (R248). -/
def maskBit (e : Nat) : Nat := if e = 0 then 15 else if e ≤ 2 then 14 else if e = 3 then 13 else 12

/-- What the start of a command invalidates: the first levels of a fenced temper, and the data and constant caches at a
LAUNCH (R183, R215). -/
def invalidateAtStart (s : State) (h e : Nat) (c : Cmd) : State :=
  if e == 1 || e == 2 then
    if cmdFence c then invalidateTemper s h (e - 1) 15
    else if cmdOpcode c == 0x20 then invalidateTemper s h (e - 1) 3
    else s
  else s

/-- Takes the head of a queue and starts it. -/
def startHead (s : State) (h e q : Nat) (c : Cmd) (rest : List Cmd) : State :=
  let s := s.modHarbour h fun x => { x with queues := tabSet x.queues (queueKey e q) rest }
  let r := newRunning e q c s.clocks.cycle (cmdCheck s h e c)
  let s := invalidateAtStart s h e c
  dispatch (s.modHarbour h fun x => { x with running := x.running ++ [r] }) h (ctxOf e q) (cmdOpcode c) (maskBit e) e q

/-- Starts the next command of a list in its queue's place; a LIST inside the list, and all after it, end with OPCODE
(R181). -/
def startListed (s : State) (h e q : Nat) (r : Running) (c : Cmd) (rest : List Cmd) : State :=
  let bad := r.listBad || cmdOpcode c == 0x02
  let chk := if bad then some (1, 0) else cmdCheck s h e c
  let r' : Running := { newRunning e q c s.clocks.cycle chk with listLeft := rest, listCmd := r.listCmd, listBad := bad }
  let s := invalidateAtStart s h e c
  dispatch (modRunning s h e q fun _ => r') h (ctxOf e q) (cmdOpcode c) (maskBit e) e q

/-- What stands at the head of a queue: the next command of an open list stands in its list's queue, in its place (R181). -/
def headOf (x : Harbour) (e q : Nat) : Option Cmd :=
  match x.runningAt e q with
  | some r => if betweenListed r then r.listLeft.head? else none
  | none => (x.queue e q).head?

/-- May a queue of tempers, sieve and pair start its head: the engine runs nothing, an open list aside, and no lower queue
may (R181, R182). -/
def lowestReady (s : State) (h e q : Nat) : Bool :=
  let x := s.harbour h
  (x.running.all fun r => r.engine != e || betweenListed r)
    && (List.range q).all fun p => queueHalted s h e p || !((headOf x e p).map (canStart x e p)).getD false

/-- Commands start in ARMED, RUNNING and STOPPED, not while a drain runs, a group stalls or a queue is halted,
nor on a harbour without power (R180, R182, R185, R189, R339, R399). -/
def mayStart (s : State) (h e q : Nat) : Bool :=
  s.mode.flows && s.domainOn (64 + h) && s.run.drain == 0 && !s.groupStands h && !queueHalted s h e q

/-- The start of a command at the head of a queue, or of a list's next one. -/
def startsCommand (s : State) (h e q : Nat) : State :=
  let x := s.harbour h
  if mayStart s h e q && (e == 0 || lowestReady s h e q) then
    match x.runningAt e q with
    | some r =>
      match r.listLeft with
      | c :: rest => if betweenListed r && canStart x e q c then startListed s h e q r c rest else s
      | [] => s
    | none =>
      match x.queue e q with
      | [] => s
      | c :: rest => if canStart x e q c then startHead s h e q c rest else s
  else s

/-- Is a queue one of a harbour that the grade enables (Table 8.1). -/
def State.hasQueue (s : State) (h e q : Nat) : Bool := s.hasHarbour h && e < 5 && q < 4

/-- COMMAND_START. -/
def execCommandStart (h e q : Nat) (s : State) : Host.Outcome State Fault Refusal :=
  onUnit (s.hasQueue h e q) s (startsCommand s h e q)

/-! ### Completion (R181, R184, R185, R215, R254) -/

/-- Does a temper have reductions that have not taken effect (R219). -/
def reductionsLeft (s : State) (h k : Nat) : Bool :=
  let mine : Reduction → Bool := fun r => r.harbour == h && r.temper == k
  s.harbours.any fun x => x.2.reductions.any mine || x.2.ordered.any mine

/-- Are the work, what it has in the decoupling queues and, for a LAUNCH, the kernel and its reductions done (R184, R219). -/
def workDone (s : State) (h : Nat) (r : Running) : Bool :=
  r.finished && !betweenListed r && !(s.harbour h).outstanding r.engine r.queue
    && (r.engine != 1 && r.engine != 2 || !reductionsLeft s h (r.engine - 1))

/-- The retire of one command: its done token, its record, its count, and the halt of ERRSTOP (R184, R185). -/
def retireOne (s : State) (h : Nat) (r : Running) (c : Cmd) (status detail : Nat) : State :=
  let s := if cmdDoneEn c && !cmdPerItem c then advanceToken s h (cmdDone c) 1 else s
  let g := s.reg Reg.engGroupCycles h
  let rec' := completionRecord (cmdOpcode c) h r.engine r.queue status (cmdTag c) g detail
  let s := if cmdNotify c || status != 0 then s.modHarbour h fun x => x.complete rec' else s
  let s := s.count Reg.engCommands (8 * h + r.engine) 64
  if status != 0 && cmdErrStop c then haltQueue s h r.engine r.queue else s

/-- Has a temper dirty lines (R215). -/
def dirtyLines (s : State) (h u : Nat) : List CLine := (s.temper h u).data.filter CLine.dirty

/-- A temper sends dirty lines to the holds that own them, as far as DQ3 has room; the lines stay, clean (R186, R215). -/
def sendDirty (h u : Nat) : List CLine → State → State
  | [], s => s
  | c :: cs, s =>
    if (s.harbour h).dqRoom 3 then
      let t := s.temper h u
      let clean : CLine → CLine := fun d => if d.line = c.line then { d with dirty := false } else d
      sendDirty h u cs (writeBack (s.setTemper h u { t with data := t.data.map clean }) h u c)
    else s

/-- A temper writes back its dirty lines before a command of it completes (R215). -/
def settleTemper (s : State) (h e : Nat) : State :=
  if e = 1 ∨ e = 2 then drainVictims (sendDirty h (e - 1) (dirtyLines s h (e - 1)) s) else s

/-- The kernel of a temper is gone. -/
def dropKernel (s : State) (h e : Nat) : State :=
  if e = 1 ∨ e = 2 then s.setTemper h (e - 1) { s.temper h (e - 1) with kernel := none } else s

/-- A pair job gives its scratch range back (R236). -/
def freeScratch (s : State) (h e q : Nat) : State :=
  if e = 4 then s.modHarbour h fun x => { x with scratch := x.scratch.filter fun y => y.1 != q } else s

/-- A queue runs nothing. -/
def dropRunning (s : State) (h e q : Nat) : State :=
  s.modHarbour h fun x => { x with running := x.running.filter fun y => !(y.engine == e && y.queue == q) }

/-- Ends the running command of a queue: its own retire, and its list's after the last of the list, whose routine counts
too (R181, R250). -/
def retire (s : State) (h e q : Nat) (r : Running) : State :=
  let s := freeScratch (dropKernel s h e) h e q
  let s := idleCtx (retireOne s h r r.cmd r.status r.detail) h (ctxOf e q)
  match r.listCmd, r.listLeft with
  | some l, _ :: _ =>
    modRunning s h e q fun x => { x with cmd := l, finished := false, status := 0, detail := 0, poison := false, lines := [] }
  | some l, [] => (retireOne (dropRunning s h e q) h r l 0 0).count Reg.seqRoutines h 64
  | none, _ => dropRunning s h e q

/-- A LAUNCH is done once its kernel has ended, with the kernel's status (R193). -/
def withKernel (s : State) (h : Nat) (r : Running) : Running :=
  if cmdOpcode r.cmd == 0x20 && !r.finished && (r.engine == 1 || r.engine == 2) then
    match (s.temper h (r.engine - 1)).kernel with
    | some x => if x.ended then { r with finished := true, status := x.status, detail := x.detail } else r
    | none => r
  else r

/-- A command whose work is done completes, a temper's once its dirty lines have reached their holds (R184, R215). -/
def completes (s : State) (h e q : Nat) : State :=
  match (s.harbour h).runningAt e q with
  | some r =>
    if workDone s h (withKernel s h r) then
      let s := settleTemper s h e
      if (s.harbour h).outstanding e q || ((e == 1 || e == 2) && !(dirtyLines s h (e - 1)).isEmpty) then s
      else retire s h e q (withKernel s h r)
    else s
  | none => s

/-- COMMAND_COMPLETE. -/
def execCommandComplete (h e q : Nat) (s : State) : Host.Outcome State Fault Refusal :=
  onUnit (s.hasQueue h e q) s (completes s h e q)

/-! ### What a routine does to its own command -/

/-- The routine of an opcode on the running command of a queue: it acts on a command that has not finished and is
not stalled with its group. -/
def routine (op : Nat) (g : State → Running → State) (h e q : Nat) (s : State) : State :=
  match (s.harbour h).runningAt e q with
  | some r => if cmdOpcode r.cmd == op && !r.finished && !betweenListed r && !s.groupStands h then g s r else s
  | none => s

/-- A routine's row. -/
def command (op : Nat) (g : State → Running → State) (h e q : Nat) (s : State) : Host.Outcome State Fault Refusal :=
  onUnit (s.hasQueue h e q) s (routine op g h e q s)

/-- NOP_COMMAND: waits and tokens only. -/
def execNopCommand (h e q : Nat) (s : State) : Host.Outcome State Fault Refusal :=
  command 0x00 (fun s _ => finish s h e q 0 0) h e q s

/-- SIGNAL: a token counter advances by an amount modulo 2^16. -/
def execSignal (h e q : Nat) (s : State) : Host.Outcome State Fault Refusal :=
  command 0x01 (fun s r => finish (advanceToken s h (cmdBody r.cmd 0 6) (cmdBody r.cmd 16 16)) h e q 0 0) h e q s

/-! ### Lines that a command reads for itself (R186, R199, R212) -/

/-- The lines that hold `[a, a + n)`. -/
def linesOf (a n : Nat) : List Nat := if n = 0 then [] else (List.range ((a + n - 1) / 64 + 1 - a / 64)).map fun k => a / 64 + k

/-- Has a command a line. -/
def Running.has (r : Running) (line : Nat) : Bool := r.lines.any fun g => g.line == line

/-- Does a command wait for a line. -/
def Harbour.asks (x : Harbour) (e q line : Nat) : Bool :=
  x.dqs.any fun l => l.2.any fun i => i.isOf e q && i.src / 64 == line && i.reads == some i.src

/-- A command reads line `line`, number `k` of its range: a temper through its descriptor cache, the others through the
hold (R213, R224). -/
def readForItself (s : State) (h e q : Nat) (image : Bool) (k line : Nat) : State :=
  let a := 64 * line
  if e = 1 ∨ e = 2 then
    match ((s.temper h (e - 1)).desc).find? fun c => c.line == line with
    | some c =>
      noteRead (countClass (firstInstall s h (e - 1) 2 c) h (e - 1) 2 true) h e q k false
        { cls := 2, line := line, data := c.data, poison := c.poison }
    | none => placeItem (countClass s h (e - 1) 2 false) h 3 false (itemOf e q (.first (e - 1) 2) a 0 k 0#512 false)
  else placeItem s h 3 false (itemOf e q (.read image) a 0 k 0#512 false)

/-- A command asks for a line that it has not: it ends with RANGE or NO_ROUTE where it may not, and waits for an entry of
DQ3 where none is free (R186, R194, R212). -/
def askLine (h e q : Nat) (image : Bool) (base : Nat) (s : State) (line : Nat) : State :=
  match (s.harbour h).runningAt e q with
  | none => s
  | some r =>
    if r.finished || r.has line || (s.harbour h).asks e q line || !(s.harbour h).dqRoom 3 then s
    else if !rangeFor s h e q (64 * line) 64 then endCommand s h e q 2 ((line - base) % 2 ^ 32)
    else if !freeRoute s h (addrHarbour (64 * line)) then endCommand s h e q 5 ((line - base) % 2 ^ 32)
    else readForItself s h e q image (line - base) line

/-- A routine reads lines and goes on once it has them all. -/
def withLines (h e q : Nat) (image : Bool) (base : Nat) (ls : List Nat) (go : State → Running → State) (s : State) : State :=
  let s := ls.foldl (askLine h e q image base) s
  match (s.harbour h).runningAt e q with
  | some r => if !r.finished && ls.all r.has then go s r else s
  | none => s

/-- Line `line` of what a command has read. -/
def Running.line (r : Running) (line : Nat) : Got :=
  (r.lines.find? fun g => g.line == line).getD { cls := 0, line := line, data := 0#512, poison := false }

/-- `n` bytes from address `a` of what a command has read. -/
def Running.bytes (r : Running) (a n : Nat) : List Byte :=
  slice ((linesOf a n).flatMap fun l => leBytes 64 (r.line l).data.toNat) (a % 64) n

/-- The first poisoned one of the lines that a command has read. -/
def Running.badOf (r : Running) (ls : List Nat) : Option Nat := ls.find? fun l => (r.line l).poison

/-- A command that meets a poisoned list or descriptor: POISONED without effect, and its queue halts (R199). -/
def poisonedDescriptor (s : State) (h e q k : Nat) : State := haltQueue (finish s h e q 3 (k % 2 ^ 32)) h e q

/-- A routine reads a descriptor of `n` bytes at `a`, and goes on with it unless a line of it is poisoned (R199). -/
def withDescriptor (h e q a n : Nat) (go : State → Running → State) (s : State) : State :=
  withLines h e q false (a / 64) (linesOf a n) (fun s r =>
    match r.badOf (linesOf a n) with
    | some l => poisonedDescriptor s h e q (l - a / 64)
    | none => go s r) s

/-- LIST: the commands of the list, fetched (R181). It commits before the first of them is dispatched (R251). -/
def listFetch (h e q : Nat) (s : State) (r : Running) : State :=
  let n := cmdBody r.cmd 48 12 + 1
  let a := cmdBody r.cmd 0 48
  withDescriptor h e q a (32 * n) (fun s r =>
    let bs := r.bytes a (32 * n)
    let cmds := (List.range n).map fun k => BitVec.ofNat 256 (leAt bs (32 * k) 32)
    modRunning (commitCmd s h e q) h e q fun y => { y with listLeft := cmds, listCmd := some y.cmd, lines := [] }) s

/-- LIST. -/
def execList (h e q : Nat) (s : State) : Host.Outcome State Fault Refusal := command 0x02 (listFetch h e q) h e q s

/-! ### Lines moved by the tongs (R182, R184, R186) -/

/-- The decoupling queue that a FETCH or STORE names. -/
def cmdDq (c : Cmd) : Nat := cmdBody c 120 2

/-- The decoupling queue of a command's lines: as it names it, else DQ3 (notes/assumptions/104.md). -/
def lineDq (c : Cmd) : Nat :=
  match cmdOpcode c with
  | 0x12 => cmdDq c
  | 0x13 => cmdDq c
  | 0x21 => cmdBody c 84 2
  | _ => 3

/-- Has a tongs command a line to issue and an entry for it. -/
def wantsLine (x : Harbour) (r : Running) : Bool :=
  r.engine == 0 && !r.finished && !betweenListed r && decide (r.issued < r.total) && x.dqRoom (lineDq r.cmd)

/-- The tongs queue that issues the next line: round-robin by queue number among those that want to (R182). -/
def tongsTurn (x : Harbour) : Option Nat :=
  ((List.range 4).map fun k => (x.tongsNext + k) % 4).find? fun q => ((x.runningAt 0 q).map (wantsLine x)).getD false

/-- The tongs issue the next line of queue `q` when it is its turn, one line per HARBOUR cycle over the four queues; a
command without lines is done at once (R182). -/
def tongsLine (h q : Nat) (put : State → Running → Nat → State) (s : State) (r : Running) : State :=
  if r.total = 0 then finish s h 0 q 0 0
  else if tongsTurn (s.harbour h) = some q then
    let s := s.runTo (s.harbour h).tongsFree
    let free := s.clocks.cycle + groupPace s
    let s := s.modHarbour h fun x => { x with tongsNext := (q + 1) % 4, tongsFree := free }
    put (modRunning s h 0 q fun y => { y with issued := r.issued + 1 }) r r.issued
  else s

/-- Line `k` of a FETCH, STORE or COPY. A line outside its space by now ends the command (R212). -/
def moveLine (h q : Nat) (named : Bool) (s : State) (r : Running) (k : Nat) : State :=
  let src := cmdBody r.cmd 0 48 + 64 * k
  let dst := cmdBody r.cmd 48 48 + 64 * k
  if !rangeFor s h 0 q src 64 || !rangeFor s h 0 q dst 64 then stopAt s h 0 q k k
  else placeItem s h (lineDq r.cmd) named (itemOf 0 q .copy src dst k 0#512 false)

/-- Does a COPY commit before its first write: PER_ITEM, or a source that its destination overlaps (Table 11.3). -/
def copyCommits (c : Cmd) : Bool :=
  cmdPerItem c || overlap (cmdBody c 0 48) (64 * cmdBody c 96 32) (cmdBody c 48 48) (64 * cmdBody c 96 32)

/-- COPY: each line read through the hold and written with its poison (R179, R199). -/
def execCopy (h e q : Nat) (s : State) : Host.Outcome State Fault Refusal :=
  command 0x10 (tongsLine h q fun s r k =>
    moveLine h q false (if copyCommits r.cmd then commitCmd s h 0 q else s) r k) h e q s

/-- FETCH: each line an item of the queue that it names; committed at the first (R186, R251). -/
def execFetch (h e q : Nat) (s : State) : Host.Outcome State Fault Refusal :=
  command 0x12 (tongsLine h q fun s r k => moveLine h q true (commitCmd s h 0 q) r k) h e q s

/-- STORE: each line an item of the queue that it names; committed at the first (R186, R251). -/
def execStore (h e q : Nat) (s : State) : Host.Outcome State Fault Refusal :=
  command 0x13 (tongsLine h q fun s r k => moveLine h q true (commitCmd s h 0 q) r k) h e q s

/-- A line filled with a 32-bit pattern. -/
def patternLine (p : Nat) : BitVec 512 := BitVec.ofNat 512 ((List.range 16).foldl (fun a k => a + p * 2 ^ (32 * k)) 0)

/-- Line `k` of a FILL. -/
def fillLine (h q : Nat) (s : State) (r : Running) (k : Nat) : State :=
  let dst := cmdBody r.cmd 0 48 + 64 * k
  if !rangeFor s h 0 q dst 64 then stopAt s h 0 q k k
  else placeItem s h 3 false (itemOf 0 q (.write 64) 0 dst k (patternLine (cmdBody r.cmd 64 32)) false)

/-- FILL: every line holds the pattern. -/
def execFill (h e q : Nat) (s : State) : Host.Outcome State Fault Refusal :=
  command 0x11 (tongsLine h q fun s r k => fillLine h q (if cmdPerItem r.cmd then commitCmd s h 0 q else s) r k) h e q s

/-! ### Range operations (R222, R223) -/

/-- Line `k` of a range operation of the tongs, at the hold that owns it; space 1 has no effect. A prefetch reads an absent
line on the queue that the body names; a flush or an invalidate writes back a dirty one. -/
def rangeHold (op h q : Nat) (s : State) (r : Running) (k : Nat) : State :=
  let a := cmdBody r.cmd 0 48 + 64 * k
  if !rangeFor s h 0 q a 64 then stopAt s h 0 q k k
  else if addrSpace a ≠ 0 then noteLine s h 0 q k false
  else if op = 0x21 then
    if addrHarbour a = h ∧ holdHas s h (lineOf a) then noteLine s h 0 q k false
    else placeItem s h (lineDq r.cmd) false (itemOf 0 q (.prefetch []) a 0 k 0#512 false)
  else placeItem s h 3 false (itemOf 0 q (.clean (op == 0x23)) 0 a k 0#512 false)

/-- The classes that a temper's range operation names. -/
def maskClasses (c : Cmd) : List Nat := (List.range 4).filter fun n => bit (cmdBody c 80 4) n

/-- Line `k` of a range operation of a temper on the first levels of its mask (Table 9.6). -/
def rangeFirst (op h e q : Nat) (r : Running) (k : Nat) (s : State) : State :=
  let u := e - 1
  let a := cmdBody r.cmd 0 48 + 64 * k
  let line := a / 64
  let cs := maskClasses r.cmd
  if op = 0x21 then
    if cs.all fun c => !hasLevel s h u c || ((s.temper h u).cache c).any fun x => x.line == line then noteLine s h e q k false
    else placeItem s h (lineDq r.cmd) false (itemOf e q (.prefetch cs) a 0 k 0#512 false)
  else
    let s := if cs.contains 0 then sendDirty h u ((dirtyLines s h u).filter fun c => c.line == line) s else s
    let drop (s : State) (c : Nat) : State :=
      let t := s.temper h u
      s.setTemper h u (t.setCache c ((t.cache c).filter fun x => x.line != line))
    noteLine (if op = 0x22 then s else cs.foldl drop s) h e q k false

/-- A temper's range operation takes its next lines, as far as its decoupling queue has room. -/
def rangeLines (op h e q : Nat) : Nat → State → State
  | 0, s => s
  | n + 1, s =>
    match (s.harbour h).runningAt e q with
    | none => s
    | some r =>
      let a := cmdBody r.cmd 0 48 + 64 * r.issued
      if r.finished || r.total ≤ r.issued || !(s.harbour h).dqRoom (lineDq r.cmd) then s
      else if !rangeFor s h e q a 64 then stopAt s h e q r.issued r.issued
      else rangeLines op h e q n (rangeFirst op h e q r r.issued (modRunning s h e q fun y => { y with issued := r.issued + 1 }))

/-- A range operation: the tongs take a line in their turn, a temper as many as its queue has room for. -/
def rangeOp (op h e q : Nat) (s : State) (r : Running) : State :=
  if e = 0 then tongsLine h q (rangeHold op h q) s r else rangeLines op h e q r.total s

/-- RANGE_PREFETCH. -/
def execRangePrefetch (h e q : Nat) (s : State) : Host.Outcome State Fault Refusal :=
  command 0x21 (rangeOp 0x21 h e q) h e q s

/-- RANGE_FLUSH. -/
def execRangeFlush (h e q : Nat) (s : State) : Host.Outcome State Fault Refusal :=
  command 0x22 (rangeOp 0x22 h e q) h e q s

/-- RANGE_INVALIDATE. -/
def execRangeInvalidate (h e q : Nat) (s : State) : Host.Outcome State Fault Refusal :=
  command 0x23 (rangeOp 0x23 h e q) h e q s

end Sys2Proof.Machine
end

