-- ==== Sys2Proof/Machine/Vision.lean ====
section
/-! DEFINITION. The sieve and the pair: descriptors, filters, pyramids, census, path costs and disparities
(R226 to R243; Tables 10.1 to 10.4). -/

namespace Sys2Proof.Machine

/-! ### Images -/

/-- An image in memory: base, pitch, width, height and format descriptor (R227). -/
structure Img where
  base : Nat
  pitch : Nat
  w : Nat
  h : Nat
  fmt : Nat

/-- Bytes of a row in whole 32-byte units (R228). -/
def rowBytes (w : Nat) : Nat := ceilDiv (2 * w) 32 * 32

/-- The bytes from an image's base to the end of its last row's last unit. -/
def Img.span (i : Img) : Nat := i.pitch * (i.h - 1) + rowBytes i.w

/-- The format of an image (R227). -/
def imgFmt (d : Nat) : Fmt := (Fmt.ofDesc d).getD .uint12

/-- The code of a pixel as the job has read it; a poisoned line reads as invalid codes (R199, R228, R243). -/
def Img.code (r : Running) (i : Img) (x y : Nat) : Nat :=
  let a := i.base + y * i.pitch + 2 * x
  let g := r.line (a / 64)
  if g.poison then (imgFmt i.fmt).invalid else lineBits g.data (a % 64) 16

/-- The lines that a job reads of an image, ascending. -/
def Img.lines (i : Img) : List Nat :=
  (((List.range i.h).flatMap fun y =>
    let a := i.base + y * i.pitch
    (List.range ((a + rowBytes i.w - 1) / 64 + 1 - a / 64)).map fun k => a / 64 + k)).eraseDups

/-- The 32-byte units of an output row, with their addresses; 0 beyond 2W (R228). -/
def rowUnits (i : Img) (y : Nat) (codes : List Nat) : List (Nat × List Byte) :=
  let bs := codes.flatMap (leBytes 2)
  let bytes := bs ++ zeros (rowBytes i.w - bs.length)
  (List.range (rowBytes i.w / 32)).map fun k => (i.base + y * i.pitch + 32 * k, slice bytes (32 * k) 32)

/-- The units of an output image, row by row. -/
def imgUnits (i : Img) (rows : List (List Nat)) : List (Nat × List Byte) := rows.zipIdx.flatMap fun r => rowUnits i r.2 r.1

/-- How many units an output image has. -/
def Img.units (i : Img) : Nat := i.h * (rowBytes i.w / 32)

/-- A job writes its next units, as far as DQ3 has room (R186, R228). A unit outside its space by now ends it (R212). -/
def putUnits (h e q base : Nat) : List (Nat × List Byte) → State → State
  | [], s => s
  | u :: us, s =>
    match (s.harbour h).runningAt e q with
    | none => s
    | some r =>
      let line := u.1 / 64 - base / 64
      if r.finished || !(s.harbour h).dqRoom 3 then s
      else if !rangeFor s h e q u.1 32 then stopAt s h e q r.issued line
      else
        let s := modRunning s h e q fun y => { y with issued := y.issued + 1 }
        putUnits h e q base us
          (placeItem s h 3 false (itemOf e q (.write 32) 0 u.1 line (BitVec.ofNat 512 (leNat u.2)) false))

/-- The detail of a job that its images' places end with RANGE: the offset of the first line of theirs outside its space, or
0 (R184, R212, R229). -/
def placesDetail (s : State) (l : List (Nat × Nat)) : Nat :=
  match l.find? fun x => !spaceOk s x.1 x.2 with
  | some x => badLine s x % 2 ^ 32
  | none => 0

/-! ### Sieve -/

/-- A sieve descriptor (Table 10.1). -/
structure SieveJob where
  op : Nat
  k : Nat
  border : Nat
  levels : Nat
  inFmt : Nat
  outFmt : Nat
  shift : Nat
  w : Nat
  h : Nat
  borderCode : Nat
  inBase : Nat
  inPitch : Nat
  outPitch : Nat
  outBase : Nat
  kernel : Nat

def sieveOf (d : List Byte) : SieveJob :=
  { op := leAt d 0 1, k := leAt d 1 1, border := leAt d 2 1, levels := leAt d 3 1, inFmt := leAt d 4 1,
    outFmt := leAt d 5 1, shift := leAt d 6 1, w := leAt d 8 2, h := leAt d 10 2, borderCode := leAt d 12 2,
    inBase := leAt d 16 8, inPitch := leAt d 24 4, outPitch := leAt d 28 4, outBase := leAt d 32 8, kernel := leAt d 40 8 }

def SieveJob.isPyr (j : SieveJob) : Bool := j.op == 3 || j.op == 4

/-- How many coefficients a sieve job reads. -/
def SieveJob.coeffs (j : SieveJob) : Nat :=
  match j.op with
  | 0 => 2 * j.k
  | 1 => j.k * j.k
  | 4 => j.k
  | _ => 0

def SieveJob.input (j : SieveJob) : Img := { base := j.inBase, pitch := j.inPitch, w := j.w, h := j.h, fmt := j.inFmt }

/-- The image of level ℓ + 1 placed after an image of a pyramid at `base` (R234). -/
def nextLevel (fmt base w h : Nat) : Img :=
  let w' := ceilDiv w 2
  { base := base, pitch := ceilDiv (2 * w') 32 * 32, w := w', h := ceilDiv h 2, fmt := fmt }

/-- The output levels of a pyramid, from a base and the size of the level before (R234). -/
def pyrLevels (fmt : Nat) : Nat → Nat → Nat → Nat → List Img
  | 0, _, _, _ => []
  | n + 1, base, w, h =>
    let i := nextLevel fmt base w h
    i :: pyrLevels fmt n (base + i.pitch * i.h) i.w i.h

/-- The output images of a job. -/
def SieveJob.outputs (j : SieveJob) : List Img :=
  if j.isPyr then pyrLevels j.outFmt j.levels j.outBase j.w j.h
  else [{ base := j.outBase, pitch := j.outPitch, w := j.w, h := j.h, fmt := j.outFmt }]

def imgFmtOk (f : Nat) : Bool := f == 0x30 || f == 0x40 || f == 0x90

/-- An image's place: aligned, wide enough, in a space (R176, R227). -/
def imgOk (s : State) (h e q : Nat) (i : Img) : Bool :=
  i.base % 32 == 0 && i.pitch % 32 == 0 && decide (2 * i.w ≤ i.pitch) && rangeFor s h e q i.base i.span

/-- Do output ranges keep clear of input ranges and of each other (R229). -/
def clear (ins outs : List (Nat × Nat)) : Bool :=
  outs.zipIdx.all fun o =>
    (ins.all fun i => !overlap o.1.1 o.1.2 i.1 i.2)
      && outs.zipIdx.all fun p => p.2 == o.2 || !overlap o.1.1 o.1.2 p.1.1 p.1.2

/-- The checks of R229 on a sieve descriptor; `co` are its coefficients. -/
def sieveOk (s : State) (h q : Nat) (d : List Byte) (j : SieveJob) (co : List Int) : Bool :=
  let kOk := j.k == 3 || j.k == 5 || ((j.k == 7 || j.k == 9) && j.op != 2)
  decide (j.op ≤ 4) && kOk && (j.op != 3 || j.k == 5) && decide (j.border ≤ 3)
    && (if j.isPyr then decide (1 ≤ j.levels) && decide (j.levels ≤ 8) else j.levels == 0)
    && imgFmtOk j.inFmt && imgFmtOk j.outFmt && (j.op != 2 || j.outFmt == j.inFmt)
    && decide (j.shift ≤ 31) && (j.op != 3 || j.shift == 8) && (j.op != 2 || j.shift == 0)
    && decide (8 ≤ j.w) && decide (j.w ≤ 4096) && decide (8 ≤ j.h) && decide (j.h ≤ 4096)
    && leAt d 7 1 == 0 && leAt d 14 2 == 0 && leAt d 48 16 == 0
    && (if j.op == 2 || j.op == 3 then j.kernel == 0 else j.kernel % 32 == 0 && rangeFor s h 3 q j.kernel (2 * j.coeffs))
    && co.all (· != -32768) && imgOk s h 3 q j.input && (j.outputs.all (imgOk s h 3 q)) && (j.outputs.all fun i => 8 ≤ i.w && 8 ≤ i.h)
    && clear ((j.inBase, j.input.span) :: (if j.coeffs = 0 then [] else [(j.kernel, 2 * j.coeffs)]))
        (j.outputs.map fun i => (i.base, i.span))

/-- Where a coordinate outside [0, n − 1] reads, none where it reads a border value (R231). -/
def borderMap (mode n : Nat) (u : Int) : Option Nat :=
  if 0 ≤ u ∧ u < n then some u.toNat
  else
    match mode with
    | 0 => some (if u < 0 then 0 else n - 1)
    | 1 => some (if u < 0 then (-u).toNat else (2 * (n : Int) - 2 - u).toNat)
    | _ => none

/-- The code that a tap reads (R231). -/
def tapCode (j : SieveJob) (fmt : Nat) (px : Nat → Nat → Nat) (w h : Nat) (x y : Int) : Nat :=
  match borderMap j.border w x, borderMap j.border h y with
  | some a, some b => px a b
  | _, _ => if j.border = 2 then j.borderCode else (imgFmt fmt).invalid

/-- The number that a tap reads of level ℓ of a pyramid, or of the input: a border code is of the input format at every
level (R231, R234, Table 10.1). -/
def tapNum (j : SieveJob) (fmt : Nat) (px : Nat → Nat → Nat) (w h : Nat) (x y : Int) : Num :=
  let outside := (borderMap j.border w x).isNone || (borderMap j.border h y).isNone
  decodeNum (imgFmt (if outside then j.inFmt else fmt)) (tapCode j (if outside then j.inFmt else fmt) px w h x y)

/-- The weight of tap (i, jj) (R231). -/
def tapWeight (j : SieveJob) (co : List Int) (i jj : Nat) : Int :=
  match j.op with
  | 0 => listGet 0 co i * listGet 0 co (j.k + jj)
  | 1 => listGet 0 co (jj * j.k + i)
  | 3 => listGet 0 [1, 4, 6, 4, 1] i * listGet 0 [1, 4, 6, 4, 1] jj
  | _ => listGet 0 co i * listGet 0 co jj

/-- An integer as an exact number. -/
def intNum (n : Int) : Num := .fin (n < 0) n.natAbs 0

/-- The exact sum over taps of non-zero weight, × 2^−s, rounded once with RNE (R232). -/
def filterAt (j : SieveJob) (co : List Int) (fmt : Nat) (px : Nat → Nat → Nat) (w h x y : Nat) : Rounded :=
  let r : Int := (j.k - 1) / 2
  let terms := (List.range j.k).flatMap fun jj => (List.range j.k).filterMap fun i =>
    let wt := tapWeight j co i jj
    if wt = 0 then none
    else some ((intNum wt).mul (tapNum j fmt px w h (((x + i : Nat) : Int) - r) (((y + jj : Nat) : Int) - r)))
  roundInto (imgFmt j.outFmt) .rne (match terms with
    | [] => .fin false 0 0
    | t :: ts => (ts.foldl Num.add t).scale (-(j.shift : Int)))

/-- Is the first code ordered before or with the second: numbers, −∞ first, −0 before +0 (R233). -/
def codeLe (f : Fmt) (a b : Nat) : Bool :=
  let x := decodeNum f a
  let y := decodeNum f b
  let c := x.cmp y
  if c = 0 then x.isNegZero || !y.isNegZero else decide (c < 0)

/-- A code into its place in a sorted list. -/
def insertCode (f : Fmt) (c : Nat) : List Nat → List Nat
  | [] => [c]
  | d :: ds => if codeLe f c d then c :: d :: ds else d :: insertCode f c ds

/-- MEDIAN: the code at rank (k² − 1)/2 (R233). -/
def medianAt (j : SieveJob) (px : Nat → Nat → Nat) (x y : Nat) : Nat :=
  let r : Int := (j.k - 1) / 2
  let f := imgFmt j.inFmt
  let cs := (List.range j.k).flatMap fun jj => (List.range j.k).map fun i =>
    tapCode j j.inFmt px j.w j.h (((x + i : Nat) : Int) - r) (((y + jj : Nat) : Int) - r)
  if cs.any (isInvalid f) then f.invalid else cleanCode f (listGet 0 (cs.foldr (insertCode f) []) ((j.k * j.k - 1) / 2))

/-- The rows of a filter output at each `step`-th pixel, and its clamps. -/
def filterRows (j : SieveJob) (co : List Int) (fmt : Nat) (px : Nat → Nat → Nat) (w h step : Nat) (o : Img) :
    List (List Nat) × Nat :=
  let rs := (List.range o.h).map fun y => (List.range o.w).map fun x => filterAt j co fmt px w h (step * x) (step * y)
  (rs.map fun r => r.map Rounded.code, (rs.flatten.filter Rounded.clamped).length)

/-- A pixel of rows of codes. -/
def rowsPx (rows : List (List Nat)) (x y : Nat) : Nat := listGet 0 (listGet [] rows y) x

/-- The levels of a pyramid, each from the codes of the one before (R234). -/
def pyrAll (j : SieveJob) (co : List Int) : List Img → Nat → (Nat → Nat → Nat) → Nat → Nat → List (Img × List (List Nat)) × Nat
  | [], _, _, _, _ => ([], 0)
  | o :: os, fmt, px, w, h =>
    let r := filterRows j co fmt px w h 2 o
    let t := pyrAll j co os j.outFmt (rowsPx r.1) o.w o.h
    ((o, r.1) :: t.1, r.2 + t.2)

/-- The outputs of a sieve job and its clamps. -/
def sieveResult (j : SieveJob) (co : List Int) (px : Nat → Nat → Nat) : List (Img × List (List Nat)) × Nat :=
  if j.isPyr then pyrAll j co j.outputs j.inFmt px j.w j.h
  else
    match j.outputs with
    | o :: _ =>
      if j.op = 2 then ([(o, (List.range o.h).map fun y => (List.range o.w).map fun x => medianAt j px x y)], 0)
      else
        let r := filterRows j co j.inFmt px j.w j.h 1 o
        ([(o, r.1)], r.2)
    | [] => ([], 0)

/-- A job's descriptor has passed its checks: it knows how many units it will write, and is not checked again (R229). -/
def jobStarts (s : State) (h e q units : Nat) : State := modRunning s h e q fun y => { y with total := units }

/-- The coefficients that a sieve job has read, none of a job whose kernel cannot be read. -/
def coefficients (r : Running) (j : SieveJob) : List Int :=
  let bs := r.bytes j.kernel (2 * j.coeffs)
  (List.range j.coeffs).map fun i => signed 16 (leAt bs (2 * i) 2)

/-- Does a sieve job read coefficients: it has some, at an aligned address of a space (R229). -/
def readsKernel (s : State) (h q : Nat) (j : SieveJob) : Bool :=
  j.coeffs != 0 && j.kernel % 32 == 0 && decide (j.coeffs ≤ 81) && rangeFor s h 3 q j.kernel (2 * j.coeffs)

/-- A sieve job that has read its image writes its output, row by row; its clamps count once (R232 to R234). -/
def sieveWrites (h q : Nat) (j : SieveJob) (s : State) (r : Running) : State :=
  if !(s.harbour h).dqRoom 3 then s
  else
    let out := sieveResult j (coefficients r j) (j.input.code r)
    let s := if r.issued = 0 ∧ out.2 ≠ 0 then s.count Reg.engSatClamps (8 * h + 3) 64 out.2 else s
    putUnits h 3 q j.outBase ((out.1.flatMap fun o => imgUnits o.1 o.2).drop r.issued) s

/-- A sieve job with its descriptor and coefficients: the checks, then the image, then the output (R229, R243). -/
def sieveGoes (h q : Nat) (d : List Byte) (s : State) (r : Running) : State :=
  let j := sieveOf d
  let co := if readsKernel s h q j then coefficients r j else []
  if r.total = 0 ∧ !sieveOk s h q d j co then
    finish s h 3 q 2 (placesDetail s (((j.input :: j.outputs).map fun i => (i.base, i.span)) ++ [(j.kernel, 2 * j.coeffs)]))
  else
    let s := if r.total = 0 then jobStarts s h 3 q (j.outputs.map Img.units).sum else s
    withLines h 3 q true (j.inBase / 64) j.input.lines (sieveWrites h q j) s

/-- SIEVE_JOB: descriptor, coefficients, checks, image, output (R229 to R234, R243). -/
def sieveRuns (h q : Nat) (s : State) (r : Running) : State :=
  let a := cmdBody r.cmd 0 48
  withDescriptor h 3 q a 64 (fun s r =>
    let d := r.bytes a 64
    let j := sieveOf d
    if readsKernel s h q j then withDescriptor h 3 q j.kernel (2 * j.coeffs) (sieveGoes h q d) s else sieveGoes h q d s r) s

/-- SIEVE_JOB. -/
def execSieveJob (h e q : Nat) (s : State) : Host.Outcome State Fault Refusal := command 0x30 (sieveRuns h q) h e q s

/-! ### Pair -/

/-- A pair descriptor (Table 10.3). -/
structure PairJob where
  paths : Nat
  flags : Nat
  tol : Nat
  fmt : Nat
  d : Nat
  p1 : Nat
  p2 : Nat
  a : Nat
  w : Nat
  h : Nat
  left : Nat
  right : Nat
  out : Nat
  inPitch : Nat
  outPitch : Nat
  scratch : Nat

def pairOf (d : List Byte) : PairJob :=
  { paths := leAt d 0 1, flags := leAt d 1 1, tol := leAt d 2 1, fmt := leAt d 3 1, d := leAt d 4 2, p1 := leAt d 6 2,
    p2 := leAt d 8 2, a := leAt d 10 1, w := leAt d 12 2, h := leAt d 14 2, left := leAt d 16 8, right := leAt d 24 8,
    out := leAt d 32 8, inPitch := leAt d 40 4, outPitch := leAt d 44 4, scratch := leAt d 48 8 }

def PairJob.leftImg (j : PairJob) : Img := { base := j.left, pitch := j.inPitch, w := j.w, h := j.h, fmt := j.fmt }
def PairJob.rightImg (j : PairJob) : Img := { base := j.right, pitch := j.inPitch, w := j.w, h := j.h, fmt := j.fmt }
def PairJob.outImg (j : PairJob) : Img := { base := j.out, pitch := j.outPitch, w := j.w, h := j.h, fmt := 0x40 }

/-- Bytes of the scratch range (R236). -/
def PairJob.scratchSize (j : PairJob) : Nat := ceilDiv (2 * j.w * j.h * j.d) 64 * 64

/-- The checks of R229 on a pair descriptor. The scratch range may overlap an input. -/
def pairOk (s : State) (h q : Nat) (d : List Byte) (j : PairJob) : Bool :=
  (j.paths == 4 || j.paths == 8 || j.paths == 16) && decide (j.flags < 4) && decide (j.tol ≤ 3)
    && (j.fmt == 0x30 || j.fmt == 0x40) && j.d % 8 == 0 && decide (8 ≤ j.d) && decide (j.d ≤ 256)
    && decide (1 ≤ j.p1) && decide (j.p1 ≤ 255) && decide (j.p1 ≤ j.p2) && decide (j.p2 ≤ 1023)
    && decide (16 ≤ j.w) && decide (j.w ≤ 4096) && decide (16 ≤ j.h) && decide (j.h ≤ 4096)
    && leAt d 11 1 == 0 && leAt d 56 8 == 0
    && imgOk s h 4 q j.leftImg && imgOk s h 4 q j.rightImg && imgOk s h 4 q j.outImg
    && addrSpace j.scratch == 0 && addrHarbour j.scratch == h && j.scratch % 32 == 0 && rangeFor s h 4 q j.scratch j.scratchSize
    && clear [(j.left, j.leftImg.span), (j.right, j.rightImg.span), (j.scratch, j.scratchSize)] [(j.out, j.outImg.span)]

/-- The value of a pixel code of the pair's formats, none when it is invalid. -/
def pairVal (fmt c : Nat) : Option Int :=
  if isInvalid (imgFmt fmt) c then none else some (if fmt = 0x40 then signed 16 c else c)

/-- The census of a pixel: one bit per neighbour, none where it is invalid (R237). -/
def census (j : PairJob) (px : Nat → Nat → Nat) (x y : Nat) : Option (List Bool) :=
  if x < 4 ∨ y < 3 ∨ j.w ≤ x + 4 ∨ j.h ≤ y + 3 then none
  else
    match pairVal j.fmt (px x y) with
    | none => none
    | some c =>
      let vs := (List.range 7).flatMap fun b => (List.range 9).filterMap fun a =>
        if a = 4 ∧ b = 3 then none else some (pairVal j.fmt (px (x + a - 4) (y + b - 3)))
      if vs.any Option.isNone then none else some (vs.map fun v => decide (v.getD 0 < c))

/-- The cost of a disparity (R238). -/
def censusCost (j : PairJob) (l r : Nat → Nat → Nat) (x y d : Nat) : Nat :=
  if x < d then 63
  else
    match census j l x y, census j r (x - d) y with
    | some a, some b => (List.zipWith (fun p q => p != q) a b).count true
    | _, _ => 63

/-- The smallest entry of a list, 0 of an empty one. -/
def minNat : List Nat → Nat
  | [] => 0
  | x :: xs => xs.foldl min x

/-- One step of a path's recursion (R239): the costs at p from those at q. -/
def pathStep (j : PairJob) (p2e : Nat) (cost prev : List Nat) : List Nat :=
  let m := minNat prev
  (List.range j.d).map fun d =>
    let a := listGet 0 prev d
    let b := if 1 ≤ d then min a (listGet 0 prev (d - 1) + j.p1) else a
    let c := if d + 2 ≤ j.d then min b (listGet 0 prev (d + 1) + j.p1) else b
    listGet 0 cost d + min c (m + p2e) - m

/-- P2e between two left pixels (R239). -/
def pathP2 (j : PairJob) (l : Nat → Nat → Nat) (x y x' y' : Nat) : Nat :=
  let di := match pairVal j.fmt (l x y), pairVal j.fmt (l x' y') with
    | some a, some b => (a - b).natAbs
    | _, _ => 0
  max j.p1 (j.p2 - j.a * di / 256)

/-- The path costs at p along a direction, from the image's edge on (R239). -/
def pathCost (j : PairJob) (l r : Nat → Nat → Nat) (dx dy : Int) : Nat → Nat → Nat → List Nat
  | 0, x, y => (List.range j.d).map (censusCost j l r x y)
  | n + 1, x, y =>
    let cost := (List.range j.d).map (censusCost j l r x y)
    let qx := (x : Int) - dx
    let qy := (y : Int) - dy
    if qx < 0 ∨ qy < 0 ∨ (j.w : Int) ≤ qx ∨ (j.h : Int) ≤ qy then cost
    else pathStep j (pathP2 j l x y qx.toNat qy.toNat) cost (pathCost j l r dx dy n qx.toNat qy.toNat)

/-- The path directions, in the order of Table 10.4. -/
def directions : List (Int × Int) :=
  [(1, 0), (-1, 0), (0, 1), (0, -1), (1, 1), (-1, 1), (1, -1), (-1, -1), (2, 1), (1, 2), (-1, 2), (-2, 1), (-2, -1),
   (-1, -2), (1, -2), (2, -1)]

/-- The aggregate S(p, ·) (R240). -/
def aggregate (j : PairJob) (l r : Nat → Nat → Nat) (x y : Nat) : List Nat :=
  let ls := (directions.take j.paths).map fun v => pathCost j l r v.1 v.2 (j.w + j.h) x y
  (List.range j.d).map fun d => (ls.map fun c => listGet 0 c d).sum

/-- The smallest index in [0, n] that minimizes a cost (R240). -/
def argMin (f : Nat → Nat) (n : Nat) : Nat := (List.range (n + 1)).foldl (fun b d => if f d < f b then d else b) 0

/-- The sub-pixel offset (R241). -/
def subPixel (c0 c1 c2 : Int) : Int :=
  let den := c0 - 2 * c1 + c2
  if 0 < den then (c0 - c2).sign * ((4 * ((c0 - c2).natAbs : Int) + den) / (2 * den)) else 0

/-- The output code of a pixel (R240 to R242), from the aggregates of its row. -/
def pairPixel (j : PairJob) (l r : Nat → Nat → Nat) (agg : List (List Nat)) (x y : Nat) : Nat :=
  let cost (x d : Nat) : Nat := listGet 0 (listGet [] agg x) d
  let top := min (j.d - 1) x
  let d := argMin (cost x) top
  if (census j l x y).isNone || (census j r (x - d) y).isNone then 0xFFFF
  else
    let xr := x - d
    let dr := argMin (fun k => cost (xr + k) k) (min (j.d - 1) (j.w - 1 - xr))
    if bit j.flags 0 && decide (j.tol < (((d : Int) - dr).natAbs)) then 0xFFFE
    else
      let q := if bit j.flags 1 && decide (1 ≤ d) && decide (d + 1 ≤ top) then
          subPixel (cost x (d - 1)) (cost x d) (cost x (d + 1))
        else 0
      toCode 16 (4 * (d : Int) + q)

/-- The output map. -/
def pairRows (j : PairJob) (l r : Nat → Nat → Nat) : List (List Nat) :=
  (List.range j.h).map fun y =>
    let agg := (List.range j.w).map fun x => aggregate j l r x y
    (List.range j.w).map fun x => pairPixel j l r agg x y

/-- What a pair job puts into its scratch range is not stated: free values, over whatever the range held, poison included
(R236; notes/assumptions/18.md). -/
def spoilScratch (s : State) (j : PairJob) : State :=
  let x := s.fresh (8 * j.scratchSize)
  let t := x.2.store j.scratch (leBytes j.scratchSize x.1.toNat)
  { t with poison := t.poison.filter fun l => !overlap (64 * l) 64 j.scratch j.scratchSize }

/-- A poisoned line of the scratch range, by its offset: one that the stack does not keep (R205, R243). -/
def badScratch (s : State) (h : Nat) (j : PairJob) : Option Nat :=
  if !stackReady s h then some 0
  else (s.poison.find? fun l => overlap (64 * l) 64 j.scratch j.scratchSize).map fun l => l - j.scratch / 64

/-- The pair's hold on the scratch range, from the job's start to its completion (R236). -/
def holdScratch (s : State) (h q : Nat) (j : PairJob) : State :=
  s.modHarbour h fun y => { y with scratch := (q, j.scratch, j.scratchSize) :: y.scratch }

/-- The lines that a pair job reads: those of both images, each once (R228). -/
def PairJob.lines (j : PairJob) : List Nat := (j.leftImg.lines ++ j.rightImg.lines).eraseDups

/-- A pair job that has read its images works in its scratch range and writes its map; a poisoned line of that range aborts
it (R236 to R243). -/
def pairWrites (h q : Nat) (j : PairJob) (s : State) (r : Running) : State :=
  if !(s.harbour h).dqRoom 3 then s
  else
    let s := if r.issued = 0 then spoilScratch s j else s
    match badScratch s h j with
    | some k => endCommand s h 4 q 4 (k % 2 ^ 32)
    | none =>
      let rows := pairRows j (j.leftImg.code r) (j.rightImg.code r)
      putUnits h 4 q j.out ((imgUnits j.outImg rows).drop r.issued) s

/-- The images, scratch range and output of a pair job. -/
def PairJob.places (j : PairJob) : List (Nat × Nat) :=
  [(j.left, j.leftImg.span), (j.right, j.rightImg.span), (j.out, j.outImg.span), (j.scratch, j.scratchSize)]

/-- PAIR_JOB: descriptor, checks, images, map (R229, R235 to R243). -/
def pairRuns (h q : Nat) (s : State) (r : Running) : State :=
  let a := cmdBody r.cmd 0 48
  withDescriptor h 4 q a 64 (fun s r =>
    let d := r.bytes a 64
    let j := pairOf d
    if r.total = 0 ∧ !pairOk s h q d j then finish s h 4 q 2 (placesDetail s j.places)
    else
      let s := if r.total = 0 then holdScratch (jobStarts s h 4 q j.outImg.units) h q j else s
      withLines h 4 q true (min j.left j.right / 64) j.lines (pairWrites h q j) s) s

/-- PAIR_JOB. -/
def execPairJob (h e q : Nat) (s : State) : Host.Outcome State Fault Refusal := command 0x38 (pairRuns h q) h e q s

end Sys2Proof.Machine
end

