-- ==== Sys2Proof/Machine/Launch.lean ====
section
/-! DEFINITION. LAUNCH, the pins of the tongs, and what the host writes to tokens and halted queues (R178, R185, R192,
R193, R195, R196, R198, R211, R212, R215, R217). -/

namespace Sys2Proof.Machine

/-! ### LAUNCH -/

/-- A launch descriptor (R192). -/
structure Launch where
  addr : Nat
  len : Nat
  split : Nat
  seed : Nat
  budget : Nat
  args : List Nat

def launchOf (d : List Byte) : Launch :=
  { addr := leAt d 0 8, len := leAt d 8 4, split := leAt d 12 1, seed := leAt d 13 1, budget := leAt d 16 8,
    args := (List.range 5).map fun k => leAt d (24 + 8 * k) 8 }

/-- The values that R192 gives its fields. -/
def launchOk (s : State) (d : List Byte) (l : Launch) : Bool :=
  decide (addrSpace l.addr ≤ 1) && l.addr % 8 == 0 && decide (1 ≤ l.len) && decide (l.len ≤ 16384) && decide (l.split ≤ 8)
    && leAt d 14 2 == 0 && (l.args.all fun a => decide (a < 2 ^ 48)) && rangeOk s l.addr (8 * l.len)

/-- The words of a kernel. -/
def kernelWords (s : State) (h k : Nat) (l : Launch) : List Word64 :=
  (List.range l.len).map fun n => kernelWord s h k (l.addr + 8 * n)

/-- Is a REDA allowed in the mode (R217, Table 9.4). -/
def redaOk (strict : Bool) (f : AnvilFields) : Bool :=
  let m := f.fmt.toNat
  f.rm == 0#2 && (m == 0x50 || m == 0xC0 || (m == 0xB0 && (f.x.getLsbD 25 || !strict)))

/-- A word that a kernel may hold (R130, R193, R217); one that breaks the static rules ends it with OPCODE
(notes/assumptions/19.md). -/
def kernelWordOk (strict : Bool) (rep : Option Word64) (w : Word64) : Bool :=
  let op := wordOp w
  !tileOnly op && wordOk rep w && (op != 0x3A || redaOk strict (wordFields w))

/-- Does a static LDW or STW address lie in the scratchpad of a split, repetitions included (R212). -/
def scratchOk (split : Nat) (rep : Option Word64) (w : Word64) : Bool :=
  let op := wordOp w
  (op != 0x11 && op != 0x12)
    || (repetitions rep w).all fun x => decide (32 * (xf (wordFields w) 0 10 + x.2 + 1) ≤ split * 131072)

/-- The status with which a kernel ends before its first instruction: OPCODE, or RANGE, or none. -/
def kernelStatus (strict : Bool) (split : Nat) (ws : List Word64) : Nat :=
  if repLast ws || !(withReps ws).all (fun x => kernelWordOk strict x.2 x.1) then 1
  else if !(withReps ws).all (fun x => scratchOk split x.2 x.1) then 2
  else 0

/-- The kernel that a descriptor starts (R192). -/
def newKernel (l : Launch) (tag queue : Nat) : Kernel :=
  { rf := Regfile.clear, ar := l.args.map (BitVec.ofNat 64) ++ List.replicate 3 0#64,
    budget := if l.budget = 0 then 2 ^ 40 else l.budget, executed := 0, pos := 0, slot := 0, rep := none, addr := l.addr,
    len := l.len, seedIndex := l.seed, tag := tag, queue := queue, status := 0, detail := 0, ended := false, done := none, arrived := [] }

/-- A LAUNCH that has read its descriptor: the fields, the route to its kernel, the split, the static checks of the kernel,
and the kernel (R192, R193, R194, R211, R212). -/
def startKernel (h e q : Nat) (s : State) (r : Running) (d : List Byte) : State :=
  let k := e - 1
  let l := launchOf d
  if !launchOk s d l then finish s h e q 2 0
  else if !freeRoute s h (addrHarbour l.addr) then finish s h e q 5 0
  else
    let s := if s.reg Reg.arraySplit (2 * h + k) = l.split then s else changeSplit s h k l.split
    let st := kernelStatus s.strict l.split (kernelWords s h k l)
    if st ≠ 0 then finish s h e q st 0
    else s.setTemper h k { s.temper h k with kernel := some (newKernel l (cmdTag r.cmd) q) }

/-- LAUNCH reads its descriptor and starts its kernel; the kernel's end is the command's (withKernel). -/
def launches (h e q : Nat) (s : State) (r : Running) : State :=
  match (s.temper h (e - 1)).kernel with
  | some _ => s
  | none =>
    let a := cmdBody r.cmd 0 48
    withDescriptor h e q a 64 (fun s r => startKernel h e q s r (r.bytes a 64)) s

/-- LAUNCH. -/
def execLaunch (h e q : Nat) (s : State) : Host.Outcome State Fault Refusal := command 0x20 (launches h e q) h e q s

/-! ### Shares and pins -/

/-- The live plane of a forging (Table 4.8). -/
def State.livePlane (s : State) (f : Nat) : Bool := s.flag Reg.forgeLivePlane f

/-- The share of a forging's live plane at a harbour. -/
def shareWords (s : State) (f h : Nat) : Nat := shareOf (s.plane f (s.livePlane f)).shoals f h

/-- The first beat that a PIN rule covers: its start, or the next record's beat when that is later (R195). -/
def firstCovered (s : State) (f : Nat) (start : Beat) : Beat :=
  match s.nextIssue f with
  | some n => if beatBefore start n then n else start
  | none => start

/-- PIN, committed at its first word: registers a rule, or with 0 beats removes the forging's rules (R195, R196, R250, R251). -/
def pinRuns (h q : Nat) (s : State) (r : Running) : State :=
  let c := r.cmd
  let f := cmdBody c 48 4
  let start := BitVec.ofNat 48 (cmdBody c 0 48)
  let beats := cmdBody c 60 20
  let life := cmdBody c 80 16
  let s := commitCmd s h 0 q
  let x := s.harbour h
  if beats = 0 then
    let n := (x.pinRules.filter fun y => y.forging = f).length
    finish (s.setHarbour h { x with pinRules := x.pinRules.filter fun y => y.forging != f }) h 0 q 0 n
  else if life = 0 ∨ 4096 < life ∨ 4 ≤ x.pinRules.length ∨ shareWords s f h = 0 then finish s h 0 q 2 0
  else
    let rule : PinRule := { forging := f, start := start, beats := beats, mask := cmdBody c 52 8, life := life, live := false }
    finish (s.setHarbour h { x with pinRules := x.pinRules ++ [rule] }) h 0 q 0 ((firstCovered s f start).toNat % 2 ^ 32)

/-- PIN. -/
def execPin (h e q : Nat) (s : State) : Host.Outcome State Fault Refusal := command 0x14 (pinRuns h q) h e q s

/-- Has the boundary of a beat come, at which a pin is released (R195). -/
def boundaryPast (s : State) (b : Beat) : Bool :=
  decide ((s.beat.at' : Int) + beatDiff b s.beat.n * s.beat.period ≤ s.clocks.cycle)

/-- The pin that a PIN_COPY names, while it lasts. -/
def pinOf (s : State) (h : Nat) (c : Cmd) : Option Pin :=
  ((s.tank h).pins.find? fun p => p.forging == cmdBody c 48 4 && p.beat == BitVec.ofNat 48 (cmdBody c 0 48)).filter fun p =>
    !boundaryPast s p.release

/-- A PIN_COPY without its pin: PIN_LATE where it never had it, PIN_EXPIRED with the lines copied so far (R198, R356). -/
def pinGone (s : State) (h q : Nat) (r : Running) (k : Nat) : State :=
  if k = 0 then finish s h 0 q 6 0
  else
    let s := s.detFault (harbourUnit h) (cmdBody r.cmd 0 32)
    modRunning s h 0 q fun y =>
      { y with issued := k, total := k, finished := decide (y.delivered = k), status := 7, detail := k % 2 ^ 32 }

/-- Line `k` of a PIN_COPY: of the pinned share, in the order of R172, the last line as far as it goes (R198). -/
def pinLine (h q : Nat) (s : State) (r : Running) (k : Nat) : State :=
  match pinOf s h r.cmd with
  | none => pinGone s h q r k
  | some p =>
    let bytes := p.words.flatMap fun w => leBytes 8 w.toNat
    let size := 8 * p.size
    let dst := cmdBody r.cmd 52 48
    let n := min 64 (size - 64 * k)
    if k = 0 ∧ !rangeFor s h 0 q dst size then finish s h 0 q 2 (badDetail s (dst, size))
    else if !rangeFor s h 0 q (dst + 64 * k) n then stopAt s h 0 q k k
    else
      let s := modRunning s h 0 q fun y => { y with total := ceilDiv size 64 }
      placeItem s h 3 false (itemOf 0 q (.write n) 0 (dst + 64 * k) k (BitVec.ofNat 512 (leNat (slice bytes (64 * k) n))) false)

/-- Has the harbour sent the words of the next line of a PIN_COPY, which the pin keeps as they are sent (R195). -/
def pinReady (s : State) (h : Nat) (r : Running) : Bool :=
  match pinOf s h r.cmd with
  | some p => decide (min (8 * (r.issued + 1)) p.size ≤ p.words.length)
  | none => true

/-- PIN_COPY: the pinned share, line by line, as far as its pin lasts; it gives up its turn while the words of its next
line have not been sent (R198). -/
def pinCopies (h q : Nat) (s : State) (r : Running) : State :=
  if pinReady s h r then tongsLine h q (pinLine h q) s r
  else if tongsTurn (s.harbour h) = some q then s.modHarbour h fun x => { x with tongsNext := (q + 1) % 4 }
  else s

/-- PIN_COPY. -/
def execPinCopy (h e q : Nat) (s : State) : Host.Outcome State Fault Refusal := command 0x15 (pinCopies h q) h e q s

/-! ### Writes of the host -/

/-- Token counters written whole (R178). -/
def setTokens (s : State) (h : Nat) (v : List Byte) : State :=
  s.modHarbour h fun x => { x with tokens := (List.range 64).map fun k => (k, BitVec.ofNat 16 (leAt v (2 * k) 2)) }

/-- A halted queue starts again (R185). -/
def resumeQueue (s : State) (h e q : Nat) : State :=
  let m := s.reg Reg.engHalted (8 * h + e)
  s.setReg Reg.engHalted (8 * h + e) (if bit m q then m - 2 ^ q else m)

/-- Commands submitted to an engine, each into the queue it names; refused whole where a queue lacks room (R180). -/
def submit (s : State) (h e : Nat) (v : List Byte) : Option State :=
  let cmds := (List.range (v.length / 32)).map fun k => (BitVec.ofNat 256 (leAt v (32 * k) 32) : Cmd)
  let x := s.harbour h
  let fits := (List.range 4).all fun q => (x.queue e q).length + (cmds.filter fun c => cmdQueue c = q).length ≤ 64
  if fits then
    some (cmds.foldl (fun s c => s.modHarbour h fun y =>
      { y with queues := tabMod [] y.queues (queueKey e (cmdQueue c)) fun l => l ++ [c] }) s)
  else none

end Sys2Proof.Machine
end

