-- ==== Sys2Proof/Machine/Bellows.lean ====
section
/-! DEFINITION. The bellows: micro-words, nano-words, patches in force, commit points, restarts and machine checks
(R244 to R256). A SEQ row carries the words that the stores hold at the context's address; a patched address takes the
patch in State (notes/assumptions/20.md). -/

namespace Sys2Proof.Machine

/-! ### Words -/

def microSeq (w : BitVec 24) : Nat := field w.toNat 21 3
def microCommit (w : BitVec 24) : Bool := w.getLsbD 20
def microNano (w : BitVec 24) : Nat := field w.toNat 11 9
def microField (w : BitVec 24) : Nat := field w.toNat 0 11

/-- Field [lo + n − 1 : lo] of a nano-word (Table 11.2). -/
def nanoF (n : BitVec 144) (lo w : Nat) : Nat := field n.toNat lo w

/-- The patch word that a ROM address fetches instead, none where no match register names it (R249). -/
def matchWord (p : Patch) (addr : Nat) : Option Nat :=
  (p.match'.find? fun m => m.getLsbD 31 && field m.toNat 7 11 == addr).map fun m => field m.toNat 0 7

/-- The patch word index that a micro address fetches, none for a ROM word. -/
def patchIndex (p : Patch) (addr : Nat) : Option Nat := if 0x800 ≤ addr then some (addr - 0x800) else matchWord p addr

/-- The micro-word that an issue executes (R246, R249). -/
def microWord (s : State) (c : Ctx) (i : MicroIssue) : BitVec 24 :=
  match patchIndex s.patch c.addr with
  | some k => listGet 0#24 s.patch.micro k
  | none => i.word

/-- The nano-word that an issue executes: ROM below 384, patch from 384 on (R246). -/
def nanoWord (s : State) (w : BitVec 24) (i : MicroIssue) : BitVec 144 :=
  if 384 ≤ microNano w then listGet 0#144 s.patch.nano (microNano w - 384) else i.nano

/-! ### Machine checks (R254 to R256) -/

/-- A SEQ_MC_RECORD (Table 11.5). -/
def mcRecord (cause store ctx opcode addr nano : Nat) (beat : Beat) : BitVec 128 :=
  BitVec.ofNat 8 cause ++ BitVec.ofNat 4 store ++ BitVec.ofNat 4 ctx ++ BitVec.ofNat 8 opcode ++ BitVec.ofNat 12 addr
    ++ BitVec.ofNat 9 nano ++ 0#35 ++ beat

/-- A machine check of the bellows: recorded once per harbour and counted after that; the engine is FAULTED (R256). -/
def bellowsCheck (s : State) (h k cause store nano : Nat) : State :=
  let c := (s.harbour h).ctx k
  let s := if (s.domain Reg.seqMcRecord h).isEmpty then
      s.setDomain Reg.seqMcRecord h (leBytes 16 (mcRecord cause store k c.opcode c.addr nano s.beat.n).toNat)
    else s.count Reg.seqMcCount h
  machineCheck s { code := 0xFF50 + cause, unit := harbourUnit h, detail := cause }

/-! ### Restarts (R252 to R254) -/

/-- The group stalls for `n` HARBOUR cycles (R189, R253). -/
def stallFor (s : State) (h n : Nat) : State :=
  let was := (s.harbour h).stalled
  let s := s.modHarbour h fun x => { x with stalled := true }
  (s.advance (2 * n)).modHarbour h fun x => { x with stalled := was }

/-- The running command of a context ends ABORTED with detail 0, and has no further effect (R254). -/
def abortCommand (s : State) (h k : Nat) : State :=
  let c := (s.harbour h).ctx k
  if 8 ≤ k then setCtx s h k Ctx.idle
  else
    match (s.harbour h).runningAt c.engine c.queue with
    | some r =>
      retire (dropItems s h c.engine c.queue) h c.engine c.queue { r with finished := true, status := 4, detail := 0 }
    | none => setCtx s h k Ctx.idle

/-- The work of a command whose routine is abandoned before its commit point is done again from its start: what it had read
or issued is gone (R250, R253). A refused command has no work. -/
def restartWork (s : State) (h e q : Nat) : State :=
  match (s.harbour h).runningAt e q with
  | none => s
  | some r =>
    if r.finished then s
    else
      let s := freeScratch (dropKernel (dropItems s h e q) h e) h e q
      modRunning s h e q fun y =>
        { y with issued := 0, delivered := 0, total := cmdLines y.cmd, lines := [], poison := false, status := 0, detail := 0 }

/-- Starts a routine again from its dispatch entry, with the same command (R252). -/
def restartRoutine (s : State) (h k : Nat) (c : Ctx) : State :=
  let bit' := if 8 ≤ k then 11 else maskBit c.engine
  let s := dispatch (if 8 ≤ k then s else restartWork s h c.engine c.queue) h k c.opcode bit' c.engine c.queue
  setCtx s h k { (s.harbour h).ctx k with restarts := c.restarts + 1 }

/-- A routine before its commit point meets an interrupt: it restarts from its dispatch entry; in lockstep the group
stalls until it has re-executed its words, and it stands where it stood (R252, R253). The eighth restart in a row aborts
it (R254). -/
def restart (s : State) (h k : Nat) : State :=
  let c := (s.harbour h).ctx k
  if c.state = 0 ∨ c.commit then s
  else
    let s := s.count Reg.seqRestarts h 64
    if 8 ≤ c.restarts + 1 then abortCommand s h k
    else if k < 8 ∧ s.lockstep h then
      stallFor (setCtx s h k { c with restarts := c.restarts + 1, awaits := none }) h (4 * (c.issued + 1))
    else restartRoutine s h k c

/-- A test claims a unit that a routine before its commit point uses: the routine is abandoned, and restarts when the unit is
released (R252). -/
def interrupt (s : State) (h k : Nat) (u : FaultUnit) : State :=
  let c := (s.harbour h).ctx k
  if c.state = 0 ∨ c.commit then s else setCtx s h k { c with awaits := some u }

/-- ROUTINE_RESTART: a unit that the routine uses is claimed. -/
def execRoutineRestart (h ctx : Nat) (s : State) : Host.Outcome State Fault Refusal :=
  onUnit (s.hasHarbour h && ctx < 10) s (restart s h ctx)

/-! ### Effects of a nano-word (R247, R250) -/

/-- An effect that is refused before commit (R250): TOKOP 1 or 2, RETIRE, STATUS, a write to the token file, a start of
the completion ring. Table 11.2 gives a pin registration no code: it is the row PIN's, which commits first (R251). -/
def needsCommit (n : BitVec 144) : Bool :=
  let tok := nanoF n 42 2
  let op := nanoF n 84 5
  let unit := nanoF n 80 4
  tok == 1 || tok == 2 || n.getLsbD 41 || n.getLsbD 40 || ((op == 2 || op == 4) && unit == 10) || (op == 5 && unit == 11)

def kReg (c : Ctx) (n : Nat) : BitVec 64 := listGet 0#64 c.k n
def setK (c : Ctx) (n : Nat) (v : BitVec 64) : Ctx := { c with k := listSet c.k n v }

/-- The second ALU operand by BSEL; the command body field that BSEL 3 takes is not stated: a free value. -/
def aluB (s : State) (c : Ctx) (w : BitVec 24) (n : BitVec 144) : State × BitVec 64 :=
  match nanoF n 121 2 with
  | 0 => (s, kReg c (nanoF n 123 5))
  | 1 => (s, BitVec.ofNat 64 (microField w))
  | 2 => (s, BitVec.ofNat 64 (nanoF n 89 32))
  | _ =>
    let x := s.fresh 64
    (x.2, x.1)

/-- The ALU operation: D and the condition flags that the word updates. -/
def aluStep (s : State) (c : Ctx) (w : BitVec 24) (n : BitVec 144) : State × Ctx :=
  let code := nanoF n 138 6
  if code = 0 then (s, c)
  else
    let x := aluB s c w n
    let a := kReg c (nanoF n 128 5)
    let rom := s.reg Reg.seqRomId
    let mask := BitVec.ofNat 4 (nanoF n 66 4)
    let fl := (c.flags &&& ~~~mask) ||| (Config.aluFlags rom code a x.2 &&& mask)
    (x.1, { setK c (nanoF n 133 5) (Config.aluResult rom code a x.2) with flags := fl })

/-- Bytes of a line, or of a half-line, that a bus operation moves (Table 11.2). -/
def busBytes (op : Nat) : Nat := if op = 1 ∨ op = 2 then 64 else 32

/-- The address that a bus operation names, at the start of its line or half-line, where a space has it. -/
def busAddr (s : State) (c : Ctx) (n : BitVec 144) : Option Nat :=
  let w := busBytes (nanoF n 84 5)
  let a := (kReg c (nanoF n 75 5)).toNat % 2 ^ 48 / w * w
  if spaceOk s a w then some a else none

/-- A unit's answer into a K register where the manual does not say what it is. -/
def busAsk (s : State) (c : Ctx) (n : BitVec 144) : State × Ctx :=
  let v := Config.busAnswer (nanoF n 80 4) (nanoF n 84 5) (kReg c (nanoF n 75 5)) s.free
  ({ s with free := s.free + 1 }, setK c (nanoF n 70 5) v)

/-- A read: of the hold's line or half-line, of the token file, or of a unit whose answer is its own (R247). -/
def busRead (s : State) (h : Nat) (c : Ctx) (n : BitVec 144) : State × Ctx :=
  let op := nanoF n 84 5
  let a := kReg c (nanoF n 75 5)
  match nanoF n 80 4 with
  | 0 =>
    match busAddr s c n with
    | some x => (s, setK c (nanoF n 70 5) (Config.busTake op a (BitVec.ofNat 512 (leNat (s.load x (busBytes op))))))
    | none => busAsk s c n
  | 10 => (s, setK c (nanoF n 70 5) (BitVec.ofNat 64 (tabGet 0#16 (s.harbour h).tokens (a.toNat % 64)).toNat))
  | _ => busAsk s c n

/-- A write: of the hold's line or half-line, or of the token file (R247). -/
def busWrite (s : State) (h : Nat) (c : Ctx) (n : BitVec 144) : State :=
  let op := nanoF n 84 5
  let a := kReg c (nanoF n 75 5)
  let d := kReg c (nanoF n 70 5)
  match nanoF n 80 4 with
  | 0 =>
    match busAddr s c n with
    | some x => s.store x (leBytes (busBytes op) (Config.busPut op a d).toNat)
    | none => s
  | 10 => s.modHarbour h fun x => { x with tokens := tabSet x.tokens (a.toNat % 64) (d.setWidth 16) }
  | _ => s

/-- Writes the completion record held in K28 and K29, K29 high. -/
def writeRecord (s : State) (h : Nat) (c : Ctx) : State := s.modHarbour h fun x => x.complete (kReg c 29 ++ kReg c 28)

/-- The bus operation (Table 11.2). A unit start, but for the completion ring's, and the unit-specific operations do what the
rows of the engines' commands and lines do (notes/assumptions/106.md). -/
def busStep (s : State) (h : Nat) (c : Ctx) (n : BitVec 144) : State × Ctx :=
  let op := nanoF n 84 5
  if op = 1 ∨ op = 3 then busRead s h c n
  else if op = 2 ∨ op = 4 then (busWrite s h c n, c)
  else if op = 5 ∧ nanoF n 80 4 = 11 then (writeRecord s h c, c)
  else if op = 6 then busAsk s c n
  else (s, c)

/-- The token operation. -/
def tokenStep (s : State) (h : Nat) (c : Ctx) (n : BitVec 144) : State × Ctx :=
  let t := nanoF n 44 6
  match nanoF n 42 2 with
  | 1 => (advanceToken s h t 1, c)
  | 2 => (advanceToken s h t ((kReg c (nanoF n 128 5)).toNat % 65536), c)
  | 3 => (s, setK c (nanoF n 133 5) (BitVec.ofNat 64 (tabGet 0#16 (s.harbour h).tokens t).toNat))
  | _ => (s, c)

/-- RETIRE writes the record of K28–K29, K29 high; STATUS sets the command's status from K30. -/
def recordStep (s : State) (h : Nat) (c : Ctx) (n : BitVec 144) : State :=
  let s := if n.getLsbD 41 then writeRecord s h c else s
  if n.getLsbD 40 then modRunning s h c.engine c.queue fun r => { r with status := (kReg c 30).toNat % 256 } else s

/-- Everything a nano-word does; its EVENT bits stay for a later WAIT. -/
def nanoStep (s : State) (h : Nat) (c : Ctx) (w : BitVec 24) (n : BitVec 144) : State × Ctx :=
  let a := aluStep s c w n
  let b := busStep a.1 h a.2 n
  let t := tokenStep b.1 h b.2 n
  (recordStep t.1 h t.2 n, { t.2 with events := t.2.events ||| BitVec.ofNat 16 (nanoF n 50 16) })

/-! ### Issue (R245, R246) -/

/-- What the sequence field does next: an address, a hold, an end, or a machine-check cause. -/
inductive Next where
  | go (addr : Nat) (stack : List Nat)
  | wait
  | fin
  | check (cause : Nat)
  deriving DecidableEq, Repr

/-- An address as the next one, unless it lies outside both stores (R246). -/
def goTo (addr : Int) (stack : List Nat) : Next := if 0 ≤ addr ∧ addr < 0x880 then .go addr.toNat stack else .check 4

/-- Do two addresses lie in the same store. -/
def sameStore (a : Nat) (b : Int) : Bool := decide (a < 0x800) == decide (b < 0x800)

/-- The sequence field of a word (R246). -/
def sequence (c : Ctx) (w : BitVec 24) (cond : Bool) : Next :=
  let f := microField w
  let next : Int := (c.addr : Int) + 1
  match microSeq w with
  | 0 => goTo next c.stack
  | 1 => goTo f c.stack
  | 2 => if f / 128 = 0 then goTo (0x800 + f : Nat) c.stack else .check 4
  | 3 =>
    let t := (c.addr : Int) + signed 7 (f % 128)
    if !cond then goTo next c.stack else if sameStore c.addr t then goTo t c.stack else .check 4
  | 4 => if 4 ≤ c.stack.length then .check 3 else goTo f ((c.addr + 1) :: c.stack)
  | 5 =>
    match c.stack with
    | a :: rest => goTo a rest
    | [] => .check 3
  | 6 => if cond then goTo next c.stack else .wait
  | _ => .fin

/-- The even parity of each byte of a word, byte 0 lowest (R255). -/
def parityOf (bytes w : Nat) : Nat :=
  (List.range bytes).foldl (fun m i => m + (List.range 8).foldl (fun p j => (p + ofBool (bit w (8 * i + j))) % 2) 0 * 2 ^ i) 0

/-- The parity of a patched micro-word or nano-word that an issue fetches is not its word's (R255). -/
def patchBroken (s : State) (c : Ctx) (w : BitVec 24) : Option (Nat × Nat) :=
  let p := s.patch
  let micro := match patchIndex p c.addr with
    | some k => (listGet 0#3 p.microParity k).toNat != parityOf 3 (listGet 0#24 p.micro k).toNat
    | none => false
  let k := microNano w - 384
  if micro then some (1, 2)
  else if 384 ≤ microNano w ∧ (listGet 0#18 p.nanoParity k).toNat ≠ parityOf 18 (listGet 0#144 p.nano k).toNat then some (1, 3)
  else if (p.match'.zip p.matchParity).any fun x => x.2.toNat != parityOf 4 x.1.toNat then some (1, 5)
  else none

/-- The store of a word in which a parity error lies (Table 11.5). -/
def microStore (s : State) (c : Ctx) : Nat := if (patchIndex s.patch c.addr).isSome then 2 else 0

/-- The machine check that an issue raises before it acts: cause and store. -/
def issueCheck (s : State) (c : Ctx) (w : BitVec 24) (n : BitVec 144) (k : SeqCheck) : Option (Nat × Nat) :=
  match k with
  | .microParity => some (1, microStore s c)
  | .nanoParity => some (1, if 384 ≤ microNano w then 3 else 1)
  | .dispatchParity => some (1, 4)
  | .matchParity => some (1, 5)
  | .kLost _ => some (2, 6)
  | _ =>
    if (patchBroken s c w).isSome then patchBroken s c w
    else if 448 ≤ microNano w then some (4, 15)
    else if nanoF n 138 6 ≠ 0 ∧ Config.aluDefined (s.reg Reg.seqRomId) (nanoF n 138 6) = false then some (5, 15)
    else if needsCommit n && !(c.commit || microCommit w) then some (6, 15)
    else none

/-- Code 1 PRE or 2 POST of a context (Table 11.8). -/
def liveState (commit : Bool) : Nat := if commit then 2 else 1

/-- Does the routine of a system context have nothing left to do: no plane is being loaded, or no BIST runs (R251). -/
def systemDone (s : State) (k : Nat) : Bool :=
  if k = 8 then (List.range 16).all fun f => [false, true].all fun q => s.planeState f q != 1 || (s.plane f q).loaded
  else s.faults.bist.isNone

/-- END: a command whose work is done retires; a system routine ends (R250). -/
def endRoutine (s : State) (h k : Nat) : State :=
  let c := (s.harbour h).ctx k
  if 8 ≤ k then (if systemDone s k then idleCtx s h k else s)
  else
    match (s.harbour h).runningAt c.engine c.queue with
    | some r => if workDone s h (withKernel s h r) then retire s h c.engine c.queue (withKernel s h r) else s
    | none => idleCtx s h k

/-- A corrected K register error (Table 17.2 kind 6): its record and test, and the interrupt of R252. -/
def kCorrected (s : State) (h k reg : Nat) : State :=
  let u : FaultUnit := { kind := 6, unit := harbourUnit h, loc := k * 4096 + reg % 32 * 128 }
  restart (detect s u false reg 0) h k

/-- The word's effects and its sequence. -/
def issueActs (s : State) (h k : Nat) (c : Ctx) (w : BitVec 24) (n : BitVec 144) (cond : Bool) : State :=
  let commit := c.commit || microCommit w
  let c := { c with commit := commit, issued := c.issued + 1, restarts := if commit then 0 else c.restarts }
  let x := nanoStep s h c w n
  match sequence c w cond with
  | .go a st => setCtx x.1 h k { x.2 with state := liveState commit, addr := a, stack := st }
  | .wait => setCtx x.1 h k { x.2 with state := 3 }
  | .fin => endRoutine (setCtx x.1 h k { x.2 with state := liveState commit }) h k
  | .check cause => bellowsCheck (setCtx x.1 h k x.2) h k cause 15 (microNano w)

/-- A held WAIT: it takes no issue, and once its condition holds the next word is what the context issues (R246;
notes/assumptions/107.md). -/
def heldWait (s : State) (h k : Nat) (c : Ctx) (w : BitVec 24) (cond : Bool) : State :=
  match sequence c w cond with
  | .go a st => setCtx s h k { c with state := liveState c.commit, addr := a, stack := st, events := 0#16 }
  | .check cause => bellowsCheck s h k cause 15 (microNano w)
  | _ => s

/-- The first group cycle from `g` on that group context `k` owns: g mod 4 = 0 and ⌊g/4⌋ mod 8 = k (R245). -/
def slotFrom (k g : Nat) : Nat := g + (4 * k + 32 - g % 32) % 32

/-- Lets cycles pass up to a group cycle of a harbour; none where its group does not come to it (R188, R189). -/
def runToGroup (s : State) (h g : Nat) : Option State :=
  let d := g - s.reg Reg.engGroupCycles h
  let u := if s.power.throttled then 4 else 2
  let c := s.clocks.cycle
  let t := if d = 0 then s else s.runTo (u * (c / u + d))
  if s.groupStands h || t.reg Reg.engGroupCycles h != g then none else some t

/-- May a context of the system pipe use an issue: it is dispatched and not held (R245). -/
def pipeReady (c : Ctx) : Bool := (c.state == 1 || c.state == 2) && c.awaits.isNone

/-- The next issue of the system pipe goes to context `k`, unless the other's turn has come: one word per CONTROL cycle,
in turn (R245). -/
def runToPipe (s : State) (h k : Nat) : Option State :=
  let x := s.harbour h
  if x.pipeLast = k ∧ pipeReady (x.ctx (17 - k)) then none
  else
    let at' := (max x.pipeAt s.clocks.cycle + 7) / 8 * 8
    some ((s.runTo at').modHarbour h fun y => { y with pipeAt := at' + 8, pipeLast := k })

/-- A BIST that waits for the routines past their commit point to retire (R252). -/
def bistWaits (s : State) (h : Nat) : Bool := (s.harbour h).ctxs.any fun c => c.1 != 9 && c.2.state != 0 && c.2.commit

/-- The state in which a context has its next issue, none where it has none (R245, R252). -/
def issueSlot (s : State) (h k : Nat) : Option State :=
  let c := (s.harbour h).ctx k
  if c.awaits.isSome || (k == 9 && bistWaits s h) then none
  else if 8 ≤ k then runToPipe s h k
  else
    let g := slotFrom k (max c.next (s.reg Reg.engGroupCycles h))
    (runToGroup s h g).map fun t => setCtx t h k { (t.harbour h).ctx k with next := g + 1 }

/-- A word that issues: its checks, its effects, and the interrupt of a corrected K register. -/
def issueWord (s : State) (i : MicroIssue) (w : BitVec 24) (n : BitVec 144) : State :=
  let c := (s.harbour i.h).ctx i.ctx
  match issueCheck s c w n i.check with
  | some (cause, store) => bellowsCheck s i.h i.ctx cause store (microNano w)
  | none =>
    let t := issueActs s i.h i.ctx c w n i.cond
    match i.check with
    | .kCorrected r => if c.commit || microCommit w then t else kCorrected t i.h i.ctx r
    | _ => t

/-- The next issue of a context, by the row of its word's sequence code; time passes up to it. A context that is idle or has
no issue, or another word than the row names, is no issue. -/
def issue (seq : Nat) (i : MicroIssue) (s : State) : State :=
  let c := (s.harbour i.h).ctx i.ctx
  let w := microWord s c i
  if c.state = 0 ∨ microSeq w ≠ seq then s
  else if c.state = 3 then heldWait s i.h i.ctx c w i.cond
  else
    match issueSlot s i.h i.ctx with
    | some t => issueWord t i w (nanoWord t w i)
    | none => s

/-- A row of the sequencer. -/
def seqRow (seq : Nat) (i : MicroIssue) (s : State) : Host.Outcome State Fault Refusal :=
  onUnit (s.hasHarbour i.h && i.ctx < 10) s (issue seq i s)

/-- SEQ_NEXT. -/
def execSeqNext (i : MicroIssue) (s : State) : Host.Outcome State Fault Refusal := seqRow 0 i s

/-- SEQ_JUMP. -/
def execSeqJump (i : MicroIssue) (s : State) : Host.Outcome State Fault Refusal := seqRow 1 i s

/-- SEQ_JUMP_P. -/
def execSeqJumpP (i : MicroIssue) (s : State) : Host.Outcome State Fault Refusal := seqRow 2 i s

/-- SEQ_BRANCH. -/
def execSeqBranch (i : MicroIssue) (s : State) : Host.Outcome State Fault Refusal := seqRow 3 i s

/-- SEQ_CALL. -/
def execSeqCall (i : MicroIssue) (s : State) : Host.Outcome State Fault Refusal := seqRow 4 i s

/-- SEQ_RETURN. -/
def execSeqReturn (i : MicroIssue) (s : State) : Host.Outcome State Fault Refusal := seqRow 5 i s

/-- SEQ_WAIT. -/
def execSeqWait (i : MicroIssue) (s : State) : Host.Outcome State Fault Refusal := seqRow 6 i s

/-- SEQ_END. -/
def execSeqEnd (i : MicroIssue) (s : State) : Host.Outcome State Fault Refusal := seqRow 7 i s

end Sys2Proof.Machine
end

