-- ==== Sys2Proof/Machine/Ferry.lean ====
section
/-! DEFINITION. Ferries, and blocks as the deserializer and the FEC decoder give them (R24, R56, R62, R74 to R80, R99, R100). -/

namespace Sys2Proof.Machine

/-- The receive ferry of a lane. -/
def ferryPlan (s : State) (l : Nat) : Option FerryPlan := (ferryImage s).bind fun i => i.ferries.find? fun p => p.lane = l ∧ !p.transmit

/-- Is some plane SOUNDING. -/
def anySounding (s : State) : Bool := (List.range 16).any fun f => s.planeState f false == 2 || s.planeState f true == 2

/-- A token is discarded, and the ferry leaves ALIGNED (R79, R80). -/
def ferryDrop (s : State) (l : Nat) : State :=
  let s := loseAlign (s.count Reg.laneFerryDrops l) l
  s.modLane l fun x => { x with verify := 0, ferryTokens := [], ferryFrom := none, ferrySeq := none }

/-- The cycle in which a slot's token of a beat is released (R99). -/
def ferryCycle (s : State) (l j : Nat) (n : Beat) : Nat := s.boundaryAt n + (s.lane l).ferryRelease.getD j 0

/-- Does a good TOKEN block that names beat `n` bring the lane into ALIGNED, as the second in a row (R80). -/
def ferryAligns (s : State) (l : Nat) (n : Beat) : Bool :=
  let x := s.lane l
  let st := s.laneSt l
  decide (2 ≤ x.verify)
    && (((st == lsMarkerHunt || st == lsVerify) && (!s.strictRun || x.armed)) || st == lsSlipped
      || (st == lsWaitHost && x.armed && !beatBefore n x.armBeat))

/-- The lane's state after a good TOKEN block. -/
def ferryVerify (s : State) (l : Nat) (n : Beat) : State :=
  if ferryAligns s l n then
    (s.modLane l fun x => { x with armed := false, alignedFrom := n, ferryFrom := none, ferryTokens := [] }).setLaneSt l lsAligned
  else if decide (2 ≤ (s.lane l).verify) && (s.laneSt l == lsMarkerHunt || s.laneSt l == lsVerify) then
    s.setLaneSt l lsWaitHost
  else s

/-- A data token is held for its release, or discarded when it is late or the buffer is full (R79). -/
def ferryHold (s : State) (l : Nat) (p : FerryPlan) (n : Beat) (tok : Token) : State :=
  match ferrySlot p (tagSeq tok.tag).toNat with
  | none => s
  | some j =>
    let due := ferryCycle s l j n
    let x := s.lane l
    if due < s.clocks.cycle ∨ x.ferryDone.contains (j, n) ∨ 64 ≤ x.ferryTokens.length then ferryDrop s l
    else
      let start := match x.ferryFrom with
        | some b => some b
        | none => if tagSeq tok.tag = 0#4 then some n else none
      s.modLane l fun x => { x with ferryTokens := insertTimed { at' := due, tok := tok } x.ferryTokens, ferryFrom := start }

/-- A sounding token's landing cycle; or a peer's result, which is kept for the sounding in progress and, when it is a failure,
waits to be relayed in the next beat (R99, R100). -/
def ferrySounds (s : State) (l : Nat) (n : Beat) (tag : Tag) : State :=
  if tagSeq tag = 0xF#4 then
    let fail := tag.getLsbD 8
    let relay := if fail then s.act.relay ++ [l] else s.act.relay
    { s with act := { s.act with relay := relay, results := (l, fail) :: s.act.results.filter fun x => x.1 != l || x.2 } }
  else if !anySounding s then s
  else
    let d : Int := (s.clocks.cycle : Int) - s.boundaryAt n
    s.modLane l fun x => { x with ferryLanding := some (match x.ferryLanding with | some y => max y d | none => d) }

/-- A TOKEN block and its four data blocks land on a ferry lane (R78 to R80). -/
def ferryArrives (s : State) (l : Nat) (header : Word64) (data : Word256) : State :=
  let st := s.laneSt l
  if s.reg Reg.laneRole l ≠ 1 ∨ st < lsMarkerHunt ∨ st = lsPrbs then s
  else
    let tag : Tag := header.extractLsb' 24 32
    let seq := field header.toNat 16 8
    if ferryCrc tag ((tokenWords data).map BitVec.toNat) ≠ field header.toNat 0 16 then laneError (ferryDrop s l) l
    else
      let n := rebuildBeat s.beat.n (tagBeat tag)
      let x := s.lane l
      let run := if x.ferrySeq = some ((seq + 255) % 256) then x.verify + 1 else 1
      let s := ferryVerify (s.modLane l fun x => { x with verify := run, ferrySeq := some seq }) l n
      match ferryPlan s l with
      | none => s
      | some p =>
        if !tagValid tag then ferrySounds s l n tag
        else if s.laneSt l = lsAligned then ferryHold s l p n { data := data, tag := tag }
        else s

/-- FERRY_TOKEN. -/
def execFerryToken (lane : Nat) (header : Word64) (words : Word256) (s : State) : Host.Outcome State Fault Refusal :=
  let x := takeInject s lane
  onUnit (s.hasLane lane) s
    (if x.1 = 0 then ferryArrives x.2 lane header words else laneError (x.2.count Reg.laneBlockErrors lane) lane)

/-- The token that the ferry receiver delivers for a slot, and whether it is a substitute (R24, R79, R80, R105). -/
def ferryDelivers (s : State) (l j : Nat) (p : FerryPlan) (n : Beat) (q : Bool) : Token × Bool :=
  let x := s.lane l
  let seq := p.seqs.getD j 0
  let held := x.ferryTokens.find? fun t => tagBeat t.tok.tag == n.extractLsb' 0 16 && (tagSeq t.tok.tag).toNat == seq
  let from' := match x.ferryFrom with
    | some b => s.laneSt l == lsAligned && !beatBefore n b
    | none => false
  match held, from' with
  | some t, true =>
    ({ t.tok with tag := makeTag (tagBeat t.tok.tag) p.forging q true (tagFlags t.tok.tag) (tagLast t.tok.tag) (tagSeq t.tok.tag) }, false)
  | _, _ =>
    let fl := BitVec.ofBool (isPriming s p.forging q n) ++ 0b1000#4
    ({ data := BitVec.ofNat 256 (invalidWord ((Fmt.ofDesc p.format).getD .uint1)),
       tag := makeTag (n.extractLsb' 0 16) p.forging q true fl (decide (j + 1 = p.seqs.length)) (BitVec.ofNat 4 seq) }, true)

/-- A ferry lost while RUNNING sends one EMCY until it delivers again (R24). -/
def ferryLoss (s : State) (l : Nat) (substitute : Bool) : State :=
  if !substitute then s.modLane l fun x => { x with ferryLost := false }
  else if s.mode = .running ∧ !(s.lane l).ferryLost then
    (s.modLane l fun x => { x with ferryLost := true }).emcy { code := 0xFF30, unit := harbourUnit (l / 64), detail := l }
  else s

/-- The receiver releases a slot's token at the cycle that sounding set for it. -/
def ferryRelease (s : State) (l j : Nat) : State :=
  match ferryPlan s l with
  | none => s
  | some p =>
    let rel := (s.lane l).ferryRelease.getD j 0
    let n := s.beat.n - BitVec.ofNat 48 (rel / s.beat.period)
    match s.planeFor p.forging n with
    | none => s
    | some q =>
      if !s.mode.flows ∨ p.seqs.length ≤ j ∨ (s.lane l).ferryDone.contains (j, n) then s
      else
        let s := s.runTo (s.beat.at' + rel % s.beat.period)
        let t := ferryDelivers s l j p n q
        let gone (y : Timed) : Bool := tagBeat y.tok.tag == n.extractLsb' 0 16 && (tagSeq y.tok.tag).toNat == p.seqs.getD j 0
        let s := s.modLane l fun x =>
          { x with ferryTokens := x.ferryTokens.filter fun y => !gone y, ferryDone := (j, n) :: x.ferryDone.take 255 }
        launchToken (ferryLoss s l t.2) p.forging q (.ferry l) s.clocks.cycle n t.1

/-- FERRY_TOKEN_RELEASE. -/
def execFerryTokenRelease (lane slot : Nat) (s : State) : Host.Outcome State Fault Refusal :=
  onUnit (s.hasLane lane) s (ferryRelease s lane slot)

/-! ### Decoded blocks (R74, R75) -/

/-- A data block on a lane: a word of a shoal, or part of a ferry token. -/
def dataWord (s : State) (l : Nat) (w : Word64) (bad : Bool) : State :=
  if s.reg Reg.laneRole l = 1 then
    match (s.lane l).ferryPart with
    | [] => s
    | h :: ws =>
      if ws.length < 3 then s.modLane l fun x => { x with ferryPart := x.ferryPart ++ [w] }
      else ferryArrives (s.modLane l fun x => { x with ferryPart := [] }) l h (wordsToken (ws ++ [w]))
  else landWord s l w bad

/-- A control block; `t` is its stamp where it is a header. DESIGN CHOICE (notes/assumptions/102.md): an ALIGN_B that follows no
ALIGN_A is a bad block, and IDLE_HELD and a TOKEN out of place are ignored. -/
def controlBlock (s : State) (l : Nat) (w : Word64) (t : Time96) : State :=
  match field w.toNat 56 8 with
  | 0xC1 => beatBlock (flushAlignA s l) l w t
  | 0xC2 => (flushAlignA s l).modLane l fun x => { x with alignA := some (w, t) }
  | 0xC3 =>
    match (s.lane l).alignA with
    | some (a, u) => alignBlock (s.modLane l fun x => { x with alignA := none }) l a (some w) u
    | none => badBlock s l w
  | 0xC4 => flushAlignA s l
  | 0xC5 => flushAlignA s l
  | 0xC6 => (flushAlignA s l).modLane l fun x => { x with ferryPart := [w] }
  | _ => badBlock (flushAlignA s l) l w

/-- Is a control block a header that carries a stamp (R63). -/
def isStamped (w : Word64) : Bool := field w.toNat 56 8 == 0xC1 || field w.toNat 56 8 == 0xC2

/-- A block lands once it is decoded; `t` is the stamp of a header (R56, R74, R75). -/
def landCoded (s : State) (l : Nat) (b : Coded) (bad : Bool) (t : Time96) : State :=
  if b.1 then controlBlock s l b.2 t else dataWord (flushAlignA s l) l b.2 bad

/-- A 66-bit block as it came: descrambled and taken by its sync header (R56, R71). -/
def rawBlock (s : State) (l : Nat) (b : BitVec 66) (t : Time96) : State :=
  let x := laneDescramble (s.lane l).scrambler (b.extractLsb' 0 64)
  let s := s.modLane l fun y => { y with scrambler := x.1 }
  let h := b.extractLsb' 64 2
  if syncOk h then landCoded s l (h == 2#2, x.2) false t else badBlock (flushAlignA s l) l x.2

/-- Core cycles that the FEC adds (Table 3.4). -/
def fecLatency (rate : Nat) : Nat := if rate = 0 then 296 else if rate = 1 then 156 else 86

/-- The blocks that an interleave's decoder will give out, block `k` of 32 its latency after its own 70 line bits, the last of
which came in the present cycle; each header takes the next stamp (R63, R74). -/
def fecQueue (s : State) (rate : Nat) : Nat → List (Coded × Bool) → List Time96 → List FecBlock
  | _, [], _ => []
  | k, (b, bad) :: rest, ts =>
    let head := b.1 && isStamped b.2
    { control := b.1, word := b.2, bad := bad, due := s.clocks.cycle + fecLatency rate - (31 - k) * 70 / rateBits rate,
      stamp := ts.headD { sec := 0, ns := 0, frac := 0 } } :: fecQueue s rate (k + 1) rest (if head then ts.tail else ts)

/-- A codeword decoded: its counters and its 16 blocks, which are data blocks with the invalid code where it cannot be
corrected (R74, R75). -/
def codeword (s : State) (l : Nat) (symbols : List Nat) : State × List (Coded × Bool) :=
  match rsDecode symbols with
  | some (c, n) =>
    let t := if n = 0 then s else detect (s.count Reg.laneFecCorrected l 64 n) (laneUnit l) false 0 0
    (t, (codewordBlocks c).map fun b => (b, false))
  | none => (laneError (s.count Reg.laneFecUncorr l) l, (codewordBlocks symbols).map fun b => ((false, b.2), true))

/-- An interleave at the decoder of a lane in FEC lock: both codewords, 32 blocks that are descrambled in line order, and how
many interleaves in a row held an uncorrectable codeword (R74, R75). -/
def interleaved (s : State) (l : Nat) (symbols : List Nat) (ts : List Time96) : State :=
  if s.flag Reg.laneFec l ∧ (s.lane l).fecLock then
    let w := codewordsOf symbols
    let a := codeword s l w.1
    let b := codeword a.1 l w.2
    let blocks := a.2 ++ b.2
    let x := through laneDescramble (b.1.lane l).scrambler (blocks.map Prod.fst)
    let bad := blocks.any Prod.snd
    b.1.modLane l fun y =>
      { y with scrambler := x.1, fecBad := if bad then y.fecBad + 1 else 0,
               fecOut := y.fecOut ++ fecQueue s (s.reg Reg.laneRate l) 0 (x.2.zip (blocks.map Prod.snd)) ts }
  else s

/-- The decoder's next block comes out when its latency has passed (R74). -/
def decodedBlock (s : State) (l : Nat) : State :=
  match (s.lane l).fecOut with
  | [] => s
  | b :: rest =>
    let s := s.runTo b.due
    landCoded (s.modLane l fun x => { x with fecOut := rest }) l (b.control, b.word) b.bad b.stamp

/-- A block that the elastic buffer cannot hold is discarded (R62). -/
def elasticOverflow (s : State) (l : Nat) : State := loseAlign (s.count Reg.laneOverruns l) l

/-- The bits of a block, the first on the line first. -/
def bitsOf (n v : Nat) : List Bool := (List.range n).map fun i => bit v (n - 1 - i)

/-- What a lane takes next; a lane of role PRBS takes the bits at its checker (R76). -/
def landBlock (s : State) (l bits : Nat) : LaneBlock → State
  | .data w =>
    if s.laneSt l = lsPrbs then prbsBits s l (flipBits bits (bitsOf 64 w.toNat)) else dataWord s l (flipWord w bits) false
  | .badSync w => badBlock s l w
  | .badControl w => badBlock s l w
  | .raw b age =>
    if s.laneSt l = lsPrbs then prbsBits s l (flipBits bits (bitsOf 66 b.toNat))
    else if s.flag Reg.laneFec l then s
    else rawBlock s l (b ^^^ BitVec.ofNat 66 ((2 ^ bits - 1) * 2 ^ (66 - bits))) (s.stampAt age 64)
  | .overflow _ => elasticOverflow s l
  | .interleave c ages => interleaved s l (if bits = 0 then c else flipSymbols c bits) (ages.map fun n => s.stampAt n 64)
  | .decoded => decodedBlock s l

/-- DATA_BLOCK. -/
def execDataBlock (lane : Nat) (b : LaneBlock) (s : State) : Host.Outcome State Fault Refusal :=
  let x := takeInject s lane
  onUnit (s.hasLane lane) s (landBlock x.2 lane x.1 b)

end Sys2Proof.Machine
end

