-- ==== Sys2Proof/Machine/Sounding.lean ====
section
/-! DEFINITION. Sounding: the tags of beat s through a forging's plane, the delays that pad them, the refusals, the
offsets for the collision check, and the staging accounting (R94 to R99, R104, R134, R166). -/

namespace Sys2Proof.Machine

/-- A sounding tag at a place: its cycle after boundary s, and its sequence. -/
structure Ping where
  at' : Nat
  seq : Nat
  deriving DecidableEq, Repr

/-- The slots of a program: each instruction with its slot, the repetitions of a REP included (R131, R152). -/
def slotList : List Word64 → Nat → List (Nat × Word64)
  | [], _ => []
  | [w], i => [(i, w)]
  | w :: v :: ws, i =>
    if wordOp w = 1 then
      let n := xf (wordFields w) 0 10
      (i, w) :: (List.range n).map (fun t => (i + 1 + t * slotsOf v, v)) ++ slotList ws (i + 1 + n * slotsOf v)
    else (i, w) :: slotList (v :: ws) (i + slotsOf w)

/-- The receives of a program: port and slot. -/
def recvSlots (ws : List Word64) : List (Port × Nat) :=
  (slotList ws 0).filterMap fun x => if wordOp x.2 = 0x08 then some (portOf (xf (wordFields x.2) 0 2), x.1) else none

/-- The sends of a program: port, slot, COPY and sequence. -/
def sendSlots (ws : List Word64) : List (Port × Nat × Bool × Nat) :=
  (slotList ws 0).filterMap fun x =>
    let f := wordFields x.2
    if wordOp x.2 = 0x09 then some (portOf (xf f 0 2), x.1, f.x.getLsbD 7, xf f 2 4) else none

/-- What the sounding of one tile finds. -/
structure TileSound where
  tile : TileId
  /-- delay of each port used -/
  delays : List (Port × Nat)
  /-- cycles in which tags leave each delay register -/
  leaves : List (Port × List Nat)
  /-- cycle a of each instance -/
  starts : List Nat
  slots : Nat
  /-- sends by port -/
  sends : List (Port × List Ping)
  /-- the codes of Table 4.4 that apply -/
  reasons : List Nat

/-- Is a list of Booleans wholly true, and its negation as a reason code. -/
def reasonIf (b : Bool) (code : Nat) : List Nat := if b then [code] else []

/-- A number put into an ascending list. -/
def insertNat (x : Nat) : List Nat → List Nat
  | [] => [x]
  | y :: ys => if x < y then x :: y :: ys else y :: insertNat x ys

/-- Instances of every beat keep R94 when the places of a beat's starts within the period `p`, taken round, lie far enough apart. -/
def startsOk (busy p : Nat) (starts : List Nat) : Bool :=
  match (starts.map fun a => a % p).foldl (fun l x => insertNat x l) [] with
  | [] => true
  | a :: rest => ((a :: rest).zip (rest ++ [a + p])).all fun x => decide (x.1 + busy + 1 ≤ x.2)

/-- Do tags leave a port's delay register in the cycles of its receive, as far as both go, with no tag to spare (R96 step 4). -/
def leavesFit : List Nat → List Nat → Bool
  | [], _ => true
  | _ :: _, [] => false
  | x :: xs, a :: as => x == a && leavesFit xs as

/-- Pads one tile from the tags that reach its ports (R96 steps 3 to 5). `every` is the slots between non-issue cycles. -/
def soundTile (every p : Nat) (tp : TilePlan) (arr : Port → List Ping) : TileSound :=
  let o (i : Nat) : Nat := 1 + i + i / every
  let recvs := recvSlots tp.program
  let ports : List (Port × Nat) := (tp.trigger, 0) :: recvs.map fun r => (r.1, o r.2)
  let first (q : Port) : Nat := ((arr q).head?.map Ping.at').getD 0
  let heard := if (arr tp.trigger).isEmpty then [] else ports.filter fun x => !(arr x.1).isEmpty
  let t : Int := heard.foldl (fun (m : Int) x => max m ((first x.1 : Int) - x.2)) ((first tp.trigger : Nat) : Int)
  let delays := ports.map fun x => (x.1, if heard.contains x then (t + x.2 - first x.1).toNat else 0)
  let delayOf (q : Port) : Nat := ((delays.find? fun x => x.1 = q).map Prod.snd).getD 0
  let trig := (arr tp.trigger).map fun x => { x with at' := x.at' + delayOf tp.trigger }
  let starts := trig.map Ping.at'
  let leaves := ports.map fun x => (x.1, (arr x.1).map fun y => y.at' + delayOf x.1)
  let l := programSlots tp.program
  let busy := l + ceilDiv l every
  let inTime := ports.all fun x => leavesFit ((arr x.1).map fun y => y.at' + delayOf x.1) (starts.map fun a => a + x.2)
  let missing := ports.any fun x => (arr x.1).isEmpty || decide ((arr x.1).length < starts.length)
  let sends := (sendSlots tp.program).map fun x =>
    (x.1, trig.map fun y => ({ at' := y.at' + o x.2.1 + 1, seq := if x.2.2.1 then y.seq else x.2.2.2 } : Ping))
  { tile := tp.tile, delays := delays, leaves := leaves, starts := starts, slots := busy, sends := sends,
    reasons := reasonIf (delays.any fun x => decide (255 < x.2)) 2 ++ reasonIf (!inTime) 3
      ++ reasonIf (!startsOk busy p starts) 4
      ++ reasonIf (missing || ports.any fun x => (arr x.1).any fun y => decide (4096 < y.at')) 5 }

/-- Tags in order of their cycles. -/
def insertPing (x : Ping) : List Ping → List Ping
  | [] => [x]
  | y :: ys => if x.at' < y.at' then x :: y :: ys else y :: insertPing x ys

def sortPings (l : List Ping) : List Ping := l.foldl (fun a x => insertPing x a) []

/-- The tags that a source sends in beat s, none where its tile is still to be padded; a ferry on which no sounding token has
landed sends none (R96 step 2, R99). -/
def sourcePings (s : State) (shoals : List ShoalPlan) (done : List TileSound) (p : ForgingPlan) : Source → Option (List Ping)
  | .shoal k pos =>
    match shoals.find? fun x => x.shoal = k with
    | some sp => some ((((sp.release.find? fun x => x.1 = pos).map Prod.snd).getD []).zipIdx.map fun x => { at' := x.1, seq := x.2 % 16 })
    | none => some []
  | .ferry l =>
    match ferryPlan s l with
    | some fp => if (s.lane l).ferryLanding.isNone then some [] else
        some (fp.seqs.zipIdx.map fun x => { at' := (s.lane l).ferryRelease.getD x.2 0, seq := x.1 })
    | none => some []
  | .tile t port =>
    match done.find? fun d => d.tile = t with
    | some d => some (sortPings ((d.sends.filter fun x => x.1 = port).flatMap Prod.snd))
    | none => if p.tiles.any fun x => x.tile = t then none else some []

/-- The ports whose tags a tile needs. -/
def neededPorts (tp : TilePlan) : List Port := tp.trigger :: (recvSlots tp.program).map Prod.fst

/-- The delay that padding gives an input port: 0 where its tile's program does not use the port. -/
def soundPad (done : List TileSound) (t : TileId) (port : Port) : Nat :=
  (((done.find? fun d => d.tile = t).bind fun d => d.delays.find? fun x => x.1 = port).map Prod.snd).getD 0

/-- Is the input port of a pass-through padded, or not to be padded. -/
def passKnown (p : ForgingPlan) (done : List TileSound) : PathEl → Bool
  | .pass t i _ => (done.any fun d => d.tile = t) || !(p.tiles.any fun tp => tp.tile = t ∧ (neededPorts tp).contains i)
  | _ => true

/-- The delay of a path under the padding found so far, none while a delay register on it is still to be set (R86, R96). -/
def soundDelay (s : State) (q : Bool) (done : List TileSound) (p : ForgingPlan) (path : List PathEl) : Option Nat :=
  if path.all (passKnown p done) then some (path.map (elDelay (soundPad done) s p.forging q)).sum else none

/-- The tags that reach a destination, none while a tile before it is still to be padded. -/
def destPings (s : State) (q : Bool) (shoals : List ShoalPlan) (done : List TileSound) (p : ForgingPlan) (dst : Dest) : Option (List Ping) :=
  (p.links.filter fun l => l.dst = dst).foldl (fun acc l =>
    match acc, sourcePings s shoals done p l.src, soundDelay s q done p l.path with
    | some a, some b, some d => some (sortPings (a ++ b.map fun x => { x with at' := x.at' + d }))
    | _, _, _ => none) (some [])

/-- Pads the tiles whose sources are known. -/
def soundPass (s : State) (q : Bool) (every : Nat) (shoals : List ShoalPlan) (p : ForgingPlan) (done : List TileSound) : List TileSound :=
  p.tiles.foldl (fun done tp =>
    if done.any fun d => d.tile = tp.tile then done
    else
      let get (port : Port) : Option (List Ping) := destPings s q shoals done p (.port tp.tile port)
      if (neededPorts tp).all fun port => (get port).isSome then
        soundTile every s.beat.period tp (fun port => (get port).getD []) :: done
      else done) done

/-- All passes: tiles that feed one another within a beat are never padded (Table 4.4 code 5). -/
def soundPasses (s : State) (q : Bool) (every : Nat) (shoals : List ShoalPlan) (p : ForgingPlan) : Nat → List TileSound → List TileSound
  | 0, done => done
  | n + 1, done =>
    let next := soundPass s q every shoals p done
    if next.length = done.length then done else soundPasses s q every shoals p n next

/-- What a sounding of one forging's plane finds. -/
structure Sounded where
  portDelay : List (Nat × Nat)
  quenchDelay : List (Nat × Nat)
  offsets : List (Nat × Nat)
  soundedEnd : Nat
  reason : Nat

/-- The least reason code (R97). -/
def leastReason (l : List Nat) : Nat := l.foldl (fun m x => if m = 0 ∨ x < m then x else m) 0

/-- An element of Table 4.10: kind, then the bits [27:11] as one number. -/
def elementOf (kind low : Nat) : Nat := kind * 2 ^ 28 + low * 2 ^ 11

/-- A tile element: island, physical column, row, port. -/
def tileElement (s : State) (q : Bool) (kind : Nat) (t : TileId) (port : Nat) : Nat :=
  elementOf kind (t.island * 2 ^ 11 + physCol (s.remapByte t.island t.row q) t.col * 2 ^ 6 + t.row * 4 + port)

/-- A harbour element: harbour, and the quench input of kind 4. -/
def harbourElement (kind h input : Nat) : Nat := elementOf kind (h * 2 ^ 13 + input * 2 ^ 7)

/-- The cycles in which tags leave the delay registers and the pass-through registers of a route, by port. -/
def passOffsets (s : State) (f : Nat) (q : Bool) (done : List TileSound) : List PathEl → Nat → List (Nat × Nat)
  | [], _ => []
  | el :: rest, c =>
    let c' := c + elDelay (soundPad done) s f q el
    let here := match el with
      | .pass t i o => [(tileElement s q 2 t (portIdx i), c' - 1), (tileElement s q 1 t (portIdx o), c')]
      | .ring hs => hs.zipIdx.map fun x => (harbourElement 6 x.1 0, c + 3 * (x.2 + 1))
      | _ => []
    here ++ passOffsets s f q done rest c'

/-- The offsets from the beat boundary of every element that R104 compares. -/
def soundOffsets (s : State) (q : Bool) (shoals : List ShoalPlan) (p : ForgingPlan) (tiles : List TileSound)
    (quench : List (Nat × List Nat)) (contributing : List Nat) : List (Nat × Nat) :=
  (tiles.flatMap fun d =>
    (d.sends.flatMap fun x => x.2.map fun y => (tileElement s q 1 d.tile (portIdx x.1), y.at'))
    ++ (d.leaves.flatMap fun x => x.2.map fun c => (tileElement s q 2 d.tile (portIdx x.1), c))
    ++ (d.starts.flatMap fun a => (List.range d.slots).map fun k => (tileElement s q 3 d.tile 0, a + 1 + k)))
  ++ (p.links.flatMap fun l => ((sourcePings s shoals tiles p l.src).getD []).flatMap fun x => passOffsets s p.forging q tiles l.path x.at')
  ++ (quench.flatMap fun x => x.2.map fun c => (harbourElement 4 p.home x.1, c))
  ++ [(harbourElement 5 p.home 0, p.target)]
  ++ (contributing.flatMap fun h => (ringHops p.home h).zipIdx.map fun x => (harbourElement 6 x.1 0, p.target + 3 * (x.2 + 1)))

/-- The declared final tokens of an input: sequences 0 to N − 1, each once (R96 step 6, R157). -/
def finalPings (n : Nat) (l : List Ping) : List Ping :=
  (l.foldl (fun (acc : List Ping) x => if decide (x.seq < n) && !acc.any (fun y => y.seq == x.seq) then x :: acc else acc) []).reverse

/-- Does a port that no instruction of its tile receives from, and that is no trigger, hear a tag (Table 4.4 code 3). -/
def strayTags (s : State) (q : Bool) (shoals : List ShoalPlan) (p : ForgingPlan) (tiles : List TileSound) : Bool :=
  p.tiles.any fun tp => [Port.n, .e, .s, .w].any fun port =>
    !(neededPorts tp).contains port && !((destPings s q shoals tiles p (.port tp.tile port)).getD []).isEmpty

/-- Sounds one forging's plane (R96). -/
def soundForging (s : State) (q : Bool) (shoals : List ShoalPlan) (p : ForgingPlan) (contributing : List Nat) : Sounded :=
  let every := bankEvery s
  let tiles := soundPasses s q every shoals p p.tiles.length []
  let pings (i : Nat) : List Ping := (destPings s q shoals tiles p (.quench i)).getD []
  let inputs : List (Nat × Nat) := p.inputs.zipIdx.filterMap fun x => if x.1 = 0 then none else some (x.2, x.1)
  let finals := inputs.map fun x => (x.1, x.2, finalPings x.2 (pings x.1))
  let lastOf (l : List Ping) : Nat := l.foldl (fun m x => max m x.at') 0
  let need := p.target - 8
  let delays := finals.map fun x => (x.1, need - lastOf x.2.2)
  let delayOf (i : Nat) : Nat := ((delays.find? fun x => x.1 = i).map Prod.snd).getD 0
  let lost := decide (tiles.length < p.tiles.length)
    || finals.any fun x => decide (x.2.2.length < x.2.1) || x.2.2.any fun y => decide (4096 < y.at')
  let leaves := inputs.map fun x => (x.1, (pings x.1).map fun y => y.at' + delayOf x.1)
  { portDelay := tiles.flatMap fun d => d.delays.map fun x => (portKey d.tile x.1, x.2)
    quenchDelay := delays
    offsets := soundOffsets s q shoals p tiles leaves contributing
    soundedEnd := if lost then 0 else (finals.foldl (fun m x => max m (lastOf x.2.2)) 0) + 8
    reason := leastReason (reasonIf (finals.any fun x => decide (need < lastOf x.2.2)) 1
      ++ reasonIf (delays.any fun x => decide (2047 < x.2)) 2 ++ tiles.flatMap TileSound.reasons
      ++ reasonIf (strayTags s q shoals p tiles) 3 ++ reasonIf lost 5) }

/-- The harbours whose shoals contribute to a forging (R17). -/
def contributors (shoals : List ShoalPlan) (f : Nat) : List Nat :=
  (List.range 16).filter fun h => shoals.any fun x => x.shoal / 16 = h ∧ x.forgings.contains f

/-- The staging accounting of step 7: beats from release to verdict arrival, plus 1, plus 4 with late accept, times the
share, summed over the forgings of an image, fits each harbour (R96, R166). -/
def stagingOk (s : State) (period : Nat) (shoals : List ShoalPlan) (ps : List ForgingPlan) : Bool :=
  let late := if s.flag Reg.qnLateAccept && !s.strict then 4 else 0
  (List.range 16).all fun h =>
    decide ((ps.map fun p =>
      let ring := 3 * (ringHops p.home h).length
      (ceilDiv (p.target + ring) period + 1 + late) * shareOf shoals p.forging h).sum ≤ 262144)

/-- The release cycles that the sounding tokens give a receive ferry's slots (R99). -/
def ferryReleases (s : State) (l : Nat) (p : FerryPlan) : List Nat :=
  match (s.lane l).ferryLanding with
  | none => []
  | some y =>
    let offS : Int := ((p.slots.getD p.soundSlot 0 : Nat) : Int)
    (List.range p.seqs.length).map fun j =>
      (y - offS + ((p.slots.getD j 0 : Nat) : Int) + ((s.reg Reg.forgeFerryMargin : Nat) : Int)).toNat

end Sys2Proof.Machine
end

