-- ==== Sys2Proof/Machine/ImageCheck.lean ====
section
/-! DEFINITION. What an activation or a shadow load checks of an image before it loads it: RESOURCE and POWER
(R15, R16, R32, R59, R64, R65, R82, R85, R114, R130, R152, R165, R346, R362, R366, R377, R396). -/

namespace Sys2Proof.Machine

/-! ### Tile programs (R130, R152) -/

/-- Is a word an instruction of Table 6.4, with every register and address that it names, repetitions included, allowed on a
tile. -/
def tileWordOk (rep : Option Word64) (w : Word64) : Bool :=
  let op := wordOp w
  decide (op < 0x38) && wordOk rep w && (repetitions rep w).all fun x => constFits op x.1 x.2

/-- Working words and histories that an instruction addresses lie in the plane's allocation (R85, R138, R150). -/
def workOk (tp : TilePlan) (rep : Option Word64) (w : Word64) : Bool :=
  let f := wordFields w
  let inside := (repetitions rep w).all fun x => decide (32 * (xf f 0 10 + x.2 + 1) ≤ tp.workBytes)
  let hist := tp.histories.find? fun h => h.h = xf f 0 4
  match wordOp w with
  | 0x11 => inside
  | 0x12 => inside
  | 0x13 => (match hist with | some h => decide (xf f 4 4 < h.width) | none => false)
  | 0x14 => (match hist with | some h => decide (xf f 4 4 < h.width) && decide (xf f 8 16 ≤ h.depth) | none => false)
  | _ => true

/-- A history lies in the allocation (R107, R150). -/
def historyOk (tp : TilePlan) (h : History) : Bool :=
  decide (h.h < 16) && decide (1 ≤ h.width) && decide (h.width ≤ 16) && decide (h.depth < 65536)
    && decide (32 * (h.base + (h.depth + 1) * h.width) ≤ tp.workBytes)

/-- A constant word of a plan. -/
def planConst (tp : TilePlan) (w : Nat) : Nat := ((tp.constants.find? fun x => x.1 = w).map fun x => x.2.toNat).getD 0

/-- The lookup table that an instruction with these fields reads lies in the constant region and holds no invalid code, and an
interpolated one no infinity (R130, R143). -/
def tableAt (tp : TilePlan) (interp : Bool) (f : AnvilFields) (off : Nat) : Bool :=
  match fmtOf f, srcOf f with
  | some m, some src =>
    let n := (if src = .int4 then 16 else 256) + ofBool interp
    let base := xf f 8 11 + off
    decide (base + ceilDiv n m.count ≤ 1536) && (List.range n).all fun k =>
      match decodeNum m (getElem m (planConst tp (base + k / m.count)) (k % m.count)) with
      | .invalid => false
      | .inf _ => !interp
      | .fin _ _ _ => true
  | _, _ => false

/-- The lookup tables of every repetition of a LUT or LUTI (R130, R152). -/
def tableOk (tp : TilePlan) (rep : Option Word64) (w : Word64) : Bool :=
  let op := wordOp w
  (op != 0x2C && op != 0x2D) || (repetitions rep w).all fun x => tableAt tp (op == 0x2D) x.1 x.2

/-- No RECV or TFLAG follows the first SEND. -/
def sendsLast (ws : List Word64) : Bool :=
  (ws.dropWhile fun w => wordOp w ≠ 0x09).all fun w => wordOp w != 0x08 && wordOp w != 0x04

/-- Has a tile input port a source on the plane. -/
def hasSource (p : ForgingPlan) (t : TileId) (port : Port) : Bool := p.links.any fun l => l.dst = .port t port

/-- The tile input ports with a source: those at the end of a route and those of pass-throughs (R86). -/
def fedPorts (p : ForgingPlan) : List (TileId × Port) :=
  p.links.flatMap fun l =>
    (match l.dst with | .port t port => [(t, port)] | _ => [])
    ++ l.path.filterMap fun el => match el with | .pass t i _ => some (t, i) | _ => none

/-- Every input port with a source has a declared format, and every declared format is one of Table 5.1 (R89, R114, R130). -/
def formatsOk (p : ForgingPlan) : Bool :=
  (fedPorts p).all (fun x => (declaredFmt p x.1 x.2).isSome)
    && p.tiles.all (fun tp => tp.formats.all fun x => (Fmt.ofDesc x.2).isSome)
    && p.portFormats.all fun x => (Fmt.ofDesc x.2).isSome

/-- A tile program keeps the rules of R130 and R152. DESIGN CHOICE (notes/assumptions/94.md): a TRIGGER port without a source
is refused as a RECV's port is. -/
def programOk (p : ForgingPlan) (tp : TilePlan) : Bool :=
  let ws := tp.program
  let recvs := (recvSlots ws).map Prod.fst
  decide (ws.length ≤ 512) && decide (programSlots ws ≤ 8192)
    && (withReps ws).all (fun x => tileWordOk x.2 x.1 && workOk tp x.2 x.1 && tableOk tp x.2 x.1)
    && !repLast ws
    && !recvs.contains tp.trigger && [Port.n, .e, .s, .w].all (fun port => decide (recvs.count port ≤ 1))
    && (tp.trigger :: recvs).all (hasSource p tp.tile)
    && sendsLast ws && tp.histories.all (historyOk tp) && decide (tp.workBytes ≤ 32768) && tp.workBytes % 32 == 0
    && decide (tp.drawId < 2 ^ 20) && tp.constants.all (fun x => decide (x.1 < 1536))

/-! ### Use of the fabric (R85, R87, R396) -/

/-- What a forging uses of the fabric on a plane: tile programs (kind 0), tile output ports (1), tile input ports (2), and
strait links (3). -/
def fabricUse (p : ForgingPlan) : List (Nat × Nat) :=
  (p.tiles.map fun t => (0, tileKey t.tile))
  ++ (p.tiles.flatMap fun t => (sendSlots t.program).map fun x => (1, portKey t.tile x.1))
  ++ (fedPorts p).map (fun x => (2, portKey x.1 x.2))
  ++ (p.links.flatMap fun l => l.path.flatMap fun el =>
    (match el with | .pass t _ o => [(1, portKey t o)] | _ => []) ++ (linkKey el).toList.map fun k => (3, k))

/-- Do two forgings share anything that R85 keeps apart. -/
def fabricMeets (a b : List (Nat × Nat)) : Bool := a.any b.contains

/-- No two forgings of one image share a tile program, a port or a strait link. -/
def forgingsApart : List ForgingPlan → Bool
  | [] => true
  | p :: ps => ps.all (fun r => !fabricMeets (fabricUse p) (fabricUse r)) && forgingsApart ps

/-- The islands at whose edge tiles or registers a route begins or ends. -/
def endIslands (l : Link) : List Nat :=
  (match l.src with | .tile t _ => [t.island] | _ => []) ++ (match l.dst with | .port t _ => [t.island] | _ => [])

/-- The islands that a forging uses: those of its tile programs, its registers and the links attached to edge tiles (R396). -/
def islandsUsed (p : ForgingPlan) : List Nat :=
  (p.tiles.map fun t => t.tile.island) ++ p.links.flatMap fun l => endIslands l ++ l.path.flatMap elIslands

/-- The state in which a load or a sounding of a plan on a plane finds the remap tables (R112). -/
def State.latchedFor (s : State) (q : Bool) (p : ForgingPlan) : State := s.latchRemaps q (islandsUsed p)

/-- Working bytes on a tile of a plane's plan. -/
def workBytesOf (p : ForgingPlan) (t : TileId) : Nat :=
  ((p.tiles.find? fun x => x.tile = t).map TilePlan.workBytes).getD 0

/-- The two planes' allocations fit the working region of every physical tile that the plan takes on plane `q`
(R85). -/
def workFits (s : State) (q : Bool) (p : ForgingPlan) : Bool :=
  let s := s.latchedFor q p
  p.tiles.all fun t =>
    let tl := s.tile t.tile q
    let other := if s.planeState (forgingOf tl (!q)) (!q) = 0 then 0 else ((planOf tl (!q)).map TilePlan.workBytes).getD 0
    decide (t.workBytes + other ≤ 32768)

/-- No program is placed on a fabric-only island or on a physical tile classed PERSISTENT (R11, R346, R377). -/
def tilesFree (s : State) (q : Bool) (p : ForgingPlan) : Bool :=
  let s := s.latchedFor q p
  p.tiles.all fun t =>
    s.hasTile t.tile && !tilePersistent s t.tile.island t.tile.row (physCol (s.remapByte t.tile.island t.tile.row q) t.tile.col)

/-- What one forging must keep at a beat period (R15, R16, R32, R85, R130, R156, R158, R377). -/
def forgingOk (s : State) (q : Bool) (period : Nat) (p : ForgingPlan) : Bool :=
  decide (p.forging < 16) && decide (256 ≤ p.target) && decide (p.target ≤ 2048) && s.hasHarbour p.home
    && decide (p.minPeriod ≤ period) && decide (p.cls < 8) && decide (p.inputs.length ≤ 16) && decide (p.refs.length ≤ 4)
    && routesOk s.carrier.grade p && formatsOk p && p.tiles.all (programOk p) && workFits s q p && tilesFree s q p && p.windows.all fun w => decide (w.ctrl < 4)

/-! ### Lanes, shoals, ferries and tanks (R59, R64, R65, R82, R165) -/

/-- C of R59. -/
def laneBlocks (period rate : Nat) (fec : Bool) : Nat := period * rateBits rate / (if fec then 70 else 66)

/-- Does a shoal's width fit its lanes at a beat period (R59). -/
def widthOk (s : State) (period : Nat) (p : ShoalPlan) : Bool :=
  p.width % 4 == 0 && decide (4 ≤ p.width)
    && p.lanes.all fun x => decide (p.width + 3 ≤ laneBlocks period (s.reg Reg.laneRate x.1) (s.flag Reg.laneFec x.1))

/-- The largest release offset of a shoal (R60). -/
def lastOffset (p : ShoalPlan) : Nat := p.release.foldl (fun m x => x.2.foldl max m) 0

/-- What one shoal must keep at a beat period. -/
def shoalOk (s : State) (period : Nat) (p : ShoalPlan) : Bool :=
  let h := p.shoal / 16
  decide (p.shoal < 256) && s.hasHarbour h && widthOk s period p && decide (lastOffset p < period)
    && decide (1 ≤ p.lanes.length) && (Fmt.ofDesc p.format).isSome && decide (p.group < 16)
    && [1, 2, 4, 8, 16, 32, 64, 128, 256].contains p.marker
    && p.lanes.all (fun x => x.1 / 64 == h && decide (x.2 < 64) && s.flag Reg.laneEnable x.1 && s.reg Reg.laneRole x.1 == 0
      && decide ((p.lanes.filter fun y => y.2 = x.2).length = 1)
      && (match p.release.find? fun r => r.1 = x.2 with | some r => r.2.length == p.width / 4 | none => false))

/-- A shoal group joins 2 to 16 shoals of different harbours that share width, format and marker period (R65). -/
def groupOk (ps : List ShoalPlan) (g : Nat) : Bool :=
  match ps.filter fun p => p.group = g with
  | [] => true
  | p :: rest =>
    decide (1 ≤ rest.length) && decide (rest.length ≤ 15)
      && rest.all (fun r => r.width == p.width && r.format == p.format && r.marker == p.marker)
      && ((p :: rest).map fun r => r.shoal / 16).Nodup

/-- No lane lies in two shoals. -/
def lanesApart (ps : List ShoalPlan) : Bool := (ps.flatMap fun p => p.lanes.map Prod.fst).Nodup

/-- A ferry's lane is enabled with role FERRY (R82), and its declared format is one of Table 5.1 (R114). -/
def ferryOk (s : State) (p : FerryPlan) : Bool :=
  (Fmt.ofDesc p.format).isSome
    && if p.transmit then s.hasXlane p.lane && s.flag Reg.xlaneEnable p.lane && s.reg Reg.xlaneRole p.lane == 1
      else s.hasLane p.lane && s.flag Reg.laneEnable p.lane && s.reg Reg.laneRole p.lane == 1

/-- Every ferry is one transmit and one receive lane of this wafer, and no lane lies in two ferries (R21). -/
def ferriesPaired (ps : List FerryPlan) : Bool :=
  ps.all fun p => decide ((ps.filter fun r => r.transmit = p.transmit ∧ r.lane = p.lane).length = 1)
    && ps.any fun r => r.transmit != p.transmit && r.lane == p.mate && r.mate == p.lane

/-- The 16 transmit lanes of a harbour, which send its bundle, are enabled with role DATA (R82, R171;
notes/assumptions/89.md). -/
def readoutLanesOk (s : State) (h : Nat) : Bool :=
  (List.range 16).all fun k => s.flag Reg.xlaneEnable (16 * h + k) && s.reg Reg.xlaneRole (16 * h + k) == 0

/-- C_tx of a harbour, none where its transmit lanes differ in rate or FEC (R165). -/
def txBlocks (s : State) (period h : Nat) : Option Nat :=
  let r := s.reg Reg.xlaneRate (16 * h)
  let e := s.flag Reg.xlaneFec (16 * h)
  if (List.range 16).all fun k => s.reg Reg.xlaneRate (16 * h + k) == r && s.flag Reg.xlaneFec (16 * h + k) == e then
    some (laneBlocks period r e)
  else none

/-- The partition rules of a harbour at a beat period (R165). -/
def tankOk (s : State) (period : Nat) (i : ImagePlan) (h : Nat) : Bool :=
  let ps := i.parts.filter fun x => x.harbour = h
  let k := (i.forgings.filter fun f => f.home = h).length
  if ps.isEmpty && k == 0 then true
  else
    match txBlocks s period h with
    | some c => readoutLanesOk s h && decide (16 + 6 * k + (ps.map fun x => x.g0 + x.gPlus).sum ≤ 16 * c)
        && decide ((ps.map fun x => x.cap0 + x.capPlus).sum ≤ 524288)
    | none => false

/-- The tile output ports that carry tokens of a forging: those its programs send on, and those of pass-throughs. -/
def outputPorts (p : ForgingPlan) : List (TileId × Port) :=
  (p.tiles.flatMap fun t => (sendSlots t.program).map fun x => (t.tile, x.1)) ++ p.links.flatMap fun l => passOutputs l.path

/-- A tap entry names a unit that the image uses (R362). -/
def tapOk (i : ImagePlan) (e : List Byte) : Bool :=
  let f := leAt e 1 1
  let cr := leAt e 3 1
  match leAt e 0 1 with
  | 1 => i.forgings.any fun p => p.forging = f ∧ (outputPorts p).contains ({ island := leAt e 2 1, col := cr / 16, row := cr % 16 }, portOf (leAt e 4 1))
  | 2 => i.forgings.any fun p => p.forging = f ∧ p.home = leAt e 2 1 ∧ 0 < p.inputs.getD (leAt e 4 1) 0
  | 3 => i.shoals.any fun p => p.shoal = leAt e 2 1 ∧ p.forgings.contains f ∧ p.lanes.any fun l => l.2 = leAt e 4 1
  | _ => false

/-- Replay agrees with the image (R366). -/
def replayAgrees (s : State) (i : ImagePlan) : Bool :=
  !s.replaying || (s.reg Reg.beatSource == 1 && s.reg Reg.beatStart == (replayFirst (s.domain Reg.detReplayData)).toNat
    && !(s.domain Reg.detReplayData).isEmpty && replayOk (s.domain Reg.detReplayData) (byShoal i.shoals))

/-- The RESOURCE check of an activation at a beat period (Table 15.8 code 5). -/
def resourceOk (s : State) (period : Nat) (i : ImagePlan) : Bool :=
  i.forgings.all (forgingOk s false period) && forgingsApart i.forgings && i.shoals.all (shoalOk s period)
    && (List.range 15).all (fun g => groupOk i.shoals (g + 1)) && lanesApart i.shoals && i.ferries.all (ferryOk s) && ferriesPaired i.ferries
    && (i.ferries.isEmpty || s.reg Reg.beatSource == 0) && (List.range 16).all (tankOk s period i) && replayAgrees s i
    && (List.range ((s.domain Reg.detTapSelect).length / 8)).all fun k => tapOk i (tapEntry s k)

/-! ### The image store (R345, Table 15.8 code 10) -/

/-- Is a line of a half of the image store poisoned: the lower half holds IMG_DOMAIN, the upper half IMG_SHADOW. What a FAILED
stack holds of it reads poisoned (R205; notes/assumptions/28.md). -/
def storePoisoned (s : State) (upper : Bool) : Bool :=
  let lo := if upper then 23500000000 else imageStoreLo
  s.harbourList.any (fun h => s.reg Reg.hbmState h == 2) || s.poison.any fun l =>
    let a := 64 * l
    addrSpace a == 0 && s.hasHarbour (addrHarbour a) && decide (lo ≤ addrOffset a + 63) && decide (addrOffset a < lo + 500000000)

/-! ### Power (Table 15.8 code 6) -/

/-- The harbours that an image uses: of its shoals, homes, ferries and partitions. -/
def harboursUsed (i : ImagePlan) : List Nat :=
  (i.shoals.map fun p => p.shoal / 16) ++ (i.forgings.map ForgingPlan.home) ++ (i.parts.map PartPlan.harbour)
    ++ (i.ferries.map fun p => if p.transmit then p.lane / 16 else p.lane / 64)

/-- Every domain that an image's forgings use is ON: islands, and of each harbour the harbour, stack, optical group and
lane bank. -/
def powerOk (s : State) (forgings : List ForgingPlan) (harbours : List Nat) : Bool :=
  (forgings.flatMap islandsUsed).all s.domainOn
    && harbours.all fun h => s.domainOn (64 + h) && s.domainOn (80 + h) && s.domainOn (96 + h) && s.domainOn (112 + h)

end Sys2Proof.Machine
end

