-- ==== Sys2Proof/Machine/Planes.lean ====
section
/-! DEFINITION. Planes of forgings: loads, sounding from start to end, the writes of FORGE_SOUND and IMG_SHADOW_LOAD, swaps
and their collision check (R20, R96 to R105, R107, R112, R348, R352, R379, R380). -/

namespace Sys2Proof.Machine

/-- A forging's plane. -/
abbrev PlaneId := Nat × Bool

/-- Every forging's plane. -/
def allPlanes : List PlaneId := (List.range 16).flatMap fun f => [(f, false), (f, true)]

/-- The planes in a state of Table 4.5. -/
def planesIn (s : State) (st : Nat) : List PlaneId := allPlanes.filter fun x => s.planeState x.1 x.2 == st

/-- The forgings of the active image. -/
def activeForgings (s : State) : List ForgingPlan := (s.images.active.map ImagePlan.forgings).getD []

/-- Is a forging in the active image. -/
def isActive (s : State) (f : Nat) : Bool := (activeForgings s).any fun p => p.forging = f

/-- The plan of a forging in an image. -/
def planIn (i : ImagePlan) (f : Nat) : Option ForgingPlan := i.forgings.find? fun p => p.forging = f

/-! ### Loads (R20, R85, R107, R348) -/

/-- Writes prime values into a working region. -/
def writePrimes (tl : Tile) (q : Bool) (tp : TilePlan) : Tile :=
  { tl with work := (primeWords (planBase q tp) tp).foldl (fun m x => storeSet m x.1 x.2) tl.work }

/-- A tile with a program, constants and prime values installed on a plane. -/
def installTile (tl : Tile) (f : Nat) (q : Bool) (tp : TilePlan) : Tile :=
  let keep : List (Bool × Nat) → List (Bool × Nat) := fun l => l.filter fun x => x.1 != q
  let tl := { tl with lostInstr := keep tl.lostInstr, lostConst := keep tl.lostConst }
  let tl :=
    if q then { tl with prog1 := tp.program, const1 := constStore tp, plan1 := some tp, forging1 := f }
    else { tl with prog0 := tp.program, const0 := constStore tp, plan0 := some tp, forging0 := f }
  writePrimes (setServed tl q (loadSize tp)) q tp

/-- A tile without what a forging's plane held. -/
def clearTile (f : Nat) (q : Bool) (tl : Tile) : Tile :=
  if q then (if tl.plan1.isSome ∧ tl.forging1 = f then { tl with prog1 := [], const1 := [], plan1 := none } else tl)
  else (if tl.plan0.isSome ∧ tl.forging0 = f then { tl with prog0 := [], const0 := [], plan0 := none } else tl)

/-- The column to which a tile's vertical port leads in the adjacent row, from its own: −1, 0 or 1 (Table 4.1, R111). -/
def verticalSelect (s : State) (q : Bool) (t : TileId) (row : Nat) : Int :=
  (physCol (s.remapByte t.island row q) t.col : Int) - physCol (s.remapByte t.island t.row q) t.col

/-- A tile's port configuration on a plane: its vertical port selects. At an island's edge the link follows the tile (R83, R111). -/
def selectPorts (q : Bool) (s : State) (t : TileId) : State :=
  let n := if t.row = 0 then 0 else verticalSelect s q t (t.row - 1)
  let m := if t.row = 15 then 0 else verticalSelect s q t (t.row + 1)
  let tl := s.tile t q
  s.setTile t q (if q then { tl with north1 := n, south1 := m } else { tl with north0 := n, south0 := m })

/-- The tiles that a plan's programs and routes use. -/
def tilesUsed (p : ForgingPlan) : List TileId := (p.tiles.map TilePlan.tile) ++ (fedPorts p).map Prod.fst

/-- A plan's tiles hold program, constants, prime values and port configuration, where the remap puts them, and nothing of the
forging's plane stays anywhere else (R20, R85, R107, R111). -/
def placePlan (s : State) (f : Nat) (q : Bool) (p : ForgingPlan) : State :=
  let s := { s with tiles := tabMap (fun _ t => clearTile f q t) s.tiles }
  let s := p.tiles.foldl (fun s tp => s.setTile tp.tile q (installTile (s.tile tp.tile q) f q tp)) s
  (tilesUsed p).foldl (selectPorts q) s

/-- The remap tables that a load or a sounding of a forging's plane finds written take effect there (R112). -/
def latchTables (s : State) (f : Nat) (q : Bool) (p : ForgingPlan) : State :=
  let is := islandsUsed p
  let s := s.latchRemaps q is
  s.setPlane f q { s.plane f q with tables := is.foldl (fun m i => tabSet m i (s.remapWritten i q)) [] }

/-- The load routine 0xF0 runs in context 8 of every powered harbour, for the image store has a part in each stack (R244,
R248; DESIGN CHOICE, notes/assumptions/106.md). -/
def dispatchLoads (s : State) : State :=
  (s.harbourList.filter fun h => s.domainOn (64 + h)).foldl (fun (s : State) h =>
    if ((s.harbour h).ctx 8).state = 0 then dispatch s h 8 0xF0 11 0 0 else s) s

/-- The load routines commit and retire: the last write of both parts has been accepted (R251). -/
def retireLoads (s : State) : State :=
  s.harbourList.foldl (fun (s : State) h => if ((s.harbour h).ctx 8).state = 0 then s else idleCtx s h 8) s

/-- A load that an activation gives up leaves no routine. -/
def dropLoads (s : State) : State :=
  { s with harbours := tabMap (fun _ x => { x with ctxs := tabDel x.ctxs 8 }) s.harbours }

/-- The lines of a stack that hold a harbour's piece of a program part, in the lower half of the image store or the upper one
(R345). -/
def storedLines (shadow : Bool) (x : Nat × Nat × Nat) : List Nat :=
  let lo := imageStoreLo + (if shadow then 500000000 else 0)
  (List.range (ceilDiv x.2.2 64)).map fun k => (lo + min x.2.1 499999999) / 64 + k

/-- A line of the image store in a hold's cache region: it is its set's most recent (R209, R345). -/
def installStored (h : Nat) (s : State) (line : Nat) : State := if holdHas s h line then holdTouch s h line false else holdInstall s h line false

/-- A load installs each harbour's program part in that hold's cache region, from a stack that is READY (R345). -/
def installProgram (shadow : Bool) (p : ForgingPlan) (s : State) : State :=
  drainVictims ((p.stored.filter fun x => s.hasHarbour x.1 && stackReady s x.1).foldl (fun (s : State) x =>
    (storedLines shadow x).foldl (installStored x.1) s) s)

/-- A load starts: the plane is LOADING toward a plan of an image (R101, R112). -/
def startLoad (s : State) (i : ImagePlan) (hash : List Byte) (shadow q : Bool) (f : Nat) : State :=
  match planIn i f with
  | none => s
  | some p =>
    let x := s.plane f q
    let s := s.setPlane f q { x with plan := some p, shoals := i.shoals, parts := i.parts, hash := hash, fromShadow := shadow, loaded := false, soundBeat := none, ownResult := none }
    let s := latchTables s f q p
    let s := p.tiles.foldl (fun (s : State) tp => s.setTile tp.tile q (setServed (s.tile tp.tile q) q 0)) s
    (dispatchLoads (installProgram shadow p s)).setPlaneState f q 1

/-- Both parts of a plane's load are complete (R20). -/
def completeLoad (s : State) (x : PlaneId) : State :=
  let f := x.1
  let q := x.2
  match (s.plane f q).plan with
  | none => s
  | some p =>
    let s := placePlan s f q p
    s.setPlane f q { s.plane f q with loaded := true }

/-- Values of the forging's "from image" objects (R267, R352). -/
def setFromImage (s : State) (f : Nat) (q : Bool) : State :=
  match (s.plane f q).plan with
  | none => s
  | some p =>
    let s := (((s.setReg Reg.forgeTarget f p.target).setReg Reg.qnHome f p.home).setReg Reg.qnClass f p.cls).setReg
      Reg.forgePrimeDepth f (primeDepth p)
    (List.range 16).foldl (fun s k =>
      let w := p.windows.getD k { opens := unpackTime 0, closes := unpackTime 0, ctrl := 0 }
      ((s.setReg (Reg.qnWinOpen.at k) f (packTime w.opens)).setReg (Reg.qnWinClose.at k) f (packTime w.closes)).setReg
        (Reg.qnWinCtrl.at k) f w.ctrl) s

/-! ### Sounding (R96 to R100) -/

/-- A plane enters SOUNDING at a boundary: the remap tables written since take effect, with the programs where they put them,
and its delay registers are 0 (R96 step 1, R112; notes/assumptions/91.md). -/
def startSounding (s : State) (x : PlaneId) : State :=
  let f := x.1
  let q := x.2
  let s := match (s.plane f q).plan with
    | none => s
    | some p =>
      let places (s : State) : List Nat := p.tiles.map fun (tp : TilePlan) => s.physOf tp.tile q
      let t := latchTables s f q p
      if places t = places s then t else placePlan t f q p
  let p := s.plane f q
  (s.setPlane f q { p with portDelay := [], quenchDelay := [], soundBeat := some s.beat.n, ownResult := none }).setPlaneState f q 2

/-- At a boundary, planes whose load is complete start sounding, and so do those that a write of 1 or 2 to FORGE_SOUND
named (R101, R102). With them begins what ferries report, unless a sounding is in progress. -/
def soundBoundary (s : State) : State :=
  let ready := (planesIn s 1).filter fun x => (s.plane x.1 x.2).loaded
  let waiting := (planesIn s 2).filter fun x => (s.plane x.1 x.2).soundBeat.isNone
  if (ready ++ waiting).isEmpty then s
  else
    let s := if (planesIn s 2).any fun x => (s.plane x.1 x.2).soundBeat.isSome then s
      else { s with lanes := tabMap (fun _ l => { l with ferryLanding := none }) s.lanes, act := { s.act with results := [] } }
    (ready ++ waiting).foldl startSounding s

/-- A sounding token of a ferry (R99) or its result tag (R100). DESIGN CHOICE (notes/assumptions/92.md): both name plane 0, and
the sounding token sequence 0. -/
def soundTag (b : Beat) (f : Nat) (fail result : Bool) : Tag :=
  makeTag (b.extractLsb' 0 16) f false false (if fail then flDegraded else 0#5) false (if result then 0xF#4 else 0#4)

/-- Transmit ferries send a tag of a sounding in their slot S of the present beat (R99, R100). -/
def tagFerries (s : State) (ps : List FerryPlan) (fail result : Bool) : State :=
  ps.foldl (fun (s : State) (p : FerryPlan) =>
    sendFerry s p.lane (s.beat.at' + p.slots.getD p.soundSlot 0) { data := 0#256, tag := soundTag s.beat.n p.forging fail result }) s

/-- Each transmit ferry sends a sounding token in its slot S in each of FORGE_SOUND_BEATS beats of a sounding (R99). -/
def soundTokens (s : State) : State :=
  match (planesIn s 2).findSome? fun x => (s.plane x.1 x.2).soundBeat with
  | some b =>
    if 0 ≤ beatDiff s.beat.n b ∧ beatDiff s.beat.n b < s.reg Reg.forgeSoundBeats then tagFerries s (txFerries s) false false else s
  | none => s

/-- A failure that a ferry reported in the beat before goes out on every other ferry (R100). -/
def relayFailures (s : State) : State :=
  let others := (txFerries s).filter fun p => s.act.relay.any fun l => l != p.mate
  { tagFerries s others true true with act := { s.act with relay := [] } }

/-- What ferries carry of a sounding in a beat. -/
def soundFerries (s : State) : State := relayFailures (soundTokens s)

/-- Does a plan share what R85 keeps apart with the live plane of another forging. -/
def meetsLive (s : State) (p : ForgingPlan) : Bool :=
  allPlanes.any fun x => x.1 != p.forging && isLivePlane (s.planeState x.1 x.2)
    && (match (s.plane x.1 x.2).plan with | some r => fabricMeets (fabricUse p) (fabricUse r) | none => false)

/-- The plans that the staging accounting counts: those that sound, and those of the other active forgings. -/
def accountedPlans (s : State) (set : List PlaneId) : List ForgingPlan :=
  (set.filterMap fun x => (s.plane x.1 x.2).plan)
    ++ (activeForgings s).filterMap fun p =>
      if set.any fun x => x.1 = p.forging then none else (s.plane p.forging (s.flag Reg.forgeLivePlane p.forging)).plan

/-- The plans of a set's planes on plane `q`. -/
def plansOn (s : State) (set : List PlaneId) (q : Bool) : List ForgingPlan :=
  (set.filter fun x => x.2 = q).filterMap fun x => (s.plane x.1 x.2).plan

/-- The sounding of one plane of a set, and the reason of Table 4.4 that refuses it at this wafer (R97). `lost` is a tag that
has not arrived. -/
def soundOne (s : State) (set : List PlaneId) (lost : Bool) (x : PlaneId) : PlaneId × Sounded :=
  match (s.plane x.1 x.2).plan with
  | none => (x, { portDelay := [], quenchDelay := [], offsets := [], soundedEnd := 0, reason := 5 })
  | some p =>
    let sh := (s.plane x.1 x.2).shoals
    let r := soundForging s x.2 sh p (contributors sh p.forging)
    let apart := forgingsApart (plansOn s set x.2) && workFits s x.2 p && !meetsLive s p
    (x, { r with reason := leastReason (reasonIf (r.reason != 0) r.reason ++ reasonIf lost 5
      ++ reasonIf (!stagingOk s s.beat.period sh (accountedPlans s set) || !apart) 7) })

/-- What a plane keeps of its own sounding until it ends. -/
def soundedPlane (s : State) (r : PlaneId × Sounded) : State :=
  let x := s.plane r.1.1 r.1.2
  (s.setPlane r.1.1 r.1.2 { x with
    portDelay := r.2.portDelay, quenchDelay := r.2.quenchDelay, offsets := r.2.offsets, ownResult := some r.2.reason }).setReg
    Reg.forgeSoundedEnd r.1.1 (r.2.soundedEnd % 65536)

/-- Gives a plane the outcome of its set's sounding: READY with its delays, or LOADED (R97, R98). -/
def soundOutcome (pass : Bool) (s : State) (r : PlaneId × Nat) : State :=
  let f := r.1.1
  let q := r.1.2
  let s := s.setReg Reg.forgeActReason f r.2
  let x := s.plane f q
  if pass then (s.setPlane f q { x with loaded := false, soundBeat := none, ownResult := none }).setPlaneState f q 3
  else
    (s.setPlane f q { x with portDelay := [], quenchDelay := [], loaded := false, soundBeat := none, ownResult := none }).setPlaneState f q 7

/-- The releases that sounding set for the receive ferries (R99). -/
def setFerryReleases (s : State) : State :=
  (((ferryImage s).map ImagePlan.ferries).getD []).foldl (fun s p =>
    if p.transmit then s
    else
      let r := ferryReleases s p.lane p
      s.modLane p.lane fun x => if r.isEmpty then x else { x with ferryRelease := r }) s

/-- An activation ends in HELD, refused or cancelled; planes that were loaded are LOADED (R349). -/
def endActivation (s : State) (reason imgReason : Nat) : State :=
  let s := allPlanes.foldl (fun s x =>
    let st := s.planeState x.1 x.2
    if st = 1 ∨ st = 2 ∨ st = 3 then
      if st = 1 && !(s.plane x.1 x.2).loaded then s.setPlaneState x.1 x.2 0
      else (s.setPlane x.1 x.2 { s.plane x.1 x.2 with loaded := false, soundBeat := none, ownResult := none }).setPlaneState x.1 x.2 7
    else s) s
  let s := (((dropLoads s).setReg Reg.imgState 0 1).setReg Reg.imgReason 0 imgReason).setReg Reg.idStateReason 0 reason
  { s with act := Activation.none, beat := { BeatCount.off with period := s.reg Reg.beatPeriod, n := s.beat.n } }

/-- An activation that meets a poisoned line of the image store ends, and its image must be committed again (R347, R349). -/
def storeFails (s : State) : State := (endActivation s 7 10).setReg Reg.imgState 0 0

/-- The planes whose own sounding has ended and that await their peers' results. -/
def awaitingPeers (s : State) : List PlaneId := (planesIn s 2).filter fun x => (s.plane x.1 x.2).ownResult.isSome

/-- The sounding of a set is over: READY, or refused with a reason for each plane, and an activation goes on or ends with it
(R97, R98, R348). -/
def concludeSounding (s : State) (all : List (PlaneId × Nat)) : State :=
  let pass := all.all fun r => r.2 == 0
  let fromLoad := all.any fun r => (s.plane r.1.1 r.1.2).loaded
  let s := all.foldl (soundOutcome pass) s
  let s := { s with act := { s.act with endedAt := none } }
  if s.act.phase = 3 then
    if pass then { s with act := { s.act with phase := 4 } } else endActivation s 7 8
  else if !pass && fromLoad then s.setReg Reg.imgReason 0 8
  else s

/-- The receive ferries in use, one per direct peer's ferry. -/
def rxFerries (s : State) : List FerryPlan := (((ferryImage s).map ImagePlan.ferries).getD []).filter fun p => !p.transmit

/-- What the peers' results say: none while they are awaited, else whether all have passed in time (R100). -/
def peersVerdict (s : State) : Option Bool :=
  let late := match s.act.endedAt with
    | some b => decide (64 < beatDiff s.beat.n b)
    | none => false
  if s.act.results.any Prod.snd then some false
  else if (rxFerries s).all fun p => s.act.results.any fun x => x.1 = p.lane then some true
  else if late then some false
  else none

/-- The set that awaits its peers is READY, or refused with PEER_FAILED, once their results say so (R23, R100). -/
def judgePeers (s : State) : State :=
  let set := awaitingPeers s
  if set.isEmpty then s
  else
    match peersVerdict s with
    | none => s
    | some pass => concludeSounding s (set.map fun x => (x, if pass then 0 else 6))

/-- The wafer's own sounding ends for every plane that sounds: DESIGN CHOICE (notes/assumptions/93.md), they are one set. Its
result goes out on every ferry; a failure refuses the set, and a pass makes it READY once the peers have passed (R97 to
R100, R348). -/
def soundEnds (s : State) (lost : Bool) : State :=
  let set := (planesIn s 2).filter fun x => (s.plane x.1 x.2).soundBeat.isSome && (s.plane x.1 x.2).ownResult.isNone
  if set.isEmpty then s
  else
    let s := setFerryReleases s
    let own := set.map (soundOne s set lost)
    let fail := own.any fun r => r.2.reason != 0
    let s := own.foldl soundedPlane (tagFerries s (txFerries s) fail true)
    if fail then concludeSounding s (own.map fun r => (r.1, r.2.reason))
    else judgePeers { s with act := { s.act with endedAt := some s.beat.n } }

/-- SOUNDING_END. -/
def execSoundingEnd (s : State) : Host.Outcome State Fault Refusal := done s (soundEnds s false)

/-- SOUND_LOST. -/
def execSoundLost (s : State) : Host.Outcome State Fault Refusal := done s (soundEnds s true)

/-- The load of every LOADING plane completes: an activation goes on to its sounding, or ends where HOLD cancelled it
(R20, R348, R349); a shadow load is LOADED (R352). -/
def loadsComplete (s : State) : State :=
  let set := (planesIn s 1).filter fun x => !(s.plane x.1 x.2).loaded
  if set.isEmpty then s
  else
    let s := set.foldl completeLoad (retireLoads s)
    if s.act.phase = 2 then
      if s.act.cancelled then endActivation s 4 (s.reg Reg.imgReason) else { s with act := { s.act with phase := 3 } }
    else if s.reg Reg.imgShadowState = 2 then s.setReg Reg.imgShadowState 0 3
    else s

/-- SHADOW_LOAD_COMPLETE. -/
def execShadowLoadComplete (s : State) : Host.Outcome State Fault Refusal := done s (loadsComplete s)

/-! ### FORGE_SOUND (R102, R103, R380) -/

/-- The image that loaded a plane, while the image store still holds it. -/
def imageOf (s : State) (x : Plane) : Option ImagePlan :=
  if x.hash.isEmpty then none
  else if x.hash = s.images.mainHash ∧ !x.fromShadow then s.images.main
  else if x.hash = s.images.shadowHash ∧ x.fromShadow then s.images.shadow
  else none

/-- The prime values of a plane written again (R102, R107). -/
def reprime (s : State) (f : Nat) (q : Bool) : State :=
  match (s.plane f q).plan with
  | none => s
  | some p => p.tiles.foldl (fun s tp => s.setTile tp.tile q (writePrimes (s.tile tp.tile q) q tp)) s

/-- A plane that waits for the next boundary to be sounded. -/
def awaitSounding (s : State) (f : Nat) (q : Bool) : State :=
  (s.setPlane f q { s.plane f q with soundBeat := none, ownResult := none, loaded := false }).setPlaneState f q 2

/-- A write of FORGE_SOUND: the status code, and the state after it (R103). A reload that R85 or R377 forbids is refused as any
write of 3, with IMG_REASON RESOURCE (notes/assumptions/117.md). -/
def forgeSoundWrite (f v : Nat) (s : State) : Nat × State :=
  let q := !s.flag Reg.forgeLivePlane f
  let st := s.planeState f q
  if !s.mode.flows || !isActive s f then (scState, s)
  else if v = 1 then (if st = 7 then (scOk, awaitSounding s f q) else (scState, s))
  else if v = 2 then (if st = 6 then (scOk, awaitSounding (reprime s f q) f q) else (scState, s))
  else if isIdlePlane st && !s.replaying then
    match imageOf s (s.plane f (!q)) with
    | some i =>
      match planIn i f with
      | some p =>
        if tilesFree s q p && workFits s q p && !meetsLive s p then
          (scOk, startLoad s i (s.plane f (!q)).hash (s.plane f (!q)).fromShadow q f)
        else (scState, s.setReg Reg.imgReason 0 5)
      | none => (scState, s)
    | none => (scState, s)
  else (scState, s)

/-! ### IMG_SHADOW_LOAD (R352) -/

/-- The harbours of the shoals that forgings read. -/
def harboursRead (i : ImagePlan) (fs : List Nat) : List Nat :=
  (i.shoals.filter fun x => x.forgings.any fs.contains).map fun x => x.shoal / 16

/-- The shadow image's refusal of a load: the first code of Table 15.8 that applies, 0 for none. -/
def shadowRefusal (s : State) (i : ImagePlan) (fs : List Nat) (q : Bool) : Nat :=
  let ps := fs.filterMap (planIn i)
  if ps.length ≠ fs.length ∨ s.images.shadowFrame ≠ s.images.activeFrame then 5
  else if !ps.all (forgingOk s q s.beat.period) || !forgingsApart i.forgings || ps.any (meetsLive s) then 5
  else if !powerOk s ps (harboursRead i fs ++ ps.map ForgingPlan.home) then 6
  else if storePoisoned s true then 10
  else if fs.any fun f => isLivePlane (s.planeState f q) || !isActive s f then 11
  else 0

/-- A write of IMG_SHADOW_LOAD: the status code, and the state after it. A poisoned line of its half of the image store leaves
IMG_SHADOW_STATE EMPTY (R347; notes/assumptions/116.md). -/
def shadowLoadWrite (v : Nat) (s : State) : Nat × State :=
  let st := s.reg Reg.imgShadowState
  let fs := (List.range 16).filter fun f => bit v f
  let q := bit v 16
  if !s.mode.flows || !(st = 1 || st = 3) then (scState, s)
  else
    match s.images.shadow with
    | none => (scValue, s.setReg Reg.imgReason 0 5)
    | some i =>
      match shadowRefusal s i fs q with
      | 0 =>
        let s := fs.foldl (fun s f => startLoad s i s.images.shadowHash true q f) s
        (scOk, s.setReg Reg.imgShadowState 0 (if fs.isEmpty then 3 else 2))
      | r =>
        let s := s.setReg Reg.imgReason 0 r
        (if r = 5 then scValue else scState, if r = 10 then s.setReg Reg.imgShadowState 0 0 else s)

/-! ### Swaps (R104, R105, R108) -/

/-- The element at which the tokens of two planes would meet (R104): the first shared element with a live offset beyond a
shadow one by a multiple of the period. -/
def meetingElement (p : Nat) (live shadow : List (Nat × Nat)) : Option Nat :=
  (live.find? fun x => shadow.any fun y => x.1 = y.1 ∧ y.2 < x.2 ∧ (x.2 - y.2) % p = 0).map Prod.fst

/-- The masked forgings of a PLANE_SWAP whose plane would change, in the active image (R105). -/
def swapForgings (s : State) (arg : Nat) : List Nat :=
  (List.range 16).filter fun f => bit arg f && isActive s f && s.flag Reg.forgeLivePlane f != bit arg 16

/-- The collision of a PLANE_SWAP at a period: forging and element (R104). -/
def swapCollision (s : State) (arg p : Nat) : Option (Nat × Nat) :=
  (swapForgings s arg).findSome? fun f =>
    (meetingElement p (s.plane f (s.flag Reg.forgeLivePlane f)).offsets (s.plane f (bit arg 16)).offsets).map fun e => (f, e)

/-- Is the target plane of every masked forging READY, or live already (R102). -/
def swapReady (s : State) (arg : Nat) : Bool :=
  (List.range 16).all fun f => !bit arg f || s.planeState f (bit arg 16) == 3 || (s.planeState f (bit arg 16) == 4)

/-- A forging's plane becomes LIVE at a beat (R101, R105). -/
def goLive (s : State) (b : Beat) (q : Bool) (f : Nat) : State :=
  let s := s.setPlane f q { s.plane f q with first := b }
  let s := (s.setPlaneState f q 4).setReg Reg.forgeLivePlane f (ofBool q)
  let x := s.quench f
  setFromImage (s.setQuench f { x with planes := (b, q) :: x.planes.take 63 }) f q

/-- The old plane of a forging RETIRES at a beat. -/
def goRetiring (s : State) (b : Beat) (q : Bool) (f : Nat) : State :=
  (s.setPlane f q { s.plane f q with last := b - 1#48 }).setPlaneState f q 5

/-- A PLANE_SWAP executes at boundary b (R105). -/
def swapPlanes (s : State) (arg : Nat) (b : Beat) : State :=
  let q := bit arg 16
  (swapForgings s arg).foldl (fun s f => goLive (goRetiring s b (!q) f) b q f) { s with swaps := b :: s.swaps.take 255 }

/-- A RETIRING plane is STALE once the verdict of its last beat has been issued, or its time has passed where the beat has
none (R101). -/
def retirePlanes (s : State) : State :=
  (planesIn s 5).foldl (fun s x =>
    let p := s.plane x.1 x.2
    let t := ((p.plan.map ForgingPlan.target).getD 0)
    if !s.hasVerdict p.last && decide (s.boundaryAt p.last + t ≤ s.clocks.cycle) then s.setPlaneState x.1 x.2 6 else s) s

/-- Offers whose masked forgings all have plane q LIVE under the offered table are removed (R379). -/
def pruneOffers (s : State) : State :=
  let taken (o : Offer) : Bool :=
    s.remap o.island o.plane == o.table && (List.range 16).all fun f => !bit o.forgings f || s.planeState f o.plane == 4
  { s with faults := { s.faults with offers := s.faults.offers.filter fun o => !taken o } }

end Sys2Proof.Machine
end

