-- ==== Sys2Proof/Machine/Quench.lean ====
section
/-! DEFINITION. The quench: final tokens, event time and windows, the evaluation of a beat, ledgers, records, pins and
late accept (R91, R156 to R170, R195 to R197). -/

namespace Sys2Proof.Machine

/-- The plan of the plane that a forging runs a beat on. -/
def State.planFor (s : State) (f : Nat) (n : Beat) : Option ForgingPlan := (s.planeFor f n).bind fun q => (s.plane f q).plan

/-- The shoals of the plane that a forging runs a beat on, that it reads. -/
def State.shoalsFor (s : State) (f : Nat) (n : Beat) : List ShoalPlan :=
  match s.planeFor f n with
  | some q => (s.plane f q).shoals.filter fun x => x.forgings.contains f
  | none => []

/-- Does a cycle lie in the beat in progress or before it: its instant has come once the boundaries have
(notes/assumptions/2.md). -/
def State.dueNow (s : State) (c : Nat) : Bool := decide (c < s.beat.at' + s.beat.period)

/-! ### Final tokens (R95, R156, R157) -/

/-- What becomes of a final token that leaves its delay register. -/
inductive Final where
  | taken
  | mismatch
  | late
  | missed
  deriving DecidableEq, Repr

/-- Judges a final token of an input that left its delay register in cycle `c` (R157). -/
def judgeFinal (s : State) (f input : Nat) (n : Beat) (t : Token) (c : Nat) : Final :=
  let q := s.quench f
  let count := ((s.planFor f n).map fun p => p.inputs.getD input 0).getD 0
  if tagForging t.tag ≠ f ∨ s.planeFor f n ≠ some (tagPlane t.tag) then .mismatch
  else if s.hasVerdict n && !q.toIssue.contains n && decide (0 ≤ beatDiff s.beat.n n) then .late
  else if count ≤ (tagSeq t.tag).toNat ∨ q.taken.any fun x => x.1 == n && x.2.1 == input && tagSeq x.2.2.tag == tagSeq t.tag then .mismatch
  else if s.verdictCycle f n < c + 8 then .missed
  else .taken

/-- The first token of a quench input's delay register leaves it. -/
def finalToken (s : State) (f input : Nat) (plane : Bool) : State :=
  let k := inputKey input plane
  match tabGet [] (s.quench f).inbox k with
  | [] => s
  | x :: rest =>
    let s := s.runTo x.at'
    let q := s.quench f
    let n := rebuildBeat s.beat.n (tagBeat x.tok.tag)
    let s := s.setQuench f { q with inbox := tabSet q.inbox k rest }
    let s := tap s 2 (((s.planFor f n).map ForgingPlan.home).getD 0) 0 input plane x.tok n
    match judgeFinal s f input n x.tok x.at' with
    | .mismatch => s.count Reg.qnTagMismatch 0
    | .late => s.count Reg.qnLateTokens 0
    | .missed => s
    | .taken =>
      let q := s.quench f
      s.setQuench f { q with taken := (n, input, x.tok) :: q.taken.filter fun y => decide (beatDiff n y.1 ≤ 200) }

/-- QUENCH_FINAL_TOKEN. -/
def execQuenchFinalToken (forging input : Nat) (plane : Bool) (s : State) : Host.Outcome State Fault Refusal :=
  onUnit (decide (forging < 16) && decide (input < 16)) s (finalToken s forging input plane)

/-! ### Event time and windows (R158 to R160) -/

/-- The stamp of a reference and its shoal's uncertainty: of a group, that of its member of lowest number with a stamp
(R65, R158). -/
def refStamp (s : State) (n : Beat) : Ref → Option (Time96 × Nat)
  | .shoal k => (s.shoalStamp k n).map fun t => (t, s.reg Reg.shoalStampUnc k)
  | .group g =>
    (List.range 256).findSome? fun k =>
      match s.shoalPlan k with
      | some p => if p.group = g then (s.shoalStamp k n).map fun t => (t, s.reg Reg.shoalStampUnc k) else none
      | none => none

/-- The event time of a beat and its uncertainty in 2^-16 ns, absent where no reference has a stamp or the offset is
invalid (R158). `off` is the code of element 3, none where the decision token is missing. -/
def eventTime (s : State) (p : ForgingPlan) (n : Beat) (off : Option Nat) : Option (Time96 × Nat) :=
  match off with
  | none => none
  | some c =>
    if c = 0x8000 then none
    else (p.refs.findSome? (refStamp s n)).map fun x => (timeOfUnits (timeUnits x.1 + signed 16 c * 256), x.2)

/-- Window w of a table of a forging: open, close and control byte. -/
def windowOf (s : State) (f table w : Nat) : Window :=
  let k := 8 * table + w
  { opens := unpackTime (s.reg (Reg.qnWinOpen.at k) f), closes := unpackTime (s.reg (Reg.qnWinClose.at k) f),
    ctrl := s.reg (Reg.qnWinCtrl.at k) f }

def Window.enabled (w : Window) : Bool := bit w.ctrl 0
def Window.isVeto (w : Window) : Bool := bit w.ctrl 1

/-- Is `a` not before `b`. -/
def notBefore (a b : Time96) : Bool := decide (0 ≤ compareTime b a)

/-- Does a time lie inside a window (R159): not before open and before close; none where close is not after open. -/
def Window.inside (w : Window) (t : Time96) : Bool := compareTime w.opens w.closes == 1 && notBefore t w.opens && compareTime t w.closes == 1

/-- Does a time lie within `u` of a bound (R160). -/
def nearBound (t b : Time96) (u : Nat) : Bool :=
  notBefore t (timeOfUnits (timeUnits b - u)) && notBefore (timeOfUnits (timeUnits b + u)) t

/-- The window table selected at boundary n (R47, R159). -/
def tableOf (s : State) (f : Nat) (n : Beat) : Nat := (((s.quench f).tables.find? fun x => !beatBefore n x.1).map Prod.snd).getD 0

/-- The windows that are enabled in the table selected at boundary n (R47, R159). -/
def enabledWindows (s : State) (f : Nat) (n : Beat) : List Window :=
  ((List.range 8).map (windowOf s f (tableOf s f n))).filter Window.enabled

/-- EDGE of the windows (R160). -/
def windowEdge (ws : List Window) (t : Option (Time96 × Nat)) : Bool :=
  match t with
  | some (t, u) => ws.any fun w => nearBound t w.opens u || nearBound t w.closes u
  | none => false

/-- What the windows decide: a reason that rejects, or none (R159, R161). -/
def windowReason (ws : List Window) (t : Option (Time96 × Nat)) : Option Nat :=
  if ws.isEmpty then none
  else
    match t with
    | none => some 8
    | some (t, _) =>
      let gates := ws.filter fun w => !w.isVeto
      if !gates.isEmpty && !gates.any fun w => w.inside t then some 3
      else if ws.any fun w => w.isVeto && w.inside t then some 4
      else none

/-! ### Ledgers (R165 to R167) -/

/-- A contributing harbour as the ledgers see it: its key (16 + k for one on another wafer), the share, and its partition. -/
structure Contributor where
  key : Nat
  share : Nat
  g0 : Nat
  gPlus : Nat
  cap0 : Nat
  capPlus : Nat
  deriving DecidableEq, Repr

/-- The contributing harbours of a forging's plane (R167). -/
def contributorsOf (s : State) (f : Nat) (q : Bool) : List Contributor :=
  let x := s.plane f q
  let here := (contributors x.shoals f).map fun h =>
    let share := shareOf x.shoals f h
    match x.parts.find? fun p => p.harbour = h ∧ p.forging = f with
    | some p => { key := h, share := share, g0 := p.g0, gPlus := p.gPlus, cap0 := p.cap0, capPlus := p.capPlus }
    | none => ({ key := h, share := share, g0 := 0, gPlus := 0, cap0 := 0, capPlus := 0 } : Contributor)
  let there := (((x.plan.map ForgingPlan.remote).getD []).zipIdx).map fun r =>
    ({ key := 16 + r.2, share := r.1.share, g0 := r.1.g0, gPlus := r.1.gPlus, cap0 := r.1.cap0, capPlus := r.1.capPlus } : Contributor)
  here ++ there

/-- Words that a share of G block slots drains in a beat (R167). -/
def drainWords (g : Nat) : Nat := 64 * g / 65

/-- Words that a ledger owes. -/
def owedOf (l : List LedEntry) : Nat := (l.map LedEntry.owed).sum

/-- A ledger after `d` words drained in its order, emptied entries removed. -/
def drainLedger : Nat → List LedEntry → List LedEntry
  | _, [] => []
  | d, e :: es => if e.owed ≤ d then drainLedger (d - e.owed) es else { e with owed := e.owed - d } :: es

/-- Ledger + in its order: classes from 7 down, then beats. -/
def insertEntry (x : LedEntry) : List LedEntry → List LedEntry
  | [] => [x]
  | y :: ys => if y.cls < x.cls ∨ (y.cls = x.cls ∧ beatBefore x.beat y.beat) then x :: y :: ys else y :: insertEntry x ys

/-- Words ahead of a beat of a class with a share: its own and those of its class and above (R167); for class 0 its own and
all that the ledger owes. -/
def aheadOf (l : List LedEntry) (c share : Nat) : Nat :=
  share + if c = 0 then owedOf l else owedOf (l.filter fun e => decide (c ≤ e.cls))

/-- Does one contributing harbour take a beat (R167). -/
def admits (q : Quench) (limit c : Nat) (x : Contributor) : Bool :=
  let l0 := tabGet [] q.led0 x.key
  let lp := tabGet [] q.ledP x.key
  if c = 0 then decide (owedOf l0 + x.share ≤ x.cap0)
  else decide (owedOf lp + x.share ≤ x.capPlus) && decide (aheadOf lp c x.share ≤ limit * drainWords x.gPlus)
    && (lp.filter fun e => e.cls < c).all fun e => decide ((x.share : Int) ≤ e.slack)

/-- The ledgers with an admitted beat (R167). -/
def enterLedger (n : Beat) (limit c : Nat) (q : Quench) (x : Contributor) : Quench :=
  if c = 0 then { q with led0 := tabMod [] q.led0 x.key fun l => l ++ [{ beat := n, cls := 0, owed := x.share, slack := 0 }] }
  else
    let lp := tabGet [] q.ledP x.key
    let slack : Int := ((limit * drainWords x.gPlus : Nat) : Int) - aheadOf lp c x.share
    let lower := lp.map fun e => if e.cls < c then { e with slack := e.slack - x.share } else e
    { q with ledP := tabSet q.ledP x.key (insertEntry { beat := n, cls := c, owed := x.share, slack := slack } lower) }

/-- QN_DEFER_LIMIT_c. -/
def deferLimit (s : State) (f c : Nat) : Nat := s.reg (Reg.qnDeferLimit.at (c - 1)) f

/-- Admits a beat at every contributing harbour or at none: the quench with it and whether it is DEFERRED (R167, R168). -/
def takeBeat (s : State) (f : Nat) (q : Bool) (n : Beat) (c : Nat) : Option (Quench × Bool) :=
  let xs := contributorsOf s f q
  let qu := s.quench f
  let limit := deferLimit s f c
  if xs.all (admits qu limit c) then
    let waits := xs.any fun x => decide (x.share < aheadOf (tabGet [] (if c = 0 then qu.led0 else qu.ledP) x.key) c x.share)
    some (xs.foldl (enterLedger n limit c) qu, waits)
  else none

/-- The harbours for which a forging's home keeps ledgers: those of its live plane, and those that only the other plane has,
whose beats may still be owed after a swap. -/
def ledgerHarbours (s : State) (f : Nat) : List Contributor :=
  let q := s.flag Reg.forgeLivePlane f
  let xs := contributorsOf s f q
  xs ++ (contributorsOf s f (!q)).filter fun x => !(xs.any fun y => y.key == x.key)

/-- At a boundary, every ledger drains its words (R167). -/
def drainLedgers (s : State) : State :=
  { s with quenches := tabMap (fun f qu =>
      (ledgerHarbours s f).foldl (fun (qu : Quench) x =>
        { qu with led0 := tabMod [] qu.led0 x.key (drainLedger (drainWords x.g0)), ledP := tabMod [] qu.ledP x.key (drainLedger (drainWords x.gPlus)) }) qu) s.quenches }

/-! ### The record (R161 to R164) -/

/-- What the evaluation of a beat finds before admission. -/
structure Verdict where
  /-- a rejecting reason, none for a candidate -/
  reject : Option Nat
  cand : Nat
  cls : Nat
  flags : BitVec 5
  time : Option (Time96 × Nat)
  edge : Bool
  score : Nat

/-- Every expected final token of a beat has been taken (R157). -/
def finalsComplete (p : ForgingPlan) (taken : List (Beat × Nat × Token)) (n : Beat) : Bool :=
  p.inputs.zipIdx.all fun x => decide (x.1 ≤ (taken.filter fun y => y.1 == n && y.2.1 == x.2).length)

/-- Flags that the shoals of a forging report for a beat: DEGRADED and OVERFULL (R70, R72). -/
def shoalFlags (s : State) (f : Nat) (n : Beat) : BitVec 5 :=
  if s.replaying then 0#5
  else
    let ks := (s.shoalsFor f n).map ShoalPlan.shoal
    let d := ks.any fun k => (s.shoalBeat k n).degraded.isSome
    let o := ks.any fun k => (s.shoalBeat k n).overfull.isSome
    (if d then flDegraded else 0#5) ||| (if o then 0b00010#5 else 0#5)

/-- The flags of a beat's record before EDGE of the windows (R91, R157). -/
def beatFlags (s : State) (f : Nat) (p : ForgingPlan) (n : Beat) : BitVec 5 :=
  let taken := (s.quench f).taken
  let fl := (taken.filter fun x => x.1 == n).foldl (fun a x => a ||| tagFlags x.2.2.tag) (shoalFlags s f n)
  if finalsComplete p taken n then fl else fl ||| flDegraded

/-- The decision token: sequence 0 on input 0 (R156). -/
def decisionToken (s : State) (f : Nat) (n : Beat) : Option Token :=
  ((s.quench f).taken.find? fun x => x.1 = n ∧ x.2.1 = 0 ∧ tagSeq x.2.2.tag = 0#4).map fun x => x.2.2

/-- Element k of a decision word, as an INT16 code. -/
def decisionElem (t : Token) (k : Nat) : Nat := field t.data.toNat (16 * k) 16

/-- The network path of the evaluation: a rejecting reason or none (R161). -/
def networkReason (s : State) (f : Nat) (t : Option Token) (degraded : Bool) : Option Nat :=
  if degraded && s.reg Reg.qnDegradedPolicy f == 1 then some 9
  else
    match t with
    | none => some 7
    | some t =>
      let prop := decisionElem t 0
      let score := decisionElem t 2
      if prop = 0x8000 ∨ score = 0x8000 then some 6
      else if signed 16 prop ≤ 0 then some 1
      else if signed 16 score < signed 16 (s.reg Reg.qnThreshold f) then some 2
      else none

/-- The class of a beat (Table 7.1). -/
def beatClass (s : State) (f : Nat) (t : Option Token) : Nat :=
  match t with
  | none => s.reg Reg.qnClass f
  | some t => if 1 ≤ decisionElem t 1 ∧ decisionElem t 1 ≤ 7 then decisionElem t 1 else s.reg Reg.qnClass f

/-- Evaluates a beat up to its admission (R161). -/
def evaluate (s : State) (f : Nat) (q : Bool) (p : ForgingPlan) (n : Beat) : Verdict :=
  let t := decisionToken s f n
  let fl := beatFlags s f p n
  let time := eventTime s p n (t.map fun t => decisionElem t 3)
  let ws := enabledWindows s f n
  let policy := s.reg Reg.forgePrimePolicy f
  let priming := fl.getLsbD 4
  let prescaled := priming && policy == 1
  let hit := (n - (s.plane f q).first).toNat % s.reg Reg.forgePrimePrescale f == 0
  let first : Option Nat :=
    if priming && policy == 0 then some 5
    else if prescaled then (if hit then none else some 5)
    else networkReason s f t (fl.getLsbD 3)
  { reject := first.or (windowReason ws time)
    cand := if prescaled then 10 else 0
    cls := if prescaled && hit then s.reg Reg.qnClass f else beatClass s f t
    flags := fl
    time := time
    edge := windowEdge ws time
    score := match t with | some t => decisionElem t 2 | none => 0x8000 }

/-- Words that the forging's shoals discarded from a beat, saturating at 255 (Table 7.2). -/
def truncWords (s : State) (f : Nat) (n : Beat) : Nat :=
  min 255 (((s.shoalsFor f n).map fun p => s.shoalTrunc p.shoal n).sum)

/-- A verdict record (Table 7.2). -/
def verdictRecord (n : Beat) (f verdict reason : Nat) (v : Verdict) (late deferred : Bool) (trunc : Nat) : BitVec 128 :=
  let ref : Nat := match v.time with
    | some (t, _) => t.ns % 2 ^ 24 * 256 + t.frac / 256 % 256
    | none => 0
  n ++ BitVec.ofNat 4 f ++ BitVec.ofNat 2 verdict ++ BitVec.ofNat 5 reason ++ BitVec.ofNat 3 v.cls
    ++ BitVec.ofBool (v.flags.getLsbD 4) ++ BitVec.ofBool (v.flags.getLsbD 3) ++ BitVec.ofBool (v.edge || v.flags.getLsbD 2)
    ++ BitVec.ofBool (v.flags.getLsbD 1) ++ BitVec.ofBool (v.flags.getLsbD 0) ++ BitVec.ofBool late ++ BitVec.ofBool deferred
    ++ BitVec.ofBool v.time.isNone ++ 0#2 ++ BitVec.ofNat 8 trunc ++ BitVec.ofNat 16 v.score ++ BitVec.ofNat 32 ref

/-! ### Spare area and pins (R169, R195 to R197) -/

/-- Words that the partitions of a harbour reserve. -/
def capWords (s : State) (h : Nat) : Nat :=
  let ps := ((s.images.active.map ImagePlan.parts).getD []).filter fun x => x.harbour = h
  (ps.map fun x => x.cap0 + x.capPlus).sum

/-- Free words of a harbour's spare area (R169). -/
def spareFree (s : State) (h : Nat) : Nat :=
  let t := s.tank h
  524288 - capWords s h - ((t.queued.filter Share.late).map fun x => x.words.length - x.sent).sum - (t.pins.map Pin.size).sum

/-- Does a pin rule cover an accepted beat of a class (R195). -/
def ruleCovers (r : PinRule) (f : Nat) (n : Beat) (c : Nat) : Bool :=
  r.forging == f && decide (0 ≤ beatDiff n r.start) && decide (beatDiff n r.start < r.beats) && bit r.mask c

/-- At the issue of an ACCEPT record each harbour with a rule that covers it grants the pin or counts a refusal; one pin
per harbour (R195). -/
def grantPin (f : Nat) (n : Beat) (c : Nat) (s : State) (h : Nat) : State :=
  match (s.harbour h).pinRules.find? fun r => ruleCovers r f n c with
  | none => s
  | some r =>
    let share := match s.planeFor f n with
      | some q => shareOf (s.plane f q).shoals f h
      | none => 0
    if share ≤ spareFree s h then
      let t := s.tank h
      let p : Pin := { forging := f, beat := n, size := share, words := [], release := s.beat.n + BitVec.ofNat 48 r.life }
      (s.setTank h { t with pins := t.pins ++ [p] }).count Reg.engPinsGranted h 64
    else s.count Reg.engPinsRefused h 64

/-- Rules whose last beat's record has been issued are removed (R196). -/
def expireRules (f : Nat) (n : Beat) (s : State) : State :=
  { s with harbours := tabMap (fun _ x =>
      { x with pinRules := x.pinRules.filter fun r => !(r.forging == f && beatDiff n r.start == (r.beats : Int) - 1) }) s.harbours }

/-- Granted pins are released at the boundary of their issue beat plus the lifetime (R195). -/
def releasePins (s : State) : State :=
  { s with tanks := tabMap (fun _ t => { t with pins := t.pins.filter fun p => decide (0 < beatDiff p.release s.beat.n) }) s.tanks }

/-! ### Issue (R162, R168, R170) -/

/-- Is late accept open to a forging: QN_LATE_ACCEPT TRUE, never in strict mode, and no contributing harbour on another
wafer (R170, R392). -/
def lateOpen (s : State) (f : Nat) (n : Beat) : Bool :=
  s.flag Reg.qnLateAccept && !s.strict && (((s.planFor f n).map fun p => p.remote.isEmpty).getD false)

/-- A record goes to the transmit lanes of its home, to the records that the ring carries, and out of the block. -/
def putRecord (s : State) (f home : Nat) (n : Beat) (second : Bool) (r : BitVec 128) : State :=
  let t := s.tank home
  let s := s.setTank home { t with outRecords := t.outRecords ++ [(second, r)] }
  let q := s.quench f
  let s := if second then s else s.setQuench f { q with records := r :: q.records.take 199 }
  let s := if second then s else { s with faults := { s.faults with recordsOf := (n, f, r) :: s.faults.recordsOf.take 4095 } }
  s.emit (.verdict f r)

/-- Counts an outcome (R168). -/
def countVerdict (s : State) (f verdict c : Nat) (deferred : Bool) : State :=
  match verdict with
  | 0 =>
    let s := s.count (Reg.qnAccepted.at c) f 64
    if deferred then s.count (Reg.qnDeferred.at c) f 64 else s
  | 1 => s.count Reg.qnRejected f 64
  | _ => s.count (Reg.qnRefused.at c) f 64

/-- A REFUSE is kept for late accept, shows in REFUSING, and in class 0 raises an EMCY (R168, R170, R173). -/
def noteRefuse (s : State) (f home c : Nat) (n : Beat) (r : BitVec 128) : State :=
  let s := { s with silush := { s.silush with refusedNow := true } }
  let q := s.quench f
  let s := if lateOpen s f n then s.setQuench f { q with refused := q.refused ++ [{ beat := n, cls := c, slot := s.beat.n, record := r }] } else s
  if c = 0 then s.emcy { code := 0xFF40, unit := harbourUnit home, detail := n.toNat % 2 ^ 32 } else s

/-- The first record of a beat is issued (R161, R162). -/
def issueRecord (s : State) (f : Nat) (q : Bool) (p : ForgingPlan) (n : Beat) : State :=
  let v := evaluate s f q p n
  let trunc := truncWords s f n
  let out : Nat × Nat × Bool × State :=
    match v.reject with
    | some r => (1, r, false, s)
    | none =>
      match takeBeat s f q n v.cls with
      | some (qu, waits) => (0, v.cand, waits, s.setQuench f qu)
      | none => (2, 16 + v.cls, false, s)
  let r := verdictRecord n f out.1 out.2.1 v false out.2.2.1 trunc
  let s := countVerdict out.2.2.2 f out.1 v.cls out.2.2.1
  let s := putRecord s f p.home n false r
  let s := if out.1 = 2 then noteRefuse s f p.home v.cls n r else s
  let s := if out.1 = 0 then s.harbourList.foldl (grantPin f n v.cls) s else s
  let s := expireRules f n s
  let x := s.quench f
  let s := s.setQuench f { x with toIssue := x.toIssue.filter (· != n), taken := x.taken.filter fun y => y.1 != n }
  if s.planeState f (!q) = 5 ∧ (s.plane f (!q)).last = n then s.setPlaneState f (!q) 6
  else if s.planeState f q = 5 ∧ (s.plane f q).last = n then s.setPlaneState f q 6
  else s

/-- Does a forging of lower number issue in a cycle too: pins of one cycle are granted in forging order (R197). -/
def issuesAfter (s : State) (f c : Nat) : Bool :=
  (List.range f).any fun g =>
    match s.nextIssue g with
    | some m => s.verdictCycle g m == c && (((s.planeFor g m).bind fun q => (s.plane g q).plan).isSome)
    | none => false

/-- The home quench issues the record of its next beat at boundary(n) + T; uncorrectable quench state is a machine check
(R161, R371). -/
def verdictIssues (s : State) (f : Nat) (stateLost : Bool) : State :=
  match s.nextIssue f with
  | none => s
  | some n =>
    match s.planeFor f n with
    | none => s
    | some q =>
      match (s.plane f q).plan with
      | none => s
      | some p =>
        if !s.dueNow (s.verdictCycle f n) || issuesAfter s f (s.verdictCycle f n) then s
        else if stateLost then machineCheck (s.runTo (s.verdictCycle f n)) { code := 0xFF58, unit := harbourUnit p.home, detail := f }
        else issueRecord (s.runTo (s.verdictCycle f n)) f q p n

/-- VERDICT_ISSUE. -/
def execVerdictIssue (forging : Nat) (stateLost : Bool) (s : State) : Host.Outcome State Fault Refusal :=
  onUnit (decide (forging < 16)) s (verdictIssues s forging stateLost)

/-! ### Staging and tanks (R17, R166, R170, R172) -/

/-- The share of a beat at a harbour from its staging buffer, by shoal, position and word; words that no token brought
read the invalid code of their shoal's format (R172, Table 17.1). -/
def stagedShare (s : State) (f h : Nat) (n : Beat) : List Word64 :=
  let st := (s.tank h).staging.filter fun x => x.forging = f ∧ x.beat = n
  (byShoal ((s.shoalsFor f n).filter fun p => p.shoal / 16 = h)).flatMap fun p =>
    (byPosition p).flatMap fun l => (List.range (p.width / 4)).flatMap fun k =>
      match st.find? fun x => x.shoal = p.shoal ∧ x.position = l.2 ∧ x.token = k with
      | some x => tokenWords x.data
      | none => (List.range 4).map (invalidPart p.format)

/-- A harbour's staging buffer without a beat of a forging. -/
def dropStaged (s : State) (f h : Nat) (n : Beat) : State :=
  let t := s.tank h
  s.setTank h { t with staging := t.staging.filter fun x => !(x.forging == f && x.beat == n) }

/-- A share moves from staging into the tank, or into the spare area (R17, R170). -/
def moveShare (s : State) (f h : Nat) (n : Beat) (c : Nat) (late : Bool) : State :=
  let ws := stagedShare s f h n
  let s := dropStaged s f h n
  let t := s.tank h
  s.setTank h { t with queued := t.queued ++ [{ forging := f, beat := n, cls := c, words := ws, sent := 0, late := late }] }

/-- The record of a beat that a forging issued. -/
def recordOf (s : State) (f : Nat) (n : Beat) : Option (BitVec 128) := (s.quench f).records.find? fun r => r.extractLsb' 80 48 = n

/-- A verdict reaches a contributing harbour over the ring (R17, R166). -/
def ringArrives (s : State) (f h : Nat) (n : Beat) : State :=
  match recordOf s f n with
  | none => s
  | some r =>
    let home := ((s.planFor f n).map ForgingPlan.home).getD h
    let due := s.verdictCycle f n + 3 * (ringHops home h).length
    let waits := (s.tank h).staging.any fun x => x.forging = f ∧ x.beat = n
    if !s.dueNow due || !waits then s
    else
      let s := s.runTo due
      match (r.extractLsb' 74 2).toNat with
      | 0 => moveShare s f h n (r.extractLsb' 66 3).toNat false
      | 1 => dropStaged s f h n
      | _ => if (s.quench f).refused.any fun x => x.beat = n then s else dropStaged s f h n

/-- VERDICT_RING_ARRIVAL. -/
def execVerdictRingArrival (forging harbour : Nat) (beat : Beat) (s : State) : Host.Outcome State Fault Refusal :=
  onUnit (decide (forging < 16) && s.hasHarbour harbour) s (ringArrives s forging harbour beat)

/-! ### Late accept (R170, R197) -/

/-- Candidates in the order in which a home quench takes them: class 0, then 7 to 1, then beat, then forging. -/
def lateKey (c : Nat) : Nat := if c = 0 then 8 else c

/-- Does candidate `a` come before `b`. -/
def lateBefore (a b : Nat × Refused) : Bool :=
  decide (lateKey b.2.cls < lateKey a.2.cls) || (lateKey a.2.cls == lateKey b.2.cls && beatBefore a.2.beat b.2.beat)

def insertLate (x : Nat × Refused) : List (Nat × Refused) → List (Nat × Refused)
  | [] => [x]
  | y :: ys => if lateBefore x y then x :: y :: ys else y :: insertLate x ys

/-- A first record made the second one: ACCEPT, reason LATE, LATE set (R170). -/
def secondRecord (r : BitVec 128) : BitVec 128 :=
  (r &&& ~~~((0x3#128 <<< 74) ||| (0x1F#128 <<< 69))) ||| (11#128 <<< 69) ||| (1#128 <<< 60)

/-- One candidate: accepted when every contributing harbour's spare area has its share free (R170). -/
def tryLate (s : State) (x : Nat × Refused) : State :=
  let f := x.1
  let n := x.2.beat
  match s.planeFor f n with
  | none => s
  | some q =>
    let hs := contributors (s.plane f q).shoals f
    if hs.all fun h => decide (shareOf (s.plane f q).shoals f h ≤ spareFree s h) then
      let s := hs.foldl (fun s h => moveShare s f h n x.2.cls true) s
      let y := s.quench f
      let s := s.setQuench f { y with refused := y.refused.filter fun z => z.beat != n }
      putRecord (s.count Reg.qnLateAccepted f 64) f (((s.planFor f n).map ForgingPlan.home).getD 0) n true (secondRecord x.2.record)
    else s

/-- Refused beats that boundary m + 4 did not accept leave staging (R170). -/
def dropLate (s : State) (x : Nat × Refused) : State :=
  if 4 ≤ beatDiff s.beat.n x.2.slot then
    let y := s.quench x.1
    let s := s.setQuench x.1 { y with refused := y.refused.filter fun z => z.beat != x.2.beat }
    s.harbourList.foldl (fun s h => dropStaged s x.1 h x.2.beat) s
  else s

/-- Every refused beat that is still kept, by forging. -/
def lateCandidates (s : State) : List (Nat × Refused) := s.quenches.flatMap fun e => e.2.refused.map fun r => (e.1, r)

/-- Is one beat before another, by forging and then by beat (R197). -/
def grantBefore (a b : Nat × Refused) : Bool := decide (a.1 < b.1) || (a.1 == b.1 && beatBefore a.2.beat b.2.beat)

def insertGrant (x : Nat × Refused) : List (Nat × Refused) → List (Nat × Refused)
  | [] => [x]
  | y :: ys => if grantBefore x y then x :: y :: ys else y :: insertGrant x ys

/-- The pins of the beats that late accept has taken are granted after its claims, by forging and then by beat (R195, R197). -/
def grantLate (taken : List (Nat × Refused)) (s : State) : State :=
  (taken.foldl (fun l x => insertGrant x l) []).foldl (fun (s : State) x =>
    s.harbourList.foldl (grantPin x.1 x.2.beat x.2.cls) s) s

/-- Late accept at a boundary, one home quench after another, and then the pins of what it took (R170, R197). -/
def lateAccept (s : State) : State :=
  let homeOf (x : Nat × Refused) : Nat := ((s.planFor x.1 x.2.beat).map ForgingPlan.home).getD 0
  let before := lateCandidates s
  let s := (List.range 16).foldl (fun s h =>
    (((lateCandidates s).filter fun x => homeOf x = h).foldl (fun l x => insertLate x l) []).foldl tryLate s) s
  let s := grantLate (before.filter fun x => !(lateCandidates s).contains x) s
  (lateCandidates s).foldl dropLate s

end Sys2Proof.Machine
end

