-- ==== Sys2Proof/Machine/Readout.lean ====
section
/-! DEFINITION. The bundle that a harbour sends in each slot, and the lock-step digests (R165, R168, R171, R172, R368 to
R370; Table 7.4). -/

namespace Sys2Proof.Machine

/-! ### The bundle (R171, R172) -/

/-- A bundle being filled: its blocks so far, newest first, and the positions left. -/
structure Bundle where
  blocks : List TxBlock
  left : Nat

/-- Blocks put into consecutive positions. -/
def Bundle.put (b : Bundle) (xs : List TxBlock) : Bundle := { blocks := xs.reverse ++ b.blocks, left := b.left - xs.length }

/-- The high and low words of a record. -/
def recordWords (r : BitVec 128) : List Word64 := [r.extractLsb' 64 64, r.extractLsb' 0 64]

/-- A record as three blocks (R172). -/
def recordBlocks (r : BitVec 128) : List TxBlock :=
  .verdict (crc16 ((recordWords r).map BitVec.toNat)) :: (recordWords r).map TxBlock.data

/-- Records put while three positions are left; those that do not fit stay. -/
def putRecords : List (Bool × BitVec 128) → Bundle → Bundle × List (Bool × BitVec 128)
  | [], b => (b, [])
  | r :: rs, b =>
    if 3 ≤ b.left then putRecords rs (b.put (recordBlocks r.2))
    else
      let x := putRecords rs b
      (x.1, r :: x.2)

/-- The order in which payload is served: class 0, then 7 down to 1, then beat, then forging (R171). -/
def shareBefore (a b : Share) : Bool :=
  let ka := if a.cls = 0 then 8 else a.cls
  let kb := if b.cls = 0 then 8 else b.cls
  decide (kb < ka) || (ka == kb && (beatBefore a.beat b.beat || (a.beat == b.beat && decide (a.forging < b.forging))))

def insertShare (x : Share) : List Share → List Share
  | [] => [x]
  | y :: ys => if shareBefore x y then x :: y :: ys else y :: insertShare x ys

def sortShares (l : List Share) : List Share := l.foldl (fun a x => insertShare x a) []

/-- Words of a share of a forging and beat that a slot has sent. -/
structure Sent where
  forging : Nat
  beat : Beat
  words : List Word64

/-- Segments of a share within a budget of positions: blocks, words sent and positions used (R172). `fuel` bounds the
number of segments. -/
def segments (x : Share) (budget : Nat) : Nat → List TxBlock × Nat × Nat
  | 0 => ([], 0, 0)
  | fuel + 1 =>
    let rest := x.words.length - x.sent
    if budget < 2 ∨ rest = 0 then ([], 0, 0)
    else
      let d := min 64 (min (budget - 1) rest)
      let ws := (x.words.drop x.sent).take d
      let more := segments { x with sent := x.sent + d } (budget - d - 1) fuel
      (.payload x.beat x.forging d x.sent :: ws.map TxBlock.data ++ more.1, d + more.2.1, d + 1 + more.2.2)

/-- Shares served in order within a budget: the bundle, the budget left, the shares after it and the words sent. -/
def serve : List Share → Bundle → Nat → Bundle × Nat × List Share × List Sent
  | [], b, g => (b, g, [], [])
  | x :: xs, b, g =>
    let m := min g b.left
    let y := segments x m (m + 1)
    let r := serve xs (b.put y.1) (g - y.2.2)
    let sent : Sent := { forging := x.forging, beat := x.beat, words := (x.words.drop x.sent).take y.2.1 }
    (r.1, r.2.1, { x with sent := x.sent + y.2.1 } :: r.2.2.1, sent :: r.2.2.2)

/-- A queue with the shares of a predicate served in order, within a budget. -/
def serveWhere (p : Share → Bool) (g : Nat) (x : Bundle × List Share × List Sent) : Bundle × List Share × List Sent :=
  let r := serve (sortShares (x.2.1.filter p)) x.1 g
  (r.1, x.2.1.filter (fun y => !p y) ++ r.2.2.1, x.2.2 ++ r.2.2.2)

/-- Step 3: each forging's G0 slots for its class 0 queue, then its G+ slots for classes 7 down to 1; late-accepted beats
lie in the spare area and come in step 4 (R169, R171). -/
def servePartition (x : Bundle × List Share × List Sent) (p : PartPlan) : Bundle × List Share × List Sent :=
  let x := serveWhere (fun y => y.forging == p.forging && y.cls == 0 && !y.late) p.g0 x
  serveWhere (fun y => y.forging == p.forging && y.cls != 0 && !y.late) p.gPlus x

/-- Words that a slot sent stay with the pin of their beat (R169, R197). -/
def pinWords (sent : List Sent) (p : Pin) : Pin :=
  { p with words := p.words ++ (sent.filter fun x => x.forging = p.forging ∧ x.beat = p.beat).flatMap Sent.words }

/-- CRC-16 of the data blocks of one lane of a bundle (R57, Table 7.4). -/
def laneDataCrc (blocks : List TxBlock) (k : Nat) : Nat :=
  crc16 ((blocks.zipIdx.filter fun x => x.2 % 16 = k).filterMap fun x =>
    match x.1 with
    | .data w => some w.toNat
    | _ => none)

/-- Partitions of a harbour by forging, ascending. -/
def partsOf (s : State) (h : Nat) : List PartPlan :=
  let ps := (s.images.active.map ImagePlan.parts).getD []
  (List.range 16).filterMap fun f => ps.find? fun p => p.harbour = h ∧ p.forging = f

/-- The blocks of a bundle go out on the harbour's 16 lanes, in turn (R171). -/
def sendBundle (s : State) (h : Nat) (blocks : List TxBlock) : State :=
  (List.range 16).foldl (fun (s : State) k =>
    transmit s (16 * h + k) ((blocks.zipIdx.filter fun x => x.2 % 16 = k).map fun x => x.1.coded)) s

/-- A harbour fills and sends its bundle of the slot that begins, FILL in what is left (R171). -/
def txSlot (s : State) (h : Nat) : State :=
  match txBlocks s s.beat.period h with
  | none => s
  | some c =>
    let t := s.tank h
    let heads := (List.range 16).map fun k => TxBlock.txBeat s.beat.n k (listGet 0xFFFF t.laneCrc k)
    let b : Bundle := { blocks := [], left := 16 * c }
    let firsts := putRecords (t.outRecords.filter fun r => !r.1) (b.put (heads.take (16 * c)))
    let x := (partsOf s h).foldl servePartition (firsts.1, t.queued, [])
    let seconds := putRecords (t.outRecords.filter fun r => r.1) x.1
    let y := if !firsts.2.isEmpty then (seconds.1, x.2) else serveWhere (fun _ => true) seconds.1.left (seconds.1, x.2)
    let blocks := y.1.blocks.reverse ++ List.replicate y.1.left TxBlock.fill
    let s := s.setTank h
      { t with queued := y.2.1.filter fun z => decide (z.sent < z.words.length), outRecords := firsts.2 ++ seconds.2,
               pins := t.pins.map (pinWords y.2.2), laneCrc := (List.range 16).map (laneDataCrc blocks) }
    sendBundle (s.emit (.slot h s.beat.n blocks)) h blocks

/-- Does a harbour send a bundle: some transmit lane of it is enabled for data, or its tank has something to send (R165, R171,
R334). -/
def sendsBundle (s : State) (h : Nat) : Bool :=
  ((List.range 16).any fun k => s.flag Reg.xlaneEnable (16 * h + k) && s.reg Reg.xlaneRole (16 * h + k) == 0)
    || !(s.tank h).queued.isEmpty || !(s.tank h).outRecords.isEmpty

/-- The share of a beat that a harbour still stages moves into its tank where the beat was accepted. -/
def deliverBeat (f h : Nat) (s : State) (n : Beat) : State :=
  match recordOf s f n with
  | some r => if (r.extractLsb' 74 2).toNat = 0 then moveShare s f h n (r.extractLsb' 66 3).toNat false else s
  | none => s

/-- A beat accepted in slot m is sent from slot m + 1 at every contributing harbour, also where the verdict is still on the
ring when that slot begins (R168, R171, notes/assumptions/83.md). -/
def deliverAccepted (s : State) : State :=
  s.quenches.foldl (fun s e => s.harbourList.foldl (fun s h =>
    ((((s.tank h).staging.filter fun x => x.forging = e.1).map Staged.beat).eraseDups).foldl (deliverBeat e.1 h) s) s) s

/-- In RUNNING and STOPPED every harbour sends its slot; elsewhere no slot precedes the next one (R171, R334). -/
def txSlots (s : State) : State :=
  if s.mode = .running ∨ s.mode = .stopped then
    let s := deliverAccepted s
    (s.harbourList.filter (sendsBundle s)).foldl txSlot s
  else { s with tanks := tabMap (fun _ t => { t with laneCrc := [] }) s.tanks }

/-! ### Lock-step digests (R368 to R370) -/

/-- A first record as it enters the digest: EDGE and bits [31:0] are 0. -/
def digestRecord (r : BitVec 128) : BitVec 128 := r &&& ~~~((1#128 <<< 63) ||| 0xFFFFFFFF#128)

/-- Is an entry of DET_TAP_SELECT a COMPARE tap. -/
def isCompareTap (s : State) (k : Nat) : Bool := bit (leAt (tapEntry s k) 6 1) 0

/-- D(n): CRC-32C over the first records and the COMPARE tap records of beat n (R368). -/
def digestOf (s : State) (n : Beat) : Nat :=
  let recs := (List.range 16).filterMap fun f =>
    (s.faults.recordsOf.find? fun x => x.1 = n ∧ x.2.1 = f).map fun x => digestRecord x.2.2
  let taps := s.faults.taps.filter fun t => t.beat = n ∧ isCompareTap s t.entry
  crc32c (recs.flatMap (fun r => beBytes 16 r.toNat) ++ taps.flatMap fun t => leBytes 32 t.tok.data.toNat ++ leBytes 4 t.tok.tag.toNat)

/-- A record of the compare lanes in the fault log (R369). -/
def logCompare (s : State) (n : Beat) : State := s.log { detail := n.toNat % 2 ^ 32 }

/-- The first divergence stops the tap memory; later ones are counted in the fault log only (R370). -/
def diverge (s : State) (n : Beat) : State :=
  if s.faults.frozen then s.log { detail := n.toNat % 2 ^ 32 }
  else
    let s := s.setReg Reg.detLsDiverged 0 n.toNat
    ({ s with faults := { s.faults with frozen := true } }).emcy { code := 0xFF23, detail := n.toNat % 2 ^ 32 }

/-- Compares a beat once its own digest and a peer digest exist; lanes that differ compare nothing (R369). -/
def compareBeat (s : State) (n : Beat) : State :=
  match s.faults.digests.find? fun x => x.1 = n with
  | none => s
  | some own =>
    match s.faults.peers.filter fun x => x.1 = n with
    | [] => s
    | p :: ps =>
      if ps.any fun x => x.2.2 ≠ p.2.2 then s
      else
        let s := { s with faults := { s.faults with digests := s.faults.digests.filter fun x => x.1 != n } }
        if own.2 = p.2.2 then s else diverge s n

/-- At boundary n + 128 the engine forms D(n) and sends it on both compare lanes (R368). -/
def digestSend (s : State) : State :=
  let n := s.beat.n - 128#48
  if s.flag Reg.detLsEnable ∧ s.mode.flows ∧ (s.hasVerdict n ∨ s.faults.recordsOf.any fun x => x.1 = n) then
    let d := digestOf s n
    let w : Word64 := 0xCA#8 ++ n.extractLsb' 0 24 ++ BitVec.ofNat 32 d
    let s := (s.emit (.compare 0 w)).emit (.compare 1 w)
    let s := { s with faults := { s.faults with digests := (n, d) :: s.faults.digests } }
    compareBeat s n
  else s

/-- A beat whose peer digest has not come by boundary n + 256, or whose lanes differed, is not compared; peers of beats
gone by are forgotten (R369). -/
def digestTimeout (s : State) : State :=
  let n := s.beat.n - 256#48
  let missing := s.faults.digests.any fun x => x.1 = n
  let lanesDiffer := s.faults.peers.any fun x => x.1 = n
  let s := { s with faults := { s.faults with
    digests := s.faults.digests.filter fun x => x.1 != n
    peers := s.faults.peers.filter fun x => decide (beatDiff s.beat.n x.1 < 256) } }
  if missing ∧ !lanesDiffer then logCompare s n else s

/-- A DIGEST block on a compare lane (R369). -/
def digestLands (s : State) (lane : Nat) (w : Word64) : State :=
  if !s.flag Reg.detLsEnable || !s.mode.flows || field w.toNat 56 8 != 0xCA then s
  else
    let low := field w.toNat 32 24
    let d := field w.toNat 0 32
    let n := s.beat.n + (BitVec.ofInt 48 (modDiff 24 low (s.beat.n.toNat % 2 ^ 24)))
    let known := s.faults.peers.filter fun x => x.1 = n
    if known.any fun x => x.2.1 = lane then s
    else
      let differs := known.any fun x => x.2.2 ≠ d
      let s := { s with faults := { s.faults with peers := s.faults.peers ++ [(n, lane, d)] } }
      if differs then logCompare s n else compareBeat s n

/-- DIGEST: on CMP2 or CMP3. -/
def execDigest (lane : Nat) (w : Word64) (s : State) : Host.Outcome State Fault Refusal :=
  onUnit (decide (lane = 2 ∨ lane = 3)) s (digestLands s lane w)

end Sys2Proof.Machine
end

