-- ==== Sys2Proof/Machine/Boundary.lean ====
section
/-! DEFINITION. The beat boundary: entry to ARMED and to HELD, the start and the end of a run, scheduled actions and what
else a boundary does (R28 to R32, R46 to R53, R59, R67, R68, R77, R104, R165, R196, R211, R337 to R339, R348, R350, R358,
R370, R379, R412). -/

namespace Sys2Proof.Machine

/-! ### Entry to HELD (R68, R196, R200, R339, R358, R379; Table 9.3) -/

/-- A register of all its units at its default. -/
def State.dropReg (s : State) (r : Reg) (units : Nat) : State :=
  { s with regs := s.regs.filter fun e => !(e.1 % 256 == r.sub && decide (r.base ≤ e.1 / 256) && decide (e.1 / 256 < r.base + units)) }

/-- The objects "from image" other than the window tables, with their units. -/
def imageRegs : List (Reg × Nat) := [
  (Reg.laneShoal, 1024), (Reg.lanePosition, 1024), (Reg.shoalEnabled, 256), (Reg.shoalFormat, 256), (Reg.shoalWidth, 256),
  (Reg.shoalMarkerPeriod, 256), (Reg.shoalGroup, 256), (Reg.forgeTarget, 16), (Reg.forgePrimeDepth, 16), (Reg.qnHome, 16),
  (Reg.qnClass, 16), (Reg.hazPresent, 1)]

/-- Objects "from image" read their defaults while no image is active (notes/assumptions/23.md). -/
def clearFromImage (s : State) : State := imageRegs.foldl (fun (s : State) x => s.dropReg x.1 x.2) s

/-- Every lane in VERIFY, ALIGNED, SLIPPED or WAIT_HOST returns to MARKER_HUNT (R68). -/
def huntLanes (s : State) : State :=
  let up := s.lanes.filter fun e => lsVerify ≤ s.laneSt e.1 ∧ s.laneSt e.1 ≤ lsWaitHost
  let s := up.foldl (fun s e => s.setLaneSt e.1 lsMarkerHunt) s
  { s with lanes := tabMap (fun _ l => { l with armed := false, verify := 0, words := [], crcValid := false, ferryTokens := [], ferryFrom := none }) s.lanes }

/-- A running entry without the listed commands that have not started: a LIST that stands between two of its commands has
run its last (R181, R339). -/
def Running.quiet (r : Running) : Running :=
  if betweenListed r then { r with listLeft := [], listCmd := none, finished := true } else { r with listLeft := [] }

/-- A harbour without the commands that have not started and without pin rules (R196, R200, R339). -/
def Harbour.quiet (x : Harbour) : Harbour :=
  { x with queues := [], pinRules := [], running := x.running.map Running.quiet, ctxs := tabDel x.ctxs 8 }

/-- First levels are written back and invalidated (Table 9.3). -/
def quietTempers (s : State) (h : Nat) : State :=
  [0, 1].foldl (fun s u => invalidateTemper (flushTemper s h u) h u 15) s

/-- Every plane that is not EMPTY becomes STALE (R339). -/
def staleAll (s : State) : State :=
  allPlanes.foldl (fun s x => if s.planeState x.1 x.2 = 0 then s else s.setPlaneState x.1 x.2 6) s

/-- What flows or waits is gone but for granted pins, and no image is active (R68, R196, R339, R358, R379). -/
def quietAll (s : State) : State :=
  let s := staleAll (stopTokens s)
  let s := { s with
    harbours := tabMap (fun _ x => x.quiet) s.harbours
    tanks := tabMap (fun _ t => { Tank.empty with pins := t.pins }) s.tanks
    shoals := [] }
  let s := clearFromImage (huntLanes (s.harbourList.foldl quietTempers s))
  { s with
    images := { s.images with active := none }
    beat := { BeatCount.off with n := s.beat.n, period := s.beat.period }
    faults := { s.faults with offers := [], offersWaiting := [] } }

/-- Entering HELD with SIL_ENABLE TRUE, Silush is in HUNT (Table 14.5). -/
def silHunt (s : State) : State :=
  let keep := { Silush.off with refusing := s.silush.refusing, refusedNow := s.silush.refusedNow }
  { s.setReg Reg.silState 0 (if s.flag Reg.silEnable then 1 else 0) with silush := keep }

/-- HELD from ARMED or at the end of a drain (R339). -/
def enterHeld (s : State) (reason : Nat) : State :=
  let s := quietAll (if s.mode = .running then leaveRunning s else s)
  let s := (s.setReg Reg.forgeActiveMask 0 0).setReg Reg.imgState 0 1
  let s := if s.reg Reg.imgShadowState = 2 then s.setReg Reg.imgShadowState 0 3 else s
  (silHunt s).enter .held reason

/-! ### Entry to ARMED (R30, R104, R207, R211, R348, R350, R358, R370) -/

/-- The count that begins on entering ARMED: from CLK_BEAT_START under LOCAL; under SILUSH the present count until the first
pair (R30, R350). -/
def retakeCount (s : State) : State :=
  let local' := s.reg Reg.beatSource == 1
  let n : Beat := if local' then BitVec.ofNat 48 (s.reg Reg.beatStart) else s.beat.n
  { s with beat := { s.beat with on := true, n := n, since := 0, past := [(n, s.beat.at')], fresh := !local' } }

/-- A count taken anew, moved by `d`: the beats that the run, planes and window tables hold move with it, and tiles start their
ordinals and hazard marks anew (R136, R154; notes/assumptions/24.md). -/
def rebase (s : State) (d : Beat) : State :=
  let m (b : Option Beat) : Option Beat := b.map (· + d)
  { s with
    run := { s.run with
      first := m s.run.first, stopAt := m s.run.stopAt, startAt := m s.run.startAt, stopCmd := m s.run.stopCmd, holdAt := m s.run.holdAt }
    swaps := s.swaps.map (· + d)
    periods := s.periods.map (· + d)
    tiles := tabMap (fun _ t => { t with degraded := t.degraded.map fun x => (x.1 + d, x.2), ordinals := [], sentSeqs := [], pushed := [] }) s.tiles
    planes := tabMap (fun _ p => { p with first := p.first + d, last := p.last + d }) s.planes
    quenches := tabMap (fun _ q => { q with
      planes := q.planes.map fun x => (x.1 + d, x.2), tables := q.tables.map fun x => (x.1 + d, x.2) }) s.quenches }

/-- A temper takes its initial split, and its scratchpad reads 0 (R211). -/
def armTemper (s : State) (h u : Nat) : State :=
  let b := scratchBase h u
  let s := clearMem s b (b + 8 * 131072)
  let s := s.setTemper h u { s.temper h u with data := [] }
  s.setReg Reg.arraySplit (2 * h + u) (s.reg Reg.cacheArraySplitInit)

/-- A harbour on entry to ARMED: its tempers, and the timing objects written in HELD (R207, R211). -/
def armHarbour (s : State) (h : Nat) : State :=
  let s := [0, 1].foldl (fun s u => armTemper s h u) s
  s.modHarbour h fun x => { x with timing := (List.range 6).map fun k => s.reg (Reg.hbmTiming.at k) h }

/-- What every entry to ARMED does. -/
def armAll (s : State) (reason : Nat) : State :=
  let old := s.beat.n
  let s := retakeCount s
  let s := rebase s (s.beat.n - old)
  let s := s.harbourList.foldl armHarbour s
  let s := (s.setReg Reg.detLsDiverged 0 Reg.detLsDiverged.dflt)
  let s := { s with
    run := Run.none
    swaps := []
    periods := []
    shoals := []
    faults := { s.faults with taps := [], tapBuffers := [], tapLost := [], frozen := false, digests := [], peers := [], recordsOf := [] } }
  s.enter .armed reason

/-! ### Runs (R77, R337, R338) -/

/-- In strict mode the start of a run sets every injection mode to OFF (R77). -/
def injectionOff (s : State) : State := (s.dropReg Reg.laneInjectMode 1024).dropReg Reg.xlaneInjectMode 256

/-- In strict mode the start of a run sends every SLIPPED lane to WAIT_HOST (Table 3.6). -/
def slippedWait (s : State) : State :=
  (s.lanes.filter fun e => s.laneSt e.1 = lsSlipped).foldl (fun (s : State) e => s.setLaneSt e.1 lsWaitHost) s

/-- Beat b is the first beat with verdicts (R47, R337). -/
def startRun (s : State) (b : Beat) (reason : Nat) : State :=
  let s := if s.strict then slippedWait (injectionOff s) else s
  { s with run := { s.run with first := some b, stopAt := none, startAt := none } }.enter .running reason

/-- Beat b is the first beat without verdicts (R47, R338). -/
def stopRun (s : State) (b : Beat) (reason : Nat) : State :=
  let s := leaveRunning s
  let d := if s.run.holdAt.isSome then 1 else s.run.drain
  { s with run := { s.run with stopAt := some b, stopCmd := none, holdAt := none, drain := d, drainStop := b } }.enter .stopped reason

/-! ### Scheduled actions (R46 to R53, R412) -/

/-- The extra facts of a slot. -/
def State.actExtra (s : State) (k : Nat) : ActionExtra := tabGet { asapBeat := none, stepped := false, inHeld := false, expected := 0#48 } s.actions k
def State.setActExtra (s : State) (k : Nat) (x : ActionExtra) : State := { s with actions := tabSet s.actions k x }

/-- A slot takes a status and a reason (Table 2.6). -/
def actEnds (s : State) (k status reason : Nat) : State := (s.setReg Reg.actStatus k status).setReg Reg.actReason k reason

/-- The beat that names a slot's action: the one it was moved to by ASAP, or its own when it is beat-named (R48). -/
def actBeatOf (s : State) (k : Nat) : Option Beat :=
  match (s.actExtra k).asapBeat with
  | some b => some b
  | none => if bit (s.reg Reg.actMode k) 0 then some (BitVec.ofNat 48 (s.reg Reg.actBeat k)) else none

def actAsap (s : State) (k : Nat) : Bool := bit (s.reg Reg.actMode k) 1
def actDueTime (s : State) (k : Nat) : Time96 := unpackTime (s.reg Reg.actTime k)

/-- Has the local clock reached a time (R37, R49). -/
def State.reached (s : State) (t : Time96) : Bool := decide (0 ≤ compareTime t s.now)

/-- The bits of TIME_ACT_ARG that Table 2.7 gives a kind. -/
def argMask : Nat → Nat
  | 1 => 0x1FFFF
  | 2 => 0x1F
  | 3 => 0x3FF
  | 6 => 0xFFFF
  | _ => 0

/-- Slots whose action is PENDING. -/
def pendingSlots (s : State) : List Nat := (List.range 16).filter fun k => s.reg Reg.actStatus k = 1

/-- Insertion by signed distance from a beat. -/
def insertByBeat (n : Beat) (x : Beat × Nat) : List (Beat × Nat) → List (Beat × Nat)
  | [] => [x]
  | y :: ys => if beatDiff x.1 n < beatDiff y.1 n then x :: y :: ys else y :: insertByBeat n x ys

/-- PENDING BEAT_PERIODs still to come: beat and period, by beat. -/
def periodsAhead (s : State) : List (Beat × Nat) :=
  (((pendingSlots s).filter fun k => s.reg Reg.actKind k = 6).filterMap fun k =>
    (actBeatOf s k).map fun b => (b, s.reg Reg.actArg k)).foldl (fun l x => if 0 < beatDiff x.1 s.beat.n then insertByBeat s.beat.n x l else l) []

/-- The first boundary at or after a cycle, counted from boundary n at cycle c with period p and the changes ahead. -/
def boundaryFrom (n : Beat) (c p target : Nat) : List (Beat × Nat) → Beat
  | [] => n + BitVec.ofNat 48 (ceilDiv (target - c) p)
  | (b, p') :: rest =>
    let c' := c + (b - n).toNat * p
    if target ≤ c' then n + BitVec.ofNat 48 (ceilDiv (target - c) p) else boundaryFrom b c' p' target rest

/-- Core cycles until the local clock reaches a time at its present increment (R35). -/
def cyclesUntil (s : State) (t : Time96) : Nat :=
  ceilDiv (((timeUnits t - timeUnits s.now) * 65536).toNat) s.clocks.inc

/-- The boundary at which an action is expected to execute (R49, R104). -/
def actBoundary (s : State) (k : Nat) : Beat :=
  match actBeatOf s k with
  | some b => b
  | none => boundaryFrom s.beat.n s.beat.at' s.beat.period (s.clocks.cycle + cyclesUntil s (actDueTime s k)) (periodsAhead s)

/-- The period that will be in force at a beat (R104). -/
def periodAt (s : State) (b : Beat) : Nat :=
  (periodsAhead s).foldl (fun p x => if beatDiff x.1 b ≤ 0 then x.2 else p) s.beat.period

/-- Boundaries of PENDING actions of a kind and of those executed since the last entry to ARMED (R104). -/
def boundariesOf (s : State) (kind : Nat) : List Beat :=
  (((pendingSlots s).filter fun k => s.reg Reg.actKind k = kind).map (actBoundary s)) ++ (if kind = 1 then s.swaps else s.periods)

/-- Do two boundaries lie within 128 beats of each other. -/
def within128 (a b : Beat) : Bool := decide ((beatDiff a b).natAbs ≤ 128)

/-- May a new period be taken: R28, R32, R59 and R165, with its staging rule, against the active image. -/
def periodOk (s : State) (p : Nat) : Bool :=
  let plans := (activeForgings s).filterMap fun x => (s.plane x.forging (s.flag Reg.forgeLivePlane x.forging)).plan
  decide (16 ≤ p) && decide (p ≤ 65535) && decide (p ≤ 2 * s.beat.period) && plans.all (fun x => decide (x.minPeriod ≤ p))
    && (match s.images.active with
      | none => true
      | some i => i.shoals.all (fun x => widthOk s p x && decide (lastOffset x < p)) && (List.range 16).all (tankOk s p i) && stagingOk s p i.shoals plans)

/-- The collision check of a PLANE_SWAP at a period: the state with FORGE_SWAP_CONFLICT of a forging that fails, and whether it
passes (R104). -/
def collisionCheck (s : State) (arg p : Nat) : State × Bool :=
  match swapCollision s arg p with
  | some (f, e) => (s.setReg Reg.forgeSwapConflict f e, false)
  | none => (s, true)

/-- The PENDING PLANE_SWAPs whose boundary lies after `b` and before any other PENDING change of the period after `b` (R104). -/
def swapsUnder (s : State) (b : Beat) : List Nat :=
  (pendingSlots s).filter fun j =>
    let c := actBoundary s j
    s.reg Reg.actKind j == 1 && beatBefore b c && !(periodsAhead s).any fun x => beatBefore b x.1 && !beatBefore c x.1

/-- R104 for an action that would become PENDING: the state with FORGE_SWAP_CONFLICT, and whether it passes. A BEAT_PERIOD fails
also where a PENDING PLANE_SWAP after it would collide under the new period. -/
def swapCheck (s : State) (k : Nat) : State × Bool :=
  let b := actBoundary s k
  let arg := s.reg Reg.actArg k
  match s.reg Reg.actKind k with
  | 1 =>
    let x := collisionCheck s arg (periodAt s b)
    (x.1, x.2 && !(boundariesOf s 6).any (within128 b))
  | 6 =>
    let x := (swapsUnder s b).foldl (fun (x : State × Bool) j =>
      if x.2 then collisionCheck x.1 (x.1.reg Reg.actArg j) arg else x) (s, true)
    (x.1, x.2 && !(boundariesOf s 1).any (within128 b))
  | _ => (s, true)

/-- Lines 4 and 5 of R48: is the action past. -/
def actPast (s : State) (k : Nat) : Bool :=
  match actBeatOf s k with
  | some b =>
    s.mode.flows && decide (beatDiff b s.beat.n < if s.reg Reg.actKind k = 6 then 3 else 1)
  | none => decide (compareTime s.now (actDueTime s k) ≠ 1)

/-- The commit of a slot (R48, R412). DESIGN CHOICE (notes/assumptions/98.md): its note is 0 from the commit on. -/
def commitAction (s : State) (k : Nat) : State :=
  let kind := s.reg Reg.actKind k
  let arg := s.reg Reg.actArg k
  let s := (s.setActExtra k { asapBeat := none, stepped := false, inHeld := s.mode == .held, expected := 0#48 }).setReg Reg.actNote k 0
  if kind = 0 ∨ 6 < kind then actEnds s k 4 1
  else if arg &&& argMask kind ≠ arg then actEnds s k 4 2
  else if kind = 1 ∧ !swapReady s arg then actEnds s k 4 4
  else if kind = 6 ∧ !bit (s.reg Reg.actMode k) 0 then actEnds s k 4 6
  else if kind = 6 ∧ !periodOk s arg then actEnds s k 4 5
  else
    let past := actPast s k
    if past && s.mode == .held then actEnds s k 3 7
    else if past && !actAsap s k then actEnds s k 3 0
    else
      let s := if past then s.setActExtra k { s.actExtra k with asapBeat := some (s.beat.n + (if kind = 6 then 3#48 else 1#48)) } else s
      let s := s.setActExtra k { s.actExtra k with expected := actBoundary s k }
      let x := swapCheck s k
      if x.2 then actEnds x.1 k 1 0 else actEnds x.1 k 4 5

/-- May a cancel be accepted: before the boundary, and of a BEAT_PERIOD before boundary b − 2 (R52). -/
def cancelOk (s : State) (k : Nat) : Bool :=
  s.reg Reg.actStatus k == 1 && (s.reg Reg.actKind k != 6 || !s.mode.flows
    || (match actBeatOf s k with | some b => decide (2 < beatDiff b s.beat.n) | none => true))

/-- A write of TIME_ACT_COMMIT: the status code, and the state after it (R46). -/
def actCommitWrite (k v : Nat) (s : State) : Nat × State :=
  if v = 1 then (if s.reg Reg.actStatus k = 1 then (scState, s) else (scOk, commitAction s k))
  else if cancelOk s k then (scOk, actEnds s k 5 0)
  else (scState, s)

/-- A write to subindex 01 to 05 of a slot, whose value has been stored: a slot that had ended is EMPTY again (R46). DESIGN
CHOICE (notes/assumptions/98.md): its reason returns to 0 with it. -/
def actFieldWritten (k : Nat) (s : State) : State := if 2 ≤ s.reg Reg.actStatus k then actEnds s k 0 0 else s

/-! ### Execution at a boundary (R47, R49 to R51, R412) -/

/-- A kind may execute in the state the engine is in (Table 2.7). -/
def kindRuns (m : Mode) : Nat → Bool
  | 4 => m == .armed
  | 5 => m == .running
  | _ => m.flows

/-- A LANE_REALIGN arms its lane unless it is ALIGNED (R67). -/
def armLane (s : State) (l : Nat) (b : Beat) : State :=
  if s.laneSt l = lsAligned then s else s.modLane l fun x => { x with armed := true, armBeat := b }

/-- The effect of a kind at boundary b (Table 2.7). -/
def actEffect (s : State) (kind arg : Nat) (b : Beat) : State :=
  match kind with
  | 1 => swapPlanes s arg b
  | 2 =>
    let f := arg % 16
    let q := s.quench f
    (s.setQuench f { q with tables := (b, arg / 16) :: q.tables.take 63 }).setReg Reg.qnWinTable f (arg / 16)
  | 3 => armLane s arg b
  | 4 => startRun s b 5
  | 5 => stopRun s b 5
  | 6 => ({ s with beat := { s.beat with period := arg }, periods := b :: s.periods.take 255 }).setReg Reg.beatPeriod 0 arg
  | _ => s

/-- A due action executes, or ends in the status that R47, R50 and R412 give it. A time-named PLANE_SWAP that comes due at a
boundary other than the one expected at commit is checked again there (R104). -/
def executeAction (s : State) (k : Nat) (held : Bool) : State :=
  let kind := s.reg Reg.actKind k
  let arg := s.reg Reg.actArg k
  let x := s.actExtra k
  if !kindRuns s.mode kind then actEnds s k 4 3
  else if kind = 6 ∧ s.beat.since < 2 then actEnds s k 3 9
  else if kind = 6 ∧ x.inHeld ∧ !periodOk s arg then actEnds s k 4 5
  else if kind = 1 ∧ (actBeatOf s k).isNone ∧ s.beat.n ≠ x.expected ∧ !(collisionCheck s arg s.beat.period).2 then
    actEnds (collisionCheck s arg s.beat.period).1 k 4 5
  else
    let s := actEffect s kind arg s.beat.n
    let note := ofBool x.asapBeat.isSome + 2 * ofBool held + 4 * ofBool x.stepped
    let s := (((s.setReg Reg.actDoneBeat k s.beat.n.toNat).setReg Reg.actDoneTime k (packTime s.now)).setReg Reg.actNote k note)
    actEnds s k 2 0

/-- One slot at a boundary in ARMED, RUNNING or STOPPED (R49, R50, R412). DESIGN CHOICE (notes/assumptions/97.md): a time-named
action without ASAP that comes due in HOLDOVER is PAST, also where its kind may not execute in the present state (R47). -/
def actionAt (s : State) (k : Nat) : State :=
  if s.reg Reg.actStatus k ≠ 1 then s
  else
    match actBeatOf s k with
    | some b =>
      let d := beatDiff b s.beat.n
      if 0 < d then s else if d < 0 then actEnds s k 3 9 else executeAction s k false
    | none =>
      if !s.reached (actDueTime s k) then s
      else if s.reg Reg.timeState = 3 then (if actAsap s k then executeAction s k true else actEnds s k 3 8)
      else executeAction s k false

/-- Every slot in ascending index; each acts on the state that the previous one left (R51). -/
def actionsDue (s : State) : State := (List.range 16).foldl actionAt s

/-- The local clock reaches the time of an action in HELD (R50, R412). -/
def dueInHeld (s : State) (k : Nat) : State :=
  if s.mode ≠ .held ∨ s.reg Reg.actStatus k ≠ 1 ∨ (actBeatOf s k).isSome then s
  else
    let t := actDueTime s k
    actEnds (if s.reached t then s else s.advance (cyclesUntil s t)) k 3 7

/-- ACTION_DUE_IN_HELD. -/
def execActionDueInHeld (slot : Nat) (s : State) : Host.Outcome State Fault Refusal :=
  onUnit (decide (slot < 16)) s (dueInHeld s slot)

/-! ### The boundary -/

/-- START, STOP and the STOP of a HOLD that wait for this boundary, after its actions (R337, R338). -/
def runCommands (s : State) : State :=
  let s : State := match s.run.startAt with
    | some b => if b = s.beat.n ∧ (s.mode = .armed ∨ s.mode = .stopped) then startRun s s.beat.n 4 else s
    | none => s
  match s.run.stopCmd with
  | some b => if b = s.beat.n ∧ s.mode = .running then stopRun s s.beat.n 4 else s
  | none => s

/-- Each forging of the active image owes a record of a beat with verdicts (R162). -/
def oweVerdicts (s : State) : State :=
  if s.hasVerdict s.beat.n then
    (activeForgings s).foldl (fun (s : State) p =>
      let q := s.quench p.forging
      s.setQuench p.forging { q with toIssue := q.toIssue ++ [s.beat.n] }) s
  else s

/-- The count moves on by one beat (R29). -/
def countBeat (s : State) : State :=
  let c := s.beat.at' + s.beat.period
  let s := s.runTo c
  let n := s.beat.n + 1#48
  { s with beat := { s.beat with n := n, at' := c, since := s.beat.since + 1, past := (n, c) :: s.beat.past.take 319 } }

/-- A boundary in ARMED, RUNNING or STOPPED. -/
def liveBoundary (s : State) : State :=
  if s.mode = .armed ∧ s.run.holdAt = some s.beat.n then enterHeld s 4
  else
    let s := runCommands (actionsDue (takeStamps s))
    let s := soundFerries (soundBoundary (judgePeers (oweVerdicts s)))
    let s := pruneOffers (retirePlanes s)
    let s := lateAccept (releasePins (drainLedgers (txSlots s)))
    digestTimeout (digestSend s)

/-- What the boundary that enters ARMED does beside the entry: its actions come due as at any boundary in ARMED (R49, R412). -/
def armedBoundary (s : State) : State := oweVerdicts (actionsDue s)

/-- The lane and shoal objects of the active image (R64, R81). -/
def shoalObjects (s : State) (p : ShoalPlan) : State :=
  let s := ((((s.setReg Reg.shoalEnabled p.shoal 1).setReg Reg.shoalFormat p.shoal p.format).setReg Reg.shoalWidth p.shoal p.width).setReg
    Reg.shoalMarkerPeriod p.shoal p.marker).setReg Reg.shoalGroup p.shoal p.group
  p.lanes.foldl (fun s x => (s.setReg Reg.laneShoal x.1 p.shoal).setReg Reg.lanePosition x.1 x.2) s

/-- The end of an activation: ARMED with every plane 0 LIVE from this boundary (R348 step 6). -/
def activated (s : State) : State :=
  match s.images.main with
  | none => s
  | some i =>
    let s := armAll { s with quenches := [], act := Activation.none } 6
    let s := { s with images := { s.images with active := some i } }
    let s := s.setDomain Reg.imgHash 0 s.images.mainHash
    let s := i.shoals.foldl shoalObjects s
    let s := i.forgings.foldl (fun s p => goLive s s.beat.n false p.forging) s
    let mask := i.forgings.foldl (fun m p => m ||| 2 ^ p.forging) 0
    let s := s.setReg Reg.hazPresent 0 (ofBool i.debug)
    armedBoundary (((s.setReg Reg.forgeActiveMask 0 mask).setReg Reg.imgState 0 3).setReg Reg.imgReason 0 0)

/-- A boundary of the count that an activation uses for its sounding (R348). -/
def soundingBoundary (s : State) : State :=
  if s.act.phase = 4 then activated s else soundFerries (soundBoundary (judgePeers s))

/-- The next boundary of the count that runs (R29). -/
def nextBoundary (s : State) : State :=
  if !s.beat.on then s
  else if s.mode.flows then liveBoundary (countBeat s)
  else if s.mode = .held then soundingBoundary (countBeat s)
  else s

/-- BEAT_BOUNDARY. -/
def execBeatBoundary (s : State) : Host.Outcome State Fault Refusal := done s (nextBoundary s)

/-! ### The end of a drain (R339) -/

/-- Every condition of R339 holds. A LIST whose next command may not start runs nothing: its commands stand as if in the queue
(R181). -/
def drained (s : State) : Bool :=
  s.quenches.all (fun e => (e.2.toIssue.all fun n => !beatBefore n s.run.drainStop) && e.2.refused.isEmpty
    && e.2.led0.all (fun l => l.2.isEmpty) && e.2.ledP.all (fun l => l.2.isEmpty))
    && s.tanks.all (fun e => e.2.staging.isEmpty && e.2.queued.isEmpty)
    && s.harbours.all (fun e => e.2.running.all betweenListed)
    && (planesIn s 1).isEmpty

/-- The drain ends at a boundary: HELD, or ARMED (R339). -/
def drainEnds (s : State) : State :=
  if s.run.drain = 0 ∨ !s.mode.flows ∨ s.clocks.cycle ≠ s.beat.at' ∨ !drained s then s
  else if s.run.drain = 1 then enterHeld s 4
  else armedBoundary (armAll s 4)

/-- DRAIN_END. -/
def execDrainEnd (s : State) : Host.Outcome State Fault Refusal := done s (drainEnds s)

end Sys2Proof.Machine
end

