-- ==== Sys2Proof/Machine/Timekeeping.lean ====
section
/-! DEFINITION. PTP and the servo (R35, R36, R38 to R45, R53). Times are counted in units of 2^-16 ns. -/

namespace Sys2Proof.Machine

/-- Does the engine take part in PTP: enabled, and past BOOT (R41, R44). -/
def ptpRuns (s : State) : Bool := s.flag Reg.ptpEnable && s.mode != .off && s.mode != .boot

/-- A message of the engine's own domain, on its one PTP port under its mapping (R38). -/
def ptpHears (s : State) (via : PtpVia) (domain : Nat) : Bool :=
  ptpRuns s && s.reg Reg.ptpDomain == domain && s.reg Reg.ptpPort == via.port && s.reg Reg.ptpMapping == via.mapping

/-- A PTP message in a frame that its port takes (R302). -/
def onPtp (s : State) (via : PtpVia) (taken : State → State) : State := s.onFrame via.port via.frame taken

/-- The stamp of a frame whose time-stamp point passed `age` eighths of a core cycle ago, less TIME_PTP_RX_LAT (R36, R40). -/
def rxUnits (s : State) (age : Nat) : Int := timeUnits (s.stampAt age 8) - s.reg Reg.ptpRxLat

/-- The transmit stamp of a frame that leaves in an eighth of the present core cycle (R36, R40). -/
def txStamp (s : State) (eighth : Nat) : Time96 :=
  let x := s.clocks.sec * secUnits + s.clocks.sub + eighth % 8 * s.clocks.inc / 8
  timeOfUnits ((x / 65536 : Nat) + (s.reg Reg.ptpTxLat : Int))

/-- The one's complement sum of 16-bit words. -/
def onesSum (ws : List Nat) : Nat := ws.foldl (fun a w => (a + w) % 65536 + (a + w) / 65536) 0

/-- What a departing frame needs under TIME_PTP_MAPPING once `n` octets with the value `v` have been written into it where
zeros stood: the octets that the IPv6 mapping appends cancel their sum (R39). -/
def ptpFix (s : State) (n v : Nat) : PtpFix :=
  match s.reg Reg.ptpMapping with
  | 0 => .udpChecksum 0
  | 1 => .octets (65535 - onesSum ((List.range (n / 2)).map fun i => field v (16 * i) 16))
  | _ => .frameCheck

/-- Sends a PTP message on the PTP port (R38, R39). -/
def sendPtp (s : State) (kind seq : Nat) (stamp : Time96) (correction : Int) (fix : PtpFix) : State :=
  s.emit (.ptp (s.reg Reg.ptpPort) kind seq stamp correction fix)

/-- A difference of two times, with seconds modulo 2^48, in the half range around 0. -/
def unitsDiff (a b : Int) : Int :=
  let m : Int := ((2 ^ 48 * 65536000000000 : Nat) : Int)
  let d := (a - b) % m
  if d < m / 2 then d else d - m

/-! ### The states of the servo (R41, R45; Table 2.5) -/

/-- HOLDOVER is entered, or its cause changes (R45). -/
def holdoverCause (s : State) (reason : Nat) : State :=
  let s := s.setReg Reg.timeHoldoverReason 0 reason
  if s.reg Reg.timeState = 3 then s
  else ({ s.setReg Reg.timeState 0 3 with servo := { s.servo with good := 0 } }).emcy { code := 0xFF21 }

/-- Loss of the master or of the link, or a change of the selected master (Table 2.5). -/
def servoEvent (s : State) (reason : Nat) : State :=
  match s.reg Reg.timeState with
  | 1 =>
    let s := { s with servo := { s.servo with good := 0 } }
    if reason = 2 then s else s.setReg Reg.timeState 0 0
  | 2 => holdoverCause s reason
  | 3 => holdoverCause { s with servo := { s.servo with good := 0 } } reason
  | _ => s

/-- TIME_PTP_ENABLE FALSE: FREE from any state; the increment stays (R41). -/
def servoOff (s : State) : State := { s.setReg Reg.timeState 0 0 with servo := Servo.free }

/-- The greatest distance of the increment from nominal (R35). -/
def slewMax (s : State) : Nat := nominalInc * s.reg Reg.timeSlewMaxPpb / 1000000000

/-- The servo slews: the increment it chooses within TIME_SLEW_MAX_PPB is its own (R35, R42; notes/assumptions/6.md). -/
def slew (s : State) : State :=
  let x := s.fresh 64
  let m := slewMax s
  { x.2 with clocks := { x.2.clocks with inc := nominalInc - m + x.1.toNat % (2 * m + 1) }.marked }

/-- A pending time-named action that the step carried past its time, or took back before it (R53). -/
def markStepped (before : Time96) (s : State) (k : Nat) : State :=
  if (actBeatOf s k).isSome then s
  else
    let t := actDueTime s k
    let was := decide (0 ≤ compareTime t before)
    if s.reached t then (if was then s else s.setActExtra k { s.actExtra k with stepped := true })
    else s.setActExtra k { s.actExtra k with stepped := false }

/-- The clock steps by the negative of an offset (R43, R44, R53). -/
def clockStep (s : State) (offset : Int) : State :=
  let before := s.now
  let s := { s with clocks := (s.clocks.step (-offset)).marked, servo := { s.servo with good := 0, refusedRun := 0 } }
  let s := (s.setReg Reg.timeLastStep 0 (toCode 64 (-offset))).setReg Reg.timeLastStepBeat 0 s.beat.n.toNat
  (pendingSlots s).foldl (markStepped before) s

/-- Does an offset beyond TIME_GUARD_NS step the clock (R42 to R44). -/
def stepsClock (s : State) : Bool := s.mode != .running || (s.reg Reg.timeServoMode == 1 && !s.strict)

/-- A sample that GUARDED refuses (R42, Table 2.5). -/
def refuseSample (s : State) : State :=
  let s := (s.count Reg.timeGuardRefused 0).setReg Reg.timeStateFlags 0 1
  let run := s.servo.refusedRun + 1
  let s := { s with servo := { s.servo with good := 0, refusedRun := run } }
  if s.reg Reg.timeState = 2 ∧ s.reg Reg.timeGuardLimit ≤ run then
    { holdoverCause s 3 with servo := { s.servo with good := 0, refusedRun := 0 } }
  else s

/-- A good sample (R41, R42, R45). -/
def goodSample (s : State) : State :=
  let n := s.servo.good + 1
  let s := { s with servo := { s.servo with good := n, refusedRun := 0 } }
  let st := s.reg Reg.timeState
  let full := decide (s.reg Reg.timeRelockCount ≤ n)
  if st = 3 then (if full then s.setReg Reg.timeState 0 2 else s)
  else
    let s := slew s
    if st = 1 ∧ full then s.setReg Reg.timeState 0 2 else s

/-- An offset sample: local clock minus the master's time (R41 to R45). -/
def offsetSample (s : State) (offset : Int) : State :=
  let s := s.setReg Reg.timeOffset 0 (toCode 64 offset)
  if offset.natAbs ≤ s.reg Reg.timeGuardNs * 65536 then goodSample s
  else if stepsClock s then clockStep s offset
  else refuseSample s

/-- A Sync with its origin time, its receive stamp and its corrections forms a sample. -/
def syncSample (s : State) (origin : Time96) (t2 correction : Int) : State :=
  let t1 := timeUnits origin + correction
  let s := { s with servo := { s.servo with lastSync := some (t1, t2) } }
  offsetSample s (unitsDiff t2 (t1 + s.servo.delay))

/-! ### Messages (R38, R39) -/

/-- Is a message from the selected master. -/
def fromSelected (s : State) (master : Nat) : Bool := s.servo.selected == some master && !s.servo.lost

/-- A Sync from the selected master (R38, R41). -/
def syncArrives (s : State) (m : PtpSync) : State :=
  if !ptpHears s m.via m.domain || !fromSelected s m.master || !(decide (-7 ≤ m.logInterval) && decide (m.logInterval ≤ 1)) then s
  else if s.reg Reg.timeState = 0 then
    { s.setReg Reg.timeState 0 1 with servo := { s.servo with good := 0, refusedRun := 0, waiting := none } }
  else if m.twoStep then { s with servo := { s.servo with waiting := some (m, rxUnits s m.age) } }
  else syncSample { s with servo := { s.servo with waiting := none } } m.origin (rxUnits s m.age) m.correction

/-- PTP_SYNC. -/
def execPtpSync (m : PtpSync) (s : State) : Host.Outcome State Fault Refusal := done s (onPtp s m.via fun s => syncArrives s m)

/-- A Follow_Up completes the sample of its Sync (R38). -/
def followUpArrives (s : State) (m : PtpFollowUp) : State :=
  match s.servo.waiting with
  | some (x, t2) =>
    if ptpHears s m.via m.domain && fromSelected s m.master && x.master == m.master && x.seq == m.seq then
      syncSample { s with servo := { s.servo with waiting := none } } m.origin t2 (x.correction + m.correction)
    else s
  | none => s

/-- PTP_FOLLOW_UP. -/
def execPtpFollowUp (m : PtpFollowUp) (s : State) : Host.Outcome State Fault Refusal := done s (onPtp s m.via fun s => followUpArrives s m)

/-- The rank of a clock in the best master clock algorithm, smallest first (R41; IEEE 1588-2019; notes/assumptions/25.md). -/
def announceRank (m : PtpAnnounce) : List Nat :=
  [m.priority1, m.clockClass, m.accuracy, m.variance, m.priority2, m.master, m.stepsRemoved]

/-- Is one rank before another. -/
def rankBefore : List Nat → List Nat → Bool
  | a :: as, b :: bs => decide (a < b) || (a == b && rankBefore as bs)
  | _, _ => false

/-- The engine's clock identity, from the MAC of its PTP port (PRESUMED, notes/assumptions/25.md). -/
def clockIdentity (s : State) : Nat :=
  let mac := s.reg Reg.ethMac (s.reg Reg.ptpPort)
  mac / 2 ^ 24 * 2 ^ 40 + 0xFFFE * 2 ^ 24 + mac % 2 ^ 24

/-- The engine's own rank as a master-capable clock (PRESUMED, notes/assumptions/25.md). -/
def ownRank (s : State) : List Nat := [s.reg Reg.ptpPriority1, 248, 0xFE, 0xFFFF, s.reg Reg.ptpPriority2, clockIdentity s, 0]

/-- The best of the masters heard. -/
def bestMaster (l : List Foreign) : Option Foreign :=
  l.foldl (fun (b : Option Foreign) x =>
    match b with
    | some y => if rankBefore x.rank y.rank then some x else some y
    | none => some x) none

/-- The selection of a master, and what a change of it brings about (Table 2.5). -/
def selectMaster (s : State) : State :=
  match bestMaster s.servo.masters with
  | none => s
  | some b =>
    if s.reg Reg.ptpRole = 1 ∧ rankBefore (ownRank s) b.rank then
      if s.servo.selected.isSome ∧ !s.servo.lost then servoEvent { s with servo := { s.servo with lost := true, waiting := none } } 2 else s
    else
      let s' := { s with servo := { s.servo with selected := some b.master, lost := false } }
      let s' := s'.setReg Reg.timeUtcOffset 0 (toCode 16 b.utcOffset)
      if s.servo.selected = some b.master then s'
      else
        let s' := { s' with servo := { s'.servo with waiting := none, lastSync := none, request := none } }
        if s.servo.selected.isSome then servoEvent s' 2 else s'

/-- An Announce (R41). -/
def announceArrives (s : State) (m : PtpAnnounce) : State :=
  if !ptpHears s m.via m.domain || decide (255 ≤ m.stepsRemoved) then s
  else
    let f : Foreign := { master := m.master, rank := announceRank m, utcOffset := m.utcOffset }
    selectMaster { s with servo := { s.servo with masters := f :: s.servo.masters.filter fun x => x.master != m.master } }

/-- PTP_ANNOUNCE. -/
def execPtpAnnounce (m : PtpAnnounce) (s : State) : Host.Outcome State Fault Refusal := done s (onPtp s m.via fun s => announceArrives s m)

/-- A Delay_Resp: half of the two ways, less the corrections (R38). -/
def delayRespArrives (s : State) (m : PtpDelayResp) : State :=
  match s.servo.request, s.servo.lastSync with
  | some (seq, t3), some (t1, t2) =>
    if ptpHears s m.via m.domain && fromSelected s m.master && s.reg Reg.ptpDelay == 0 && seq == m.seq then
      let t4 := timeUnits m.rx - m.correction
      { s with servo := { s.servo with delay := (unitsDiff t2 t1 + unitsDiff t4 t3) / 2, request := none } }
    else s
  | _, _ => s

/-- PTP_DELAY_RESP. -/
def execPtpDelayResp (m : PtpDelayResp) (s : State) : Host.Outcome State Fault Refusal := done s (onPtp s m.via fun s => delayRespArrives s m)

/-- A Pdelay_Resp: half of the two ways, less the peer's turnaround (R38). -/
def pdelayRespArrives (s : State) (m : PtpPdelayResp) : State :=
  match s.servo.request with
  | some (seq, t1) =>
    if ptpHears s m.via m.domain && s.reg Reg.ptpDelay == 1 && seq == m.seq then
      { s with servo := { s.servo with delay := (unitsDiff (rxUnits s m.age) t1 - m.correction) / 2, request := none } }
    else s
  | none => s

/-- PTP_PDELAY_RESP. -/
def execPtpPdelayResp (m : PtpPdelayResp) (s : State) : Host.Outcome State Fault Refusal := done s (onPtp s m.via fun s => pdelayRespArrives s m)

/-- A Pdelay_Req is answered with a one-step Pdelay_Resp that leaves in the present cycle, its turnaround in the
correctionField (R39). -/
def pdelayReqArrives (s : State) (m : PtpPdelayReq) : State :=
  if ptpHears s m.via m.domain && s.reg Reg.ptpDelay == 1 then
    let rx := timeOfUnits (rxUnits s m.age)
    let c := m.correction + unitsDiff (timeUnits (txStamp s m.leave)) (timeUnits rx)
    sendPtp s 4 m.seq rx c (ptpFix s 8 (toCode 64 c))
  else s

/-- PTP_PDELAY_REQ. -/
def execPtpPdelayReq (m : PtpPdelayReq) (s : State) : Host.Outcome State Fault Refusal := done s (onPtp s m.via fun s => pdelayReqArrives s m)

/-- PTP_MANAGEMENT: ignored (R38). -/
def execPtpManagement (s : State) : Host.Outcome State Fault Refusal := done s s

/-- Does the engine act as the master (R38, R41). -/
def isMaster (s : State) : Bool := ptpRuns s && s.reg Reg.ptpRole == 1 && (s.servo.selected.isNone || s.servo.lost)

/-- A one-step Sync of the engine as master: originTimestamp is written as the frame leaves (R39). -/
def syncLeaves (s : State) (eighth : Nat) : State :=
  if isMaster s then
    let t := txStamp s eighth
    { sendPtp s 0 s.servo.syncSeq t 0 (ptpFix s 10 (t.sec * 2 ^ 32 + t.ns)) with
      servo := { s.servo with syncSeq := (s.servo.syncSeq + 1) % 65536 } }
  else s

/-- PTP_SYNC_TX. -/
def execPtpSyncTx (eighth : Nat) (s : State) : Host.Outcome State Fault Refusal := done s (syncLeaves s eighth)

/-- The slave sends a Delay_Req, or a Pdelay_Req under peer-to-peer (R38). -/
def delayReqLeaves (s : State) (eighth : Nat) : State :=
  let p2p := s.reg Reg.ptpDelay == 1
  if ptpRuns s && (p2p || (s.servo.selected.isSome && !s.servo.lost)) then
    let t := txStamp s eighth
    { sendPtp s (if p2p then 2 else 1) s.servo.reqSeq t 0 (ptpFix s 0 0) with
      servo := { s.servo with request := some (s.servo.reqSeq, timeUnits t), reqSeq := (s.servo.reqSeq + 1) % 65536 } }
  else s

/-- PTP_DELAY_REQ_TX. -/
def execPtpDelayReqTx (eighth : Nat) (s : State) : Host.Outcome State Fault Refusal := done s (delayReqLeaves s eighth)

/-- A Delay_Req at the engine as master under end-to-end is answered with a Delay_Resp (R38). -/
def delayReqArrives (s : State) (m : PtpDelayReq) : State :=
  if isMaster s && ptpHears s m.via m.domain && s.reg Reg.ptpDelay == 0 then
    sendPtp s 3 m.seq (timeOfUnits (rxUnits s m.age)) m.correction (ptpFix s 0 0)
  else s

/-- PTP_DELAY_REQ. -/
def execPtpDelayReq (m : PtpDelayReq) (s : State) : Host.Outcome State Fault Refusal := done s (onPtp s m.via fun s => delayReqArrives s m)

/-- The announce receipt timeout: the selected master is lost (R41). -/
def announceTimeout (s : State) : State :=
  if ptpRuns s && s.servo.selected.isSome && !s.servo.lost then
    let rest := s.servo.masters.filter fun x => some x.master != s.servo.selected
    servoEvent { s with servo := { s.servo with masters := rest, lost := true, waiting := none } } 1
  else s

/-- ANNOUNCE_RECEIPT_TIMEOUT. -/
def execAnnounceReceiptTimeout (s : State) : Host.Outcome State Fault Refusal := done s (announceTimeout s)

/-- The PTP port loses its link: every master is lost (R41). -/
def ptpLinkDown (s : State) : State :=
  if ptpRuns s then servoEvent { s with servo := { s.servo with masters := [], lost := s.servo.selected.isSome, waiting := none } } 4 else s

/-- PTP_PORT_LINK_DOWN. -/
def execPtpPortLinkDown (s : State) : Host.Outcome State Fault Refusal := done s (ptpLinkDown s)

end Sys2Proof.Machine
end

