-- ==== Sys2Proof/Machine/Star.lean ====
section
/-! DEFINITION. The Silush star: slots, bursts, ranging, the engine's answer, and the beat count under SILUSH (R22, R30,
R173, R317 to R331, R348, R350). Times are counted in 1/64 UI, 256 to a core cycle (notes/assumptions/26.md). -/

namespace Sys2Proof.Machine

/-- One UI, and the 8 UI of the guard. -/
def ui : Nat := 64
def guardUi : Nat := 512

/-- SIL_CYCLE, and k slots of its pitch, in 1/64 UI, rounded down (R317). -/
def silCycle (s : State) : Nat := s.reg Reg.silCycle * 4096 / 10
def slotStart (s : State) (k : Nat) : Nat := k * s.reg Reg.silCycle * 4096 / 80

/-- The codes of SIL_STATE (Table 14.5). -/
def State.silSt (s : State) : Nat := s.reg Reg.silState

def State.modSil (s : State) (g : Silush → Silush) : State := { s with silush := g s.silush }

/-- A state of Table 14.5 whose entry sends an EMCY. -/
def silFails (s : State) (st code : Nat) : State :=
  let s := s.setReg Reg.silState 0 st
  let s := if st = 1 then s.modSil fun x => { x with originKnown := false, offRun := 0, collRun := 0, rangeSent := none } else s
  s.emcy { code := code }

/-! ### Bursts (R318) -/

/-- The additive scrambler x^7 + x^6 + 1 over `n` bits, highest first, from a register (R318). -/
def scramble (x : Nat) : Nat → Nat → Nat
  | 0, _ => 0
  | n + 1, r =>
    let b := (bit r 6 ^^ bit r 5)
    ofBool (bit x n ^^ b) * 2 ^ n + scramble x n (r * 2 % 128 + ofBool b)

/-- The 72 payload bits of a burst with its CRC, scrambled. -/
def burstBits (data : BitVec 56) : BitVec 72 :=
  BitVec.ofNat 72 (scramble (data.toNat * 65536 + crc16Bits 0xFFFF data.toNat 56) 72 127)

/-- A burst as it leaves: the preamble 1010 1010 1010 1100 and the payload (R318). -/
def burstOf (data : BitVec 56) : BitVec 88 := 0xAAAC#16 ++ burstBits data

/-- The data of a received burst, none where its CRC fails. -/
def burstData (b : BitVec 72) : Option (BitVec 56) :=
  let x := scramble b.toNat 72 127
  if crc16Bits 0xFFFF (x / 65536) 56 = x % 65536 then some (BitVec.ofNat 56 (x / 65536)) else none

/-- The arrival of a burst's first preamble bit, measured to 1 UI (R318). -/
def arrival (s : State) (b : Burst) : Nat := (s.clocks.cycle * 256 + b.sub) / ui * ui

/-! ### The busy word and the start of a cycle (R173, R326) -/

/-- Words that a tank holds: payload not sent, and pins. -/
def tankWords (s : State) (h : Nat) : Nat :=
  let t := s.tank h
  (t.queued.map fun x => x.words.length - x.sent).sum + (t.pins.map Pin.size).sum

/-- Words that the ledgers of a harbour owe. -/
def owedAt (s : State) (h : Nat) : Nat :=
  (s.quenches.map fun e => owedOf (tabGet [] e.2.led0 h) + owedOf (tabGet [] e.2.ledP h)).sum

/-- Free words of a harbour's tank, ledgers and spare area together. -/
def freeWords (s : State) (h : Nat) : Nat := 524288 - owedAt s h - (524288 - capWords s h - spareFree s h)

/-- The busy word (Table 7.6). -/
def busyWord (s : State) (old : Nat) : Nat :=
  let occ := min 255 ((s.harbourList.map (tankWords s)).foldl max 0 / 2048)
  let free := (s.harbourList.map (freeWords s)).foldl min 524288 / 32
  let busy := if s.reg Reg.qnBusyOn ≤ occ then true else if occ < s.reg Reg.qnBusyOff then false else bit old 31
  ofBool busy * 2 ^ 31 + ofBool s.silush.refusing * 2 ^ 30 + occ * 2 ^ 16 + free

/-- The first local beat boundary at or after the origin, 0 before a beat source is taken (Table 14.3). -/
def boundaryAfter (s : State) (origin : Nat) : Beat :=
  if !s.beat.on then 0#48
  else
    let d : Int := (origin : Int) - s.beat.at' * 256
    let p : Int := s.beat.period * 256
    s.beat.n + BitVec.ofInt 48 (-((-d) / p))

/-- The start of the preamble of a burst that reaches the coupler in slot k, at the next UI boundary (R320). -/
def sendTime (s : State) : Nat :=
  ceilDiv (s.silush.origin + slotStart s (s.reg Reg.silSlot) + guardUi - s.silush.loopDelay) ui * ui

/-- The engine's answer (R325). -/
def answer (s : State) (noQuery : Bool) : State :=
  if s.silSt ≠ 3 ∨ s.silush.sent ∨ s.silush.dark then s
  else
    let notReady := s.mode == .held || s.mode == .faulted
    let seq := if noQuery then (s.silush.seq + 1) % 64 else s.silush.seq
    let busy := if notReady then 0x80000000 else s.reg Reg.qnBusyWord
    let data : BitVec 56 := BitVec.ofNat 6 seq ++ BitVec.ofBool notReady ++ BitVec.ofBool noQuery ++ BitVec.ofNat 32 busy
      ++ (boundaryAfter s s.silush.origin).extractLsb' 0 16
    (s.emit (.silush (sendTime s) (burstOf data))).modSil fun x => { x with sent := true, seq := seq }

/-- The end of a cycle: the answer to a missing slot 0, the run of own collisions, and the slots that were empty (R326, R329,
R330). -/
def closeCycle (s : State) : State :=
  let s := if s.silush.slot0Seen ∨ !s.silush.originKnown then s else answer s true
  let x := s.silush
  let own := s.reg Reg.silSlot
  let run (k : Nat) : Nat :=
    if x.seen.contains k then 0
    else if x.rangeCycle && k != 0 then tabGet 0 x.absentRun k
    else tabGet 0 x.absentRun k + 1
  s.modSil fun y => { y with
    collRun := if y.sent && !y.collided.contains own then 0 else y.collRun
    absentRun := (List.range 8).map fun k => (k, run k) }

/-- A cycle starts at the predicted origin: the tanks are sampled and the busy word is formed (R173, R326, R328). -/
def cycleStart (s : State) : State :=
  if s.mode = .off ∨ s.mode = .boot then s
  else
    let s := closeCycle s
    let next := if s.silush.originKnown then s.silush.origin + silCycle s else s.clocks.cycle * 256
    let s := s.runTo (next / 256)
    let s := if s.silush.spill then s.count Reg.silCollided 0 else s
    let s := s.modSil fun x => { x with
      origin := next, slot0Before := x.slot0Seen, slot0Seen := false, sent := false, dark := false, rangeCycle := false, seen := [],
      collided := if x.spill then [0] else [], spill := false, beatAge := x.beatAge + 1,
      beatHeard := if x.beatAge = 0 then x.beatHeard else none, refusing := x.refusedNow, refusedNow := false }
    s.setReg Reg.qnBusyWord 0 (busyWord s (s.reg Reg.qnBusyWord))

/-- SILUSH_CYCLE_START. -/
def execSilushCycleStart (s : State) : Host.Outcome State Fault Refusal := done s (cycleStart s)

/-! ### Collisions (R327 to R329) -/

/-- A slot is marked COLLIDED; the third in a row of the engine's own makes it SILENT. -/
def collide (s : State) (k : Nat) : State :=
  if s.silush.collided.contains k then s
  else
    let s := (s.count Reg.silCollided 0).modSil fun x => { x with collided := k :: x.collided }
    if k = s.reg Reg.silSlot ∧ s.silush.sent then
      let run := s.silush.collRun + 1
      let s := s.modSil fun x => { x with collRun := run }
      if 3 ≤ run ∧ s.silSt = 3 then silFails s 4 0xFF90 else s
    else s

/-- A burst with its first preamble bit `d` after the nominal start of slot k: accepted, with skew or COLLIDED
(Table 14.4). The answer says whether its data may be used. -/
def classBurst (s : State) (k : Nat) (d : Int) : State × Bool :=
  let room : Int := ((slotStart s (k + 1) - slotStart s k : Nat) : Int)
  let again := s.silush.seen.contains k
  let s := s.modSil fun x => { x with seen := k :: x.seen }
  let early := decide (d < -(guardUi : Int))
  let late := decide (room < d + guardUi + 88 * ui)
  let s := if again then collide s k else s
  let s := if early then collide (collide s k) (k - 1) else s
  let s := if late then
      let s := collide s k
      if k = 7 then s.modSil fun x => { x with spill := true } else collide s (k + 1)
    else s
  if again || early || late then (s, false)
  else if s.silush.collided.contains k then (s, false)
  else (if d.natAbs < ui then s else s.count Reg.silSkew 0, true)

/-- A slot's ABSENT bit is cleared by an accepted burst (R330). -/
def clearAbsent (s : State) (k : Nat) : State :=
  let m := s.reg Reg.silAbsentMask
  if bit m k then s.setReg Reg.silAbsentMask 0 (m - 2 ^ k) else s

/-- A burst whose CRC fails is counted (R318). -/
def countCrc (s : State) : Option (BitVec 56) → State
  | some _ => s
  | none => s.count Reg.silCrcErrors 0

/-- A burst whose CRC holds ends the slot's absence; a failed CRC is counted (R318, R330). -/
def takeData (s : State) (k : Nat) : Option (BitVec 56) → State
  | some _ => clearAbsent s k
  | none => s.count Reg.silCrcErrors 0

/-- The data of a burst that may be used. -/
def useData (s : State) (k : Nat) (b : Burst) : State := takeData s k (burstData b.bits)

/-- The offset of a burst from the nominal start of slot k (R327). -/
def burstOffset (s : State) (k : Nat) (b : Burst) : Int :=
  (arrival s b : Int) - (s.silush.origin + slotStart s k + guardUi : Nat)

/-- A burst in a slot. -/
def slotBurst (s : State) (k : Nat) (b : Burst) : State :=
  if s.silSt = 0 ∨ !s.silush.originKnown then s
  else
    let x := classBurst s k (burstOffset s k b)
    if x.2 then useData x.1 k b else x.1

/-- SLOT_BURST. -/
def execSlotBurst (slot : Nat) (b : Burst) (s : State) : Host.Outcome State Fault Refusal :=
  onUnit (decide (slot < 8)) s (slotBurst s slot b)

/-- May slot k be owned with a loop delay (R320): A ≤ k·p − 20 ns. -/
def delayOk (s : State) (a : Nat) : Bool := decide (a + 128 * ui ≤ slotStart s (s.reg Reg.silSlot))

/-- The engine hears its own accepted burst and moves A by at most 1 UI (R324). -/
def ownBurst (s : State) (b : Burst) : State :=
  if s.silSt ≠ 3 ∨ !s.silush.sent then s
  else
    let k := s.reg Reg.silSlot
    let d := burstOffset s k b
    let x := classBurst s k d
    let s := if x.2 then useData x.1 k b else x.1
    if !x.2 then s
    else
      let a := if (ui : Int) ≤ d then s.silush.loopDelay + ui else if d ≤ -(ui : Int) then s.silush.loopDelay - ui else s.silush.loopDelay
      let s := s.modSil fun y => { y with loopDelay := a }
      if delayOk s a then s else silFails s 5 0xFF92

/-- OWN_BURST. -/
def execOwnBurst (b : Burst) (s : State) : Host.Outcome State Fault Refusal := done s (ownBurst s b)

/-- A slot has carried no burst for 4 cycles (R330). -/
def slotAbsent (s : State) (k : Nat) : State :=
  let m := s.reg Reg.silAbsentMask
  if s.silSt = 0 ∨ bit m k ∨ tabGet 0 s.silush.absentRun k < 4 then s
  else
    let s := s.setReg Reg.silAbsentMask 0 (m ||| 2 ^ k)
    if k = 0 then silFails s 1 0xFF91 else s

/-- SLOT_ABSENT. -/
def execSlotAbsent (slot : Nat) (s : State) : Host.Outcome State Fault Refusal :=
  onUnit (decide (slot < 8)) s (slotAbsent s slot)

/-! ### Slot 0 (R321, R322, R326, R330) -/

/-- A slot 0 preamble arrives: a new cycle where none was predicted, the pace, and the origin (R326, R330, Table 14.5). -/
def slot0Preamble (s : State) (b : Burst) : State :=
  let s := if s.silush.slot0Seen then cycleStart s else s
  let t := arrival s b
  let d : Int := (t : Int) - (s.silush.origin + guardUi : Nat)
  let off := decide (guardUi < d.natAbs)
  let known := s.silush.originKnown
  let s := s.modSil fun x => { x with origin := t - guardUi, originKnown := true, slot0Seen := true, seen := 0 :: x.seen }
  if s.silSt = 1 then (if known && s.silush.slot0Before && !off then s.setReg Reg.silState 0 2 else s)
  else if known && off then
    let s := (s.count Reg.silSkew 0).modSil fun x => { x with offRun := x.offRun + 1, dark := true }
    if 4 ≤ s.silush.offRun then silFails s 1 0xFF91 else s
  else s.modSil fun x => { x with offRun := 0 }

/-- What the data of a slot 0 burst is: its kind and data, none where it cannot be used (R318, R321, R328). -/
def slot0Data (s : State) (b : Burst) : Option (Nat × BitVec 56) :=
  if s.silush.collided.contains 0 then none
  else
    match burstData b.bits with
    | some d => if d.toNat / 2 ^ 54 = 3 then none else some (d.toNat / 2 ^ 54, d)
    | none => none

/-- A slot 0 burst of a kind: where its data can be used `g` acts on it before the answer; a burst of another kind is no such
event. -/
def slot0Burst (s : State) (kind : Nat) (b : Burst) (g : BitVec 56 → State → State) : State :=
  if s.silSt = 0 ∨ s.mode = .off ∨ s.mode = .boot then s
  else if s.silush.slot0Seen ∧ s.silush.originKnown ∧ arrival s b < s.silush.origin + slotStart s 1 then collide s 0
  else if (s.silush.slot0Seen ∧ s.silush.spill) ∨ s.silush.collided.contains 0 then
    answer ((if s.silush.slot0Seen then cycleStart s else s).modSil fun x => { x with slot0Seen := true, seen := 0 :: x.seen }) true
  else
    match slot0Data s b with
    | none => answer ((slot0Preamble s b).count Reg.silCrcErrors 0) true
    | some (k, d) =>
      if k ≠ kind then s
      else
        let s := clearAbsent (slot0Preamble s b) 0
        let s := s.modSil fun x => { x with seq := field d.toNat 48 6 }
        answer (g d s) false

/-- A BEAT waits for its PHASE of the next cycle. -/
def hearBeat (b : Burst) (d : BitVec 56) (s : State) : State :=
  let t := arrival s b
  s.modSil fun x => { x with beatHeard := some (field d.toNat 48 6, field d.toNat 0 48, t), beatAge := 0 }

/-- SLOT0_BEAT. -/
def execSlot0Beat (b : Burst) (s : State) : Host.Outcome State Fault Refusal := done s (slot0Burst s 0 b (hearBeat b))

/-- A RANGE cycle: only the node whose slot it names transmits; a RANGING or FAR engine sends its ranging burst (R323). -/
def hearRange (d : BitVec 56) (s : State) : State :=
  let named := decide (field d.toNat 45 3 = s.reg Reg.silSlot)
  let s := s.modSil fun x => { x with rangeCycle := true, dark := x.dark || !named }
  if named ∧ (s.silSt = 2 ∨ s.silSt = 5) ∧ !s.silush.dark then
    let t := s.silush.origin + 136 * ui
    (s.emit (.silush t (burstOf 0#56))).modSil fun x => { x with rangeSent := some t, dark := true }
  else s

/-- SLOT0_RANGE. -/
def execSlot0Range (b : Burst) (s : State) : Host.Outcome State Fault Refusal := done s (slot0Burst s 2 b hearRange)

/-- The engine is ranged: it owns its slot, or the loop delay is too long for the slot (R320, R323). -/
def rangeSettles (s : State) (ok : Bool) : State :=
  if ok then s.setReg Reg.silState 0 3 else if s.silSt = 5 then s else silFails s 5 0xFF92

/-- The loop delay is measured. -/
def rangeHeard (s : State) (a : Nat) : State :=
  let s := s.modSil fun x => { x with loopDelay := a, rangeSent := none, collRun := 0, seen := s.reg Reg.silSlot :: x.seen }
  rangeSettles s (delayOk s a)

/-- The ranging burst returns: A, and ACTIVE or FAR (R323). -/
def rangingReturns (s : State) (b : Burst) : State :=
  match s.silush.rangeSent with
  | none => s
  | some t => rangeHeard (countCrc s (burstData b.bits)) (arrival s b - t)

/-- RANGING_RETURN. -/
def execRangingReturn (b : Burst) (s : State) : Host.Outcome State Fault Refusal := done s (rangingReturns s b)

/-! ### The pair (R30, R322, R348, R350) -/

/-- A count placed by a pair: boundary b at cycle c with a period. -/
def placeCount (s : State) (b : Beat) (c : Int) (period : Nat) : BeatCount :=
  let k : Int := ((s.clocks.cycle : Int) - c) / period
  let n := b + BitVec.ofInt 48 k
  let at' := (c + k * period).toNat
  { on := true, n := n, at' := at', period := period, since := 0, past := [(n, at')], fresh := false }

/-- A disagreement: counted, with an EMCY; the engine keeps its own count (R30). -/
def beatMismatch (s : State) : State := (s.count Reg.beatMismatch 0).emcy { code := 0xFF20 }

/-- Does a pair disagree with the engine's own count (R322). -/
def pairDisagrees (s : State) (b : Beat) (c : Int) (period : Nat) : Bool :=
  decide (2 < (c - s.boundaryAt b).natAbs) || period != s.beat.period

/-- Periods from the present boundary to the boundary of the present count that lies nearest to cycle `c`. -/
def nearestBoundary (s : State) (c : Int) : Int := (2 * (c - s.beat.at') + s.beat.period) / (2 * s.beat.period)

/-- The first pair after entering ARMED: number and phase are taken; HELD with BEAT_MOVED where its boundary lies more than 2
core cycles from one of the present count, or its period is another (R30, R350). -/
def takePair (s : State) (b : Beat) (c : Int) (period : Nat) : State :=
  let k := nearestBoundary s c
  let at' := c - k * s.beat.period
  if decide (2 < (at' - s.beat.at').natAbs) || period != s.beat.period then (enterHeld s 8).setReg Reg.imgReason 0 9
  else
    let n := b - BitVec.ofInt 48 k
    let s := if n = s.beat.n then s else rebase s (n - s.beat.n)
    { s with beat := { s.beat with n := n, at' := at'.toNat, since := 0, fresh := false, past := [(n, at'.toNat)] } }

/-- An activation that waits for a pair takes its count and goes on to the checks that depend on the period, and to the load
(R348 steps 2 to 4). -/
def pairActivates (s : State) (b : Beat) (c : Int) (period : Nat) : State :=
  match s.images.main with
  | none => s
  | some i =>
    if !resourceOk s period i then endActivation s 7 5
    else if storePoisoned s false then storeFails s
    else
      let s := { s with beat := placeCount s b c period, act := { s.act with phase := 2 } }
      let s := s.setReg Reg.beatPeriod 0 period
      i.forgings.foldl (fun (s : State) p => startLoad s i s.images.mainHash false false p.forging) s

/-- A valid pair of BEAT and PHASE (R322). -/
def pairHeard (s : State) (b : Beat) (c : Int) (period : Nat) (ok : Bool) : State :=
  if s.reg Reg.beatSource ≠ 0 then s
  else if s.mode.flows then
    if !ok then beatMismatch s
    else if s.beat.fresh then takePair s b c period
    else if pairDisagrees s b c period then beatMismatch s
    else s
  else if s.mode = .held ∧ s.act.phase = 1 ∧ ok then pairActivates s b c period
  else s

/-- A PHASE of the cycle after a BEAT, with the next sequence (R322). -/
def hearPhase (d : BitVec 56) (s : State) : State :=
  let seq := field d.toNat 48 6
  let period := field d.toNat 16 16
  match s.silush.beatHeard with
  | none => s
  | some (q, n, t) =>
    let s' := s.modSil fun x => { x with beatHeard := none }
    if (q + 1) % 64 ≠ seq ∨ s.silush.beatAge ≠ 1 ∨ field d.toNat 0 16 ≠ 0 then s'
    else pairHeard s' (BitVec.ofNat 48 n) ((ceilDiv t 256 + field d.toNat 32 16 : Nat) : Int) period (decide (16 ≤ period))

/-- SLOT0_PHASE. -/
def execSlot0Phase (b : Burst) (s : State) : Host.Outcome State Fault Refusal := done s (slot0Burst s 1 b hearPhase)

/-! ### Objects -/

/-- A write of 1 to SIL_REENABLE: a SILENT engine is RANGING (R329). -/
def silReenabled (s : State) : State := if s.silSt = 4 then (s.setReg Reg.silState 0 2).modSil fun x => { x with collRun := 0 } else s

/-- A write of SIL_ENABLE, whose value has been stored (Table 14.5). -/
def silEnabled (s : State) (old : Nat) : State :=
  if s.reg Reg.silEnable = old then s else silHunt s

end Sys2Proof.Machine
end

