-- ==== Sys2Proof/Machine/Published.lean ====
section
/-! DEFINITION. The published copies of ro values and their generations: what the dictionary shows of the counters, buffers and
logs that the engine keeps outside its registers, and what a publication copies (R270, R271; Tables 7.8, 8.7, 11.8, 12.11,
12.14, 17.4; R155, R364). -/

namespace Sys2Proof.Machine

/-! ### Records of engine-written DOMAINs -/

/-- Bytes of a run of 128-bit records, each least significant byte first. -/
def recordBytes (rs : List (BitVec 128)) : List Byte := rs.flatMap fun r => leBytes 16 r.toNat

/-- A remap offer (Table 17.4). -/
def offerBytes (o : Offer) : List Byte :=
  leBytes 1 o.island ++ leBytes 1 o.row ++ leBytes 1 (ofBool o.plane) ++ leBytes 1 o.newByte ++ leBytes 2 o.forgings
    ++ leBytes 2 0 ++ leBytes 8 o.beat.toNat ++ slice o.table 0 16

/-- A record of the tap memory (R364). -/
def tapBytes (r : TapRecord) : List Byte :=
  leBytes 32 r.tok.data.toNat ++ leBytes 4 r.tok.tag.toNat ++ leBytes 6 r.beat.toNat ++ leBytes 1 r.entry
    ++ leBytes 1 (ofBool r.lost) ++ leBytes 8 r.step ++ zeros 12

/-- A pin rule as the body of the PIN that registered it: the manual states no layout (notes/assumptions/27.md). -/
def pinRuleBytes (r : PinRule) : List Byte :=
  leBytes 16 (r.start.toNat + r.forging * 2 ^ 48 + r.mask * 2 ^ 52 + r.beats * 2 ^ 60 + r.life * 2 ^ 80)

/-- A QN_PARTITIONS entry (Table 7.8). -/
def partBytes (p : PartPlan) : List Byte :=
  leBytes 1 p.forging ++ leBytes 1 0 ++ leBytes 2 p.g0 ++ leBytes 2 p.gPlus ++ leBytes 2 0 ++ leBytes 4 p.cap0 ++ leBytes 4 p.capPlus

/-- The partitions of a harbour in the active image. -/
def partitionsOf (s : State) (h : Nat) : List PartPlan :=
  ((s.images.active.map ImagePlan.parts).getD []).filter fun p => p.harbour = h

/-- SEQ_CTX_STATE of a harbour (Table 11.8). -/
def ctxBytes (x : Harbour) : List Byte := (List.range 10).flatMap fun k => leBytes 1 (x.ctx k).state

/-- The content of a DOMAIN that the engine writes, as it stands now. -/
def engineDomains (s : State) : List (Nat × List Byte) :=
  [(Reg.fltLog.key 0, recordBytes s.faults.log), (Reg.fltRemapOffer.key 0, s.faults.offers.flatMap offerBytes),
   (Reg.detTapRing.key 0, s.faults.taps.flatMap tapBytes), (Reg.hazLog.key 0, recordBytes s.faults.hazards)]
  ++ s.harbourList.flatMap fun h =>
    let x := s.harbour h
    [(Reg.engCompletions.key h, recordBytes x.completions), (Reg.engPinRules.key h, x.pinRules.flatMap pinRuleBytes),
     (Reg.seqCtxState.key h, ctxBytes x), (Reg.qnPartitions.key h, (partitionsOf s h).flatMap partBytes)]

/-! ### Registers that follow from other state -/

/-- FORGE_PRIME_LEFT: beats of priming that the live plane still has (R108). -/
def primeLeft (s : State) (f : Nat) : Nat :=
  let q := s.flag Reg.forgeLivePlane f
  let d := s.primeDepth f q
  let k := beatDiff s.beat.n (s.plane f q).first
  if s.mode.flows ∧ s.planeState f q = 4 ∧ 0 ≤ k ∧ k < d then d - k.toNat else 0

/-- Writes a register only where it changes. -/
def State.putReg (s : State) (r : Reg) (n v : Nat) : State := if s.reg r n = v then s else s.setReg r n v

/-- The registers of a harbour that follow from its queues and its tank (Tables 7.8, 8.7). -/
def deriveHarbour (s : State) (h : Nat) : State :=
  let x := s.harbour h
  let s := s.putReg Reg.engOutstanding h (outstanding x)
  let s := (s.putReg Reg.qnTankWords h (tankWords s h)).putReg Reg.qnSpareFree h (spareFree s h)
  (List.range 20).foldl (fun (s : State) k =>
    s.putReg (Reg.engQueueFree.at (k % 4)) (8 * h + k / 4) (64 - (x.queue (k / 4) (k % 4)).length)) s

/-- Every register that follows from other state, brought up to date. -/
def deriveRegs (s : State) : State :=
  let s := (List.range 16).foldl (fun (s : State) f => s.putReg Reg.forgePrimeLeft f (primeLeft s f)) s
  s.harbourList.foldl deriveHarbour s

/-! ### Publication (R270, R271) -/

/-- The default of the register at a key. -/
def keyDefault (k : Nat) : Nat := ((findRow (k / 256) (k % 256)).map fun r => r.reg.dflt).getD 0

/-- Is a key that of a value with ro access, other than a generation. -/
def publishedKey (k : Nat) : Bool :=
  genKey (k / 256) != some k
    && (match findRow (k / 256) (k % 256) with | some r => r.access == .ro | none => false)

/-- Is a key that of a value whose change a generation counts: the ro values, and the window tables, which QN_WIN_GEN covers though
the host writes them (R174, R271). -/
def coveredKey (k : Nat) : Bool :=
  publishedKey k || (decide (0x3221 ≤ k / 256) && decide (k / 256 < 0x3231) && genKey (k / 256) != some k)

/-- Keys at which two tables differ. -/
def changedKeys {α : Type} [BEq α] (dflt : Nat → α) (old new : List (Nat × α)) : List Nat :=
  ((new.filter fun e => tabGet (dflt e.1) old e.1 != e.2) ++ (old.filter fun e => tabGet (dflt e.1) new e.1 != e.2)).map Prod.fst

/-- The contents that a publication copies for DOMAINs. -/
def domainCopies (s : State) : List (Nat × List Byte) :=
  (engineDomains s).foldl (fun t e => tabSet t e.1 e.2) s.domains

/-- Keys of the covered values that a publication changes. -/
def publishedChanges (s : State) : List Nat :=
  ((changedKeys keyDefault s.pub s.regs) ++ changedKeys (fun _ => []) s.pubDomains (domainCopies s)).filter coveredKey

/-- The generations of the indices that changed, each once (R271). -/
def genKeys (changed : List Nat) : List Nat := (changed.filterMap fun k => genKey (k / 256)).eraseDups

/-- The generations of what changed increment. -/
def bumpGens (s : State) (changed : List Nat) : State :=
  (genKeys changed).foldl (fun (s : State) k =>
    { s with regs := tabSet s.regs k ((tabGet 0 s.regs k + 1) % 65536) }) s

/-- The copy itself. -/
def copyOut (s : State) : State := { s with pub := s.regs, pubDomains := domainCopies s }

/-- Copies every ro value, with the generations of what changed. -/
def publishAll (s : State) : State :=
  let s := deriveRegs s
  copyOut (bumpGens s (publishedChanges s))

/-- The first copy, at the end of BOOT or in it: no generation moves. -/
def publishFirst (s : State) : State := copyOut (deriveRegs s)

end Sys2Proof.Machine
end

