-- ==== Sys2Proof/Machine/Power.lean ====
section
/-! DEFINITION. Power domains, rails and temperatures (R394 to R407; Tables 12.13, 19.1, 19.2, 19.4, 19.6). -/

namespace Sys2Proof.Machine

/-! ### Domains -/

/-- What a domain feeds (Table 19.1). -/
inductive DomainKind where
  | island | harbour | stack | optics | bank
  deriving DecidableEq, Repr

/-- The kind of domain d. -/
def domainKind (d : Nat) : DomainKind :=
  if d < 64 then .island else if d < 80 then .harbour else if d < 96 then .stack else if d < 112 then .optics else .bank

/-- The harbour that a domain above 63 serves. -/
def domainHarbour (d : Nat) : Nat := d % 16

/-- The BIST unit number of the island or harbour that a domain serves (R399). -/
def domainUnit (d : Nat) : Nat := if d < 64 then d else harbourUnit (domainHarbour d)

/-- Does the grade enable the unit of a domain (R10, R395). -/
def State.hasDomain (s : State) (d : Nat) : Bool :=
  decide (d < 128) && (if d < 64 then s.hasIsland d else s.hasHarbour (domainHarbour d))

def State.domainState (s : State) (d : Nat) : Nat := s.reg Reg.pwrDomainState d
def State.setDomainState (s : State) (d v : Nat) : State := s.setReg Reg.pwrDomainState d v

/-- PWR_DOMAIN_STATE codes (R394). -/
def pdOff : Nat := 0
def pdRamping : Nat := 1
def pdOn : Nat := 2
def pdFailed : Nat := 3

/-! ### Loss of a domain's contents (R397, R399) -/

/-- The planes whose placement uses an island (R396). -/
def planesOn (s : State) (i : Nat) : List PlaneId :=
  allPlanes.filter fun x =>
    match (s.plane x.1 x.2).plan with
    | some p => (islandsUsed p).contains i
    | none => false

/-- A plane becomes EMPTY: no tile holds anything of it. -/
def emptyPlane (s : State) (x : PlaneId) : State :=
  let s := { s with tiles := tabMap (fun _ t => clearTile x.1 x.2 t) s.tiles }
  (s.setPlane x.1 x.2 Plane.empty).setPlaneState x.1 x.2 0

/-- The tiles of an island and the tokens in their delay registers are lost. -/
def wipeIsland (s : State) (i : Nat) : State :=
  { s with tiles := s.tiles.filter (fun e => e.1 / 512 != i), lines := s.lines.filter fun e => e.1 / 2048 != i }

/-- The bytes of space `k` at a harbour read 0. -/
def wipeSpace (s : State) (k h : Nat) : State := clearMem s (mkAddr k h 0) (mkAddr k (h + 1) 0)

/-- The objects of Table 8.7 of a harbour at their defaults. -/
def dropEngineObjects (s : State) (h : Nat) : State :=
  { s with regs := s.regs.filter fun e =>
      let i := e.1 / 256
      !(i == 0x3401 + h || (decide (0x3411 + 8 * h ≤ i) && decide (i < 0x3419 + 8 * h))) }

/-- Items addressed to a stack that is not READY are delivered poisoned, without reaching it (R205). -/
def poisonItems (s : State) (h : Nat) : State :=
  let toStack (i : Item) : Bool := i.places.any fun a => addrSpace a == 0 && addrHarbour a == h
  let mark (i : Item) : Item := if toStack i && !i.got then { i with poisoned := true, arrived := true } else { i with arrived := i.arrived || toStack i }
  let s := { s with harbours := tabMap (fun _ (x : Harbour) => { x with dqs := tabMap (fun _ l => l.map mark) x.dqs }) s.harbours }
  s.harbourList.foldl settle s

/-- IMG_DOMAIN without content (R347, R397). -/
def emptyMain (s : State) : State :=
  let s := (s.setDomain Reg.imgDomain 0 []).setReg Reg.imgState 0 0
  { s with images := { s.images with main := none, mainHash := [] } }

/-- IMG_SHADOW without content. -/
def emptyShadow (s : State) : State :=
  let s := (s.setDomain Reg.imgShadow 0 []).setReg Reg.imgShadowState 0 0
  { s with images := { s.images with shadow := none, shadowHash := [], shadowFrame := [] } }

/-- What an image store of which a stack is lost holds no longer: every committed content has sections in every enabled
stack (R345, R397; notes/assumptions/28.md). -/
def emptyStores (s : State) : State :=
  let s := if (s.domain Reg.imgDomain).isEmpty then s else emptyMain s
  let s := if (s.domain Reg.imgShadow).isEmpty then s else emptyShadow s
  s.setDomain Reg.detReplayData 0 []

/-- A stack's contents are lost, and what its hold caches of it. -/
def wipeStack (s : State) (h state : Nat) : State :=
  let s := wipeSpace (s.setReg Reg.hbmState h state) 0 h
  poisonItems (s.modHarbour h fun x => { x with hold := [], badLines := [], victims := [] }) h

/-- A harbour's contents are lost. -/
def wipeHarbour (s : State) (h : Nat) : State :=
  let s := wipeSpace (wipeSpace s 1 h) 2 h
  let s := s.setHarbour h { Harbour.empty with timing := (s.harbour h).timing }
  dropEngineObjects { s with tanks := tabDel s.tanks h } h

/-- The receive lanes of a harbour. -/
def harbourLanes (h : Nat) : List Nat := (List.range 64).map fun k => 64 * h + k

/-- The receive lanes of a harbour go DOWN. -/
def darkLanes (s : State) (h : Nat) : State :=
  let up := (harbourLanes h).filter fun l => s.laneSt l != lsDown
  up.foldl (fun s l => laneDown s l) { s with lanes := tabMap (fun l x => if l / 64 = h then { x with signal := false } else x) s.lanes }

/-- The loss that R397 records for a domain that is switched off. -/
def domainLost (s : State) (d : Nat) : State :=
  let h := domainHarbour d
  match domainKind d with
  | .island => wipeIsland ((planesOn s d).foldl emptyPlane s) d
  | .harbour => wipeHarbour s h
  | .stack => emptyStores (wipeStack s h 0)
  | .optics => darkLanes s h
  | .bank => darkLanes s h

/-- A domain that is ON or RAMPING becomes OFF. -/
def domainOff (s : State) (d : Nat) : State :=
  let st := s.domainState d
  if st = pdOn ∨ st = pdRamping then domainLost (s.setDomainState d pdOff) d else s

/-- The switched domains in the order of R405: lane banks, optical groups, anvil islands, stacks, harbours. -/
def switchOffOrder : List Nat :=
  (List.range 16).map (112 + ·) ++ (List.range 16).map (96 + ·) ++ List.range 64 ++ (List.range 16).map (80 + ·)
    ++ (List.range 16).map (64 + ·)

/-- Every switched domain is switched off (R403, R405). -/
def allDomainsOff (s : State) : State := switchOffOrder.foldl domainOff s

/-- The 48 V input is lost: nothing but carrier flash survives, and the engine is OFF (R265, R333, R403). -/
def powerOff (s : State) : State :=
  { State.reset with
    carrier := s.carrier
    flash := s.flash
    clocks := { State.reset.clocks with cycle := s.clocks.cycle }
    outbox := s.outbox
    free := s.free }

/-! ### PWR_DOMAIN_ON (R394 to R398, R401; Table 19.2) -/

/-- Every plane of every forging that uses an island is EMPTY or STALE. -/
def islandIdle (s : State) (i : Nat) : Bool :=
  (planesOn s i).all fun x => s.planeState x.1 x.2 == 0 || s.planeState x.1 x.2 == 6

/-- The domains that an activation uses, from its POWER check to its end (R398). -/
def activationUses (s : State) (d : Nat) : Bool :=
  s.act.phase != 0 && (match s.images.main with
    | none => false
    | some i => if d < 64 then (i.forgings.flatMap islandsUsed).contains d else (harboursUsed i).contains (domainHarbour d))

/-- The domains of harbours that a shadow load uses until its end; those of its islands hold LOADING planes (R396, R398). -/
def loadUses (s : State) (d : Nat) : Bool :=
  64 ≤ d && s.act.phase == 0 && (planesIn s 1).any fun x =>
    (((s.plane x.1 x.2).plan.map ForgingPlan.home).toList ++ (s.plane x.1 x.2).shoals.map fun (p : ShoalPlan) => p.shoal / 16).contains (domainHarbour d)

/-- No receive or transmit lane of a harbour is enabled. -/
def lanesDisabled (s : State) (h : Nat) : Bool :=
  (harbourLanes h).all (fun l => !s.flag Reg.laneEnable l) && (List.range 16).all fun k => !s.flag Reg.xlaneEnable (16 * h + k)

/-- The condition of Table 19.2 for switching a domain on. -/
def mayPowerOn (s : State) (d : Nat) : Bool :=
  let h := domainHarbour d
  match domainKind d with
  | .island => s.mode.online
  | .harbour => s.mode == .held
  | .stack => s.mode == .held && s.domainOn (64 + h)
  | .optics => s.mode.online && s.domainOn (64 + h)
  | .bank => s.mode.online && s.domainOn (64 + h)

/-- Is a BIST running on a unit. -/
def bistOn (s : State) (u : Nat) : Bool := match s.faults.bist with | some (v, _) => v == u | none => false

/-- The condition of Table 19.2 for switching a domain off. -/
def mayPowerOff (s : State) (d : Nat) : Bool :=
  let h := domainHarbour d
  !activationUses s d && !loadUses s d && (match domainKind d with
  | .island => s.mode.online && islandIdle s d && !bistOn s d
  | .harbour => s.mode == .held && [80 + h, 96 + h, 112 + h].all fun x => s.domainState x == pdOff
  | .stack => s.mode == .held
  | .optics => s.mode.online && lanesDisabled s h
  | .bank => s.mode.online && lanesDisabled s h)

/-- Is a domain other than d RAMPING. -/
def otherRamps (s : State) (d : Nat) : Bool := (List.range 128).any fun x => x != d && s.domainState x == pdRamping

/-- The ramp time of a domain in core cycles (Table 19.1). -/
def rampCycles (d : Nat) : Nat :=
  1600000 * (match domainKind d with | .island => 2 | .harbour => 5 | .stack => 20 | .optics => 10 | .bank => 2)

/-- A domain begins its ramp. -/
def startRamp (s : State) (d : Nat) : State :=
  let s := (s.setDomainState d pdRamping).setReg Reg.pwrDomainOn d 1
  { s with power := { s.power with rampFrom := s.clocks.cycle } }

/-- A domain that is switched off is OFF in the next CONTROL cycle (R394). -/
def switchedOff (s : State) (d : Nat) : State :=
  (domainOff (s.runTo (8 * (s.clocks.cycle / 8 + 1))) d).setReg Reg.pwrDomainOn d 0

/-- A write of PWR_DOMAIN_ON: the status code, and the state after it. A write that leaves the state unchanged has no
effect (R394; notes/assumptions/29.md). -/
def domainOnWrite (d v : Nat) (s : State) : Nat × State :=
  let st := s.domainState d
  if v = 1 then
    if !s.hasDomain d then (scValue, s)
    else if s.power.throttled then (scState, s)
    else if st ≠ pdOff then (scOk, s)
    else if otherRamps s d || !mayPowerOn s d then (scState, s)
    else (scOk, startRamp s d)
  else if st = pdOff ∨ st = pdFailed then (scOk, s)
  else if mayPowerOff s d then (scOk, switchedOff s d)
  else (scState, s)

/-- The default of timing object k of a stack, from its identity (R207). -/
def stackDefault (s : State) (h k : Nat) : Nat := listGet 0 s.carrier.stackTimings (6 * h + k)

/-- A stack is initialized: its identity is read and its timing objects take their defaults, which are in force (R206, R207, Table 15.5 step 6). -/
def stackInit (ok : Bool) (s : State) (h : Nat) : State :=
  if ok then
    let s := s.setReg Reg.hbmState h 1
    let s := (List.range 6).foldl (fun (s : State) k => s.putReg (Reg.hbmTiming.at k) h (stackDefault s h k)) s
    s.modHarbour h fun x => { x with timing := (List.range 6).map (stackDefault s h) }
  else s.setReg Reg.hbmState h 2

/-- A ramp ends after its time: the domain is ON, and a stack is then initialized (R394, R397). -/
def rampEnds (s : State) (d : Nat) (ok : Bool) : State :=
  if s.domainState d = pdRamping then
    let s := (s.runTo (s.power.rampFrom + rampCycles d)).setDomainState d pdOn
    if domainKind d = .stack then stackInit ok s (domainHarbour d) else s
  else s

/-- RAMP_COMPLETE. -/
def execRampComplete (domain : Nat) (ok : Bool) (s : State) : Host.Outcome State Fault Refusal :=
  onUnit (s.hasDomain domain) s (rampEnds s domain ok)

/-! ### A failed rail (R399) -/

/-- A FAILED domain takes its units out of service: what they held is lost, and their rules apply. -/
def outOfService (s : State) (d : Nat) : State :=
  let h := domainHarbour d
  match domainKind d with
  | .island => wipeIsland s d
  | .harbour => wipeHarbour s h
  | .stack => wipeStack s h 2
  | .optics => darkLanes s h
  | .bank => darkLanes s h

/-- Does the active image use a harbour. -/
def imageUsesHarbour (s : State) (h : Nat) : Bool :=
  match s.images.active with
  | none => false
  | some i => (harboursUsed i).contains h

/-- The rail of a domain fails (R399). -/
def domainFails (s : State) (d : Nat) : State :=
  if s.mode = .off ∨ s.domainState d = pdFailed then s
  else
    let e : Event := { code := 0xFF70, unit := domainUnit d, detail := d }
    let used := domainKind d == .harbour && imageUsesHarbour s (domainHarbour d)
    let s := if used then machineCheck s e else s.emcy e
    outOfService (s.setDomainState d pdFailed) d

/-- DOMAIN_FAILED. -/
def execDomainFailed (domain : Nat) (s : State) : Host.Outcome State Fault Refusal :=
  onUnit (s.hasDomain domain) s (domainFails s domain)

/-! ### Input rails (R402, R403; Table 19.4) -/

/-- A 380 V fault: FAULTED, with the EMCY of a new cause, and Virrin switches off every switched domain (R340, R381, R403). -/
def mainFault (fresh : Bool) (s : State) : State :=
  let e : Event := { code := 0x3100 }
  allDomainsOff (if s.mode = .faulted then (if fresh then s.emcy e else s) else machineCheck s e)

/-- The 380 V input is judged. -/
def judgeMain (s : State) (mv : Nat) : State :=
  let out := decide (mv < 350000) || decide (410000 < mv)
  let was := s.power.mainOut
  let since := if was then s.power.mainOutSince else s.clocks.cycle
  let s := { s with power := { s.power with mainOut := out, mainOutSince := since } }
  if mv < 330000 ∨ 420000 < mv then mainFault (!was) s
  else if out && !was then s.emcy { code := 0x3100 }
  else s

/-- The 48 V input is judged. -/
def judgeAux (s : State) (mv : Nat) : State :=
  let out := decide (mv < 44000) || decide (52000 < mv)
  let was := s.power.auxOut
  let s := { s with power := { s.power with auxOut := out } }
  if mv < 40000 then powerOff (allDomainsOff (machineCheck s { code := 0x3200 }))
  else if out && !was then s.emcy { code := 0x3200 }
  else s

/-- MAIN_RAIL_TIMEOUT: the 380 V input has stayed outside its operating range for 1 s (R403). -/
def mainTimesOut (s : State) : State :=
  if s.power.mainOut ∧ s.mode ≠ .off then
    mainFault false (s.runTo (s.power.mainOutSince + 1600000000))
  else s

/-- MAIN_RAIL_TIMEOUT. -/
def execMainRailTimeout (s : State) : Host.Outcome State Fault Refusal := done s (mainTimesOut s)

/-- The 380 V input is removed: the domains go off in the order of R405, and the input has left its absolute range
(R403, R405). -/
def mainRemoved (s : State) : State :=
  if s.mode = .off ∨ !s.power.mainOn then s
  else
    let s := { s with power := { s.power with mainOn := false, mainOut := true, mainOutSince := s.clocks.cycle } }
    mainFault true s

/-- MAIN_POWER_REMOVAL. -/
def execMainPowerRemoval (s : State) : Host.Outcome State Fault Refusal := done s (mainRemoved s)

/-! ### Temperatures and the power limit (R400, R401, R407; Table 19.6) -/

/-- A sensor reads `c` °C: a limit is a machine check, a warning crossing sends its EMCY once and clears 5 °C below
(R407). `key` numbers the sensor, `unit` the island or harbour. -/
def judgeTemp (key unit : Nat) (limit : Int) (s : State) (c : Int) : State :=
  let warm := s.power.warm.contains key
  let rest := s.power.warm.filter (· != key)
  let s := if c ≤ 90 then { s with power := { s.power with warm := rest } }
    else if 95 ≤ c then { s with power := { s.power with warm := key :: rest } } else s
  let s := if 95 ≤ c ∧ !warm then s.emcy { code := 0x4210, unit := unit } else s
  if limit ≤ c ∧ s.mode ≠ .faulted then machineCheck s { code := 0x4310, unit := unit } else s

/-- The die sensors of islands and harbours (units of Table 12.12). -/
def judgeDie (s : State) (x : Nat × Int) : State :=
  let s := if 64 ≤ x.1 ∧ x.1 < 80 then s.setReg Reg.harbTempC (x.1 - 64) (toCode 8 x.2) else s
  if x.1 < 80 then judgeTemp x.1 x.1 110 s x.2 else s

/-- The sensors of the stacks, by harbour. -/
def judgeStack (s : State) (x : Nat × Int) : State :=
  if x.1 < 16 then judgeTemp (80 + x.1) (harbourUnit x.1) 105 (s.setReg Reg.hbmTempC x.1 (toCode 8 x.2)) x.2 else s

/-- While the published draw exceeds PWR_LIMIT_W harbour groups are throttled, also from a write of a lower limit on (R401). -/
def judgeLimit (s : State) (w : Nat) : State :=
  if s.reg Reg.pwrLimitW < w then { s with power := { s.power with throttled := true } } else s

/-- The power limit: harbour groups are throttled from a publication above PWR_LIMIT_W to one at 95 % of it (R401). -/
def judgePower (s : State) (w : Nat) : State :=
  let lim := s.reg Reg.pwrLimitW
  let t := if lim < w then true else if 100 * w ≤ 95 * lim then false else s.power.throttled
  { s with power := { s.power with throttled := t } }

/-- What the sensors of a publication show and bring about (R400 to R407). -/
def readSensors (s : State) (x : Sensors) : State :=
  let s := ((s.setReg Reg.pwrTotalW 0 x.totalW).setReg Reg.pwrMainMv 0 x.mainMv).setReg Reg.pwrAuxMv 0 x.auxMv
  let s := x.domainW.foldl (fun (s : State) e => if e.1 < 128 then s.setReg Reg.pwrDomainW e.1 e.2 else s) s
  let s := x.stackC.foldl judgeStack (x.islandC.foldl judgeDie (judgePower s x.totalW))
  judgeAux (judgeMain s x.mainMv) x.auxMv

end Sys2Proof.Machine
end

