-- ==== Sys2Proof/Machine/SelfTest.lean ====
section
/-! DEFINITION. Scrubs of harbour stores, targeted self-tests, the clear of the fault log, BIST and the test port (R371 to
R375, R382 to R387, R409). -/

namespace Sys2Proof.Machine

/-! ### HARBOUR_SCRUB (R372; Table 17.1) -/

/-- The format descriptor of word `i` of a share: its shoals lie in ascending order, W words for each lane (R172). -/
def shareFormat (ps : List ShoalPlan) (h : Nat) (i : Nat) : Nat :=
  match ps with
  | [] => 0
  | p :: rest =>
    let n := p.width * (p.lanes.filter fun l => l.1 / 64 = h).length
    if i < n then p.format else shareFormat rest h (i - n)

/-- The shoals that feed a forging in the active image, ascending. -/
def feedingShoals (s : State) (f : Nat) : List ShoalPlan :=
  let ps := (s.images.active.map ImagePlan.shoals).getD []
  (List.range 256).filterMap fun k => ps.find? fun p => p.shoal = k ∧ p.forgings.contains f

/-- Word `i` of a share becomes the invalid code in every element; four words make a token (R60). -/
def spoilWord (ps : List ShoalPlan) (h : Nat) (x : Share) (i : Nat) : Share :=
  { x with words := listSet x.words i (invalidPart (shareFormat ps h i) (i % 4)) }

/-- Word `i` of a tank, counted along its shares, is lost (Table 17.1). -/
def spoilTank (s : State) (h : Nat) : List Share → Nat → List Share
  | [], _ => []
  | x :: xs, i =>
    if i < x.words.length then spoilWord (feedingShoals s x.forging) h x i :: xs
    else x :: spoilTank s h xs (i - x.words.length)

/-- Word `i` of a staging buffer, four to a token, is lost. -/
def spoilStaged (s : State) (l : List Staged) (i : Nat) : List Staged :=
  listMod l (i / 4) fun x =>
    let desc := ((s.shoalPlan x.shoal).map ShoalPlan.format).getD 0
    let w := putField x.data.toNat (64 * (i % 4)) 64 (invalidPart desc (i % 4)).toNat
    { x with data := BitVec.ofNat 256 w }

/-- An uncorrectable word of a harbour store (Table 17.1). Stores 0 to 2 name the engine line; 3 and 4 a word counted along
the buffer; 5 an entry counted along the decoupling queues (notes/assumptions/30.md). -/
def loseSram (s : State) (h : Nat) (e : SramError) : State :=
  match e.store with
  | 3 =>
    let t := s.tank h
    s.setTank h { t with queued := spoilTank s h t.queued e.line }
  | 4 =>
    let t := s.tank h
    s.setTank h { t with staging := spoilStaged s t.staging e.line }
  | 5 =>
    s.modHarbour h fun x =>
      { x with dqs := tabMod [] x.dqs (e.line / 512) fun l => listMod l (e.line % 512) fun i => { i with poisoned := true } }
  | _ => s.setPoison e.line true

/-- A harbour scrub reads a word: an error it finds is handled as any read's (R372). -/
def scrubs (s : State) (h : Nat) (e : Option SramError) : State :=
  match e with
  | none => s
  | some e =>
    if s.flag Reg.fltScrubEnable then
      let t := if e.lost then loseSram s h e else s
      detect t (sramUnit h e.store e.line) e.lost e.line (if e.lost then 0xFF61 else 0)
    else s

/-- HARBOUR_SCRUB. -/
def execHarbourScrub (h : Nat) (e : Option SramError) (s : State) : Host.Outcome State Fault Refusal :=
  onUnit (s.hasHarbour h && (match e with | some x => x.store < 6 | none => true)) s (scrubs s h e)

/-! ### Targeted self-tests (R373 to R375) -/

/-- The pending or running test of a unit. -/
def testOf (s : State) (u : FaultUnit) : Option Test := s.faults.tests.find? fun t => t.unit = u

/-- The context of a K register (Table 17.2, kind 6). -/
def kContext (u : FaultUnit) : Nat := field u.loc 12 4

/-- Does a context's routine use a unit: its own K register, or a line of a range that its command names (R252). -/
def routineUses (s : State) (u : FaultUnit) (k : Nat) : Bool :=
  let h := u.unit - 64
  let c := (s.harbour h).ctx k
  let line := if u.kind = 3 then stackLine h (u.loc / 65536) else u.loc / 65536
  let inRange : Nat × Nat → Bool := fun r => decide (r.1 / 64 ≤ line) && decide (64 * line < r.1 + r.2)
  let ranges := (((s.harbour h).runningAt c.engine c.queue).map fun r => cmdRanges r.cmd).getD []
  c.state != 0 && (
    if u.kind = 6 then k == kContext u
    else decide (k < 8) && (u.kind == 3 || (u.kind == 2 && decide (u.loc % 65536 / 4096 < 3))) && ranges.any inRange)

/-- The contexts whose routines use a unit of a harbour. -/
def usersOf (s : State) (u : FaultUnit) : List Nat :=
  if 64 ≤ u.unit then (List.range 10).filter (routineUses s u) else []

/-- A test that starts claims its unit: the routines that use it are interrupted; past their commit point it waits for them
(R252, R373). -/
def claimUnit (s : State) (u : FaultUnit) : State :=
  if (usersOf s u).any fun k => ((s.harbour (u.unit - 64)).ctx k).commit then s
  else (usersOf s u).foldl (fun s k => interrupt s (u.unit - 64) k u) (startTests s fun t => t.unit == u)

/-- The routines that a claimed unit interrupted restart at its release; by R376 the unit is still in service (R252). -/
def releaseUnit (s : State) (u : FaultUnit) : State :=
  (List.range 10).foldl (fun s k =>
    if ((s.harbour (u.unit - 64)).ctx k).awaits = some u then restart s (u.unit - 64) k else s) s

/-- A pending test starts in the next slot that its kind may use (R373; Table 17.2). -/
def testStarts (s : State) (u : FaultUnit) : State :=
  match testOf s u with
  | some t => if t.running then s else claimUnit s u
  | none => s

/-- TEST_START. -/
def execTestStart (x : FaultUnit) (s : State) : Host.Outcome State Fault Refusal := done s (testStarts s x)

/-- A test of kind 2, 3 or 6 that has found no free cycle for 1 ms takes the next one; in lockstep the access that it
displaces shows as a stall (R374). -/
def testForced (s : State) (u : FaultUnit) : State :=
  match testOf s u with
  | some t =>
    if t.running || !(u.kind = 2 || u.kind = 3 || u.kind = 6) then s
    else
      let s := claimUnit (s.runTo (t.since + 1600000)) u
      let h := u.unit - 64
      if s.lockstep h && s.mode.flows then stallFor s h 1 else s
  | none => s

/-- TEST_FORCED_START. -/
def execTestForcedStart (x : FaultUnit) (s : State) : Host.Outcome State Fault Refusal := done s (testForced s x)

/-- A running test ends and its error is classed; a lane's test fails at 16 errors or more (R373, R375). -/
def testEnds (s : State) (u : FaultUnit) (fails : Bool) : State :=
  match testOf s u with
  | some t =>
    if t.running then
      let bad := if u.kind = 4 then decide (16 ≤ t.errors) else fails
      let s := { s with faults := { s.faults with tests := s.faults.tests.filter fun x => x.unit != u } }
      let s := classify s u bad t.since t.detail
      if 64 ≤ u.unit then releaseUnit s u else s
    else s
  | none => s

/-- TEST_COMPLETE. -/
def execTestComplete (x : FaultUnit) (fails : Bool) (s : State) : Host.Outcome State Fault Refusal := done s (testEnds s x fails)

/-! ### FLT_LOG_CLEAR (R382, R383) -/

/-- A write of 1 empties the log, clears 0x1001 bits [7:1] outside FAULTED, and sends EMCY 0x0000. -/
def logClear (s : State) : State :=
  let s := { s with faults := { s.faults with log := [] } }
  let s := if s.mode = .faulted then s else s.setReg Reg.errorRegister 0 0
  s.emcy { code := 0 }

/-! ### BIST (R384 to R386) -/

/-- Planes of forgings with a tile on an island (R384). -/
def planesWithTile (s : State) (i : Nat) : List PlaneId :=
  allPlanes.filter fun x =>
    match (s.plane x.1 x.2).plan with
    | some p => p.tiles.any fun t => t.tile.island = i
    | none => false

/-- May a BIST of a kind start on a unit (R384). -/
def bistAllowed (s : State) (u kind : Nat) : Bool :=
  s.reg Reg.bistState == 0 && (
    if 64 ≤ u then s.mode == .held && s.domainOn u && s.hasHarbour (u - 64)
    else if s.hasIsland u then
      s.mode.online && s.domainOn u
        && (planesWithTile s u).all fun x => s.planeState x.1 x.2 == 0 || s.planeState x.1 x.2 == 6
    else s.mode.online && kind == 1)

/-- The unit that a BIST claims of a harbour. -/
def bistUnit (u : Nat) : FaultUnit := { kind := 0, unit := u, loc := 0 }

/-- A BIST starts on a unit; on a harbour its routine runs in context 9, under one of the opcodes 0xF8 to 0xFF, and interrupts
those in PRE (R248, R251, R252, R385). -/
def bistStarts (s : State) (u kind : Nat) : State :=
  let s := (s.setReg Reg.bistState 0 1).setReg Reg.bistResult u 1
  let s := { s with faults := { s.faults with bist := some (u, kind) } }
  if 64 ≤ u then
    let h := u - 64
    let s := (List.range 9).foldl (fun s k => interrupt s h k (bistUnit u)) s
    let x := s.fresh 3
    dispatch x.2 h 9 (0xF8 + x.1.toNat) 11 0 0
  else s

/-- A write of BIST_START: the status code, and the state after it. -/
def bistStartWrite (v : Nat) (s : State) : Nat × State :=
  let u := v % 256
  let kind := v / 256
  if 80 ≤ u ∨ kind = 0 then (scValue, s)
  else if u < 64 ∧ !s.hasIsland u ∧ kind ≠ 1 then (scValue, s)
  else if bistAllowed s u kind then (scOk, bistStarts s u kind)
  else (scState, s)

/-- What a BIST leaves of its unit: memories of 0 and EMPTY planes; the stack is not touched (R385). -/
def bistClears (s : State) (u : Nat) : State :=
  if 64 ≤ u then
    let h := u - 64
    let s := wipeSpace (wipeSpace s 1 h) 2 h
    let s := s.setHarbour h { Harbour.empty with
      timing := (s.harbour h).timing, ctxs := (s.harbour h).ctxs.filter fun c => c.1 == 8 }
    { s with tanks := tabDel s.tanks h }
  else if s.hasIsland u then wipeIsland ((planesWithTile s u).foldl emptyPlane s) u
  else s

/-- A log record for a failing row of an island, with SPARE where the failure lies in column 16 (R386; Table 17.6). -/
def bistRow (u : Nat) (s : State) (r : Nat × Bool) : State :=
  s.log { unit := u, kind := 1, loc := r.1 % 16 * 256 + ofBool r.2 * 128 }

/-- The signatures of a BIST are compared with those of the ROM: the result, the signatures, and for a failure the rows of an
island and the EMCY (R386). -/
def judgeBist (rom : Nat) (s : State) (u kind : Nat) (logic memory : BitVec 64) (rows : List (Nat × Bool)) : State :=
  let fabric := decide (u < 64) && !s.hasIsland u
  let badLogic := bit kind 0 && logic != Config.bistSignature rom fabric (decide (64 ≤ u)) false
  let badMemory := bit kind 1 && memory != Config.bistSignature rom fabric (decide (64 ≤ u)) true
  let s := if bit kind 0 then s.setReg Reg.bistMisrLogic u logic.toNat else s
  let s := if bit kind 1 then s.setReg Reg.bistMisrMemory u memory.toNat else s
  let r := if badLogic && badMemory then 5 else if badLogic then 3 else if badMemory then 4 else 2
  let s := s.setReg Reg.bistResult u r
  if badLogic || badMemory then
    (if u < 64 then rows.foldl (bistRow u) s else s).emcy { code := 0xFFA0, unit := u }
  else s

/-- A BIST retires its routine; a load routine that it interrupted restarts (R250, R252). -/
def bistRetires (s : State) (u : Nat) : State :=
  if 64 ≤ u then
    let s := s.count Reg.seqRoutines (u - 64) 64
    releaseUnit s (bistUnit u)
  else s

/-- The BIST that ran ends, on a harbour not before the routines that were past their commit point (R252, R385, R386). -/
def bistEnds (s : State) (logic memory : BitVec 64) (rows : List (Nat × Bool)) : State :=
  match s.faults.bist with
  | none => s
  | some (u, kind) =>
    if 64 ≤ u ∧ bistWaits s (u - 64) then s
    else
      let t := (bistClears { s with faults := { s.faults with bist := none } } u).setReg Reg.bistState 0 0
      bistRetires (judgeBist (s.reg Reg.seqRomId) t u kind logic memory rows) u

/-- BIST_COMPLETE. -/
def execBistComplete (logic memory : BitVec 64) (rows : List (Nat × Bool)) (s : State) : Host.Outcome State Fault Refusal :=
  done s (bistEnds s logic memory rows)

/-! ### The test port (R409) -/

/-- The wafer TAP answers in every state with power (R333, R409). -/
def tapAnswers (s : State) (bits v : Nat) : State := if s.mode = .off then s else s.emit (.jtag bits v)

/-- JTAG_IDCODE: the TAP shows its 32-bit identification code, whose value the manual does not give (R409). -/
def execJtagIdcode (s : State) : Host.Outcome State Fault Refusal := done s (tapAnswers s 32 Config.idcode.toNat)

/-- JTAG_BYPASS: one bit passes (R409). -/
def execJtagBypass (tdi : Bool) (s : State) : Host.Outcome State Fault Refusal := done s (tapAnswers s 1 (ofBool tdi))

end Sys2Proof.Machine
end

