-- ==== Sys2Proof/Machine/Boot.lean ====
section
/-! DEFINITION. BOOT: the steps of Table 15.5, the checks of the patch container and of the equalization table, and the
events of the hearth and REFCLK (R27, R73, R203, R207, R257 to R259, R267, R341, R342, R387, R404, R409). -/

namespace Sys2Proof.Machine

/-! ### The patch container (R257 to R259) -/

/-- Distinct elements. -/
def distinct (l : List Nat) : Bool := l.Nodup

/-- Micro-word `i` of a patch keeps its target and nano index in range, with zero bits 0 (R246, R258). -/
def microOk (i : Nat) (x : Nat) : Bool :=
  let w := BitVec.ofNat 24 x
  let f := microField w
  decide (x < 2 ^ 24) && decide (microNano w < 448) && (match microSeq w with
    | 2 => f / 128 == 0
    | 3 => let t := (i : Int) + signed 7 (f % 128); decide (0 ≤ t) && decide (t < 128)
    | 5 => f == 0
    | 6 => f % 128 == 0
    | 7 => f == 0
    | _ => true)

/-- A match register has its zero bits 0 (R249). -/
def matchOk (x : Nat) : Bool := field x 18 13 == 0

/-- The plaintext as patch RAM and match registers, with their parity (R255, R257). -/
def patchOf (pt : List Byte) : Patch :=
  let micro := (List.range 128).map fun i => leAt pt (4 * i) 4
  let nano := (List.range 64).map fun i => leAt pt (512 + 18 * i) 18
  let regs := (List.range 16).map fun i => leAt pt (1664 + 4 * i) 4
  { micro := micro.map (BitVec.ofNat 24), nano := nano.map (BitVec.ofNat 144), match' := regs.map (BitVec.ofNat 32)
    microParity := micro.map fun x => BitVec.ofNat 3 (parityOf 3 x)
    nanoParity := nano.map fun x => BitVec.ofNat 18 (parityOf 18 x)
    matchParity := regs.map fun x => BitVec.ofNat 4 (parityOf 4 x) }

/-- The content rules of step 7 (R258). -/
def patchContentOk (stepping : Nat) (pt : List Byte) : Bool :=
  let micro := (List.range 128).map fun i => leAt pt (4 * i) 4
  let regs := (List.range 16).map fun i => leAt pt (1664 + 4 * i) 4
  let on := regs.filter fun x => bit x 31
  pt.length == 1728 && micro.zipIdx.all (fun x => microOk x.2 x.1)
    && (List.range 64).all (fun i => leAt pt (512 + 18 * i) 5 == 0) && regs.all matchOk
    && distinct (on.map fun x => field x 7 11)
    && on.all fun x => !Config.romCommits stepping (field x 7 11) || bit (listGet 0 micro (x % 128)) 20

/-- Step 1 of Table 11.7. -/
def patchFormatOk (c : List Byte) : Bool :=
  c.length == 1904 && leAt c 0 4 == 0x42504C57 && leAt c 4 2 == 1 && leAt c 6 2 == 0 && leAt c 17 3 == 0
    && leAt c 32 4 == 1728 && leAt c 36 28 == 0

/-- The first check of Table 11.7 that a harbour's own fuses let the container fail, 0 when all pass. -/
def patchReason (stepping floor : Nat) (c : List Byte) (h : Nat) : Nat :=
  let key := leAt c 16 1
  if !patchFormatOk c then 1
  else if 4 ≤ key ∨ Config.patchRevoked h key then 3
  else if !Config.patchSigned h key (sha384 (slice c 0 1808)) (slice c 1808 96) then 2
  else if leAt c 8 4 ≠ stepping then 5
  else if leAt c 12 4 < floor then 4
  else if !Config.patchTagged h c then 6
  else if patchContentOk stepping (Config.patchPlaintext c) then 0
  else 7

/-- The enabled harbours run from ROM: each that failed records its reason, the others PEER, and one EMCY is sent (R259;
notes/assumptions/45.md). -/
def patchFails (s : State) (rs : List (Nat × Nat)) : State :=
  let s := rs.foldl (fun (s : State) r => s.setReg Reg.seqPatchReason r.1 (if r.2 = 0 then 8 else r.2)) s
  (s.setReg Reg.seqPatchState 0 2).emcy { code := 0xFF13, detail := (((rs.map Prod.snd).find? (· != 0)).getD 0) }

/-- Step 5: the stored container is applied when it passes every check on every enabled harbour, or all run from ROM (R258,
R259). -/
def bootPatch (s : State) : State :=
  let c := s.flash.patch
  let floor := s.carrier.patchFloor
  let s := (s.setReg Reg.seqRomId 0 s.carrier.stepping).setReg Reg.seqPatchFloor 0 floor
  let s := { s with patch := Patch.none }
  if c.isEmpty then s
  else
    let rs := s.harbourList.map fun h => (h, patchReason s.carrier.stepping floor c h)
    if rs.all fun r => r.2 == 0 then
      let level := leAt c 12 4
      let s := ((s.setReg Reg.seqPatchState 0 1).setReg Reg.seqPatchLevel 0 level).setReg Reg.seqPatchFloor 0 level
      let s := { s with
        patch := patchOf (Config.patchPlaintext c)
        carrier := { s.carrier with patchFloor := level } }
      s.setDomain Reg.seqPatchHash 0 (sha384 c)
    else patchFails s rs

/-! ### The equalization table (R73; Table 3.8) -/

/-- An entry as direction, lane and rate, none where a zero bit or the rate is not as Table 3.8 states. -/
def eqEntry (x : Nat) : Option (Bool × Nat × Nat) :=
  let rate := field x 61 2
  let tx := bit x 63
  if rate = 3 ∨ field x 48 3 ≠ 0 then none
  else if tx then (if field x 59 2 = 0 ∧ field x 0 28 = 0 then some (true, field x 51 8, rate) else none)
  else if field x 0 24 = 0 then some (false, field x 51 10, rate)
  else none

/-- Every entry that the grade needs: direction, lane and rate. -/
def eqNeeded (s : State) : List (Bool × Nat × Nat) :=
  s.harbourList.flatMap fun h =>
    ((List.range 64).flatMap fun l => (List.range 3).map fun r => (false, 64 * h + l, r))
    ++ (List.range 16).flatMap fun l => (List.range 3).map fun r => (true, 16 * h + l, r)

/-- The entries of a table. -/
def eqEntries (t : List Byte) : List (Option (Bool × Nat × Nat)) :=
  (List.range (leAt t 6 2)).map fun k => eqEntry (leAt t (16 + 8 * k) 8)

/-- Virrin takes the table: header, revision, CRC-32C, and one entry per direction, lane of the grade and rate (R73). -/
def eqTableOk (s : State) (t : List Byte) : Bool :=
  let es := eqEntries t
  leAt t 0 4 == 0x50455131 && leAt t 4 2 == s.carrier.revision && leAt t 8 4 == 0 && t.length == 16 + 8 * leAt t 6 2
    && leAt t 12 4 == crc32c (t.drop 16) && es.all Option.isSome && es.length == (eqNeeded s).length
    && (eqNeeded s).all fun x => es.contains (some x)

/-! ### Objects that BOOT loads (R267, R283, Tables 12.6, 12.7, 13.4) -/

/-- The decimal digits of a number, as characters. -/
def decimalGo : Nat → Nat → List Byte
  | 0, _ => []
  | fuel + 1, n => (if n < 10 then [] else decimalGo fuel (n / 10)) ++ [BitVec.ofNat 8 (48 + n % 10)]

def decimal (n : Nat) : List Byte := decimalGo 10 n

/-- Characters of a name. -/
def ascii (cs : List Nat) : List Byte := cs.map (BitVec.ofNat 8)

/-- ID_PRODUCT: "PLY-W64", "PLY-W48" or "PLY-W32". -/
def productName (grade : Nat) : List Byte :=
  ascii ([0x50, 0x4C, 0x59, 0x2D, 0x57] ++ (match grade with | 0 => [0x36, 0x34] | 1 => [0x34, 0x38] | _ => [0x33, 0x32]))

/-- The identity objects, from carrier and fuses. -/
def identityObjects (s : State) : State :=
  let c := s.carrier
  let s := (((s.setDomain Reg.idProduct 0 (productName c.grade)).setDomain Reg.deviceName 0 (productName c.grade)).setDomain
    Reg.hardwareVersion 0 (decimal c.stepping)).setDomain Reg.softwareVersion 0 (decimal c.virrin)
  let s := ((s.setDomain Reg.idSerial 0 (c.serial.take 16)).putReg Reg.idGrade 0 c.grade).putReg Reg.idStepping 0 c.stepping
  let s := (s.putReg Reg.idCarrierRev 0 c.revision).putReg Reg.idVirrinVersion 0 c.virrin
  let s := (s.setReg (Reg.identity.at 0) 0 0xC7A).setReg (Reg.identity.at 1) 0 (Config.identityWord 2).toNat
  (s.setReg (Reg.identity.at 2) 0 c.productRevision).setReg (Reg.identity.at 3) 0 (Config.identityWord 4).toNat

/-- Defaults that follow the node-ID (Tables 12.6, 13.4). -/
def nodeObjects (s : State) : State :=
  let n := s.links.node
  let s := s.setReg Reg.cobEmcy 0 (0x80 + n)
  (List.range 4).foldl (fun (s : State) k =>
    (s.setReg Reg.tpdoCob k (0x80000180 + 0x100 * k + n)).setReg Reg.rpdoCob k (0x80000200 + 0x100 * k + n)) s

/-- The CAN controller starts with the stored node-ID and data rate, or the carrier's node-ID and code 2 (R292). -/
def canBoots (s : State) : State :=
  let node := s.flash.nodeId.getD s.carrier.nodeId
  let rate := s.flash.dataRate.getD 2
  let s := (s.setReg Reg.canNodeId 0 node).setReg Reg.canDataRate 0 rate
  { s with links := { s.links with node := node, rate := rate } }

/-- Every object takes its default on entry to BOOT, the persistent ones their stored value (R267). -/
def bootDefaults (s : State) : State :=
  let s := { s with
    regs := s.regs.filter fun e => e.1 / 256 ≥ 0x4001 && e.1 / 256 < 0x4081 && (e.1 % 256 == 1 || e.1 % 256 == 2)
    domains := [], actions := [], swaps := [], periods := []
    servo := Servo.free, shoals := [], xseq := [], xlanes := []
    lanes := tabMap (fun _ l => { Lane.down with signal := l.signal }) s.lanes }
  let s := { s with
    tiles := [], lines := [], remaps := [], planes := [], quenches := [], tanks := [], harbours := [], patch := Patch.none
    images := Images.none, links := Links.none, silush := Silush.off, faults := Faults.none
    beat := BeatCount.off, run := Run.none, act := Activation.none }
  let s := { s with
    power := { s.power with warm := [], throttled := false, mainOut := false, auxOut := false }
    clocks := { s.clocks with inc := nominalInc, marks := [] } }
  let s := if s.flash.patch.isEmpty then s else s.setDomain Reg.seqPatchBlob 0 s.flash.patch
  nodeObjects (canBoots (s.putReg Reg.bistAtBoot 0 s.flash.bistAtBoot))

/-- The bytes of spaces 1 and 2 read 0 after BOOT (R208, R211). -/
def clearArrays (s : State) : State := clearMem s (mkAddr 1 0 0) (mkAddr 3 0 0)

/-- BOOT is entered with a reason; nothing of what ran before is left (R267, R336, R341). -/
def enterBoot (s : State) (reason : Nat) : State :=
  let s := clearArrays (identityObjects (bootDefaults s))
  publishFirst ((s.setReg Reg.idState 0 1).setReg Reg.idStateReason 0 reason)

/-! ### The steps of Table 15.5 (R342) -/

/-- The dictionary is published from now on, every 1,600 cycles (R270). -/
def startPublications (s : State) : State :=
  publishFirst { s with clocks := { s.clocks with nextPub := s.clocks.cycle + 1600 } }

/-- A step fails: FAULTED with reason BOOT_FAULT, and the EMCY of the cause (R342, R383). -/
def bootFails (s : State) (code step : Nat) : State := startPublications (machineCheck s { code := code, detail := step })

/-- Step 2: the domains that the grade enables take TRUE and are ON, or are found FAILED (R399, R404). -/
def bootPower (s : State) (failed : List Nat) : State :=
  let on := (List.range 128).filter s.hasDomain
  let s := on.foldl (fun (s : State) d => (s.setReg Reg.pwrDomainOn d 1).setDomainState d (if failed.contains d then pdFailed else pdOn)) s
  (on.filter failed.contains).foldl (fun (s : State) d => s.emcy { code := 0xFF70, unit := domainUnit d, detail := d }) s

/-- Units that BIST_AT_BOOT tests: enabled islands and harbours, and the crossbar of every fabric-only island (R387). -/
def bootUnits (s : State) : List Nat := List.range 64 ++ s.harbourList.map harbourUnit

/-- The BIST of a unit at BOOT, of both kinds where it has memories: the signatures that the inputs give for it, else those of
the ROM (R386, R387; notes/assumptions/31.md). -/
def bootBistUnit (found : List BistFound) (s : State) (u : Nat) : State :=
  let rom := s.carrier.stepping
  let fabric := decide (u < 64) && !s.hasIsland u
  let right (memory : Bool) : BitVec 64 := Config.bistSignature rom fabric (decide (64 ≤ u)) memory
  let kind := if fabric then 1 else 3
  match found.find? fun x => x.unit = u with
  | some x => judgeBist rom s u kind x.logic x.memory x.rows
  | none => judgeBist rom s u kind (right false) (right true) []

/-- Step 6: every powered stack is initialized (R207). -/
def bootStacks (s : State) (failed : List Nat) : State :=
  s.harbourList.foldl (fun (s : State) h => if s.domainOn (80 + h) then stackInit (!failed.contains h) s h else s) s

/-- Step 7: the equalization table and the carrier's values; SHOAL_STAMP_UNC takes at least its minimum of 320 (R40, R63, R73,
R81). -/
def bootCarrier (s : State) : State :=
  let c := s.carrier
  let lanes := (List.range 1024).filter s.hasLane
  let shoals := (List.range 256).filter fun k => s.hasHarbour (k / 16)
  let s := s.setDomain Reg.laneEqTable 0 c.eqTable
  let s := lanes.foldl (fun (s : State) l => s.putReg Reg.laneStampOffset l (listGet 0 c.stampOffsets l)) s
  let s := shoals.foldl (fun (s : State) k => s.putReg Reg.shoalStampUnc k (max 320 (listGet 0 c.stampUncs k))) s
  let s := (s.putReg Reg.ptpRxLat 0 c.ptpRxLat).putReg Reg.ptpTxLat 0 c.ptpTxLat
  let s := (s.putReg Reg.ethMac 0 c.mac0).putReg Reg.ethMac 1 c.mac1
  c.remapFactory.foldl (fun (s : State) x => s.setDomain Reg.islRemapFactory x.1 (slice x.2 0 16)) s

/-- Step 8: HELD, with the boot-up message and Silush in HUNT (R294, R331). -/
def bootDone (s : State) : State := startPublications ((silHunt s).enter .held 3)

/-- Steps 6 to 8. -/
def bootFromStacks (s : State) (b : BootInputs) : State :=
  let s := bootStacks s b.failedStacks
  if s.harbourList.any fun h => s.reg Reg.hbmState h == 2 then bootFails s 0xFF11 6
  else if !eqTableOk s s.carrier.eqTable then bootFails s 0xFF12 7
  else bootDone (bootCarrier s)

/-- Steps 4 to 8. -/
def bootFromBist (s : State) (b : BootInputs) : State :=
  if s.flag Reg.bistAtBoot then
    let s := (bootUnits s).foldl (bootBistUnit b.failedBist) s
    if (bootUnits s).any fun u => 3 ≤ s.reg Reg.bistResult u then bootFails s 0xFF11 4 else bootFromStacks (bootPatch s) b
  else bootFromStacks (bootPatch s) b

/-- Steps 3 to 8: without lock Virrin waits in BOOT, for at most 2 ms (R27). -/
def bootFromHearth (s : State) (b : BootInputs) : State :=
  let s := { s with clocks := { s.clocks with refclk := b.refclk, hearth := b.refclk && b.hearthLocks } }
  if !b.refclk then bootFails s 0xFF10 3
  else if !b.hearthLocks then s
  else bootFromBist (s.setReg Reg.hearthState 0 1) b

/-- The 48 V input appears: Virrin reads the carrier flash and runs the steps. With TEST_EN at ground the engine stays in
BOOT after step 1; without 380 V, step 2 fails (R342, R404, R409). -/
def powersUp (s : State) (b : BootInputs) : State :=
  if s.mode ≠ .off then s
  else
    let floor := max s.carrier.patchFloor b.carrier.patchFloor
    let p : Power := { Power.off with aux := true, mainOn := b.mainPresent, testEn := b.testEn }
    let s := enterBoot { s with carrier := { b.carrier with patchFloor := floor }, power := p } 1
    if b.testEn then s
    else if !b.mainPresent then bootFails s 0xFF11 2
    else bootFromHearth (bootPower s b.failedDomains) b

/-- POWER_UP. -/
def execPowerUp (b : BootInputs) (s : State) : Host.Outcome State Fault Refusal := done s (powersUp s b)

/-! ### RESET (R341) -/

/-- PWR_DOMAIN_ON states each domain as it stands (R267, R341). -/
def restateDomains (s : State) : State :=
  (List.range 128).foldl (fun (s : State) d =>
    let st := s.domainState d
    s.putReg Reg.pwrDomainOn d (ofBool (st == pdOn || st == pdRamping))) s

/-- Virrin repairs the rows of PERSISTENT HBM lines at the next BOOT, and logs each repair (R203, R376; Table 17.3). -/
def logRepairs (cs : List UnitClass) (s : State) : State :=
  (cs.filter fun c => c.persistent && c.unit.kind == 3).foldl (fun (s : State) c =>
    s.log { unit := c.unit.unit, cls := 3, kind := 3, loc := locField s c.unit, detail := c.unit.loc / 65536 }) s

/-- RESET is accepted: BOOT at once, then steps 3 to 8 with the power domains as they are. A BIST that ran shows ABORTED
(R341, R386). -/
def resets (s : State) (b : BootInputs) : State :=
  let cs := s.faults.classes
  let tested := s.faults.bist
  let s := logRepairs cs (enterBoot (restateDomains s) 2)
  let s := match tested with | some (u, _) => s.setReg Reg.bistResult u 6 | none => s
  bootFromHearth s b

/-- RESET as a command: accepted in HELD, ARMED, RUNNING, STOPPED and FAULTED (Table 15.3). -/
def resetCommand (b : BootInputs) (s : State) : Nat × State :=
  if s.mode.online || s.mode == .faulted then (scOk, resets s b) else (scState, s)

/-! ### Hearth and REFCLK (R27) -/

/-- HEARTH_LOCK_TIMEOUT: 2 ms have passed in BOOT without lock. -/
def hearthTimesOut (s : State) : State :=
  if s.mode = .boot ∧ !s.power.testEn ∧ !s.clocks.hearth then bootFails s 0xFF10 3 else s

/-- HEARTH_LOCK_TIMEOUT. -/
def execHearthLockTimeout (s : State) : Host.Outcome State Fault Refusal := done s (hearthTimesOut s)

/-- The hearth has lost lock. -/
def hearthLost (s : State) : State :=
  if s.mode = .off ∨ !s.clocks.hearth then s
  else machineCheck ({ s with clocks := { s.clocks with hearth := false } }.setReg Reg.hearthState 0 0) { code := 0xFF10 }

/-- HEARTH_UNLOCK. -/
def execHearthUnlock (s : State) : Host.Outcome State Fault Refusal := done s (hearthLost s)

/-- REFCLK has been absent for more than 10 µs. -/
def refclkLost (s : State) : State :=
  if s.mode = .off ∨ !s.clocks.refclk then s
  else machineCheck { s with clocks := { s.clocks with refclk := false } } { code := 0xFF10 }

/-- REFCLK_ABSENT. -/
def execRefclkAbsent (s : State) : Host.Outcome State Fault Refusal := done s (refclkLost s)

end Sys2Proof.Machine
end

