-- ==== Sys2Proof/Machine/Commands.lean ====
section
/-! DEFINITION. Images as they are committed, activation, and the commands that move the engine between its states
(R30, R335 to R341, R343 to R350, R366; Tables 15.3 to 15.8). -/

namespace Sys2Proof.Machine

/-! ### The frame of an image (R343, R344; Tables 15.6, 15.7) -/

/-- A directory entry: type, forging, offset, length, and whether its zero fields are 0. -/
structure Section where
  kind : Nat
  forging : Nat
  off : Nat
  len : Nat
  zero : Bool
  deriving DecidableEq, Repr

/-- Entry `k` of an image's directory. -/
def sectionAt (bs : List Byte) (k : Nat) : Section :=
  let e := slice bs (64 + 32 * k) 32
  { kind := leAt e 0 2, forging := leAt e 2 1, off := leAt e 8 8, len := leAt e 16 8,
    zero := leAt e 3 1 == 0 && leAt e 4 4 == 0 && leAt e 24 8 == 0 }

/-- The directory of an image. -/
def sectionsOf (bs : List Byte) : List Section := (List.range (leAt bs 20 4)).map (sectionAt bs)

/-- The scope of a section type: true for the whole image, none for a type that Table 15.7 does not list. -/
def sectionScope (kind : Nat) : Option Bool :=
  if kind = 3 ∨ kind = 9 ∨ kind = 11 then some true
  else if 1 ≤ kind ∧ kind ≤ 10 then some false
  else none

/-- Sections of a type for a forging, or for the whole image. -/
def sectionCount (ss : List Section) (kind forging : Nat) : Nat := (ss.filter fun x => x.kind = kind ∧ x.forging = forging).length

/-- The sections that R344 asks of an image with a forging mask. -/
def sectionsOk (ss : List Section) (mask : Nat) : Bool :=
  ss.all (fun x => match sectionScope x.kind with
    | some true => x.forging == 0xFF
    | some false => decide (x.forging < 16) && bit mask x.forging
    | none => false)
    && (List.range 16).all (fun f => !bit mask f
      || ([1, 2, 4, 5, 6, 8, 10].all fun k => sectionCount ss k f == 1) && decide (sectionCount ss 7 f ≤ 1))
    && sectionCount ss 3 0xFF == 1 && sectionCount ss 9 0xFF == 1 && decide (sectionCount ss 11 0xFF ≤ 1)

/-- Two entries share a byte. -/
def sectionsMeet (a b : Section) : Bool := decide (a.off < b.off + b.len) && decide (b.off < a.off + a.len)

/-- No two entries of a directory overlap. -/
def sectionsApart : List Section → Bool
  | [] => true
  | x :: xs => xs.all (fun y => !sectionsMeet x y) && sectionsApart xs

/-- The key index of an image. -/
def imageKey (bs : List Byte) : Nat := leAt bs (bs.length - 112) 1

/-- The FORMAT check (Table 15.8 code 1). -/
def imageFormatOk (shadow : Bool) (bs : List Byte) : Bool :=
  let n := bs.length
  let count := leAt bs 20 4
  let head := decide (256 ≤ n) && decide (n ≤ 1073741824) && leAt bs 0 4 == 0x4D494C50 && leAt bs 4 2 == 1
    && leAt bs 6 2 / 4 == 0 && (slice bs 9 7).all (· == 0#8) && leAt bs 18 2 == 0 && (slice bs 36 28).all (· == 0#8)
    && leAt bs 24 8 == n && decide (1 ≤ count) && decide (count ≤ 4096) && decide (64 + 32 * count + 160 ≤ n)
  head && (slice bs (n - 111) 15).all (· == 0#8)
    && (imageKey bs != 0xFF || (slice bs (n - 96) 96).all (· == 0#8))
    && (sectionsOf bs).all (fun x => x.zero && decide (64 + 32 * count ≤ x.off) && decide (x.off + x.len ≤ n - 160))
    && sectionsApart (sectionsOf bs) && sectionsOk (sectionsOf bs) (leAt bs 16 2) && bit (leAt bs 6 2) 1 == shadow

/-- The SIGNATURE check (Table 15.8 code 3). -/
def imageSignatureOk (s : State) (bs : List Byte) : Bool :=
  let n := bs.length
  let key := imageKey bs
  if key = 0xFF then !s.flag Reg.imgRequireSig
  else decide (key < 4) && !Config.keyRevoked key
    && Config.signatureValid key (sha384 (slice bs 0 (n - 112))) (slice bs (n - 96) 96)

/-- The first commit check of Table 15.8 that fails, 0 when all pass. -/
def imageReason (shadow : Bool) (s : State) (bs : List Byte) : Nat :=
  let n := bs.length
  if !imageFormatOk shadow bs then 1
  else if sha384 (slice bs 0 (n - 160)) ≠ slice bs (n - 160) 48 then 2
  else if !imageSignatureOk s bs then 3
  else if leAt bs 8 1 ≠ s.carrier.grade then 4
  else 0

/-- The raw SHOALS, PARTITIONS and FERRIES sections, which a shadow load compares (R352). -/
def imageFrame (bs : List Byte) : List (List Byte) :=
  [3, 9, 11].map fun k => (((sectionsOf bs).find? fun x => x.kind = k).map fun x => slice bs x.off x.len).getD []

/-- A committed content of IMG_DOMAIN or IMG_SHADOW becomes current (R346, R347, R351). -/
def imageTaken (shadow : Bool) (s : State) (bs : List Byte) : State :=
  let hash := slice bs (bs.length - 160) 48
  if shadow then
    let s := ((s.setDomain Reg.imgShadow 0 bs).setReg Reg.imgShadowState 0 1).setReg Reg.imgReason 0 0
    { s with images := { s.images with shadow := Config.tlaleReading bs, shadowHash := hash, shadowFrame := imageFrame bs } }
  else
    let s := ((s.setDomain Reg.imgDomain 0 bs).setReg Reg.imgState 0 1).setReg Reg.imgReason 0 0
    let s := s.setReg Reg.imgSigned 0 (ofBool (imageKey bs != 0xFF))
    { s with images := { s.images with main := Config.tlaleReading bs, mainHash := hash } }

/-- The commit of an image: a failing check leaves its code in IMG_REASON and keeps the previous content (R346). -/
def imageCommit (shadow : Bool) (s : State) (bs : List Byte) : Nat × State :=
  match imageReason shadow s bs with
  | 0 => (scOk, imageTaken shadow s bs)
  | r => (scValue, s.setReg Reg.imgReason 0 r)

/-! ### Activation (R348, R349) -/

/-- The activation checks on acceptance, 0 when all pass; under SILUSH those that depend on the beat period wait for the slot 0
pair and are judged here at the longest period. -/
def activationReason (s : State) : Nat :=
  match s.images.main with
  | none => 5
  | some i =>
    let period := if s.reg Reg.beatSource = 1 then s.reg Reg.beatPeriod else 65535
    if !resourceOk s period i then 5
    else if !powerOk s i.forgings (harboursUsed i) then 6
    else 0

/-- The count that an activation uses under LOCAL: it begins in the cycle of acceptance (R348 step 3). -/
def localCount (s : State) : BeatCount :=
  let n := BitVec.ofNat 48 (s.reg Reg.beatStart)
  { on := true, n := n, at' := s.clocks.cycle, period := s.reg Reg.beatPeriod, since := 0, past := [(n, s.clocks.cycle)], fresh := false }

/-- The activation goes on: loading under LOCAL, waiting for a slot 0 pair under SILUSH (R348 steps 3 and 4). -/
def activationLoads (s : State) : State :=
  match s.images.main with
  | none => s
  | some i =>
    let s := { s with images := { s.images with activeFrame := imageFrame (s.domain Reg.imgDomain) } }
    if s.reg Reg.beatSource = 1 ∧ storePoisoned s false then storeFails s
    else if s.reg Reg.beatSource = 1 then
      let s := { s with beat := localCount s, act := { Activation.none with phase := 2 } }
      i.forgings.foldl (fun (s : State) p => startLoad s i s.images.mainHash false false p.forging) s
    else { s with act := { Activation.none with phase := 1 } }

/-- ACTIVATE is accepted: IMG_STATE is ACTIVATING, and a check that fails ends the activation at once (R348, R349). -/
def activates (s : State) : State :=
  match activationReason s with
  | 0 => activationLoads (s.setReg Reg.imgState 0 2)
  | r => endActivation s 7 r

/-- ACTIVATE (Table 15.3). -/
def activateCommand (s : State) : Nat × State :=
  if s.mode == .held && s.reg Reg.imgState == 1 && s.act.phase == 0 then (scOk, activates s) else (scState, s)

/-- No slot 0 pair has arrived within 1 ms of ACTIVATE (Table 15.8 code 7). -/
def noBeat (s : State) : State := if s.mode = .held ∧ s.act.phase = 1 then endActivation s 7 7 else s

/-- NO_BEAT_TIMEOUT. -/
def execNoBeatTimeout (s : State) : Host.Outcome State Fault Refusal := done s (noBeat s)

/-! ### START, STOP, HOLD, REARM (R337 to R339, R349) -/

/-- START: beat c + 1 is the first with verdicts. -/
def startCommand (s : State) : Nat × State :=
  if s.mode == .armed || s.mode == .stopped then
    (scOk, { s with run := { s.run with startAt := some (s.beat.n + 1#48) } })
  else (scState, s)

/-- STOP: beat c + 1 is the first without verdicts. -/
def stopCommand (s : State) : Nat × State :=
  if s.mode == .running then (scOk, { s with run := { s.run with stopCmd := some (s.beat.n + 1#48) } }) else (scState, s)

/-- HOLD in HELD ends an activation with reason COMMAND; a load in progress completes first (R349). -/
def cancelActivation (s : State) : State :=
  if s.act.phase = 2 then { s with act := { s.act with cancelled := true } }
  else endActivation s 4 (s.reg Reg.imgReason)

/-- HOLD. -/
def holdCommand (s : State) : Nat × State :=
  let next := some (s.beat.n + 1#48)
  match s.mode with
  | .held => if s.act.phase = 0 then (scState, s) else (scOk, cancelActivation s)
  | .armed => (scOk, { s with run := { s.run with holdAt := next } })
  | .running => (scOk, { s with run := { s.run with stopCmd := next, holdAt := next } })
  | .stopped => (scOk, { s with run := { s.run with drain := 1 } })
  | _ => (scState, s)

/-- REARM. -/
def rearmCommand (s : State) : Nat × State :=
  if s.mode == .stopped then (scOk, { s with run := { s.run with drain := 2 } }) else (scState, s)

/-- What BOOT meets at a RESET that a transport commands: the carrier, the inputs and REFCLK as they stand; the hearth locks
when REFCLK is there, and stacks and BIST pass (notes/assumptions/32.md). -/
def standingInputs (s : State) : BootInputs :=
  { carrier := s.carrier, testEn := s.power.testEn, mainPresent := s.power.mainOn, refclk := s.clocks.refclk,
    hearthLocks := s.clocks.refclk, failedDomains := [], failedStacks := [], failedBist := [] }

/-- A code of Table 15.3: the status code, and the state after it (R335). -/
def idCommand (code : Nat) (s : State) : Nat × State :=
  match code with
  | 1 => activateCommand s
  | 2 => startCommand s
  | 3 => stopCommand s
  | 4 => holdCommand s
  | 5 => rearmCommand s
  | 6 => resetCommand (standingInputs s) s
  | _ => (scValue, s)

end Sys2Proof.Machine
end

