-- ==== Sys2Proof/Machine/Dict.lean ====
section
/-! DEFINITION. The object dictionary seen from outside: which objects are present, what a read returns, and snapshots
(R155, R174, R191, R261 to R265, R268 to R276, R279, R290, R295, R365). -/

namespace Sys2Proof.Machine

/-! ### Status codes (Table 12.3) -/

def scCrc : Nat := 0x05040004
def scWriteOnly : Nat := 0x06010001
def scReadOnly : Nat := 0x06010002
def scNoIndex : Nat := 0x06020000
def scNoSub : Nat := 0x06090011
def scHeld : Nat := 0x08000020
def scExpired : Nat := 0x0A000001
def scSession : Nat := 0x0A000002
def scIncomplete : Nat := 0x0A000003

/-! ### Presence (R261, R262) -/

/-- Does an index lie in `[base, base + n)`. -/
def indexIn (index base n : Nat) : Bool := decide (base ≤ index) && decide (index < base + n)

/-- The unit that an index formula names is enabled by the grade. -/
def unitPresent (s : State) (index : Nat) : Bool :=
  if indexIn index 0x2800 1024 then s.hasLane (index - 0x2800)
  else if indexIn index 0x2C00 256 then s.hasHarbour ((index - 0x2C00) / 16)
  else if indexIn index 0x2D00 256 then s.hasXlane (index - 0x2D00)
  else if indexIn index 0x3000 64 then s.hasIsland (index - 0x3000)
  else if indexIn index 0x3040 16 then s.hasHarbour (index - 0x3040)
  else if indexIn index 0x3231 16 then s.hasHarbour (index - 0x3231)
  else if indexIn index 0x3401 16 then s.hasHarbour (index - 0x3401)
  else if indexIn index 0x3411 128 then s.hasHarbour ((index - 0x3411) / 8) && decide ((index - 0x3411) % 8 < 5)
  else if indexIn index 0x3801 16 then s.hasHarbour (index - 0x3801)
  else if indexIn index 0x3811 16 then s.hasHarbour (index - 0x3811)
  else if indexIn index 0x3821 32 then s.hasHarbour ((index - 0x3821) / 2)
  else if indexIn index 0x3A01 16 then s.hasHarbour (index - 0x3A01)
  else if indexIn index 0x3E41 16 then s.hasHarbour (index - 0x3E41)
  else true

/-- What an index and subindex name. -/
inductive Found where
  | absent (code : Nat)
  /-- subindex 0x00 of an index with subindices: the highest subindex -/
  | count (highest : Nat)
  | object (r : ObjRow)
  deriving DecidableEq, Repr

/-- The object at an index and subindex. -/
def findObject (s : State) (index sub : Nat) : Found :=
  if !indexDefined index || !unitPresent s index then .absent scNoIndex
  else
    match findRow index sub with
    | some r => .object r
    | none => if sub = 0 then .count (highestSub index) else .absent scNoSub

/-! ### Values -/

/-- The objects that strict mode makes read 0 (R174, R191). -/
def strictZero (r : Reg) : Bool := r == Reg.qnLateAccept || r == Reg.engQueueMode

/-- A value read live (R270). -/
def liveValue (s : State) (r : Reg) : Nat :=
  if r = Reg.timeNow then packTime s.now else if r = Reg.beatNumber then s.beat.n.toNat else s.detStep

/-- Is an index one of the hazard detector, whose objects read 0 in an image built without debug (R155). -/
def hazardMuted (s : State) (index : Nat) : Bool :=
  indexIn index 0x4400 2 && tabGet 0 s.pub (Reg.hazPresent.key 0) == 0

/-- The number that a register shows: the published copy of an ro value, the present value of any other. -/
def shownValue (s : State) (r : ObjRow) (index sub : Nat) : Nat :=
  let key := index * 256 + sub
  match r.access with
  | .live => liveValue s r.reg
  | .ro => if hazardMuted s index then 0 else tabGet r.reg.dflt s.pub key
  | _ => if s.strict && strictZero r.reg then 0 else tabGet r.reg.dflt s.regs key

/-- The token counters of a harbour as ENG_TOKENS holds them (R178). -/
def tokenBytes (x : Harbour) : List Byte := (List.range 64).flatMap fun k => leBytes 2 ((tabGet 0#16 x.tokens k).toNat)

/-- The content that a DOMAIN or string shows. A DOMAIN of fixed size that nothing has written reads 0. -/
def shownContent (s : State) (r : ObjRow) (index sub : Nat) : List Byte :=
  let key := index * 256 + sub
  let n := index - r.reg.base
  let bs :=
    if r.reg = Reg.islRemap0 then s.remapWritten n false
    else if r.reg = Reg.islRemap1 then s.remapWritten n true
    else if r.reg = Reg.engTokens then tokenBytes (s.harbour n)
    else if r.reg = Reg.imgShadow ∧ s.replaying then []
    else if hazardMuted s index then []
    else tabGet [] (if r.access = .ro then s.pubDomains else s.domains) key
  match r.type with
  | .domain max true => if bs.isEmpty then zeros max else bs
  | _ => bs

/-- The bytes of an object's value, least significant first (R263). -/
def shownBytes (s : State) (r : ObjRow) (index sub : Nat) : List Byte :=
  match r.type with
  | .domain _ _ => shownContent s r index sub
  | .visible _ => shownContent s r index sub
  | t => leBytes t.bytes (shownValue s r index sub)

/-- Is a row a DOMAIN. -/
def ObjRow.isDomain (r : ObjRow) : Bool := match r.type with | .domain _ _ => true | _ => false

/-- Whether BOOT lets an access through: reads of 0x2000 and 0x2001 on the UART (R265). -/
def bootReads (via : Via) (index : Nat) : Bool := via == .uart && indexIn index 0x2000 2

/-- The state check of a read (R265). -/
def readState (s : State) (via : Via) (index : Nat) : Nat := if s.mode = .boot ∧ !bootReads via index then scState else scOk

/-- One value: status code and bytes. What BOOT does not let through is refused before anything else (R264, R265). -/
def readOne (s : State) (via : Via) (index sub : Nat) : Nat × List Byte :=
  if readState s via index ≠ scOk then (readState s via index, [])
  else
    match findObject s index sub with
    | .absent c => (c, [])
    | .count m => (scOk, leBytes 1 m)
    | .object r => if r.access = .wo then (scWriteOnly, []) else (scOk, shownBytes s r index sub)

/-- What a subindex adds to a whole-index upload: its value, zeros where it is wo, nothing where it is absent or a DOMAIN
(notes/assumptions/33.md). -/
def wholePart (s : State) (via : Via) (index sub : Nat) : List Byte :=
  match findObject s index sub with
  | .object r => if r.isDomain then [] else if r.access = .wo then zeros r.type.bytes else (readOne s via index sub).2
  | _ => (readOne s via index sub).2

/-- A whole index, subindices 0x00 to the highest in order (R295). -/
def readWhole (s : State) (via : Via) (index : Nat) : Nat × List Byte :=
  if readState s via index ≠ scOk then (readState s via index, [])
  else if findObject s index 0 = .absent scNoIndex then (scNoIndex, [])
  else (scOk, (List.range (highestSub index + 1)).flatMap (wholePart s via index))

/-- A read item: subindex 0xFF names the whole index. -/
def readItem (s : State) (via : Via) (index sub : Nat) : Nat × List Byte :=
  if sub = 0xFF then readWhole s via index else readOne s via index sub

/-- The harbour whose completion ring a key names. -/
def completionsAt (index sub : Nat) : Option Nat :=
  if indexIn index 0x3401 16 ∧ sub = Reg.engCompletions.sub then some (index - 0x3401) else none

/-- The records that a byte string holds. -/
def recordsIn (bs : List Byte) : List (BitVec 128) := (List.range (bs.length / 16)).map fun k => BitVec.ofNat 128 (leAt bs (16 * k) 16)

/-- The records that a read of ENG_COMPLETIONS delivered leave the ring (R279). -/
def takeCompletions (s : State) (h : Nat) (bs : List Byte) : State :=
  s.modHarbour h fun x => { x with completions := (recordsIn bs).foldl (fun l r => l.erase r) x.completions }

/-- GUARD of TIME_STATE_FLAGS is cleared by a read that shows it (Table 2.9). -/
def clearGuard (s : State) : State :=
  let k := Reg.timeStateFlags.key 0
  if tabGet 0 s.pub k = 0 then s
  else { (s.setReg Reg.timeStateFlags 0 0) with pub := tabSet s.pub k 0 }

/-- Is the object at an index and subindex a DOMAIN. -/
def namesDomain (s : State) (index sub : Nat) : Bool :=
  match findObject s index sub with
  | .object r => r.isDomain
  | _ => false

/-- What the delivery of a whole value does to what was read. -/
def afterRead (s : State) (index sub : Nat) (bs : List Byte) : State :=
  if index = 0x2200 ∧ (sub = Reg.timeStateFlags.sub ∨ sub = 0xFF) then clearGuard s
  else
    match completionsAt index sub with
    | some h => takeCompletions s h bs
    | none => s

/-! ### Snapshots and read sessions (R272 to R276, R279) -/

/-- Core cycles of a millisecond. -/
def msCycles : Nat := 1600000

/-- A snapshot that is less than 1 ms old and has not been ended (R272). -/
def Snapshot.live (x : Snapshot) (now : Nat) : Bool := !x.dead && decide (now < x.opened + msCycles)

def State.modLinks (s : State) (f : Links → Links) : State := { s with links := f s.links }

/-- The snapshot, or the read session of a DOMAIN, that a transport session holds of a value. -/
def snapshotOf (s : State) (via : Via) (key : Nat) : Option Snapshot := s.links.snapshots.find? fun x => x.via = via ∧ x.key = key

/-- Without the snapshot of a value. -/
def dropSnapshot (s : State) (via : Via) (key : Nat) : State :=
  s.modLinks fun l => { l with snapshots := l.snapshots.filter fun x => !(x.via == via && x.key == key) }

/-- Does a held value count toward the four snapshots of a session: every one but a DOMAIN that the host writes, which is read
as committed (R276, R279). -/
def Snapshot.counts (x : Snapshot) (now : Nat) : Bool :=
  if x.isDomain then publishedKey x.key else x.live now

/-- A fifth snapshot ends the oldest of its session (R276). -/
def endOldest (s : State) (via : Via) : State :=
  let now := s.clocks.cycle
  let held := s.links.snapshots.filter fun x => x.via = via && x.counts now
  if held.length < 4 then s
  else
    match held with
    | [] => s
    | y :: _ => s.modLinks fun l => { l with snapshots := l.snapshots.filterMap fun x =>
        if x.via = via ∧ x.key = y.key then (if x.isDomain then none else some { x with dead := true }) else some x }

/-- A snapshot taken now (R272). -/
def takeSnapshot (s : State) (via : Via) (key : Nat) (bs : List Byte) (isDomain : Bool) : State :=
  let s := dropSnapshot s via key
  let s := if isDomain && !publishedKey key then s else endOldest s via
  s.modLinks fun l => { l with snapshots := l.snapshots ++ [{
    via := via, key := key, bytes := bs, parts := [], opened := s.clocks.cycle, touched := s.clocks.cycle, isDomain := isDomain,
    dead := false }] }

/-- A part of a snapshot has been delivered. -/
def markPart (s : State) (via : Via) (key part : Nat) : State :=
  s.modLinks fun l => { l with snapshots := l.snapshots.map fun x =>
    if x.via = via ∧ x.key = key then { x with parts := part :: x.parts, touched := s.clocks.cycle } else x }

/-- SNAPSHOT_EXPIRY: 1 ms has passed since the first fragment (R272). -/
def snapshotExpires (s : State) (via : Via) (key : Nat) : State :=
  match s.links.snapshots.find? fun x => x.via = via ∧ x.key = key ∧ !x.isDomain ∧ !x.dead with
  | none => s
  | some x =>
    (s.runTo (x.opened + msCycles)).modLinks fun l => { l with snapshots := l.snapshots.map fun y =>
      if y.via = via ∧ y.key = key ∧ !y.isDomain then { y with dead := true } else y }

/-- SNAPSHOT_EXPIRY. -/
def execSnapshotExpiry (via : Via) (key : Nat) (s : State) : Host.Outcome State Fault Refusal :=
  done s (snapshotExpires s via key)

/-- Core cycles of ID_OD_DOMAIN_IDLE. -/
def idleCycles (s : State) : Nat := s.reg Reg.odDomainIdle * msCycles

/-- A DOMAIN read session has been idle for ID_OD_DOMAIN_IDLE (R279). -/
def readIdles (s : State) (via : Via) (key : Nat) : State :=
  match s.links.snapshots.find? fun x => x.via = via ∧ x.key = key ∧ x.isDomain with
  | none => s
  | some x => dropSnapshot (s.runTo (x.touched + idleCycles s)) via key

/-- DOMAIN_READ_IDLE. -/
def execDomainReadIdle (via : Via) (key : Nat) (s : State) : Host.Outcome State Fault Refusal :=
  done s (readIdles s via key)

/-- The open read session of a DOMAIN, unless it has been idle too long. -/
def openRead (s : State) (via : Via) (key : Nat) : Option Snapshot :=
  (snapshotOf s via key).filter fun x => x.isDomain && decide (s.clocks.cycle < x.touched + idleCycles s)

/-- The read session of a DOMAIN ends with its last fragment (R279). -/
def endRead (s : State) (via : Via) (index sub : Nat) (bs : List Byte) : State :=
  afterRead (dropSnapshot s via (index * 256 + sub)) index sub bs

/-- Every open read session of an object ends at a commit to it (R279). -/
def endReadsOf (s : State) (key : Nat) : State :=
  s.modLinks fun l => { l with snapshots := l.snapshots.filter fun x => !(x.isDomain && x.key == key) }

end Sys2Proof.Machine
end

