-- ==== Sys2Proof/Machine/Writes.lean ====
section
/-! DEFINITION. Writes of the object dictionary: the checks in their order, the effect that the owning rule of each object
gives a write, and DOMAIN write sessions (R46, R66, R77, R103, R112, R155, R159, R178, R180, R185, R207, R208, R257,
R263 to R267, R277, R278, R280, R292, R297, R329, R335, R348, R351, R362, R382, R384, R394). -/

namespace Sys2Proof.Machine

/-! ### Values (R263, R266, R34) -/

/-- A value keeps what its object's row allows. -/
def Check.ok (c : Check) (r : ObjRow) (v : Nat) : Bool :=
  match c with
  | .any => true
  | .range lo hi => decide (lo ≤ v) && decide (v ≤ hi)
  | .mask m => v &&& m == v
  | .multiple k lo hi => v % k == 0 && decide (lo ≤ v) && decide (v ≤ hi)
  | .time => decide ((unpackTime v).ns < 1000000000)
  | .prbs => decide (v % 128 ≤ 4)
  | .inject => decide (v < 8) && v % 4 != 3
  | .pdoType => (decide (v ≤ 240) && (v != 0 || r.reg == Reg.rpdoType)) || v == 254 || v == 255

/-! ### State and access of a write (R264 to R266, R348) -/

/-- The two objects that FAULTED lets be written. -/
def faultedWrites (r : Reg) : Bool := r == Reg.idCommand || r == Reg.fltLogClear

/-- The access right, then the state, of a write; 0 where both allow it. -/
def writeState (s : State) (r : ObjRow) : Nat :=
  match r.access with
  | .const => scReadOnly
  | .ro => scReadOnly
  | .live => scReadOnly
  | .rwHeld => if s.mode = .held ∧ s.act.phase = 0 then scOk else scState
  | _ => if s.mode.online ∨ (s.mode = .faulted ∧ faultedWrites r.reg) then scOk else scState

/-! ### PDO mapping (R297, Table 13.3) -/

/-- May an object be mapped: in a transmit PDO, or in a receive PDO. -/
def mappable (tx : Bool) (index sub : Nat) : Bool :=
  if tx then
    [(0x1001, 0), (0x2001, 1), (0x2001, 4), (0x2200, 1), (0x2200, 0x0A), (0x2201, 0), (0x2401, 4), (0x4200, 3), (0x3100, 1),
     (0x3200, 4), (0x2300, 4), (0x2300, 9), (0x4000, 1), (0x3C00, 3), (0x3C00, 4), (0x3C00, 5)].contains (index, sub)
      || (indexIn index 0x3211 16 && decide (1 ≤ sub) && decide (sub ≤ 0x1B))
  else
    [(0x2001, 2), (0x2300, 5), (0x3C00, 8)].contains (index, sub) || (indexIn index 0x2210 16 && decide (1 ≤ sub) && decide (sub ≤ 6))

/-- A mapping entry as index, subindex and length in bits. -/
def mapEntry (x : Nat) : Nat × Nat × Nat := (field x 16 16, field x 8 8, field x 0 8)

/-- A mapping entry names a mappable object with its own length. -/
def entryOk (tx : Bool) (x : Nat) : Bool :=
  let (index, sub, bits) := mapEntry x
  mappable tx index sub && (match findRow index sub with | some r => bits == 8 * r.type.bytes | none => false)

/-- The entries of a PDO's mapping. -/
def mapEntries (s : State) (tx : Bool) (k count : Nat) : List Nat :=
  (List.range count).map fun i => s.reg ((if tx then Reg.tpdoMap else Reg.rpdoMap).at i) k

/-- A count that makes a mapping valid: every entry mappable, at most 64 bytes in all. -/
def mappingOk (s : State) (tx : Bool) (k count : Nat) : Bool :=
  let es := mapEntries s tx k count
  es.all (entryOk tx) && decide ((es.map fun x => (mapEntry x).2.2).sum ≤ 512)

/-! ### Effects of single objects -/

/-- A window table may be written: in HELD, or while it is neither selected nor still to judge a beat (R159). -/
def windowFree (s : State) (f t : Nat) : Bool :=
  s.mode == .held || (s.reg Reg.qnWinTable f != t && (s.quench f).toIssue.all fun n => tableOf s f n != t)

/-- A write of CACHE_HOLD_DIRECT_MIB: dirty lines are written back, the cache region starts empty, and the direct region reads
0 (R208; notes/assumptions/34.md). -/
def directWrite (s : State) (h v : Nat) : State :=
  let dirty := ((s.harbour h).hold.filter Prod.snd).length
  let s := (s.count Reg.cacheHoldWritebacks h 64 dirty).modHarbour h fun x => { x with hold := [] }
  (wipeSpace s 1 h).setReg Reg.cacheHoldDirectMib h v

/-- A stored object, with what Virrin keeps of it in carrier flash (R267, R292). -/
def persist (s : State) (r : Reg) (v : Nat) : State :=
  if r = Reg.canNodeId then { s with flash := { s.flash with nodeId := some v } }
  else if r = Reg.canDataRate then { s with flash := { s.flash with dataRate := some v } }
  else if r = Reg.bistAtBoot then { s with flash := { s.flash with bistAtBoot := v } }
  else s

/-- Objects whose value follows other state than their register. -/
def afterStore (s : State) (r : Reg) (n old v : Nat) : State :=
  if r = Reg.beatPeriod then { s with beat := { s.beat with period := v } }
  else if r = Reg.ptpEnable then (if v = 0 then servoOff s else s)
  else if r = Reg.silEnable then silEnabled s old
  else if r = Reg.laneEnable ∨ r = Reg.laneRate ∨ r = Reg.laneFec ∨ r = Reg.laneRole then laneWritten s n r.sub old v
  else if r = Reg.laneInjectMode then injectFrom s false n s.clocks.cycle
  else if r = Reg.xlaneInjectMode then injectFrom s true n s.clocks.cycle
  else if r = Reg.pwrLimitW then judgeLimit s (tabGet 0 s.pub (Reg.pwrTotalW.key 0))
  else if r = Reg.heartbeatTime then { s with links := { s.links with heartbeatAt := s.clocks.cycle + v * msCycles } }
  else persist s r v

/-- A write is refused for the value or the state that its own rule names, before it is stored; 0 for none. -/
def storeRefusal (s : State) (r : Reg) (n k v : Nat) : Nat :=
  if r = Reg.actKind ∨ r = Reg.actMode ∨ r = Reg.actTime ∨ r = Reg.actBeat ∨ r = Reg.actArg then
    (if s.reg Reg.actStatus n = 1 then scState else scOk)
  else if r = Reg.qnWinOpen ∨ r = Reg.qnWinClose ∨ r = Reg.qnWinCtrl then (if windowFree s n (k / 8) then scOk else scState)
  else if r = Reg.hbmTiming then
    (if stackDefault s n k ≤ v ∧ v ≤ 2 * stackDefault s n k then scOk else scValue)
  else if r = Reg.laneInjectMode ∨ r = Reg.xlaneInjectMode then (if v ≠ 0 ∧ s.strictRun then scState else scOk)
  else if r = Reg.tpdoMap then (if s.reg Reg.tpdoMapCount n = 0 then scOk else scState)
  else if r = Reg.rpdoMap then (if s.reg Reg.rpdoMapCount n = 0 then scOk else scState)
  else if r = Reg.tpdoMapCount then (if mappingOk s true n v then scOk else scValue)
  else if r = Reg.rpdoMapCount then (if mappingOk s false n v then scOk else scValue)
  else scOk

/-- Is the register a field of an action slot, subindex 01 to 05. -/
def actField (r : Reg) : Bool := r.base == Reg.actKind.base && decide (r.sub ≤ 5)

/-- A write that stores its value in the object. -/
def storeWrite' (s : State) (r : Reg) (n k v : Nat) : Nat × State :=
  match storeRefusal s r n k v with
  | 0 =>
    let old := s.reg (r.at k) n
    let s := afterStore (s.setReg (r.at k) n v) r n old v
    (scOk, if actField r then actFieldWritten n s else s)
  | c => (c, s)

/-- The effect of a write that has passed every other check: the status code, and the state after it. `b` is what BOOT meets
where the write is a RESET. -/
def ownerWrite (b : BootInputs) (r : Reg) (n k v : Nat) (s : State) : Nat × State :=
  if r = Reg.idCommand then (if v = 6 then resetCommand b s else idCommand v s)
  else if r = Reg.actCommit then actCommitWrite n v s
  else if r = Reg.silReenable then (scOk, silReenabled s)
  else if r = Reg.laneInjectFire then (scOk, if v = 1 then injectFired s false n else s)
  else if r = Reg.xlaneInjectFire then (scOk, if v = 1 then injectFired s true n else s)
  else if r = Reg.forgeSound then forgeSoundWrite n v s
  else if r = Reg.imgShadowLoad then shadowLoadWrite v s
  else if r = Reg.engResume then (scOk, resumeQueue s (n / 8) (n % 8) v)
  else if r = Reg.cacheHoldDirectMib then (scOk, directWrite s n v)
  else if r = Reg.fltLogClear then (scOk, logClear s)
  else if r = Reg.bistStart then bistStartWrite v s
  else if r = Reg.pwrDomainOn then domainOnWrite n v s
  else if r = Reg.hazClear then (scOk, hazClearWrite v s)
  else storeWrite' s r n k v

/-! ### DOMAINs that the host writes -/

/-- A length that a DOMAIN takes (R263, R277). -/
def domainLengthOk (r : ObjRow) (n : Nat) : Bool :=
  match r.type with
  | .domain max fixed => if fixed then n == max else decide (n ≤ max)
  | _ => false

/-- The state in which a DOMAIN cannot be opened for writing, beyond its access right (R351, R365). -/
def openRefusal (s : State) (r : Reg) : Nat :=
  if r = Reg.imgShadow ∧ (s.replaying ∨ s.reg Reg.imgShadowState = 2) then scState else scOk

/-- A remap byte as Table 4.7 allows it. -/
def remapByteOk (b : Byte) : Bool :=
  let x := b.toNat
  !bit x 5 && (if bit x 7 then !bit x 6 && decide (x % 32 ≤ 15) else x % 32 == 0)

/-- A write of a remap table of plane `q` (R111, R112). -/
def remapWrite (s : State) (r : Reg) (i : Nat) (q : Bool) (bs : List Byte) : Nat × State :=
  if (planesWithTile s i).any fun x => x.2 == q && decide (2 ≤ s.planeState x.1 q) && decide (s.planeState x.1 q ≤ 5) then (scState, s)
  else if bs.all remapByteOk then (scOk, s.setDomain r i bs)
  else (scValue, s)

/-- A tap entry as Table 16.6 lays it out. -/
def tapEntryOk (e : List Byte) : Bool :=
  let kind := leAt e 0 1
  decide (1 ≤ kind) && decide (kind ≤ 3) && decide (leAt e 1 1 < 16) && (kind == 1 || leAt e 3 1 == 0) && decide (leAt e 5 1 ≤ 16)
    && decide (leAt e 6 1 < 2) && leAt e 7 1 == 0

/-- DET_TAP_SELECT holds whole entries. -/
def tapSelectOk (bs : List Byte) : Bool :=
  bs.length % 8 == 0 && (List.range (bs.length / 8)).all fun k => tapEntryOk (slice bs (8 * k) 8)

/-- A submission: 1 to 64 commands, refused whole where a queue lacks room (R180). -/
def submitWrite (s : State) (h e : Nat) (bs : List Byte) : Nat × State :=
  if bs.isEmpty ∨ bs.length % 32 ≠ 0 then (scValue, s)
  else
    match submit s h e bs with
    | some t => (scOk, t)
    | none => (scState, s)

/-- The owning rule's content checks of a DOMAIN, and its new content (R278). -/
def domainTaken (s : State) (r : Reg) (n : Nat) (bs : List Byte) : Nat × State :=
  if r = Reg.imgDomain then imageCommit false s bs
  else if r = Reg.imgShadow then imageCommit true s bs
  else if r = Reg.islRemap0 then remapWrite s r n false bs
  else if r = Reg.islRemap1 then remapWrite s r n true bs
  else if r = Reg.engTokens then (scOk, setTokens s n bs)
  else if r = Reg.engSubmit then submitWrite s (n / 8) (n % 8) bs
  else if r = Reg.detTapSelect then (if tapSelectOk bs then (scOk, s.setDomain r n bs) else (scValue, s))
  else if r = Reg.seqPatchBlob then (scOk, { s.setDomain r n bs with flash := { s.flash with patch := bs } })
  else (scOk, s.setDomain r n bs)

/-- A write session that has not been idle for ID_OD_DOMAIN_IDLE (R278). -/
def WriteSession.alive (s : State) (x : WriteSession) : Bool := decide (s.clocks.cycle < x.touched + idleCycles s)

/-- Is an object held by a write session (R277). -/
def sessionHolds (s : State) (key : Nat) : Bool := s.links.writes.any fun x => x.key == key && x.alive s

/-- The checks of an open (R277): access right and state, length, what the owning rule adds, and other sessions. -/
def openCheck (s : State) (r : ObjRow) (key n : Nat) : Nat :=
  if writeState s r ≠ scOk then writeState s r
  else if !domainLengthOk r n then scLength
  else if openRefusal s r.reg ≠ scOk then openRefusal s r.reg
  else if sessionHolds s key then scHeld
  else scOk

/-! ### Single writes (R266) -/

/-- A refused write has no other effect than its count (R266). -/
def refuseWrite (s : State) (code : Nat) : Nat × State := (code, s.count Reg.odWritesRefused 0)

/-- A write counted where its owning rule refused it. -/
def countRefusal (x : Nat × State) : Nat × State := if x.1 = scOk then x else refuseWrite x.2 x.1

/-- A new content ends every open read of the object (R279). -/
def takeContent (s : State) (r : ObjRow) (index sub : Nat) (bs : List Byte) : Nat × State :=
  let x := domainTaken s r.reg (r.unit index) bs
  if x.1 = scOk then (scOk, endReadsOf x.2 (index * 256 + sub)) else refuseWrite x.2 x.1

/-- REGISTER_WRITE of a DOMAIN stands for the whole of a session: an open, its chunks and a commit whose CRC-32C is right
(notes/assumptions/35.md). -/
def domainWrite (s : State) (r : ObjRow) (index sub : Nat) (bs : List Byte) : Nat × State :=
  match openCheck s r (index * 256 + sub) bs.length with
  | 0 => takeContent s r index sub bs
  | c => refuseWrite s c

/-- A write of a number: length, value, then the owning rule. -/
def numberWrite (b : BootInputs) (s : State) (r : ObjRow) (index sub : Nat) (bs : List Byte) : Nat × State :=
  let v := leNat bs
  if writeState s r ≠ scOk then refuseWrite s (writeState s r)
  else if bs.length ≠ r.type.bytes then refuseWrite s scLength
  else if !r.check.ok r v then refuseWrite s scValue
  else countRefusal (ownerWrite b r.reg (r.unit index) (sub - r.reg.sub) v s)

/-- A write of an object, with every check in the order of R266. -/
def objectWrite (b : BootInputs) (index sub : Nat) (bs : List Byte) (s : State) : Nat × State :=
  match findObject s index sub with
  | .absent c => refuseWrite s c
  | .count _ => refuseWrite s scReadOnly
  | .object r => if r.isDomain then domainWrite s r index sub bs else numberWrite b s r index sub bs

/-- A write that carries a value and no CRC-32C: a DOMAIN has no open session that would take it, so once its access right, state
and length pass it is refused with SESSION (R277, R313; notes/assumptions/35.md). -/
def valueWrite (b : BootInputs) (index sub : Nat) (bs : List Byte) (s : State) : Nat × State :=
  match findObject s index sub with
  | .object r =>
    if r.isDomain then refuseWrite s (if openCheck s r (index * 256 + sub) bs.length = scOk then scSession
      else openCheck s r (index * 256 + sub) bs.length)
    else objectWrite b index sub bs s
  | _ => objectWrite b index sub bs s

/-- A write as the host makes it: its status code goes back. OFF, nothing answers (R265). -/
def hostWrites (b : BootInputs) (index sub : Nat) (bs : List Byte) (s : State) : State :=
  if s.mode = .off then s
  else
    let x := objectWrite b index sub bs s
    x.2.emit (.status x.1)

/-- A write with the inputs as they stand. -/
def hostWrite (index sub : Nat) (bs : List Byte) (s : State) : State := hostWrites (standingInputs s) index sub bs s

/-! ### DOMAIN write sessions (R277, R278, R280) -/

/-- USDO and the UART take DOMAINs of at most 4,096 bytes (R280). -/
def smallOnly : Via → Bool
  | .eth _ _ _ => false
  | _ => true

/-- Opens a session: the status code, the session's number, and the state. -/
def openWrite (via : Via) (index sub n : Nat) (crc : Option Nat) (s : State) : Nat × Nat × State :=
  let refuse (c : Nat) : Nat × Nat × State := let x := refuseWrite s c; (x.1, 0, x.2)
  match findObject s index sub with
  | .absent c => refuse c
  | .count _ => refuse scReadOnly
  | .object r =>
    let key := index * 256 + sub
    let code := if writeState s r = scOk ∧ (!r.isDomain ∨ (smallOnly via ∧ 4096 < n)) then scLength else openCheck s r key n
    if code = scOk then
      let id := s.links.nextSession
      let x : WriteSession := { id := id, via := via, key := key, size := n, crc := crc, chunks := [], touched := s.clocks.cycle }
      (scOk, id, s.modLinks fun l => { l with
        writes := (l.writes.filter fun y => y.key != key) ++ [x], nextSession := id % 65535 + 1 })
    else refuse code

/-- The session with a number that a transport session has open. -/
def sessionOf (s : State) (via : Via) (id : Nat) : Option WriteSession :=
  s.links.writes.find? fun x => x.id = id ∧ x.via = via ∧ x.alive s

/-- A session has ended. -/
def endWrite (s : State) (id : Nat) : State := s.modLinks fun l => { l with writes := l.writes.filter fun x => x.id != id }

/-- A chunk of an open session; one that lies outside [0, n) has no length the object takes. -/
def chunkWrite (via : Via) (id off : Nat) (bs : List Byte) (s : State) : Nat × State :=
  match sessionOf s via id with
  | none => (scSession, s)
  | some x =>
    if bs.isEmpty ∨ x.size < off + bs.length then (scLength, s)
    else (scOk, s.modLinks fun l => { l with writes := l.writes.map fun y =>
      if y.id = id then { y with chunks := y.chunks ++ [(off, bs)], touched := s.clocks.cycle } else y })

/-- How far the bytes from `e` on have come. -/
def coveredFrom (chunks : List (Nat × List Byte)) : Nat → Nat → Nat
  | 0, e => e
  | fuel + 1, e =>
    match chunks.find? fun x => x.1 ≤ e ∧ e < x.1 + x.2.length with
    | some x => coveredFrom chunks fuel (x.1 + x.2.length)
    | none => e

/-- Bytes with others laid over them at an offset. -/
def overlay (bs : List Byte) (off : Nat) (xs : List Byte) : List Byte := bs.take off ++ xs ++ bs.drop (off + xs.length)

/-- The content of a session whose chunks are all there; a later chunk overwrites an earlier one. -/
def assemble (x : WriteSession) : List Byte := x.chunks.foldl (fun bs c => overlay bs c.1 c.2) (zeros x.size)

/-- The checks of a commit before the owning rule's (R278). -/
def commitCheck (s : State) (x : WriteSession) (r : ObjRow) : Nat :=
  if coveredFrom x.chunks x.chunks.length 0 < x.size then scIncomplete
  else if x.crc ≠ some (crc32c (assemble x)) then scCrc
  else writeState s r

/-- The commit of a session: it ends, and the content replaces the old where every check passes. -/
def commitWrite (via : Via) (id : Nat) (s : State) : Nat × State :=
  match sessionOf s via id with
  | none => (scSession, s)
  | some x =>
    let s := endWrite s id
    match findRow (x.key / 256) (x.key % 256) with
    | none => refuseWrite s scNoIndex
    | some r =>
      match commitCheck s x r with
      | 0 => takeContent s r (x.key / 256) (x.key % 256) (assemble x)
      | c => refuseWrite s c

/-- A session is cancelled. -/
def cancelWrite (via : Via) (id : Nat) (s : State) : Nat × State :=
  match sessionOf s via id with
  | none => (scSession, s)
  | some _ => (scOk, endWrite s id)

/-- A write session of an object has been idle for ID_OD_DOMAIN_IDLE (R278). -/
def writeIdles (s : State) (key : Nat) : State :=
  match s.links.writes.find? fun x => x.key = key with
  | none => s
  | some x => endWrite (s.runTo (x.touched + idleCycles s)) x.id

/-- DOMAIN_SESSION_IDLE. -/
def execDomainSessionIdle (key : Nat) (s : State) : Host.Outcome State Fault Refusal := done s (writeIdles s key)

end Sys2Proof.Machine
end

