-- ==== Sys2Proof/Machine/WriteRows.lean ====
section
/-! DEFINITION. The commands that are writes of one object: each is the write of Sys2Proof/Machine/Writes.lean, with every
check of R266, and its status code goes back. -/

namespace Sys2Proof.Machine

/-- A write of an object of a unit that Table 0.4 numbers; where the grade does not enable the unit, the write is refused with
0x0602_0000 (R262). -/
def writeOn (numbered : Bool) (r : Reg) (n : Nat) (bs : List Byte) (s : State) : Host.Outcome State Fault Refusal :=
  onUnit numbered s (hostWrite (r.base + n) r.sub bs s)

/-- LANE_CONFIG_WRITE: subindices 01 to 04 of a receive lane (R66). -/
def execLaneConfigWrite (lane sub : Nat) (v : List Byte) (s : State) : Host.Outcome State Fault Refusal :=
  onUnit (decide (lane < 1024)) s (hostWrite (Reg.laneEnable.base + lane) sub v s)

/-- LANE_INJECT_FIRE (R77). -/
def execLaneInjectFire (tx : Bool) (lane : Nat) (v : List Byte) (s : State) : Host.Outcome State Fault Refusal :=
  writeOn (decide (lane < if tx then 256 else 1024)) (if tx then Reg.xlaneInjectFire else Reg.laneInjectFire) lane v s

/-- TIME_PTP_ENABLE (R41). -/
def execTimePtpEnable (v : List Byte) (s : State) : Host.Outcome State Fault Refusal := writeOn true Reg.ptpEnable 0 v s

/-- ACTION_COMMIT: a write of 1 (R48). -/
def execActionCommit (slot : Nat) (s : State) : Host.Outcome State Fault Refusal :=
  writeOn (decide (slot < 16)) Reg.actCommit slot [1#8] s

/-- ACTION_CANCEL: a write of 2 (R52). -/
def execActionCancel (slot : Nat) (s : State) : Host.Outcome State Fault Refusal :=
  writeOn (decide (slot < 16)) Reg.actCommit slot [2#8] s

/-- TIME_ACT_FIELD_WRITE: subindices 01 to 05 of a slot (R46). -/
def execTimeActFieldWrite (slot sub : Nat) (v : List Byte) (s : State) : Host.Outcome State Fault Refusal :=
  onUnit (decide (slot < 16)) s (hostWrite (Reg.actKind.base + slot) sub v s)

/-- DBG_HAZ_CLEAR (R155). -/
def execDbgHazClear (v : List Byte) (s : State) : Host.Outcome State Fault Refusal := writeOn true Reg.hazClear 0 v s

/-- IMG_SHADOW_LOAD (R352). -/
def execImgShadowLoad (v : List Byte) (s : State) : Host.Outcome State Fault Refusal := writeOn true Reg.imgShadowLoad 0 v s

/-- FORGE_SOUND_LOADED: a write of 1 (R102). -/
def execForgeSoundLoaded (forging : Nat) (s : State) : Host.Outcome State Fault Refusal :=
  writeOn (decide (forging < 16)) Reg.forgeSound forging [1#8] s

/-- FORGE_SOUND_REPRIME: a write of 2 (R102). -/
def execForgeSoundReprime (forging : Nat) (s : State) : Host.Outcome State Fault Refusal :=
  writeOn (decide (forging < 16)) Reg.forgeSound forging [2#8] s

/-- FORGE_SOUND_RELOAD: a write of 3 (R380). -/
def execForgeSoundReload (forging : Nat) (s : State) : Host.Outcome State Fault Refusal :=
  writeOn (decide (forging < 16)) Reg.forgeSound forging [3#8] s

/-- ENG_TOKENS (R178). -/
def execEngTokens (h : Nat) (v : List Byte) (s : State) : Host.Outcome State Fault Refusal :=
  writeOn (decide (h < 16)) Reg.engTokens h v s

/-- ENG_RESUME (R185). -/
def execEngResume (h e : Nat) (v : List Byte) (s : State) : Host.Outcome State Fault Refusal :=
  writeOn (decide (h < 16) && decide (e < 5)) Reg.engResume (8 * h + e) v s

/-- CACHE_HOLD_DIRECT_MIB (R208). -/
def execCacheHoldDirectMib (h : Nat) (v : List Byte) (s : State) : Host.Outcome State Fault Refusal :=
  writeOn (decide (h < 16)) Reg.cacheHoldDirectMib h v s

/-- SIL_REENABLE (R329). -/
def execSilReenable (v : List Byte) (s : State) : Host.Outcome State Fault Refusal := writeOn true Reg.silReenable 0 v s

/-- ACTIVATE: a write of 1 to ID_COMMAND (R348). -/
def execActivate (s : State) : Host.Outcome State Fault Refusal := writeOn true Reg.idCommand 0 [1#8] s

/-- START: a write of 2 (R337). -/
def execStart (s : State) : Host.Outcome State Fault Refusal := writeOn true Reg.idCommand 0 [2#8] s

/-- STOP: a write of 3 (R338). -/
def execStop (s : State) : Host.Outcome State Fault Refusal := writeOn true Reg.idCommand 0 [3#8] s

/-- HOLD: a write of 4 (R339). -/
def execHold (s : State) : Host.Outcome State Fault Refusal := writeOn true Reg.idCommand 0 [4#8] s

/-- REARM: a write of 5 (R339). -/
def execRearm (s : State) : Host.Outcome State Fault Refusal := writeOn true Reg.idCommand 0 [5#8] s

/-- RESET: a write of 6, with what BOOT then meets (R341). -/
def execReset (b : BootInputs) (s : State) : Host.Outcome State Fault Refusal :=
  done s (hostWrites b Reg.idCommand.base Reg.idCommand.sub [6#8] s)

/-- FLT_LOG_CLEAR (R382). -/
def execFltLogClear (v : List Byte) (s : State) : Host.Outcome State Fault Refusal := writeOn true Reg.fltLogClear 0 v s

/-- BIST_START of a unit and kind (R384). -/
def startBist (unit kind : Nat) (s : State) : Host.Outcome State Fault Refusal :=
  writeOn (decide (unit < 256)) Reg.bistStart 0 (leBytes 2 (unit + 256 * kind)) s

/-- BIST_LOGIC. -/
def execBistLogic (unit : Nat) (s : State) : Host.Outcome State Fault Refusal := startBist unit 1 s

/-- BIST_MEMORY. -/
def execBistMemory (unit : Nat) (s : State) : Host.Outcome State Fault Refusal := startBist unit 2 s

/-- BIST_BOTH. -/
def execBistBoth (unit : Nat) (s : State) : Host.Outcome State Fault Refusal := startBist unit 3 s

/-- PWR_DOMAIN_ON (R394 to R398). -/
def execPwrDomainOn (domain : Nat) (v : List Byte) (s : State) : Host.Outcome State Fault Refusal :=
  writeOn (decide (domain < 128)) Reg.pwrDomainOn domain v s

/-- REGISTER_WRITE: a write of any other object (R266). -/
def execRegisterWrite (index sub : Nat) (v : List Byte) (s : State) : Host.Outcome State Fault Refusal :=
  done s (hostWrite index sub v s)

end Sys2Proof.Machine
end

