-- ==== Sys2Proof/Machine/Datagrams.lean ====
section
/-! DEFINITION. The Ethernet ports: dictionary datagrams and their sessions, ARP, ICMP echo and neighbour discovery
(R269, R272, R273, R276 to R279, R302 to R308; Tables 13.5, 13.6). -/

namespace Sys2Proof.Machine

/-! ### The frame of a datagram (R304, R306) -/

/-- The bytes of a datagram that its CRC covers. -/
def datagramBytes (op : Nat) (d : Datagram) : List Byte :=
  leBytes 2 d.magic ++ leBytes 1 d.version ++ leBytes 1 op ++ leBytes 4 d.reqId ++ leBytes 2 d.length ++ leBytes 2 d.zero
    ++ leBytes 4 d.status ++ d.payload

/-- Magic, version and length fields are right. -/
def frameOk (d : Datagram) : Bool :=
  d.magic == 0xC47E && d.version == 1 && d.length % 4 == 0 && decide (d.length ≤ 1412) && d.length == d.payload.length

/-- The source of a datagram. -/
def sourceOf (d : Datagram) : Via := .eth d.port d.addr d.udp

/-! ### Transport sessions (R276, R307) -/

/-- Core cycles of the 60 s after which a silent session ends. -/
def sessionCycles : Nat := 60000 * msCycles

/-- A transport session ends, and with it its snapshots, pending writes, DOMAIN sessions and subscription. -/
def endSession (s : State) (via : Via) : State :=
  s.modLinks fun l => { l with
    sessions := l.sessions.filter fun x => x.via != via
    snapshots := l.snapshots.filter fun x => x.via != via
    pendingWrites := l.pendingWrites.filter fun x => x.via != via
    writes := l.writes.filter fun x => x.via != via }

/-- Is a source on an Ethernet port. -/
def viaPort : Via → Option Nat
  | .eth p _ _ => some p
  | _ => none

/-- Sessions that have been silent for 60 s have ended. -/
def endSilent (s : State) : State :=
  (s.links.sessions.filter fun x => x.lastSeen + sessionCycles ≤ s.clocks.cycle).foldl (fun (s : State) x => endSession s x.via) s

/-- The session of a source: the one that is open, or a new one, none where a port has its 16. -/
def admitSession (s : State) (d : Datagram) : Option State :=
  let s := endSilent s
  let now := s.clocks.cycle
  if (s.links.sessions.any fun x => x.via == sourceOf d) then
    some (s.modLinks fun l => { l with sessions := l.sessions.map fun x => if x.via = sourceOf d then { x with lastSeen := now } else x })
  else if (s.links.sessions.filter fun x => viaPort x.via = some d.port).length < 16 then
    some (s.modLinks fun l => { l with sessions := l.sessions ++ [{ via := sourceOf d, replies := [], mask := 0, mac := d.mac, seq := 0, lastSeen := now }] })
  else none

/-- The response that a session keeps for a request ID. -/
def keptReply (s : State) (d : Datagram) : Option (List Byte) :=
  (s.links.sessions.find? fun x => x.via = sourceOf d).bind fun x => (x.replies.find? fun r => r.1 = d.reqId).map Prod.snd

/-- A response goes to the link-layer source of the frame that asked (R303). -/
def State.answerTo (s : State) (d : Datagram) (bytes : List Byte) : State := s.emit (.udp d.mac (sourceOf d) bytes)

/-- A response leaves, and its session keeps the last 8. -/
def sendReply (s : State) (d : Datagram) (bytes : List Byte) : State :=
  let keep (x : EthSession) : EthSession :=
    if x.via = sourceOf d then { x with replies := (d.reqId, bytes) :: x.replies.take 7 } else x
  let s := s.modLinks fun l => { l with sessions := l.sessions.map keep }
  s.answerTo d bytes

/-- What a datagram in a frame that the port takes meets: dropped, answered as a whole, answered as before, or executed by `run`,
which answers none where the payload is not laid out as Table 13.6 states. -/
def serveFrame (op : Nat) (run : State → Option (List Byte × State)) (d : Datagram) (s : State) : State :=
  let whole (code : Nat) : List Byte := datagram (op + 0x80) d.reqId code []
  if s.mode = .off ∨ 2 ≤ d.port ∨ !s.flag Reg.ethEnable d.port then s
  else if !frameOk d then s.count Reg.ethRxDropped d.port
  else if d.crc ≠ crc32c (datagramBytes op d) then (s.count Reg.ethCrcErrors d.port).answerTo d (whole scCrc)
  else if s.mode = .boot then s.answerTo d (whole scState)
  else
    match admitSession s d with
    | none => s.answerTo d (whole scState)
    | some s =>
      match keptReply s d with
      | some bytes => s.answerTo d bytes
      | none =>
        match run (s.accessed (sourceOf d)) with
        | none => s.count Reg.ethRxDropped d.port
        | some (payload, s) => sendReply s d (datagram (op + 0x80) d.reqId 0 payload)

/-- What every datagram meets. -/
def serve' (op : Nat) (run : State → Option (List Byte × State)) (d : Datagram) (s : State) : State :=
  s.onFrame d.port d.frame (serveFrame op run d)

/-! ### READ (R305) -/

/-- An item of an answer to a READ. -/
def readAnswer (index sub code : Nat) (bs : List Byte) : List Byte :=
  leBytes 2 index ++ leBytes 1 sub ++ leBytes 1 0 ++ leBytes 4 code ++ leBytes 2 bs.length ++ leBytes 2 0 ++ pad4 bs

/-- One item: an answer that no longer fits has no value. -/
def readStep (via : Via) (x : List Byte × State) (item : Nat × Nat) : List Byte × State :=
  let (code, bs) := readItem x.2 via item.1 item.2
  let out := readAnswer item.1 item.2 code bs
  if 1412 < x.1.length + out.length then (x.1 ++ readAnswer item.1 item.2 scLength [], x.2)
  else (x.1 ++ out, if code = scOk then afterRead x.2 item.1 item.2 bs else x.2)

/-- READ: 1 to 64 items. -/
def readItems (d : Datagram) (s : State) : Option (List Byte × State) :=
  let n := d.payload.length / 4
  if n = 0 ∨ 64 < n then none
  else some (((List.range n).map fun k => (leAt d.payload (4 * k) 2, leAt d.payload (4 * k + 2) 1)).foldl (readStep (sourceOf d)) ([], s))

/-- READ. -/
def execRead (d : Datagram) (s : State) : Host.Outcome State Fault Refusal := done s (serve' 0x01 (readItems d) d s)

/-! ### WRITE (R305) -/

/-- The items of a WRITE: index, subindex and value; none where the payload does not hold whole items. -/
def writeItems : Nat → List Byte → Option (List (Nat × Nat × List Byte))
  | 0, bs => if bs.isEmpty then some [] else none
  | fuel + 1, bs =>
    if bs.isEmpty then some []
    else
      let n := leAt bs 4 2
      let size := 8 + (n + 3) / 4 * 4
      if bs.length < size then none
      else (writeItems fuel (bs.drop size)).map fun rest => (leAt bs 0 2, leAt bs 2 1, slice bs 8 n) :: rest

/-- One item, each in its own CONTROL cycle of 8 core cycles. -/
def writeStep (x : List Byte × State) (item : Nat × Nat × List Byte) : List Byte × State :=
  let s := if x.1.isEmpty then x.2 else x.2.advance 8
  let (code, s) := valueWrite (standingInputs s) item.1 item.2.1 item.2.2 s
  (x.1 ++ leBytes 2 item.1 ++ leBytes 1 item.2.1 ++ leBytes 1 0 ++ leBytes 4 code, s)

/-- WRITE: 1 to 64 items, in order; a refused one does not undo the others. -/
def writeAll (d : Datagram) (s : State) : Option (List Byte × State) :=
  match writeItems 64 d.payload with
  | none => none
  | some [] => none
  | some items =>
    let x := items.foldl writeStep ([], s)
    some (x.1, x.2.accessed (sourceOf d))

/-- WRITE. -/
def execWrite (d : Datagram) (s : State) : Host.Outcome State Fault Refusal := done s (serve' 0x02 (writeAll d) d s)

/-! ### DOMAIN sessions (R277 to R279) -/

/-- A payload of exactly `n` bytes. -/
def sized (n : Nat) (d : Datagram) (run : Option (List Byte × State)) : Option (List Byte × State) :=
  if d.payload.length = n then run else none

/-- DOMAIN_OPEN. -/
def openAsked (d : Datagram) (s : State) : Option (List Byte × State) :=
  let p := d.payload
  let x := openWrite (sourceOf d) (leAt p 0 2) (leAt p 2 1) (leAt p 4 4) (some (leAt p 8 4)) s
  sized 12 d (some (leBytes 4 x.1 ++ leBytes 2 x.2.1 ++ leBytes 2 0, x.2.2))

/-- DOMAIN_OPEN. -/
def execDomainOpen (d : Datagram) (s : State) : Host.Outcome State Fault Refusal := done s (serve' 0x03 (openAsked d) d s)

/-- DOMAIN_CHUNK, with 1 to 1,400 bytes. -/
def chunkAsked (d : Datagram) (s : State) : Option (List Byte × State) :=
  let p := d.payload
  let n := leAt p 8 2
  let x := chunkWrite (sourceOf d) (leAt p 0 2) (leAt p 4 4) (slice p 12 n) s
  if n = 0 ∨ 1400 < n then none else sized (12 + (n + 3) / 4 * 4) d (some (leBytes 4 x.1, x.2))

/-- DOMAIN_CHUNK. -/
def execDomainChunk (d : Datagram) (s : State) : Host.Outcome State Fault Refusal := done s (serve' 0x04 (chunkAsked d) d s)

/-- DOMAIN_COMMIT. -/
def commitAsked (d : Datagram) (s : State) : Option (List Byte × State) :=
  let x := commitWrite (sourceOf d) (leAt d.payload 0 2) s
  sized 4 d (some (leBytes 4 x.1, x.2))

/-- DOMAIN_COMMIT. -/
def execDomainCommit (d : Datagram) (s : State) : Host.Outcome State Fault Refusal := done s (serve' 0x05 (commitAsked d) d s)

/-- DOMAIN_CANCEL. -/
def cancelAsked (d : Datagram) (s : State) : Option (List Byte × State) :=
  let x := cancelWrite (sourceOf d) (leAt d.payload 0 2) s
  sized 4 d (some (leBytes 4 x.1, x.2))

/-- DOMAIN_CANCEL. -/
def execDomainCancel (d : Datagram) (s : State) : Host.Outcome State Fault Refusal := done s (serve' 0x06 (cancelAsked d) d s)

/-- Whether an access may read a DOMAIN at all, 0 where it may. -/
def domainReadCheck (s : State) (via : Via) (index sub : Nat) : Nat :=
  if readState s via index ≠ scOk then readState s via index
  else
    match findObject s index sub with
    | .absent c => c
    | .count _ => scLength
    | .object r => if r.access = .wo then scWriteOnly else if !r.isDomain then scLength else scOk

/-- The content of a read session: opened at offset 0, or the open one (R279, R305). -/
def readContent (s : State) (via : Via) (index sub : Nat) (first : Bool) : Option (List Byte × State) :=
  let key := index * 256 + sub
  if first then
    let bs := (readOne s via index sub).2
    some (bs, takeSnapshot s via key bs true)
  else (openRead s via key).map fun x => (x.bytes, s)

/-- A fragment of a DOMAIN: its status, the total length, the bytes, and the state after it. -/
def domainFragment (s : State) (via : Via) (index sub off n : Nat) : Nat × Nat × List Byte × State :=
  match domainReadCheck s via index sub with
  | 0 =>
    match readContent s via index sub (off == 0) with
    | none => (scSession, 0, [], s)
    | some (bs, s) =>
      if off ≠ 0 ∧ bs.length ≤ off then (scLength, bs.length, [], s)
      else
        let part := slice bs off (min n (bs.length - off))
        (scOk, bs.length, part,
          if bs.length ≤ off + n then endRead s via index sub bs else markPart s via (index * 256 + sub) off)
  | c => (c, 0, [], s)

/-- DOMAIN_READ, of 1 to 1,384 bytes. -/
def fragmentAsked (d : Datagram) (s : State) : Option (List Byte × State) :=
  let p := d.payload
  let off := leAt p 4 4
  let n := leAt p 8 2
  let x := domainFragment s (sourceOf d) (leAt p 0 2) (leAt p 2 1) off n
  if n = 0 ∨ 1384 < n then none
  else sized 12 d (some (leBytes 4 x.1 ++ leBytes 4 x.2.1 ++ leBytes 4 off ++ leBytes 2 x.2.2.1.length ++ leBytes 2 0
    ++ pad4 x.2.2.1, x.2.2.2))

/-- DOMAIN_READ. -/
def execDomainRead (d : Datagram) (s : State) : Host.Outcome State Fault Refusal := done s (serve' 0x07 (fragmentAsked d) d s)

/-- Bytes delivered to a source: over Ethernet to the link-layer address of its session. -/
def sayTo (s : State) (via : Via) (bs : List Byte) : State :=
  match s.links.sessions.find? fun x => x.via = via with
  | some x => s.emit (.udp x.mac via bs)
  | none => s.emit (.answer via bs)

/-- A read of ENG_COMPLETIONS that is completed: the rest of the open session, or the whole of it, is delivered, and the records
leave the ring (R185, R279). -/
def completionsRead (s : State) (via : Via) (h : Nat) : State :=
  let index := Reg.engCompletions.base + h
  let sub := Reg.engCompletions.sub
  if s.mode = .off then s
  else
    match domainReadCheck s via index sub with
    | 0 =>
      match (readContent s via index sub (openRead s via (index * 256 + sub)).isNone) with
      | some (bs, s) => sayTo (endRead s via index sub bs) via bs
      | none => s
    | c => s.emit (.status c)

/-- ENG_COMPLETIONS_READ. -/
def execEngCompletionsRead (via : Via) (h : Nat) (s : State) : Host.Outcome State Fault Refusal :=
  onUnit (decide (h < 16)) s (completionsRead s via h)

/-! ### SUBSCRIBE, CLOSE and silence (R307, R308) -/

/-- SUBSCRIBE: a mask of 0 ends the subscription. -/
def subscribeAsked (d : Datagram) (s : State) : Option (List Byte × State) :=
  let take (x : EthSession) : EthSession := if x.via = sourceOf d then { x with mask := leAt d.payload 0 4, mac := d.mac } else x
  sized 4 d (some (leBytes 4 scOk, s.modLinks fun l => { l with sessions := l.sessions.map take }))

/-- SUBSCRIBE. -/
def execSubscribe (d : Datagram) (s : State) : Host.Outcome State Fault Refusal := done s (serve' 0x08 (subscribeAsked d) d s)

/-- CLOSE: the session ends with its answer. -/
def closeAsked (d : Datagram) (s : State) : Option (List Byte × State) := sized 0 d (some (leBytes 4 scOk, endSession s (sourceOf d)))

/-- CLOSE. -/
def execClose (d : Datagram) (s : State) : Host.Outcome State Fault Refusal := done s (serve' 0x09 (closeAsked d) d s)

/-- A session has been silent for 60 s. -/
def sessionTimesOut (s : State) (via : Via) : State :=
  match s.links.sessions.find? fun x => x.via = via with
  | none => s
  | some x => endSession (s.runTo (x.lastSeen + sessionCycles)) via

/-- SESSION_TIMEOUT. -/
def execSessionTimeout (via : Via) (s : State) : Host.Outcome State Fault Refusal := done s (sessionTimesOut s via)

/-! ### ARP, ICMP and neighbour discovery (R303) -/

/-- Does a port answer frames: enabled, and the engine past BOOT. -/
def portAnswers (s : State) (port : Nat) : Bool :=
  decide (port < 2) && s.flag Reg.ethEnable port && s.mode != .off && s.mode != .boot

/-- The link-local IPv6 address of a port: its MAC as a modified EUI-64. -/
def linkLocal (s : State) (port : Nat) : Nat :=
  let mac := s.reg Reg.ethMac port
  0xFE80 * 2 ^ 112 + (mac / 2 ^ 24 ^^^ 0x20000) * 2 ^ 40 + 0xFFFE * 2 ^ 24 + mac % 2 ^ 24

/-- Is an IPv6 address one of a port's. -/
def ownV6 (s : State) (port target : Nat) : Bool :=
  target == linkLocal s port || (target != 0 && target == beNat (s.domain Reg.ethIpv6 port))

/-- Is an IPv4 address a port's. -/
def ownV4 (s : State) (port target : Nat) : Bool := target != 0 && target == s.reg Reg.ethIpv4 port

/-- ARP_REQUEST: the reply gives the port's MAC for its address. -/
def execArpRequest (f : EthFrame) (port mac target : Nat) (s : State) : Host.Outcome State Fault Refusal :=
  onUnit (decide (port < 2)) s
    (s.onFrame port f fun s => if portAnswers s port && ownV4 s port target then
      s.emit (.eth port mac (beBytes 2 0x0806 ++ beBytes 2 2 ++ beBytes 6 (s.reg Reg.ethMac port) ++ beBytes 4 target))
    else s)

/-- ICMP_ECHO: the reply returns the body. -/
def execIcmpEcho (f : EthFrame) (port mac : Nat) (v6 : Bool) (target : Nat) (body : List Byte) (s : State) : Host.Outcome State Fault Refusal :=
  onUnit (decide (port < 2)) s
    (s.onFrame port f fun s => if portAnswers s port && (if v6 then ownV6 s port target else ownV4 s port target) then
      s.emit (.eth port mac (beBytes 2 (if v6 then 0x86DD else 0x0800) ++ leBytes 1 (if v6 then 129 else 0) ++ body))
    else s)

/-- NEIGHBOUR_SOLICITATION: the advertisement gives the port's MAC for its address, solicited unless the request was duplicate
address detection. -/
def execNeighbourSolicitation (f : EthFrame) (port mac target : Nat) (dad : Bool) (s : State) : Host.Outcome State Fault Refusal :=
  onUnit (decide (port < 2)) s
    (s.onFrame port f fun s => if portAnswers s port && ownV6 s port target then
      s.emit (.eth port mac (beBytes 2 0x86DD ++ leBytes 1 136 ++ leBytes 1 (if dad then 0x20 else 0x60) ++ beBytes 16 target
        ++ beBytes 6 (s.reg Reg.ethMac port)))
    else s)

/-- ETH_LINK_CHANGE: a disabled port has no link. -/
def execEthLinkChange (port : Nat) (up : Bool) (s : State) : Host.Outcome State Fault Refusal :=
  onUnit (decide (port < 2)) s
    (if s.mode = .off then s else s.setReg Reg.ethLink port (ofBool (up && s.flag Reg.ethEnable port)))

end Sys2Proof.Machine
end

