-- ==== Sys2Proof/Machine/CanBus.lean ====
section
/-! DEFINITION. CAN FD: USDO, NMT, heartbeat, SYNC and PDOs, EMCY frames and the controller's own states
(R291 to R301, R308; Tables 13.2 to 13.4). -/

namespace Sys2Proof.Machine

/-- The controller takes part in the bus: the engine is not OFF and the controller not bus-off (R291). -/
def canListens (s : State) : Bool := s.mode != .off && s.reg Reg.canState != 2

/-- A frame of a service that takes CAN FD frames only (R291). -/
def onFd (f : CanFrame) (s : State) (taken : State → State) : State := if f = .classical then s else taken s

/-! ### USDO (R295, R296) -/

/-- The answer of a USDO transfer: its status, the abort code where it is not 0, then the value. -/
def usdoAnswer (s : State) (node code : Nat) (bs : List Byte) : State := s.emit (.answer (.can node) (leBytes 4 code ++ bs))

/-- Bytes of a value that one USDO frame carries (PRESUMED from CiA 1301; notes/assumptions/111.md). -/
def usdoBytes : Nat := 56

/-- The next segment of an upload goes out; its last one ends it. -/
def segmentLeaves (s : State) (node index sub : Nat) (x : Snapshot) : State :=
  let off := x.parts.length * usdoBytes
  let s := if x.bytes.length ≤ off + usdoBytes then endRead s (.can node) index sub x.bytes
    else markPart s (.can node) (index * 256 + sub) off
  usdoAnswer s node scOk (slice x.bytes off (min usdoBytes (x.bytes.length - off)))

/-- An upload opens: a value in one frame, or the first segment of a whole index or DOMAIN that is longer, all of it from one
publication (R272, R273, R279, R295). -/
def uploadOpens (s : State) (node index sub : Nat) : State :=
  let (code, bs) := readItem s (.can node) index sub
  if code ≠ scOk then usdoAnswer s node code []
  else
    let s := takeSnapshot s (.can node) (index * 256 + sub) bs (namesDomain s index sub)
    match snapshotOf s (.can node) (index * 256 + sub) with
    | some x => segmentLeaves s node index sub x
    | none => s

/-- A request for the next segment: SESSION where the read session of a DOMAIN has ended, SNAPSHOT_EXPIRED where the snapshot of a
whole index has (R272, R279). -/
def uploadGoesOn (s : State) (node index sub : Nat) : State :=
  let key := index * 256 + sub
  if namesDomain s index sub then
    match openRead s (.can node) key with
    | some x => segmentLeaves s node index sub x
    | none => usdoAnswer (dropSnapshot s (.can node) key) node scSession []
  else
    match (snapshotOf s (.can node) key).filter fun x => x.live s.clocks.cycle with
    | some x => segmentLeaves s node index sub x
    | none => usdoAnswer ((dropSnapshot s (.can node) key).count Reg.odSnapshotExpired 0) node scExpired []

/-- A request of an upload. -/
def uploads (s : State) (node index sub : Nat) (next : Bool) : State :=
  if !canListens s then s
  else
    let s := s.accessed (.can node)
    if next then uploadGoesOn s node index sub else uploadOpens s node index sub

/-- USDO_UPLOAD. -/
def execUsdoUpload (f : CanFrame) (node index sub : Nat) (next : Bool) (s : State) : Host.Outcome State Fault Refusal :=
  done s (onFd f s fun s => uploads s node index sub next)

/-- The segmented download of a client, if one is in progress. -/
def transferOf (s : State) (node : Nat) : Option UsdoTransfer := s.links.transfers.find? fun x => x.node = node

/-- Without a client's download in progress; the session that it opened is cancelled. -/
def dropTransfer (s : State) (node : Nat) : State :=
  let s := match transferOf s node with
    | some x => (cancelWrite (.can node) x.session s).2
    | none => s
  s.modLinks fun l => { l with transfers := l.transfers.filter fun x => x.node != node }

/-- The download of a DOMAIN is whole: its last four bytes are the CRC, and its end is the commit. -/
def finishDownload (s : State) (x : UsdoTransfer) (bs : List Byte) : State :=
  let crc := leAt bs (x.size - 4) 4
  let s := s.modLinks fun l => { l with writes := l.writes.map fun y => if y.id = x.session then { y with crc := some crc } else y }
  let r := commitWrite (.can x.node) x.session s
  usdoAnswer (r.2.modLinks fun l => { l with transfers := l.transfers.filter fun y => y.node != x.node }) x.node r.1 []

/-- A segment: its content bytes are a chunk in order of offset. -/
def segmentArrives (s : State) (x : UsdoTransfer) (data : List Byte) : State :=
  let off := x.data.length
  let body := data.take (x.size - 4 - off)
  let bs := x.data ++ data
  if x.size < bs.length then usdoAnswer (dropTransfer s x.node) x.node scLength []
  else
    let r := if body.isEmpty then (scOk, s) else chunkWrite (.can x.node) x.session off body s
    if r.1 ≠ scOk then usdoAnswer (dropTransfer r.2 x.node) x.node r.1 []
    else if bs.length = x.size then finishDownload r.2 x bs
    else r.2.modLinks fun l => { l with transfers := l.transfers.map fun y => if y.node = x.node then { y with data := bs } else y }

/-- The first frame of a DOMAIN download: the session opens with the announced size less the CRC; one too short for a
CRC has a length that no object takes. -/
def downloadOpens (s : State) (node index sub size : Nat) (data : List Byte) : State :=
  let r := openWrite (.can node) index sub (if size < 4 then 4097 else size - 4) none s
  if r.1 ≠ scOk then usdoAnswer r.2.2 node r.1 []
  else
    let x : UsdoTransfer := { node := node, key := index * 256 + sub, size := size, data := [], session := r.2.1 }
    segmentArrives (r.2.2.modLinks fun l => { l with transfers := l.transfers ++ [x] }) x data

/-- A download: a value in one frame, the first frame of a DOMAIN, or a further segment of the one in progress. -/
def downloads (s : State) (node index sub size : Nat) (data : List Byte) : State :=
  if !canListens s then s
  else
    let s := s.accessed (.can node)
    match (transferOf s node).filter fun x => x.key = index * 256 + sub with
    | some x => segmentArrives s x data
    | none =>
      let s := dropTransfer s node
      if namesDomain s index sub then downloadOpens s node index sub size data
      else
        let r := objectWrite (standingInputs s) index sub data s
        usdoAnswer r.2 node r.1 []

/-- USDO_DOWNLOAD. -/
def execUsdoDownload (f : CanFrame) (node index sub size : Nat) (data : List Byte) (s : State) : Host.Outcome State Fault Refusal :=
  done s (onFd f s fun s => downloads s node index sub size data)

/-- The client ends its transfer of an object: a download and the session that it opened, or an upload (R279, R296). -/
def aborts (s : State) (node index sub : Nat) : State :=
  let key := index * 256 + sub
  if !canListens s then s
  else
    dropSnapshot (if ((transferOf s node).map UsdoTransfer.key) = some key then dropTransfer s node else s) (.can node) key

/-- USDO_ABORT. -/
def execUsdoAbort (f : CanFrame) (node index sub : Nat) (s : State) : Host.Outcome State Fault Refusal :=
  done s (onFd f s fun s => aborts s node index sub)

/-! ### NMT and heartbeat (R293, R294) -/

/-- An NMT command is for this engine, which is past BOOT. -/
def nmtHears (s : State) (node : Nat) : Bool := canListens s && s.mode != .boot && (node == 0 || node == s.links.node)

/-- An NMT command acts as an ID_COMMAND code; a refused one is ignored and counted (R293). -/
def nmtActs (s : State) (node code : Nat) : State :=
  if !nmtHears s node then s
  else
    let r := idCommand code s
    if r.1 = scOk then r.2 else s.count Reg.canNmtIgnored 0

/-- NMT_START_REMOTE_NODE. -/
def execNmtStartRemoteNode (node : Nat) (s : State) : Host.Outcome State Fault Refusal := done s (nmtActs s node 2)

/-- NMT_STOP_REMOTE_NODE. -/
def execNmtStopRemoteNode (node : Nat) (s : State) : Host.Outcome State Fault Refusal := done s (nmtActs s node 3)

/-- NMT_ENTER_PRE_OPERATIONAL. -/
def execNmtEnterPreOperational (node : Nat) (s : State) : Host.Outcome State Fault Refusal := done s (nmtActs s node 4)

/-- NMT_RESET_NODE. -/
def execNmtResetNode (node : Nat) (s : State) : Host.Outcome State Fault Refusal := done s (nmtActs s node 6)

/-- The CAN controller restarts with the present node-ID and data rate: transfers in progress are gone, and the boot-up message
goes out (R292 to R294). -/
def resetsCommunication (s : State) (node : Nat) : State :=
  if !nmtHears s node then s
  else
    let s := s.links.transfers.foldl (fun (s : State) x => dropTransfer s x.node) s
    (s.modLinks fun l => { l with
      snapshots := l.snapshots.filter (fun x => viaPlace x.via != 0), node := s.reg Reg.canNodeId, rate := s.reg Reg.canDataRate }).sendBootUp

/-- NMT_RESET_COMMUNICATION. -/
def execNmtResetCommunication (node : Nat) (s : State) : Host.Outcome State Fault Refusal := done s (resetsCommunication s node)

/-- The heartbeat period has passed. The heartbeat of the entry to FAULTED waits for its EMCY (R294). -/
def beats (s : State) : State :=
  if s.reg Reg.heartbeatTime = 0 ∨ s.mode.heartbeat.isNone ∨ s.links.beatOwed then s
  else (s.runTo s.links.heartbeatAt).sendHeartbeat

/-- HEARTBEAT. -/
def execHeartbeat (s : State) : Host.Outcome State Fault Refusal := done s (beats s)

/-! ### PDOs and SYNC (R297 to R299, R301) -/

/-- An 11-bit identifier of a COB-ID. -/
def cobFrame (x : Nat) : Nat := x % 2048

/-- A PDO is enabled: bit 31 of its COB-ID is 0. -/
def tpdoOn (s : State) (k : Nat) : Bool := !bit (s.reg Reg.tpdoCob k) 31
def rpdoOn (s : State) (k : Nat) : Bool := !bit (s.reg Reg.rpdoCob k) 31

/-- The entries of a PDO's mapping in force. -/
def mapping (s : State) (tx : Bool) (k : Nat) : List Nat := mapEntries s tx k (s.reg (if tx then Reg.tpdoMapCount else Reg.rpdoMapCount) k)

/-- The value of a mapped object. -/
def mappedBytes (s : State) (x : Nat) : List Byte :=
  let (index, sub, bits) := mapEntry x
  slice (readOne s (.can 0) index sub).2 0 (bits / 8)

/-- A transmit PDO is formed and sent (R298). -/
def formPdo (s : State) (k : Nat) : State :=
  let s := s.sendCan (cobFrame (s.reg Reg.tpdoCob k)) ((mapping s true k).flatMap (mappedBytes s))
  s.modLinks fun l => { l with tpdoLast := tabSet l.tpdoLast k s.clocks.cycle, tpdoChanged := l.tpdoChanged.filter (· != k) }

/-- A transmit PDO at a SYNC: types 1 to 240 form at every nth. -/
def syncPdo (s : State) (k : Nat) : State :=
  let t := s.reg Reg.tpdoType k
  if !tpdoOn s k ∨ t = 0 ∨ 240 < t then s
  else
    let n := tabGet 0 s.links.tpdoSyncs k + 1
    let put (v : Nat) (s : State) : State := s.modLinks fun l => { l with tpdoSyncs := tabSet l.tpdoSyncs k v }
    if t ≤ n then formPdo (put 0 s) k else put n s

/-- The mapped writes of a receive PDO in mapping order, each in its own CONTROL cycle; a refused one is counted and has no effect
on the others (R299). -/
def applyEntries (s : State) : List Nat → List Byte → State
  | [], _ => s
  | x :: rest, bs =>
    let (index, sub, bits) := mapEntry x
    let r := objectWrite (standingInputs s) index sub (bs.take (bits / 8)) s
    let s := if r.1 = scOk then r.2 else r.2.count Reg.canRpdoRefused 0
    applyEntries (s.advance 8) rest (bs.drop (bits / 8))

/-- A receive PDO is applied. -/
def applyPdo (s : State) (x : Nat × List Byte) : State := applyEntries s (mapping s false x.1) x.2

/-- SYNC: synchronous PDOs are formed in ascending number, and those received are applied (R298, R299, R301). -/
def syncs (s : State) : State :=
  if !canListens s ∨ s.mode ≠ .running then s
  else
    let s := (List.range 16).foldl syncPdo s
    let waiting := s.links.rpdoWaiting
    waiting.foldl applyPdo (s.modLinks fun l => { l with rpdoWaiting := [], syncCount := l.syncCount + 1 })

/-- SYNC. -/
def execSync (s : State) : Host.Outcome State Fault Refusal := done s (syncs s)

/-- Is a transmit PDO event-driven (Table 13.4). -/
def eventPdo (s : State) (k : Nat) : Bool := tpdoOn s k && decide (254 ≤ s.reg Reg.tpdoType k)

/-- The event timer of a transmit PDO expires (R298). -/
def eventTimer (s : State) (k : Nat) : State :=
  let ms := s.reg Reg.tpdoEvent k
  if s.mode ≠ .running ∨ !eventPdo s k ∨ ms = 0 then s
  else formPdo (s.runTo (tabGet s.clocks.cycle s.links.tpdoLast k + ms * msCycles)) k

/-- TPDO_EVENT_TIMER. -/
def execTpdoEventTimer (pdo : Nat) (s : State) : Host.Outcome State Fault Refusal := onUnit (decide (pdo < 16)) s (eventTimer s pdo)

/-- Bytes that a mapping takes. -/
def mappedLength (es : List Nat) : Nat := (es.map fun x => (mapEntry x).2.2 / 8).sum

/-- A receive PDO arrives (R294, R299). -/
def pdoArrives (s : State) (k : Nat) (data : List Byte) : State :=
  if !canListens s ∨ s.mode ≠ .running ∨ !rpdoOn s k then s
  else if data.length < mappedLength (mapping s false k) then s.emcy { code := 0x8210, detail := k }
  else if s.reg Reg.rpdoType k ≤ 240 then
    s.modLinks fun l => { l with rpdoWaiting := tabSet l.rpdoWaiting k data }
  else (applyPdo (s.accessed (.can 0)) (k, data)).accessed (.can 0)

/-- RECEIVE_PDO. -/
def execReceivePdo (f : CanFrame) (pdo : Nat) (data : List Byte) (s : State) : Host.Outcome State Fault Refusal :=
  onUnit (decide (pdo < 8)) s (onFd f s fun s => pdoArrives s pdo data)

/-! ### EMCY and the controller's states (R291, R300, R308, R383) -/

/-- The bytes of an EMCY frame. -/
def emcyBytes (e : Emcy) : List Byte := leBytes 2 e.code ++ leBytes 1 e.register ++ leBytes 1 e.unit ++ leBytes 4 e.beat

/-- Core cycles between two EMCYs. -/
def emcyGap : Nat := 160000

/-- The oldest EMCY goes out, no sooner than 100 µs after the one before it, and subscribed sessions hear of it. The heartbeat
that waited for the EMCY of the entry to FAULTED follows (R294, R300, R308). -/
def sendsEmcy (s : State) : State :=
  match s.links.emcys with
  | [] => s
  | e :: rest =>
    if !canListens s then s
    else
      let s := if s.links.lastEmcy = 0 then s else s.runTo (s.links.lastEmcy + emcyGap)
      let s := s.sendCan (cobFrame (s.reg Reg.cobEmcy)) (emcyBytes e)
      let s := (s.modLinks fun l => { l with emcys := rest, lastEmcy := s.clocks.cycle }).notify 0 1 (emcyBytes e)
      if s.links.beatOwed ∧ rest.isEmpty then (s.modLinks fun l => { l with beatOwed := false }).sendHeartbeat else s

/-- EMCY_TRANSMIT. -/
def execEmcyTransmit (s : State) : Host.Outcome State Fault Refusal := done s (sendsEmcy s)

/-- BUS_OFF. -/
def execBusOff (s : State) : Host.Outcome State Fault Refusal := done s (if s.mode = .off then s else s.setReg Reg.canState 0 2)

/-- BUS_OFF_RECOVERY: the controller recovers and counts the bus-off. -/
def execBusOffRecovery (s : State) : Host.Outcome State Fault Refusal :=
  done s (if s.mode = .off ∨ s.reg Reg.canState ≠ 2 then s
    else ((s.setReg Reg.canState 0 0).count Reg.canBusoff 0).emcy { code := 0x8140 })

/-- The error counters cross into error passive, or fall back to error active. -/
def errorPassive (s : State) (passive : Bool) : State :=
  let st := s.reg Reg.canState
  if s.mode = .off then s
  else if passive ∧ st = 0 then (s.setReg Reg.canState 0 1).emcy { code := 0x8120 }
  else if !passive ∧ st = 1 then s.setReg Reg.canState 0 0
  else s

/-- CAN_ERROR_PASSIVE. -/
def execCanErrorPassive (passive : Bool) (s : State) : Host.Outcome State Fault Refusal := done s (errorPassive s passive)

end Sys2Proof.Machine
end

