-- ==== Sys2Proof/Machine/Uart.lean ====
section
/-! DEFINITION. The maintenance UART: how a character is sampled, lines and their answers, parts of wide values
(R274, R275, R309 to R313; Table 13.8). -/

namespace Sys2Proof.Machine

/-! ### Characters (R310, R311) -/

/-- Sample `i` of a line; beyond its end the line is idle. -/
def sampleAt (xs : List Bool) (i : Nat) : Bool := xs.getD i true

/-- The majority of samples 7, 8 and 9 of a bit whose sample 0 is at `i`. -/
def majorityAt (xs : List Bool) (i : Nat) : Bool :=
  let a := sampleAt xs (i + 7)
  let b := sampleAt xs (i + 8)
  let c := sampleAt xs (i + 9)
  (a && b) || (a && c) || (b && c)

/-- A tick reading 0 after a tick reading 1. -/
def edgeAt (xs : List Bool) (i : Nat) : Bool := !sampleAt xs i && (i == 0 || sampleAt xs (i - 1))

/-- The first edge from `i` on, within `n` ticks. -/
def firstEdge (xs : List Bool) (i n : Nat) : Option Nat := ((List.range n).map (i + ·)).find? (edgeAt xs)

/-- The first tick at or after `i` that reads 1. -/
def firstHigh (xs : List Bool) (i : Nat) : Nat :=
  (((List.range (xs.length + 1 - i)).map (i + ·)).find? (sampleAt xs)).getD (xs.length + 1)

/-- Where the receiver goes on. -/
inductive Hunt where
  /-- an edge is sample 0 of the next start bit -/
  | start (i : Nat)
  /-- edge hunting from a tick on -/
  | from (i : Nat)
  deriving DecidableEq, Repr

/-- The stop bit whose sample 0 is at `i`: the FRAMING flag and where the receiver goes on (R311). -/
def stopBit (xs : List Bool) (i : Nat) : Bool × Hunt :=
  match firstEdge xs (i + 1) 9 with
  | some j => if j ≤ i + 6 then (true, .start j) else (!majorityAt xs i, .start j)
  | none => if majorityAt xs i then (false, .from (i + 10)) else (true, .from (firstHigh xs (i + 10)))

/-- The character whose start edge is at `i`, unless it is a false start, and where the receiver goes on (R310). -/
def charAt (parity : Bool) (xs : List Bool) (i : Nat) : Option RxChar × Hunt :=
  if majorityAt xs i then (none, .from (i + 10))
  else
    let bits := (List.range 8).map fun b => majorityAt xs (i + 16 * (b + 1))
    let code := bits.foldr (fun b a => ofBool b + 2 * a) 0
    let par := parity && majorityAt xs (i + 144)
    let stop := i + (if parity then 160 else 144)
    let odd := (bits.foldl Bool.xor false) != par
    let (framing, next) := stopBit xs stop
    (some { code := code, framing := framing, parity := parity && odd,
            brk := code == 0 && !par && !majorityAt xs stop }, next)

/-- The characters of a run of samples. -/
def sampleChars (parity : Bool) (xs : List Bool) : Nat → Hunt → List RxChar
  | 0, _ => []
  | fuel + 1, .start i =>
    match charAt parity xs i with
    | (some c, next) => c :: sampleChars parity xs fuel next
    | (none, next) => sampleChars parity xs fuel next
  | fuel + 1, .from i =>
    match firstEdge xs i (xs.length - i) with
    | some j => sampleChars parity xs fuel (.start j)
    | none => []

/-- The divisor of the sample tick at a rate, in 1/256 CONTROL cycle: 3.2 × 10^9 / baud, rounded (R309). -/
def uartDivisor (baud : Nat) : Nat := (2 * 3200000000 + baud) / (2 * baud)

/-- Was what arrived complete before the previous response had been sent (R312). -/
def lineEarly : UartLine → Bool
  | .chars e _ => e
  | .samples e _ => e

/-- What the receiver delivers of what arrives (R309). -/
def lineChars (s : State) : UartLine → List RxChar
  | .chars _ cs => cs
  | .samples _ xs => sampleChars (s.reg Reg.uartFormat == 1) xs (xs.length + 1) (.from 0)

/-! ### Lines (R312, Table 13.8) -/

/-- A line that Table 13.8 lists. -/
inductive UartCmd where
  | read (index sub part : Nat)
  | write (index sub part v : Nat)
  | openLine (index sub n crc : Nat)
  | commit (index sub : Nat)
  | cancel (index sub : Nat)
  deriving DecidableEq, Repr

/-- The value of a hexadecimal digit, in either case. -/
def hexDigit (c : Nat) : Option Nat :=
  if 48 ≤ c ∧ c ≤ 57 then some (c - 48)
  else if 65 ≤ c ∧ c ≤ 70 then some (c - 55)
  else if 97 ≤ c ∧ c ≤ 102 then some (c - 87)
  else none

/-- A hexadecimal number of `lo` to `hi` digits. -/
def hexField (lo hi : Nat) (cs : List Nat) : Option Nat :=
  if cs.length < lo ∨ hi < cs.length then none
  else cs.foldl (fun a c => a.bind fun n => (hexDigit c).map fun d => 16 * n + d) (some 0)

/-- The fields of a line, separated by single spaces. -/
def splitFields : List Nat → List (List Nat)
  | [] => [[]]
  | c :: cs =>
    match splitFields cs with
    | [] => [[c]]
    | f :: fs => if c = 32 then [] :: f :: fs else (c :: f) :: fs

/-- Reads a line. -/
def parseLine (cs : List Nat) : Option UartCmd :=
  match splitFields cs with
  | [[82], i, s, p] => (hexField 4 4 i).bind fun i => (hexField 2 2 s).bind fun s => (hexField 1 8 p).map fun p => .read i s p
  | [[87], i, s, p, v] => (hexField 4 4 i).bind fun i => (hexField 2 2 s).bind fun s => (hexField 1 8 p).bind fun p =>
      (hexField 8 8 v).map fun v => .write i s p v
  | [[79], i, s, n, c] => (hexField 4 4 i).bind fun i => (hexField 2 2 s).bind fun s => (hexField 8 8 n).bind fun n =>
      (hexField 8 8 c).map fun c => .openLine i s n c
  | [[67], i, s] => (hexField 4 4 i).bind fun i => (hexField 2 2 s).map fun s => .commit i s
  | [[88], i, s] => (hexField 4 4 i).bind fun i => (hexField 2 2 s).map fun s => .cancel i s
  | _ => none

/-- Eight uppercase hexadecimal digits. -/
def hex8 (x : Nat) : List Nat :=
  (List.range 8).map fun k => let d := field x (28 - 4 * k) 4; if d < 10 then 48 + d else 55 + d

/-- A response: CR and LF end it. It leaves at the rate in force as its line came (R309). -/
def uartSays (s : State) (cs : List Nat) : State := s.emit (.uart s.links.uartDivisor (ascii (cs ++ [13, 10])))

/-- "OK", "OK v", "ER c" and "?". -/
def sayOk (s : State) : State := uartSays s [79, 75]
def sayValue (s : State) (v : Nat) : State := uartSays s ([79, 75, 32] ++ hex8 v)
def sayCode (s : State) (c : Nat) : State := if c = scOk then sayOk s else uartSays s ([69, 82, 32] ++ hex8 c)
def sayWhat (s : State) : State := uartSays s [63]

/-! ### Reads (R272, R274, R279, R313) -/

/-- Parts of a value of `n` bytes. -/
def partCount (n : Nat) : Nat := max 1 ((n + 3) / 4)

/-- Part `p` of a byte string. -/
def partOf (bs : List Byte) (p : Nat) : Nat := leAt bs (4 * p) 4

/-- A part of a value that is held in a snapshot; the snapshot ends with its last part. -/
def deliverPart (s : State) (key p : Nat) (x : Snapshot) : State :=
  let all := (List.range (partCount x.bytes.length)).all fun k => k = p || x.parts.contains k
  sayValue (if all then dropSnapshot s .uart key else markPart s .uart key p) (partOf x.bytes p)

/-- A new snapshot of a value, and its part. -/
def freshPart (s : State) (key p : Nat) (bs : List Byte) : State :=
  let s := takeSnapshot s .uart key bs false
  match snapshotOf s .uart key with
  | some x => deliverPart s key p x
  | none => s

/-- A part of a value of more than 4 bytes (R274). -/
def readWide (s : State) (index sub p : Nat) (bs : List Byte) : State :=
  let key := index * 256 + sub
  match snapshotOf s .uart key with
  | none => freshPart s key p bs
  | some x =>
    if x.parts.contains p then freshPart s key p bs
    else if x.live s.clocks.cycle then deliverPart s key p x
    else sayCode ((dropSnapshot s .uart key).count Reg.odSnapshotExpired 0) scExpired

/-- A part of a DOMAIN: part 0 opens its read session (notes/assumptions/36.md). -/
def readDomainPart (s : State) (index sub p : Nat) : State :=
  let r := domainFragment s .uart index sub (4 * p) 4
  if r.1 = scOk then sayValue r.2.2.2 (leAt r.2.2.1 0 4) else sayCode r.2.2.2 r.1

/-- An R line. -/
def uartRead (s : State) (index sub p : Nat) : State :=
  if namesDomain s index sub then readDomainPart s index sub p
  else
    let (code, bs) := readOne s .uart index sub
    if code ≠ scOk then sayCode s code
    else if partCount bs.length ≤ p then sayCode s scLength
    else if bs.length ≤ 4 then sayValue (afterRead s index sub bs) (partOf bs 0)
    else readWide s index sub p bs

/-! ### Writes (R275, R277, R313) -/

/-- The UART's write session of an object. -/
def uartSession (s : State) (key : Nat) : Option WriteSession :=
  s.links.writes.find? fun x => x.key = key ∧ x.via = .uart ∧ x.alive s

/-- A refused write of a part. -/
def refusePart (s : State) (code : Nat) : State := let x := refuseWrite s code; sayCode x.2 x.1

/-- A chunk of 4 bytes of the open session of a DOMAIN; bytes beyond its end are 0. -/
def uartChunk (s : State) (key p v : Nat) : State :=
  match uartSession s key with
  | none => sayCode s scSession
  | some x =>
    let n := min 4 (x.size - 4 * p)
    if leNat ((leBytes 4 v).drop n) ≠ 0 then sayCode s scValue
    else let r := chunkWrite .uart x.id (4 * p) (leBytes n v) s; sayCode r.2 r.1

/-- A pending write that is less than 1 ms old and has not been ended (R275). -/
def PendingWrite.live (x : PendingWrite) (now : Nat) : Bool := !x.dead && decide (now < x.opened + msCycles)

/-- The UART's pending write of an object. -/
def pendingOf (s : State) (key : Nat) : Option PendingWrite := s.links.pendingWrites.find? fun x => x.via = .uart ∧ x.key = key

/-- Without the pending write of an object. -/
def dropPending (s : State) (key : Nat) : State :=
  s.modLinks fun l => { l with pendingWrites := l.pendingWrites.filter fun x => !(x.via == .uart && x.key == key) }

/-- A fifth pending write ends the oldest (R276). -/
def endOldestPending (s : State) : State :=
  let now := s.clocks.cycle
  match s.links.pendingWrites.filter fun x => x.via = .uart ∧ x.live now with
  | y :: _ :: _ :: _ :: _ => s.modLinks fun l => { l with pendingWrites := l.pendingWrites.map fun x =>
      if x.via = .uart ∧ x.key = y.key then { x with dead := true } else x }
  | _ => s

/-- Keeps what has come of a pending write, in its place among those that are open. -/
def keepPending (s : State) (x : PendingWrite) : State :=
  let same (y : PendingWrite) : Bool := y.via == x.via && y.key == x.key
  s.modLinks fun l => { l with pendingWrites :=
    (if l.pendingWrites.any same then l.pendingWrites.map fun y => if same y then x else y else l.pendingWrites ++ [x]) }

/-- A part of a wide value: the write takes effect with its last part. -/
def takePart (s : State) (index sub p v parts : Nat) (x : PendingWrite) : State :=
  let key := index * 256 + sub
  let got := tabSet x.parts p v
  if got.length = parts then
    let bs := (List.range parts).flatMap fun k => leBytes 4 (tabGet 0 got k)
    let r := objectWrite (standingInputs s) index sub bs (dropPending s key)
    sayCode r.2 r.1
  else sayOk (keepPending s { x with parts := got })

/-- A part of a 64-bit or TIME96 object (R275). -/
def writeWide (s : State) (index sub p v parts : Nat) : State :=
  let key := index * 256 + sub
  match pendingOf s key with
  | some x =>
    if x.live s.clocks.cycle then takePart s index sub p v parts x else sayCode (dropPending s key) scExpired
  | none => takePart (endOldestPending s) index sub p v parts { via := .uart, key := key, parts := [], opened := s.clocks.cycle, dead := false }

/-- A W line of an object that is no DOMAIN. -/
def uartWriteNumber (s : State) (index sub p v : Nat) (r : ObjRow) : State :=
  let n := r.type.bytes
  if partCount n ≤ p then refusePart s (if writeState s r = scOk then scLength else writeState s r)
  else if 4 < n then writeWide s index sub p v (partCount n)
  else if leNat ((leBytes 4 v).drop n) ≠ 0 then refusePart s (if writeState s r = scOk then scValue else writeState s r)
  else let x := objectWrite (standingInputs s) index sub (leBytes n v) s; sayCode x.2 x.1

/-- A W line. -/
def uartWrite (s : State) (index sub p v : Nat) : State :=
  match findObject s index sub with
  | .absent c => refusePart s c
  | .count _ => refusePart s scReadOnly
  | .object r => if r.isDomain then uartChunk s (index * 256 + sub) p v else uartWriteNumber s index sub p v r

/-- Parts that were not completed within 1 ms are discarded (R275). -/
def partsExpire (s : State) (key : Nat) : State :=
  match (pendingOf s key).filter fun x => !x.dead with
  | none => s
  | some x =>
    (s.runTo (x.opened + msCycles)).modLinks fun l => { l with pendingWrites := l.pendingWrites.map fun y =>
      if y.via = .uart ∧ y.key = key then { y with dead := true } else y }

/-- UART_PART_EXPIRY. -/
def execUartPartExpiry (key : Nat) (s : State) : Host.Outcome State Fault Refusal := done s (partsExpire s key)

/-! ### DOMAIN sessions (R277, R278, R312) -/

/-- An O line. -/
def uartOpen (s : State) (index sub n crc : Nat) : State :=
  let r := openWrite .uart index sub n (some crc) s
  sayCode r.2.2 r.1

/-- A C line. -/
def uartCommit (s : State) (index sub : Nat) : State :=
  match uartSession s (index * 256 + sub) with
  | none => sayCode s scSession
  | some x => let r := commitWrite .uart x.id s; sayCode r.2 r.1

/-- An X line: it ends the UART's write session and its read session of the object (R278, R279). -/
def uartCancel (s : State) (index sub : Nat) : State :=
  let s := dropSnapshot s .uart (index * 256 + sub)
  match uartSession s (index * 256 + sub) with
  | none => sayOk s
  | some x => sayOk (cancelWrite .uart x.id s).2

/-! ### What a line does -/

/-- The kind of a line, by its row. -/
inductive LineKind where
  | read | write | openLine | commit | cancel
  deriving DecidableEq, Repr

def UartCmd.kind : UartCmd → LineKind
  | .read _ _ _ => .read
  | .write _ _ _ _ => .write
  | .openLine _ _ _ _ => .openLine
  | .commit _ _ => .commit
  | .cancel _ _ => .cancel

/-- The access of a line. -/
def runLine (s : State) : UartCmd → State
  | .read i u p => uartRead s i u p
  | .write i u p v => uartWrite s i u p v
  | .openLine i u n c => uartOpen s i u n c
  | .commit i u => uartCommit s i u
  | .cancel i u => uartCancel s i u

/-- A character that is flagged. -/
def flagged (c : RxChar) : Bool := c.framing || c.parity || c.brk

/-- A line that CR has ended: answered "?" where it is too long, holds a flagged character, breaks Table 13.8 or came before the
previous response had been sent. A line of another row's kind is no such event. -/
def endLine (k : LineKind) (early : Bool) (s : State) (cs : List RxChar) : State :=
  if early ∨ 64 < cs.length ∨ cs.any flagged then sayWhat s
  else
    match parseLine (cs.map RxChar.code) with
    | none => sayWhat s
    | some c => if c.kind = k then runLine (s.accessed .uart) c else s

/-- Flags are counted (Table 13.10). -/
def countFlags (s : State) (c : RxChar) : State :=
  let s := if c.framing then s.count Reg.uartFraming 0 else s
  let s := if c.parity then s.count Reg.uartParity 0 else s
  if c.brk then s.count Reg.uartBreaks 0 else s

/-- One character: CR ends the line, LF is ignored, any other joins the line. -/
def takeChar (k : LineKind) (early : Bool) (s : State) (c : RxChar) : State :=
  let s := countFlags s c
  if flagged c ∨ (c.code ≠ 13 ∧ c.code ≠ 10) then s.modLinks fun l => { l with uartLine := l.uartLine ++ [c] }
  else if c.code = 10 then s
  else endLine k early (s.modLinks fun l => { l with uartLine := [] }) s.links.uartLine

/-- The rate that was written last is in force from here on: every response before has been sent (R309). -/
def takeRate (s : State) : State := s.modLinks fun l => { l with uartDivisor := uartDivisor (s.reg Reg.uartBaud) }

/-- What arrives on the UART. -/
def lineArrives (k : LineKind) (l : UartLine) (s : State) : State :=
  if s.mode = .off then s else (lineChars s l).foldl (takeChar k (lineEarly l)) (takeRate s)

/-- UART_READ_LINE. -/
def execUartReadLine (l : UartLine) (s : State) : Host.Outcome State Fault Refusal := done s (lineArrives .read l s)

/-- UART_WRITE_LINE. -/
def execUartWriteLine (l : UartLine) (s : State) : Host.Outcome State Fault Refusal := done s (lineArrives .write l s)

/-- UART_OPEN_LINE. -/
def execUartOpenLine (l : UartLine) (s : State) : Host.Outcome State Fault Refusal := done s (lineArrives .openLine l s)

/-- UART_COMMIT_LINE. -/
def execUartCommitLine (l : UartLine) (s : State) : Host.Outcome State Fault Refusal := done s (lineArrives .commit l s)

/-- UART_CANCEL_LINE. -/
def execUartCancelLine (l : UartLine) (s : State) : Host.Outcome State Fault Refusal := done s (lineArrives .cancel l s)

end Sys2Proof.Machine
end

