-- ==== Sys2Proof/Machine/Publication.lean ====
section
/-! DEFINITION. A publication: every 1,000 ns the sensors are judged, remap offers that waited are made, ro values and generations
are copied, and event-driven PDOs are formed (R270, R271, R298, R378, R400 to R407). -/

namespace Sys2Proof.Machine

/-- Cycles between publications. -/
def pubPeriod : Nat := 1600

/-- Cycles of one unit of an inhibit time, 100 µs (Table 13.4). -/
def inhibitUnit : Nat := 160000

/-- The key of a mapped object. -/
def mappedKey (x : Nat) : Nat := let (index, sub, _) := mapEntry x; index * 256 + sub

/-- A transmit PDO whose mapped values changed, now or while its inhibit time ran. -/
def pdoChanged (s : State) (changed : List Nat) (k : Nat) : Bool :=
  eventPdo s k && (s.links.tpdoChanged.contains k || (mapping s true k).any fun x => changed.contains (mappedKey x))

/-- The inhibit time of a transmit PDO has passed since it was last sent. -/
def inhibitOver (s : State) (k : Nat) : Bool :=
  match s.links.tpdoLast.find? fun e => e.1 == k with
  | none => true
  | some (_, c) => decide (c + s.reg Reg.tpdoInhibit k * inhibitUnit ≤ s.clocks.cycle)

/-- An event-driven PDO at a publication (R298). -/
def publishPdo (changed : List Nat) (s : State) (k : Nat) : State :=
  if !pdoChanged s changed k then s
  else if inhibitOver s k then formPdo s k
  else s.modLinks fun l => { l with tpdoChanged := k :: l.tpdoChanged.filter (· != k) }

/-- The event-driven PDOs of a publication, in ascending number. -/
def publishPdos (changed : List Nat) (s : State) : State :=
  if s.mode = .running ∧ canListens s then (List.range 16).foldl (publishPdo changed) s else s

/-- The copy of a publication, and the PDOs that it brings about: the generations that move are changed values too. -/
def publishes (s : State) : State :=
  let s := deriveRegs s
  let changed := publishedChanges s
  publishPdos (changed ++ genKeys changed) (copyOut (bumpGens s changed))

/-- A publication at its cycle; when the sensors show a loss of the 48 V input, nothing is left to publish. -/
def publication (x : Sensors) (s : State) : State :=
  if s.mode = .off ∨ s.mode = .boot then s
  else
    let s := readSensors (s.runTo s.clocks.nextPub) x
    if s.mode = .off then s
    else
      let s := publishes (retryOffers s)
      { s with clocks := { s.clocks with nextPub := s.clocks.nextPub + pubPeriod } }

/-- PUBLICATION. -/
def execPublication (x : Sensors) (s : State) : Host.Outcome State Fault Refusal := done s (publication x s)

end Sys2Proof.Machine
end

