-- ==== Sys2Proof/Machine/Dispatch.lean ====
section
/-! DEFINITION. The dispatch: one arm per command, each a direct call of its meaning. -/

namespace Sys2Proof.Machine

/-- The effect of a command on everything but the queue. -/
def exec (i : Instr) (s : State) : Host.Outcome State Fault Refusal :=
  match i with
  | .powerUp b => Sys2Proof.Machine.execPowerUp b s
  | .hearthLockTimeout => Sys2Proof.Machine.execHearthLockTimeout s
  | .hearthUnlock => Sys2Proof.Machine.execHearthUnlock s
  | .refclkAbsent => Sys2Proof.Machine.execRefclkAbsent s
  | .beatBoundary => Sys2Proof.Machine.execBeatBoundary s
  | .actionDueInHeld slot => Sys2Proof.Machine.execActionDueInHeld slot s
  | .actionCommit slot => Sys2Proof.Machine.execActionCommit slot s
  | .actionCancel slot => Sys2Proof.Machine.execActionCancel slot s
  | .timeActFieldWrite slot sub v => Sys2Proof.Machine.execTimeActFieldWrite slot sub v s
  | .ptpSync m => Sys2Proof.Machine.execPtpSync m s
  | .ptpFollowUp m => Sys2Proof.Machine.execPtpFollowUp m s
  | .ptpAnnounce m => Sys2Proof.Machine.execPtpAnnounce m s
  | .ptpDelayResp m => Sys2Proof.Machine.execPtpDelayResp m s
  | .ptpPdelayReq m => Sys2Proof.Machine.execPtpPdelayReq m s
  | .ptpPdelayResp m => Sys2Proof.Machine.execPtpPdelayResp m s
  | .ptpManagement => Sys2Proof.Machine.execPtpManagement s
  | .ptpSyncTx eighth => Sys2Proof.Machine.execPtpSyncTx eighth s
  | .ptpDelayReqTx eighth => Sys2Proof.Machine.execPtpDelayReqTx eighth s
  | .announceReceiptTimeout => Sys2Proof.Machine.execAnnounceReceiptTimeout s
  | .ptpPortLinkDown => Sys2Proof.Machine.execPtpPortLinkDown s
  | .timePtpEnable v => Sys2Proof.Machine.execTimePtpEnable v s
  | .signalPresent lane => Sys2Proof.Machine.execSignalPresent lane s
  | .lossOfSignal lane => Sys2Proof.Machine.execLossOfSignal lane s
  | .blockLock lane sync => Sys2Proof.Machine.execBlockLock lane sync s
  | .blockLockLoss lane sync => Sys2Proof.Machine.execBlockLockLoss lane sync s
  | .fecLock lane interleaves => Sys2Proof.Machine.execFecLock lane interleaves s
  | .fecLockLoss lane => Sys2Proof.Machine.execFecLockLoss lane s
  | .beatHeader lane w age => Sys2Proof.Machine.execBeatHeader lane w age s
  | .alignMarker lane a b age => Sys2Proof.Machine.execAlignMarker lane a b age s
  | .dataBlock lane b => Sys2Proof.Machine.execDataBlock lane b s
  | .fillBlock lane => Sys2Proof.Machine.execFillBlock lane s
  | .shoalTokenRelease shoal position token => Sys2Proof.Machine.execShoalTokenRelease shoal position token s
  | .laneConfigWrite lane sub v => Sys2Proof.Machine.execLaneConfigWrite lane sub v s
  | .laneInjectFire tx lane v => Sys2Proof.Machine.execLaneInjectFire tx lane v s
  | .injectPeriodic tx lane => Sys2Proof.Machine.execInjectPeriodic tx lane s
  | .prbsLock lane bits => Sys2Proof.Machine.execPrbsLock lane bits s
  | .prbsLockLoss lane bits => Sys2Proof.Machine.execPrbsLockLoss lane bits s
  | .ferryToken lane header words => Sys2Proof.Machine.execFerryToken lane header words s
  | .ferryTokenRelease lane slot => Sys2Proof.Machine.execFerryTokenRelease lane slot s
  | .triggerArrival t plane => Sys2Proof.Machine.execTriggerArrival t plane s
  | .orphanToken t port plane => Sys2Proof.Machine.execOrphanToken t port plane s
  | .bankedCycle t e => Sys2Proof.Machine.execBankedCycle t e s
  | .nop u f => Sys2Proof.Machine.execNop u f s
  | .rep u f => Sys2Proof.Machine.execRep u f s
  | .pset u f => Sys2Proof.Machine.execPset u f s
  | .ttest u f => Sys2Proof.Machine.execTtest u f s
  | .tflag u f => Sys2Proof.Machine.execTflag u f s
  | .recv u f => Sys2Proof.Machine.execRecv u f s
  | .send u f => Sys2Proof.Machine.execSend u f s
  | .ldc u f e => Sys2Proof.Machine.execLdc u f e s
  | .ldw u f e => Sys2Proof.Machine.execLdw u f e s
  | .stw u f => Sys2Proof.Machine.execStw u f s
  | .hpush u f => Sys2Proof.Machine.execHpush u f s
  | .hld u f e => Sys2Proof.Machine.execHld u f e s
  | .acci u f => Sys2Proof.Machine.execAcci u f s
  | .dot u f => Sys2Proof.Machine.execDot u f s
  | .accout u f => Sys2Proof.Machine.execAccout u f s
  | .accred u f => Sys2Proof.Machine.execAccred u f s
  | .vadd u f => Sys2Proof.Machine.execVadd u f s
  | .vsub u f => Sys2Proof.Machine.execVsub u f s
  | .vmul u f => Sys2Proof.Machine.execVmul u f s
  | .vfma u f => Sys2Proof.Machine.execVfma u f s
  | .vmax u f => Sys2Proof.Machine.execVmax u f s
  | .vmin u f => Sys2Proof.Machine.execVmin u f s
  | .vshr u f => Sys2Proof.Machine.execVshr u f s
  | .vcvt u f => Sys2Proof.Machine.execVcvt u f s
  | .vbc u f => Sys2Proof.Machine.execVbc u f s
  | .vslide u f => Sys2Proof.Machine.execVslide u f s
  | .lut u f => Sys2Proof.Machine.execLut u f s
  | .luti u f => Sys2Proof.Machine.execLuti u f s
  | .cmp u f => Sys2Proof.Machine.execCmp u f s
  | .testv u f => Sys2Proof.Machine.execTestv u f s
  | .sel u f => Sys2Proof.Machine.execSel u f s
  | .mlog u f => Sys2Proof.Machine.execMlog u f s
  | .popc u f => Sys2Proof.Machine.execPopc u f s
  | .lda u f => Sys2Proof.Machine.execLda u f s
  | .sta u f => Sys2Proof.Machine.execSta u f s
  | .reda u f => Sys2Proof.Machine.execReda u f s
  | .aradd u f => Sys2Proof.Machine.execAradd u f s
  | .br u f => Sys2Proof.Machine.execBr u f s
  | .endKernel u f => Sys2Proof.Machine.execEndKernel u f s
  | .budgetExhausted h t => Sys2Proof.Machine.execBudgetExhausted h t s
  | .dbgHazClear v => Sys2Proof.Machine.execDbgHazClear v s
  | .soundingEnd => Sys2Proof.Machine.execSoundingEnd s
  | .soundLost => Sys2Proof.Machine.execSoundLost s
  | .shadowLoadComplete => Sys2Proof.Machine.execShadowLoadComplete s
  | .imgShadowLoad v => Sys2Proof.Machine.execImgShadowLoad v s
  | .forgeSoundLoaded forging => Sys2Proof.Machine.execForgeSoundLoaded forging s
  | .forgeSoundReprime forging => Sys2Proof.Machine.execForgeSoundReprime forging s
  | .forgeSoundReload forging => Sys2Proof.Machine.execForgeSoundReload forging s
  | .quenchFinalToken forging input plane => Sys2Proof.Machine.execQuenchFinalToken forging input plane s
  | .verdictIssue forging stateLost => Sys2Proof.Machine.execVerdictIssue forging stateLost s
  | .verdictRingArrival forging harbour beat => Sys2Proof.Machine.execVerdictRingArrival forging harbour beat s
  | .nopCommand h e q => Sys2Proof.Machine.execNopCommand h e q s
  | .signal h e q => Sys2Proof.Machine.execSignal h e q s
  | .list h e q => Sys2Proof.Machine.execList h e q s
  | .copy h e q => Sys2Proof.Machine.execCopy h e q s
  | .fill h e q => Sys2Proof.Machine.execFill h e q s
  | .fetch h e q => Sys2Proof.Machine.execFetch h e q s
  | .store h e q => Sys2Proof.Machine.execStore h e q s
  | .pin h e q => Sys2Proof.Machine.execPin h e q s
  | .pinCopy h e q => Sys2Proof.Machine.execPinCopy h e q s
  | .launch h e q => Sys2Proof.Machine.execLaunch h e q s
  | .rangePrefetch h e q => Sys2Proof.Machine.execRangePrefetch h e q s
  | .rangeFlush h e q => Sys2Proof.Machine.execRangeFlush h e q s
  | .rangeInvalidate h e q => Sys2Proof.Machine.execRangeInvalidate h e q s
  | .sieveJob h e q => Sys2Proof.Machine.execSieveJob h e q s
  | .pairJob h e q => Sys2Proof.Machine.execPairJob h e q s
  | .commandStart h e q => Sys2Proof.Machine.execCommandStart h e q s
  | .commandComplete h e q => Sys2Proof.Machine.execCommandComplete h e q s
  | .engTokens h v => Sys2Proof.Machine.execEngTokens h v s
  | .engResume h e v => Sys2Proof.Machine.execEngResume h e v s
  | .engCompletionsRead via h => Sys2Proof.Machine.execEngCompletionsRead via h s
  | .itemArrival h dq index ecc => Sys2Proof.Machine.execItemArrival h dq index ecc s
  | .itemDue h => Sys2Proof.Machine.execItemDue h s
  | .itemTimeout h dq index => Sys2Proof.Machine.execItemTimeout h dq index s
  | .reductionApply h => Sys2Proof.Machine.execReductionApply h s
  | .orderedReductionApply h => Sys2Proof.Machine.execOrderedReductionApply h s
  | .cacheHoldDirectMib h v => Sys2Proof.Machine.execCacheHoldDirectMib h v s
  | .hbmRefresh h bank => Sys2Proof.Machine.execHbmRefresh h bank s
  | .hbmScrub h line ecc => Sys2Proof.Machine.execHbmScrub h line ecc s
  | .seqNext m => Sys2Proof.Machine.execSeqNext m s
  | .seqJump m => Sys2Proof.Machine.execSeqJump m s
  | .seqJumpP m => Sys2Proof.Machine.execSeqJumpP m s
  | .seqBranch m => Sys2Proof.Machine.execSeqBranch m s
  | .seqCall m => Sys2Proof.Machine.execSeqCall m s
  | .seqReturn m => Sys2Proof.Machine.execSeqReturn m s
  | .seqWait m => Sys2Proof.Machine.execSeqWait m s
  | .seqEnd m => Sys2Proof.Machine.execSeqEnd m s
  | .routineRestart h ctx => Sys2Proof.Machine.execRoutineRestart h ctx s
  | .publication x => Sys2Proof.Machine.execPublication x s
  | .mainRailTimeout => Sys2Proof.Machine.execMainRailTimeout s
  | .mainPowerRemoval => Sys2Proof.Machine.execMainPowerRemoval s
  | .snapshotExpiry via key => Sys2Proof.Machine.execSnapshotExpiry via key s
  | .uartPartExpiry key => Sys2Proof.Machine.execUartPartExpiry key s
  | .domainSessionIdle key => Sys2Proof.Machine.execDomainSessionIdle key s
  | .domainReadIdle via key => Sys2Proof.Machine.execDomainReadIdle via key s
  | .registerWrite index sub v => Sys2Proof.Machine.execRegisterWrite index sub v s
  | .read d => Sys2Proof.Machine.execRead d s
  | .write d => Sys2Proof.Machine.execWrite d s
  | .domainOpen d => Sys2Proof.Machine.execDomainOpen d s
  | .domainChunk d => Sys2Proof.Machine.execDomainChunk d s
  | .domainCommit d => Sys2Proof.Machine.execDomainCommit d s
  | .domainCancel d => Sys2Proof.Machine.execDomainCancel d s
  | .domainRead d => Sys2Proof.Machine.execDomainRead d s
  | .subscribe d => Sys2Proof.Machine.execSubscribe d s
  | .close d => Sys2Proof.Machine.execClose d s
  | .sessionTimeout via => Sys2Proof.Machine.execSessionTimeout via s
  | .arpRequest f port mac target => Sys2Proof.Machine.execArpRequest f port mac target s
  | .icmpEcho f port mac v6 target body => Sys2Proof.Machine.execIcmpEcho f port mac v6 target body s
  | .neighbourSolicitation f port mac target dad => Sys2Proof.Machine.execNeighbourSolicitation f port mac target dad s
  | .ethLinkChange port up => Sys2Proof.Machine.execEthLinkChange port up s
  | .usdoUpload f node index sub next => Sys2Proof.Machine.execUsdoUpload f node index sub next s
  | .usdoDownload f node index sub size data => Sys2Proof.Machine.execUsdoDownload f node index sub size data s
  | .nmtStartRemoteNode node => Sys2Proof.Machine.execNmtStartRemoteNode node s
  | .nmtStopRemoteNode node => Sys2Proof.Machine.execNmtStopRemoteNode node s
  | .nmtEnterPreOperational node => Sys2Proof.Machine.execNmtEnterPreOperational node s
  | .nmtResetNode node => Sys2Proof.Machine.execNmtResetNode node s
  | .nmtResetCommunication node => Sys2Proof.Machine.execNmtResetCommunication node s
  | .heartbeat => Sys2Proof.Machine.execHeartbeat s
  | .sync => Sys2Proof.Machine.execSync s
  | .tpdoEventTimer pdo => Sys2Proof.Machine.execTpdoEventTimer pdo s
  | .receivePdo f pdo data => Sys2Proof.Machine.execReceivePdo f pdo data s
  | .emcyTransmit => Sys2Proof.Machine.execEmcyTransmit s
  | .busOff => Sys2Proof.Machine.execBusOff s
  | .busOffRecovery => Sys2Proof.Machine.execBusOffRecovery s
  | .uartReadLine l => Sys2Proof.Machine.execUartReadLine l s
  | .uartWriteLine l => Sys2Proof.Machine.execUartWriteLine l s
  | .uartOpenLine l => Sys2Proof.Machine.execUartOpenLine l s
  | .uartCommitLine l => Sys2Proof.Machine.execUartCommitLine l s
  | .uartCancelLine l => Sys2Proof.Machine.execUartCancelLine l s
  | .silushCycleStart => Sys2Proof.Machine.execSilushCycleStart s
  | .slot0Beat b => Sys2Proof.Machine.execSlot0Beat b s
  | .slot0Phase b => Sys2Proof.Machine.execSlot0Phase b s
  | .slot0Range b => Sys2Proof.Machine.execSlot0Range b s
  | .rangingReturn b => Sys2Proof.Machine.execRangingReturn b s
  | .ownBurst b => Sys2Proof.Machine.execOwnBurst b s
  | .slotBurst slot b => Sys2Proof.Machine.execSlotBurst slot b s
  | .slotAbsent slot => Sys2Proof.Machine.execSlotAbsent slot s
  | .silReenable v => Sys2Proof.Machine.execSilReenable v s
  | .activate => Sys2Proof.Machine.execActivate s
  | .noBeatTimeout => Sys2Proof.Machine.execNoBeatTimeout s
  | .start => Sys2Proof.Machine.execStart s
  | .stop => Sys2Proof.Machine.execStop s
  | .hold => Sys2Proof.Machine.execHold s
  | .rearm => Sys2Proof.Machine.execRearm s
  | .reset b => Sys2Proof.Machine.execReset b s
  | .drainEnd => Sys2Proof.Machine.execDrainEnd s
  | .digest lane w => Sys2Proof.Machine.execDigest lane w s
  | .harbourScrub h e => Sys2Proof.Machine.execHarbourScrub h e s
  | .testStart x => Sys2Proof.Machine.execTestStart x s
  | .testForcedStart x => Sys2Proof.Machine.execTestForcedStart x s
  | .testComplete x fails => Sys2Proof.Machine.execTestComplete x fails s
  | .fltLogClear v => Sys2Proof.Machine.execFltLogClear v s
  | .bistLogic unit => Sys2Proof.Machine.execBistLogic unit s
  | .bistMemory unit => Sys2Proof.Machine.execBistMemory unit s
  | .bistBoth unit => Sys2Proof.Machine.execBistBoth unit s
  | .bistComplete logic memory rows => Sys2Proof.Machine.execBistComplete logic memory rows s
  | .pwrDomainOn domain v => Sys2Proof.Machine.execPwrDomainOn domain v s
  | .rampComplete domain ok => Sys2Proof.Machine.execRampComplete domain ok s
  | .domainFailed domain => Sys2Proof.Machine.execDomainFailed domain s
  | .jtagIdcode => Sys2Proof.Machine.execJtagIdcode s
  | .jtagBypass tdi => Sys2Proof.Machine.execJtagBypass tdi s
  | .ptpDelayReq m => Sys2Proof.Machine.execPtpDelayReq m s
  | .canErrorPassive passive => Sys2Proof.Machine.execCanErrorPassive passive s
  | .usdoAbort f node index sub => Sys2Proof.Machine.execUsdoAbort f node index sub s

end Sys2Proof.Machine
end

