-- ==== Sys2Proof/Safety.lean ====
section
/-! DEFINITION. What counts as a safe step, in the terms of the statements: which commands name a unit that the wafer has, and the
forms that every step keeps. -/

namespace Sys2Proof.Machine

/-- Every unit that a command names is numbered in Table 0.4 and enabled by the grade (R6, R10). -/
def present (s : State) : Instr → Bool
  | .actionDueInHeld slot => decide (slot < 16)
  | .actionCommit slot => decide (slot < 16)
  | .actionCancel slot => decide (slot < 16)
  | .timeActFieldWrite slot _ _ => decide (slot < 16)
  | .signalPresent l => s.hasLane l
  | .lossOfSignal l => s.hasLane l
  | .blockLock l _ => s.hasLane l
  | .blockLockLoss l _ => s.hasLane l
  | .fecLock l _ => s.hasLane l
  | .fecLockLoss l => s.hasLane l
  | .beatHeader l _ _ => s.hasLane l
  | .alignMarker l _ _ _ => s.hasLane l
  | .dataBlock l _ => s.hasLane l
  | .fillBlock l => s.hasLane l
  | .shoalTokenRelease k _ _ => s.hasHarbour (k / 16)
  | .laneConfigWrite l _ _ => decide (l < 1024)
  | .laneInjectFire tx l _ => decide (l < if tx then 256 else 1024)
  | .injectPeriodic tx l => if tx then s.hasXlane l else s.hasLane l
  | .prbsLock l _ => s.hasLane l
  | .prbsLockLoss l _ => s.hasLane l
  | .ferryToken l _ _ => s.hasLane l
  | .ferryTokenRelease l _ => s.hasLane l
  | .triggerArrival t _ => s.hasTile t
  | .orphanToken t _ _ => s.hasTile t
  | .bankedCycle t _ => s.hasIsland t.island && t.row < 16 && t.col < 17
  | .nop u _ => s.hasSeat u
  | .rep u _ => s.hasSeat u
  | .pset u _ => s.hasSeat u
  | .ttest u _ => s.hasSeat u
  | .tflag u _ => s.hasSeat u
  | .recv u _ => s.hasSeat u
  | .send u _ => s.hasSeat u
  | .ldc u _ _ => s.hasSeat u
  | .ldw u _ _ => s.hasSeat u
  | .stw u _ => s.hasSeat u
  | .hpush u _ => s.hasSeat u
  | .hld u _ _ => s.hasSeat u
  | .acci u _ => s.hasSeat u
  | .dot u _ => s.hasSeat u
  | .accout u _ => s.hasSeat u
  | .accred u _ => s.hasSeat u
  | .vadd u _ => s.hasSeat u
  | .vsub u _ => s.hasSeat u
  | .vmul u _ => s.hasSeat u
  | .vfma u _ => s.hasSeat u
  | .vmax u _ => s.hasSeat u
  | .vmin u _ => s.hasSeat u
  | .vshr u _ => s.hasSeat u
  | .vcvt u _ => s.hasSeat u
  | .vbc u _ => s.hasSeat u
  | .vslide u _ => s.hasSeat u
  | .lut u _ => s.hasSeat u
  | .luti u _ => s.hasSeat u
  | .cmp u _ => s.hasSeat u
  | .testv u _ => s.hasSeat u
  | .sel u _ => s.hasSeat u
  | .mlog u _ => s.hasSeat u
  | .popc u _ => s.hasSeat u
  | .lda u _ => s.hasSeat u
  | .sta u _ => s.hasSeat u
  | .reda u _ => s.hasSeat u
  | .aradd u _ => s.hasSeat u
  | .br u _ => s.hasSeat u
  | .endKernel u _ => s.hasSeat u
  | .budgetExhausted h t => s.hasHarbour h && t < 2
  | .forgeSoundLoaded f => decide (f < 16)
  | .forgeSoundReprime f => decide (f < 16)
  | .forgeSoundReload f => decide (f < 16)
  | .quenchFinalToken f input _ => decide (f < 16) && decide (input < 16)
  | .verdictIssue f _ => decide (f < 16)
  | .verdictRingArrival f h _ => decide (f < 16) && s.hasHarbour h
  | .nopCommand h e q => s.hasQueue h e q
  | .signal h e q => s.hasQueue h e q
  | .list h e q => s.hasQueue h e q
  | .copy h e q => s.hasQueue h e q
  | .fill h e q => s.hasQueue h e q
  | .fetch h e q => s.hasQueue h e q
  | .store h e q => s.hasQueue h e q
  | .pin h e q => s.hasQueue h e q
  | .pinCopy h e q => s.hasQueue h e q
  | .launch h e q => s.hasQueue h e q
  | .rangePrefetch h e q => s.hasQueue h e q
  | .rangeFlush h e q => s.hasQueue h e q
  | .rangeInvalidate h e q => s.hasQueue h e q
  | .sieveJob h e q => s.hasQueue h e q
  | .pairJob h e q => s.hasQueue h e q
  | .commandStart h e q => s.hasQueue h e q
  | .commandComplete h e q => s.hasQueue h e q
  | .engTokens h _ => decide (h < 16)
  | .engResume h e _ => decide (h < 16) && decide (e < 5)
  | .engCompletionsRead _ h => decide (h < 16)
  | .itemArrival h dq _ _ => s.hasHarbour h && dq < 4
  | .itemDue h => s.hasHarbour h
  | .itemTimeout h dq _ => s.hasHarbour h && dq < 4
  | .reductionApply h => s.hasHarbour h
  | .orderedReductionApply h => s.hasHarbour h
  | .cacheHoldDirectMib h _ => decide (h < 16)
  | .hbmRefresh h _ => s.hasHarbour h
  | .hbmScrub h _ _ => s.hasHarbour h
  | .seqNext i => s.hasHarbour i.h && i.ctx < 10
  | .seqJump i => s.hasHarbour i.h && i.ctx < 10
  | .seqJumpP i => s.hasHarbour i.h && i.ctx < 10
  | .seqBranch i => s.hasHarbour i.h && i.ctx < 10
  | .seqCall i => s.hasHarbour i.h && i.ctx < 10
  | .seqReturn i => s.hasHarbour i.h && i.ctx < 10
  | .seqWait i => s.hasHarbour i.h && i.ctx < 10
  | .seqEnd i => s.hasHarbour i.h && i.ctx < 10
  | .routineRestart h ctx => s.hasHarbour h && ctx < 10
  | .arpRequest _ port _ _ => decide (port < 2)
  | .icmpEcho _ port _ _ _ _ => decide (port < 2)
  | .neighbourSolicitation _ port _ _ _ => decide (port < 2)
  | .ethLinkChange port _ => decide (port < 2)
  | .tpdoEventTimer pdo => decide (pdo < 16)
  | .receivePdo _ pdo _ => decide (pdo < 8)
  | .slotBurst slot _ => decide (slot < 8)
  | .slotAbsent slot => decide (slot < 8)
  | .digest lane _ => decide (lane = 2 ∨ lane = 3)
  | .harbourScrub h e => s.hasHarbour h && (match e with | some x => x.store < 6 | none => true)
  | .bistLogic unit => decide (unit < 256)
  | .bistMemory unit => decide (unit < 256)
  | .bistBoth unit => decide (unit < 256)
  | .pwrDomainOn d _ => decide (d < 128)
  | .rampComplete d _ => s.hasDomain d
  | .domainFailed d => s.hasDomain d
  | .powerUp _ => true
  | .hearthLockTimeout => true
  | .hearthUnlock => true
  | .refclkAbsent => true
  | .beatBoundary => true
  | .ptpSync _ => true
  | .ptpFollowUp _ => true
  | .ptpAnnounce _ => true
  | .ptpDelayResp _ => true
  | .ptpPdelayReq _ => true
  | .ptpPdelayResp _ => true
  | .ptpManagement => true
  | .ptpSyncTx _ => true
  | .ptpDelayReqTx _ => true
  | .announceReceiptTimeout => true
  | .ptpPortLinkDown => true
  | .timePtpEnable _ => true
  | .dbgHazClear _ => true
  | .soundingEnd => true
  | .soundLost => true
  | .shadowLoadComplete => true
  | .imgShadowLoad _ => true
  | .publication _ => true
  | .mainRailTimeout => true
  | .mainPowerRemoval => true
  | .snapshotExpiry _ _ => true
  | .uartPartExpiry _ => true
  | .domainSessionIdle _ => true
  | .domainReadIdle _ _ => true
  | .registerWrite _ _ _ => true
  | .read _ => true
  | .write _ => true
  | .domainOpen _ => true
  | .domainChunk _ => true
  | .domainCommit _ => true
  | .domainCancel _ => true
  | .domainRead _ => true
  | .subscribe _ => true
  | .close _ => true
  | .sessionTimeout _ => true
  | .usdoUpload _ _ _ _ _ => true
  | .usdoDownload _ _ _ _ _ _ => true
  | .nmtStartRemoteNode _ => true
  | .nmtStopRemoteNode _ => true
  | .nmtEnterPreOperational _ => true
  | .nmtResetNode _ => true
  | .nmtResetCommunication _ => true
  | .heartbeat => true
  | .sync => true
  | .emcyTransmit => true
  | .busOff => true
  | .busOffRecovery => true
  | .uartReadLine _ => true
  | .uartWriteLine _ => true
  | .uartOpenLine _ => true
  | .uartCommitLine _ => true
  | .uartCancelLine _ => true
  | .silushCycleStart => true
  | .slot0Beat _ => true
  | .slot0Phase _ => true
  | .slot0Range _ => true
  | .rangingReturn _ => true
  | .ownBurst _ => true
  | .silReenable _ => true
  | .activate => true
  | .noBeatTimeout => true
  | .start => true
  | .stop => true
  | .hold => true
  | .rearm => true
  | .reset _ => true
  | .drainEnd => true
  | .testStart _ => true
  | .testForcedStart _ => true
  | .testComplete _ _ => true
  | .fltLogClear _ => true
  | .bistComplete _ _ _ => true
  | .jtagIdcode => true
  | .jtagBypass _ => true
  | .ptpDelayReq _ => true
  | .canErrorPassive _ => true
  | .usdoAbort _ _ _ _ => true

/-- The state that a step answers, if it answers one. -/
def answered : Host.Outcome State Fault Refusal → Option State
  | .next t => some t
  | .fault _ => none
  | .refused _ => none

/-- A safe step: it answers a next state. -/
def safeStep (s : State) : Bool := (answered (step s)).isSome

/-- The memory of the engines is in its canonical form: addresses strictly rising, no byte listed that is 0 (R397). -/
def Memory.wf (s : State) : Bool := storeWf s.mem

/-! ### The instruction that a seat runs next -/

/-- The instance of a tile, or the kernel of a temper, has `op` with these fields as its next instruction: it runs once, its
word is intact and, on a temper, in the instruction cache; the instance does not end with it, and the kernel waits for no
line (R92, R131, R193, R214). -/
def readyAt (s : State) (u : Seat) (op : Nat) (f : AnvilFields) (rf : Regfile) : Prop :=
  match u with
  | .tile t q =>
    s.hasTile t = true ∧ ∃ i, (s.tile t q).inst = some i ∧ i.rf = rf ∧ tagPlane rf.it = q ∧ i.rep = none ∧
      (progOf (s.tile t q) q)[i.pos]? = some (encodeWord op f) ∧ (s.tile t q).lostInstr.contains (q, i.pos) = false ∧
      i.pos + 1 < (progOf (s.tile t q) q).length
  | .temper h k =>
    tileOnly op = false ∧ s.hasHarbour h = true ∧ k < 2 ∧ s.groupStands h = false ∧ kernelWaits s h k = false ∧
      ∃ x, (s.temper h k).kernel = some x ∧ x.rf = rf ∧ x.ended = false ∧ x.executed < x.budget ∧ x.rep = none ∧ x.done = none ∧
        (firstRead s h k 3 x.next).1.wants h k = [] ∧
        BitVec.ofNat 64 (lineBits (firstRead s h k 3 x.next).2.data (x.next % 64) 64) = encodeWord op f ∧
        (firstRead s h k 3 x.next).2.poison = false

/-- A kernel has fetched its next instruction; its first one is the commit point of its LAUNCH (R193, R251). -/
def seatFetch (s : State) (h k : Nat) (x : Kernel) : State :=
  let y := (firstRead s h k 3 x.next).1
  modKernel (if x.executed = 0 then commitCmd y h (k + 1) x.queue else y) h k fun z => { z with done := some 0 }

/-- The reads of an instruction so far have found every line that they needed (R214). -/
def missedNothing (s : State) (u : Seat) : Bool :=
  match u with
  | .tile _ _ => true
  | .temper h k => (s.wants h k).isEmpty

/-- The registers of the instance or kernel of a seat. -/
def seatRegs (s : State) (u : Seat) : Option Regfile :=
  match u with
  | .tile t q => (s.tile t q).inst.map Instance.rf
  | .temper h k => (s.temper h k).kernel.map Kernel.rf

/-- The next slot and the next instruction of the instance or kernel of a seat. -/
def seatPlace (s : State) (u : Seat) : Option (Nat × Nat) :=
  match u with
  | .tile t q => (s.tile t q).inst.map fun i => (i.slot, i.pos)
  | .temper h k => (s.temper h k).kernel.map fun x => (x.slot, x.pos)

/-- The state in which the next instruction of a seat does its work: its slot's cycle has come on a tile; a temper has fetched
it and counted it against its budget (R92, R193). -/
def seatState (s : State) (u : Seat) : State :=
  match u with
  | .tile t q =>
    match (s.tile t q).inst with
    | some i => s.runTo (issueCycle s i.start i.slot)
    | none => s
  | .temper h k =>
    match (s.temper h k).kernel with
    | some x => modKernel (seatFetch s h k x) h k fun y => { y with executed := x.executed + 1 }
    | none => s

/-- The slot, cycle, beat and draws of the next instruction of a seat. -/
def seatExec (s : State) (u : Seat) : Exec :=
  match u with
  | .tile t q =>
    match (s.tile t q).inst with
    | some i =>
      { u := u, lost := false, slot := i.slot, off := 0, cycle := issueCycle s i.start i.slot, beat := i.beat,
        draw := tileDraw s q (s.tile t q) i i.slot }
    | none => { u := u, lost := false, slot := 0, off := 0, cycle := 0, beat := 0#48, draw := fun _ => 0 }
  | .temper h k =>
    match (s.temper h k).kernel with
    | some x =>
      { u := u, lost := false, slot := x.slot, off := 0, cycle := (seatFetch s h k x).clocks.cycle, beat := (seatFetch s h k x).beat.n,
        draw := kernelDraw (seatFetch s h k x) h k x x.executed }
    | none => { u := u, lost := false, slot := 0, off := 0, cycle := 0, beat := 0#48, draw := fun _ => 0 }

/-- The rounding of each element of the next instruction of a seat (R122, R123). -/
def seatRnd (s : State) (u : Seat) (f : AnvilFields) : Nat → Rnd := (seatExec s u).rnd f

/-- An instruction has run on a seat: these registers stand, its slots have passed, and the next word is next. -/
def ranOn (s t : State) (u : Seat) (slots : Nat) (rf : Regfile) : Prop :=
  seatRegs t u = some rf ∧ seatPlace t u = (seatPlace s u).map fun x => (x.1 + slots, x.2 + 1)

/-! ### The command that an engine runs -/

/-- The queue runs command `r` of this opcode, not yet done, and its group does not stall (R182, R189). -/
def runsNow (s : State) (h e q op : Nat) (r : Running) : Prop :=
  s.hasQueue h e q = true ∧ (s.harbour h).runningAt e q = some r ∧ cmdOpcode r.cmd = op ∧ r.finished = false ∧
    betweenListed r = false ∧ s.groupStands h = false

/-- The work of the queue's command is done, with this status and detail (Table 8.5). -/
def endedWith (t : State) (h e q status detail : Nat) : Prop :=
  ∃ r, (t.harbour h).runningAt e q = some r ∧ r.finished = true ∧ r.status = status ∧ r.detail = detail

/-- A running command has read every line of `[a, a + n)`, and none of them is poisoned (R199). -/
def holdsLines (r : Running) (a n : Nat) : Prop := ∀ l ∈ linesOf a n, r.has l = true ∧ (r.line l).poison = false

/-- A command of the queue is carried out at once in queue mode: the item needs neither a stack nor another harbour, its stack
is not lost, and the command has nothing outstanding (R190, R205). -/
def servedAtOnce (s : State) (h : Nat) (i : Item) : Prop :=
  s.lockstep h = false ∧ arrivesAtOnce s h i = true ∧ addressesLost s i = false ∧ (s.harbour h).outstanding i.engine i.queue = false

/-- An item waits in its queue once it is issued: in lockstep always; in queue mode where it needs a stack or another harbour,
and no earlier item has arrived (R189, R190). -/
def waitsInQueue (s : State) (h : Nat) (i : Item) : Prop :=
  s.lockstep h = true ∨
    arrivesAtOnce s h i = false ∧ addressesLost s i = false ∧ ∀ d < 4, ∀ j ∈ (s.harbour h).dq d, j.arrived = false

/-- Command `r` of a queue has one line more, poisoned or not, of `total`: its token with PER_ITEM, its status, its end after
the last (R184, R199). -/
def oneLineDone (s t : State) (h e q : Nat) (r : Running) (total : Nat) (poison : Bool) : Prop :=
  ∃ y, (t.harbour h).runningAt e q = some y ∧ y.cmd = r.cmd ∧ y.issued = r.issued + 1 ∧ y.delivered = r.delivered + 1 ∧
    y.finished = decide (r.delivered + 1 = total) ∧ y.status = (if poison = true ∧ r.status = 0 then 3 else r.status) ∧
    tabGet 0#16 (t.harbour h).tokens (cmdDone r.cmd) = tabGet 0#16 (s.harbour h).tokens (cmdDone r.cmd) +
      if cmdPerItem r.cmd = true ∧ cmdDoneEn r.cmd = true then 1#16 else 0#16

/-- The tongs have used a turn: the next queue is next, one HARBOUR cycle later (R182). -/
def turnUsed (s t : State) (h q : Nat) : Prop :=
  t.clocks.cycle = max s.clocks.cycle (s.harbour h).tongsFree ∧ (t.harbour h).tongsNext = (q + 1) % 4 ∧
    (t.harbour h).tongsFree = t.clocks.cycle + groupPace s

/-- A wait on token `k` with value `v` is satisfied (R178). -/
def waitOver (s : State) (h k v : Nat) : Prop :=
  (tabGet 0#16 (s.harbour h).tokens k - BitVec.ofNat 16 v).toNat < 2 ^ 15

/-! ### What reaches the dictionary -/

/-- A datagram of this operation reaches the dictionary: its session is open, and `u` is the state in the CONTROL cycle in which it
takes effect (R269, R276, R302, R304, R306, R307). -/
def reaches (s : State) (op : Nat) (d : Datagram) (u : State) : Prop :=
  s.mode ≠ .off ∧ s.mode ≠ .boot ∧ d.port < 2 ∧ s.flag Reg.ethEnable d.port = true ∧ d.frame = .whole ∧ frameOk d = true ∧
    d.crc = crc32c (datagramBytes op d) ∧ ∃ v, admitSession s d = some v ∧ keptReply v d = none ∧ u = v.accessed (sourceOf d)

/-- The newest output is the answer to a datagram of this operation, with this payload, to the link-layer address that asked
(R303, Table 13.5). -/
def replied (t : State) (op : Nat) (d : Datagram) (payload : List Byte) : Prop :=
  t.outbox.head? = some (.udp d.mac (sourceOf d) (datagram (op + 0x80) d.reqId 0 payload))

/-- A write that the dictionary refuses: its code goes back, and it is counted (R266). -/
def writeRefused (s : State) (code : Nat) : Host.Outcome State Fault Refusal :=
  .next ((s.count Reg.odWritesRefused 0).emit (.status code))

/-! ### What commands leave alone -/

/-- What commits, activations, schedules, patches and power hold: no traffic of lanes, tiles or engines moves it. -/
def State.control (s : State) :=
  (s.act, s.carrier, s.flash, s.domains, s.pub, s.pubDomains, s.actions, s.swaps, s.periods, s.patch, s.images, s.power)

/-- What the tiles, forgings and engines hold, with every byte of their memory. -/
def State.engines (s : State) :=
  (s.tiles, s.lines, s.planes, s.quenches, s.tanks, s.harbours, s.mem, s.poison, s.images)

/-- The commands that leave `State.control` as it is. -/
def keepsControl : Instr → Bool
  | .actionDueInHeld .. | .ptpAnnounce .. | .ptpDelayResp .. | .ptpPdelayReq .. | .ptpPdelayResp .. | .ptpManagement ..
    | .ptpSyncTx .. | .ptpDelayReqTx .. | .announceReceiptTimeout .. | .ptpPortLinkDown .. | .signalPresent ..
    | .lossOfSignal .. | .blockLock .. | .blockLockLoss .. | .fecLock .. | .fecLockLoss .. | .beatHeader .. | .alignMarker ..
    | .fillBlock .. | .shoalTokenRelease .. | .injectPeriodic .. | .prbsLock .. | .prbsLockLoss .. | .ferryTokenRelease ..
    | .triggerArrival .. | .orphanToken .. | .bankedCycle .. | .nop .. | .rep .. | .pset .. | .ttest .. | .tflag ..
    | .recv .. | .send .. | .ldc .. | .ldw .. | .stw .. | .hpush .. | .hld .. | .acci .. | .dot .. | .accout .. | .accred ..
    | .vadd .. | .vsub .. | .vmul .. | .vfma .. | .vmax .. | .vmin .. | .vshr .. | .vcvt .. | .vbc .. | .vslide .. | .lut ..
    | .luti .. | .cmp .. | .testv .. | .sel .. | .mlog .. | .popc .. | .lda .. | .sta .. | .reda .. | .aradd .. | .br ..
    | .endKernel .. | .budgetExhausted .. | .quenchFinalToken .. | .verdictRingArrival .. | .nopCommand .. | .signal ..
    | .list .. | .copy .. | .fill .. | .fetch .. | .store .. | .pin .. | .pinCopy .. | .launch .. | .rangePrefetch ..
    | .rangeFlush .. | .rangeInvalidate .. | .sieveJob .. | .pairJob .. | .commandStart .. | .commandComplete ..
    | .itemArrival .. | .itemDue .. | .itemTimeout .. | .reductionApply .. | .orderedReductionApply .. | .hbmRefresh ..
    | .hbmScrub .. | .routineRestart .. | .snapshotExpiry .. | .uartPartExpiry .. | .domainSessionIdle ..
    | .domainReadIdle .. | .domainOpen .. | .domainChunk .. | .domainCancel .. | .subscribe .. | .close ..
    | .sessionTimeout .. | .arpRequest .. | .icmpEcho .. | .neighbourSolicitation .. | .ethLinkChange ..
    | .nmtResetCommunication .. | .heartbeat .. | .tpdoEventTimer .. | .emcyTransmit .. | .busOff .. | .busOffRecovery ..
    | .silushCycleStart .. | .slot0Beat .. | .slot0Range .. | .rangingReturn .. | .ownBurst .. | .slotBurst ..
    | .slotAbsent .. | .digest .. | .harbourScrub .. | .testStart .. | .testForcedStart .. | .testComplete ..
    | .bistComplete .. | .rampComplete .. | .jtagIdcode .. | .jtagBypass .. | .ptpDelayReq .. | .canErrorPassive ..
    | .usdoAbort .. => true
  | .powerUp .. | .hearthLockTimeout .. | .hearthUnlock .. | .refclkAbsent .. | .beatBoundary .. | .actionCommit ..
    | .actionCancel .. | .timeActFieldWrite .. | .ptpSync .. | .ptpFollowUp .. | .timePtpEnable .. | .dataBlock ..
    | .laneConfigWrite .. | .laneInjectFire .. | .ferryToken .. | .dbgHazClear .. | .soundingEnd .. | .soundLost ..
    | .shadowLoadComplete .. | .imgShadowLoad .. | .forgeSoundLoaded .. | .forgeSoundReprime .. | .forgeSoundReload ..
    | .verdictIssue .. | .engTokens .. | .engResume .. | .engCompletionsRead .. | .cacheHoldDirectMib .. | .seqNext ..
    | .seqJump .. | .seqJumpP .. | .seqBranch .. | .seqCall .. | .seqReturn .. | .seqWait .. | .seqEnd .. | .publication ..
    | .mainRailTimeout .. | .mainPowerRemoval .. | .registerWrite .. | .read .. | .write .. | .domainCommit ..
    | .domainRead .. | .usdoUpload .. | .usdoDownload .. | .nmtStartRemoteNode .. | .nmtStopRemoteNode ..
    | .nmtEnterPreOperational .. | .nmtResetNode .. | .sync .. | .receivePdo .. | .uartReadLine .. | .uartWriteLine ..
    | .uartOpenLine .. | .uartCommitLine .. | .uartCancelLine .. | .slot0Phase .. | .silReenable .. | .activate ..
    | .noBeatTimeout .. | .start .. | .stop .. | .hold .. | .rearm .. | .reset .. | .drainEnd .. | .fltLogClear ..
    | .bistLogic .. | .bistMemory .. | .bistBoth .. | .pwrDomainOn .. | .domainFailed .. => false

/-- The commands that leave `State.engines` as it is. -/
def keepsEngines : Instr → Bool
  | .actionDueInHeld .. | .ptpSync .. | .ptpFollowUp .. | .ptpAnnounce .. | .ptpDelayResp .. | .ptpPdelayReq ..
    | .ptpPdelayResp .. | .ptpManagement .. | .ptpSyncTx .. | .ptpDelayReqTx .. | .announceReceiptTimeout ..
    | .ptpPortLinkDown .. | .signalPresent .. | .lossOfSignal .. | .blockLock .. | .blockLockLoss .. | .fecLock ..
    | .fecLockLoss .. | .beatHeader .. | .alignMarker .. | .dataBlock .. | .fillBlock .. | .injectPeriodic .. | .prbsLock ..
    | .prbsLockLoss .. | .ferryToken .. | .snapshotExpiry .. | .uartPartExpiry .. | .domainSessionIdle ..
    | .domainReadIdle .. | .domainOpen .. | .domainChunk .. | .domainCancel .. | .subscribe .. | .close ..
    | .sessionTimeout .. | .arpRequest .. | .icmpEcho .. | .neighbourSolicitation .. | .ethLinkChange ..
    | .nmtResetCommunication .. | .heartbeat .. | .tpdoEventTimer .. | .emcyTransmit .. | .busOff .. | .busOffRecovery ..
    | .silushCycleStart .. | .slot0Beat .. | .slot0Range .. | .rangingReturn .. | .ownBurst .. | .slotBurst ..
    | .slotAbsent .. | .digest .. | .jtagIdcode .. | .jtagBypass .. | .ptpDelayReq .. | .canErrorPassive .. | .usdoAbort .. => true
  | .powerUp .. | .hearthLockTimeout .. | .hearthUnlock .. | .refclkAbsent .. | .beatBoundary .. | .actionCommit ..
    | .actionCancel .. | .timeActFieldWrite .. | .timePtpEnable .. | .shoalTokenRelease .. | .laneConfigWrite ..
    | .laneInjectFire .. | .ferryTokenRelease .. | .triggerArrival .. | .orphanToken .. | .bankedCycle .. | .nop .. | .rep ..
    | .pset .. | .ttest .. | .tflag .. | .recv .. | .send .. | .ldc .. | .ldw .. | .stw .. | .hpush .. | .hld .. | .acci ..
    | .dot .. | .accout .. | .accred .. | .vadd .. | .vsub .. | .vmul .. | .vfma .. | .vmax .. | .vmin .. | .vshr ..
    | .vcvt .. | .vbc .. | .vslide .. | .lut .. | .luti .. | .cmp .. | .testv .. | .sel .. | .mlog .. | .popc .. | .lda ..
    | .sta .. | .reda .. | .aradd .. | .br .. | .endKernel .. | .budgetExhausted .. | .dbgHazClear .. | .soundingEnd ..
    | .soundLost .. | .shadowLoadComplete .. | .imgShadowLoad .. | .forgeSoundLoaded .. | .forgeSoundReprime ..
    | .forgeSoundReload .. | .quenchFinalToken .. | .verdictIssue .. | .verdictRingArrival .. | .nopCommand .. | .signal ..
    | .list .. | .copy .. | .fill .. | .fetch .. | .store .. | .pin .. | .pinCopy .. | .launch .. | .rangePrefetch ..
    | .rangeFlush .. | .rangeInvalidate .. | .sieveJob .. | .pairJob .. | .commandStart .. | .commandComplete ..
    | .engTokens .. | .engResume .. | .engCompletionsRead .. | .itemArrival .. | .itemDue .. | .itemTimeout ..
    | .reductionApply .. | .orderedReductionApply .. | .cacheHoldDirectMib .. | .hbmRefresh .. | .hbmScrub .. | .seqNext ..
    | .seqJump .. | .seqJumpP .. | .seqBranch .. | .seqCall .. | .seqReturn .. | .seqWait .. | .seqEnd ..
    | .routineRestart .. | .publication .. | .mainRailTimeout .. | .mainPowerRemoval .. | .registerWrite .. | .read ..
    | .write .. | .domainCommit .. | .domainRead .. | .usdoUpload .. | .usdoDownload .. | .nmtStartRemoteNode ..
    | .nmtStopRemoteNode .. | .nmtEnterPreOperational .. | .nmtResetNode .. | .sync .. | .receivePdo .. | .uartReadLine ..
    | .uartWriteLine .. | .uartOpenLine .. | .uartCommitLine .. | .uartCancelLine .. | .slot0Phase .. | .silReenable ..
    | .activate .. | .noBeatTimeout .. | .start .. | .stop .. | .hold .. | .rearm .. | .reset .. | .drainEnd ..
    | .harbourScrub .. | .testStart .. | .testForcedStart .. | .testComplete .. | .fltLogClear .. | .bistLogic ..
    | .bistMemory .. | .bistBoth .. | .bistComplete .. | .pwrDomainOn .. | .rampComplete .. | .domainFailed .. => false

/-- The commands that write no register of the dictionary. -/
def keepsRegisters : Instr → Bool
  | .ptpManagement .. | .ptpSyncTx .. | .ptpDelayReqTx .. | .fecLock .. | .budgetExhausted .. | .nopCommand .. | .signal ..
    | .pin .. | .commandStart .. | .hbmRefresh .. | .nmtResetCommunication .. | .testStart .. | .jtagIdcode ..
    | .jtagBypass .. | .usdoAbort .. => true
  | .powerUp .. | .hearthLockTimeout .. | .hearthUnlock .. | .refclkAbsent .. | .beatBoundary .. | .actionDueInHeld ..
    | .actionCommit .. | .actionCancel .. | .timeActFieldWrite .. | .ptpSync .. | .ptpFollowUp .. | .ptpAnnounce ..
    | .ptpDelayResp .. | .ptpPdelayReq .. | .ptpPdelayResp .. | .announceReceiptTimeout .. | .ptpPortLinkDown ..
    | .timePtpEnable .. | .signalPresent .. | .lossOfSignal .. | .blockLock .. | .blockLockLoss .. | .fecLockLoss ..
    | .beatHeader .. | .alignMarker .. | .dataBlock .. | .fillBlock .. | .shoalTokenRelease .. | .laneConfigWrite ..
    | .laneInjectFire .. | .injectPeriodic .. | .prbsLock .. | .prbsLockLoss .. | .ferryToken .. | .ferryTokenRelease ..
    | .triggerArrival .. | .orphanToken .. | .bankedCycle .. | .nop .. | .rep .. | .pset .. | .ttest .. | .tflag ..
    | .recv .. | .send .. | .ldc .. | .ldw .. | .stw .. | .hpush .. | .hld .. | .acci .. | .dot .. | .accout .. | .accred ..
    | .vadd .. | .vsub .. | .vmul .. | .vfma .. | .vmax .. | .vmin .. | .vshr .. | .vcvt .. | .vbc .. | .vslide .. | .lut ..
    | .luti .. | .cmp .. | .testv .. | .sel .. | .mlog .. | .popc .. | .lda .. | .sta .. | .reda .. | .aradd .. | .br ..
    | .endKernel .. | .dbgHazClear .. | .soundingEnd .. | .soundLost .. | .shadowLoadComplete .. | .imgShadowLoad ..
    | .forgeSoundLoaded .. | .forgeSoundReprime .. | .forgeSoundReload .. | .quenchFinalToken .. | .verdictIssue ..
    | .verdictRingArrival .. | .list .. | .copy .. | .fill .. | .fetch .. | .store .. | .pinCopy .. | .launch ..
    | .rangePrefetch .. | .rangeFlush .. | .rangeInvalidate .. | .sieveJob .. | .pairJob .. | .commandComplete ..
    | .engTokens .. | .engResume .. | .engCompletionsRead .. | .itemArrival .. | .itemDue .. | .itemTimeout ..
    | .reductionApply .. | .orderedReductionApply .. | .cacheHoldDirectMib .. | .hbmScrub .. | .seqNext .. | .seqJump ..
    | .seqJumpP .. | .seqBranch .. | .seqCall .. | .seqReturn .. | .seqWait .. | .seqEnd .. | .routineRestart ..
    | .publication .. | .mainRailTimeout .. | .mainPowerRemoval .. | .snapshotExpiry .. | .uartPartExpiry ..
    | .domainSessionIdle .. | .domainReadIdle .. | .registerWrite .. | .read .. | .write .. | .domainOpen ..
    | .domainChunk .. | .domainCommit .. | .domainCancel .. | .domainRead .. | .subscribe .. | .close .. | .sessionTimeout ..
    | .arpRequest .. | .icmpEcho .. | .neighbourSolicitation .. | .ethLinkChange .. | .usdoUpload .. | .usdoDownload ..
    | .nmtStartRemoteNode .. | .nmtStopRemoteNode .. | .nmtEnterPreOperational .. | .nmtResetNode .. | .heartbeat ..
    | .sync .. | .tpdoEventTimer .. | .receivePdo .. | .emcyTransmit .. | .busOff .. | .busOffRecovery .. | .uartReadLine ..
    | .uartWriteLine .. | .uartOpenLine .. | .uartCommitLine .. | .uartCancelLine .. | .silushCycleStart .. | .slot0Beat ..
    | .slot0Phase .. | .slot0Range .. | .rangingReturn .. | .ownBurst .. | .slotBurst .. | .slotAbsent .. | .silReenable ..
    | .activate .. | .noBeatTimeout .. | .start .. | .stop .. | .hold .. | .rearm .. | .reset .. | .drainEnd .. | .digest ..
    | .harbourScrub .. | .testForcedStart .. | .testComplete .. | .fltLogClear .. | .bistLogic .. | .bistMemory ..
    | .bistBoth .. | .bistComplete .. | .pwrDomainOn .. | .rampComplete .. | .domainFailed .. | .ptpDelayReq ..
    | .canErrorPassive .. => false

/-- The seat of an instruction of the Anvil. -/
def seatOf : Instr → Option Seat
  | .nop u _ | .rep u _ | .pset u _ | .ttest u _ | .tflag u _ | .recv u _ | .send u _ | .ldc u _ _ | .ldw u _ _ | .stw u _
    | .hpush u _ | .hld u _ _ | .acci u _ | .dot u _ | .accout u _ | .accred u _ | .vadd u _ | .vsub u _ | .vmul u _
    | .vfma u _ | .vmax u _ | .vmin u _ | .vshr u _ | .vcvt u _ | .vbc u _ | .vslide u _ | .lut u _ | .luti u _ | .cmp u _
    | .testv u _ | .sel u _ | .mlog u _ | .popc u _ | .lda u _ | .sta u _ | .reda u _ | .aradd u _ | .br u _
    | .endKernel u _ => some u
  | .powerUp .. | .hearthLockTimeout .. | .hearthUnlock .. | .refclkAbsent .. | .beatBoundary .. | .actionDueInHeld ..
    | .actionCommit .. | .actionCancel .. | .timeActFieldWrite .. | .ptpSync .. | .ptpFollowUp .. | .ptpAnnounce ..
    | .ptpDelayResp .. | .ptpPdelayReq .. | .ptpPdelayResp .. | .ptpManagement .. | .ptpSyncTx .. | .ptpDelayReqTx ..
    | .announceReceiptTimeout .. | .ptpPortLinkDown .. | .timePtpEnable .. | .signalPresent .. | .lossOfSignal ..
    | .blockLock .. | .blockLockLoss .. | .fecLock .. | .fecLockLoss .. | .beatHeader .. | .alignMarker .. | .dataBlock ..
    | .fillBlock .. | .shoalTokenRelease .. | .laneConfigWrite .. | .laneInjectFire .. | .injectPeriodic .. | .prbsLock ..
    | .prbsLockLoss .. | .ferryToken .. | .ferryTokenRelease .. | .triggerArrival .. | .orphanToken .. | .bankedCycle ..
    | .budgetExhausted .. | .dbgHazClear .. | .soundingEnd | .soundLost .. | .shadowLoadComplete .. | .imgShadowLoad ..
    | .forgeSoundLoaded .. | .forgeSoundReprime .. | .forgeSoundReload .. | .quenchFinalToken .. | .verdictIssue ..
    | .verdictRingArrival .. | .nopCommand .. | .signal .. | .list .. | .copy .. | .fill .. | .fetch .. | .store ..
    | .pin .. | .pinCopy .. | .launch .. | .rangePrefetch .. | .rangeFlush .. | .rangeInvalidate .. | .sieveJob ..
    | .pairJob .. | .commandStart .. | .commandComplete .. | .engTokens .. | .engResume .. | .engCompletionsRead ..
    | .itemArrival .. | .itemDue .. | .itemTimeout .. | .reductionApply .. | .orderedReductionApply ..
    | .cacheHoldDirectMib .. | .hbmRefresh .. | .hbmScrub .. | .seqNext .. | .seqJump .. | .seqJumpP .. | .seqBranch ..
    | .seqCall .. | .seqReturn .. | .seqWait .. | .seqEnd .. | .routineRestart .. | .publication .. | .mainRailTimeout ..
    | .mainPowerRemoval .. | .snapshotExpiry .. | .uartPartExpiry .. | .domainSessionIdle .. | .domainReadIdle ..
    | .registerWrite .. | .read .. | .write .. | .domainOpen .. | .domainChunk .. | .domainCommit .. | .domainCancel ..
    | .domainRead .. | .subscribe .. | .close .. | .sessionTimeout .. | .arpRequest .. | .icmpEcho ..
    | .neighbourSolicitation .. | .ethLinkChange .. | .usdoUpload .. | .usdoDownload .. | .nmtStartRemoteNode ..
    | .nmtStopRemoteNode .. | .nmtEnterPreOperational .. | .nmtResetNode .. | .nmtResetCommunication .. | .heartbeat ..
    | .sync .. | .tpdoEventTimer .. | .receivePdo .. | .emcyTransmit .. | .busOff .. | .busOffRecovery .. | .uartReadLine ..
    | .uartWriteLine .. | .uartOpenLine .. | .uartCommitLine .. | .uartCancelLine .. | .silushCycleStart .. | .slot0Beat ..
    | .slot0Phase .. | .slot0Range .. | .rangingReturn .. | .ownBurst .. | .slotBurst .. | .slotAbsent .. | .silReenable ..
    | .activate .. | .noBeatTimeout .. | .start .. | .stop .. | .hold .. | .rearm .. | .reset .. | .drainEnd .. | .digest ..
    | .harbourScrub .. | .testStart .. | .testForcedStart .. | .testComplete .. | .fltLogClear .. | .bistLogic ..
    | .bistMemory .. | .bistBoth .. | .bistComplete .. | .pwrDomainOn .. | .rampComplete .. | .domainFailed ..
    | .jtagIdcode .. | .jtagBypass .. | .ptpDelayReq .. | .canErrorPassive .. | .usdoAbort .. => none

end Sys2Proof.Machine
end

