-- ==== Sys2Proof/Certificates/Slice0/Obligations.lean ====
section
/-! DEFINITION. The statements for the provers: what the commands of each family do, where they complete, what they leave, and
what every step keeps. -/

open Sys2Proof Sys2Proof.Machine

/-- A step runs the command at the front of the queue with the rest waiting; an idle step lets one core cycle pass (R25, R35). -/
def Obligations.StepRunsFrontOfQueue : Prop :=
  (∀ (c : Instr) (rest : List Instr) (s : State), step { s with pending := c :: rest } = exec c { s with pending := rest }) ∧
  (∀ s : State, s.pending = [] → step s = .next (s.advance 1))

/-- Every command on units that exist answers a next state and keeps the queue; on an absent unit it faults; none is refused (R6, R10, R5). -/
def Obligations.CommandsEndAsPresenceSays : Prop :=
  ∀ (c : Instr) (s : State),
    (present s c = true → ∃ t, exec c s = .next t ∧ t.pending = s.pending) ∧
    (present s c = false → exec c s = .fault .absentUnit)

/-- Every step of every command keeps the canonical form of the engine memory (R176, R397). -/
def Obligations.EveryStepKeepsMemoryForm : Prop :=
  ∀ s t : State, Memory.wf s = true → step s = .next t → Memory.wf t = true

/-- The reset state is OFF with nothing waiting and memory in canonical form (R333, R267). -/
def Obligations.ResetIsOffWithCanonicalMemory : Prop :=
  State.reset.mode = .off ∧ State.reset.pending = [] ∧ Memory.wf State.reset = true ∧ (∀ a, State.reset.byte a = 0#8) ∧
    State.reset.beat.on = false ∧ (∀ (r : Reg) (n : Nat), State.reset.reg r n = r.dflt)

/-- POWER_UP takes an OFF engine into BOOT, or FAULTED without REFCLK; loss of the hearth or of REFCLK is a machine check with EMCY 0xFF10 (R27, R300, R333, R336, R342, R381, R382, R409). -/
def Obligations.PowerAndClocksEnterBootOrFaulted : Prop :=
  (∀ (s : State) (b : BootInputs), s.mode = .off →
       (b.testEn = true → ∃ t, exec (.powerUp b) s = .next t ∧ t.mode = .boot ∧ t.reg Reg.idStateReason = 1 ∧
         t.power.aux = true ∧ t.power.testEn = true ∧ t.carrier.grade = b.carrier.grade ∧ t.carrier.serial = b.carrier.serial) ∧
       (b.testEn = false → b.mainPresent = true → b.refclk = true → b.hearthLocks = false →
         ∃ t, exec (.powerUp b) s = .next t ∧ t.mode = .boot ∧ t.clocks.refclk = true ∧ t.clocks.hearth = false ∧
           t.carrier.nodeId = b.carrier.nodeId) ∧
       (b.testEn = false → b.mainPresent = true → b.refclk = false →
         ∃ t, exec (.powerUp b) s = .next t ∧ t.mode = .faulted ∧
           t.faults.log.getLast? = some (logRecord t.beat.n 0xFF10 0xFF 0 0 0 3))) ∧
  (∀ s : State,
       (s.mode = .boot → s.power.testEn = false → s.clocks.hearth = false →
         ∃ t, exec .hearthLockTimeout s = .next t ∧ t.mode = .faulted ∧ t.reg Reg.idStateReason = 10 ∧
           t.faults.log.getLast? = some (logRecord t.beat.n 0xFF10 0xFF 0 0 0 3)) ∧
       (s.mode ≠ .off → s.clocks.hearth = true →
         ∃ t, exec .hearthUnlock s = .next t ∧ t.mode = .faulted ∧ t.clocks.hearth = false ∧
           (s.mode = .running → t.reg Reg.idStateReason = 9) ∧
           t.faults.log.getLast? = some (logRecord t.beat.n 0xFF10 0xFF 0 0 0 0) ∧
           (s.links.emcys.length < 32 → (t.links.emcys.getLast?.map Emcy.code) = some 0xFF10)) ∧
       (s.mode ≠ .off → s.clocks.refclk = true →
         ∃ t, exec .refclkAbsent s = .next t ∧ t.mode = .faulted ∧ t.clocks.refclk = false ∧
           (s.mode = .running → t.reg Reg.idStateReason = 9) ∧
           t.faults.log.getLast? = some (logRecord t.beat.n 0xFF10 0xFF 0 0 0 0) ∧
           (s.links.emcys.length < 32 → (t.links.emcys.getLast?.map Emcy.code) = some 0xFF10)))

/-- A boundary counts one beat in its own core cycle; action slots follow their commit, cancel and field writes, and come due in HELD (R29, R46, R48, R50, R52, R337, R339, R348, R412). -/
def Obligations.BoundariesAndActionSlots : Prop :=
  (∀ s : State, s.beat.on = true →
       (s.mode.flows = true → ∃ t, exec .beatBoundary s = .next t ∧ t.beat.n = s.beat.n + 1#48) ∧
       (s.mode = .held → s.act.phase ≠ 4 → awaitingPeers s = [] → ∃ t, exec .beatBoundary s = .next t ∧ t.beat.n = s.beat.n + 1#48 ∧
         t.beat.at' = s.beat.at' + s.beat.period ∧ t.clocks.cycle = max s.clocks.cycle (s.beat.at' + s.beat.period)) ∧
       (s.mode = .armed → s.run.holdAt = some (s.beat.n + 1#48) →
         ∃ t, exec .beatBoundary s = .next t ∧ t.mode = .held ∧ t.reg Reg.idStateReason = 4 ∧ t.reg Reg.forgeActiveMask = 0 ∧
           t.reg Reg.imgState = 1)) ∧
  (∀ (s : State) (k : Nat), k < 16 →
       (s.mode.online = true → s.reg Reg.actStatus k ≠ 1 → 2 ≤ s.reg Reg.actKind k → s.reg Reg.actKind k ≤ 5 →
         s.reg Reg.actArg k &&& argMask (s.reg Reg.actKind k) = s.reg Reg.actArg k → bit (s.reg Reg.actMode k) 0 = true →
         let b : Beat := BitVec.ofNat 48 (s.reg Reg.actBeat k)
         ((s.mode = .held ∨ 1 ≤ beatDiff b s.beat.n) →
           ∃ t, exec (.actionCommit k) s = .next t ∧ t.reg Reg.actStatus k = 1 ∧ t.reg Reg.actReason k = 0 ∧ t.reg Reg.actNote k = 0) ∧
         (s.mode ≠ .held → beatDiff b s.beat.n ≤ 0 → bit (s.reg Reg.actMode k) 1 = false →
           ∃ t, exec (.actionCommit k) s = .next t ∧ t.reg Reg.actStatus k = 3 ∧ t.reg Reg.actReason k = 0) ∧
         (s.mode ≠ .held → beatDiff b s.beat.n ≤ 0 → bit (s.reg Reg.actMode k) 1 = true →
           ∃ t, exec (.actionCommit k) s = .next t ∧ t.reg Reg.actStatus k = 1 ∧ actBeatOf t k = some (s.beat.n + 1#48))) ∧
       (s.mode.online = true → s.reg Reg.actStatus k = 1 → s.reg Reg.actKind k ≠ 6 →
         ∃ t, exec (.actionCancel k) s = .next t ∧ t.reg Reg.actStatus k = 5) ∧
       (∀ v : Byte, s.mode.online = true →
         (2 ≤ s.reg Reg.actStatus k → ∃ t, exec (.timeActFieldWrite k 1 [v]) s = .next t ∧ t.reg Reg.actKind k = v.toNat ∧
           t.reg Reg.actStatus k = 0) ∧
         (s.reg Reg.actStatus k = 1 → ∃ t, exec (.timeActFieldWrite k 1 [v]) s = .next t ∧
           t.reg Reg.actKind k = s.reg Reg.actKind k ∧ t.reg Reg.actStatus k = 1 ∧ t.outbox.head? = some (.status 0x08000022))) ∧
       (s.mode = .held → s.reg Reg.actStatus k = 1 → actBeatOf s k = none →
         ∃ t, exec (.actionDueInHeld k) s = .next t ∧ t.reg Reg.actStatus k = 3 ∧ t.reg Reg.actReason k = 7))

/-- Sync, Follow_Up and Announce of the engine's domain move the servo (R38, R40, R41, R42). -/
def Obligations.PtpMasterMovesServo : Prop :=
  (∀ (s : State) (m : PtpSync), m.via.frame = .whole → ptpHears s m.via m.domain = true → s.servo.selected = some m.master → s.servo.lost = false →
    -7 ≤ m.logInterval → m.logInterval ≤ 1 →
    (s.reg Reg.timeState = 0 → ∃ t, exec (.ptpSync m) s = .next t ∧ t.reg Reg.timeState = 1) ∧
    (s.reg Reg.timeState ≠ 0 → m.twoStep = true → ∃ t, exec (.ptpSync m) s = .next t ∧ t.servo.waiting = some (m, timeUnits (s.stampAt m.age 8) - s.reg Reg.ptpRxLat)) ∧
    (s.reg Reg.timeState ≠ 0 → m.twoStep = false → ∃ t, exec (.ptpSync m) s = .next t ∧
      t.reg Reg.timeOffset = toCode 64 (unitsDiff (timeUnits (s.stampAt m.age 8) - s.reg Reg.ptpRxLat)
        (timeUnits m.origin + m.correction + s.servo.delay))) ∧
    (s.reg Reg.timeState = 1 → m.twoStep = false → s.reg Reg.timeRelockCount ≤ s.servo.good + 1 →
      (unitsDiff (timeUnits (s.stampAt m.age 8) - s.reg Reg.ptpRxLat)
        (timeUnits m.origin + m.correction + s.servo.delay)).natAbs ≤ s.reg Reg.timeGuardNs * 65536 →
      ∃ t, exec (.ptpSync m) s = .next t ∧ t.reg Reg.timeState = 2)) ∧
  (∀ (s : State) (x : PtpSync) (t2 : Int) (m : PtpFollowUp), m.via.frame = .whole → ptpHears s m.via m.domain = true → s.servo.selected = some m.master →
    s.servo.lost = false → s.servo.waiting = some (x, t2) → x.master = m.master → x.seq = m.seq →
    ∃ t, exec (.ptpFollowUp m) s = .next t ∧ t.servo.waiting = none ∧
      t.reg Reg.timeOffset = toCode 64 (unitsDiff t2 (timeUnits m.origin + (x.correction + m.correction) + s.servo.delay))) ∧
  (∀ (s : State) (m : PtpAnnounce), m.via.frame = .whole → ptpHears s m.via m.domain = true → m.stepsRemoved < 255 → s.reg Reg.ptpRole = 0 →
    s.servo.masters = [] → s.servo.selected = none →
    ∃ t, exec (.ptpAnnounce m) s = .next t ∧ t.servo.selected = some m.master ∧ t.servo.lost = false ∧
      t.reg Reg.timeUtcOffset = toCode 16 m.utcOffset ∧ t.reg Reg.timeState = s.reg Reg.timeState) ∧
  (∀ (s : State) (m : PtpSync),
    (m.via.frame = .whole → ptpHears s m.via m.domain = false → exec (.ptpSync m) s = .next s) ∧
    (m.via.frame ≠ .whole → s.mode ≠ .off → m.via.port < 2 → s.flag Reg.ethEnable m.via.port = true →
      exec (.ptpSync m) s = .next (s.count Reg.ethRxDropped m.via.port)))

/-- The two PTP delay mechanisms and ignored messages; loss of the master or the link enters FREE or HOLDOVER, and disabling PTP frees the servo (R38, R39, R40, R41, R45). -/
def Obligations.PtpDelaysAndLoss : Prop :=
  ((∀ (s : State) (m : PtpDelayResp) (t1 t2 t3 : Int), m.via.frame = .whole → ptpHears s m.via m.domain = true → s.servo.selected = some m.master →
       s.servo.lost = false → s.reg Reg.ptpDelay = 0 → s.servo.request = some (m.seq, t3) → s.servo.lastSync = some (t1, t2) →
       ∃ t, exec (.ptpDelayResp m) s = .next t ∧
         t.servo.delay = (unitsDiff t2 t1 + unitsDiff (timeUnits m.rx - m.correction) t3) / 2 ∧ t.servo.request = none) ∧
     (∀ (s : State) (m : PtpPdelayResp) (t1 : Int), m.via.frame = .whole → ptpHears s m.via m.domain = true → s.reg Reg.ptpDelay = 1 →
       s.servo.request = some (m.seq, t1) →
       ∃ t, exec (.ptpPdelayResp m) s = .next t ∧
         t.servo.delay = (unitsDiff (timeUnits (s.stampAt m.age 8) - s.reg Reg.ptpRxLat) t1 - m.correction) / 2 ∧ t.servo.request = none) ∧
     (∀ (s : State) (m : PtpPdelayReq), m.via.frame = .whole → ptpHears s m.via m.domain = true → s.reg Reg.ptpDelay = 1 →
       ∃ t, exec (.ptpPdelayReq m) s = .next t ∧
         let rx := timeOfUnits (timeUnits (s.stampAt m.age 8) - s.reg Reg.ptpRxLat)
         let c := m.correction + unitsDiff (timeUnits (txStamp s m.leave)) (timeUnits rx)
         t.outbox = .ptp m.via.port 4 m.seq rx c (ptpFix s 8 (toCode 64 c)) :: s.outbox) ∧
     (∀ (s : State) (n v : Nat), s.reg Reg.ptpMapping = 0 → ptpFix s n v = .udpChecksum 0) ∧
     (∀ (s : State) (m : PtpDelayReq), m.via.frame = .whole → isMaster s = true → ptpHears s m.via m.domain = true →
       s.reg Reg.ptpDelay = 0 → ∃ t, exec (.ptpDelayReq m) s = .next t ∧
         t.outbox = .ptp m.via.port 3 m.seq (timeOfUnits (timeUnits (s.stampAt m.age 8) - s.reg Reg.ptpRxLat)) m.correction
           (ptpFix s 0 0) :: s.outbox) ∧
     (∀ (s : State) (e : Nat), isMaster s = true → ∃ t, exec (.ptpSyncTx e) s = .next t ∧
       (∃ fix, t.outbox = .ptp (s.reg Reg.ptpPort) 0 s.servo.syncSeq (txStamp s e) 0 fix :: s.outbox) ∧
       t.servo.syncSeq = (s.servo.syncSeq + 1) % 65536) ∧
     (∀ (s : State) (e : Nat), ptpRuns s = true → s.servo.selected.isSome = true → s.servo.lost = false →
       ∃ t, exec (.ptpDelayReqTx e) s = .next t ∧ t.servo.request = some (s.servo.reqSeq, timeUnits (txStamp s e)) ∧
         t.servo.reqSeq = (s.servo.reqSeq + 1) % 65536) ∧
     (∀ s : State, exec .ptpManagement s = .next s)) ∧
  ((∀ s : State, ptpRuns s = true → s.servo.selected.isSome = true → s.servo.lost = false →
       (s.reg Reg.timeState = 1 → ∃ t, exec .announceReceiptTimeout s = .next t ∧ t.reg Reg.timeState = 0) ∧
       (s.reg Reg.timeState = 2 → ∃ t, exec .announceReceiptTimeout s = .next t ∧ t.reg Reg.timeState = 3 ∧
         t.reg Reg.timeHoldoverReason = 1 ∧ t.faults.log.getLast? = some (logRecord s.beat.n 0xFF21 0xFF 0 0 0 0))) ∧
     (∀ s : State, ptpRuns s = true →
       (s.reg Reg.timeState = 1 → ∃ t, exec .ptpPortLinkDown s = .next t ∧ t.reg Reg.timeState = 0) ∧
       (s.reg Reg.timeState = 2 → ∃ t, exec .ptpPortLinkDown s = .next t ∧ t.reg Reg.timeState = 3 ∧
         t.reg Reg.timeHoldoverReason = 4 ∧ t.faults.log.getLast? = some (logRecord s.beat.n 0xFF21 0xFF 0 0 0 0))) ∧
     (∀ s : State, s.mode = .held → s.act.phase = 0 → ∃ t, exec (.timePtpEnable [0#8]) s = .next t ∧
       t.reg Reg.ptpEnable = 0 ∧ t.reg Reg.timeState = 0 ∧ t.clocks.inc = s.clocks.inc))

/-- Signal, block and FEC lock move a lane through DOWN, BLOCK_HUNT and MARKER_HUNT; LANE_ENABLE takes effect in HELD and is refused elsewhere (R66, R75, R265, R266, R399). -/
def Obligations.LaneLocksAndEnables : Prop :=
  (∀ (s : State) (l : Nat), s.hasLane l = true →
       (s.lanePowered l = true → s.reg Reg.laneEnable l ≠ 0 → s.reg Reg.laneState l = 0 → (s.lane l).blockLock = false →
         ∃ t, exec (.signalPresent l) s = .next t ∧ (t.lane l).signal = true ∧
           t.reg Reg.laneState l = if s.reg Reg.laneRole l = 2 then 7 else 1) ∧
       (∃ t, exec (.lossOfSignal l) s = .next t ∧ t.reg Reg.laneState l = 0 ∧ (t.lane l).signal = false ∧
         (t.lane l).blockLock = false ∧ (t.lane l).fecLock = false) ∧
       (s.reg Reg.laneState l = 1 → (s.lane l).signal = true → (s.reg Reg.laneFec l = 0 ∨ (s.lane l).fecLock = true) →
         ∀ hs : List (BitVec 2), hs.length = 64 → (∀ x ∈ hs, x = 1#2 ∨ x = 2#2) → (s.lane l).injectBits = 0 →
         ∃ t, exec (.blockLock l hs) s = .next t ∧ (t.lane l).blockLock = true ∧ t.reg Reg.laneState l = 2) ∧
       (2 ≤ s.reg Reg.laneState l → s.reg Reg.laneState l ≤ 6 → (s.lane l).injectBits = 0 →
         ∀ hs : List (BitVec 2), hs.length = 64 → 16 ≤ (hs.filter fun x => x == 0#2 || x == 3#2).length →
         ∃ t, exec (.blockLockLoss l hs) s = .next t ∧ (t.lane l).blockLock = false ∧ t.reg Reg.laneState l = 1) ∧
       (∀ xs : List (List Nat), s.reg Reg.laneFec l ≠ 0 → s.reg Reg.laneState l = 1 → (s.lane l).signal = true →
         (s.lane l).injectBits = 0 → xs.length = 4 → (∀ x ∈ xs, isClean x = true) →
         ∃ t, exec (.fecLock l xs) s = .next t ∧ (t.lane l).fecLock = true ∧ (t.lane l).blockLock = false ∧
           t.reg Reg.laneState l = 1) ∧
       (s.reg Reg.laneFec l ≠ 0 → 8 ≤ (s.lane l).fecBad → 2 ≤ s.reg Reg.laneState l → s.reg Reg.laneState l ≤ 6 →
         ∃ t, exec (.fecLockLoss l) s = .next t ∧ (t.lane l).fecLock = false ∧ (t.lane l).blockLock = false ∧
           t.reg Reg.laneState l = 1)) ∧
  (∀ (s : State) (l : Nat), s.hasLane l = true →
       (s.mode = .held → s.act.phase = 0 →
         (s.reg Reg.laneState l = 0 → (s.lane l).signal = true → (s.lane l).blockLock = false →
           ∃ t, exec (.laneConfigWrite l 1 [1#8]) s = .next t ∧ t.reg Reg.laneEnable l = 1 ∧
             t.reg Reg.laneState l = if s.reg Reg.laneRole l = 2 then 7 else 1) ∧
         (∃ t, exec (.laneConfigWrite l 1 [0#8]) s = .next t ∧ t.reg Reg.laneEnable l = 0 ∧ t.reg Reg.laneState l = 0)) ∧
       (∀ v : Byte, s.mode ≠ .held → s.mode ≠ .off → ∃ t, exec (.laneConfigWrite l 1 [v]) s = .next t ∧
         t.reg Reg.laneEnable l = s.reg Reg.laneEnable l ∧ t.reg Reg.odWritesRefused = (s.reg Reg.odWritesRefused + 1) % 2 ^ 32 ∧
         t.outbox.head? = some (.status 0x08000022)))

/-- Headers, markers, data and fill blocks on a receive lane (R57, R58, R62, R66). -/
def Obligations.LaneBlocksLand : Prop :=
  ∀ (s : State) (l : Nat) (p : ShoalPlan) (pos : Nat), s.hasLane l = true → s.laneHome l = some (p, pos) →
    (s.lane l).injectBits = 0 →
    (∀ (w : Word64) (age : Nat), s.reg Reg.laneState l = 4 →
      let b := rebuildBeat s.beat.n (w.extractLsb' 40 16)
      isMarkerBeat p b = false → 1 ≤ beatDiff b s.beat.n → beatDiff b s.beat.n ≤ 64 → (s.lane l).beat = some (b - 1#48) →
      ∃ t, exec (.beatHeader l w age) s = .next t ∧ (t.lane l).beat = some b ∧ (t.lane l).count = 0 ∧
        (t.lane l).declared = field w.toNat 16 16 ∧ (t.lane l).crc = 0xFFFF ∧ (t.lane l).crcValid = true) ∧
    (∀ (a b : Word64) (age : Nat), s.reg Reg.laneState l = 2 → field a.toNat 48 8 = p.shoal → field b.toNat 50 6 = pos →
      isMarkerBeat p (a.extractLsb' 0 48) = true → 1 ≤ beatDiff (a.extractLsb' 0 48) s.beat.n →
      beatDiff (a.extractLsb' 0 48) s.beat.n ≤ 64 →
      ∃ t, exec (.alignMarker l a (some b) age) s = .next t ∧ t.reg Reg.laneState l = 3 ∧ (t.lane l).verify = 0) ∧
    (∀ (w : Word64) (b : Beat), s.reg Reg.laneState l = 4 → s.reg Reg.laneRole l ≠ 1 → (s.lane l).beat = some b →
      (s.lane l).count < p.width → (s.lane l).words.length < 512 →
      ∃ t, exec (.dataBlock l (.data w)) s = .next t ∧ (t.lane l).count = (s.lane l).count + 1 ∧
        (t.lane l).crc = crc16Bits (s.lane l).crc w.toNat 64 ∧
        (t.lane l).words = (s.lane l).words ++
          [{ beat := b, idx := (s.lane l).count, data := w, bad := false, at' := s.clocks.cycle }]) ∧
    (∃ t, exec (.fillBlock l) s = .next t ∧ (t.lane l).words = (s.lane l).words ∧ (t.lane l).count = (s.lane l).count)

/-- Error injection and pattern checkers on a lane; shoals and ferries hold each token and release it once (R60, R76, R77, R78, R79, R99). -/
def Obligations.InjectionShoalsAndFerries : Prop :=
  ((∀ (s : State) (l : Nat),
       (∀ tx : Bool, (if tx then s.hasXlane l else s.hasLane l) = true →
         let bits := if bit (injectMode s tx l) 2 then 8 else 1
         let due := injectSince s tx l + injectCycles s tx l
         (s.mode.online = true → injectMode s tx l % 4 = 1 → ∃ t, exec (.laneInjectFire tx l [1#8]) s = .next t ∧
           t.outbox = .status 0 :: s.outbox ∧ (tx = false → (t.lane l).injectBits = bits) ∧
           (tx = true → (t.xlane l).inject = bits ∧ t.lane l = s.lane l)) ∧
         (injectMode s tx l % 4 = 2 → ∃ t, exec (.injectPeriodic tx l) s = .next t ∧ t.clocks.cycle = max s.clocks.cycle due ∧
           injectSince t tx l = due ∧
           (tx = false → (t.lane l).injectBits = bits ∧ (t.lane l).injectCount = (s.lane l).injectCount + 1) ∧
           (tx = true → (t.xlane l).inject = bits))) ∧
       (∀ bs : List Bool, s.hasLane l = true → s.reg Reg.laneState l = 7 → (s.lane l).injectBits = 0 →
         let y := Prbs.takeAll (s.reg Reg.lanePrbsPoly l) bs ((s.lane l).prbs, 0, 0)
         ∀ i ∈ [Instr.prbsLock l bs, .prbsLockLoss l bs], ∃ t, exec i s = .next t ∧ (t.lane l).prbs = y.1 ∧
           t.reg Reg.lanePrbsLock l = ofBool y.1.locked ∧
           t.reg Reg.lanePrbsBits l = (s.reg Reg.lanePrbsBits l + y.2.1) % 2 ^ 64 ∧
           t.reg Reg.lanePrbsErrors l = (s.reg Reg.lanePrbsErrors l + y.2.2) % 2 ^ 64)) ∧
     (∀ (poly : Nat) (x : Prbs), x.hist < 2 ^ 31 →
       (x.locked = false → x.run = 0 → (prbsTaps poly).1 ≤ x.fill →
         let y := Prbs.takeAll poly (prbsStream poly 64 x.hist) (x, 0, 0)
         y.1.locked = true ∧ y.2 = (0, 0)) ∧
       (x.locked = true → x.seen = 0 → x.bad = [] →
         let y := Prbs.takeAll poly ((prbsStream poly 256 x.hist).map (!·)) (x, 0, 0)
         y.1.locked = false ∧ y.2 = (256, 256)))) ∧
  ((∀ (s : State) (p : ShoalPlan) (k pos tok l off : Nat), s.hasHarbour (k / 16) = true → s.shoalPlan k = some p →
       (p.lanes.find? fun x => x.2 = pos) = some (l, pos) → releaseOffset p pos tok = some off → s.mode.flows = true →
       tok < p.width / 4 → (s.shoalBeat k s.beat.n).released.contains (pos, tok) = false →
       ∃ t, exec (.shoalTokenRelease k pos tok) s = .next t ∧ (pos, tok) ∈ (t.shoalBeat k s.beat.n).released ∧
         t.clocks.cycle = max s.clocks.cycle (s.beat.at' + off) ∧
         ((t.lane l).words.all fun w => !(w.beat == s.beat.n && w.idx / 4 == tok)) = true) ∧
     (∀ (s : State) (l : Nat) (p : FerryPlan) (header : Word64) (data : Word256) (j : Nat), s.hasLane l = true →
       (s.lane l).injectBits = 0 → s.reg Reg.laneRole l = 1 → s.reg Reg.laneState l = 4 → ferryPlan s l = some p →
       let tag : Tag := header.extractLsb' 24 32
       let n := rebuildBeat s.beat.n (tagBeat tag)
       let due := s.boundaryAt n + (s.lane l).ferryRelease.getD j 0
       ferryCrc tag ((tokenWords data).map BitVec.toNat) = field header.toNat 0 16 → tagValid tag = true →
       ferrySlot p (tagSeq tag).toNat = some j → s.clocks.cycle ≤ due → (s.lane l).ferryDone.contains (j, n) = false →
       (s.lane l).ferryTokens.length < 64 →
       ∃ t, exec (.ferryToken l header data) s = .next t ∧
         (t.lane l).ferryTokens = insertTimed { at' := due, tok := { data := data, tag := tag } } (s.lane l).ferryTokens ∧
         (t.lane l).ferrySeq = some (field header.toNat 16 8)) ∧
     (∀ (s : State) (l j : Nat) (p : FerryPlan) (q : Bool), s.hasLane l = true → ferryPlan s l = some p → j < p.seqs.length →
       s.mode.flows = true →
       let rel := (s.lane l).ferryRelease.getD j 0
       let n := s.beat.n - BitVec.ofNat 48 (rel / s.beat.period)
       s.planeFor p.forging n = some q → (s.lane l).ferryDone.contains (j, n) = false →
       ∃ t, exec (.ferryTokenRelease l j) s = .next t ∧ (t.lane l).ferryDone.head? = some (j, n) ∧
         t.clocks.cycle = max s.clocks.cycle (s.beat.at' + rel % s.beat.period) ∧
         ((t.lane l).ferryTokens.all fun y =>
           !(tagBeat y.tok.tag == n.extractLsb' 0 16 && (tagSeq y.tok.tag).toNat == p.seqs.getD j 0)) = true))

/-- A trigger token that finds its tile idle starts an instance with the register file of R128 on the plane of its tag (R128). -/
def Obligations.TriggerWritesRegisters : Prop :=
  ∀ (s : State) (d : TileId) (q : Bool) (p : TilePlan) (x : Timed) (w : Word64) (ws : List Word64), s.hasTile d = true →
    planOf (s.tile d q) q = some p → lineHead s d p.trigger q = some x → tagValid x.tok.tag = true → tagPlane x.tok.tag = q →
    (s.tile d q).busyTo < x.at' → progOf (s.tile d q) q = w :: ws →
    ∃ t i, exec (.triggerArrival d q) s = .next t ∧ (t.tile d q).inst = some i ∧
      vReg i.rf 0 = x.tok.data ∧ i.rf.it = x.tok.tag ∧ i.rf.fl = (if (s.tile d q).lostInstr.any (fun y => y.1 == q) then x.tok.tag.extractLsb' 5 5 ||| 0b01000#5 else x.tok.tag.extractLsb' 5 5) ∧
      (∀ k, 1 ≤ k → k < 16 → vReg i.rf k = 0#256) ∧ (∀ k, k < 4 → accReg i.rf k = List.replicate 16 0#32) ∧
      (∀ k, 1 ≤ k → k < 8 → pReg i.rf k = false) ∧ pReg i.rf 0 = true ∧
      i.start = x.at' ∧ i.slot = 0 ∧ i.pos = 0 ∧ (progOf (t.tile d (tagPlane i.rf.it)) (tagPlane i.rf.it))[i.pos]? = some w

/-- Busy tiles and orphan tokens discard, DBG_HAZ_CLEAR empties the hazard log, and a banked cycle serves its sources in order (R92, R93, R95, R149, R155, R363, R371). -/
def Obligations.TilesDiscardClearAndServe : Prop :=
  ((∀ (s : State) (d : TileId) (q : Bool) (p : TilePlan) (x : Timed), s.hasTile d = true → planOf (s.tile d q) q = some p →
       lineHead s d p.trigger q = some x → tagValid x.tok.tag = true → x.at' ≤ (s.tile d q).busyTo →
       ∃ t, exec (.triggerArrival d q) s = .next t ∧ (t.tile d q).inst = (s.tile d q).inst ∧
         t.reg Reg.islTrigDrops d.island = (s.reg Reg.islTrigDrops d.island + 1) % 2 ^ 32 ∧
         tabGet [] t.lines (lineKey d p.trigger q) = (tabGet [] s.lines (lineKey d p.trigger q)).tail ∧
         ∀ a, t.byte a = s.byte a) ∧
     (∀ (s : State) (d : TileId) (p : Port) (q : Bool) (x : Timed), s.hasTile d = true → lineHead s d p q = some x →
       (planOf (s.tile d q) q).map TilePlan.trigger ≠ some p →
       ∃ t, exec (.orphanToken d p q) s = .next t ∧ t.clocks.cycle = max s.clocks.cycle x.at' ∧
         tabGet [] t.lines (lineKey d p q) = (tabGet [] s.lines (lineKey d p q)).tail ∧ t.tile d q = s.tile d q ∧
         ∀ a, t.byte a = s.byte a) ∧
     (∀ s : State, s.mode.online = true → s.debug = true → ∃ t, exec (.dbgHazClear [1#8]) s = .next t ∧ t.faults.hazards = [] ∧
       ∀ k, k < 9 → t.reg (Reg.hazCount.at k) = 0)) ∧
  ((∀ (s : State) (tl : Tile) (slots : Nat), tl.busyTo = occupancyEnd s tl.busyFrom slots →
       (isBanked s tl = false ↔ ∃ i, i < slots ∧ s.clocks.cycle = issueCycle s tl.busyFrom i)) ∧
     (∀ (s : State) (d : TileId) (e : Option TileError), s.hasIsland d.island = true → d.row < 16 → d.col < 17 →
       let k := physKey d.island d.row d.col
       (isBanked s (s.tileAt k) = false → ∃ t, exec (.bankedCycle d e) s = .next t ∧ t.tileAt k = s.tileAt k ∧ t.faults = s.faults) ∧
       (isBanked s (s.tileAt k) = true →
         (s.faults.tests.any (testOnTile d.island d.row d.col) = true → ∃ t, exec (.bankedCycle d e) s = .next t ∧
           t.tileAt k = s.tileAt k ∧ t.faults.log = s.faults.log ∧
           t.faults.tests = s.faults.tests.map fun x => if testOnTile d.island d.row d.col x then { x with running := true } else x) ∧
         (s.faults.tests.any (testOnTile d.island d.row d.col) = false →
           (∀ (w : Bool × Nat) (ws : List (Bool × Nat)), (s.tileAt k).lostInstr = w :: ws → ∃ t, exec (.bankedCycle d e) s = .next t ∧
             (t.tileAt k).lostInstr = ws ∧ t.faults = s.faults) ∧
           (∀ (w : Bool × Nat) (ws : List (Bool × Nat)), (s.tileAt k).lostInstr = [] → (s.tileAt k).lostConst = w :: ws →
             ∃ t, exec (.bankedCycle d e) s = .next t ∧ (t.tileAt k).lostConst = ws ∧ t.faults = s.faults) ∧
           ((s.tileAt k).lostInstr = [] → (s.tileAt k).lostConst = [] →
             (∀ (q : Bool) (tp : TilePlan), loadingOn s k = some (q, tp) → ∃ t, exec (.bankedCycle d e) s = .next t ∧ t.faults = s.faults ∧
               servedOf (t.tileAt k) q = servedOf (s.tileAt k) q + 1 ∧
               (servedOf (s.tileAt k) q < 1536 → storeWf (if q then (s.tileAt k).const1 else (s.tileAt k).const0) = true →
                 storeGet (if q then (t.tileAt k).const1 else (t.tileAt k).const0) (servedOf (s.tileAt k) q) =
                 storeGet (constStore tp) (servedOf (s.tileAt k) q))) ∧
             (loadingOn s k = none →
               (∀ (b : Nat) (bs : List Nat) (r : TapRecord) (rs : List TapRecord), tileTaps s d.island d.row d.col = b :: bs →
                 tabGet [] s.faults.tapBuffers b = r :: rs → ∃ t, exec (.bankedCycle d e) s = .next t ∧
                   tabGet [] t.faults.tapBuffers b = rs ∧ t.tileAt k = s.tileAt k ∧
                   (s.faults.frozen = false → t.faults.taps.getLast? = some r)) ∧
               (tileTaps s d.island d.row d.col = [] →
                 (∀ x : TileError, e = some x → s.reg Reg.fltScrubEnable ≠ 0 → x.lost = true →
                   ∃ t, exec (.bankedCycle d e) s = .next t ∧
                     (t.faults.log.getLast?.map fun r => (field r.toNat 64 16, field r.toNat 56 8, field r.toNat 48 6)) = some (0xFF62, d.island, 1)) ∧
                 (e = none ∨ s.reg Reg.fltScrubEnable = 0 → ∃ t, exec (.bankedCycle d e) s = .next t ∧ t.faults = s.faults ∧
                   t.tileAt k = s.tileAt k))))))))

/-- NOP and REP pass slots, PSET, TTEST and TFLAG write predicates and EDGE, and REP repeats the next instruction with stepped fields (R92, R127, R131, R138, R151, R152). -/
def Obligations.SlotsPredicatesAndRepeats : Prop :=
  (∀ (s : State) (u : Seat) (f : AnvilFields) (rf : Regfile),
       (readyAt s u 0x00 f rf → ∃ t, exec (.nop u f) s = .next t ∧ ranOn s t u (xf f 0 7 + 1) rf) ∧
       (readyAt s u 0x01 f rf → predOn rf f = true → ∃ t, exec (.rep u f) s = .next t ∧ ranOn s t u 1 rf ∧
         (match u with
           | .tile d q => (t.tile d q).inst.bind Instance.rep
           | .temper h k => (t.temper h k).kernel.bind Kernel.rep) =
           some { n := xf f 0 10, sd := xf f 10 2, sa := xf f 12 2, sb := xf f 14 2, sm := xf f 16 4, lost := false }) ∧
       (predOn rf f = true →
         (readyAt s u 0x02 f rf → ∃ t, exec (.pset u f) s = .next t ∧
           ranOn s t u 1 (if f.d.toNat % 8 = 0 then rf else { rf with p := listSet rf.p (f.d.toNat % 8) (predLogic (xf f 0 3) (f.x.getLsbD 3) (pReg rf f.a.toNat) (pReg rf f.b.toNat)) })) ∧
         (readyAt s u 0x03 f rf → ∃ t, exec (.ttest u f) s = .next t ∧
           ranOn s t u 1 (if f.d.toNat % 8 = 0 then rf else { rf with p := listSet rf.p (f.d.toNat % 8) (tagTest rf.it rf.fl (xf f 0 4) (BitVec.ofNat 4 (xf f 8 4)) (xf f 12 4 + 1) (xf f 16 16) != f.x.getLsbD 4) })) ∧
         (readyAt s u 0x04 f rf → ∃ t, exec (.tflag u f) s = .next t ∧ ranOn s t u 1 { rf with fl := rf.fl ||| 0b00100#5 }))) ∧
  (∀ (s : State) (d : TileId) (q : Bool) (f : AnvilFields) (i : Instance) (m : Fmt), s.hasTile d = true →
       (s.tile d q).inst = some i → tagPlane i.rf.it = q → fmtOf f = some m → predOn i.rf f = true →
       (progOf (s.tile d q) q)[i.pos]? = some (encodeWord 0x24 f) → (s.tile d q).lostInstr.contains (q, i.pos) = false →
       (∀ r : Repeat, i.rep = some r → r.lost = false → i.pos + 1 < (progOf (s.tile d q) q).length →
         ∃ t i', exec (.vmax (.tile d q) f) s = .next t ∧ (t.tile d q).inst = some i' ∧ i'.slot = i.slot + r.n ∧ i'.pos = i.pos + 1 ∧
           i'.rep = none ∧
           i'.rf.v = ((List.range r.n).foldl (fun (rf : Regfile) (k : Nat) =>
             let a := (vReg rf ((f.a.toNat + k * r.sa) % 16)).toNat
             let b := (vReg rf ((f.b.toNat + k * r.sb) % 16)).toNat
             setV rf ((f.d.toNat + k * r.sd) % 16) (BitVec.ofNat 256 (packElems m ((List.range m.count).map fun j =>
               (roundInto m (rounding f.rm (tileDraw s q (s.tile d q) i (i.slot + k)) j) ((elemNum m a j).max (elemNum m b j))).code)))) i.rf).v) ∧
       (i.rep = none → i.pos + 1 = (progOf (s.tile d q) q).length →
         ∃ t, exec (.vmax (.tile d q) f) s = .next t ∧ (t.tile d q).inst = none))

/-- RECV takes the token of its slot's cycle or the invalid code; SEND places a token on every route of its port (R86, R87, R92, R147, R148). -/
def Obligations.ReceiveAndSend : Prop :=
  ∀ (s : State) (d : TileId) (q : Bool) (f : AnvilFields) (rf : Regfile) (i : Instance), (s.tile d q).inst = some i →
    let u : Seat := .tile d q
    let p := portOf (xf f 0 2)
    let cycle := issueCycle s i.start i.slot
    (∀ x : Timed, readyAt s u 0x08 f rf → predOn rf f = true → lineHead s d p q = some x → x.at' = cycle →
      tagValid x.tok.tag = true → sameTrigger x.tok.tag rf.it = true →
      ∃ t, exec (.recv u f) s = .next t ∧ ranOn s t u 1 (setV { rf with fl := rf.fl ||| tagFlags x.tok.tag } f.d.toNat x.tok.data) ∧
        tabGet [] t.lines (lineKey d p q) = (tabGet [] s.lines (lineKey d p q)).tail) ∧
    (readyAt s u 0x08 f rf → predOn rf f = true → tabGet [] s.lines (lineKey d p q) = [] →
      ∃ t, exec (.recv u f) s = .next t ∧
        ranOn s t u 1 (setV { rf with fl := rf.fl ||| 0b01000#5 } f.d.toNat (BitVec.ofNat 256 (invalidWord (portFmt (s.tile d q) q p)))) ∧
        t.reg Reg.islPortFaults d.island = (s.reg Reg.islPortFaults d.island + 1) % 2 ^ 32) ∧
    (∀ (l : Link) (d2 : TileId) (p2 : Port), readyAt s u 0x09 f rf → predOn rf f = true →
      routesFrom s (tagForging rf.it) q (.tile d p) = [l] → pathPowered s l.path = true → l.dst = .port d2 p2 →
      s.domainOn d2.island = true → tileDegrades s d.island d.row (physCol (s.remapByte d.island d.row q) d.col) = false →
      (s.tile d q).degraded = [] →
      ∃ t, exec (.send u f) s = .next t ∧ ranOn s t u 1 rf ∧
        tabGet [] t.lines (lineKey d2 p2 q) = insertTimed
          { at' := cycle + 1 + pathDelay s (tagForging rf.it) q l.path + tabGet 0 (s.plane (tagForging rf.it) q).portDelay (portKey d2 p2),
            tok := { data := vReg rf f.a.toNat,
                     tag := sentTag rf.it rf.fl (f.x.getLsbD 7) (f.x.getLsbD 6) (BitVec.ofNat 4 (xf f 2 4)) } }
          (tabGet [] s.lines (lineKey d2 p2 q)))

/-- LDC, LDW, HLD and ACCI read memory words into registers; STW and HPUSH store A to the word they name and to nothing else (R85, R138, R141, R150, R193, R371). -/
def Obligations.LoadsAndStoresOfWords : Prop :=
  ((∀ (s : State) (u : Seat) (f : AnvilFields) (rf : Regfile), predOn rf f = true →
       let e := seatExec s u
       let S := seatState s u
       let c := constWord e S (xf f 0 11)
       let c2 := constPair e S (xf f 0 11)
       (readyAt s u 0x10 f rf → c.stop = none → c.poison = false → missedNothing c.s u = true → ∃ t, exec (.ldc u f .clean) s = .next t ∧
         ranOn s t u 1 (orFlags (setV rf f.d.toNat (BitVec.ofNat 256 c.data)) c.fl)) ∧
       (readyAt s u 0x18 f rf → f.x.getLsbD 16 = false → ∃ t, exec (.acci u f) s = .next t ∧
         ranOn s t u 1 (setAcc rf f.d.toNat (List.replicate 16 0#32) 0)) ∧
       (readyAt s u 0x18 f rf → f.x.getLsbD 16 = true → c2.stop = none → c2.poison = false → missedNothing c2.s u = true → ∃ t, exec (.acci u f) s = .next t ∧
         ranOn s t u 1 (orFlags (setAcc rf f.d.toNat
           ((List.range 16).map fun k => BitVec.ofNat 32 (field (c2.data % 2 ^ 512) (32 * k) 32)) 0) c2.fl))) ∧
     (∀ (s : State) (d : TileId) (q : Bool) (f : AnvilFields) (rf : Regfile) (i : Instance), (s.tile d q).inst = some i →
       let u : Seat := .tile d q
       let tl := s.tile d q
       (readyAt s u 0x11 f rf → predOn rf f = true → ∃ t, exec (.ldw u f .clean) s = .next t ∧
         ranOn s t u 1 (setV rf f.d.toNat (storeGet tl.work (workBase tl q + xf f 0 10)))) ∧
       (∀ x : History, readyAt s u 0x14 f rf → predOn rf f = true → historyOf tl q (xf f 0 4) = some x →
         ∃ t, exec (.hld u f .clean) s = .next t ∧
           ranOn s t u 1 (setV rf f.d.toNat (storeGet tl.work
             (historyWord tl q x i.beat (s.plane (tagForging rf.it) q).first (xf f 8 16) (xf f 4 4))))) ∧
       (∀ part : Nat, part < 4 → readyAt s u 0x10 f rf → predOn rf f = true → tl.lostConst = [] →
         ∃ t, exec (.ldc u f (.lost part)) s = .next t ∧
           ranOn s t u 1 (setV { rf with fl := rf.fl ||| 0b01000#5 } f.d.toNat
             (clearPart (storeGet (if q then tl.const1 else tl.const0) (xf f 0 11)) part)) ∧
           (t.tile d q).lostConst = [(q, 4 * xf f 0 11 + part)])) ∧
     (∀ (s : State) (h k : Nat) (f : AnvilFields) (rf : Regfile), readyAt s (.temper h k) 0x11 f rf → predOn rf f = true →
       let S := seatState s (.temper h k)
       S.poisoned (scratchAddr h k (xf f 0 10) / 64) = false →
       ∃ t, exec (.ldw (.temper h k) f .clean) s = .next t ∧
         ranOn s t (.temper h k) 1 (setV rf f.d.toNat (BitVec.ofNat 256 (leNat (S.load (scratchAddr h k (xf f 0 10)) 32)))))) ∧
  ((∀ (s : State) (d : TileId) (q : Bool) (f : AnvilFields) (rf : Regfile) (i : Instance), (s.tile d q).inst = some i →
       predOn rf f = true →
       let u : Seat := .tile d q
       let tl := s.tile d q
       (readyAt s u 0x12 f rf → ∃ t, exec (.stw u f) s = .next t ∧ ranOn s t u 1 rf ∧
         (t.tile d q).work = storeSet tl.work (workBase tl q + xf f 0 10) (vReg rf f.a.toNat) ∧ ∀ a, t.byte a = s.byte a) ∧
       (∀ x : History, readyAt s u 0x13 f rf → historyOf tl q (xf f 0 4) = some x → ∃ t, exec (.hpush u f) s = .next t ∧
         ranOn s t u 1 rf ∧ (∀ a, t.byte a = s.byte a) ∧
         (t.tile d q).work = storeSet tl.work
           (historyWord tl q x i.beat (s.plane (tagForging rf.it) q).first 0 (xf f 4 4)) (vReg rf f.a.toNat))) ∧
     (∀ (s : State) (h k : Nat) (f : AnvilFields) (rf : Regfile), readyAt s (.temper h k) 0x12 f rf → predOn rf f = true →
       let S := seatState s (.temper h k)
       let a := scratchAddr h k (xf f 0 10)
       ∃ t, exec (.stw (.temper h k) f) s = .next t ∧ ranOn s t (.temper h k) 1 rf ∧
         t.mem = storeWrite S.mem a (leBytes 32 (vReg rf f.a.toNat).toNat) ∧
         (Memory.wf s = true → ∀ b, b < a ∨ a + 32 ≤ b → t.byte b = S.byte b)))

/-- DOT adds products to 16 accumulator lanes with one rounding each; ACCOUT and ACCRED scale lanes into elements (R129, R138, R140, R141). -/
def Obligations.DotProductsAndAccumulators : Prop :=
  ∀ (s : State) (u : Seat) (f : AnvilFields) (rf : Regfile) (m : Fmt), fmtOf f = some m → predOn rf f = true →
    let rnd := seatRnd s u f
    let sums (b : Nat) : List (BitVec 32) := (accReg rf f.d.toNat).zipIdx.map fun x =>
      let g := m.count / 8
      let terms := (List.range g).map fun i =>
        (dotNum m (pairElem m (vPair rf f.a.toNat) (g * x.2 + i))).mul (dotNum m (pairElem m b (g * x.2 + i)))
      BitVec.ofNat 32 (roundInto (accFmt m.isFloat) (rnd x.2) (terms.foldl Machine.Num.add (decodeNum (accFmt m.isFloat) x.1.toNat))).code
    let kind := if m.isFloat then 2 else 1
    (readyAt s u 0x19 f rf → f.x.getLsbD 11 = true → ∃ t, exec (.dot u f) s = .next t ∧
      ranOn s t u (if isFp8 f then 2 else 1) (setAcc rf f.d.toNat (sums (vPair rf f.b.toNat)) kind)) ∧
    (readyAt s u 0x19 f rf → f.x.getLsbD 11 = false →
      let c := constPair (seatExec s u) (seatState s u) (xf f 0 11)
      c.stop = none → c.poison = false → missedNothing c.s u = true → ∃ t, exec (.dot u f) s = .next t ∧
        ranOn s t u (if isFp8 f then 2 else 1) (orFlags (setAcc rf f.d.toNat (sums c.data) kind) c.fl)) ∧
    (readyAt s u 0x1A f rf → ∃ t, exec (.accout u f) s = .next t ∧ ranOn s t u 1 (setV rf f.d.toNat (BitVec.ofNat 256
      (accOut m (f.x.getLsbD 8) rnd (xf f 0 5) (xf f 9 3) (accReg rf f.a.toNat) (vReg rf f.d.toNat).toNat).word))) ∧
    (readyAt s u 0x1B f rf → ∃ t, exec (.accred u f) s = .next t ∧ ranOn s t u 2 (setV rf f.d.toNat (BitVec.ofNat 256
      (accRed m (f.x.getLsbD 8) rnd (xf f 0 5) (xf f 9 7) (accReg rf f.a.toNat) (vReg rf f.d.toNat).toNat).word)))

/-- VADD, VSUB, VMUL, VFMA, VMAX, VMIN and VSHR round the exact result of each element into FMT (R120, R138, R139, R153). -/
def Obligations.ElementwiseArithmetic : Prop :=
  ∀ (s : State) (u : Seat) (f : AnvilFields) (rf : Regfile) (m : Fmt), fmtOf f = some m → predOn rf f = true →
    let elems (g : Machine.Num → Machine.Num → Machine.Num → Machine.Num) : List Rounded := (List.range m.count).map fun j =>
      roundInto m (seatRnd s u f j) (g (elemNum m (vReg rf f.a.toNat).toNat j) (elemNum m (vReg rf f.b.toNat).toNat j)
        (elemNum m (vReg rf f.d.toNat).toNat j))
    let writes (t : State) (g : Machine.Num → Machine.Num → Machine.Num → Machine.Num) : Prop :=
      ranOn s t u 1 (setV rf f.d.toNat (BitVec.ofNat 256 (packElems m ((elems g).map Rounded.code)))) ∧
      ∀ (d : TileId) (q : Bool), u = .tile d q → t.reg Reg.islSatClamps d.island =
        (s.reg Reg.islSatClamps d.island + ((elems g).filter Rounded.clamped).length) % 2 ^ 64 ∨
        ((elems g).filter Rounded.clamped).length = 0 ∧ t.reg Reg.islSatClamps d.island = s.reg Reg.islSatClamps d.island
    (readyAt s u 0x20 f rf → ∃ t, exec (.vadd u f) s = .next t ∧ writes t fun a b _ => a.add b) ∧
    (readyAt s u 0x21 f rf → ∃ t, exec (.vsub u f) s = .next t ∧ writes t fun a b _ => a.add b.neg) ∧
    (readyAt s u 0x22 f rf → ∃ t, exec (.vmul u f) s = .next t ∧ writes t fun a b _ => a.mul b) ∧
    (readyAt s u 0x23 f rf → ∃ t, exec (.vfma u f) s = .next t ∧ writes t fun a b d => (a.mul b).add d) ∧
    (readyAt s u 0x24 f rf → ∃ t, exec (.vmax u f) s = .next t ∧ writes t fun a b _ => a.max b) ∧
    (readyAt s u 0x25 f rf → ∃ t, exec (.vmin u f) s = .next t ∧ writes t fun a b _ => a.min b) ∧
    (readyAt s u 0x26 f rf → ∃ t, exec (.vshr u f) s = .next t ∧ writes t fun a _ _ => a.scale (-(signed 6 (xf f 0 6))))

/-- VCVT, VBC, VSLIDE, LUT and LUTI write D; CMP and TESTV write masks and predicates; SEL, MLOG and POPC use masks (R127, R129, R138, R142, R143, R144, R145). -/
def Obligations.ConversionsComparesAndMasks : Prop :=
  (∀ (s : State) (u : Seat) (f : AnvilFields) (rf : Regfile) (m : Fmt), fmtOf f = some m → predOn rf f = true →
       let a := (vReg rf f.a.toNat).toNat
       let b := (vReg rf f.b.toNat).toNat
       let d := (vReg rf f.d.toNat).toNat
       let put (w : Nat) : Regfile := setV rf f.d.toNat (BitVec.ofNat 256 w)
       (∀ src : Fmt, srcOf f = some src →
         (readyAt s u 0x27 f rf → ∃ t, exec (.vcvt u f) s = .next t ∧
           ranOn s t u 1 (put (vConvert src m (seatRnd s u f) (xf f 8 3) (xf f 11 3) a d).word)) ∧
         (readyAt s u 0x2C f rf →
           let r := readTable (seatExec s u) (seatState s u) m (xf f 8 11) (lutEntries src m false (xf f 19 3) a)
           r.1.stop = none → missedNothing r.1.s u = true → ∃ t, exec (.lut u f) s = .next t ∧ ranOn s t u 2 (orFlags (put (vLut src m
             (fun k => getElem m (tabGet 0 r.2 (k / m.count)) (k % m.count)) (xf f 19 3) (xf f 22 3) a d).word) r.1.fl)) ∧
         (readyAt s u 0x2D f rf →
           let r := readTable (seatExec s u) (seatState s u) m (xf f 8 11) (lutEntries src m true (xf f 19 3) a)
           r.1.stop = none → missedNothing r.1.s u = true → ∃ t, exec (.luti u f) s = .next t ∧ ranOn s t u 4 (orFlags (put (vLuti src m (seatRnd s u f)
             (fun k => getElem m (tabGet 0 r.2 (k / m.count)) (k % m.count)) (xf f 19 3) (xf f 22 3) a d).word) r.1.fl))) ∧
       (readyAt s u 0x28 f rf → ∃ t, exec (.vbc u f) s = .next t ∧ ranOn s t u 1 (put (packElems m (List.replicate m.count
         (if f.x.getLsbD 16 then immCode m (xf f 0 16) else getElem m a (xf f 0 7)))))) ∧
       (readyAt s u 0x29 f rf → ∃ t, exec (.vslide u f) s = .next t ∧ ranOn s t u 1 (put (packElems m ((List.range m.count).map fun j =>
         if j + xf f 0 8 < m.count then getElem m a (j + xf f 0 8) else getElem m b (j + xf f 0 8 - m.count)))))) ∧
  (∀ (s : State) (u : Seat) (f : AnvilFields) (rf : Regfile) (m : Fmt), fmtOf f = some m → predOn rf f = true →
       let a := (vReg rf f.a.toNat).toNat
       let b := (vReg rf f.b.toNat).toNat
       let put (w : Nat) : Regfile := setV rf f.d.toNat (BitVec.ofNat 256 w)
       let masked (mask : List Nat) (v : Bool) : Regfile :=
         if xf f 4 3 = 0 then put (packElems .uint1 mask) else { put (packElems .uint1 mask) with p := listSet rf.p (xf f 4 3) v }
       (readyAt s u 0x30 f rf → ∃ t, exec (.cmp u f) s = .next t ∧
         let mask := cmpMask m (xf f 0 3) a b
         ranOn s t u 1 (masked mask (if f.x.getLsbD 7 then (mask.take m.count).all (· == 1) else (mask.take m.count).any (· == 1)))) ∧
       (readyAt s u 0x31 f rf → ∃ t, exec (.testv u f) s = .next t ∧
         let mask := (List.range 128).map fun j => if j < m.count then ofBool (isInvalid m (getElem m a j)) else 0
         ranOn s t u 1 (masked mask ((mask.take m.count).any (· == 1)))) ∧
       (readyAt s u 0x32 f rf → ∃ t, exec (.sel u f) s = .next t ∧ ranOn s t u 1 (put (packElems m ((List.range m.count).map fun j =>
         match getElem .uint1 (vReg rf (xf f 0 4)).toNat j with
         | 0 => getElem m b j
         | 1 => getElem m a j
         | _ => m.invalid)))) ∧
       (readyAt s u 0x33 f rf → ∃ t, exec (.mlog u f) s = .next t ∧ ranOn s t u 1 (put (maskLogic (xf f 0 2) a b))) ∧
       (readyAt s u 0x34 f rf → ∃ t, exec (.popc u f) s = .next t ∧ ranOn s t u 1 (put (putElem m (vReg rf f.d.toNat).toNat (xf f 0 7)
         (roundInto m (seatRnd s u f (xf f 0 7)) (popCount (f.x.getLsbD 7) a)).code))))

/-- An instruction whose predicate reads 0 takes its slots and changes nothing else; five instructions cannot be predicated (R132). -/
def Obligations.PredicateOffWritesNothing : Prop :=
  (∀ (s : State) (u : Seat) (f : AnvilFields) (rf : Regfile) (e : ReadCheck), predOn rf f = false →
    ∀ x ∈ [(0x02, Instr.pset u f, 1), (0x03, .ttest u f, 1), (0x04, .tflag u f, 1), (0x10, .ldc u f e, 1), (0x11, .ldw u f e, 1),
        (0x12, .stw u f, 1), (0x14, .hld u f e, 1), (0x18, .acci u f, 1), (0x19, .dot u f, if isFp8 f then 2 else 1),
        (0x1A, .accout u f, 1), (0x1B, .accred u f, 2), (0x20, .vadd u f, 1), (0x21, .vsub u f, 1), (0x22, .vmul u f, 1),
        (0x23, .vfma u f, 1), (0x24, .vmax u f, 1), (0x25, .vmin u f, 1), (0x26, .vshr u f, 1), (0x27, .vcvt u f, 1),
        (0x28, .vbc u f, 1), (0x29, .vslide u f, 1), (0x2C, .lut u f, 2), (0x2D, .luti u f, 4), (0x30, .cmp u f, 1),
        (0x31, .testv u f, 1), (0x32, .sel u f, 1), (0x33, .mlog u f, 1), (0x34, .popc u f, 1)],
      readyAt s u x.1 f rf → ∃ t, exec x.2.1 s = .next t ∧ ranOn s t u x.2.2 rf ∧
        t.mem = (seatState s u).mem ∧ t.regs = (seatState s u).regs ∧ t.faults = (seatState s u).faults ∧
        t.lines = (seatState s u).lines ∧ t.free = (seatState s u).free ∧
        ∀ d q, u = .tile d q → (t.tile d q).work = (s.tile d q).work ∧ (t.tile d q).lostConst = (s.tile d q).lostConst) ∧
  (∀ op ∈ [0x00, 0x01, 0x08, 0x09, 0x13], ∀ f : AnvilFields, (shapeOf op f).map Shape.pred = some false)

/-- LDA, STA and ARADD move 256 bits and step their address; BR, END and a used budget direct the kernel (R176, R193, R194, R212, R213). -/
def Obligations.TempersMoveLinesAndEnd : Prop :=
  (∀ (s : State) (h k : Nat) (f : AnvilFields) (rf : Regfile) (x : Kernel), (s.temper h k).kernel = some x →
       let u : Seat := .temper h k
       let S := seatState s u
       let ar (n : BitVec 4) : BitVec 64 := listGet 0#64 x.ar (n.toNat % 8)
       let addr (n : BitVec 4) : Nat := toCode 64 (((ar n).toNat : Int) + 32 * signed 24 (xf f 0 24))
       let stepped (n : BitVec 4) : List (BitVec 64) :=
         if f.x.getLsbD 24 then listSet x.ar (n.toNat % 8) (BitVec.ofNat 64 (addr n)) else x.ar
       let may (a : Nat) : Prop := rangeOk S a 32 = true ∧ freeRoute S h (addrHarbour a) = true
       let stopped (t : State) (a : Nat) : Prop :=
         (t.temper h k).kernel.map (fun y => (y.ended, y.status)) = some (true, if rangeOk S a 32 then 5 else 2)
       predOn rf f = true →
       (readyAt s u 0x38 f rf →
         let r := temperLoad S h k (addr f.a)
         (may (addr f.a) → r.poison = false → missedNothing r.s u = true → ∃ t, exec (.lda u f) s = .next t ∧
           ranOn s t u 1 (setV rf f.d.toNat (BitVec.ofNat 256 r.data)) ∧ (t.temper h k).kernel.map Kernel.ar = some (stepped f.a)) ∧
         (¬ may (addr f.a) → ∃ t, exec (.lda u f) s = .next t ∧ t.mem = S.mem ∧ stopped t (addr f.a))) ∧
       (readyAt s u 0x39 f rf →
         let a := addr f.b
         let w := temperStore S h k a (vReg rf f.a.toNat)
         (may a → (ownArray h a = true ∨ noEntry S h = false) → w.2 = false → missedNothing w.1 u = true →
           ∃ t, exec (.sta u f) s = .next t ∧ ranOn s t u 1 rf ∧ (t.temper h k).kernel.map Kernel.ar = some (stepped f.b) ∧
             (ownArray h a = true → t.mem = storeWrite S.mem a (leBytes 32 (vReg rf f.a.toNat).toNat) ∧
               (Memory.wf s = true → ∀ b, b < a ∨ a + 32 ≤ b → t.byte b = S.byte b)) ∧
             (addrSpace a ≠ 2 → a % 64 ≤ 32 → firstSets S h k 0 ≠ 0 →
               (t.temper h k).data.head?.map (fun c => (c.line, c.dirty, lineBits c.data (a % 64) 256)) =
                 some (a / 64, true, (vReg rf f.a.toNat).toNat)) ∧
             (addrSpace a = 2 → ownArray h a = false →
               ∃ i ∈ (t.harbour h).dq 3, i.use = .write 32 ∧ i.dst = a ∧ i.data.toNat = (vReg rf f.a.toNat).toNat)) ∧
         (¬ may a → ∃ t, exec (.sta u f) s = .next t ∧ t.mem = S.mem ∧ stopped t a)) ∧
       (readyAt s u 0x3B f rf → ∃ t, exec (.aradd u f) s = .next t ∧ ranOn s t u 1 rf ∧ t.mem = S.mem ∧
         (t.temper h k).kernel.map Kernel.ar = some (listSet x.ar (f.d.toNat % 8) (ar f.d + f.x.signExtend 64)))) ∧
  ((∀ (s : State) (h k : Nat) (f : AnvilFields) (rf : Regfile) (x : Kernel), (s.temper h k).kernel = some x →
       let u : Seat := .temper h k
       (readyAt s u 0x3C f rf → ∃ t, exec (.br u f) s = .next t ∧ seatRegs t u = some rf ∧
         seatPlace t u = some (x.slot + 1, if predOn rf f then xf f 0 14 else x.pos + 1)) ∧
       (readyAt s u 0x3D f rf → predOn rf f = true → ∃ t, exec (.endKernel u f) s = .next t ∧ seatRegs t u = some rf ∧
         (t.temper h k).kernel.map (fun y => (y.ended, y.status, y.detail)) = some (true, x.status, x.detail))) ∧
     (∀ (s : State) (h k : Nat) (x : Kernel), s.hasHarbour h = true → k < 2 → (s.temper h k).kernel = some x →
       x.budget ≤ x.executed → x.ended = false → ∃ t, exec (.budgetExhausted h k) s = .next t ∧ t.mem = s.mem ∧
         (t.temper h k).kernel.map (fun y => (y.ended, y.status, y.detail, y.rf)) = some (true, 8, 0, x.rf)))

/-- REDA sends an add-to-line to where its address lives or to the ordering unit; applying one adds its elements to 32 bytes (R193, R205, R217, R218, R219, R221). -/
def Obligations.ReductionsAddToLines : Prop :=
  (∀ (s : State) (h k : Nat) (f : AnvilFields) (rf : Regfile), readyAt s (.temper h k) 0x3A f rf → predOn rf f = true →
    let u : Seat := .temper h k
    let S := seatState s u
    let a := arAddr S h k f.b.toNat f / 32 * 32
    let ordered := f.x.getLsbD 25
    let r : Reduction :=
      { temper := k, addr := a, fmt := f.fmt.toNat, data := vReg rf f.a.toNat, ordered := ordered,
        cycle := S.reg Reg.engGroupCycles h, harbour := h }
    (redRange S h k a ordered = false → ∃ t, exec (.reda u f) s = .next t ∧ t.mem = S.mem ∧
      (t.temper h k).kernel.map (fun y => (y.ended, y.status)) = some (true, 2)) ∧
    (redRange S h k a ordered = true → freeRoute S h (addrHarbour a) = true → (addrSpace a = 2 ∨ noEntry S h = false) →
      (ordered = true → (s.harbour h).ordered.length < 64 → ∃ t, exec (.reda u f) s = .next t ∧ ranOn s t u 1 rf ∧
        (t.harbour h).ordered = (s.harbour h).ordered ++ [r]) ∧
      (ordered = true → 64 ≤ (s.harbour h).ordered.length → ∃ t, exec (.reda u f) s = .next t ∧ seatRegs t u = some rf ∧
        seatPlace t u = seatPlace s u ∧ (t.harbour h).ordered = (s.harbour h).ordered) ∧
      (ordered = false → addrSpace a = 2 →
        let S' := dropForReduction S h k a
        S'.poisoned (a / 64) = false → ∃ t, exec (.reda u f) s = .next t ∧ ranOn s t u 1 rf ∧
          t.mem = storeWrite S'.mem a (leBytes 32 (redLine f.fmt.toNat (BitVec.ofNat 256 (leNat (S'.load a 32))) (vReg rf f.a.toNat)).1.toNat)) ∧
      (ordered = false → addrSpace a ≠ 2 → ∃ t, exec (.reda u f) s = .next t ∧ ranOn s t u 1 rf ∧
        (s.lockstep h = false → addrHarbour a = h → (t.harbour h).reductions = (s.harbour h).reductions ++ [r]) ∧
        (s.lockstep h = true ∨ addrHarbour a ≠ h → ∃ i ∈ (t.harbour h).dq 3, i.use = .reduce r ∧ i.dst = a)))) ∧
  (∀ (s : State) (h : Nat) (r : Reduction), s.hasHarbour h = true → r.addr < 2 ^ 48 →
    scratchHeld s (fun _ _ => false) r.addr 32 = false →
    let g := addrHarbour r.addr
    let here := addrSpace r.addr ≠ 0 ∨ holdHas s g (lineOf r.addr) = true ∨ stackReady s g = true
    let sum := (redLine r.fmt (BitVec.ofNat 256 (leNat (s.load r.addr 32))) r.data).1
    let adds (t : State) : Prop := t.mem = storeWrite s.mem r.addr (leBytes 32 sum.toNat) ∧
      (Memory.wf s = true → ∀ b, b < r.addr ∨ r.addr + 32 ≤ b → t.byte b = s.byte b)
    (∀ rest, (s.harbour h).reductions = r :: rest →
      (s.poisoned (r.addr / 64) = false → here → ∃ t, exec (.reductionApply h) s = .next t ∧ adds t ∧
        (t.harbour h).reductions = rest ∧ t.clocks.cycle = max s.clocks.cycle (s.harbour h).redFree ∧
        (t.harbour h).redFree = t.clocks.cycle + 2) ∧
      (s.poisoned (r.addr / 64) = true ∨ ¬ here → ∃ t, exec (.reductionApply h) s = .next t ∧ t.mem = s.mem ∧
        t.poisoned (r.addr / 64) = true ∧ (t.harbour h).reductions = rest ∧
        t.reg Reg.cacheRedPoisoned g = (s.reg Reg.cacheRedPoisoned g + 1) % 2 ^ 32)) ∧
    (∀ rest, nextOrdered (s.harbour h).ordered = some (r, rest) →
      let wait := if s.lockstep h then groupPace s * (r.cycle + s.reg Reg.engDqDueLocal h - s.reg Reg.engGroupCycles h) else 0
      let c := max (s.harbour h).orderedFree (s.clocks.cycle + wait)
      orderedDue (s.runTo c) h r = true → s.poisoned (r.addr / 64) = false → here →
        ∃ t, exec (.orderedReductionApply h) s = .next t ∧ adds t ∧ (t.harbour h).ordered = rest ∧ t.clocks.cycle = c ∧
          (t.harbour h).orderedFree = c + 16))

/-- A sounding makes all its planes READY with their delays, or none: a refused or lost sounding leaves them LOADED (R23, R96, R97, R98, R100, R101, R349). -/
def Obligations.SoundingJudgesItsSetWhole : Prop :=
  (∀ (s : State) (c : Instr) (lost : Bool), (c = .soundingEnd ∧ lost = false) ∨ (c = .soundLost ∧ lost = true) →
    let set := (planesIn s 2).filter fun x => (s.plane x.1 x.2).soundBeat.isSome && (s.plane x.1 x.2).ownResult.isNone
    let own := soundOne (setFerryReleases s) set lost
    set ≠ [] →
    let refused (t : State) : Prop := (∀ x ∈ set, t.planeState x.1 x.2 = 7) ∧
      (s.act.phase = 3 → t.reg Reg.imgState = 1 ∧ t.reg Reg.imgReason = 8 ∧ t.reg Reg.idStateReason = 7 ∧ t.act.phase = 0 ∧
        t.beat.on = false)
    ((∃ x ∈ set, (own x).2.reason ≠ 0) → ∃ t, exec c s = .next t ∧ refused t ∧
      ∀ x ∈ set, (∀ y ∈ set, y.1 = x.1 → y = x) → t.reg Reg.forgeActReason x.1 = (own x).2.reason) ∧
    (lost = true → ∀ x ∈ set, 1 ≤ (own x).2.reason ∧ (own x).2.reason ≤ 5) ∧
    ((∀ x ∈ set, (own x).2.reason = 0) →
      let failed := s.act.results.any Prod.snd
      let reported := (rxFerries s).all fun p => s.act.results.any fun y => y.1 = p.lane
      (failed = true → ∃ t, exec c s = .next t ∧ refused t ∧ ∀ x ∈ set, t.reg Reg.forgeActReason x.1 = 6) ∧
      (failed = false → reported = true → ∃ t, exec c s = .next t ∧
        (∀ x ∈ set, t.planeState x.1 x.2 = 3 ∧ t.reg Reg.forgeActReason x.1 = 0 ∧
          (t.plane x.1 x.2).portDelay = (own x).2.portDelay ∧ (t.plane x.1 x.2).quenchDelay = (own x).2.quenchDelay) ∧
        t.act.phase = if s.act.phase = 3 then 4 else s.act.phase) ∧
      (failed = false → reported = false → ∃ t, exec c s = .next t ∧ t.act.phase = s.act.phase ∧
        ∀ x ∈ set, t.planeState x.1 x.2 = 2 ∧ (t.plane x.1 x.2).ownResult = some 0))) ∧
  (∀ (s : State) (b : Beat), s.act.endedAt = some b → 64 < beatDiff s.beat.n b →
    ((rxFerries s).all fun p => s.act.results.any fun y => y.1 = p.lane) = false →
    ∀ x ∈ awaitingPeers s, (judgePeers s).planeState x.1 x.2 = 7 ∧ (judgePeers s).reg Reg.forgeActReason x.1 = 6)

/-- A load ends with programs in the tiles; IMG_SHADOW_LOAD starts one where its checks pass, and refuses it otherwise (R20, R101, R348, R349, R352). -/
def Obligations.LoadsCompleteAndShadowLoads : Prop :=
  (∀ (s : State), let set := (planesIn s 1).filter fun x => !(s.plane x.1 x.2).loaded
    set ≠ [] → (∀ x ∈ set, (s.plane x.1 x.2).plan.isSome = true) →
    ∃ t, exec .shadowLoadComplete s = .next t ∧
      (¬ (s.act.phase = 2 ∧ s.act.cancelled = true) → (∀ x ∈ set, (t.plane x.1 x.2).loaded = true ∧ t.planeState x.1 x.2 = 1) ∧
        ∀ f q p tp, set = [(f, q)] → (s.plane f q).plan = some p → p.tiles.getLast? = some tp →
          progOf (t.tile tp.tile q) q = tp.program) ∧
      (s.act.phase = 2 → s.act.cancelled = false → t.act.phase = 3) ∧
      (s.act.phase = 2 → s.act.cancelled = true → t.act.phase = 0 ∧ t.reg Reg.imgState = 1 ∧ t.reg Reg.idStateReason = 4 ∧
        ∀ x ∈ set, t.planeState x.1 x.2 = 7) ∧
      (s.act.phase ≠ 2 → s.reg Reg.imgShadowState = 2 → t.reg Reg.imgShadowState = 3)) ∧
  (∀ (s : State) (v : Nat) (i : ImagePlan), v < 2 ^ 17 →
    let fs := (List.range 16).filter fun f => bit v f
    let q := bit v 16
    (s.mode.flows = true → s.reg Reg.imgShadowState = 1 ∨ s.reg Reg.imgShadowState = 3 → s.images.shadow = some i →
      shadowRefusal s i fs q = 0 → ∃ t, exec (.imgShadowLoad (leBytes 4 v)) s = .next t ∧ t.outbox.head? = some (.status 0) ∧
        t.reg Reg.imgShadowState = (if fs.isEmpty then 3 else 2) ∧ t.reg Reg.imgReason = s.reg Reg.imgReason ∧
        ∀ f ∈ fs, ∀ p, planIn i f = some p → t.planeState f q = 1 ∧ (t.plane f q).plan = some p) ∧
    (s.mode.flows = true → s.reg Reg.imgShadowState = 1 ∨ s.reg Reg.imgShadowState = 3 → s.images.shadow = some i →
      shadowRefusal s i fs q ≠ 0 → ∃ t, exec (.imgShadowLoad (leBytes 4 v)) s = .next t ∧ t.planes = s.planes ∧
        t.outbox.head? = some (.status (if shadowRefusal s i fs q = 5 then 0x06090030 else 0x08000022)) ∧
        t.reg Reg.imgReason = shadowRefusal s i fs q) ∧
    (s.mode.online = true → s.mode.flows = false ∨ (s.reg Reg.imgShadowState ≠ 1 ∧ s.reg Reg.imgShadowState ≠ 3) →
      ∃ t, exec (.imgShadowLoad (leBytes 4 v)) s = .next t ∧ t.outbox.head? = some (.status 0x08000022) ∧ t.planes = s.planes ∧
        t.reg Reg.imgShadowState = s.reg Reg.imgShadowState))

/-- FORGE_SOUND takes 1 on a LOADED plane, 2 on a STALE one, 3 to reload an idle one; it refuses all else (R103). -/
def Obligations.ForgeSoundWritesOneToThree : Prop :=
  ∀ (s : State) (f : Nat), f < 16 →
    let q := !s.flag Reg.forgeLivePlane f
    let st := s.planeState f q
    (s.mode.flows = true → isActive s f = true →
      (st = 7 → ∃ t, exec (.forgeSoundLoaded f) s = .next t ∧ t.outbox.head? = some (.status 0) ∧ t.planeState f q = 2 ∧
        t.plane f (!q) = s.plane f (!q)) ∧
      (st = 6 → ∃ t, exec (.forgeSoundReprime f) s = .next t ∧ t.outbox.head? = some (.status 0) ∧ t.planeState f q = 2 ∧
        t.plane f (!q) = s.plane f (!q)) ∧
      (∀ i p, st = 0 ∨ st = 6 ∨ st = 7 → s.replaying = false → imageOf s (s.plane f (!q)) = some i → planIn i f = some p →
        tilesFree s q p = true → workFits s q p = true → meetsLive s p = false →
        ∃ t, exec (.forgeSoundReload f) s = .next t ∧ t.outbox.head? = some (.status 0) ∧ t.planeState f q = 1 ∧
          (t.plane f q).plan = some p ∧ t.plane f (!q) = s.plane f (!q))) ∧
    (∀ c : Instr, s.mode.online = true →
      (c = .forgeSoundLoaded f ∧ st ≠ 7) ∨ (c = .forgeSoundReprime f ∧ st ≠ 6) ∨
      (c = .forgeSoundReload f ∧ (¬ (st = 0 ∨ st = 6 ∨ st = 7) ∨ s.replaying = true ∨ imageOf s (s.plane f (!q)) = none)) ∨
      ((c = .forgeSoundLoaded f ∨ c = .forgeSoundReprime f ∨ c = .forgeSoundReload f) ∧ (s.mode = .held ∨ isActive s f = false)) →
      ∃ t, exec c s = .next t ∧ t.outbox.head? = some (.status 0x08000022) ∧ t.planes = s.planes ∧
        ∀ y, t.planeState f y = s.planeState f y) ∧
    (∀ v : Byte, s.mode.online = true → v ≠ 1#8 → v ≠ 2#8 → v ≠ 3#8 →
      ∃ t, exec (.registerWrite (Reg.forgeSound.base + f) Reg.forgeSound.sub [v]) s = .next t ∧
        t.outbox.head? = some (.status 0x06090030) ∧ t.planes = s.planes)

/-- A final token is taken, mismatched, late or missing; a verdict moves, drops or keeps the staged share at its harbours (R17, R95, R157, R166, R170). -/
def Obligations.QuenchTokensAndStagedShares : Prop :=
  (∀ (s : State) (f input : Nat) (plane : Bool) (x : Timed) (rest : List Timed), f < 16 → input < 16 →
       tabGet [] (s.quench f).inbox (inputKey input plane) = x :: rest →
       let n := rebuildBeat s.beat.n (tagBeat x.tok.tag)
       let own := tagForging x.tok.tag = f ∧ s.planeFor f n = some (tagPlane x.tok.tag)
       let issued := s.hasVerdict n = true ∧ (s.quench f).toIssue.contains n = false ∧ 0 ≤ beatDiff s.beat.n n
       let fits := (tagSeq x.tok.tag).toNat < ((s.planFor f n).map fun p => p.inputs.getD input 0).getD 0 ∧
         ∀ y ∈ (s.quench f).taken, ¬ (y.1 = n ∧ y.2.1 = input ∧ tagSeq y.2.2.tag = tagSeq x.tok.tag)
       ∃ t, exec (.quenchFinalToken f input plane) s = .next t ∧ tabGet [] (t.quench f).inbox (inputKey input plane) = rest ∧
         t.clocks.cycle = max s.clocks.cycle x.at' ∧
         (own → ¬ issued → fits → x.at' + 8 ≤ s.verdictCycle f n → (t.quench f).taken.head? = some (n, input, x.tok) ∧
           t.reg Reg.qnTagMismatch = s.reg Reg.qnTagMismatch ∧ t.reg Reg.qnLateTokens = s.reg Reg.qnLateTokens) ∧
         (¬ own ∨ (¬ issued ∧ ¬ fits) → (t.quench f).taken = (s.quench f).taken ∧
           t.reg Reg.qnTagMismatch = (s.reg Reg.qnTagMismatch + 1) % 2 ^ 32 ∧ t.reg Reg.qnLateTokens = s.reg Reg.qnLateTokens) ∧
         (own → issued → (t.quench f).taken = (s.quench f).taken ∧ t.reg Reg.qnTagMismatch = s.reg Reg.qnTagMismatch ∧
           t.reg Reg.qnLateTokens = (s.reg Reg.qnLateTokens + 1) % 2 ^ 32) ∧
         (own → ¬ issued → fits → s.verdictCycle f n < x.at' + 8 → (t.quench f).taken = (s.quench f).taken ∧
           t.reg Reg.qnTagMismatch = s.reg Reg.qnTagMismatch ∧ t.reg Reg.qnLateTokens = s.reg Reg.qnLateTokens)) ∧
  (∀ (s : State) (f h : Nat) (n : Beat) (r : BitVec 128), f < 16 → s.hasHarbour h = true → recordOf s f n = some r →
       let due := s.verdictCycle f n + 3 * (ringHops (((s.planFor f n).map ForgingPlan.home).getD h) h).length
       let left := (s.tank h).staging.filter fun x => !(x.forging == f && x.beat == n)
       s.dueNow due = true → (∃ x ∈ (s.tank h).staging, x.forging = f ∧ x.beat = n) →
       ∃ t, exec (.verdictRingArrival f h n) s = .next t ∧ t.clocks.cycle = max s.clocks.cycle due ∧
         (r.extractLsb' 74 2 = 0#2 → (t.tank h).staging = left ∧ (t.tank h).queued = (s.tank h).queued ++
           [({ forging := f, beat := n, cls := (r.extractLsb' 66 3).toNat, words := stagedShare s f h n, sent := 0, late := false } : Share)]) ∧
         (r.extractLsb' 74 2 = 1#2 → (t.tank h).staging = left ∧ (t.tank h).queued = (s.tank h).queued) ∧
         (r.extractLsb' 74 2 = 2#2 → (t.tank h).queued = (s.tank h).queued ∧
           (t.tank h).staging = if (s.quench f).refused.any fun x => x.beat = n then (s.tank h).staging else left))

/-- The record of a beat names its beat, forging, class, verdict and the first reason that the evaluation reaches (R157, R161, R162, R163, R371). -/
def Obligations.VerdictFollowsTheEvaluation : Prop :=
  ∀ (s : State) (f : Nat) (n : Beat) (q : Bool) (p : ForgingPlan), f < 16 → s.nextIssue f = some n → s.planeFor f n = some q →
    (s.plane f q).plan = some p → s.dueNow (s.verdictCycle f n) = true → issuesAfter s f (s.verdictCycle f n) = false →
    let u := s.runTo (s.verdictCycle f n)
    let fl := beatFlags u f p n
    let policy := u.reg Reg.forgePrimePolicy f
    let skips := fl.getLsbD 4 = true ∧ policy = 1
    let hit := (n - (u.plane f q).first).toNat % u.reg Reg.forgePrimePrescale f = 0
    let d := decisionToken u f n
    let code (k : Nat) : Nat := (d.map fun x => decisionElem x k).getD 0x8000
    let time := eventTime u p n (d.map fun x => decisionElem x 3)
    let ws := enabledWindows u f n
    let cls := if skips then u.reg Reg.qnClass f else if d.isSome ∧ 1 ≤ code 1 ∧ code 1 ≤ 7 then code 1 else u.reg Reg.qnClass f
    let reject : Option Nat :=
      if fl.getLsbD 4 = true ∧ policy = 0 then some 5
      else if skips ∧ ¬ hit then some 5
      else if ¬ skips ∧ fl.getLsbD 3 = true ∧ u.reg Reg.qnDegradedPolicy f = 1 then some 9
      else if ¬ skips ∧ d = none then some 7
      else if ¬ skips ∧ (code 0 = 0x8000 ∨ code 2 = 0x8000) then some 6
      else if ¬ skips ∧ signed 16 (code 0) ≤ 0 then some 1
      else if ¬ skips ∧ signed 16 (code 2) < signed 16 (u.reg Reg.qnThreshold f) then some 2
      else if ws ≠ [] ∧ time = none then some 8
      else if (∃ w ∈ ws, w.isVeto = false) ∧ ∀ w ∈ ws, w.isVeto = false → ∀ y, time = some y → w.inside y.1 = false then some 3
      else if ∃ w ∈ ws, w.isVeto = true ∧ ∃ y, time = some y ∧ w.inside y.1 = true then some 4
      else none
    (∃ t r, exec (.verdictIssue f false) s = .next t ∧ t.outbox = .verdict f r :: s.outbox ∧
      t.clocks.cycle = max s.clocks.cycle (s.verdictCycle f n) ∧ n ∉ (t.quench f).toIssue ∧
      r.extractLsb' 80 48 = n ∧ (r.extractLsb' 76 4).toNat = f ∧ 
      (∀ k, reject = some k → (r.extractLsb' 74 2).toNat = 1 ∧ (r.extractLsb' 69 5).toNat = k) ∧
      (reject = none → (r.extractLsb' 66 3).toNat = cls % 8 ∧
        if (contributorsOf u f q).all (admits (u.quench f) (deferLimit u f cls) cls) then
          (r.extractLsb' 74 2).toNat = 0 ∧ (r.extractLsb' 69 5).toNat = if skips then 10 else 0
        else (r.extractLsb' 74 2).toNat = 2 ∧ (r.extractLsb' 69 5).toNat = (16 + cls) % 32)) ∧
    (s.mode ≠ .off → ∃ t, exec (.verdictIssue f true) s = .next t ∧ t.mode = .faulted ∧
      t.faults.log.getLast? = some (logRecord t.beat.n 0xFF58 (harbourUnit p.home) 0 0 0 f))

/-- An accepted beat enters the ledger of every contributing harbour within its capacity and takes no lower class's slack below 0 (R167, R168). -/
def Obligations.AdmissionKeepsItsPromises : Prop :=
  ∀ (s : State) (f : Nat) (n : Beat) (q : Bool) (p : ForgingPlan), f < 16 → s.nextIssue f = some n → s.planeFor f n = some q →
    (s.plane f q).plan = some p → s.dueNow (s.verdictCycle f n) = true → issuesAfter s f (s.verdictCycle f n) = false →
    ∃ t r, exec (.verdictIssue f false) s = .next t ∧ (t.quench f).records.head? = some r ∧
      (r.extractLsb' 74 2 ≠ 0#2 → (t.quench f).led0 = (s.quench f).led0 ∧ (t.quench f).ledP = (s.quench f).ledP) ∧
      (r.extractLsb' 74 2 = 0#2 → ∀ x ∈ contributorsOf s f q,
        let c := (evaluate (s.runTo (s.verdictCycle f n)) f q p n).cls
        (c = 0 → owedOf (tabGet [] (t.quench f).led0 x.key) = owedOf (tabGet [] (s.quench f).led0 x.key) + x.share ∧
          owedOf (tabGet [] (t.quench f).led0 x.key) ≤ x.cap0 ∧ (t.quench f).ledP = (s.quench f).ledP) ∧
        (c ≠ 0 → owedOf (tabGet [] (t.quench f).ledP x.key) = owedOf (tabGet [] (s.quench f).ledP x.key) + x.share ∧
          owedOf (tabGet [] (t.quench f).ledP x.key) ≤ x.capPlus ∧ (t.quench f).led0 = (s.quench f).led0 ∧
          ∀ e ∈ tabGet [] (t.quench f).ledP x.key, e.cls < c → 0 ≤ e.slack))

/-- A queue's head starts when its waits, fence and turn allow, ends at once on a failed check, and waits otherwise (R178, R180, R182, R183, R185, R215, R244). -/
def Obligations.CommandsStartInTheirTurn : Prop :=
  ∀ (s : State) (h e q : Nat) (c : Cmd) (rest : List Cmd), s.hasQueue h e q = true →
    (s.harbour h).runningAt e q = none → (s.harbour h).queue e q = c :: rest →
    let waits := (cmdWaitA c = true → waitOver s h (cmdTokenA c) (cmdValueA c)) ∧
      (cmdWaitB c = true → waitOver s h (cmdTokenB c) (cmdValueB c))
    (s.mode.flows = true → s.domainOn (64 + h) = true → s.run.drain = 0 → s.groupStands h = false →
      queueHalted s h e q = false → waits → (cmdFence c = true → (s.harbour h).running = []) →
      (cmdNotify c = true → (s.harbour h).completions.length < 1024) →
      (e ≠ 0 → (∀ r ∈ (s.harbour h).running, r.engine = e → betweenListed r = true) ∧
        ∀ p < q, queueHalted s h e p = true ∨ ∀ d, headOf (s.harbour h) e p = some d → canStart (s.harbour h) e p d = false) →
      ∃ t r, exec (.commandStart h e q) s = .next t ∧ (t.harbour h).queue e q = rest ∧
        (t.harbour h).runningAt e q = some r ∧ r.cmd = c ∧ r.started = s.clocks.cycle ∧ r.issued = 0 ∧ r.listCmd = none ∧
        (cmdCheck s h e c = none → r.finished = false) ∧
        (opcodeOn (cmdOpcode c) e = false → r.finished = true ∧ r.status = 1) ∧
        (tabGet Ctx.idle (t.harbour h).ctxs (ctxOf e q)).state = 1 ∧
        (tabGet Ctx.idle (t.harbour h).ctxs (ctxOf e q)).opcode = cmdOpcode c ∧
        (e = 1 ∨ e = 2 → cmdFence c = true ∨ cmdOpcode c = 0x20 →
          (t.temper h (e - 1)).data = [] ∧ (t.temper h (e - 1)).const = [] ∧
          (cmdFence c = true → (t.temper h (e - 1)).desc = [] ∧ (t.temper h (e - 1)).instr = []))) ∧
    (s.mode.flows = false ∨ queueHalted s h e q = true ∨ ¬ waits → exec (.commandStart h e q) s = .next s)

/-- A completed command advances its done token, writes its record and leaves its engine; a failed one with ERRSTOP halts its queue (R181, R184, R185, R193, R215, R219, R250). -/
def Obligations.CommandsCompleteForTheirTokens : Prop :=
  ∀ (s : State) (h e q : Nat) (r0 : Running), s.hasQueue h e q = true → (s.harbour h).runningAt e q = some r0 →
    (e = 1 ∨ e = 2 → reductionsLeft s h (e - 1) = false ∧ dirtyLines s h (e - 1) = []) → (s.harbour h).outstanding e q = false →
    let r := withKernel s h r0
    let tok (u : State) : BitVec 16 := tabGet 0#16 (u.harbour h).tokens (cmdDone r.cmd)
    r.finished = true →
    (r0.listCmd = none ∨ r0.listLeft ≠ [] → ∃ t, exec (.commandComplete h e q) s = .next t ∧
      (cmdDoneEn r.cmd = true → cmdPerItem r.cmd = false → tok t = tok s + 1#16) ∧
      (cmdDoneEn r.cmd = false ∨ cmdPerItem r.cmd = true → tok t = tok s) ∧
      (cmdNotify r.cmd = true ∨ r.status ≠ 0 → (s.harbour h).completions.length < 1024 →
        ∃ x, (t.harbour h).completions = (s.harbour h).completions ++ [x] ∧
          (x.extractLsb' 120 8).toNat = cmdOpcode r.cmd ∧ (x.extractLsb' 116 4).toNat = h ∧ (x.extractLsb' 112 4).toNat = e ∧
          (x.extractLsb' 110 2).toNat = q ∧ (x.extractLsb' 96 8).toNat = r.status % 256 ∧
          (x.extractLsb' 80 16).toNat = cmdTag r.cmd ∧
          (x.extractLsb' 32 48).toNat = s.reg Reg.engGroupCycles h % 2 ^ 48 ∧ (x.extractLsb' 0 32).toNat = r.detail % 2 ^ 32) ∧
      (cmdNotify r.cmd = false → r.status = 0 → (t.harbour h).completions = (s.harbour h).completions) ∧
      (r.status ≠ 0 → cmdErrStop r.cmd = true → queueHalted t h e q = true) ∧
      t.reg Reg.engCommands (8 * h + e) = (s.reg Reg.engCommands (8 * h + e) + 1) % 2 ^ 64 ∧
      tabGet Ctx.idle (t.harbour h).ctxs (ctxOf e q) = Ctx.idle ∧
      (e = 1 ∨ e = 2 → (t.temper h (e - 1)).kernel = none) ∧
      (r0.listCmd = none → (t.harbour h).runningAt e q = none) ∧
      (∀ l, r0.listCmd = some l → ∃ x, (t.harbour h).runningAt e q = some x ∧ x.cmd = l ∧ x.finished = false ∧ x.listLeft = r0.listLeft)) ∧
    (r0.listCmd ≠ none → r0.listLeft = [] → ∃ t, exec (.commandComplete h e q) s = .next t ∧ (t.harbour h).runningAt e q = none ∧
      t.reg Reg.engCommands (8 * h + e) = (s.reg Reg.engCommands (8 * h + e) + 2) % 2 ^ 64)

/-- NOP, SIGNAL and LIST as commands; PIN registers or removes rules, and PIN_COPY copies what it pins (R178, R179, R181, R195, R196, R198, R199). -/
def Obligations.PlainCommandsListsAndPins : Prop :=
  (∀ (s : State) (h e q : Nat) (r : Running),
       (runsNow s h e q 0x00 r → ∃ t, exec (.nopCommand h e q) s = .next t ∧ endedWith t h e q 0 0 ∧
         (t.harbour h).tokens = (s.harbour h).tokens) ∧
       (runsNow s h e q 0x01 r → ∃ t, exec (.signal h e q) s = .next t ∧ endedWith t h e q 0 0 ∧
         ∀ k, tabGet 0#16 (t.harbour h).tokens k = if k = cmdBody r.cmd 0 6 then
           tabGet 0#16 (s.harbour h).tokens k + BitVec.ofNat 16 (cmdBody r.cmd 16 16) else tabGet 0#16 (s.harbour h).tokens k) ∧
       (runsNow s h e q 0x02 r → r.listCmd = none →
         let a := cmdBody r.cmd 0 48
         let n := cmdBody r.cmd 48 12 + 1
         (holdsLines r a (32 * n) → ∃ t y, exec (.list h e q) s = .next t ∧ (t.harbour h).runningAt e q = some y ∧ y.listCmd = some r.cmd ∧
           y.listLeft.length = n ∧ ∀ k < n, listGet 0#256 y.listLeft k = BitVec.ofNat 256 (leNat (slice (r.bytes a (32 * n)) (32 * k) 32))) ∧
         ((∀ l ∈ linesOf a (32 * n), r.has l = true) → ∀ l, r.badOf (linesOf a (32 * n)) = some l →
           ∃ t, exec (.list h e q) s = .next t ∧ endedWith t h e q 3 (l - a / 64) ∧ queueHalted t h e q = true))) ∧
  (∀ (s : State) (h q : Nat) (r : Running),
       (runsNow s h 0 q 0x14 r → let f := cmdBody r.cmd 48 4
         let beats := cmdBody r.cmd 60 20
         let life := cmdBody r.cmd 80 16
         let rules := (s.harbour h).pinRules
         (beats ≠ 0 → 1 ≤ life → life ≤ 4096 → rules.length < 4 → shareWords s f h ≠ 0 → ∃ t d x, exec (.pin h 0 q) s = .next t ∧
           endedWith t h 0 q 0 d ∧ (t.harbour h).pinRules = rules ++ [x] ∧ x.forging = f ∧ x.start.toNat = cmdBody r.cmd 0 48 ∧
           x.beats = beats ∧ x.mask = cmdBody r.cmd 52 8 ∧ x.life = life) ∧
         (beats ≠ 0 → life = 0 ∨ 4096 < life ∨ 4 ≤ rules.length ∨ shareWords s f h = 0 → ∃ t, exec (.pin h 0 q) s = .next t ∧
           endedWith t h 0 q 2 0 ∧ (t.harbour h).pinRules = rules) ∧
         (beats = 0 → ∃ t, exec (.pin h 0 q) s = .next t ∧ endedWith t h 0 q 0 (rules.filter fun y => y.forging = f).length ∧
           (t.harbour h).pinRules = rules.filter fun y => y.forging ≠ f)) ∧
       (runsNow s h 0 q 0x15 r → tongsTurn (s.harbour h) = some q → r.total ≠ 0 → let dst := cmdBody r.cmd 52 48
         let k := r.issued
         let pin := (s.tank h).pins.find? fun p => p.forging = cmdBody r.cmd 48 4 ∧ p.beat.toNat = cmdBody r.cmd 0 48
         (pin = none → k = 0 → ∃ t, exec (.pinCopy h 0 q) s = .next t ∧ endedWith t h 0 q 6 0 ∧ t.mem = s.mem) ∧
         (∀ p, pin = some p → boundaryPast (s.runTo (s.harbour h).tongsFree) p.release = false → 64 * k < 8 * p.size →
           min (8 * (k + 1)) p.size ≤ p.words.length → rangeFor s h 0 q dst (8 * p.size) = true →
           let n := min 64 (8 * p.size - 64 * k)
           rangeFor s h 0 q (dst + 64 * k) n = true → dst % 64 = 0 →
           servedAtOnce s h (itemOf 0 q (.write n) 0 (dst + 64 * k) k 0#512 false) →
           ∃ t, exec (.pinCopy h 0 q) s = .next t ∧ turnUsed s t h q ∧ oneLineDone s t h 0 q r (ceilDiv (8 * p.size) 64) false ∧
             (∀ j, 8 * j < n → t.load (dst + 64 * k + 8 * j) 8 = leBytes 8 (listGet 0#64 p.words (8 * k + j)).toNat) ∧
             ∀ a, a < dst + 64 * k ∨ dst + 64 * k + n ≤ a → t.byte a = s.byte a)))

/-- In its turn COPY moves a line with its poison and FILL writes its pattern; a PER_ITEM token counts the line (R179, R182, R184, R190, R199). -/
def Obligations.CopyAndFillWriteTheirLines : Prop :=
  ∀ (s : State) (h q : Nat) (r : Running) (fills : Bool), runsNow s h 0 q (if fills then 0x11 else 0x10) r →
    let c : Instr := if fills then .fill h 0 q else .copy h 0 q
    let src := cmdBody r.cmd 0 48 + 64 * r.issued
    let dst := (if fills then cmdBody r.cmd 0 48 else cmdBody r.cmd 48 48) + 64 * r.issued
    let i := if fills then itemOf 0 q (.write 64) 0 dst r.issued 0#512 false else itemOf 0 q .copy src dst r.issued 0#512 false
    let poison := !fills && s.poisoned (src / 64)
    (r.total = 0 → ∃ t, exec c s = .next t ∧ endedWith t h 0 q 0 0) ∧
    (r.total ≠ 0 → tongsTurn (s.harbour h) ≠ some q → exec c s = .next s) ∧
    (r.total ≠ 0 → tongsTurn (s.harbour h) = some q → dst % 64 = 0 → src % 64 = 0 ∨ fills = true → rangeFor s h 0 q dst 64 = true →
      rangeFor s h 0 q src 64 = true ∨ fills = true → servedAtOnce s h i → abortsOn s h poison = false →
      ∃ t, exec c s = .next t ∧ turnUsed s t h q ∧ oneLineDone s t h 0 q r r.total poison ∧
        (fills = true → ∀ j < 16, t.load (dst + 4 * j) 4 = leBytes 4 (cmdBody r.cmd 64 32)) ∧
        (fills = false → ∀ j < 64, t.byte (dst + j) = s.byte (src + j)) ∧
        ∀ a, a < dst ∨ dst + 64 ≤ a → t.byte a = s.byte a)

/-- FETCH, STORE and COPY put the line of their turn into their decoupling queue, due after the delay of what it accesses (R182, R184, R186, R189). -/
def Obligations.FetchAndStoreIssueItems : Prop :=
  ∀ (s : State) (h q op : Nat) (r : Running), op = 0x10 ∨ op = 0x12 ∨ op = 0x13 → runsNow s h 0 q op r →
    let c : Instr := if op = 0x10 then .copy h 0 q else if op = 0x12 then .fetch h 0 q else .store h 0 q
    let d := if op = 0x10 then 3 else cmdBody r.cmd 120 2
    let src := cmdBody r.cmd 0 48 + 64 * r.issued
    let dst := cmdBody r.cmd 48 48 + 64 * r.issued
    (r.total = 0 → ∃ t, exec c s = .next t ∧ endedWith t h 0 q 0 0) ∧
    (r.total ≠ 0 → tongsTurn (s.harbour h) = some q →
      (rangeFor s h 0 q src 64 = true → rangeFor s h 0 q dst 64 = true →
        waitsInQueue s h (itemOf 0 q .copy src dst r.issued 0#512 false) →
        ∃ t y, exec c s = .next t ∧ turnUsed s t h q ∧ (t.harbour h).runningAt 0 q = some y ∧ y.issued = r.issued + 1 ∧
          y.delivered = r.delivered ∧ y.finished = false ∧
          ∃ i ∈ (t.harbour h).dq d, i.engine = 0 ∧ i.queue = q ∧ i.use = .copy ∧ i.offset = r.issued ∧ i.src = src ∧ i.dst = dst ∧
            i.issued = t.clocks.cycle ∧ i.due = t.reg Reg.engGroupCycles h +
              (if addrHarbour src = h ∧ addrHarbour dst = h then s.reg Reg.engDqDueLocal h else s.reg Reg.engDqDueRemote h)) ∧
      (rangeFor s h 0 q src 64 = false ∨ rangeFor s h 0 q dst 64 = false → ∃ t y, exec c s = .next t ∧
        (t.harbour h).runningAt 0 q = some y ∧ y.total = r.issued ∧ y.finished = decide (r.delivered = r.issued) ∧
        (r.status = 0 → y.status = 2 ∧ y.detail = r.issued % 2 ^ 32)))

/-- LAUNCH starts the kernel of its descriptor with cleared registers, or ends RANGE or POISONED (R192, R194, R199, R211). -/
def Obligations.LaunchStartsAKernel : Prop :=
  ∀ (s : State) (h e q : Nat) (r : Running), e = 1 ∨ e = 2 → runsNow s h e q 0x20 r → (s.temper h (e - 1)).kernel = none →
    let a := cmdBody r.cmd 0 48
    let d := r.bytes a 64
    let word (o n : Nat) : Nat := leNat (slice d o n)
    let l := launchOf d
    let u := if s.reg Reg.arraySplit (2 * h + (e - 1)) = l.split then s else changeSplit s h (e - 1) l.split
    (holdsLines r a 64 → launchOk s d l = true → freeRoute s h (addrHarbour (word 0 8)) = true →
      kernelStatus u.strict l.split (kernelWords u h (e - 1) l) = 0 →
      ∃ t k, exec (.launch h e q) s = .next t ∧ (t.temper h (e - 1)).kernel = some k ∧ k.addr = word 0 8 ∧ k.len = word 8 4 ∧
        k.seedIndex = word 13 1 ∧ k.budget = (if word 16 8 = 0 then 2 ^ 40 else word 16 8) ∧ k.executed = 0 ∧ k.pos = 0 ∧
        k.rf = Regfile.clear ∧ k.ended = false ∧ k.queue = q ∧
        (∀ i < 5, listGet 0#64 k.ar i = BitVec.ofNat 64 (word (24 + 8 * i) 8)) ∧
        (∀ i, 5 ≤ i → i < 8 → listGet 0#64 k.ar i = 0#64) ∧
        t.reg Reg.arraySplit (2 * h + (e - 1)) = word 12 1) ∧
    (holdsLines r a 64 → launchOk s d l = false → ∃ t, exec (.launch h e q) s = .next t ∧ endedWith t h e q 2 0 ∧
      (t.temper h (e - 1)).kernel = none) ∧
    ((∀ x ∈ linesOf a 64, r.has x = true) → ∀ x, r.badOf (linesOf a 64) = some x →
      ∃ t, exec (.launch h e q) s = .next t ∧ endedWith t h e q 3 (x - a / 64) ∧ queueHalted t h e q = true)

/-- RANGE_FLUSH, RANGE_INVALIDATE and RANGE_PREFETCH act on the lines of their range, at the hold or at the masked first levels (R222, R223). -/
def Obligations.RangesActOnEveryLine : Prop :=
  ∀ (s : State) (h e q op : Nat) (c : Instr) (r : Running),
    (op, c) ∈ [(0x21, Instr.rangePrefetch h e q), (0x22, .rangeFlush h e q), (0x23, .rangeInvalidate h e q)] → runsNow s h e q op r →
    let base := cmdBody r.cmd 0 48
    let mask := cmdBody r.cmd 80 4
    let a := base + 64 * r.issued
    let fill (t : State) (classes : List Nat) (x : Nat) : Prop :=
      ∃ i ∈ (t.harbour h).dq (cmdBody r.cmd 84 2), i.engine = e ∧ i.queue = q ∧ i.use = .prefetch classes ∧ i.src = x
    let levels (t : State) (cls : Nat) : List CLine := (t.temper h (e - 1)).cache cls
    (e = 0 → r.total ≠ 0 → tongsTurn (s.harbour h) = some q → rangeFor s h 0 q a 64 = true →
      let hold (t : State) : List (Nat × Bool) := (t.harbour (addrHarbour a)).hold
      let w := itemOf 0 q (.clean (op == 0x23)) 0 a r.issued 0#512 false
      (addrSpace a ≠ 0 ∨ op = 0x21 ∧ addrHarbour a = h ∧ holdHas s h (lineOf a) = true →
        ∃ t, exec c s = .next t ∧ turnUsed s t h q ∧ oneLineDone s t h 0 q r r.total false ∧ t.mem = s.mem ∧ hold t = hold s) ∧
      (addrSpace a = 0 → op = 0x21 → waitsInQueue s h (itemOf 0 q (.prefetch []) a 0 r.issued 0#512 false) →
        ¬ (addrHarbour a = h ∧ holdHas s h (lineOf a) = true) →
        ∃ t, exec c s = .next t ∧ turnUsed s t h q ∧ t.mem = s.mem ∧ fill t [] a) ∧
      (addrSpace a = 0 → op ≠ 0x21 → servedAtOnce s h w →
        ∃ t, exec c s = .next t ∧ turnUsed s t h q ∧ oneLineDone s t h 0 q r r.total false ∧ t.mem = s.mem ∧
          (op = 0x22 → hold t = hold s) ∧ (op = 0x23 → holdHas t h (lineOf a) = false)) ∧
      (addrSpace a = 0 → op ≠ 0x21 → waitsInQueue s h w →
        ∃ t, exec c s = .next t ∧ turnUsed s t h q ∧ t.mem = s.mem ∧ ∃ i ∈ (t.harbour h).dq 3, i.engine = 0 ∧ i.queue = q ∧
          i.use = .clean (op == 0x23) ∧ i.dst = a)) ∧
    (e = 1 ∨ e = 2 → r.issued = 0 → r.delivered = 0 → r.status = 0 → r.detail = 0 →
      (∀ k < r.total, rangeFor s h e q (base + 64 * k) 64 = true) →
      (op ≠ 0x21 → r.total ≠ 0 → (s.harbour h).dqRoom 3 = true → dirtyLines s h (e - 1) = [] →
        ∃ t, exec c s = .next t ∧ endedWith t h e q 0 0 ∧ t.mem = s.mem ∧
          (op = 0x22 → ∀ cls < 4, levels t cls = levels s cls) ∧
          (op = 0x23 → ∀ k < r.total, ∀ cls < 4, bit mask cls = true → ∀ x ∈ levels t cls, x.line ≠ base / 64 + k)) ∧
      (op = 0x21 → r.total = 1 → (s.harbour h).dqRoom (cmdBody r.cmd 84 2) = true →
        let cs := (List.range 4).filter fun n => bit mask n
        let lacks := ∃ cls ∈ cs, firstSets s h (e - 1) cls ≠ 0 ∧ ∀ x ∈ levels s cls, x.line ≠ base / 64
        let i := itemOf e q (.prefetch cs) base 0 0 0#512 false
        (¬ lacks → ∃ t, exec c s = .next t ∧ endedWith t h e q 0 0 ∧ t.mem = s.mem ∧ ∀ cls < 4, levels t cls = levels s cls) ∧
        (lacks → servedAtOnce s h i → s.poisoned (base / 64) = false → (∀ cls < 4, ∀ x ∈ levels s cls, x.dirty = false) →
          ∃ t, exec c s = .next t ∧ endedWith t h e q 0 0 ∧ t.mem = s.mem ∧
            ∀ cls ∈ cs, firstSets s h (e - 1) cls ≠ 0 → ∃ x ∈ levels t cls, x.line = base / 64) ∧
        (lacks → waitsInQueue s h i → ∃ t, exec c s = .next t ∧ t.mem = s.mem ∧ fill t cs base)))

/-- A filter or median job and a pair job leave their output codes row by row and end OK; a bad descriptor ends RANGE (R229, R231, R232, R233, R236, R240, R243). -/
def Obligations.VisionJobsWriteTheirOutput : Prop :=
  ∀ (s : State) (h q : Nat) (r : Running),
    let a := cmdBody r.cmd 0 48
    let d := r.bytes a 64
    let fresh := r.total = 0 ∧ r.issued = 0 ∧ r.delivered = 0 ∧ r.status = 0 ∧ r.detail = 0 ∧ holdsLines r a 64
    let free (e out : Nat) := s.lockstep h = false ∧ (s.harbour h).outstanding e q = false ∧ (s.harbour h).dqRoom 3 = true ∧
      (s.harbour h).victims = [] ∧ addrHarbour out = h ∧ addrSpace out ≠ 0 ∧ s.reg Reg.cacheHoldDirectMib h ≤ 32 ∧
      ∀ u < 2, s.reg Reg.arraySplit (2 * h + u) ≤ 8
    (runsNow s h 3 q 0x30 r → fresh →
      let j := sieveOf d
      let co := if readsKernel s h q j then coefficients r j else []
      (readsKernel s h q j = true → holdsLines r j.kernel (2 * j.coeffs)) →
      (sieveOk s h q d j co = true → j.op ≤ 2 → free 3 j.outBase → (∀ l ∈ j.input.lines, r.has l = true ∧ (r.line l).poison = false) →
        ∃ t, exec (.sieveJob h 3 q) s = .next t ∧ endedWith t h 3 q 0 0 ∧
          ∀ x y, x < j.w → y < j.h → t.load (j.outBase + y * j.outPitch + 2 * x) 2 =
            leBytes 2 (if j.op = 2 then medianAt j (j.input.code r) x y
              else (filterAt j co j.inFmt (j.input.code r) j.w j.h x y).code)) ∧
      (sieveOk s h q d j co = false → ∃ t n, exec (.sieveJob h 3 q) s = .next t ∧ endedWith t h 3 q 2 n ∧ t.mem = s.mem)) ∧
    (runsNow s h 4 q 0x38 r → fresh →
      let j := pairOf d
      (pairOk s h q d j = true → free 4 j.out → (∀ l ∈ j.lines, r.has l = true ∧ (r.line l).poison = false) → stackReady s h = true →
        ∃ t, exec (.pairJob h 4 q) s = .next t ∧ endedWith t h 4 q 0 0 ∧
          (q, j.scratch, j.scratchSize) ∈ (t.harbour h).scratch ∧
          ∀ x y, x < j.w → y < j.h → t.load (j.out + y * j.outPitch + 2 * x) 2 =
            leBytes 2 (listGet 0 (listGet [] (pairRows j (j.leftImg.code r) (j.rightImg.code r)) y) x)) ∧
      (pairOk s h q d j = false → ∃ t n, exec (.pairJob h 4 q) s = .next t ∧ endedWith t h 4 q 2 n ∧ t.mem = s.mem))

/-- An item lands on arrival in queue mode and at its due group cycle in lockstep, stalls its group when it is late, and times out poisoned (R186, R187, R189, R190, R199, R200). -/
def Obligations.ItemsAreDeliveredInOrder : Prop :=
  ∀ (s : State) (h d : Nat) (i : Item) (r : Running), s.hasHarbour h = true → d < 4 →
    (s.harbour h).dq d = [i] → (s.harbour h).dqs.flatMap Prod.snd = [i] → i.use = .copy → i.engine < 5 → i.got = false →
    (i.stack = true → i.taken = true) → scratchBars s h i = false →
    i.poisoned = false → s.poisoned (i.src / 64) = false → (s.harbour h).runningAt i.engine i.queue = some r → r.finished = false →
    r.status = 0 → s.reg Reg.engPoisonPolicy h ≠ 1 →
    let clean : EccReport := { corrected := false, uncorrected := false, odCorrected := false, odUncorrected := false }
    let landed (t : State) : Prop := (t.harbour h).outstanding i.engine i.queue = false ∧ lineData t i.dst = lineData s i.src ∧
      ∃ x, (t.harbour h).runningAt i.engine i.queue = some x ∧ x.delivered = r.delivered + 1 ∧
        x.finished = decide (r.delivered + 1 = r.total) ∧ x.status = 0
    (s.lockstep h = false → i.arrived = false → ∃ t, exec (.itemArrival h d 0 clean) s = .next t ∧ landed t) ∧
    (s.lockstep h = true → i.arrived = false → s.reg Reg.engGroupCycles h < i.due → ∃ t y, exec (.itemArrival h d 0 clean) s = .next t ∧
      ((t.harbour h).dq d).head? = some y ∧ y.isOf i.engine i.queue = true ∧ y.arrived = true ∧ y.due = i.due ∧ t.mem = s.mem) ∧
    (s.lockstep h = true → s.groupStands h = false → s.power.throttled = false → s.mode.online = true →
      s.reg Reg.engGroupCycles h ≤ i.due → i.due < 2 ^ 64 → ∃ t, exec (.itemDue h) s = .next t ∧
        t.reg Reg.engGroupCycles h = i.due ∧
        t.clocks.cycle = s.clocks.cycle + 2 * (i.due - s.reg Reg.engGroupCycles h) ∧
        (i.arrived = true → landed t ∧ (t.harbour h).stalled = false) ∧
        (i.arrived = false → (t.harbour h).stalled = true ∧ ((t.harbour h).dq d).head? = some i ∧ t.mem = s.mem)) ∧
    (s.lockstep h = false → i.arrived = false → ∃ t, exec (.itemTimeout h d 0) s = .next t ∧
      (t.harbour h).outstanding i.engine i.queue = false ∧
      t.poisoned (i.dst / 64) = true ∧ t.reg Reg.engPoisoned h = (s.reg Reg.engPoisoned h + 1) % 2 ^ 32 ∧
      t.clocks.cycle = max s.clocks.cycle (i.issued + s.reg Reg.engItemTimeout h * 8 / 5))

/-- A READY stack refreshes and scrubs; ENG_TOKENS, ENG_RESUME, ENG_COMPLETIONS and CACHE_HOLD_DIRECT_MIB as the host uses them (R178, R185, R204, R206, R208, R279). -/
def Obligations.StacksAndHostEngineRegisters : Prop :=
  (∀ (s : State) (h : Nat), s.hasHarbour h = true →
       (∀ bank : Nat, stackReady s h = true → ∃ t, exec (.hbmRefresh h bank) s = .next t ∧
         let full := listGet 0 (s.harbour h).timing 5 * 8 / 5
         tabGet 0 (t.harbour h).refreshAt bank = s.clocks.cycle +
           if (s.reg Reg.hbmHotC h : Int) ≤ signed 8 (s.reg Reg.hbmTempC h) then full / 2 else full) ∧
       (∀ (line : Nat) (c : EccReport), stackReady s h = true → s.reg Reg.hbmScrubH h ≠ 0 → line = (s.harbour h).scrubLine → line < 375000000 →
         ∃ t, exec (.hbmScrub h line c) s = .next t ∧
           (t.harbour h).scrubLine = (if line = 374999999 then 0 else line + 1) ∧
           t.reg Reg.hbmScrubPasses h = (if line = 374999999 then (s.reg Reg.hbmScrubPasses h + 1) % 2 ^ 32 else s.reg Reg.hbmScrubPasses h) ∧
           (c.corrected = true → t.reg Reg.hbmCorrected h = (s.reg Reg.hbmCorrected h + 1) % 2 ^ 64) ∧
           (c.uncorrected = true → t.reg Reg.hbmUncorr h = (s.reg Reg.hbmUncorr h + 1) % 2 ^ 32) ∧
           (c.uncorrected = true ∨ c.odUncorrected = true → if holdHas s h line = true then line ∈ (t.harbour h).badLines
             else t.poisoned (mkAddr 0 h (64 * line) / 64) = true)) ∧
       (∀ (line : Nat) (c : EccReport), line ≠ (s.harbour h).scrubLine → exec (.hbmScrub h line c) s = .next s) ∧
       (∀ (n : Nat) (c : EccReport), stackReady s h = false →
         exec (.hbmRefresh h n) s = .next s ∧ exec (.hbmScrub h n c) s = .next s)) ∧
  (∀ (s : State) (h : Nat), s.hasHarbour h = true → h < 16 →
       (∀ v : List Byte, s.mode.online = true → v.length = 128 → sessionHolds s (Reg.engTokens.key h) = false →
         ∃ t, exec (.engTokens h v) s = .next t ∧ t.outbox.head? = some (.status 0) ∧
           ∀ k < 64, (tabGet 0#16 (t.harbour h).tokens k).toNat = leNat (slice v (2 * k) 2)) ∧
       (∀ e q : Nat, e < 5 → q < 4 → s.mode.online = true → ∃ t, exec (.engResume h e [BitVec.ofNat 8 q]) s = .next t ∧
         t.outbox.head? = some (.status 0) ∧ queueHalted t h e q = false ∧
         ∀ p, p ≠ q → queueHalted t h e p = queueHalted s h e p) ∧
       (∀ v : Nat, s.mode = .held → s.act.phase = 0 → v % 4 = 0 → 4 ≤ v → v ≤ 28 →
         ∃ t, exec (.cacheHoldDirectMib h [BitVec.ofNat 8 v]) s = .next t ∧ t.outbox.head? = some (.status 0) ∧
           t.reg Reg.cacheHoldDirectMib h = v ∧ (t.harbour h).hold = [] ∧ ∀ a < v * 1048576, t.byte (mkAddr 1 h a) = 0#8) ∧
       (∀ (via : Via) (k : Nat), s.mode ≠ .off → s.mode ≠ .boot → openRead s via (Reg.engCompletions.key h) = none →
         let bs := ((s.harbour h).completions.take k).flatMap fun r => leBytes 16 r.toNat
         tabGet [] s.pubDomains (Reg.engCompletions.key h) = bs →
         ∃ t o, exec (.engCompletionsRead via h) s = .next t ∧ t.outbox.head? = some o ∧ (o = .answer via bs ∨ ∃ mac, o = .udp mac via bs) ∧
           (t.harbour h).completions = (s.harbour h).completions.drop k))

/-- A context issues its micro-word in its slot: the eight sequence codes give the next address, the stack, a hold or an end (R244, R245, R246, R247, R249, R250). -/
def Obligations.ContextsIssueTheirWords : Prop :=
  ∀ (s u : State) (i : MicroIssue), s.hasHarbour i.h = true → i.ctx < 10 → i.check = .clean →
    (
      let c := (s.harbour i.h).ctx i.ctx
      c.state = 3 → microSeq (microWord s c i) = 6 →
      (i.cond = false → exec (.seqWait i) s = .next s) ∧
      (i.cond = true → c.addr + 1 < 0x880 → exec (.seqWait i) s = .next (setCtx s i.h i.ctx
        { c with state := if c.commit then 2 else 1, addr := c.addr + 1, events := 0#16 }))) ∧
    (issueSlot s i.h i.ctx = some u →
    (i.ctx < 8 → u.reg Reg.engGroupCycles i.h % 32 = 4 * i.ctx) ∧ (8 ≤ i.ctx → u.clocks.cycle % 8 = 0) ∧
    (let c := (u.harbour i.h).ctx i.ctx
    let w := microWord u c i
    let f := microField w
    c.state = 1 ∨ c.state = 2 → microNano w < 448 → nanoWord u w i = 0#144 → patchBroken u c w = none →
    let commit := c.commit || microCommit w
    let y : Ctx := { c with commit := commit, issued := c.issued + 1, restarts := if commit then 0 else c.restarts, state := if commit then 2 else 1 }
    let goes (r : Instr) (a : Nat) (stack : List Nat) : Prop := exec r s = .next (setCtx u i.h i.ctx { y with addr := a, stack := stack })
    (microSeq w = 0 → c.addr + 1 < 0x880 → goes (.seqNext i) (c.addr + 1) c.stack) ∧
    (microSeq w = 1 → goes (.seqJump i) f c.stack) ∧
    (microSeq w = 2 → f < 128 → goes (.seqJumpP i) (0x800 + f) c.stack) ∧
    (microSeq w = 3 → i.cond = false → c.addr + 1 < 0x880 → goes (.seqBranch i) (c.addr + 1) c.stack) ∧
    (∀ a : Nat, microSeq w = 3 → i.cond = true → (a : Int) = c.addr + signed 7 (f % 128) → a < 0x880 → (a < 0x800 ↔ c.addr < 0x800) →
      goes (.seqBranch i) a c.stack) ∧
    (microSeq w = 4 → c.stack.length < 4 → goes (.seqCall i) f ((c.addr + 1) :: c.stack)) ∧
    (∀ (a : Nat) (rest : List Nat), microSeq w = 5 → c.stack = a :: rest → a < 0x880 → goes (.seqReturn i) a rest) ∧
    (microSeq w = 6 → i.cond = true → c.addr + 1 < 0x880 → goes (.seqWait i) (c.addr + 1) c.stack) ∧
    (microSeq w = 6 → i.cond = false → exec (.seqWait i) s = .next (setCtx u i.h i.ctx { y with state := 3 })) ∧
    (microSeq w = 7 → i.ctx < 8 → ∀ r, (u.harbour i.h).runningAt c.engine c.queue = some r →
      workDone u i.h (withKernel u i.h r) = false → goes (.seqEnd i) c.addr c.stack) ∧
    (microSeq w = 7 → (8 ≤ i.ctx ∧ systemDone u i.ctx = true) ∨ (i.ctx < 8 ∧ (u.harbour i.h).runningAt c.engine c.queue = none) →
      ∃ t, exec (.seqEnd i) s = .next t ∧
      (t.harbour i.h).ctx i.ctx = Ctx.idle ∧ t.reg Reg.seqRoutines i.h = (u.reg Reg.seqRoutines i.h + 1) % 2 ^ 64)))

/-- Machine checks of the bellows; an interrupted routine restarts before its commit point, and is aborted at the eighth restart (R246, R248, R250, R252, R253, R254, R255, R256). -/
def Obligations.BellowsChecksAndRestarts : Prop :=
  (∀ (s u : State) (i : MicroIssue), s.hasHarbour i.h = true → i.ctx < 10 → s.mode ≠ .off → issueSlot s i.h i.ctx = some u →
       let c := (u.harbour i.h).ctx i.ctx
       let w := microWord u c i
       c.state = 1 ∨ c.state = 2 → microNano w < 448 →
       let raised (r : Instr) (cause store : Nat) : Prop := ∃ t x, exec r s = .next t ∧ t.mode = .faulted ∧
         t.faults.log.getLast? = some x ∧ (x.extractLsb' 64 16).toNat = 0xFF50 + cause ∧ (x.extractLsb' 56 8).toNat = 64 + i.h ∧
         x.extractLsb' 80 48 = s.beat.n ∧
         (s.domain Reg.seqMcRecord i.h = [] → ∃ y : BitVec 128, t.domain Reg.seqMcRecord i.h = leBytes 16 y.toNat ∧
           (y.extractLsb' 120 8).toNat = cause ∧ (y.extractLsb' 116 4).toNat = store ∧ (y.extractLsb' 112 4).toNat = i.ctx ∧
           (y.extractLsb' 104 8).toNat = c.opcode % 256 ∧ (y.extractLsb' 92 12).toNat = c.addr % 4096 ∧
           (y.extractLsb' 83 9).toNat = microNano w ∧ y.extractLsb' 0 48 = s.beat.n) ∧
         (s.domain Reg.seqMcRecord i.h ≠ [] → t.domain Reg.seqMcRecord i.h = s.domain Reg.seqMcRecord i.h ∧
           t.reg Reg.seqMcCount i.h = (s.reg Reg.seqMcCount i.h + 1) % 2 ^ 32)
       (microSeq w = 0 → i.check = .microParity → raised (.seqNext i) 1 (if (patchIndex u.patch c.addr).isSome then 2 else 0)) ∧
       (microSeq w = 0 → i.check = .nanoParity → raised (.seqNext i) 1 (if 384 ≤ microNano w then 3 else 1)) ∧
       (microSeq w = 0 → i.check = .dispatchParity → raised (.seqNext i) 1 4) ∧
       (microSeq w = 0 → i.check = .matchParity → raised (.seqNext i) 1 5) ∧
       (∀ k, microSeq w = 0 → i.check = .kLost k → raised (.seqNext i) 2 6) ∧
       (i.check = .clean → patchBroken u c w = none →
         (microSeq w = 0 → nanoWord u w i = BitVec.ofNat 144 (2 ^ 42) → c.commit = false → microCommit w = false →
           raised (.seqNext i) 6 15) ∧
         (nanoWord u w i = 0#144 → microSeq w = 2 → 128 ≤ microField w → raised (.seqJumpP i) 4 15) ∧
         (nanoWord u w i = 0#144 → microSeq w = 4 → 4 ≤ c.stack.length → raised (.seqCall i) 3 15) ∧
         (nanoWord u w i = 0#144 → microSeq w = 5 → c.stack = [] → raised (.seqReturn i) 3 15))) ∧
  (∀ (s : State) (h k : Nat), s.hasHarbour h = true → k < 10 →
       let c := (s.harbour h).ctx k
       (c.state = 0 ∨ c.commit = true → exec (.routineRestart h k) s = .next s) ∧
       (c.state ≠ 0 → c.commit = false → ∃ t, exec (.routineRestart h k) s = .next t ∧
         t.reg Reg.seqRestarts h = (s.reg Reg.seqRestarts h + 1) % 2 ^ 64 ∧
         (c.restarts < 7 → 8 ≤ k ∨ s.lockstep h = false →
           let rom := s.reg Reg.seqRomId
           let word := Config.dispatchEntry rom c.opcode
           let entry := if word.getLsbD (if 8 ≤ k then 11 else maskBit c.engine) then word.toNat % 2048
             else (Config.refusalEntry rom).toNat % 2048
           (t.harbour h).ctx k = { Ctx.idle with state := 1, opcode := c.opcode, addr := entry, engine := c.engine, queue := c.queue,
                                                 restarts := c.restarts + 1, next := s.reg Reg.engGroupCycles h }) ∧
         (c.restarts < 7 → k < 8 → s.lockstep h = true → s.mode.online = true →
           (t.harbour h).ctx k = { c with restarts := c.restarts + 1, awaits := none } ∧ (t.harbour h).stalled = (s.harbour h).stalled ∧
           t.clocks.cycle = s.clocks.cycle + 8 * (c.issued + 1) ∧
           t.reg Reg.engStallCycles h = (s.reg Reg.engStallCycles h + 4 * (c.issued + 1)) % 2 ^ 64) ∧
         (7 ≤ c.restarts → 8 ≤ k → (t.harbour h).ctx k = Ctx.idle) ∧
         (7 ≤ c.restarts → k < 8 → ∀ r, (s.harbour h).runningAt c.engine c.queue = some r → r.listCmd = none →
           (s.harbour h).completions.length < 1024 → (t.harbour h).runningAt c.engine c.queue = none ∧
           ∃ x, (t.harbour h).completions = (s.harbour h).completions ++ [x] ∧ (x.extractLsb' 96 8).toNat = 4 ∧
             (x.extractLsb' 0 32).toNat = 0)))

/-- PWR_DOMAIN_ON ramps or switches off a domain under the conditions of Table 19.2 and is refused otherwise (R394, R395, R396, R397, R398, R401). -/
def Obligations.DomainsSwitchUnderTheirConditions : Prop :=
  ∀ (s : State) (d : Nat), d < 128 → s.mode.online = true →
    let on := exec (.pwrDomainOn d [1#8]) s
    let off := exec (.pwrDomainOn d [0#8]) s
    let refused (code : Nat) : Host.Outcome State Fault Refusal := .next ((s.count Reg.odWritesRefused 0).emit (.status code))
    let now (o : Host.Outcome State Fault Refusal) (v : Nat) (p : State → Prop) : Prop := ∃ t, o = .next t ∧
      t.outbox.head? = some (.status 0) ∧ t.domainState d = v ∧ (∀ x < 128, x ≠ d → t.domainState x = s.domainState x) ∧
      t.clocks.cycle = (if v = 0 then 8 * (s.clocks.cycle / 8 + 1) else s.clocks.cycle) ∧ p t
    let h := domainHarbour d
    let ready := (64 ≤ d → d < 96 → s.mode = .held) ∧ (80 ≤ d → s.domainState (64 + h) = 2)
    let ramps := ∃ x < 128, x ≠ d ∧ s.domainState x = 1
    let lit := ∃ k < 64, s.flag Reg.laneEnable (64 * h + k) = true ∨ (k < 16 ∧ s.flag Reg.xlaneEnable (16 * h + k) = true)
    (s.hasDomain d = false → on = refused 0x06090030) ∧
    (s.hasDomain d = true → s.power.throttled = true → on = refused 0x08000022) ∧
    (s.hasDomain d = true → s.power.throttled = false → s.domainState d = 0 →
      (ramps ∨ ¬ ready → on = refused 0x08000022) ∧
      (¬ ramps → ready → now on 1 fun t => t.reg Reg.pwrDomainOn d = 1)) ∧
    (s.hasDomain d = true → s.power.throttled = false → ¬ ramps → s.domainState d ≠ 0 → on = .next (s.emit (.status 0))) ∧
    (s.domainState d = 0 → off = .next (s.emit (.status 0))) ∧
    (s.domainState d = 1 ∨ s.domainState d = 2 →
      (d < 64 → activationUses s d = false → bistOn s d = false →
        (∀ x ∈ planesOn s d, s.planeState x.1 x.2 = 0 ∨ s.planeState x.1 x.2 = 6) → now off 0 fun t => t.reg Reg.pwrDomainOn d = 0 ∧
          (∀ x ∈ planesOn s d, t.planeState x.1 x.2 = 0) ∧ ∀ r < 16, ∀ c < 17, t.tileAt (physKey d r c) = Tile.empty) ∧
      (d < 64 → (∃ x ∈ planesOn s d, 1 ≤ s.planeState x.1 x.2 ∧ s.planeState x.1 x.2 ≤ 5) → off = refused 0x08000022) ∧
      (64 ≤ d → d < 80 → s.domainState (80 + h) ≠ 0 ∨ s.domainState (96 + h) ≠ 0 ∨ s.domainState (112 + h) ≠ 0 ∨ s.mode ≠ .held →
        off = refused 0x08000022) ∧
      (64 ≤ d → d < 80 → s.mode = .held → s.domainState (80 + h) = 0 → s.domainState (96 + h) = 0 → s.domainState (112 + h) = 0 →
        activationUses s d = false → loadUses s d = false → now off 0 fun t => t.reg Reg.pwrDomainOn d = 0) ∧
      (80 ≤ d → d < 96 → s.mode = .held → activationUses s d = false → loadUses s d = false → (∀ y, ∀ l ∈ (s.harbour y).dqs, l.2 = []) →
        now off 0 fun t => t.reg Reg.hbmState h = 0 ∧ ∀ a < 2 ^ 40, t.byte (mkAddr 0 h a) = 0#8) ∧
      (96 ≤ d → lit → off = refused 0x08000022) ∧
      (96 ≤ d → ¬ lit → activationUses s d = false → loadUses s d = false → now off 0 fun t => t.reg Reg.pwrDomainOn d = 0))

/-- A ramp ends in ON; a failed rail makes its domain FAILED; a publication copies ro values and judges rails, temperatures and power (R270, R381, R394, R397, R399, R400, R401, R402, R403, R405, R407). -/
def Obligations.RampsRailsAndPublications : Prop :=
  (∀ (s : State) (d : Nat), s.hasDomain d = true →
       let e := exec (.domainFailed d) s
       let ms := if d < 64 then 2 else if d < 80 then 5 else if d < 96 then 20 else if d < 112 then 10 else 2
       let at' := s.power.rampFrom + 1600000 * ms
       (∀ ok : Bool, s.domainState d = 1 → ∃ t, exec (.rampComplete d ok) s = .next t ∧ t.domainState d = 2 ∧ t.clocks.cycle = max s.clocks.cycle at' ∧
         (80 ≤ d → d < 96 → t.reg Reg.hbmState (domainHarbour d) = if ok then 1 else 2) ∧
         (d < 80 ∨ 96 ≤ d → t = (s.runTo at').setDomainState d 2)) ∧
       (∀ ok : Bool, s.domainState d ≠ 1 → exec (.rampComplete d ok) s = .next s) ∧
       (s.mode = .off ∨ s.domainState d = 3 → e = .next s) ∧
       (s.mode ≠ .off → s.domainState d ≠ 3 → ∃ t, e = .next t ∧ t.domainState d = 3 ∧
         (d < 80 → ∃ x, t.faults.log.getLast? = some x ∧ (x.extractLsb' 64 16).toNat = 0xFF70 ∧ (x.extractLsb' 56 8).toNat = d ∧
           (x.extractLsb' 0 32).toNat = d ∧ x.extractLsb' 80 48 = s.beat.n) ∧
         (d < 64 → t.mode = s.mode) ∧
         (80 ≤ d → d < 96 → t.reg Reg.hbmState (domainHarbour d) = 2) ∧
         (∀ i, 64 ≤ d → d < 80 → s.images.active = some i → domainHarbour d ∈ harboursUsed i → t.mode = .faulted))) ∧
  (∀ (s : State),
       let dark (t : State) : Prop := t.mode = .faulted ∧ ∀ d < 128, t.domainState d =
         if s.domainState d = 1 ∨ s.domainState d = 2 then 0 else s.domainState d
       (∀ x : Sensors, s.mode ≠ .off → s.mode ≠ .boot → 40000 ≤ x.auxMv → ∃ t, exec (.publication x) s = .next t ∧
         t.clocks.nextPub = s.clocks.nextPub + 1600 ∧ t.clocks.cycle = max s.clocks.cycle s.clocks.nextPub ∧
         t.reg Reg.pwrTotalW = x.totalW ∧ t.reg Reg.pwrMainMv = x.mainMv ∧ t.reg Reg.pwrAuxMv = x.auxMv ∧
         (t.mode ≠ .running → t.pub = t.regs) ∧
         (t.power.throttled = true ↔ s.reg Reg.pwrLimitW < x.totalW ∨ (s.power.throttled = true ∧ 95 * s.reg Reg.pwrLimitW < 100 * x.totalW)) ∧
         (x.mainMv < 330000 ∨ 420000 < x.mainMv ∨ (∃ y ∈ x.islandC, y.1 < 80 ∧ 110 ≤ y.2) ∨ (∃ y ∈ x.stackC, y.1 < 16 ∧ 105 ≤ y.2) →
           t.mode = .faulted) ∧
         (330000 ≤ x.mainMv → x.mainMv ≤ 420000 → (∀ y ∈ x.islandC, y.2 < 110) → (∀ y ∈ x.stackC, y.2 < 105) → t.mode = s.mode)) ∧
       (∀ x : Sensors, s.mode ≠ .off → s.mode ≠ .boot → x.auxMv < 40000 → ∃ t, exec (.publication x) s = .next t ∧ t.mode = .off ∧
         t.carrier = s.carrier ∧ t.flash = s.flash ∧ t.mem = []) ∧
       (∀ x : Sensors, s.mode = .off ∨ s.mode = .boot → exec (.publication x) s = .next s) ∧
       (s.mode ≠ .off → s.power.mainOut = true → ∃ t, exec .mainRailTimeout s = .next t ∧ dark t ∧
         t.clocks.cycle = max s.clocks.cycle (s.power.mainOutSince + 1600000000)) ∧
       (s.power.mainOut = false → exec .mainRailTimeout s = .next s) ∧
       (s.mode ≠ .off → s.power.mainOn = true → ∃ t, exec .mainPowerRemoval s = .next t ∧ dark t ∧ t.power.mainOn = false) ∧
       (s.power.mainOn = false → exec .mainPowerRemoval s = .next s))

/-- Snapshots and pending parts end after 1 ms, DOMAIN sessions on idle, and a silent transport session after 60 s (R272, R275, R278, R279, R307). -/
def Obligations.HeldAccessesExpire : Prop :=
  ∀ (s : State) (via : Via) (key : Nat),
    (∀ x, s.links.snapshots.find? (fun y => y.via = via ∧ y.key = key ∧ !y.isDomain ∧ !y.dead) = some x →
      ∃ t, exec (.snapshotExpiry via key) s = .next t ∧ t.clocks.cycle = max s.clocks.cycle (x.opened + 1600000) ∧ t.mem = s.mem ∧
        ∀ y ∈ t.links.snapshots, y.via = via → y.key = key → y.isDomain = false → y.dead = true) ∧
    ((∀ y ∈ s.links.snapshots, y.via = via → y.key = key → y.isDomain = false → y.dead = true) →
      exec (.snapshotExpiry via key) s = .next s) ∧
    (∀ x, pendingOf s key = some x → x.dead = false → ∃ t, exec (.uartPartExpiry key) s = .next t ∧ t.mem = s.mem ∧
      t.clocks.cycle = max s.clocks.cycle (x.opened + 1600000) ∧ ∀ y, pendingOf t key = some y → y.dead = true) ∧
    (pendingOf s key = none → exec (.uartPartExpiry key) s = .next s) ∧
    (∀ x, s.links.writes.find? (fun y => y.key = key) = some x → ∃ t, exec (.domainSessionIdle key) s = .next t ∧
      t.clocks.cycle = max s.clocks.cycle (x.touched + s.reg Reg.odDomainIdle * 1600000) ∧ t.domains = s.domains ∧ t.mem = s.mem ∧
      ∀ y ∈ t.links.writes, y.id ≠ x.id) ∧
    ((∀ y ∈ s.links.writes, y.key ≠ key) → exec (.domainSessionIdle key) s = .next s) ∧
    (∀ x, s.links.snapshots.find? (fun y => y.via = via ∧ y.key = key ∧ y.isDomain) = some x →
      ∃ t, exec (.domainReadIdle via key) s = .next t ∧ t.mem = s.mem ∧
        t.clocks.cycle = max s.clocks.cycle (x.touched + s.reg Reg.odDomainIdle * 1600000) ∧
        ∀ y ∈ t.links.snapshots, y.via = via → y.key ≠ key) ∧
    (∀ x, s.links.sessions.find? (fun y => y.via = via) = some x → ∃ t, exec (.sessionTimeout via) s = .next t ∧ t.mem = s.mem ∧
      t.clocks.cycle = max s.clocks.cycle (x.lastSeen + 60000 * 1600000) ∧ (∀ y ∈ t.links.sessions, y.via ≠ via) ∧
      (∀ y ∈ t.links.snapshots, y.via ≠ via) ∧ (∀ y ∈ t.links.pendingWrites, y.via ≠ via) ∧ (∀ y ∈ t.links.writes, y.via ≠ via) ∧
      ∀ y, y.via ≠ via → (y ∈ t.links.sessions ↔ y ∈ s.links.sessions)) ∧
    ((∀ y ∈ s.links.sessions, y.via ≠ via) → exec (.sessionTimeout via) s = .next s)

/-- REGISTER_WRITE returns the code of the first check that fails, and a refused write only counts (R261, R262, R263, R264, R265, R266, R277). -/
def Obligations.WritesAreCheckedInOrder : Prop :=
  ∀ (s : State) (index sub : Nat) (v : List Byte),
    let out := exec (.registerWrite index sub v) s
    (s.mode = .off → out = .next s) ∧
    (s.mode ≠ .off →
      (indexDefined index = false ∨ unitPresent s index = false → out = writeRefused s 0x06020000) ∧
      (indexDefined index = true → unitPresent s index = true → findRow index sub = none →
        out = writeRefused s (if sub = 0 then 0x06010002 else 0x06090011)) ∧
      (∀ r, indexDefined index = true → unitPresent s index = true → findRow index sub = some r →
        let fixed := r.access = .const ∨ r.access = .ro ∨ r.access = .live
        let open' := if r.access = .rwHeld then s.mode = .held ∧ s.act.phase = 0
          else s.mode.online = true ∨ (s.mode = .faulted ∧ (r.reg = Reg.idCommand ∨ r.reg = Reg.fltLogClear))
        (fixed → out = writeRefused s 0x06010002) ∧
        (¬ fixed → ¬ open' → out = writeRefused s 0x08000022) ∧
        (¬ fixed → open' → r.isDomain = false →
          (v.length ≠ r.type.bytes → out = writeRefused s 0x06070010) ∧
          (v.length = r.type.bytes → r.check.ok r (leNat v) = false → out = writeRefused s 0x06090030)) ∧
        (¬ fixed → open' → r.isDomain = true →
          (domainLengthOk r v.length = false → out = writeRefused s 0x06070010) ∧
          (domainLengthOk r v.length = true → openRefusal s r.reg = 0 → sessionHolds s (index * 256 + sub) = true →
            out = writeRefused s 0x08000020)))) ∧
    (s.mode = .held → s.act.phase = 0 → v.length = 4 → 2000 ≤ leNat v → leNat v ≤ 20000 →
      exec (.registerWrite Reg.pwrLimitW.base Reg.pwrLimitW.sub v) s = .next ((s.setReg Reg.pwrLimitW 0 (leNat v)).emit (.status 0)))

/-- READ answers its items from one state in order, and WRITE makes its items in order, each in its own CONTROL cycle (R264, R269, R273, R304, R305). -/
def Obligations.DatagramsReadAndWrite : Prop :=
  ∀ (s u : State) (d : Datagram),
    (∀ items : List (Nat × Nat), reaches s 0x01 d u → 1 ≤ items.length → items.length ≤ 64 →
      (∀ x ∈ items, x.1 < 65536 ∧ x.2 < 256 ∧ x.1 ≠ 0x2200 ∧ completionsAt x.1 x.2 = none) →
      d.payload = (items.flatMap fun x => leBytes 2 x.1 ++ leBytes 1 x.2 ++ [0#8]) →
      let part (x : Nat × Nat) : List Byte :=
        let a := readItem u (sourceOf d) x.1 x.2
        leBytes 2 x.1 ++ leBytes 1 x.2 ++ [0#8] ++ leBytes 4 a.1 ++ leBytes 2 a.2.length ++ leBytes 2 0 ++ pad4 a.2
      (items.flatMap part).length ≤ 1412 →
      exec (.read d) s = .next (sendReply u d (datagram 0x81 d.reqId 0 (items.flatMap part)))) ∧
    (∀ items : List (Nat × Nat × List Byte), reaches s 0x02 d u → 1 ≤ items.length → items.length ≤ 64 →
      (∀ x ∈ items, x.1 < 65536 ∧ x.2.1 < 256 ∧ x.2.2.length < 65536) →
      d.payload = (items.flatMap fun x => leBytes 2 x.1 ++ leBytes 1 x.2.1 ++ [0#8] ++ leBytes 2 x.2.2.length ++ leBytes 2 0 ++ pad4 x.2.2) →
      let one (y : List Byte × State) (x : Nat × Nat × List Byte) : List Byte × State :=
        let a := if y.1 = [] then y.2 else y.2.advance 8
        let w := valueWrite (standingInputs a) x.1 x.2.1 x.2.2 a
        (y.1 ++ (leBytes 2 x.1 ++ leBytes 1 x.2.1 ++ [0#8] ++ leBytes 4 w.1), w.2)
      let r := items.foldl one ([], u)
      exec (.write d) s = .next { sendReply (r.2.accessed (sourceOf d)) d (datagram 0x82 d.reqId 0 r.1) with pending := s.pending })

/-- DOMAIN_OPEN, CHUNK, COMMIT and CANCEL build a content in a session; DOMAIN_READ delivers one from its read session (R277, R278, R279, R304, R305). -/
def Obligations.DatagramsMoveDomains : Prop :=
  ∀ (s u : State) (d : Datagram),
    let via := sourceOf d
    let p := d.payload
    let id := leAt p 0 2
    let key := leAt p 0 2 * 256 + leAt p 2 1
    let size := leAt p 4 4
    let code (op c : Nat) (r : Instr) : Prop := ∃ t, exec r s = .next t ∧ replied t op d (leBytes 4 c)
    (∀ r, reaches s 0x03 d u → p.length = 12 → findObject u (leAt p 0 2) (leAt p 2 1) = .object r → r.isDomain = true →
      (openCheck u r key size = 0 → ∃ t, exec (.domainOpen d) s = .next t ∧
        replied t 0x03 d (leBytes 4 0 ++ leBytes 2 u.links.nextSession ++ leBytes 2 0) ∧
        ∃ x ∈ t.links.writes, x.id = u.links.nextSession ∧ x.via = via ∧ x.key = key ∧ x.size = size ∧ x.crc = some (leAt p 8 4) ∧
          x.chunks = [] ∧ ∀ y ∈ t.links.writes, y.key = key → y = x) ∧
      (openCheck u r key size ≠ 0 → ∃ t, exec (.domainOpen d) s = .next t ∧ t.links.writes = u.links.writes ∧
        replied t 0x03 d (leBytes 4 (openCheck u r key size) ++ leBytes 4 0) ∧
        t.reg Reg.odWritesRefused = (u.reg Reg.odWritesRefused + 1) % 2 ^ 32)) ∧
    (∀ x, reaches s 0x04 d u → sessionOf u via id = some x → 1 ≤ leAt p 8 2 → leAt p 8 2 ≤ 1400 →
      p.length = 12 + (leAt p 8 2 + 3) / 4 * 4 → size + leAt p 8 2 ≤ x.size → ∃ t, exec (.domainChunk d) s = .next t ∧
        replied t 0x04 d (leBytes 4 0) ∧ t.domains = s.domains ∧
        ∃ y ∈ t.links.writes, y.id = id ∧ y.chunks = x.chunks ++ [(size, slice p 12 (leAt p 8 2))]) ∧
    (∀ x r, reaches s 0x05 d u → p.length = 4 → sessionOf u via id = some x → findRow (x.key / 256) (x.key % 256) = some r →
      let whole := coveredFrom x.chunks x.chunks.length 0 = x.size
      let bad (c : Nat) : Prop := ∃ t, exec (.domainCommit d) s = .next t ∧ replied t 0x05 d (leBytes 4 c) ∧ t.domains = s.domains ∧
        ∀ y ∈ t.links.writes, y.id ≠ id
      (coveredFrom x.chunks x.chunks.length 0 < x.size → bad 0x0A000003) ∧
      (whole → x.crc ≠ some (crc32c (assemble x)) → bad 0x05040004) ∧
      (∀ w, whole → x.crc = some (crc32c (assemble x)) → writeState u r = 0 →
        domainTaken (endWrite u id) r.reg (r.unit (x.key / 256)) (assemble x) = (0, w) →
        exec (.domainCommit d) s = .next { sendReply (endReadsOf w (x.key / 256 * 256 + x.key % 256)) d
          (datagram 0x85 d.reqId 0 (leBytes 4 0)) with pending := s.pending })) ∧
    (∀ x, reaches s 0x06 d u → p.length = 4 → sessionOf u via id = some x → ∃ t, exec (.domainCancel d) s = .next t ∧
      replied t 0x06 d (leBytes 4 0) ∧ t.domains = s.domains ∧ ∀ y ∈ t.links.writes, y.id ≠ id) ∧
    (sessionOf u via id = none →
      (reaches s 0x04 d u → 1 ≤ leAt p 8 2 → leAt p 8 2 ≤ 1400 → p.length = 12 + (leAt p 8 2 + 3) / 4 * 4 → code 0x04 0x0A000002 (.domainChunk d)) ∧
      (reaches s 0x05 d u → p.length = 4 → code 0x05 0x0A000002 (.domainCommit d)) ∧
      (reaches s 0x06 d u → p.length = 4 → code 0x06 0x0A000002 (.domainCancel d))) ∧
    (reaches s 0x07 d u → p.length = 12 → 1 ≤ leAt p 8 2 → leAt p 8 2 ≤ 1384 → domainReadCheck u via (leAt p 0 2) (leAt p 2 1) = 0 →
      let n := leAt p 8 2
      let part (bs : List Byte) : List Byte := slice bs size (min n (bs.length - size))
      let tells (t : State) (bs : List Byte) : Prop := replied t 0x07 d
        (leBytes 4 0 ++ leBytes 4 bs.length ++ leBytes 4 size ++ leBytes 2 (part bs).length ++ leBytes 2 0 ++ pad4 (part bs))
      (size = 0 → ∃ t, exec (.domainRead d) s = .next t ∧ tells t (readOne u via (leAt p 0 2) (leAt p 2 1)).2 ∧
        (n < (readOne u via (leAt p 0 2) (leAt p 2 1)).2.length → ∃ y, snapshotOf t via key = some y ∧ y.isDomain = true ∧
          y.bytes = (readOne u via (leAt p 0 2) (leAt p 2 1)).2)) ∧
      (∀ y, size ≠ 0 → openRead u via key = some y → size < y.bytes.length → ∃ t, exec (.domainRead d) s = .next t ∧ tells t y.bytes) ∧
      (size ≠ 0 → openRead u via key = none → ∃ t, exec (.domainRead d) s = .next t ∧
        replied t 0x07 d (leBytes 4 0x0A000002 ++ leBytes 4 0 ++ leBytes 4 size ++ leBytes 2 0 ++ leBytes 2 0)))

/-- A datagram with a wrong magic, version or length is dropped and counted; one whose CRC fails is answered 0x05040004 and counted (R306). -/
def Obligations.BadDatagramsAreDroppedOrAnswered : Prop :=
  ∀ (s : State) (d : Datagram) (op : Nat) (c : Instr),
    (op, c) ∈ [(0x01, Instr.read d), (0x02, .write d), (0x03, .domainOpen d), (0x04, .domainChunk d), (0x05, .domainCommit d),
      (0x06, .domainCancel d), (0x07, .domainRead d), (0x08, .subscribe d), (0x09, .close d)] →
    s.mode ≠ .off → d.port < 2 → s.flag Reg.ethEnable d.port = true →
    let right := d.magic = 0xC47E ∧ d.version = 1 ∧ d.length % 4 = 0 ∧ d.length ≤ 1412 ∧ d.length = d.payload.length
    (d.frame ≠ .whole ∨ ¬ right → exec c s = .next (s.count Reg.ethRxDropped d.port)) ∧
    (d.frame = .whole → right → d.crc ≠ crc32c (datagramBytes op d) → exec c s = .next ((s.count Reg.ethCrcErrors d.port).emit
      (.udp d.mac (sourceOf d) (datagram (op + 0x80) d.reqId 0x05040004 []))))

/-- A repeated request is answered as before, SUBSCRIBE and CLOSE act on their session, and ports answer ARP, ICMP echo and solicitations (R276, R302, R303, R304, R307, R308). -/
def Obligations.SessionsAndPortsAnswer : Prop :=
  (∀ (s u : State) (d : Datagram),
       let via := sourceOf d
       (∀ (op : Nat) (c : Instr), (op, c) ∈ [(0x01, Instr.read d), (0x02, .write d), (0x03, .domainOpen d), (0x04, .domainChunk d),
         (0x05, .domainCommit d), (0x06, .domainCancel d), (0x07, .domainRead d), (0x08, .subscribe d), (0x09, .close d)] →
         s.mode ≠ .off → s.mode ≠ .boot → d.port < 2 → s.flag Reg.ethEnable d.port = true → d.frame = .whole → frameOk d = true →
         d.crc = crc32c (datagramBytes op d) →
         (∀ bytes, admitSession s d = some u → keptReply u d = some bytes → exec c s = .next (u.emit (.udp d.mac via bytes))) ∧
         (admitSession s d = none → exec c s = .next (s.emit (.udp d.mac via (datagram (op + 0x80) d.reqId 0x08000022 []))))) ∧
       (reaches s 0x08 d u → d.payload.length = 4 → ∃ t, exec (.subscribe d) s = .next t ∧ replied t 0x08 d (leBytes 4 0) ∧
         t.domains = s.domains ∧ t.regs = u.regs ∧ ∀ x ∈ t.links.sessions, x.via = via → x.mask = leAt d.payload 0 4 ∧ x.mac = d.mac ∧
           ∃ y ∈ u.links.sessions, y.via = via ∧ x.replies = (d.reqId, datagram 0x88 d.reqId 0 (leBytes 4 0)) :: y.replies.take 7) ∧
       (reaches s 0x09 d u → d.payload = [] → ∃ t, exec (.close d) s = .next t ∧ replied t 0x09 d (leBytes 4 0) ∧
         (∀ x ∈ t.links.sessions, x.via ≠ via) ∧ (∀ x ∈ t.links.snapshots, x.via ≠ via) ∧
         (∀ x ∈ t.links.pendingWrites, x.via ≠ via) ∧ ∀ x ∈ t.links.writes, x.via ≠ via)) ∧
  (∀ (s : State) (f : EthFrame) (port mac target : Nat), port < 2 →
       let live := s.mode ≠ .off ∧ s.flag Reg.ethEnable port = true
       let up := live ∧ s.mode ≠ .boot
       let own := s.reg Reg.ethMac port
       let local' := 0xFE80 * 2 ^ 112 + (own / 2 ^ 24 ^^^ 0x20000) * 2 ^ 40 + 0xFFFE * 2 ^ 24 + own % 2 ^ 24
       let v4 := target ≠ 0 ∧ target = s.reg Reg.ethIpv4 port
       let v6 := target = local' ∨ (target ≠ 0 ∧ target = beNat (s.domain Reg.ethIpv6 port))
       let answers (c : Instr) (own' : Prop) (bs : List Byte) : Prop :=
         (f = .whole → up → own' → exec c s = .next (s.emit (.eth port mac bs))) ∧
         (f = .whole → ¬ up ∨ ¬ own' → exec c s = .next s) ∧
         (f ≠ .whole → live → exec c s = .next (s.count Reg.ethRxDropped port)) ∧ (f ≠ .whole → ¬ live → exec c s = .next s)
       answers (.arpRequest f port mac target) v4 (beBytes 2 0x0806 ++ beBytes 2 2 ++ beBytes 6 own ++ beBytes 4 target) ∧
       (∀ body : List Byte,
         answers (.icmpEcho f port mac false target body) v4 (beBytes 2 0x0800 ++ leBytes 1 0 ++ body) ∧
         answers (.icmpEcho f port mac true target body) v6 (beBytes 2 0x86DD ++ leBytes 1 129 ++ body)) ∧
       (∀ dad : Bool, answers (.neighbourSolicitation f port mac target dad) v6
         (beBytes 2 0x86DD ++ leBytes 1 136 ++ leBytes 1 (if dad then 0x20 else 0x60) ++ beBytes 16 target ++ beBytes 6 own)) ∧
       (∀ b : Bool, s.mode ≠ .off → ∃ t, exec (.ethLinkChange port b) s = .next t ∧
         t = s.setReg Reg.ethLink port (if b = true ∧ s.flag Reg.ethEnable port = true then 1 else 0)))

/-- USDO uploads a value or segments, downloads a value or a DOMAIN with its CRC, and ends a transfer on an abort (R265, R266, R272, R277, R278, R279, R291, R295, R296). -/
def Obligations.UsdoServesTransfers : Prop :=
  ∀ (s : State) (f : CanFrame) (node index sub size : Nat) (data : List Byte),
    let live := s.mode ≠ .off ∧ s.reg Reg.canState ≠ 2 ∧ f ≠ .classical
    let via : Via := .can node
    let key := index * 256 + sub
    let u := s.accessed via
    let up := exec (.usdoUpload f node index sub false) s
    let more := exec (.usdoUpload f node index sub true) s
    let down := exec (.usdoDownload f node index sub size data) s
    let abort := exec (.usdoAbort f node index sub) s
    let says' (t : State) (c : Nat) (bs : List Byte) : Prop := t.outbox = .answer via (leBytes 4 c ++ bs) :: s.outbox
    (live → let r := readItem u via index sub
      ∃ t, up = .next t ∧ (r.1 ≠ 0 → says' t r.1 []) ∧
        (r.1 = 0 → r.2.length ≤ 56 → says' t 0 r.2 ∧ snapshotOf t via key = none) ∧
        (r.1 = 0 → 56 < r.2.length → says' t 0 (r.2.take 56) ∧ ∃ x, snapshotOf t via key = some x ∧ x.bytes = r.2 ∧ x.parts = [0])) ∧
    (live → let kept := if namesDomain u index sub = true then openRead u via key
        else (snapshotOf u via key).filter fun x => x.live u.clocks.cycle
      (∀ x, kept = some x → let off := 56 * x.parts.length
        ∃ t, more = .next t ∧ says' t 0 (slice x.bytes off (min 56 (x.bytes.length - off))) ∧
          (snapshotOf t via key = none ↔ x.bytes.length ≤ off + 56)) ∧
      (kept = none → ∃ t, more = .next t ∧ says' t (if namesDomain u index sub = true then 0x0A000002 else 0x0A000001) [])) ∧
    (live → transferOf s node = none → namesDomain s index sub = false →
      let r := objectWrite (standingInputs u) index sub data u
      down = .next { r.2.emit (.answer via (leBytes 4 r.1 ++ [])) with pending := s.pending }) ∧
    (∀ p : Nat, p < 2 → live → transferOf s node = none → s.mode = .held → s.act.phase = 0 → s.reg Reg.odDomainIdle ≠ 0 →
      index = Reg.ethIpv6.base + p → sub = Reg.ethIpv6.sub → size = 20 → data.length = 20 → sessionHolds s key = false →
      (∀ y ∈ s.links.writes, y.id ≠ s.links.nextSession) →
      ∃ t, down = .next t ∧ transferOf t node = none ∧
        (leAt data 16 4 = crc32c (data.take 16) → says' t 0 [] ∧ t.domain Reg.ethIpv6 p = data.take 16) ∧
        (leAt data 16 4 ≠ crc32c (data.take 16) → says' t 0x05040004 [] ∧ t.domains = s.domains)) ∧
    (∀ (x : UsdoTransfer) (w : WriteSession), live → transferOf s node = some x → x.key = key →
      sessionOf u via x.session = some w → w.size + 4 = x.size → x.data.length + data.length < x.size →
      ∃ t y, down = .next t ∧ transferOf t node = some y ∧ y.data = x.data ++ data ∧ t.outbox = s.outbox ∧ t.domains = s.domains) ∧
    (live → ∃ t, abort = .next t ∧ t.domains = s.domains ∧ snapshotOf t via key = none ∧
      ∀ x, transferOf s node = some x → x.key = key → transferOf t node = none ∧ sessionOf t via x.session = none) ∧
    (¬ live → up = .next s ∧ more = .next s ∧ down = .next s ∧ abort = .next s)

/-- NMT start, stop, pre-operational and reset act as START, STOP, HOLD and RESET; reset communication restarts the controller (R292, R293, R294, R335). -/
def Obligations.NmtCommandsActAsIdCommands : Prop :=
  ∀ (s : State) (node : Nat),
    let hears := s.mode ≠ .off ∧ s.mode ≠ .boot ∧ s.reg Reg.canState ≠ 2 ∧ (node = 0 ∨ node = s.links.node)
    let next := some (s.beat.n + 1#48)
    let ignored : Host.Outcome State Fault Refusal := .next (s.count Reg.canNmtIgnored 0)
    let run (r : Run) : Host.Outcome State Fault Refusal := .next { s with run := r }
    let begin' := exec (.nmtStartRemoteNode node) s
    let stop' := exec (.nmtStopRemoteNode node) s
    let pre := exec (.nmtEnterPreOperational node) s
    (hears →
      (s.mode = .armed ∨ s.mode = .stopped → begin' = run { s.run with startAt := next }) ∧
      (s.mode ≠ .armed → s.mode ≠ .stopped → begin' = ignored) ∧
      (s.mode = .running → stop' = run { s.run with stopCmd := next }) ∧
      (s.mode ≠ .running → stop' = ignored) ∧
      (s.mode = .armed → pre = run { s.run with holdAt := next }) ∧
      (s.mode = .running → pre = run { s.run with stopCmd := next, holdAt := next }) ∧
      (s.mode = .stopped → pre = run { s.run with drain := 1 }) ∧
      (s.mode = .faulted ∨ (s.mode = .held ∧ s.act.phase = 0) → pre = ignored) ∧
      (exec (.nmtResetNode node) s = .next { resets s (standingInputs s) with pending := s.pending }) ∧
      (∃ t, exec (.nmtResetCommunication node) s = .next t ∧ t.links.node = s.reg Reg.canNodeId ∧ t.links.rate = s.reg Reg.canDataRate ∧
        t.links.transfers = [] ∧ t.regs = s.regs ∧ t.mem = s.mem ∧ (∀ x ∈ t.links.snapshots, viaPlace x.via ≠ 0) ∧
        t.outbox.head? = some (.can (.fd true) (s.reg Reg.canDataRate) (0x700 + s.reg Reg.canNodeId) [0#8]))) ∧
    (¬ hears → begin' = .next s ∧ stop' = .next s ∧ pre = .next s ∧ exec (.nmtResetNode node) s = .next s ∧
      exec (.nmtResetCommunication node) s = .next s)

/-- The heartbeat byte shows the state, the oldest EMCY leaves 100 microseconds after the last, and bus states send their EMCYs (R291, R294, R300, R383). -/
def Obligations.HeartbeatsAndEmcysLeave : Prop :=
  ∀ (s : State),
    let frame (id : Nat) (bs : List Byte) : Out := .can (.fd true) s.links.rate id bs
    let rang (t : State) (code : Nat) : Prop := (s.links.emcys.length < 32 → ∃ e, t.links.emcys = s.links.emcys ++ [e] ∧ e.code = code ∧
      e.unit = 0xFF ∧ e.beat = s.beat.n.toNat) ∧ bit (t.reg Reg.errorRegister) 4 = true ∧ bit (t.reg Reg.errorRegister) 0 = true
    (∀ b, s.mode.heartbeat = some b → s.reg Reg.heartbeatTime ≠ 0 → s.links.beatOwed = false → ∃ t, exec .heartbeat s = .next t ∧
      t.clocks.cycle = max s.clocks.cycle s.links.heartbeatAt ∧
      t.links.heartbeatAt = t.clocks.cycle + s.reg Reg.heartbeatTime * 1600000 ∧
      (s.mode = .running → b = 0x05) ∧ (s.mode = .faulted → b = 0x04) ∧ (s.mode = .held ∨ s.mode = .armed ∨ s.mode = .stopped → b = 0x7F) ∧
      (s.reg Reg.canState ≠ 2 → t.outbox.head? = some (frame (0x700 + s.links.node) [BitVec.ofNat 8 b]))) ∧
    (s.mode = .off ∨ s.mode = .boot ∨ s.reg Reg.heartbeatTime = 0 → exec .heartbeat s = .next s) ∧
    (∀ e rest, s.links.emcys = e :: rest → s.mode ≠ .off → s.reg Reg.canState ≠ 2 → ∃ t, exec .emcyTransmit s = .next t ∧
      t.links.emcys = rest ∧ t.links.lastEmcy = t.clocks.cycle ∧
      t.clocks.cycle = (if s.links.lastEmcy = 0 then s.clocks.cycle else max s.clocks.cycle (s.links.lastEmcy + 160000)) ∧
      frame (s.reg Reg.cobEmcy % 2048) (leBytes 2 e.code ++ leBytes 1 e.register ++ leBytes 1 e.unit ++ leBytes 4 e.beat) ∈ t.outbox ∧
      (s.links.beatOwed = true → rest = [] → s.mode = .faulted → s.reg Reg.heartbeatTime ≠ 0 → t.links.beatOwed = false ∧
        t.outbox.head? = some (frame (0x700 + s.links.node) [4#8]))) ∧
    (s.links.emcys = [] ∨ s.mode = .off ∨ s.reg Reg.canState = 2 → exec .emcyTransmit s = .next s) ∧
    (s.mode ≠ .off →
      exec .busOff s = .next (s.setReg Reg.canState 0 2) ∧
      (s.reg Reg.canState = 2 → ∃ t, exec .busOffRecovery s = .next t ∧ t.reg Reg.canState = 0 ∧
        t.reg Reg.canBusoff = (s.reg Reg.canBusoff + 1) % 2 ^ 32 ∧ rang t 0x8140) ∧
      (s.reg Reg.canState ≠ 2 → exec .busOffRecovery s = .next s) ∧
      (s.reg Reg.canState = 0 → ∃ t, exec (.canErrorPassive true) s = .next t ∧ t.reg Reg.canState = 1 ∧ rang t 0x8120) ∧
      (s.reg Reg.canState = 1 → exec (.canErrorPassive false) s = .next (s.setReg Reg.canState 0 0)) ∧
      (∀ p : Bool, s.reg Reg.canState = 2 → exec (.canErrorPassive p) s = .next s))

/-- In RUNNING, SYNC and timers form transmit PDOs, and receive PDOs are applied or wait for SYNC; a short one is an EMCY (R294, R297, R298, R299, R301). -/
def Obligations.PdosActInRunning : Prop :=
  ∀ (s : State) (f : CanFrame) (k : Nat) (data : List Byte), k < 8 →
    let live := s.mode = .running ∧ s.reg Reg.canState ≠ 2
    let takes := exec (.receivePdo f k data) s
    let hears := live ∧ f ≠ .classical ∧ rpdoOn s k = true
    let short := data.length < mappedLength (mapping s false k)
    (live → s.links.rpdoWaiting = [] → ∃ t, exec .sync s = .next t ∧ t.links.syncCount = s.links.syncCount + 1 ∧
      ∀ j < 16, tpdoOn s j = true → 1 ≤ s.reg Reg.tpdoType j → s.reg Reg.tpdoType j ≤ 240 →
        let n := tabGet 0 s.links.tpdoSyncs j + 1
        (n < s.reg Reg.tpdoType j → tabGet 0 t.links.tpdoSyncs j = n) ∧
        (s.reg Reg.tpdoType j ≤ n → tabGet 0 t.links.tpdoSyncs j = 0 ∧ tabGet 0 t.links.tpdoLast j = s.clocks.cycle ∧
          Out.can (.fd true) s.links.rate (s.reg Reg.tpdoCob j % 2048) ((mapping s true j).flatMap (mappedBytes s)) ∈ t.outbox)) ∧
    (live → (∀ j < 16, tpdoOn s j = false) → s.links.rpdoWaiting = [(k, data)] →
      let u := s.modLinks fun l => { l with rpdoWaiting := [], syncCount := l.syncCount + 1 }
      exec .sync s = .next { applyEntries u (mapping u false k) data with pending := s.pending }) ∧
    (hears → ¬ short → s.reg Reg.rpdoType k ≤ 240 → ∃ t, takes = .next t ∧ tabGet [] t.links.rpdoWaiting k = data ∧
      t.regs = s.regs ∧ t.mem = s.mem) ∧
    (∀ x, hears → ¬ short → 240 < s.reg Reg.rpdoType k → mapping s false k = [x] →
      let u := s.accessed (.can 0)
      let r := objectWrite (standingInputs u) (x / 2 ^ 16 % 2 ^ 16) (x / 2 ^ 8 % 2 ^ 8) (data.take (x % 2 ^ 8 / 8)) u
      takes = .next { ((if r.1 = 0 then r.2 else r.2.count Reg.canRpdoRefused 0).advance 8).accessed (.can 0) with pending := s.pending }) ∧
    (hears → short → s.links.emcys.length < 32 → ∃ t e, takes = .next t ∧ t.links.emcys = s.links.emcys ++ [e] ∧
      e.code = 0x8210 ∧ t.mem = s.mem ∧ t.links.rpdoWaiting = s.links.rpdoWaiting) ∧
    (∀ j, j < 16 → live → tpdoOn s j = true → 254 ≤ s.reg Reg.tpdoType j → s.reg Reg.tpdoEvent j ≠ 0 →
      ∃ t bs, exec (.tpdoEventTimer j) s = .next t ∧
        t.clocks.cycle = max s.clocks.cycle (tabGet s.clocks.cycle s.links.tpdoLast j + s.reg Reg.tpdoEvent j * 1600000) ∧
        tabGet 0 t.links.tpdoLast j = t.clocks.cycle ∧ t.outbox = .can (.fd true) s.links.rate (s.reg Reg.tpdoCob j % 2048) bs :: s.outbox) ∧
    (f = .classical → takes = .next s) ∧
    (s.mode ≠ .running → exec .sync s = .next s ∧ takes = .next s ∧ ∀ j < 16, exec (.tpdoEventTimer j) s = .next s)

/-- UART lines read and write parts, open, commit and cancel sessions; a line that is too long, flagged or ill formed is answered "?" (R269, R272, R274, R275, R277, R278, R279, R309, R312, R313). -/
def Obligations.UartLinesAnswer : Prop :=
  ∀ (s : State) (cs : List Nat) (early : Bool) (index sub p v : Nat), s.mode ≠ .off → s.links.uartLine = [] → (∀ c ∈ cs, c ≠ 10 ∧ c ≠ 13) →
    let line : UartLine := .chars early ((cs ++ [13]).map fun c => { code := c, framing := false, parity := false, brk := false })
    let ok' (x : UartCmd) : Prop := early = false ∧ cs.length ≤ 64 ∧ parseLine cs = some x
    let rd := exec (.uartReadLine line) s
    let wr := exec (.uartWriteLine line) s
    let key := index * 256 + sub
    let u := (takeRate s).accessed .uart
    let now := u.clocks.cycle
    let gives (w : State) (c : Nat) : Host.Outcome State Fault Refusal := .next { sayCode w c with pending := s.pending }
    (u.links.uartDivisor = uartDivisor (s.reg Reg.uartBaud)) ∧
    (early = true ∨ 64 < cs.length ∨ parseLine cs = none → rd = .next (sayWhat (takeRate s)) ∧ wr = .next (sayWhat (takeRate s))) ∧
    (∀ bs, ok' (.read index sub p) → namesDomain u index sub = false → readOne u .uart index sub = (0, bs) → p < partCount bs.length →
      (bs.length ≤ 4 → index ≠ 0x2200 → completionsAt index sub = none → rd = .next (sayValue u (leAt bs 0 4))) ∧
      (4 < bs.length → snapshotOf u .uart key = none → ∃ t y, rd = .next t ∧ snapshotOf t .uart key = some y ∧ y.bytes = bs ∧
        y.parts = [p] ∧ y.opened = now ∧ t.outbox = (sayValue u (leAt bs (4 * p) 4)).outbox) ∧
      (∀ x, 4 < bs.length → snapshotOf u .uart key = some x → x.parts.contains p = false →
        (x.live now = true → ∃ t, rd = .next t ∧ t.outbox = (sayValue u (leAt x.bytes (4 * p) 4)).outbox ∧
          ((∀ k < partCount x.bytes.length, k = p ∨ k ∈ x.parts) → snapshotOf t .uart key = none)) ∧
        (x.live now = false → ∃ t, rd = .next t ∧ t.outbox = (sayCode u 0x0A000001).outbox ∧ snapshotOf t .uart key = none ∧
          t.reg Reg.odSnapshotExpired = (u.reg Reg.odSnapshotExpired + 1) % 2 ^ 32))) ∧
    (∀ c bs, ok' (.read index sub p) → namesDomain u index sub = false → c ≠ 0 → readOne u .uart index sub = (c, bs) → rd = gives u c) ∧
    (∀ r, ok' (.write index sub p v) → findObject u index sub = .object r → r.isDomain = false →
      let n := r.type.bytes
      (n ≤ 4 → p = 0 → leNat ((leBytes 4 v).drop n) = 0 →
        let w := objectWrite (standingInputs u) index sub (leBytes n v) u
        wr = gives w.2 w.1) ∧
      (n = 8 → p < 2 → pendingOf u key = none → ∃ t y, wr = .next t ∧ pendingOf t key = some y ∧ y.parts = [(p, v)] ∧
        t.outbox = (sayOk u).outbox ∧ t.regs = u.regs) ∧
      (∀ x a, n = 8 → p < 2 → pendingOf u key = some x → x.parts = [(1 - p, a)] →
        (x.live now = true →
          let w := objectWrite (standingInputs u) index sub (if p = 0 then leBytes 4 v ++ leBytes 4 a else leBytes 4 a ++ leBytes 4 v) (dropPending u key)
          wr = gives w.2 w.1) ∧
        (x.live now = false → ∃ t, wr = .next t ∧ t.outbox = (sayCode u 0x0A000001).outbox ∧ pendingOf t key = none ∧ t.regs = u.regs))) ∧
    (∀ n crc, ok' (.openLine index sub n crc) →
      let o := openWrite .uart index sub n (some crc) u
      exec (.uartOpenLine line) s = gives o.2.2 o.1) ∧
    (ok' (.commit index sub) →
      (uartSession u key = none → exec (.uartCommitLine line) s = gives u 0x0A000002) ∧
      (∀ x, uartSession u key = some x → exec (.uartCommitLine line) s = gives (commitWrite .uart x.id u).2 (commitWrite .uart x.id u).1)) ∧
    (ok' (.cancel index sub) → ∃ t, exec (.uartCancelLine line) s = .next t ∧ t.outbox = (sayOk u).outbox ∧
      t.domains = s.domains ∧ snapshotOf t .uart key = none ∧ (∀ x, uartSession u key = some x → ∀ y ∈ t.links.writes, y.id ≠ x.id))

/-- A Silush cycle starts at the predicted origin; slot 0 gives the origin, the sequence, the beat pair and the ranging of a slot (R30, R317, R321, R322, R323, R325, R326, R330, R331, R348, R350). -/
def Obligations.SilushCyclesAndBroadcasts : Prop :=
  ∀ (s : State) (b : Burst), s.silSt ≠ 0 → s.mode ≠ .off → s.mode ≠ .boot →
    let x := s.silush
    let a := arrival s b
    let paced := x.slot0Seen = false ∧ x.collided.contains 0 = false ∧
      (x.originKnown = true → ((a : Int) - (x.origin + 512 : Nat)).natAbs ≤ 512)
    (x.originKnown = true → ∃ t, exec .silushCycleStart s = .next t ∧ t.silush.origin = x.origin + s.reg Reg.silCycle * 4096 / 10 ∧
      t.clocks.cycle = max s.clocks.cycle (t.silush.origin / 256) ∧ t.silush.slot0Seen = false ∧ t.silush.sent = false ∧
      t.silush.dark = false ∧ t.silush.refusing = x.refusedNow ∧ t.silush.refusedNow = false ∧
      (∀ k < 8, tabGet 0 t.silush.absentRun k = if k ∈ x.seen then 0 else if x.rangeCycle = true ∧ k ≠ 0 then tabGet 0 x.absentRun k
        else tabGet 0 x.absentRun k + 1) ∧
      (x.slot0Seen = true → t.outbox = s.outbox) ∧
      (x.slot0Seen = false → s.silSt = 3 → x.sent = false → x.dark = false → ∃ (c : Nat) (data : BitVec 56),
        t.outbox.head? = some (.silush c (burstOf data)) ∧ data.extractLsb' 48 1 = 1#1 ∧
        (data.extractLsb' 49 1 = 1#1 ↔ s.mode = .held ∨ s.mode = .faulted))) ∧
    (∀ d : BitVec 56, burstData b.bits = some d → paced →
      let kind := d.toNat / 2 ^ 54
      let seq := d.toNat / 2 ^ 48 % 64
      let hears (t : State) : Prop := t.silush.origin = a - 512 ∧ t.silush.originKnown = true ∧ t.silush.slot0Seen = true ∧ t.silush.seq = seq
      let answers (t : State) : Prop := s.silSt = 3 → x.sent = false → x.dark = false → t.silush.sent = true ∧ ∃ (c : Nat) (data : BitVec 56),
        t.outbox.head? = some (.silush c (burstOf data)) ∧ data.extractLsb' 48 1 = 0#1 ∧ (data.extractLsb' 50 6).toNat = seq
      (kind = 0 → ∃ t, exec (.slot0Beat b) s = .next t ∧ hears t ∧ answers t ∧ t.beat = s.beat ∧
        t.silush.beatHeard = some (seq, d.toNat % 2 ^ 48, a) ∧ t.silush.beatAge = 0 ∧
        t.silSt = (if s.silSt = 1 ∧ x.originKnown = true ∧ x.slot0Before = true then 2 else s.silSt) ∧ bit (t.reg Reg.silAbsentMask) 0 = false) ∧
      (kind ≠ 0 → kind ≠ 3 → exec (.slot0Beat b) s = .next s) ∧
      (∀ q n h, kind = 1 → x.beatHeard = some (q, n, h) → x.beatAge = 1 → (q + 1) % 64 = seq → d.toNat % 2 ^ 16 = 0 → s.reg Reg.beatSource = 0 →
        let period := d.toNat / 2 ^ 16 % 2 ^ 16
        let c : Int := ((ceilDiv h 256 + d.toNat / 2 ^ 32 % 2 ^ 16 : Nat) : Int)
        let at' : Int := s.boundaryAt (BitVec.ofNat 48 n)
        let agrees := (c - at').natAbs ≤ 2 ∧ period = s.beat.period
        let k := nearestBoundary s c
        let place := c - k * s.beat.period
        let near := (place - s.beat.at').natAbs ≤ 2 ∧ period = s.beat.period
        ∃ t, exec (.slot0Phase b) s = .next t ∧
          (s.mode.flows = true → period < 16 ∨ (s.beat.fresh = false ∧ ¬ agrees) → t.beat = s.beat ∧ hears t ∧
            t.reg Reg.beatMismatch = (s.reg Reg.beatMismatch + 1) % 2 ^ 32 ∧
            (s.links.emcys.length < 32 → ∃ e, t.links.emcys = s.links.emcys ++ [e] ∧ e.code = 0xFF20)) ∧
          (s.mode.flows = true → 16 ≤ period → agrees → s.beat.fresh = false → t.beat = s.beat ∧ hears t ∧ answers t ∧
            t.reg Reg.beatMismatch = s.reg Reg.beatMismatch) ∧
          (s.mode.flows = true → 16 ≤ period → near → s.beat.fresh = true → t.beat.n = BitVec.ofNat 48 n - BitVec.ofInt 48 k ∧
            t.beat.fresh = false ∧ t.beat.at' = place.toNat ∧ t.mode = s.mode) ∧
          (s.mode.flows = true → 16 ≤ period → ¬ near → s.beat.fresh = true → t.mode = .held ∧ t.reg Reg.idStateReason = 8 ∧
            t.reg Reg.imgReason = 9) ∧
          (∀ i, s.mode = .held → s.act.phase = 1 → 16 ≤ period → s.images.main = some i → t.mode = .held ∧
            (t.act.phase = 2 ∧ t.beat.on = true ∧ t.beat.period = period ∧ t.reg Reg.beatPeriod = period ∨
              t.act.phase = 0 ∧ (t.reg Reg.imgReason = 5 ∨ t.reg Reg.imgReason = 10)))) ∧
      (kind = 2 → ∃ t, exec (.slot0Range b) s = .next t ∧ hears t ∧ t.silush.rangeCycle = true ∧
        (d.toNat / 2 ^ 45 % 8 = s.reg Reg.silSlot → s.silSt = 2 ∨ s.silSt = 5 → x.dark = false →
          t.outbox = .silush (a - 512 + 8704) (burstOf 0#56) :: s.outbox ∧ t.silush.rangeSent = some (a - 512 + 8704)) ∧
        (d.toNat / 2 ^ 45 % 8 ≠ s.reg Reg.silSlot → t.silush.dark = true ∧ t.outbox = s.outbox)))

/-- Ranging and own bursts set the loop delay, each burst is classed by its offset, and absence and collisions move the engine (R318, R320, R323, R324, R327, R328, R329, R330, R331). -/
def Obligations.SilushRangesAndClassesBursts : Prop :=
  ∀ (s : State) (b : Burst) (k : Nat), k < 8 →
    let x := s.silush
    let slot := s.reg Reg.silSlot
    let start (j : Nat) : Nat := j * s.reg Reg.silCycle * 4096 / 80
    let d (j : Nat) : Int := (arrival s b : Int) - (x.origin + start j + 512 : Nat)
    let inside (j : Nat) : Prop := -512 ≤ d j ∧ d j + 512 + 5632 ≤ ((start (j + 1) - start j : Nat) : Int)
    let fits (a : Nat) : Prop := a + 8192 ≤ start slot
    let rang (t : State) (code : Nat) : Prop := s.links.emcys.length < 32 → ∃ e, t.links.emcys = s.links.emcys ++ [e] ∧ e.code = code
    let fresh (j : Nat) : Prop := x.seen.contains j = false ∧ x.collided.contains j = false
    let good := ∃ c, burstData b.bits = some c
    (∀ sent, x.rangeSent = some sent → ∃ t, exec (.rangingReturn b) s = .next t ∧ t.silush.loopDelay = arrival s b - sent ∧
      t.silush.rangeSent = none ∧ (fits (arrival s b - sent) → t.silSt = 3) ∧
      (¬ fits (arrival s b - sent) → t.silSt = 5 ∧ (s.silSt ≠ 5 → rang t 0xFF92))) ∧
    (x.rangeSent = none → exec (.rangingReturn b) s = .next s) ∧
    (s.silSt = 3 → x.sent = true → fresh slot → inside slot →
      let a := if 64 ≤ d slot then x.loopDelay + 64 else if d slot ≤ -64 then x.loopDelay - 64 else x.loopDelay
      ∃ t, exec (.ownBurst b) s = .next t ∧ t.silush.loopDelay = a ∧ t.silSt = (if a + 8192 ≤ start slot then 3 else 5)) ∧
    (s.silSt ≠ 3 ∨ x.sent = false → exec (.ownBurst b) s = .next s) ∧
    (s.silSt ≠ 0 → x.originKnown = true → fresh k → inside k → ∃ t, exec (.slotBurst k b) s = .next t ∧ t.silush.seen = k :: x.seen ∧
      t.silush.collided = x.collided ∧
      t.reg Reg.silSkew = (if (d k).natAbs < 64 then s.reg Reg.silSkew else (s.reg Reg.silSkew + 1) % 2 ^ 32) ∧
      (good → bit (t.reg Reg.silAbsentMask) k = false ∧ t.reg Reg.silCrcErrors = s.reg Reg.silCrcErrors) ∧
      (¬ good → t.reg Reg.silAbsentMask = s.reg Reg.silAbsentMask ∧ t.reg Reg.silCrcErrors = (s.reg Reg.silCrcErrors + 1) % 2 ^ 32)) ∧
    (s.silSt ≠ 0 → x.originKnown = true → x.seen.contains k = true → x.collided.contains k = false → inside k →
      ∃ t, exec (.slotBurst k b) s = .next t ∧ t.silush.collided = k :: x.collided ∧
        t.reg Reg.silCollided = (s.reg Reg.silCollided + 1) % 2 ^ 32 ∧ t.reg Reg.silAbsentMask = s.reg Reg.silAbsentMask ∧
        (k = slot → x.sent = true → s.silSt = 3 → 2 ≤ x.collRun → t.silSt = 4 ∧ rang t 0xFF90)) ∧
    (s.silSt ≠ 0 → bit (s.reg Reg.silAbsentMask) k = false → 4 ≤ tabGet 0 x.absentRun k → ∃ t, exec (.slotAbsent k) s = .next t ∧
      bit (t.reg Reg.silAbsentMask) k = true ∧ (k ≠ 0 → t.silSt = s.silSt) ∧ (k = 0 → t.silSt = 1 ∧ rang t 0xFF91 ∧ t.beat = s.beat)) ∧
    (tabGet 0 x.absentRun k < 4 → exec (.slotAbsent k) s = .next s) ∧
    (s.mode.online = true → ∃ t, exec (.silReenable [1#8]) s = .next t ∧ t.outbox.head? = some (.status 0) ∧
      t.silSt = if s.silSt = 4 then 2 else s.silSt)

/-- ACTIVATE, START, STOP, HOLD and REARM act in the states of Table 15.3 and are refused in the others; no beat in 1 ms ends an activation (R335, R337, R338, R339, R348, R349). -/
def Obligations.RunCommandsAct : Prop :=
  ∀ (s : State), s.mode ≠ .off →
    let next := some (s.beat.n + 1#48)
    let run (r : Run) : Host.Outcome State Fault Refusal := .next ({ s with run := r }.emit (.status 0))
    let refused := writeRefused s 0x08000022
    let ended (t : State) (reason img : Nat) : Prop := t.mode = .held ∧ t.reg Reg.idStateReason = reason ∧ t.act.phase = 0 ∧
      t.reg Reg.imgReason = img ∧ t.beat.on = false
    (s.mode = .held → s.reg Reg.imgState = 1 → s.act.phase = 0 → ∃ t, exec .activate s = .next t ∧ t.outbox.head? = some (.status 0) ∧
      (activationReason s ≠ 0 → ended t 7 (activationReason s) ∧ t.reg Reg.imgState = 1) ∧
      (activationReason s = 0 → s.reg Reg.beatSource = 1 → storePoisoned s false = true → ended t 7 10 ∧ t.reg Reg.imgState = 0) ∧
      (activationReason s = 0 → s.reg Reg.beatSource ≠ 1 ∨ storePoisoned s false = false → t.reg Reg.imgState = 2 ∧ t.mode = .held ∧
        (s.reg Reg.beatSource = 1 → t.act.phase = 2 ∧ t.beat.on = true ∧ t.beat.n = BitVec.ofNat 48 (s.reg Reg.beatStart) ∧
          t.beat.at' = s.clocks.cycle ∧ t.beat.period = s.reg Reg.beatPeriod) ∧
        (s.reg Reg.beatSource ≠ 1 → t.act.phase = 1))) ∧
    (s.mode ≠ .held ∨ s.reg Reg.imgState ≠ 1 ∨ s.act.phase ≠ 0 → exec .activate s = refused) ∧
    (s.mode = .held → s.act.phase = 1 → ∃ t, exec .noBeatTimeout s = .next t ∧ ended t 7 7 ∧ t.reg Reg.imgState = 1) ∧
    (s.mode ≠ .held ∨ s.act.phase ≠ 1 → exec .noBeatTimeout s = .next s) ∧
    (s.mode = .armed ∨ s.mode = .stopped → exec .start s = run { s.run with startAt := next }) ∧
    (s.mode ≠ .armed → s.mode ≠ .stopped → exec .start s = refused) ∧
    (s.mode = .running → exec .stop s = run { s.run with stopCmd := next }) ∧
    (s.mode ≠ .running → exec .stop s = refused) ∧
    (s.mode = .armed → exec .hold s = run { s.run with holdAt := next }) ∧
    (s.mode = .running → exec .hold s = run { s.run with stopCmd := next, holdAt := next }) ∧
    (s.mode = .stopped → exec .hold s = run { s.run with drain := 1 }) ∧
    (s.mode = .held → s.act.phase = 2 → ∃ t, exec .hold s = .next t ∧ t.act = { s.act with cancelled := true } ∧ t.regs = s.regs) ∧
    (s.mode = .held → s.act.phase ≠ 0 → s.act.phase ≠ 2 → ∃ t, exec .hold s = .next t ∧ ended t 4 (s.reg Reg.imgReason) ∧ t.reg Reg.imgState = 1) ∧
    (s.mode = .boot ∨ s.mode = .faulted ∨ (s.mode = .held ∧ s.act.phase = 0) → exec .hold s = refused) ∧
    (s.mode = .stopped → exec .rearm s = run { s.run with drain := 2 }) ∧
    (s.mode ≠ .stopped → exec .rearm s = refused)

/-- A drain ends at a boundary in HELD or ARMED once nothing is left, and RESET enters BOOT with the power domains as they are (R27, R335, R336, R339, R341, R342). -/
def Obligations.DrainsEndAndResetsBoot : Prop :=
  ∀ (s : State),
    (s.run.drain ≠ 0 → s.mode.flows = true → s.clocks.cycle = s.beat.at' → drained s = true →
      ∃ t, exec .drainEnd s = .next t ∧
        (s.run.drain = 1 → t.mode = .held ∧ t.reg Reg.idStateReason = 4 ∧ t.run = Run.none ∧ t.reg Reg.forgeActiveMask = 0 ∧ t.reg Reg.imgState = 1 ∧ t.images.active = none ∧
          (∀ f < 16, ∀ q : Bool, t.planeState f q = 0 ∨ t.planeState f q = 6) ∧
          ∀ h < 16, ∀ e < 5, ∀ q < 4, (t.harbour h).queue e q = []) ∧
        (s.run.drain ≠ 1 → pendingSlots s = [] → t.mode = .armed ∧ t.reg Reg.idStateReason = 4 ∧ t.run = Run.none ∧ ∀ f < 16, ∀ q : Bool, t.planeState f q = s.planeState f q)) ∧
    (s.run.drain = 0 ∨ s.mode.flows = false ∨ s.clocks.cycle ≠ s.beat.at' ∨ drained s = false → exec .drainEnd s = .next s) ∧
    (∀ b : BootInputs, s.mode.online = true ∨ s.mode = .faulted → b.refclk = false ∨ b.hearthLocks = false →
      ∃ t, exec (.reset b) s = .next t ∧ t.outbox.head? = some (.status 0) ∧
        (b.refclk = true → t.mode = .boot ∧ t.reg Reg.idStateReason = 2 ∧ t.outbox = .status 0 :: s.outbox) ∧
        (b.refclk = false → t.mode = .faulted ∧ t.reg Reg.idStateReason = 10) ∧
        t.run = Run.none ∧ t.act.phase = 0 ∧ t.planes = [] ∧ t.quenches = [] ∧ t.tanks = [] ∧ t.links.sessions = [] ∧ t.lines = [] ∧
        t.images.main = none ∧ t.clocks.hearth = false ∧
        ∀ d < 128, t.domainState d = s.domainState d ∧
          t.reg Reg.pwrDomainOn d = if s.domainState d = 1 ∨ s.domainState d = 2 then 1 else 0) ∧
    (∀ b : BootInputs, s.mode = .boot → exec (.reset b) s = writeRefused s 0x08000022)

/-- A scrub error is tested and classed; a digest of a peer is compared, and the first divergence is noted and freezes the taps (R368, R369, R370, R371, R372, R373, R374, R375, R382). -/
def Obligations.ErrorsTestsAndDigests : Prop :=
  (∀ (s : State),
       let win := s.reg Reg.fltRecurWindow * 1600000
       (∀ (h : Nat) (e : SramError), s.hasHarbour h = true → e.store < 6 → s.flag Reg.fltScrubEnable = true →
         let u := sramUnit h e.store e.line
         isPersistent s u = false → testOf s u = none → ∃ t x y, exec (.harbourScrub h (some e)) s = .next t ∧ testOf t u = some x ∧
           x.running = false ∧ x.since = s.clocks.cycle ∧ x.uncorrectable = e.lost ∧ t.faults.log.getLast? = some y ∧
           (y.extractLsb' 48 6).toNat = 2 ∧ (y.extractLsb' 56 8).toNat = 64 + h ∧ (y.extractLsb' 44 4).toNat = e.store ∧
           (y.extractLsb' 64 16).toNat = (if e.lost then 0xFF61 else 0) ∧
           (e.lost = true → e.store < 3 → t.poisoned e.line = true) ∧ (e.lost = false → t.poison = s.poison)) ∧
       (∀ (h : Nat) (e : Option SramError), s.hasHarbour h = true → (∀ x, e = some x → x.store < 6) →
         e = none ∨ s.flag Reg.fltScrubEnable = false → exec (.harbourScrub h e) s = .next s) ∧
       (∀ (u : FaultUnit) (x : Test), testOf s u = some x → x.running = false →
         let waits := ∃ k ∈ usersOf s u, ((s.harbour (u.unit - 64)).ctx k).commit = true
         (waits → exec (.testStart u) s = .next s) ∧
         (¬ waits → ∃ t y, exec (.testStart u) s = .next t ∧ testOf t u = some y ∧ y.running = true ∧ t.clocks = s.clocks) ∧
         (u.kind = 2 ∨ u.kind = 3 ∨ u.kind = 6 → s.mode.flows = false → ¬ waits → ∃ t y, exec (.testForcedStart u) s = .next t ∧ testOf t u = some y ∧
           y.running = true ∧ t.clocks.cycle = max s.clocks.cycle (x.since + 1600000)) ∧
         (u.kind = 1 → exec (.testForcedStart u) s = .next s)) ∧
       (∀ (u : FaultUnit) (x : Test) (fails : Bool), testOf s u = some x → x.running = true → u.kind ≠ 1 → u.kind < 64 →
         (∀ k < 10, ((s.harbour (u.unit - 64)).ctx k).awaits ≠ some u) →
         let bad := if u.kind = 4 then 16 ≤ x.errors else fails = true
         let c := classOf s u
         let recent := (c.last.any fun k => decide (x.since ≤ k + win)) = true
         let twice := 2 ≤ (c.intermittent.filter fun k => s.clocks.cycle ≤ k + win).length
         let k := if bad then 3 else if recent ∧ twice then 3 else if recent then 2 else 1
         ∃ t y, exec (.testComplete u fails) s = .next t ∧ testOf t u = none ∧ t.faults.log.getLast? = some y ∧
           (y.extractLsb' 54 2).toNat = k ∧ (y.extractLsb' 48 6).toNat = u.kind ∧
           t.reg Reg.fltTransient = (if k = 1 then (s.reg Reg.fltTransient + 1) % 2 ^ 32 else s.reg Reg.fltTransient) ∧
           t.reg Reg.fltIntermittent = (if k = 2 then (s.reg Reg.fltIntermittent + 1) % 2 ^ 32 else s.reg Reg.fltIntermittent) ∧
           t.reg Reg.fltPersistent = (if k = 3 then (s.reg Reg.fltPersistent + 1) % 2 ^ 32 else s.reg Reg.fltPersistent) ∧
           (k = 3 → isPersistent t u = true)) ∧
       (∀ (u : FaultUnit) (fails : Bool), testOf s u = none → exec (.testStart u) s = .next s ∧ exec (.testForcedStart u) s = .next s ∧
         exec (.testComplete u fails) s = .next s)) ∧
  (∀ (s : State) (lane : Nat) (n : Beat) (v : BitVec 32), lane = 2 ∨ lane = 3 →
       let w : Word64 := 0xCA#8 ++ n.extractLsb' 0 24 ++ v
       let out := exec (.digest lane w) s
       let near := -(2 ^ 23) ≤ beatDiff n s.beat.n ∧ beatDiff n s.beat.n < 2 ^ 23
       let same (t : State) : Prop := t.regs = s.regs ∧ t.links = s.links ∧ t.faults.taps = s.faults.taps ∧ t.faults.frozen = s.faults.frozen
       (s.flag Reg.detLsEnable = true → s.mode.flows = true → near → (∀ x ∈ s.faults.peers, x.1 ≠ n) → ∃ t, out = .next t ∧
         (∀ d, s.faults.digests.find? (fun x => x.1 = n) = some (n, d) → d ≠ v.toNat → s.faults.frozen = false →
           t.reg Reg.detLsDiverged = n.toNat ∧ t.faults.frozen = true ∧ t.faults.taps = s.faults.taps ∧
           (s.links.emcys.length < 32 → ∃ e, t.links.emcys = s.links.emcys ++ [e] ∧ e.code = 0xFF23)) ∧
         (∀ d, s.faults.digests.find? (fun x => x.1 = n) = some (n, d) → d ≠ v.toNat → s.faults.frozen = true → same t ∧
           ∃ y, t.faults.log.getLast? = some y ∧ (y.extractLsb' 0 32).toNat = n.toNat % 2 ^ 32) ∧
         (s.faults.digests.find? (fun x => x.1 = n) = some (n, v.toNat) ∨ (∀ x ∈ s.faults.digests, x.1 ≠ n) → same t ∧ t.faults.log = s.faults.log)) ∧
       (s.flag Reg.detLsEnable = false ∨ s.mode.flows = false → out = .next s) ∧
       (∀ z : Word64, z.extractLsb' 56 8 ≠ 0xCA#8 → exec (.digest lane z) s = .next s))

/-- FLT_LOG_CLEAR empties the log; BIST runs on a unit under its conditions and its signatures decide; the TAP answers IDCODE and BYPASS (R382, R383, R384, R385, R386, R409). -/
def Obligations.LogClearBistAndTestPort : Prop :=
  ∀ (s : State) (u : Nat),
    (s.mode.online = true ∨ s.mode = .faulted → ∃ t y, exec (.fltLogClear [1#8]) s = .next t ∧ t.outbox.head? = some (.status 0) ∧
      t.faults.log = [y] ∧ (y.extractLsb' 64 16).toNat = 0 ∧ (s.mode ≠ .faulted → t.reg Reg.errorRegister = 0) ∧
      t.reg Reg.fltTransient = s.reg Reg.fltTransient ∧ t.reg Reg.fltIntermittent = s.reg Reg.fltIntermittent ∧
      t.reg Reg.fltPersistent = s.reg Reg.fltPersistent ∧
      (s.links.emcys.length < 32 → ∃ e, t.links.emcys = s.links.emcys ++ [e] ∧ e.code = 0)) ∧
    (∀ (kind : Nat) (c : Instr), (kind, c) ∈ [(1, Instr.bistLogic u), (2, .bistMemory u), (3, .bistBoth u)] → s.mode.online = true → u < 256 →
      (80 ≤ u → exec c s = writeRefused s 0x06090030) ∧
      (u < 64 → s.hasIsland u = false → kind ≠ 1 → exec c s = writeRefused s 0x06090030) ∧
      (u < 80 → u < 64 → s.hasIsland u = true ∨ kind = 1 → s.reg Reg.bistState ≠ 0 → exec c s = writeRefused s 0x08000022) ∧
      (64 ≤ u → u < 80 → s.mode ≠ .held → exec c s = writeRefused s 0x08000022) ∧
      (s.reg Reg.bistState = 0 → (u < 64 ∧ s.hasIsland u = true ∧ s.domainOn u = true ∧
          ∀ x ∈ planesWithTile s u, s.planeState x.1 x.2 = 0 ∨ s.planeState x.1 x.2 = 6) ∨ (u < 64 ∧ s.hasIsland u = false ∧ kind = 1) ∨
          (64 ≤ u ∧ u < 80 ∧ s.mode = .held ∧ s.domainOn u = true ∧ s.hasHarbour (u - 64) = true) →
        ∃ t, exec c s = .next t ∧ t.outbox.head? = some (.status 0) ∧ t.reg Reg.bistState = 1 ∧ t.reg Reg.bistResult u = 1 ∧
          t.faults.bist = some (u, kind) ∧ (64 ≤ u → ((t.harbour (u - 64)).ctx 9).state = 1))) ∧
    (∀ (kind : Nat) (logic memory : BitVec 64) (rows : List (Nat × Bool)), s.faults.bist = some (u, kind) → u < 80 → 1 ≤ kind → kind ≤ 3 →
      (64 ≤ u → bistWaits s (u - 64) = false) →
      let rom := s.reg Reg.seqRomId
      let fabric := decide (u < 64) && !s.hasIsland u
      let badL := kind ≠ 2 ∧ logic ≠ Config.bistSignature rom fabric (decide (64 ≤ u)) false
      let badM := kind ≠ 1 ∧ memory ≠ Config.bistSignature rom fabric (decide (64 ≤ u)) true
      ∃ t, exec (.bistComplete logic memory rows) s = .next t ∧ t.faults.bist = none ∧ t.reg Reg.bistState = 0 ∧
        t.reg Reg.bistResult u = (if badL ∧ badM then 5 else if badL then 3 else if badM then 4 else 2) ∧
        (kind ≠ 2 → t.reg Reg.bistMisrLogic u = logic.toNat) ∧ (kind ≠ 1 → t.reg Reg.bistMisrMemory u = memory.toNat) ∧
        (badL ∨ badM → s.links.emcys.length < 32 → ∃ e, t.links.emcys = s.links.emcys ++ [e] ∧ e.code = 0xFFA0 ∧ e.unit = u) ∧
        (¬ badL → ¬ badM → t.links.emcys = s.links.emcys)) ∧
    (s.mode ≠ .off → exec .jtagIdcode s = .next (s.emit (.jtag 32 Config.idcode.toNat)) ∧
      ∀ tdi : Bool, exec (.jtagBypass tdi) s = .next (s.emit (.jtag 1 (if tdi then 1 else 0)))) ∧
    (s.mode = .off → exec .jtagIdcode s = .next s ∧ ∀ tdi : Bool, exec (.jtagBypass tdi) s = .next s)

/-- What commands leave: control state, tiles and engines with every byte of memory, and the dictionary's registers (R92, R131, R182, R266). -/
def Obligations.CommandsKeepToTheirOwnState : Prop :=
  ∀ (c : Instr) (s t : State), exec c s = .next t →
    (keepsControl c = true → t.act = s.act ∧ t.carrier = s.carrier ∧ t.flash = s.flash ∧ t.domains = s.domains ∧ t.pub = s.pub ∧
      t.pubDomains = s.pubDomains ∧ t.actions = s.actions ∧ t.swaps = s.swaps ∧ t.periods = s.periods ∧ t.patch = s.patch ∧
      t.images = s.images ∧ t.power = s.power) ∧
    (keepsEngines c = true → t.tiles = s.tiles ∧ t.lines = s.lines ∧ t.planes = s.planes ∧ t.quenches = s.quenches ∧
      t.tanks = s.tanks ∧ t.harbours = s.harbours ∧ t.poison = s.poison ∧ t.images = s.images ∧ t.mem = s.mem ∧
      ∀ a, t.load a 1 = s.load a 1) ∧
    (keepsRegisters c = true → ∀ (r : Reg) (n : Nat), t.reg r n = s.reg r n) ∧
    (∀ d q, seatOf c = some (.tile d q) → t.harbours = s.harbours ∧ t.tanks = s.tanks ∧ t.planes = s.planes ∧ t.mem = s.mem ∧
      ∀ a, t.load a 1 = s.load a 1) ∧
    (∀ h k, seatOf c = some (.temper h k) → t.tiles = s.tiles ∧ t.lines = s.lines ∧ t.quenches = s.quenches ∧
      t.tanks = s.tanks ∧ t.planes = s.planes)
end

