-- ==== Sys2Proof/Laws/State.lean ====
section
/-! SUPPORT. One lemma per field of State per named update, so that no proof unfolds a record update. -/

namespace Sys2Proof.Machine

variable (s : State)

@[simp] theorem State.setReg_pending (r : Reg) (n v : Nat) : (s.setReg r n v).pending = s.pending := rfl
@[simp] theorem State.setReg_clocks (r : Reg) (n v : Nat) : (s.setReg r n v).clocks = s.clocks := rfl
@[simp] theorem State.setReg_beat (r : Reg) (n v : Nat) : (s.setReg r n v).beat = s.beat := rfl
@[simp] theorem State.setReg_run (r : Reg) (n v : Nat) : (s.setReg r n v).run = s.run := rfl
@[simp] theorem State.setReg_act (r : Reg) (n v : Nat) : (s.setReg r n v).act = s.act := rfl
@[simp] theorem State.setReg_carrier (r : Reg) (n v : Nat) : (s.setReg r n v).carrier = s.carrier := rfl
@[simp] theorem State.setReg_flash (r : Reg) (n v : Nat) : (s.setReg r n v).flash = s.flash := rfl
@[simp] theorem State.setReg_regs (r : Reg) (n v : Nat) : (s.setReg r n v).regs = tabSet s.regs (r.key n) v := rfl
@[simp] theorem State.setReg_domains (r : Reg) (n v : Nat) : (s.setReg r n v).domains = s.domains := rfl
@[simp] theorem State.setReg_pub (r : Reg) (n v : Nat) : (s.setReg r n v).pub = s.pub := rfl
@[simp] theorem State.setReg_pubDomains (r : Reg) (n v : Nat) : (s.setReg r n v).pubDomains = s.pubDomains := rfl
@[simp] theorem State.setReg_actions (r : Reg) (n v : Nat) : (s.setReg r n v).actions = s.actions := rfl
@[simp] theorem State.setReg_swaps (r : Reg) (n v : Nat) : (s.setReg r n v).swaps = s.swaps := rfl
@[simp] theorem State.setReg_periods (r : Reg) (n v : Nat) : (s.setReg r n v).periods = s.periods := rfl
@[simp] theorem State.setReg_servo (r : Reg) (n v : Nat) : (s.setReg r n v).servo = s.servo := rfl
@[simp] theorem State.setReg_lanes (r : Reg) (n v : Nat) : (s.setReg r n v).lanes = s.lanes := rfl
@[simp] theorem State.setReg_xseq (r : Reg) (n v : Nat) : (s.setReg r n v).xseq = s.xseq := rfl
@[simp] theorem State.setReg_xlanes (r : Reg) (n v : Nat) : (s.setReg r n v).xlanes = s.xlanes := rfl
@[simp] theorem State.setReg_shoals (r : Reg) (n v : Nat) : (s.setReg r n v).shoals = s.shoals := rfl
@[simp] theorem State.setReg_tiles (r : Reg) (n v : Nat) : (s.setReg r n v).tiles = s.tiles := rfl
@[simp] theorem State.setReg_lines (r : Reg) (n v : Nat) : (s.setReg r n v).lines = s.lines := rfl
@[simp] theorem State.setReg_remaps (r : Reg) (n v : Nat) : (s.setReg r n v).remaps = s.remaps := rfl
@[simp] theorem State.setReg_planes (r : Reg) (n v : Nat) : (s.setReg r n v).planes = s.planes := rfl
@[simp] theorem State.setReg_quenches (r : Reg) (n v : Nat) : (s.setReg r n v).quenches = s.quenches := rfl
@[simp] theorem State.setReg_tanks (r : Reg) (n v : Nat) : (s.setReg r n v).tanks = s.tanks := rfl
@[simp] theorem State.setReg_harbours (r : Reg) (n v : Nat) : (s.setReg r n v).harbours = s.harbours := rfl
@[simp] theorem State.setReg_mem (r : Reg) (n v : Nat) : (s.setReg r n v).mem = s.mem := rfl
@[simp] theorem State.setReg_poison (r : Reg) (n v : Nat) : (s.setReg r n v).poison = s.poison := rfl
@[simp] theorem State.setReg_patch (r : Reg) (n v : Nat) : (s.setReg r n v).patch = s.patch := rfl
@[simp] theorem State.setReg_images (r : Reg) (n v : Nat) : (s.setReg r n v).images = s.images := rfl
@[simp] theorem State.setReg_links (r : Reg) (n v : Nat) : (s.setReg r n v).links = s.links := rfl
@[simp] theorem State.setReg_silush (r : Reg) (n v : Nat) : (s.setReg r n v).silush = s.silush := rfl
@[simp] theorem State.setReg_faults (r : Reg) (n v : Nat) : (s.setReg r n v).faults = s.faults := rfl
@[simp] theorem State.setReg_power (r : Reg) (n v : Nat) : (s.setReg r n v).power = s.power := rfl
@[simp] theorem State.setReg_outbox (r : Reg) (n v : Nat) : (s.setReg r n v).outbox = s.outbox := rfl
@[simp] theorem State.setReg_free (r : Reg) (n v : Nat) : (s.setReg r n v).free = s.free := rfl

@[simp] theorem State.count_pending (r : Reg) (n b k : Nat) : (s.count r n b k).pending = s.pending := rfl
@[simp] theorem State.count_clocks (r : Reg) (n b k : Nat) : (s.count r n b k).clocks = s.clocks := rfl
@[simp] theorem State.count_beat (r : Reg) (n b k : Nat) : (s.count r n b k).beat = s.beat := rfl
@[simp] theorem State.count_run (r : Reg) (n b k : Nat) : (s.count r n b k).run = s.run := rfl
@[simp] theorem State.count_act (r : Reg) (n b k : Nat) : (s.count r n b k).act = s.act := rfl
@[simp] theorem State.count_carrier (r : Reg) (n b k : Nat) : (s.count r n b k).carrier = s.carrier := rfl
@[simp] theorem State.count_flash (r : Reg) (n b k : Nat) : (s.count r n b k).flash = s.flash := rfl
@[simp] theorem State.count_regs (r : Reg) (n b k : Nat) : (s.count r n b k).regs = tabSet s.regs (r.key n) ((s.reg r n + k) % 2 ^ b) := rfl
@[simp] theorem State.count_domains (r : Reg) (n b k : Nat) : (s.count r n b k).domains = s.domains := rfl
@[simp] theorem State.count_pub (r : Reg) (n b k : Nat) : (s.count r n b k).pub = s.pub := rfl
@[simp] theorem State.count_pubDomains (r : Reg) (n b k : Nat) : (s.count r n b k).pubDomains = s.pubDomains := rfl
@[simp] theorem State.count_actions (r : Reg) (n b k : Nat) : (s.count r n b k).actions = s.actions := rfl
@[simp] theorem State.count_swaps (r : Reg) (n b k : Nat) : (s.count r n b k).swaps = s.swaps := rfl
@[simp] theorem State.count_periods (r : Reg) (n b k : Nat) : (s.count r n b k).periods = s.periods := rfl
@[simp] theorem State.count_servo (r : Reg) (n b k : Nat) : (s.count r n b k).servo = s.servo := rfl
@[simp] theorem State.count_lanes (r : Reg) (n b k : Nat) : (s.count r n b k).lanes = s.lanes := rfl
@[simp] theorem State.count_xseq (r : Reg) (n b k : Nat) : (s.count r n b k).xseq = s.xseq := rfl
@[simp] theorem State.count_xlanes (r : Reg) (n b k : Nat) : (s.count r n b k).xlanes = s.xlanes := rfl
@[simp] theorem State.count_shoals (r : Reg) (n b k : Nat) : (s.count r n b k).shoals = s.shoals := rfl
@[simp] theorem State.count_tiles (r : Reg) (n b k : Nat) : (s.count r n b k).tiles = s.tiles := rfl
@[simp] theorem State.count_lines (r : Reg) (n b k : Nat) : (s.count r n b k).lines = s.lines := rfl
@[simp] theorem State.count_remaps (r : Reg) (n b k : Nat) : (s.count r n b k).remaps = s.remaps := rfl
@[simp] theorem State.count_planes (r : Reg) (n b k : Nat) : (s.count r n b k).planes = s.planes := rfl
@[simp] theorem State.count_quenches (r : Reg) (n b k : Nat) : (s.count r n b k).quenches = s.quenches := rfl
@[simp] theorem State.count_tanks (r : Reg) (n b k : Nat) : (s.count r n b k).tanks = s.tanks := rfl
@[simp] theorem State.count_harbours (r : Reg) (n b k : Nat) : (s.count r n b k).harbours = s.harbours := rfl
@[simp] theorem State.count_mem (r : Reg) (n b k : Nat) : (s.count r n b k).mem = s.mem := rfl
@[simp] theorem State.count_poison (r : Reg) (n b k : Nat) : (s.count r n b k).poison = s.poison := rfl
@[simp] theorem State.count_patch (r : Reg) (n b k : Nat) : (s.count r n b k).patch = s.patch := rfl
@[simp] theorem State.count_images (r : Reg) (n b k : Nat) : (s.count r n b k).images = s.images := rfl
@[simp] theorem State.count_links (r : Reg) (n b k : Nat) : (s.count r n b k).links = s.links := rfl
@[simp] theorem State.count_silush (r : Reg) (n b k : Nat) : (s.count r n b k).silush = s.silush := rfl
@[simp] theorem State.count_faults (r : Reg) (n b k : Nat) : (s.count r n b k).faults = s.faults := rfl
@[simp] theorem State.count_power (r : Reg) (n b k : Nat) : (s.count r n b k).power = s.power := rfl
@[simp] theorem State.count_outbox (r : Reg) (n b k : Nat) : (s.count r n b k).outbox = s.outbox := rfl
@[simp] theorem State.count_free (r : Reg) (n b k : Nat) : (s.count r n b k).free = s.free := rfl

@[simp] theorem State.setDomain_pending (r : Reg) (n : Nat) (v : List Byte) : (s.setDomain r n v).pending = s.pending := rfl
@[simp] theorem State.setDomain_clocks (r : Reg) (n : Nat) (v : List Byte) : (s.setDomain r n v).clocks = s.clocks := rfl
@[simp] theorem State.setDomain_beat (r : Reg) (n : Nat) (v : List Byte) : (s.setDomain r n v).beat = s.beat := rfl
@[simp] theorem State.setDomain_run (r : Reg) (n : Nat) (v : List Byte) : (s.setDomain r n v).run = s.run := rfl
@[simp] theorem State.setDomain_act (r : Reg) (n : Nat) (v : List Byte) : (s.setDomain r n v).act = s.act := rfl
@[simp] theorem State.setDomain_carrier (r : Reg) (n : Nat) (v : List Byte) : (s.setDomain r n v).carrier = s.carrier := rfl
@[simp] theorem State.setDomain_flash (r : Reg) (n : Nat) (v : List Byte) : (s.setDomain r n v).flash = s.flash := rfl
@[simp] theorem State.setDomain_regs (r : Reg) (n : Nat) (v : List Byte) : (s.setDomain r n v).regs = s.regs := rfl
@[simp] theorem State.setDomain_domains (r : Reg) (n : Nat) (v : List Byte) : (s.setDomain r n v).domains = tabSet s.domains (r.key n) v := rfl
@[simp] theorem State.setDomain_pub (r : Reg) (n : Nat) (v : List Byte) : (s.setDomain r n v).pub = s.pub := rfl
@[simp] theorem State.setDomain_pubDomains (r : Reg) (n : Nat) (v : List Byte) : (s.setDomain r n v).pubDomains = s.pubDomains := rfl
@[simp] theorem State.setDomain_actions (r : Reg) (n : Nat) (v : List Byte) : (s.setDomain r n v).actions = s.actions := rfl
@[simp] theorem State.setDomain_swaps (r : Reg) (n : Nat) (v : List Byte) : (s.setDomain r n v).swaps = s.swaps := rfl
@[simp] theorem State.setDomain_periods (r : Reg) (n : Nat) (v : List Byte) : (s.setDomain r n v).periods = s.periods := rfl
@[simp] theorem State.setDomain_servo (r : Reg) (n : Nat) (v : List Byte) : (s.setDomain r n v).servo = s.servo := rfl
@[simp] theorem State.setDomain_lanes (r : Reg) (n : Nat) (v : List Byte) : (s.setDomain r n v).lanes = s.lanes := rfl
@[simp] theorem State.setDomain_xseq (r : Reg) (n : Nat) (v : List Byte) : (s.setDomain r n v).xseq = s.xseq := rfl
@[simp] theorem State.setDomain_xlanes (r : Reg) (n : Nat) (v : List Byte) : (s.setDomain r n v).xlanes = s.xlanes := rfl
@[simp] theorem State.setDomain_shoals (r : Reg) (n : Nat) (v : List Byte) : (s.setDomain r n v).shoals = s.shoals := rfl
@[simp] theorem State.setDomain_tiles (r : Reg) (n : Nat) (v : List Byte) : (s.setDomain r n v).tiles = s.tiles := rfl
@[simp] theorem State.setDomain_lines (r : Reg) (n : Nat) (v : List Byte) : (s.setDomain r n v).lines = s.lines := rfl
@[simp] theorem State.setDomain_remaps (r : Reg) (n : Nat) (v : List Byte) : (s.setDomain r n v).remaps = s.remaps := rfl
@[simp] theorem State.setDomain_planes (r : Reg) (n : Nat) (v : List Byte) : (s.setDomain r n v).planes = s.planes := rfl
@[simp] theorem State.setDomain_quenches (r : Reg) (n : Nat) (v : List Byte) : (s.setDomain r n v).quenches = s.quenches := rfl
@[simp] theorem State.setDomain_tanks (r : Reg) (n : Nat) (v : List Byte) : (s.setDomain r n v).tanks = s.tanks := rfl
@[simp] theorem State.setDomain_harbours (r : Reg) (n : Nat) (v : List Byte) : (s.setDomain r n v).harbours = s.harbours := rfl
@[simp] theorem State.setDomain_mem (r : Reg) (n : Nat) (v : List Byte) : (s.setDomain r n v).mem = s.mem := rfl
@[simp] theorem State.setDomain_poison (r : Reg) (n : Nat) (v : List Byte) : (s.setDomain r n v).poison = s.poison := rfl
@[simp] theorem State.setDomain_patch (r : Reg) (n : Nat) (v : List Byte) : (s.setDomain r n v).patch = s.patch := rfl
@[simp] theorem State.setDomain_images (r : Reg) (n : Nat) (v : List Byte) : (s.setDomain r n v).images = s.images := rfl
@[simp] theorem State.setDomain_links (r : Reg) (n : Nat) (v : List Byte) : (s.setDomain r n v).links = s.links := rfl
@[simp] theorem State.setDomain_silush (r : Reg) (n : Nat) (v : List Byte) : (s.setDomain r n v).silush = s.silush := rfl
@[simp] theorem State.setDomain_faults (r : Reg) (n : Nat) (v : List Byte) : (s.setDomain r n v).faults = s.faults := rfl
@[simp] theorem State.setDomain_power (r : Reg) (n : Nat) (v : List Byte) : (s.setDomain r n v).power = s.power := rfl
@[simp] theorem State.setDomain_outbox (r : Reg) (n : Nat) (v : List Byte) : (s.setDomain r n v).outbox = s.outbox := rfl
@[simp] theorem State.setDomain_free (r : Reg) (n : Nat) (v : List Byte) : (s.setDomain r n v).free = s.free := rfl

@[simp] theorem State.setTileAt_pending (k : Nat) (v : Tile) : (s.setTileAt k v).pending = s.pending := rfl
@[simp] theorem State.setTileAt_clocks (k : Nat) (v : Tile) : (s.setTileAt k v).clocks = s.clocks := rfl
@[simp] theorem State.setTileAt_beat (k : Nat) (v : Tile) : (s.setTileAt k v).beat = s.beat := rfl
@[simp] theorem State.setTileAt_run (k : Nat) (v : Tile) : (s.setTileAt k v).run = s.run := rfl
@[simp] theorem State.setTileAt_act (k : Nat) (v : Tile) : (s.setTileAt k v).act = s.act := rfl
@[simp] theorem State.setTileAt_carrier (k : Nat) (v : Tile) : (s.setTileAt k v).carrier = s.carrier := rfl
@[simp] theorem State.setTileAt_flash (k : Nat) (v : Tile) : (s.setTileAt k v).flash = s.flash := rfl
@[simp] theorem State.setTileAt_regs (k : Nat) (v : Tile) : (s.setTileAt k v).regs = s.regs := rfl
@[simp] theorem State.setTileAt_domains (k : Nat) (v : Tile) : (s.setTileAt k v).domains = s.domains := rfl
@[simp] theorem State.setTileAt_pub (k : Nat) (v : Tile) : (s.setTileAt k v).pub = s.pub := rfl
@[simp] theorem State.setTileAt_pubDomains (k : Nat) (v : Tile) : (s.setTileAt k v).pubDomains = s.pubDomains := rfl
@[simp] theorem State.setTileAt_actions (k : Nat) (v : Tile) : (s.setTileAt k v).actions = s.actions := rfl
@[simp] theorem State.setTileAt_swaps (k : Nat) (v : Tile) : (s.setTileAt k v).swaps = s.swaps := rfl
@[simp] theorem State.setTileAt_periods (k : Nat) (v : Tile) : (s.setTileAt k v).periods = s.periods := rfl
@[simp] theorem State.setTileAt_servo (k : Nat) (v : Tile) : (s.setTileAt k v).servo = s.servo := rfl
@[simp] theorem State.setTileAt_lanes (k : Nat) (v : Tile) : (s.setTileAt k v).lanes = s.lanes := rfl
@[simp] theorem State.setTileAt_xseq (k : Nat) (v : Tile) : (s.setTileAt k v).xseq = s.xseq := rfl
@[simp] theorem State.setTileAt_xlanes (k : Nat) (v : Tile) : (s.setTileAt k v).xlanes = s.xlanes := rfl
@[simp] theorem State.setTileAt_shoals (k : Nat) (v : Tile) : (s.setTileAt k v).shoals = s.shoals := rfl
@[simp] theorem State.setTileAt_tiles (k : Nat) (v : Tile) : (s.setTileAt k v).tiles = tabSet s.tiles k v := rfl
@[simp] theorem State.setTileAt_lines (k : Nat) (v : Tile) : (s.setTileAt k v).lines = s.lines := rfl
@[simp] theorem State.setTileAt_remaps (k : Nat) (v : Tile) : (s.setTileAt k v).remaps = s.remaps := rfl
@[simp] theorem State.setTileAt_planes (k : Nat) (v : Tile) : (s.setTileAt k v).planes = s.planes := rfl
@[simp] theorem State.setTileAt_quenches (k : Nat) (v : Tile) : (s.setTileAt k v).quenches = s.quenches := rfl
@[simp] theorem State.setTileAt_tanks (k : Nat) (v : Tile) : (s.setTileAt k v).tanks = s.tanks := rfl
@[simp] theorem State.setTileAt_harbours (k : Nat) (v : Tile) : (s.setTileAt k v).harbours = s.harbours := rfl
@[simp] theorem State.setTileAt_mem (k : Nat) (v : Tile) : (s.setTileAt k v).mem = s.mem := rfl
@[simp] theorem State.setTileAt_poison (k : Nat) (v : Tile) : (s.setTileAt k v).poison = s.poison := rfl
@[simp] theorem State.setTileAt_patch (k : Nat) (v : Tile) : (s.setTileAt k v).patch = s.patch := rfl
@[simp] theorem State.setTileAt_images (k : Nat) (v : Tile) : (s.setTileAt k v).images = s.images := rfl
@[simp] theorem State.setTileAt_links (k : Nat) (v : Tile) : (s.setTileAt k v).links = s.links := rfl
@[simp] theorem State.setTileAt_silush (k : Nat) (v : Tile) : (s.setTileAt k v).silush = s.silush := rfl
@[simp] theorem State.setTileAt_faults (k : Nat) (v : Tile) : (s.setTileAt k v).faults = s.faults := rfl
@[simp] theorem State.setTileAt_power (k : Nat) (v : Tile) : (s.setTileAt k v).power = s.power := rfl
@[simp] theorem State.setTileAt_outbox (k : Nat) (v : Tile) : (s.setTileAt k v).outbox = s.outbox := rfl
@[simp] theorem State.setTileAt_free (k : Nat) (v : Tile) : (s.setTileAt k v).free = s.free := rfl

@[simp] theorem State.setLane_pending (k : Nat) (v : Lane) : (s.setLane k v).pending = s.pending := rfl
@[simp] theorem State.setLane_clocks (k : Nat) (v : Lane) : (s.setLane k v).clocks = s.clocks := rfl
@[simp] theorem State.setLane_beat (k : Nat) (v : Lane) : (s.setLane k v).beat = s.beat := rfl
@[simp] theorem State.setLane_run (k : Nat) (v : Lane) : (s.setLane k v).run = s.run := rfl
@[simp] theorem State.setLane_act (k : Nat) (v : Lane) : (s.setLane k v).act = s.act := rfl
@[simp] theorem State.setLane_carrier (k : Nat) (v : Lane) : (s.setLane k v).carrier = s.carrier := rfl
@[simp] theorem State.setLane_flash (k : Nat) (v : Lane) : (s.setLane k v).flash = s.flash := rfl
@[simp] theorem State.setLane_regs (k : Nat) (v : Lane) : (s.setLane k v).regs = s.regs := rfl
@[simp] theorem State.setLane_domains (k : Nat) (v : Lane) : (s.setLane k v).domains = s.domains := rfl
@[simp] theorem State.setLane_pub (k : Nat) (v : Lane) : (s.setLane k v).pub = s.pub := rfl
@[simp] theorem State.setLane_pubDomains (k : Nat) (v : Lane) : (s.setLane k v).pubDomains = s.pubDomains := rfl
@[simp] theorem State.setLane_actions (k : Nat) (v : Lane) : (s.setLane k v).actions = s.actions := rfl
@[simp] theorem State.setLane_swaps (k : Nat) (v : Lane) : (s.setLane k v).swaps = s.swaps := rfl
@[simp] theorem State.setLane_periods (k : Nat) (v : Lane) : (s.setLane k v).periods = s.periods := rfl
@[simp] theorem State.setLane_servo (k : Nat) (v : Lane) : (s.setLane k v).servo = s.servo := rfl
@[simp] theorem State.setLane_lanes (k : Nat) (v : Lane) : (s.setLane k v).lanes = tabSet s.lanes k v := rfl
@[simp] theorem State.setLane_xseq (k : Nat) (v : Lane) : (s.setLane k v).xseq = s.xseq := rfl
@[simp] theorem State.setLane_xlanes (k : Nat) (v : Lane) : (s.setLane k v).xlanes = s.xlanes := rfl
@[simp] theorem State.setLane_shoals (k : Nat) (v : Lane) : (s.setLane k v).shoals = s.shoals := rfl
@[simp] theorem State.setLane_tiles (k : Nat) (v : Lane) : (s.setLane k v).tiles = s.tiles := rfl
@[simp] theorem State.setLane_lines (k : Nat) (v : Lane) : (s.setLane k v).lines = s.lines := rfl
@[simp] theorem State.setLane_remaps (k : Nat) (v : Lane) : (s.setLane k v).remaps = s.remaps := rfl
@[simp] theorem State.setLane_planes (k : Nat) (v : Lane) : (s.setLane k v).planes = s.planes := rfl
@[simp] theorem State.setLane_quenches (k : Nat) (v : Lane) : (s.setLane k v).quenches = s.quenches := rfl
@[simp] theorem State.setLane_tanks (k : Nat) (v : Lane) : (s.setLane k v).tanks = s.tanks := rfl
@[simp] theorem State.setLane_harbours (k : Nat) (v : Lane) : (s.setLane k v).harbours = s.harbours := rfl
@[simp] theorem State.setLane_mem (k : Nat) (v : Lane) : (s.setLane k v).mem = s.mem := rfl
@[simp] theorem State.setLane_poison (k : Nat) (v : Lane) : (s.setLane k v).poison = s.poison := rfl
@[simp] theorem State.setLane_patch (k : Nat) (v : Lane) : (s.setLane k v).patch = s.patch := rfl
@[simp] theorem State.setLane_images (k : Nat) (v : Lane) : (s.setLane k v).images = s.images := rfl
@[simp] theorem State.setLane_links (k : Nat) (v : Lane) : (s.setLane k v).links = s.links := rfl
@[simp] theorem State.setLane_silush (k : Nat) (v : Lane) : (s.setLane k v).silush = s.silush := rfl
@[simp] theorem State.setLane_faults (k : Nat) (v : Lane) : (s.setLane k v).faults = s.faults := rfl
@[simp] theorem State.setLane_power (k : Nat) (v : Lane) : (s.setLane k v).power = s.power := rfl
@[simp] theorem State.setLane_outbox (k : Nat) (v : Lane) : (s.setLane k v).outbox = s.outbox := rfl
@[simp] theorem State.setLane_free (k : Nat) (v : Lane) : (s.setLane k v).free = s.free := rfl

@[simp] theorem State.setXlane_pending (k : Nat) (v : XLane) : (s.setXlane k v).pending = s.pending := rfl
@[simp] theorem State.setXlane_clocks (k : Nat) (v : XLane) : (s.setXlane k v).clocks = s.clocks := rfl
@[simp] theorem State.setXlane_beat (k : Nat) (v : XLane) : (s.setXlane k v).beat = s.beat := rfl
@[simp] theorem State.setXlane_run (k : Nat) (v : XLane) : (s.setXlane k v).run = s.run := rfl
@[simp] theorem State.setXlane_act (k : Nat) (v : XLane) : (s.setXlane k v).act = s.act := rfl
@[simp] theorem State.setXlane_carrier (k : Nat) (v : XLane) : (s.setXlane k v).carrier = s.carrier := rfl
@[simp] theorem State.setXlane_flash (k : Nat) (v : XLane) : (s.setXlane k v).flash = s.flash := rfl
@[simp] theorem State.setXlane_regs (k : Nat) (v : XLane) : (s.setXlane k v).regs = s.regs := rfl
@[simp] theorem State.setXlane_domains (k : Nat) (v : XLane) : (s.setXlane k v).domains = s.domains := rfl
@[simp] theorem State.setXlane_pub (k : Nat) (v : XLane) : (s.setXlane k v).pub = s.pub := rfl
@[simp] theorem State.setXlane_pubDomains (k : Nat) (v : XLane) : (s.setXlane k v).pubDomains = s.pubDomains := rfl
@[simp] theorem State.setXlane_actions (k : Nat) (v : XLane) : (s.setXlane k v).actions = s.actions := rfl
@[simp] theorem State.setXlane_swaps (k : Nat) (v : XLane) : (s.setXlane k v).swaps = s.swaps := rfl
@[simp] theorem State.setXlane_periods (k : Nat) (v : XLane) : (s.setXlane k v).periods = s.periods := rfl
@[simp] theorem State.setXlane_servo (k : Nat) (v : XLane) : (s.setXlane k v).servo = s.servo := rfl
@[simp] theorem State.setXlane_lanes (k : Nat) (v : XLane) : (s.setXlane k v).lanes = s.lanes := rfl
@[simp] theorem State.setXlane_xseq (k : Nat) (v : XLane) : (s.setXlane k v).xseq = s.xseq := rfl
@[simp] theorem State.setXlane_xlanes (k : Nat) (v : XLane) : (s.setXlane k v).xlanes = tabSet s.xlanes k v := rfl
@[simp] theorem State.setXlane_shoals (k : Nat) (v : XLane) : (s.setXlane k v).shoals = s.shoals := rfl
@[simp] theorem State.setXlane_tiles (k : Nat) (v : XLane) : (s.setXlane k v).tiles = s.tiles := rfl
@[simp] theorem State.setXlane_lines (k : Nat) (v : XLane) : (s.setXlane k v).lines = s.lines := rfl
@[simp] theorem State.setXlane_remaps (k : Nat) (v : XLane) : (s.setXlane k v).remaps = s.remaps := rfl
@[simp] theorem State.setXlane_planes (k : Nat) (v : XLane) : (s.setXlane k v).planes = s.planes := rfl
@[simp] theorem State.setXlane_quenches (k : Nat) (v : XLane) : (s.setXlane k v).quenches = s.quenches := rfl
@[simp] theorem State.setXlane_tanks (k : Nat) (v : XLane) : (s.setXlane k v).tanks = s.tanks := rfl
@[simp] theorem State.setXlane_harbours (k : Nat) (v : XLane) : (s.setXlane k v).harbours = s.harbours := rfl
@[simp] theorem State.setXlane_mem (k : Nat) (v : XLane) : (s.setXlane k v).mem = s.mem := rfl
@[simp] theorem State.setXlane_poison (k : Nat) (v : XLane) : (s.setXlane k v).poison = s.poison := rfl
@[simp] theorem State.setXlane_patch (k : Nat) (v : XLane) : (s.setXlane k v).patch = s.patch := rfl
@[simp] theorem State.setXlane_images (k : Nat) (v : XLane) : (s.setXlane k v).images = s.images := rfl
@[simp] theorem State.setXlane_links (k : Nat) (v : XLane) : (s.setXlane k v).links = s.links := rfl
@[simp] theorem State.setXlane_silush (k : Nat) (v : XLane) : (s.setXlane k v).silush = s.silush := rfl
@[simp] theorem State.setXlane_faults (k : Nat) (v : XLane) : (s.setXlane k v).faults = s.faults := rfl
@[simp] theorem State.setXlane_power (k : Nat) (v : XLane) : (s.setXlane k v).power = s.power := rfl
@[simp] theorem State.setXlane_outbox (k : Nat) (v : XLane) : (s.setXlane k v).outbox = s.outbox := rfl
@[simp] theorem State.setXlane_free (k : Nat) (v : XLane) : (s.setXlane k v).free = s.free := rfl

@[simp] theorem State.setShoal_pending (k : Nat) (v : Shoal) : (s.setShoal k v).pending = s.pending := rfl
@[simp] theorem State.setShoal_clocks (k : Nat) (v : Shoal) : (s.setShoal k v).clocks = s.clocks := rfl
@[simp] theorem State.setShoal_beat (k : Nat) (v : Shoal) : (s.setShoal k v).beat = s.beat := rfl
@[simp] theorem State.setShoal_run (k : Nat) (v : Shoal) : (s.setShoal k v).run = s.run := rfl
@[simp] theorem State.setShoal_act (k : Nat) (v : Shoal) : (s.setShoal k v).act = s.act := rfl
@[simp] theorem State.setShoal_carrier (k : Nat) (v : Shoal) : (s.setShoal k v).carrier = s.carrier := rfl
@[simp] theorem State.setShoal_flash (k : Nat) (v : Shoal) : (s.setShoal k v).flash = s.flash := rfl
@[simp] theorem State.setShoal_regs (k : Nat) (v : Shoal) : (s.setShoal k v).regs = s.regs := rfl
@[simp] theorem State.setShoal_domains (k : Nat) (v : Shoal) : (s.setShoal k v).domains = s.domains := rfl
@[simp] theorem State.setShoal_pub (k : Nat) (v : Shoal) : (s.setShoal k v).pub = s.pub := rfl
@[simp] theorem State.setShoal_pubDomains (k : Nat) (v : Shoal) : (s.setShoal k v).pubDomains = s.pubDomains := rfl
@[simp] theorem State.setShoal_actions (k : Nat) (v : Shoal) : (s.setShoal k v).actions = s.actions := rfl
@[simp] theorem State.setShoal_swaps (k : Nat) (v : Shoal) : (s.setShoal k v).swaps = s.swaps := rfl
@[simp] theorem State.setShoal_periods (k : Nat) (v : Shoal) : (s.setShoal k v).periods = s.periods := rfl
@[simp] theorem State.setShoal_servo (k : Nat) (v : Shoal) : (s.setShoal k v).servo = s.servo := rfl
@[simp] theorem State.setShoal_lanes (k : Nat) (v : Shoal) : (s.setShoal k v).lanes = s.lanes := rfl
@[simp] theorem State.setShoal_xseq (k : Nat) (v : Shoal) : (s.setShoal k v).xseq = s.xseq := rfl
@[simp] theorem State.setShoal_xlanes (k : Nat) (v : Shoal) : (s.setShoal k v).xlanes = s.xlanes := rfl
@[simp] theorem State.setShoal_shoals (k : Nat) (v : Shoal) : (s.setShoal k v).shoals = tabSet s.shoals k v := rfl
@[simp] theorem State.setShoal_tiles (k : Nat) (v : Shoal) : (s.setShoal k v).tiles = s.tiles := rfl
@[simp] theorem State.setShoal_lines (k : Nat) (v : Shoal) : (s.setShoal k v).lines = s.lines := rfl
@[simp] theorem State.setShoal_remaps (k : Nat) (v : Shoal) : (s.setShoal k v).remaps = s.remaps := rfl
@[simp] theorem State.setShoal_planes (k : Nat) (v : Shoal) : (s.setShoal k v).planes = s.planes := rfl
@[simp] theorem State.setShoal_quenches (k : Nat) (v : Shoal) : (s.setShoal k v).quenches = s.quenches := rfl
@[simp] theorem State.setShoal_tanks (k : Nat) (v : Shoal) : (s.setShoal k v).tanks = s.tanks := rfl
@[simp] theorem State.setShoal_harbours (k : Nat) (v : Shoal) : (s.setShoal k v).harbours = s.harbours := rfl
@[simp] theorem State.setShoal_mem (k : Nat) (v : Shoal) : (s.setShoal k v).mem = s.mem := rfl
@[simp] theorem State.setShoal_poison (k : Nat) (v : Shoal) : (s.setShoal k v).poison = s.poison := rfl
@[simp] theorem State.setShoal_patch (k : Nat) (v : Shoal) : (s.setShoal k v).patch = s.patch := rfl
@[simp] theorem State.setShoal_images (k : Nat) (v : Shoal) : (s.setShoal k v).images = s.images := rfl
@[simp] theorem State.setShoal_links (k : Nat) (v : Shoal) : (s.setShoal k v).links = s.links := rfl
@[simp] theorem State.setShoal_silush (k : Nat) (v : Shoal) : (s.setShoal k v).silush = s.silush := rfl
@[simp] theorem State.setShoal_faults (k : Nat) (v : Shoal) : (s.setShoal k v).faults = s.faults := rfl
@[simp] theorem State.setShoal_power (k : Nat) (v : Shoal) : (s.setShoal k v).power = s.power := rfl
@[simp] theorem State.setShoal_outbox (k : Nat) (v : Shoal) : (s.setShoal k v).outbox = s.outbox := rfl
@[simp] theorem State.setShoal_free (k : Nat) (v : Shoal) : (s.setShoal k v).free = s.free := rfl

@[simp] theorem State.setPlane_pending (f : Nat) (q : Bool) (v : Plane) : (s.setPlane f q v).pending = s.pending := rfl
@[simp] theorem State.setPlane_clocks (f : Nat) (q : Bool) (v : Plane) : (s.setPlane f q v).clocks = s.clocks := rfl
@[simp] theorem State.setPlane_beat (f : Nat) (q : Bool) (v : Plane) : (s.setPlane f q v).beat = s.beat := rfl
@[simp] theorem State.setPlane_run (f : Nat) (q : Bool) (v : Plane) : (s.setPlane f q v).run = s.run := rfl
@[simp] theorem State.setPlane_act (f : Nat) (q : Bool) (v : Plane) : (s.setPlane f q v).act = s.act := rfl
@[simp] theorem State.setPlane_carrier (f : Nat) (q : Bool) (v : Plane) : (s.setPlane f q v).carrier = s.carrier := rfl
@[simp] theorem State.setPlane_flash (f : Nat) (q : Bool) (v : Plane) : (s.setPlane f q v).flash = s.flash := rfl
@[simp] theorem State.setPlane_regs (f : Nat) (q : Bool) (v : Plane) : (s.setPlane f q v).regs = s.regs := rfl
@[simp] theorem State.setPlane_domains (f : Nat) (q : Bool) (v : Plane) : (s.setPlane f q v).domains = s.domains := rfl
@[simp] theorem State.setPlane_pub (f : Nat) (q : Bool) (v : Plane) : (s.setPlane f q v).pub = s.pub := rfl
@[simp] theorem State.setPlane_pubDomains (f : Nat) (q : Bool) (v : Plane) : (s.setPlane f q v).pubDomains = s.pubDomains := rfl
@[simp] theorem State.setPlane_actions (f : Nat) (q : Bool) (v : Plane) : (s.setPlane f q v).actions = s.actions := rfl
@[simp] theorem State.setPlane_swaps (f : Nat) (q : Bool) (v : Plane) : (s.setPlane f q v).swaps = s.swaps := rfl
@[simp] theorem State.setPlane_periods (f : Nat) (q : Bool) (v : Plane) : (s.setPlane f q v).periods = s.periods := rfl
@[simp] theorem State.setPlane_servo (f : Nat) (q : Bool) (v : Plane) : (s.setPlane f q v).servo = s.servo := rfl
@[simp] theorem State.setPlane_lanes (f : Nat) (q : Bool) (v : Plane) : (s.setPlane f q v).lanes = s.lanes := rfl
@[simp] theorem State.setPlane_xseq (f : Nat) (q : Bool) (v : Plane) : (s.setPlane f q v).xseq = s.xseq := rfl
@[simp] theorem State.setPlane_xlanes (f : Nat) (q : Bool) (v : Plane) : (s.setPlane f q v).xlanes = s.xlanes := rfl
@[simp] theorem State.setPlane_shoals (f : Nat) (q : Bool) (v : Plane) : (s.setPlane f q v).shoals = s.shoals := rfl
@[simp] theorem State.setPlane_tiles (f : Nat) (q : Bool) (v : Plane) : (s.setPlane f q v).tiles = s.tiles := rfl
@[simp] theorem State.setPlane_lines (f : Nat) (q : Bool) (v : Plane) : (s.setPlane f q v).lines = s.lines := rfl
@[simp] theorem State.setPlane_remaps (f : Nat) (q : Bool) (v : Plane) : (s.setPlane f q v).remaps = s.remaps := rfl
@[simp] theorem State.setPlane_planes (f : Nat) (q : Bool) (v : Plane) : (s.setPlane f q v).planes = tabSet s.planes (planeKey f q) v := rfl
@[simp] theorem State.setPlane_quenches (f : Nat) (q : Bool) (v : Plane) : (s.setPlane f q v).quenches = s.quenches := rfl
@[simp] theorem State.setPlane_tanks (f : Nat) (q : Bool) (v : Plane) : (s.setPlane f q v).tanks = s.tanks := rfl
@[simp] theorem State.setPlane_harbours (f : Nat) (q : Bool) (v : Plane) : (s.setPlane f q v).harbours = s.harbours := rfl
@[simp] theorem State.setPlane_mem (f : Nat) (q : Bool) (v : Plane) : (s.setPlane f q v).mem = s.mem := rfl
@[simp] theorem State.setPlane_poison (f : Nat) (q : Bool) (v : Plane) : (s.setPlane f q v).poison = s.poison := rfl
@[simp] theorem State.setPlane_patch (f : Nat) (q : Bool) (v : Plane) : (s.setPlane f q v).patch = s.patch := rfl
@[simp] theorem State.setPlane_images (f : Nat) (q : Bool) (v : Plane) : (s.setPlane f q v).images = s.images := rfl
@[simp] theorem State.setPlane_links (f : Nat) (q : Bool) (v : Plane) : (s.setPlane f q v).links = s.links := rfl
@[simp] theorem State.setPlane_silush (f : Nat) (q : Bool) (v : Plane) : (s.setPlane f q v).silush = s.silush := rfl
@[simp] theorem State.setPlane_faults (f : Nat) (q : Bool) (v : Plane) : (s.setPlane f q v).faults = s.faults := rfl
@[simp] theorem State.setPlane_power (f : Nat) (q : Bool) (v : Plane) : (s.setPlane f q v).power = s.power := rfl
@[simp] theorem State.setPlane_outbox (f : Nat) (q : Bool) (v : Plane) : (s.setPlane f q v).outbox = s.outbox := rfl
@[simp] theorem State.setPlane_free (f : Nat) (q : Bool) (v : Plane) : (s.setPlane f q v).free = s.free := rfl

@[simp] theorem State.setQuench_pending (f : Nat) (v : Quench) : (s.setQuench f v).pending = s.pending := rfl
@[simp] theorem State.setQuench_clocks (f : Nat) (v : Quench) : (s.setQuench f v).clocks = s.clocks := rfl
@[simp] theorem State.setQuench_beat (f : Nat) (v : Quench) : (s.setQuench f v).beat = s.beat := rfl
@[simp] theorem State.setQuench_run (f : Nat) (v : Quench) : (s.setQuench f v).run = s.run := rfl
@[simp] theorem State.setQuench_act (f : Nat) (v : Quench) : (s.setQuench f v).act = s.act := rfl
@[simp] theorem State.setQuench_carrier (f : Nat) (v : Quench) : (s.setQuench f v).carrier = s.carrier := rfl
@[simp] theorem State.setQuench_flash (f : Nat) (v : Quench) : (s.setQuench f v).flash = s.flash := rfl
@[simp] theorem State.setQuench_regs (f : Nat) (v : Quench) : (s.setQuench f v).regs = s.regs := rfl
@[simp] theorem State.setQuench_domains (f : Nat) (v : Quench) : (s.setQuench f v).domains = s.domains := rfl
@[simp] theorem State.setQuench_pub (f : Nat) (v : Quench) : (s.setQuench f v).pub = s.pub := rfl
@[simp] theorem State.setQuench_pubDomains (f : Nat) (v : Quench) : (s.setQuench f v).pubDomains = s.pubDomains := rfl
@[simp] theorem State.setQuench_actions (f : Nat) (v : Quench) : (s.setQuench f v).actions = s.actions := rfl
@[simp] theorem State.setQuench_swaps (f : Nat) (v : Quench) : (s.setQuench f v).swaps = s.swaps := rfl
@[simp] theorem State.setQuench_periods (f : Nat) (v : Quench) : (s.setQuench f v).periods = s.periods := rfl
@[simp] theorem State.setQuench_servo (f : Nat) (v : Quench) : (s.setQuench f v).servo = s.servo := rfl
@[simp] theorem State.setQuench_lanes (f : Nat) (v : Quench) : (s.setQuench f v).lanes = s.lanes := rfl
@[simp] theorem State.setQuench_xseq (f : Nat) (v : Quench) : (s.setQuench f v).xseq = s.xseq := rfl
@[simp] theorem State.setQuench_xlanes (f : Nat) (v : Quench) : (s.setQuench f v).xlanes = s.xlanes := rfl
@[simp] theorem State.setQuench_shoals (f : Nat) (v : Quench) : (s.setQuench f v).shoals = s.shoals := rfl
@[simp] theorem State.setQuench_tiles (f : Nat) (v : Quench) : (s.setQuench f v).tiles = s.tiles := rfl
@[simp] theorem State.setQuench_lines (f : Nat) (v : Quench) : (s.setQuench f v).lines = s.lines := rfl
@[simp] theorem State.setQuench_remaps (f : Nat) (v : Quench) : (s.setQuench f v).remaps = s.remaps := rfl
@[simp] theorem State.setQuench_planes (f : Nat) (v : Quench) : (s.setQuench f v).planes = s.planes := rfl
@[simp] theorem State.setQuench_quenches (f : Nat) (v : Quench) : (s.setQuench f v).quenches = tabSet s.quenches f v := rfl
@[simp] theorem State.setQuench_tanks (f : Nat) (v : Quench) : (s.setQuench f v).tanks = s.tanks := rfl
@[simp] theorem State.setQuench_harbours (f : Nat) (v : Quench) : (s.setQuench f v).harbours = s.harbours := rfl
@[simp] theorem State.setQuench_mem (f : Nat) (v : Quench) : (s.setQuench f v).mem = s.mem := rfl
@[simp] theorem State.setQuench_poison (f : Nat) (v : Quench) : (s.setQuench f v).poison = s.poison := rfl
@[simp] theorem State.setQuench_patch (f : Nat) (v : Quench) : (s.setQuench f v).patch = s.patch := rfl
@[simp] theorem State.setQuench_images (f : Nat) (v : Quench) : (s.setQuench f v).images = s.images := rfl
@[simp] theorem State.setQuench_links (f : Nat) (v : Quench) : (s.setQuench f v).links = s.links := rfl
@[simp] theorem State.setQuench_silush (f : Nat) (v : Quench) : (s.setQuench f v).silush = s.silush := rfl
@[simp] theorem State.setQuench_faults (f : Nat) (v : Quench) : (s.setQuench f v).faults = s.faults := rfl
@[simp] theorem State.setQuench_power (f : Nat) (v : Quench) : (s.setQuench f v).power = s.power := rfl
@[simp] theorem State.setQuench_outbox (f : Nat) (v : Quench) : (s.setQuench f v).outbox = s.outbox := rfl
@[simp] theorem State.setQuench_free (f : Nat) (v : Quench) : (s.setQuench f v).free = s.free := rfl

@[simp] theorem State.setTank_pending (h : Nat) (v : Tank) : (s.setTank h v).pending = s.pending := rfl
@[simp] theorem State.setTank_clocks (h : Nat) (v : Tank) : (s.setTank h v).clocks = s.clocks := rfl
@[simp] theorem State.setTank_beat (h : Nat) (v : Tank) : (s.setTank h v).beat = s.beat := rfl
@[simp] theorem State.setTank_run (h : Nat) (v : Tank) : (s.setTank h v).run = s.run := rfl
@[simp] theorem State.setTank_act (h : Nat) (v : Tank) : (s.setTank h v).act = s.act := rfl
@[simp] theorem State.setTank_carrier (h : Nat) (v : Tank) : (s.setTank h v).carrier = s.carrier := rfl
@[simp] theorem State.setTank_flash (h : Nat) (v : Tank) : (s.setTank h v).flash = s.flash := rfl
@[simp] theorem State.setTank_regs (h : Nat) (v : Tank) : (s.setTank h v).regs = s.regs := rfl
@[simp] theorem State.setTank_domains (h : Nat) (v : Tank) : (s.setTank h v).domains = s.domains := rfl
@[simp] theorem State.setTank_pub (h : Nat) (v : Tank) : (s.setTank h v).pub = s.pub := rfl
@[simp] theorem State.setTank_pubDomains (h : Nat) (v : Tank) : (s.setTank h v).pubDomains = s.pubDomains := rfl
@[simp] theorem State.setTank_actions (h : Nat) (v : Tank) : (s.setTank h v).actions = s.actions := rfl
@[simp] theorem State.setTank_swaps (h : Nat) (v : Tank) : (s.setTank h v).swaps = s.swaps := rfl
@[simp] theorem State.setTank_periods (h : Nat) (v : Tank) : (s.setTank h v).periods = s.periods := rfl
@[simp] theorem State.setTank_servo (h : Nat) (v : Tank) : (s.setTank h v).servo = s.servo := rfl
@[simp] theorem State.setTank_lanes (h : Nat) (v : Tank) : (s.setTank h v).lanes = s.lanes := rfl
@[simp] theorem State.setTank_xseq (h : Nat) (v : Tank) : (s.setTank h v).xseq = s.xseq := rfl
@[simp] theorem State.setTank_xlanes (h : Nat) (v : Tank) : (s.setTank h v).xlanes = s.xlanes := rfl
@[simp] theorem State.setTank_shoals (h : Nat) (v : Tank) : (s.setTank h v).shoals = s.shoals := rfl
@[simp] theorem State.setTank_tiles (h : Nat) (v : Tank) : (s.setTank h v).tiles = s.tiles := rfl
@[simp] theorem State.setTank_lines (h : Nat) (v : Tank) : (s.setTank h v).lines = s.lines := rfl
@[simp] theorem State.setTank_remaps (h : Nat) (v : Tank) : (s.setTank h v).remaps = s.remaps := rfl
@[simp] theorem State.setTank_planes (h : Nat) (v : Tank) : (s.setTank h v).planes = s.planes := rfl
@[simp] theorem State.setTank_quenches (h : Nat) (v : Tank) : (s.setTank h v).quenches = s.quenches := rfl
@[simp] theorem State.setTank_tanks (h : Nat) (v : Tank) : (s.setTank h v).tanks = tabSet s.tanks h v := rfl
@[simp] theorem State.setTank_harbours (h : Nat) (v : Tank) : (s.setTank h v).harbours = s.harbours := rfl
@[simp] theorem State.setTank_mem (h : Nat) (v : Tank) : (s.setTank h v).mem = s.mem := rfl
@[simp] theorem State.setTank_poison (h : Nat) (v : Tank) : (s.setTank h v).poison = s.poison := rfl
@[simp] theorem State.setTank_patch (h : Nat) (v : Tank) : (s.setTank h v).patch = s.patch := rfl
@[simp] theorem State.setTank_images (h : Nat) (v : Tank) : (s.setTank h v).images = s.images := rfl
@[simp] theorem State.setTank_links (h : Nat) (v : Tank) : (s.setTank h v).links = s.links := rfl
@[simp] theorem State.setTank_silush (h : Nat) (v : Tank) : (s.setTank h v).silush = s.silush := rfl
@[simp] theorem State.setTank_faults (h : Nat) (v : Tank) : (s.setTank h v).faults = s.faults := rfl
@[simp] theorem State.setTank_power (h : Nat) (v : Tank) : (s.setTank h v).power = s.power := rfl
@[simp] theorem State.setTank_outbox (h : Nat) (v : Tank) : (s.setTank h v).outbox = s.outbox := rfl
@[simp] theorem State.setTank_free (h : Nat) (v : Tank) : (s.setTank h v).free = s.free := rfl

@[simp] theorem State.setHarbour_pending (h : Nat) (v : Harbour) : (s.setHarbour h v).pending = s.pending := rfl
@[simp] theorem State.setHarbour_clocks (h : Nat) (v : Harbour) : (s.setHarbour h v).clocks = s.clocks := rfl
@[simp] theorem State.setHarbour_beat (h : Nat) (v : Harbour) : (s.setHarbour h v).beat = s.beat := rfl
@[simp] theorem State.setHarbour_run (h : Nat) (v : Harbour) : (s.setHarbour h v).run = s.run := rfl
@[simp] theorem State.setHarbour_act (h : Nat) (v : Harbour) : (s.setHarbour h v).act = s.act := rfl
@[simp] theorem State.setHarbour_carrier (h : Nat) (v : Harbour) : (s.setHarbour h v).carrier = s.carrier := rfl
@[simp] theorem State.setHarbour_flash (h : Nat) (v : Harbour) : (s.setHarbour h v).flash = s.flash := rfl
@[simp] theorem State.setHarbour_regs (h : Nat) (v : Harbour) : (s.setHarbour h v).regs = s.regs := rfl
@[simp] theorem State.setHarbour_domains (h : Nat) (v : Harbour) : (s.setHarbour h v).domains = s.domains := rfl
@[simp] theorem State.setHarbour_pub (h : Nat) (v : Harbour) : (s.setHarbour h v).pub = s.pub := rfl
@[simp] theorem State.setHarbour_pubDomains (h : Nat) (v : Harbour) : (s.setHarbour h v).pubDomains = s.pubDomains := rfl
@[simp] theorem State.setHarbour_actions (h : Nat) (v : Harbour) : (s.setHarbour h v).actions = s.actions := rfl
@[simp] theorem State.setHarbour_swaps (h : Nat) (v : Harbour) : (s.setHarbour h v).swaps = s.swaps := rfl
@[simp] theorem State.setHarbour_periods (h : Nat) (v : Harbour) : (s.setHarbour h v).periods = s.periods := rfl
@[simp] theorem State.setHarbour_servo (h : Nat) (v : Harbour) : (s.setHarbour h v).servo = s.servo := rfl
@[simp] theorem State.setHarbour_lanes (h : Nat) (v : Harbour) : (s.setHarbour h v).lanes = s.lanes := rfl
@[simp] theorem State.setHarbour_xseq (h : Nat) (v : Harbour) : (s.setHarbour h v).xseq = s.xseq := rfl
@[simp] theorem State.setHarbour_xlanes (h : Nat) (v : Harbour) : (s.setHarbour h v).xlanes = s.xlanes := rfl
@[simp] theorem State.setHarbour_shoals (h : Nat) (v : Harbour) : (s.setHarbour h v).shoals = s.shoals := rfl
@[simp] theorem State.setHarbour_tiles (h : Nat) (v : Harbour) : (s.setHarbour h v).tiles = s.tiles := rfl
@[simp] theorem State.setHarbour_lines (h : Nat) (v : Harbour) : (s.setHarbour h v).lines = s.lines := rfl
@[simp] theorem State.setHarbour_remaps (h : Nat) (v : Harbour) : (s.setHarbour h v).remaps = s.remaps := rfl
@[simp] theorem State.setHarbour_planes (h : Nat) (v : Harbour) : (s.setHarbour h v).planes = s.planes := rfl
@[simp] theorem State.setHarbour_quenches (h : Nat) (v : Harbour) : (s.setHarbour h v).quenches = s.quenches := rfl
@[simp] theorem State.setHarbour_tanks (h : Nat) (v : Harbour) : (s.setHarbour h v).tanks = s.tanks := rfl
@[simp] theorem State.setHarbour_harbours (h : Nat) (v : Harbour) : (s.setHarbour h v).harbours = tabSet s.harbours h v := rfl
@[simp] theorem State.setHarbour_mem (h : Nat) (v : Harbour) : (s.setHarbour h v).mem = s.mem := rfl
@[simp] theorem State.setHarbour_poison (h : Nat) (v : Harbour) : (s.setHarbour h v).poison = s.poison := rfl
@[simp] theorem State.setHarbour_patch (h : Nat) (v : Harbour) : (s.setHarbour h v).patch = s.patch := rfl
@[simp] theorem State.setHarbour_images (h : Nat) (v : Harbour) : (s.setHarbour h v).images = s.images := rfl
@[simp] theorem State.setHarbour_links (h : Nat) (v : Harbour) : (s.setHarbour h v).links = s.links := rfl
@[simp] theorem State.setHarbour_silush (h : Nat) (v : Harbour) : (s.setHarbour h v).silush = s.silush := rfl
@[simp] theorem State.setHarbour_faults (h : Nat) (v : Harbour) : (s.setHarbour h v).faults = s.faults := rfl
@[simp] theorem State.setHarbour_power (h : Nat) (v : Harbour) : (s.setHarbour h v).power = s.power := rfl
@[simp] theorem State.setHarbour_outbox (h : Nat) (v : Harbour) : (s.setHarbour h v).outbox = s.outbox := rfl
@[simp] theorem State.setHarbour_free (h : Nat) (v : Harbour) : (s.setHarbour h v).free = s.free := rfl

@[simp] theorem State.store_pending (a : Nat) (bs : List Byte) : (s.store a bs).pending = s.pending := rfl
@[simp] theorem State.store_clocks (a : Nat) (bs : List Byte) : (s.store a bs).clocks = s.clocks := rfl
@[simp] theorem State.store_beat (a : Nat) (bs : List Byte) : (s.store a bs).beat = s.beat := rfl
@[simp] theorem State.store_run (a : Nat) (bs : List Byte) : (s.store a bs).run = s.run := rfl
@[simp] theorem State.store_act (a : Nat) (bs : List Byte) : (s.store a bs).act = s.act := rfl
@[simp] theorem State.store_carrier (a : Nat) (bs : List Byte) : (s.store a bs).carrier = s.carrier := rfl
@[simp] theorem State.store_flash (a : Nat) (bs : List Byte) : (s.store a bs).flash = s.flash := rfl
@[simp] theorem State.store_regs (a : Nat) (bs : List Byte) : (s.store a bs).regs = s.regs := rfl
@[simp] theorem State.store_domains (a : Nat) (bs : List Byte) : (s.store a bs).domains = s.domains := rfl
@[simp] theorem State.store_pub (a : Nat) (bs : List Byte) : (s.store a bs).pub = s.pub := rfl
@[simp] theorem State.store_pubDomains (a : Nat) (bs : List Byte) : (s.store a bs).pubDomains = s.pubDomains := rfl
@[simp] theorem State.store_actions (a : Nat) (bs : List Byte) : (s.store a bs).actions = s.actions := rfl
@[simp] theorem State.store_swaps (a : Nat) (bs : List Byte) : (s.store a bs).swaps = s.swaps := rfl
@[simp] theorem State.store_periods (a : Nat) (bs : List Byte) : (s.store a bs).periods = s.periods := rfl
@[simp] theorem State.store_servo (a : Nat) (bs : List Byte) : (s.store a bs).servo = s.servo := rfl
@[simp] theorem State.store_lanes (a : Nat) (bs : List Byte) : (s.store a bs).lanes = s.lanes := rfl
@[simp] theorem State.store_xseq (a : Nat) (bs : List Byte) : (s.store a bs).xseq = s.xseq := rfl
@[simp] theorem State.store_xlanes (a : Nat) (bs : List Byte) : (s.store a bs).xlanes = s.xlanes := rfl
@[simp] theorem State.store_shoals (a : Nat) (bs : List Byte) : (s.store a bs).shoals = s.shoals := rfl
@[simp] theorem State.store_tiles (a : Nat) (bs : List Byte) : (s.store a bs).tiles = s.tiles := rfl
@[simp] theorem State.store_lines (a : Nat) (bs : List Byte) : (s.store a bs).lines = s.lines := rfl
@[simp] theorem State.store_remaps (a : Nat) (bs : List Byte) : (s.store a bs).remaps = s.remaps := rfl
@[simp] theorem State.store_planes (a : Nat) (bs : List Byte) : (s.store a bs).planes = s.planes := rfl
@[simp] theorem State.store_quenches (a : Nat) (bs : List Byte) : (s.store a bs).quenches = s.quenches := rfl
@[simp] theorem State.store_tanks (a : Nat) (bs : List Byte) : (s.store a bs).tanks = s.tanks := rfl
@[simp] theorem State.store_harbours (a : Nat) (bs : List Byte) : (s.store a bs).harbours = s.harbours := rfl
@[simp] theorem State.store_mem (a : Nat) (bs : List Byte) : (s.store a bs).mem = storeWrite s.mem a bs := rfl
@[simp] theorem State.store_poison (a : Nat) (bs : List Byte) : (s.store a bs).poison = s.poison := rfl
@[simp] theorem State.store_patch (a : Nat) (bs : List Byte) : (s.store a bs).patch = s.patch := rfl
@[simp] theorem State.store_images (a : Nat) (bs : List Byte) : (s.store a bs).images = s.images := rfl
@[simp] theorem State.store_links (a : Nat) (bs : List Byte) : (s.store a bs).links = s.links := rfl
@[simp] theorem State.store_silush (a : Nat) (bs : List Byte) : (s.store a bs).silush = s.silush := rfl
@[simp] theorem State.store_faults (a : Nat) (bs : List Byte) : (s.store a bs).faults = s.faults := rfl
@[simp] theorem State.store_power (a : Nat) (bs : List Byte) : (s.store a bs).power = s.power := rfl
@[simp] theorem State.store_outbox (a : Nat) (bs : List Byte) : (s.store a bs).outbox = s.outbox := rfl
@[simp] theorem State.store_free (a : Nat) (bs : List Byte) : (s.store a bs).free = s.free := rfl

@[simp] theorem State.emit_pending (o : Out) : (s.emit o).pending = s.pending := rfl
@[simp] theorem State.emit_clocks (o : Out) : (s.emit o).clocks = s.clocks := rfl
@[simp] theorem State.emit_beat (o : Out) : (s.emit o).beat = s.beat := rfl
@[simp] theorem State.emit_run (o : Out) : (s.emit o).run = s.run := rfl
@[simp] theorem State.emit_act (o : Out) : (s.emit o).act = s.act := rfl
@[simp] theorem State.emit_carrier (o : Out) : (s.emit o).carrier = s.carrier := rfl
@[simp] theorem State.emit_flash (o : Out) : (s.emit o).flash = s.flash := rfl
@[simp] theorem State.emit_regs (o : Out) : (s.emit o).regs = s.regs := rfl
@[simp] theorem State.emit_domains (o : Out) : (s.emit o).domains = s.domains := rfl
@[simp] theorem State.emit_pub (o : Out) : (s.emit o).pub = s.pub := rfl
@[simp] theorem State.emit_pubDomains (o : Out) : (s.emit o).pubDomains = s.pubDomains := rfl
@[simp] theorem State.emit_actions (o : Out) : (s.emit o).actions = s.actions := rfl
@[simp] theorem State.emit_swaps (o : Out) : (s.emit o).swaps = s.swaps := rfl
@[simp] theorem State.emit_periods (o : Out) : (s.emit o).periods = s.periods := rfl
@[simp] theorem State.emit_servo (o : Out) : (s.emit o).servo = s.servo := rfl
@[simp] theorem State.emit_lanes (o : Out) : (s.emit o).lanes = s.lanes := rfl
@[simp] theorem State.emit_xseq (o : Out) : (s.emit o).xseq = s.xseq := rfl
@[simp] theorem State.emit_xlanes (o : Out) : (s.emit o).xlanes = s.xlanes := rfl
@[simp] theorem State.emit_shoals (o : Out) : (s.emit o).shoals = s.shoals := rfl
@[simp] theorem State.emit_tiles (o : Out) : (s.emit o).tiles = s.tiles := rfl
@[simp] theorem State.emit_lines (o : Out) : (s.emit o).lines = s.lines := rfl
@[simp] theorem State.emit_remaps (o : Out) : (s.emit o).remaps = s.remaps := rfl
@[simp] theorem State.emit_planes (o : Out) : (s.emit o).planes = s.planes := rfl
@[simp] theorem State.emit_quenches (o : Out) : (s.emit o).quenches = s.quenches := rfl
@[simp] theorem State.emit_tanks (o : Out) : (s.emit o).tanks = s.tanks := rfl
@[simp] theorem State.emit_harbours (o : Out) : (s.emit o).harbours = s.harbours := rfl
@[simp] theorem State.emit_mem (o : Out) : (s.emit o).mem = s.mem := rfl
@[simp] theorem State.emit_poison (o : Out) : (s.emit o).poison = s.poison := rfl
@[simp] theorem State.emit_patch (o : Out) : (s.emit o).patch = s.patch := rfl
@[simp] theorem State.emit_images (o : Out) : (s.emit o).images = s.images := rfl
@[simp] theorem State.emit_links (o : Out) : (s.emit o).links = s.links := rfl
@[simp] theorem State.emit_silush (o : Out) : (s.emit o).silush = s.silush := rfl
@[simp] theorem State.emit_faults (o : Out) : (s.emit o).faults = s.faults := rfl
@[simp] theorem State.emit_power (o : Out) : (s.emit o).power = s.power := rfl
@[simp] theorem State.emit_outbox (o : Out) : (s.emit o).outbox = o :: s.outbox := rfl
@[simp] theorem State.emit_free (o : Out) : (s.emit o).free = s.free := rfl

@[simp] theorem State.modLinks_pending (g : Links → Links) : (s.modLinks g).pending = s.pending := rfl
@[simp] theorem State.modLinks_clocks (g : Links → Links) : (s.modLinks g).clocks = s.clocks := rfl
@[simp] theorem State.modLinks_beat (g : Links → Links) : (s.modLinks g).beat = s.beat := rfl
@[simp] theorem State.modLinks_run (g : Links → Links) : (s.modLinks g).run = s.run := rfl
@[simp] theorem State.modLinks_act (g : Links → Links) : (s.modLinks g).act = s.act := rfl
@[simp] theorem State.modLinks_carrier (g : Links → Links) : (s.modLinks g).carrier = s.carrier := rfl
@[simp] theorem State.modLinks_flash (g : Links → Links) : (s.modLinks g).flash = s.flash := rfl
@[simp] theorem State.modLinks_regs (g : Links → Links) : (s.modLinks g).regs = s.regs := rfl
@[simp] theorem State.modLinks_domains (g : Links → Links) : (s.modLinks g).domains = s.domains := rfl
@[simp] theorem State.modLinks_pub (g : Links → Links) : (s.modLinks g).pub = s.pub := rfl
@[simp] theorem State.modLinks_pubDomains (g : Links → Links) : (s.modLinks g).pubDomains = s.pubDomains := rfl
@[simp] theorem State.modLinks_actions (g : Links → Links) : (s.modLinks g).actions = s.actions := rfl
@[simp] theorem State.modLinks_swaps (g : Links → Links) : (s.modLinks g).swaps = s.swaps := rfl
@[simp] theorem State.modLinks_periods (g : Links → Links) : (s.modLinks g).periods = s.periods := rfl
@[simp] theorem State.modLinks_servo (g : Links → Links) : (s.modLinks g).servo = s.servo := rfl
@[simp] theorem State.modLinks_lanes (g : Links → Links) : (s.modLinks g).lanes = s.lanes := rfl
@[simp] theorem State.modLinks_xseq (g : Links → Links) : (s.modLinks g).xseq = s.xseq := rfl
@[simp] theorem State.modLinks_xlanes (g : Links → Links) : (s.modLinks g).xlanes = s.xlanes := rfl
@[simp] theorem State.modLinks_shoals (g : Links → Links) : (s.modLinks g).shoals = s.shoals := rfl
@[simp] theorem State.modLinks_tiles (g : Links → Links) : (s.modLinks g).tiles = s.tiles := rfl
@[simp] theorem State.modLinks_lines (g : Links → Links) : (s.modLinks g).lines = s.lines := rfl
@[simp] theorem State.modLinks_remaps (g : Links → Links) : (s.modLinks g).remaps = s.remaps := rfl
@[simp] theorem State.modLinks_planes (g : Links → Links) : (s.modLinks g).planes = s.planes := rfl
@[simp] theorem State.modLinks_quenches (g : Links → Links) : (s.modLinks g).quenches = s.quenches := rfl
@[simp] theorem State.modLinks_tanks (g : Links → Links) : (s.modLinks g).tanks = s.tanks := rfl
@[simp] theorem State.modLinks_harbours (g : Links → Links) : (s.modLinks g).harbours = s.harbours := rfl
@[simp] theorem State.modLinks_mem (g : Links → Links) : (s.modLinks g).mem = s.mem := rfl
@[simp] theorem State.modLinks_poison (g : Links → Links) : (s.modLinks g).poison = s.poison := rfl
@[simp] theorem State.modLinks_patch (g : Links → Links) : (s.modLinks g).patch = s.patch := rfl
@[simp] theorem State.modLinks_images (g : Links → Links) : (s.modLinks g).images = s.images := rfl
@[simp] theorem State.modLinks_links (g : Links → Links) : (s.modLinks g).links = g s.links := rfl
@[simp] theorem State.modLinks_silush (g : Links → Links) : (s.modLinks g).silush = s.silush := rfl
@[simp] theorem State.modLinks_faults (g : Links → Links) : (s.modLinks g).faults = s.faults := rfl
@[simp] theorem State.modLinks_power (g : Links → Links) : (s.modLinks g).power = s.power := rfl
@[simp] theorem State.modLinks_outbox (g : Links → Links) : (s.modLinks g).outbox = s.outbox := rfl
@[simp] theorem State.modLinks_free (g : Links → Links) : (s.modLinks g).free = s.free := rfl

@[simp] theorem State.modSil_pending (g : Silush → Silush) : (s.modSil g).pending = s.pending := rfl
@[simp] theorem State.modSil_clocks (g : Silush → Silush) : (s.modSil g).clocks = s.clocks := rfl
@[simp] theorem State.modSil_beat (g : Silush → Silush) : (s.modSil g).beat = s.beat := rfl
@[simp] theorem State.modSil_run (g : Silush → Silush) : (s.modSil g).run = s.run := rfl
@[simp] theorem State.modSil_act (g : Silush → Silush) : (s.modSil g).act = s.act := rfl
@[simp] theorem State.modSil_carrier (g : Silush → Silush) : (s.modSil g).carrier = s.carrier := rfl
@[simp] theorem State.modSil_flash (g : Silush → Silush) : (s.modSil g).flash = s.flash := rfl
@[simp] theorem State.modSil_regs (g : Silush → Silush) : (s.modSil g).regs = s.regs := rfl
@[simp] theorem State.modSil_domains (g : Silush → Silush) : (s.modSil g).domains = s.domains := rfl
@[simp] theorem State.modSil_pub (g : Silush → Silush) : (s.modSil g).pub = s.pub := rfl
@[simp] theorem State.modSil_pubDomains (g : Silush → Silush) : (s.modSil g).pubDomains = s.pubDomains := rfl
@[simp] theorem State.modSil_actions (g : Silush → Silush) : (s.modSil g).actions = s.actions := rfl
@[simp] theorem State.modSil_swaps (g : Silush → Silush) : (s.modSil g).swaps = s.swaps := rfl
@[simp] theorem State.modSil_periods (g : Silush → Silush) : (s.modSil g).periods = s.periods := rfl
@[simp] theorem State.modSil_servo (g : Silush → Silush) : (s.modSil g).servo = s.servo := rfl
@[simp] theorem State.modSil_lanes (g : Silush → Silush) : (s.modSil g).lanes = s.lanes := rfl
@[simp] theorem State.modSil_xseq (g : Silush → Silush) : (s.modSil g).xseq = s.xseq := rfl
@[simp] theorem State.modSil_xlanes (g : Silush → Silush) : (s.modSil g).xlanes = s.xlanes := rfl
@[simp] theorem State.modSil_shoals (g : Silush → Silush) : (s.modSil g).shoals = s.shoals := rfl
@[simp] theorem State.modSil_tiles (g : Silush → Silush) : (s.modSil g).tiles = s.tiles := rfl
@[simp] theorem State.modSil_lines (g : Silush → Silush) : (s.modSil g).lines = s.lines := rfl
@[simp] theorem State.modSil_remaps (g : Silush → Silush) : (s.modSil g).remaps = s.remaps := rfl
@[simp] theorem State.modSil_planes (g : Silush → Silush) : (s.modSil g).planes = s.planes := rfl
@[simp] theorem State.modSil_quenches (g : Silush → Silush) : (s.modSil g).quenches = s.quenches := rfl
@[simp] theorem State.modSil_tanks (g : Silush → Silush) : (s.modSil g).tanks = s.tanks := rfl
@[simp] theorem State.modSil_harbours (g : Silush → Silush) : (s.modSil g).harbours = s.harbours := rfl
@[simp] theorem State.modSil_mem (g : Silush → Silush) : (s.modSil g).mem = s.mem := rfl
@[simp] theorem State.modSil_poison (g : Silush → Silush) : (s.modSil g).poison = s.poison := rfl
@[simp] theorem State.modSil_patch (g : Silush → Silush) : (s.modSil g).patch = s.patch := rfl
@[simp] theorem State.modSil_images (g : Silush → Silush) : (s.modSil g).images = s.images := rfl
@[simp] theorem State.modSil_links (g : Silush → Silush) : (s.modSil g).links = s.links := rfl
@[simp] theorem State.modSil_silush (g : Silush → Silush) : (s.modSil g).silush = g s.silush := rfl
@[simp] theorem State.modSil_faults (g : Silush → Silush) : (s.modSil g).faults = s.faults := rfl
@[simp] theorem State.modSil_power (g : Silush → Silush) : (s.modSil g).power = s.power := rfl
@[simp] theorem State.modSil_outbox (g : Silush → Silush) : (s.modSil g).outbox = s.outbox := rfl
@[simp] theorem State.modSil_free (g : Silush → Silush) : (s.modSil g).free = s.free := rfl

@[simp] theorem State.setActExtra_pending (k : Nat) (x : ActionExtra) : (s.setActExtra k x).pending = s.pending := rfl
@[simp] theorem State.setActExtra_clocks (k : Nat) (x : ActionExtra) : (s.setActExtra k x).clocks = s.clocks := rfl
@[simp] theorem State.setActExtra_beat (k : Nat) (x : ActionExtra) : (s.setActExtra k x).beat = s.beat := rfl
@[simp] theorem State.setActExtra_run (k : Nat) (x : ActionExtra) : (s.setActExtra k x).run = s.run := rfl
@[simp] theorem State.setActExtra_act (k : Nat) (x : ActionExtra) : (s.setActExtra k x).act = s.act := rfl
@[simp] theorem State.setActExtra_carrier (k : Nat) (x : ActionExtra) : (s.setActExtra k x).carrier = s.carrier := rfl
@[simp] theorem State.setActExtra_flash (k : Nat) (x : ActionExtra) : (s.setActExtra k x).flash = s.flash := rfl
@[simp] theorem State.setActExtra_regs (k : Nat) (x : ActionExtra) : (s.setActExtra k x).regs = s.regs := rfl
@[simp] theorem State.setActExtra_domains (k : Nat) (x : ActionExtra) : (s.setActExtra k x).domains = s.domains := rfl
@[simp] theorem State.setActExtra_pub (k : Nat) (x : ActionExtra) : (s.setActExtra k x).pub = s.pub := rfl
@[simp] theorem State.setActExtra_pubDomains (k : Nat) (x : ActionExtra) : (s.setActExtra k x).pubDomains = s.pubDomains := rfl
@[simp] theorem State.setActExtra_actions (k : Nat) (x : ActionExtra) : (s.setActExtra k x).actions = tabSet s.actions k x := rfl
@[simp] theorem State.setActExtra_swaps (k : Nat) (x : ActionExtra) : (s.setActExtra k x).swaps = s.swaps := rfl
@[simp] theorem State.setActExtra_periods (k : Nat) (x : ActionExtra) : (s.setActExtra k x).periods = s.periods := rfl
@[simp] theorem State.setActExtra_servo (k : Nat) (x : ActionExtra) : (s.setActExtra k x).servo = s.servo := rfl
@[simp] theorem State.setActExtra_lanes (k : Nat) (x : ActionExtra) : (s.setActExtra k x).lanes = s.lanes := rfl
@[simp] theorem State.setActExtra_xseq (k : Nat) (x : ActionExtra) : (s.setActExtra k x).xseq = s.xseq := rfl
@[simp] theorem State.setActExtra_xlanes (k : Nat) (x : ActionExtra) : (s.setActExtra k x).xlanes = s.xlanes := rfl
@[simp] theorem State.setActExtra_shoals (k : Nat) (x : ActionExtra) : (s.setActExtra k x).shoals = s.shoals := rfl
@[simp] theorem State.setActExtra_tiles (k : Nat) (x : ActionExtra) : (s.setActExtra k x).tiles = s.tiles := rfl
@[simp] theorem State.setActExtra_lines (k : Nat) (x : ActionExtra) : (s.setActExtra k x).lines = s.lines := rfl
@[simp] theorem State.setActExtra_remaps (k : Nat) (x : ActionExtra) : (s.setActExtra k x).remaps = s.remaps := rfl
@[simp] theorem State.setActExtra_planes (k : Nat) (x : ActionExtra) : (s.setActExtra k x).planes = s.planes := rfl
@[simp] theorem State.setActExtra_quenches (k : Nat) (x : ActionExtra) : (s.setActExtra k x).quenches = s.quenches := rfl
@[simp] theorem State.setActExtra_tanks (k : Nat) (x : ActionExtra) : (s.setActExtra k x).tanks = s.tanks := rfl
@[simp] theorem State.setActExtra_harbours (k : Nat) (x : ActionExtra) : (s.setActExtra k x).harbours = s.harbours := rfl
@[simp] theorem State.setActExtra_mem (k : Nat) (x : ActionExtra) : (s.setActExtra k x).mem = s.mem := rfl
@[simp] theorem State.setActExtra_poison (k : Nat) (x : ActionExtra) : (s.setActExtra k x).poison = s.poison := rfl
@[simp] theorem State.setActExtra_patch (k : Nat) (x : ActionExtra) : (s.setActExtra k x).patch = s.patch := rfl
@[simp] theorem State.setActExtra_images (k : Nat) (x : ActionExtra) : (s.setActExtra k x).images = s.images := rfl
@[simp] theorem State.setActExtra_links (k : Nat) (x : ActionExtra) : (s.setActExtra k x).links = s.links := rfl
@[simp] theorem State.setActExtra_silush (k : Nat) (x : ActionExtra) : (s.setActExtra k x).silush = s.silush := rfl
@[simp] theorem State.setActExtra_faults (k : Nat) (x : ActionExtra) : (s.setActExtra k x).faults = s.faults := rfl
@[simp] theorem State.setActExtra_power (k : Nat) (x : ActionExtra) : (s.setActExtra k x).power = s.power := rfl
@[simp] theorem State.setActExtra_outbox (k : Nat) (x : ActionExtra) : (s.setActExtra k x).outbox = s.outbox := rfl
@[simp] theorem State.setActExtra_free (k : Nat) (x : ActionExtra) : (s.setActExtra k x).free = s.free := rfl

@[simp] theorem State.setPoison_pending (a : Nat) (p : Bool) : (s.setPoison a p).pending = s.pending := rfl
@[simp] theorem State.setPoison_clocks (a : Nat) (p : Bool) : (s.setPoison a p).clocks = s.clocks := rfl
@[simp] theorem State.setPoison_beat (a : Nat) (p : Bool) : (s.setPoison a p).beat = s.beat := rfl
@[simp] theorem State.setPoison_run (a : Nat) (p : Bool) : (s.setPoison a p).run = s.run := rfl
@[simp] theorem State.setPoison_act (a : Nat) (p : Bool) : (s.setPoison a p).act = s.act := rfl
@[simp] theorem State.setPoison_carrier (a : Nat) (p : Bool) : (s.setPoison a p).carrier = s.carrier := rfl
@[simp] theorem State.setPoison_flash (a : Nat) (p : Bool) : (s.setPoison a p).flash = s.flash := rfl
@[simp] theorem State.setPoison_regs (a : Nat) (p : Bool) : (s.setPoison a p).regs = s.regs := rfl
@[simp] theorem State.setPoison_domains (a : Nat) (p : Bool) : (s.setPoison a p).domains = s.domains := rfl
@[simp] theorem State.setPoison_pub (a : Nat) (p : Bool) : (s.setPoison a p).pub = s.pub := rfl
@[simp] theorem State.setPoison_pubDomains (a : Nat) (p : Bool) : (s.setPoison a p).pubDomains = s.pubDomains := rfl
@[simp] theorem State.setPoison_actions (a : Nat) (p : Bool) : (s.setPoison a p).actions = s.actions := rfl
@[simp] theorem State.setPoison_swaps (a : Nat) (p : Bool) : (s.setPoison a p).swaps = s.swaps := rfl
@[simp] theorem State.setPoison_periods (a : Nat) (p : Bool) : (s.setPoison a p).periods = s.periods := rfl
@[simp] theorem State.setPoison_servo (a : Nat) (p : Bool) : (s.setPoison a p).servo = s.servo := rfl
@[simp] theorem State.setPoison_lanes (a : Nat) (p : Bool) : (s.setPoison a p).lanes = s.lanes := rfl
@[simp] theorem State.setPoison_xseq (a : Nat) (p : Bool) : (s.setPoison a p).xseq = s.xseq := rfl
@[simp] theorem State.setPoison_xlanes (a : Nat) (p : Bool) : (s.setPoison a p).xlanes = s.xlanes := rfl
@[simp] theorem State.setPoison_shoals (a : Nat) (p : Bool) : (s.setPoison a p).shoals = s.shoals := rfl
@[simp] theorem State.setPoison_tiles (a : Nat) (p : Bool) : (s.setPoison a p).tiles = s.tiles := rfl
@[simp] theorem State.setPoison_lines (a : Nat) (p : Bool) : (s.setPoison a p).lines = s.lines := rfl
@[simp] theorem State.setPoison_remaps (a : Nat) (p : Bool) : (s.setPoison a p).remaps = s.remaps := rfl
@[simp] theorem State.setPoison_planes (a : Nat) (p : Bool) : (s.setPoison a p).planes = s.planes := rfl
@[simp] theorem State.setPoison_quenches (a : Nat) (p : Bool) : (s.setPoison a p).quenches = s.quenches := rfl
@[simp] theorem State.setPoison_tanks (a : Nat) (p : Bool) : (s.setPoison a p).tanks = s.tanks := rfl
@[simp] theorem State.setPoison_harbours (a : Nat) (p : Bool) : (s.setPoison a p).harbours = s.harbours := rfl
@[simp] theorem State.setPoison_mem (a : Nat) (p : Bool) : (s.setPoison a p).mem = s.mem := rfl
@[simp] theorem State.setPoison_patch (a : Nat) (p : Bool) : (s.setPoison a p).patch = s.patch := rfl
@[simp] theorem State.setPoison_images (a : Nat) (p : Bool) : (s.setPoison a p).images = s.images := rfl
@[simp] theorem State.setPoison_links (a : Nat) (p : Bool) : (s.setPoison a p).links = s.links := rfl
@[simp] theorem State.setPoison_silush (a : Nat) (p : Bool) : (s.setPoison a p).silush = s.silush := rfl
@[simp] theorem State.setPoison_faults (a : Nat) (p : Bool) : (s.setPoison a p).faults = s.faults := rfl
@[simp] theorem State.setPoison_power (a : Nat) (p : Bool) : (s.setPoison a p).power = s.power := rfl
@[simp] theorem State.setPoison_outbox (a : Nat) (p : Bool) : (s.setPoison a p).outbox = s.outbox := rfl
@[simp] theorem State.setPoison_free (a : Nat) (p : Bool) : (s.setPoison a p).free = s.free := rfl
@[simp] theorem State.setPoison_poison (a : Nat) (p : Bool) :
    (s.setPoison a p).poison = if p then a :: s.poison.filter (· != a) else s.poison.filter (· != a) := rfl

@[simp] theorem State.fresh_pending (w : Nat) : (s.fresh w).2.pending = s.pending := rfl
@[simp] theorem State.fresh_clocks (w : Nat) : (s.fresh w).2.clocks = s.clocks := rfl
@[simp] theorem State.fresh_beat (w : Nat) : (s.fresh w).2.beat = s.beat := rfl
@[simp] theorem State.fresh_run (w : Nat) : (s.fresh w).2.run = s.run := rfl
@[simp] theorem State.fresh_act (w : Nat) : (s.fresh w).2.act = s.act := rfl
@[simp] theorem State.fresh_carrier (w : Nat) : (s.fresh w).2.carrier = s.carrier := rfl
@[simp] theorem State.fresh_flash (w : Nat) : (s.fresh w).2.flash = s.flash := rfl
@[simp] theorem State.fresh_regs (w : Nat) : (s.fresh w).2.regs = s.regs := rfl
@[simp] theorem State.fresh_domains (w : Nat) : (s.fresh w).2.domains = s.domains := rfl
@[simp] theorem State.fresh_pub (w : Nat) : (s.fresh w).2.pub = s.pub := rfl
@[simp] theorem State.fresh_pubDomains (w : Nat) : (s.fresh w).2.pubDomains = s.pubDomains := rfl
@[simp] theorem State.fresh_actions (w : Nat) : (s.fresh w).2.actions = s.actions := rfl
@[simp] theorem State.fresh_swaps (w : Nat) : (s.fresh w).2.swaps = s.swaps := rfl
@[simp] theorem State.fresh_periods (w : Nat) : (s.fresh w).2.periods = s.periods := rfl
@[simp] theorem State.fresh_servo (w : Nat) : (s.fresh w).2.servo = s.servo := rfl
@[simp] theorem State.fresh_lanes (w : Nat) : (s.fresh w).2.lanes = s.lanes := rfl
@[simp] theorem State.fresh_xseq (w : Nat) : (s.fresh w).2.xseq = s.xseq := rfl
@[simp] theorem State.fresh_xlanes (w : Nat) : (s.fresh w).2.xlanes = s.xlanes := rfl
@[simp] theorem State.fresh_shoals (w : Nat) : (s.fresh w).2.shoals = s.shoals := rfl
@[simp] theorem State.fresh_tiles (w : Nat) : (s.fresh w).2.tiles = s.tiles := rfl
@[simp] theorem State.fresh_lines (w : Nat) : (s.fresh w).2.lines = s.lines := rfl
@[simp] theorem State.fresh_remaps (w : Nat) : (s.fresh w).2.remaps = s.remaps := rfl
@[simp] theorem State.fresh_planes (w : Nat) : (s.fresh w).2.planes = s.planes := rfl
@[simp] theorem State.fresh_quenches (w : Nat) : (s.fresh w).2.quenches = s.quenches := rfl
@[simp] theorem State.fresh_tanks (w : Nat) : (s.fresh w).2.tanks = s.tanks := rfl
@[simp] theorem State.fresh_harbours (w : Nat) : (s.fresh w).2.harbours = s.harbours := rfl
@[simp] theorem State.fresh_mem (w : Nat) : (s.fresh w).2.mem = s.mem := rfl
@[simp] theorem State.fresh_poison (w : Nat) : (s.fresh w).2.poison = s.poison := rfl
@[simp] theorem State.fresh_patch (w : Nat) : (s.fresh w).2.patch = s.patch := rfl
@[simp] theorem State.fresh_images (w : Nat) : (s.fresh w).2.images = s.images := rfl
@[simp] theorem State.fresh_links (w : Nat) : (s.fresh w).2.links = s.links := rfl
@[simp] theorem State.fresh_silush (w : Nat) : (s.fresh w).2.silush = s.silush := rfl
@[simp] theorem State.fresh_faults (w : Nat) : (s.fresh w).2.faults = s.faults := rfl
@[simp] theorem State.fresh_power (w : Nat) : (s.fresh w).2.power = s.power := rfl
@[simp] theorem State.fresh_outbox (w : Nat) : (s.fresh w).2.outbox = s.outbox := rfl
@[simp] theorem State.fresh_free (w : Nat) : (s.fresh w).2.free = s.free + 1 := rfl
@[simp] theorem State.fresh_value (w : Nat) : (s.fresh w).1 = Config.freeBits w s.free := rfl

end Sys2Proof.Machine
end

