-- ==== Sys2Proof/Laws/Tables.lean ====
section
/-! SUPPORT. Laws of sparse tables, stores and byte strings. -/

namespace Sys2Proof.Machine

/-! ### Tables -/

@[simp] theorem tabGet_tabSet_same {α : Type} (d : α) (t : List (Nat × α)) (k : Nat) (v : α) :
    tabGet d (tabSet t k v) k = v := by
  induction t with
  | nil => simp [tabSet, tabGet]
  | cons e t ih =>
    obtain ⟨k', v'⟩ := e
    simp only [tabSet]
    split
    · simp [tabGet]
    · split
      · simp [tabGet]
      · simp [tabGet, *]

@[simp] theorem tabGet_tabSet_other {α : Type} (d : α) (t : List (Nat × α)) {k j : Nat} (v : α) (h : k ≠ j) :
    tabGet d (tabSet t k v) j = tabGet d t j := by
  induction t with
  | nil => simp [tabSet, tabGet, h]
  | cons e t ih =>
    obtain ⟨k', v'⟩ := e
    simp only [tabSet]
    split
    · simp [tabGet, h]
    · split
      · subst_vars; simp [tabGet, h]
      · simp [tabGet, ih]

theorem tabGet_tabSet {α : Type} (d : α) (t : List (Nat × α)) (k j : Nat) (v : α) :
    tabGet d (tabSet t k v) j = if k = j then v else tabGet d t j := by
  by_cases h : k = j
  · subst h; simp
  · simp [h]

/-! ### Stores -/

/-- What a store reads after one cell is written. -/
theorem storeGet_storeSet {w : Nat} (m : Store w) (hm : storeWf m = true) (a b : Nat) (v : BitVec w) :
    storeGet (storeSet m a v) b = if a = b then v else storeGet m b := by
  induction m with
  | nil =>
    simp only [storeSet]
    split <;> rename_i h
    · subst h; split <;> simp [storeGet, tabGet]
    · simp [storeGet, tabGet]
  | cons e t ih =>
    obtain ⟨k, x⟩ := e
    have low : ∀ (t : Store w) (k : Nat) (x : BitVec w), storeWf ((k, x) :: t) = true → ∀ b, b ≤ k → storeGet t b = 0#w := by
      intro t
      induction t with
      | nil => intros; rfl
      | cons e t ih =>
        obtain ⟨k', x'⟩ := e
        intro k x h b hb
        simp only [storeWf, Bool.and_eq_true, decide_eq_true_eq] at h
        have : k' ≠ b := by omega
        simp only [storeGet, tabGet, this, if_false]
        exact ih k' x' h.2 b (by omega)
    have tl : storeWf t = true := by
      cases t with
      | nil => rfl
      | cons e t => obtain ⟨k', x'⟩ := e; simp only [storeWf, Bool.and_eq_true] at hm; exact hm.2
    simp only [storeSet]
    split
    · rename_i h
      split
      · rename_i hv; subst hv
        by_cases hb : a = b
        · subst hb
          have : k ≠ a := by omega
          simp [storeGet, tabGet, this]
          exact low t k x hm a (by omega)
        · simp [hb]
      · by_cases hb : a = b
        · simp [storeGet, tabGet, hb]
        · simp [storeGet, tabGet, hb]
    · split
      · rename_i h; subst h
        split
        · rename_i hv; subst hv
          by_cases hb : k = b
          · subst hb; simp; exact low t k x hm k (by omega)
          · simp [storeGet, tabGet, hb]
        · by_cases hb : k = b
          · simp [storeGet, tabGet, hb]
          · simp [storeGet, tabGet, hb]
      · have ih := ih tl
        simp only [storeGet, tabGet] at ih ⊢
        split
        · rename_i h1 h2 h3; subst h3
          have : a ≠ k := by omega
          simp [this]
        · exact ih

/-- The first address of a store, if it lists one, lies above `a`. -/
theorem storeWf_cons {w : Nat} (a : Nat) (v : BitVec w) (t : Store w) :
    storeWf ((a, v) :: t) = true ↔ v ≠ 0#w ∧ storeWf t = true ∧ ∀ e ∈ t.head?, a < e.1 := by
  cases t with
  | nil => simp [storeWf]
  | cons e t =>
    obtain ⟨k, x⟩ := e
    simp only [storeWf, Bool.and_eq_true, decide_eq_true_eq, bne_iff_ne, ne_eq, List.head?_cons, Option.mem_some_iff,
      forall_eq']
    exact ⟨fun h => ⟨h.1.2, h.2, h.1.1⟩, fun h => ⟨⟨h.2.2, h.1⟩, h.2.1⟩⟩

/-- Writing a cell below every listed address but the first keeps the bound. -/
theorem storeSet_head {w : Nat} (m : Store w) (a b : Nat) (v : BitVec w) (h : ∀ e ∈ m.head?, b < e.1) (hb : b < a)
    (hm : storeWf m = true) : ∀ e ∈ (storeSet m a v).head?, b < e.1 := by
  cases m with
  | nil => simp only [storeSet]; split <;> simp [hb]
  | cons e t =>
    obtain ⟨k, x⟩ := e
    simp at h
    have ht := (storeWf_cons k x t).1 hm
    simp only [storeSet]
    split
    · split <;> simp [h, hb]
    · split
      · split
        · intro e he; have := ht.2.2 e he; omega
        · simp; omega
      · simp [h]

/-- Writing a cell keeps the canonical form. -/
theorem storeSet_wf {w : Nat} (m : Store w) (a : Nat) (v : BitVec w) (hm : storeWf m = true) : storeWf (storeSet m a v) = true := by
  induction m with
  | nil => simp only [storeSet]; split <;> simp_all [storeWf]
  | cons e t ih =>
    obtain ⟨k, x⟩ := e
    have ht := (storeWf_cons k x t).1 hm
    simp only [storeSet]
    split
    · split
      · exact hm
      · rw [storeWf_cons]; exact ⟨by assumption, hm, by simpa using by assumption⟩
    · split
      · split
        · exact ht.2.1
        · rename_i h _; subst h; rw [storeWf_cons]; exact ⟨by assumption, ht.2.1, ht.2.2⟩
      · rw [storeWf_cons]
        exact ⟨ht.1, ih ht.2.1, storeSet_head t a k v ht.2.2 (by omega) ht.2.1⟩

/-- Writing a run of cells keeps the canonical form. -/
@[simp] theorem storeWrite_wf {w : Nat} (m : Store w) (a : Nat) (vs : List (BitVec w)) (hm : storeWf m = true) :
    storeWf (storeWrite m a vs) = true := by
  induction vs generalizing m a with
  | nil => exact hm
  | cons v vs ih => exact ih _ _ (storeSet_wf m a v hm)

/-- Every address of a store lies above the one before it, so a part of the store keeps the form. -/
theorem storeFilter_wf {w : Nat} (m : Store w) (p : Nat × BitVec w → Bool) (hm : storeWf m = true) :
    storeWf (m.filter p) = true := by
  have bound : ∀ (m : Store w) (b : Nat), storeWf m = true → (∀ e ∈ m.head?, b < e.1) → ∀ e ∈ (m.filter p).head?, b < e.1 := by
    intro m
    induction m with
    | nil => intros; simp_all
    | cons e t ih =>
      obtain ⟨k, x⟩ := e
      intro b hm h
      have ht := (storeWf_cons k x t).1 hm
      simp at h
      rw [List.filter_cons]
      split
      · simpa using h
      · exact ih b ht.2.1 fun e he => by have := ht.2.2 e he; omega
  induction m with
  | nil => rfl
  | cons e t ih =>
    obtain ⟨k, x⟩ := e
    have ht := (storeWf_cons k x t).1 hm
    rw [List.filter_cons]
    split
    · rw [storeWf_cons]; exact ⟨ht.1, ih ht.2.1, bound t k ht.2.1 ht.2.2⟩
    · exact ih ht.2.1

/-- Clearing a range keeps the canonical form. -/
@[simp] theorem storeClear_wf {w : Nat} (m : Store w) (lo hi : Nat) (hm : storeWf m = true) : storeWf (storeClear m lo hi) = true :=
  storeFilter_wf m _ hm

/-- What a store reads after a run of cells is written. -/
theorem storeGet_storeWrite {w : Nat} (m : Store w) (a b : Nat) (vs : List (BitVec w)) (hm : storeWf m = true) :
    storeGet (storeWrite m a vs) b = if a ≤ b ∧ b < a + vs.length then vs.getD (b - a) 0#w else storeGet m b := by
  induction vs generalizing m a with
  | nil => simp only [storeWrite, List.length_nil]; rw [if_neg (by omega)]
  | cons v vs ih =>
    simp only [storeWrite, List.length_cons]
    rw [ih _ _ (storeSet_wf m a v hm), storeGet_storeSet m hm]
    by_cases h : a = b
    · subst h; rw [if_neg (by omega)]; simp
    · by_cases h2 : a + 1 ≤ b ∧ b < a + 1 + vs.length
      · rw [if_pos h2, if_pos (by omega)]
        have : b - a = (b - (a + 1)) + 1 := by omega
        rw [this]; simp
      · rw [if_neg h2, if_neg h, if_neg (by omega)]

/-! ### Byte strings -/

@[simp] theorem leBytes_length (n x : Nat) : (leBytes n x).length = n := by
  induction n generalizing x with
  | zero => rfl
  | succ n ih => simp [leBytes, ih]

/-- A number of `n` bytes is read back from its bytes (R263). -/
theorem leNat_leBytes (n x : Nat) : leNat (leBytes n x) = x % 256 ^ n := by
  induction n generalizing x with
  | zero => simp [leBytes, leNat, Nat.mod_one]
  | succ n ih =>
    simp only [leBytes, leNat, ih, BitVec.toNat_ofNat]
    rw [show (256 : Nat) ^ (n + 1) = 256 * 256 ^ n by rw [Nat.pow_succ, Nat.mul_comm], Nat.mod_mul]
/-- A fold leaves what each of its steps leaves. -/
theorem foldl_fixed {σ α β : Type} (p : σ → β) (f : σ → α → σ) (h : ∀ s x, p (f s x) = p s) (l : List α) (s : σ) :
    p (l.foldl f s) = p s := by
  induction l generalizing s with
  | nil => rfl
  | cons x l ih => exact (ih _).trans (h _ _)

/-- A fold keeps what each of its steps keeps. -/
theorem foldl_holds {σ α : Type} (p : σ → Prop) (f : σ → α → σ) (h : ∀ s x, p s → p (f s x)) (l : List α) (s : σ) (hs : p s) :
    p (l.foldl f s) := by
  induction l generalizing s with
  | nil => exact hs
  | cons x l ih => exact ih _ (h _ _ hs)

end Sys2Proof.Machine
end

