-- ==== Sys2Proof/Laws/Ops.lean ====
section
/-! SUPPORT. What the shared operations do: registers, entering a state of the engine, the log, EMCYs, machine checks, time,
and how a command ends. -/

namespace Sys2Proof.Machine

/-! ### How a command ends -/

theorem done_next (s t : State) : done s t = .next { t with pending := s.pending } := rfl

theorem onUnit_present (s t : State) {b : Bool} (h : b = true) : onUnit b s t = .next { t with pending := s.pending } := by
  simp [onUnit, h, done]

theorem onUnit_absent (s t : State) {b : Bool} (h : b = false) : onUnit b s t = .fault .absentUnit := by
  simp [onUnit, h]

/-- A property of what a command's effect leaves, where the queue does not matter to it, is one of the next state. -/
theorem done_leaves {s t : State} {p : State → Prop} (hp : p t) (hq : ∀ u q, p u → p { u with pending := q }) :
    ∃ u, done s t = .next u ∧ p u := ⟨_, rfl, hq _ _ hp⟩

theorem onUnit_leaves {s t : State} {b : Bool} {p : State → Prop} (hb : b = true) (hp : p t)
    (hq : ∀ u q, p u → p { u with pending := q }) : ∃ u, onUnit b s t = .next u ∧ p u := by
  subst hb; exact ⟨_, rfl, hq _ _ hp⟩

/-- What the effect leaves of a part of the state that does not hold the queue, the next state leaves. -/
theorem done_keeps {β : Type} (p : State → β) (hp : ∀ u q, p { u with pending := q } = p u) {s x t : State}
    (h : done s x = .next t) : p t = p x := by
  simp only [done, Host.Outcome.next.injEq] at h
  subst h
  exact hp _ _

theorem onUnit_keeps {β : Type} (p : State → β) (hp : ∀ u q, p { u with pending := q } = p u) {s x t : State} {b : Bool}
    (h : onUnit b s x = .next t) : p t = p x := by
  unfold onUnit at h
  split at h
  · exact done_keeps p hp h
  · cases h

/-! ### Registers -/

theorem State.reg_of_regs {s t : State} (h : s.regs = t.regs) (r : Reg) (n : Nat) : s.reg r n = t.reg r n := by
  simp [State.reg, h]

@[simp] theorem State.reg_setReg_same (s : State) (r : Reg) (n v : Nat) : (s.setReg r n v).reg r n = v := by
  simp [State.reg, State.setReg]

theorem State.reg_setReg_other (s : State) {r r' : Reg} {n m : Nat} (v : Nat) (h : r'.key m ≠ r.key n) :
    (s.setReg r' m v).reg r n = s.reg r n := by
  simp [State.reg, State.setReg, tabGet_tabSet_other _ _ _ h]

theorem State.reg_setReg (s : State) (r r' : Reg) (n m v : Nat) :
    (s.setReg r' m v).reg r n = if r'.key m = r.key n then (if r = r' then v else tabGet r.dflt [(r.key n, v)] (r.key n)) else s.reg r n := by
  by_cases h : r'.key m = r.key n
  · simp [State.reg, State.setReg, h, tabGet]
  · simp [State.reg_setReg_other, h]

@[simp] theorem State.reg_count_same (s : State) (r : Reg) (n bits k : Nat) :
    (s.count r n bits k).reg r n = (s.reg r n + k) % 2 ^ bits := by
  simp [State.count]

theorem State.reg_count_other (s : State) {r r' : Reg} {n m : Nat} (bits k : Nat) (h : r'.key m ≠ r.key n) :
    (s.count r' m bits k).reg r n = s.reg r n := by
  simp [State.count, State.reg_setReg_other, h]

theorem State.mode_of_regs {s t : State} (h : s.regs = t.regs) : s.mode = t.mode := by
  simp [State.mode, State.reg_of_regs h]

/-- A register other than ID_STATE leaves the state of the engine. -/
theorem State.mode_setReg (s : State) {r : Reg} {n : Nat} (v : Nat) (h : r.key n ≠ Reg.idState.key 0) :
    (s.setReg r n v).mode = s.mode := by
  simp [State.mode, State.reg_setReg_other, h]

theorem Mode.ofCode_code (m : Mode) : Mode.ofCode m.code = m := by cases m <;> rfl

/-! ### Outputs leave everything but the outbox and the links -/

@[simp] theorem State.sendCan_regs (s : State) (i : Nat) (bs : List Byte) : (s.sendCan i bs).regs = s.regs := by
  unfold State.sendCan; split <;> rfl

@[simp] theorem State.sendCan_faults (s : State) (i : Nat) (bs : List Byte) : (s.sendCan i bs).faults = s.faults := by
  unfold State.sendCan; split <;> rfl

@[simp] theorem State.sendCan_links (s : State) (i : Nat) (bs : List Byte) : (s.sendCan i bs).links = s.links := by
  unfold State.sendCan; split <;> rfl

@[simp] theorem State.sendCan_clocks (s : State) (i : Nat) (bs : List Byte) : (s.sendCan i bs).clocks = s.clocks := by
  unfold State.sendCan; split <;> rfl

theorem foldl_keep {α β : Type} (p : State → β) (f : State → α → State) (h : ∀ s x, p (f s x) = p s) (l : List α) (s : State) :
    p (l.foldl f s) = p s := by
  induction l generalizing s with
  | nil => rfl
  | cons x l ih => simp [ih, h]

/-- What NOTIFY leaves: everything but the outbox and the sequence numbers of the sessions. -/
theorem State.notify_keeps (s : State) (m k : Nat) (body : List Byte) :
    (s.notify m k body).regs = s.regs ∧ (s.notify m k body).faults = s.faults ∧ (s.notify m k body).clocks = s.clocks ∧
    (s.notify m k body).beat = s.beat ∧ (s.notify m k body).links.emcys = s.links.emcys ∧ (s.notify m k body).mem = s.mem := by
  unfold State.notify
  refine ⟨foldl_keep _ _ ?_ _ _, foldl_keep _ _ ?_ _ _, foldl_keep _ _ ?_ _ _, foldl_keep _ _ ?_ _ _,
    foldl_keep (fun t => t.links.emcys) _ ?_ _ _, foldl_keep _ _ ?_ _ _⟩ <;> (intro s x; split <;> rfl)

@[simp] theorem State.notify_regs (s : State) (m k : Nat) (b : List Byte) : (s.notify m k b).regs = s.regs := (s.notify_keeps m k b).1
@[simp] theorem State.notify_faults (s : State) (m k : Nat) (b : List Byte) : (s.notify m k b).faults = s.faults := (s.notify_keeps m k b).2.1
@[simp] theorem State.notify_clocks (s : State) (m k : Nat) (b : List Byte) : (s.notify m k b).clocks = s.clocks := (s.notify_keeps m k b).2.2.1
@[simp] theorem State.notify_beat (s : State) (m k : Nat) (b : List Byte) : (s.notify m k b).beat = s.beat := (s.notify_keeps m k b).2.2.2.1
@[simp] theorem State.notify_emcys (s : State) (m k : Nat) (b : List Byte) : (s.notify m k b).links.emcys = s.links.emcys :=
  (s.notify_keeps m k b).2.2.2.2.1

theorem restartHeartbeat_keeps (s t : State) (n : Nat) (h : s.regs = t.regs ∧ s.faults = t.faults ∧ s.clocks = t.clocks ∧
    s.links.emcys = t.links.emcys) : 
    { s with links := { s.links with heartbeatAt := n } }.regs = t.regs ∧ { s with links := { s.links with heartbeatAt := n } }.faults = t.faults ∧
    { s with links := { s.links with heartbeatAt := n } }.clocks = t.clocks ∧
    { s with links := { s.links with heartbeatAt := n } }.links.emcys = t.links.emcys := h

theorem State.sendHeartbeat_keeps (s : State) :
    s.sendHeartbeat.regs = s.regs ∧ s.sendHeartbeat.faults = s.faults ∧ s.sendHeartbeat.clocks = s.clocks ∧
    s.sendHeartbeat.links.emcys = s.links.emcys := by
  unfold State.sendHeartbeat
  split
  · exact ⟨rfl, rfl, rfl, rfl⟩
  · split
    · exact ⟨rfl, rfl, rfl, rfl⟩
    · exact restartHeartbeat_keeps _ _ _ ⟨by rw [State.sendCan_regs], by rw [State.sendCan_faults], by rw [State.sendCan_clocks],
        by rw [State.sendCan_links]⟩

@[simp] theorem State.sendHeartbeat_regs (s : State) : s.sendHeartbeat.regs = s.regs := s.sendHeartbeat_keeps.1
@[simp] theorem State.sendHeartbeat_faults (s : State) : s.sendHeartbeat.faults = s.faults := s.sendHeartbeat_keeps.2.1
@[simp] theorem State.sendHeartbeat_clocks (s : State) : s.sendHeartbeat.clocks = s.clocks := s.sendHeartbeat_keeps.2.2.1
@[simp] theorem State.sendHeartbeat_emcys (s : State) : s.sendHeartbeat.links.emcys = s.links.emcys := s.sendHeartbeat_keeps.2.2.2
@[simp] theorem State.sendBootUp_regs (s : State) : s.sendBootUp.regs = s.regs := by simp [State.sendBootUp]
@[simp] theorem State.sendBootUp_faults (s : State) : s.sendBootUp.faults = s.faults := by simp [State.sendBootUp]
@[simp] theorem State.sendBootUp_clocks (s : State) : s.sendBootUp.clocks = s.clocks := by simp [State.sendBootUp]
@[simp] theorem State.sendBootUp_links (s : State) : s.sendBootUp.links = s.links := by simp [State.sendBootUp]

/-! ### Entering a state of the engine -/

/-- What entering a state does to registers, the log, the clock and the EMCY queue. -/
theorem State.enter_spec (s : State) (m : Mode) (k : Nat) :
    (s.enter m k).regs = ((s.setReg Reg.idState 0 m.code).setReg Reg.idStateReason 0 k).regs ∧
    (s.enter m k).faults = s.faults ∧ (s.enter m k).clocks = s.clocks ∧ (s.enter m k).links.emcys = s.links.emcys := by
  unfold State.enter
  dsimp only
  split
  · exact ⟨rfl, rfl, rfl, rfl⟩
  · split
    · simp
    · split <;> simp

@[simp] theorem State.enter_mode (s : State) (m : Mode) (k : Nat) : (s.enter m k).mode = m := by
  rw [State.mode_of_regs (s.enter_spec m k).1, State.mode_setReg _ _ (by decide)]
  simp [State.mode, Mode.ofCode_code]

@[simp] theorem State.enter_reason (s : State) (m : Mode) (k : Nat) : (s.enter m k).reg Reg.idStateReason 0 = k := by
  rw [State.reg_of_regs (s.enter_spec m k).1]; simp

@[simp] theorem State.enter_faults (s : State) (m : Mode) (k : Nat) : (s.enter m k).faults = s.faults := (s.enter_spec m k).2.1
@[simp] theorem State.enter_clocks (s : State) (m : Mode) (k : Nat) : (s.enter m k).clocks = s.clocks := (s.enter_spec m k).2.2.1
@[simp] theorem State.enter_emcys (s : State) (m : Mode) (k : Nat) : (s.enter m k).links.emcys = s.links.emcys := (s.enter_spec m k).2.2.2

/-! ### The log and EMCYs -/

/-- The record that a log entry writes stands last (R382). -/
theorem State.log_last (s : State) (e : Event) :
    (s.log e).faults.log.getLast? = some (logRecord s.beat.n e.code e.unit e.cls e.kind e.loc e.detail) := by
  simp only [State.log]
  rw [List.getLast?_drop]
  simp

/-- The log holds at most 256 records (R382). -/
theorem State.log_length (s : State) (e : Event) : (s.log e).faults.log.length ≤ 256 := by
  simp only [State.log, List.length_drop]
  omega

@[simp] theorem State.log_regs (s : State) (e : Event) : (s.log e).regs = s.regs := by unfold State.log; with_reducible rfl
@[simp] theorem State.log_links (s : State) (e : Event) : (s.log e).links = s.links := by unfold State.log; with_reducible rfl
@[simp] theorem State.log_beat (s : State) (e : Event) : (s.log e).beat = s.beat := by unfold State.log; with_reducible rfl
@[simp] theorem State.log_clocks (s : State) (e : Event) : (s.log e).clocks = s.clocks := by unfold State.log; with_reducible rfl

@[simp] theorem State.pushErrorField_faults (s : State) (c u : Nat) : (s.pushErrorField c u).faults = s.faults := by
  unfold State.pushErrorField; exact foldl_keep State.faults _ (by intro s x; exact State.setReg_faults ..) _ _
@[simp] theorem State.pushErrorField_links (s : State) (c u : Nat) : (s.pushErrorField c u).links = s.links := by
  unfold State.pushErrorField; exact foldl_keep State.links _ (by intro s x; exact State.setReg_links ..) _ _
@[simp] theorem State.pushErrorField_clocks (s : State) (c u : Nat) : (s.pushErrorField c u).clocks = s.clocks := by
  unfold State.pushErrorField; exact foldl_keep State.clocks _ (by intro s x; exact State.setReg_clocks ..) _ _
@[simp] theorem State.pushErrorField_beat (s : State) (c u : Nat) : (s.pushErrorField c u).beat = s.beat := by
  unfold State.pushErrorField; exact foldl_keep State.beat _ (by intro s x; exact State.setReg_beat ..) _ _

/-- A register outside 0x1003 keeps its value when an EMCY enters 0x1003. -/
theorem State.pushErrorField_reg (s : State) (c u : Nat) (r : Reg) (n : Nat)
    (h : ∀ k < 16, (Reg.errorField.at k).key 0 ≠ r.key n) : (s.pushErrorField c u).reg r n = s.reg r n := by
  unfold State.pushErrorField
  dsimp only
  generalize hl : ((c + u * 65536) :: (List.range 15).map fun k => s.reg (Reg.errorField.at k)) = l
  have hlen : l.length = 16 := by subst hl; simp
  have key : ∀ (l : List Nat) (b : Nat) (t : State), b + l.length ≤ 16 →
      ((l.zipIdx b).foldl (fun (t : State) (x : Nat × Nat) => t.setReg (Reg.errorField.at x.2) 0 x.1) t).reg r n = t.reg r n := by
    intro l
    induction l with
    | nil => intros; rfl
    | cons v l ih =>
      intro b t hb
      simp only [List.length_cons] at hb
      simp only [List.zipIdx_cons, List.foldl_cons]
      rw [ih (b + 1) _ (by omega), State.reg_setReg_other _ _ (h b (by omega))]
  exact key l 0 s (by omega)

/-- An EMCY as its record, its bit, its entry of 0x1003 and its place in the queue. -/
theorem State.emcy_form (s : State) (e : Event) :
    ∃ reg t, t = ((s.log e).setReg Reg.errorRegister 0 reg).pushErrorField e.code e.unit ∧
      s.emcy e = if t.links.emcys.length < 32 then
        { t with links := { t.links with
          emcys := t.links.emcys ++ [{ code := e.code, register := reg, unit := e.unit, beat := t.beat.n.toNat }] } }
        else t.count Reg.canEmcyLost 0 := ⟨_, _, rfl, rfl⟩

theorem State.emcy_faults (s : State) (e : Event) : (s.emcy e).faults = (s.log e).faults := by
  obtain ⟨reg, t, ht, h⟩ := s.emcy_form e
  have : t.faults = (s.log e).faults := by rw [ht, State.pushErrorField_faults]; rfl
  rw [h, ← this]; split <;> rfl

@[simp] theorem State.emcy_clocks (s : State) (e : Event) : (s.emcy e).clocks = s.clocks := by
  obtain ⟨reg, t, ht, h⟩ := s.emcy_form e
  have : t.clocks = s.clocks := by rw [ht, State.pushErrorField_clocks, State.setReg_clocks, State.log_clocks]
  rw [h, ← this]; split <;> rfl

/-- The EMCY queue takes an EMCY while it holds fewer than 32 (R300). -/
theorem State.emcy_queue (s : State) (e : Event) (hq : s.links.emcys.length < 32) :
    ∃ r, (s.emcy e).links.emcys = s.links.emcys ++ [{ code := e.code, register := r, unit := e.unit, beat := s.beat.n.toNat }] := by
  obtain ⟨reg, t, ht, h⟩ := s.emcy_form e
  have hl : t.links = s.links := by rw [ht, State.pushErrorField_links, State.setReg_links, State.log_links]
  have hb : t.beat = s.beat := by rw [ht, State.pushErrorField_beat, State.setReg_beat, State.log_beat]
  rw [h, hl, hb, if_pos hq]
  exact ⟨reg, rfl⟩

/-- The state of the engine does not change with an EMCY. -/
@[simp] theorem State.emcy_mode (s : State) (e : Event) : (s.emcy e).mode = s.mode := by
  obtain ⟨reg, t, ht, h⟩ := s.emcy_form e
  have hm : t.mode = s.mode := by
    rw [State.mode, ht, State.pushErrorField_reg _ _ _ _ _ (by decide), State.reg_setReg_other _ _ (by decide),
      State.reg_of_regs (State.log_regs s e), State.mode]
  rw [h, ← hm]
  split
  · rfl
  · rw [State.count, State.mode_setReg _ _ (by decide)]

/-- A register that an EMCY does not write: 0x1001, 0x1003 and ID_CAN_EMCY_LOST are those it does. -/
theorem State.emcy_reg (s : State) (e : Event) (r : Reg) (n : Nat) (h1 : Reg.errorRegister.key 0 ≠ r.key n)
    (h2 : ∀ k < 16, (Reg.errorField.at k).key 0 ≠ r.key n) (h3 : Reg.canEmcyLost.key 0 ≠ r.key n) :
    (s.emcy e).reg r n = s.reg r n := by
  obtain ⟨reg, t, ht, h⟩ := s.emcy_form e
  have hm : t.reg r n = s.reg r n := by
    rw [ht, State.pushErrorField_reg _ _ _ _ _ h2, State.reg_setReg_other _ _ h1, State.reg_of_regs (State.log_regs s e)]
  rw [h, ← hm]
  split
  · rfl
  · rw [State.reg_count_other _ _ _ h3]

@[simp] theorem State.emcy_beat (s : State) (e : Event) : (s.emcy e).beat = s.beat := by
  obtain ⟨reg, t, ht, h⟩ := s.emcy_form e
  have hm : t.beat = s.beat := by rw [ht, State.pushErrorField_beat, State.setReg_beat, State.log_beat]
  rw [h, ← hm]
  split <;> rfl

/-- The newest log record after an EMCY is its own. -/
theorem State.emcy_log (s : State) (e : Event) :
    (s.emcy e).faults.log.getLast? = some (logRecord s.beat.n e.code e.unit e.cls e.kind e.loc e.detail) := by
  rw [State.emcy_faults, State.log_last]

/-! ### FAULTED -/

/-- After a machine check in any state but OFF the engine is FAULTED (R381). -/
theorem enterFaulted_mode (s : State) (h : s.mode ≠ .off) : (enterFaulted s).mode = .faulted := by
  unfold enterFaulted
  split
  · simp_all
  · simp

theorem machineCheck_mode (s : State) (e : Event) (h : s.mode ≠ .off) : (machineCheck s e).mode = .faulted := by
  simp [machineCheck, h, enterFaulted_mode]

/-- The reason of a machine check: BOOT_FAULT from BOOT, MACHINE_CHECK otherwise (Table 15.4). -/
theorem machineCheck_reason (s : State) (e : Event) (h : s.mode ≠ .off) (hf : s.mode ≠ .faulted) :
    (machineCheck s e).reg Reg.idStateReason 0 = if s.mode = .boot then 10 else 9 := by
  simp only [machineCheck, h, ↓reduceIte]
  rw [State.emcy_reg _ _ _ _ (by decide) (by decide) (by decide)]
  simp [enterFaulted, h, hf]

/-- The record of a machine check is the newest of the log (R381, R382). -/
theorem machineCheck_log (s : State) (e : Event) (h : s.mode ≠ .off) :
    (machineCheck s e).faults.log.getLast? =
      some (logRecord (machineCheck s e).beat.n e.code e.unit e.cls e.kind e.loc e.detail) := by
  simp only [machineCheck, h, ↓reduceIte, State.emcy_log, State.emcy_beat]

@[simp] theorem leaveRunning_links (s : State) : (leaveRunning s).links = s.links := by
  unfold leaveRunning; exact foldl_keep State.links _ (by intros; rfl) _ _

@[simp] theorem abortBist_links (s : State) : (abortBist s).links = s.links := by
  unfold abortBist; split <;> rfl

@[simp] theorem cancelActions_links (s : State) : (cancelActions s).links = s.links := by
  unfold cancelActions; exact foldl_keep _ _ (by intro s k; split <;> rfl) _ _

@[simp] theorem stopHarbour_links (s : State) (h : Nat) : (stopHarbour s h).links = s.links := by
  unfold stopHarbour; exact foldl_keep State.links _ (by intros; rfl) _ _

@[simp] theorem logUnsent_links (s : State) : (logUnsent s).links = s.links := by
  unfold logUnsent
  refine foldl_keep State.links _ ?_ _ _
  intro s k
  split
  · with_reducible rfl
  · exact State.log_links ..

@[simp] theorem stopTokens_links (s : State) : (stopTokens s).links = s.links := by unfold stopTokens; with_reducible rfl

theorem discardTanks_links (s : State) : ({ s with tanks := [] } : State).links = s.links := rfl

@[simp] theorem enterFaulted_emcys (s : State) : (enterFaulted s).links.emcys = s.links.emcys := by
  unfold enterFaulted
  split
  · with_reducible rfl
  · dsimp only
    rw [State.enter_emcys, discardTanks_links, logUnsent_links, foldl_keep State.links _ stopHarbour_links, abortBist_links,
      cancelActions_links, stopTokens_links]
    split
    · rw [leaveRunning_links]
    · with_reducible rfl

/-- The EMCY of a machine check joins the queue while it holds fewer than 32 (R300, R381). -/
theorem machineCheck_emcy (s : State) (e : Event) (h : s.mode ≠ .off) (hq : s.links.emcys.length < 32) :
    (machineCheck s e).links.emcys.getLast?.map Emcy.code = some e.code := by
  simp only [machineCheck, h, ↓reduceIte]
  obtain ⟨r, hr⟩ := State.emcy_queue (enterFaulted s) e (by simpa using hq)
  rw [hr]
  simp

@[simp] theorem leaveRunning_clocks (s : State) : (leaveRunning s).clocks = s.clocks := by
  unfold leaveRunning; exact foldl_keep State.clocks _ (by intros; rfl) _ _

@[simp] theorem abortBist_clocks (s : State) : (abortBist s).clocks = s.clocks := by
  unfold abortBist; split <;> rfl

@[simp] theorem cancelActions_clocks (s : State) : (cancelActions s).clocks = s.clocks := by
  unfold cancelActions; exact foldl_keep _ _ (by intro s k; split <;> rfl) _ _

@[simp] theorem stopHarbour_clocks (s : State) (h : Nat) : (stopHarbour s h).clocks = s.clocks := by
  unfold stopHarbour; exact foldl_keep State.clocks _ (by intros; rfl) _ _

@[simp] theorem logUnsent_clocks (s : State) : (logUnsent s).clocks = s.clocks := by
  unfold logUnsent
  refine foldl_keep State.clocks _ ?_ _ _
  intro s k
  split
  · with_reducible rfl
  · exact State.log_clocks ..

@[simp] theorem stopTokens_clocks (s : State) : (stopTokens s).clocks = s.clocks := by unfold stopTokens; with_reducible rfl

theorem discardTanks_clocks (s : State) : ({ s with tanks := [] } : State).clocks = s.clocks := rfl

@[simp] theorem enterFaulted_clocks (s : State) : (enterFaulted s).clocks = s.clocks := by
  unfold enterFaulted
  split
  · with_reducible rfl
  · dsimp only
    rw [State.enter_clocks, discardTanks_clocks, logUnsent_clocks, foldl_keep State.clocks _ stopHarbour_clocks, abortBist_clocks,
      cancelActions_clocks, stopTokens_clocks]
    split
    · exact leaveRunning_clocks s
    · with_reducible rfl

@[simp] theorem machineCheck_clocks (s : State) (e : Event) : (machineCheck s e).clocks = s.clocks := by
  unfold machineCheck
  split <;> simp

/-! ### Time -/

/-- Time runs to a later cycle and no further; it never runs back. -/
@[simp] theorem State.runTo_cycle (s : State) (c : Nat) : (s.runTo c).clocks.cycle = max s.clocks.cycle c := by
  have h : ∀ n, (s.advance n).clocks.cycle = s.clocks.cycle + n := by
    intro n
    unfold State.advance
    dsimp only
    split
    · rfl
    · have h : ∀ (l : List Nat) (t : State), (l.foldl (groupTick n) t).clocks = t.clocks :=
        fun l t => foldl_keep State.clocks _ (by intro s h; simp [groupTick, State.count]) l t
      show ((List.foldl (groupTick n) s s.harbourList).clocks.run n).cycle = _
      rw [h]
      rfl
  rw [State.runTo, h]
  omega

end Sys2Proof.Machine
end

