-- ==== Sys2Proof/Laws/Anvil.lean ====
section
/-! SUPPORT. An instruction that is next on its seat: it runs once, and what its body leaves is what the seat holds
(R92, R132, R193). -/

namespace Sys2Proof.Machine

/-- What stands after the next instruction of a seat has done its work: a temper's kernel takes the work over, and leaves the
instruction unless the work stopped it. -/
def seatNext (op : Nat) (sh : Shape) (f : AnvilFields) (u : Seat) (s : State) (r : Ran) : State :=
  match u with
  | .tile t q =>
    match (s.tile t q).inst with
    | some i => tileNext op sh f t q i false r
    | none => s
  | .temper h k =>
    match r.stop, (s.temper h k).kernel with
    | some _, some x => kernelNext op sh f h k x r
    | none, _ =>
      let t := modKernel r.s h k fun y => { y with rf := r.rf, done := some 1, arrived := [] }
      match (t.temper h k).kernel with
      | some x => kernelNext op sh f h k x { s := t, rf := r.rf, stop := none }
      | none => s
    | _, none => s

/-- What a kernel's instruction does not move: where it stands, and that it runs. -/
def Kernel.place (x : Kernel) : Nat × Nat × Option Repeat × Bool := (x.slot, x.pos, x.rep, x.ended)

/-- The work of an instruction left the program of its tile, or the place of its kernel, and missed nothing. -/
def keepsSeat (s t : State) (u : Seat) : Prop :=
  match u with
  | .tile d q => progOf (t.tile d q) q = progOf (s.tile d q) q
  | .temper h k => (t.temper h k).kernel.map Kernel.place = (s.temper h k).kernel.map Kernel.place ∧ t.wants h k = []

theorem State.tile_setTile (s : State) (t : TileId) (q : Bool) (v : Tile) : (s.setTile t q v).tile t q = v := by
  simp [State.tile, State.setTile, State.physOf, State.tileAt, State.setTileAt, State.remapByte, State.remap, State.remapFactory]

theorem State.temper_setTemper (s : State) (h k : Nat) (v : Temper) : (s.setTemper h k v).temper h k = v := by
  by_cases hk : k = 0 <;> simp [State.temper, State.setTemper, State.modHarbour, State.harbour, State.setHarbour, hk]

theorem modKernel_kernel (s : State) (h k : Nat) (g : Kernel → Kernel) :
    ((modKernel s h k g).temper h k).kernel = (s.temper h k).kernel.map g := by
  simp [modKernel, State.temper_setTemper]

theorem modKernel_wants (s : State) (h k : Nat) (g : Kernel → Kernel) : (modKernel s h k g).wants h k = s.wants h k := by
  simp [State.wants, modKernel, State.temper_setTemper]

theorem endKernel_kernel (s : State) (h k a b : Nat) : ∃ g : Kernel → Kernel,
    ((endKernel s h k a b).temper h k).kernel = (s.temper h k).kernel.map g ∧ ∀ x, (g x).rf = x.rf ∧ (g x).slot = x.slot ∧ (g x).pos = x.pos := by
  refine ⟨_, modKernel_kernel _ _ _ _, fun x => ?_⟩
  split
  · exact ⟨rfl, rfl, rfl⟩
  · split <;> exact ⟨rfl, rfl, rfl⟩

/-! ### The memories leave kernels and tiles -/

@[simp] theorem Temper.setCache_kernel (t : Temper) (c : Nat) (l : List CLine) : (t.setCache c l).kernel = t.kernel := by
  unfold Temper.setCache; split <;> rfl

@[simp] theorem Temper.setCache_wants (t : Temper) (c : Nat) (l : List CLine) : (t.setCache c l).wants = t.wants := by
  unfold Temper.setCache; split <;> rfl

theorem State.temper_of_harbours {s t : State} (h : s.harbours = t.harbours) (a b : Nat) : s.temper a b = t.temper a b := by
  simp [State.temper, State.harbour, h]

theorem State.temper_of_tempers (s : State) (h a b : Nat) (x : Harbour) (h0 : x.temper0 = (s.harbour h).temper0)
    (h1 : x.temper1 = (s.harbour h).temper1) : (s.setHarbour h x).temper a b = s.temper a b := by
  simp only [State.temper, State.harbour, State.setHarbour] at *
  by_cases ha : h = a
  · subst ha; simp [h0, h1]
  · simp [tabGet_tabSet_other _ _ _ ha]

theorem State.setTemper_kernel (s : State) (h u a b : Nat) (t : Temper) (ht : t.kernel = (s.temper h u).kernel) (hu : u < 2) (hb : b < 2) :
    ((s.setTemper h u t).temper a b).kernel = (s.temper a b).kernel := by
  simp only [State.temper, State.setTemper, State.modHarbour, State.harbour, State.setHarbour] at *
  by_cases ha : h = a
  · subst ha
    have : u = 0 ∨ u = 1 := by omega
    have : b = 0 ∨ b = 1 := by omega
    rcases ‹u = 0 ∨ u = 1› with rfl | rfl <;> rcases ‹b = 0 ∨ b = 1› with rfl | rfl <;> simp_all
  · simp [tabGet_tabSet_other _ _ _ ha]

theorem State.modHarbour_temper (s : State) (h : Nat) (g : Harbour → Harbour) (h0 : ∀ x, (g x).temper0 = x.temper0)
    (h1 : ∀ x, (g x).temper1 = x.temper1) (a b : Nat) : (s.modHarbour h g).temper a b = s.temper a b :=
  State.temper_of_tempers _ _ _ _ _ (h0 _) (h1 _)

theorem holdTouch_temper (s : State) (h l : Nat) (w : Bool) (a b : Nat) : (holdTouch s h l w).temper a b = s.temper a b := by
  refine State.modHarbour_temper _ _ _ (fun x => ?_) (fun x => ?_) a b <;> (split <;> rfl)

theorem holdLeaves_temper (s : State) (h : Nat) (v : Nat × Bool) (a b : Nat) : (holdLeaves s h v).temper a b = s.temper a b := by
  unfold holdLeaves
  dsimp only
  split
  · exact (State.temper_of_harbours rfl _ _).trans (State.temper_of_tempers _ _ _ _ _ rfl rfl)
  · split
    · exact (State.temper_of_harbours rfl _ _).trans (State.temper_of_tempers _ _ _ _ _ rfl rfl)
    · rfl

theorem holdInstall_temper (s : State) (h l : Nat) (d : Bool) (a b : Nat) : (holdInstall s h l d).temper a b = s.temper a b := by
  unfold holdInstall
  dsimp only
  split
  · exact State.temper_of_tempers _ _ _ _ _ rfl rfl
  · exact (holdLeaves_temper _ _ _ _ _).trans (State.temper_of_tempers _ _ _ _ _ rfl rfl)

theorem holdAccess_temper (s : State) (h l : Nat) (w : Bool) (a b : Nat) : (holdAccess s h l w).temper a b = s.temper a b := by
  unfold holdAccess
  split
  · exact (State.temper_of_harbours rfl _ _).trans (holdTouch_temper _ _ _ _ _ _)
  · exact (holdInstall_temper _ _ _ _ _ _).trans (State.temper_of_harbours rfl _ _)

theorem holdLook_temper (s : State) (h l a b : Nat) : (holdLook s h l).temper a b = s.temper a b := by
  unfold holdLook
  split
  · exact (State.temper_of_harbours rfl _ _).trans (holdTouch_temper _ _ _ _ _ _)
  · exact State.temper_of_harbours rfl _ _

theorem holdWrites_temper (s : State) (h l a b : Nat) : (holdWrites s h l).temper a b = s.temper a b := by
  unfold holdWrites
  split
  · exact holdTouch_temper _ _ _ _ _ _
  · exact holdInstall_temper _ _ _ _ _ _

theorem fillArrives_temper (s : State) (h l : Nat) (x y : Bool) (a b : Nat) : (fillArrives s h l x y).temper a b = s.temper a b := by
  unfold fillArrives
  dsimp only
  split
  · rfl
  · split
    · exact (State.temper_of_harbours rfl _ _).trans (holdInstall_temper _ _ _ _ _ _)
    · exact holdInstall_temper _ _ _ _ _ _

theorem State.stored_temper (s : State) (x l : Nat) (bs : List Byte) (p : Bool) (a b : Nat) :
    ((s.store x bs).setPoison l p).temper a b = s.temper a b := State.temper_of_harbours rfl _ _

theorem writeLine_temper (s : State) (x : Nat) (d : BitVec 512) (p : Bool) (a b : Nat) : (writeLine s x d p).temper a b = s.temper a b := by
  unfold writeLine
  dsimp only
  rw [State.stored_temper]
  split
  · exact holdAccess_temper _ _ _ _ _ _
  · rfl

theorem writePart_temper (s : State) (x : Nat) (bs : List Byte) (a b : Nat) : (writePart s x bs).temper a b = s.temper a b := by
  unfold writePart
  dsimp only
  refine (State.temper_of_harbours rfl _ _).trans (?_ : (if addrSpace x = 0 then _ else _ : State).temper a b = _)
  split
  · exact holdWrites_temper _ _ _ _ _
  · rfl

theorem putBytes_temper (s : State) (x n : Nat) (d : BitVec 512) (p : Bool) (a b : Nat) : (putBytes s x n d p).temper a b = s.temper a b := by
  unfold putBytes
  split
  · exact writeLine_temper _ _ _ _ _ _
  · dsimp only
    split
    · exact (State.temper_of_harbours rfl _ _).trans (writePart_temper _ _ (leBytes n d.toNat) _ _)
    · exact writePart_temper _ _ _ _ _

theorem countFill_temper (s : State) (i : Item) (a b : Nat) : (countFill s i).temper a b = s.temper a b := by
  unfold countFill
  split
  · dsimp only
    split
    · exact (State.temper_of_harbours rfl _ _).trans (holdLook_temper _ _ _ _ _)
    · exact holdLook_temper _ _ _ _ _
  · rfl

theorem loseFill_temper (s : State) (i : Item) (a b : Nat) : (loseFill s i).temper a b = s.temper a b := by
  unfold loseFill
  split
  · exact fillArrives_temper _ _ _ _ _ _ _
  · rfl

theorem launchItem_temper (s : State) (h : Nat) (i : Item) (a b : Nat) : (launchItem s h i).1.temper a b = s.temper a b := by
  unfold launchItem
  dsimp only
  split
  · exact (loseFill_temper _ _ _ _).trans (countFill_temper _ _ _ _)
  · exact countFill_temper _ _ _ _

theorem takeOne_temper {s t : State} {g : Nat} (h : takeOne s g = some t) (a b : Nat) : t.temper a b = s.temper a b := by
  unfold takeOne at h
  split at h
  · cases h
  · obtain ⟨m, -, hm⟩ := List.exists_of_findSome?_eq_some h
    obtain ⟨p, -, rfl⟩ := Option.map_eq_some_iff.mp hm
    exact (State.modHarbour_temper _ _ _ (by intro; rfl) (by intro; rfl) _ _).trans
      (State.modHarbour_temper _ _ _ (by intro; rfl) (by intro; rfl) _ _)

theorem takeAll_temper (g : Nat) (n : Nat) (s : State) (a b : Nat) : (takeAll g n s).temper a b = s.temper a b := by
  induction n generalizing s with
  | zero => rfl
  | succ n ih =>
    unfold takeAll
    split
    · exact (ih _).trans (takeOne_temper ‹_› _ _)
    · rfl

theorem appendItem_temper (s : State) (h d : Nat) (i : Item) (a b : Nat) : (appendItem s h d i).temper a b = s.temper a b := by
  have key : ∀ (t : State) (j : Item), (takeFor t j).temper a b = t.temper a b := by
    intro t j
    unfold takeFor
    split
    · split
      · exact takeAll_temper _ _ _ _ _
      · rfl
    · rfl
  unfold appendItem
  dsimp only
  rw [key]
  exact (State.modHarbour_temper _ _ _ (by intro; rfl) (by intro; rfl) _ _).trans (launchItem_temper _ _ _ _ _)

/-- What a temper sends on leaves every temper. -/
theorem sendWrite_temper (s : State) (h u x n : Nat) (d : BitVec 512) (p : Bool) (a b : Nat) :
    (sendWrite s h u x n d p).temper a b = s.temper a b := by
  unfold sendWrite
  dsimp only
  split
  · exact (putBytes_temper _ _ _ _ _ _ _).trans (countFill_temper _ _ _ _)
  · exact appendItem_temper _ _ _ _ _ _

theorem writeBack_temper (s : State) (h u : Nat) (c : CLine) (a b : Nat) : (writeBack s h u c).temper a b = s.temper a b := by
  unfold writeBack; split
  · exact sendWrite_temper _ _ _ _ _ _ _ _ _
  · rfl

theorem countClass_temper (s : State) (h u c : Nat) (k : Bool) (a b : Nat) : (countClass s h u c k).temper a b = s.temper a b :=
  State.temper_of_harbours rfl _ _

/-- A line that enters a first level leaves the kernel and the misses of its temper. -/
theorem firstInstall_temper (s : State) (h u c : Nat) (x : CLine) :
    ((firstInstall s h u c x).temper h u).kernel = (s.temper h u).kernel ∧
      ((firstInstall s h u c x).temper h u).wants = (s.temper h u).wants := by
  unfold firstInstall
  dsimp only
  split
  · simp [State.temper_setTemper]
  · rw [writeBack_temper]; simp [State.temper_setTemper]

/-- A read through a first level leaves the kernel but for the lines that have come for it. -/
theorem firstRead_kernel (s : State) (h u c x : Nat) : ∃ g : Kernel → Kernel,
    ((firstRead s h u c x).1.temper h u).kernel = (s.temper h u).kernel.map g ∧
      ∀ k, g k = { k with arrived := (g k).arrived } := by
  unfold firstRead
  dsimp only
  split
  · exact ⟨_, modKernel_kernel _ _ _ _, fun _ => rfl⟩
  · split
    · refine ⟨id, ?_, fun _ => rfl⟩
      rw [countClass_temper, (firstInstall_temper _ _ _ _ _).1]; simp
    · exact ⟨id, by simp [State.temper_setTemper], fun _ => rfl⟩

theorem commitCmd_temper (s : State) (h e q a b : Nat) : (commitCmd s h e q).temper a b = s.temper a b :=
  (State.modHarbour_temper _ _ _ (by intro; rfl) (by intro; rfl) _ _).trans
    (State.modHarbour_temper _ _ _ (by intro; rfl) (by intro; rfl) _ _)

/-- The fetch leaves the kernel but for the lines that have come, and where it stands in its instruction. -/
theorem seatFetch_kernel {s : State} {h k : Nat} {x : Kernel} (hx : (s.temper h k).kernel = some x) :
    ∃ l, ((seatFetch s h k x).temper h k).kernel = some { x with arrived := l, done := some 0 } := by
  obtain ⟨g, hg, hgx⟩ := firstRead_kernel s h k 3 x.next
  refine ⟨(g x).arrived, ?_⟩
  unfold seatFetch
  dsimp only
  rw [modKernel_kernel]
  have : ((if x.executed = 0 then commitCmd (firstRead s h k 3 x.next).1 h (k + 1) x.queue else (firstRead s h k 3 x.next).1).temper h k).kernel
      = some (g x) := by
    split
    · rw [commitCmd_temper, hg, hx]; rfl
    · rw [hg, hx]; rfl
  rw [this, Option.map_some, hgx x]

theorem seatFetch_wants {s : State} {h k : Nat} (x : Kernel) (hw : (firstRead s h k 3 x.next).1.wants h k = []) :
    (seatFetch s h k x).wants h k = [] := by
  unfold seatFetch
  dsimp only
  rw [modKernel_wants]
  split
  · simpa [State.wants, commitCmd_temper] using hw
  · exact hw

theorem State.tile_of {s t : State} (h1 : s.tiles = t.tiles) (h2 : s.remaps = t.remaps) (h3 : s.carrier = t.carrier) (d : TileId) (q : Bool) :
    s.tile d q = t.tile d q := by
  simp [State.tile, State.physOf, State.tileAt, State.remapByte, State.remap, State.remapFactory, h1, h2, h3]

theorem State.advance_keeps (s : State) (n : Nat) : (s.advance n).tiles = s.tiles ∧ (s.advance n).remaps = s.remaps ∧
    (s.advance n).carrier = s.carrier ∧ (s.advance n).harbours = s.harbours := by
  unfold State.advance
  dsimp only
  have g : ∀ (t : State) (h : Nat), (groupTick n t h).tiles = t.tiles ∧ (groupTick n t h).remaps = t.remaps ∧
      (groupTick n t h).carrier = t.carrier ∧ (groupTick n t h).harbours = t.harbours := fun _ _ => ⟨rfl, rfl, rfl, rfl⟩
  split
  · exact ⟨rfl, rfl, rfl, rfl⟩
  · exact ⟨foldl_keep State.tiles _ (fun t h => (g t h).1) _ _, foldl_keep State.remaps _ (fun t h => (g t h).2.1) _ _,
      foldl_keep State.carrier _ (fun t h => (g t h).2.2.1) _ _, foldl_keep State.harbours _ (fun t h => (g t h).2.2.2) _ _⟩

theorem State.runTo_tile (s : State) (c : Nat) (d : TileId) (q : Bool) : (s.runTo c).tile d q = s.tile d q :=
  State.tile_of (s.advance_keeps _).1 (s.advance_keeps _).2.1 (s.advance_keeps _).2.2.1 d q

theorem countClamps_keeps (u : Seat) (s : State) (n : Nat) : (countClamps u s n).tiles = s.tiles ∧ (countClamps u s n).remaps = s.remaps ∧
    (countClamps u s n).carrier = s.carrier ∧ (countClamps u s n).harbours = s.harbours := by
  unfold countClamps
  split
  · exact ⟨rfl, rfl, rfl, rfl⟩
  · split <;> exact ⟨rfl, rfl, rfl, rfl⟩

/-! ### One instruction -/

theorem kernelRun_none {op n : Nat} {body : Body} {sh : Shape} {f : AnvilFields} {h k : Nat} {s t : State} {b : Bool} {x : Kernel}
    (hx : (s.temper h k).kernel = some x) (he : x.ended = false) (hd : x.done = none) (hf : kernelFetch op sh f h k x s = (t, b)) :
    kernelRun op body sh f h k (n + 1) s = if b then kernelRun op body sh f h k n t else t := by
  simp [kernelRun, hx, he, hd, hf]

theorem kernelRun_some {op n j : Nat} {body : Body} {sh : Shape} {f : AnvilFields} {h k : Nat} {s t : State} {b : Bool} {x : Kernel}
    (hx : (s.temper h k).kernel = some x) (he : x.ended = false) (hd : x.done = some j)
    (hf : kernelRepeat op body sh f h k x s j = (t, b)) :
    kernelRun op body sh f h k (n + 1) s = if b then kernelRun op body sh f h k n t else t := by
  simp [kernelRun, hx, he, hd, hf]

/-- The word that the next fetch reads is the kernel's next word. -/
theorem kernelWord_of_fetch {s : State} {h k a : Nat} (hw : (firstRead s h k 3 a).1.wants h k = []) :
    kernelWord s h k a = BitVec.ofNat 64 (lineBits (firstRead s h k 3 a).2.data (a % 64) 64) := by
  have hl : hasLevel s h k 3 = true := by simp [hasLevel, firstSets]
  unfold firstRead at hw ⊢
  unfold kernelWord
  simp only [hl, ↓reduceIte, Temper.cache] at hw ⊢
  cases h1 : (s.temper h k).kernel.bind fun x => x.arrived.find? fun g => g.cls == 3 && g.line == a / 64 with
  | some g => rfl
  | none =>
    rw [h1] at hw
    cases h2 : (s.temper h k).instr.find? fun c => c.line == a / 64 with
    | some c => rfl
    | none =>
      rw [h2] at hw
      simp [State.wants, State.temper_setTemper] at hw

/-- The state of a temper whose kernel does its next instruction. -/
theorem kernel_runs {op : Nat} {body : Body} {h k : Nat} {f : AnvilFields} {s : State} {rf : Regfile} {sh : Shape}
    (hr : readyAt s (.temper h k) op f rf) (hs : shapeOf op f = some sh)
    (r : Ran) (hrun : runOnce op body (seatExec s (.temper h k)) f { s := seatState s (.temper h k), rf := rf, stop := none } = r)
    (hk : keepsSeat s r.s (.temper h k)) (hw : r.wait = false) :
    ∃ x l, (s.temper h k).kernel = some x ∧ x.rep = none ∧
      runKernel op body h k f s = match r.stop with
        | some _ => kernelNext op sh f h k { x with arrived := l, done := some 0 } r
        | none => seatNext op sh f (.temper h k) s r := by
  obtain ⟨hto, hu, hk2, hst, hwait, x, hx, rfl, he, hb, hrep, hdone, hfw, hword, hp⟩ := hr
  obtain ⟨l, hl⟩ := seatFetch_kernel hx
  refine ⟨x, l, hx, hrep, ?_⟩
  have hb2 : ¬ x.budget ≤ x.executed := by omega
  have hfetch : kernelFetch op sh f h k x s = (seatFetch s h k x, true) := by
    simp [kernelFetch, hfw, hword, hp, hto, seatFetch]
  have hlen : repeats x.rep = 1 := by rw [hrep]; rfl
  have honce : kernelOnce op body sh f h k { x with arrived := l, done := some 0 } (seatFetch s h k x) 0 = r := by
    rw [← hrun]
    simp only [kernelOnce, seatExec, seatState, hx, hrep, stepOffset, fieldsAt, Nat.zero_mul, Nat.add_zero]
    rfl
  obtain ⟨hk1, hkw⟩ := hk
  rw [hx] at hk1
  obtain ⟨y, hy, hyp⟩ : ∃ y, (r.s.temper h k).kernel = some y ∧ Kernel.place y = Kernel.place x := by
    cases hy : (r.s.temper h k).kernel with
    | none => simp [hy] at hk1
    | some y => exact ⟨y, rfl, by simpa [hy] using hk1⟩
  simp only [Kernel.place, Prod.mk.injEq] at hyp
  simp only [runKernel, hx, hs, he, hst, hwait, hdone, Option.isNone_none, Bool.true_and, hb2, decide_false, Bool.or_self,
    kernelWord_of_fetch hfw, hword, bne_self_eq_false, Bool.false_eq_true, ↓reduceIte]
  rw [show (16384 : Nat) = 16381 + 1 + 1 + 1 from rfl, kernelRun_none hx he hdone hfetch, if_pos rfl]
  cases hstop : r.stop with
  | some st =>
    have hrepeat : kernelRepeat op body sh f h k { x with arrived := l, done := some 0 } (seatFetch s h k x) 0 =
        (kernelNext op sh f h k { x with arrived := l, done := some 0 } r, false) := by
      simp [kernelRepeat, hlen, hb, honce, hkw, hstop]
    rw [kernelRun_some hl he rfl hrepeat, if_neg Bool.false_ne_true]; simp only [he]
  | none =>
    have hrepeat : kernelRepeat op body sh f h k { x with arrived := l, done := some 0 } (seatFetch s h k x) 0 =
        (modKernel r.s h k fun y => { y with rf := r.rf, done := some 1, arrived := [] }, true) := by
      simp [kernelRepeat, hlen, hb, honce, hkw, hstop, hw]
    rw [kernelRun_some hl he rfl hrepeat, if_pos rfl]
    have hy2 : ((modKernel r.s h k fun y => { y with rf := r.rf, done := some 1, arrived := [] }).temper h k).kernel =
        some { y with rf := r.rf, done := some 1, arrived := [] } := by rw [modKernel_kernel, hy]; rfl
    have hlast : kernelRepeat op body sh f h k { y with rf := r.rf, done := some 1, arrived := [] }
        (modKernel r.s h k fun y => { y with rf := r.rf, done := some 1, arrived := [] }) 1 =
        (kernelNext op sh f h k { y with rf := r.rf, done := some 1, arrived := [] }
          { s := modKernel r.s h k fun y => { y with rf := r.rf, done := some 1, arrived := [] }, rf := r.rf, stop := none }, false) := by
      simp [kernelRepeat, hyp, hrep, repeats]
    rw [kernelRun_some hy2 (hyp.2.2.2.trans he) rfl hlast]
    simp [seatNext, hstop, hy2]

/-- An instruction that is next on a tile runs once, in its slot's cycle (R92). -/
theorem tile_runs {op : Nat} {body : Body} {t : TileId} {q : Bool} {f : AnvilFields} {s : State} {rf : Regfile} {sh : Shape}
    (h : readyAt s (.tile t q) op f rf) (hs : shapeOf op f = some sh) :
    runTile op body t q f s = seatNext op sh f (.tile t q) s
      (runOnce op body (seatExec s (.tile t q)) f { s := seatState s (.tile t q), rf := rf, stop := none }) := by
  obtain ⟨hu, i, hi, rfl, hq, hrep, hw, hl, -⟩ := h
  simp only [runTile, hi, hs, hq, hw, wordLost, hl, hrep, seatNext, beq_self_eq_true, Bool.and_self,
    Option.map_none, Option.getD_none, Bool.or_self, Bool.false_eq_true, ↓reduceIte, repeats, List.range_one, List.foldl_cons,
    List.foldl_nil, tileOnce, Nat.zero_mul, Nat.add_zero, fieldsAt, stepOffset, seatExec, seatState]

theorem anvil_off {op : Nat} {u : Seat} {f : AnvilFields} {s : State} {rf : Regfile} (body : Body) (hop : predOn rf f = false) (t : State) :
    runOnce op body (seatExec s u) f { s := t, rf := rf, stop := none } = { s := t, rf := rf, stop := none } := by
  have : (seatExec s u).lost = false := by
    cases u <;> (dsimp only [seatExec]; split <;> rfl)
  simp [runOnce, this, hop]

theorem anvil_on {op : Nat} {u : Seat} {f : AnvilFields} {s : State} {rf : Regfile} (body : Body) (hop : predOn rf f = true) (t : State) :
    runOnce op body (seatExec s u) f { s := t, rf := rf, stop := none } = body (seatExec s u) f t rf := by
  have : (seatExec s u).lost = false := by
    cases u <;> (dsimp only [seatExec]; split <;> rfl)
  simp [runOnce, this, hop]

/-- What a temper's kernel leaves with its next instruction: its registers, and the next place. -/
theorem kernelNext_ran {op : Nat} {h k : Nat} {f : AnvilFields} {s : State} {x y : Kernel} {sh : Shape} {r : Ran}
    (hx : (s.temper h k).kernel = some x) (hy : ((r.s.temper h k).kernel).isSome = true) (hp : y.slot = x.slot ∧ y.pos = x.pos)
    (hrep : y.rep = none) (hop : op ≠ 0x3C) : ranOn s (kernelNext op sh f h k y r) (.temper h k) sh.slots r.rf := by
  obtain ⟨z, hz⟩ := Option.isSome_iff_exists.mp hy
  have hb0 : decide (op = 0x3C) = false := by simp [hop]
  simp only [kernelNext, hb0, Bool.false_and, Bool.false_eq_true, ↓reduceIte, hrep, repeats, Nat.one_mul]
  have key : ∀ t : State, (∃ g : Kernel → Kernel, (t.temper h k).kernel = (((modKernel r.s h k fun z => { z with rf := r.rf, slot := y.slot + sh.slots, pos := y.pos + 1, rep := nextRepeat op f false, done := none, arrived := [] }).temper h k).kernel).map g ∧ ∀ x, (g x).rf = x.rf ∧ (g x).slot = x.slot ∧ (g x).pos = x.pos) →
      ranOn s t (.temper h k) sh.slots r.rf := by
    intro t ⟨g, hg, hgx⟩
    rw [modKernel_kernel, hz] at hg
    simp only [ranOn, seatRegs, seatPlace, hg, hx, Option.map_some, hgx, hp]
    exact ⟨trivial, trivial⟩
  split
  · exact key _ (endKernel_kernel _ _ _ _ _)
  · split
    · exact key _ (endKernel_kernel _ _ _ _ _)
    · exact key _ ⟨id, by simp, fun _ => ⟨rfl, rfl, rfl⟩⟩

/-- An instruction that is next runs once, and its seat holds the registers that it leaves (R92, R193). -/
theorem anvil_once {op : Nat} {body : Body} {u : Seat} {f : AnvilFields} {s : State} {rf : Regfile} {sh : Shape} {r : Ran}
    (h : readyAt s u op f rf) (hs : shapeOf op f = some sh)
    (hr : runOnce op body (seatExec s u) f { s := seatState s u, rf := rf, stop := none } = r)
    (hop : op ≠ 0x3C) (hk : keepsSeat s r.s u) (hw : r.wait = false) :
    ∃ t, anvil op body u f s = .next t ∧ ranOn s t u sh.slots r.rf := by
  cases u with
  | tile t q =>
    have h0 : s.hasSeat (.tile t q) = true := h.1
    refine ⟨_, by simp only [anvil]; rw [h0, tile_runs h hs, hr]; rfl, ?_⟩
    obtain ⟨hu, i, hi, rfl, hq, hrep, hw, hl, hlen⟩ := h
    have hk' : i.pos + 1 < (progOf (r.s.tile t q) q).length := by
      have : progOf (r.s.tile t q) q = progOf (s.tile t q) q := hk
      rw [this]; exact hlen
    simp only [seatNext, hi, tileNext, hrep, hk', ↓reduceIte, ranOn, seatRegs, seatPlace, Option.map_some, repeats, Nat.one_mul]
    have e : ∀ (w : State) (p : List Instr), ({ w with pending := p } : State).tile t q = w.tile t q := fun _ _ => rfl
    simp only [e, State.tile_setTile, Option.map_some]
    exact ⟨trivial, trivial⟩
  | temper h' k =>
    obtain ⟨x, l, hx, hrep, hrun⟩ := kernel_runs h hs r hr hk hw
    have h0 : s.hasSeat (.temper h' k) = true := by simp [State.hasSeat, h.2.1, h.2.2.1]
    refine ⟨_, by simp only [anvil]; rw [h0, hrun]; rfl, ?_⟩
    have hsome : (r.s.temper h' k).kernel.isSome = true := by
      have := hk.1; rw [hx] at this
      cases hy : (r.s.temper h' k).kernel with
      | none => simp [hy] at this
      | some y => rfl
    suffices hran : ∀ w : State, ranOn s w (.temper h' k) sh.slots r.rf → ranOn s { w with pending := s.pending } (.temper h' k) sh.slots r.rf by
      refine hran _ ?_
      cases hstop : r.stop with
      | some st => exact kernelNext_ran hx hsome ⟨rfl, rfl⟩ hrep hop
      | none =>
        obtain ⟨y, hy⟩ := Option.isSome_iff_exists.mp hsome
        have hy2 : ((modKernel r.s h' k fun y => { y with rf := r.rf, done := some 1, arrived := [] }).temper h' k).kernel =
            some { y with rf := r.rf, done := some 1, arrived := [] } := by rw [modKernel_kernel, hy]; rfl
        have hp : Kernel.place y = Kernel.place x := by
          have := hk.1; rw [hx, hy] at this; simpa using this
        simp only [Kernel.place, Prod.mk.injEq] at hp
        simp only [seatNext, hstop, hy2]
        exact kernelNext_ran (r := { s := _, rf := r.rf, stop := none }) hx (by rw [hy2]; rfl) ⟨hp.1, hp.2.1⟩ (hp.2.2.1.trans hrep) hop
    exact fun _ hw => hw

/-- An instruction with its predicate on leaves what its body leaves. -/
theorem anvil_ran {op : Nat} {body : Body} {u : Seat} {f : AnvilFields} {s : State} {rf : Regfile} {sh : Shape} {r : Ran}
    (h : readyAt s u op f rf) (hs : shapeOf op f = some sh) (hp : predOn rf f = true) (hr : body (seatExec s u) f (seatState s u) rf = r)
    (hop : op ≠ 0x3C) (hk : keepsSeat s r.s u) (hw : r.wait = false) : ∃ t, anvil op body u f s = .next t ∧ ranOn s t u sh.slots r.rf :=
  anvil_once h hs ((anvil_on body hp _).trans hr) hop hk hw

/-- The fetch and the slot's cycle leave the program and the kernel's place, and so does all that leaves tiles and harbours. -/
theorem keepsSeat_of {op : Nat} {u : Seat} {f : AnvilFields} {s t : State} {rf : Regfile} (h : readyAt s u op f rf)
    (ht : t.tiles = (seatState s u).tiles) (hm : t.remaps = (seatState s u).remaps) (hc : t.carrier = (seatState s u).carrier)
    (hh : t.harbours = (seatState s u).harbours) : keepsSeat s t u := by
  cases u with
  | tile d q =>
    obtain ⟨-, i, hi, -⟩ := h
    have : t.tile d q = s.tile d q := by
      rw [State.tile_of ht hm hc]; simp [seatState, hi, State.runTo_tile]
    simp [keepsSeat, this]
  | temper h' k =>
    obtain ⟨-, -, -, -, -, x, hx, -, -, -, -, -, hw, -⟩ := h
    obtain ⟨l, hl⟩ := seatFetch_kernel hx
    refine ⟨?_, ?_⟩
    · rw [State.temper_of_harbours hh, hx]
      simp only [seatState, hx, modKernel_kernel, hl]
      rfl
    · rw [State.wants, State.temper_of_harbours hh]
      simp only [seatState, hx]
      rw [← State.wants, modKernel_wants]
      exact seatFetch_wants x hw

theorem keepsSeat_state {op : Nat} {u : Seat} {f : AnvilFields} {s : State} {rf : Regfile} (h : readyAt s u op f rf) :
    keepsSeat s (seatState s u) u := keepsSeat_of h rfl rfl rfl rfl

/-- An instruction with its predicate off leaves the registers (R132). -/
theorem anvil_skipped {op : Nat} {body : Body} {u : Seat} {f : AnvilFields} {s : State} {rf : Regfile} {sh : Shape}
    (h : readyAt s u op f rf) (hs : shapeOf op f = some sh) (hp : predOn rf f = false) (hop : op ≠ 0x3C) :
    ∃ t, anvil op body u f s = .next t ∧ ranOn s t u sh.slots rf :=
  anvil_once h hs (anvil_off body hp _) hop (keepsSeat_state h) rfl

/-- An instruction on registers alone that is next. -/
theorem regBody_ran {op : Nat} {g : (Nat → Rnd) → AnvilFields → Regfile → Regfile × Nat} {u : Seat} {f : AnvilFields} {s : State}
    {rf : Regfile} {sh : Shape} (h : readyAt s u op f rf) (hs : shapeOf op f = some sh) (hp : predOn rf f = true) (hop : op ≠ 0x3C) :
    ∃ t, anvil op (regBody g) u f s = .next t ∧ ranOn s t u sh.slots (g (seatRnd s u f) f rf).1 :=
  anvil_ran h hs hp rfl hop (keepsSeat_of h (countClamps_keeps ..).1 (countClamps_keeps ..).2.1 (countClamps_keeps ..).2.2.1
    (countClamps_keeps ..).2.2.2) rfl

/-- An instruction that writes D as a word formed in FMT. -/
theorem vecBody_ran {op : Nat} {g : Fmt → (Nat → Rnd) → AnvilFields → Regfile → WordOut} {u : Seat} {f : AnvilFields} {s : State}
    {rf : Regfile} {sh : Shape} {m : Fmt} (h : readyAt s u op f rf) (hs : shapeOf op f = some sh) (hp : predOn rf f = true)
    (hm : fmtOf f = some m) (hop : op ≠ 0x3C) :
    ∃ t, anvil op (vecBody g) u f s = .next t ∧
      ranOn s t u sh.slots (setV rf f.d.toNat (BitVec.ofNat 256 (g m (seatRnd s u f) f rf).word)) := by
  have := regBody_ran (g := fun rnd f rf => match fmtOf f with
    | none => (rf, 0)
    | some m => (setV rf f.d.toNat (BitVec.ofNat 256 (g m rnd f rf).word), (g m rnd f rf).clamps)) h hs hp hop
  simp only [hm] at this
  exact this

end Sys2Proof.Machine
end

