-- ==== Sys2Proof/Laws/Control.lean ====
section
/-! SUPPORT. What the traffic of lanes, tiles and engines leaves of commits, activations, schedules, patches and power. -/

set_option linter.all false

namespace Sys2Proof.Machine
theorem foldl_control {α : Type} (f : State → α → State) (h : ∀ s x, (f s x).control = s.control) (l : List α) (s : State) :
    (l.foldl f s).control = s.control := foldl_keep (fun t => t.control) f h l s
theorem ite_control (c : Prop) [Decidable c] (s t : State) : (if c then s else t).control = if c then s.control else t.control := by
  split <;> rfl
theorem mk_control (x0 x1 x2 x3 x4 x5 x6 x7 x8 x9 x10 x11 x12 x13 x14 x15 x16 x17 x18 x19 x20 x21 x22 x23 x24 x25 x26 x27 x28 x29 x30 x31 x32 x33 x34 x35) :
    State.control ⟨x0, x1, x2, x3, x4, x5, x6, x7, x8, x9, x10, x11, x12, x13, x14, x15, x16, x17, x18, x19, x20, x21, x22, x23, x24, x25, x26, x27, x28, x29, x30, x31, x32, x33, x34, x35⟩ = (x4, x5, x6, x8, x9, x10, x11, x12, x13, x28, x29, x33) := rfl
theorem fold_control (s : State) : (s.act, s.carrier, s.flash, s.domains, s.pub, s.pubDomains, s.actions, s.swaps, s.periods, s.patch, s.images, s.power) = s.control := rfl
theorem foldl_ran_control (g : Ran → Nat → Ran) (hg : ∀ x j, (g x j).s.control = x.s.control) (l : List Nat) (x : Ran) :
    (l.foldl g x).s.control = x.s.control := by
  induction l generalizing x with
  | nil => rfl
  | cons a l ih => exact (ih _).trans (hg _ _)
theorem foldl_pair_control {α β : Type} (g : State × β → α → State × β) (hg : ∀ x a, (g x a).1.control = x.1.control) (l : List α) (x : State × β) :
    (l.foldl g x).1.control = x.1.control := by
  induction l generalizing x with
  | nil => rfl
  | cons a l ih => exact (ih _).trans (hg _ _)
theorem foldl_memRead_control {α β : Type} (g : MemRead × β → α → MemRead × β) (hg : ∀ x a, (g x a).1.s.control = x.1.s.control) (l : List α)
    (x : MemRead × β) : (l.foldl g x).1.s.control = x.1.s.control := by
  induction l generalizing x with
  | nil => rfl
  | cons a l ih => exact (ih _).trans (hg _ _)
@[simp] theorem State.setReg_control (s : State) (a1 : Reg) (a2 : Nat) (a3 : Nat) : (State.setReg s a1 a2 a3).control = s.control := by
  unfold State.setReg
  simp [foldl_control, ite_control, mk_control, fold_control]
@[simp] theorem State.count_control (s : State) (a1 : Reg) (a2 : Nat) (a3 : optParam Nat 32) (a4 : optParam Nat 1) : (State.count s a1 a2 a3 a4).control = s.control := by
  unfold State.count
  simp [foldl_control, ite_control, mk_control, fold_control]
@[simp] theorem State.setTileAt_control (s : State) (a1 : Nat) (a2 : Tile) : (State.setTileAt s a1 a2).control = s.control := by
  unfold State.setTileAt
  simp [foldl_control, ite_control, mk_control, fold_control]
@[simp] theorem State.setTile_control (s : State) (a1 : TileId) (a2 : Bool) (a3 : Tile) : (State.setTile s a1 a2 a3).control = s.control := by
  unfold State.setTile
  simp [foldl_control, ite_control, mk_control, fold_control]
@[simp] theorem State.setLane_control (s : State) (a1 : Nat) (a2 : Lane) : (State.setLane s a1 a2).control = s.control := by
  unfold State.setLane
  simp [foldl_control, ite_control, mk_control, fold_control]
@[simp] theorem State.setShoal_control (s : State) (a1 : Nat) (a2 : Shoal) : (State.setShoal s a1 a2).control = s.control := by
  unfold State.setShoal
  simp [foldl_control, ite_control, mk_control, fold_control]
@[simp] theorem State.setPlane_control (s : State) (a1 : Nat) (a2 : Bool) (a3 : Plane) : (State.setPlane s a1 a2 a3).control = s.control := by
  unfold State.setPlane
  simp [foldl_control, ite_control, mk_control, fold_control]
@[simp] theorem State.setQuench_control (s : State) (a1 : Nat) (a2 : Quench) : (State.setQuench s a1 a2).control = s.control := by
  unfold State.setQuench
  simp [foldl_control, ite_control, mk_control, fold_control]
@[simp] theorem State.setTank_control (s : State) (a1 : Nat) (a2 : Tank) : (State.setTank s a1 a2).control = s.control := by
  unfold State.setTank
  simp [foldl_control, ite_control, mk_control, fold_control]
@[simp] theorem State.setHarbour_control (s : State) (a1 : Nat) (a2 : Harbour) : (State.setHarbour s a1 a2).control = s.control := by
  unfold State.setHarbour
  simp [foldl_control, ite_control, mk_control, fold_control]
@[simp] theorem State.modHarbour_control (s : State) (a1 : Nat) (a2 : Harbour → Harbour) : (State.modHarbour s a1 a2).control = s.control := by
  unfold State.modHarbour
  simp [foldl_control, ite_control, mk_control, fold_control]
@[simp] theorem State.setPlaneState_control (s : State) (a1 : Nat) (a2 : Bool) (a3 : Nat) : (State.setPlaneState s a1 a2 a3).control = s.control := by
  unfold State.setPlaneState
  simp [foldl_control, ite_control, mk_control, fold_control]
@[simp] theorem State.fresh_control (s : State) (a1 : Nat) : (State.fresh s a1).2.control = s.control := by
  unfold State.fresh
  simp [foldl_control, ite_control, mk_control, fold_control]
@[simp] theorem groupTick_control (a0 : Nat) (s : State) (a2 : Nat) : (groupTick a0 s a2).control = s.control := by
  unfold groupTick
  simp [foldl_control, ite_control, mk_control, fold_control]
@[simp] theorem State.advance_control (s : State) (a1 : Nat) : (State.advance s a1).control = s.control := by
  unfold State.advance
  simp [foldl_control, ite_control, mk_control, fold_control]
@[simp] theorem State.runTo_control (s : State) (a1 : Nat) : (State.runTo s a1).control = s.control := by
  unfold State.runTo
  simp [foldl_control, ite_control, mk_control, fold_control]
@[simp] theorem State.store_control (s : State) (a1 : Nat) (a2 : List Byte) : (State.store s a1 a2).control = s.control := by
  unfold State.store
  simp [foldl_control, ite_control, mk_control, fold_control]
@[simp] theorem State.setPoison_control (s : State) (a1 : Nat) (a2 : Bool) : (State.setPoison s a1 a2).control = s.control := by
  unfold State.setPoison
  simp [foldl_control, ite_control, mk_control, fold_control]
@[simp] theorem State.emit_control (s : State) (a1 : Out) : (State.emit s a1).control = s.control := by
  unfold State.emit
  simp [foldl_control, ite_control, mk_control, fold_control]
@[simp] theorem State.sendCan_control (s : State) (a1 : Nat) (a2 : List Byte) : (State.sendCan s a1 a2).control = s.control := by
  unfold State.sendCan
  simp [foldl_control, ite_control, mk_control, fold_control]
theorem State.onFrame_control (s : State) (port : Nat) (f : EthFrame) (taken : State → State) (ht : ∀ t, (taken t).control = t.control) :
    (State.onFrame s port f taken).control = s.control := by
  unfold State.onFrame
  (repeat' split) <;> simp [ht]
@[simp] theorem State.accessed_control (s : State) (a1 : Via) : (State.accessed s a1).control = s.control := by
  unfold State.accessed
  simp [foldl_control, ite_control, mk_control, fold_control]
@[simp] theorem State.notify_control (s : State) (a1 : Nat) (a2 : Nat) (a3 : List Byte) : (State.notify s a1 a2 a3).control = s.control := by
  unfold State.notify
  simp [foldl_control, ite_control, mk_control, fold_control]
@[simp] theorem State.sendHeartbeat_control (s : State) : (State.sendHeartbeat s).control = s.control := by
  unfold State.sendHeartbeat
  (repeat' (first | split | dsimp only)) <;> first | with_reducible rfl | simp [foldl_control, ite_control, mk_control, fold_control]
@[simp] theorem State.sendBootUp_control (s : State) : (State.sendBootUp s).control = s.control := by
  unfold State.sendBootUp
  simp [foldl_control, ite_control, mk_control, fold_control]
@[simp] theorem State.log_control (s : State) (a1 : Event) : (State.log s a1).control = s.control := by
  unfold State.log
  simp [foldl_control, ite_control, mk_control, fold_control]
@[simp] theorem State.pushErrorField_control (s : State) (a1 : Nat) (a2 : Nat) : (State.pushErrorField s a1 a2).control = s.control := by
  unfold State.pushErrorField
  simp [foldl_control, ite_control, mk_control, fold_control]
@[simp] theorem State.emcy_control (s : State) (a1 : Event) : (State.emcy s a1).control = s.control := by
  unfold State.emcy
  simp [foldl_control, ite_control, mk_control, fold_control]
@[simp] theorem State.detFault_control (s : State) (a1 : Nat) (a2 : Nat) : (State.detFault s a1 a2).control = s.control := by
  unfold State.detFault
  simp [foldl_control, ite_control, mk_control, fold_control]
@[simp] theorem setClass_control (s : State) (a1 : UnitClass) : (setClass s a1).control = s.control := by
  unfold setClass
  simp [foldl_control, ite_control, mk_control, fold_control]
@[simp] theorem makeOffer_control (s : State) (a1 : Waiting) : (makeOffer s a1).control = s.control := by
  unfold makeOffer
  (repeat' (first | split | dsimp only)) <;> first | with_reducible rfl | simp [foldl_control, ite_control, mk_control, fold_control]
@[simp] theorem remapOffer_control (s : State) (a1 : FaultUnit) : (remapOffer s a1).control = s.control := by
  unfold remapOffer
  (repeat' (first | split | dsimp only)) <;> first | with_reducible rfl | simp [foldl_control, ite_control, mk_control, fold_control]
@[simp] theorem classify_control (s : State) (a1 : FaultUnit) (a2 : Bool) (a3 : Nat) (a4 : Nat) : (classify s a1 a2 a3 a4).control = s.control := by
  unfold classify
  simp [foldl_control, ite_control, mk_control, fold_control]
@[simp] theorem detect_control (s : State) (a1 : FaultUnit) (a2 : Bool) (a3 : Nat) (a4 : Nat) : (detect s a1 a2 a3 a4).control = s.control := by
  unfold detect
  simp [foldl_control, ite_control, mk_control, fold_control]
@[simp] theorem State.setXlane_control (s : State) (a1 : Nat) (a2 : XLane) : (State.setXlane s a1 a2).control = s.control := by
  unfold State.setXlane
  simp [foldl_control, ite_control, mk_control, fold_control]
@[simp] theorem serialize_control (s : State) (a1 : Nat) (a2 : Nat) (a3 : Nat) : (serialize s a1 a2 a3).control = s.control := by
  unfold serialize
  simp [foldl_control, ite_control, mk_control, fold_control]
@[simp] theorem transmit_control (s : State) (a1 : Nat) (a2 : List Coded) : (transmit s a1 a2).control = s.control := by
  unfold transmit
  simp [foldl_control, ite_control, mk_control, fold_control]
@[simp] theorem sendFerry_control (s : State) (a1 : Nat) (a2 : Nat) (a3 : Token) : (sendFerry s a1 a2 a3).control = s.control := by
  unfold sendFerry
  simp [foldl_control, ite_control, mk_control, fold_control]
@[simp] theorem deliver_control (s : State) (a1 : Nat) (a2 : Bool) (a3 : Dest) (a4 : Nat) (a5 : Token) : (deliver s a1 a2 a3 a4 a5).control = s.control := by
  unfold deliver
  (repeat' (first | split | dsimp only)) <;> first | with_reducible rfl | simp [foldl_control, ite_control, mk_control, fold_control]
@[simp] theorem dropLine_control (s : State) (a1 : TileId) (a2 : Port) (a3 : Bool) : (dropLine s a1 a2 a3).control = s.control := by
  unfold dropLine
  simp [foldl_control, ite_control, mk_control, fold_control]
@[simp] theorem tapInto_control (s : State) (a1 : Nat) (a2 : Bool) (a3 : Token) (a4 : Beat) : (tapInto s a1 a2 a3 a4).control = s.control := by
  unfold tapInto
  simp [foldl_control, ite_control, mk_control, fold_control]
@[simp] theorem tap_control (s : State) (a1 : Nat) (a2 : Nat) (a3 : Nat) (a4 : Nat) (a5 : Bool) (a6 : Token) (a7 : Beat) : (tap s a1 a2 a3 a4 a5 a6 a7).control = s.control := by
  unfold tap
  simp [foldl_control, ite_control, mk_control, fold_control]
@[simp] theorem hazard_control (s : State) (a1 : Nat) (a2 : Beat) (a3 : Nat) (a4 : Bool) (a5 : TileId) (a6 : Nat) (a7 : Nat) (a8 : Nat) : (hazard s a1 a2 a3 a4 a5 a6 a7 a8).control = s.control := by
  unfold hazard
  (repeat' (first | split | dsimp only)) <;> first | with_reducible rfl | simp [foldl_control, ite_control, mk_control, fold_control]
@[simp] theorem faultToken_control (a0 : Fmt) (s : State) (a2 : TileId) (a3 : Bool) (a4 : Port) (a5 : Nat) (a6 : Token) : (faultToken a0 s a2 a3 a4 a5 a6).1.control = s.control := by
  unfold faultToken
  simp [foldl_control, ite_control, mk_control, fold_control]
@[simp] theorem channelFault_control (s : State) (a1 : TileId) (a2 : Bool) (a3 : Port) (a4 : Nat) (a5 : Token) : (channelFault s a1 a2 a3 a4 a5).1.control = s.control := by
  unfold channelFault
  simp [foldl_control, ite_control, mk_control, fold_control]
theorem crossPass_control (f : Nat) (q : Bool) (beat : Beat) (t : TileId) (i o : Port) (y : State × Token) :
    (crossPass f q beat t i o y).1.control = y.1.control := by
  unfold crossPass
  by_cases h : tagValid y.2.tag = true <;> simp [h]
@[simp] theorem crossPasses_control (s : State) (f : Nat) (q : Bool) (beat : Beat) (seen : List (TileId × Port)) (path : List PathEl) (tok : Token) :
    (crossPasses s f q beat seen path tok).1.control = s.control := by
  unfold crossPasses
  refine foldl_fixed (fun y : State × Token => y.1.control) _ (fun y el => ?_) path (s, tok)
  (repeat' split) <;> simp [crossPass_control]
@[simp] theorem crossRoutes_control (f : Nat) (q : Bool) (cycle : Nat) (beat : Beat) (tok : Token) (seen : List (TileId × Port)) (ls : List Link)
    (s : State) : (crossRoutes f q cycle beat tok seen ls s).control = s.control := by
  induction ls generalizing s seen with
  | nil => rfl
  | cons l ls ih => simp [crossRoutes, ih]
@[simp] theorem launchToken_control (s : State) (a1 : Nat) (a2 : Bool) (a3 : Source) (a4 : Nat) (a5 : Beat) (a6 : Token) : (launchToken s a1 a2 a3 a4 a5 a6).control = s.control := by
  unfold launchToken
  simp
@[simp] theorem startInstance_control (s : State) (a1 : TileId) (a2 : Bool) (a3 : Nat) (a4 : Token) : (startInstance s a1 a2 a3 a4).control = s.control := by
  unfold startInstance
  simp [foldl_control, ite_control, mk_control, fold_control]
@[simp] theorem dropTrigger_control (s : State) (a1 : TileId) (a2 : Bool) (a3 : Token) : (dropTrigger s a1 a2 a3).control = s.control := by
  unfold dropTrigger
  simp [foldl_control, ite_control, mk_control, fold_control]
@[simp] theorem triggerArrives_control (s : State) (a1 : TileId) (a2 : Bool) : (triggerArrives s a1 a2).control = s.control := by
  unfold triggerArrives
  (repeat' (first | split | dsimp only)) <;> first | with_reducible rfl | simp [foldl_control, ite_control, mk_control, fold_control]
@[simp] theorem discardToken_control (s : State) (a1 : TileId) (a2 : Port) (a3 : Bool) (a4 : Timed) : (discardToken s a1 a2 a3 a4).control = s.control := by
  unfold discardToken
  simp [foldl_control, ite_control, mk_control, fold_control]
@[simp] theorem orphanLeaves_control (s : State) (a1 : TileId) (a2 : Port) (a3 : Bool) : (orphanLeaves s a1 a2 a3).control = s.control := by
  unfold orphanLeaves
  (repeat' (first | split | dsimp only)) <;> first | with_reducible rfl | simp [foldl_control, ite_control, mk_control, fold_control]
@[simp] theorem tileError_control (s : State) (a1 : Nat) (a2 : Nat) (a3 : Nat) (a4 : TileError) (a5 : Beat) (a6 : Nat) : (tileError s a1 a2 a3 a4 a5 a6).control = s.control := by
  unfold tileError
  simp [foldl_control, ite_control, mk_control, fold_control]
@[simp] theorem tapDrain_control (s : State) (a1 : Nat) : (tapDrain s a1).control = s.control := by
  unfold tapDrain
  (repeat' (first | split | dsimp only)) <;> first | with_reducible rfl | exact (mk_control _ _ _ _ _ _ _ _ _ _ _ _ _ _ _ _ _ _ _ _ _ _ _ _ _ _ _ _ _ _ _ _ _ _ _ _).trans (fold_control s)
@[simp] theorem startTests_control (s : State) (a1 : Test → Bool) : (startTests s a1).control = s.control := by
  unfold startTests
  simp [foldl_control, ite_control, mk_control, fold_control]
@[simp] theorem serveBanked_control (s : State) (a1 : Nat) (a2 : Nat) (a3 : Nat) (a4 : Option TileError) : (serveBanked s a1 a2 a3 a4).control = s.control := by
  unfold serveBanked
  (repeat' (first | split | dsimp only)) <;> first | with_reducible rfl | simp [foldl_control, ite_control, mk_control, fold_control]
@[simp] theorem bankedServes_control (s : State) (a1 : Nat) (a2 : Nat) (a3 : Nat) (a4 : Option TileError) : (bankedServes s a1 a2 a3 a4).control = s.control := by
  unfold bankedServes
  (repeat' (first | split | dsimp only)) <;> first | with_reducible rfl | simp [foldl_control, ite_control, mk_control, fold_control]
@[simp] theorem holdLeaves_control (s : State) (a1 : Nat) (a2 : Nat × Bool) : (holdLeaves s a1 a2).control = s.control := by
  unfold holdLeaves
  simp [foldl_control, ite_control, mk_control, fold_control]
@[simp] theorem holdInstall_control (s : State) (a1 : Nat) (a2 : Nat) (a3 : Bool) : (holdInstall s a1 a2 a3).control = s.control := by
  unfold holdInstall
  (repeat' (first | split | dsimp only)) <;> first | with_reducible rfl | simp [foldl_control, ite_control, mk_control, fold_control]
@[simp] theorem holdDirty_control (s : State) (a1 : Nat) (a2 : Nat) : (holdDirty s a1 a2).control = s.control := by
  unfold holdDirty
  simp [foldl_control, ite_control, mk_control, fold_control]
@[simp] theorem holdTouch_control (s : State) (a1 : Nat) (a2 : Nat) (a3 : Bool) : (holdTouch s a1 a2 a3).control = s.control := by
  unfold holdTouch
  simp [foldl_control, ite_control, mk_control, fold_control]
@[simp] theorem holdLook_control (s : State) (a1 : Nat) (a2 : Nat) : (holdLook s a1 a2).control = s.control := by
  unfold holdLook
  simp [foldl_control, ite_control, mk_control, fold_control]
@[simp] theorem holdWrites_control (s : State) (a1 : Nat) (a2 : Nat) : (holdWrites s a1 a2).control = s.control := by
  unfold holdWrites
  simp [foldl_control, ite_control, mk_control, fold_control]
@[simp] theorem holdAccess_control (s : State) (a1 : Nat) (a2 : Nat) (a3 : Bool) : (holdAccess s a1 a2 a3).control = s.control := by
  unfold holdAccess
  (repeat' (first | split | dsimp only)) <;> first | with_reducible rfl | simp [foldl_control, ite_control, mk_control, fold_control]
@[simp] theorem fillArrives_control (s : State) (a1 : Nat) (a2 : Nat) (a3 : Bool) (a4 : Bool) : (fillArrives s a1 a2 a3 a4).control = s.control := by
  unfold fillArrives
  simp [foldl_control, ite_control, mk_control, fold_control]
@[simp] theorem writeLine_control (s : State) (a1 : Nat) (a2 : BitVec 512) (a3 : Bool) : (writeLine s a1 a2 a3).control = s.control := by
  unfold writeLine
  simp [foldl_control, ite_control, mk_control, fold_control]
@[simp] theorem writePart_control (s : State) (a1 : Nat) (a2 : List Byte) : (writePart s a1 a2).control = s.control := by
  unfold writePart
  simp [foldl_control, ite_control, mk_control, fold_control]
@[simp] theorem putBytes_control (s : State) (a1 : Nat) (a2 : Nat) (a3 : BitVec 512) (a4 : Bool) : (putBytes s a1 a2 a3 a4).control = s.control := by
  unfold putBytes
  simp [foldl_control, ite_control, mk_control, fold_control]
@[simp] theorem State.setTemper_control (s : State) (a1 : Nat) (a2 : Nat) (a3 : Temper) : (State.setTemper s a1 a2 a3).control = s.control := by
  unfold State.setTemper
  simp [foldl_control, ite_control, mk_control, fold_control]
@[simp] theorem countClass_control (s : State) (a1 : Nat) (a2 : Nat) (a3 : Nat) (a4 : Bool) : (countClass s a1 a2 a3 a4).control = s.control := by
  unfold countClass
  simp [foldl_control, ite_control, mk_control, fold_control]
@[simp] theorem flushTemper_control (s : State) (a1 : Nat) (a2 : Nat) : (flushTemper s a1 a2).control = s.control := by
  unfold flushTemper
  simp [foldl_control, ite_control, mk_control, fold_control]
@[simp] theorem invalidateTemper_control (s : State) (a1 : Nat) (a2 : Nat) (a3 : Nat) : (invalidateTemper s a1 a2 a3).control = s.control := by
  unfold invalidateTemper
  simp [foldl_control, ite_control, mk_control, fold_control]
@[simp] theorem clearMem_control (s : State) (a1 : Nat) (a2 : Nat) : (clearMem s a1 a2).control = s.control := by
  unfold clearMem
  simp [foldl_control, ite_control, mk_control, fold_control]
@[simp] theorem changeSplit_control (s : State) (a1 : Nat) (a2 : Nat) (a3 : Nat) : (changeSplit s a1 a2 a3).control = s.control := by
  unfold changeSplit
  simp [foldl_control, ite_control, mk_control, fold_control]
@[simp] theorem modRunning_control (s : State) (a1 : Nat) (a2 : Nat) (a3 : Nat) (a4 : Running → Running) : (modRunning s a1 a2 a3 a4).control = s.control := by
  unfold modRunning
  simp [foldl_control, ite_control, mk_control, fold_control]
@[simp] theorem haltQueue_control (s : State) (a1 : Nat) (a2 : Nat) (a3 : Nat) : (haltQueue s a1 a2 a3).control = s.control := by
  unfold haltQueue
  simp [foldl_control, ite_control, mk_control, fold_control]
@[simp] theorem advanceToken_control (s : State) (a1 : Nat) (a2 : Nat) (a3 : Nat) : (advanceToken s a1 a2 a3).control = s.control := by
  unfold advanceToken
  simp [foldl_control, ite_control, mk_control, fold_control]
@[simp] theorem dropItems_control (s : State) (a1 : Nat) (a2 : Nat) (a3 : Nat) : (dropItems s a1 a2 a3).control = s.control := by
  unfold dropItems
  simp [foldl_control, ite_control, mk_control, fold_control]
@[simp] theorem setCtx_control (s : State) (a1 : Nat) (a2 : Nat) (a3 : Ctx) : (setCtx s a1 a2 a3).control = s.control := by
  unfold setCtx
  simp [foldl_control, ite_control, mk_control, fold_control]
@[simp] theorem dispatch_control (s : State) (a1 : Nat) (a2 : Nat) (a3 : Nat) (a4 : Nat) (a5 : Nat) (a6 : Nat) : (dispatch s a1 a2 a3 a4 a5 a6).control = s.control := by
  unfold dispatch
  simp [foldl_control, ite_control, mk_control, fold_control]
@[simp] theorem idleCtx_control (s : State) (a1 : Nat) (a2 : Nat) : (idleCtx s a1 a2).control = s.control := by
  unfold idleCtx
  simp [foldl_control, ite_control, mk_control, fold_control]
@[simp] theorem commitCmd_control (s : State) (a1 : Nat) (a2 : Nat) (a3 : Nat) : (commitCmd s a1 a2 a3).control = s.control := by
  unfold commitCmd
  simp [foldl_control, ite_control, mk_control, fold_control]
@[simp] theorem finish_control (s : State) (a1 : Nat) (a2 : Nat) (a3 : Nat) (a4 : Nat) (a5 : Nat) : (finish s a1 a2 a3 a4 a5).control = s.control := by
  unfold finish
  simp [foldl_control, ite_control, mk_control, fold_control]
@[simp] theorem endCommand_control (s : State) (a1 : Nat) (a2 : Nat) (a3 : Nat) (a4 : Nat) (a5 : Nat) : (endCommand s a1 a2 a3 a4 a5).control = s.control := by
  unfold endCommand
  simp [foldl_control, ite_control, mk_control, fold_control]
@[simp] theorem stopAt_control (s : State) (a1 : Nat) (a2 : Nat) (a3 : Nat) (a4 : Nat) (a5 : Nat) : (stopAt s a1 a2 a3 a4 a5).control = s.control := by
  unfold stopAt
  simp [foldl_control, ite_control, mk_control, fold_control]
@[simp] theorem lineDone_control (s : State) (a1 : Nat) (a2 : Cmd) : (lineDone s a1 a2).control = s.control := by
  unfold lineDone
  simp [foldl_control, ite_control, mk_control, fold_control]
@[simp] theorem countPoison_control (s : State) (a1 : Nat) (a2 : Bool) : (countPoison s a1 a2).control = s.control := by
  unfold countPoison
  simp [foldl_control, ite_control, mk_control, fold_control]
@[simp] theorem noteLine_control (s : State) (a1 : Nat) (a2 : Nat) (a3 : Nat) (a4 : Nat) (a5 : Bool) : (noteLine s a1 a2 a3 a4 a5).control = s.control := by
  unfold noteLine
  (repeat' (first | split | dsimp only)) <;> first | with_reducible rfl | simp [foldl_control, ite_control, mk_control, fold_control]
@[simp] theorem noteRead_control (s : State) (a1 : Nat) (a2 : Nat) (a3 : Nat) (a4 : Nat) (a5 : Bool) (a6 : Got) : (noteRead s a1 a2 a3 a4 a5 a6).control = s.control := by
  unfold noteRead
  (repeat' (first | split | dsimp only)) <;> first | with_reducible rfl | simp [foldl_control, ite_control, mk_control, fold_control]
@[simp] theorem modKernel_control (s : State) (a1 : Nat) (a2 : Nat) (a3 : Kernel → Kernel) : (modKernel s a1 a2 a3).control = s.control := by
  unfold modKernel
  simp [foldl_control, ite_control, mk_control, fold_control]
@[simp] theorem endKernel_control (s : State) (a1 : Nat) (a2 : Nat) (a3 : Nat) (a4 : Nat) : (endKernel s a1 a2 a3 a4).control = s.control := by
  unfold endKernel
  simp [foldl_control, ite_control, mk_control, fold_control]
@[simp] theorem kernelPoison_control (s : State) (a1 : Nat) (a2 : Nat) (a3 : Nat) : (kernelPoison s a1 a2 a3).1.control = s.control := by
  unfold kernelPoison
  (repeat' (first | split | dsimp only)) <;> first | with_reducible rfl | simp [foldl_control, ite_control, mk_control, fold_control]
@[simp] theorem refuseAccess_control (s : State) (a1 : Nat) (a2 : Nat) (a3 : Nat) (a4 : Nat) (a5 : Nat) : (refuseAccess s a1 a2 a3 a4 a5).control = s.control := by
  unfold refuseAccess
  (repeat' (first | split | dsimp only)) <;> first | with_reducible rfl | simp [foldl_control, ite_control, mk_control, fold_control]
@[simp] theorem countFill_control (s : State) (a1 : Item) : (countFill s a1).control = s.control := by
  unfold countFill
  (repeat' (first | split | dsimp only)) <;> first | with_reducible rfl | simp [foldl_control, ite_control, mk_control, fold_control]
@[simp] theorem loseFill_control (s : State) (a1 : Item) : (loseFill s a1).control = s.control := by
  unfold loseFill
  (repeat' (first | split | dsimp only)) <;> first | with_reducible rfl | simp [foldl_control, ite_control, mk_control, fold_control]
@[simp] theorem launchItem_control (s : State) (a1 : Nat) (a2 : Item) : (launchItem s a1 a2).1.control = s.control := by
  unfold launchItem
  simp [foldl_control, ite_control, mk_control, fold_control]
@[simp] theorem modItem_control (s : State) (a1 : Nat) (a2 : Nat) (a3 : Nat) (a4 : Item → Item) : (modItem s a1 a2 a3 a4).control = s.control := by
  unfold modItem
  simp [foldl_control, ite_control, mk_control, fold_control]
theorem takeOne_control (s t : State) (g : Nat) (h : takeOne s g = some t) : t.control = s.control := by
  unfold takeOne at h
  split at h
  · cases h
  · obtain ⟨m, -, hm⟩ := List.exists_of_findSome?_eq_some h
    obtain ⟨p, -, rfl⟩ := Option.map_eq_some_iff.mp hm
    simp
@[simp] theorem takeAll_control (g n : Nat) (s : State) : (takeAll g n s).control = s.control := by
  induction n generalizing s with
  | zero => rfl
  | succ n ih =>
    unfold takeAll
    split
    · rename_i t ht
      rw [ih]
      exact takeOne_control s t g ht
    · rfl
@[simp] theorem takeFor_control (s : State) (a1 : Item) : (takeFor s a1).control = s.control := by
  unfold takeFor
  (repeat' (first | split | dsimp only)) <;> first | with_reducible rfl | simp [foldl_control, ite_control, mk_control, fold_control]
@[simp] theorem appendItem_control (s : State) (a1 : Nat) (a2 : Nat) (a3 : Item) : (appendItem s a1 a2 a3).control = s.control := by
  unfold appendItem
  simp [foldl_control, ite_control, mk_control, fold_control]
theorem drainInto_control (h : Nat) (g : Nat → Item) (l : List Nat) (s : State) :
    (l.foldl (fun s x => appendItem s h 3 (g x)) s).control = s.control := by
  induction l generalizing s with
  | nil => rfl
  | cons x l ih => exact (ih _).trans (appendItem_control _ _ _ _)
@[simp] theorem drainOne_control (s : State) (h : Nat) : (drainOne s h).control = s.control := by
  simp only [drainOne, drainInto_control, State.modHarbour_control]
@[simp] theorem drainVictims_control (s : State) : (drainVictims s).control = s.control := by
  unfold drainVictims
  simp [foldl_control, ite_control, mk_control, fold_control]
@[simp] theorem sendWrite_control (s : State) (a1 : Nat) (a2 : Nat) (a3 : Nat) (a4 : Nat) (a5 : BitVec 512) (a6 : Bool) : (sendWrite s a1 a2 a3 a4 a5 a6).control = s.control := by
  unfold sendWrite
  simp [foldl_control, ite_control, mk_control, fold_control]
@[simp] theorem writeBack_control (s : State) (a1 : Nat) (a2 : Nat) (a3 : CLine) : (writeBack s a1 a2 a3).control = s.control := by
  unfold writeBack
  simp [foldl_control, ite_control, mk_control, fold_control]
@[simp] theorem firstInstall_control (s : State) (a1 : Nat) (a2 : Nat) (a3 : Nat) (a4 : CLine) : (firstInstall s a1 a2 a3 a4).control = s.control := by
  unfold firstInstall
  (repeat' (first | split | dsimp only)) <;> first | with_reducible rfl | simp [foldl_control, ite_control, mk_control, fold_control]
@[simp] theorem firstRead_control (s : State) (a1 : Nat) (a2 : Nat) (a3 : Nat) (a4 : Nat) : (firstRead s a1 a2 a3 a4).1.control = s.control := by
  unfold firstRead
  (repeat' (first | split | dsimp only)) <;> first | with_reducible rfl | simp [foldl_control, ite_control, mk_control, fold_control]
@[simp] theorem firstArrives_control (s : State) (a1 : Nat) (a2 : Nat) (a3 : Nat) (a4 : Item) (a5 : BitVec 512 × Bool) : (firstArrives s a1 a2 a3 a4 a5).control = s.control := by
  unfold firstArrives
  simp [foldl_control, ite_control, mk_control, fold_control]
@[simp] theorem prefetchArrives_control (s : State) (a1 : Nat) (a2 : Nat) (a3 : List Nat) (a4 : Nat) (a5 : BitVec 512 × Bool) : (prefetchArrives s a1 a2 a3 a4 a5).control = s.control := by
  unfold prefetchArrives
  simp [foldl_control, ite_control, mk_control, fold_control]
@[simp] theorem cleanLine_control (s : State) (a1 : Nat) (a2 : Nat) (a3 : Bool) : (cleanLine s a1 a2 a3).control = s.control := by
  unfold cleanLine
  (repeat' (first | split | dsimp only)) <;> first | with_reducible rfl | simp [foldl_control, ite_control, mk_control, fold_control]
@[simp] theorem useItem_control (s : State) (a1 : Nat) (a2 : Item) : (useItem s a1 a2).control = s.control := by
  unfold useItem
  (repeat' (first | split | dsimp only)) <;> first | with_reducible rfl | simp [foldl_control, ite_control, mk_control, fold_control]
@[simp] theorem deliverItem_control (s : State) (a1 : Nat) (a2 : Item) : (deliverItem s a1 a2).control = s.control := by
  unfold deliverItem
  simp [foldl_control, ite_control, mk_control, fold_control]
@[simp] theorem deliverHead_control (p skip : Item → Bool) (h d n : Nat) (s : State) : (deliverHead p skip h d n s).control = s.control := by
  induction n generalizing s with
  | zero => rfl
  | succ n ih =>
    unfold deliverHead
    split
    · exact (ih _).trans (by simp)
    · rfl
@[simp] theorem deliverAll_control (p skip : Item → Bool) (h : Nat) (s : State) : (deliverAll p skip h s).control = s.control := by
  unfold deliverAll
  exact foldl_control _ (fun t d => deliverHead_control _ _ _ _ _ _) _ _
@[simp] theorem settleLockstep_control (s : State) (a1 : Nat) : (settleLockstep s a1).control = s.control := by
  unfold settleLockstep
  simp [foldl_control, ite_control, mk_control, fold_control]
@[simp] theorem settle_control (s : State) (a1 : Nat) : (settle s a1).control = s.control := by
  unfold settle
  simp [foldl_control, ite_control, mk_control, fold_control]
@[simp] theorem placeItem_control (s : State) (a1 : Nat) (a2 : Nat) (a3 : Bool) (a4 : Item) : (placeItem s a1 a2 a3 a4).control = s.control := by
  unfold placeItem
  simp [foldl_control, ite_control, mk_control, fold_control]
@[simp] theorem eccCounts_control (s : State) (a1 : Nat) (a2 : Nat) (a3 : EccReport) : (eccCounts s a1 a2 a3).control = s.control := by
  unfold eccCounts
  simp [foldl_control, ite_control, mk_control, fold_control]
@[simp] theorem stackSends_control (s : State) (a1 : Item) (a2 : EccReport) : (stackSends s a1 a2).control = s.control := by
  unfold stackSends
  (repeat' (first | split | dsimp only)) <;> first | with_reducible rfl | simp [foldl_control, ite_control, mk_control, fold_control]
@[simp] theorem itemArrived_control (s : State) (a1 : Nat) (a2 : Nat) (a3 : Nat) (a4 : Item) (a5 : Bool) : (itemArrived s a1 a2 a3 a4 a5).control = s.control := by
  unfold itemArrived
  simp [foldl_control, ite_control, mk_control, fold_control]
@[simp] theorem itemArrives_control (s : State) (a1 : Nat) (a2 : Nat) (a3 : Nat) (a4 : EccReport) : (itemArrives s a1 a2 a3 a4).control = s.control := by
  unfold itemArrives
  (repeat' (first | split | dsimp only)) <;> first | with_reducible rfl | simp [foldl_control, ite_control, mk_control, fold_control]
@[simp] theorem dueComes_control (s : State) (a1 : Nat) : (dueComes s a1).control = s.control := by
  unfold dueComes
  (repeat' (first | split | dsimp only)) <;> first | with_reducible rfl | simp [foldl_control, ite_control, mk_control, fold_control]
@[simp] theorem itemTimesOut_control (s : State) (a1 : Nat) (a2 : Nat) (a3 : Nat) : (itemTimesOut s a1 a2 a3).control = s.control := by
  unfold itemTimesOut
  (repeat' (first | split | dsimp only)) <;> first | with_reducible rfl | simp [foldl_control, ite_control, mk_control, fold_control]
@[simp] theorem refreshes_control (s : State) (a1 : Nat) (a2 : Nat) : (refreshes s a1 a2).control = s.control := by
  unfold refreshes
  simp [foldl_control, ite_control, mk_control, fold_control]
@[simp] theorem scrubBad_control (s : State) (a1 : Nat) (a2 : Nat) : (scrubBad s a1 a2).control = s.control := by
  unfold scrubBad
  simp [foldl_control, ite_control, mk_control, fold_control]
@[simp] theorem hbmScrubs_control (s : State) (a1 : Nat) (a2 : Nat) (a3 : EccReport) : (hbmScrubs s a1 a2 a3).control = s.control := by
  unfold hbmScrubs
  simp [foldl_control, ite_control, mk_control, fold_control]
@[simp] theorem countClamps_control (a0 : Seat) (s : State) (a2 : Nat) : (countClamps a0 s a2).control = s.control := by
  unfold countClamps
  (repeat' (first | split | dsimp only)) <;> first | with_reducible rfl | simp [foldl_control, ite_control, mk_control, fold_control]
@[simp] theorem regBody_control (g : (Nat → Rnd) → AnvilFields → Regfile → Regfile × Nat) (e : Exec) (f : AnvilFields) (s : State) (rf : Regfile) : (regBody g e f s rf).s.control = s.control := by
  unfold regBody
  (repeat' (first | split | dsimp only)) <;> first | with_reducible rfl | simp [ite_control, mk_control, fold_control]
theorem runOnce_control (op : Nat) (body : Body) (hb : ∀ e f s rf, (body e f s rf).s.control = s.control) (e : Exec) (f : AnvilFields) (x : Ran) :
    (runOnce op body e f x).s.control = x.s.control := by
  unfold runOnce
  (repeat' split) <;> first | rfl | exact hb _ _ _ _
theorem tileOnce_control (op : Nat) (body : Body) (hb : ∀ e f s rf, (body e f s rf).s.control = s.control) (sh : Shape) (f : AnvilFields) (t : TileId)
    (q : Bool) (tl : Tile) (i : Instance) (lost : Bool) (x : Ran) (j : Nat) : (tileOnce op body sh f t q tl i lost x j).s.control = x.s.control := by
  unfold tileOnce
  exact (runOnce_control _ _ hb _ _ _).trans (by simp)
@[simp] theorem tileNext_control (op : Nat) (sh : Shape) (f : AnvilFields) (t : TileId) (q : Bool) (i : Instance) (lost : Bool) (x : Ran) :
    (tileNext op sh f t q i lost x).control = x.s.control := by
  unfold tileNext
  simp
theorem runTile_control (op : Nat) (body : Body) (hb : ∀ e f s rf, (body e f s rf).s.control = s.control) (t : TileId) (q : Bool) (f : AnvilFields)
    (s : State) : (runTile op body t q f s).control = s.control := by
  unfold runTile
  dsimp only
  split
  · split
    · rw [tileNext_control]
      exact foldl_ran_control _ (fun x j => tileOnce_control _ _ hb _ _ _ _ _ _ _ _ _) _ _
    · rfl
  · rfl
@[simp] theorem setAr_control (s : State) (a1 : Nat) (a2 : Nat) (a3 : Nat) (a4 : ℤ) : (setAr s a1 a2 a3 a4).control = s.control := by
  unfold setAr
  simp [foldl_control, ite_control, mk_control, fold_control]
@[simp] theorem sendWant_control (s : State) (a1 : Nat) (a2 : Nat) (a3 : Kernel) (a4 : Nat × Nat) : (sendWant s a1 a2 a3 a4).control = s.control := by
  unfold sendWant
  simp [foldl_control, ite_control, mk_control, fold_control]
@[simp] theorem missed_control (s : State) (a1 : Nat) (a2 : Nat) (a3 : Kernel) (a4 : Nat × Nat) : (missed s a1 a2 a3 a4).1.control = s.control := by
  unfold missed
  simp [foldl_control, ite_control, mk_control, fold_control]
theorem kernelOnce_control (op : Nat) (body : Body) (hb : ∀ e f s rf, (body e f s rf).s.control = s.control)
    (sh : Shape) (f : AnvilFields) (h k : Nat) (x : Kernel) (s : State) (j : Nat) :
    (kernelOnce op body sh f h k x s j).s.control = s.control := by
  unfold kernelOnce
  exact (runOnce_control _ _ hb _ _ _).trans (by simp)
@[simp] theorem kernelNext_control (op : Nat) (sh : Shape) (f : AnvilFields) (h k : Nat) (x : Kernel) (r : Ran) :
    (kernelNext op sh f h k x r).control = r.s.control := by
  unfold kernelNext
  (repeat' (first | split | dsimp only)) <;> simp
@[simp] theorem kernelFetch_control (a0 : Nat) (a1 : Shape) (a2 : AnvilFields) (a3 : Nat) (a4 : Nat) (a5 : Kernel) (s : State) : (kernelFetch a0 a1 a2 a3 a4 a5 s).1.control = s.control := by
  unfold kernelFetch
  (repeat' (first | split | dsimp only)) <;> first | with_reducible rfl | simp [foldl_control, ite_control, mk_control, fold_control]
theorem kernelRepeat_control (op : Nat) (body : Body) (hb : ∀ e f s rf, (body e f s rf).s.control = s.control)
    (sh : Shape) (f : AnvilFields) (h k : Nat) (x : Kernel) (s : State) (j : Nat) :
    (kernelRepeat op body sh f h k x s j).1.control = s.control := by
  have hr := kernelOnce_control op body hb sh f h k x s j
  unfold kernelRepeat
  split
  · dsimp only
    split
    · exact missed_control _ _ _ _ _
    · simp [hr]
    · split
      · rfl
      · simp [hr]
  · simp
theorem kernelRun_control (op : Nat) (body : Body) (hb : ∀ e f s rf, (body e f s rf).s.control = s.control)
    (sh : Shape) (f : AnvilFields) (h k n : Nat) (s : State) : (kernelRun op body sh f h k n s).control = s.control := by
  induction n generalizing s with
  | zero => rfl
  | succ n ih =>
    unfold kernelRun
    split
    · rfl
    · rename_i x hx
      split
      · rfl
      · dsimp only
        cases hd : x.done with
        | none =>
          dsimp only
          have hr := kernelFetch_control op sh f h k x s
          split
          · exact (ih _).trans hr
          · exact hr
        | some j =>
          dsimp only
          have hr := kernelRepeat_control op body hb sh f h k x s j
          split
          · exact (ih _).trans hr
          · exact hr
theorem runKernel_control (op : Nat) (body : Body) (hb : ∀ e f s rf, (body e f s rf).s.control = s.control) (h k : Nat) (f : AnvilFields)
    (s : State) : (runKernel op body h k f s).control = s.control := by
  unfold runKernel
  split
  · split
    · rfl
    · exact kernelRun_control _ _ hb _ _ _ _ _ _
  · rfl
theorem anvil_control {op : Nat} {body : Body} (hb : ∀ e f s rf, (body e f s rf).s.control = s.control) {u : Seat} {f : AnvilFields} {s t : State}
    (h : anvil op body u f s = .next t) : t.control = s.control := by
  rw [onUnit_keeps State.control (fun _ _ => rfl) h]
  cases u
  · exact runTile_control _ _ hb _ _ _ _
  · exact runKernel_control _ _ hb _ _ _ _
@[simp] theorem readError_control (s : State) (a1 : TileId) (a2 : Bool) (a3 : TileStore) (a4 : Nat) (a5 : ReadCheck) (a6 : Beat) : (readError s a1 a2 a3 a4 a5 a6).control = s.control := by
  unfold readError
  (repeat' (first | split | dsimp only)) <;> first | with_reducible rfl | simp [foldl_control, ite_control, mk_control, fold_control]
@[simp] theorem tileConst_control (s : State) (a1 : TileId) (a2 : Bool) (a3 : Nat) : (tileConst s a1 a2 a3).s.control = s.control := by
  unfold tileConst
  with_reducible rfl
@[simp] theorem temperBits_control (s : State) (a1 : Nat) (a2 : Nat) (a3 : Nat) (a4 : Nat) : (temperBits s a1 a2 a3 a4).s.control = s.control := by
  unfold temperBits
  (repeat' (first | split | dsimp only)) <;> first | with_reducible rfl | simp [foldl_control, ite_control, mk_control, fold_control]
@[simp] theorem notePoison_control (h k l : Nat) (r : MemRead) : (notePoison h k l r).s.control = r.s.control := by
  unfold notePoison
  split <;> simp
@[simp] theorem stopRead_control (s : State) (a1 : Nat × Nat) : (stopRead s a1).s.control = s.control := by
  unfold stopRead
  with_reducible rfl
@[simp] theorem temperConst_control (s : State) (a1 : Nat) (a2 : Nat) (a3 : Nat) : (temperConst s a1 a2 a3).s.control = s.control := by
  unfold temperConst
  (repeat' (first | split | dsimp only)) <;> first | with_reducible rfl | simp [foldl_control, ite_control, mk_control, fold_control]
@[simp] theorem constWord_control (a0 : Exec) (s : State) (a2 : Nat) : (constWord a0 s a2).s.control = s.control := by
  unfold constWord
  (repeat' (first | split | dsimp only)) <;> first | with_reducible rfl | simp [foldl_control, ite_control, mk_control, fold_control]
@[simp] theorem constPair_control (a0 : Exec) (s : State) (a2 : Nat) : (constPair a0 s a2).s.control = s.control := by
  unfold constPair
  (repeat' (first | split | dsimp only)) <;> first | with_reducible rfl | simp [foldl_control, ite_control, mk_control, fold_control]
@[simp] theorem rawBits_control (w : Nat) (r : MemRead) : (rawBits w r).1.control = r.s.control := by
  unfold rawBits
  split <;> simp
@[simp] theorem tileWorking_control (s : State) (a1 : TileId) (a2 : Bool) (a3 : Nat) (a4 : ReadCheck) (a5 : Beat) : (tileWorking s a1 a2 a3 a4 a5).s.control = s.control := by
  unfold tileWorking
  simp [foldl_control, ite_control, mk_control, fold_control]
@[simp] theorem setWorking_control (s : State) (a1 : TileId) (a2 : Bool) (a3 : Nat) (a4 : Word256) : (setWorking s a1 a2 a3 a4).control = s.control := by
  unfold setWorking
  simp [foldl_control, ite_control, mk_control, fold_control]
@[simp] theorem arrayError_control (s : State) (a1 : Nat) (a2 : Nat) (a3 : Nat) (a4 : ReadCheck) : (arrayError s a1 a2 a3 a4).control = s.control := by
  unfold arrayError
  (repeat' (first | split | dsimp only)) <;> first | with_reducible rfl | simp [foldl_control, ite_control, mk_control, fold_control]
@[simp] theorem temperWorking_control (s : State) (h k w : Nat) (c : ReadCheck) : (temperWorking s h k w c).s.control = s.control := by
  simp [temperWorking]
@[simp] theorem temperLoad_control (s : State) (h k a : Nat) : (temperLoad s h k a).s.control = s.control := by
  unfold temperLoad
  (repeat' split) <;> simp
@[simp] theorem firstPut_control (s : State) (a1 : Nat) (a2 : Nat) (a3 : Nat) (a4 : Nat) (a5 : Nat) : (firstPut s a1 a2 a3 a4 a5).1.control = s.control := by
  unfold firstPut
  (repeat' (first | split | dsimp only)) <;> first | with_reducible rfl | simp [foldl_control, ite_control, mk_control, fold_control]
@[simp] theorem temperStore_control (s : State) (a1 : Nat) (a2 : Nat) (a3 : Nat) (a4 : Word256) : (temperStore s a1 a2 a3 a4).1.control = s.control := by
  unfold temperStore
  (repeat' (first | split | dsimp only)) <;> first | with_reducible rfl | simp [foldl_control, ite_control, mk_control, fold_control]
@[simp] theorem purge_control (s : State) (a1 : TileId) (a2 : Port) (a3 : Bool) (a4 : Nat) : (purge s a1 a2 a3 a4).control = s.control := by
  unfold purge
  simp [foldl_control, ite_control, mk_control, fold_control]
@[simp] theorem portFault_control (s : State) (a1 : TileId) (a2 : Port) : (portFault s a1 a2).control = s.control := by
  unfold portFault
  simp [foldl_control, ite_control, mk_control, fold_control]
@[simp] theorem recvMissing_control (a0 : Exec) (a1 : AnvilFields) (a2 : Port) (s : State) (a4 : Regfile) : (recvMissing a0 a1 a2 s a4).s.control = s.control := by
  unfold recvMissing
  simp [foldl_control, ite_control, mk_control, fold_control]
@[simp] theorem recvToken_control (a0 : Exec) (a1 : AnvilFields) (a2 : Port) (a3 : Token) (s : State) (a5 : Regfile) : (recvToken a0 a1 a2 a3 s a5).s.control = s.control := by
  unfold recvToken
  (repeat' (first | split | dsimp only)) <;> first | with_reducible rfl | simp [foldl_control, ite_control, mk_control, fold_control]
@[simp] theorem recvBody_control (e : Exec) (f : AnvilFields) (s : State) (rf : Regfile) : (recvBody e f s rf).s.control = s.control := by
  unfold recvBody
  (repeat' (first | split | dsimp only)) <;> first | with_reducible rfl | simp [ite_control, mk_control, fold_control]
@[simp] theorem noteSent_control (s : State) (a1 : Exec) (a2 : Port) (a3 : Tag) : (noteSent s a1 a2 a3).control = s.control := by
  unfold noteSent
  simp [foldl_control, ite_control, mk_control, fold_control]
@[simp] theorem sendBody_control (e : Exec) (f : AnvilFields) (s : State) (rf : Regfile) : (sendBody e f s rf).s.control = s.control := by
  unfold sendBody
  (repeat' (first | split | dsimp only)) <;> first | with_reducible rfl | simp [ite_control, mk_control, fold_control]
@[simp] theorem constError_control (a0 : Exec) (s : State) (a2 : Nat) (a3 : ReadCheck) : (constError a0 s a2 a3).control = s.control := by
  unfold constError
  (repeat' (first | split | dsimp only)) <;> first | with_reducible rfl | simp [foldl_control, ite_control, mk_control, fold_control]
@[simp] theorem loadInto_control (f : AnvilFields) (rf : Regfile) (r : MemRead) : (loadInto f rf r).s.control = r.s.control := by
  unfold loadInto
  split <;> simp
@[simp] theorem ldcBody_control (c : ReadCheck) (e : Exec) (f : AnvilFields) (s : State) (rf : Regfile) : (ldcBody c e f s rf).s.control = s.control := by
  unfold ldcBody
  (repeat' (first | split | dsimp only)) <;> first | with_reducible rfl | simp [ite_control, mk_control, fold_control]
@[simp] theorem ldwRead_control (a0 : Exec) (a1 : AnvilFields) (a2 : ReadCheck) (s : State) : (ldwRead a0 a1 a2 s).s.control = s.control := by
  unfold ldwRead
  (repeat' (first | split | dsimp only)) <;> first | with_reducible rfl | simp [foldl_control, ite_control, mk_control, fold_control]
@[simp] theorem ldwHazard_control (a0 : Exec) (a1 : AnvilFields) (s : State) (a3 : Regfile) : (ldwHazard a0 a1 s a3).control = s.control := by
  unfold ldwHazard
  simp [foldl_control, ite_control, mk_control, fold_control]
@[simp] theorem ldwBody_control (c : ReadCheck) (e : Exec) (f : AnvilFields) (s : State) (rf : Regfile) : (ldwBody c e f s rf).s.control = s.control := by
  unfold ldwBody
  (repeat' (first | split | dsimp only)) <;> first | with_reducible rfl | simp [ite_control, mk_control, fold_control]
@[simp] theorem markWrote_control (s : State) (a1 : TileId) (a2 : Bool) (a3 : Nat) : (markWrote s a1 a2 a3).control = s.control := by
  unfold markWrote
  simp [foldl_control, ite_control, mk_control, fold_control]
@[simp] theorem stwBody_control (e : Exec) (f : AnvilFields) (s : State) (rf : Regfile) : (stwBody e f s rf).s.control = s.control := by
  unfold stwBody
  (repeat' (first | split | dsimp only)) <;> first | with_reducible rfl | simp [ite_control, mk_control, fold_control]
@[simp] theorem hpushBody_control (e : Exec) (f : AnvilFields) (s : State) (rf : Regfile) : (hpushBody e f s rf).s.control = s.control := by
  unfold hpushBody
  (repeat' (first | split | dsimp only)) <;> first | with_reducible rfl | simp [ite_control, mk_control, fold_control]
@[simp] theorem hldBody_control (c : ReadCheck) (e : Exec) (f : AnvilFields) (s : State) (rf : Regfile) : (hldBody c e f s rf).s.control = s.control := by
  unfold hldBody
  (repeat' (first | split | dsimp only)) <;> first | with_reducible rfl | simp [ite_control, mk_control, fold_control]
@[simp] theorem acciBody_control (e : Exec) (f : AnvilFields) (s : State) (rf : Regfile) : (acciBody e f s rf).s.control = s.control := by
  unfold acciBody
  (repeat' (first | split | dsimp only)) <;> first | with_reducible rfl | simp [ite_control, mk_control, fold_control]
@[simp] theorem vecBody_control (g : Fmt → (Nat → Rnd) → AnvilFields → Regfile → WordOut) (e : Exec) (f : AnvilFields) (s : State) (rf : Regfile) : (vecBody g e f s rf).s.control = s.control := by
  unfold vecBody
  exact regBody_control _ _ _ _ _
@[simp] theorem kindHazard_control (a0 : Exec) (s : State) (a2 : Regfile) (a3 : Nat) (a4 : Bool) : (kindHazard a0 s a2 a3 a4).control = s.control := by
  unfold kindHazard
  simp [foldl_control, ite_control, mk_control, fold_control]
@[simp] theorem dotSecond_control (a0 : Exec) (a1 : AnvilFields) (s : State) (a3 : Regfile) : (dotSecond a0 a1 s a3).s.control = s.control := by
  unfold dotSecond
  (repeat' (first | split | dsimp only)) <;> first | with_reducible rfl | simp [foldl_control, ite_control, mk_control, fold_control]
@[simp] theorem dotBody_control (e : Exec) (f : AnvilFields) (s : State) (rf : Regfile) : (dotBody e f s rf).s.control = s.control := by
  unfold dotBody
  (repeat' (first | split | dsimp only)) <;> first | with_reducible rfl | simp [ite_control, mk_control, fold_control]
@[simp] theorem accBody_control (g : Fmt → (Nat → Rnd) → AnvilFields → Regfile → WordOut) (e : Exec) (f : AnvilFields) (s : State) (rf : Regfile) : (accBody g e f s rf).s.control = s.control := by
  unfold accBody
  exact (vecBody_control g _ _ _ _).trans (by simp)
@[simp] theorem readTable_control (e : Exec) (s : State) (m : Fmt) (b : Nat) (es : List Nat) : (readTable e s m b es).1.s.control = s.control := by
  unfold readTable
  refine foldl_memRead_control _ (fun x a => ?_) _ _
  dsimp only
  split
  · rfl
  · simp
@[simp] theorem lookupBody_control (i : Bool) (e : Exec) (f : AnvilFields) (s : State) (rf : Regfile) : (lookupBody i e f s rf).s.control = s.control := by
  unfold lookupBody
  (repeat' (first | split | dsimp only)) <;> first | with_reducible rfl | simp [ite_control, mk_control, fold_control]
@[simp] theorem postAdd_control (s : State) (a1 : Nat) (a2 : Nat) (a3 : Nat) (a4 : AnvilFields) : (postAdd s a1 a2 a3 a4).control = s.control := by
  unfold postAdd
  simp [foldl_control, ite_control, mk_control, fold_control]
@[simp] theorem ldaBody_control (h k : Nat) (e : Exec) (f : AnvilFields) (s : State) (rf : Regfile) : (ldaBody h k e f s rf).s.control = s.control := by
  unfold ldaBody
  (repeat' (first | split | dsimp only)) <;> first | with_reducible rfl | simp [ite_control, mk_control, fold_control]
theorem temperOnly_control {op : Nat} {body : Nat → Nat → Body} (hb : ∀ h k e f s rf, (body h k e f s rf).s.control = s.control) {u : Seat}
    {f : AnvilFields} {s t : State} (h : temperOnly op body u f s = .next t) : t.control = s.control := by
  rw [onUnit_keeps State.control (fun _ _ => rfl) h]
  cases u
  · rfl
  · exact runKernel_control _ _ (hb _ _) _ _ _ _
@[simp] theorem holdUp_control (s : State) (a1 : Regfile) : (holdUp s a1).s.control = s.control := by
  unfold holdUp
  with_reducible rfl
@[simp] theorem staBody_control (h k : Nat) (e : Exec) (f : AnvilFields) (s : State) (rf : Regfile) : (staBody h k e f s rf).s.control = s.control := by
  unfold staBody
  (repeat' (first | split | dsimp only)) <;> first | with_reducible rfl | simp [ite_control, mk_control, fold_control]
@[simp] theorem redClamps_control (s : State) (a1 : Nat) (a2 : Nat) (a3 : Nat) (a4 : Nat) : (redClamps s a1 a2 a3 a4).control = s.control := by
  unfold redClamps
  simp [foldl_control, ite_control, mk_control, fold_control]
@[simp] theorem applyReduction_control (s : State) (a1 : Reduction) : (applyReduction s a1).control = s.control := by
  unfold applyReduction
  simp [foldl_control, ite_control, mk_control, fold_control]
@[simp] theorem dropForReduction_control (s : State) (a1 : Nat) (a2 : Nat) (a3 : Nat) : (dropForReduction s a1 a2 a3).control = s.control := by
  unfold dropForReduction
  (repeat' (first | split | dsimp only)) <;> first | with_reducible rfl | simp [foldl_control, ite_control, mk_control, fold_control]
@[simp] theorem sendReduction_control (s : State) (a1 : Nat) (a2 : Nat) (a3 : Reduction) : (sendReduction s a1 a2 a3).control = s.control := by
  unfold sendReduction
  simp [foldl_control, ite_control, mk_control, fold_control]
@[simp] theorem redaBody_control (h k : Nat) (e : Exec) (f : AnvilFields) (s : State) (rf : Regfile) : (redaBody h k e f s rf).s.control = s.control := by
  unfold redaBody
  (repeat' (first | split | dsimp only)) <;> first | with_reducible rfl | simp [ite_control, mk_control, fold_control]
@[simp] theorem araddBody_control (h k : Nat) (e : Exec) (f : AnvilFields) (s : State) (rf : Regfile) : (araddBody h k e f s rf).s.control = s.control := by
  unfold araddBody
  (repeat' (first | split | dsimp only)) <;> first | with_reducible rfl | simp [ite_control, mk_control, fold_control]
@[simp] theorem brBody_control (h k : Nat) (e : Exec) (f : AnvilFields) (s : State) (rf : Regfile) : (brBody h k e f s rf).s.control = s.control := by
  unfold brBody
  (repeat' (first | split | dsimp only)) <;> first | with_reducible rfl | simp [ite_control, mk_control, fold_control]
@[simp] theorem endBody_control (h k : Nat) (e : Exec) (f : AnvilFields) (s : State) (rf : Regfile) : (endBody h k e f s rf).s.control = s.control := by
  unfold endBody
  (repeat' (first | split | dsimp only)) <;> first | with_reducible rfl | simp [ite_control, mk_control, fold_control]
@[simp] theorem budgetEnds_control (s : State) (a1 : Nat) (a2 : Nat) : (budgetEnds s a1 a2).control = s.control := by
  unfold budgetEnds
  (repeat' (first | split | dsimp only)) <;> first | with_reducible rfl | simp [foldl_control, ite_control, mk_control, fold_control]
@[simp] theorem holdReduces_control (s : State) (a1 : Nat) : (holdReduces s a1).control = s.control := by
  unfold holdReduces
  (repeat' (first | split | dsimp only)) <;> first | with_reducible rfl | simp [foldl_control, ite_control, mk_control, fold_control]
@[simp] theorem orderedReduces_control (s : State) (a1 : Nat) : (orderedReduces s a1).control = s.control := by
  unfold orderedReduces
  (repeat' (first | split | dsimp only)) <;> first | with_reducible rfl | simp [foldl_control, ite_control, mk_control, fold_control]
@[simp] theorem invalidateAtStart_control (s : State) (a1 : Nat) (a2 : Nat) (a3 : Cmd) : (invalidateAtStart s a1 a2 a3).control = s.control := by
  unfold invalidateAtStart
  simp [foldl_control, ite_control, mk_control, fold_control]
@[simp] theorem startHead_control (s : State) (a1 : Nat) (a2 : Nat) (a3 : Nat) (a4 : Cmd) (a5 : List Cmd) : (startHead s a1 a2 a3 a4 a5).control = s.control := by
  unfold startHead
  simp [foldl_control, ite_control, mk_control, fold_control]
@[simp] theorem startListed_control (s : State) (a1 : Nat) (a2 : Nat) (a3 : Nat) (a4 : Running) (a5 : Cmd) (a6 : List Cmd) : (startListed s a1 a2 a3 a4 a5 a6).control = s.control := by
  unfold startListed
  simp [foldl_control, ite_control, mk_control, fold_control]
@[simp] theorem startsCommand_control (s : State) (a1 : Nat) (a2 : Nat) (a3 : Nat) : (startsCommand s a1 a2 a3).control = s.control := by
  unfold startsCommand
  (repeat' (first | split | dsimp only)) <;> first | with_reducible rfl | simp [foldl_control, ite_control, mk_control, fold_control]
@[simp] theorem retireOne_control (s : State) (a1 : Nat) (a2 : Running) (a3 : Cmd) (a4 : Nat) (a5 : Nat) : (retireOne s a1 a2 a3 a4 a5).control = s.control := by
  unfold retireOne
  simp [foldl_control, ite_control, mk_control, fold_control]
@[simp] theorem sendDirty_control (h u : Nat) (cs : List CLine) (s : State) : (sendDirty h u cs s).control = s.control := by
  induction cs generalizing s with
  | nil => rfl
  | cons c cs ih =>
    unfold sendDirty
    split
    · exact (ih _).trans (by simp)
    · rfl
@[simp] theorem settleTemper_control (s : State) (a1 : Nat) (a2 : Nat) : (settleTemper s a1 a2).control = s.control := by
  unfold settleTemper
  simp [foldl_control, ite_control, mk_control, fold_control]
@[simp] theorem dropKernel_control (s : State) (a1 : Nat) (a2 : Nat) : (dropKernel s a1 a2).control = s.control := by
  unfold dropKernel
  simp [foldl_control, ite_control, mk_control, fold_control]
@[simp] theorem freeScratch_control (s : State) (a1 : Nat) (a2 : Nat) (a3 : Nat) : (freeScratch s a1 a2 a3).control = s.control := by
  unfold freeScratch
  simp [foldl_control, ite_control, mk_control, fold_control]
@[simp] theorem dropRunning_control (s : State) (a1 : Nat) (a2 : Nat) (a3 : Nat) : (dropRunning s a1 a2 a3).control = s.control := by
  unfold dropRunning
  simp [foldl_control, ite_control, mk_control, fold_control]
@[simp] theorem retire_control (s : State) (a1 : Nat) (a2 : Nat) (a3 : Nat) (a4 : Running) : (retire s a1 a2 a3 a4).control = s.control := by
  unfold retire
  (repeat' (first | split | dsimp only)) <;> first | with_reducible rfl | simp [foldl_control, ite_control, mk_control, fold_control]
@[simp] theorem completes_control (s : State) (a1 : Nat) (a2 : Nat) (a3 : Nat) : (completes s a1 a2 a3).control = s.control := by
  unfold completes
  (repeat' (first | split | dsimp only)) <;> first | with_reducible rfl | simp [foldl_control, ite_control, mk_control, fold_control]
theorem routine_control (op : Nat) (g : State → Running → State) (hg : ∀ s r, (g s r).control = s.control) (h e q : Nat) (s : State) :
    (routine op g h e q s).control = s.control := by
  unfold routine
  (repeat' split) <;> first | rfl | exact hg _ _
theorem command_control {op : Nat} {g : State → Running → State} (hg : ∀ s r, (g s r).control = s.control) {h e q : Nat} {s t : State}
    (hn : command op g h e q s = .next t) : t.control = s.control :=
  (onUnit_keeps (fun u => u.control) (fun _ _ => rfl) hn).trans (routine_control _ _ hg _ _ _ _)
@[simp] theorem readForItself_control (s : State) (a1 : Nat) (a2 : Nat) (a3 : Nat) (a4 : Bool) (a5 : Nat) (a6 : Nat) : (readForItself s a1 a2 a3 a4 a5 a6).control = s.control := by
  unfold readForItself
  (repeat' (first | split | dsimp only)) <;> first | with_reducible rfl | simp [foldl_control, ite_control, mk_control, fold_control]
@[simp] theorem askLine_control (a0 : Nat) (a1 : Nat) (a2 : Nat) (a3 : Bool) (a4 : Nat) (s : State) (a6 : Nat) : (askLine a0 a1 a2 a3 a4 s a6).control = s.control := by
  unfold askLine
  (repeat' (first | split | dsimp only)) <;> first | with_reducible rfl | simp [foldl_control, ite_control, mk_control, fold_control]
theorem withLines_control (h e q : Nat) (image : Bool) (base : Nat) (ls : List Nat) (go : State → Running → State)
    (hg : ∀ s r, (go s r).control = s.control) (s : State) : (withLines h e q image base ls go s).control = s.control := by
  have hf : (ls.foldl (askLine h e q image base) s).control = s.control := foldl_control _ (fun t l => by simp) _ _
  unfold withLines
  dsimp only
  split
  · split
    · exact (hg _ _).trans hf
    · exact hf
  · exact hf
@[simp] theorem poisonedDescriptor_control (s : State) (a1 : Nat) (a2 : Nat) (a3 : Nat) (a4 : Nat) : (poisonedDescriptor s a1 a2 a3 a4).control = s.control := by
  unfold poisonedDescriptor
  simp [foldl_control, ite_control, mk_control, fold_control]
theorem withDescriptor_control (h e q a n : Nat) (go : State → Running → State) (hg : ∀ s r, (go s r).control = s.control) (s : State) :
    (withDescriptor h e q a n go s).control = s.control := by
  unfold withDescriptor
  refine withLines_control _ _ _ _ _ _ _ (fun t r => ?_) _
  split
  · simp
  · exact hg _ _
@[simp] theorem listFetch_control (h e q : Nat) (s : State) (r : Running) : (listFetch h e q s r).control = s.control := by
  unfold listFetch
  exact withDescriptor_control _ _ _ _ _ _ (fun t r => by simp) _
theorem tongsLine_control (h q : Nat) (put : State → Running → Nat → State) (hp : ∀ s r n, (put s r n).control = s.control) (s : State)
    (r : Running) : (tongsLine h q put s r).control = s.control := by
  unfold tongsLine
  split
  · simp
  · split
    · exact (hp _ _ _).trans (by simp)
    · rfl
@[simp] theorem moveLine_control (a0 : Nat) (a1 : Nat) (a2 : Bool) (s : State) (a4 : Running) (a5 : Nat) : (moveLine a0 a1 a2 s a4 a5).control = s.control := by
  unfold moveLine
  simp [foldl_control, ite_control, mk_control, fold_control]
@[simp] theorem fillLine_control (a0 : Nat) (a1 : Nat) (s : State) (a3 : Running) (a4 : Nat) : (fillLine a0 a1 s a3 a4).control = s.control := by
  unfold fillLine
  simp [foldl_control, ite_control, mk_control, fold_control]
@[simp] theorem rangeHold_control (a0 : Nat) (a1 : Nat) (a2 : Nat) (s : State) (a4 : Running) (a5 : Nat) : (rangeHold a0 a1 a2 s a4 a5).control = s.control := by
  unfold rangeHold
  simp [foldl_control, ite_control, mk_control, fold_control]
@[simp] theorem rangeFirst_control (a0 : Nat) (a1 : Nat) (a2 : Nat) (a3 : Nat) (a4 : Running) (a5 : Nat) (s : State) : (rangeFirst a0 a1 a2 a3 a4 a5 s).control = s.control := by
  unfold rangeFirst
  simp [foldl_control, ite_control, mk_control, fold_control]
@[simp] theorem rangeLines_control (op h e q n : Nat) (s : State) : (rangeLines op h e q n s).control = s.control := by
  induction n generalizing s with
  | zero => rfl
  | succ n ih =>
    unfold rangeLines
    (repeat' (first | split | dsimp only)) <;> first | rfl | (simp; done) | exact (ih _).trans (by simp)
@[simp] theorem rangeOp_control (op h e q : Nat) (s : State) (r : Running) : (rangeOp op h e q s r).control = s.control := by
  unfold rangeOp
  split
  · exact tongsLine_control _ _ _ (fun s r n => by simp) _ _
  · simp
@[simp] theorem putUnits_control (h e q base : Nat) (us : List (Nat × List Byte)) (s : State) : (putUnits h e q base us s).control = s.control := by
  induction us generalizing s with
  | nil => rfl
  | cons u us ih =>
    unfold putUnits
    (repeat' (first | split | dsimp only)) <;> first | rfl | (simp; done) | exact (ih _).trans (by simp)
@[simp] theorem jobStarts_control (s : State) (a1 : Nat) (a2 : Nat) (a3 : Nat) (a4 : Nat) : (jobStarts s a1 a2 a3 a4).control = s.control := by
  unfold jobStarts
  simp [foldl_control, ite_control, mk_control, fold_control]
@[simp] theorem sieveWrites_control (a0 : Nat) (a1 : Nat) (a2 : SieveJob) (s : State) (a4 : Running) : (sieveWrites a0 a1 a2 s a4).control = s.control := by
  unfold sieveWrites
  simp [foldl_control, ite_control, mk_control, fold_control]
@[simp] theorem sieveGoes_control (h q : Nat) (d : List Byte) (s : State) (r : Running) : (sieveGoes h q d s r).control = s.control := by
  unfold sieveGoes
  dsimp only
  generalize (if readsKernel s h q (sieveOf d) then coefficients r (sieveOf d) else []) = co
  split
  · simp
  · refine (withLines_control _ _ _ _ _ _ _ (fun t r => ?_) _).trans ?_
    · simp
    · split <;> simp
@[simp] theorem sieveRuns_control (h q : Nat) (s : State) (r : Running) : (sieveRuns h q s r).control = s.control := by
  unfold sieveRuns
  refine withDescriptor_control _ _ _ _ _ _ (fun t r => ?_) _
  dsimp only
  split
  · exact withDescriptor_control _ _ _ _ _ _ (fun u r => sieveGoes_control _ _ _ _ _) _
  · exact sieveGoes_control _ _ _ _ _
@[simp] theorem spoilScratch_control (s : State) (a1 : PairJob) : (spoilScratch s a1).control = s.control := by
  unfold spoilScratch
  simp [foldl_control, ite_control, mk_control, fold_control]
@[simp] theorem holdScratch_control (s : State) (a1 : Nat) (a2 : Nat) (a3 : PairJob) : (holdScratch s a1 a2 a3).control = s.control := by
  unfold holdScratch
  simp [foldl_control, ite_control, mk_control, fold_control]
@[simp] theorem pairWrites_control (a0 : Nat) (a1 : Nat) (a2 : PairJob) (s : State) (a4 : Running) : (pairWrites a0 a1 a2 s a4).control = s.control := by
  unfold pairWrites
  (repeat' (first | split | dsimp only)) <;> first | with_reducible rfl | simp [foldl_control, ite_control, mk_control, fold_control]
@[simp] theorem pairRuns_control (h q : Nat) (s : State) (r : Running) : (pairRuns h q s r).control = s.control := by
  unfold pairRuns
  refine withDescriptor_control _ _ _ _ _ _ (fun t r => ?_) _
  dsimp only
  split
  · simp
  · refine (withLines_control _ _ _ _ _ _ _ (fun u r => by simp) _).trans ?_
    split <;> simp
@[simp] theorem State.setLaneSt_control (s : State) (a1 : Nat) (a2 : Nat) : (State.setLaneSt s a1 a2).control = s.control := by
  unfold State.setLaneSt
  simp [foldl_control, ite_control, mk_control, fold_control]
@[simp] theorem State.modLane_control (s : State) (a1 : Nat) (a2 : Lane → Lane) : (State.modLane s a1 a2).control = s.control := by
  unfold State.modLane
  simp [foldl_control, ite_control, mk_control, fold_control]
@[simp] theorem State.setShoalBeat_control (s : State) (a1 : Nat) (a2 : ShoalBeat) : (State.setShoalBeat s a1 a2).control = s.control := by
  unfold State.setShoalBeat
  simp [foldl_control, ite_control, mk_control, fold_control]
@[simp] theorem degrade_control (s : State) (a1 : Nat) (a2 : Beat) (a3 : Nat) : (degrade s a1 a2 a3).control = s.control := by
  unfold degrade
  simp [foldl_control, ite_control, mk_control, fold_control]
@[simp] theorem overfill_control (s : State) (a1 : Nat) (a2 : Beat) (a3 : Nat) : (overfill s a1 a2 a3).control = s.control := by
  unfold overfill
  simp [foldl_control, ite_control, mk_control, fold_control]
@[simp] theorem degradeHome_control (s : State) (a1 : Nat) : (degradeHome s a1).control = s.control := by
  unfold degradeHome
  (repeat' (first | split | dsimp only)) <;> first | with_reducible rfl | simp [foldl_control, ite_control, mk_control, fold_control]
@[simp] theorem leaveAligned_control (s : State) (a1 : Nat) (a2 : Nat) : (leaveAligned s a1 a2).control = s.control := by
  unfold leaveAligned
  simp [foldl_control, ite_control, mk_control, fold_control]
@[simp] theorem loseAlign_control (s : State) (a1 : Nat) : (loseAlign s a1).control = s.control := by
  unfold loseAlign
  simp [foldl_control, ite_control, mk_control, fold_control]
@[simp] theorem intoAligned_control (s : State) (a1 : Nat) (a2 : Beat) : (intoAligned s a1 a2).control = s.control := by
  unfold intoAligned
  simp [foldl_control, ite_control, mk_control, fold_control]
@[simp] theorem laneOnward_control (s : State) (a1 : Nat) : (laneOnward s a1).control = s.control := by
  unfold laneOnward
  simp [foldl_control, ite_control, mk_control, fold_control]
@[simp] theorem laneDown_control (s : State) (a1 : Nat) : (laneDown s a1).control = s.control := by
  unfold laneDown
  simp [foldl_control, ite_control, mk_control, fold_control]
@[simp] theorem loseLock_control (s : State) (a1 : Nat) : (loseLock s a1).control = s.control := by
  unfold loseLock
  simp [foldl_control, ite_control, mk_control, fold_control]
@[simp] theorem takeInject_control (s : State) (a1 : Nat) : (takeInject s a1).2.control = s.control := by
  unfold takeInject
  simp [foldl_control, ite_control, mk_control, fold_control]
@[simp] theorem blockLocks_control (s : State) (a1 : Nat) (a2 : List (BitVec 2)) : (blockLocks s a1 a2).control = s.control := by
  unfold blockLocks
  simp [foldl_control, ite_control, mk_control, fold_control]
@[simp] theorem blockUnlocks_control (s : State) (a1 : Nat) (a2 : List (BitVec 2)) : (blockUnlocks s a1 a2).control = s.control := by
  unfold blockUnlocks
  simp [foldl_control, ite_control, mk_control, fold_control]
@[simp] theorem fecLocks_control (s : State) (a1 : Nat) (a2 : List (List Nat)) : (fecLocks s a1 a2).control = s.control := by
  unfold fecLocks
  simp [foldl_control, ite_control, mk_control, fold_control]
@[simp] theorem fecUnlocks_control (s : State) (a1 : Nat) : (fecUnlocks s a1).control = s.control := by
  unfold fecUnlocks
  simp [foldl_control, ite_control, mk_control, fold_control]
@[simp] theorem prbsBits_control (s : State) (a1 : Nat) (a2 : List Bool) : (prbsBits s a1 a2).control = s.control := by
  unfold prbsBits
  simp [foldl_control, ite_control, mk_control, fold_control]
@[simp] theorem injectError_control (s : State) (a1 : Bool) (a2 : Nat) : (injectError s a1 a2).control = s.control := by
  unfold injectError
  simp [foldl_control, ite_control, mk_control, fold_control]
@[simp] theorem injectFrom_control (s : State) (a1 : Bool) (a2 : Nat) (a3 : Nat) : (injectFrom s a1 a2 a3).control = s.control := by
  unfold injectFrom
  simp [foldl_control, ite_control, mk_control, fold_control]
@[simp] theorem injectPeriod_control (s : State) (a1 : Bool) (a2 : Nat) : (injectPeriod s a1 a2).control = s.control := by
  unfold injectPeriod
  simp [foldl_control, ite_control, mk_control, fold_control]
@[simp] theorem laneError_control (s : State) (a1 : Nat) : (laneError s a1).control = s.control := by
  unfold laneError
  simp [foldl_control, ite_control, mk_control, fold_control]
@[simp] theorem landWord_control (s : State) (a1 : Nat) (a2 : Word64) (a3 : Bool) : (landWord s a1 a2 a3).control = s.control := by
  unfold landWord
  (repeat' (first | split | dsimp only)) <;> first | with_reducible rfl | simp [foldl_control, ite_control, mk_control, fold_control]
@[simp] theorem badBlock_control (s : State) (a1 : Nat) (a2 : Word64) : (badBlock s a1 a2).control = s.control := by
  unfold badBlock
  simp [foldl_control, ite_control, mk_control, fold_control]
@[simp] theorem closeBeat_control (s : State) (a1 : Nat) (a2 : ShoalPlan) (a3 : Nat) : (closeBeat s a1 a2 a3).control = s.control := by
  unfold closeBeat
  (repeat' (first | split | dsimp only)) <;> first | with_reducible rfl | simp [foldl_control, ite_control, mk_control, fold_control]
@[simp] theorem openBeat_control (s : State) (a1 : Nat) (a2 : ShoalPlan) (a3 : Beat) (a4 : Nat) (a5 : Time96) : (openBeat s a1 a2 a3 a4 a5).control = s.control := by
  unfold openBeat
  simp [foldl_control, ite_control, mk_control, fold_control]
@[simp] theorem inconsistentMarker_control (s : State) (a1 : Nat) : (inconsistentMarker s a1).control = s.control := by
  unfold inconsistentMarker
  simp [foldl_control, ite_control, mk_control, fold_control]
@[simp] theorem beatBlock_control (s : State) (a1 : Nat) (a2 : Word64) (a3 : Time96) : (beatBlock s a1 a2 a3).control = s.control := by
  unfold beatBlock
  (repeat' (first | split | dsimp only)) <;> first | with_reducible rfl | simp [foldl_control, ite_control, mk_control, fold_control]
@[simp] theorem alignFrom_control (s : State) (a1 : Nat) (a2 : ShoalPlan) (a3 : Beat) (a4 : Nat) (a5 : Time96) : (alignFrom s a1 a2 a3 a4 a5).control = s.control := by
  unfold alignFrom
  simp [foldl_control, ite_control, mk_control, fold_control]
@[simp] theorem consistentMarker_control (s : State) (a1 : Nat) (a2 : ShoalPlan) (a3 : Beat) (a4 : Nat) (a5 : Nat) (a6 : Time96) : (consistentMarker s a1 a2 a3 a4 a5 a6).control = s.control := by
  unfold consistentMarker
  simp [foldl_control, ite_control, mk_control, fold_control]
@[simp] theorem alignBlock_control (s : State) (a1 : Nat) (a2 : Word64) (a3 : Option Word64) (a4 : Time96) : (alignBlock s a1 a2 a3 a4).control = s.control := by
  unfold alignBlock
  (repeat' (first | split | dsimp only)) <;> first | with_reducible rfl | simp [foldl_control, ite_control, mk_control, fold_control]
@[simp] theorem laneRelease_control (s : State) (a1 : ShoalPlan) (a2 : Nat) (a3 : Beat) (a4 : Nat) : (laneRelease s a1 a2 a3 a4).1.control = s.control := by
  unfold laneRelease
  simp [foldl_control, ite_control, mk_control, fold_control]
@[simp] theorem sendRelease_control (a0 : ShoalPlan) (a1 : Nat) (a2 : Nat) (a3 : Beat) (a4 : Release) (s : State) (a6 : Nat) : (sendRelease a0 a1 a2 a3 a4 s a6).control = s.control := by
  unfold sendRelease
  (repeat' (first | split | dsimp only)) <;> first | with_reducible rfl | simp [foldl_control, ite_control, mk_control, fold_control]
@[simp] theorem releaseToken_control (s : State) (a1 : Nat) (a2 : Nat) (a3 : Nat) : (releaseToken s a1 a2 a3).control = s.control := by
  unfold releaseToken
  (repeat' (first | split | dsimp only)) <;> first | with_reducible rfl | simp [foldl_control, ite_control, mk_control, fold_control]
@[simp] theorem startKernel_control (a0 : Nat) (a1 : Nat) (a2 : Nat) (s : State) (a4 : Running) (a5 : List Byte) : (startKernel a0 a1 a2 s a4 a5).control = s.control := by
  unfold startKernel
  simp [foldl_control, ite_control, mk_control, fold_control]
@[simp] theorem launches_control (h e q : Nat) (s : State) (r : Running) : (launches h e q s r).control = s.control := by
  unfold launches
  split
  · rfl
  · exact withDescriptor_control _ _ _ _ _ _ (fun t r => by simp) _
@[simp] theorem pinRuns_control (a0 : Nat) (a1 : Nat) (s : State) (a3 : Running) : (pinRuns a0 a1 s a3).control = s.control := by
  unfold pinRuns
  simp [foldl_control, ite_control, mk_control, fold_control]
@[simp] theorem pinGone_control (s : State) (a1 : Nat) (a2 : Nat) (a3 : Running) (a4 : Nat) : (pinGone s a1 a2 a3 a4).control = s.control := by
  unfold pinGone
  simp [foldl_control, ite_control, mk_control, fold_control]
@[simp] theorem pinLine_control (a0 : Nat) (a1 : Nat) (s : State) (a3 : Running) (a4 : Nat) : (pinLine a0 a1 s a3 a4).control = s.control := by
  unfold pinLine
  (repeat' (first | split | dsimp only)) <;> first | with_reducible rfl | simp [foldl_control, ite_control, mk_control, fold_control]
@[simp] theorem pinCopies_control (h q : Nat) (s : State) (r : Running) : (pinCopies h q s r).control = s.control := by
  unfold pinCopies
  split
  · exact tongsLine_control _ _ _ (fun s r n => by simp) _ _
  · split <;> simp
@[simp] theorem stallFor_control (s : State) (a1 : Nat) (a2 : Nat) : (stallFor s a1 a2).control = s.control := by
  unfold stallFor
  simp [foldl_control, ite_control, mk_control, fold_control]
@[simp] theorem abortCommand_control (s : State) (a1 : Nat) (a2 : Nat) : (abortCommand s a1 a2).control = s.control := by
  unfold abortCommand
  (repeat' (first | split | dsimp only)) <;> first | with_reducible rfl | simp [foldl_control, ite_control, mk_control, fold_control]
@[simp] theorem restartWork_control (s : State) (a1 : Nat) (a2 : Nat) (a3 : Nat) : (restartWork s a1 a2 a3).control = s.control := by
  unfold restartWork
  (repeat' (first | split | dsimp only)) <;> first | with_reducible rfl | simp [foldl_control, ite_control, mk_control, fold_control]
@[simp] theorem restartRoutine_control (s : State) (a1 : Nat) (a2 : Nat) (a3 : Ctx) : (restartRoutine s a1 a2 a3).control = s.control := by
  unfold restartRoutine
  simp [foldl_control, ite_control, mk_control, fold_control]
@[simp] theorem restart_control (s : State) (a1 : Nat) (a2 : Nat) : (restart s a1 a2).control = s.control := by
  unfold restart
  simp [foldl_control, ite_control, mk_control, fold_control]
@[simp] theorem interrupt_control (s : State) (a1 : Nat) (a2 : Nat) (a3 : FaultUnit) : (interrupt s a1 a2 a3).control = s.control := by
  unfold interrupt
  simp [foldl_control, ite_control, mk_control, fold_control]
@[simp] theorem ferryLoss_control (s : State) (a1 : Nat) (a2 : Bool) : (ferryLoss s a1 a2).control = s.control := by
  unfold ferryLoss
  simp [foldl_control, ite_control, mk_control, fold_control]
@[simp] theorem ferryRelease_control (s : State) (a1 : Nat) (a2 : Nat) : (ferryRelease s a1 a2).control = s.control := by
  unfold ferryRelease
  (repeat' (first | split | dsimp only)) <;> first | with_reducible rfl | simp [foldl_control, ite_control, mk_control, fold_control]
@[simp] theorem finalToken_control (s : State) (a1 : Nat) (a2 : Nat) (a3 : Bool) : (finalToken s a1 a2 a3).control = s.control := by
  unfold finalToken
  (repeat' (first | split | dsimp only)) <;> first | with_reducible rfl | simp [foldl_control, ite_control, mk_control, fold_control]
@[simp] theorem dropStaged_control (s : State) (a1 : Nat) (a2 : Nat) (a3 : Beat) : (dropStaged s a1 a2 a3).control = s.control := by
  unfold dropStaged
  simp [foldl_control, ite_control, mk_control, fold_control]
@[simp] theorem moveShare_control (s : State) (a1 : Nat) (a2 : Nat) (a3 : Beat) (a4 : Nat) (a5 : Bool) : (moveShare s a1 a2 a3 a4 a5).control = s.control := by
  unfold moveShare
  simp [foldl_control, ite_control, mk_control, fold_control]
@[simp] theorem ringArrives_control (s : State) (a1 : Nat) (a2 : Nat) (a3 : Beat) : (ringArrives s a1 a2 a3).control = s.control := by
  unfold ringArrives
  (repeat' (first | split | dsimp only)) <;> first | with_reducible rfl | simp [foldl_control, ite_control, mk_control, fold_control]
@[simp] theorem logCompare_control (s : State) (a1 : Beat) : (logCompare s a1).control = s.control := by
  unfold logCompare
  simp [foldl_control, ite_control, mk_control, fold_control]
@[simp] theorem diverge_control (s : State) (a1 : Beat) : (diverge s a1).control = s.control := by
  unfold diverge
  simp [foldl_control, ite_control, mk_control, fold_control]
@[simp] theorem compareBeat_control (s : State) (a1 : Beat) : (compareBeat s a1).control = s.control := by
  unfold compareBeat
  (repeat' (first | split | dsimp only)) <;> first | with_reducible rfl | simp [foldl_control, ite_control, mk_control, fold_control]
@[simp] theorem digestLands_control (s : State) (a1 : Nat) (a2 : Word64) : (digestLands s a1 a2).control = s.control := by
  unfold digestLands
  simp [foldl_control, ite_control, mk_control, fold_control]
@[simp] theorem actEnds_control (s : State) (a1 : Nat) (a2 : Nat) (a3 : Nat) : (actEnds s a1 a2 a3).control = s.control := by
  unfold actEnds
  simp [foldl_control, ite_control, mk_control, fold_control]
@[simp] theorem dueInHeld_control (s : State) (a1 : Nat) : (dueInHeld s a1).control = s.control := by
  unfold dueInHeld
  simp [foldl_control, ite_control, mk_control, fold_control]
theorem onPtp_control (s : State) (via : PtpVia) (taken : State → State) (ht : ∀ t, (taken t).control = t.control) : (onPtp s via taken).control = s.control := by
  unfold onPtp
  exact State.onFrame_control _ _ _ _ ht
@[simp] theorem sendPtp_control (s : State) (a1 : Nat) (a2 : Nat) (a3 : Time96) (a4 : Int) (a5 : PtpFix) : (sendPtp s a1 a2 a3 a4 a5).control = s.control := by
  unfold sendPtp
  simp [foldl_control, ite_control, mk_control, fold_control]
@[simp] theorem holdoverCause_control (s : State) (a1 : Nat) : (holdoverCause s a1).control = s.control := by
  unfold holdoverCause
  simp [foldl_control, ite_control, mk_control, fold_control]
@[simp] theorem servoEvent_control (s : State) (a1 : Nat) : (servoEvent s a1).control = s.control := by
  unfold servoEvent
  (repeat' (first | split | dsimp only)) <;> first | with_reducible rfl | simp [foldl_control, ite_control, mk_control, fold_control]
@[simp] theorem selectMaster_control (s : State) : (selectMaster s).control = s.control := by
  unfold selectMaster
  (repeat' (first | split | dsimp only)) <;> first | with_reducible rfl | simp [foldl_control, ite_control, mk_control, fold_control]
@[simp] theorem announceArrives_control (s : State) (a1 : PtpAnnounce) : (announceArrives s a1).control = s.control := by
  unfold announceArrives
  simp [foldl_control, ite_control, mk_control, fold_control]
@[simp] theorem delayRespArrives_control (s : State) (a1 : PtpDelayResp) : (delayRespArrives s a1).control = s.control := by
  unfold delayRespArrives
  (repeat' (first | split | dsimp only)) <;> first | with_reducible rfl | simp [foldl_control, ite_control, mk_control, fold_control]
@[simp] theorem pdelayRespArrives_control (s : State) (a1 : PtpPdelayResp) : (pdelayRespArrives s a1).control = s.control := by
  unfold pdelayRespArrives
  (repeat' (first | split | dsimp only)) <;> first | with_reducible rfl | simp [foldl_control, ite_control, mk_control, fold_control]
@[simp] theorem pdelayReqArrives_control (s : State) (a1 : PtpPdelayReq) : (pdelayReqArrives s a1).control = s.control := by
  unfold pdelayReqArrives
  simp [foldl_control, ite_control, mk_control, fold_control]
@[simp] theorem syncLeaves_control (s : State) (a1 : Nat) : (syncLeaves s a1).control = s.control := by
  unfold syncLeaves
  simp [foldl_control, ite_control, mk_control, fold_control]
@[simp] theorem delayReqLeaves_control (s : State) (a1 : Nat) : (delayReqLeaves s a1).control = s.control := by
  unfold delayReqLeaves
  simp [foldl_control, ite_control, mk_control, fold_control]
@[simp] theorem delayReqArrives_control (s : State) (a1 : PtpDelayReq) : (delayReqArrives s a1).control = s.control := by
  unfold delayReqArrives
  simp [foldl_control, ite_control, mk_control, fold_control]
@[simp] theorem announceTimeout_control (s : State) : (announceTimeout s).control = s.control := by
  unfold announceTimeout
  simp [foldl_control, ite_control, mk_control, fold_control]
@[simp] theorem ptpLinkDown_control (s : State) : (ptpLinkDown s).control = s.control := by
  unfold ptpLinkDown
  simp [foldl_control, ite_control, mk_control, fold_control]
@[simp] theorem State.modSil_control (s : State) (a1 : Silush → Silush) : (State.modSil s a1).control = s.control := by
  unfold State.modSil
  simp [foldl_control, ite_control, mk_control, fold_control]
@[simp] theorem silFails_control (s : State) (a1 : Nat) (a2 : Nat) : (silFails s a1 a2).control = s.control := by
  unfold silFails
  simp [foldl_control, ite_control, mk_control, fold_control]
@[simp] theorem answer_control (s : State) (a1 : Bool) : (answer s a1).control = s.control := by
  unfold answer
  simp [foldl_control, ite_control, mk_control, fold_control]
@[simp] theorem closeCycle_control (s : State) : (closeCycle s).control = s.control := by
  unfold closeCycle
  simp [foldl_control, ite_control, mk_control, fold_control]
@[simp] theorem cycleStart_control (s : State) : (cycleStart s).control = s.control := by
  unfold cycleStart
  simp [foldl_control, ite_control, mk_control, fold_control]
@[simp] theorem collide_control (s : State) (a1 : Nat) : (collide s a1).control = s.control := by
  unfold collide
  simp [foldl_control, ite_control, mk_control, fold_control]
@[simp] theorem classBurst_control (s : State) (a1 : Nat) (a2 : ℤ) : (classBurst s a1 a2).1.control = s.control := by
  unfold classBurst
  (repeat' (first | split | dsimp only)) <;> first | with_reducible rfl | simp [foldl_control, ite_control, mk_control, fold_control]
@[simp] theorem clearAbsent_control (s : State) (a1 : Nat) : (clearAbsent s a1).control = s.control := by
  unfold clearAbsent
  simp [foldl_control, ite_control, mk_control, fold_control]
@[simp] theorem countCrc_control (s : State) (a1 : Option (BitVec 56)) : (countCrc s a1).control = s.control := by
  unfold countCrc
  (repeat' (first | split | dsimp only)) <;> first | with_reducible rfl | simp [foldl_control, ite_control, mk_control, fold_control]
@[simp] theorem takeData_control (s : State) (a1 : Nat) (a2 : Option (BitVec 56)) : (takeData s a1 a2).control = s.control := by
  unfold takeData
  (repeat' (first | split | dsimp only)) <;> first | with_reducible rfl | simp [foldl_control, ite_control, mk_control, fold_control]
@[simp] theorem useData_control (s : State) (a1 : Nat) (a2 : Burst) : (useData s a1 a2).control = s.control := by
  unfold useData
  simp [foldl_control, ite_control, mk_control, fold_control]
@[simp] theorem slotBurst_control (s : State) (a1 : Nat) (a2 : Burst) : (slotBurst s a1 a2).control = s.control := by
  unfold slotBurst
  simp [foldl_control, ite_control, mk_control, fold_control]
@[simp] theorem ownBurst_control (s : State) (a1 : Burst) : (ownBurst s a1).control = s.control := by
  unfold ownBurst
  simp [foldl_control, ite_control, mk_control, fold_control]
@[simp] theorem slotAbsent_control (s : State) (a1 : Nat) : (slotAbsent s a1).control = s.control := by
  unfold slotAbsent
  simp [foldl_control, ite_control, mk_control, fold_control]
@[simp] theorem slot0Preamble_control (s : State) (a1 : Burst) : (slot0Preamble s a1).control = s.control := by
  unfold slot0Preamble
  simp [foldl_control, ite_control, mk_control, fold_control]
theorem slot0Burst_control (s : State) (kind : Nat) (b : Burst) (g : BitVec 56 → State → State) (hg : ∀ d s, (g d s).control = s.control) :
    (slot0Burst s kind b g).control = s.control := by
  unfold slot0Burst
  split
  · rfl
  · split
    · simp
    · split
      · split <;> simp
      · generalize slot0Data s b = d
        cases d with
        | none => simp
        | some x =>
          dsimp only
          split
          · rfl
          · rw [answer_control]
            exact (hg _ _).trans (by simp)
@[simp] theorem hearBeat_control (a0 : Burst) (a1 : BitVec 56) (s : State) : (hearBeat a0 a1 s).control = s.control := by
  unfold hearBeat
  simp [foldl_control, ite_control, mk_control, fold_control]
@[simp] theorem hearRange_control (a0 : BitVec 56) (s : State) : (hearRange a0 s).control = s.control := by
  unfold hearRange
  simp [foldl_control, ite_control, mk_control, fold_control]
@[simp] theorem rangeSettles_control (s : State) (a1 : Bool) : (rangeSettles s a1).control = s.control := by
  unfold rangeSettles
  simp [foldl_control, ite_control, mk_control, fold_control]
@[simp] theorem rangeHeard_control (s : State) (a1 : Nat) : (rangeHeard s a1).control = s.control := by
  unfold rangeHeard
  simp [foldl_control, ite_control, mk_control, fold_control]
@[simp] theorem rangingReturns_control (s : State) (a1 : Burst) : (rangingReturns s a1).control = s.control := by
  unfold rangingReturns
  (repeat' (first | split | dsimp only)) <;> first | with_reducible rfl | simp [foldl_control, ite_control, mk_control, fold_control]
@[simp] theorem State.putReg_control (s : State) (a1 : Reg) (a2 : Nat) (a3 : Nat) : (State.putReg s a1 a2 a3).control = s.control := by
  unfold State.putReg
  simp [foldl_control, ite_control, mk_control, fold_control]
@[simp] theorem State.setDomainState_control (s : State) (a1 : Nat) (a2 : Nat) : (State.setDomainState s a1 a2).control = s.control := by
  unfold State.setDomainState
  simp [foldl_control, ite_control, mk_control, fold_control]
@[simp] theorem emptyPlane_control (s : State) (a1 : PlaneId) : (emptyPlane s a1).control = s.control := by
  unfold emptyPlane
  simp [foldl_control, ite_control, mk_control, fold_control]
@[simp] theorem wipeIsland_control (s : State) (a1 : Nat) : (wipeIsland s a1).control = s.control := by
  unfold wipeIsland
  simp [foldl_control, ite_control, mk_control, fold_control]
@[simp] theorem wipeSpace_control (s : State) (a1 : Nat) (a2 : Nat) : (wipeSpace s a1 a2).control = s.control := by
  unfold wipeSpace
  simp [foldl_control, ite_control, mk_control, fold_control]
@[simp] theorem stackInit_control (a0 : Bool) (s : State) (a2 : Nat) : (stackInit a0 s a2).control = s.control := by
  unfold stackInit
  simp [foldl_control, ite_control, mk_control, fold_control]
@[simp] theorem rampEnds_control (s : State) (a1 : Nat) (a2 : Bool) : (rampEnds s a1 a2).control = s.control := by
  unfold rampEnds
  simp [foldl_control, ite_control, mk_control, fold_control]
@[simp] theorem loseSram_control (s : State) (a1 : Nat) (a2 : SramError) : (loseSram s a1 a2).control = s.control := by
  unfold loseSram
  (repeat' (first | split | dsimp only)) <;> first | with_reducible rfl | simp [foldl_control, ite_control, mk_control, fold_control]
@[simp] theorem scrubs_control (s : State) (a1 : Nat) (a2 : Option SramError) : (scrubs s a1 a2).control = s.control := by
  unfold scrubs
  (repeat' (first | split | dsimp only)) <;> first | with_reducible rfl | simp [foldl_control, ite_control, mk_control, fold_control]
@[simp] theorem claimUnit_control (s : State) (a1 : FaultUnit) : (claimUnit s a1).control = s.control := by
  unfold claimUnit
  simp [foldl_control, ite_control, mk_control, fold_control]
@[simp] theorem releaseUnit_control (s : State) (u : FaultUnit) : (releaseUnit s u).control = s.control := by
  unfold releaseUnit
  refine foldl_control _ (fun t k => ?_) _ _
  split <;> simp
@[simp] theorem testStarts_control (s : State) (a1 : FaultUnit) : (testStarts s a1).control = s.control := by
  unfold testStarts
  (repeat' (first | split | dsimp only)) <;> first | with_reducible rfl | simp [foldl_control, ite_control, mk_control, fold_control]
@[simp] theorem testForced_control (s : State) (a1 : FaultUnit) : (testForced s a1).control = s.control := by
  unfold testForced
  (repeat' (first | split | dsimp only)) <;> first | with_reducible rfl | simp [foldl_control, ite_control, mk_control, fold_control]
@[simp] theorem testEnds_control (s : State) (a1 : FaultUnit) (a2 : Bool) : (testEnds s a1 a2).control = s.control := by
  unfold testEnds
  (repeat' (first | split | dsimp only)) <;> first | with_reducible rfl | simp [foldl_control, ite_control, mk_control, fold_control]
@[simp] theorem bistClears_control (s : State) (a1 : Nat) : (bistClears s a1).control = s.control := by
  unfold bistClears
  (repeat' (first | split | dsimp only)) <;> first | with_reducible rfl | simp [foldl_control, ite_control, mk_control, fold_control]
@[simp] theorem bistRow_control (a0 : Nat) (s : State) (a2 : Nat × Bool) : (bistRow a0 s a2).control = s.control := by
  unfold bistRow
  simp [foldl_control, ite_control, mk_control, fold_control]
@[simp] theorem judgeBist_control (a0 : Nat) (s : State) (a2 a3 : Nat) (a4 a5 : BitVec 64) (a6 : List (Nat × Bool)) :
    (judgeBist a0 s a2 a3 a4 a5 a6).control = s.control := by
  unfold judgeBist
  simp [foldl_control, ite_control, mk_control, fold_control]
@[simp] theorem bistRetires_control (s : State) (a1 : Nat) : (bistRetires s a1).control = s.control := by
  unfold bistRetires
  simp [foldl_control, ite_control, mk_control, fold_control]
@[simp] theorem bistEnds_control (s : State) (a1 : BitVec 64) (a2 : BitVec 64) (a3 : List (Nat × Bool)) : (bistEnds s a1 a2 a3).control = s.control := by
  unfold bistEnds
  (repeat' (first | split | dsimp only)) <;> first | with_reducible rfl | simp [foldl_control, ite_control, mk_control, fold_control]
@[simp] theorem tapAnswers_control (s : State) (a1 : Nat) (a2 : Nat) : (tapAnswers s a1 a2).control = s.control := by
  unfold tapAnswers
  simp [foldl_control, ite_control, mk_control, fold_control]
@[simp] theorem State.modLinks_control (s : State) (a1 : Links → Links) : (State.modLinks s a1).control = s.control := by
  unfold State.modLinks
  simp [foldl_control, ite_control, mk_control, fold_control]
@[simp] theorem dropSnapshot_control (s : State) (a1 : Via) (a2 : Nat) : (dropSnapshot s a1 a2).control = s.control := by
  unfold dropSnapshot
  simp [foldl_control, ite_control, mk_control, fold_control]
@[simp] theorem snapshotExpires_control (s : State) (a1 : Via) (a2 : Nat) : (snapshotExpires s a1 a2).control = s.control := by
  unfold snapshotExpires
  (repeat' (first | split | dsimp only)) <;> first | with_reducible rfl | simp [foldl_control, ite_control, mk_control, fold_control]
@[simp] theorem readIdles_control (s : State) (a1 : Via) (a2 : Nat) : (readIdles s a1 a2).control = s.control := by
  unfold readIdles
  (repeat' (first | split | dsimp only)) <;> first | with_reducible rfl | simp [foldl_control, ite_control, mk_control, fold_control]
@[simp] theorem refuseWrite_control (s : State) (a1 : Nat) : (refuseWrite s a1).2.control = s.control := by
  unfold refuseWrite
  simp [foldl_control, ite_control, mk_control, fold_control]
@[simp] theorem openWrite_control (a0 : Via) (a1 : Nat) (a2 : Nat) (a3 : Nat) (a4 : Option Nat) (s : State) : (openWrite a0 a1 a2 a3 a4 s).2.2.control = s.control := by
  unfold openWrite
  (repeat' (first | split | dsimp only)) <;> first | with_reducible rfl | simp [foldl_control, ite_control, mk_control, fold_control]
@[simp] theorem endWrite_control (s : State) (a1 : Nat) : (endWrite s a1).control = s.control := by
  unfold endWrite
  simp [foldl_control, ite_control, mk_control, fold_control]
@[simp] theorem chunkWrite_control (a0 : Via) (a1 : Nat) (a2 : Nat) (a3 : List Byte) (s : State) : (chunkWrite a0 a1 a2 a3 s).2.control = s.control := by
  unfold chunkWrite
  (repeat' (first | split | dsimp only)) <;> first | with_reducible rfl | simp [foldl_control, ite_control, mk_control, fold_control]
@[simp] theorem cancelWrite_control (a0 : Via) (a1 : Nat) (s : State) : (cancelWrite a0 a1 s).2.control = s.control := by
  unfold cancelWrite
  (repeat' (first | split | dsimp only)) <;> first | with_reducible rfl | simp [foldl_control, ite_control, mk_control, fold_control]
@[simp] theorem writeIdles_control (s : State) (a1 : Nat) : (writeIdles s a1).control = s.control := by
  unfold writeIdles
  (repeat' (first | split | dsimp only)) <;> first | with_reducible rfl | simp [foldl_control, ite_control, mk_control, fold_control]
@[simp] theorem endSession_control (s : State) (a1 : Via) : (endSession s a1).control = s.control := by
  unfold endSession
  simp [foldl_control, ite_control, mk_control, fold_control]
@[simp] theorem endSilent_control (s : State) : (endSilent s).control = s.control := by
  unfold endSilent
  simp [foldl_control, ite_control, mk_control, fold_control]
theorem admitSession_control (s t : State) (d : Datagram) (h : admitSession s d = some t) : t.control = s.control := by
  unfold admitSession at h
  (repeat' (first | split at h | dsimp only at h)) <;> simp_all
  all_goals (subst h; simp)
@[simp] theorem State.answerTo_control (s : State) (a1 : Datagram) (a2 : List Byte) : (State.answerTo s a1 a2).control = s.control := by
  unfold State.answerTo
  simp [foldl_control, ite_control, mk_control, fold_control]
@[simp] theorem sendReply_control (s : State) (a1 : Datagram) (a2 : List Byte) : (sendReply s a1 a2).control = s.control := by
  unfold sendReply
  simp [foldl_control, ite_control, mk_control, fold_control]
theorem serveFrame_control (op : Nat) (run : State → Option (List Byte × State)) (hr : ∀ s bs t, run s = some (bs, t) → t.control = s.control)
    (d : Datagram) (s : State) : (serveFrame op run d s).control = s.control := by
  unfold serveFrame
  dsimp only
  split
  · rfl
  · split
    · simp
    · split
      · simp
      · split
        · simp
        · split
          · simp
          · rename_i t ht
            have h2 := admitSession_control _ _ _ ht
            split
            · simp [h2]
            · split
              · simp [h2]
              · rename_i bs u hu
                rw [sendReply_control, hr _ _ _ hu]
                simp [h2]
theorem serve'_control (op : Nat) (run : State → Option (List Byte × State)) (hr : ∀ s bs t, run s = some (bs, t) → t.control = s.control)
    (d : Datagram) (s : State) : (serve' op run d s).control = s.control := by
  unfold serve'
  exact State.onFrame_control _ _ _ _ (fun t => serveFrame_control _ _ hr _ _)
@[simp] theorem sessionTimesOut_control (s : State) (a1 : Via) : (sessionTimesOut s a1).control = s.control := by
  unfold sessionTimesOut
  (repeat' (first | split | dsimp only)) <;> first | with_reducible rfl | simp [foldl_control, ite_control, mk_control, fold_control]
theorem onFd_control (f : CanFrame) (s : State) (taken : State → State) (ht : (taken s).control = s.control) : (onFd f s taken).control = s.control := by
  unfold onFd
  split <;> first | rfl | exact ht
@[simp] theorem dropTransfer_control (s : State) (a1 : Nat) : (dropTransfer s a1).control = s.control := by
  unfold dropTransfer
  (repeat' (first | split | dsimp only)) <;> first | with_reducible rfl | simp [foldl_control, ite_control, mk_control, fold_control]
@[simp] theorem aborts_control (s : State) (a1 : Nat) (a2 : Nat) (a3 : Nat) : (aborts s a1 a2 a3).control = s.control := by
  unfold aborts
  simp [foldl_control, ite_control, mk_control, fold_control]
@[simp] theorem resetsCommunication_control (s : State) (a1 : Nat) : (resetsCommunication s a1).control = s.control := by
  unfold resetsCommunication
  simp [foldl_control, ite_control, mk_control, fold_control]
@[simp] theorem beats_control (s : State) : (beats s).control = s.control := by
  unfold beats
  simp [foldl_control, ite_control, mk_control, fold_control]
@[simp] theorem formPdo_control (s : State) (a1 : Nat) : (formPdo s a1).control = s.control := by
  unfold formPdo
  simp [foldl_control, ite_control, mk_control, fold_control]
@[simp] theorem eventTimer_control (s : State) (a1 : Nat) : (eventTimer s a1).control = s.control := by
  unfold eventTimer
  simp [foldl_control, ite_control, mk_control, fold_control]
@[simp] theorem sendsEmcy_control (s : State) : (sendsEmcy s).control = s.control := by
  unfold sendsEmcy
  (repeat' (first | split | dsimp only)) <;> first | with_reducible rfl | simp [foldl_control, ite_control, mk_control, fold_control]
@[simp] theorem errorPassive_control (s : State) (a1 : Bool) : (errorPassive s a1).control = s.control := by
  unfold errorPassive
  simp [foldl_control, ite_control, mk_control, fold_control]
@[simp] theorem partsExpire_control (s : State) (a1 : Nat) : (partsExpire s a1).control = s.control := by
  unfold partsExpire
  (repeat' (first | split | dsimp only)) <;> first | with_reducible rfl | simp [foldl_control, ite_control, mk_control, fold_control]
theorem asked_control {op : Nat} {run : State → Option (List Byte × State)} {d : Datagram} {s t : State}
    (hr : ∀ s bs t, run s = some (bs, t) → t.control = s.control) (h : done s (serve' op run d s) = .next t) : t.control = s.control :=
  (done_keeps State.control (fun _ _ => rfl) h).trans (serve'_control _ _ hr _ _)

end Sys2Proof.Machine
end

