-- ==== Sys2Proof/Laws/Dictionary.lean ====
section
/-! SUPPORT. The object dictionary: no two rows hold one subindex, a row that holds it is found, and what a host's write does. -/

namespace Sys2Proof.Machine

/-- Two rows share no subindex of an index. -/
def ObjRow.apart (a b : ObjRow) : Bool :=
  Nat.ble (a.reg.base + a.units) b.reg.base || Nat.ble (b.reg.base + b.units) a.reg.base
    || Nat.ble (a.reg.sub + a.subs) b.reg.sub || Nat.ble (b.reg.sub + b.subs) a.reg.sub

/-- Every row is apart from those after it. -/
def rowsApart : List ObjRow → Bool
  | [] => true
  | r :: l => l.all r.apart && rowsApart l

theorem objRows_apart : rowsApart objRows = true := by decide +kernel

theorem ObjRow.not_both {a b : ObjRow} {index sub : Nat} (h : a.apart b = true) (ha : a.holds index sub = true) :
    b.holds index sub = false := by
  simp only [ObjRow.apart, ObjRow.holds, Bool.or_eq_true, Bool.and_eq_true, decide_eq_true_eq, Nat.ble_eq] at h ha
  cases hb : b.holds index sub with
  | false => rfl
  | true =>
    simp only [ObjRow.holds, Bool.and_eq_true, decide_eq_true_eq] at hb
    omega

theorem find_of_apart (l : List ObjRow) (hl : rowsApart l = true) (r : ObjRow) (hr : r ∈ l) {index sub : Nat}
    (h : r.holds index sub = true) : l.find? (fun x => x.holds index sub) = some r := by
  induction l with
  | nil => cases hr
  | cons x l ih =>
    simp only [rowsApart, Bool.and_eq_true, List.all_eq_true] at hl
    rcases List.mem_cons.mp hr with rfl | hr'
    · simp [h]
    · have : x.holds index sub = false := by
        cases hx : x.holds index sub with
        | false => rfl
        | true => rw [ObjRow.not_both (hl.1 r hr') hx] at h; cases h
      simp [this, ih hl.2 hr']

/-- The row that holds a subindex is the one found (R262). -/
theorem findRow_of_mem {r : ObjRow} (hr : r ∈ objRows) {index sub : Nat} (h : r.holds index sub = true) :
    findRow index sub = some r := find_of_apart _ objRows_apart r hr h

/-- An object of an enabled unit is found by its row. -/
theorem findObject_of_mem {s : State} {r : ObjRow} (hr : r ∈ objRows) {index sub : Nat} (h : r.holds index sub = true)
    (hu : unitPresent s index = true) : findObject s index sub = .object r := by
  have hd : indexDefined index = true := by
    simp only [indexDefined, List.any_eq_true]
    refine ⟨r, hr, ?_⟩
    simp only [ObjRow.holds, Bool.and_eq_true, decide_eq_true_eq] at h
    simp [h.1.1.1, h.1.1.2]
  simp [findObject, hd, hu, findRow_of_mem hr h]

/-- A write of a number that passes every check leaves what its owning rule leaves, and the status code goes back (R266). -/
theorem hostWrites_number {b : BootInputs} {s t : State} {r : ObjRow} {index sub : Nat} {bs : List Byte} {c : Nat}
    (hm : s.mode ≠ .off) (hf : findObject s index sub = .object r) (hd : r.isDomain = false) (hw : writeState s r = scOk)
    (hl : bs.length = r.type.bytes) (hc : r.check.ok r (leNat bs) = true)
    (ho : ownerWrite b r.reg (r.unit index) (sub - r.reg.sub) (leNat bs) s = (c, t)) :
    hostWrites b index sub bs s = (countRefusal (c, t)).2.emit (.status c) := by
  have hx : (countRefusal (c, t)).1 = c := by
    unfold countRefusal
    split <;> rfl
  simp only [hostWrites, hm, ↓reduceIte, objectWrite, hf, hd, numberWrite, hw, hl, hc, ho, ne_eq, not_true_eq_false, Bool.not_true,
    Bool.false_eq_true, hx]

theorem hostWrites_accepted {b : BootInputs} {s t : State} {r : ObjRow} {index sub : Nat} {bs : List Byte}
    (hm : s.mode ≠ .off) (hf : findObject s index sub = .object r) (hd : r.isDomain = false) (hw : writeState s r = scOk)
    (hl : bs.length = r.type.bytes) (hc : r.check.ok r (leNat bs) = true)
    (ho : ownerWrite b r.reg (r.unit index) (sub - r.reg.sub) (leNat bs) s = (scOk, t)) :
    hostWrites b index sub bs s = t.emit (.status 0) := hostWrites_number hm hf hd hw hl hc ho

end Sys2Proof.Machine
end

