-- ==== Sys2Proof/Laws/EngineState.lean ====
section
/-! SUPPORT. What the commands of time, lanes, the host and the buses leave of tiles, forgings and engines. -/

set_option linter.all false

namespace Sys2Proof.Machine
theorem foldl_engines {α : Type} (f : State → α → State) (h : ∀ s x, (f s x).engines = s.engines) (l : List α) (s : State) :
    (l.foldl f s).engines = s.engines := foldl_keep (fun t => t.engines) f h l s
theorem ite_engines (c : Prop) [Decidable c] (s t : State) : (if c then s else t).engines = if c then s.engines else t.engines := by
  split <;> rfl
theorem mk_engines (x0 x1 x2 x3 x4 x5 x6 x7 x8 x9 x10 x11 x12 x13 x14 x15 x16 x17 x18 x19 x20 x21 x22 x23 x24 x25 x26 x27 x28 x29 x30 x31 x32 x33 x34 x35) :
    State.engines ⟨x0, x1, x2, x3, x4, x5, x6, x7, x8, x9, x10, x11, x12, x13, x14, x15, x16, x17, x18, x19, x20, x21, x22, x23, x24, x25, x26, x27, x28, x29, x30, x31, x32, x33, x34, x35⟩ = (x19, x20, x22, x23, x24, x25, x26, x27, x29) := rfl
theorem fold_engines (s : State) : (s.tiles, s.lines, s.planes, s.quenches, s.tanks, s.harbours, s.mem, s.poison, s.images) = s.engines := rfl
theorem foldl_ran_engines (g : Ran → Nat → Ran) (hg : ∀ x j, (g x j).s.engines = x.s.engines) (l : List Nat) (x : Ran) :
    (l.foldl g x).s.engines = x.s.engines := by
  induction l generalizing x with
  | nil => rfl
  | cons a l ih => exact (ih _).trans (hg _ _)
theorem foldl_pair_engines {α β : Type} (g : State × β → α → State × β) (hg : ∀ x a, (g x a).1.engines = x.1.engines) (l : List α) (x : State × β) :
    (l.foldl g x).1.engines = x.1.engines := by
  induction l generalizing x with
  | nil => rfl
  | cons a l ih => exact (ih _).trans (hg _ _)
theorem foldl_memRead_engines {α β : Type} (g : MemRead × β → α → MemRead × β) (hg : ∀ x a, (g x a).1.s.engines = x.1.s.engines) (l : List α)
    (x : MemRead × β) : (l.foldl g x).1.s.engines = x.1.s.engines := by
  induction l generalizing x with
  | nil => rfl
  | cons a l ih => exact (ih _).trans (hg _ _)
@[simp] theorem State.setReg_engines (s : State) (a1 : Reg) (a2 : Nat) (a3 : Nat) : (State.setReg s a1 a2 a3).engines = s.engines := by
  unfold State.setReg
  simp [foldl_engines, ite_engines, mk_engines, fold_engines]
@[simp] theorem State.count_engines (s : State) (a1 : Reg) (a2 : Nat) (a3 : optParam Nat 32) (a4 : optParam Nat 1) : (State.count s a1 a2 a3 a4).engines = s.engines := by
  unfold State.count
  simp [foldl_engines, ite_engines, mk_engines, fold_engines]
@[simp] theorem State.setLane_engines (s : State) (a1 : Nat) (a2 : Lane) : (State.setLane s a1 a2).engines = s.engines := by
  unfold State.setLane
  simp [foldl_engines, ite_engines, mk_engines, fold_engines]
@[simp] theorem State.setShoal_engines (s : State) (a1 : Nat) (a2 : Shoal) : (State.setShoal s a1 a2).engines = s.engines := by
  unfold State.setShoal
  simp [foldl_engines, ite_engines, mk_engines, fold_engines]
@[simp] theorem State.fresh_engines (s : State) (a1 : Nat) : (State.fresh s a1).2.engines = s.engines := by
  unfold State.fresh
  simp [foldl_engines, ite_engines, mk_engines, fold_engines]
@[simp] theorem groupTick_engines (a0 : Nat) (s : State) (a2 : Nat) : (groupTick a0 s a2).engines = s.engines := by
  unfold groupTick
  simp [foldl_engines, ite_engines, mk_engines, fold_engines]
@[simp] theorem State.advance_engines (s : State) (a1 : Nat) : (State.advance s a1).engines = s.engines := by
  unfold State.advance
  simp [foldl_engines, ite_engines, mk_engines, fold_engines]
@[simp] theorem State.runTo_engines (s : State) (a1 : Nat) : (State.runTo s a1).engines = s.engines := by
  unfold State.runTo
  simp [foldl_engines, ite_engines, mk_engines, fold_engines]
@[simp] theorem State.emit_engines (s : State) (a1 : Out) : (State.emit s a1).engines = s.engines := by
  unfold State.emit
  simp [foldl_engines, ite_engines, mk_engines, fold_engines]
@[simp] theorem State.sendCan_engines (s : State) (a1 : Nat) (a2 : List Byte) : (State.sendCan s a1 a2).engines = s.engines := by
  unfold State.sendCan
  simp [foldl_engines, ite_engines, mk_engines, fold_engines]
theorem State.onFrame_engines (s : State) (port : Nat) (f : EthFrame) (taken : State → State) (ht : ∀ t, (taken t).engines = t.engines) :
    (State.onFrame s port f taken).engines = s.engines := by
  unfold State.onFrame
  (repeat' split) <;> simp [ht]
@[simp] theorem State.accessed_engines (s : State) (a1 : Via) : (State.accessed s a1).engines = s.engines := by
  unfold State.accessed
  simp [foldl_engines, ite_engines, mk_engines, fold_engines]
@[simp] theorem State.notify_engines (s : State) (a1 : Nat) (a2 : Nat) (a3 : List Byte) : (State.notify s a1 a2 a3).engines = s.engines := by
  unfold State.notify
  simp [foldl_engines, ite_engines, mk_engines, fold_engines]
@[simp] theorem State.sendHeartbeat_engines (s : State) : (State.sendHeartbeat s).engines = s.engines := by
  unfold State.sendHeartbeat
  (repeat' (first | split | dsimp only)) <;> first | with_reducible rfl | simp [foldl_engines, ite_engines, mk_engines, fold_engines]
@[simp] theorem State.sendBootUp_engines (s : State) : (State.sendBootUp s).engines = s.engines := by
  unfold State.sendBootUp
  simp [foldl_engines, ite_engines, mk_engines, fold_engines]
@[simp] theorem State.log_engines (s : State) (a1 : Event) : (State.log s a1).engines = s.engines := by
  unfold State.log
  simp [foldl_engines, ite_engines, mk_engines, fold_engines]
@[simp] theorem State.pushErrorField_engines (s : State) (a1 : Nat) (a2 : Nat) : (State.pushErrorField s a1 a2).engines = s.engines := by
  unfold State.pushErrorField
  simp [foldl_engines, ite_engines, mk_engines, fold_engines]
@[simp] theorem State.emcy_engines (s : State) (a1 : Event) : (State.emcy s a1).engines = s.engines := by
  unfold State.emcy
  simp [foldl_engines, ite_engines, mk_engines, fold_engines]
@[simp] theorem setClass_engines (s : State) (a1 : UnitClass) : (setClass s a1).engines = s.engines := by
  unfold setClass
  simp [foldl_engines, ite_engines, mk_engines, fold_engines]
@[simp] theorem makeOffer_engines (s : State) (a1 : Waiting) : (makeOffer s a1).engines = s.engines := by
  unfold makeOffer
  (repeat' (first | split | dsimp only)) <;> first | with_reducible rfl | simp [foldl_engines, ite_engines, mk_engines, fold_engines]
@[simp] theorem remapOffer_engines (s : State) (a1 : FaultUnit) : (remapOffer s a1).engines = s.engines := by
  unfold remapOffer
  (repeat' (first | split | dsimp only)) <;> first | with_reducible rfl | simp [foldl_engines, ite_engines, mk_engines, fold_engines]
@[simp] theorem classify_engines (s : State) (a1 : FaultUnit) (a2 : Bool) (a3 : Nat) (a4 : Nat) : (classify s a1 a2 a3 a4).engines = s.engines := by
  unfold classify
  simp [foldl_engines, ite_engines, mk_engines, fold_engines]
@[simp] theorem detect_engines (s : State) (a1 : FaultUnit) (a2 : Bool) (a3 : Nat) (a4 : Nat) : (detect s a1 a2 a3 a4).engines = s.engines := by
  unfold detect
  simp [foldl_engines, ite_engines, mk_engines, fold_engines]
@[simp] theorem State.setXlane_engines (s : State) (a1 : Nat) (a2 : XLane) : (State.setXlane s a1 a2).engines = s.engines := by
  unfold State.setXlane
  simp [foldl_engines, ite_engines, mk_engines, fold_engines]
@[simp] theorem State.setLaneSt_engines (s : State) (a1 : Nat) (a2 : Nat) : (State.setLaneSt s a1 a2).engines = s.engines := by
  unfold State.setLaneSt
  simp [foldl_engines, ite_engines, mk_engines, fold_engines]
@[simp] theorem State.modLane_engines (s : State) (a1 : Nat) (a2 : Lane → Lane) : (State.modLane s a1 a2).engines = s.engines := by
  unfold State.modLane
  simp [foldl_engines, ite_engines, mk_engines, fold_engines]
@[simp] theorem State.setShoalBeat_engines (s : State) (a1 : Nat) (a2 : ShoalBeat) : (State.setShoalBeat s a1 a2).engines = s.engines := by
  unfold State.setShoalBeat
  simp [foldl_engines, ite_engines, mk_engines, fold_engines]
@[simp] theorem degrade_engines (s : State) (a1 : Nat) (a2 : Beat) (a3 : Nat) : (degrade s a1 a2 a3).engines = s.engines := by
  unfold degrade
  simp [foldl_engines, ite_engines, mk_engines, fold_engines]
@[simp] theorem overfill_engines (s : State) (a1 : Nat) (a2 : Beat) (a3 : Nat) : (overfill s a1 a2 a3).engines = s.engines := by
  unfold overfill
  simp [foldl_engines, ite_engines, mk_engines, fold_engines]
@[simp] theorem degradeHome_engines (s : State) (a1 : Nat) : (degradeHome s a1).engines = s.engines := by
  unfold degradeHome
  (repeat' (first | split | dsimp only)) <;> first | with_reducible rfl | simp [foldl_engines, ite_engines, mk_engines, fold_engines]
@[simp] theorem leaveAligned_engines (s : State) (a1 : Nat) (a2 : Nat) : (leaveAligned s a1 a2).engines = s.engines := by
  unfold leaveAligned
  simp [foldl_engines, ite_engines, mk_engines, fold_engines]
@[simp] theorem loseAlign_engines (s : State) (a1 : Nat) : (loseAlign s a1).engines = s.engines := by
  unfold loseAlign
  simp [foldl_engines, ite_engines, mk_engines, fold_engines]
@[simp] theorem intoAligned_engines (s : State) (a1 : Nat) (a2 : Beat) : (intoAligned s a1 a2).engines = s.engines := by
  unfold intoAligned
  simp [foldl_engines, ite_engines, mk_engines, fold_engines]
@[simp] theorem laneOnward_engines (s : State) (a1 : Nat) : (laneOnward s a1).engines = s.engines := by
  unfold laneOnward
  simp [foldl_engines, ite_engines, mk_engines, fold_engines]
@[simp] theorem laneDown_engines (s : State) (a1 : Nat) : (laneDown s a1).engines = s.engines := by
  unfold laneDown
  simp [foldl_engines, ite_engines, mk_engines, fold_engines]
@[simp] theorem loseLock_engines (s : State) (a1 : Nat) : (loseLock s a1).engines = s.engines := by
  unfold loseLock
  simp [foldl_engines, ite_engines, mk_engines, fold_engines]
@[simp] theorem takeInject_engines (s : State) (a1 : Nat) : (takeInject s a1).2.engines = s.engines := by
  unfold takeInject
  simp [foldl_engines, ite_engines, mk_engines, fold_engines]
@[simp] theorem blockLocks_engines (s : State) (a1 : Nat) (a2 : List (BitVec 2)) : (blockLocks s a1 a2).engines = s.engines := by
  unfold blockLocks
  simp [foldl_engines, ite_engines, mk_engines, fold_engines]
@[simp] theorem blockUnlocks_engines (s : State) (a1 : Nat) (a2 : List (BitVec 2)) : (blockUnlocks s a1 a2).engines = s.engines := by
  unfold blockUnlocks
  simp [foldl_engines, ite_engines, mk_engines, fold_engines]
@[simp] theorem fecLocks_engines (s : State) (a1 : Nat) (a2 : List (List Nat)) : (fecLocks s a1 a2).engines = s.engines := by
  unfold fecLocks
  simp [foldl_engines, ite_engines, mk_engines, fold_engines]
@[simp] theorem fecUnlocks_engines (s : State) (a1 : Nat) : (fecUnlocks s a1).engines = s.engines := by
  unfold fecUnlocks
  simp [foldl_engines, ite_engines, mk_engines, fold_engines]
@[simp] theorem prbsBits_engines (s : State) (a1 : Nat) (a2 : List Bool) : (prbsBits s a1 a2).engines = s.engines := by
  unfold prbsBits
  simp [foldl_engines, ite_engines, mk_engines, fold_engines]
@[simp] theorem injectError_engines (s : State) (a1 : Bool) (a2 : Nat) : (injectError s a1 a2).engines = s.engines := by
  unfold injectError
  simp [foldl_engines, ite_engines, mk_engines, fold_engines]
@[simp] theorem injectFrom_engines (s : State) (a1 : Bool) (a2 : Nat) (a3 : Nat) : (injectFrom s a1 a2 a3).engines = s.engines := by
  unfold injectFrom
  simp [foldl_engines, ite_engines, mk_engines, fold_engines]
@[simp] theorem injectPeriod_engines (s : State) (a1 : Bool) (a2 : Nat) : (injectPeriod s a1 a2).engines = s.engines := by
  unfold injectPeriod
  simp [foldl_engines, ite_engines, mk_engines, fold_engines]
@[simp] theorem laneError_engines (s : State) (a1 : Nat) : (laneError s a1).engines = s.engines := by
  unfold laneError
  simp [foldl_engines, ite_engines, mk_engines, fold_engines]
@[simp] theorem landWord_engines (s : State) (a1 : Nat) (a2 : Word64) (a3 : Bool) : (landWord s a1 a2 a3).engines = s.engines := by
  unfold landWord
  (repeat' (first | split | dsimp only)) <;> first | with_reducible rfl | simp [foldl_engines, ite_engines, mk_engines, fold_engines]
@[simp] theorem badBlock_engines (s : State) (a1 : Nat) (a2 : Word64) : (badBlock s a1 a2).engines = s.engines := by
  unfold badBlock
  simp [foldl_engines, ite_engines, mk_engines, fold_engines]
@[simp] theorem closeBeat_engines (s : State) (a1 : Nat) (a2 : ShoalPlan) (a3 : Nat) : (closeBeat s a1 a2 a3).engines = s.engines := by
  unfold closeBeat
  (repeat' (first | split | dsimp only)) <;> first | with_reducible rfl | simp [foldl_engines, ite_engines, mk_engines, fold_engines]
@[simp] theorem openBeat_engines (s : State) (a1 : Nat) (a2 : ShoalPlan) (a3 : Beat) (a4 : Nat) (a5 : Time96) : (openBeat s a1 a2 a3 a4 a5).engines = s.engines := by
  unfold openBeat
  simp [foldl_engines, ite_engines, mk_engines, fold_engines]
@[simp] theorem inconsistentMarker_engines (s : State) (a1 : Nat) : (inconsistentMarker s a1).engines = s.engines := by
  unfold inconsistentMarker
  simp [foldl_engines, ite_engines, mk_engines, fold_engines]
@[simp] theorem beatBlock_engines (s : State) (a1 : Nat) (a2 : Word64) (a3 : Time96) : (beatBlock s a1 a2 a3).engines = s.engines := by
  unfold beatBlock
  (repeat' (first | split | dsimp only)) <;> first | with_reducible rfl | simp [foldl_engines, ite_engines, mk_engines, fold_engines]
@[simp] theorem alignFrom_engines (s : State) (a1 : Nat) (a2 : ShoalPlan) (a3 : Beat) (a4 : Nat) (a5 : Time96) : (alignFrom s a1 a2 a3 a4 a5).engines = s.engines := by
  unfold alignFrom
  simp [foldl_engines, ite_engines, mk_engines, fold_engines]
@[simp] theorem consistentMarker_engines (s : State) (a1 : Nat) (a2 : ShoalPlan) (a3 : Beat) (a4 : Nat) (a5 : Nat) (a6 : Time96) : (consistentMarker s a1 a2 a3 a4 a5 a6).engines = s.engines := by
  unfold consistentMarker
  simp [foldl_engines, ite_engines, mk_engines, fold_engines]
@[simp] theorem alignBlock_engines (s : State) (a1 : Nat) (a2 : Word64) (a3 : Option Word64) (a4 : Time96) : (alignBlock s a1 a2 a3 a4).engines = s.engines := by
  unfold alignBlock
  (repeat' (first | split | dsimp only)) <;> first | with_reducible rfl | simp [foldl_engines, ite_engines, mk_engines, fold_engines]
@[simp] theorem flushAlignA_engines (s : State) (a1 : Nat) : (flushAlignA s a1).engines = s.engines := by
  unfold flushAlignA
  (repeat' (first | split | dsimp only)) <;> first | with_reducible rfl | simp [foldl_engines, ite_engines, mk_engines, fold_engines]
@[simp] theorem ferryDrop_engines (s : State) (a1 : Nat) : (ferryDrop s a1).engines = s.engines := by
  unfold ferryDrop
  simp [foldl_engines, ite_engines, mk_engines, fold_engines]
@[simp] theorem ferryVerify_engines (s : State) (a1 : Nat) (a2 : Beat) : (ferryVerify s a1 a2).engines = s.engines := by
  unfold ferryVerify
  simp [foldl_engines, ite_engines, mk_engines, fold_engines]
@[simp] theorem ferryHold_engines (s : State) (a1 : Nat) (a2 : FerryPlan) (a3 : Beat) (a4 : Token) : (ferryHold s a1 a2 a3 a4).engines = s.engines := by
  unfold ferryHold
  (repeat' (first | split | dsimp only)) <;> first | with_reducible rfl | simp [foldl_engines, ite_engines, mk_engines, fold_engines]
@[simp] theorem ferrySounds_engines (s : State) (a1 : Nat) (a2 : Beat) (a3 : Tag) : (ferrySounds s a1 a2 a3).engines = s.engines := by
  unfold ferrySounds
  simp [foldl_engines, ite_engines, mk_engines, fold_engines]
@[simp] theorem ferryArrives_engines (s : State) (a1 : Nat) (a2 : Word64) (a3 : Word256) : (ferryArrives s a1 a2 a3).engines = s.engines := by
  unfold ferryArrives
  (repeat' (first | split | dsimp only)) <;> first | with_reducible rfl | simp [foldl_engines, ite_engines, mk_engines, fold_engines]
@[simp] theorem dataWord_engines (s : State) (a1 : Nat) (a2 : Word64) (a3 : Bool) : (dataWord s a1 a2 a3).engines = s.engines := by
  unfold dataWord
  (repeat' (first | split | dsimp only)) <;> first | with_reducible rfl | simp [foldl_engines, ite_engines, mk_engines, fold_engines]
@[simp] theorem controlBlock_engines (s : State) (a1 : Nat) (a2 : Word64) (a3 : Time96) : (controlBlock s a1 a2 a3).engines = s.engines := by
  unfold controlBlock
  (repeat' (first | split | dsimp only)) <;> first | with_reducible rfl | simp [foldl_engines, ite_engines, mk_engines, fold_engines]
@[simp] theorem landCoded_engines (s : State) (a1 : Nat) (a2 : Coded) (a3 : Bool) (a4 : Time96) : (landCoded s a1 a2 a3 a4).engines = s.engines := by
  unfold landCoded
  simp [foldl_engines, ite_engines, mk_engines, fold_engines]
@[simp] theorem rawBlock_engines (s : State) (a1 : Nat) (a2 : BitVec 66) (a3 : Time96) : (rawBlock s a1 a2 a3).engines = s.engines := by
  unfold rawBlock
  simp [foldl_engines, ite_engines, mk_engines, fold_engines]
@[simp] theorem codeword_engines (s : State) (a1 : Nat) (a2 : List Nat) : (codeword s a1 a2).1.engines = s.engines := by
  unfold codeword
  (repeat' (first | split | dsimp only)) <;> first | with_reducible rfl | simp [foldl_engines, ite_engines, mk_engines, fold_engines]
@[simp] theorem interleaved_engines (s : State) (a1 : Nat) (a2 : List Nat) (a3 : List Time96) : (interleaved s a1 a2 a3).engines = s.engines := by
  unfold interleaved
  simp [foldl_engines, ite_engines, mk_engines, fold_engines]
@[simp] theorem decodedBlock_engines (s : State) (a1 : Nat) : (decodedBlock s a1).engines = s.engines := by
  unfold decodedBlock
  (repeat' (first | split | dsimp only)) <;> first | with_reducible rfl | simp [foldl_engines, ite_engines, mk_engines, fold_engines]
@[simp] theorem elasticOverflow_engines (s : State) (a1 : Nat) : (elasticOverflow s a1).engines = s.engines := by
  unfold elasticOverflow
  simp [foldl_engines, ite_engines, mk_engines, fold_engines]
@[simp] theorem landBlock_engines (s : State) (a1 : Nat) (a2 : Nat) (a3 : LaneBlock) : (landBlock s a1 a2 a3).engines = s.engines := by
  unfold landBlock
  (repeat' (first | split | dsimp only)) <;> first | with_reducible rfl | simp [foldl_engines, ite_engines, mk_engines, fold_engines]
@[simp] theorem logCompare_engines (s : State) (a1 : Beat) : (logCompare s a1).engines = s.engines := by
  unfold logCompare
  simp [foldl_engines, ite_engines, mk_engines, fold_engines]
@[simp] theorem diverge_engines (s : State) (a1 : Beat) : (diverge s a1).engines = s.engines := by
  unfold diverge
  simp [foldl_engines, ite_engines, mk_engines, fold_engines]
@[simp] theorem compareBeat_engines (s : State) (a1 : Beat) : (compareBeat s a1).engines = s.engines := by
  unfold compareBeat
  (repeat' (first | split | dsimp only)) <;> first | with_reducible rfl | simp [foldl_engines, ite_engines, mk_engines, fold_engines]
@[simp] theorem digestLands_engines (s : State) (a1 : Nat) (a2 : Word64) : (digestLands s a1 a2).engines = s.engines := by
  unfold digestLands
  simp [foldl_engines, ite_engines, mk_engines, fold_engines]
@[simp] theorem State.setActExtra_engines (s : State) (a1 : Nat) (a2 : ActionExtra) : (State.setActExtra s a1 a2).engines = s.engines := by
  unfold State.setActExtra
  simp [foldl_engines, ite_engines, mk_engines, fold_engines]
@[simp] theorem actEnds_engines (s : State) (a1 : Nat) (a2 : Nat) (a3 : Nat) : (actEnds s a1 a2 a3).engines = s.engines := by
  unfold actEnds
  simp [foldl_engines, ite_engines, mk_engines, fold_engines]
@[simp] theorem dueInHeld_engines (s : State) (a1 : Nat) : (dueInHeld s a1).engines = s.engines := by
  unfold dueInHeld
  simp [foldl_engines, ite_engines, mk_engines, fold_engines]
theorem onPtp_engines (s : State) (via : PtpVia) (taken : State → State) (ht : ∀ t, (taken t).engines = t.engines) : (onPtp s via taken).engines = s.engines := by
  unfold onPtp
  exact State.onFrame_engines _ _ _ _ ht
@[simp] theorem sendPtp_engines (s : State) (a1 : Nat) (a2 : Nat) (a3 : Time96) (a4 : Int) (a5 : PtpFix) : (sendPtp s a1 a2 a3 a4 a5).engines = s.engines := by
  unfold sendPtp
  simp [foldl_engines, ite_engines, mk_engines, fold_engines]
@[simp] theorem holdoverCause_engines (s : State) (a1 : Nat) : (holdoverCause s a1).engines = s.engines := by
  unfold holdoverCause
  simp [foldl_engines, ite_engines, mk_engines, fold_engines]
@[simp] theorem servoEvent_engines (s : State) (a1 : Nat) : (servoEvent s a1).engines = s.engines := by
  unfold servoEvent
  (repeat' (first | split | dsimp only)) <;> first | with_reducible rfl | simp [foldl_engines, ite_engines, mk_engines, fold_engines]
@[simp] theorem slew_engines (s : State) : (slew s).engines = s.engines := by
  unfold slew
  simp [foldl_engines, ite_engines, mk_engines, fold_engines]
@[simp] theorem markStepped_engines (a0 : Time96) (s : State) (a2 : Nat) : (markStepped a0 s a2).engines = s.engines := by
  unfold markStepped
  simp [foldl_engines, ite_engines, mk_engines, fold_engines]
@[simp] theorem clockStep_engines (s : State) (a1 : ℤ) : (clockStep s a1).engines = s.engines := by
  unfold clockStep
  simp [foldl_engines, ite_engines, mk_engines, fold_engines]
@[simp] theorem refuseSample_engines (s : State) : (refuseSample s).engines = s.engines := by
  unfold refuseSample
  (repeat' (first | split | dsimp only)) <;> first | with_reducible rfl | simp [foldl_engines, ite_engines, mk_engines, fold_engines]
@[simp] theorem goodSample_engines (s : State) : (goodSample s).engines = s.engines := by
  unfold goodSample
  simp [foldl_engines, ite_engines, mk_engines, fold_engines]
@[simp] theorem offsetSample_engines (s : State) (a1 : ℤ) : (offsetSample s a1).engines = s.engines := by
  unfold offsetSample
  simp [foldl_engines, ite_engines, mk_engines, fold_engines]
@[simp] theorem syncSample_engines (s : State) (a1 : Time96) (a2 : Int) (a3 : Int) : (syncSample s a1 a2 a3).engines = s.engines := by
  unfold syncSample
  simp [foldl_engines, ite_engines, mk_engines, fold_engines]
@[simp] theorem syncArrives_engines (s : State) (a1 : PtpSync) : (syncArrives s a1).engines = s.engines := by
  unfold syncArrives
  simp [foldl_engines, ite_engines, mk_engines, fold_engines]
@[simp] theorem followUpArrives_engines (s : State) (a1 : PtpFollowUp) : (followUpArrives s a1).engines = s.engines := by
  unfold followUpArrives
  (repeat' (first | split | dsimp only)) <;> first | with_reducible rfl | simp [foldl_engines, ite_engines, mk_engines, fold_engines]
@[simp] theorem selectMaster_engines (s : State) : (selectMaster s).engines = s.engines := by
  unfold selectMaster
  (repeat' (first | split | dsimp only)) <;> first | with_reducible rfl | simp [foldl_engines, ite_engines, mk_engines, fold_engines]
@[simp] theorem announceArrives_engines (s : State) (a1 : PtpAnnounce) : (announceArrives s a1).engines = s.engines := by
  unfold announceArrives
  simp [foldl_engines, ite_engines, mk_engines, fold_engines]
@[simp] theorem delayRespArrives_engines (s : State) (a1 : PtpDelayResp) : (delayRespArrives s a1).engines = s.engines := by
  unfold delayRespArrives
  (repeat' (first | split | dsimp only)) <;> first | with_reducible rfl | simp [foldl_engines, ite_engines, mk_engines, fold_engines]
@[simp] theorem pdelayRespArrives_engines (s : State) (a1 : PtpPdelayResp) : (pdelayRespArrives s a1).engines = s.engines := by
  unfold pdelayRespArrives
  (repeat' (first | split | dsimp only)) <;> first | with_reducible rfl | simp [foldl_engines, ite_engines, mk_engines, fold_engines]
@[simp] theorem pdelayReqArrives_engines (s : State) (a1 : PtpPdelayReq) : (pdelayReqArrives s a1).engines = s.engines := by
  unfold pdelayReqArrives
  simp [foldl_engines, ite_engines, mk_engines, fold_engines]
@[simp] theorem syncLeaves_engines (s : State) (a1 : Nat) : (syncLeaves s a1).engines = s.engines := by
  unfold syncLeaves
  simp [foldl_engines, ite_engines, mk_engines, fold_engines]
@[simp] theorem delayReqLeaves_engines (s : State) (a1 : Nat) : (delayReqLeaves s a1).engines = s.engines := by
  unfold delayReqLeaves
  simp [foldl_engines, ite_engines, mk_engines, fold_engines]
@[simp] theorem delayReqArrives_engines (s : State) (a1 : PtpDelayReq) : (delayReqArrives s a1).engines = s.engines := by
  unfold delayReqArrives
  simp [foldl_engines, ite_engines, mk_engines, fold_engines]
@[simp] theorem announceTimeout_engines (s : State) : (announceTimeout s).engines = s.engines := by
  unfold announceTimeout
  simp [foldl_engines, ite_engines, mk_engines, fold_engines]
@[simp] theorem ptpLinkDown_engines (s : State) : (ptpLinkDown s).engines = s.engines := by
  unfold ptpLinkDown
  simp [foldl_engines, ite_engines, mk_engines, fold_engines]
@[simp] theorem State.modSil_engines (s : State) (a1 : Silush → Silush) : (State.modSil s a1).engines = s.engines := by
  unfold State.modSil
  simp [foldl_engines, ite_engines, mk_engines, fold_engines]
@[simp] theorem silFails_engines (s : State) (a1 : Nat) (a2 : Nat) : (silFails s a1 a2).engines = s.engines := by
  unfold silFails
  simp [foldl_engines, ite_engines, mk_engines, fold_engines]
@[simp] theorem answer_engines (s : State) (a1 : Bool) : (answer s a1).engines = s.engines := by
  unfold answer
  simp [foldl_engines, ite_engines, mk_engines, fold_engines]
@[simp] theorem closeCycle_engines (s : State) : (closeCycle s).engines = s.engines := by
  unfold closeCycle
  simp [foldl_engines, ite_engines, mk_engines, fold_engines]
@[simp] theorem cycleStart_engines (s : State) : (cycleStart s).engines = s.engines := by
  unfold cycleStart
  simp [foldl_engines, ite_engines, mk_engines, fold_engines]
@[simp] theorem collide_engines (s : State) (a1 : Nat) : (collide s a1).engines = s.engines := by
  unfold collide
  simp [foldl_engines, ite_engines, mk_engines, fold_engines]
@[simp] theorem classBurst_engines (s : State) (a1 : Nat) (a2 : ℤ) : (classBurst s a1 a2).1.engines = s.engines := by
  unfold classBurst
  (repeat' (first | split | dsimp only)) <;> first | with_reducible rfl | simp [foldl_engines, ite_engines, mk_engines, fold_engines]
@[simp] theorem clearAbsent_engines (s : State) (a1 : Nat) : (clearAbsent s a1).engines = s.engines := by
  unfold clearAbsent
  simp [foldl_engines, ite_engines, mk_engines, fold_engines]
@[simp] theorem countCrc_engines (s : State) (a1 : Option (BitVec 56)) : (countCrc s a1).engines = s.engines := by
  unfold countCrc
  (repeat' (first | split | dsimp only)) <;> first | with_reducible rfl | simp [foldl_engines, ite_engines, mk_engines, fold_engines]
@[simp] theorem takeData_engines (s : State) (a1 : Nat) (a2 : Option (BitVec 56)) : (takeData s a1 a2).engines = s.engines := by
  unfold takeData
  (repeat' (first | split | dsimp only)) <;> first | with_reducible rfl | simp [foldl_engines, ite_engines, mk_engines, fold_engines]
@[simp] theorem useData_engines (s : State) (a1 : Nat) (a2 : Burst) : (useData s a1 a2).engines = s.engines := by
  unfold useData
  simp [foldl_engines, ite_engines, mk_engines, fold_engines]
@[simp] theorem slotBurst_engines (s : State) (a1 : Nat) (a2 : Burst) : (slotBurst s a1 a2).engines = s.engines := by
  unfold slotBurst
  simp [foldl_engines, ite_engines, mk_engines, fold_engines]
@[simp] theorem ownBurst_engines (s : State) (a1 : Burst) : (ownBurst s a1).engines = s.engines := by
  unfold ownBurst
  simp [foldl_engines, ite_engines, mk_engines, fold_engines]
@[simp] theorem slotAbsent_engines (s : State) (a1 : Nat) : (slotAbsent s a1).engines = s.engines := by
  unfold slotAbsent
  simp [foldl_engines, ite_engines, mk_engines, fold_engines]
@[simp] theorem slot0Preamble_engines (s : State) (a1 : Burst) : (slot0Preamble s a1).engines = s.engines := by
  unfold slot0Preamble
  simp [foldl_engines, ite_engines, mk_engines, fold_engines]
theorem slot0Burst_engines (s : State) (kind : Nat) (b : Burst) (g : BitVec 56 → State → State) (hg : ∀ d s, (g d s).engines = s.engines) :
    (slot0Burst s kind b g).engines = s.engines := by
  unfold slot0Burst
  split
  · rfl
  · split
    · simp
    · split
      · split <;> simp
      · generalize slot0Data s b = d
        cases d with
        | none => simp
        | some x =>
          dsimp only
          split
          · rfl
          · rw [answer_engines]
            exact (hg _ _).trans (by simp)
@[simp] theorem hearBeat_engines (a0 : Burst) (a1 : BitVec 56) (s : State) : (hearBeat a0 a1 s).engines = s.engines := by
  unfold hearBeat
  simp [foldl_engines, ite_engines, mk_engines, fold_engines]
@[simp] theorem hearRange_engines (a0 : BitVec 56) (s : State) : (hearRange a0 s).engines = s.engines := by
  unfold hearRange
  simp [foldl_engines, ite_engines, mk_engines, fold_engines]
@[simp] theorem rangeSettles_engines (s : State) (a1 : Bool) : (rangeSettles s a1).engines = s.engines := by
  unfold rangeSettles
  simp [foldl_engines, ite_engines, mk_engines, fold_engines]
@[simp] theorem rangeHeard_engines (s : State) (a1 : Nat) : (rangeHeard s a1).engines = s.engines := by
  unfold rangeHeard
  simp [foldl_engines, ite_engines, mk_engines, fold_engines]
@[simp] theorem rangingReturns_engines (s : State) (a1 : Burst) : (rangingReturns s a1).engines = s.engines := by
  unfold rangingReturns
  (repeat' (first | split | dsimp only)) <;> first | with_reducible rfl | simp [foldl_engines, ite_engines, mk_engines, fold_engines]
@[simp] theorem State.putReg_engines (s : State) (a1 : Reg) (a2 : Nat) (a3 : Nat) : (State.putReg s a1 a2 a3).engines = s.engines := by
  unfold State.putReg
  simp [foldl_engines, ite_engines, mk_engines, fold_engines]
@[simp] theorem State.setDomainState_engines (s : State) (a1 : Nat) (a2 : Nat) : (State.setDomainState s a1 a2).engines = s.engines := by
  unfold State.setDomainState
  simp [foldl_engines, ite_engines, mk_engines, fold_engines]
@[simp] theorem tapAnswers_engines (s : State) (a1 : Nat) (a2 : Nat) : (tapAnswers s a1 a2).engines = s.engines := by
  unfold tapAnswers
  simp [foldl_engines, ite_engines, mk_engines, fold_engines]
@[simp] theorem State.modLinks_engines (s : State) (a1 : Links → Links) : (State.modLinks s a1).engines = s.engines := by
  unfold State.modLinks
  simp [foldl_engines, ite_engines, mk_engines, fold_engines]
@[simp] theorem dropSnapshot_engines (s : State) (a1 : Via) (a2 : Nat) : (dropSnapshot s a1 a2).engines = s.engines := by
  unfold dropSnapshot
  simp [foldl_engines, ite_engines, mk_engines, fold_engines]
@[simp] theorem snapshotExpires_engines (s : State) (a1 : Via) (a2 : Nat) : (snapshotExpires s a1 a2).engines = s.engines := by
  unfold snapshotExpires
  (repeat' (first | split | dsimp only)) <;> first | with_reducible rfl | simp [foldl_engines, ite_engines, mk_engines, fold_engines]
@[simp] theorem readIdles_engines (s : State) (a1 : Via) (a2 : Nat) : (readIdles s a1 a2).engines = s.engines := by
  unfold readIdles
  (repeat' (first | split | dsimp only)) <;> first | with_reducible rfl | simp [foldl_engines, ite_engines, mk_engines, fold_engines]
@[simp] theorem refuseWrite_engines (s : State) (a1 : Nat) : (refuseWrite s a1).2.engines = s.engines := by
  unfold refuseWrite
  simp [foldl_engines, ite_engines, mk_engines, fold_engines]
@[simp] theorem openWrite_engines (a0 : Via) (a1 : Nat) (a2 : Nat) (a3 : Nat) (a4 : Option Nat) (s : State) : (openWrite a0 a1 a2 a3 a4 s).2.2.engines = s.engines := by
  unfold openWrite
  (repeat' (first | split | dsimp only)) <;> first | with_reducible rfl | simp [foldl_engines, ite_engines, mk_engines, fold_engines]
@[simp] theorem endWrite_engines (s : State) (a1 : Nat) : (endWrite s a1).engines = s.engines := by
  unfold endWrite
  simp [foldl_engines, ite_engines, mk_engines, fold_engines]
@[simp] theorem chunkWrite_engines (a0 : Via) (a1 : Nat) (a2 : Nat) (a3 : List Byte) (s : State) : (chunkWrite a0 a1 a2 a3 s).2.engines = s.engines := by
  unfold chunkWrite
  (repeat' (first | split | dsimp only)) <;> first | with_reducible rfl | simp [foldl_engines, ite_engines, mk_engines, fold_engines]
@[simp] theorem cancelWrite_engines (a0 : Via) (a1 : Nat) (s : State) : (cancelWrite a0 a1 s).2.engines = s.engines := by
  unfold cancelWrite
  (repeat' (first | split | dsimp only)) <;> first | with_reducible rfl | simp [foldl_engines, ite_engines, mk_engines, fold_engines]
@[simp] theorem writeIdles_engines (s : State) (a1 : Nat) : (writeIdles s a1).engines = s.engines := by
  unfold writeIdles
  (repeat' (first | split | dsimp only)) <;> first | with_reducible rfl | simp [foldl_engines, ite_engines, mk_engines, fold_engines]
@[simp] theorem endSession_engines (s : State) (a1 : Via) : (endSession s a1).engines = s.engines := by
  unfold endSession
  simp [foldl_engines, ite_engines, mk_engines, fold_engines]
@[simp] theorem endSilent_engines (s : State) : (endSilent s).engines = s.engines := by
  unfold endSilent
  simp [foldl_engines, ite_engines, mk_engines, fold_engines]
theorem admitSession_engines (s t : State) (d : Datagram) (h : admitSession s d = some t) : t.engines = s.engines := by
  unfold admitSession at h
  (repeat' (first | split at h | dsimp only at h)) <;> simp_all
  all_goals (subst h; simp)
@[simp] theorem State.answerTo_engines (s : State) (a1 : Datagram) (a2 : List Byte) : (State.answerTo s a1 a2).engines = s.engines := by
  unfold State.answerTo
  simp [foldl_engines, ite_engines, mk_engines, fold_engines]
@[simp] theorem sendReply_engines (s : State) (a1 : Datagram) (a2 : List Byte) : (sendReply s a1 a2).engines = s.engines := by
  unfold sendReply
  simp [foldl_engines, ite_engines, mk_engines, fold_engines]
theorem serveFrame_engines (op : Nat) (run : State → Option (List Byte × State)) (hr : ∀ s bs t, run s = some (bs, t) → t.engines = s.engines)
    (d : Datagram) (s : State) : (serveFrame op run d s).engines = s.engines := by
  unfold serveFrame
  dsimp only
  split
  · rfl
  · split
    · simp
    · split
      · simp
      · split
        · simp
        · split
          · simp
          · rename_i t ht
            have h2 := admitSession_engines _ _ _ ht
            split
            · simp [h2]
            · split
              · simp [h2]
              · rename_i bs u hu
                rw [sendReply_engines, hr _ _ _ hu]
                simp [h2]
theorem serve'_engines (op : Nat) (run : State → Option (List Byte × State)) (hr : ∀ s bs t, run s = some (bs, t) → t.engines = s.engines)
    (d : Datagram) (s : State) : (serve' op run d s).engines = s.engines := by
  unfold serve'
  exact State.onFrame_engines _ _ _ _ (fun t => serveFrame_engines _ _ hr _ _)
@[simp] theorem sessionTimesOut_engines (s : State) (a1 : Via) : (sessionTimesOut s a1).engines = s.engines := by
  unfold sessionTimesOut
  (repeat' (first | split | dsimp only)) <;> first | with_reducible rfl | simp [foldl_engines, ite_engines, mk_engines, fold_engines]
theorem onFd_engines (f : CanFrame) (s : State) (taken : State → State) (ht : (taken s).engines = s.engines) : (onFd f s taken).engines = s.engines := by
  unfold onFd
  split <;> first | rfl | exact ht
@[simp] theorem dropTransfer_engines (s : State) (a1 : Nat) : (dropTransfer s a1).engines = s.engines := by
  unfold dropTransfer
  (repeat' (first | split | dsimp only)) <;> first | with_reducible rfl | simp [foldl_engines, ite_engines, mk_engines, fold_engines]
@[simp] theorem aborts_engines (s : State) (a1 : Nat) (a2 : Nat) (a3 : Nat) : (aborts s a1 a2 a3).engines = s.engines := by
  unfold aborts
  simp [foldl_engines, ite_engines, mk_engines, fold_engines]
@[simp] theorem resetsCommunication_engines (s : State) (a1 : Nat) : (resetsCommunication s a1).engines = s.engines := by
  unfold resetsCommunication
  simp [foldl_engines, ite_engines, mk_engines, fold_engines]
@[simp] theorem beats_engines (s : State) : (beats s).engines = s.engines := by
  unfold beats
  simp [foldl_engines, ite_engines, mk_engines, fold_engines]
@[simp] theorem formPdo_engines (s : State) (a1 : Nat) : (formPdo s a1).engines = s.engines := by
  unfold formPdo
  simp [foldl_engines, ite_engines, mk_engines, fold_engines]
@[simp] theorem eventTimer_engines (s : State) (a1 : Nat) : (eventTimer s a1).engines = s.engines := by
  unfold eventTimer
  simp [foldl_engines, ite_engines, mk_engines, fold_engines]
@[simp] theorem sendsEmcy_engines (s : State) : (sendsEmcy s).engines = s.engines := by
  unfold sendsEmcy
  (repeat' (first | split | dsimp only)) <;> first | with_reducible rfl | simp [foldl_engines, ite_engines, mk_engines, fold_engines]
@[simp] theorem errorPassive_engines (s : State) (a1 : Bool) : (errorPassive s a1).engines = s.engines := by
  unfold errorPassive
  simp [foldl_engines, ite_engines, mk_engines, fold_engines]
@[simp] theorem partsExpire_engines (s : State) (a1 : Nat) : (partsExpire s a1).engines = s.engines := by
  unfold partsExpire
  (repeat' (first | split | dsimp only)) <;> first | with_reducible rfl | simp [foldl_engines, ite_engines, mk_engines, fold_engines]
theorem asked_engines {op : Nat} {run : State → Option (List Byte × State)} {d : Datagram} {s t : State}
    (hr : ∀ s bs t, run s = some (bs, t) → t.engines = s.engines) (h : done s (serve' op run d s) = .next t) : t.engines = s.engines :=
  (done_keeps State.engines (fun _ _ => rfl) h).trans (serve'_engines _ _ hr _ _)

end Sys2Proof.Machine
end

