-- ==== Sys2Proof/Laws/Memory.lean ====
section
/-! SUPPORT. What the operations of lanes, tiles, items and kernels do to the memory: most leave it, and the others keep its canonical form. -/

set_option linter.all false

namespace Sys2Proof.Machine

theorem foldl_mem {α : Type} (f : State → α → State) (h : ∀ s x, (f s x).mem = s.mem) (l : List α) (s : State) :
    (l.foldl f s).mem = s.mem := by
  induction l generalizing s with
  | nil => rfl
  | cons x l ih => simp [ih, h]
theorem foldl_wf {α : Type} (f : State → α → State) (h : ∀ s x, storeWf s.mem = true → storeWf (f s x).mem = true) (l : List α) (s : State)
    (hs : storeWf s.mem = true) : storeWf (l.foldl f s).mem = true := by
  induction l generalizing s with
  | nil => exact hs
  | cons x l ih => exact ih _ (h _ _ hs)
theorem ite_mem (c : Prop) [Decidable c] (s t : State) : (if c then s else t).mem = if c then s.mem else t.mem := by
  split <;> rfl
theorem foldl_ran (g : Ran → Nat → Ran) (hg : ∀ x j, storeWf x.s.mem = true → storeWf (g x j).s.mem = true) (l : List Nat) (x : Ran)
    (h : storeWf x.s.mem = true) : storeWf (l.foldl g x).s.mem = true := by
  induction l generalizing x with
  | nil => exact h
  | cons a l ih => exact ih _ (hg _ _ h)
theorem foldl_pair {α β : Type} (g : State × β → α → State × β)
    (hg : ∀ x a, storeWf x.1.mem = true → storeWf (g x a).1.mem = true) (l : List α) (x : State × β)
    (h : storeWf x.1.mem = true) : storeWf (l.foldl g x).1.mem = true := by
  induction l generalizing x with
  | nil => exact h
  | cons a l ih => exact ih _ (hg _ _ h)
def keepsWf (body : Body) : Prop := ∀ e f s rf, storeWf s.mem = true → storeWf (body e f s rf).s.mem = true
theorem foldl_memRead {α β : Type} (g : MemRead × β → α → MemRead × β)
    (hg : ∀ x a, storeWf x.1.s.mem = true → storeWf (g x a).1.s.mem = true) (l : List α) (x : MemRead × β)
    (h : storeWf x.1.s.mem = true) : storeWf (l.foldl g x).1.s.mem = true := by
  induction l generalizing x with
  | nil => exact h
  | cons a l ih => exact ih _ (hg _ _ h)
@[simp] theorem State.latchRemaps_mem (s : State) (a1 : Bool) (a2 : List Nat) : (State.latchRemaps s a1 a2).mem = s.mem := by
  unfold State.latchRemaps
  with_reducible rfl
@[simp] theorem State.setTile_mem (s : State) (a1 : TileId) (a2 : Bool) (a3 : Tile) : (State.setTile s a1 a2 a3).mem = s.mem := by
  unfold State.setTile
  simp [foldl_mem, ite_mem]
@[simp] theorem State.modHarbour_mem (s : State) (a1 : Nat) (a2 : Harbour → Harbour) : (State.modHarbour s a1 a2).mem = s.mem := by
  unfold State.modHarbour
  simp [foldl_mem, ite_mem]
@[simp] theorem State.setPlaneState_mem (s : State) (a1 : Nat) (a2 : Bool) (a3 : Nat) : (State.setPlaneState s a1 a2 a3).mem = s.mem := by
  unfold State.setPlaneState
  simp [foldl_mem, ite_mem]
@[simp] theorem groupTick_mem (a0 : Nat) (s : State) (a2 : Nat) : (groupTick a0 s a2).mem = s.mem := by
  unfold groupTick
  simp [foldl_mem, ite_mem]
@[simp] theorem State.advance_mem (s : State) (a1 : Nat) : (State.advance s a1).mem = s.mem := by
  unfold State.advance
  simp [foldl_mem, ite_mem]
@[simp] theorem State.runTo_mem (s : State) (a1 : Nat) : (State.runTo s a1).mem = s.mem := by
  unfold State.runTo
  simp [foldl_mem, ite_mem]
@[simp] theorem State.sendCan_mem (s : State) (a1 : Nat) (a2 : List Byte) : (State.sendCan s a1 a2).mem = s.mem := by
  unfold State.sendCan
  simp [foldl_mem, ite_mem]
theorem State.onFrame_wf (s : State) (port : Nat) (f : EthFrame) (taken : State → State)
    (ht : ∀ t, storeWf t.mem = true → storeWf (taken t).mem = true) (h : storeWf s.mem = true) :
    storeWf (State.onFrame s port f taken).mem = true := by
  unfold State.onFrame
  (repeat' split) <;> simp [h, ht]
theorem State.onFrame_mem (s : State) (port : Nat) (f : EthFrame) (taken : State → State) (ht : ∀ t, (taken t).mem = t.mem) :
    (State.onFrame s port f taken).mem = s.mem := by
  unfold State.onFrame
  (repeat' split) <;> simp [ht]
@[simp] theorem State.accessed_mem (s : State) (a1 : Via) : (State.accessed s a1).mem = s.mem := by
  unfold State.accessed
  simp [foldl_mem, ite_mem]
@[simp] theorem State.notify_mem (s : State) (a1 : Nat) (a2 : Nat) (a3 : List Byte) : (State.notify s a1 a2 a3).mem = s.mem := by
  unfold State.notify
  simp [foldl_mem, ite_mem]
@[simp] theorem State.sendHeartbeat_mem (s : State) : (State.sendHeartbeat s).mem = s.mem := by
  unfold State.sendHeartbeat
  (repeat' (first | split | dsimp only)) <;> first | with_reducible rfl | simp [foldl_mem, ite_mem]
@[simp] theorem State.sendBootUp_mem (s : State) : (State.sendBootUp s).mem = s.mem := by
  unfold State.sendBootUp
  simp [foldl_mem, ite_mem]
@[simp] theorem State.enter_mem (s : State) (a1 : Mode) (a2 : Nat) : (State.enter s a1 a2).mem = s.mem := by
  unfold State.enter
  simp [foldl_mem, ite_mem]
@[simp] theorem State.log_mem (s : State) (a1 : Event) : (State.log s a1).mem = s.mem := by
  unfold State.log
  with_reducible rfl
@[simp] theorem State.pushErrorField_mem (s : State) (a1 : Nat) (a2 : Nat) : (State.pushErrorField s a1 a2).mem = s.mem := by
  unfold State.pushErrorField
  exact foldl_mem _ (by intro s x; (repeat' (first | split | dsimp only)) <;> first | with_reducible rfl | simp [foldl_mem, ite_mem]) _ _
@[simp] theorem State.emcy_mem (s : State) (a1 : Event) : (State.emcy s a1).mem = s.mem := by
  unfold State.emcy
  simp [foldl_mem, ite_mem]
@[simp] theorem State.detFault_mem (s : State) (a1 : Nat) (a2 : Nat) : (State.detFault s a1 a2).mem = s.mem := by
  unfold State.detFault
  simp [foldl_mem, ite_mem]
@[simp] theorem stopHarbour_mem (s : State) (a1 : Nat) : (stopHarbour s a1).mem = s.mem := by
  unfold stopHarbour
  exact foldl_mem _ (by intro s x; (repeat' (first | split | dsimp only)) <;> first | with_reducible rfl | simp [foldl_mem, ite_mem]) _ _
@[simp] theorem cancelActions_mem (s : State) : (cancelActions s).mem = s.mem := by
  unfold cancelActions
  simp [foldl_mem, ite_mem]
@[simp] theorem logUnsent_mem (s : State) : (logUnsent s).mem = s.mem := by
  unfold logUnsent
  exact foldl_mem _ (by intro s x; (repeat' (first | split | dsimp only)) <;> first | with_reducible rfl | simp [foldl_mem, ite_mem]) _ _
@[simp] theorem abortBist_mem (s : State) : (abortBist s).mem = s.mem := by
  unfold abortBist
  (repeat' (first | split | dsimp only)) <;> first | with_reducible rfl | simp [foldl_mem, ite_mem]
@[simp] theorem stopTokens_mem (s : State) : (stopTokens s).mem = s.mem := by
  unfold stopTokens
  with_reducible rfl
@[simp] theorem leaveRunning_mem (s : State) : (leaveRunning s).mem = s.mem := by
  unfold leaveRunning
  exact foldl_mem _ (by intro s x; (repeat' (first | split | dsimp only)) <;> first | with_reducible rfl | simp [foldl_mem, ite_mem]) _ _
@[simp] theorem enterFaulted_mem (s : State) : (enterFaulted s).mem = s.mem := by
  unfold enterFaulted
  simp [foldl_mem, ite_mem]
@[simp] theorem machineCheck_mem (s : State) (a1 : Event) : (machineCheck s a1).mem = s.mem := by
  unfold machineCheck
  simp [foldl_mem, ite_mem]
@[simp] theorem setClass_mem (s : State) (a1 : UnitClass) : (setClass s a1).mem = s.mem := by
  unfold setClass
  with_reducible rfl
@[simp] theorem makeOffer_mem (s : State) (a1 : Waiting) : (makeOffer s a1).mem = s.mem := by
  unfold makeOffer
  (repeat' (first | split | dsimp only)) <;> first | with_reducible rfl | simp [foldl_mem, ite_mem]
@[simp] theorem remapOffer_mem (s : State) (a1 : FaultUnit) : (remapOffer s a1).mem = s.mem := by
  unfold remapOffer
  (repeat' (first | split | dsimp only)) <;> first | with_reducible rfl | simp [foldl_mem, ite_mem]
@[simp] theorem retryOffers_mem (s : State) : (retryOffers s).mem = s.mem := by
  unfold retryOffers
  simp [foldl_mem, ite_mem]
@[simp] theorem classify_mem (s : State) (a1 : FaultUnit) (a2 : Bool) (a3 : Nat) (a4 : Nat) : (classify s a1 a2 a3 a4).mem = s.mem := by
  unfold classify
  simp [foldl_mem, ite_mem]
@[simp] theorem detect_mem (s : State) (a1 : FaultUnit) (a2 : Bool) (a3 : Nat) (a4 : Nat) : (detect s a1 a2 a3 a4).mem = s.mem := by
  unfold detect
  simp [foldl_mem, ite_mem]
@[simp] theorem serialize_mem (s : State) (x n v : Nat) : (serialize s x n v).mem = s.mem := by
  unfold serialize
  split <;> simp
@[simp] theorem transmit_mem (s : State) (a1 : Nat) (a2 : List Coded) : (transmit s a1 a2).mem = s.mem := by
  unfold transmit
  simp [foldl_mem, ite_mem]
@[simp] theorem sendFerry_mem (s : State) (a1 : Nat) (a2 : Nat) (a3 : Token) : (sendFerry s a1 a2 a3).mem = s.mem := by
  unfold sendFerry
  simp [foldl_mem, ite_mem]
@[simp] theorem deliver_mem (s : State) (a1 : Nat) (a2 : Bool) (a3 : Dest) (a4 : Nat) (a5 : Token) : (deliver s a1 a2 a3 a4 a5).mem = s.mem := by
  unfold deliver
  (repeat' (first | split | dsimp only)) <;> first | with_reducible rfl | simp [foldl_mem, ite_mem]
@[simp] theorem dropLine_mem (s : State) (a1 : TileId) (a2 : Port) (a3 : Bool) : (dropLine s a1 a2 a3).mem = s.mem := by
  unfold dropLine
  with_reducible rfl
@[simp] theorem tapInto_mem (s : State) (a1 : Nat) (a2 : Bool) (a3 : Token) (a4 : Beat) : (tapInto s a1 a2 a3 a4).mem = s.mem := by
  unfold tapInto
  simp [foldl_mem, ite_mem]
@[simp] theorem tap_mem (s : State) (a1 : Nat) (a2 : Nat) (a3 : Nat) (a4 : Nat) (a5 : Bool) (a6 : Token) (a7 : Beat) : (tap s a1 a2 a3 a4 a5 a6 a7).mem = s.mem := by
  unfold tap
  simp [foldl_mem, ite_mem]
@[simp] theorem hazard_mem (s : State) (a1 : Nat) (a2 : Beat) (a3 : Nat) (a4 : Bool) (a5 : TileId) (a6 : Nat) (a7 : Nat) (a8 : Nat) : (hazard s a1 a2 a3 a4 a5 a6 a7 a8).mem = s.mem := by
  unfold hazard
  (repeat' (first | split | dsimp only)) <;> first | with_reducible rfl | simp [foldl_mem, ite_mem]
@[simp] theorem faultToken_mem (a0 : Fmt) (s : State) (a2 : TileId) (a3 : Bool) (a4 : Port) (a5 : Nat) (a6 : Token) : (faultToken a0 s a2 a3 a4 a5 a6).1.mem = s.mem := by
  unfold faultToken
  simp [foldl_mem, ite_mem]
@[simp] theorem channelFault_mem (s : State) (a1 : TileId) (a2 : Bool) (a3 : Port) (a4 : Nat) (a5 : Token) : (channelFault s a1 a2 a3 a4 a5).1.mem = s.mem := by
  unfold channelFault
  simp [foldl_mem, ite_mem]
theorem crossPass_mem (f : Nat) (q : Bool) (beat : Beat) (t : TileId) (i o : Port) (y : State × Token) :
    (crossPass f q beat t i o y).1.mem = y.1.mem := by
  unfold crossPass
  by_cases h : tagValid y.2.tag = true <;> simp [h]
@[simp] theorem crossPasses_mem (s : State) (f : Nat) (q : Bool) (beat : Beat) (seen : List (TileId × Port)) (path : List PathEl) (tok : Token) :
    (crossPasses s f q beat seen path tok).1.mem = s.mem := by
  unfold crossPasses
  refine foldl_fixed (fun y : State × Token => y.1.mem) _ (fun y el => ?_) path (s, tok)
  (repeat' split) <;> simp [crossPass_mem]
@[simp] theorem crossRoutes_mem (f : Nat) (q : Bool) (cycle : Nat) (beat : Beat) (tok : Token) (seen : List (TileId × Port)) (ls : List Link)
    (s : State) : (crossRoutes f q cycle beat tok seen ls s).mem = s.mem := by
  induction ls generalizing s seen with
  | nil => rfl
  | cons l ls ih => simp [crossRoutes, ih]
@[simp] theorem launchToken_mem (s : State) (a1 : Nat) (a2 : Bool) (a3 : Source) (a4 : Nat) (a5 : Beat) (a6 : Token) : (launchToken s a1 a2 a3 a4 a5 a6).mem = s.mem := by
  unfold launchToken
  simp
@[simp] theorem startInstance_mem (s : State) (a1 : TileId) (a2 : Bool) (a3 : Nat) (a4 : Token) : (startInstance s a1 a2 a3 a4).mem = s.mem := by
  unfold startInstance
  simp [foldl_mem, ite_mem]
@[simp] theorem dropTrigger_mem (s : State) (a1 : TileId) (a2 : Bool) (a3 : Token) : (dropTrigger s a1 a2 a3).mem = s.mem := by
  unfold dropTrigger
  simp [foldl_mem, ite_mem]
@[simp] theorem triggerArrives_mem (s : State) (a1 : TileId) (a2 : Bool) : (triggerArrives s a1 a2).mem = s.mem := by
  unfold triggerArrives
  (repeat' (first | split | dsimp only)) <;> first | with_reducible rfl | simp [foldl_mem, ite_mem]
@[simp] theorem discardToken_mem (s : State) (a1 : TileId) (a2 : Port) (a3 : Bool) (a4 : Timed) : (discardToken s a1 a2 a3 a4).mem = s.mem := by
  unfold discardToken
  simp [foldl_mem, ite_mem]
@[simp] theorem orphanLeaves_mem (s : State) (a1 : TileId) (a2 : Port) (a3 : Bool) : (orphanLeaves s a1 a2 a3).mem = s.mem := by
  unfold orphanLeaves
  (repeat' (first | split | dsimp only)) <;> first | with_reducible rfl | simp [foldl_mem, ite_mem]
@[simp] theorem tileError_mem (s : State) (a1 : Nat) (a2 : Nat) (a3 : Nat) (a4 : TileError) (a5 : Beat) (a6 : Nat) : (tileError s a1 a2 a3 a4 a5 a6).mem = s.mem := by
  unfold tileError
  simp [foldl_mem, ite_mem]
@[simp] theorem tapDrain_mem (s : State) (a1 : Nat) : (tapDrain s a1).mem = s.mem := by
  unfold tapDrain
  (repeat' (first | split | dsimp only)) <;> first | with_reducible rfl | simp [foldl_mem, ite_mem]
@[simp] theorem startTests_mem (s : State) (a1 : Test → Bool) : (startTests s a1).mem = s.mem := by
  unfold startTests
  with_reducible rfl
@[simp] theorem serveBanked_mem (s : State) (a1 : Nat) (a2 : Nat) (a3 : Nat) (a4 : Option TileError) : (serveBanked s a1 a2 a3 a4).mem = s.mem := by
  unfold serveBanked
  (repeat' (first | split | dsimp only)) <;> first | with_reducible rfl | simp [foldl_mem, ite_mem]
@[simp] theorem bankedServes_mem (s : State) (a1 : Nat) (a2 : Nat) (a3 : Nat) (a4 : Option TileError) : (bankedServes s a1 a2 a3 a4).mem = s.mem := by
  unfold bankedServes
  (repeat' (first | split | dsimp only)) <;> first | with_reducible rfl | simp [foldl_mem, ite_mem]
@[simp] theorem clearHazards_mem (s : State) : (clearHazards s).mem = s.mem := by
  unfold clearHazards
  exact foldl_mem _ (by intro s x; (repeat' (first | split | dsimp only)) <;> first | with_reducible rfl | simp [foldl_mem, ite_mem]) _ _
@[simp] theorem holdLeaves_mem (s : State) (a1 : Nat) (a2 : Nat × Bool) : (holdLeaves s a1 a2).mem = s.mem := by
  unfold holdLeaves
  simp [foldl_mem, ite_mem]
@[simp] theorem holdInstall_mem (s : State) (a1 : Nat) (a2 : Nat) (a3 : Bool) : (holdInstall s a1 a2 a3).mem = s.mem := by
  unfold holdInstall
  (repeat' (first | split | dsimp only)) <;> first | with_reducible rfl | simp [foldl_mem, ite_mem]
@[simp] theorem holdDirty_mem (s : State) (a1 : Nat) (a2 : Nat) : (holdDirty s a1 a2).mem = s.mem := by
  unfold holdDirty
  simp [foldl_mem, ite_mem]
@[simp] theorem holdTouch_mem (s : State) (a1 : Nat) (a2 : Nat) (a3 : Bool) : (holdTouch s a1 a2 a3).mem = s.mem := by
  unfold holdTouch
  simp [foldl_mem, ite_mem]
@[simp] theorem holdLook_mem (s : State) (a1 : Nat) (a2 : Nat) : (holdLook s a1 a2).mem = s.mem := by
  unfold holdLook
  simp [foldl_mem, ite_mem]
@[simp] theorem holdWrites_mem (s : State) (a1 : Nat) (a2 : Nat) : (holdWrites s a1 a2).mem = s.mem := by
  unfold holdWrites
  simp [foldl_mem, ite_mem]
@[simp] theorem holdAccess_mem (s : State) (a1 : Nat) (a2 : Nat) (a3 : Bool) : (holdAccess s a1 a2 a3).mem = s.mem := by
  unfold holdAccess
  (repeat' (first | split | dsimp only)) <;> first | with_reducible rfl | simp [foldl_mem, ite_mem]
@[simp] theorem fillArrives_mem (s : State) (a1 : Nat) (a2 : Nat) (a3 : Bool) (a4 : Bool) : (fillArrives s a1 a2 a3 a4).mem = s.mem := by
  unfold fillArrives
  simp [foldl_mem, ite_mem]
@[simp] theorem writeLine_wf (s : State) (a1 : Nat) (a2 : BitVec 512) (a3 : Bool) (h : storeWf s.mem = true) : storeWf (writeLine s a1 a2 a3).mem = true := by
  unfold writeLine
  simp_all [foldl_mem, foldl_wf, ite_mem]
@[simp] theorem writePart_wf (s : State) (a1 : Nat) (a2 : List Byte) (h : storeWf s.mem = true) : storeWf (writePart s a1 a2).mem = true := by
  unfold writePart
  simp_all [foldl_mem, foldl_wf, ite_mem]
@[simp] theorem putBytes_wf (s : State) (a1 : Nat) (a2 : Nat) (a3 : BitVec 512) (a4 : Bool) (h : storeWf s.mem = true) : storeWf (putBytes s a1 a2 a3 a4).mem = true := by
  unfold putBytes
  (repeat' (first | split | dsimp only)) <;> simp_all [foldl_mem, foldl_wf, ite_mem]
@[simp] theorem State.setTemper_mem (s : State) (a1 : Nat) (a2 : Nat) (a3 : Temper) : (State.setTemper s a1 a2 a3).mem = s.mem := by
  unfold State.setTemper
  simp [foldl_mem, ite_mem]
@[simp] theorem countClass_mem (s : State) (a1 : Nat) (a2 : Nat) (a3 : Nat) (a4 : Bool) : (countClass s a1 a2 a3 a4).mem = s.mem := by
  unfold countClass
  simp [foldl_mem, ite_mem]
@[simp] theorem flushTemper_wf (s : State) (a1 : Nat) (a2 : Nat) (h : storeWf s.mem = true) : storeWf (flushTemper s a1 a2).mem = true := by
  unfold flushTemper
  exact foldl_wf _ (by intro s x h; (repeat' (first | split | dsimp only)) <;> simp_all [foldl_mem, foldl_wf, ite_mem]) _ _ (by simp_all)
@[simp] theorem invalidateTemper_mem (s : State) (a1 : Nat) (a2 : Nat) (a3 : Nat) : (invalidateTemper s a1 a2 a3).mem = s.mem := by
  unfold invalidateTemper
  simp [foldl_mem, ite_mem]
@[simp] theorem flushHold_mem (s : State) (a1 : Nat) : (flushHold s a1).mem = s.mem := by
  unfold flushHold
  simp [foldl_mem, ite_mem]
@[simp] theorem clearMem_wf (s : State) (a1 : Nat) (a2 : Nat) (h : storeWf s.mem = true) : storeWf (clearMem s a1 a2).mem = true := by
  unfold clearMem
  simp_all [foldl_mem, foldl_wf, ite_mem]
@[simp] theorem changeSplit_wf (s : State) (a1 : Nat) (a2 : Nat) (a3 : Nat) (h : storeWf s.mem = true) : storeWf (changeSplit s a1 a2 a3).mem = true := by
  unfold changeSplit
  simp_all [foldl_mem, foldl_wf, ite_mem]
@[simp] theorem modRunning_mem (s : State) (a1 : Nat) (a2 : Nat) (a3 : Nat) (a4 : Running → Running) : (modRunning s a1 a2 a3 a4).mem = s.mem := by
  unfold modRunning
  simp [foldl_mem, ite_mem]
@[simp] theorem haltQueue_mem (s : State) (a1 : Nat) (a2 : Nat) (a3 : Nat) : (haltQueue s a1 a2 a3).mem = s.mem := by
  unfold haltQueue
  simp [foldl_mem, ite_mem]
@[simp] theorem advanceToken_mem (s : State) (a1 : Nat) (a2 : Nat) (a3 : Nat) : (advanceToken s a1 a2 a3).mem = s.mem := by
  unfold advanceToken
  simp [foldl_mem, ite_mem]
@[simp] theorem dropItems_mem (s : State) (a1 : Nat) (a2 : Nat) (a3 : Nat) : (dropItems s a1 a2 a3).mem = s.mem := by
  unfold dropItems
  simp [foldl_mem, ite_mem]
@[simp] theorem setCtx_mem (s : State) (a1 : Nat) (a2 : Nat) (a3 : Ctx) : (setCtx s a1 a2 a3).mem = s.mem := by
  unfold setCtx
  simp [foldl_mem, ite_mem]
@[simp] theorem dispatch_mem (s : State) (a1 : Nat) (a2 : Nat) (a3 : Nat) (a4 : Nat) (a5 : Nat) (a6 : Nat) : (dispatch s a1 a2 a3 a4 a5 a6).mem = s.mem := by
  unfold dispatch
  simp [foldl_mem, ite_mem]
@[simp] theorem idleCtx_mem (s : State) (a1 : Nat) (a2 : Nat) : (idleCtx s a1 a2).mem = s.mem := by
  unfold idleCtx
  simp [foldl_mem, ite_mem]
@[simp] theorem commitCmd_mem (s : State) (a1 : Nat) (a2 : Nat) (a3 : Nat) : (commitCmd s a1 a2 a3).mem = s.mem := by
  unfold commitCmd
  simp [foldl_mem, ite_mem]
@[simp] theorem finish_mem (s : State) (a1 : Nat) (a2 : Nat) (a3 : Nat) (a4 : Nat) (a5 : Nat) : (finish s a1 a2 a3 a4 a5).mem = s.mem := by
  unfold finish
  simp [foldl_mem, ite_mem]
@[simp] theorem endCommand_mem (s : State) (a1 : Nat) (a2 : Nat) (a3 : Nat) (a4 : Nat) (a5 : Nat) : (endCommand s a1 a2 a3 a4 a5).mem = s.mem := by
  unfold endCommand
  simp [foldl_mem, ite_mem]
@[simp] theorem stopAt_mem (s : State) (a1 : Nat) (a2 : Nat) (a3 : Nat) (a4 : Nat) (a5 : Nat) : (stopAt s a1 a2 a3 a4 a5).mem = s.mem := by
  unfold stopAt
  simp [foldl_mem, ite_mem]
@[simp] theorem lineDone_mem (s : State) (a1 : Nat) (a2 : Cmd) : (lineDone s a1 a2).mem = s.mem := by
  unfold lineDone
  simp [foldl_mem, ite_mem]
@[simp] theorem countPoison_mem (s : State) (a1 : Nat) (a2 : Bool) : (countPoison s a1 a2).mem = s.mem := by
  unfold countPoison
  simp [foldl_mem, ite_mem]
@[simp] theorem noteLine_mem (s : State) (a1 : Nat) (a2 : Nat) (a3 : Nat) (a4 : Nat) (a5 : Bool) : (noteLine s a1 a2 a3 a4 a5).mem = s.mem := by
  unfold noteLine
  (repeat' (first | split | dsimp only)) <;> first | with_reducible rfl | simp [foldl_mem, ite_mem]
@[simp] theorem noteRead_mem (s : State) (a1 : Nat) (a2 : Nat) (a3 : Nat) (a4 : Nat) (a5 : Bool) (a6 : Got) : (noteRead s a1 a2 a3 a4 a5 a6).mem = s.mem := by
  unfold noteRead
  (repeat' (first | split | dsimp only)) <;> first | with_reducible rfl | simp [foldl_mem, ite_mem]
@[simp] theorem modKernel_mem (s : State) (a1 : Nat) (a2 : Nat) (a3 : Kernel → Kernel) : (modKernel s a1 a2 a3).mem = s.mem := by
  unfold modKernel
  simp [foldl_mem, ite_mem]
@[simp] theorem endKernel_mem (s : State) (a1 : Nat) (a2 : Nat) (a3 : Nat) (a4 : Nat) : (endKernel s a1 a2 a3 a4).mem = s.mem := by
  unfold endKernel
  simp [foldl_mem, ite_mem]
@[simp] theorem kernelPoison_mem (s : State) (a1 : Nat) (a2 : Nat) (a3 : Nat) : (kernelPoison s a1 a2 a3).1.mem = s.mem := by
  unfold kernelPoison
  (repeat' (first | split | dsimp only)) <;> first | with_reducible rfl | simp [foldl_mem, ite_mem]
@[simp] theorem refuseAccess_mem (s : State) (a1 : Nat) (a2 : Nat) (a3 : Nat) (a4 : Nat) (a5 : Nat) : (refuseAccess s a1 a2 a3 a4 a5).mem = s.mem := by
  unfold refuseAccess
  (repeat' (first | split | dsimp only)) <;> first | with_reducible rfl | simp [foldl_mem, ite_mem]
@[simp] theorem countFill_mem (s : State) (a1 : Item) : (countFill s a1).mem = s.mem := by
  unfold countFill
  (repeat' (first | split | dsimp only)) <;> first | with_reducible rfl | simp [foldl_mem, ite_mem]
@[simp] theorem loseFill_mem (s : State) (a1 : Item) : (loseFill s a1).mem = s.mem := by
  unfold loseFill
  (repeat' (first | split | dsimp only)) <;> first | with_reducible rfl | simp [foldl_mem, ite_mem]
@[simp] theorem launchItem_mem (s : State) (a1 : Nat) (a2 : Item) : (launchItem s a1 a2).1.mem = s.mem := by
  unfold launchItem
  simp [foldl_mem, ite_mem]
@[simp] theorem modItem_mem (s : State) (a1 : Nat) (a2 : Nat) (a3 : Nat) (a4 : Item → Item) : (modItem s a1 a2 a3 a4).mem = s.mem := by
  unfold modItem
  simp [foldl_mem, ite_mem]
theorem takeOne_mem (s t : State) (g : Nat) (h : takeOne s g = some t) : t.mem = s.mem := by
  unfold takeOne at h
  split at h
  · cases h
  · obtain ⟨m, -, hm⟩ := List.exists_of_findSome?_eq_some h
    obtain ⟨p, -, rfl⟩ := Option.map_eq_some_iff.mp hm
    simp
@[simp] theorem takeAll_mem (g n : Nat) (s : State) : (takeAll g n s).mem = s.mem := by
  induction n generalizing s with
  | zero => rfl
  | succ n ih =>
    unfold takeAll
    split
    · rename_i t ht
      rw [ih]
      exact takeOne_mem s t g ht
    · rfl
@[simp] theorem takeFor_mem (s : State) (a1 : Item) : (takeFor s a1).mem = s.mem := by
  unfold takeFor
  (repeat' (first | split | dsimp only)) <;> first | with_reducible rfl | simp [foldl_mem, ite_mem]
@[simp] theorem appendItem_mem (s : State) (a1 : Nat) (a2 : Nat) (a3 : Item) : (appendItem s a1 a2 a3).mem = s.mem := by
  unfold appendItem
  simp [foldl_mem, ite_mem]
theorem drainInto_mem (h : Nat) (g : Nat → Item) (l : List Nat) (s : State) :
    (l.foldl (fun s x => appendItem s h 3 (g x)) s).mem = s.mem := by
  induction l generalizing s with
  | nil => rfl
  | cons x l ih => exact (ih _).trans (appendItem_mem _ _ _ _)
@[simp] theorem drainOne_mem (s : State) (h : Nat) : (drainOne s h).mem = s.mem := by
  simp only [drainOne, drainInto_mem, State.modHarbour_mem]
@[simp] theorem drainVictims_mem (s : State) : (drainVictims s).mem = s.mem := by
  unfold drainVictims
  (repeat' split) <;> simp [foldl_mem, ite_mem]
@[simp] theorem sendWrite_wf (s : State) (a1 : Nat) (a2 : Nat) (a3 : Nat) (a4 : Nat) (a5 : BitVec 512) (a6 : Bool) (h : storeWf s.mem = true) : storeWf (sendWrite s a1 a2 a3 a4 a5 a6).mem = true := by
  unfold sendWrite
  (repeat' (first | split | dsimp only)) <;> simp_all [foldl_mem, foldl_wf, ite_mem]
@[simp] theorem writeBack_wf (s : State) (a1 : Nat) (a2 : Nat) (a3 : CLine) (h : storeWf s.mem = true) : storeWf (writeBack s a1 a2 a3).mem = true := by
  unfold writeBack
  (repeat' (first | split | dsimp only)) <;> simp_all [foldl_mem, foldl_wf, ite_mem]
@[simp] theorem firstInstall_wf (s : State) (a1 : Nat) (a2 : Nat) (a3 : Nat) (a4 : CLine) (h : storeWf s.mem = true) : storeWf (firstInstall s a1 a2 a3 a4).mem = true := by
  unfold firstInstall
  (repeat' (first | split | dsimp only)) <;> simp_all [foldl_mem, foldl_wf, ite_mem]
@[simp] theorem firstRead_wf (s : State) (a1 : Nat) (a2 : Nat) (a3 : Nat) (a4 : Nat) (h : storeWf s.mem = true) : storeWf (firstRead s a1 a2 a3 a4).1.mem = true := by
  unfold firstRead
  (repeat' (first | split | dsimp only)) <;> simp_all [foldl_mem, foldl_wf, ite_mem]
@[simp] theorem firstArrives_wf (s : State) (a1 : Nat) (a2 : Nat) (a3 : Nat) (a4 : Item) (a5 : BitVec 512 × Bool) (h : storeWf s.mem = true) : storeWf (firstArrives s a1 a2 a3 a4 a5).mem = true := by
  unfold firstArrives
  (repeat' (first | split | dsimp only)) <;> simp_all [foldl_mem, foldl_wf, ite_mem]
@[simp] theorem prefetchArrives_wf (s : State) (a1 : Nat) (a2 : Nat) (a3 : List Nat) (a4 : Nat) (a5 : BitVec 512 × Bool) (h : storeWf s.mem = true) : storeWf (prefetchArrives s a1 a2 a3 a4 a5).mem = true := by
  unfold prefetchArrives
  exact foldl_wf _ (by intro s x h; (repeat' (first | split | dsimp only)) <;> simp_all [foldl_mem, foldl_wf, ite_mem]) _ _ (by simp_all)
@[simp] theorem cleanLine_mem (s : State) (a1 : Nat) (a2 : Nat) (a3 : Bool) : (cleanLine s a1 a2 a3).mem = s.mem := by
  unfold cleanLine
  (repeat' (first | split | dsimp only)) <;> first | with_reducible rfl | simp [foldl_mem, ite_mem]
@[simp] theorem useItem_wf (s : State) (a1 : Nat) (a2 : Item) (h : storeWf s.mem = true) : storeWf (useItem s a1 a2).mem = true := by
  unfold useItem
  (repeat' (first | split | dsimp only)) <;> simp_all [foldl_mem, foldl_wf, ite_mem]
@[simp] theorem deliverItem_wf (s : State) (a1 : Nat) (a2 : Item) (h : storeWf s.mem = true) : storeWf (deliverItem s a1 a2).mem = true := by
  unfold deliverItem
  (repeat' (first | split | dsimp only)) <;> simp_all [foldl_mem, foldl_wf, ite_mem]
theorem deliverHead_wf (p skip : Item → Bool) (h d n : Nat) (s : State) (hs : storeWf s.mem = true) :
    storeWf (deliverHead p skip h d n s).mem = true := by
  induction n generalizing s with
  | zero => exact hs
  | succ n ih =>
    unfold deliverHead
    split
    · exact ih _ (deliverItem_wf _ _ _ (by simpa using hs))
    · exact hs
@[simp] theorem deliverAll_wf (p skip : Item → Bool) (h : Nat) (s : State) (hs : storeWf s.mem = true) :
    storeWf (deliverAll p skip h s).mem = true := by
  unfold deliverAll
  exact foldl_wf _ (fun t d ht => deliverHead_wf _ _ _ _ _ _ ht) _ _ hs
@[simp] theorem settleLockstep_wf (s : State) (a1 : Nat) (h : storeWf s.mem = true) : storeWf (settleLockstep s a1).mem = true := by
  unfold settleLockstep
  (repeat' (first | split | dsimp only)) <;> simp_all [foldl_mem, foldl_wf, ite_mem]
@[simp] theorem settle_wf (s : State) (a1 : Nat) (h : storeWf s.mem = true) : storeWf (settle s a1).mem = true := by
  unfold settle
  (repeat' (first | split | dsimp only)) <;> simp_all [foldl_mem, foldl_wf, ite_mem]
@[simp] theorem placeItem_wf (s : State) (a1 : Nat) (a2 : Nat) (a3 : Bool) (a4 : Item) (h : storeWf s.mem = true) : storeWf (placeItem s a1 a2 a3 a4).mem = true := by
  unfold placeItem
  (repeat' (first | split | dsimp only)) <;> simp_all [foldl_mem, foldl_wf, ite_mem]
@[simp] theorem eccCounts_mem (s : State) (a1 : Nat) (a2 : Nat) (a3 : EccReport) : (eccCounts s a1 a2 a3).mem = s.mem := by
  unfold eccCounts
  simp [foldl_mem, ite_mem]
@[simp] theorem stackSends_mem (s : State) (a1 : Item) (a2 : EccReport) : (stackSends s a1 a2).mem = s.mem := by
  unfold stackSends
  (repeat' (first | split | dsimp only)) <;> first | with_reducible rfl | simp [foldl_mem, ite_mem]
@[simp] theorem itemArrived_wf (s : State) (a1 : Nat) (a2 : Nat) (a3 : Nat) (a4 : Item) (a5 : Bool) (h : storeWf s.mem = true) : storeWf (itemArrived s a1 a2 a3 a4 a5).mem = true := by
  unfold itemArrived
  simp_all [foldl_mem, foldl_wf, ite_mem]
@[simp] theorem itemArrives_wf (s : State) (a1 : Nat) (a2 : Nat) (a3 : Nat) (a4 : EccReport) (h : storeWf s.mem = true) : storeWf (itemArrives s a1 a2 a3 a4).mem = true := by
  unfold itemArrives
  (repeat' (first | split | dsimp only)) <;> simp_all [foldl_mem, foldl_wf, ite_mem]
@[simp] theorem dueComes_wf (s : State) (a1 : Nat) (h : storeWf s.mem = true) : storeWf (dueComes s a1).mem = true := by
  unfold dueComes
  (repeat' (first | split | dsimp only)) <;> simp_all [foldl_mem, foldl_wf, ite_mem]
@[simp] theorem itemTimesOut_wf (s : State) (a1 : Nat) (a2 : Nat) (a3 : Nat) (h : storeWf s.mem = true) : storeWf (itemTimesOut s a1 a2 a3).mem = true := by
  unfold itemTimesOut
  (repeat' (first | split | dsimp only)) <;> simp_all [foldl_mem, foldl_wf, ite_mem]
@[simp] theorem refreshes_mem (s : State) (a1 : Nat) (a2 : Nat) : (refreshes s a1 a2).mem = s.mem := by
  unfold refreshes
  simp [foldl_mem, ite_mem]
@[simp] theorem scrubBad_mem (s : State) (a1 : Nat) (a2 : Nat) : (scrubBad s a1 a2).mem = s.mem := by
  unfold scrubBad
  simp [foldl_mem, ite_mem]
@[simp] theorem hbmScrubs_mem (s : State) (a1 : Nat) (a2 : Nat) (a3 : EccReport) : (hbmScrubs s a1 a2 a3).mem = s.mem := by
  unfold hbmScrubs
  simp [foldl_mem, ite_mem]
@[simp] theorem countClamps_mem (a0 : Seat) (s : State) (a2 : Nat) : (countClamps a0 s a2).mem = s.mem := by
  unfold countClamps
  (repeat' (first | split | dsimp only)) <;> first | with_reducible rfl | simp [foldl_mem, ite_mem]
theorem regBody_wf (g : (Nat → Rnd) → AnvilFields → Regfile → Regfile × Nat) : keepsWf (regBody g) := by
  intro e f s rf h
  unfold regBody
  simpa using h
theorem runOnce_wf (op : Nat) (body : Body) (hb : ∀ e f s rf, storeWf s.mem = true → storeWf (body e f s rf).s.mem = true)
    (e : Exec) (f : AnvilFields) (x : Ran) (h : storeWf x.s.mem = true) : storeWf (runOnce op body e f x).s.mem = true := by
  unfold runOnce
  (repeat' split) <;> first | exact h | exact hb _ _ _ _ h
theorem tileOnce_wf (op : Nat) (body : Body) (hb : ∀ e f s rf, storeWf s.mem = true → storeWf (body e f s rf).s.mem = true)
    (sh : Shape) (f : AnvilFields) (t : TileId) (q : Bool) (tl : Tile) (i : Instance) (lost : Bool) (x : Ran) (j : Nat)
    (h : storeWf x.s.mem = true) : storeWf (tileOnce op body sh f t q tl i lost x j).s.mem = true := by
  unfold tileOnce
  exact runOnce_wf _ _ hb _ _ _ (by simpa using h)
@[simp] theorem tileNext_mem (op : Nat) (sh : Shape) (f : AnvilFields) (t : TileId) (q : Bool) (i : Instance) (lost : Bool) (x : Ran) :
    (tileNext op sh f t q i lost x).mem = x.s.mem := by
  unfold tileNext
  simp
theorem runTile_wf (op : Nat) (body : Body) (hb : ∀ e f s rf, storeWf s.mem = true → storeWf (body e f s rf).s.mem = true)
    (t : TileId) (q : Bool) (f : AnvilFields) (s : State) (h : storeWf s.mem = true) : storeWf (runTile op body t q f s).mem = true := by
  unfold runTile
  dsimp only
  split
  · split
    · rw [tileNext_mem]
      exact foldl_ran _ (fun x j hx => tileOnce_wf _ _ hb _ _ _ _ _ _ _ _ _ hx) _ _ h
    · exact h
  · exact h
@[simp] theorem setAr_mem (s : State) (a1 : Nat) (a2 : Nat) (a3 : Nat) (a4 : Int) : (setAr s a1 a2 a3 a4).mem = s.mem := by
  unfold setAr
  simp [foldl_mem, ite_mem]
@[simp] theorem sendWant_wf (s : State) (a1 : Nat) (a2 : Nat) (a3 : Kernel) (a4 : Nat × Nat) (h : storeWf s.mem = true) : storeWf (sendWant s a1 a2 a3 a4).mem = true := by
  unfold sendWant
  (repeat' (first | split | dsimp only)) <;> simp_all [foldl_mem, foldl_wf, ite_mem]
@[simp] theorem missed_wf (s : State) (a1 : Nat) (a2 : Nat) (a3 : Kernel) (a4 : Nat × Nat) (h : storeWf s.mem = true) : storeWf (missed s a1 a2 a3 a4).1.mem = true := by
  unfold missed
  simp_all [foldl_mem, foldl_wf, ite_mem]
theorem kernelOnce_wf (op : Nat) (body : Body) (hb : ∀ e f s rf, storeWf s.mem = true → storeWf (body e f s rf).s.mem = true)
    (sh : Shape) (f : AnvilFields) (h k : Nat) (x : Kernel) (s : State) (j : Nat)
    (hs : storeWf s.mem = true) : storeWf (kernelOnce op body sh f h k x s j).s.mem = true := by
  unfold kernelOnce
  exact runOnce_wf _ _ hb _ _ _ (by simpa using hs)
@[simp] theorem kernelNext_mem (op : Nat) (sh : Shape) (f : AnvilFields) (h k : Nat) (x : Kernel) (r : Ran) :
    (kernelNext op sh f h k x r).mem = r.s.mem := by
  unfold kernelNext
  (repeat' (first | split | dsimp only)) <;> simp
@[simp] theorem kernelFetch_wf (a0 : Nat) (a1 : Shape) (a2 : AnvilFields) (a3 : Nat) (a4 : Nat) (a5 : Kernel) (s : State) (h : storeWf s.mem = true) : storeWf (kernelFetch a0 a1 a2 a3 a4 a5 s).1.mem = true := by
  unfold kernelFetch
  (repeat' (first | split | dsimp only)) <;> simp_all [foldl_mem, foldl_wf, ite_mem]
theorem kernelRepeat_wf (op : Nat) (body : Body) (hb : ∀ e f s rf, storeWf s.mem = true → storeWf (body e f s rf).s.mem = true)
    (sh : Shape) (f : AnvilFields) (h k : Nat) (x : Kernel) (s : State) (j : Nat) (hs : storeWf s.mem = true) :
    storeWf (kernelRepeat op body sh f h k x s j).1.mem = true := by
  have hr := kernelOnce_wf op body hb sh f h k x s j hs
  unfold kernelRepeat
  split
  · dsimp only
    split
    · exact missed_wf _ _ _ _ _ hs
    · simp [hr]
    · split
      · exact hs
      · simp [hr]
  · simp [hs]
theorem kernelRun_wf (op : Nat) (body : Body) (hb : ∀ e f s rf, storeWf s.mem = true → storeWf (body e f s rf).s.mem = true)
    (sh : Shape) (f : AnvilFields) (h k n : Nat) (s : State) (hs : storeWf s.mem = true) :
    storeWf (kernelRun op body sh f h k n s).mem = true := by
  induction n generalizing s with
  | zero => exact hs
  | succ n ih =>
    unfold kernelRun
    split
    · exact hs
    · rename_i x hx
      split
      · exact hs
      · dsimp only
        cases hd : x.done with
        | none =>
          dsimp only
          have hr := kernelFetch_wf op sh f h k x s hs
          split
          · exact ih _ hr
          · exact hr
        | some j =>
          dsimp only
          have hr := kernelRepeat_wf op body hb sh f h k x s j hs
          split
          · exact ih _ hr
          · exact hr
theorem runKernel_wf (op : Nat) (body : Body) (hb : ∀ e f s rf, storeWf s.mem = true → storeWf (body e f s rf).s.mem = true)
    (h k : Nat) (f : AnvilFields) (s : State) (hs : storeWf s.mem = true) : storeWf (runKernel op body h k f s).mem = true := by
  unfold runKernel
  split
  · split
    · exact hs
    · exact kernelRun_wf _ _ hb _ _ _ _ _ _ hs
  · exact hs

end Sys2Proof.Machine
end

