-- ==== Sys2Proof/Laws/MemoryBodies.lean ====
section
/-! SUPPORT. The body of every Anvil and Temper instruction keeps the canonical form of the memory. -/

set_option linter.all false

namespace Sys2Proof.Machine

@[simp] theorem readError_mem (s : State) (a1 : TileId) (a2 : Bool) (a3 : TileStore) (a4 : Nat) (a5 : ReadCheck) (a6 : Beat) : (readError s a1 a2 a3 a4 a5 a6).mem = s.mem := by
  unfold readError
  (repeat' (first | split | dsimp only)) <;> first | with_reducible rfl | simp [foldl_mem, ite_mem]
@[simp] theorem tileConst_mem (s : State) (a1 : TileId) (a2 : Bool) (a3 : Nat) : (tileConst s a1 a2 a3).s.mem = s.mem := by
  unfold tileConst
  with_reducible rfl
@[simp] theorem temperBits_wf (s : State) (a1 : Nat) (a2 : Nat) (a3 : Nat) (a4 : Nat) (h : storeWf s.mem = true) : storeWf (temperBits s a1 a2 a3 a4).s.mem = true := by
  unfold temperBits
  (repeat' (first | split | dsimp only)) <;> simp_all [foldl_mem, foldl_wf, ite_mem]
@[simp] theorem notePoison_mem (h k l : Nat) (r : MemRead) : (notePoison h k l r).s.mem = r.s.mem := by
  unfold notePoison
  split <;> simp
@[simp] theorem stopRead_mem (s : State) (a1 : Nat × Nat) : (stopRead s a1).s.mem = s.mem := by
  unfold stopRead
  with_reducible rfl
@[simp] theorem temperConst_wf (s : State) (a1 : Nat) (a2 : Nat) (a3 : Nat) (h : storeWf s.mem = true) : storeWf (temperConst s a1 a2 a3).s.mem = true := by
  unfold temperConst
  (repeat' (first | split | dsimp only)) <;> simp_all [foldl_mem, foldl_wf, ite_mem]
@[simp] theorem constWord_wf (a0 : Exec) (s : State) (a2 : Nat) (h : storeWf s.mem = true) : storeWf (constWord a0 s a2).s.mem = true := by
  unfold constWord
  (repeat' (first | split | dsimp only)) <;> simp_all [foldl_mem, foldl_wf, ite_mem]
@[simp] theorem constPair_wf (a0 : Exec) (s : State) (a2 : Nat) (h : storeWf s.mem = true) : storeWf (constPair a0 s a2).s.mem = true := by
  unfold constPair
  (repeat' (first | split | dsimp only)) <;> simp_all [foldl_mem, foldl_wf, ite_mem]
@[simp] theorem rawBits_mem (w : Nat) (r : MemRead) : (rawBits w r).1.mem = r.s.mem := by
  unfold rawBits
  split <;> simp
@[simp] theorem tileWorking_mem (s : State) (a1 : TileId) (a2 : Bool) (a3 : Nat) (a4 : ReadCheck) (a5 : Beat) : (tileWorking s a1 a2 a3 a4 a5).s.mem = s.mem := by
  unfold tileWorking
  simp [foldl_mem, ite_mem]
@[simp] theorem setWorking_mem (s : State) (a1 : TileId) (a2 : Bool) (a3 : Nat) (a4 : Word256) : (setWorking s a1 a2 a3 a4).mem = s.mem := by
  unfold setWorking
  simp [foldl_mem, ite_mem]
@[simp] theorem arrayError_mem (s : State) (a1 : Nat) (a2 : Nat) (a3 : Nat) (a4 : ReadCheck) : (arrayError s a1 a2 a3 a4).mem = s.mem := by
  unfold arrayError
  (repeat' (first | split | dsimp only)) <;> first | with_reducible rfl | simp [foldl_mem, ite_mem]
@[simp] theorem temperWorking_mem (s : State) (h k w : Nat) (c : ReadCheck) : (temperWorking s h k w c).s.mem = s.mem := by
  simp [temperWorking]
@[simp] theorem temperLoad_wf (s : State) (h k a : Nat) (hs : storeWf s.mem = true) : storeWf (temperLoad s h k a).s.mem = true := by
  unfold temperLoad
  (repeat' split) <;> simp [hs]
@[simp] theorem firstPut_wf (s : State) (a1 : Nat) (a2 : Nat) (a3 : Nat) (a4 : Nat) (a5 : Nat) (h : storeWf s.mem = true) : storeWf (firstPut s a1 a2 a3 a4 a5).1.mem = true := by
  unfold firstPut
  (repeat' (first | split | dsimp only)) <;> simp_all [foldl_mem, foldl_wf, ite_mem]
@[simp] theorem temperStore_wf (s : State) (a1 : Nat) (a2 : Nat) (a3 : Nat) (a4 : Word256) (h : storeWf s.mem = true) : storeWf (temperStore s a1 a2 a3 a4).1.mem = true := by
  unfold temperStore
  (repeat' (first | split | dsimp only)) <;> simp_all [foldl_mem, foldl_wf, ite_mem]
@[simp] theorem purge_mem (s : State) (a1 : TileId) (a2 : Port) (a3 : Bool) (a4 : Nat) : (purge s a1 a2 a3 a4).mem = s.mem := by
  unfold purge
  simp [foldl_mem, ite_mem]
@[simp] theorem portFault_mem (s : State) (a1 : TileId) (a2 : Port) : (portFault s a1 a2).mem = s.mem := by
  unfold portFault
  simp [foldl_mem, ite_mem]
@[simp] theorem recvMissing_mem (a0 : Exec) (a1 : AnvilFields) (a2 : Port) (s : State) (a4 : Regfile) : (recvMissing a0 a1 a2 s a4).s.mem = s.mem := by
  unfold recvMissing
  simp [foldl_mem, ite_mem]
@[simp] theorem recvToken_mem (a0 : Exec) (a1 : AnvilFields) (a2 : Port) (a3 : Token) (s : State) (a5 : Regfile) : (recvToken a0 a1 a2 a3 s a5).s.mem = s.mem := by
  unfold recvToken
  (repeat' (first | split | dsimp only)) <;> first | with_reducible rfl | simp [foldl_mem, ite_mem]
theorem recvBody_wf : keepsWf recvBody := by
  intro e f s rf h
  unfold recvBody
  dsimp only
  split
  · split
    · simp [h]
    · simp [h]
  · simp [h]
@[simp] theorem noteSent_mem (s : State) (a1 : Exec) (a2 : Port) (a3 : Tag) : (noteSent s a1 a2 a3).mem = s.mem := by
  unfold noteSent
  simp [foldl_mem, ite_mem]
theorem sendBody_wf : keepsWf sendBody := by
  intro e f s rf h
  simp [sendBody, h]
@[simp] theorem hazClearWrite_mem (a0 : Nat) (s : State) : (hazClearWrite a0 s).mem = s.mem := by
  unfold hazClearWrite
  simp [foldl_mem, ite_mem]
@[simp] theorem constError_mem (a0 : Exec) (s : State) (a2 : Nat) (a3 : ReadCheck) : (constError a0 s a2 a3).mem = s.mem := by
  unfold constError
  (repeat' (first | split | dsimp only)) <;> first | with_reducible rfl | simp [foldl_mem, ite_mem]
@[simp] theorem loadInto_mem (f : AnvilFields) (rf : Regfile) (r : MemRead) : (loadInto f rf r).s.mem = r.s.mem := by
  unfold loadInto
  split <;> simp
theorem ldcBody_wf (c : ReadCheck) : keepsWf (ldcBody c) := by
  intro e f s rf h
  unfold ldcBody
  rw [loadInto_mem]
  exact constWord_wf _ _ _ (by simpa using h)
@[simp] theorem ldwRead_mem (e : Exec) (f : AnvilFields) (c : ReadCheck) (s : State) : (ldwRead e f c s).s.mem = s.mem := by
  unfold ldwRead
  dsimp only
  split <;> simp
@[simp] theorem ldwHazard_mem (a0 : Exec) (a1 : AnvilFields) (s : State) (a3 : Regfile) : (ldwHazard a0 a1 s a3).mem = s.mem := by
  unfold ldwHazard
  simp [foldl_mem, ite_mem]
theorem ldwBody_wf (c : ReadCheck) : keepsWf (ldwBody c) := by
  intro e f s rf h
  simp [ldwBody, h]
@[simp] theorem markWrote_mem (s : State) (a1 : TileId) (a2 : Bool) (a3 : Nat) : (markWrote s a1 a2 a3).mem = s.mem := by
  unfold markWrote
  simp [foldl_mem, ite_mem]
theorem stwBody_wf : keepsWf stwBody := by
  intro e f s rf h
  unfold stwBody
  dsimp only
  split
  · simp [h]
  · rw [State.store_mem]; exact storeWrite_wf _ _ _ h
theorem hpushBody_wf : keepsWf hpushBody := by
  intro e f s rf h
  unfold hpushBody
  dsimp only
  split
  · exact h
  · dsimp only
    split <;> simp [h]
theorem hldBody_wf (c : ReadCheck) : keepsWf (hldBody c) := by
  intro e f s rf h
  unfold hldBody
  dsimp only
  split
  · exact h
  · rw [loadInto_mem]
    split <;> simp [h]
theorem acciBody_wf : keepsWf acciBody := by
  intro e f s rf h
  unfold acciBody
  split
  · dsimp only
    have := constPair_wf e s (xf f 0 11 + e.off) h
    split <;> simp [this]
  · exact h
theorem vecBody_wf (g : Fmt → (Nat → Rnd) → AnvilFields → Regfile → WordOut) : keepsWf (vecBody g) := regBody_wf _
@[simp] theorem kindHazard_mem (a0 : Exec) (s : State) (a2 : Regfile) (a3 : Nat) (a4 : Bool) : (kindHazard a0 s a2 a3 a4).mem = s.mem := by
  unfold kindHazard
  simp [foldl_mem, ite_mem]
@[simp] theorem dotSecond_wf (a0 : Exec) (a1 : AnvilFields) (s : State) (a3 : Regfile) (h : storeWf s.mem = true) : storeWf (dotSecond a0 a1 s a3).s.mem = true := by
  unfold dotSecond
  (repeat' (first | split | dsimp only)) <;> simp_all [foldl_mem, foldl_wf, ite_mem]
theorem dotBody_wf : keepsWf dotBody := by
  intro e f s rf h
  unfold dotBody
  split
  · exact h
  · dsimp only
    have := fun m => dotSecond_wf e f (kindHazard e s rf f.d.toNat (dotIsFp m)) rf (by simpa using h)
    split <;> simp [this]
theorem accBody_wf (g : Fmt → (Nat → Rnd) → AnvilFields → Regfile → WordOut) : keepsWf (accBody g) := by
  intro e f s rf h
  exact vecBody_wf g _ _ _ _ (by simpa using h)
theorem readTable_wf (e : Exec) (s : State) (m : Fmt) (b : Nat) (es : List Nat) (h : storeWf s.mem = true) :
    storeWf (readTable e s m b es).1.s.mem = true := by
  unfold readTable
  refine foldl_memRead _ (fun x a hx => ?_) _ _ h
  dsimp only
  split
  · exact hx
  · exact constWord_wf _ _ _ hx
theorem lookupBody_wf (i : Bool) : keepsWf (lookupBody i) := by
  intro e f s rf h
  unfold lookupBody
  split
  · dsimp only
    split
    · exact readTable_wf _ _ _ _ _ h
    · rw [countClamps_mem]; exact readTable_wf _ _ _ _ _ h
  · exact h
@[simp] theorem postAdd_mem (s : State) (a1 : Nat) (a2 : Nat) (a3 : Nat) (a4 : AnvilFields) : (postAdd s a1 a2 a3 a4).mem = s.mem := by
  unfold postAdd
  simp [foldl_mem, ite_mem]
theorem ldaBody_wf (h k : Nat) : keepsWf (ldaBody h k) := by
  intro e f s rf hs
  unfold ldaBody
  dsimp only
  have := temperLoad_wf s h k (arAddr s h k f.a.toNat f) hs
  split
  · exact this
  · simp [this]
@[simp] theorem holdUp_mem (s : State) (a1 : Regfile) : (holdUp s a1).s.mem = s.mem := by
  unfold holdUp
  with_reducible rfl
theorem staBody_wf (h k : Nat) : keepsWf (staBody h k) := by
  intro e f s rf hs
  unfold staBody
  dsimp only
  split
  · exact hs
  · split
    · exact hs
    · split <;> simp [hs]
@[simp] theorem redClamps_mem (s : State) (a1 : Nat) (a2 : Nat) (a3 : Nat) (a4 : Nat) : (redClamps s a1 a2 a3 a4).mem = s.mem := by
  unfold redClamps
  simp [foldl_mem, ite_mem]
@[simp] theorem applyReduction_wf (s : State) (a1 : Reduction) (h : storeWf s.mem = true) : storeWf (applyReduction s a1).mem = true := by
  unfold applyReduction
  (repeat' (first | split | dsimp only)) <;> simp_all [foldl_mem, foldl_wf, ite_mem]
@[simp] theorem dropForReduction_wf (s : State) (a1 : Nat) (a2 : Nat) (a3 : Nat) (h : storeWf s.mem = true) : storeWf (dropForReduction s a1 a2 a3).mem = true := by
  unfold dropForReduction
  (repeat' (first | split | dsimp only)) <;> simp_all [foldl_mem, foldl_wf, ite_mem]
@[simp] theorem sendReduction_wf (s : State) (a1 : Nat) (a2 : Nat) (a3 : Reduction) (h : storeWf s.mem = true) : storeWf (sendReduction s a1 a2 a3).mem = true := by
  unfold sendReduction
  (repeat' (first | split | dsimp only)) <;> simp_all [foldl_mem, foldl_wf, ite_mem]
theorem redaBody_wf (h k : Nat) : keepsWf (redaBody h k) := by
  intro e f s rf hs
  unfold redaBody
  dsimp only
  split
  · exact hs
  · split
    · simp [hs]
    · split
      · simp [hs]
      · simp [hs]
theorem araddBody_wf (h k : Nat) : keepsWf (araddBody h k) := by
  intro e f s rf hs
  simp [araddBody, hs]
theorem brBody_wf (h k : Nat) : keepsWf (brBody h k) := fun _ _ _ _ hs => hs
theorem endBody_wf (h k : Nat) : keepsWf (endBody h k) := fun _ _ _ _ hs => hs
@[simp] theorem budgetEnds_mem (s : State) (a1 : Nat) (a2 : Nat) : (budgetEnds s a1 a2).mem = s.mem := by
  unfold budgetEnds
  (repeat' (first | split | dsimp only)) <;> first | with_reducible rfl | simp [foldl_mem, ite_mem]
@[simp] theorem holdReduces_wf (s : State) (a1 : Nat) (h : storeWf s.mem = true) : storeWf (holdReduces s a1).mem = true := by
  unfold holdReduces
  (repeat' (first | split | dsimp only)) <;> simp_all [foldl_mem, foldl_wf, ite_mem]
@[simp] theorem orderedReduces_wf (s : State) (a1 : Nat) (h : storeWf s.mem = true) : storeWf (orderedReduces s a1).mem = true := by
  unfold orderedReduces
  (repeat' (first | split | dsimp only)) <;> simp_all [foldl_mem, foldl_wf, ite_mem]

end Sys2Proof.Machine
end

