-- ==== Sys2Proof/Laws/MemoryHarbour.lean ====
section
/-! SUPPORT. What commands, vision work, bellows, planes, quench and readout do to the memory. -/

set_option linter.all false

namespace Sys2Proof.Machine

@[simp] theorem invalidateAtStart_mem (s : State) (a1 : Nat) (a2 : Nat) (a3 : Cmd) : (invalidateAtStart s a1 a2 a3).mem = s.mem := by
  unfold invalidateAtStart
  simp [foldl_mem, ite_mem]
@[simp] theorem startHead_mem (s : State) (a1 : Nat) (a2 : Nat) (a3 : Nat) (a4 : Cmd) (a5 : List Cmd) : (startHead s a1 a2 a3 a4 a5).mem = s.mem := by
  unfold startHead
  simp [foldl_mem, ite_mem]
@[simp] theorem startListed_mem (s : State) (a1 : Nat) (a2 : Nat) (a3 : Nat) (a4 : Running) (a5 : Cmd) (a6 : List Cmd) : (startListed s a1 a2 a3 a4 a5 a6).mem = s.mem := by
  unfold startListed
  simp [foldl_mem, ite_mem]
@[simp] theorem startsCommand_mem (s : State) (a1 : Nat) (a2 : Nat) (a3 : Nat) : (startsCommand s a1 a2 a3).mem = s.mem := by
  unfold startsCommand
  (repeat' (first | split | dsimp only)) <;> first | with_reducible rfl | simp [foldl_mem, ite_mem]
@[simp] theorem retireOne_mem (s : State) (a1 : Nat) (a2 : Running) (a3 : Cmd) (a4 : Nat) (a5 : Nat) : (retireOne s a1 a2 a3 a4 a5).mem = s.mem := by
  unfold retireOne
  simp [foldl_mem, ite_mem]
@[simp] theorem sendDirty_wf (h u : Nat) (cs : List CLine) (s : State) (hs : storeWf s.mem = true) :
    storeWf (sendDirty h u cs s).mem = true := by
  induction cs generalizing s with
  | nil => exact hs
  | cons c cs ih =>
    unfold sendDirty
    split
    · exact ih _ (by simp [hs])
    · exact hs
@[simp] theorem settleTemper_wf (s : State) (a1 : Nat) (a2 : Nat) (h : storeWf s.mem = true) : storeWf (settleTemper s a1 a2).mem = true := by
  unfold settleTemper
  (repeat' (first | split | dsimp only)) <;> simp_all [foldl_mem, foldl_wf, ite_mem]
@[simp] theorem dropKernel_mem (s : State) (a1 : Nat) (a2 : Nat) : (dropKernel s a1 a2).mem = s.mem := by
  unfold dropKernel
  simp [foldl_mem, ite_mem]
@[simp] theorem freeScratch_mem (s : State) (a1 : Nat) (a2 : Nat) (a3 : Nat) : (freeScratch s a1 a2 a3).mem = s.mem := by
  unfold freeScratch
  simp [foldl_mem, ite_mem]
@[simp] theorem dropRunning_mem (s : State) (a1 : Nat) (a2 : Nat) (a3 : Nat) : (dropRunning s a1 a2 a3).mem = s.mem := by
  unfold dropRunning
  simp [foldl_mem, ite_mem]
@[simp] theorem retire_mem (s : State) (a1 : Nat) (a2 : Nat) (a3 : Nat) (a4 : Running) : (retire s a1 a2 a3 a4).mem = s.mem := by
  unfold retire
  (repeat' (first | split | dsimp only)) <;> first | with_reducible rfl | simp [foldl_mem, ite_mem]
@[simp] theorem completes_wf (s : State) (a1 : Nat) (a2 : Nat) (a3 : Nat) (h : storeWf s.mem = true) : storeWf (completes s a1 a2 a3).mem = true := by
  unfold completes
  (repeat' (first | split | dsimp only)) <;> simp_all [foldl_mem, foldl_wf, ite_mem]
theorem routine_wf (op : Nat) (g : State → Running → State) (hg : ∀ s r, storeWf s.mem = true → storeWf (g s r).mem = true)
    (h e q : Nat) (s : State) (hs : storeWf s.mem = true) : storeWf (routine op g h e q s).mem = true := by
  unfold routine
  (repeat' split) <;> first | exact hs | exact hg _ _ hs
@[simp] theorem readForItself_wf (s : State) (a1 : Nat) (a2 : Nat) (a3 : Nat) (a4 : Bool) (a5 : Nat) (a6 : Nat) (h : storeWf s.mem = true) : storeWf (readForItself s a1 a2 a3 a4 a5 a6).mem = true := by
  unfold readForItself
  (repeat' (first | split | dsimp only)) <;> simp_all [foldl_mem, foldl_wf, ite_mem]
@[simp] theorem askLine_wf (a0 : Nat) (a1 : Nat) (a2 : Nat) (a3 : Bool) (a4 : Nat) (s : State) (a6 : Nat) (h : storeWf s.mem = true) : storeWf (askLine a0 a1 a2 a3 a4 s a6).mem = true := by
  unfold askLine
  (repeat' (first | split | dsimp only)) <;> simp_all [foldl_mem, foldl_wf, ite_mem]
theorem withLines_wf (h e q : Nat) (image : Bool) (base : Nat) (ls : List Nat) (go : State → Running → State)
    (hg : ∀ s r, storeWf s.mem = true → storeWf (go s r).mem = true) (s : State) (hs : storeWf s.mem = true) :
    storeWf (withLines h e q image base ls go s).mem = true := by
  have hf : storeWf (ls.foldl (askLine h e q image base) s).mem = true := foldl_wf _ (fun t l ht => by simp [ht]) _ _ hs
  unfold withLines
  dsimp only
  split
  · split
    · exact hg _ _ hf
    · exact hf
  · exact hf
@[simp] theorem poisonedDescriptor_mem (s : State) (a1 : Nat) (a2 : Nat) (a3 : Nat) (a4 : Nat) : (poisonedDescriptor s a1 a2 a3 a4).mem = s.mem := by
  unfold poisonedDescriptor
  simp [foldl_mem, ite_mem]
theorem withDescriptor_wf (h e q a n : Nat) (go : State → Running → State)
    (hg : ∀ s r, storeWf s.mem = true → storeWf (go s r).mem = true) (s : State) (hs : storeWf s.mem = true) :
    storeWf (withDescriptor h e q a n go s).mem = true := by
  unfold withDescriptor
  refine withLines_wf _ _ _ _ _ _ _ (fun t r ht => ?_) _ hs
  split
  · simp [ht]
  · exact hg _ _ ht
@[simp] theorem listFetch_wf (h e q : Nat) (s : State) (r : Running) (hs : storeWf s.mem = true) :
    storeWf (listFetch h e q s r).mem = true := by
  unfold listFetch
  exact withDescriptor_wf _ _ _ _ _ _ (fun t r ht => by simp [ht]) _ hs
theorem tongsLine_wf (h q : Nat) (put : State → Running → Nat → State)
    (hp : ∀ s r n, storeWf s.mem = true → storeWf (put s r n).mem = true) (s : State) (r : Running) (hs : storeWf s.mem = true) :
    storeWf (tongsLine h q put s r).mem = true := by
  unfold tongsLine
  split
  · simp [hs]
  · split
    · exact hp _ _ _ (by simp [hs])
    · exact hs
@[simp] theorem moveLine_wf (a0 : Nat) (a1 : Nat) (a2 : Bool) (s : State) (a4 : Running) (a5 : Nat) (h : storeWf s.mem = true) : storeWf (moveLine a0 a1 a2 s a4 a5).mem = true := by
  unfold moveLine
  (repeat' (first | split | dsimp only)) <;> simp_all [foldl_mem, foldl_wf, ite_mem]
@[simp] theorem fillLine_wf (a0 : Nat) (a1 : Nat) (s : State) (a3 : Running) (a4 : Nat) (h : storeWf s.mem = true) : storeWf (fillLine a0 a1 s a3 a4).mem = true := by
  unfold fillLine
  (repeat' (first | split | dsimp only)) <;> simp_all [foldl_mem, foldl_wf, ite_mem]
@[simp] theorem rangeHold_wf (a0 : Nat) (a1 : Nat) (a2 : Nat) (s : State) (a4 : Running) (a5 : Nat) (h : storeWf s.mem = true) : storeWf (rangeHold a0 a1 a2 s a4 a5).mem = true := by
  unfold rangeHold
  (repeat' (first | split | dsimp only)) <;> simp_all [foldl_mem, foldl_wf, ite_mem]
@[simp] theorem rangeFirst_wf (a0 : Nat) (a1 : Nat) (a2 : Nat) (a3 : Nat) (a4 : Running) (a5 : Nat) (s : State) (h : storeWf s.mem = true) : storeWf (rangeFirst a0 a1 a2 a3 a4 a5 s).mem = true := by
  unfold rangeFirst
  (repeat' (first | split | dsimp only)) <;> simp_all [foldl_mem, foldl_wf, ite_mem]
@[simp] theorem rangeLines_wf (op h e q n : Nat) (s : State) (hs : storeWf s.mem = true) :
    storeWf (rangeLines op h e q n s).mem = true := by
  induction n generalizing s with
  | zero => exact hs
  | succ n ih =>
    unfold rangeLines
    (repeat' (first | split | dsimp only)) <;> first | exact hs | (simp [hs]; done) | exact ih _ (by simp [hs])
@[simp] theorem rangeOp_wf (op h e q : Nat) (s : State) (r : Running) (hs : storeWf s.mem = true) :
    storeWf (rangeOp op h e q s r).mem = true := by
  unfold rangeOp
  split
  · exact tongsLine_wf _ _ _ (fun s r n hs => by simp [hs]) _ _ hs
  · simp [hs]
@[simp] theorem putUnits_wf (h e q base : Nat) (us : List (Nat × List Byte)) (s : State) (hs : storeWf s.mem = true) :
    storeWf (putUnits h e q base us s).mem = true := by
  induction us generalizing s with
  | nil => exact hs
  | cons u us ih =>
    unfold putUnits
    (repeat' (first | split | dsimp only)) <;> first | exact hs | (simp [hs]; done) | exact ih _ (by simp [hs])
@[simp] theorem jobStarts_mem (s : State) (a1 : Nat) (a2 : Nat) (a3 : Nat) (a4 : Nat) : (jobStarts s a1 a2 a3 a4).mem = s.mem := by
  unfold jobStarts
  simp [foldl_mem, ite_mem]
@[simp] theorem sieveWrites_wf (a0 : Nat) (a1 : Nat) (a2 : SieveJob) (s : State) (a4 : Running) (h : storeWf s.mem = true) : storeWf (sieveWrites a0 a1 a2 s a4).mem = true := by
  unfold sieveWrites
  (repeat' (first | split | dsimp only)) <;> simp_all [foldl_mem, foldl_wf, ite_mem]
theorem sieveGoes_wf (h q : Nat) (d : List Byte) (s : State) (r : Running) (hs : storeWf s.mem = true) :
    storeWf (sieveGoes h q d s r).mem = true := by
  unfold sieveGoes
  dsimp only
  generalize (if readsKernel s h q (sieveOf d) then coefficients r (sieveOf d) else []) = co
  split
  · simp [hs]
  · refine withLines_wf _ _ _ _ _ _ _ (fun t r ht => ?_) _ ?_
    · simp [ht]
    · split <;> simp [hs]
@[simp] theorem sieveRuns_wf (h q : Nat) (s : State) (r : Running) (hs : storeWf s.mem = true) :
    storeWf (sieveRuns h q s r).mem = true := by
  unfold sieveRuns
  refine withDescriptor_wf _ _ _ _ _ _ (fun t r ht => ?_) _ hs
  dsimp only
  split
  · exact withDescriptor_wf _ _ _ _ _ _ (fun u r hu => sieveGoes_wf _ _ _ _ _ hu) _ ht
  · exact sieveGoes_wf _ _ _ _ _ ht
@[simp] theorem spoilScratch_wf (s : State) (a1 : PairJob) (h : storeWf s.mem = true) : storeWf (spoilScratch s a1).mem = true := by
  unfold spoilScratch
  simp_all [foldl_mem, foldl_wf, ite_mem]
@[simp] theorem holdScratch_mem (s : State) (a1 : Nat) (a2 : Nat) (a3 : PairJob) : (holdScratch s a1 a2 a3).mem = s.mem := by
  unfold holdScratch
  simp [foldl_mem, ite_mem]
@[simp] theorem pairWrites_wf (a0 : Nat) (a1 : Nat) (a2 : PairJob) (s : State) (a4 : Running) (h : storeWf s.mem = true) : storeWf (pairWrites a0 a1 a2 s a4).mem = true := by
  unfold pairWrites
  (repeat' (first | split | dsimp only)) <;> simp_all [foldl_mem, foldl_wf, ite_mem]
@[simp] theorem pairRuns_wf (h q : Nat) (s : State) (r : Running) (hs : storeWf s.mem = true) :
    storeWf (pairRuns h q s r).mem = true := by
  unfold pairRuns
  refine withDescriptor_wf _ _ _ _ _ _ (fun t r ht => ?_) _ hs
  dsimp only
  split
  · simp [ht]
  · refine withLines_wf _ _ _ _ _ _ _ (fun u r hu => by simp [hu]) _ ?_
    split <;> simp [ht]
@[simp] theorem State.setLaneSt_mem (s : State) (a1 : Nat) (a2 : Nat) : (State.setLaneSt s a1 a2).mem = s.mem := by
  unfold State.setLaneSt
  simp [foldl_mem, ite_mem]
@[simp] theorem State.modLane_mem (s : State) (a1 : Nat) (a2 : Lane → Lane) : (State.modLane s a1 a2).mem = s.mem := by
  unfold State.modLane
  simp [foldl_mem, ite_mem]
@[simp] theorem State.setShoalBeat_mem (s : State) (a1 : Nat) (a2 : ShoalBeat) : (State.setShoalBeat s a1 a2).mem = s.mem := by
  unfold State.setShoalBeat
  simp [foldl_mem, ite_mem]
@[simp] theorem degrade_mem (s : State) (a1 : Nat) (a2 : Beat) (a3 : Nat) : (degrade s a1 a2 a3).mem = s.mem := by
  unfold degrade
  simp [foldl_mem, ite_mem]
@[simp] theorem overfill_mem (s : State) (a1 : Nat) (a2 : Beat) (a3 : Nat) : (overfill s a1 a2 a3).mem = s.mem := by
  unfold overfill
  simp [foldl_mem, ite_mem]
@[simp] theorem degradeHome_mem (s : State) (a1 : Nat) : (degradeHome s a1).mem = s.mem := by
  unfold degradeHome
  (repeat' (first | split | dsimp only)) <;> first | with_reducible rfl | simp [foldl_mem, ite_mem]
@[simp] theorem leaveAligned_mem (s : State) (a1 : Nat) (a2 : Nat) : (leaveAligned s a1 a2).mem = s.mem := by
  unfold leaveAligned
  simp [foldl_mem, ite_mem]
@[simp] theorem loseAlign_mem (s : State) (a1 : Nat) : (loseAlign s a1).mem = s.mem := by
  unfold loseAlign
  simp [foldl_mem, ite_mem]
@[simp] theorem intoAligned_mem (s : State) (a1 : Nat) (a2 : Beat) : (intoAligned s a1 a2).mem = s.mem := by
  unfold intoAligned
  simp [foldl_mem, ite_mem]
@[simp] theorem laneOnward_mem (s : State) (a1 : Nat) : (laneOnward s a1).mem = s.mem := by
  unfold laneOnward
  simp [foldl_mem, ite_mem]
@[simp] theorem laneDown_mem (s : State) (a1 : Nat) : (laneDown s a1).mem = s.mem := by
  unfold laneDown
  simp [foldl_mem, ite_mem]
@[simp] theorem loseLock_mem (s : State) (a1 : Nat) : (loseLock s a1).mem = s.mem := by
  unfold loseLock
  simp [foldl_mem, ite_mem]
@[simp] theorem takeInject_mem (s : State) (a1 : Nat) : (takeInject s a1).2.mem = s.mem := by
  unfold takeInject
  simp [foldl_mem, ite_mem]
@[simp] theorem blockLocks_mem (s : State) (a1 : Nat) (a2 : List (BitVec 2)) : (blockLocks s a1 a2).mem = s.mem := by
  unfold blockLocks
  simp [foldl_mem, ite_mem]
@[simp] theorem blockUnlocks_mem (s : State) (a1 : Nat) (a2 : List (BitVec 2)) : (blockUnlocks s a1 a2).mem = s.mem := by
  unfold blockUnlocks
  simp [foldl_mem, ite_mem]
@[simp] theorem fecLocks_mem (s : State) (a1 : Nat) (a2 : List (List Nat)) : (fecLocks s a1 a2).mem = s.mem := by
  unfold fecLocks
  simp [foldl_mem, ite_mem]
@[simp] theorem fecUnlocks_mem (s : State) (a1 : Nat) : (fecUnlocks s a1).mem = s.mem := by
  unfold fecUnlocks
  simp [foldl_mem, ite_mem]
@[simp] theorem laneWritten_mem (s : State) (a1 : Nat) (a2 : Nat) (a3 : Nat) (a4 : Nat) : (laneWritten s a1 a2 a3 a4).mem = s.mem := by
  unfold laneWritten
  simp [foldl_mem, ite_mem]
@[simp] theorem prbsBits_mem (s : State) (a1 : Nat) (a2 : List Bool) : (prbsBits s a1 a2).mem = s.mem := by
  unfold prbsBits
  simp [foldl_mem, ite_mem]
@[simp] theorem injectError_mem (s : State) (a1 : Bool) (a2 : Nat) : (injectError s a1 a2).mem = s.mem := by
  unfold injectError
  simp [foldl_mem, ite_mem]
@[simp] theorem injectFired_mem (s : State) (a1 : Bool) (a2 : Nat) : (injectFired s a1 a2).mem = s.mem := by
  unfold injectFired
  (repeat' split) <;> simp [foldl_mem, ite_mem]
@[simp] theorem injectFrom_mem (s : State) (a1 : Bool) (a2 : Nat) (a3 : Nat) : (injectFrom s a1 a2 a3).mem = s.mem := by
  unfold injectFrom
  simp [foldl_mem, ite_mem]
@[simp] theorem injectPeriod_mem (s : State) (a1 : Bool) (a2 : Nat) : (injectPeriod s a1 a2).mem = s.mem := by
  unfold injectPeriod
  (repeat' (first | split | dsimp only | (refine (foldl_mem _ (fun t x => ?_) _ _).trans ?_))) <;> first | with_reducible rfl | simp [foldl_mem, ite_mem] | simp_all [foldl_mem, ite_mem]
@[simp] theorem laneError_mem (s : State) (a1 : Nat) : (laneError s a1).mem = s.mem := by
  unfold laneError
  simp [foldl_mem, ite_mem]
@[simp] theorem landWord_mem (s : State) (a1 : Nat) (a2 : Word64) (a3 : Bool) : (landWord s a1 a2 a3).mem = s.mem := by
  unfold landWord
  (repeat' (first | split | dsimp only)) <;> first | with_reducible rfl | simp [foldl_mem, ite_mem]
@[simp] theorem badBlock_mem (s : State) (a1 : Nat) (a2 : Word64) : (badBlock s a1 a2).mem = s.mem := by
  unfold badBlock
  simp [foldl_mem, ite_mem]
@[simp] theorem closeBeat_mem (s : State) (a1 : Nat) (a2 : ShoalPlan) (a3 : Nat) : (closeBeat s a1 a2 a3).mem = s.mem := by
  unfold closeBeat
  (repeat' (first | split | dsimp only)) <;> first | with_reducible rfl | simp [foldl_mem, ite_mem]
@[simp] theorem openBeat_mem (s : State) (a1 : Nat) (a2 : ShoalPlan) (a3 : Beat) (a4 : Nat) (a5 : Time96) : (openBeat s a1 a2 a3 a4 a5).mem = s.mem := by
  unfold openBeat
  simp [foldl_mem, ite_mem]
@[simp] theorem inconsistentMarker_mem (s : State) (a1 : Nat) : (inconsistentMarker s a1).mem = s.mem := by
  unfold inconsistentMarker
  simp [foldl_mem, ite_mem]
@[simp] theorem beatBlock_mem (s : State) (a1 : Nat) (a2 : Word64) (a3 : Time96) : (beatBlock s a1 a2 a3).mem = s.mem := by
  unfold beatBlock
  (repeat' (first | split | dsimp only)) <;> first | with_reducible rfl | simp [foldl_mem, ite_mem]
@[simp] theorem alignFrom_mem (s : State) (a1 : Nat) (a2 : ShoalPlan) (a3 : Beat) (a4 : Nat) (a5 : Time96) : (alignFrom s a1 a2 a3 a4 a5).mem = s.mem := by
  unfold alignFrom
  simp [foldl_mem, ite_mem]
@[simp] theorem consistentMarker_mem (s : State) (a1 : Nat) (a2 : ShoalPlan) (a3 : Beat) (a4 : Nat) (a5 : Nat) (a6 : Time96) : (consistentMarker s a1 a2 a3 a4 a5 a6).mem = s.mem := by
  unfold consistentMarker
  simp [foldl_mem, ite_mem]
@[simp] theorem alignBlock_mem (s : State) (a1 : Nat) (a2 : Word64) (a3 : Option Word64) (a4 : Time96) : (alignBlock s a1 a2 a3 a4).mem = s.mem := by
  unfold alignBlock
  (repeat' (first | split | dsimp only)) <;> first | with_reducible rfl | simp [foldl_mem, ite_mem]
@[simp] theorem flushAlignA_mem (s : State) (a1 : Nat) : (flushAlignA s a1).mem = s.mem := by
  unfold flushAlignA
  (repeat' (first | split | dsimp only)) <;> first | with_reducible rfl | simp [foldl_mem, ite_mem]
@[simp] theorem takeStamps_mem (s : State) : (takeStamps s).mem = s.mem := by
  unfold takeStamps
  split
  · rfl
  · rw [foldl_mem]
    intro s x
    simp
@[simp] theorem laneRelease_mem (s : State) (a1 : ShoalPlan) (a2 : Nat) (a3 : Beat) (a4 : Nat) : (laneRelease s a1 a2 a3 a4).1.mem = s.mem := by
  unfold laneRelease
  simp [foldl_mem, ite_mem]
@[simp] theorem sendRelease_mem (a0 : ShoalPlan) (a1 : Nat) (a2 : Nat) (a3 : Beat) (a4 : Release) (s : State) (a6 : Nat) : (sendRelease a0 a1 a2 a3 a4 s a6).mem = s.mem := by
  unfold sendRelease
  (repeat' (first | split | dsimp only)) <;> first | with_reducible rfl | simp [foldl_mem, ite_mem]
@[simp] theorem releaseToken_mem (s : State) (a1 : Nat) (a2 : Nat) (a3 : Nat) : (releaseToken s a1 a2 a3).mem = s.mem := by
  unfold releaseToken
  (repeat' (first | split | dsimp only)) <;> first | with_reducible rfl | simp [foldl_mem, ite_mem]
@[simp] theorem startKernel_wf (a0 : Nat) (a1 : Nat) (a2 : Nat) (s : State) (a4 : Running) (a5 : List Byte) (h : storeWf s.mem = true) : storeWf (startKernel a0 a1 a2 s a4 a5).mem = true := by
  unfold startKernel
  (repeat' (first | split | dsimp only)) <;> simp_all [foldl_mem, foldl_wf, ite_mem]
@[simp] theorem launches_wf (h e q : Nat) (s : State) (r : Running) (hs : storeWf s.mem = true) :
    storeWf (launches h e q s r).mem = true := by
  unfold launches
  split
  · exact hs
  · exact withDescriptor_wf _ _ _ _ _ _ (fun t r ht => by simp [ht]) _ hs
@[simp] theorem pinRuns_mem (a0 : Nat) (a1 : Nat) (s : State) (a3 : Running) : (pinRuns a0 a1 s a3).mem = s.mem := by
  unfold pinRuns
  simp [foldl_mem, ite_mem]
@[simp] theorem pinGone_mem (s : State) (a1 : Nat) (a2 : Nat) (a3 : Running) (a4 : Nat) : (pinGone s a1 a2 a3 a4).mem = s.mem := by
  unfold pinGone
  simp [foldl_mem, ite_mem]
@[simp] theorem pinLine_wf (a0 : Nat) (a1 : Nat) (s : State) (a3 : Running) (a4 : Nat) (h : storeWf s.mem = true) : storeWf (pinLine a0 a1 s a3 a4).mem = true := by
  unfold pinLine
  (repeat' (first | split | dsimp only)) <;> simp_all [foldl_mem, foldl_wf, ite_mem]
@[simp] theorem pinCopies_wf (h q : Nat) (s : State) (r : Running) (hs : storeWf s.mem = true) :
    storeWf (pinCopies h q s r).mem = true := by
  unfold pinCopies
  split
  · exact tongsLine_wf _ _ _ (fun s r n hs => by simp [hs]) _ _ hs
  · split <;> simp [hs]
@[simp] theorem setTokens_mem (s : State) (a1 : Nat) (a2 : List Byte) : (setTokens s a1 a2).mem = s.mem := by
  unfold setTokens
  simp [foldl_mem, ite_mem]
@[simp] theorem resumeQueue_mem (s : State) (a1 : Nat) (a2 : Nat) (a3 : Nat) : (resumeQueue s a1 a2 a3).mem = s.mem := by
  unfold resumeQueue
  simp [foldl_mem, ite_mem]
theorem submit_mem (s t : State) (h e : Nat) (bs : List Byte) (ht : submit s h e bs = some t) : t.mem = s.mem := by
  unfold submit at ht
  dsimp only at ht
  split at ht
  · cases ht; simp [foldl_mem]
  · cases ht
@[simp] theorem bellowsCheck_mem (s : State) (a1 : Nat) (a2 : Nat) (a3 : Nat) (a4 : Nat) (a5 : Nat) : (bellowsCheck s a1 a2 a3 a4 a5).mem = s.mem := by
  unfold bellowsCheck
  simp [foldl_mem, ite_mem]
@[simp] theorem stallFor_mem (s : State) (a1 : Nat) (a2 : Nat) : (stallFor s a1 a2).mem = s.mem := by
  unfold stallFor
  simp [foldl_mem, ite_mem]
@[simp] theorem abortCommand_mem (s : State) (a1 : Nat) (a2 : Nat) : (abortCommand s a1 a2).mem = s.mem := by
  unfold abortCommand
  (repeat' (first | split | dsimp only)) <;> first | with_reducible rfl | simp [foldl_mem, ite_mem]
@[simp] theorem restartWork_mem (s : State) (a1 : Nat) (a2 : Nat) (a3 : Nat) : (restartWork s a1 a2 a3).mem = s.mem := by
  unfold restartWork
  (repeat' (first | split | dsimp only)) <;> first | with_reducible rfl | simp [foldl_mem, ite_mem]
@[simp] theorem restartRoutine_mem (s : State) (a1 : Nat) (a2 : Nat) (a3 : Ctx) : (restartRoutine s a1 a2 a3).mem = s.mem := by
  unfold restartRoutine
  simp [foldl_mem, ite_mem]
@[simp] theorem restart_mem (s : State) (a1 : Nat) (a2 : Nat) : (restart s a1 a2).mem = s.mem := by
  unfold restart
  simp [foldl_mem, ite_mem]
@[simp] theorem interrupt_mem (s : State) (a1 : Nat) (a2 : Nat) (a3 : FaultUnit) : (interrupt s a1 a2 a3).mem = s.mem := by
  unfold interrupt
  simp [foldl_mem, ite_mem]
@[simp] theorem aluB_mem (s : State) (a1 : Ctx) (a2 : BitVec 24) (a3 : BitVec 144) : (aluB s a1 a2 a3).1.mem = s.mem := by
  unfold aluB
  (repeat' (first | split | dsimp only)) <;> first | with_reducible rfl | simp [foldl_mem, ite_mem]
@[simp] theorem aluStep_mem (s : State) (a1 : Ctx) (a2 : BitVec 24) (a3 : BitVec 144) : (aluStep s a1 a2 a3).1.mem = s.mem := by
  unfold aluStep
  (repeat' (first | split | dsimp only)) <;> first | with_reducible rfl | simp [foldl_mem, ite_mem]
@[simp] theorem busAsk_mem (s : State) (a1 : Ctx) (a2 : BitVec 144) : (busAsk s a1 a2).1.mem = s.mem := by
  unfold busAsk
  with_reducible rfl
@[simp] theorem busRead_mem (s : State) (a1 : Nat) (a2 : Ctx) (a3 : BitVec 144) : (busRead s a1 a2 a3).1.mem = s.mem := by
  unfold busRead
  (repeat' (first | split | dsimp only)) <;> first | with_reducible rfl | simp [foldl_mem, ite_mem]
@[simp] theorem busWrite_wf (s : State) (a1 : Nat) (a2 : Ctx) (a3 : BitVec 144) (h : storeWf s.mem = true) : storeWf (busWrite s a1 a2 a3).mem = true := by
  unfold busWrite
  (repeat' (first | split | dsimp only)) <;> simp_all [foldl_mem, foldl_wf, ite_mem]
@[simp] theorem writeRecord_mem (s : State) (a1 : Nat) (a2 : Ctx) : (writeRecord s a1 a2).mem = s.mem := by
  unfold writeRecord
  simp [foldl_mem, ite_mem]
@[simp] theorem busStep_wf (s : State) (a1 : Nat) (a2 : Ctx) (a3 : BitVec 144) (h : storeWf s.mem = true) : storeWf (busStep s a1 a2 a3).1.mem = true := by
  unfold busStep
  (repeat' (first | split | dsimp only)) <;> simp_all [foldl_mem, foldl_wf, ite_mem]
@[simp] theorem tokenStep_mem (s : State) (a1 : Nat) (a2 : Ctx) (a3 : BitVec 144) : (tokenStep s a1 a2 a3).1.mem = s.mem := by
  unfold tokenStep
  (repeat' (first | split | dsimp only)) <;> first | with_reducible rfl | simp [foldl_mem, ite_mem]
@[simp] theorem recordStep_mem (s : State) (a1 : Nat) (a2 : Ctx) (a3 : BitVec 144) : (recordStep s a1 a2 a3).mem = s.mem := by
  unfold recordStep
  simp [foldl_mem, ite_mem]
@[simp] theorem nanoStep_wf (s : State) (a1 : Nat) (a2 : Ctx) (a3 : BitVec 24) (a4 : BitVec 144) (h : storeWf s.mem = true) : storeWf (nanoStep s a1 a2 a3 a4).1.mem = true := by
  unfold nanoStep
  simp_all [foldl_mem, foldl_wf, ite_mem]
@[simp] theorem endRoutine_mem (s : State) (a1 : Nat) (a2 : Nat) : (endRoutine s a1 a2).mem = s.mem := by
  unfold endRoutine
  (repeat' (first | split | dsimp only)) <;> first | with_reducible rfl | simp [foldl_mem, ite_mem]
@[simp] theorem kCorrected_mem (s : State) (a1 : Nat) (a2 : Nat) (a3 : Nat) : (kCorrected s a1 a2 a3).mem = s.mem := by
  unfold kCorrected
  simp [foldl_mem, ite_mem]
@[simp] theorem issueActs_wf (s : State) (a1 : Nat) (a2 : Nat) (a3 : Ctx) (a4 : BitVec 24) (a5 : BitVec 144) (a6 : Bool) (h : storeWf s.mem = true) : storeWf (issueActs s a1 a2 a3 a4 a5 a6).mem = true := by
  unfold issueActs
  (repeat' (first | split | dsimp only)) <;> simp_all [foldl_mem, foldl_wf, ite_mem]
@[simp] theorem heldWait_mem (s : State) (a1 : Nat) (a2 : Nat) (a3 : Ctx) (a4 : BitVec 24) (a5 : Bool) : (heldWait s a1 a2 a3 a4 a5).mem = s.mem := by
  unfold heldWait
  (repeat' (first | split | dsimp only)) <;> first | with_reducible rfl | simp [foldl_mem, ite_mem]
@[simp] theorem issueWord_wf (s : State) (a1 : MicroIssue) (a2 : BitVec 24) (a3 : BitVec 144) (h : storeWf s.mem = true) : storeWf (issueWord s a1 a2 a3).mem = true := by
  unfold issueWord
  (repeat' (first | split | dsimp only)) <;> simp_all [foldl_mem, foldl_wf, ite_mem]
theorem runToGroup_mem (s t : State) (h g : Nat) (ht : runToGroup s h g = some t) : t.mem = s.mem := by
  unfold runToGroup at ht
  simp only at ht
  split_ifs at ht <;> (injection ht with ht; subst ht; simp)
theorem runToPipe_mem (s t : State) (h k : Nat) (ht : runToPipe s h k = some t) : t.mem = s.mem := by
  unfold runToPipe at ht
  dsimp only at ht
  split at ht
  · cases ht
  · cases ht; simp
theorem issueSlot_mem (s t : State) (h k : Nat) (ht : issueSlot s h k = some t) : t.mem = s.mem := by
  unfold issueSlot at ht
  dsimp only at ht
  split at ht
  · cases ht
  · split at ht
    · exact runToPipe_mem _ _ _ _ ht
    · obtain ⟨u, hu, rfl⟩ := Option.map_eq_some_iff.mp ht
      simp [runToGroup_mem _ _ _ _ hu]
@[simp] theorem issue_wf (seq : Nat) (i : MicroIssue) (s : State) (hs : storeWf s.mem = true) : storeWf (issue seq i s).mem = true := by
  unfold issue
  dsimp only
  split
  · exact hs
  · split
    · simp [hs]
    · split
      · rename_i t ht
        have := issueSlot_mem _ _ _ _ ht
        simp [this, hs]
      · exact hs
@[simp] theorem ferryDrop_mem (s : State) (a1 : Nat) : (ferryDrop s a1).mem = s.mem := by
  unfold ferryDrop
  simp [foldl_mem, ite_mem]
@[simp] theorem ferryVerify_mem (s : State) (a1 : Nat) (a2 : Beat) : (ferryVerify s a1 a2).mem = s.mem := by
  unfold ferryVerify
  simp [foldl_mem, ite_mem]
@[simp] theorem ferryHold_mem (s : State) (a1 : Nat) (a2 : FerryPlan) (a3 : Beat) (a4 : Token) : (ferryHold s a1 a2 a3 a4).mem = s.mem := by
  unfold ferryHold
  (repeat' (first | split | dsimp only)) <;> first | with_reducible rfl | simp [foldl_mem, ite_mem]
@[simp] theorem ferrySounds_mem (s : State) (a1 : Nat) (a2 : Beat) (a3 : Tag) : (ferrySounds s a1 a2 a3).mem = s.mem := by
  unfold ferrySounds
  simp [foldl_mem, ite_mem]
@[simp] theorem ferryArrives_mem (s : State) (a1 : Nat) (a2 : Word64) (a3 : Word256) : (ferryArrives s a1 a2 a3).mem = s.mem := by
  unfold ferryArrives
  (repeat' (first | split | dsimp only)) <;> first | with_reducible rfl | simp [foldl_mem, ite_mem]
@[simp] theorem ferryLoss_mem (s : State) (a1 : Nat) (a2 : Bool) : (ferryLoss s a1 a2).mem = s.mem := by
  unfold ferryLoss
  simp [foldl_mem, ite_mem]
@[simp] theorem ferryRelease_mem (s : State) (a1 : Nat) (a2 : Nat) : (ferryRelease s a1 a2).mem = s.mem := by
  unfold ferryRelease
  (repeat' (first | split | dsimp only)) <;> first | with_reducible rfl | simp [foldl_mem, ite_mem]
@[simp] theorem dataWord_mem (s : State) (a1 : Nat) (a2 : Word64) (a3 : Bool) : (dataWord s a1 a2 a3).mem = s.mem := by
  unfold dataWord
  (repeat' (first | split | dsimp only)) <;> first | with_reducible rfl | simp [foldl_mem, ite_mem]
@[simp] theorem controlBlock_mem (s : State) (a1 : Nat) (a2 : Word64) (a3 : Time96) : (controlBlock s a1 a2 a3).mem = s.mem := by
  unfold controlBlock
  (repeat' (first | split | dsimp only)) <;> first | with_reducible rfl | simp [foldl_mem, ite_mem]
@[simp] theorem landCoded_mem (s : State) (a1 : Nat) (a2 : Coded) (a3 : Bool) (a4 : Time96) : (landCoded s a1 a2 a3 a4).mem = s.mem := by
  unfold landCoded
  simp [foldl_mem, ite_mem]
@[simp] theorem rawBlock_mem (s : State) (a1 : Nat) (a2 : BitVec 66) (a3 : Time96) : (rawBlock s a1 a2 a3).mem = s.mem := by
  unfold rawBlock
  simp [foldl_mem, ite_mem]
@[simp] theorem codeword_mem (s : State) (a1 : Nat) (a2 : List Nat) : (codeword s a1 a2).1.mem = s.mem := by
  unfold codeword
  (repeat' (first | split | dsimp only)) <;> first | with_reducible rfl | simp [foldl_mem, ite_mem]
@[simp] theorem interleaved_mem (s : State) (a1 : Nat) (a2 : List Nat) (a3 : List Time96) : (interleaved s a1 a2 a3).mem = s.mem := by
  unfold interleaved
  simp [foldl_mem, ite_mem]
@[simp] theorem decodedBlock_mem (s : State) (a1 : Nat) : (decodedBlock s a1).mem = s.mem := by
  unfold decodedBlock
  (repeat' (first | split | dsimp only)) <;> first | with_reducible rfl | simp [foldl_mem, ite_mem]
@[simp] theorem elasticOverflow_mem (s : State) (a1 : Nat) : (elasticOverflow s a1).mem = s.mem := by
  unfold elasticOverflow
  simp [foldl_mem, ite_mem]
@[simp] theorem landBlock_mem (s : State) (a1 : Nat) (a2 : Nat) (a3 : LaneBlock) : (landBlock s a1 a2 a3).mem = s.mem := by
  unfold landBlock
  (repeat' (first | split | dsimp only)) <;> first | with_reducible rfl | simp [foldl_mem, ite_mem]
@[simp] theorem State.latchedFor_mem (s : State) (a1 : Bool) (a2 : ForgingPlan) : (State.latchedFor s a1 a2).mem = s.mem := by
  unfold State.latchedFor
  simp [foldl_mem, ite_mem]
@[simp] theorem selectPorts_mem (a0 : Bool) (s : State) (a2 : TileId) : (selectPorts a0 s a2).mem = s.mem := by
  unfold selectPorts
  simp [foldl_mem, ite_mem]
@[simp] theorem placePlan_mem (s : State) (a1 : Nat) (a2 : Bool) (a3 : ForgingPlan) : (placePlan s a1 a2 a3).mem = s.mem := by
  unfold placePlan
  simp [foldl_mem, ite_mem]
@[simp] theorem latchTables_mem (s : State) (a1 : Nat) (a2 : Bool) (a3 : ForgingPlan) : (latchTables s a1 a2 a3).mem = s.mem := by
  unfold latchTables
  simp [foldl_mem, ite_mem]
@[simp] theorem dispatchLoads_mem (s : State) : (dispatchLoads s).mem = s.mem := by
  unfold dispatchLoads
  simp [foldl_mem, ite_mem]
@[simp] theorem retireLoads_mem (s : State) : (retireLoads s).mem = s.mem := by
  unfold retireLoads
  simp [foldl_mem, ite_mem]
@[simp] theorem dropLoads_mem (s : State) : (dropLoads s).mem = s.mem := by
  unfold dropLoads
  with_reducible rfl
@[simp] theorem installStored_mem (a0 : Nat) (s : State) (a2 : Nat) : (installStored a0 s a2).mem = s.mem := by
  unfold installStored
  simp [foldl_mem, ite_mem]
@[simp] theorem installProgram_mem (a0 : Bool) (a1 : ForgingPlan) (s : State) : (installProgram a0 a1 s).mem = s.mem := by
  unfold installProgram
  simp [foldl_mem, ite_mem]
@[simp] theorem startLoad_mem (s : State) (a1 : ImagePlan) (a2 : List Byte) (a3 : Bool) (a4 : Bool) (a5 : Nat) : (startLoad s a1 a2 a3 a4 a5).mem = s.mem := by
  unfold startLoad
  (repeat' (first | split | dsimp only)) <;> first | with_reducible rfl | simp [foldl_mem, ite_mem]
@[simp] theorem completeLoad_mem (s : State) (a1 : PlaneId) : (completeLoad s a1).mem = s.mem := by
  unfold completeLoad
  (repeat' (first | split | dsimp only)) <;> first | with_reducible rfl | simp [foldl_mem, ite_mem]
@[simp] theorem setFromImage_mem (s : State) (f : Nat) (q : Bool) : (setFromImage s f q).mem = s.mem := by
  unfold setFromImage
  split
  · rfl
  · rw [foldl_mem]
    · simp
    · intro s x
      simp
@[simp] theorem startSounding_mem (s : State) (a1 : PlaneId) : (startSounding s a1).mem = s.mem := by
  unfold startSounding
  (repeat' (first | split | dsimp only)) <;> first | with_reducible rfl | simp [foldl_mem, ite_mem]
@[simp] theorem soundBoundary_mem (s : State) : (soundBoundary s).mem = s.mem := by
  unfold soundBoundary
  simp [foldl_mem, ite_mem]
@[simp] theorem tagFerries_mem (s : State) (a1 : List FerryPlan) (a2 : Bool) (a3 : Bool) : (tagFerries s a1 a2 a3).mem = s.mem := by
  unfold tagFerries
  simp [foldl_mem, ite_mem]
@[simp] theorem soundTokens_mem (s : State) : (soundTokens s).mem = s.mem := by
  unfold soundTokens
  (repeat' (first | split | dsimp only)) <;> first | with_reducible rfl | simp [foldl_mem, ite_mem]
@[simp] theorem relayFailures_mem (s : State) : (relayFailures s).mem = s.mem := by
  unfold relayFailures
  simp [foldl_mem, ite_mem]
@[simp] theorem soundFerries_mem (s : State) : (soundFerries s).mem = s.mem := by
  unfold soundFerries
  (repeat' (first | split | dsimp only)) <;> first | with_reducible rfl | simp [foldl_mem, ite_mem]
@[simp] theorem soundedPlane_mem (s : State) (a1 : PlaneId × Sounded) : (soundedPlane s a1).mem = s.mem := by
  unfold soundedPlane
  simp [foldl_mem, ite_mem]
@[simp] theorem soundOutcome_mem (a0 : Bool) (s : State) (a2 : PlaneId × Nat) : (soundOutcome a0 s a2).mem = s.mem := by
  unfold soundOutcome
  simp [foldl_mem, ite_mem]
@[simp] theorem setFerryReleases_mem (s : State) : (setFerryReleases s).mem = s.mem := by
  unfold setFerryReleases
  simp [foldl_mem, ite_mem]
@[simp] theorem endActivation_mem (s : State) (a1 : Nat) (a2 : Nat) : (endActivation s a1 a2).mem = s.mem := by
  unfold endActivation
  simp [foldl_mem, ite_mem]
@[simp] theorem storeFails_mem (s : State) : (storeFails s).mem = s.mem := by
  unfold storeFails
  simp [foldl_mem, ite_mem]
@[simp] theorem concludeSounding_mem (s : State) (a1 : List (PlaneId × Nat)) : (concludeSounding s a1).mem = s.mem := by
  unfold concludeSounding
  simp [foldl_mem, ite_mem]
@[simp] theorem judgePeers_mem (s : State) : (judgePeers s).mem = s.mem := by
  unfold judgePeers
  (repeat' (first | split | dsimp only)) <;> first | with_reducible rfl | simp [foldl_mem, ite_mem]
@[simp] theorem soundEnds_mem (s : State) (a1 : Bool) : (soundEnds s a1).mem = s.mem := by
  unfold soundEnds
  simp [foldl_mem, ite_mem]
@[simp] theorem loadsComplete_mem (s : State) : (loadsComplete s).mem = s.mem := by
  unfold loadsComplete
  simp [foldl_mem, ite_mem]
@[simp] theorem reprime_mem (s : State) (a1 : Nat) (a2 : Bool) : (reprime s a1 a2).mem = s.mem := by
  unfold reprime
  (repeat' (first | split | dsimp only)) <;> first | with_reducible rfl | simp [foldl_mem, ite_mem]
@[simp] theorem awaitSounding_mem (s : State) (a1 : Nat) (a2 : Bool) : (awaitSounding s a1 a2).mem = s.mem := by
  unfold awaitSounding
  simp [foldl_mem, ite_mem]
@[simp] theorem forgeSoundWrite_mem (a0 : Nat) (a1 : Nat) (s : State) : (forgeSoundWrite a0 a1 s).2.mem = s.mem := by
  unfold forgeSoundWrite
  (repeat' (first | split | dsimp only)) <;> first | with_reducible rfl | simp [foldl_mem, ite_mem]
@[simp] theorem shadowLoadWrite_mem (a0 : Nat) (s : State) : (shadowLoadWrite a0 s).2.mem = s.mem := by
  unfold shadowLoadWrite
  (repeat' (first | split | dsimp only)) <;> first | with_reducible rfl | simp [foldl_mem, ite_mem]
@[simp] theorem goLive_mem (s : State) (a1 : Beat) (a2 : Bool) (a3 : Nat) : (goLive s a1 a2 a3).mem = s.mem := by
  unfold goLive
  (repeat' (first | split | dsimp only)) <;> first | with_reducible rfl | simp [foldl_mem, ite_mem]
@[simp] theorem goRetiring_mem (s : State) (a1 : Beat) (a2 : Bool) (a3 : Nat) : (goRetiring s a1 a2 a3).mem = s.mem := by
  unfold goRetiring
  simp [foldl_mem, ite_mem]
@[simp] theorem swapPlanes_mem (s : State) (a1 : Nat) (a2 : Beat) : (swapPlanes s a1 a2).mem = s.mem := by
  unfold swapPlanes
  simp [foldl_mem, ite_mem]
@[simp] theorem retirePlanes_mem (s : State) : (retirePlanes s).mem = s.mem := by
  unfold retirePlanes
  simp [foldl_mem, ite_mem]
@[simp] theorem pruneOffers_mem (s : State) : (pruneOffers s).mem = s.mem := by
  unfold pruneOffers
  with_reducible rfl
@[simp] theorem finalToken_mem (s : State) (a1 : Nat) (a2 : Nat) (a3 : Bool) : (finalToken s a1 a2 a3).mem = s.mem := by
  unfold finalToken
  (repeat' (first | split | dsimp only)) <;> first | with_reducible rfl | simp [foldl_mem, ite_mem]
@[simp] theorem drainLedgers_mem (s : State) : (drainLedgers s).mem = s.mem := by
  unfold drainLedgers
  with_reducible rfl
@[simp] theorem grantPin_mem (a0 : Nat) (a1 : Beat) (a2 : Nat) (s : State) (a4 : Nat) : (grantPin a0 a1 a2 s a4).mem = s.mem := by
  unfold grantPin
  (repeat' (first | split | dsimp only)) <;> first | with_reducible rfl | simp [foldl_mem, ite_mem]
@[simp] theorem expireRules_mem (a0 : Nat) (a1 : Beat) (s : State) : (expireRules a0 a1 s).mem = s.mem := by
  unfold expireRules
  with_reducible rfl
@[simp] theorem releasePins_mem (s : State) : (releasePins s).mem = s.mem := by
  unfold releasePins
  with_reducible rfl
@[simp] theorem putRecord_mem (s : State) (a1 : Nat) (a2 : Nat) (a3 : Beat) (a4 : Bool) (a5 : BitVec 128) : (putRecord s a1 a2 a3 a4 a5).mem = s.mem := by
  unfold putRecord
  simp [foldl_mem, ite_mem]
@[simp] theorem countVerdict_mem (s : State) (a1 : Nat) (a2 : Nat) (a3 : Nat) (a4 : Bool) : (countVerdict s a1 a2 a3 a4).mem = s.mem := by
  unfold countVerdict
  (repeat' (first | split | dsimp only)) <;> first | with_reducible rfl | simp [foldl_mem, ite_mem]
@[simp] theorem noteRefuse_mem (s : State) (a1 : Nat) (a2 : Nat) (a3 : Nat) (a4 : Beat) (a5 : BitVec 128) : (noteRefuse s a1 a2 a3 a4 a5).mem = s.mem := by
  unfold noteRefuse
  simp [foldl_mem, ite_mem]
@[simp] theorem issueRecord_mem (s : State) (a1 : Nat) (a2 : Bool) (a3 : ForgingPlan) (a4 : Beat) : (issueRecord s a1 a2 a3 a4).mem = s.mem := by
  unfold issueRecord
  (repeat' (first | split | dsimp only)) <;> first | with_reducible rfl | simp [foldl_mem, ite_mem]
@[simp] theorem verdictIssues_mem (s : State) (a1 : Nat) (a2 : Bool) : (verdictIssues s a1 a2).mem = s.mem := by
  unfold verdictIssues
  (repeat' (first | split | dsimp only)) <;> first | with_reducible rfl | simp [foldl_mem, ite_mem]
@[simp] theorem dropStaged_mem (s : State) (a1 : Nat) (a2 : Nat) (a3 : Beat) : (dropStaged s a1 a2 a3).mem = s.mem := by
  unfold dropStaged
  simp [foldl_mem, ite_mem]
@[simp] theorem moveShare_mem (s : State) (a1 : Nat) (a2 : Nat) (a3 : Beat) (a4 : Nat) (a5 : Bool) : (moveShare s a1 a2 a3 a4 a5).mem = s.mem := by
  unfold moveShare
  simp [foldl_mem, ite_mem]
@[simp] theorem ringArrives_mem (s : State) (a1 : Nat) (a2 : Nat) (a3 : Beat) : (ringArrives s a1 a2 a3).mem = s.mem := by
  unfold ringArrives
  (repeat' (first | split | dsimp only)) <;> first | with_reducible rfl | simp [foldl_mem, ite_mem]
@[simp] theorem tryLate_mem (s : State) (a1 : Nat × Refused) : (tryLate s a1).mem = s.mem := by
  unfold tryLate
  (repeat' (first | split | dsimp only)) <;> first | with_reducible rfl | simp [foldl_mem, ite_mem]
@[simp] theorem dropLate_mem (s : State) (a1 : Nat × Refused) : (dropLate s a1).mem = s.mem := by
  unfold dropLate
  simp [foldl_mem, ite_mem]
@[simp] theorem grantLate_mem (a0 : List (Nat × Refused)) (s : State) : (grantLate a0 s).mem = s.mem := by
  unfold grantLate
  simp [foldl_mem, ite_mem]
@[simp] theorem lateAccept_mem (s : State) : (lateAccept s).mem = s.mem := by
  unfold lateAccept
  simp [foldl_mem, ite_mem]
@[simp] theorem sendBundle_mem (s : State) (a1 : Nat) (a2 : List TxBlock) : (sendBundle s a1 a2).mem = s.mem := by
  unfold sendBundle
  simp [foldl_mem, ite_mem]
@[simp] theorem txSlot_mem (s : State) (a1 : Nat) : (txSlot s a1).mem = s.mem := by
  unfold txSlot
  (repeat' (first | split | dsimp only)) <;> first | with_reducible rfl | simp [foldl_mem, ite_mem]
@[simp] theorem deliverBeat_mem (a0 a1 : Nat) (s : State) (a3 : Beat) : (deliverBeat a0 a1 s a3).mem = s.mem := by
  unfold deliverBeat
  (repeat' (first | split | dsimp only)) <;> first | with_reducible rfl | simp [foldl_mem, ite_mem]
@[simp] theorem deliverAccepted_mem (s : State) : (deliverAccepted s).mem = s.mem := by
  unfold deliverAccepted
  refine foldl_mem _ (fun s e => ?_) _ _
  refine foldl_mem _ (fun s h => ?_) _ _
  exact foldl_mem _ (fun s x => deliverBeat_mem _ _ s x) _ _
@[simp] theorem txSlots_mem (s : State) : (txSlots s).mem = s.mem := by
  unfold txSlots
  simp [foldl_mem, ite_mem]
@[simp] theorem logCompare_mem (s : State) (a1 : Beat) : (logCompare s a1).mem = s.mem := by
  unfold logCompare
  simp [foldl_mem, ite_mem]
@[simp] theorem diverge_mem (s : State) (a1 : Beat) : (diverge s a1).mem = s.mem := by
  unfold diverge
  simp [foldl_mem, ite_mem]
@[simp] theorem compareBeat_mem (s : State) (a1 : Beat) : (compareBeat s a1).mem = s.mem := by
  unfold compareBeat
  (repeat' (first | split | dsimp only)) <;> first | with_reducible rfl | simp [foldl_mem, ite_mem]
@[simp] theorem digestSend_mem (s : State) : (digestSend s).mem = s.mem := by
  unfold digestSend
  simp [foldl_mem, ite_mem]
@[simp] theorem digestTimeout_mem (s : State) : (digestTimeout s).mem = s.mem := by
  unfold digestTimeout
  simp [foldl_mem, ite_mem]
@[simp] theorem digestLands_mem (s : State) (a1 : Nat) (a2 : Word64) : (digestLands s a1 a2).mem = s.mem := by
  unfold digestLands
  simp [foldl_mem, ite_mem]

end Sys2Proof.Machine
end

