-- ==== Sys2Proof/Laws/MemoryControl.lean ====
section
/-! SUPPORT. What boundaries, time, power, tests, boot, the dictionary and the buses do to the memory. -/

set_option linter.all false

namespace Sys2Proof.Machine

@[simp] theorem State.dropReg_mem (s : State) (a1 : Reg) (a2 : Nat) : (State.dropReg s a1 a2).mem = s.mem := by
  unfold State.dropReg
  with_reducible rfl
@[simp] theorem clearFromImage_mem (s : State) : (clearFromImage s).mem = s.mem := by
  unfold clearFromImage
  simp [foldl_mem, ite_mem]
@[simp] theorem huntLanes_mem (s : State) : (huntLanes s).mem = s.mem := by
  unfold huntLanes
  simp [foldl_mem, ite_mem]
@[simp] theorem quietTempers_wf (s : State) (a1 : Nat) (h : storeWf s.mem = true) : storeWf (quietTempers s a1).mem = true := by
  unfold quietTempers
  simp_all [foldl_mem, foldl_wf, ite_mem]
@[simp] theorem staleAll_mem (s : State) : (staleAll s).mem = s.mem := by
  unfold staleAll
  simp [foldl_mem, ite_mem]
@[simp] theorem quietAll_wf (s : State) (h : storeWf s.mem = true) : storeWf (quietAll s).mem = true := by
  unfold quietAll
  simp_all [foldl_mem, foldl_wf, ite_mem]
@[simp] theorem silHunt_mem (s : State) : (silHunt s).mem = s.mem := by
  unfold silHunt
  simp [foldl_mem, ite_mem]
@[simp] theorem enterHeld_wf (s : State) (a1 : Nat) (h : storeWf s.mem = true) : storeWf (enterHeld s a1).mem = true := by
  unfold enterHeld
  simp_all [foldl_mem, foldl_wf, ite_mem]
@[simp] theorem retakeCount_mem (s : State) : (retakeCount s).mem = s.mem := by
  unfold retakeCount
  with_reducible rfl
@[simp] theorem rebase_mem (s : State) (a1 : Beat) : (rebase s a1).mem = s.mem := by
  unfold rebase
  with_reducible rfl
@[simp] theorem armTemper_wf (s : State) (a1 : Nat) (a2 : Nat) (h : storeWf s.mem = true) : storeWf (armTemper s a1 a2).mem = true := by
  unfold armTemper
  simp_all [foldl_mem, foldl_wf, ite_mem]
@[simp] theorem armHarbour_wf (s : State) (a1 : Nat) (h : storeWf s.mem = true) : storeWf (armHarbour s a1).mem = true := by
  unfold armHarbour
  simp_all [foldl_mem, foldl_wf, ite_mem]
@[simp] theorem armAll_wf (s : State) (a1 : Nat) (h : storeWf s.mem = true) : storeWf (armAll s a1).mem = true := by
  unfold armAll
  simp_all [foldl_mem, foldl_wf, ite_mem]
@[simp] theorem injectionOff_mem (s : State) : (injectionOff s).mem = s.mem := by
  unfold injectionOff
  simp [foldl_mem, ite_mem]
@[simp] theorem slippedWait_mem (s : State) : (slippedWait s).mem = s.mem := by
  unfold slippedWait
  simp [foldl_mem, ite_mem]
@[simp] theorem startRun_mem (s : State) (a1 : Beat) (a2 : Nat) : (startRun s a1 a2).mem = s.mem := by
  unfold startRun
  simp [foldl_mem, ite_mem]
@[simp] theorem stopRun_mem (s : State) (a1 : Beat) (a2 : Nat) : (stopRun s a1 a2).mem = s.mem := by
  unfold stopRun
  simp [foldl_mem, ite_mem]
@[simp] theorem actEnds_mem (s : State) (a1 : Nat) (a2 : Nat) (a3 : Nat) : (actEnds s a1 a2 a3).mem = s.mem := by
  unfold actEnds
  simp [foldl_mem, ite_mem]
@[simp] theorem collisionCheck_mem (s : State) (a1 : Nat) (a2 : Nat) : (collisionCheck s a1 a2).1.mem = s.mem := by
  unfold collisionCheck
  (repeat' (first | split | dsimp only)) <;> first | with_reducible rfl | simp [foldl_mem, ite_mem]
@[simp] theorem swapCheck_mem (s : State) (k : Nat) : (swapCheck s k).1.mem = s.mem := by
  unfold swapCheck
  dsimp only
  split
  · simp
  · refine foldl_fixed (fun y : State × Bool => y.1.mem) _ (fun y el => ?_) _ (s, true)
    split <;> simp
  · rfl
@[simp] theorem commitAction_mem (s : State) (a1 : Nat) : (commitAction s a1).mem = s.mem := by
  unfold commitAction
  simp only [foldl_mem, ite_mem]
  (repeat' (first | split | dsimp only)) <;> simp_all [foldl_mem, ite_mem]
@[simp] theorem actCommitWrite_mem (a0 : Nat) (a1 : Nat) (s : State) : (actCommitWrite a0 a1 s).2.mem = s.mem := by
  unfold actCommitWrite
  (repeat' (first | split | dsimp only)) <;> first | with_reducible rfl | simp [foldl_mem, ite_mem]
@[simp] theorem actFieldWritten_mem (a0 : Nat) (s : State) : (actFieldWritten a0 s).mem = s.mem := by
  unfold actFieldWritten
  simp [foldl_mem, ite_mem]
@[simp] theorem armLane_mem (s : State) (a1 : Nat) (a2 : Beat) : (armLane s a1 a2).mem = s.mem := by
  unfold armLane
  simp [foldl_mem, ite_mem]
@[simp] theorem actEffect_mem (s : State) (a1 : Nat) (a2 : Nat) (a3 : Beat) : (actEffect s a1 a2 a3).mem = s.mem := by
  unfold actEffect
  (repeat' (first | split | dsimp only)) <;> first | with_reducible rfl | simp [foldl_mem, ite_mem]
@[simp] theorem executeAction_mem (s : State) (a1 : Nat) (a2 : Bool) : (executeAction s a1 a2).mem = s.mem := by
  unfold executeAction
  simp [foldl_mem, ite_mem]
@[simp] theorem actionAt_mem (s : State) (a1 : Nat) : (actionAt s a1).mem = s.mem := by
  unfold actionAt
  (repeat' (first | split | dsimp only)) <;> first | with_reducible rfl | simp [foldl_mem, ite_mem]
@[simp] theorem actionsDue_mem (s : State) : (actionsDue s).mem = s.mem := by
  unfold actionsDue
  simp [foldl_mem, ite_mem]
@[simp] theorem dueInHeld_mem (s : State) (a1 : Nat) : (dueInHeld s a1).mem = s.mem := by
  unfold dueInHeld
  simp [foldl_mem, ite_mem]
@[simp] theorem runCommands_mem (s : State) : (runCommands s).mem = s.mem := by
  unfold runCommands
  (repeat' (first | split | dsimp only)) <;> first | with_reducible rfl | simp [foldl_mem, ite_mem]
@[simp] theorem oweVerdicts_mem (s : State) : (oweVerdicts s).mem = s.mem := by
  unfold oweVerdicts
  split
  · rw [foldl_mem]
    intro s x
    simp
  · rfl
@[simp] theorem countBeat_mem (s : State) : (countBeat s).mem = s.mem := by
  unfold countBeat
  simp [foldl_mem, ite_mem]
@[simp] theorem liveBoundary_wf (s : State) (h : storeWf s.mem = true) : storeWf (liveBoundary s).mem = true := by
  unfold liveBoundary
  (repeat' (first | split | dsimp only)) <;> simp_all [foldl_mem, foldl_wf, ite_mem]
@[simp] theorem armedBoundary_mem (s : State) : (armedBoundary s).mem = s.mem := by
  unfold armedBoundary
  simp [foldl_mem, ite_mem]
@[simp] theorem shoalObjects_mem (s : State) (a1 : ShoalPlan) : (shoalObjects s a1).mem = s.mem := by
  unfold shoalObjects
  exact foldl_mem _ (by intro s x; (repeat' (first | split | dsimp only)) <;> first | with_reducible rfl | simp [foldl_mem, ite_mem]) _ _
@[simp] theorem activated_wf (s : State) (h : storeWf s.mem = true) : storeWf (activated s).mem = true := by
  unfold activated
  (repeat' (first | split | dsimp only)) <;> simp_all [foldl_mem, foldl_wf, ite_mem]
@[simp] theorem soundingBoundary_wf (s : State) (h : storeWf s.mem = true) : storeWf (soundingBoundary s).mem = true := by
  unfold soundingBoundary
  (repeat' (first | split | dsimp only)) <;> simp_all [foldl_mem, foldl_wf, ite_mem]
@[simp] theorem nextBoundary_wf (s : State) (h : storeWf s.mem = true) : storeWf (nextBoundary s).mem = true := by
  unfold nextBoundary
  (repeat' (first | split | dsimp only)) <;> simp_all [foldl_mem, foldl_wf, ite_mem]
@[simp] theorem drainEnds_wf (s : State) (h : storeWf s.mem = true) : storeWf (drainEnds s).mem = true := by
  unfold drainEnds
  (repeat' (first | split | dsimp only)) <;> simp_all [foldl_mem, foldl_wf, ite_mem]
theorem onPtp_mem (s : State) (via : PtpVia) (taken : State → State) (ht : ∀ t, (taken t).mem = t.mem) :
    (onPtp s via taken).mem = s.mem := by
  unfold onPtp
  exact State.onFrame_mem _ _ _ _ ht
theorem onPtp_wf (s : State) (via : PtpVia) (taken : State → State)
    (ht : ∀ t, storeWf t.mem = true → storeWf (taken t).mem = true) (h : storeWf s.mem = true) :
    storeWf (onPtp s via taken).mem = true := by
  unfold onPtp
  exact State.onFrame_wf _ _ _ _ ht h
@[simp] theorem sendPtp_mem (s : State) (a1 : Nat) (a2 : Nat) (a3 : Time96) (a4 : Int) (a5 : PtpFix) : (sendPtp s a1 a2 a3 a4 a5).mem = s.mem := by
  unfold sendPtp
  simp [foldl_mem, ite_mem]
@[simp] theorem holdoverCause_mem (s : State) (a1 : Nat) : (holdoverCause s a1).mem = s.mem := by
  unfold holdoverCause
  simp [foldl_mem, ite_mem]
@[simp] theorem servoEvent_mem (s : State) (a1 : Nat) : (servoEvent s a1).mem = s.mem := by
  unfold servoEvent
  (repeat' (first | split | dsimp only)) <;> first | with_reducible rfl | simp [foldl_mem, ite_mem]
@[simp] theorem servoOff_mem (s : State) : (servoOff s).mem = s.mem := by
  unfold servoOff
  simp [foldl_mem, ite_mem]
@[simp] theorem slew_mem (s : State) : (slew s).mem = s.mem := by
  unfold slew
  simp [foldl_mem, ite_mem]
@[simp] theorem markStepped_mem (a0 : Time96) (s : State) (a2 : Nat) : (markStepped a0 s a2).mem = s.mem := by
  unfold markStepped
  simp [foldl_mem, ite_mem]
@[simp] theorem clockStep_mem (s : State) (a1 : Int) : (clockStep s a1).mem = s.mem := by
  unfold clockStep
  simp [foldl_mem, ite_mem]
@[simp] theorem refuseSample_mem (s : State) : (refuseSample s).mem = s.mem := by
  unfold refuseSample
  simp [foldl_mem, ite_mem]
@[simp] theorem goodSample_mem (s : State) : (goodSample s).mem = s.mem := by
  unfold goodSample
  simp [foldl_mem, ite_mem]
@[simp] theorem offsetSample_mem (s : State) (a1 : Int) : (offsetSample s a1).mem = s.mem := by
  unfold offsetSample
  simp [foldl_mem, ite_mem]
@[simp] theorem syncSample_mem (s : State) (a1 : Time96) (a2 : Int) (a3 : Int) : (syncSample s a1 a2 a3).mem = s.mem := by
  unfold syncSample
  simp [foldl_mem, ite_mem]
@[simp] theorem syncArrives_mem (s : State) (a1 : PtpSync) : (syncArrives s a1).mem = s.mem := by
  unfold syncArrives
  simp [foldl_mem, ite_mem]
@[simp] theorem followUpArrives_mem (s : State) (a1 : PtpFollowUp) : (followUpArrives s a1).mem = s.mem := by
  unfold followUpArrives
  (repeat' (first | split | dsimp only)) <;> first | with_reducible rfl | simp [foldl_mem, ite_mem]
@[simp] theorem selectMaster_mem (s : State) : (selectMaster s).mem = s.mem := by
  unfold selectMaster
  (repeat' (first | split | dsimp only)) <;> first | with_reducible rfl | simp [foldl_mem, ite_mem]
@[simp] theorem announceArrives_mem (s : State) (a1 : PtpAnnounce) : (announceArrives s a1).mem = s.mem := by
  unfold announceArrives
  simp [foldl_mem, ite_mem]
@[simp] theorem delayRespArrives_mem (s : State) (a1 : PtpDelayResp) : (delayRespArrives s a1).mem = s.mem := by
  unfold delayRespArrives
  (repeat' (first | split | dsimp only)) <;> first | with_reducible rfl | simp [foldl_mem, ite_mem]
@[simp] theorem pdelayRespArrives_mem (s : State) (a1 : PtpPdelayResp) : (pdelayRespArrives s a1).mem = s.mem := by
  unfold pdelayRespArrives
  (repeat' (first | split | dsimp only)) <;> first | with_reducible rfl | simp [foldl_mem, ite_mem]
@[simp] theorem pdelayReqArrives_mem (s : State) (a1 : PtpPdelayReq) : (pdelayReqArrives s a1).mem = s.mem := by
  unfold pdelayReqArrives
  simp [foldl_mem, ite_mem]
@[simp] theorem syncLeaves_mem (s : State) (a1 : Nat) : (syncLeaves s a1).mem = s.mem := by
  unfold syncLeaves
  simp [foldl_mem, ite_mem]
@[simp] theorem delayReqLeaves_mem (s : State) (a1 : Nat) : (delayReqLeaves s a1).mem = s.mem := by
  unfold delayReqLeaves
  simp [foldl_mem, ite_mem]
@[simp] theorem delayReqArrives_mem (s : State) (a1 : PtpDelayReq) : (delayReqArrives s a1).mem = s.mem := by
  unfold delayReqArrives
  simp [foldl_mem, ite_mem]
@[simp] theorem announceTimeout_mem (s : State) : (announceTimeout s).mem = s.mem := by
  unfold announceTimeout
  simp [foldl_mem, ite_mem]
@[simp] theorem ptpLinkDown_mem (s : State) : (ptpLinkDown s).mem = s.mem := by
  unfold ptpLinkDown
  simp [foldl_mem, ite_mem]
@[simp] theorem silFails_mem (s : State) (a1 : Nat) (a2 : Nat) : (silFails s a1 a2).mem = s.mem := by
  unfold silFails
  simp [foldl_mem, ite_mem]
@[simp] theorem answer_mem (s : State) (a1 : Bool) : (answer s a1).mem = s.mem := by
  unfold answer
  simp [foldl_mem, ite_mem]
@[simp] theorem closeCycle_mem (s : State) : (closeCycle s).mem = s.mem := by
  unfold closeCycle
  simp [foldl_mem, ite_mem]
@[simp] theorem cycleStart_mem (s : State) : (cycleStart s).mem = s.mem := by
  unfold cycleStart
  simp [foldl_mem, ite_mem]
@[simp] theorem collide_mem (s : State) (a1 : Nat) : (collide s a1).mem = s.mem := by
  unfold collide
  simp [foldl_mem, ite_mem]
@[simp] theorem classBurst_mem (s : State) (a1 : Nat) (a2 : Int) : (classBurst s a1 a2).1.mem = s.mem := by
  unfold classBurst
  (repeat' (first | split | dsimp only)) <;> first | with_reducible rfl | simp [foldl_mem, ite_mem]
@[simp] theorem clearAbsent_mem (s : State) (a1 : Nat) : (clearAbsent s a1).mem = s.mem := by
  unfold clearAbsent
  simp [foldl_mem, ite_mem]
@[simp] theorem countCrc_mem (s : State) (o : Option (BitVec 56)) : (countCrc s o).mem = s.mem := by
  cases o with
  | none => exact State.count_mem _ _ _ _ _
  | some x => rfl
@[simp] theorem takeData_mem (s : State) (k : Nat) (o : Option (BitVec 56)) : (takeData s k o).mem = s.mem := by
  cases o with
  | none => exact State.count_mem _ _ _ _ _
  | some x => exact clearAbsent_mem _ _
@[simp] theorem useData_mem (s : State) (k : Nat) (b : Burst) : (useData s k b).mem = s.mem := takeData_mem _ _ _
@[simp] theorem slotBurst_mem (s : State) (a1 : Nat) (a2 : Burst) : (slotBurst s a1 a2).mem = s.mem := by
  unfold slotBurst
  (repeat' (first | split | dsimp only)) <;> first | with_reducible rfl | simp [foldl_mem, ite_mem]
@[simp] theorem ownBurst_mem (s : State) (a1 : Burst) : (ownBurst s a1).mem = s.mem := by
  unfold ownBurst
  simp [foldl_mem, ite_mem]
@[simp] theorem slotAbsent_mem (s : State) (a1 : Nat) : (slotAbsent s a1).mem = s.mem := by
  unfold slotAbsent
  simp [foldl_mem, ite_mem]
@[simp] theorem slot0Preamble_mem (s : State) (a1 : Burst) : (slot0Preamble s a1).mem = s.mem := by
  unfold slot0Preamble
  simp [foldl_mem, ite_mem]
theorem slot0Burst_wf (s : State) (kind : Nat) (b : Burst) (g : BitVec 56 → State → State)
    (hg : ∀ d s, storeWf s.mem = true → storeWf (g d s).mem = true) (hs : storeWf s.mem = true) :
    storeWf (slot0Burst s kind b g).mem = true := by
  unfold slot0Burst
  split
  · exact hs
  · split
    · simpa using hs
    · split
      · split <;> simpa using hs
      · generalize slot0Data s b = d
        cases d with
        | none => simpa using hs
        | some x =>
          dsimp only
          split
          · exact hs
          · rw [answer_mem]
            exact hg _ _ (by simpa using hs)
@[simp] theorem hearBeat_mem (a0 : Burst) (a1 : BitVec 56) (s : State) : (hearBeat a0 a1 s).mem = s.mem := by
  unfold hearBeat
  simp [foldl_mem, ite_mem]
@[simp] theorem hearRange_mem (a0 : BitVec 56) (s : State) : (hearRange a0 s).mem = s.mem := by
  unfold hearRange
  simp [foldl_mem, ite_mem]
@[simp] theorem rangeSettles_mem (s : State) (a1 : Bool) : (rangeSettles s a1).mem = s.mem := by
  unfold rangeSettles
  (repeat' (first | split | dsimp only)) <;> first | with_reducible rfl | simp [foldl_mem, ite_mem]
@[simp] theorem rangeHeard_mem (s : State) (a1 : Nat) : (rangeHeard s a1).mem = s.mem := by
  unfold rangeHeard
  (repeat' (first | split | dsimp only)) <;> first | with_reducible rfl | simp [foldl_mem, ite_mem]
@[simp] theorem rangingReturns_mem (s : State) (b : Burst) : (rangingReturns s b).mem = s.mem := by
  unfold rangingReturns
  split
  · rfl
  · rw [rangeHeard_mem, countCrc_mem]
@[simp] theorem beatMismatch_mem (s : State) : (beatMismatch s).mem = s.mem := by
  unfold beatMismatch
  simp [foldl_mem, ite_mem]
@[simp] theorem takePair_wf (s : State) (a1 : Beat) (a2 : Int) (a3 : Nat) (h : storeWf s.mem = true) : storeWf (takePair s a1 a2 a3).mem = true := by
  unfold takePair
  (repeat' (first | split | dsimp only)) <;> simp_all [foldl_mem, foldl_wf, ite_mem]
@[simp] theorem pairActivates_mem (s : State) (a1 : Beat) (a2 : Int) (a3 : Nat) : (pairActivates s a1 a2 a3).mem = s.mem := by
  unfold pairActivates
  (repeat' (first | split | dsimp only)) <;> first | with_reducible rfl | simp [foldl_mem, ite_mem]
@[simp] theorem pairHeard_wf (s : State) (a1 : Beat) (a2 : Int) (a3 : Nat) (a4 : Bool) (h : storeWf s.mem = true) : storeWf (pairHeard s a1 a2 a3 a4).mem = true := by
  unfold pairHeard
  (repeat' (first | split | dsimp only)) <;> simp_all [foldl_mem, foldl_wf, ite_mem]
@[simp] theorem hearPhase_wf (a0 : BitVec 56) (s : State) (h : storeWf s.mem = true) : storeWf (hearPhase a0 s).mem = true := by
  unfold hearPhase
  (repeat' (first | split | dsimp only)) <;> simp_all [foldl_mem, foldl_wf, ite_mem]
@[simp] theorem silReenabled_mem (s : State) : (silReenabled s).mem = s.mem := by
  unfold silReenabled
  simp [foldl_mem, ite_mem]
@[simp] theorem silEnabled_mem (s : State) (a1 : Nat) : (silEnabled s a1).mem = s.mem := by
  unfold silEnabled
  simp [foldl_mem, ite_mem]
@[simp] theorem State.putReg_mem (s : State) (a1 : Reg) (a2 : Nat) (a3 : Nat) : (State.putReg s a1 a2 a3).mem = s.mem := by
  unfold State.putReg
  simp [foldl_mem, ite_mem]
@[simp] theorem deriveHarbour_mem (s : State) (a1 : Nat) : (deriveHarbour s a1).mem = s.mem := by
  unfold deriveHarbour
  simp [foldl_mem, ite_mem]
@[simp] theorem deriveRegs_mem (s : State) : (deriveRegs s).mem = s.mem := by
  unfold deriveRegs
  simp [foldl_mem, ite_mem]
@[simp] theorem bumpGens_mem (s : State) (a1 : List Nat) : (bumpGens s a1).mem = s.mem := by
  unfold bumpGens
  simp [foldl_mem, ite_mem]
@[simp] theorem copyOut_mem (s : State) : (copyOut s).mem = s.mem := by
  unfold copyOut
  with_reducible rfl
@[simp] theorem publishAll_mem (s : State) : (publishAll s).mem = s.mem := by
  unfold publishAll
  simp [foldl_mem, ite_mem]
@[simp] theorem publishFirst_mem (s : State) : (publishFirst s).mem = s.mem := by
  unfold publishFirst
  simp [foldl_mem, ite_mem]
@[simp] theorem State.setDomainState_mem (s : State) (a1 : Nat) (a2 : Nat) : (State.setDomainState s a1 a2).mem = s.mem := by
  unfold State.setDomainState
  simp [foldl_mem, ite_mem]
@[simp] theorem emptyPlane_mem (s : State) (a1 : PlaneId) : (emptyPlane s a1).mem = s.mem := by
  unfold emptyPlane
  simp [foldl_mem, ite_mem]
@[simp] theorem wipeIsland_mem (s : State) (a1 : Nat) : (wipeIsland s a1).mem = s.mem := by
  unfold wipeIsland
  with_reducible rfl
@[simp] theorem wipeSpace_wf (s : State) (a1 : Nat) (a2 : Nat) (h : storeWf s.mem = true) : storeWf (wipeSpace s a1 a2).mem = true := by
  unfold wipeSpace
  simp_all [foldl_mem, foldl_wf, ite_mem]
@[simp] theorem dropEngineObjects_mem (s : State) (a1 : Nat) : (dropEngineObjects s a1).mem = s.mem := by
  unfold dropEngineObjects
  with_reducible rfl
@[simp] theorem poisonItems_wf (s : State) (a1 : Nat) (h : storeWf s.mem = true) : storeWf (poisonItems s a1).mem = true := by
  unfold poisonItems
  simp_all [foldl_mem, foldl_wf, ite_mem]
@[simp] theorem emptyMain_mem (s : State) : (emptyMain s).mem = s.mem := by
  unfold emptyMain
  simp [foldl_mem, ite_mem]
@[simp] theorem emptyShadow_mem (s : State) : (emptyShadow s).mem = s.mem := by
  unfold emptyShadow
  simp [foldl_mem, ite_mem]
@[simp] theorem emptyStores_mem (s : State) : (emptyStores s).mem = s.mem := by
  unfold emptyStores
  simp [foldl_mem, ite_mem]
@[simp] theorem wipeStack_wf (s : State) (a1 : Nat) (a2 : Nat) (h : storeWf s.mem = true) : storeWf (wipeStack s a1 a2).mem = true := by
  unfold wipeStack
  simp_all [foldl_mem, foldl_wf, ite_mem]
@[simp] theorem wipeHarbour_wf (s : State) (h : Nat) (hs : storeWf s.mem = true) : storeWf (wipeHarbour s h).mem = true := by
  unfold wipeHarbour
  rw [dropEngineObjects_mem]
  exact wipeSpace_wf _ _ _ (wipeSpace_wf _ _ _ hs)
@[simp] theorem darkLanes_mem (s : State) (a1 : Nat) : (darkLanes s a1).mem = s.mem := by
  unfold darkLanes
  simp [foldl_mem, ite_mem]
@[simp] theorem domainLost_wf (s : State) (a1 : Nat) (h : storeWf s.mem = true) : storeWf (domainLost s a1).mem = true := by
  unfold domainLost
  (repeat' (first | split | dsimp only)) <;> simp_all [foldl_mem, foldl_wf, ite_mem]
@[simp] theorem domainOff_wf (s : State) (a1 : Nat) (h : storeWf s.mem = true) : storeWf (domainOff s a1).mem = true := by
  unfold domainOff
  (repeat' (first | split | dsimp only)) <;> simp_all [foldl_mem, foldl_wf, ite_mem]
@[simp] theorem allDomainsOff_wf (s : State) (h : storeWf s.mem = true) : storeWf (allDomainsOff s).mem = true := by
  unfold allDomainsOff
  simp_all [foldl_mem, foldl_wf, ite_mem]
@[simp] theorem powerOff_wf (s : State) : storeWf (powerOff s).mem = true := rfl
@[simp] theorem startRamp_mem (s : State) (a1 : Nat) : (startRamp s a1).mem = s.mem := by
  unfold startRamp
  simp [foldl_mem, ite_mem]
@[simp] theorem switchedOff_wf (s : State) (a1 : Nat) (h : storeWf s.mem = true) : storeWf (switchedOff s a1).mem = true := by
  unfold switchedOff
  simp_all [foldl_mem, foldl_wf, ite_mem]
@[simp] theorem domainOnWrite_wf (a0 : Nat) (a1 : Nat) (s : State) (h : storeWf s.mem = true) : storeWf (domainOnWrite a0 a1 s).2.mem = true := by
  unfold domainOnWrite
  (repeat' (first | split | dsimp only)) <;> simp_all [foldl_mem, foldl_wf, ite_mem]
@[simp] theorem stackInit_mem (a0 : Bool) (s : State) (a2 : Nat) : (stackInit a0 s a2).mem = s.mem := by
  unfold stackInit
  simp [foldl_mem, ite_mem]
@[simp] theorem rampEnds_mem (s : State) (a1 : Nat) (a2 : Bool) : (rampEnds s a1 a2).mem = s.mem := by
  unfold rampEnds
  simp [foldl_mem, ite_mem]
@[simp] theorem outOfService_wf (s : State) (a1 : Nat) (h : storeWf s.mem = true) : storeWf (outOfService s a1).mem = true := by
  unfold outOfService
  (repeat' (first | split | dsimp only)) <;> simp_all [foldl_mem, foldl_wf, ite_mem]
@[simp] theorem domainFails_wf (s : State) (a1 : Nat) (h : storeWf s.mem = true) : storeWf (domainFails s a1).mem = true := by
  unfold domainFails
  (repeat' (first | split | dsimp only)) <;> simp_all [foldl_mem, foldl_wf, ite_mem]
@[simp] theorem mainFault_wf (a0 : Bool) (s : State) (h : storeWf s.mem = true) : storeWf (mainFault a0 s).mem = true := by
  unfold mainFault
  simp_all [foldl_mem, foldl_wf, ite_mem]
@[simp] theorem judgeMain_wf (s : State) (a1 : Nat) (h : storeWf s.mem = true) : storeWf (judgeMain s a1).mem = true := by
  unfold judgeMain
  (repeat' (first | split | dsimp only)) <;> simp_all [foldl_mem, foldl_wf, ite_mem]
@[simp] theorem judgeAux_wf (s : State) (a1 : Nat) (h : storeWf s.mem = true) : storeWf (judgeAux s a1).mem = true := by
  unfold judgeAux
  (repeat' (first | split | dsimp only)) <;> simp_all [foldl_mem, foldl_wf, ite_mem]
@[simp] theorem mainTimesOut_wf (s : State) (h : storeWf s.mem = true) : storeWf (mainTimesOut s).mem = true := by
  unfold mainTimesOut
  (repeat' (first | split | dsimp only)) <;> simp_all [foldl_mem, foldl_wf, ite_mem]
@[simp] theorem mainRemoved_wf (s : State) (h : storeWf s.mem = true) : storeWf (mainRemoved s).mem = true := by
  unfold mainRemoved
  (repeat' (first | split | dsimp only)) <;> simp_all [foldl_mem, foldl_wf, ite_mem]
@[simp] theorem judgeTemp_mem (a0 : Nat) (a1 : Nat) (a2 : Int) (s : State) (a4 : Int) : (judgeTemp a0 a1 a2 s a4).mem = s.mem := by
  unfold judgeTemp
  simp [foldl_mem, ite_mem]
@[simp] theorem judgeDie_mem (s : State) (a1 : Nat × Int) : (judgeDie s a1).mem = s.mem := by
  unfold judgeDie
  simp [foldl_mem, ite_mem]
@[simp] theorem judgeStack_mem (s : State) (a1 : Nat × Int) : (judgeStack s a1).mem = s.mem := by
  unfold judgeStack
  simp [foldl_mem, ite_mem]
@[simp] theorem judgeLimit_mem (s : State) (a1 : Nat) : (judgeLimit s a1).mem = s.mem := by
  unfold judgeLimit
  simp [foldl_mem, ite_mem]
@[simp] theorem judgePower_mem (s : State) (a1 : Nat) : (judgePower s a1).mem = s.mem := by
  unfold judgePower
  with_reducible rfl
@[simp] theorem readSensors_wf (s : State) (x : Sensors) (hs : storeWf s.mem = true) : storeWf (readSensors s x).mem = true := by
  unfold readSensors
  refine judgeAux_wf _ _ (judgeMain_wf _ _ ?_)
  simp [foldl_mem, ite_mem, hs]
@[simp] theorem loseSram_mem (s : State) (a1 : Nat) (a2 : SramError) : (loseSram s a1 a2).mem = s.mem := by
  unfold loseSram
  (repeat' (first | split | dsimp only)) <;> first | with_reducible rfl | simp [foldl_mem, ite_mem]
@[simp] theorem scrubs_mem (s : State) (a1 : Nat) (a2 : Option SramError) : (scrubs s a1 a2).mem = s.mem := by
  unfold scrubs
  (repeat' (first | split | dsimp only)) <;> first | with_reducible rfl | simp [foldl_mem, ite_mem]
@[simp] theorem claimUnit_mem (s : State) (a1 : FaultUnit) : (claimUnit s a1).mem = s.mem := by
  unfold claimUnit
  simp [foldl_mem, ite_mem]
@[simp] theorem releaseUnit_mem (s : State) (u : FaultUnit) : (releaseUnit s u).mem = s.mem := by
  unfold releaseUnit
  refine foldl_mem _ (fun t k => ?_) _ _
  split <;> simp
@[simp] theorem testStarts_mem (s : State) (a1 : FaultUnit) : (testStarts s a1).mem = s.mem := by
  unfold testStarts
  (repeat' (first | split | dsimp only)) <;> first | with_reducible rfl | simp [foldl_mem, ite_mem]
@[simp] theorem testForced_mem (s : State) (a1 : FaultUnit) : (testForced s a1).mem = s.mem := by
  unfold testForced
  (repeat' (first | split | dsimp only)) <;> first | with_reducible rfl | simp [foldl_mem, ite_mem]
@[simp] theorem testEnds_mem (s : State) (a1 : FaultUnit) (a2 : Bool) : (testEnds s a1 a2).mem = s.mem := by
  unfold testEnds
  (repeat' (first | with_reducible rfl | (simp [foldl_mem, ite_mem]; done) | split | dsimp only | (rw [foldl_mem _ (fun t x => ?_)]) | simp_all [foldl_mem, ite_mem]))
@[simp] theorem logClear_mem (s : State) : (logClear s).mem = s.mem := by
  unfold logClear
  simp [foldl_mem, ite_mem]
@[simp] theorem bistStarts_mem (s : State) (a1 : Nat) (a2 : Nat) : (bistStarts s a1 a2).mem = s.mem := by
  unfold bistStarts
  simp [foldl_mem, ite_mem]
@[simp] theorem bistStartWrite_mem (a0 : Nat) (s : State) : (bistStartWrite a0 s).2.mem = s.mem := by
  unfold bistStartWrite
  (repeat' (first | split | dsimp only)) <;> first | with_reducible rfl | simp [foldl_mem, ite_mem]
@[simp] theorem bistClears_wf (s : State) (a1 : Nat) (h : storeWf s.mem = true) : storeWf (bistClears s a1).mem = true := by
  unfold bistClears
  (repeat' (first | split | dsimp only)) <;> simp_all [foldl_mem, foldl_wf, ite_mem]
@[simp] theorem bistRow_mem (a0 : Nat) (s : State) (a2 : Nat × Bool) : (bistRow a0 s a2).mem = s.mem := by
  unfold bistRow
  simp [foldl_mem, ite_mem]
@[simp] theorem judgeBist_mem (a0 : Nat) (s : State) (a2 a3 : Nat) (a4 a5 : BitVec 64) (a6 : List (Nat × Bool)) :
    (judgeBist a0 s a2 a3 a4 a5 a6).mem = s.mem := by
  unfold judgeBist
  simp [foldl_mem, ite_mem]
@[simp] theorem bistRetires_mem (s : State) (a1 : Nat) : (bistRetires s a1).mem = s.mem := by
  unfold bistRetires
  simp [foldl_mem, ite_mem]
@[simp] theorem bistEnds_wf (s : State) (a1 : BitVec 64) (a2 : BitVec 64) (a3 : List (Nat × Bool)) (h : storeWf s.mem = true) : storeWf (bistEnds s a1 a2 a3).mem = true := by
  unfold bistEnds
  (repeat' (first | split | dsimp only)) <;> simp_all [foldl_mem, foldl_wf, ite_mem]
@[simp] theorem tapAnswers_mem (s : State) (a1 : Nat) (a2 : Nat) : (tapAnswers s a1 a2).mem = s.mem := by
  unfold tapAnswers
  simp [foldl_mem, ite_mem]
@[simp] theorem patchFails_mem (s : State) (a1 : List (Nat × Nat)) : (patchFails s a1).mem = s.mem := by
  unfold patchFails
  (repeat' (first | with_reducible rfl | (simp [foldl_mem, ite_mem]; done) | split | dsimp only | (rw [foldl_mem _ (fun t x => ?_)]) | simp_all [foldl_mem, ite_mem]))
@[simp] theorem bootPatch_mem (s : State) : (bootPatch s).mem = s.mem := by
  unfold bootPatch
  simp [foldl_mem, ite_mem]
@[simp] theorem identityObjects_mem (s : State) : (identityObjects s).mem = s.mem := by
  unfold identityObjects
  simp [foldl_mem, ite_mem]
@[simp] theorem nodeObjects_mem (s : State) : (nodeObjects s).mem = s.mem := by
  unfold nodeObjects
  exact foldl_mem _ (by intro s x; (repeat' (first | split | dsimp only)) <;> first | with_reducible rfl | simp [foldl_mem, ite_mem]) _ _
@[simp] theorem canBoots_mem (s : State) : (canBoots s).mem = s.mem := by
  unfold canBoots
  simp [foldl_mem, ite_mem]
@[simp] theorem bootDefaults_mem (s : State) : (bootDefaults s).mem = s.mem := by
  unfold bootDefaults
  simp [foldl_mem, ite_mem]
@[simp] theorem clearArrays_wf (s : State) (h : storeWf s.mem = true) : storeWf (clearArrays s).mem = true := by
  unfold clearArrays
  simp_all [foldl_mem, foldl_wf, ite_mem]
@[simp] theorem enterBoot_wf (s : State) (a1 : Nat) (h : storeWf s.mem = true) : storeWf (enterBoot s a1).mem = true := by
  unfold enterBoot
  simp_all [foldl_mem, foldl_wf, ite_mem]
@[simp] theorem startPublications_mem (s : State) : (startPublications s).mem = s.mem := by
  unfold startPublications
  simp [foldl_mem, ite_mem]
@[simp] theorem bootFails_mem (s : State) (a1 : Nat) (a2 : Nat) : (bootFails s a1 a2).mem = s.mem := by
  unfold bootFails
  simp [foldl_mem, ite_mem]
@[simp] theorem bootPower_mem (s : State) (a1 : List Nat) : (bootPower s a1).mem = s.mem := by
  unfold bootPower
  simp [foldl_mem, ite_mem]
@[simp] theorem bootBistUnit_mem (a0 : List BistFound) (s : State) (a2 : Nat) : (bootBistUnit a0 s a2).mem = s.mem := by
  unfold bootBistUnit
  dsimp only
  split <;> simp
@[simp] theorem bootStacks_mem (s : State) (a1 : List Nat) : (bootStacks s a1).mem = s.mem := by
  unfold bootStacks
  simp [foldl_mem, ite_mem]
@[simp] theorem bootCarrier_mem (s : State) : (bootCarrier s).mem = s.mem := by
  unfold bootCarrier
  dsimp only
  rw [foldl_mem _ (by intro s x; (repeat' (first | split | dsimp only)) <;> first | with_reducible rfl | simp [foldl_mem, ite_mem])]
  first | with_reducible rfl | simp [foldl_mem, ite_mem] | (repeat' (first | split | dsimp only)) <;> first | with_reducible rfl | simp [foldl_mem, ite_mem]
@[simp] theorem bootDone_mem (s : State) : (bootDone s).mem = s.mem := by
  unfold bootDone
  simp [foldl_mem, ite_mem]
@[simp] theorem bootFromStacks_mem (s : State) (a1 : BootInputs) : (bootFromStacks s a1).mem = s.mem := by
  unfold bootFromStacks
  simp [foldl_mem, ite_mem]
@[simp] theorem bootFromBist_mem (s : State) (a1 : BootInputs) : (bootFromBist s a1).mem = s.mem := by
  unfold bootFromBist
  (repeat' (first | split | dsimp only)) <;> first | with_reducible rfl | simp [foldl_mem, ite_mem]
@[simp] theorem bootFromHearth_mem (s : State) (a1 : BootInputs) : (bootFromHearth s a1).mem = s.mem := by
  unfold bootFromHearth
  simp [foldl_mem, ite_mem]
@[simp] theorem powersUp_wf (s : State) (a1 : BootInputs) (h : storeWf s.mem = true) : storeWf (powersUp s a1).mem = true := by
  unfold powersUp
  (repeat' (first | split | dsimp only)) <;> simp_all [foldl_mem, foldl_wf, ite_mem]
@[simp] theorem restateDomains_mem (s : State) : (restateDomains s).mem = s.mem := by
  unfold restateDomains
  simp [foldl_mem, ite_mem]
@[simp] theorem logRepairs_mem (a0 : List UnitClass) (s : State) : (logRepairs a0 s).mem = s.mem := by
  unfold logRepairs
  simp [foldl_mem, ite_mem]
@[simp] theorem resets_wf (s : State) (a1 : BootInputs) (h : storeWf s.mem = true) : storeWf (resets s a1).mem = true := by
  unfold resets
  (repeat' (first | split | dsimp only)) <;> simp_all [foldl_mem, foldl_wf, ite_mem]
@[simp] theorem resetCommand_wf (a0 : BootInputs) (s : State) (h : storeWf s.mem = true) : storeWf (resetCommand a0 s).2.mem = true := by
  unfold resetCommand
  (repeat' (first | split | dsimp only)) <;> simp_all [foldl_mem, foldl_wf, ite_mem]
@[simp] theorem hearthTimesOut_mem (s : State) : (hearthTimesOut s).mem = s.mem := by
  unfold hearthTimesOut
  simp [foldl_mem, ite_mem]
@[simp] theorem hearthLost_mem (s : State) : (hearthLost s).mem = s.mem := by
  unfold hearthLost
  simp [foldl_mem, ite_mem]
@[simp] theorem refclkLost_mem (s : State) : (refclkLost s).mem = s.mem := by
  unfold refclkLost
  simp [foldl_mem, ite_mem]
@[simp] theorem imageTaken_mem (a0 : Bool) (s : State) (a2 : List Byte) : (imageTaken a0 s a2).mem = s.mem := by
  unfold imageTaken
  simp [foldl_mem, ite_mem]
@[simp] theorem imageCommit_mem (a0 : Bool) (s : State) (a2 : List Byte) : (imageCommit a0 s a2).2.mem = s.mem := by
  unfold imageCommit
  (repeat' (first | split | dsimp only)) <;> first | with_reducible rfl | simp [foldl_mem, ite_mem]
@[simp] theorem activationLoads_mem (s : State) : (activationLoads s).mem = s.mem := by
  unfold activationLoads
  (repeat' (first | split | dsimp only)) <;> first | with_reducible rfl | simp [foldl_mem, ite_mem]
@[simp] theorem activates_mem (s : State) : (activates s).mem = s.mem := by
  unfold activates
  (repeat' (first | split | dsimp only)) <;> first | with_reducible rfl | simp [foldl_mem, ite_mem]
@[simp] theorem activateCommand_mem (s : State) : (activateCommand s).2.mem = s.mem := by
  unfold activateCommand
  (repeat' (first | split | dsimp only)) <;> first | with_reducible rfl | simp [foldl_mem, ite_mem]
@[simp] theorem noBeat_mem (s : State) : (noBeat s).mem = s.mem := by
  unfold noBeat
  simp [foldl_mem, ite_mem]
@[simp] theorem startCommand_mem (s : State) : (startCommand s).2.mem = s.mem := by
  unfold startCommand
  (repeat' (first | split | dsimp only)) <;> first | with_reducible rfl | simp [foldl_mem, ite_mem]
@[simp] theorem stopCommand_mem (s : State) : (stopCommand s).2.mem = s.mem := by
  unfold stopCommand
  (repeat' (first | split | dsimp only)) <;> first | with_reducible rfl | simp [foldl_mem, ite_mem]
@[simp] theorem cancelActivation_mem (s : State) : (cancelActivation s).mem = s.mem := by
  unfold cancelActivation
  simp [foldl_mem, ite_mem]
@[simp] theorem holdCommand_mem (s : State) : (holdCommand s).2.mem = s.mem := by
  unfold holdCommand
  (repeat' (first | split | dsimp only)) <;> first | with_reducible rfl | simp [foldl_mem, ite_mem]
@[simp] theorem rearmCommand_mem (s : State) : (rearmCommand s).2.mem = s.mem := by
  unfold rearmCommand
  (repeat' (first | split | dsimp only)) <;> first | with_reducible rfl | simp [foldl_mem, ite_mem]
@[simp] theorem idCommand_wf (a0 : Nat) (s : State) (h : storeWf s.mem = true) : storeWf (idCommand a0 s).2.mem = true := by
  unfold idCommand
  split <;> simp [h]
@[simp] theorem takeCompletions_mem (s : State) (a1 : Nat) (a2 : List Byte) : (takeCompletions s a1 a2).mem = s.mem := by
  unfold takeCompletions
  simp [foldl_mem, ite_mem]
@[simp] theorem clearGuard_mem (s : State) : (clearGuard s).mem = s.mem := by
  unfold clearGuard
  simp [foldl_mem, ite_mem]
@[simp] theorem afterRead_mem (s : State) (a1 : Nat) (a2 : Nat) (a3 : List Byte) : (afterRead s a1 a2 a3).mem = s.mem := by
  unfold afterRead
  (repeat' (first | split | dsimp only)) <;> first | with_reducible rfl | simp [foldl_mem, ite_mem]
@[simp] theorem dropSnapshot_mem (s : State) (a1 : Via) (a2 : Nat) : (dropSnapshot s a1 a2).mem = s.mem := by
  unfold dropSnapshot
  simp [foldl_mem, ite_mem]
@[simp] theorem endOldest_mem (s : State) (a1 : Via) : (endOldest s a1).mem = s.mem := by
  unfold endOldest
  (repeat' (first | split | dsimp only)) <;> first | with_reducible rfl | simp [foldl_mem, ite_mem]
@[simp] theorem takeSnapshot_mem (s : State) (a1 : Via) (a2 : Nat) (a3 : List Byte) (a4 : Bool) : (takeSnapshot s a1 a2 a3 a4).mem = s.mem := by
  unfold takeSnapshot
  simp [foldl_mem, ite_mem]
@[simp] theorem markPart_mem (s : State) (a1 : Via) (a2 : Nat) (a3 : Nat) : (markPart s a1 a2 a3).mem = s.mem := by
  unfold markPart
  simp [foldl_mem, ite_mem]
@[simp] theorem snapshotExpires_mem (s : State) (via : Via) (key : Nat) : (snapshotExpires s via key).mem = s.mem := by
  unfold snapshotExpires
  split
  · rfl
  · rw [State.modLinks_mem, State.runTo_mem]
@[simp] theorem readIdles_mem (s : State) (a1 : Via) (a2 : Nat) : (readIdles s a1 a2).mem = s.mem := by
  unfold readIdles
  (repeat' (first | split | dsimp only)) <;> first | with_reducible rfl | simp [foldl_mem, ite_mem]
@[simp] theorem endRead_mem (s : State) (a1 : Via) (a2 : Nat) (a3 : Nat) (a4 : List Byte) : (endRead s a1 a2 a3 a4).mem = s.mem := by
  unfold endRead
  simp [foldl_mem, ite_mem]
@[simp] theorem endReadsOf_mem (s : State) (a1 : Nat) : (endReadsOf s a1).mem = s.mem := by
  unfold endReadsOf
  simp [foldl_mem, ite_mem]
@[simp] theorem directWrite_wf (s : State) (a1 : Nat) (a2 : Nat) (h : storeWf s.mem = true) : storeWf (directWrite s a1 a2).mem = true := by
  unfold directWrite
  simp_all [foldl_mem, foldl_wf, ite_mem]
@[simp] theorem persist_mem (s : State) (a1 : Reg) (a2 : Nat) : (persist s a1 a2).mem = s.mem := by
  unfold persist
  simp [foldl_mem, ite_mem]
@[simp] theorem afterStore_mem (s : State) (a1 : Reg) (a2 : Nat) (a3 : Nat) (a4 : Nat) : (afterStore s a1 a2 a3 a4).mem = s.mem := by
  unfold afterStore
  (repeat' (first | split | dsimp only | (refine (foldl_mem _ (fun t x => ?_) _ _).trans ?_))) <;> first | with_reducible rfl | simp [foldl_mem, ite_mem] | simp_all [foldl_mem, ite_mem]
@[simp] theorem storeWriteq_mem (s : State) (a1 : Reg) (a2 : Nat) (a3 : Nat) (a4 : Nat) : (storeWrite' s a1 a2 a3 a4).2.mem = s.mem := by
  unfold storeWrite'
  (repeat' (first | split | dsimp only)) <;> first | with_reducible rfl | simp [foldl_mem, ite_mem]
@[simp] theorem ownerWrite_wf (b : BootInputs) (r : Reg) (n k v : Nat) (s : State) (hs : storeWf s.mem = true) :
    storeWf (ownerWrite b r n k v s).2.mem = true := by
  unfold ownerWrite
  by_cases h1 : r = Reg.idCommand
  · rw [if_pos h1]; split <;> simp [hs]
  rw [if_neg h1]
  by_cases h2 : r = Reg.actCommit
  · rw [if_pos h2]; simp [hs]
  rw [if_neg h2]
  by_cases h3 : r = Reg.silReenable
  · rw [if_pos h3]; simp [hs]
  rw [if_neg h3]
  by_cases h4 : r = Reg.laneInjectFire
  · rw [if_pos h4]; dsimp only; split <;> simp [hs]
  rw [if_neg h4]
  by_cases h5 : r = Reg.xlaneInjectFire
  · rw [if_pos h5]; dsimp only; split <;> simp [hs]
  rw [if_neg h5]
  by_cases h6 : r = Reg.forgeSound
  · rw [if_pos h6]; simp [hs]
  rw [if_neg h6]
  by_cases h7 : r = Reg.imgShadowLoad
  · rw [if_pos h7]; simp [hs]
  rw [if_neg h7]
  by_cases h8 : r = Reg.engResume
  · rw [if_pos h8]; simp [hs]
  rw [if_neg h8]
  by_cases h9 : r = Reg.cacheHoldDirectMib
  · rw [if_pos h9]; simp [hs]
  rw [if_neg h9]
  by_cases h10 : r = Reg.fltLogClear
  · rw [if_pos h10]; simp [hs]
  rw [if_neg h10]
  by_cases h11 : r = Reg.bistStart
  · rw [if_pos h11]; simp [hs]
  rw [if_neg h11]
  by_cases h12 : r = Reg.pwrDomainOn
  · rw [if_pos h12]; simp [hs]
  rw [if_neg h12]
  by_cases h13 : r = Reg.hazClear
  · rw [if_pos h13]; simp [hs]
  rw [if_neg h13]
  simp [hs]
@[simp] theorem remapWrite_mem (s : State) (a1 : Reg) (a2 : Nat) (a3 : Bool) (a4 : List Byte) : (remapWrite s a1 a2 a3 a4).2.mem = s.mem := by
  unfold remapWrite
  (repeat' (first | split | dsimp only)) <;> first | with_reducible rfl | simp [foldl_mem, ite_mem]
@[simp] theorem submitWrite_mem (s : State) (h e : Nat) (bs : List Byte) : (submitWrite s h e bs).2.mem = s.mem := by
  unfold submitWrite
  split
  · rfl
  · split
    · exact submit_mem _ _ _ _ _ (by assumption)
    · rfl
@[simp] theorem domainTaken_mem (s : State) (r : Reg) (n : Nat) (bs : List Byte) : (domainTaken s r n bs).2.mem = s.mem := by
  unfold domainTaken
  (repeat' split) <;> simp
@[simp] theorem refuseWrite_mem (s : State) (a1 : Nat) : (refuseWrite s a1).2.mem = s.mem := by
  unfold refuseWrite
  simp [foldl_mem, ite_mem]
@[simp] theorem countRefusal_mem (x : Nat × State) : (countRefusal x).2.mem = x.2.mem := by
  unfold countRefusal
  split <;> simp
@[simp] theorem takeContent_mem (s : State) (a1 : ObjRow) (a2 : Nat) (a3 : Nat) (a4 : List Byte) : (takeContent s a1 a2 a3 a4).2.mem = s.mem := by
  unfold takeContent
  (repeat' (first | split | dsimp only)) <;> first | with_reducible rfl | simp [foldl_mem, ite_mem]
@[simp] theorem domainWrite_mem (s : State) (a1 : ObjRow) (a2 : Nat) (a3 : Nat) (a4 : List Byte) : (domainWrite s a1 a2 a3 a4).2.mem = s.mem := by
  unfold domainWrite
  (repeat' (first | split | dsimp only)) <;> first | with_reducible rfl | simp [foldl_mem, ite_mem]
@[simp] theorem numberWrite_wf (b : BootInputs) (s : State) (r : ObjRow) (i u : Nat) (bs : List Byte) (hs : storeWf s.mem = true) :
    storeWf (numberWrite b s r i u bs).2.mem = true := by
  unfold numberWrite
  dsimp only
  (repeat' split) <;> simp [hs]
@[simp] theorem objectWrite_wf (a0 : BootInputs) (a1 : Nat) (a2 : Nat) (a3 : List Byte) (s : State) (h : storeWf s.mem = true) : storeWf (objectWrite a0 a1 a2 a3 s).2.mem = true := by
  unfold objectWrite
  (repeat' (first | split | dsimp only)) <;> simp_all [foldl_mem, foldl_wf, ite_mem]
@[simp] theorem valueWrite_wf (a0 : BootInputs) (a1 : Nat) (a2 : Nat) (a3 : List Byte) (s : State) (h : storeWf s.mem = true) : storeWf (valueWrite a0 a1 a2 a3 s).2.mem = true := by
  unfold valueWrite
  (repeat' (first | split | dsimp only)) <;> simp_all [foldl_mem, foldl_wf, ite_mem]
@[simp] theorem hostWrites_wf (a0 : BootInputs) (a1 : Nat) (a2 : Nat) (a3 : List Byte) (s : State) (h : storeWf s.mem = true) : storeWf (hostWrites a0 a1 a2 a3 s).mem = true := by
  unfold hostWrites
  (repeat' (first | split | dsimp only)) <;> simp_all [foldl_mem, foldl_wf, ite_mem]
@[simp] theorem hostWrite_wf (a0 : Nat) (a1 : Nat) (a2 : List Byte) (s : State) (h : storeWf s.mem = true) : storeWf (hostWrite a0 a1 a2 s).mem = true := by
  unfold hostWrite
  simp_all [foldl_mem, foldl_wf, ite_mem]
@[simp] theorem openWrite_mem (a0 : Via) (a1 : Nat) (a2 : Nat) (a3 : Nat) (a4 : Option Nat) (s : State) : (openWrite a0 a1 a2 a3 a4 s).2.2.mem = s.mem := by
  unfold openWrite
  (repeat' (first | split | dsimp only)) <;> first | with_reducible rfl | simp [foldl_mem, ite_mem]
@[simp] theorem endWrite_mem (s : State) (a1 : Nat) : (endWrite s a1).mem = s.mem := by
  unfold endWrite
  simp [foldl_mem, ite_mem]
@[simp] theorem chunkWrite_mem (a0 : Via) (a1 : Nat) (a2 : Nat) (a3 : List Byte) (s : State) : (chunkWrite a0 a1 a2 a3 s).2.mem = s.mem := by
  unfold chunkWrite
  (repeat' (first | split | dsimp only)) <;> first | with_reducible rfl | simp [foldl_mem, ite_mem]
@[simp] theorem commitWrite_mem (a0 : Via) (a1 : Nat) (s : State) : (commitWrite a0 a1 s).2.mem = s.mem := by
  unfold commitWrite
  (repeat' (first | split | dsimp only)) <;> first | with_reducible rfl | simp [foldl_mem, ite_mem]
@[simp] theorem cancelWrite_mem (a0 : Via) (a1 : Nat) (s : State) : (cancelWrite a0 a1 s).2.mem = s.mem := by
  unfold cancelWrite
  (repeat' (first | split | dsimp only)) <;> first | with_reducible rfl | simp [foldl_mem, ite_mem]
@[simp] theorem writeIdles_mem (s : State) (a1 : Nat) : (writeIdles s a1).mem = s.mem := by
  unfold writeIdles
  (repeat' (first | split | dsimp only)) <;> first | with_reducible rfl | simp [foldl_mem, ite_mem]
@[simp] theorem endSession_mem (s : State) (a1 : Via) : (endSession s a1).mem = s.mem := by
  unfold endSession
  simp [foldl_mem, ite_mem]
@[simp] theorem endSilent_mem (s : State) : (endSilent s).mem = s.mem := by
  unfold endSilent
  simp [foldl_mem, ite_mem]
theorem admitSession_mem (s t : State) (d : Datagram) (h : admitSession s d = some t) : t.mem = s.mem := by
  unfold admitSession at h
  (repeat' (first | split at h | dsimp only at h)) <;> simp_all
  all_goals (subst h; simp)
@[simp] theorem State.answerTo_mem (s : State) (a1 : Datagram) (a2 : List Byte) : (State.answerTo s a1 a2).mem = s.mem := by
  unfold State.answerTo
  simp [foldl_mem, ite_mem]
@[simp] theorem sendReply_mem (s : State) (a1 : Datagram) (a2 : List Byte) : (sendReply s a1 a2).mem = s.mem := by
  unfold sendReply
  simp [foldl_mem, ite_mem]
theorem serveFrame_wf (op : Nat) (run : State → Option (List Byte × State))
    (hr : ∀ s bs t, storeWf s.mem = true → run s = some (bs, t) → storeWf t.mem = true) (d : Datagram) (s : State)
    (hs : storeWf s.mem = true) : storeWf (serveFrame op run d s).mem = true := by
  unfold serveFrame
  dsimp only
  split
  · exact hs
  · split
    · simpa using hs
    · split
      · simpa using hs
      · split
        · simpa using hs
        · split
          · simpa using hs
          · rename_i t ht
            have h2 := admitSession_mem _ _ _ ht
            split
            · simpa [h2] using hs
            · split
              · simpa [h2] using hs
              · rename_i bs u hu
                rw [sendReply_mem]
                exact hr _ _ _ (by simpa [h2] using hs) hu
theorem serveq_wf (op : Nat) (run : State → Option (List Byte × State))
    (hr : ∀ s bs t, storeWf s.mem = true → run s = some (bs, t) → storeWf t.mem = true) (d : Datagram) (s : State)
    (hs : storeWf s.mem = true) : storeWf (serve' op run d s).mem = true := by
  unfold serve'
  exact State.onFrame_wf _ _ _ _ (fun t ht => serveFrame_wf _ _ hr _ _ ht) hs
theorem readContent_mem (s t : State) (via : Via) (i u : Nat) (b : Bool) (bs : List Byte)
    (h : readContent s via i u b = some (bs, t)) : t.mem = s.mem := by
  unfold readContent at h
  (repeat' (first | split at h | dsimp only at h)) <;> simp_all
  · obtain ⟨_, rfl⟩ := h; simp
  · obtain ⟨_, _, _, rfl⟩ := h; rfl
@[simp] theorem domainFragment_mem (s : State) (via : Via) (i u off n : Nat) : (domainFragment s via i u off n).2.2.2.mem = s.mem := by
  unfold domainFragment
  split
  · split
    · rfl
    · rename_i bs t ht
      have := readContent_mem _ _ _ _ _ _ _ ht
      split
      · exact this
      · dsimp only
        split <;> simpa using this
  · rfl
@[simp] theorem sayTo_mem (s : State) (a1 : Via) (a2 : List Byte) : (sayTo s a1 a2).mem = s.mem := by
  unfold sayTo
  (repeat' (first | split | dsimp only)) <;> first | with_reducible rfl | simp [foldl_mem, ite_mem]
@[simp] theorem completionsRead_mem (s : State) (via : Via) (h : Nat) : (completionsRead s via h).mem = s.mem := by
  unfold completionsRead
  dsimp only
  split
  · rfl
  · split
    · split
      · rename_i bs t ht
        have := readContent_mem _ _ _ _ _ _ _ ht
        simpa using this
      · rfl
    · rfl
@[simp] theorem sessionTimesOut_mem (s : State) (a1 : Via) : (sessionTimesOut s a1).mem = s.mem := by
  unfold sessionTimesOut
  (repeat' (first | split | dsimp only)) <;> first | with_reducible rfl | simp [foldl_mem, ite_mem]
theorem onFd_wf (f : CanFrame) (s : State) (taken : State → State) (ht : storeWf (taken s).mem = true) (h : storeWf s.mem = true) :
    storeWf (onFd f s taken).mem = true := by
  unfold onFd
  split <;> assumption
@[simp] theorem usdoAnswer_mem (s : State) (a1 : Nat) (a2 : Nat) (a3 : List Byte) : (usdoAnswer s a1 a2 a3).mem = s.mem := by
  unfold usdoAnswer
  simp [foldl_mem, ite_mem]
@[simp] theorem segmentLeaves_mem (s : State) (a1 : Nat) (a2 : Nat) (a3 : Nat) (a4 : Snapshot) : (segmentLeaves s a1 a2 a3 a4).mem = s.mem := by
  unfold segmentLeaves
  simp [foldl_mem, ite_mem]
@[simp] theorem uploadOpens_mem (s : State) (a1 : Nat) (a2 : Nat) (a3 : Nat) : (uploadOpens s a1 a2 a3).mem = s.mem := by
  unfold uploadOpens
  (repeat' (first | split | dsimp only)) <;> first | with_reducible rfl | simp [foldl_mem, ite_mem]
@[simp] theorem uploadGoesOn_mem (s : State) (a1 : Nat) (a2 : Nat) (a3 : Nat) : (uploadGoesOn s a1 a2 a3).mem = s.mem := by
  unfold uploadGoesOn
  (repeat' (first | split | dsimp only)) <;> first | with_reducible rfl | simp [foldl_mem, ite_mem]
@[simp] theorem uploads_mem (s : State) (a1 : Nat) (a2 : Nat) (a3 : Nat) (a4 : Bool) : (uploads s a1 a2 a3 a4).mem = s.mem := by
  unfold uploads
  simp [foldl_mem, ite_mem]
@[simp] theorem dropTransfer_mem (s : State) (a1 : Nat) : (dropTransfer s a1).mem = s.mem := by
  unfold dropTransfer
  (repeat' (first | split | dsimp only)) <;> first | with_reducible rfl | simp [foldl_mem, ite_mem]
@[simp] theorem finishDownload_mem (s : State) (a1 : UsdoTransfer) (a2 : List Byte) : (finishDownload s a1 a2).mem = s.mem := by
  unfold finishDownload
  simp [foldl_mem, ite_mem]
@[simp] theorem segmentArrives_mem (s : State) (a1 : UsdoTransfer) (a2 : List Byte) : (segmentArrives s a1 a2).mem = s.mem := by
  unfold segmentArrives
  (repeat' (first | split | dsimp only)) <;> first | with_reducible rfl | simp [foldl_mem, ite_mem]
@[simp] theorem downloadOpens_mem (s : State) (a1 : Nat) (a2 : Nat) (a3 : Nat) (a4 : Nat) (a5 : List Byte) : (downloadOpens s a1 a2 a3 a4 a5).mem = s.mem := by
  unfold downloadOpens
  simp [foldl_mem, ite_mem]
@[simp] theorem downloads_wf (s : State) (a1 : Nat) (a2 : Nat) (a3 : Nat) (a4 : Nat) (a5 : List Byte) (h : storeWf s.mem = true) : storeWf (downloads s a1 a2 a3 a4 a5).mem = true := by
  unfold downloads
  (repeat' (first | split | dsimp only)) <;> simp_all [foldl_mem, foldl_wf, ite_mem]
@[simp] theorem aborts_mem (s : State) (a1 : Nat) (a2 : Nat) (a3 : Nat) : (aborts s a1 a2 a3).mem = s.mem := by
  unfold aborts
  simp [foldl_mem, ite_mem]
@[simp] theorem nmtActs_wf (s : State) (a1 : Nat) (a2 : Nat) (h : storeWf s.mem = true) : storeWf (nmtActs s a1 a2).mem = true := by
  unfold nmtActs
  (repeat' (first | split | dsimp only)) <;> simp_all [foldl_mem, foldl_wf, ite_mem]
@[simp] theorem resetsCommunication_mem (s : State) (a1 : Nat) : (resetsCommunication s a1).mem = s.mem := by
  unfold resetsCommunication
  simp [foldl_mem, ite_mem]
@[simp] theorem beats_mem (s : State) : (beats s).mem = s.mem := by
  unfold beats
  simp [foldl_mem, ite_mem]
@[simp] theorem formPdo_mem (s : State) (a1 : Nat) : (formPdo s a1).mem = s.mem := by
  unfold formPdo
  simp [foldl_mem, ite_mem]
@[simp] theorem syncPdo_mem (s : State) (a1 : Nat) : (syncPdo s a1).mem = s.mem := by
  unfold syncPdo
  simp [foldl_mem, ite_mem]
@[simp] theorem applyEntries_wf (s : State) (es : List Nat) (bs : List Byte) (hs : storeWf s.mem = true) :
    storeWf (applyEntries s es bs).mem = true := by
  induction es generalizing s bs with
  | nil => exact hs
  | cons x es ih =>
    unfold applyEntries
    refine ih _ _ ?_
    rw [State.advance_mem]
    split <;> simp [hs]
@[simp] theorem applyPdo_wf (s : State) (x : Nat × List Byte) (hs : storeWf s.mem = true) : storeWf (applyPdo s x).mem = true :=
  applyEntries_wf _ _ _ hs
@[simp] theorem syncs_wf (s : State) (h : storeWf s.mem = true) : storeWf (syncs s).mem = true := by
  unfold syncs
  (repeat' (first | split | dsimp only)) <;> simp_all [foldl_mem, foldl_wf, ite_mem]
@[simp] theorem eventTimer_mem (s : State) (a1 : Nat) : (eventTimer s a1).mem = s.mem := by
  unfold eventTimer
  simp [foldl_mem, ite_mem]
@[simp] theorem pdoArrives_wf (s : State) (a1 : Nat) (a2 : List Byte) (h : storeWf s.mem = true) : storeWf (pdoArrives s a1 a2).mem = true := by
  unfold pdoArrives
  (repeat' (first | split | dsimp only)) <;> simp_all [foldl_mem, foldl_wf, ite_mem]
@[simp] theorem sendsEmcy_mem (s : State) : (sendsEmcy s).mem = s.mem := by
  unfold sendsEmcy
  (repeat' (first | split | dsimp only)) <;> first | with_reducible rfl | simp [foldl_mem, ite_mem]
@[simp] theorem errorPassive_mem (s : State) (a1 : Bool) : (errorPassive s a1).mem = s.mem := by
  unfold errorPassive
  simp [foldl_mem, ite_mem]
@[simp] theorem uartSays_mem (s : State) (a1 : List Nat) : (uartSays s a1).mem = s.mem := by
  unfold uartSays
  simp [foldl_mem, ite_mem]
@[simp] theorem sayOk_mem (s : State) : (sayOk s).mem = s.mem := by
  unfold sayOk
  simp [foldl_mem, ite_mem]
@[simp] theorem sayValue_mem (s : State) (a1 : Nat) : (sayValue s a1).mem = s.mem := by
  unfold sayValue
  simp [foldl_mem, ite_mem]
@[simp] theorem sayCode_mem (s : State) (a1 : Nat) : (sayCode s a1).mem = s.mem := by
  unfold sayCode
  simp [foldl_mem, ite_mem]
@[simp] theorem sayWhat_mem (s : State) : (sayWhat s).mem = s.mem := by
  unfold sayWhat
  simp [foldl_mem, ite_mem]
@[simp] theorem deliverPart_mem (s : State) (a1 : Nat) (a2 : Nat) (a3 : Snapshot) : (deliverPart s a1 a2 a3).mem = s.mem := by
  unfold deliverPart
  simp [foldl_mem, ite_mem]
@[simp] theorem freshPart_mem (s : State) (a1 : Nat) (a2 : Nat) (a3 : List Byte) : (freshPart s a1 a2 a3).mem = s.mem := by
  unfold freshPart
  (repeat' (first | split | dsimp only)) <;> first | with_reducible rfl | simp [foldl_mem, ite_mem]
@[simp] theorem readWide_mem (s : State) (a1 : Nat) (a2 : Nat) (a3 : Nat) (a4 : List Byte) : (readWide s a1 a2 a3 a4).mem = s.mem := by
  unfold readWide
  (repeat' (first | split | dsimp only)) <;> first | with_reducible rfl | simp [foldl_mem, ite_mem]
@[simp] theorem readDomainPart_mem (s : State) (a1 : Nat) (a2 : Nat) (a3 : Nat) : (readDomainPart s a1 a2 a3).mem = s.mem := by
  unfold readDomainPart
  (repeat' (first | split | dsimp only)) <;> first | with_reducible rfl | simp [foldl_mem, ite_mem]
@[simp] theorem uartRead_mem (s : State) (a1 : Nat) (a2 : Nat) (a3 : Nat) : (uartRead s a1 a2 a3).mem = s.mem := by
  unfold uartRead
  simp [foldl_mem, ite_mem]
@[simp] theorem refusePart_mem (s : State) (a1 : Nat) : (refusePart s a1).mem = s.mem := by
  unfold refusePart
  simp [foldl_mem, ite_mem]
@[simp] theorem uartChunk_mem (s : State) (a1 : Nat) (a2 : Nat) (a3 : Nat) : (uartChunk s a1 a2 a3).mem = s.mem := by
  unfold uartChunk
  (repeat' (first | split | dsimp only)) <;> first | with_reducible rfl | simp [foldl_mem, ite_mem]
@[simp] theorem dropPending_mem (s : State) (a1 : Nat) : (dropPending s a1).mem = s.mem := by
  unfold dropPending
  simp [foldl_mem, ite_mem]
@[simp] theorem endOldestPending_mem (s : State) : (endOldestPending s).mem = s.mem := by
  unfold endOldestPending
  (repeat' (first | split | dsimp only)) <;> first | with_reducible rfl | simp [foldl_mem, ite_mem]
@[simp] theorem keepPending_mem (s : State) (a1 : PendingWrite) : (keepPending s a1).mem = s.mem := by
  unfold keepPending
  simp [foldl_mem, ite_mem]
@[simp] theorem takePart_wf (s : State) (a1 : Nat) (a2 : Nat) (a3 : Nat) (a4 : Nat) (a5 : Nat) (a6 : PendingWrite) (h : storeWf s.mem = true) : storeWf (takePart s a1 a2 a3 a4 a5 a6).mem = true := by
  unfold takePart
  (repeat' (first | split | dsimp only)) <;> simp_all [foldl_mem, foldl_wf, ite_mem]
@[simp] theorem writeWide_wf (s : State) (a1 : Nat) (a2 : Nat) (a3 : Nat) (a4 : Nat) (a5 : Nat) (h : storeWf s.mem = true) : storeWf (writeWide s a1 a2 a3 a4 a5).mem = true := by
  unfold writeWide
  (repeat' (first | split | dsimp only)) <;> simp_all [foldl_mem, foldl_wf, ite_mem]
@[simp] theorem uartWriteNumber_wf (s : State) (a1 : Nat) (a2 : Nat) (a3 : Nat) (a4 : Nat) (a5 : ObjRow) (h : storeWf s.mem = true) : storeWf (uartWriteNumber s a1 a2 a3 a4 a5).mem = true := by
  unfold uartWriteNumber
  (repeat' (first | split | dsimp only)) <;> simp_all [foldl_mem, foldl_wf, ite_mem]
@[simp] theorem uartWrite_wf (s : State) (a1 : Nat) (a2 : Nat) (a3 : Nat) (a4 : Nat) (h : storeWf s.mem = true) : storeWf (uartWrite s a1 a2 a3 a4).mem = true := by
  unfold uartWrite
  (repeat' (first | split | dsimp only)) <;> simp_all [foldl_mem, foldl_wf, ite_mem]
@[simp] theorem partsExpire_mem (s : State) (key : Nat) : (partsExpire s key).mem = s.mem := by
  unfold partsExpire
  split
  · rfl
  · rw [State.modLinks_mem, State.runTo_mem]
@[simp] theorem uartOpen_mem (s : State) (a1 : Nat) (a2 : Nat) (a3 : Nat) (a4 : Nat) : (uartOpen s a1 a2 a3 a4).mem = s.mem := by
  unfold uartOpen
  simp [foldl_mem, ite_mem]
@[simp] theorem uartCommit_mem (s : State) (a1 : Nat) (a2 : Nat) : (uartCommit s a1 a2).mem = s.mem := by
  unfold uartCommit
  (repeat' (first | split | dsimp only)) <;> first | with_reducible rfl | simp [foldl_mem, ite_mem]
@[simp] theorem uartCancel_mem (s : State) (a1 : Nat) (a2 : Nat) : (uartCancel s a1 a2).mem = s.mem := by
  unfold uartCancel
  (repeat' (first | split | dsimp only)) <;> first | with_reducible rfl | simp [foldl_mem, ite_mem]
@[simp] theorem runLine_wf (s : State) (a1 : UartCmd) (h : storeWf s.mem = true) : storeWf (runLine s a1).mem = true := by
  unfold runLine
  (repeat' (first | split | dsimp only)) <;> simp_all [foldl_mem, foldl_wf, ite_mem]
@[simp] theorem endLine_wf (a0 : LineKind) (a1 : Bool) (s : State) (a3 : List RxChar) (h : storeWf s.mem = true) : storeWf (endLine a0 a1 s a3).mem = true := by
  unfold endLine
  (repeat' (first | split | dsimp only)) <;> simp_all [foldl_mem, foldl_wf, ite_mem]
@[simp] theorem countFlags_mem (s : State) (a1 : RxChar) : (countFlags s a1).mem = s.mem := by
  unfold countFlags
  simp [foldl_mem, ite_mem]
@[simp] theorem takeChar_wf (a0 : LineKind) (a1 : Bool) (s : State) (a3 : RxChar) (h : storeWf s.mem = true) : storeWf (takeChar a0 a1 s a3).mem = true := by
  unfold takeChar
  (repeat' (first | split | dsimp only)) <;> simp_all [foldl_mem, foldl_wf, ite_mem]
@[simp] theorem takeRate_mem (s : State) : (takeRate s).mem = s.mem := by
  unfold takeRate
  simp [foldl_mem, ite_mem]
@[simp] theorem lineArrives_wf (a0 : LineKind) (a1 : UartLine) (s : State) (h : storeWf s.mem = true) : storeWf (lineArrives a0 a1 s).mem = true := by
  unfold lineArrives
  (repeat' (first | split | dsimp only)) <;> simp_all [foldl_mem, foldl_wf, ite_mem]
@[simp] theorem publishPdo_mem (a0 : List Nat) (s : State) (a2 : Nat) : (publishPdo a0 s a2).mem = s.mem := by
  unfold publishPdo
  simp [foldl_mem, ite_mem]
@[simp] theorem publishPdos_mem (a0 : List Nat) (s : State) : (publishPdos a0 s).mem = s.mem := by
  unfold publishPdos
  simp [foldl_mem, ite_mem]
@[simp] theorem publishes_mem (s : State) : (publishes s).mem = s.mem := by
  unfold publishes
  simp [foldl_mem, ite_mem]
@[simp] theorem publication_wf (a0 : Sensors) (s : State) (h : storeWf s.mem = true) : storeWf (publication a0 s).mem = true := by
  unfold publication
  (repeat' (first | split | dsimp only)) <;> simp_all [foldl_mem, foldl_wf, ite_mem]

end Sys2Proof.Machine
end

