-- ==== Sys2Proof/Laws/Publish.lean ====
section
/-! SUPPORT. What the copies of a publication leave: registers below the forge area, and the state beside registers. -/

namespace Sys2Proof.Machine

/-- What the derived registers leave alone: every register below index 0x3100 and every field but the registers. -/
structure Below (s t : State) : Prop where
  reg : ∀ (r : Reg) (n : Nat), r.key n < 0x310000 → t.reg r n = s.reg r n
  clocks : t.clocks = s.clocks
  beat : t.beat = s.beat
  faults : t.faults = s.faults
  links : t.links = s.links
  power : t.power = s.power
  carrier : t.carrier = s.carrier
  run : t.run = s.run
  act : t.act = s.act
  images : t.images = s.images
  lanes : t.lanes = s.lanes

theorem Below.refl (s : State) : Below s s := ⟨fun _ _ _ => rfl, rfl, rfl, rfl, rfl, rfl, rfl, rfl, rfl, rfl, rfl⟩

theorem Below.trans {s t u : State} (h : Below s t) (k : Below t u) : Below s u :=
  ⟨fun r n hr => (k.reg r n hr).trans (h.reg r n hr), k.clocks.trans h.clocks, k.beat.trans h.beat, k.faults.trans h.faults,
    k.links.trans h.links, k.power.trans h.power, k.carrier.trans h.carrier, k.run.trans h.run, k.act.trans h.act,
    k.images.trans h.images, k.lanes.trans h.lanes⟩

theorem Below.foldl {α : Type} (f : State → α → State) (l : List α) (h : ∀ s, ∀ x ∈ l, Below s (f s x)) (s : State) :
    Below s (l.foldl f s) := by
  induction l generalizing s with
  | nil => exact Below.refl s
  | cons x l ih =>
    exact (h s x (by simp)).trans (ih (fun s y hy => h s y (by simp [hy])) _)

theorem putReg_below (s : State) (r : Reg) (n v : Nat) (hr : 0x310000 ≤ r.key n) : Below s (s.putReg r n v) := by
  unfold State.putReg
  split
  · exact Below.refl s
  · exact ⟨fun q m hq => State.reg_setReg_other _ _ (by omega), rfl, rfl, rfl, rfl, rfl, rfl, rfl, rfl, rfl, rfl⟩

theorem Reg.key_ge (r : Reg) (n : Nat) : r.base * 256 ≤ r.key n := by
  simp only [Reg.key]; omega

theorem putReg_high (s : State) (r : Reg) (n v : Nat) (hr : Nat.ble 12544 r.base = true) : Below s (s.putReg r n v) :=
  putReg_below _ _ _ _ (by
    have h := Nat.le_of_ble_eq_true hr
    have k := Reg.key_ge r n
    omega)

theorem queueFree_high (k : Nat) : Nat.ble 12544 (Reg.engQueueFree.at k).base = true := by
  show Nat.ble 12544 13329 = true
  decide

theorem foldl_putReg (r : Nat → Reg) (n v : Nat → Nat) (hr : ∀ k, Nat.ble 12544 (r k).base = true) (l : List Nat) (s : State) :
    Below s (l.foldl (fun t k => t.putReg (r k) (n k) (v k)) s) :=
  Below.foldl _ _ (fun _ k _ => putReg_high _ _ _ _ (hr k)) _

theorem three_puts (s : State) (a b c : Reg) (h x : Nat) (ha : Nat.ble 12544 a.base = true) (hb : Nat.ble 12544 b.base = true)
    (hc : Nat.ble 12544 c.base = true) (f : State → Nat) (g : State → Nat) :
    Below s (((s.putReg a h x).putReg b h (f (s.putReg a h x))).putReg c h (g (s.putReg a h x))) :=
  Below.trans (Below.trans (putReg_high _ _ _ _ ha) (putReg_high _ _ _ _ hb)) (putReg_high _ _ _ _ hc)

theorem deriveHarbour_below (s : State) (h : Nat) : Below s (deriveHarbour s h) := by
  have h1 := three_puts s Reg.engOutstanding Reg.qnTankWords Reg.qnSpareFree h (outstanding (s.harbour h)) rfl rfl rfl
    (fun t => tankWords t h) (fun t => spareFree t h)
  have h2 := foldl_putReg (fun k => Reg.engQueueFree.at (k % 4)) (fun k => 8 * h + k / 4)
    (fun k => 64 - ((s.harbour h).queue (k / 4) (k % 4)).length) (fun _ => queueFree_high _) (List.range 20)
  have h3 := h1.trans (h2 _)
  unfold deriveHarbour
  with_reducible exact h3

theorem deriveRegs_below (s : State) : Below s (deriveRegs s) := by
  unfold deriveRegs
  dsimp only
  refine Below.trans (Below.foldl _ _ ?_ _) (Below.foldl _ _ ?_ _)
  · intro s f _
    exact putReg_high _ _ _ _ rfl
  · intro s h _
    exact deriveHarbour_below s h

theorem copyOut_below (s : State) : Below s (copyOut s) :=
  ⟨fun _ _ _ => rfl, rfl, rfl, rfl, rfl, rfl, rfl, rfl, rfl, rfl, rfl⟩

theorem publishFirst_below (s : State) : Below s (publishFirst s) := (deriveRegs_below s).trans (copyOut_below _)

theorem Below.mode {s t : State} (h : Below s t) : t.mode = s.mode := by
  simp only [State.mode]; rw [h.reg _ _ (by decide)]

/-- The first publication of BOOT names the next one and leaves the rest (R270). -/
theorem startPublications_reg (s : State) (r : Reg) (n : Nat) (h : r.key n < 0x310000) :
    (startPublications s).reg r n = s.reg r n := (publishFirst_below _).reg r n h

theorem startPublications_mode (s : State) : (startPublications s).mode = s.mode := (publishFirst_below _).mode

theorem startPublications_faults (s : State) : (startPublications s).faults = s.faults := (publishFirst_below _).faults

theorem startPublications_beat (s : State) : (startPublications s).beat = s.beat := (publishFirst_below _).beat

end Sys2Proof.Machine
end

