-- ==== Sys2Proof/Laws/Registers.lean ====
section
/-! SUPPORT. What leaves every register of the dictionary as it is. -/

set_option linter.all false

namespace Sys2Proof.Machine
theorem foldl_regs {α : Type} (f : State → α → State) (h : ∀ s x, (f s x).regs = s.regs) (l : List α) (s : State) :
    (l.foldl f s).regs = s.regs := foldl_keep (fun t => t.regs) f h l s
theorem ite_regs (c : Prop) [Decidable c] (s t : State) : (if c then s else t).regs = if c then s.regs else t.regs := by
  split <;> rfl
@[simp] theorem State.modHarbour_regs (s : State) (a1 : Nat) (a2 : Harbour → Harbour) : (State.modHarbour s a1 a2).regs = s.regs := by
  unfold State.modHarbour
  simp [foldl_regs, ite_regs]
@[simp] theorem startTests_regs (s : State) (a1 : Test → Bool) : (startTests s a1).regs = s.regs := by
  unfold startTests
  with_reducible rfl
@[simp] theorem State.setTemper_regs (s : State) (a1 : Nat) (a2 : Nat) (a3 : Temper) : (State.setTemper s a1 a2 a3).regs = s.regs := by
  unfold State.setTemper
  simp [foldl_regs, ite_regs]
@[simp] theorem invalidateTemper_regs (s : State) (a1 : Nat) (a2 : Nat) (a3 : Nat) : (invalidateTemper s a1 a2 a3).regs = s.regs := by
  unfold invalidateTemper
  simp [foldl_regs, ite_regs]
@[simp] theorem modRunning_regs (s : State) (a1 : Nat) (a2 : Nat) (a3 : Nat) (a4 : Running → Running) : (modRunning s a1 a2 a3 a4).regs = s.regs := by
  unfold modRunning
  simp [foldl_regs, ite_regs]
@[simp] theorem advanceToken_regs (s : State) (a1 : Nat) (a2 : Nat) (a3 : Nat) : (advanceToken s a1 a2 a3).regs = s.regs := by
  unfold advanceToken
  simp [foldl_regs, ite_regs]
@[simp] theorem setCtx_regs (s : State) (a1 : Nat) (a2 : Nat) (a3 : Ctx) : (setCtx s a1 a2 a3).regs = s.regs := by
  unfold setCtx
  simp [foldl_regs, ite_regs]
@[simp] theorem dispatch_regs (s : State) (a1 : Nat) (a2 : Nat) (a3 : Nat) (a4 : Nat) (a5 : Nat) (a6 : Nat) : (dispatch s a1 a2 a3 a4 a5 a6).regs = s.regs := by
  unfold dispatch
  simp [foldl_regs, ite_regs]
@[simp] theorem commitCmd_regs (s : State) (a1 : Nat) (a2 : Nat) (a3 : Nat) : (commitCmd s a1 a2 a3).regs = s.regs := by
  unfold commitCmd
  simp [foldl_regs, ite_regs]
@[simp] theorem finish_regs (s : State) (a1 : Nat) (a2 : Nat) (a3 : Nat) (a4 : Nat) (a5 : Nat) : (finish s a1 a2 a3 a4 a5).regs = s.regs := by
  unfold finish
  simp [foldl_regs, ite_regs]
@[simp] theorem modKernel_regs (s : State) (a1 : Nat) (a2 : Nat) (a3 : Kernel → Kernel) : (modKernel s a1 a2 a3).regs = s.regs := by
  unfold modKernel
  simp [foldl_regs, ite_regs]
@[simp] theorem endKernel_regs (s : State) (a1 : Nat) (a2 : Nat) (a3 : Nat) (a4 : Nat) : (endKernel s a1 a2 a3 a4).regs = s.regs := by
  unfold endKernel
  simp [foldl_regs, ite_regs]
@[simp] theorem refreshes_regs (s : State) (a1 : Nat) (a2 : Nat) : (refreshes s a1 a2).regs = s.regs := by
  unfold refreshes
  simp [foldl_regs, ite_regs]
@[simp] theorem budgetEnds_regs (s : State) (a1 : Nat) (a2 : Nat) : (budgetEnds s a1 a2).regs = s.regs := by
  unfold budgetEnds
  (repeat' (first | split | dsimp only)) <;> first | with_reducible rfl | simp [foldl_regs, ite_regs]
@[simp] theorem invalidateAtStart_regs (s : State) (a1 : Nat) (a2 : Nat) (a3 : Cmd) : (invalidateAtStart s a1 a2 a3).regs = s.regs := by
  unfold invalidateAtStart
  simp [foldl_regs, ite_regs]
@[simp] theorem startHead_regs (s : State) (a1 : Nat) (a2 : Nat) (a3 : Nat) (a4 : Cmd) (a5 : List Cmd) : (startHead s a1 a2 a3 a4 a5).regs = s.regs := by
  unfold startHead
  simp [foldl_regs, ite_regs]
@[simp] theorem startListed_regs (s : State) (a1 : Nat) (a2 : Nat) (a3 : Nat) (a4 : Running) (a5 : Cmd) (a6 : List Cmd) : (startListed s a1 a2 a3 a4 a5 a6).regs = s.regs := by
  unfold startListed
  simp [foldl_regs, ite_regs]
@[simp] theorem startsCommand_regs (s : State) (a1 : Nat) (a2 : Nat) (a3 : Nat) : (startsCommand s a1 a2 a3).regs = s.regs := by
  unfold startsCommand
  (repeat' (first | split | dsimp only)) <;> first | with_reducible rfl | simp [foldl_regs, ite_regs]
theorem routine_regs (op : Nat) (g : State → Running → State) (hg : ∀ s r, (g s r).regs = s.regs) (h e q : Nat) (s : State) :
    (routine op g h e q s).regs = s.regs := by
  unfold routine
  (repeat' split) <;> first | rfl | exact hg _ _
theorem command_regs {op : Nat} {g : State → Running → State} (hg : ∀ s r, (g s r).regs = s.regs) {h e q : Nat} {s t : State}
    (hn : command op g h e q s = .next t) : t.regs = s.regs :=
  (onUnit_keeps (fun u => u.regs) (fun _ _ => rfl) hn).trans (routine_regs _ _ hg _ _ _ _)
@[simp] theorem State.modLane_regs (s : State) (a1 : Nat) (a2 : Lane → Lane) : (State.modLane s a1 a2).regs = s.regs := by
  unfold State.modLane
  simp [foldl_regs, ite_regs]
@[simp] theorem takeInject_regs (s : State) (a1 : Nat) : (takeInject s a1).2.regs = s.regs := by
  unfold takeInject
  simp [foldl_regs, ite_regs]
@[simp] theorem fecLocks_regs (s : State) (a1 : Nat) (a2 : List (List Nat)) : (fecLocks s a1 a2).regs = s.regs := by
  unfold fecLocks
  simp [foldl_regs, ite_regs]
@[simp] theorem injectError_regs (s : State) (a1 : Bool) (a2 : Nat) : (injectError s a1 a2).regs = s.regs := by
  unfold injectError
  simp [foldl_regs, ite_regs]
@[simp] theorem pinRuns_regs (a0 : Nat) (a1 : Nat) (s : State) (a3 : Running) : (pinRuns a0 a1 s a3).regs = s.regs := by
  unfold pinRuns
  simp [foldl_regs, ite_regs]
@[simp] theorem interrupt_regs (s : State) (a1 : Nat) (a2 : Nat) (a3 : FaultUnit) : (interrupt s a1 a2 a3).regs = s.regs := by
  unfold interrupt
  simp [foldl_regs, ite_regs]
@[simp] theorem sendPtp_regs (s : State) (a1 : Nat) (a2 : Nat) (a3 : Time96) (a4 : Int) (a5 : PtpFix) : (sendPtp s a1 a2 a3 a4 a5).regs = s.regs := by
  unfold sendPtp
  simp [foldl_regs, ite_regs]
@[simp] theorem delayRespArrives_regs (s : State) (a1 : PtpDelayResp) : (delayRespArrives s a1).regs = s.regs := by
  unfold delayRespArrives
  (repeat' (first | split | dsimp only)) <;> first | with_reducible rfl | simp [foldl_regs, ite_regs]
@[simp] theorem pdelayRespArrives_regs (s : State) (a1 : PtpPdelayResp) : (pdelayRespArrives s a1).regs = s.regs := by
  unfold pdelayRespArrives
  (repeat' (first | split | dsimp only)) <;> first | with_reducible rfl | simp [foldl_regs, ite_regs]
@[simp] theorem pdelayReqArrives_regs (s : State) (a1 : PtpPdelayReq) : (pdelayReqArrives s a1).regs = s.regs := by
  unfold pdelayReqArrives
  simp [foldl_regs, ite_regs]
@[simp] theorem syncLeaves_regs (s : State) (a1 : Nat) : (syncLeaves s a1).regs = s.regs := by
  unfold syncLeaves
  simp [foldl_regs, ite_regs]
@[simp] theorem delayReqLeaves_regs (s : State) (a1 : Nat) : (delayReqLeaves s a1).regs = s.regs := by
  unfold delayReqLeaves
  simp [foldl_regs, ite_regs]
@[simp] theorem delayReqArrives_regs (s : State) (a1 : PtpDelayReq) : (delayReqArrives s a1).regs = s.regs := by
  unfold delayReqArrives
  simp [foldl_regs, ite_regs]
@[simp] theorem claimUnit_regs (s : State) (a1 : FaultUnit) : (claimUnit s a1).regs = s.regs := by
  unfold claimUnit
  simp [foldl_regs, ite_regs]
@[simp] theorem testStarts_regs (s : State) (a1 : FaultUnit) : (testStarts s a1).regs = s.regs := by
  unfold testStarts
  (repeat' (first | split | dsimp only)) <;> first | with_reducible rfl | simp [foldl_regs, ite_regs]
@[simp] theorem tapAnswers_regs (s : State) (a1 : Nat) (a2 : Nat) : (tapAnswers s a1 a2).regs = s.regs := by
  unfold tapAnswers
  simp [foldl_regs, ite_regs]
@[simp] theorem dropSnapshot_regs (s : State) (a1 : Via) (a2 : Nat) : (dropSnapshot s a1 a2).regs = s.regs := by
  unfold dropSnapshot
  simp [foldl_regs, ite_regs]
@[simp] theorem endWrite_regs (s : State) (a1 : Nat) : (endWrite s a1).regs = s.regs := by
  unfold endWrite
  simp [foldl_regs, ite_regs]
@[simp] theorem cancelWrite_regs (a0 : Via) (a1 : Nat) (s : State) : (cancelWrite a0 a1 s).2.regs = s.regs := by
  unfold cancelWrite
  (repeat' (first | split | dsimp only)) <;> first | with_reducible rfl | simp [foldl_regs, ite_regs]
theorem onFd_regs (f : CanFrame) (s : State) (taken : State → State) (ht : (taken s).regs = s.regs) : (onFd f s taken).regs = s.regs := by
  unfold onFd
  split <;> first | rfl | exact ht
@[simp] theorem dropTransfer_regs (s : State) (a1 : Nat) : (dropTransfer s a1).regs = s.regs := by
  unfold dropTransfer
  (repeat' (first | split | dsimp only)) <;> first | with_reducible rfl | simp [foldl_regs, ite_regs]
@[simp] theorem aborts_regs (s : State) (a1 : Nat) (a2 : Nat) (a3 : Nat) : (aborts s a1 a2 a3).regs = s.regs := by
  unfold aborts
  simp [foldl_regs, ite_regs]
@[simp] theorem resetsCommunication_regs (s : State) (a1 : Nat) : (resetsCommunication s a1).regs = s.regs := by
  unfold resetsCommunication
  simp [foldl_regs, ite_regs]


end Sys2Proof.Machine
end

