-- ==== Sys2Proof/WellFormed.lean ====
section
/-! DEFINITION. What a command's operands must satisfy to be what their names say: unit numbers in the ranges of Table 0.4,
codes and fields inside their widths. The meanings are total and do not assume it; a command outside it is one that nothing on
the carrier can send. -/

namespace Sys2Proof

/-- A number of `n` bits. -/
def fits (n x : Nat) : Bool := decide (x < 2 ^ n)

/-- A TIME96 value in its canonical form (R33). -/
def Time96.wf (t : Time96) : Bool := fits 48 t.sec && decide (t.ns < 1000000000) && fits 16 t.frac

/-- A logical tile (R5, Table 0.4). -/
def TileId.wf (t : TileId) : Bool := decide (t.island < 64) && decide (t.col < 16) && decide (t.row < 16)

/-- A banked cycle visits physical columns, of which a row has 17 (R93, R110). -/
def TileId.physWf (t : TileId) : Bool := decide (t.island < 64) && decide (t.col < 17) && decide (t.row < 16)

def Seat.wf : Seat → Bool
  | .tile t _ => t.wf
  | .temper h u => decide (h < 16) && decide (u < 2)

/-- A read returns four 64-bit words (R371). -/
def ReadCheck.wf : ReadCheck → Bool
  | .lost p => decide (p < 4)
  | _ => true

/-- Engines and queues of a harbour (R177). -/
def queueWf (h e q : Nat) : Bool := decide (h < 16) && decide (e < 5) && decide (q < 4)

def Via.wf : Via → Bool
  | .can node => decide (node < 128)
  | .eth port addr udp => decide (port < 2) && fits 128 addr && fits 16 udp
  | .uart => true

def Datagram.wf (d : Datagram) : Bool :=
  fits 48 d.mac && decide (d.port < 2) && fits 128 d.addr && fits 16 d.udp && fits 16 d.magic && fits 8 d.version && fits 32 d.reqId
    && fits 16 d.length && fits 16 d.zero && fits 32 d.status && fits 32 d.crc

/-- An interleave has 224 symbols of 10 bits (R74). -/
def interleaveWf (symbols : List Nat) : Bool := decide (symbols.length = 224) && symbols.all (fits 10)

def LaneBlock.wf : LaneBlock → Bool
  | .interleave symbols _ => interleaveWf symbols
  | _ => true

/-- The mappings of R38 and the two ports. -/
def PtpVia.wf (v : PtpVia) : Bool := decide (v.port < 2) && decide (v.mapping < 3)

def RxChar.wf (c : RxChar) : Bool := fits 8 c.code

def UartLine.wf : UartLine → Bool
  | .chars _ cs => cs.all RxChar.wf
  | .samples _ _ => true

def MicroIssue.wf (i : MicroIssue) : Bool :=
  decide (i.h < 16) && decide (i.ctx < 10)
    && (match i.check with | .kCorrected r => decide (r < 32) | .kLost r => decide (r < 32) | _ => true)

/-- A unit of Table 17.2: the low 16 bits of `loc` are its place, the bits above them its word or line
(notes/assumptions/16.md). -/
def FaultUnit.wf (x : FaultUnit) : Bool := fits 6 x.kind && fits 8 x.unit && fits 48 x.loc

/-- Stores of a harbour that a scrub visits (R372). -/
def SramError.wf (e : SramError) : Bool := decide (e.store < 6)

def Carrier.wf (c : Carrier) : Bool := decide (c.grade < 3) && fits 48 c.mac0 && fits 48 c.mac1 && decide (c.nodeId < 128)
  && decide (c.stampOffsets.length = 1024) && decide (c.stampUncs.length = 256)

/-- A command whose operands lie in their ranges. -/
def Instr.wf : Instr → Bool
  | .powerUp b => b.carrier.wf
  | .reset b => b.carrier.wf
  | .actionDueInHeld slot => decide (slot < 16)
  | .actionCommit slot => decide (slot < 16)
  | .actionCancel slot => decide (slot < 16)
  | .timeActFieldWrite slot sub _ => decide (slot < 16) && fits 8 sub
  | .ptpSync m => m.via.wf && m.origin.wf
  | .ptpFollowUp m => m.via.wf && m.origin.wf
  | .ptpDelayResp m => m.via.wf && m.rx.wf
  | .ptpDelayReq m => m.via.wf
  | .ptpPdelayReq m => m.via.wf && decide (m.leave < 8)
  | .ptpPdelayResp m => m.via.wf
  | .ptpAnnounce m => m.via.wf
  | .signalPresent lane => decide (lane < 1024)
  | .lossOfSignal lane => decide (lane < 1024)
  | .blockLock lane _ => decide (lane < 1024)
  | .blockLockLoss lane _ => decide (lane < 1024)
  | .fecLock lane is => decide (lane < 1024) && is.all interleaveWf
  | .fecLockLoss lane => decide (lane < 1024)
  | .beatHeader lane _ _ => decide (lane < 1024)
  | .alignMarker lane _ _ _ => decide (lane < 1024)
  | .dataBlock lane b => decide (lane < 1024) && b.wf
  | .fillBlock lane => decide (lane < 1024)
  | .shoalTokenRelease shoal _ _ => decide (shoal < 256)
  | .laneConfigWrite lane sub _ => decide (lane < 1024) && fits 8 sub
  | .laneInjectFire tx lane _ => decide (lane < if tx then 256 else 1024)
  | .injectPeriodic tx lane => decide (lane < if tx then 256 else 1024)
  | .prbsLock lane _ => decide (lane < 1024)
  | .prbsLockLoss lane _ => decide (lane < 1024)
  | .ferryToken lane _ _ => decide (lane < 1024)
  | .ferryTokenRelease lane _ => decide (lane < 1024)
  | .triggerArrival t _ => t.wf
  | .orphanToken t _ _ => t.wf
  | .bankedCycle t _ => t.physWf
  | .nop u _ => u.wf
  | .rep u _ => u.wf
  | .pset u _ => u.wf
  | .ttest u _ => u.wf
  | .tflag u _ => u.wf
  | .recv u _ => u.wf
  | .send u _ => u.wf
  | .ldc u _ e => u.wf && e.wf
  | .ldw u _ e => u.wf && e.wf
  | .stw u _ => u.wf
  | .hpush u _ => u.wf
  | .hld u _ e => u.wf && e.wf
  | .acci u _ => u.wf
  | .dot u _ => u.wf
  | .accout u _ => u.wf
  | .accred u _ => u.wf
  | .vadd u _ => u.wf
  | .vsub u _ => u.wf
  | .vmul u _ => u.wf
  | .vfma u _ => u.wf
  | .vmax u _ => u.wf
  | .vmin u _ => u.wf
  | .vshr u _ => u.wf
  | .vcvt u _ => u.wf
  | .vbc u _ => u.wf
  | .vslide u _ => u.wf
  | .lut u _ => u.wf
  | .luti u _ => u.wf
  | .cmp u _ => u.wf
  | .testv u _ => u.wf
  | .sel u _ => u.wf
  | .mlog u _ => u.wf
  | .popc u _ => u.wf
  | .lda u _ => u.wf
  | .sta u _ => u.wf
  | .reda u _ => u.wf
  | .aradd u _ => u.wf
  | .br u _ => u.wf
  | .endKernel u _ => u.wf
  | .budgetExhausted h t => decide (h < 16) && decide (t < 2)
  | .forgeSoundLoaded f => decide (f < 16)
  | .forgeSoundReprime f => decide (f < 16)
  | .forgeSoundReload f => decide (f < 16)
  | .quenchFinalToken f input _ => decide (f < 16) && decide (input < 16)
  | .verdictIssue f _ => decide (f < 16)
  | .verdictRingArrival f h _ => decide (f < 16) && decide (h < 16)
  | .nopCommand h e q => queueWf h e q
  | .signal h e q => queueWf h e q
  | .list h e q => queueWf h e q
  | .copy h e q => queueWf h e q
  | .fill h e q => queueWf h e q
  | .fetch h e q => queueWf h e q
  | .store h e q => queueWf h e q
  | .pin h e q => queueWf h e q
  | .pinCopy h e q => queueWf h e q
  | .launch h e q => queueWf h e q
  | .rangePrefetch h e q => queueWf h e q
  | .rangeFlush h e q => queueWf h e q
  | .rangeInvalidate h e q => queueWf h e q
  | .sieveJob h e q => queueWf h e q
  | .pairJob h e q => queueWf h e q
  | .commandStart h e q => queueWf h e q
  | .commandComplete h e q => queueWf h e q
  | .engTokens h _ => decide (h < 16)
  | .engResume h e _ => decide (h < 16) && decide (e < 5)
  | .engCompletionsRead via h => via.wf && decide (h < 16)
  | .itemArrival h dq _ _ => decide (h < 16) && decide (dq < 4)
  | .itemDue h => decide (h < 16)
  | .itemTimeout h dq _ => decide (h < 16) && decide (dq < 4)
  | .reductionApply h => decide (h < 16)
  | .orderedReductionApply h => decide (h < 16)
  | .cacheHoldDirectMib h _ => decide (h < 16)
  | .hbmRefresh h _ => decide (h < 16)
  | .hbmScrub h _ _ => decide (h < 16)
  | .seqNext i => i.wf
  | .seqJump i => i.wf
  | .seqJumpP i => i.wf
  | .seqBranch i => i.wf
  | .seqCall i => i.wf
  | .seqReturn i => i.wf
  | .seqWait i => i.wf
  | .seqEnd i => i.wf
  | .routineRestart h ctx => decide (h < 16) && decide (ctx < 10)
  | .snapshotExpiry via key => via.wf && fits 24 key
  | .uartPartExpiry key => fits 24 key
  | .domainSessionIdle key => fits 24 key
  | .domainReadIdle via key => via.wf && fits 24 key
  | .registerWrite index sub _ => fits 16 index && fits 8 sub
  | .read d => d.wf
  | .write d => d.wf
  | .domainOpen d => d.wf
  | .domainChunk d => d.wf
  | .domainCommit d => d.wf
  | .domainCancel d => d.wf
  | .domainRead d => d.wf
  | .subscribe d => d.wf
  | .close d => d.wf
  | .sessionTimeout via => via.wf
  | .arpRequest _ port mac target => decide (port < 2) && fits 48 mac && fits 32 target
  | .icmpEcho _ port mac v6 target _ => decide (port < 2) && fits 48 mac && fits (if v6 then 128 else 32) target
  | .neighbourSolicitation _ port mac target _ => decide (port < 2) && fits 48 mac && fits 128 target
  | .ethLinkChange port _ => decide (port < 2)
  | .usdoUpload _ node index sub _ => decide (node < 128) && fits 16 index && fits 8 sub
  | .usdoDownload _ node index sub size _ => decide (node < 128) && fits 16 index && fits 8 sub && fits 32 size
  | .usdoAbort _ node index sub => decide (node < 128) && fits 16 index && fits 8 sub
  | .nmtStartRemoteNode node => decide (node < 128)
  | .nmtStopRemoteNode node => decide (node < 128)
  | .nmtEnterPreOperational node => decide (node < 128)
  | .nmtResetNode node => decide (node < 128)
  | .nmtResetCommunication node => decide (node < 128)
  | .tpdoEventTimer pdo => decide (pdo < 16)
  | .receivePdo _ pdo data => decide (pdo < 8) && decide (data.length ≤ 64)
  | .uartReadLine l => l.wf
  | .uartWriteLine l => l.wf
  | .uartOpenLine l => l.wf
  | .uartCommitLine l => l.wf
  | .uartCancelLine l => l.wf
  | .slotBurst slot _ => decide (slot < 8)
  | .slotAbsent slot => decide (slot < 8)
  | .digest lane _ => decide (lane = 2 ∨ lane = 3)
  | .harbourScrub h e => decide (h < 16) && (match e with | some x => x.wf | none => true)
  | .testStart x => x.wf
  | .testForcedStart x => x.wf
  | .testComplete x _ => x.wf
  | .bistLogic unit => decide (unit < 80)
  | .bistMemory unit => decide (unit < 80)
  | .bistBoth unit => decide (unit < 80)
  | .pwrDomainOn d _ => decide (d < 128)
  | .rampComplete d _ => decide (d < 128)
  | .domainFailed d => decide (d < 128)
  | .hearthLockTimeout => true
  | .hearthUnlock => true
  | .refclkAbsent => true
  | .beatBoundary => true
  | .ptpManagement => true
  | .ptpSyncTx eighth => decide (eighth < 8)
  | .ptpDelayReqTx eighth => decide (eighth < 8)
  | .announceReceiptTimeout => true
  | .ptpPortLinkDown => true
  | .timePtpEnable _ => true
  | .dbgHazClear _ => true
  | .soundingEnd => true
  | .soundLost => true
  | .shadowLoadComplete => true
  | .imgShadowLoad _ => true
  | .publication _ => true
  | .mainRailTimeout => true
  | .mainPowerRemoval => true
  | .heartbeat => true
  | .sync => true
  | .emcyTransmit => true
  | .busOff => true
  | .busOffRecovery => true
  | .silushCycleStart => true
  | .slot0Beat _ => true
  | .slot0Phase _ => true
  | .slot0Range _ => true
  | .rangingReturn _ => true
  | .ownBurst _ => true
  | .silReenable _ => true
  | .activate => true
  | .noBeatTimeout => true
  | .start => true
  | .stop => true
  | .hold => true
  | .rearm => true
  | .drainEnd => true
  | .fltLogClear _ => true
  | .bistComplete _ _ _ => true
  | .jtagIdcode => true
  | .jtagBypass _ => true
  | .canErrorPassive _ => true

end Sys2Proof
end

