-- ==== Sys2Proof/Tests/Slice0.lean ====
section
/-! SUPPORT. Tests: operands that WellFormed refuses; for every statement a state and operands that meet its hypotheses; and
results that the manual prints or that a few lines of arithmetic give. -/

set_option linter.all false
set_option Elab.async false

namespace Sys2Proof.Machine

/-! ### Small states -/

/-- Reset, but in a state of Table 15.1. -/
def tMode (m : Mode) : State := State.reset.setReg Reg.idState 0 m.code

/-- Registers set one after another. -/
def tRegs (s : State) (l : List (Reg × Nat × Nat)) : State := l.foldl (fun s x => s.setReg x.1 x.2.1 x.2.2) s

/-- The tile, plane 0, that the tests use. -/
def tTile : TileId := { island := 0, col := 0, row := 0 }
def tSeat : Seat := .tile tTile false

def tFields (fmt d a b : Nat) (x : Nat) : AnvilFields :=
  { pn := false, ps := 0#3, rm := 0#2, fmt := BitVec.ofNat 8 fmt, d := BitVec.ofNat 4 d, a := BitVec.ofNat 4 a,
    b := BitVec.ofNat 4 b, x := BitVec.ofNat 32 x }

def tInstance (rf : Regfile) : Instance :=
  { rf := rf, start := 1, slot := 0, pos := 0, beat := 0#48, ordinal := 0, rep := none, wrote := [] }

/-- A tile whose instance has this instruction next. -/
def tProgram (op : Nat) (f : AnvilFields) (rf : Regfile) : Tile :=
  { Tile.empty with inst := some (tInstance rf), prog0 := [encodeWord op f, encodeWord 0 (tFields 0 0 0 0 0)] }

def tReady (op : Nat) (f : AnvilFields) (rf : Regfile) : State := State.reset.setTile tTile false (tProgram op f rf)

theorem tReady_tile (op : Nat) (f : AnvilFields) (rf : Regfile) : (tReady op f rf).tile tTile false = tProgram op f rf := by
  exact tabGet_tabSet_same _ _ _ _

/-- Every statement about an instruction that a tile runs next has such a state, with the instruction's own operands. -/
theorem witness_readyAt_tile (op : Nat) (f : AnvilFields) (rf : Regfile) (h : tagPlane rf.it = false) :
    readyAt (tReady op f rf) tSeat op f rf := by
  refine ⟨rfl, tInstance rf, ?_, rfl, h, rfl, ?_, ?_, ?_⟩ <;> rw [tReady_tile] <;> simp [tProgram, tInstance, progOf, Tile.empty]

/-- A kernel of temper 0 of harbour 0 at address 0x40 of space 0. -/
def tKernel (rf : Regfile) : Kernel :=
  { rf := rf, ar := List.replicate 8 0x40#64, budget := 9, executed := 0, pos := 0, slot := 0, rep := none, addr := 0x40, len := 8, seedIndex := 0, tag := 0,
    queue := 0, status := 0, detail := 0, ended := false, done := none, arrived := [] }

def tTempered (op : Nat) (f : AnvilFields) (rf : Regfile) : State :=
  (State.reset.setReg Reg.hbmState 0 1).setTemper 0 0
    { Temper.empty with data := [{ line := 1, data := 0#512, dirty := false, poison := false }], instr := [{ line := 1, data := (encodeWord op f).setWidth 512, dirty := false, poison := false }], kernel := some (tKernel rf) }

/-- A beat count in beat 5. -/
def tBeats (m : Mode) : State := { tMode m with beat := { BeatCount.off with on := true, n := 5#48 } }

/-! ### Operands that WellFormed refuses -/

theorem test_fits_refuses : fits 16 65536 = false := by decide +kernel
theorem test_time_refuses : Time96.wf { sec := 0, ns := 1000000000, frac := 0 } = false := by decide +kernel
theorem test_tile_refuses : TileId.wf { island := 0, col := 16, row := 0 } = false := by decide +kernel
theorem test_phys_refuses : TileId.physWf { island := 64, col := 16, row := 0 } = false := by decide +kernel
theorem test_seat_refuses : Seat.wf (.temper 0 2) = false := by decide +kernel
theorem test_readCheck_refuses : ReadCheck.wf (.lost 4) = false := by decide +kernel
theorem test_queue_refuses : queueWf 0 5 0 = false := by decide +kernel
theorem test_via_refuses : Via.wf (.can 128) = false := by decide +kernel
def tDatagram (port mac : Nat) : Datagram :=
  { frame := .whole, mac := mac, port := port, addr := 0, udp := 0, magic := 0, version := 0, reqId := 0, length := 0, zero := 0, status := 0, payload := [], crc := 0 }
theorem test_datagram_refuses : Datagram.wf (tDatagram 2 0) = false ∧ Datagram.wf (tDatagram 1 (2 ^ 48)) = false := by decide +kernel
theorem test_interleave_refuses : LaneBlock.wf (.interleave (List.replicate 223 0 ++ [1024]) []) = false ∧ LaneBlock.wf (.interleave [0] []) = false := by decide +kernel
theorem test_ptpVia_refuses : PtpVia.wf { port := 0, mapping := 3, frame := .whole } = false := by decide +kernel
theorem test_rxChar_refuses : RxChar.wf { code := 256, framing := false, parity := false, brk := false } = false := by decide +kernel
theorem test_uartLine_refuses : UartLine.wf (.chars false [{ code := 256, framing := false, parity := false, brk := false }]) = false := by decide +kernel
theorem test_microIssue_refuses : MicroIssue.wf { h := 0, ctx := 10, word := 0#24, nano := 0#144, cond := false, check := .clean } = false := by decide +kernel
theorem test_faultUnit_refuses : FaultUnit.wf { kind := 64, unit := 0, loc := 0 } = false := by decide +kernel
theorem test_sramError_refuses : SramError.wf { store := 6, line := 0, lost := false } = false := by decide +kernel
theorem test_carrier_refuses : Carrier.wf { Carrier.blank with grade := 3 } = false := by decide +kernel
theorem test_instr_refuses : Instr.wf (.verdictIssue 16 false) = false := by decide +kernel
theorem test_instr_operands_refuse : Instr.wf (.ptpSyncTx 8) = false ∧ Instr.wf (.usdoUpload .classical 128 0x1000 0 false) = false ∧
    Instr.wf (.arpRequest .whole 0 (2 ^ 48) 0) = false ∧ Instr.wf (.fecLock 0 [[0]]) = false := by decide +kernel
theorem test_instr_accepts : Instr.wf (.verdictIssue 15 false) = true := by decide +kernel

/-! ### What meets the statements' hypotheses: boot, time and clock -/

def tBoot (testEn mainPresent refclk : Bool) : BootInputs :=
  { carrier := Carrier.blank, testEn := testEn, mainPresent := mainPresent, refclk := refclk, hearthLocks := false, failedDomains := [],
    failedStacks := [], failedBist := [] }

/-- For StepRunsFrontOfQueue. -/
theorem witness_step_idle : State.reset.pending = [] := by decide +kernel
/-- For CommandsEndAsPresenceSays. -/
theorem witness_presence : present State.reset (.signalPresent 1023) = true ∧ present State.reset (.signalPresent 1024) = false := by decide +kernel
/-- For EveryStepKeepsMemoryForm. -/
theorem witness_keepsMemory : Memory.wf State.reset = true ∧ step State.reset = .next (State.reset.advance 1) := ⟨by decide, rfl⟩
/-- For PowerAndClocksEnterBootOrFaulted. -/
theorem witness_powerUp : State.reset.mode = .off ∧ (tBoot true true true).testEn = true ∧
    ((tBoot false true true).testEn = false ∧ (tBoot false true true).mainPresent = true ∧ (tBoot false true true).refclk = true ∧
      (tBoot false true true).hearthLocks = false) ∧
    ((tBoot false true false).testEn = false ∧ (tBoot false true false).mainPresent = true ∧ (tBoot false true false).refclk = false) := by decide +kernel

/-- RUNNING with the clocks up. -/
def tClocks (m : Mode) : State := { tMode m with clocks := { State.reset.clocks with hearth := true, refclk := true } }

/-- For PowerAndClocksEnterBootOrFaulted. -/
theorem witness_clockLoss : ((tMode .boot).mode = .boot ∧ (tMode .boot).power.testEn = false ∧ (tMode .boot).clocks.hearth = false) ∧
    (tClocks .running).mode ≠ .off ∧ (tClocks .running).clocks.hearth = true ∧ (tClocks .running).clocks.refclk = true ∧
    (tClocks .running).mode = .running ∧ (tClocks .running).links.emcys.length < 32 := by decide +kernel

/-- For BoundariesAndActionSlots. -/
theorem witness_boundary : ((tBeats .stopped).beat.on = true ∧ (tBeats .stopped).mode.flows = true) ∧
    ((tBeats .held).beat.on = true ∧ (tBeats .held).mode = .held ∧ (tBeats .held).act.phase ≠ 4 ∧ awaitingPeers (tBeats .held) = []) ∧
    (let s := { tBeats .armed with run := { Run.none with holdAt := some 6#48 } }
     s.beat.on = true ∧ s.mode = .armed ∧ s.run.holdAt = some (s.beat.n + 1#48)) := by decide +kernel

/-- Slot 15 with a kind, a beat and mode bits. -/
def tSlot (m : Mode) (kind beat mode status : Nat) : State :=
  tRegs (tBeats m) [(Reg.actKind, 15, kind), (Reg.actBeat, 15, beat), (Reg.actMode, 15, mode), (Reg.actStatus, 15, status)]

/-- For BoundariesAndActionSlots. -/
theorem witness_actionCommit : (15 < 16 ∧ (tSlot .held 2 0 1 0).mode.online = true ∧ (tSlot .held 2 0 1 0).reg Reg.actStatus 15 ≠ 1 ∧
      2 ≤ (tSlot .held 2 0 1 0).reg Reg.actKind 15 ∧ (tSlot .held 2 0 1 0).reg Reg.actKind 15 ≤ 5 ∧
      (tSlot .held 2 0 1 0).reg Reg.actArg 15 &&& argMask 2 = (tSlot .held 2 0 1 0).reg Reg.actArg 15 ∧
      bit ((tSlot .held 2 0 1 0).reg Reg.actMode 15) 0 = true ∧ (tSlot .held 2 0 1 0).mode = .held) ∧
    ((tSlot .armed 5 5 1 0).mode ≠ .held ∧ beatDiff (BitVec.ofNat 48 ((tSlot .armed 5 5 1 0).reg Reg.actBeat 15)) 5#48 ≤ 0 ∧
      bit ((tSlot .armed 5 5 1 0).reg Reg.actMode 15) 1 = false ∧
      (tSlot .armed 5 5 1 0).reg Reg.actArg 15 &&& argMask 5 = (tSlot .armed 5 5 1 0).reg Reg.actArg 15) ∧
    ((tSlot .armed 2 0 3 0).mode ≠ .held ∧ bit ((tSlot .armed 2 0 3 0).reg Reg.actMode 15) 0 = true ∧
      bit ((tSlot .armed 2 0 3 0).reg Reg.actMode 15) 1 = true) := by decide +kernel
/-- For BoundariesAndActionSlots. -/
theorem witness_actionOthers : ((tSlot .held 2 0 1 1).mode.online = true ∧ (tSlot .held 2 0 1 1).reg Reg.actStatus 15 = 1 ∧
      (tSlot .held 2 0 1 1).reg Reg.actKind 15 ≠ 6) ∧ 2 ≤ (tSlot .held 2 0 1 5).reg Reg.actStatus 15 ∧
    ((tSlot .held 2 0 2 1).mode = .held ∧ (tSlot .held 2 0 2 1).reg Reg.actStatus 15 = 1 ∧ actBeatOf (tSlot .held 2 0 2 1) 15 = none) := by decide +kernel

/-! ### PTP and lanes -/

def tPtp (l : List (Reg × Nat × Nat)) (servo : Servo) : State :=
  { tRegs (tMode .held) ([(Reg.ptpEnable, 0, 1), (Reg.ethEnable, 1, 1), (Reg.ptpMapping, 0, 0), (Reg.ptpPort, 0, 0)] ++ l) with servo := servo }
def tMaster : Servo := { Servo.free with selected := some 7 }
def tT0 : Time96 := { sec := 0, ns := 0, frac := 0 }
def tVia : PtpVia := { port := 0, mapping := 0, frame := .whole }
def tSync (two : Bool) : PtpSync := { via := tVia, master := 7, seq := 3, domain := 0, twoStep := two, logInterval := -7, origin := tT0, age := 7, correction := 0 }

/-- For PtpMasterMovesServo. -/
theorem witness_ptpSync : ((tSync true).via.frame = .whole ∧ ptpHears (tPtp [] tMaster) tVia 0 = true ∧ tMaster.selected = some (tSync true).master ∧ tMaster.lost = false ∧
      -7 ≤ (tSync true).logInterval ∧ (tSync true).logInterval ≤ 1 ∧ (tPtp [] tMaster).reg Reg.timeState = 0) ∧
    ((tPtp [(Reg.timeState, 0, 1)] tMaster).reg Reg.timeState ≠ 0 ∧ (tSync true).twoStep = true ∧ (tSync false).twoStep = false) ∧
    (let s := tPtp [(Reg.timeState, 0, 1), (Reg.timeRelockCount, 0, 1), (Reg.timeGuardNs, 0, 1)] tMaster
     s.reg Reg.timeState = 1 ∧ s.reg Reg.timeRelockCount ≤ s.servo.good + 1 ∧
       (unitsDiff (timeUnits (s.stampAt 7 8) - s.reg Reg.ptpRxLat) (timeUnits tT0 + 0 + s.servo.delay)).natAbs ≤ s.reg Reg.timeGuardNs * 65536) := by
  decide +kernel
/-- For PtpMasterMovesServo. -/
theorem witness_ptpFollowAnnounce : (let s := tPtp [] { tMaster with waiting := some (tSync true, 9) }
     ptpHears s tVia 0 = true ∧ s.servo.selected = some 7 ∧ s.servo.lost = false ∧ s.servo.waiting = some (tSync true, 9) ∧ (tSync true).master = 7) ∧
    (let s := tPtp [] Servo.free
     ptpHears s tVia 0 = true ∧ s.reg Reg.ptpRole = 0 ∧ s.servo.masters = [] ∧ s.servo.selected = none) ∧
    ptpHears (tPtp [] tMaster) tVia 1 = false ∧ ptpHears (tPtp [] tMaster) { tVia with mapping := 2 } 0 = false ∧
    ((tPtp [] tMaster).mode ≠ .off ∧ (tPtp [] tMaster).flag Reg.ethEnable 1 = true ∧ EthFrame.tagged ≠ .whole) ∧
    (tPtp [] tMaster).reg Reg.ptpMapping = 0 := by decide +kernel
/-- For PtpDelaysAndLoss. -/
theorem witness_ptpDelays : (let s := tPtp [(Reg.ptpDelay, 0, 0)] { tMaster with request := some (3, 0), lastSync := some (0, 0) }
     ptpHears s tVia 0 = true ∧ s.servo.selected = some 7 ∧ s.servo.lost = false ∧ s.reg Reg.ptpDelay = 0 ∧ s.servo.request = some (3, 0) ∧
       s.servo.lastSync = some (0, 0)) ∧
    (let s := tPtp [(Reg.ptpDelay, 0, 1)] { tMaster with request := some (3, 0) }
     ptpHears s tVia 0 = true ∧ s.reg Reg.ptpDelay = 1 ∧ s.servo.request = some (3, 0)) ∧
    (let s := tPtp [(Reg.ptpRole, 0, 1), (Reg.ptpDelay, 0, 0)] Servo.free
     isMaster s = true ∧ ptpHears s tVia 0 = true ∧ s.reg Reg.ptpDelay = 0) ∧
    (let s := tPtp [] tMaster
     ptpRuns s = true ∧ s.servo.selected.isSome = true ∧ s.servo.lost = false) := by decide +kernel
/-- For PtpDelaysAndLoss. -/
theorem witness_ptpLoss : (let s := tPtp [(Reg.timeState, 0, 1)] tMaster
     ptpRuns s = true ∧ s.servo.selected.isSome = true ∧ s.servo.lost = false ∧ s.reg Reg.timeState = 1) ∧
    (tPtp [(Reg.timeState, 0, 2)] tMaster).reg Reg.timeState = 2 ∧ (tMode .held).mode = .held ∧ (tMode .held).act.phase = 0 := by decide +kernel

/-- The last lane of an 11-island-row wafer of grade 0, with power. -/
def tLane (l : List (Reg × Nat × Nat)) (x : Lane) : State :=
  (tRegs (tMode .armed) ((Reg.pwrDomainState, 79, 2) :: (Reg.pwrDomainState, 111, 2) :: (Reg.pwrDomainState, 127, 2) :: l)).setLane 1023 x

/-- For LaneLocksAndEnables. -/
theorem witness_laneLocks : (let s := tLane [(Reg.laneEnable, 1023, 1)] Lane.down
     s.hasLane 1023 = true ∧ s.lanePowered 1023 = true ∧ s.reg Reg.laneEnable 1023 ≠ 0 ∧ s.reg Reg.laneState 1023 = 0 ∧ (s.lane 1023).blockLock = false) ∧
    (let s := tLane [(Reg.laneState, 1023, 1), (Reg.laneFec, 1023, 0)] { Lane.down with signal := true }
     (List.replicate 64 1#2).length = 64 ∧ (∀ x ∈ List.replicate 64 1#2, x = 1#2 ∨ x = 2#2) ∧ (s.lane 1023).injectBits = 0 ∧ s.reg Reg.laneState 1023 = 1 ∧ (s.lane 1023).signal = true ∧ (s.reg Reg.laneFec 1023 = 0 ∨ (s.lane 1023).fecLock = true)) ∧
    (let s := tLane [(Reg.laneState, 1023, 6)] Lane.down
     2 ≤ s.reg Reg.laneState 1023 ∧ s.reg Reg.laneState 1023 ≤ 6 ∧ (s.lane 1023).injectBits = 0 ∧
       16 ≤ ((List.replicate 64 0#2).filter fun x => x == 0#2 || x == 3#2).length) ∧
    (let s := tLane [(Reg.laneState, 1023, 1), (Reg.laneFec, 1023, 1)] { Lane.down with signal := true }
     s.reg Reg.laneFec 1023 ≠ 0 ∧ s.reg Reg.laneState 1023 = 1 ∧ (s.lane 1023).signal = true ∧ (s.lane 1023).injectBits = 0 ∧
       isClean (List.replicate 224 0) = true) ∧
    (let s := tLane [(Reg.laneState, 1023, 2), (Reg.laneFec, 1023, 1)] { Lane.down with fecBad := 8 }
     s.reg Reg.laneFec 1023 ≠ 0 ∧ 8 ≤ (s.lane 1023).fecBad ∧ 2 ≤ s.reg Reg.laneState 1023 ∧ s.reg Reg.laneState 1023 ≤ 6) := by decide +kernel
/-- For LaneLocksAndEnables. -/
theorem witness_laneEnables : (let s := (tMode .held).setLane 0 { Lane.down with signal := true }
     s.hasLane 0 = true ∧ s.mode = .held ∧ s.act.phase = 0 ∧ s.reg Reg.laneState 0 = 0 ∧ (s.lane 0).signal = true ∧ (s.lane 0).blockLock = false) ∧
    (tMode .faulted).hasLane 0 = true ∧ (tMode .faulted).mode ≠ .held ∧ (tMode .faulted).mode ≠ .off := by decide +kernel

/-- A shoal of one lane with one token a beat, and two ferries. -/
def tShoal : ShoalPlan :=
  { shoal := 0, lanes := [(0, 0)], width := 4, format := 0x10, marker := 64, group := 0xFF, release := [(0, [40])], forgings := [0] }
def tForging : ForgingPlan :=
  { forging := 0, target := 512, minPeriod := 1600, home := 0, cls := 0, refs := [], windows := [], inputs := [1], tiles := [], portFormats := [],
    links := [{ src := .shoal 0 0, dst := .quench 0, path := [] }], remote := [] }
def tFerry : FerryPlan := { lane := 1, transmit := false, mate := 2, slots := [0], soundSlot := 0, forging := 0, format := 0x10, seqs := [5] }
def tImage : ImagePlan := { debug := true, forgings := [tForging], shoals := [tShoal], parts := [], ferries := [tFerry] }

def tActive (m : Mode) (l : List (Reg × Nat × Nat)) : State :=
  { tRegs (tBeats m) l with images := { Images.none with main := some tImage, active := some tImage } }

/-- For LaneBlocksLand. -/
theorem witness_laneBlocks : (let s := (tActive .armed [(Reg.laneState, 0, 4)]).setLane 0 { Lane.down with beat := some 5#48 }
     let b := rebuildBeat s.beat.n ((0x6#64 <<< 40).extractLsb' 40 16)
     s.hasLane 0 = true ∧ s.laneHome 0 = some (tShoal, 0) ∧ (s.lane 0).injectBits = 0 ∧ s.reg Reg.laneState 0 = 4 ∧ isMarkerBeat tShoal b = false ∧
       1 ≤ beatDiff b s.beat.n ∧ beatDiff b s.beat.n ≤ 64 ∧ (s.lane 0).beat = some (b - 1#48)) ∧
    (let s := tActive .armed [(Reg.laneState, 0, 2)]
     let a : Word64 := 64#64
     s.reg Reg.laneState 0 = 2 ∧ field a.toNat 48 8 = tShoal.shoal ∧ field (0#64).toNat 50 6 = 0 ∧ isMarkerBeat tShoal (a.extractLsb' 0 48) = true ∧
       1 ≤ beatDiff (a.extractLsb' 0 48) s.beat.n ∧ beatDiff (a.extractLsb' 0 48) s.beat.n ≤ 64) ∧
    (let s := (tActive .armed [(Reg.laneState, 0, 4)]).setLane 0 { Lane.down with beat := some 5#48, count := 3 }
     s.reg Reg.laneState 0 = 4 ∧ s.reg Reg.laneRole 0 ≠ 1 ∧ (s.lane 0).beat = some 5#48 ∧ (s.lane 0).count < tShoal.width ∧ (s.lane 0).words.length < 512) := by
  decide +kernel
/-- For InjectionShoalsAndFerries. -/
theorem witness_injection : (let s := tRegs (tMode .held) [(Reg.laneInjectMode, 1023, 5), (Reg.xlaneInjectMode, 255, 1)]
     s.hasLane 1023 = true ∧ s.hasXlane 255 = true ∧ s.mode.online = true ∧ injectMode s false 1023 % 4 = 1 ∧ injectMode s true 255 % 4 = 1) ∧
    (let s := tRegs (tMode .held) [(Reg.laneInjectMode, 1023, 2), (Reg.laneState, 1023, 7), (Reg.lanePrbsLock, 1023, 1)]
     injectMode s false 1023 % 4 = 2 ∧ s.reg Reg.laneState 1023 = 7 ∧ (s.lane 1023).injectBits = 0) ∧
    (let x := { Prbs.idle with fill := 31 }
     x.hist < 2 ^ 31 ∧ x.locked = false ∧ x.run = 0 ∧ ∀ poly < 4, (prbsTaps poly).1 ≤ x.fill) ∧
    (let x := { Prbs.idle with locked := true }
     x.locked = true ∧ x.seen = 0 ∧ x.bad = []) := by decide +kernel
/-- For InjectionShoalsAndFerries. -/
theorem witness_shoalRelease : (let s := tActive .running []
     s.hasHarbour (0 / 16) = true ∧ s.shoalPlan 0 = some tShoal ∧ (tShoal.lanes.find? fun x => x.2 = 0) = some (0, 0) ∧
       releaseOffset tShoal 0 0 = some 40 ∧ s.mode.flows = true ∧ 0 < tShoal.width / 4 ∧ (s.shoalBeat 0 s.beat.n).released.contains (0, 0) = false) := by
  decide +kernel

def tFerried : State :=
  ((tActive .armed [(Reg.laneRole, 1, 1), (Reg.laneState, 1, 4)]).setLane 1 { Lane.down with ferryRelease := [100] }).setQuench 0
    { Quench.empty with planes := [(0#48, false)] }
def tFerryTag : Tag := makeTag 5#16 0 false true 0#5 false 5#4
def tFerryHeader : Word64 := 0#8 ++ tFerryTag ++ 0#8 ++ BitVec.ofNat 16 (ferryCrc tFerryTag [0, 0, 0, 0])

/-- For InjectionShoalsAndFerries. -/
theorem witness_ferries : (let s := tFerried
     let n := rebuildBeat s.beat.n (tagBeat tFerryTag)
     s.hasLane 1 = true ∧ (s.lane 1).injectBits = 0 ∧ s.reg Reg.laneRole 1 = 1 ∧ s.reg Reg.laneState 1 = 4 ∧ ferryPlan s 1 = some tFerry ∧
       tFerryHeader.extractLsb' 24 32 = tFerryTag ∧
       ferryCrc tFerryTag ((tokenWords 0#256).map BitVec.toNat) = field tFerryHeader.toNat 0 16 ∧ tagValid tFerryTag = true ∧
       ferrySlot tFerry (tagSeq tFerryTag).toNat = some 0 ∧ s.clocks.cycle ≤ s.boundaryAt n + (s.lane 1).ferryRelease.getD 0 0 ∧
       (s.lane 1).ferryDone.contains (0, n) = false ∧ (s.lane 1).ferryTokens.length < 64 ∧
       0 < tFerry.seqs.length ∧ s.mode.flows = true ∧ s.planeFor tFerry.forging (s.beat.n - BitVec.ofNat 48 (100 / s.beat.period)) = some false) := by
  decide +kernel

/-! ### Tiles and the Anvil -/

def tPlan : TilePlan :=
  { tile := tTile, trigger := .w, program := [], formats := [], drawId := 0, workBytes := 64, constants := [],
    histories := [{ h := 15, base := 0, width := 1, depth := 1, prime := [0#256] }] }
def tToken (at' : Nat) : Timed := { at' := at', tok := { data := 9#256, tag := makeTag 5#16 0 false true 0#5 false 5#4 } }
def tLined (tl : Tile) (p : Port) (x : Timed) : State :=
  { State.reset.setTile tTile false tl with lines := [(lineKey tTile p false, [x])] }

/-- For TriggerWritesRegisters. -/
theorem witness_trigger : (let tl := { Tile.empty with plan0 := some tPlan, prog0 := [encodeWord 0 (tFields 0 0 0 0 0)] }
     let s := tLined tl .w (tToken 1)
     s.hasTile tTile = true ∧ planOf (s.tile tTile false) false = some tPlan ∧ lineHead s tTile tPlan.trigger false = some (tToken 1) ∧
       tagValid (tToken 1).tok.tag = true ∧ tagPlane (tToken 1).tok.tag = false ∧ (s.tile tTile false).busyTo < (tToken 1).at' ∧
       progOf (s.tile tTile false) false = encodeWord 0 (tFields 0 0 0 0 0) :: []) := by decide +kernel
/-- For TilesDiscardClearAndServe. -/
theorem witness_busyAndOrphan : (let s := tLined { Tile.empty with plan0 := some tPlan, busyTo := 1 } .w (tToken 1)
     s.hasTile tTile = true ∧ planOf (s.tile tTile false) false = some tPlan ∧ lineHead s tTile tPlan.trigger false = some (tToken 1) ∧
       tagValid (tToken 1).tok.tag = true ∧ (tToken 1).at' ≤ (s.tile tTile false).busyTo) ∧
    (let s := tLined { Tile.empty with plan0 := some tPlan } .e (tToken 1)
     lineHead s tTile .e false = some (tToken 1) ∧ (planOf (s.tile tTile false) false).map TilePlan.trigger ≠ some .e) ∧
    (let s := (tActive .armed []).setReg Reg.hazPresent 0 1
     s.mode.online = true ∧ s.debug = true) := by decide +kernel

def tPhys : TileId := { island := 63, col := 16, row := 15 }
def tPhysUnit : FaultUnit := { kind := 1, unit := 63, loc := tilePlace 15 16 }
def tOnPhys (tl : Tile) (f : Faults) (l : List (Reg × Nat × Nat)) : State :=
  { (tRegs (tMode .armed) l).setTileAt (physKey 63 15 16) tl with faults := f }
def tTest (u : FaultUnit) (running : Bool) : Test := { unit := u, running := running, since := 0, uncorrectable := false, errors := 1, detail := 0 }

/-- For TilesDiscardClearAndServe. -/
theorem witness_banked : (let s := tOnPhys Tile.empty { Faults.none with tests := [tTest tPhysUnit false] } []
     s.hasIsland 63 = true ∧ 15 < 16 ∧ 16 < 17 ∧ isBanked s (s.tileAt (physKey 63 15 16)) = true ∧ s.faults.tests.any (testOnTile 63 15 16) = true) ∧
    (let s := tOnPhys { Tile.empty with lostInstr := [(true, 511)] } Faults.none []
     s.faults.tests.any (testOnTile 63 15 16) = false ∧ (s.tileAt (physKey 63 15 16)).lostInstr = [(true, 511)]) ∧
    (let s := tOnPhys { Tile.empty with lostConst := [(false, 0)] } Faults.none []
     (s.tileAt (physKey 63 15 16)).lostInstr = [] ∧ (s.tileAt (physKey 63 15 16)).lostConst = [(false, 0)]) ∧
    (let s := tOnPhys Tile.empty Faults.none [(Reg.fltScrubEnable, 0, 1)]
     s.faults.tests.any (testOnTile 63 15 16) = false ∧ tileTaps s 63 15 16 = [] ∧ s.reg Reg.fltScrubEnable ≠ 0) ∧
    (tOnPhys Tile.empty Faults.none [(Reg.fltScrubEnable, 0, 0)]).reg Reg.fltScrubEnable = 0 := by decide +kernel

def tRecord : TapRecord := { tok := { data := 0#256, tag := 0#32 }, beat := 0#48, entry := 0, lost := false, step := 0 }
/-- For TilesDiscardClearAndServe. -/
theorem witness_bankedTap : (let s := (tOnPhys Tile.empty { Faults.none with tapBuffers := [(0, [tRecord])] } []).setDomain Reg.detTapSelect 0 ([1#8, 0#8, 63#8, 0xFF#8] ++ zeros 12)
     tileTaps s 63 15 15 = [0] ∧ loadingOn s (physKey 63 15 15) = none ∧ tabGet [] s.faults.tapBuffers 0 = [tRecord] ∧ s.faults.frozen = false) := by decide +kernel

/-- For TilesDiscardClearAndServe: an occupancy of 3 slots in its first issue cycle, and a load that has written nothing yet. -/
theorem witness_bankedLoad : (let s := (State.reset.advance 1).setTileAt (physKey 63 15 16) { Tile.empty with busyFrom := 0, busyTo := 4 }
     (s.tileAt (physKey 63 15 16)).busyTo = occupancyEnd s 0 3 ∧ isBanked s (s.tileAt (physKey 63 15 16)) = false) ∧
    (let s := (tOnPhys Tile.empty Faults.none [(Reg.forgePlane1State, 2, 1)]).setPlane 2 true { Plane.empty with plan := some { tForging with tiles := [{ tPlan with tile := { island := 63, col := 15, row := 15 } }] } }
     (loadingOn s (physKey 63 15 15)).isSome = true ∧ servedOf (s.tileAt (physKey 63 15 15)) true = 0 ∧ storeWf (s.tileAt (physKey 63 15 15)).const1 = true) := by decide +kernel

/-- For PredicateOffWritesNothing and SlotsPredicatesAndRepeats: Predicates that read 1 and 0, and a format of each kind. -/
theorem witness_predicates : predOn Regfile.clear (tFields 0x10 0 0 0 0) = true ∧
    predOn Regfile.clear { tFields 0x10 0 0 0 0 with pn := true } = false ∧ tagPlane Regfile.clear.it = false := by decide +kernel
/-- For DotProductsAndAccumulators, ElementwiseArithmetic and ConversionsComparesAndMasks. -/
theorem witness_formats : fmtOf (tFields 0x50 0 0 0 0) ≠ none ∧ fmtOf (tFields 0xB0 0 0 0 0) ≠ none ∧
    srcOf { tFields 0x50 0 0 0 0 with x := 0x50#32 } ≠ none := by decide +kernel
/-- For the statements about a tile instruction. -/
theorem witness_ready (op : Nat) (f : AnvilFields) : readyAt (tReady op f Regfile.clear) tSeat op f Regfile.clear :=
  witness_readyAt_tile op f Regfile.clear (by decide +kernel)

/-- For TempersMoveLinesAndEnd and ReductionsAddToLines. -/
theorem witness_readyTemper : readyAt (tTempered 0x3C (tFields 0 0 0 0 7) Regfile.clear) (.temper 0 0) 0x3C (tFields 0 0 0 0 7) Regfile.clear :=
  ⟨by decide +kernel, by decide +kernel, by decide +kernel, by decide +kernel, by decide +kernel, tKernel Regfile.clear, by decide +kernel, by decide +kernel,
    by decide +kernel, by decide +kernel, by decide +kernel, by decide +kernel, by decide +kernel, by decide +kernel⟩

/-- For SlotsPredicatesAndRepeats. -/
theorem witness_repeat : (let f := tFields 0x50 3 1 2 0
     let i := { tInstance Regfile.clear with rep := some { n := 4, sd := 1, sa := 1, sb := 0, sm := 0, lost := false } }
     let s := State.reset.setTile tTile false { tProgram 0x24 f Regfile.clear with inst := some i }
     s.hasTile tTile = true ∧ (s.tile tTile false).inst = some i ∧ tagPlane i.rf.it = false ∧ predOn i.rf f = true ∧
       (progOf (s.tile tTile false) false)[i.pos]? = some (encodeWord 0x24 f) ∧ (s.tile tTile false).lostInstr.contains (false, i.pos) = false ∧
       i.pos + 1 < (progOf (s.tile tTile false) false).length) ∧
    (let f := tFields 0x50 3 1 2 0
     let s := State.reset.setTile tTile false { tProgram 0x24 f Regfile.clear with prog0 := [encodeWord 0x24 f] }
     (tInstance Regfile.clear).rep = none ∧ (tInstance Regfile.clear).pos + 1 = (progOf (s.tile tTile false) false).length) := by decide +kernel

/-- For ReceiveAndSend. -/
theorem witness_recv : (let s := { tReady 0x08 (tFields 0 1 0 0 0) Regfile.clear with
         lines := [(lineKey tTile .n false, [{ tToken 2 with tok := { data := 9#256, tag := 1024#32 } }])] };
     let x : Timed := { tToken 2 with tok := { data := 9#256, tag := 1024#32 } };
     lineHead s tTile (portOf 0) false = some x ∧ x.at' = issueCycle s 1 0 ∧ tagValid x.tok.tag = true ∧
       sameTrigger x.tok.tag Regfile.clear.it = true) ∧
    tabGet [] (tReady 0x08 (tFields 0 1 0 0 0) Regfile.clear).lines (lineKey tTile (portOf 0) false) = [] := by decide +kernel
/-- For ReceiveAndSend. -/
theorem witness_send : (let l : Link := { src := .tile tTile .n, dst := .port { tTile with row := 1 } .s, path := [] }
     let s := (((tReady 0x09 (tFields 0 0 1 0 0) Regfile.clear).setPlane 0 false
       { Plane.empty with plan := some { tForging with links := [l] } }).setReg Reg.pwrDomainState 0 2)
     routesFrom s (tagForging Regfile.clear.it) false (.tile tTile (portOf 0)) = [l] ∧ pathPowered s l.path = true ∧ s.domainOn 0 = true ∧
       tileDegrades s 0 0 (physCol (s.remapByte 0 0 false) 0) = false ∧ (s.tile tTile false).degraded = []) := by decide +kernel

/-- For LoadsAndStoresOfWords. -/
theorem witness_loads : (let f := tFields 0 1 0 0 0x12
     let s := tReady 0x10 f Regfile.clear
     (constWord (seatExec s tSeat) (seatState s tSeat) (xf f 0 11)).stop = none ∧ (constWord (seatExec s tSeat) (seatState s tSeat) (xf f 0 11)).poison = false ∧
       (constPair (seatExec s tSeat) (seatState s tSeat) (xf f 0 11)).stop = none ∧ (s.tile tTile false).lostConst = []) ∧
    historyOf { tProgram 0x14 (tFields 0 1 0 0 15) Regfile.clear with plan0 := some tPlan } false (xf (tFields 0 1 0 0 15) 0 4) = tPlan.histories.head? ∧
    (tFields 0 0 0 0 0x10000).x.getLsbD 16 = true := by decide +kernel
/-- For LoadsAndStoresOfWords. -/
theorem witness_temperWords : (let s := seatState (tTempered 0x11 (tFields 0 1 0 0 0) Regfile.clear) (.temper 0 0)
     s.poisoned (scratchAddr 0 0 0 / 64) = false) := by decide +kernel
/-- For TempersMoveLinesAndEnd. -/
theorem witness_temperMoves : (let f := tFields 0 1 0 0 0
     let s := tTempered 0x38 f Regfile.clear
     let S := seatState s (.temper 0 0)
     (s.temper 0 0).kernel = some (tKernel Regfile.clear) ∧ predOn Regfile.clear f = true ∧ (temperLoad S 0 0 0x40).stop = none ∧
       (temperLoad S 0 0 0x40).poison = false ∧ missedNothing (temperLoad S 0 0 0x40).s (.temper 0 0) = true ∧ rangeOk S 0x40 32 = true ∧
       freeRoute S 0 (addrHarbour 0x40) = true ∧ rangeOk S (2 ^ 47) 32 = false) ∧
    (let S := seatState (tTempered 0x39 (tFields 0 1 0 0 0) Regfile.clear) (.temper 0 0)
     rangeOk S 0x40 32 = true ∧ freeRoute S 0 0 = true ∧ noEntry S 0 = false ∧ (temperStore S 0 0 0x40 0#256).2 = false ∧
       missedNothing (temperStore S 0 0 0x40 0#256).1 (.temper 0 0) = true ∧ addrSpace 0x40 ≠ 2 ∧ 0x40 % 64 ≤ 32 ∧ firstSets S 0 0 0 ≠ 0) ∧
    (let S := (tTempered 0x39 (tFields 0 1 0 0 0) Regfile.clear).setReg Reg.arraySplit 0 1
     rangeOk S (scratchAddr 0 0 0) 32 = true ∧ addrSpace (scratchAddr 0 0 0) = 2 ∧ ownArray 0 (scratchAddr 0 0 0) = true ∧
       ownArray 1 (scratchAddr 0 0 0) = false ∧ freeRoute S 0 0 = true ∧ (temperStore S 0 0 (scratchAddr 0 0 0) 0#256).2 = false) := by decide +kernel
/-- For TempersMoveLinesAndEnd. -/
theorem witness_budget : (let s := (tTempered 0x00 (tFields 0 0 0 0 0) Regfile.clear).setTemper 0 0 { Temper.empty with kernel := some { tKernel Regfile.clear with executed := 9 } }
     s.hasHarbour 0 = true ∧ 0 < 2 ∧ (s.temper 0 0).kernel = some { tKernel Regfile.clear with executed := 9 } ∧
       (tKernel Regfile.clear).budget ≤ 9 ∧ (tKernel Regfile.clear).ended = false) := by decide +kernel

def tReduction : Reduction := { temper := 0, addr := 0x40, fmt := 0x50, data := 1#256, ordered := true, cycle := 0, harbour := 0 }
/-- For ReductionsAddToLines. -/
theorem witness_reductions : (let S := seatState (tTempered 0x3A (tFields 0x50 0 0 0 0) Regfile.clear) (.temper 0 0)
     redRange S 0 0 0x40 false = true ∧ addrSpace 0x40 ≠ 2 ∧ redRange S 0 0 0x40 true = true ∧ (S.harbour 0).ordered.length < 64 ∧
       freeRoute S 0 (addrHarbour 0x40) = true ∧ noEntry S 0 = false ∧ redRange S 0 0 (2 ^ 47) false = false ∧
       (let x := S.setReg Reg.arraySplit 0 1; redRange x 0 0 (scratchAddr 0 0 0) false = true ∧ addrSpace (scratchAddr 0 0 0) = 2 ∧
         (dropForReduction x 0 0 (scratchAddr 0 0 0)).poisoned (scratchAddr 0 0 0 / 64) = false)) ∧
    (let s := (State.reset.setReg Reg.hbmState 0 1).setHarbour 0 { Harbour.empty with reductions := [tReduction], ordered := [tReduction] }
     s.hasHarbour 0 = true ∧ tReduction.addr < 2 ^ 48 ∧ scratchHeld s (fun _ _ => false) 0x40 32 = false ∧
       orderedDue (s.runTo (max (s.harbour 0).orderedFree s.clocks.cycle)) 0 tReduction = true ∧ (s.harbour 0).reductions = tReduction :: [] ∧ s.poisoned (0x40 / 64) = false ∧
       stackReady s (addrHarbour 0x40) = true ∧ nextOrdered (s.harbour 0).ordered = some (tReduction, []) ∧
       (s.setPoison 1 true).poisoned (0x40 / 64) = true) := by decide +kernel

/-! ### Sounding, loads and quench -/

/-- Plane 0 of forging 0 in a state of Table 4.8 with the plan of the tests. -/
def tPlaned (m : Mode) (st : Nat) (x : Plane) : State := ((tActive m []).setPlane 0 false x).setPlaneState 0 false st
def tPlane : Plane := { Plane.empty with plan := some tForging, shoals := [tShoal], hash := [1#8] }

/-- For SoundingJudgesItsSetWhole. -/
theorem witness_sounding : (let s := tPlaned .armed 2 { tPlane with soundBeat := some 5#48 }
     (planesIn s 2).filter (fun x => (s.plane x.1 x.2).soundBeat.isSome && (s.plane x.1 x.2).ownResult.isNone) = [(0, false)] ∧
       (soundOne (setFerryReleases s) [(0, false)] true (0, false)).2.reason = 5) ∧
    (∀ r ∈ [[(1, true)], [(1, false)], []], let s := { tPlaned .held 2 { tPlane with soundBeat := some 5#48 } with act := { Activation.none with phase := 3, results := r } }
     (planesIn s 2).filter (fun x => (s.plane x.1 x.2).soundBeat.isSome && (s.plane x.1 x.2).ownResult.isNone) = [(0, false)] ∧
       (soundOne (setFerryReleases s) [(0, false)] false (0, false)).2.reason = 0 ∧ s.act.results.any Prod.snd = (r == [(1, true)]) ∧
       ((rxFerries s).all fun p => s.act.results.any fun y => y.1 = p.lane) = (r != [])) ∧
    (let s := { tPlaned .armed 2 { tPlane with ownResult := some 0 } with act := { Activation.none with endedAt := some (5#48 - 65#48) } }
     s.act.endedAt = some (5#48 - 65#48) ∧ 64 < beatDiff s.beat.n (5#48 - 65#48) ∧
       ((rxFerries s).all fun p => s.act.results.any fun y => y.1 = p.lane) = false ∧ awaitingPeers s = [(0, false)]) := by decide +kernel
/-- For LoadsCompleteAndShadowLoads. -/
theorem witness_loadsComplete : (let s := tPlaned .armed 1 tPlane
     (planesIn s 1).filter (fun x => !(s.plane x.1 x.2).loaded) = [(0, false)] ∧ (s.plane 0 false).plan.isSome = true ∧
       ¬ (s.act.phase = 2 ∧ s.act.cancelled = true)) ∧
    (let s := { tPlaned .held 1 tPlane with act := { Activation.none with phase := 2, cancelled := true } }
     s.act.phase = 2 ∧ s.act.cancelled = true) ∧
    (tForging.tiles.getLast?.map TilePlan.tile = none ∧ ({ tForging with tiles := [tPlan] }).tiles.getLast? = some tPlan) := by decide +kernel
/-- For LoadsCompleteAndShadowLoads. -/
theorem witness_shadowLoad : (let s := (tActive .armed [(Reg.imgShadowState, 0, 3), (Reg.pwrDomainState, 64, 2), (Reg.pwrDomainState, 80, 2), (Reg.pwrDomainState, 96, 2), (Reg.pwrDomainState, 112, 2)])
     let t := { s with images := { s.images with shadow := some tImage } }
     1 < 2 ^ 17 ∧ t.mode.flows = true ∧ t.reg Reg.imgShadowState = 3 ∧ t.images.shadow = some tImage ∧ shadowRefusal t tImage [0] false = 0 ∧
       (List.range 16).filter (fun f => bit 1 f) = [0]) ∧
    (tMode .held).mode.online = true ∧ (tMode .held).mode.flows = false := by decide +kernel
/-- For ForgeSoundWritesOneToThree. -/
theorem witness_forgeSound : (let s := (tActive .armed [(Reg.forgePlane1State, 0, 7)])
     0 < 16 ∧ s.mode.flows = true ∧ isActive s 0 = true ∧ s.planeState 0 (!s.flag Reg.forgeLivePlane 0) = 7) ∧
    (tActive .armed [(Reg.forgePlane1State, 0, 6)]).planeState 0 true = 6 ∧
    (let s := (tActive .armed [(Reg.forgePlane0State, 0, 5)]).setPlane 0 false tPlane
     let t := { s with images := { s.images with mainHash := [1#8] } }
     t.planeState 0 true = 0 ∧ t.replaying = false ∧ imageOf t (t.plane 0 false) = some tImage ∧ planIn tImage 0 = some tForging ∧
       tilesFree t true tForging = true ∧ workFits t true tForging = true ∧ meetsLive t tForging = false) ∧
    (tMode .held).mode.online = true ∧ isActive (tMode .held) 0 = false := by decide +kernel

def tQuenched (q : Quench) (m : Mode) : State :=
  { (tPlaned m 5 tPlane).setQuench 0 { q with planes := [(0#48, false)] } with run := { Run.none with first := some 5#48 } }

/-- For QuenchTokensAndStagedShares. -/
theorem witness_finalToken : (let s := tQuenched { Quench.empty with inbox := [(inputKey 0 false, [tToken 400])], toIssue := [5#48] } .running
     let n := rebuildBeat s.beat.n (tagBeat (tToken 400).tok.tag)
     0 < 16 ∧ tabGet [] (s.quench 0).inbox (inputKey 0 false) = [tToken 400] ∧ n = 5#48 ∧
       (tagForging (tToken 400).tok.tag = 0 ∧ s.planeFor 0 n = some (tagPlane (tToken 400).tok.tag)) ∧
       ¬ (s.hasVerdict n = true ∧ (s.quench 0).toIssue.contains n = false ∧ 0 ≤ beatDiff s.beat.n n) ∧ (tToken 400).at' + 8 ≤ s.verdictCycle 0 n ∧
       (tagSeq (tToken 400).tok.tag).toNat = 5 ∧ ((s.planFor 0 n).map fun p => p.inputs.getD 0 0) = some 1) ∧
    (let s := tQuenched { Quench.empty with inbox := [(inputKey 0 false, [tToken 505])], toIssue := [5#48] } .running
     s.verdictCycle 0 5#48 < (tToken 505).at' + 8) ∧
    (let s := tQuenched Quench.empty .running
     s.hasVerdict 5#48 = true ∧ (s.quench 0).toIssue.contains 5#48 = false ∧ 0 ≤ beatDiff s.beat.n 5#48) := by decide +kernel
/-- The record of beat 5 with a verdict code. -/
def tRecordOf (v : Nat) : BitVec 128 := 5#48 ++ 0#4 ++ BitVec.ofNat 2 v ++ 0#74

/-- For QuenchTokensAndStagedShares. -/
theorem witness_ring : (∀ v < 3, let s := (tQuenched { Quench.empty with records := [tRecordOf v] } .running).setTank 15 { Tank.empty with staging := [{ forging := 0, beat := 5#48, shoal := 240, position := 0, token := 0, data := 0#256 }] }
     0 < 16 ∧ s.hasHarbour 15 = true ∧ recordOf s 0 5#48 = some (tRecordOf v) ∧ (tRecordOf v).extractLsb' 74 2 = BitVec.ofNat 2 v ∧
       s.dueNow (s.verdictCycle 0 5#48 + 3 * (ringHops (((s.planFor 0 5#48).map ForgingPlan.home).getD 15) 15).length) = true) := by decide +kernel
/-- For VerdictFollowsTheEvaluation and AdmissionKeepsItsPromises. -/
theorem witness_verdict : (let s := tQuenched { Quench.empty with toIssue := [5#48] } .running
     0 < 16 ∧ s.nextIssue 0 = some 5#48 ∧ s.planeFor 0 5#48 = some false ∧ (s.plane 0 false).plan = some tForging ∧
       s.dueNow (s.verdictCycle 0 5#48) = true ∧ issuesAfter s 0 (s.verdictCycle 0 5#48) = false ∧ s.mode ≠ .off) := by decide +kernel

/-! ### Commands, items and the bellows -/

/-- A command word of an opcode, and a command that runs at an engine's queue of harbour 0, whose stack is READY. -/
def tCmd (op body : Nat) : Cmd := BitVec.ofNat 256 (op * 2 ^ 248 + body)
def tRun (e : Nat) (c : Cmd) : Running := newRunning e 0 c 0 none
def tBusy (s : State) (r : Running) : State := s.modHarbour 0 fun x => { x with running := [r] }
def tHarbour : State := tRegs (tMode .armed) [(Reg.hbmState, 0, 1), (Reg.pwrDomainState, 64, 2), (Reg.arraySplit, 0, 4), (Reg.cacheHoldDirectMib, 0, 16)]
def tWork (e : Nat) (c : Cmd) : State := tBusy tHarbour (tRun e c)

theorem tBusy_hasHarbour (s : State) (r : Running) : (tBusy s r).hasHarbour 0 = s.hasHarbour 0 := rfl

/-- For every statement with runsNow. -/
theorem witness_runsNow (e : Nat) (he : e < 5) (r : Running) (hr : r.engine = e ∧ r.queue = 0 ∧ r.finished = false ∧ r.listCmd = none) :
    runsNow (tBusy tHarbour r) 0 e 0 (cmdOpcode r.cmd) r := by
  obtain ⟨h0, h1, h2, h3⟩ := hr
  have h : ((tBusy tHarbour r).harbour 0) = { tHarbour.harbour 0 with running := [r] } := by
    simp only [tBusy, State.modHarbour, State.harbour, State.setHarbour]
    rw [tabGet_tabSet_same]
  have hs : (tHarbour.harbour 0).stalled = false := by decide +kernel
  have hc : (tHarbour.harbour 0).ctxs = [] := by decide +kernel
  refine ⟨?_, ?_, rfl, h2, by simp [betweenListed, h3], ?_⟩
  · simp only [State.hasQueue, he, decide_true, Bool.and_true, tBusy_hasHarbour]
    decide +kernel
  · simp [Harbour.runningAt, h, h0, h1]
  · simp [State.groupStands, h, hs, hc]

/-- A command that has read lines of zeros. -/
def tRead (e : Nat) (c : Cmd) (ls : List Nat) : Running :=
  { tRun e c with lines := ls.map fun l => { cls := 0, line := l, data := 0#512, poison := false } }
/-- A command that has read the bytes of its descriptor at 0. -/
def tDescribed (e : Nat) (c : Cmd) (bs : List Byte) : Running :=
  { tRun e c with total := 0, lines := [{ cls := 0, line := 0, data := BitVec.ofNat 512 (leNat bs), poison := false }] }

/-- For CommandsStartInTheirTurn. -/
theorem witness_commandStart : (let s := tHarbour.modHarbour 0 fun x => { x with queues := [(queueKey 1 0, [tCmd 0x20 0x40])] }
     s.hasQueue 0 1 0 = true ∧ (s.harbour 0).runningAt 1 0 = none ∧ (s.harbour 0).queue 1 0 = [tCmd 0x20 0x40] ∧ s.mode.flows = true ∧
       s.domainOn 64 = true ∧ s.run.drain = 0 ∧ s.groupStands 0 = false ∧ queueHalted s 0 1 0 = false ∧
       cmdWaitA (tCmd 0x20 0x40) = false ∧ cmdWaitB (tCmd 0x20 0x40) = false ∧ cmdFence (tCmd 0x20 0x40) = false ∧
       cmdNotify (tCmd 0x20 0x40) = false ∧ (s.harbour 0).running = [] ∧ cmdCheck s 0 1 (tCmd 0x20 0x40) = none) ∧
    opcodeOn 0x20 0 = false ∧ ¬ waitOver tHarbour 0 0 1 ∧ waitOver tHarbour 0 0 0 := by
  unfold waitOver
  decide +kernel
/-- For CommandsCompleteForTheirTokens. -/
theorem witness_commandComplete : (let s := tBusy tHarbour { tRun 1 (tCmd 0x22 0) with finished := true }
     s.hasQueue 0 1 0 = true ∧ (s.harbour 0).runningAt 1 0 = some { tRun 1 (tCmd 0x22 0) with finished := true } ∧
       betweenListed { tRun 1 (tCmd 0x22 0) with finished := true } = false ∧ reductionsLeft s 0 0 = false ∧ dirtyLines s 0 0 = [] ∧ (s.harbour 0).outstanding 1 0 = false ∧
       (withKernel s 0 { tRun 1 (tCmd 0x22 0) with finished := true }).finished = true) ∧
    (let r := { tRun 0 (tCmd 0x01 0) with finished := true, listCmd := some (tCmd 0x02 0), listLeft := [tCmd 0x00 0] }
     betweenListed r = false ∧ r.listLeft ≠ [] ∧ ((tBusy tHarbour r).harbour 0).runningAt 0 0 = some r) := by decide +kernel
/-- For PlainCommandsListsAndPins. -/
theorem witness_list : holdsLines (tRead 0 (tCmd 0x02 0) [0]) 0 32 ∧ (tRead 0 (tCmd 0x02 0) [0]).listCmd = none ∧
    (let r := { tRun 0 (tCmd 0x02 0) with lines := [{ cls := 0, line := 0, data := 0#512, poison := true }] }
     (∀ l ∈ linesOf 0 32, r.has l = true) ∧ r.badOf (linesOf 0 32) = some 0) := by
  unfold holdsLines
  decide +kernel
/-- For PlainCommandsListsAndPins. -/
theorem witness_pins : (let s := (tWork 0 (tCmd 0x14 (3 * 2 ^ 60 + 5 * 2 ^ 80))).setPlane 0 false { tPlane with shoals := [{ tShoal with lanes := [(0, 0), (1, 1)] }] }
     (s.harbour 0).pinRules = [] ∧ shareWords s 0 0 ≠ 0) ∧
    cmdBody (tCmd 0x14 (3 * 2 ^ 60 + 5 * 2 ^ 80)) 60 20 = 3 ∧ cmdBody (tCmd 0x14 (3 * 2 ^ 60 + 5 * 2 ^ 80)) 80 16 = 5 ∧
    (let p : Pin := { forging := 0, beat := 5#48, size := 2, words := [1#64, 2#64], release := 9#48 }
     let c := tCmd 0x15 (5 + scratchAddr 0 0 0 * 2 ^ 52)
     let r := { tRun 0 c with total := 1 }
     let s := { ((tBusy tHarbour r).setTank 0 { Tank.empty with pins := [p] }).setReg Reg.engQueueMode 0 1 with beat := { BeatCount.off with on := true, n := 5#48, period := 1600 } }
     let i := itemOf 0 0 (.write 16) 0 (scratchAddr 0 0 0) 0 0#512 false
     (s.tank 0).pins.find? (fun p => p.forging = cmdBody c 48 4 ∧ p.beat.toNat = cmdBody c 0 48) = some p ∧ cmdBody c 52 48 = scratchAddr 0 0 0 ∧
       tongsTurn (s.harbour 0) = some 0 ∧ r.total ≠ 0 ∧ r.issued = 0 ∧ boundaryPast (s.runTo (s.harbour 0).tongsFree) p.release = false ∧
       min 8 p.size ≤ p.words.length ∧ rangeFor s 0 0 0 (scratchAddr 0 0 0) 16 = true ∧ scratchAddr 0 0 0 % 64 = 0 ∧
       s.lockstep 0 = false ∧ arrivesAtOnce s 0 i = true ∧ addressesLost s i = false ∧ (s.harbour 0).outstanding 0 0 = false) := by decide +kernel
/-- For CopyAndFillWriteTheirLines. -/
theorem witness_copyFill : (let c := tCmd 0x11 (scratchAddr 0 0 0 + 7 * 2 ^ 64 + 2 * 2 ^ 96)
     let s := (tWork 0 c).setReg Reg.engQueueMode 0 1
     let i := itemOf 0 0 (.write 64) 0 (scratchAddr 0 0 0) 0 0#512 false
     (tRun 0 c).total = 2 ∧ tongsTurn (s.harbour 0) = some 0 ∧ scratchAddr 0 0 0 % 64 = 0 ∧ rangeFor s 0 0 0 (scratchAddr 0 0 0) 64 = true ∧
       s.lockstep 0 = false ∧ arrivesAtOnce s 0 i = true ∧ addressesLost s i = false ∧ (s.harbour 0).outstanding 0 0 = false ∧
       abortsOn s 0 false = false) ∧
    (let c := tCmd 0x10 (mkAddr 1 0 0 + scratchAddr 0 0 0 * 2 ^ 48 + 2 * 2 ^ 96)
     let s := (tWork 0 c).setReg Reg.engQueueMode 0 1
     let i := itemOf 0 0 .copy (mkAddr 1 0 0) (scratchAddr 0 0 0) 0 0#512 false
     (tRun 0 c).total = 2 ∧ cmdBody c 0 48 = mkAddr 1 0 0 ∧ cmdBody c 48 48 = scratchAddr 0 0 0 ∧ rangeFor s 0 0 0 (mkAddr 1 0 0) 64 = true ∧
       s.lockstep 0 = false ∧ arrivesAtOnce s 0 i = true ∧ addressesLost s i = false ∧ s.poisoned (mkAddr 1 0 0 / 64) = false) ∧
    (tRun 0 (tCmd 0x11 0)).total = 0 ∧ tongsTurn (tHarbour.harbour 0) ≠ some 0 := by decide +kernel
/-- For FetchAndStoreIssueItems. -/
theorem witness_fetch : (let c := tCmd 0x12 (mkAddr 1 0 0x40 * 2 ^ 48 + 3 * 2 ^ 96)
     let s := tWork 0 c
     let i := itemOf 0 0 .copy 0 (mkAddr 1 0 0x40) 0 0#512 false
     (tRun 0 c).total = 3 ∧ tongsTurn (s.harbour 0) = some 0 ∧ rangeFor s 0 0 0 0 64 = true ∧ rangeFor s 0 0 0 (mkAddr 1 0 0x40) 64 = true ∧
       (s.setReg Reg.engQueueMode 0 0).lockstep 0 = true ∧
       (let x := s.setReg Reg.engQueueMode 0 1
        x.lockstep 0 = false ∧ arrivesAtOnce x 0 i = false ∧ addressesLost x i = false ∧ ∀ d < 4, (x.harbour 0).dq d = [])) ∧
    rangeFor tHarbour 0 0 0 (mkAddr 0 0 24000000000) 64 = false ∧ cmdOpcode (tCmd 0x13 0) = 0x13 := by decide +kernel
/-- A launch descriptor for one word at 0x1000. -/
def tLaunch : List Byte := leBytes 8 0x1000 ++ leBytes 4 1 ++ zeros 52
/-- For LaunchStartsAKernel. -/
theorem witness_launch : (let r := tDescribed 1 (tCmd 0x20 0) tLaunch
     let d := r.bytes 0 64
     let s := (tBusy tHarbour r).store 0x1000 (leBytes 8 (encodeWord 0 (tFields 0 0 0 0 0)).toNat)
     let u := changeSplit s 0 0 (launchOf d).split
     (s.temper 0 0).kernel = none ∧ holdsLines r 0 64 ∧ launchOk s d (launchOf d) = true ∧ freeRoute s 0 (addrHarbour (leNat (slice d 0 8))) = true ∧
       s.reg Reg.arraySplit 0 ≠ (launchOf d).split ∧ kernelStatus u.strict (launchOf d).split (kernelWords u 0 0 (launchOf d)) = 0) ∧
    (let r := tDescribed 1 (tCmd 0x20 0) (zeros 64)
     launchOk tHarbour (r.bytes 0 64) (launchOf (r.bytes 0 64)) = false) ∧
    (let r := { tRun 1 (tCmd 0x20 0) with lines := [{ cls := 2, line := 0, data := 0#512, poison := true }] }
     (∀ x ∈ linesOf 0 64, r.has x = true) ∧ r.badOf (linesOf 0 64) = some 0) := by
  unfold holdsLines
  decide +kernel
/-- A range of one line at the tongs: in the hold and not, in queue mode and in lockstep. -/
def tRange (op mode : Nat) (held : Bool) : State :=
  ((tWork 0 (tCmd op (0x40 + 1 * 2 ^ 48))).setReg Reg.engQueueMode 0 mode).modHarbour 0 fun x => { x with hold := if held then [(1, false)] else [] }
/-- For RangesActOnEveryLine. -/
theorem witness_rangesTongs : (∀ op ∈ [0x21, 0x22, 0x23], (let s := tRange op 1 true
       cmdOpcode (tCmd op (0x40 + 1 * 2 ^ 48)) = op ∧ (tRun 0 (tCmd op (0x40 + 1 * 2 ^ 48))).total = 1 ∧ tongsTurn (s.harbour 0) = some 0 ∧
       rangeFor s 0 0 0 0x40 64 = true ∧ addrSpace 0x40 = 0 ∧ addrHarbour 0x40 = 0 ∧ holdHas s 0 (lineOf 0x40) = true)) ∧
    (∀ op ∈ [0x22, 0x23], let s := tRange op 1 true
       let w := itemOf 0 0 (.clean (op == 0x23)) 0 0x40 0 0#512 false
       s.lockstep 0 = false ∧ arrivesAtOnce s 0 w = true ∧ addressesLost s w = false ∧ (s.harbour 0).outstanding 0 0 = false ∧
         (tRange op 0 true).lockstep 0 = true) ∧
    ((tRange 0x21 0 false).lockstep 0 = true ∧ holdHas (tRange 0x21 0 false) 0 (lineOf 0x40) = false) ∧ addrSpace (mkAddr 1 0 0) ≠ 0 := by decide +kernel
/-- A range of one line at temper 0, for every class of the first levels. -/
def tRanged (op mode : Nat) (ls : List CLine) : State :=
  ((tWork 1 (tCmd op (0x40 + 1 * 2 ^ 48 + 0xF * 2 ^ 80))).setReg Reg.engQueueMode 0 mode).modHarbour 0 fun x =>
    { x with hold := [(1, false)], temper0 := { x.temper0 with data := ls, const := ls, desc := ls, instr := ls } }
/-- For RangesActOnEveryLine. -/
theorem witness_rangesTempers : (∀ op ∈ [0x21, 0x22, 0x23], ∀ ls ∈ [[], [{ line := 1, data := 0#512, dirty := false, poison := false }]], let s := tRanged op 1 ls
       let r := tRun 1 (tCmd op (0x40 + 1 * 2 ^ 48 + 0xF * 2 ^ 80))
       r.total = 1 ∧ r.issued = 0 ∧ r.delivered = 0 ∧ r.status = 0 ∧ r.detail = 0 ∧ rangeFor s 0 1 0 0x40 64 = true ∧ (s.harbour 0).dqRoom 3 = true ∧
         (s.harbour 0).dqRoom 0 = true ∧ dirtyLines s 0 0 = [] ∧ bit (cmdBody r.cmd 80 4) 3 = true ∧ firstSets s 0 0 0 ≠ 0) ∧
    (let s := tRanged 0x21 1 []
     let i := itemOf 1 0 (.prefetch [0, 1, 2, 3]) 0x40 0 0 0#512 false
     s.lockstep 0 = false ∧ arrivesAtOnce s 0 i = true ∧ addressesLost s i = false ∧ (s.harbour 0).outstanding 1 0 = false ∧ s.poisoned 1 = false) ∧
    (tRanged 0x21 0 []).lockstep 0 = true := by decide +kernel

/-- A sieve descriptor: rank 3, 8 × 8 codes of int16, output in the direct region, coefficients at 0x3000. -/
def tSieveBytes (op : Nat) : List Byte :=
  leBytes 8 (op + 3 * 256 + 0x40 * 2 ^ 32 + 0x40 * 2 ^ 40) ++ leBytes 8 (8 + 8 * 2 ^ 16) ++ leBytes 8 0x1000 ++ leBytes 8 (32 + 32 * 2 ^ 32) ++
    leBytes 8 (mkAddr 1 0 0x2000) ++ leBytes 8 (if op = 2 then 0 else 0x3000) ++ zeros 16
def tSieve (op : Nat) : Running :=
  let r := tDescribed 3 (tCmd 0x30 0) (tSieveBytes op)
  { r with lines := r.lines ++ (linesOf 0x1000 256 ++ linesOf 0x3000 64).map fun l => { cls := 0, line := l, data := 0#512, poison := false } }
def tPairBytes : List Byte :=
  leBytes 8 (4 + 0x40 * 2 ^ 24 + 8 * 2 ^ 32 + 1 * 2 ^ 48) ++ leBytes 8 (1 + 16 * 2 ^ 32 + 16 * 2 ^ 48) ++ leBytes 8 0x1000 ++ leBytes 8 0x2000 ++
    leBytes 8 (mkAddr 1 0 0x3000) ++ leBytes 8 (32 + 32 * 2 ^ 32) ++ leBytes 8 0x4000 ++ zeros 8
def tPair : Running :=
  let r := tDescribed 4 (tCmd 0x38 0) tPairBytes
  { r with lines := r.lines ++ (linesOf 0x1000 4096 ++ linesOf 0x2000 4096).map fun l => { cls := 0, line := l, data := 0#512, poison := false } }
/-- For VisionJobsWriteTheirOutput. -/
theorem witness_sieve : (∀ op ∈ [1, 2], let r := tSieve op
     let s := (tBusy tHarbour r).setReg Reg.engQueueMode 0 1
     let d := r.bytes 0 64
     let j := sieveOf d
     let co := if readsKernel s 0 0 j then coefficients r j else []
     holdsLines r 0 64 ∧ r.total = 0 ∧ holdsLines r j.kernel (2 * j.coeffs) ∧ sieveOk s 0 0 d j co = true ∧ j.op = op ∧ s.lockstep 0 = false ∧
       (s.harbour 0).outstanding 3 0 = false ∧ (s.harbour 0).dqRoom 3 = true ∧ (s.harbour 0).victims = [] ∧ addrHarbour j.outBase = 0 ∧
       addrSpace j.outBase ≠ 0 ∧ s.reg Reg.cacheHoldDirectMib 0 ≤ 32 ∧ (∀ u < 2, s.reg Reg.arraySplit u ≤ 8) ∧
       ∀ l ∈ j.input.lines, r.has l = true ∧ (r.line l).poison = false) ∧
    (let d := (tSieve 9).bytes 0 64
     sieveOk tHarbour 0 0 d (sieveOf d) [] = false) := by
  unfold holdsLines
  decide +kernel
/-- For VisionJobsWriteTheirOutput. -/
theorem witness_pair : (let r := tPair
     let s := (tBusy tHarbour r).setReg Reg.engQueueMode 0 1
     let d := r.bytes 0 64
     let j := pairOf d
     pairOk s 0 0 d j = true ∧ addrHarbour j.out = 0 ∧ addrSpace j.out ≠ 0 ∧ (∀ l ∈ j.lines, r.has l = true ∧ (r.line l).poison = false) ∧
       (s.harbour 0).outstanding 4 0 = false ∧ stackReady s 0 = true) ∧
    (let d := zeros 64
     pairOk tHarbour 0 0 d (pairOf d) = false) := by decide +kernel

def tItem (arrived : Bool) : Item := { itemOf 0 0 .copy 0x40 (mkAddr 1 0 0x80) 0 0#512 false with due := 9, arrived := arrived, stack := true, taken := true }
def tItems (l : List (Reg × Nat × Nat)) (i : Item) : State :=
  (tRegs (tWork 0 (tCmd 0x12 (2 ^ 96))) ((Reg.engPoisonPolicy, 0, 0) :: l)).modHarbour 0 fun x => { x with dqs := [(0, [i])] }
/-- For ItemsAreDeliveredInOrder. -/
theorem witness_items : (∀ m < 2, ∀ a : Bool, let s := tItems [(Reg.engQueueMode, 0, m)] (tItem a)
     let i := tItem a
     s.hasHarbour 0 = true ∧ (s.harbour 0).dq 0 = [i] ∧ (s.harbour 0).dqs.flatMap Prod.snd = [i] ∧ i.use = .copy ∧ i.engine < 5 ∧ i.got = false ∧
       (i.stack = true → i.taken = true) ∧ scratchBars s 0 i = false ∧ i.poisoned = false ∧ s.poisoned (i.src / 64) = false ∧
       (s.harbour 0).runningAt 0 0 = some (tRun 0 (tCmd 0x12 (2 ^ 96))) ∧ (tRun 0 (tCmd 0x12 (2 ^ 96))).finished = false ∧
       s.reg Reg.engPoisonPolicy 0 ≠ 1 ∧ s.lockstep 0 = (m == 0) ∧ s.groupStands 0 = false ∧ s.power.throttled = false ∧
       s.mode.online = true ∧ s.reg Reg.engGroupCycles 0 < i.due) := by decide +kernel
/-- For StacksAndHostEngineRegisters. -/
theorem witness_stacks : (let s := tHarbour
     s.hasHarbour 0 = true ∧ stackReady s 0 = true ∧ (s.setReg Reg.hbmScrubH 0 1).reg Reg.hbmScrubH 0 ≠ 0 ∧ 0 = (s.harbour 0).scrubLine ∧
       1 ≠ (s.harbour 0).scrubLine ∧ 0 < 375000000) ∧
    stackReady State.reset 0 = false ∧
    (tHarbour.mode.online = true ∧ sessionHolds tHarbour (Reg.engTokens.key 0) = false) ∧
    ((tMode .held).mode = .held ∧ (tMode .held).act.phase = 0) ∧
    (openRead tHarbour .uart (Reg.engCompletions.key 0) = none ∧ tabGet [] tHarbour.pubDomains (Reg.engCompletions.key 0) = [] ∧
      ((tHarbour.harbour 0).completions.take 0).flatMap (fun r => leBytes 16 r.toNat) = []) := by decide +kernel

/-- A word of the micro-store with a sequence code and a field, met by context 8 of harbour 0. -/
def tIssue (seq f : Nat) (cond : Bool) : MicroIssue :=
  { h := 0, ctx := 8, word := BitVec.ofNat 24 (seq * 2 ^ 21 + f), nano := 0#144, cond := cond, check := .clean }
def tCtx : Ctx := { Ctx.idle with state := 1, addr := 0x10, stack := [0x20] }
def tBellows (c : Ctx) : State := setCtx tHarbour 0 8 c
/-- For ContextsIssueTheirWords and BellowsChecksAndRestarts: the slot of context 8 comes in the same state, that of context 0 too. -/
theorem witness_issueSlot : ((issueSlot (tBellows tCtx) 0 8).map fun u => (u.harbour 0).ctx 8) = some tCtx ∧
    (issueSlot (setCtx (tWork 0 (tCmd 0x12 (2 ^ 96))) 0 0 tCtx) 0 0).isSome = true ∧
    (tBellows tCtx).hasHarbour 0 = true ∧ (tBellows tCtx).mode ≠ .off := by decide +kernel
/-- The state in which the context of the tests has its slot. -/
def tSlotted (c : Ctx) : State := (issueSlot (tBellows c) 0 8).getD State.reset
/-- For ContextsIssueTheirWords. -/
theorem witness_issue : (∀ q < 8, ∀ b : Bool, let s := tSlotted tCtx
     let i := tIssue q 0x30 b
     let w := microWord s ((s.harbour 0).ctx 8) i
     ((s.harbour 0).ctx 8).state = 1 ∧ microNano w < 448 ∧ nanoWord s w i = 0#144 ∧ patchBroken s ((s.harbour 0).ctx 8) w = none ∧ microSeq w = q ∧
       microField w < 128 ∧ ((s.harbour 0).ctx 8).stack = [0x20] ∧ ((s.harbour 0).ctx 8).addr + 1 < 0x880) ∧
    (((0x40 : Nat) : Int) = (0x10 : Nat) + signed 7 (0x30 % 128)) ∧ systemDone (tSlotted tCtx) 8 = true ∧
    (let s := setCtx (tWork 0 (tCmd 0x12 (2 ^ 96))) 0 0 tCtx
     let i := { tIssue 7 0 false with ctx := 0 }
     microSeq (microWord s ((s.harbour 0).ctx 0) i) = 7 ∧
       (s.harbour 0).runningAt 0 0 = some (tRun 0 (tCmd 0x12 (2 ^ 96))) ∧
       workDone s 0 (withKernel s 0 (tRun 0 (tCmd 0x12 (2 ^ 96)))) = false) ∧
    (let s := tBellows { tCtx with state := 3 }
     ((s.harbour 0).ctx 8).state = 3 ∧ microSeq (microWord s ((s.harbour 0).ctx 8) (tIssue 6 0 true)) = 6) := by decide +kernel
/-- For BellowsChecksAndRestarts. -/
theorem witness_bellowsChecks : (let s := tSlotted tCtx
     let i := tIssue 2 0x80 false
     let w := microWord s ((s.harbour 0).ctx 8) i
     ((s.harbour 0).ctx 8).state = 1 ∧ microNano w < 448 ∧ patchBroken s ((s.harbour 0).ctx 8) w = none ∧ s.domain Reg.seqMcRecord 0 = [] ∧
       (s.setDomain Reg.seqMcRecord 0 [1#8]).domain Reg.seqMcRecord 0 ≠ [] ∧ 128 ≤ microField w ∧ microSeq w = 2) ∧
    (let s := tSlotted { tCtx with stack := [1, 2, 3, 4] }
     4 ≤ ((s.harbour 0).ctx 8).stack.length ∧ microSeq (microWord s ((s.harbour 0).ctx 8) (tIssue 4 0 false)) = 4) ∧
    (let s := tSlotted { tCtx with stack := [] }
     ((s.harbour 0).ctx 8).stack = [] ∧ microSeq (microWord s ((s.harbour 0).ctx 8) (tIssue 5 0 false)) = 5) ∧
    (let s := tSlotted tCtx
     let i := { tIssue 0 0 false with nano := BitVec.ofNat 144 (2 ^ 42) }
     let w := microWord s ((s.harbour 0).ctx 8) i
     microSeq w = 0 ∧ nanoWord s w i = BitVec.ofNat 144 (2 ^ 42) ∧ ((s.harbour 0).ctx 8).commit = false ∧ microCommit w = false) ∧
    ∀ c ∈ [SeqCheck.microParity, .nanoParity, .dispatchParity, .matchParity, .kLost 31], ({ tIssue 0 0 false with check := c }).check = c := by decide +kernel
/-- For BellowsChecksAndRestarts. -/
theorem witness_restart : (let s := tBellows { tCtx with restarts := 6 }
     ((s.harbour 0).ctx 8).state ≠ 0 ∧ ((s.harbour 0).ctx 8).commit = false ∧ ((s.harbour 0).ctx 8).restarts < 7) ∧
    (let s := setCtx (tWork 0 (tCmd 0x12 (2 ^ 96))) 0 0 tCtx
     ((s.harbour 0).ctx 0).restarts < 7 ∧ (s.setReg Reg.engQueueMode 0 0).lockstep 0 = true ∧ (s.setReg Reg.engQueueMode 0 1).lockstep 0 = false ∧ s.mode.online = true) ∧
    (let s := setCtx (tWork 0 (tCmd 0x12 (2 ^ 96))) 0 0 { tCtx with restarts := 7 }
     7 ≤ ((s.harbour 0).ctx 0).restarts ∧ (s.harbour 0).runningAt 0 0 = some (tRun 0 (tCmd 0x12 (2 ^ 96))) ∧
       (tRun 0 (tCmd 0x12 (2 ^ 96))).listCmd = none ∧ (s.harbour 0).completions.length < 1024) := by decide +kernel
/-! ### Power, the dictionary and its transports -/

/-- For DomainsSwitchUnderTheirConditions. -/
theorem witness_domainOn : (let s := tMode .held
     s.mode.online = true ∧ s.hasDomain 0 = true ∧ s.power.throttled = false ∧ s.domainState 0 = 0 ∧
       (∀ x < 128, s.domainState x ≠ 1) ∧ ¬ (64 ≤ 0) ∧ ¬ (80 ≤ 0)) ∧
    (let s := tRegs (tMode .held) [(Reg.pwrDomainState, 64, 2), (Reg.pwrDomainState, 1, 1)]
     s.domainState 64 = 2 ∧ s.domainState (80 + domainHarbour 80) = 0 ∧ s.hasDomain 80 = true ∧ ∃ x < 128, x ≠ 80 ∧ s.domainState x = 1) ∧
    ({ tMode .held with power := { Power.off with throttled := true } }).power.throttled = true ∧
    ({ tMode .held with carrier := { Carrier.blank with grade := 2 } }).hasDomain 63 = false ∧
    (let s := tRegs (tMode .held) [(Reg.pwrDomainState, 0, 2)]
     s.domainState 0 = 2 ∧ activationUses s 0 = false ∧ bistOn s 0 = false ∧ planesOn s 0 = []) ∧
    (let s := (tRegs (tMode .armed) [(Reg.pwrDomainState, 0, 2), (Reg.forgePlane0State, 0, 5)]).setPlane 0 false { tPlane with plan := some { tForging with tiles := [tPlan] } }
     ∃ x ∈ planesOn s 0, 1 ≤ s.planeState x.1 x.2 ∧ s.planeState x.1 x.2 ≤ 5) ∧
    (let s := tRegs (tMode .armed) [(Reg.pwrDomainState, 64, 2), (Reg.pwrDomainState, 112, 2), (Reg.laneEnable, 0, 1)]
     s.mode ≠ .held ∧ (s.domainState 112 = 2 ∧ s.flag Reg.laneEnable 0 = true)) ∧
    (∀ d ∈ [64, 80, 96, 112], let s := tRegs (tMode .held) [(Reg.pwrDomainState, d, 2)]
     s.mode = .held ∧ s.domainState d = 2 ∧ (d ≠ 64 → s.domainState 64 = 0) ∧ (d = 64 → s.domainState 80 = 0 ∧ s.domainState 96 = 0 ∧ s.domainState 112 = 0) ∧
       activationUses s d = false ∧ loadUses s d = false ∧ (∀ k < 64, s.flag Reg.laneEnable k = false ∧ (k < 16 → s.flag Reg.xlaneEnable k = false))) ∧
    (∀ y, ∀ l ∈ ((tMode .held).harbour y).dqs, l.2 = []) ∧
    (let s := tRegs (tMode .held) [(Reg.pwrDomainState, 64, 2), (Reg.pwrDomainState, 96, 2)]
     s.domainState 64 = 2 ∧ s.domainState 96 ≠ 0) := by
  refine ⟨by decide +kernel, by decide +kernel, by decide +kernel, by decide +kernel, by decide +kernel, by decide +kernel, by decide +kernel, by decide +kernel, ?_, by decide +kernel⟩
  intro y l hl
  rw [show (tMode .held).harbour y = Harbour.empty from rfl] at hl
  exact (by decide : ∀ l ∈ Harbour.empty.dqs, l.2 = []) l hl
/-- For RampsRailsAndPublications. -/
theorem witness_rails : (let s := tRegs (tMode .armed) [(Reg.pwrDomainState, 80, 1)]
     s.hasDomain 80 = true ∧ s.domainState 80 = 1 ∧ s.mode ≠ .off ∧ s.domainState 80 ≠ 3) ∧
    (let s := tActive .armed []
     s.images.active = some tImage ∧ domainHarbour 64 ∈ harboursUsed tImage ∧ s.domainState 64 ≠ 3) ∧
    (let x : Sensors := { mainMv := 380000, auxMv := 48000, totalW := 21000, domainW := [], islandC := [(0, 110)], stackC := [(0, 104)] }
     40000 ≤ x.auxMv ∧ (∃ y ∈ x.islandC, y.1 < 80 ∧ 110 ≤ y.2) ∧ 330000 ≤ x.mainMv ∧ x.mainMv ≤ 420000 ∧ ∀ y ∈ x.stackC, y.2 < 105) ∧
    (let s := { tMode .held with power := { Power.off with mainOut := true } }
     s.mode ≠ .off ∧ s.power.mainOut = true) ∧
    (let s := { tMode .held with power := { Power.off with mainOn := true } }
     s.mode ≠ .off ∧ s.power.mainOn = true) := by decide +kernel

def tSnap (via : Via) (key : Nat) (domain : Bool) : Snapshot :=
  { via := via, key := key, bytes := List.replicate 8 1#8, parts := [0], opened := 0, touched := 0, isDomain := domain, dead := false }
def tWrite (via : Via) (key : Nat) (crc : Option Nat) (chunks : List (Nat × List Byte)) : WriteSession :=
  { id := 3, via := via, key := key, size := 16, crc := crc, chunks := chunks, touched := 0 }
def tLinks (g : Links → Links) (m : Mode) : State := (tRegs (tMode m) [(Reg.ethEnable, 0, 1)]).modLinks g

/-- For HeldAccessesExpire. -/
theorem witness_heldAccesses : (let s := tLinks (fun l => { l with snapshots := [tSnap .uart 9 false, tSnap .uart 8 true] }) .held
     s.links.snapshots.find? (fun y => y.via = .uart ∧ y.key = 9 ∧ !y.isDomain ∧ !y.dead) = some (tSnap .uart 9 false) ∧
       s.links.snapshots.find? (fun y => y.via = .uart ∧ y.key = 8 ∧ y.isDomain) = some (tSnap .uart 8 true)) ∧
    (let x : PendingWrite := { via := .uart, key := 9, parts := [(0, 1)], opened := 0, dead := false }
     let s := tLinks (fun l => { l with pendingWrites := [x] }) .held
     pendingOf s 9 = some x ∧ x.dead = false) ∧
    (let x := tWrite .uart 9 none []
     (tLinks (fun l => { l with writes := [x] }) .held).links.writes.find? (fun y => y.key = 9) = some x) ∧
    (let x : EthSession := { via := .eth 0 1 2, replies := [], mask := 0, mac := 9, seq := 0, lastSeen := 0 }
     (tLinks (fun l => { l with sessions := [x] }) .held).links.sessions.find? (fun y => y.via = .eth 0 1 2) = some x) := by decide +kernel
/-- For WritesAreCheckedInOrder. -/
theorem witness_writeChecks : indexDefined 0x1000 = true ∧ indexDefined 0x0001 = false ∧ findRow 0x1000 77 = none ∧
    unitPresent (tMode .held) 0x1000 = true ∧
    (∃ r, findRow Reg.pwrLimitW.base Reg.pwrLimitW.sub = some r ∧ r.access = .rwHeld ∧ r.isDomain = false ∧
      [0#8, 0#8, 0#8, 0#8].length = r.type.bytes ∧ r.check.ok r (leNat [0#8, 0#8, 0#8, 0#8]) = false) ∧
    (∃ r, findRow Reg.idCommand.base Reg.idCommand.sub = some r ∧ r.access ≠ .const ∧ r.access ≠ .ro ∧ r.access ≠ .live ∧ r.access ≠ .rwHeld) ∧
    (∃ r, findRow Reg.timeState.base Reg.timeState.sub = some r ∧ r.access = .ro) ∧
    (∃ r, findRow Reg.ethIpv6.base Reg.ethIpv6.sub = some r ∧ r.isDomain = true ∧ domainLengthOk r 16 = true ∧ domainLengthOk r 5 = false ∧
      openRefusal (tMode .held) r.reg = 0) ∧
    sessionHolds (tLinks (fun l => { l with writes := [tWrite .uart 9 none []] }) .held) 9 = true ∧
    ((tMode .held).mode = .held ∧ (tMode .held).act.phase = 0 ∧ leNat (leBytes 4 2000) = 2000) := by decide +kernel

/-- A datagram with a right frame and CRC. -/
def tFrame (op : Nat) (p : List Byte) : Datagram :=
  let d : Datagram := { frame := .whole, mac := 9, port := 0, addr := 1, udp := 2, magic := 0xC47E, version := 1, reqId := 6, length := p.length, zero := 0, status := 0, payload := p, crc := 0 }
  { d with crc := crc32c (datagramBytes op d) }
def tReach (s : State) (op : Nat) (p : List Byte) : Bool :=
  let d := tFrame op p
  match admitSession s d with
  | some v => s.mode != .off && s.mode != .boot && s.flag Reg.ethEnable 0 && frameOk d && d.crc == crc32c (datagramBytes op d) && (keptReply v d).isNone
  | none => false

/-- A datagram of the tests that reaches the dictionary does so as the statements say. -/
theorem reaches_tReach {s : State} {op : Nat} {p : List Byte} (h : tReach s op p = true) :
    ∃ u, reaches s op (tFrame op p) u := by
  unfold tReach at h
  simp only at h
  split at h
  · rename_i v hv
    simp only [Bool.and_eq_true, bne_iff_ne, ne_eq, beq_iff_eq, Option.isNone_iff_eq_none] at h
    exact ⟨_, h.1.1.1.1.1, h.1.1.1.1.2, by simp [tFrame], h.1.1.1.2, rfl, h.1.1.2, h.1.2, v, hv, h.2, rfl⟩
  · cases h

def tSource : Via := .eth 0 1 2
def tIpv6 : Nat := Reg.ethIpv6.key 0
/-- For DatagramsReadAndWrite. -/
theorem witness_readWrite : (let items : List (Nat × Nat) := [(0x1000, 0), (0x1001, 0)]
     let p : List Byte := items.flatMap fun x => leBytes 2 x.1 ++ leBytes 1 x.2 ++ [0#8]
     tReach (tLinks id .held) 0x01 p = true ∧ ∀ x ∈ items, x.1 < 65536 ∧ x.2 < 256 ∧ x.1 ≠ 0x2200 ∧ completionsAt x.1 x.2 = none) ∧
    (let items : List (Nat × Nat × List Byte) := [(0x1017, 0, [1#8, 0#8])]
     let p : List Byte := items.flatMap fun x => leBytes 2 x.1 ++ leBytes 1 x.2.1 ++ [0#8] ++ leBytes 2 x.2.2.length ++ leBytes 2 0 ++ pad4 x.2.2
     tReach (tLinks id .held) 0x02 p = true) := by decide +kernel
/-- A request reaches the dictionary in a state of which this holds. -/
def tGets (s : State) (op : Nat) (p : List Byte) (what : State → Bool) : Bool :=
  tReach s op p && ((admitSession s (tFrame op p)).map fun v => v.accessed tSource).any what
/-- For DatagramsMoveDomains. -/
theorem witness_domains : (let p (n : Nat) := leBytes 2 (tIpv6 / 256) ++ leBytes 2 (tIpv6 % 256) ++ leBytes 4 n ++ leBytes 4 7
     (∀ n ∈ [5, 16], tGets (tLinks id .held) 0x03 (p n) (fun u => match findObject u (tIpv6 / 256) (tIpv6 % 256) with
        | .object r => r.isDomain && ((openCheck u r tIpv6 n == 0) == (n == 16)) | _ => false) = true ∧ (p n).length = 12)) ∧
    (let x := tWrite tSource tIpv6 (some 7) []
     let s := tLinks (fun l => { l with writes := [x] }) .held
     let p := leBytes 2 3 ++ leBytes 2 0 ++ leBytes 4 0 ++ leBytes 2 4 ++ leBytes 2 0 ++ zeros 4
     tGets s 0x04 p (fun u => sessionOf u tSource 3 = some x) = true ∧ p.length = 16 ∧
       tGets s 0x06 (leBytes 4 3) (fun u => sessionOf u tSource 3 = some x) = true ∧
       tGets (tLinks id .held) 0x04 p (fun u => sessionOf u tSource 3 = none) = true ∧
       tGets (tLinks id .held) 0x05 (leBytes 4 3) (fun u => sessionOf u tSource 3 = none) = true ∧
       tGets (tLinks id .held) 0x06 (leBytes 4 3) (fun u => sessionOf u tSource 3 = none) = true) ∧
    (let x := tWrite tSource tIpv6 (some (crc32c (zeros 16))) [(0, zeros 16)]
     let s := tLinks (fun l => { l with writes := [x] }) .held
     tGets s 0x05 (leBytes 4 3) (fun u => sessionOf u tSource 3 = some x && (domainTaken (endWrite u 3) Reg.ethIpv6 0 (assemble x)).1 = 0 &&
       (findRow (x.key / 256) (x.key % 256)).any fun r => writeState u r = 0) = true ∧
       coveredFrom x.chunks x.chunks.length 0 = x.size ∧ x.crc = some (crc32c (assemble x))) ∧
    (∀ x ∈ [tWrite tSource tIpv6 (some 7) [(0, zeros 8)], tWrite tSource tIpv6 (some 7) [(0, zeros 16)]],
      tGets (tLinks (fun l => { l with writes := [x] }) .held) 0x05 (leBytes 4 3) (fun u => sessionOf u tSource 3 = some x) = true ∧
        x.crc ≠ some (crc32c (assemble x))) ∧
    (let x := tWrite tSource tIpv6 (some 7) [(0, zeros 8)]
     coveredFrom x.chunks x.chunks.length 0 < x.size) ∧
    (let x := tWrite tSource tIpv6 (some 7) [(0, zeros 16)]
     coveredFrom x.chunks x.chunks.length 0 = x.size) ∧
    (let p (o n : Nat) := leBytes 2 (tIpv6 / 256) ++ leBytes 2 (tIpv6 % 256) ++ leBytes 4 o ++ leBytes 2 n ++ leBytes 2 0
     let s := tLinks (fun l => { l with snapshots := [tSnap tSource tIpv6 true] }) .held
     (∀ o ∈ [0, 4], tGets (tLinks id .held) 0x07 (p o 4) (fun u => domainReadCheck u tSource (tIpv6 / 256) (tIpv6 % 256) = 0 &&
       openRead u tSource tIpv6 = none) = true) ∧ (readOne (tLinks id .held) tSource (tIpv6 / 256) (tIpv6 % 256)).2.length = 16 ∧
       tGets s 0x07 (p 4 4) (fun u => domainReadCheck u tSource (tIpv6 / 256) (tIpv6 % 256) = 0 &&
         (openRead u tSource tIpv6).any fun y => y.bytes.length = 8) = true) := by decide +kernel
/-- For BadDatagramsAreDroppedOrAnswered. -/
theorem witness_datagramFrames : (let d := { tFrame 0x09 [] with magic := 1 }
     d.magic ≠ 0xC47E ∧ (tLinks id .held).flag Reg.ethEnable 0 = true) ∧
    (∀ f ∈ [EthFrame.tagged, .long, .errored, .fragment, .pause], { tFrame 0x09 [] with frame := f }.frame ≠ .whole) ∧
    (let d := { tFrame 0x09 [] with crc := (tFrame 0x09 []).crc + 1 }
     d.magic = 0xC47E ∧ d.version = 1 ∧ d.length % 4 = 0 ∧ d.length = d.payload.length ∧ d.crc ≠ crc32c (datagramBytes 0x09 d)) := by decide +kernel
/-- For SessionsAndPortsAnswer. -/
theorem witness_sessions : tReach (tLinks id .held) 0x08 (leBytes 4 3) = true ∧ tReach (tLinks id .held) 0x09 [] = true ∧
    (let x : EthSession := { via := tSource, replies := [(6, [1#8])], mask := 0, mac := 9, seq := 0, lastSeen := 0 }
     let s := tLinks (fun l => { l with sessions := [x] }) .held
     (admitSession s (tFrame 0x09 [])).bind (fun u => keptReply u (tFrame 0x09 [])) = some [1#8]) ∧
    (let x (n : Nat) : EthSession := { via := .eth 0 9 n, replies := [], mask := 0, mac := 9, seq := 0, lastSeen := 0 }
     admitSession (tLinks (fun l => { l with sessions := (List.range 16).map x }) .held) (tFrame 0x09 []) = none) ∧
    (let s := tRegs (tMode .held) [(Reg.ethEnable, 0, 1), (Reg.ethIpv4, 0, 7)]
     s.mode ≠ .off ∧ s.mode ≠ .boot ∧ s.flag Reg.ethEnable 0 = true ∧ s.reg Reg.ethIpv4 0 = 7) ∧
    (tMode .boot).mode = .boot ∧ (tRegs (tMode .held) [(Reg.ethEnable, 0, 0)]).flag Reg.ethEnable 0 = false := by decide +kernel

/-- For UsdoServesTransfers. -/
theorem witness_usdo : (let s := tMode .held
     s.mode ≠ .off ∧ s.reg Reg.canState ≠ 2 ∧ transferOf s 1 = none ∧ namesDomain s 0x1017 0 = false ∧ s.act.phase = 0 ∧
       s.reg Reg.odDomainIdle ≠ 0 ∧ sessionHolds s tIpv6 = false ∧ s.links.writes = []) ∧
    (let x : UsdoTransfer := { node := 1, key := tIpv6, size := 20, data := [], session := 3 }
     let w := tWrite (.can 1) tIpv6 none []
     let s := (tMode .held).modLinks fun l => { l with transfers := [x], writes := [w] }
     transferOf s 1 = some x ∧ sessionOf s (.can 1) 3 = some w ∧ w.size + 4 = x.size) ∧
    (tRegs (tMode .held) [(Reg.canState, 0, 2)]).reg Reg.canState = 2 ∧
    (let u := (tMode .held).accessed (.can 1)
     (readItem u (.can 1) 1 0).1 ≠ 0 ∧ (readItem u (.can 1) 0x1017 0).1 = 0 ∧ (readItem u (.can 1) 0x1017 0).2.length ≤ 56 ∧
       (readItem u (.can 1) 0x1018 0).1 = 0 ∧ snapshotOf u (.can 1) tIpv6 = none ∧ openRead u (.can 1) tIpv6 = none ∧
       namesDomain u (tIpv6 / 256) (tIpv6 % 256) = true ∧ namesDomain u 0x1018 0 = false) ∧
    (let x : Snapshot := { tSnap (.can 1) 0x101800 false with bytes := zeros 70 }
     let s := tLinks (fun l => { l with snapshots := [x] }) .held
     let u := s.accessed (.can 1)
     ((snapshotOf u (.can 1) 0x101800).filter fun x => x.live u.clocks.cycle) = some x) ∧
    (let x : Snapshot := { tSnap (.can 1) tIpv6 true with bytes := zeros 70 }
     let s := tLinks (fun l => { l with snapshots := [x] }) .held
     (openRead (s.accessed (.can 1)) (.can 1) tIpv6).map (·.bytes) = some (zeros 70)) ∧
    (CanFrame.fd true ≠ .classical ∧ CanFrame.fd false ≠ .classical) ∧
    (let d := zeros 16 ++ leBytes 4 (crc32c (zeros 16))
     d.length = 20 ∧ leAt d 16 4 = crc32c (d.take 16) ∧ leAt (zeros 20) 16 4 ≠ crc32c ((zeros 20).take 16)) := by decide +kernel
/-- For NmtCommandsActAsIdCommands. -/
theorem witness_nmt : (∀ m ∈ [Mode.held, .armed, .running, .stopped, .faulted], let s := tMode m
     s.mode = m ∧ s.mode ≠ .off ∧ s.mode ≠ .boot ∧ s.reg Reg.canState ≠ 2) ∧ (tMode .held).act.phase = 0 := by decide +kernel
/-- For HeartbeatsAndEmcysLeave. -/
theorem witness_heartbeats : (∀ m ∈ [Mode.held, .armed, .running, .stopped, .faulted], let s := tRegs (tMode m) [(Reg.heartbeatTime, 0, 1)]
     s.mode.heartbeat.isSome = true ∧ s.reg Reg.heartbeatTime ≠ 0 ∧ s.links.beatOwed = false ∧ s.reg Reg.canState = 0) ∧
    (let s := (tRegs (tMode .faulted) [(Reg.heartbeatTime, 0, 1)]).modLinks fun l => { l with emcys := [{ code := 1, register := 0, unit := 0, beat := 0 }], beatOwed := true }
     s.links.emcys = { code := 1, register := 0, unit := 0, beat := 0 } :: [] ∧ s.links.beatOwed = true ∧ s.mode = .faulted) ∧
    (tRegs (tMode .held) [(Reg.canState, 0, 1)]).reg Reg.canState = 1 := by decide +kernel
/-- For PdosActInRunning. -/
theorem witness_pdos : (let s := tRegs (tMode .running) [(Reg.tpdoCob, 0, 0x181), (Reg.tpdoType, 0, 1), (Reg.rpdoCob, 0, 0x201), (Reg.rpdoType, 0, 255)]
     s.mode = .running ∧ s.reg Reg.canState ≠ 2 ∧ s.links.rpdoWaiting = [] ∧ tpdoOn s 0 = true ∧ 1 ≤ s.reg Reg.tpdoType 0 ∧
       s.reg Reg.tpdoType 0 ≤ 240 ∧ tabGet 0 s.links.tpdoSyncs 0 + 1 = 1 ∧ rpdoOn s 0 = true ∧ 240 < s.reg Reg.rpdoType 0) ∧
    (let s := tRegs (tMode .running) [(Reg.tpdoCob, 0, 0x181), (Reg.tpdoType, 0, 254), (Reg.tpdoEvent, 0, 5), (Reg.rpdoCob, 0, 0x201), (Reg.rpdoType, 0, 1),
       (Reg.rpdoMapCount, 0, 1), (Reg.rpdoMap, 0, 0x10170010)]
     mapping s false 0 = [0x10170010] ∧ mappedLength (mapping s false 0) = 2 ∧ rpdoOn s 0 = true ∧ s.reg Reg.rpdoType 0 ≤ 240 ∧
       tpdoOn s 0 = true ∧ 254 ≤ s.reg Reg.tpdoType 0 ∧ s.reg Reg.tpdoEvent 0 ≠ 0) ∧
    (let s := (tRegs (tMode .running) ((List.range 16).map fun k => (Reg.tpdoCob, k, 2 ^ 31))).modLinks fun l => { l with rpdoWaiting := [(0, [1#8])] }
     (∀ j < 16, tpdoOn s j = false) ∧ s.links.rpdoWaiting = [(0, [1#8])]) := by decide +kernel

def tAscii (t : String) : List Nat := t.toList.map Char.toNat
/-- For UartLinesAnswer. -/
theorem witness_uart : parseLine (tAscii "R 1018 02 0") = some (.read 0x1018 2 0) ∧ parseLine (tAscii "W 1017 00 0 00000005") = some (.write 0x1017 0 0 5) ∧
    parseLine (tAscii "O 2206 05 00000010 00000007") = some (.openLine 0x2206 5 16 7) ∧ parseLine (tAscii "C 2206 05") = some (.commit 0x2206 5) ∧
    parseLine (tAscii "X 2206 05") = some (.cancel 0x2206 5) ∧ parseLine (tAscii "r 1018 02 0") = none ∧
    (tMode .held).links.uartLine = [] ∧ (∀ c ∈ tAscii "W 1017 00 0 00000005", c ≠ 10 ∧ c ≠ 13) := by decide +kernel
/-- For UartLinesAnswer. -/
theorem witness_uartParts : (let s := tMode .held
     ∃ i < 0x100, (readOne s .uart (0x1000 + i) 0).1 = 0 ∧ (readOne s .uart (0x1000 + i) 0).2.length ≤ 4 ∧ namesDomain s (0x1000 + i) 0 = false) ∧
    (let k := Reg.beatStart.base
     let s := tMode .held
     namesDomain s k Reg.beatStart.sub = false ∧ (readOne s .uart k Reg.beatStart.sub).1 = 0 ∧ 4 < (readOne s .uart k Reg.beatStart.sub).2.length ∧
       snapshotOf s .uart (Reg.beatStart.key 0) = none) ∧
    (let x := tSnap .uart (Reg.beatStart.key 0) false
     let s := tLinks (fun l => { l with snapshots := [x] }) .held
     snapshotOf s .uart (Reg.beatStart.key 0) = some x ∧ x.parts.contains 1 = false ∧ x.live s.clocks.cycle = true ∧ x.live 1600000 = false ∧
       ∀ k < partCount x.bytes.length, k = 1 ∨ k ∈ x.parts) ∧
    (readOne (tMode .held) .uart 1 0).1 ≠ 0 ∧
    (match findObject (tMode .held) Reg.beatStart.base Reg.beatStart.sub with | .object r => !r.isDomain && r.type.bytes == 8 | _ => false) = true ∧
    (match findObject (tMode .held) 0x1017 0 with | .object r => !r.isDomain && decide (r.type.bytes ≤ 4) | _ => false) = true ∧
    (let x : PendingWrite := { via := .uart, key := Reg.beatStart.key 0, parts := [(0, 1)], opened := 0, dead := false }
     let s := tLinks (fun l => { l with pendingWrites := [x] }) .held
     pendingOf s (Reg.beatStart.key 0) = some x ∧ x.live s.clocks.cycle = true ∧ x.live 1600000 = false) ∧
    uartSession (tMode .held) tIpv6 = none ∧
    (let x := tWrite .uart tIpv6 none []
     uartSession (tLinks (fun l => { l with writes := [x] }) .held) tIpv6 = some x) := by decide +kernel
/-! ### The star, run commands, errors and tests -/

/-- Slot 2 of a 1000-long cycle, at core cycle 100, the cycle in progress since 25088/64 UI. -/
def tSil (m : Mode) (st : Nat) (g : Silush → Silush) (l : List (Reg × Nat × Nat)) : State :=
  { tRegs (tBeats m) ((Reg.silState, 0, st) :: (Reg.silSlot, 0, 2) :: (Reg.silCycle, 0, 1000) :: l) with
    silush := g { Silush.off with origin := 25088, originKnown := true }, clocks := { State.reset.clocks with cycle := 100 } }
def tBurst (d : BitVec 56) : Burst := { sub := 0, bits := burstBits d }
def tSlot0 (kind seq rest : Nat) : BitVec 56 := BitVec.ofNat 56 (kind * 2 ^ 54 + seq * 2 ^ 48 + rest)

/-- For SilushCyclesAndBroadcasts. -/
theorem witness_silushCycles : (let s := tSil .held 3 id []
     s.silSt = 3 ∧ s.mode ≠ .off ∧ s.mode ≠ .boot ∧ s.silush.originKnown = true ∧ s.silush.slot0Seen = false ∧ s.silush.sent = false ∧
       s.silush.dark = false ∧ s.silush.collided.contains 0 = false ∧ arrival s (tBurst 0#56) = s.silush.origin + 512) ∧
    (∀ k ∈ [0, 1, 2], (burstData (tBurst (tSlot0 k 4 7)).bits).map (fun d => (d.toNat / 2 ^ 54, d.toNat / 2 ^ 48 % 64)) = some (k, 4)) ∧
    (let s := tSil .held 2 id []
     s.silSt = 2 ∧ (tSlot0 2 4 (2 * 2 ^ 45)).toNat / 2 ^ 45 % 8 = s.reg Reg.silSlot ∧
       (tSlot0 2 4 (3 * 2 ^ 45)).toNat / 2 ^ 45 % 8 ≠ s.reg Reg.silSlot) ∧
    (let s := tSil .held 1 (fun x => { x with slot0Before := true }) []
     s.silSt = 1 ∧ s.silush.originKnown = true ∧ s.silush.slot0Before = true) := by decide +kernel
/-- For SilushCyclesAndBroadcasts. -/
theorem witness_silushPhase : (let s := { tSil .armed 3 (fun x => { x with beatHeard := some (3, 5, 25600), beatAge := 1 }) [(Reg.beatSource, 0, 0)] with beat := { (tBeats .armed).beat with at' := 100, period := 1600, fresh := true } }
     let d := tSlot0 1 4 (1600 * 2 ^ 16)
     s.mode.flows = true ∧ burstData (tBurst d).bits = some d ∧ s.silush.beatHeard = some (3, 5, 25600) ∧ s.silush.beatAge = 1 ∧
       d.toNat % 2 ^ 16 = 0 ∧ s.reg Reg.beatSource = 0 ∧ ceilDiv 25600 256 + d.toNat / 2 ^ 32 % 2 ^ 16 = 100 ∧ s.boundaryAt 5#48 = 100 ∧
       d.toNat / 2 ^ 16 % 2 ^ 16 = s.beat.period ∧ s.beat.fresh = true ∧
       ((100 - nearestBoundary s 100 * s.beat.period - s.beat.at' : Int)).natAbs ≤ 2 ∧
       2 < ((850 - nearestBoundary s 850 * s.beat.period - s.beat.at' : Int)).natAbs) ∧
    (let s := { tSil .armed 3 (fun x => { x with beatHeard := some (3, 5, 25600), beatAge := 1 }) [(Reg.beatSource, 0, 0)] with beat := { (tBeats .armed).beat with at' := 100, period := 1600, fresh := false } }
     s.mode.flows = true ∧ s.beat.fresh = false ∧ s.boundaryAt 5#48 = 100 ∧ s.boundaryAt 6#48 = 1700) ∧
    (let d := tSlot0 1 4 (15 * 2 ^ 16)
     burstData (tBurst d).bits = some d ∧ d.toNat / 2 ^ 16 % 2 ^ 16 < 16) ∧
    (let s := { tMode .held with act := { Activation.none with phase := 1 }, images := { Images.none with main := some tImage } }
     s.mode = .held ∧ s.act.phase = 1 ∧ s.images.main = some tImage) := by decide +kernel
/-- For SilushRangesAndClassesBursts. -/
theorem witness_ranging : (let s := tSil .held 2 (fun x => { x with rangeSent := some 20000 }) []
     s.silush.rangeSent = some 20000 ∧ arrival s (tBurst 0#56) - 20000 + 8192 ≤ 2 * s.reg Reg.silCycle * 4096 / 80) ∧
    (let s := tSil .held 2 (fun x => { x with rangeSent := some 20000 }) [(Reg.silCycle, 0, 100)]
     ¬ arrival s (tBurst 0#56) - 20000 + 8192 ≤ 2 * s.reg Reg.silCycle * 4096 / 80) ∧
    (let s := { tSil .held 3 (fun x => { x with sent := true, collRun := 2 }) [] with clocks := { State.reset.clocks with cycle := 500 } }
     let d : Int := (arrival s (tBurst 0#56) : Int) - (s.silush.origin + 2 * s.reg Reg.silCycle * 4096 / 80 + 512 : Nat)
     s.silSt = 3 ∧ s.silush.sent = true ∧ s.silush.seen.contains 2 = false ∧ s.silush.collided.contains 2 = false ∧ d = 0 ∧
       d + 512 + 5632 ≤ ((3 * s.reg Reg.silCycle * 4096 / 80 - 2 * s.reg Reg.silCycle * 4096 / 80 : Nat) : Int)) ∧
    (let s := tSil .held 3 (fun x => { x with seen := [2] }) []
     s.silush.seen.contains 2 = true ∧ s.silush.collided.contains 2 = false) ∧
    burstData 0#72 = none ∧
    (let s := tSil .held 3 (fun x => { x with absentRun := [(0, 4)] }) []
     bit (s.reg Reg.silAbsentMask) 0 = false ∧ tabGet 0 s.silush.absentRun 0 = 4 ∧ tabGet 0 s.silush.absentRun 1 < 4 ∧ s.mode.online = true) := by decide +kernel

/-- For RunCommandsAct. -/
theorem witness_activate : (let s := tRegs (tMode .held) [(Reg.imgState, 0, 1)]
     s.mode = .held ∧ s.reg Reg.imgState = 1 ∧ s.act.phase = 0 ∧ activationReason s = 5) ∧
    (let i : ImagePlan := { tImage with forgings := [], shoals := [], ferries := [] }
     let s := { tRegs (tMode .held) [(Reg.imgState, 0, 1)] with images := { Images.none with main := some i } }
     s.mode = .held ∧ activationReason s = 0 ∧ (s.setReg Reg.beatSource 0 1).reg Reg.beatSource = 1 ∧
       storePoisoned (s.setReg Reg.beatSource 0 1) false = false) ∧
    (let i : ImagePlan := { tImage with forgings := [], shoals := [], ferries := [] }
     let s := { tRegs (tMode .held) [(Reg.imgState, 0, 1), (Reg.beatSource, 0, 1)] with images := { Images.none with main := some i }, poison := [mkAddr 0 0 imageStoreLo / 64] }
     storePoisoned s false = true) := by decide +kernel
/-- For RunCommandsAct. -/
theorem witness_runCommands : (∀ m ∈ [Mode.boot, .held, .armed, .running, .stopped, .faulted], (tMode m).mode = m ∧ (tMode m).mode ≠ .off) ∧
    (tMode .held).reg Reg.imgState ≠ 1 ∧
    (∀ p ∈ [1, 2], ({ tMode .held with act := { Activation.none with phase := p } }).act.phase = p) := by decide +kernel
/-- For DrainsEndAndResetsBoot. -/
theorem witness_drain : (∀ d ∈ [1, 2], let s := { tBeats .stopped with run := { Run.none with drain := d } }
     s.run.drain = d ∧ s.mode.flows = true ∧ s.clocks.cycle = s.beat.at' ∧ drained s = true ∧ pendingSlots s = []) ∧
    (let b : BootInputs := { carrier := Carrier.blank, testEn := false, mainPresent := true, refclk := true, hearthLocks := false, failedDomains := [], failedStacks := [], failedBist := [] }
     b.hearthLocks = false ∧ (tMode .running).mode.online = true ∧ (tMode .boot).mode = .boot) := by decide +kernel

def tUnit (kind : Nat) : FaultUnit := { kind := kind, unit := 64, loc := 0 }
def tTesting (kind : Nat) (running : Bool) : State :=
  { tMode .held with faults := { Faults.none with tests := [{ unit := tUnit kind, running := running, since := 0, uncorrectable := false, errors := 0, detail := 0 }] } }
/-- For ErrorsTestsAndDigests. -/
theorem witness_errors : (let s := tRegs (tMode .held) [(Reg.fltScrubEnable, 0, 1)]
     s.hasHarbour 0 = true ∧ s.flag Reg.fltScrubEnable = true ∧ isPersistent s (sramUnit 0 2 9) = false ∧ testOf s (sramUnit 0 2 9) = none) ∧
    (∀ k ∈ [1, 2, 3], (testOf (tTesting k false) (tUnit k)).map Test.running = some false ∧ (tTesting k false).mode.flows = false) ∧
    (∀ k ∈ [2, 4, 6], (testOf (tTesting k true) (tUnit k)).map Test.running = some true) ∧
    testOf (tMode .held) (tUnit 2) = none ∧ usersOf (tTesting 2 false) (tUnit 2) = [] ∧
    (let u : FaultUnit := { kind := 6, unit := 64, loc := 8 * 4096 }
     let s := setCtx (tTesting 6 false) 0 8 { Ctx.idle with state := 1, commit := true }
     8 ∈ usersOf s u ∧ ((s.harbour 0).ctx 8).commit = true) ∧
    (∀ k < 10, (((tTesting 2 true).harbour 0).ctx k).awaits ≠ some (tUnit 2)) := by decide +kernel
/-- For ErrorsTestsAndDigests. -/
theorem witness_digest : (let s := { tRegs (tBeats .armed) [(Reg.detLsEnable, 0, 1)] with faults := { Faults.none with digests := [(5#48, 7)] } }
     s.flag Reg.detLsEnable = true ∧ s.mode.flows = true ∧ beatDiff 5#48 s.beat.n = 0 ∧ s.faults.peers = [] ∧
       s.faults.digests.find? (fun x => x.1 = 5#48) = some (5#48, 7) ∧ (7 : Nat) ≠ (9#32).toNat ∧ s.faults.frozen = false) := by decide +kernel
/-- For LogClearBistAndTestPort. -/
theorem witness_bist : (let s := tRegs (tMode .held) [(Reg.pwrDomainState, 0, 2), (Reg.pwrDomainState, 64, 2)]
     s.mode.online = true ∧ s.reg Reg.bistState = 0 ∧ s.hasIsland 0 = true ∧ s.domainOn 0 = true ∧ planesWithTile s 0 = [] ∧ s.hasHarbour 0 = true ∧
       s.domainOn 64 = true) ∧
    (let s := { tMode .held with carrier := { Carrier.blank with grade := 2 } }
     s.hasIsland 63 = false) ∧
    (let s := { tMode .held with faults := { Faults.none with bist := some (64, 3) } }
     s.faults.bist = some (64, 3) ∧ bistWaits s 0 = false) ∧
    (tMode .held).mode ≠ .off ∧ State.reset.mode = .off := by decide +kernel
/-- For CommandsKeepToTheirOwnState. -/
theorem witness_frames : keepsControl (.nopCommand 0 0 0) = true ∧ keepsEngines .heartbeat = true ∧ keepsRegisters (.signal 0 0 0) = true ∧
    seatOf (.nop tSeat (tFields 0 0 0 0 0)) = some (.tile tTile false) ∧ seatOf (.nop (.temper 0 0) (tFields 0 0 0 0 0)) = some (.temper 0 0) ∧
    exec .heartbeat State.reset = .next State.reset := ⟨rfl, rfl, rfl, rfl, rfl, rfl⟩
/-! ### Results that the manual prints, and a few by hand -/

/-- The next state of a command, reset where it has none. -/
def tNext (c : Instr) (s : State) : State :=
  match exec c s with
  | .next t => t
  | _ => State.reset

/-- The words of Table 6.9 written out, and read back. -/
theorem test_words_of_table_6_9 :
    encodeWord 0x27 (tFields 0x40 1 0 0 0x30) = 0x9C04010000000030#64 ∧ encodeWord 0x28 (tFields 0x40 2 0 0 0x100A0) = 0xA0040200000100A0#64 ∧
    encodeWord 0x21 (tFields 0x40 1 1 2 0) = 0x8404011200000000#64 ∧ encodeWord 0x08 (tFields 0 3 0 0 0) = 0x2000030000000000#64 ∧
    encodeWord 0x29 (tFields 0x40 4 1 3 1) = 0xA404041300000001#64 ∧ encodeWord 0x20 (tFields 0x40 5 1 4 0) = 0x8004051400000000#64 ∧
    encodeWord 0x09 (tFields 0 0 5 0 0x81) = 0x2400005000000081#64 := by decide +kernel

/-- A register of 16-bit elements, lowest first. -/
def tVec (l : List Nat) : Word256 := BitVec.ofNat 256 (l.zipIdx.map fun x => x.1 * 2 ^ (16 * x.2)).sum
def tRegfile (l : List (List Nat)) : Regfile := { Regfile.clear with v := (l.map tVec) ++ List.replicate (16 - l.length) 0#256 }
/-- The low elements of a register after a step. -/
def tElems (s : State) (v n : Nat) : List Nat :=
  match (s.tile tTile false).inst with
  | some i => (List.range n).map fun j => getElem .int16 (listGet 0#256 i.rf.v v).toNat j
  | none => []

/-- Table 6.10: VCVT, VBC, VSUB, VSLIDE and VADD of one instance. -/
theorem test_vcvt : (let f := tFields 0x40 1 0 0 0x30
     tElems (tNext (.vcvt tSeat f) (tReady 0x27 f (tRegfile [[0xA3, 0xFFF, 0x1F4, 0xB0]]))) 1 4) = [163, 0x8000, 500, 176] := by decide +kernel
theorem test_vbc : (let f := tFields 0x40 2 0 0 0x100A0
     tElems (tNext (.vbc tSeat f) (tReady 0x28 f (tRegfile []))) 2 16) = List.replicate 16 160 := by decide +kernel
theorem test_vsub : (let f := tFields 0x40 1 1 2 0
     tElems (tNext (.vsub tSeat f) (tReady 0x21 f (tRegfile [[], [163, 0x8000, 500, 176], [160, 160, 160, 160]]))) 1 4) = [3, 0x8000, 340, 16] := by decide +kernel
theorem test_vslide : (let f := tFields 0x40 4 1 3 1
     tElems (tNext (.vslide tSeat f) (tReady 0x29 f (tRegfile [[], [3, 0x8000, 340, 16], [], [12]]))) 4 16) = [0x8000, 340, 16] ++ List.replicate 12 0 ++ [12] := by decide +kernel
theorem test_vadd : (let f := tFields 0x40 5 1 4 0
     tElems (tNext (.vadd tSeat f) (tReady 0x20 f (tRegfile [[], [3, 0x8000, 340], [], [], [0x8000, 340, 16]]))) 5 3) = [0x8000, 0x8000, 356] := by decide +kernel

/-- Table 5.4 and the text below it. -/
theorem test_conversions : (convert .int16 .e4m3 .rne 3).code = 0x44 ∧ (convert .int16 .e4m3 .rne 0x8000).code = 0xFF ∧
    (convert .int16 .e4m3 .rne 340).code = 0x7B ∧ (convert .int16 .bf16 .rne 340).code = 0x43AA ∧ (convert .int16 .e4m3 (.sr 40959) 340).code = 0x7B ∧
    (convert .int16 .e4m3 (.sr 40960) 340).code = 0x7A ∧ (convert .int16 .e4m3 .rne 3934).code = 0x7E ∧
    (roundInto .int8 .rne ((decodeNum .int8 100).add (decodeNum .int8 100))).code = 0x7F ∧
    (roundInto .int8 .rne ((decodeNum .int8 156).add (decodeNum .int8 156))).code = 0x81 := by decide +kernel

/-- Table 16.7. -/
theorem test_counter_block : tileBlock 0x123405#48 0 0x00123 0 3 1 = 0x0000000246_80A0001230000188000000#128 := by decide +kernel

/-- The standard answers of the three checks: CRC-32C of "123456789", AES-128 of FIPS 197, SHA-384 of "abc". -/
theorem test_crc32c : crc32c (ascii (tAscii "123456789")) = 0xE3069283 := by decide +kernel
theorem test_aes128 : beNat (aes128 (beBytes 16 0x000102030405060708090a0b0c0d0e0f) (beBytes 16 0x00112233445566778899aabbccddeeff)) =
    0x69c4e0d86a7b0430d8cdb78070b4c55a := by decide +kernel
theorem test_sha384 : beNat (sha384 (ascii (tAscii "abc"))) =
    0xcb00753f45a35e8bb5a03d699ac65007272c32ab0eded1631a8b605a43ff5bed8086072ba1e7cc2358baeca134c825a7 := by decide +kernel

/-- Table 7.7: beats n to n + 3 at H5, then the refusals of n + 5 and n + 6. -/
def tH5 : Contributor := { key := 5, share := 1792, g0 := 0, gPlus := 260, cap0 := 0, capPlus := 262144 }
def tDrains (q : Quench) : Quench := { q with ledP := tabMod [] q.ledP 5 (drainLedger (drainWords 260)) }
def tLedgers : Nat → Quench
  | 0 => Quench.empty
  | k + 1 => tDrains (enterLedger (BitVec.ofNat 48 k) (if k = 3 then 8 else 32) (if k = 3 then 6 else 3) (tLedgers k) tH5)
theorem test_ledger : owedOf (tabGet [] (tLedgers 1).ledP 5) = 1536 ∧ owedOf (tabGet [] (tLedgers 3).ledP 5) = 4608 ∧
    aheadOf (tabGet [] (tLedgers 2).ledP 5) 3 1792 = 4864 ∧ admits (tLedgers 3) 8 6 tH5 = true ∧ admits (tLedgers 4) 32 3 tH5 = true ∧
    (tabGet [] (tLedgers 4).ledP 5).map LedEntry.slack = [256, 4608, 3072, 1536] ∧ admits (tLedgers 5) 32 3 tH5 = false ∧
    aheadOf (tabGet [] (tLedgers 5).ledP 5) 3 1792 = 9472 ∧ admits (tDrains (tLedgers 5)) 8 6 tH5 = false ∧
    aheadOf (tabGet [] (tDrains (tLedgers 5)).ledP 5) 6 1792 = 2816 := by decide +kernel
theorem test_record : verdictRecord 0x123405#48 0 2 19
    { reject := none, cand := 0, cls := 3, flags := 0#5, time := some ({ sec := 0, ns := 0x0A1B2C, frac := 0x3D00 }, 0), edge := false, score := 0x0150 } false false 0 =
    0x0000001234050A6C000001500A1B2C3D#128 := by decide +kernel

/-- The bench of the sieve: REFLECT, 106.5 rounds to 106. -/
theorem test_pyramid : (let j : SieveJob := { op := 3, k := 5, border := 1, levels := 1, inFmt := 0x30, outFmt := 0x30, shift := 8, w := 8, h := 8, borderCode := 0, inBase := 0, inPitch := 32, outPitch := 32, outBase := 0, kernel := 0 }
     (filterAt j [] 0x30 (fun x _ => listGet 0 [100, 108, 120] x) 8 8 0 0).code) = 106 := by decide +kernel
theorem test_subpixel : subPixel 410 380 392 = 1 ∧ 4 * 37 + subPixel 410 380 392 = 149 := by decide +kernel

/-- Table 13.9: a stop bit whose next start edge comes early, at sample 9 and at sample 8. -/
def tStop (n : Nat) : List Bool :=
  [true] ++ List.replicate 16 false ++ List.replicate 128 true ++ List.replicate n true ++ List.replicate 16 false ++ List.replicate 160 true
theorem test_stop_bits : (sampleChars false (tStop 9) 20 (.from 0)).map (fun c => (c.code, c.framing)) = [(255, false), (255, false)] ∧
    (sampleChars false (tStop 8) 20 (.from 0)).map (fun c => (c.code, c.framing)) = [(255, true), (255, false)] := by decide +kernel

/-- Table 12.4: the two parts of 0x1_FFFF_FFF0, the high one from the snapshot. -/
def tCounter (v : Nat) : State := { tMode .held with pub := (tRegs (tMode .held) [(Reg.qnRefused.at 3, 0, v)]).regs }
def tLine (t : String) : UartLine := .chars false ((tAscii t ++ [13]).map fun c => { code := c, framing := false, parity := false, brk := false })
theorem test_uart_parts : (let s := tNext (.uartReadLine (tLine "R 3211 14 0")) (tCounter 0x1FFFFFFF0)
     let t := tNext (.uartReadLine (tLine "R 3211 14 1")) { s with pub := (tCounter 0x200000010).pub }
     t.outbox.map (fun o => match o with | .uart _ bs => bs | _ => [])) = [ascii (tAscii "OK 00000001" ++ [13, 10]), ascii (tAscii "OK FFFFFFF0" ++ [13, 10])] := by decide +kernel

/-- Table 11.9: a LAUNCH after two words in lockstep: 12 cycles of stall and the count restored. -/
theorem test_restart : (let s := (setCtx (tWork 1 (tCmd 0x20 0)) 0 4 { tCtx with issued := 2, engine := 1 }).setReg Reg.engQueueMode 0 0
     let t := tNext (.routineRestart 0 4) s
     (t.reg Reg.seqRestarts 0, t.reg Reg.engStallCycles 0, ((t.harbour 0).ctx 4).issued)) = (1, 12, 2) := by decide +kernel

/-- Table 14.6: A of 30 ns answers slot 4 at 35.25 ns after the origin, 225.6 UI, so at the next UI boundary. -/
theorem test_send_time : sendTime (({ tMode .held with silush := { Silush.off with loopDelay := 192 * 64 } }).setReg Reg.silSlot 0 4 |>.setReg Reg.silCycle 0 128) = 226 * 64 := by decide +kernel
theorem test_scrambler_is_its_own_inverse : burstData (burstBits 0x123456789ABCDE#56) = some 0x123456789ABCDE#56 := by decide +kernel
/-- Table 19.9, steps 2 and 4. -/
theorem test_domains : (tNext (.pwrDomainOn 20 [0#8]) (tRegs (tMode .armed) [(Reg.pwrDomainState, 20, 2)])).domainState 20 = 0 ∧
    (tNext (.pwrDomainOn 63 [1#8]) (tMode .armed)).domainState 63 = 1 := by decide +kernel
/-- Step takes the front of the queue, and idles on an empty one. -/
theorem test_step : (match step { tMode .held with pending := [.pwrDomainOn 63 [1#8], .heartbeat] } with | .next t => (t.pending.length, t.domainState 63) | _ => (0, 0)) = (1, 1) ∧
    (match step State.reset with | .next t => (t.mode, t.pending.length) | _ => (.held, 9)) = (.off, 0) := by decide +kernel
end Sys2Proof.Machine
end

section
/-! SUPPORT. How a command ends: every meaning is one effect on the state, kept where the unit that it names is there (R5, R6, R10). -/

namespace Sys2Proof.Machine

/-- An outcome of a command from `s` on a unit that is there when `b` holds: some effect where it is, `absentUnit` where it is not. -/
def EndsOn (b : Bool) (s : State) (o : Host.Outcome State Fault Refusal) : Prop := ∃ t, o = onUnit b s t

theorem EndsOn.next {b : Bool} {s : State} {o : Host.Outcome State Fault Refusal} (h : EndsOn b s o) (hb : b = true) :
    ∃ t, o = .next t ∧ t.pending = s.pending := by
  obtain ⟨x, rfl⟩ := h
  exact ⟨_, onUnit_present s x hb, rfl⟩

theorem EndsOn.fault {b : Bool} {s : State} {o : Host.Outcome State Fault Refusal} (h : EndsOn b s o) (hb : b = false) :
    o = .fault .absentUnit := by
  obtain ⟨x, rfl⟩ := h
  exact onUnit_absent s x hb

/-! ### The shared endings of commands -/

theorem onUnit_endsOn (b : Bool) (s t : State) : EndsOn b s (onUnit b s t) := ⟨t, rfl⟩

/-- A command that names no numbered unit acts as on one that is there. -/
theorem done_endsOn (s t : State) : EndsOn true s (done s t) := ⟨t, rfl⟩

theorem writeOn_endsOn (b : Bool) (r : Reg) (n : Nat) (bs : List Byte) (s : State) : EndsOn b s (writeOn b r n bs s) :=
  onUnit_endsOn ..

theorem startBist_endsOn (unit kind : Nat) (s : State) : EndsOn (decide (unit < 256)) s (startBist unit kind s) :=
  writeOn_endsOn ..

theorem anvil_endsOn (op : Nat) (body : Body) (u : Seat) (f : AnvilFields) (s : State) : EndsOn (s.hasSeat u) s (anvil op body u f s) :=
  onUnit_endsOn ..

theorem temperOnly_endsOn (op : Nat) (body : Nat → Nat → Body) (u : Seat) (f : AnvilFields) (s : State) :
    EndsOn (s.hasSeat u) s (temperOnly op body u f s) := onUnit_endsOn ..

theorem command_endsOn (op : Nat) (g : State → Running → State) (h e q : Nat) (s : State) :
    EndsOn (s.hasQueue h e q) s (command op g h e q s) := onUnit_endsOn ..

theorem seqRow_endsOn (seq : Nat) (i : MicroIssue) (s : State) : EndsOn (s.hasHarbour i.h && i.ctx < 10) s (seqRow seq i s) :=
  onUnit_endsOn ..

/-! ### Every command -/

/-- `present` is the very condition on which a command's meaning acts: the families are grouped by the ending that they share. -/
theorem exec_endsOn (c : Instr) (s : State) : EndsOn (present s c) s (exec c s) := by
  cases c with
  | powerUp | hearthLockTimeout | hearthUnlock | refclkAbsent | beatBoundary | ptpSync | ptpFollowUp | ptpAnnounce
  | ptpDelayResp | ptpPdelayReq | ptpPdelayResp | ptpManagement | ptpSyncTx | ptpDelayReqTx | announceReceiptTimeout
  | ptpPortLinkDown | soundingEnd | soundLost | shadowLoadComplete | publication | mainRailTimeout | mainPowerRemoval
  | snapshotExpiry | uartPartExpiry | domainSessionIdle | domainReadIdle | registerWrite | read | write | domainOpen
  | domainChunk | domainCommit | domainCancel | domainRead | subscribe | close | sessionTimeout | usdoUpload | usdoDownload
  | nmtStartRemoteNode | nmtStopRemoteNode | nmtEnterPreOperational | nmtResetNode | nmtResetCommunication | heartbeat | sync
  | emcyTransmit | busOff | busOffRecovery | uartReadLine | uartWriteLine | uartOpenLine | uartCommitLine | uartCancelLine
  | silushCycleStart | slot0Beat | slot0Phase | slot0Range | rangingReturn | ownBurst | noBeatTimeout | reset | drainEnd
  | testStart | testForcedStart | testComplete | bistComplete | jtagIdcode | jtagBypass | ptpDelayReq | canErrorPassive
  | usdoAbort =>
    exact done_endsOn ..
  | actionDueInHeld | timeActFieldWrite | signalPresent | lossOfSignal | blockLock | blockLockLoss | fecLock | fecLockLoss
  | beatHeader | alignMarker | dataBlock | fillBlock | shoalTokenRelease | laneConfigWrite | injectPeriodic | prbsLock
  | prbsLockLoss | ferryToken | ferryTokenRelease | triggerArrival | orphanToken | bankedCycle | budgetExhausted
  | quenchFinalToken | verdictIssue | verdictRingArrival | commandStart | commandComplete | engCompletionsRead | itemArrival
  | itemDue | itemTimeout | reductionApply | orderedReductionApply | hbmRefresh | hbmScrub | routineRestart | arpRequest
  | icmpEcho | neighbourSolicitation | ethLinkChange | tpdoEventTimer | receivePdo | slotBurst | slotAbsent | digest
  | harbourScrub | rampComplete | domainFailed =>
    exact onUnit_endsOn ..
  | actionCommit | actionCancel | timePtpEnable | laneInjectFire | dbgHazClear | imgShadowLoad | forgeSoundLoaded
  | forgeSoundReprime | forgeSoundReload | engTokens | engResume | cacheHoldDirectMib | silReenable | activate | start | stop
  | hold | rearm | fltLogClear | pwrDomainOn =>
    exact writeOn_endsOn ..
  | bistLogic | bistMemory | bistBoth =>
    exact startBist_endsOn ..
  | nop | rep | pset | ttest | tflag | recv | send | ldc | ldw | stw | hpush | hld | acci | dot | accout | accred | vadd | vsub
  | vmul | vfma | vmax | vmin | vshr | vcvt | vbc | vslide | lut | luti | cmp | testv | sel | mlog | popc =>
    exact anvil_endsOn ..
  | lda | sta | reda | aradd | br | endKernel =>
    exact temperOnly_endsOn ..
  | nopCommand | signal | list | copy | fill | fetch | store | pin | pinCopy | launch | rangePrefetch | rangeFlush
  | rangeInvalidate | sieveJob | pairJob =>
    exact command_endsOn ..
  | seqNext | seqJump | seqJumpP | seqBranch | seqCall | seqReturn | seqWait | seqEnd =>
    exact seqRow_endsOn ..

/-- Settles O2: every command ends on the units that it names, `present` says whether these are there, and no ending refuses. That an
absent unit ends in the fault `absentUnit` is the model's choice (notes/assumptions/80.md): R6 has an access to one reported as an
absent object. -/
theorem commandsEndAsPresenceSays : Obligations.CommandsEndAsPresenceSays := by
  intro c s
  have h : EndsOn (present s c) s (exec c s) := exec_endsOn c s
  exact ⟨h.next, h.fault⟩

end Sys2Proof.Machine
end

section
/-! SUPPORT. What time, taps, ferries and the loads of holds leave alone: the forgings' planes, quenches and tanks, the tiles, and
every register below the engines'. -/

namespace Sys2Proof.Machine

/-- What `t` keeps of `s` where only engines, lanes, outputs or the clock have moved: every register below index 0x3400, and the
parts of the state that say what the forgings do. -/
structure ForgesKept (s t : State) : Prop where
  reg : ∀ (r : Reg) (n : Nat), r.key n < 0x340000 → t.reg r n = s.reg r n
  planes : t.planes = s.planes
  quenches : t.quenches = s.quenches
  tanks : t.tanks = s.tanks
  tiles : t.tiles = s.tiles
  remaps : t.remaps = s.remaps
  carrier : t.carrier = s.carrier
  beat : t.beat = s.beat
  run : t.run = s.run
  act : t.act = s.act
  images : t.images = s.images

namespace ForgesKept

theorem refl (s : State) : ForgesKept s s := ⟨fun _ _ _ => rfl, rfl, rfl, rfl, rfl, rfl, rfl, rfl, rfl, rfl, rfl⟩

theorem trans {s t u : State} (h : ForgesKept s t) (k : ForgesKept t u) : ForgesKept s u :=
  ⟨fun r n hr => (k.reg r n hr).trans (h.reg r n hr), k.planes.trans h.planes, k.quenches.trans h.quenches, k.tanks.trans h.tanks,
    k.tiles.trans h.tiles, k.remaps.trans h.remaps, k.carrier.trans h.carrier, k.beat.trans h.beat, k.run.trans h.run,
    k.act.trans h.act, k.images.trans h.images⟩

theorem foldl {α : Type} {f : State → α → State} (h : ∀ s x, ForgesKept s (f s x)) (l : List α) (s : State) :
    ForgesKept s (l.foldl f s) :=
  foldl_holds (ForgesKept s) f (fun _ x k => k.trans (h _ x)) l s (refl s)

theorem plane {s t : State} (h : ForgesKept s t) (f : Nat) (q : Bool) : t.plane f q = s.plane f q := by
  simp only [State.plane, h.planes]

theorem quench {s t : State} (h : ForgesKept s t) (f : Nat) : t.quench f = s.quench f := by
  simp only [State.quench, h.quenches]

theorem tank {s t : State} (h : ForgesKept s t) (k : Nat) : t.tank k = s.tank k := by
  simp only [State.tank, h.tanks]

/-! ### Single fields -/

theorem setHarbour (s : State) (h : Nat) (x : Harbour) : ForgesKept s (s.setHarbour h x) :=
  ⟨fun _ _ _ => rfl, rfl, rfl, rfl, rfl, rfl, rfl, rfl, rfl, rfl, rfl⟩

theorem modHarbour (s : State) (h : Nat) (g : Harbour → Harbour) : ForgesKept s (s.modHarbour h g) := setHarbour ..

theorem setLane (s : State) (l : Nat) (x : Lane) : ForgesKept s (s.setLane l x) :=
  ⟨fun _ _ _ => rfl, rfl, rfl, rfl, rfl, rfl, rfl, rfl, rfl, rfl, rfl⟩

theorem setPoison (s : State) (l : Nat) (p : Bool) : ForgesKept s (s.setPoison l p) :=
  ⟨fun _ _ _ => rfl, rfl, rfl, rfl, rfl, rfl, rfl, rfl, rfl, rfl, rfl⟩

theorem emit (s : State) (o : Out) : ForgesKept s (s.emit o) :=
  ⟨fun _ _ _ => rfl, rfl, rfl, rfl, rfl, rfl, rfl, rfl, rfl, rfl, rfl⟩

theorem setXlane (s : State) (x : Nat) (v : XLane) : ForgesKept s (s.setXlane x v) :=
  ⟨fun _ _ _ => rfl, rfl, rfl, rfl, rfl, rfl, rfl, rfl, rfl, rfl, rfl⟩

theorem withXseq (s : State) (l : List (Nat × Nat)) : ForgesKept s { s with xseq := l } :=
  ⟨fun _ _ _ => rfl, rfl, rfl, rfl, rfl, rfl, rfl, rfl, rfl, rfl, rfl⟩

theorem withFaults (s : State) (x : Faults) : ForgesKept s { s with faults := x } :=
  ⟨fun _ _ _ => rfl, rfl, rfl, rfl, rfl, rfl, rfl, rfl, rfl, rfl, rfl⟩

theorem withClocks (s : State) (c : Clocks) : ForgesKept s { s with clocks := c } :=
  ⟨fun _ _ _ => rfl, rfl, rfl, rfl, rfl, rfl, rfl, rfl, rfl, rfl, rfl⟩

/-- A counter of the engines, the caches or the bellows stands at or above index 0x3400. -/
theorem count (s : State) (r : Reg) (n bits k : Nat) (hr : 0x3400 ≤ r.base) : ForgesKept s (s.count r n bits k) :=
  ⟨fun r' n' h => State.reg_count_other _ _ _ (by simp only [Reg.key] at h ⊢; omega),
    rfl, rfl, rfl, rfl, rfl, rfl, rfl, rfl, rfl, rfl⟩

/-! ### Time and taps -/

theorem groupTick (n : Nat) (s : State) (h : Nat) : ForgesKept s (groupTick n s h) :=
  (count s Reg.engGroupCycles h 64 _ (by decide)).trans (count _ Reg.engStallCycles h 64 _ (by decide))

theorem runTo (s : State) (c : Nat) : ForgesKept s (s.runTo c) := by
  unfold State.runTo State.advance
  refine .trans ?_ (withClocks _ _)
  split
  · exact refl s
  · exact foldl (groupTick _) _ _

theorem tapInto (s : State) (i : Nat) (q : Bool) (tok : Token) (b : Beat) : ForgesKept s (tapInto s i q tok b) := by
  unfold Machine.tapInto
  dsimp only
  split <;> exact withFaults ..

theorem tap (s : State) (kind place colRow port : Nat) (q : Bool) (tok : Token) (b : Beat) :
    ForgesKept s (tap s kind place colRow port q tok b) := by
  unfold Machine.tap
  refine foldl (fun t i => ?_) _ _
  dsimp only
  split
  · exact tapInto ..
  · exact refl t

/-! ### Ferries -/

theorem serialize (s : State) (x n v : Nat) : ForgesKept s (serialize s x n v) := by
  unfold Machine.serialize
  split
  · exact refl s
  · exact (setXlane ..).trans (emit ..)

theorem transmit (s : State) (x : Nat) (bs : List Coded) : ForgesKept s (transmit s x bs) := by
  unfold Machine.transmit
  dsimp only
  split
  · exact refl s
  · split <;> exact (setXlane ..).trans (serialize ..)

theorem sendFerry (s : State) (x c : Nat) (tok : Token) : ForgesKept s (sendFerry s x c tok) :=
  ((emit s _).trans (withXseq _ _)).trans (transmit ..)

theorem tagFerries (s : State) (ps : List FerryPlan) (fail result : Bool) : ForgesKept s (tagFerries s ps fail result) :=
  foldl (fun _ _ => sendFerry ..) _ _

theorem setFerryReleases (s : State) : ForgesKept s (setFerryReleases s) := by
  unfold Machine.setFerryReleases
  refine foldl (fun t p => ?_) _ _
  split
  · exact refl t
  · exact setLane ..

/-! ### Holds, decoupling queues and the load routines -/

theorem holdLeaves (s : State) (h : Nat) (v : Nat × Bool) : ForgesKept s (holdLeaves s h v) := by
  unfold Machine.holdLeaves
  dsimp only
  split
  · exact (setHarbour ..).trans (count _ _ _ _ _ (by decide))
  · split
    · exact (setHarbour ..).trans (setPoison ..)
    · exact refl s

theorem holdInstall (s : State) (h line : Nat) (dirty : Bool) : ForgesKept s (holdInstall s h line dirty) := by
  unfold Machine.holdInstall
  dsimp only
  split
  · exact setHarbour ..
  · exact (setHarbour ..).trans (holdLeaves ..)

theorem holdTouch (s : State) (h line : Nat) (write : Bool) : ForgesKept s (holdTouch s h line write) := modHarbour ..

theorem holdLook (s : State) (h line : Nat) : ForgesKept s (holdLook s h line) := by
  unfold Machine.holdLook
  split
  · exact (holdTouch ..).trans (count _ _ _ _ _ (by decide))
  · exact count _ _ _ _ _ (by decide)

theorem fillArrives (s : State) (h line : Nat) (bad corrected : Bool) : ForgesKept s (fillArrives s h line bad corrected) := by
  unfold Machine.fillArrives
  dsimp only
  split
  · exact refl s
  · split
    · exact (holdInstall ..).trans (setPoison ..)
    · exact holdInstall ..

theorem countFill (s : State) (i : Item) : ForgesKept s (countFill s i) := by
  unfold Machine.countFill
  split
  · dsimp only
    split
    · exact (holdLook ..).trans (count _ _ _ _ _ (by decide))
    · exact holdLook ..
  · exact refl s

theorem loseFill (s : State) (i : Item) : ForgesKept s (loseFill s i) := by
  unfold Machine.loseFill
  split
  · exact fillArrives ..
  · exact refl s

theorem launchItem (s : State) (h : Nat) (i : Item) : ForgesKept s (launchItem s h i).1 := by
  unfold Machine.launchItem
  dsimp only
  split
  · exact (countFill ..).trans (loseFill ..)
  · exact countFill ..

theorem takeOne {s t : State} {g : Nat} (h : takeOne s g = some t) : ForgesKept s t := by
  unfold Machine.takeOne at h
  split at h
  · cases h
  · obtain ⟨m, -, hm⟩ := List.exists_of_findSome?_eq_some h
    obtain ⟨p, -, rfl⟩ := Option.map_eq_some_iff.mp hm
    exact (modHarbour ..).trans (modHarbour ..)

theorem takeAll (g n : Nat) (s : State) : ForgesKept s (takeAll g n s) := by
  induction n generalizing s with
  | zero => exact refl s
  | succ n ih =>
    unfold Machine.takeAll
    split
    case h_1 t ht => exact (takeOne ht).trans (ih t)
    case h_2 => exact refl s

theorem takeFor (s : State) (i : Item) : ForgesKept s (takeFor s i) := by
  unfold Machine.takeFor
  split
  · split
    · exact takeAll ..
    · exact refl s
  · exact refl s

theorem appendItem (s : State) (h d : Nat) (i : Item) : ForgesKept s (appendItem s h d i) :=
  ((launchItem s h i).trans (modHarbour ..)).trans (takeFor ..)

theorem drainVictims (s : State) : ForgesKept s (drainVictims s) :=
  foldl (fun t h => (modHarbour t h _).trans (foldl (fun _ _ => appendItem ..) _ _)) _ _

theorem installStored (h : Nat) (s : State) (line : Nat) : ForgesKept s (installStored h s line) := by
  unfold Machine.installStored
  split
  · exact holdTouch ..
  · exact holdInstall ..

theorem installProgram (shadow : Bool) (p : ForgingPlan) (s : State) : ForgesKept s (installProgram shadow p s) :=
  (foldl (fun t (x : Nat × Nat × Nat) => foldl (installStored x.1) _ t) _ _).trans (drainVictims _)

theorem dispatch (s : State) (h k op b e q : Nat) : ForgesKept s (dispatch s h k op b e q) := by
  unfold Machine.dispatch
  exact modHarbour ..

theorem dispatchLoads (s : State) : ForgesKept s (dispatchLoads s) := by
  unfold Machine.dispatchLoads
  refine foldl (fun t h => ?_) _ _
  split
  · exact dispatch ..
  · exact refl t

theorem idleCtx (s : State) (h k : Nat) : ForgesKept s (idleCtx s h k) := (modHarbour ..).trans (count _ _ _ _ _ (by decide))

theorem retireLoads (s : State) : ForgesKept s (retireLoads s) := by
  unfold Machine.retireLoads
  refine foldl (fun t h => ?_) _ _
  split
  · exact refl t
  · exact idleCtx ..

theorem dropLoads (s : State) : ForgesKept s (dropLoads s) :=
  ⟨fun _ _ _ => rfl, rfl, rfl, rfl, rfl, rfl, rfl, rfl, rfl, rfl, rfl⟩

end ForgesKept

end Sys2Proof.Machine
end

section
/-! SUPPORT. One forging's plane and its state object: what a write of one leaves of the others (R84, R101). -/

namespace Sys2Proof.Machine

theorem ofBool_le_one : ∀ b : Bool, ofBool b ≤ 1 := by decide

theorem ofBool_inj : ∀ {p q : Bool}, ofBool p = ofBool q → p = q := by decide

theorem planeKey_inj {f g : Nat} {p q : Bool} (h : planeKey f p = planeKey g q) : f = g ∧ p = q := by
  have hp := ofBool_le_one p
  have hq := ofBool_le_one q
  simp only [planeKey] at h
  exact ⟨by omega, ofBool_inj (by omega)⟩

/-- The state objects of a forging's planes stand at subindices 03 and 04 of its index (Table 4.8). -/
theorem planeReg_key (f : Nat) (q : Bool) : (planeReg q).key f = (0x3101 + f) * 256 + 3 + ofBool q := by
  cases q <;> simp [planeReg, Reg.key, Reg.forgePlane0State, Reg.forgePlane1State, ofBool]

theorem planeReg_key_inj {f g : Nat} {p q : Bool} (h : (planeReg p).key f = (planeReg q).key g) : f = g ∧ p = q := by
  have hp := ofBool_le_one p
  have hq := ofBool_le_one q
  rw [planeReg_key, planeReg_key] at h
  exact ⟨by omega, ofBool_inj (by omega)⟩

/-- A register whose subindex is neither 03 nor 04 is no plane's state. -/
theorem planeReg_key_ne_of_sub {r : Reg} (h : r.sub < 256) (h3 : r.sub ≠ 3) (h4 : r.sub ≠ 4) (n f : Nat) (q : Bool) :
    r.key n ≠ (planeReg q).key f := by
  have hq := ofBool_le_one q
  rw [planeReg_key, Reg.key]
  omega

/-- A register below index 0x3101 is no plane's state. -/
theorem planeReg_key_ne_of_low {r : Reg} {n : Nat} (h : r.key n < 0x310100) (f : Nat) (q : Bool) : r.key n ≠ (planeReg q).key f := by
  rw [planeReg_key]
  omega

theorem planeReg_key_low {f : Nat} (hf : f < 16) (q : Bool) : (planeReg q).key f < 0x340000 := by
  have hq := ofBool_le_one q
  rw [planeReg_key]
  omega

theorem ForgesKept.planeState {s t : State} (h : ForgesKept s t) {f : Nat} (hf : f < 16) (q : Bool) :
    t.planeState f q = s.planeState f q := h.reg _ _ (planeReg_key_low hf q)

theorem State.plane_of_planes {s t : State} (h : t.planes = s.planes) (f : Nat) (q : Bool) : t.plane f q = s.plane f q := by
  simp only [State.plane, h]

@[simp] theorem State.plane_setPlane_same (s : State) (f : Nat) (q : Bool) (x : Plane) : (s.setPlane f q x).plane f q = x := by
  simp [State.plane, State.setPlane]

theorem State.plane_setPlane_other (s : State) {f g : Nat} {p q : Bool} (x : Plane) (h : (g, q) ≠ (f, p)) :
    (s.setPlane f p x).plane g q = s.plane g q := by
  refine tabGet_tabSet_other _ _ _ fun k => h ?_
  obtain ⟨rfl, rfl⟩ := planeKey_inj k
  rfl

@[simp] theorem State.planeState_setPlaneState_same (s : State) (f : Nat) (q : Bool) (v : Nat) :
    (s.setPlaneState f q v).planeState f q = v := State.reg_setReg_same ..

theorem State.planeState_setPlaneState_other (s : State) {f g : Nat} {p q : Bool} (v : Nat) (h : (g, q) ≠ (f, p)) :
    (s.setPlaneState f p v).planeState g q = s.planeState g q := by
  refine State.reg_setReg_other _ _ fun k => h ?_
  obtain ⟨rfl, rfl⟩ := planeReg_key_inj k
  rfl

theorem State.planeState_setReg (s : State) {r : Reg} {n : Nat} (v f : Nat) (q : Bool) (h : r.key n ≠ (planeReg q).key f) :
    (s.setReg r n v).planeState f q = s.planeState f q := State.reg_setReg_other _ _ h

@[simp] theorem State.plane_setReg (s : State) (r : Reg) (n v f : Nat) (q : Bool) : (s.setReg r n v).plane f q = s.plane f q := rfl

@[simp] theorem State.plane_setPlaneState (s : State) (f g : Nat) (p q : Bool) (v : Nat) :
    (s.setPlaneState f p v).plane g q = s.plane g q := rfl

/-- A fold comes to `r` where one of its steps does, from what every step keeps, and every step keeps `r`. -/
theorem foldl_reaches {σ α : Type} {p r : σ → Prop} {f : σ → α → σ} {l : List α} {a : α} (ha : a ∈ l)
    (hp : ∀ s, ∀ y ∈ l, p s → p (f s y)) (hset : ∀ s, p s → r (f s a)) (hr : ∀ s, ∀ y ∈ l, r s → r (f s y))
    {s : σ} (hs : p s) : r (l.foldl f s) := by
  induction l generalizing s with
  | nil => cases ha
  | cons x l ih =>
    have keep : ∀ t, r t → r (l.foldl f t) := fun t ht => by
      refine List.foldlRecOn l f (motive := r) ht fun u hu y hy => hr u y (List.mem_cons_of_mem x hy) hu
    rcases List.mem_cons.mp ha with rfl | h
    · exact keep _ (hset s hs)
    · exact ih h (fun s y hy => hp s y (List.mem_cons_of_mem x hy)) (fun s y hy => hr s y (List.mem_cons_of_mem x hy))
        (hp s x List.mem_cons_self hs)

theorem mem_allPlanes {x : PlaneId} : x ∈ allPlanes ↔ x.1 < 16 := by
  obtain ⟨f, q⟩ := x
  cases q <;> simp [allPlanes]

theorem mem_planesIn {s : State} {st : Nat} {x : PlaneId} : x ∈ planesIn s st ↔ x.1 < 16 ∧ s.planeState x.1 x.2 = st := by
  simp [planesIn, mem_allPlanes]

end Sys2Proof.Machine
end

section
/-! SUPPORT. Final tokens at the quench, and the share of a beat as its verdict reaches a harbour (R17, R95, R157, R166, R170). -/

namespace Sys2Proof.Machine

@[simp] theorem State.quench_setQuench_same (s : State) (f : Nat) (x : Quench) : (s.setQuench f x).quench f = x := by
  simp [State.quench, State.setQuench]

@[simp] theorem State.tank_setTank_same (s : State) (h : Nat) (x : Tank) : (s.setTank h x).tank h = x := by
  simp [State.tank, State.setTank]

/-! ### What judges a beat -/

/-- `t` has of a forging what its beats are judged by: the planes that beats run on, the planes, the beat count and the run. -/
structure JudgesAlike (f : Nat) (s t : State) : Prop where
  swaps : (t.quench f).planes = (s.quench f).planes
  planes : t.planes = s.planes
  beat : t.beat = s.beat
  run : t.run = s.run

namespace JudgesAlike

variable {f : Nat} {s t : State}

theorem planeFor (h : JudgesAlike f s t) (n : Beat) : t.planeFor f n = s.planeFor f n := by
  simp only [State.planeFor, h.swaps]

theorem planFor (h : JudgesAlike f s t) (n : Beat) : t.planFor f n = s.planFor f n := by
  simp only [State.planFor, h.planeFor, State.plane_of_planes h.planes]

theorem shoalsFor (h : JudgesAlike f s t) (n : Beat) : t.shoalsFor f n = s.shoalsFor f n := by
  simp only [State.shoalsFor, h.planeFor, State.plane_of_planes h.planes]

theorem verdictCycle (h : JudgesAlike f s t) (n : Beat) : t.verdictCycle f n = s.verdictCycle f n := by
  simp only [State.verdictCycle, State.boundaryAt, State.targetFor, h.planeFor, h.beat, State.plane_of_planes h.planes]

theorem hasVerdict (h : JudgesAlike f s t) (n : Beat) : t.hasVerdict n = s.hasVerdict n := by
  simp only [State.hasVerdict, h.run]

end JudgesAlike

theorem ForgesKept.judgesAlike {s t : State} (h : ForgesKept s t) (f : Nat) : JudgesAlike f s t :=
  ⟨by rw [h.quench], h.planes, h.beat, h.run⟩

/-! ### Final tokens (R95, R157) -/

/-- Is a final token of the forging and plane of its beat. -/
def ownFinal (s : State) (f : Nat) (n : Beat) (t : Token) : Prop := tagForging t.tag = f ∧ s.planeFor f n = some (tagPlane t.tag)

/-- Has the record of a beat been issued. -/
def recordIssued (s : State) (f : Nat) (n : Beat) : Prop :=
  s.hasVerdict n = true ∧ (s.quench f).toIssue.contains n = false ∧ 0 ≤ beatDiff s.beat.n n

/-- Is the sequence of a final token declared, and new for its beat and input. -/
def finalFits (s : State) (f input : Nat) (n : Beat) (t : Token) : Prop :=
  (tagSeq t.tag).toNat < ((s.planFor f n).map fun p => p.inputs.getD input 0).getD 0 ∧
    ∀ y ∈ (s.quench f).taken, ¬ (y.1 = n ∧ y.2.1 = input ∧ tagSeq y.2.2.tag = tagSeq t.tag)

section
variable {s : State} {f input c : Nat} {n : Beat} {t : Token}

theorem ownFinal_iff : (tagForging t.tag ≠ f ∨ s.planeFor f n ≠ some (tagPlane t.tag)) ↔ ¬ ownFinal s f n t := by
  unfold ownFinal
  tauto

theorem recordIssued_iff :
    (s.hasVerdict n && !(s.quench f).toIssue.contains n && decide (0 ≤ beatDiff s.beat.n n)) = true ↔ recordIssued s f n := by
  simp [recordIssued, and_assoc]

theorem finalFits_iff :
    (((s.planFor f n).map fun p => p.inputs.getD input 0).getD 0 ≤ (tagSeq t.tag).toNat ∨
      ((s.quench f).taken.any fun x => x.1 == n && x.2.1 == input && tagSeq x.2.2.tag == tagSeq t.tag) = true) ↔
      ¬ finalFits s f input n t := by
  simp [finalFits, and_assoc, imp_iff_not_or]

theorem judgeFinal_mismatch (h : ¬ ownFinal s f n t ∨ (¬ recordIssued s f n ∧ ¬ finalFits s f input n t)) :
    judgeFinal s f input n t c = .mismatch := by
  unfold judgeFinal
  by_cases ho : ownFinal s f n t
  · obtain ⟨hi, hf⟩ := h.resolve_left (not_not_intro ho)
    rw [if_neg (ownFinal_iff.not_left.mpr ho), if_neg (recordIssued_iff.not.mpr hi), if_pos (finalFits_iff.mpr hf)]
  · rw [if_pos (ownFinal_iff.mpr ho)]

theorem judgeFinal_late (ho : ownFinal s f n t) (hi : recordIssued s f n) : judgeFinal s f input n t c = .late := by
  unfold judgeFinal
  rw [if_neg (ownFinal_iff.not_left.mpr ho), if_pos (recordIssued_iff.mpr hi)]

theorem judgeFinal_fits (ho : ownFinal s f n t) (hi : ¬ recordIssued s f n) (hf : finalFits s f input n t) :
    judgeFinal s f input n t c = if s.verdictCycle f n < c + 8 then .missed else .taken := by
  unfold judgeFinal
  rw [if_neg (ownFinal_iff.not_left.mpr ho), if_neg (recordIssued_iff.not.mpr hi), if_neg (finalFits_iff.not_left.mpr hf)]

/-- A final token is judged alike in states that agree on its forging, its issued beats and the tokens taken. -/
theorem judgeFinal_congr {u : State} (h : JudgesAlike f s u) (hi : (u.quench f).toIssue = (s.quench f).toIssue)
    (ht : (u.quench f).taken = (s.quench f).taken) : judgeFinal u f input n t c = judgeFinal s f input n t c := by
  simp only [judgeFinal, h.planeFor, h.planFor, h.hasVerdict, h.verdictCycle, h.beat, hi, ht]

end

/-- What becomes of a judged token in the state that it left its delay register in. -/
def finalEnds (u : State) (f input : Nat) (n : Beat) (t : Token) : Final → State
  | .mismatch => u.count Reg.qnTagMismatch 0
  | .late => u.count Reg.qnLateTokens 0
  | .missed => u
  | .taken => u.setQuench f { u.quench f with
      taken := (n, input, t) :: (u.quench f).taken.filter fun y => decide (beatDiff n y.1 ≤ 200) }

@[simp] theorem tap_clocks (s : State) (kind place colRow port : Nat) (q : Bool) (tok : Token) (b : Beat) :
    (tap s kind place colRow port q tok b).clocks = s.clocks := by
  unfold tap
  refine foldl_keep State.clocks _ (fun t i => ?_) _ _
  dsimp only
  split
  · unfold tapInto
    dsimp only
    split <;> rfl
  · rfl

/-- A quench's delay register without its first token, in the cycle in which that leaves. -/
def finalLeaves (s : State) (f input : Nat) (plane : Bool) (x : Timed) (rest : List Timed) : State :=
  (s.runTo x.at').setQuench f { s.quench f with inbox := tabSet (s.quench f).inbox (inputKey input plane) rest }

/-- The same once the taps of the input have copied the token. -/
def finalTapped (s : State) (f input : Nat) (plane : Bool) (x : Timed) (rest : List Timed) : State :=
  let u := finalLeaves s f input plane x rest
  let n := rebuildBeat s.beat.n (tagBeat x.tok.tag)
  tap u 2 (((u.planFor f n).map ForgingPlan.home).getD 0) 0 input plane x.tok n

section
variable (s : State) (f input : Nat) (plane : Bool) (x : Timed) (rest : List Timed)

theorem finalTapped_kept : ForgesKept (finalLeaves s f input plane x rest) (finalTapped s f input plane x rest) := .tap ..

theorem finalTapped_quench : (finalTapped s f input plane x rest).quench f =
    { s.quench f with inbox := tabSet (s.quench f).inbox (inputKey input plane) rest } :=
  ((finalTapped_kept ..).quench f).trans (State.quench_setQuench_same ..)

theorem finalTapped_judgesAlike : JudgesAlike f s (finalTapped s f input plane x rest) :=
  have h := finalTapped_kept s f input plane x rest
  have hr := ForgesKept.runTo s x.at'
  ⟨by rw [finalTapped_quench], h.planes.trans hr.planes, h.beat.trans hr.beat, h.run.trans hr.run⟩

theorem finalTapped_cycle : (finalTapped s f input plane x rest).clocks.cycle = max s.clocks.cycle x.at' := by
  unfold finalTapped
  rw [tap_clocks]
  exact State.runTo_cycle ..

theorem finalTapped_reg {r : Reg} {n : Nat} (h : r.key n < 0x340000) : (finalTapped s f input plane x rest).reg r n = s.reg r n :=
  ((finalTapped_kept ..).reg r n h).trans ((ForgesKept.runTo s x.at').reg r n h)

end

/-- The first token of a delay register leaves it, and is judged by what the forging had before. -/
theorem finalToken_eq {s : State} {f input : Nat} {plane : Bool} {x : Timed} {rest : List Timed}
    (h : tabGet [] (s.quench f).inbox (inputKey input plane) = x :: rest) :
    finalToken s f input plane = finalEnds (finalTapped s f input plane x rest) f input (rebuildBeat s.beat.n (tagBeat x.tok.tag))
      x.tok (judgeFinal s f input (rebuildBeat s.beat.n (tagBeat x.tok.tag)) x.tok x.at') := by
  have hr := ForgesKept.runTo s x.at'
  rw [← judgeFinal_congr (finalTapped_judgesAlike s f input plane x rest) (by rw [finalTapped_quench]) (by rw [finalTapped_quench])]
  unfold finalToken
  simp only [h, hr.quench, hr.beat]
  rfl

section
variable (u : State) (f input : Nat) (n : Beat) (t : Token)

theorem finalEnds_inbox (j : Final) : ((finalEnds u f input n t j).quench f).inbox = (u.quench f).inbox := by
  cases j with
  | taken => simp [finalEnds]
  | mismatch | late | missed => rfl

theorem finalEnds_clocks (j : Final) : (finalEnds u f input n t j).clocks = u.clocks := by
  cases j <;> rfl

theorem finalEnds_taken {j : Final} (h : j ≠ .taken) : ((finalEnds u f input n t j).quench f).taken = (u.quench f).taken := by
  cases j with
  | taken => exact absurd rfl h
  | mismatch | late | missed => rfl

theorem finalEnds_head : ((finalEnds u f input n t .taken).quench f).taken.head? = some (n, input, t) := by
  simp [finalEnds]

theorem finalEnds_mismatches (j : Final) : (finalEnds u f input n t j).reg Reg.qnTagMismatch =
    if j = .mismatch then (u.reg Reg.qnTagMismatch + 1) % 2 ^ 32 else u.reg Reg.qnTagMismatch := by
  cases j with
  | mismatch => exact State.reg_count_same ..
  | late => exact State.reg_count_other _ _ _ (by decide)
  | missed | taken => rfl

theorem finalEnds_lates (j : Final) : (finalEnds u f input n t j).reg Reg.qnLateTokens =
    if j = .late then (u.reg Reg.qnLateTokens + 1) % 2 ^ 32 else u.reg Reg.qnLateTokens := by
  cases j with
  | late => exact State.reg_count_same ..
  | mismatch => exact State.reg_count_other _ _ _ (by decide)
  | missed | taken => rfl

end

/-- What a final token leaves once it is judged: taken or not, and the two counters. -/
theorem quenchFinalToken_next {s : State} {f input : Nat} {plane : Bool} {x : Timed} {rest : List Timed} (hf : f < 16)
    (hi : input < 16) (h : tabGet [] (s.quench f).inbox (inputKey input plane) = x :: rest) :
    let n := rebuildBeat s.beat.n (tagBeat x.tok.tag)
    let j := judgeFinal s f input n x.tok x.at'
    ∃ t, exec (.quenchFinalToken f input plane) s = .next t ∧ tabGet [] (t.quench f).inbox (inputKey input plane) = rest ∧
      t.clocks.cycle = max s.clocks.cycle x.at' ∧ (j = .taken → (t.quench f).taken.head? = some (n, input, x.tok)) ∧
      (j ≠ .taken → (t.quench f).taken = (s.quench f).taken) ∧
      t.reg Reg.qnTagMismatch = (if j = .mismatch then (s.reg Reg.qnTagMismatch + 1) % 2 ^ 32 else s.reg Reg.qnTagMismatch) ∧
      t.reg Reg.qnLateTokens = (if j = .late then (s.reg Reg.qnLateTokens + 1) % 2 ^ 32 else s.reg Reg.qnLateTokens) := by
  intro n j
  have hb : (decide (f < 16) && decide (input < 16)) = true := by simp [hf, hi]
  have hq := finalTapped_quench s f input plane x rest
  refine ⟨_, onUnit_present s _ hb, ?_⟩
  rw [finalToken_eq h]
  refine ⟨?_, ?_, fun hj => ?_, fun hj => ?_, ?_, ?_⟩
  · refine (congrArg (fun y => tabGet [] y (inputKey input plane)) (finalEnds_inbox ..)).trans ?_
    rw [hq, tabGet_tabSet_same]
  · exact (congrArg Clocks.cycle (finalEnds_clocks ..)).trans (finalTapped_cycle ..)
  · show ((finalEnds _ f input n x.tok j).quench f).taken.head? = _
    rw [hj]
    exact finalEnds_head ..
  · exact (finalEnds_taken _ _ _ _ _ hj).trans (by rw [hq])
  · refine (finalEnds_mismatches _ _ _ _ _ j).trans ?_
    rw [finalTapped_reg _ _ _ _ _ _ (by decide)]
  · refine (finalEnds_lates _ _ _ _ _ j).trans ?_
    rw [finalTapped_reg _ _ _ _ _ _ (by decide)]

/-! ### A verdict at a contributing harbour (R17, R166, R170) -/

/-- A harbour's staging buffer without a beat of a forging. -/
def stagedBut (s : State) (f h : Nat) (n : Beat) : List Staged := (s.tank h).staging.filter fun x => !(x.forging == f && x.beat == n)

theorem dropStaged_tank (s : State) (f h : Nat) (n : Beat) :
    (dropStaged s f h n).tank h = { s.tank h with staging := stagedBut s f h n } := State.tank_setTank_same ..

theorem moveShare_tank (s : State) (f h : Nat) (n : Beat) (c : Nat) (late : Bool) :
    (moveShare s f h n c late).tank h = { s.tank h with
      staging := stagedBut s f h n
      queued := (s.tank h).queued ++
        [{ forging := f, beat := n, cls := c, words := stagedShare s f h n, sent := 0, late := late }] } := by
  unfold moveShare
  simp only [State.tank_setTank_same, dropStaged_tank]

/-- What the verdict of a record does with a staged share in the cycle in which it comes. -/
def verdictMoves (s : State) (f h : Nat) (n : Beat) (r : BitVec 128) : State :=
  if r.extractLsb' 74 2 = 0#2 then moveShare s f h n (r.extractLsb' 66 3).toNat false
  else if r.extractLsb' 74 2 = 1#2 then dropStaged s f h n
  else if (s.quench f).refused.any fun x => x.beat = n then s
  else dropStaged s f h n

theorem verdictMoves_clocks (s : State) (f h : Nat) (n : Beat) (r : BitVec 128) : (verdictMoves s f h n r).clocks = s.clocks := by
  unfold verdictMoves
  split
  · rfl
  · split
    · rfl
    · split <;> rfl

/-- The cycle in which the verdict of a beat reaches a harbour over the ring from its home quench (R17, R166). -/
def ringDue (s : State) (f h : Nat) (n : Beat) : Nat :=
  s.verdictCycle f n + 3 * (ringHops (((s.planFor f n).map ForgingPlan.home).getD h) h).length

/-- A verdict whose time has come acts on the share that waits for it. -/
theorem ringArrives_eq {s : State} {f h : Nat} {n : Beat} {r : BitVec 128} (hr : recordOf s f n = some r)
    (hd : s.dueNow (ringDue s f h n) = true) (hw : ∃ x ∈ (s.tank h).staging, x.forging = f ∧ x.beat = n) :
    ringArrives s f h n = verdictMoves (s.runTo (ringDue s f h n)) f h n r := by
  have hgo : ¬ ((!s.dueNow (ringDue s f h n) || !(s.tank h).staging.any fun x => x.forging = f ∧ x.beat = n) = true) := by
    simpa [hd] using hw
  unfold ringArrives
  simp only [hr]
  refine (if_neg hgo).trans ?_
  unfold verdictMoves
  split
  case h_1 hv => exact (if_pos (BitVec.eq_of_toNat_eq hv)).symm
  case h_2 hv => exact ((if_neg fun e => by rw [e] at hv; cases hv).trans (if_pos (BitVec.eq_of_toNat_eq hv))).symm
  case h_3 h0 h1 => exact ((if_neg fun e => h0 (by rw [e]; rfl)).trans (if_neg fun e => h1 (by rw [e]; rfl))).symm

/-- A share is read from staging alike in states that agree on its forging and on the tank. -/
theorem stagedShare_congr {s t : State} {f h : Nat} (hj : JudgesAlike f s t) (ht : t.tank h = s.tank h) (n : Beat) :
    stagedShare t f h n = stagedShare s f h n := by
  simp only [stagedShare, hj.shoalsFor, ht]

theorem stagedBut_congr {s t : State} {h : Nat} (ht : t.tank h = s.tank h) (f : Nat) (n : Beat) :
    stagedBut t f h n = stagedBut s f h n := by
  simp only [stagedBut, ht]

/-- What an ACCEPT, a REJECT and a REFUSE leave of the share at a harbour, in the terms of the state before. -/
theorem verdictRingArrival_next {s : State} {f h : Nat} {n : Beat} {r : BitVec 128} (hf : f < 16) (hh : s.hasHarbour h = true)
    (hr : recordOf s f n = some r) (hd : s.dueNow (ringDue s f h n) = true)
    (hw : ∃ x ∈ (s.tank h).staging, x.forging = f ∧ x.beat = n) :
    ∃ t, exec (.verdictRingArrival f h n) s = .next t ∧ t.clocks.cycle = max s.clocks.cycle (ringDue s f h n) ∧
      (r.extractLsb' 74 2 = 0#2 → (t.tank h).staging = stagedBut s f h n ∧ (t.tank h).queued = (s.tank h).queued ++
        [{ forging := f, beat := n, cls := (r.extractLsb' 66 3).toNat, words := stagedShare s f h n, sent := 0, late := false }]) ∧
      (r.extractLsb' 74 2 = 1#2 → (t.tank h).staging = stagedBut s f h n ∧ (t.tank h).queued = (s.tank h).queued) ∧
      (r.extractLsb' 74 2 = 2#2 → (t.tank h).queued = (s.tank h).queued ∧
        (t.tank h).staging = if (s.quench f).refused.any fun x => x.beat = n then (s.tank h).staging else stagedBut s f h n) := by
  have hb : (decide (f < 16) && s.hasHarbour h) = true := by simp [hf, hh]
  have hk := ForgesKept.runTo s (ringDue s f h n)
  have hs := stagedShare_congr (hk.judgesAlike f) (hk.tank h) n
  have hl := stagedBut_congr (hk.tank h) f n
  have tank_eq : ∀ t u : State, t = u → ({ t with pending := s.pending } : State).tank h = u.tank h := fun _ _ e => by rw [e]; rfl
  refine ⟨_, onUnit_present s _ hb, ?_, fun hv => ?_, fun hv => ?_, fun hv => ?_⟩
  · show (ringArrives s f h n).clocks.cycle = _
    rw [ringArrives_eq hr hd hw, verdictMoves_clocks, State.runTo_cycle]
  · rw [tank_eq _ _ ((ringArrives_eq hr hd hw).trans (if_pos hv)), moveShare_tank, hk.tank, hs, hl]
    exact ⟨rfl, rfl⟩
  · rw [tank_eq _ _ ((ringArrives_eq hr hd hw).trans ((if_neg (by simp [hv])).trans (if_pos hv))), dropStaged_tank, hk.tank, hl]
    exact ⟨rfl, rfl⟩
  · rw [tank_eq _ _ ((ringArrives_eq hr hd hw).trans ((if_neg (by simp [hv])).trans (if_neg (by simp [hv])))), hk.quench]
    split
    · rw [hk.tank]
      exact ⟨rfl, rfl⟩
    · rw [dropStaged_tank, hk.tank, hl]
      exact ⟨rfl, rfl⟩

/-- Settles O26. A final token is judged by what its forging had before it left its register, and each of the four outcomes leaves
its own trace. That a token which leaves between T − 8 and T is in neither counter is the model's choice
(notes/assumptions/63.md), and so is the way round the ring (notes/assumptions/22.md; R87). -/
theorem quenchTokensAndStagedShares : Obligations.QuenchTokensAndStagedShares := by
  unfold Obligations.QuenchTokensAndStagedShares
  refine ⟨fun s f input plane x rest hf hi h => ?_, fun s f h n r hf hh hr hd hw => verdictRingArrival_next hf hh hr hd hw⟩
  intro n own issued fits
  obtain ⟨t, ht, hin, hc, htake, hkeep, hmis, hlate⟩ := quenchFinalToken_next hf hi h
  have hfit (ho : own) (hn : ¬ issued) (hy : fits) := judgeFinal_fits (c := x.at') ho hn hy
  refine ⟨t, ht, hin, hc, fun ho hn hy hT => ?_, fun hm => ?_, fun ho hy => ?_, fun ho hn hy hT => ?_⟩
  · have hj := (hfit ho hn hy).trans (if_neg (by omega))
    exact ⟨htake hj, by rw [hmis, hj]; rfl, by rw [hlate, hj]; rfl⟩
  · have hj : judgeFinal s f input n x.tok x.at' = .mismatch := judgeFinal_mismatch hm
    exact ⟨hkeep (by rw [hj]; decide), by rw [hmis, hj]; rfl, by rw [hlate, hj]; rfl⟩
  · have hj : judgeFinal s f input n x.tok x.at' = .late := judgeFinal_late ho hy
    exact ⟨hkeep (by rw [hj]; decide), by rw [hmis, hj]; rfl, by rw [hlate, hj]; rfl⟩
  · have hj := (hfit ho hn hy).trans (if_pos hT)
    exact ⟨hkeep (by rw [hj]; decide), by rw [hmis, hj]; rfl, by rw [hlate, hj]; rfl⟩

end Sys2Proof.Machine
end

section
/-! SUPPORT. A sounding from its end to the outcome of its set: what each step leaves of the planes, their states and the reasons
(R96 to R101, R349). -/

namespace Sys2Proof.Machine

theorem forgeActReason_key_ne (n f : Nat) (q : Bool) : Reg.forgeActReason.key n ≠ (planeReg q).key f :=
  planeReg_key_ne_of_sub (by decide) (by decide) (by decide) n f q

theorem State.planeState_withAct (s : State) (a : Activation) (f : Nat) (q : Bool) :
    ({ s with act := a } : State).planeState f q = s.planeState f q := rfl

/-! ### The reasons of Table 4.4 -/

/-- The least of some codes, each at least 1, is one of them or below every one of them. -/
theorem leastReason_bounds {l : List Nat} (h1 : ∀ x ∈ l, 1 ≤ x) {c : Nat} (hc : c ∈ l) :
    1 ≤ leastReason l ∧ leastReason l ≤ c := by
  unfold leastReason
  refine foldl_reaches (p := fun _ => True) (r := fun m => 1 ≤ m ∧ m ≤ c) hc (fun _ _ _ _ => trivial) (fun m _ => ?_)
    (fun m x hx hm => ?_) trivial
  · have := h1 c hc
    split <;> omega
  · have := h1 x hx
    split <;> omega

theorem mem_reasonIf {b : Bool} {k c : Nat} : c ∈ reasonIf b k ↔ b = true ∧ c = k := by
  cases b <;> simp [reasonIf]

/-- A lost tag is reason 5, unless a smaller one applies (R97, Table 4.4). -/
theorem soundOne_lost (s : State) (set : List PlaneId) (x : PlaneId) :
    1 ≤ (soundOne s set true x).2.reason ∧ (soundOne s set true x).2.reason ≤ 5 := by
  unfold soundOne
  split
  · exact ⟨Nat.le_add_left 1 4, Nat.le_refl 5⟩
  · refine leastReason_bounds (fun c hc => ?_) (by simp [reasonIf])
    simp only [List.mem_append, mem_reasonIf, bne_iff_ne] at hc
    omega

theorem soundOne_fst (s : State) (set : List PlaneId) (lost : Bool) (x : PlaneId) : (soundOne s set lost x).1 = x := by
  unfold soundOne
  split <;> rfl

/-! ### What a plane keeps of its own sounding -/

theorem soundedPlane_planeState (s : State) (r : PlaneId × Sounded) (f : Nat) (q : Bool) :
    (soundedPlane s r).planeState f q = s.planeState f q :=
  State.planeState_setReg _ _ _ _ (planeReg_key_ne_of_sub (by decide) (by decide) (by decide) _ _ _)

theorem soundedPlane_plane_same (s : State) (r : PlaneId × Sounded) :
    (soundedPlane s r).plane r.1.1 r.1.2 = { s.plane r.1.1 r.1.2 with
      portDelay := r.2.portDelay, quenchDelay := r.2.quenchDelay, offsets := r.2.offsets, ownResult := some r.2.reason } :=
  State.plane_setPlane_same ..

theorem soundedPlane_plane_other (s : State) {r : PlaneId × Sounded} {x : PlaneId} (h : x ≠ r.1) :
    (soundedPlane s r).plane x.1 x.2 = s.plane x.1 x.2 := State.plane_setPlane_other _ _ h

/-! ### The outcome of a set -/

section
variable (pass : Bool) (s : State) (r : PlaneId × Nat)

theorem soundOutcome_planeState_same : (soundOutcome pass s r).planeState r.1.1 r.1.2 = if pass then 3 else 7 := by
  cases pass <;> exact State.planeState_setPlaneState_same ..

theorem soundOutcome_planeState_other {x : PlaneId} (h : x ≠ r.1) :
    (soundOutcome pass s r).planeState x.1 x.2 = s.planeState x.1 x.2 := by
  cases pass <;> exact (State.planeState_setPlaneState_other _ _ h).trans
    (State.planeState_setReg _ _ _ _ (forgeActReason_key_ne _ _ _))

theorem soundOutcome_reason_same : (soundOutcome pass s r).reg Reg.forgeActReason r.1.1 = r.2 := by
  cases pass <;> exact (State.reg_setReg_other _ _ (forgeActReason_key_ne _ _ _).symm).trans (State.reg_setReg_same ..)

theorem soundOutcome_reason_other {f : Nat} (h : f ≠ r.1.1) :
    (soundOutcome pass s r).reg Reg.forgeActReason f = s.reg Reg.forgeActReason f := by
  have hk : Reg.forgeActReason.key r.1.1 ≠ Reg.forgeActReason.key f := by
    simp only [Reg.key]
    omega
  cases pass <;> exact (State.reg_setReg_other _ _ (forgeActReason_key_ne _ _ _).symm).trans (State.reg_setReg_other _ _ hk)

theorem soundOutcome_act : (soundOutcome pass s r).act = s.act := by
  cases pass <;> rfl

/-- A sounding that passes leaves every plane its delays. -/
theorem soundOutcome_delays (f : Nat) (q : Bool) : ((soundOutcome true s r).plane f q).portDelay = (s.plane f q).portDelay ∧
    ((soundOutcome true s r).plane f q).quenchDelay = (s.plane f q).quenchDelay := by
  by_cases h : (f, q) = r.1
  · obtain ⟨rfl, rfl⟩ : f = r.1.1 ∧ q = r.1.2 := ⟨congrArg Prod.fst h, congrArg Prod.snd h⟩
    simp [soundOutcome]
  · rw [show (soundOutcome true s r).plane f q = s.plane f q from State.plane_setPlane_other _ _ h]
    exact ⟨rfl, rfl⟩

end

theorem outcomes_planeState {pass : Bool} {s : State} {all : List (PlaneId × Nat)} {r : PlaneId × Nat} (hr : r ∈ all) :
    (all.foldl (soundOutcome pass) s).planeState r.1.1 r.1.2 = if pass then 3 else 7 := by
  refine foldl_reaches (p := fun _ => True) (r := fun t : State => t.planeState r.1.1 r.1.2 = if pass then 3 else 7) hr
    (fun _ _ _ _ => trivial) (fun t _ => soundOutcome_planeState_same ..) (fun t y _ ht => ?_) trivial
  by_cases hy : r.1 = y.1
  · rw [hy]
    exact soundOutcome_planeState_same ..
  · exact (soundOutcome_planeState_other _ _ _ hy).trans ht

/-- The reason that a forging shows is that of its plane, where its planes in the set have one reason. -/
theorem outcomes_reason {pass : Bool} {s : State} {all : List (PlaneId × Nat)} {r : PlaneId × Nat} (hr : r ∈ all)
    (hone : ∀ y ∈ all, y.1.1 = r.1.1 → y.2 = r.2) : (all.foldl (soundOutcome pass) s).reg Reg.forgeActReason r.1.1 = r.2 := by
  refine foldl_reaches (p := fun _ => True) (r := fun t : State => t.reg Reg.forgeActReason r.1.1 = r.2) hr
    (fun _ _ _ _ => trivial) (fun t _ => soundOutcome_reason_same ..) (fun t y hy ht => ?_) trivial
  by_cases h : r.1.1 = y.1.1
  · rw [h, soundOutcome_reason_same]
    exact hone y hy h.symm
  · exact (soundOutcome_reason_other _ _ _ h).trans ht

theorem outcomes_act (pass : Bool) (s : State) (all : List (PlaneId × Nat)) : (all.foldl (soundOutcome pass) s).act = s.act :=
  foldl_keep State.act _ (fun _ _ => soundOutcome_act ..) _ _

theorem outcomes_delays (s : State) (all : List (PlaneId × Nat)) (f : Nat) (q : Bool) :
    ((all.foldl (soundOutcome true) s).plane f q).portDelay = (s.plane f q).portDelay ∧
    ((all.foldl (soundOutcome true) s).plane f q).quenchDelay = (s.plane f q).quenchDelay :=
  ⟨foldl_keep (fun t => (t.plane f q).portDelay) _ (fun t r => (soundOutcome_delays t r f q).1) _ _,
    foldl_keep (fun t => (t.plane f q).quenchDelay) _ (fun t r => (soundOutcome_delays t r f q).2) _ _⟩

/-! ### The end of an activation (R349) -/

/-- A plane as the end of an activation leaves it. -/
def endPlane (s : State) (x : PlaneId) : State :=
  let st := s.planeState x.1 x.2
  if st = 1 ∨ st = 2 ∨ st = 3 then
    if st = 1 && !(s.plane x.1 x.2).loaded then s.setPlaneState x.1 x.2 0
    else (s.setPlane x.1 x.2 { s.plane x.1 x.2 with loaded := false, soundBeat := none, ownResult := none }).setPlaneState x.1 x.2 7
  else s

theorem endPlane_reg (s : State) (x : PlaneId) {r : Reg} {n : Nat} (h : (planeReg x.2).key x.1 ≠ r.key n) :
    (endPlane s x).reg r n = s.reg r n := by
  unfold endPlane
  dsimp only
  split
  · split <;> exact State.reg_setReg_other _ _ h
  · rfl

/-- The engine in HELD once its planes have been left. -/
def heldAgain (s : State) (reason imgReason : Nat) : State :=
  let t := (((dropLoads s).setReg Reg.imgState 0 1).setReg Reg.imgReason 0 imgReason).setReg Reg.idStateReason 0 reason
  { t with act := Activation.none, beat := { BeatCount.off with period := t.reg Reg.beatPeriod, n := t.beat.n } }

/-- The end of an activation: every plane in turn, then the objects of the image and the reason of HELD. -/
theorem endActivation_eq (s : State) (reason imgReason : Nat) :
    endActivation s reason imgReason = heldAgain (allPlanes.foldl endPlane s) reason imgReason := by
  unfold endActivation heldAgain endPlane
  with_reducible rfl

theorem endPlane_other (s : State) {x y : PlaneId} (h : x ≠ y) :
    (endPlane s y).planeState x.1 x.2 = s.planeState x.1 x.2 ∧ (endPlane s y).plane x.1 x.2 = s.plane x.1 x.2 := by
  unfold endPlane
  dsimp only
  split
  · split
    · exact ⟨State.planeState_setPlaneState_other _ _ h, rfl⟩
    · exact ⟨State.planeState_setPlaneState_other _ _ h, State.plane_setPlane_other _ _ h⟩
  · exact ⟨rfl, rfl⟩

/-- A plane that is LOADED, or whose load is complete. -/
def loadedSoon (s : State) (x : PlaneId) : Prop :=
  s.planeState x.1 x.2 = 7 ∨ (s.planeState x.1 x.2 = 1 ∧ (s.plane x.1 x.2).loaded = true)

theorem endPlane_loadedSoon {s : State} {x : PlaneId} (h : loadedSoon s x) : (endPlane s x).planeState x.1 x.2 = 7 := by
  unfold endPlane
  dsimp only
  rcases h with h7 | ⟨h1, hl⟩
  · rw [h7, if_neg (by decide)]
    exact h7
  · rw [h1, hl, if_pos (.inl rfl), if_neg (by decide)]
    exact State.planeState_setPlaneState_same ..

theorem heldAgain_planeState (s : State) (a b f : Nat) (q : Bool) : (heldAgain s a b).planeState f q = s.planeState f q :=
  (State.planeState_setReg _ _ _ _ (planeReg_key_ne_of_low (by decide) _ _)).trans <|
    (State.planeState_setReg _ _ _ _ (planeReg_key_ne_of_low (by decide) _ _)).trans
      (State.planeState_setReg _ _ _ _ (planeReg_key_ne_of_low (by decide) _ _))

/-- A plane whose load is complete, or that has left its sounding, is LOADED once the activation has ended. -/
theorem endActivation_loaded {s : State} {x : PlaneId} (hx : x.1 < 16) (h : loadedSoon s x) (a b : Nat) :
    (endActivation s a b).planeState x.1 x.2 = 7 := by
  rw [endActivation_eq, heldAgain_planeState]
  refine foldl_reaches (p := fun t => loadedSoon t x) (r := fun t : State => t.planeState x.1 x.2 = 7) (mem_allPlanes.mpr hx)
    (fun t y _ ht => ?_) (fun t ht => endPlane_loadedSoon ht) (fun t y _ ht => ?_) h
  · by_cases hy : x = y
    · subst hy
      exact .inl (endPlane_loadedSoon ht)
    · obtain ⟨h1, h2⟩ := endPlane_other t hy
      rwa [loadedSoon, h1, h2]
  · by_cases hy : x = y
    · subst hy
      exact endPlane_loadedSoon (.inl ht)
    · exact (endPlane_other t hy).1.trans ht

theorem heldAgain_reg (s : State) (a b : Nat) {r : Reg} {n : Nat} (h : ∀ x ∈ [Reg.imgState, Reg.imgReason, Reg.idStateReason],
    x.key 0 ≠ r.key n) : (heldAgain s a b).reg r n = s.reg r n :=
  (State.reg_setReg_other _ _ (h _ (by simp))).trans
    ((State.reg_setReg_other _ _ (h _ (by simp))).trans (State.reg_setReg_other _ _ (h _ (by simp))))

theorem heldAgain_held (s : State) (a b : Nat) :
    (heldAgain s a b).reg Reg.imgState = 1 ∧ (heldAgain s a b).reg Reg.imgReason = b ∧
    (heldAgain s a b).reg Reg.idStateReason = a ∧ (heldAgain s a b).act.phase = 0 ∧ (heldAgain s a b).beat.on = false :=
  ⟨(State.reg_setReg_other _ _ (by decide)).trans ((State.reg_setReg_other _ _ (by decide)).trans (State.reg_setReg_same ..)),
    (State.reg_setReg_other _ _ (by decide)).trans (State.reg_setReg_same ..), State.reg_setReg_same .., rfl, rfl⟩

/-- The engine is in HELD again: the image VALID, a reason of each kind, no activation and no beat count (R349). -/
theorem endActivation_held (s : State) (a b : Nat) :
    (endActivation s a b).reg Reg.imgState = 1 ∧ (endActivation s a b).reg Reg.imgReason = b ∧
    (endActivation s a b).reg Reg.idStateReason = a ∧ (endActivation s a b).act.phase = 0 ∧ (endActivation s a b).beat.on = false := by
  rw [endActivation_eq]
  exact heldAgain_held ..

theorem endActivation_reason (s : State) (a b : Nat) (f : Nat) :
    (endActivation s a b).reg Reg.forgeActReason f = s.reg Reg.forgeActReason f := by
  rw [endActivation_eq, heldAgain_reg]
  · exact foldl_keep (fun t => t.reg Reg.forgeActReason f) _ (fun t x => endPlane_reg t x (forgeActReason_key_ne _ _ _).symm) _ _
  · simp only [List.forall_mem_cons, Reg.key, Reg.imgState, Reg.imgReason, Reg.idStateReason, Reg.forgeActReason]
    exact ⟨by omega, by omega, by omega, by simp⟩

/-! ### The sounding of a set is over (R97, R98, R348) -/

/-- A refused set: every plane LOADED, and an activation that waited for it ended in HELD with ACT_REFUSED. -/
def SetRefused (s t : State) (set : List PlaneId) : Prop :=
  (∀ x ∈ set, t.planeState x.1 x.2 = 7) ∧
    (s.act.phase = 3 → t.reg Reg.imgState = 1 ∧ t.reg Reg.imgReason = 8 ∧ t.reg Reg.idStateReason = 7 ∧ t.act.phase = 0 ∧
      t.beat.on = false)

theorem concludeSounding_refuses {s : State} {all : List (PlaneId × Nat)} (hf : ∃ r ∈ all, r.2 ≠ 0)
    (h16 : ∀ r ∈ all, r.1.1 < 16) : SetRefused s (concludeSounding s all) (all.map Prod.fst) := by
  have hp : (all.all fun r => r.2 == 0) = false := by simpa using hf
  have hact := outcomes_act false s all
  have hst : ∀ r ∈ all, (all.foldl (soundOutcome false) s).planeState r.1.1 r.1.2 = 7 := fun r hr => outcomes_planeState hr
  unfold concludeSounding SetRefused
  simp only [hp, hact, List.forall_mem_map]
  by_cases h3 : s.act.phase = 3
  · simp only [h3, ↓reduceIte, Bool.false_eq_true]
    exact ⟨fun r hr => endActivation_loaded (h16 r hr) (.inl ((State.planeState_withAct ..).trans (hst r hr))) 7 8,
      fun _ => endActivation_held _ 7 8⟩
  · simp only [h3, ↓reduceIte]
    refine ⟨fun r hr => ?_, False.elim⟩
    split
    · exact (State.planeState_setReg _ _ _ _ (planeReg_key_ne_of_low (by decide) _ _)).trans (hst r hr)
    · exact hst r hr

theorem concludeSounding_reason {s : State} {all : List (PlaneId × Nat)} {r : PlaneId × Nat} (hr : r ∈ all)
    (hone : ∀ y ∈ all, y.1.1 = r.1.1 → y.2 = r.2) : (concludeSounding s all).reg Reg.forgeActReason r.1.1 = r.2 := by
  have h : ∀ pass, (all.foldl (soundOutcome pass) s).reg Reg.forgeActReason r.1.1 = r.2 := fun _ => outcomes_reason hr hone
  unfold concludeSounding
  dsimp only
  split
  · split
    · exact h _
    · exact (endActivation_reason _ 7 8 _).trans (h _)
  · split
    · refine (State.reg_setReg_other _ _ ?_).trans (h _)
      simp only [Reg.key, Reg.imgReason, Reg.forgeActReason]
      omega
    · exact h _

theorem concludeSounding_passes {s : State} {all : List (PlaneId × Nat)} (hp : ∀ r ∈ all, r.2 = 0) :
    (∀ r ∈ all, (concludeSounding s all).planeState r.1.1 r.1.2 = 3) ∧
    (∀ f q, ((concludeSounding s all).plane f q).portDelay = (s.plane f q).portDelay ∧
      ((concludeSounding s all).plane f q).quenchDelay = (s.plane f q).quenchDelay) ∧
    (concludeSounding s all).act.phase = if s.act.phase = 3 then 4 else s.act.phase := by
  have hall : (all.all fun r => r.2 == 0) = true := by simpa using hp
  have hact := outcomes_act true s all
  unfold concludeSounding
  simp only [hall, hact, Bool.not_true, Bool.false_and, Bool.false_eq_true, ↓reduceIte]
  by_cases h3 : s.act.phase = 3
  · simp only [h3, ↓reduceIte]
    exact ⟨fun r hr => outcomes_planeState hr, outcomes_delays s all, trivial⟩
  · simp only [h3, ↓reduceIte]
    exact ⟨fun r hr => outcomes_planeState hr, outcomes_delays s all, trivial⟩

end Sys2Proof.Machine
end

section
/-! SUPPORT. The judgement of a set that sounds: by its own sounding, by what the peers report, or by their silence
(R23, R97 to R101; notes/assumptions/93.md). -/

namespace Sys2Proof.Machine

theorem SetRefused.of_phase {s u t : State} {set : List PlaneId} (h : u.act.phase = s.act.phase) (hr : SetRefused u t set) :
    SetRefused s t set := ⟨hr.1, fun h3 => hr.2 (h.trans h3)⟩

theorem SetRefused.subset {s t : State} {set sub : List PlaneId} (h : ∀ x ∈ sub, x ∈ set) (hr : SetRefused s t set) :
    SetRefused s t sub := ⟨fun x hx => hr.1 x (h x hx), hr.2⟩

/-! ### The planes that sound, and those that await their peers -/

/-- The planes whose own sounding is in progress. -/
def soundingSet (s : State) : List PlaneId :=
  (planesIn s 2).filter fun x => (s.plane x.1 x.2).soundBeat.isSome && (s.plane x.1 x.2).ownResult.isNone

theorem soundingSet_sounds {s : State} {x : PlaneId} (h : x ∈ soundingSet s) : x.1 < 16 ∧ s.planeState x.1 x.2 = 2 :=
  mem_planesIn.mp (List.mem_filter.mp h).1

theorem mem_awaitingPeers {s : State} {x : PlaneId} :
    x ∈ awaitingPeers s ↔ (x.1 < 16 ∧ s.planeState x.1 x.2 = 2) ∧ (s.plane x.1 x.2).ownResult.isSome = true := by
  simp only [awaitingPeers, List.mem_filter, mem_planesIn]

/-! ### What the peers say (R100) -/

/-- Has every receive ferry reported a result. -/
def peersReported (s : State) : Bool := (rxFerries s).all fun p => s.act.results.any fun y => y.1 = p.lane

/-- Has the set waited more than 64 beats for its peers. -/
def peersLate (s : State) : Bool :=
  match s.act.endedAt with
  | some b => decide (64 < beatDiff s.beat.n b)
  | none => false

theorem peersLate_some {s : State} {b : Beat} (h : s.act.endedAt = some b) : peersLate s = decide (64 < beatDiff s.beat.n b) := by
  simp only [peersLate, h]

theorem peersVerdict_eq (s : State) : peersVerdict s =
    if s.act.results.any Prod.snd then some false
    else if peersReported s then some true
    else if peersLate s then some false
    else none := rfl

theorem rxFerries_congr {s t : State} (hi : t.images = s.images) (ha : t.act.phase = s.act.phase) : rxFerries t = rxFerries s := by
  simp only [rxFerries, ferryImage, hi, ha]

/-- The planes that await their peers, each with one reason. -/
def awaitingWith (s : State) (reason : Nat) : List (PlaneId × Nat) := (awaitingPeers s).map fun x => (x, reason)

theorem mem_awaitingWith {s : State} {x : PlaneId} (h : x ∈ awaitingPeers s) (n : Nat) : (x, n) ∈ awaitingWith s n :=
  List.mem_map.mpr ⟨x, h, rfl⟩

theorem awaitingWith_snd {s : State} {n : Nat} {r : PlaneId × Nat} (h : r ∈ awaitingWith s n) : r.1.1 < 16 ∧ r.2 = n := by
  obtain ⟨x, hx, rfl⟩ := List.mem_map.mp h
  exact ⟨(mem_awaitingPeers.mp hx).1.1, rfl⟩

theorem judgePeers_judged {s : State} {x : PlaneId} (hx : x ∈ awaitingPeers s) {pass : Bool} (hv : peersVerdict s = some pass) :
    judgePeers s = concludeSounding s (awaitingWith s (if pass then 0 else 6)) := by
  have hne : (awaitingPeers s).isEmpty = false := List.isEmpty_eq_false_iff.mpr (List.ne_nil_of_mem hx)
  unfold judgePeers
  simp only [hne, hv, Bool.false_eq_true, ↓reduceIte]
  rfl

theorem judgePeers_waits {s : State} (hv : peersVerdict s = none) : judgePeers s = s := by
  unfold judgePeers
  simp only [hv, ite_self]

/-- A failure or a silence of the peers refuses every plane that awaits them, with PEER_FAILED (R100). -/
theorem judgePeers_refuses {s : State} (hv : peersVerdict s = some false) {x : PlaneId} (hx : x ∈ awaitingPeers s) :
    SetRefused s (judgePeers s) (awaitingPeers s) ∧ (judgePeers s).reg Reg.forgeActReason x.1 = 6 := by
  rw [judgePeers_judged hx hv]
  have hmem := mem_awaitingWith hx 6
  have hreason := concludeSounding_reason (s := s) hmem fun y hy _ => (awaitingWith_snd hy).2
  have hset := concludeSounding_refuses (s := s) ⟨_, hmem, Nat.succ_ne_zero 5⟩ fun r hr => (awaitingWith_snd hr).1
  refine ⟨hset.subset fun y hy => ?_, hreason⟩
  exact List.mem_map.mpr ⟨(y, 6), mem_awaitingWith hy 6, rfl⟩

theorem judgePeers_passes {s : State} (hv : peersVerdict s = some true) {x : PlaneId} (hx : x ∈ awaitingPeers s) :
    ((judgePeers s).planeState x.1 x.2 = 3 ∧ (judgePeers s).reg Reg.forgeActReason x.1 = 0 ∧
      ((judgePeers s).plane x.1 x.2).portDelay = (s.plane x.1 x.2).portDelay ∧
      ((judgePeers s).plane x.1 x.2).quenchDelay = (s.plane x.1 x.2).quenchDelay) ∧
    (judgePeers s).act.phase = if s.act.phase = 3 then 4 else s.act.phase := by
  rw [judgePeers_judged hx hv]
  have hmem := mem_awaitingWith hx 0
  have hreason := concludeSounding_reason (s := s) hmem fun y hy _ => (awaitingWith_snd hy).2
  obtain ⟨hst, hd, hph⟩ := concludeSounding_passes (s := s) fun r (hr : r ∈ awaitingWith s 0) => (awaitingWith_snd hr).2
  exact ⟨⟨hst _ hmem, hreason, (hd _ _).1, (hd _ _).2⟩, hph⟩

/-! ### The wafer's own sounding ends -/

/-- What the sounding of a plane of the set finds (R96). -/
def ownFound (s : State) (lost : Bool) (x : PlaneId) : Sounded := (soundOne (setFerryReleases s) (soundingSet s) lost x).2

/-- Does the wafer's own sounding refuse the set. -/
def ownFails (s : State) (lost : Bool) : Bool := (soundingSet s).any fun x => (ownFound s lost x).reason != 0

/-- The set with what its own sounding has found, once the result has gone out on the ferries. -/
def ownEnded (s : State) (lost : Bool) : State :=
  let t := setFerryReleases s
  ((soundingSet s).map fun x => (x, ownFound s lost x)).foldl soundedPlane (tagFerries t (txFerries t) (ownFails s lost) true)

/-- The same with the beat in which the wait for the peers begins. -/
def ownWaits (s : State) (lost : Bool) : State :=
  let t := ownEnded s lost
  { t with act := { t.act with endedAt := some t.beat.n } }

theorem soundEnds_eq {s : State} {lost : Bool} (h : soundingSet s ≠ []) : soundEnds s lost =
    if ownFails s lost then concludeSounding (ownEnded s lost) ((soundingSet s).map fun x => (x, (ownFound s lost x).reason))
    else judgePeers (ownWaits s lost) := by
  have hne : (soundingSet s).isEmpty = false := List.isEmpty_eq_false_iff.mpr h
  have hown : (soundingSet s).map (soundOne (setFerryReleases s) (soundingSet s) lost) =
      (soundingSet s).map fun x => (x, ownFound s lost x) :=
    List.map_congr_left fun x _ => Prod.ext (soundOne_fst ..) rfl
  have hfail : (((soundingSet s).map fun x => (x, ownFound s lost x)).any fun r => r.2.reason != 0) = ownFails s lost := by
    rw [List.any_map]
    rfl
  unfold soundEnds
  dsimp only
  rw [← soundingSet, hne, hown, hfail, List.map_map]
  rfl

section
variable (s : State) (lost : Bool)

theorem tagged_kept : ForgesKept s (tagFerries (setFerryReleases s) (txFerries (setFerryReleases s)) (ownFails s lost) true) :=
  (ForgesKept.setFerryReleases s).trans (.tagFerries ..)

theorem ownEnded_act : (ownEnded s lost).act = s.act :=
  (foldl_keep State.act soundedPlane (fun _ _ => rfl) _ _).trans (tagged_kept s lost).act

theorem ownEnded_images : (ownEnded s lost).images = s.images :=
  (foldl_keep State.images soundedPlane (fun _ _ => rfl) _ _).trans (tagged_kept s lost).images

theorem ownEnded_planeState {f : Nat} (hf : f < 16) (q : Bool) : (ownEnded s lost).planeState f q = s.planeState f q :=
  (foldl_keep (fun t => t.planeState f q) _ (fun _ _ => soundedPlane_planeState ..) _ _).trans ((tagged_kept s lost).planeState hf q)

/-- A plane of the set holds the delays and the result of its own sounding. -/
theorem ownEnded_plane {x : PlaneId} (hx : x ∈ soundingSet s) :
    ((ownEnded s lost).plane x.1 x.2).portDelay = (ownFound s lost x).portDelay ∧
    ((ownEnded s lost).plane x.1 x.2).quenchDelay = (ownFound s lost x).quenchDelay ∧
    ((ownEnded s lost).plane x.1 x.2).ownResult = some (ownFound s lost x).reason := by
  have same : ∀ t : State, ((soundedPlane t (x, ownFound s lost x)).plane x.1 x.2).portDelay = (ownFound s lost x).portDelay ∧
      ((soundedPlane t (x, ownFound s lost x)).plane x.1 x.2).quenchDelay = (ownFound s lost x).quenchDelay ∧
      ((soundedPlane t (x, ownFound s lost x)).plane x.1 x.2).ownResult = some (ownFound s lost x).reason := by
    intro t
    rw [show (soundedPlane t (x, ownFound s lost x)).plane x.1 x.2 = _ from soundedPlane_plane_same ..]
    exact ⟨rfl, rfl, rfl⟩
  refine foldl_reaches (p := fun _ => True) (r := fun t : State => (t.plane x.1 x.2).portDelay = (ownFound s lost x).portDelay ∧
    (t.plane x.1 x.2).quenchDelay = (ownFound s lost x).quenchDelay ∧
    (t.plane x.1 x.2).ownResult = some (ownFound s lost x).reason)
    (List.mem_map.mpr ⟨x, hx, rfl⟩) (fun _ _ _ _ => trivial) (fun t _ => same t) (fun t y hy ht => ?_) trivial
  obtain ⟨z, -, rfl⟩ := List.mem_map.mp hy
  by_cases h : x = z
  · subst h
    exact same t
  · rwa [soundedPlane_plane_other t h]

theorem ownWaits_awaits {x : PlaneId} (hx : x ∈ soundingSet s) : x ∈ awaitingPeers (ownWaits s lost) := by
  obtain ⟨h16, h2⟩ := soundingSet_sounds hx
  obtain ⟨-, -, hr⟩ := ownEnded_plane s lost hx
  exact mem_awaitingPeers.mpr ⟨⟨h16, (ownEnded_planeState s lost h16 x.2).trans h2⟩,
    (congrArg Option.isSome hr : ((ownEnded s lost).plane x.1 x.2).ownResult.isSome = _)⟩

theorem ownWaits_phase : (ownWaits s lost).act.phase = s.act.phase := 
  (congrArg Activation.phase (ownEnded_act s lost) : (ownEnded s lost).act.phase = s.act.phase)

theorem ownWaits_results : (ownWaits s lost).act.results = s.act.results := 
  (congrArg Activation.results (ownEnded_act s lost) : (ownEnded s lost).act.results = s.act.results)

theorem ownWaits_reported : peersReported (ownWaits s lost) = peersReported s := by
  simp only [peersReported, rxFerries_congr (t := ownWaits s lost) (ownEnded_images s lost) (ownWaits_phase s lost), ownWaits_results]

/-- A wait that begins now is not over. -/
theorem ownWaits_late : peersLate (ownWaits s lost) = false := by
  rw [peersLate_some rfl]
  simp [ownWaits, beatDiff]

theorem ownWaits_verdict : peersVerdict (ownWaits s lost) =
    if s.act.results.any Prod.snd then some false else if peersReported s then some true else none := by
  rw [peersVerdict_eq, ownWaits_results, ownWaits_reported, ownWaits_late]
  rfl

end

/-- A reason against one plane refuses the set, and shows each forging with one plane in it that plane's reason (R97, R98). -/
theorem soundEnds_refuses {s : State} {lost : Bool} (h : ∃ x ∈ soundingSet s, (ownFound s lost x).reason ≠ 0) :
    SetRefused s (soundEnds s lost) (soundingSet s) ∧ ∀ x ∈ soundingSet s, (∀ y ∈ soundingSet s, y.1 = x.1 → y = x) →
      (soundEnds s lost).reg Reg.forgeActReason x.1 = (ownFound s lost x).reason := by
  obtain ⟨z, hz, hr⟩ := h
  have hmem : ∀ x ∈ soundingSet s, (x, (ownFound s lost x).reason) ∈ (soundingSet s).map fun x => (x, (ownFound s lost x).reason) :=
    fun x hx => List.mem_map.mpr ⟨x, hx, rfl⟩
  have hfail : ownFails s lost = true := List.any_eq_true.mpr ⟨z, hz, by simpa using hr⟩
  rw [soundEnds_eq (List.ne_nil_of_mem hz), if_pos hfail]
  refine ⟨?_, fun x hx hone => ?_⟩
  · refine ((concludeSounding_refuses ⟨_, hmem z hz, hr⟩ fun r hr => ?_).subset fun y hy => ?_).of_phase
      (congrArg Activation.phase (ownEnded_act s lost))
    · obtain ⟨x, hx, rfl⟩ := List.mem_map.mp hr
      exact (soundingSet_sounds hx).1
    · exact List.mem_map.mpr ⟨_, hmem y hy, rfl⟩
  · refine concludeSounding_reason (r := (x, (ownFound s lost x).reason)) (hmem x hx) fun r hr hf => ?_
    obtain ⟨y, hy, rfl⟩ := List.mem_map.mp hr
    rw [hone y hy hf]

/-- A set that its own sounding passes is left to what the peers say. -/
theorem soundEnds_passes {s : State} {lost : Bool} (hne : soundingSet s ≠ [])
    (h : ∀ x ∈ soundingSet s, (ownFound s lost x).reason = 0) : soundEnds s lost = judgePeers (ownWaits s lost) := by
  have hfail : ownFails s lost = false := by simpa [ownFails] using h
  rw [soundEnds_eq hne, hfail]
  rfl

section
variable {s : State} {lost : Bool} (hne : soundingSet s ≠ []) (h0 : ∀ x ∈ soundingSet s, (ownFound s lost x).reason = 0)
include hne h0

theorem soundEnds_peersFail (hf : s.act.results.any Prod.snd = true) : SetRefused s (soundEnds s lost) (soundingSet s) ∧
    ∀ x ∈ soundingSet s, (soundEnds s lost).reg Reg.forgeActReason x.1 = 6 := by
  have hv := (ownWaits_verdict s lost).trans (if_pos hf)
  have hwait := fun x (hx : x ∈ soundingSet s) => ownWaits_awaits s lost hx
  obtain ⟨z, hz⟩ := List.exists_mem_of_ne_nil _ hne
  rw [soundEnds_passes hne h0]
  exact ⟨((judgePeers_refuses hv (hwait z hz)).1.subset hwait).of_phase (ownWaits_phase s lost),
    fun x hx => (judgePeers_refuses hv (hwait x hx)).2⟩

theorem soundEnds_ready (hf : s.act.results.any Prod.snd = false) (hr : peersReported s = true) :
    (∀ x ∈ soundingSet s, (soundEnds s lost).planeState x.1 x.2 = 3 ∧ (soundEnds s lost).reg Reg.forgeActReason x.1 = 0 ∧
      ((soundEnds s lost).plane x.1 x.2).portDelay = (ownFound s lost x).portDelay ∧
      ((soundEnds s lost).plane x.1 x.2).quenchDelay = (ownFound s lost x).quenchDelay) ∧
    (soundEnds s lost).act.phase = if s.act.phase = 3 then 4 else s.act.phase := by
  have hv := (ownWaits_verdict s lost).trans ((if_neg (ne_true_of_eq_false hf)).trans (if_pos hr))
  obtain ⟨z, hz⟩ := List.exists_mem_of_ne_nil _ hne
  rw [soundEnds_passes hne h0]
  refine ⟨fun x hx => ?_, (judgePeers_passes hv (ownWaits_awaits s lost hz)).2.trans (by rw [ownWaits_phase])⟩
  obtain ⟨⟨hst, hreason, hport, hquench⟩, -⟩ := judgePeers_passes hv (ownWaits_awaits s lost hx)
  obtain ⟨hp, hq, -⟩ := ownEnded_plane s lost hx
  exact ⟨hst, hreason, hport.trans hp, hquench.trans hq⟩

theorem soundEnds_waits (hf : s.act.results.any Prod.snd = false) (hr : peersReported s = false) :
    (soundEnds s lost).act.phase = s.act.phase ∧ ∀ x ∈ soundingSet s, (soundEnds s lost).planeState x.1 x.2 = 2 ∧
      ((soundEnds s lost).plane x.1 x.2).ownResult = some 0 := by
  have hv := (ownWaits_verdict s lost).trans ((if_neg (ne_true_of_eq_false hf)).trans (if_neg (ne_true_of_eq_false hr)))
  rw [soundEnds_passes hne h0, judgePeers_waits hv]
  refine ⟨ownWaits_phase s lost, fun x hx => ?_⟩
  obtain ⟨h16, h2⟩ := soundingSet_sounds hx
  obtain ⟨-, -, hown⟩ := ownEnded_plane s lost hx
  exact ⟨(ownEnded_planeState s lost h16 x.2).trans h2, hown.trans (congrArg some (h0 x hx))⟩

end

/-- More than 64 beats without every report is a failure of the peers (R100). -/
theorem peersVerdict_overdue {s : State} {b : Beat} (hb : s.act.endedAt = some b) (hlate : 64 < beatDiff s.beat.n b)
    (hr : peersReported s = false) : peersVerdict s = some false := by
  rw [peersVerdict_eq, hr, peersLate_some hb, decide_eq_true hlate]
  simp

/-- Settles O23. The set is judged by its own sounding first, and then by the reports of its peers or by their silence. That all the
planes that sound are one set is the model's choice (notes/assumptions/93.md). -/
theorem soundingJudgesItsSetWhole : Obligations.SoundingJudgesItsSetWhole := by
  unfold Obligations.SoundingJudgesItsSetWhole
  refine ⟨fun s c lost hc => ?_, fun s b hb hlate hrep x hx => ?_⟩
  · intro set own hne refused
    have hexec : exec c s = done s (soundEnds s lost) := by
      rcases hc with ⟨rfl, rfl⟩ | ⟨rfl, rfl⟩ <;> rfl
    rw [hexec]
    refine ⟨fun h => ?_, fun hl x _ => ?_, fun h0 => ⟨fun hf => ?_, fun hf hr => ?_, fun hf hr => ?_⟩⟩
    · exact done_leaves (soundEnds_refuses h) fun _ _ h => h
    · subst hl
      exact soundOne_lost _ set x
    · exact done_leaves (soundEnds_peersFail hne h0 hf) fun _ _ h => h
    · exact done_leaves (soundEnds_ready hne h0 hf hr) fun _ _ h => h
    · exact done_leaves (soundEnds_waits hne h0 hf hr) fun _ _ h => h
  · obtain ⟨⟨hst, -⟩, hreason⟩ := judgePeers_refuses (peersVerdict_overdue hb hlate hrep) hx
    exact ⟨hst x hx, hreason⟩

end Sys2Proof.Machine
end

section
/-! SUPPORT. Loads: what a completed load leaves in the tiles and of the planes, and what the start of one leaves
(R20, R101, R107, R348, R349, R352). -/

namespace Sys2Proof.Machine

/-! ### Programs in the tiles (R20, R85, R107) -/

theorem State.tile_setTile_of (s : State) (t d : TileId) (q : Bool) (v : Tile) :
    (s.setTile t q v).tile d q = if s.physOf t q = s.physOf d q then v else s.tile d q := tabGet_tabSet ..

theorem progOf_installTile (tl : Tile) (f : Nat) (q : Bool) (tp : TilePlan) : progOf (installTile tl f q tp) q = tp.program := by
  cases q <;> rfl

/-- Port selects leave every program. -/
theorem selectPorts_progOf (q : Bool) (s : State) (t d : TileId) :
    progOf ((selectPorts q s t).tile d q) q = progOf (s.tile d q) q := by
  unfold selectPorts
  dsimp only
  rw [State.tile_setTile_of]
  split
  case isTrue h =>
    have ht : s.tile t q = s.tile d q := congrArg s.tileAt h
    rw [← ht]
    cases q <;> rfl
  case isFalse => rfl

theorem selectPorts_eq_setTile (q : Bool) (s : State) (t : TileId) : ∃ v, selectPorts q s t = s.setTile t q v := ⟨_, rfl⟩

/-- `t` differs from `s` in no register, plane or activation. -/
def PlanesAlike (s t : State) : Prop := t.regs = s.regs ∧ t.planes = s.planes ∧ t.act = s.act

theorem PlanesAlike.setTile {s t : State} (h : PlanesAlike s t) (d : TileId) (q : Bool) (v : Tile) : PlanesAlike s (t.setTile d q v) := h

theorem placePlan_keeps (s : State) (f : Nat) (q : Bool) (p : ForgingPlan) : PlanesAlike s (placePlan s f q p) := by
  unfold placePlan
  dsimp only
  refine foldl_holds (PlanesAlike s) _ (fun t d ht => ?_) _ _ (foldl_holds (PlanesAlike s) _ (fun t tp ht => ht.setTile ..) _ _ ?_)
  · obtain ⟨v, hv⟩ := selectPorts_eq_setTile q t d
    exact hv ▸ ht.setTile d q v
  · exact ⟨rfl, rfl, rfl⟩

/-- The tile of a plan's last entry holds that entry's program. -/
theorem placePlan_progOf {s : State} {f : Nat} {q : Bool} {p : ForgingPlan} {tp : TilePlan} (h : p.tiles.getLast? = some tp) :
    progOf ((placePlan s f q p).tile tp.tile q) q = tp.program := by
  obtain ⟨l, hl⟩ := List.getLast?_eq_some_iff.mp h
  unfold placePlan
  dsimp only
  rw [foldl_keep (fun t => progOf (State.tile t tp.tile q) q) _ (fun t d => selectPorts_progOf q t d tp.tile), hl, List.foldl_append,
    List.foldl_cons, List.foldl_nil, State.tile_setTile, progOf_installTile]

/-! ### The load of a plane completes -/

theorem completeLoad_none {s : State} {x : PlaneId} (h : (s.plane x.1 x.2).plan = none) : completeLoad s x = s := by
  unfold completeLoad
  simp only [h]

theorem completeLoad_some {s : State} {x : PlaneId} {p : ForgingPlan} (h : (s.plane x.1 x.2).plan = some p) :
    completeLoad s x = (placePlan s x.1 x.2 p).setPlane x.1 x.2 { s.plane x.1 x.2 with loaded := true } := by
  rw [← State.plane_of_planes (placePlan_keeps s x.1 x.2 p).2.1]
  unfold completeLoad
  simp only [h]

theorem completeLoad_keeps (s : State) (x : PlaneId) : (completeLoad s x).regs = s.regs ∧ (completeLoad s x).act = s.act := by
  cases h : (s.plane x.1 x.2).plan with
  | none =>
    rw [completeLoad_none h]
    exact ⟨rfl, rfl⟩
  | some p =>
    obtain ⟨hr, -, ha⟩ := placePlan_keeps s x.1 x.2 p
    rw [completeLoad_some h]
    exact ⟨hr, ha⟩

theorem completeLoad_plane_other (s : State) {x y : PlaneId} (h : y ≠ x) : (completeLoad s x).plane y.1 y.2 = s.plane y.1 y.2 := by
  cases hp : (s.plane x.1 x.2).plan with
  | none => rw [completeLoad_none hp]
  | some p =>
    rw [completeLoad_some hp, State.plane_setPlane_other _ _ h]
    exact State.plane_of_planes (placePlan_keeps s x.1 x.2 p).2.1 ..

/-- A plane that has a plan keeps it, and its load is complete. -/
theorem completeLoad_plane_same {s : State} {x : PlaneId} (h : (s.plane x.1 x.2).plan.isSome = true) :
    (completeLoad s x).plane x.1 x.2 = { s.plane x.1 x.2 with loaded := true } := by
  obtain ⟨p, hp⟩ := Option.isSome_iff_exists.mp h
  rw [completeLoad_some hp, State.plane_setPlane_same]

/-! ### The load of the LOADING planes completes -/

/-- The planes whose load is in progress. -/
def loadingSet (s : State) : List PlaneId := (planesIn s 1).filter fun x => !(s.plane x.1 x.2).loaded

theorem loadingSet_loading {s : State} {x : PlaneId} (h : x ∈ loadingSet s) : x.1 < 16 ∧ s.planeState x.1 x.2 = 1 :=
  mem_planesIn.mp (List.mem_filter.mp h).1

/-- The state with every load in progress complete. -/
def loadsPlaced (s : State) : State := (loadingSet s).foldl completeLoad (retireLoads s)

section
variable (s : State)

theorem loadsPlaced_act : (loadsPlaced s).act = s.act :=
  (foldl_keep State.act _ (fun t x => (completeLoad_keeps t x).2) _ _).trans (ForgesKept.retireLoads s).act

theorem loadsPlaced_reg {r : Reg} {n : Nat} (h : r.key n < 0x340000) : (loadsPlaced s).reg r n = s.reg r n :=
  (State.reg_of_regs (foldl_keep State.regs _ (fun t x => (completeLoad_keeps t x).1) _ _) r n).trans
    ((ForgesKept.retireLoads s).reg r n h)

theorem loadsPlaced_planeState {x : PlaneId} (hx : x ∈ loadingSet s) : (loadsPlaced s).planeState x.1 x.2 = 1 :=
  (loadsPlaced_reg s (planeReg_key_low (loadingSet_loading hx).1 x.2)).trans (loadingSet_loading hx).2

theorem loadsPlaced_loaded {x : PlaneId} (hx : x ∈ loadingSet s) (hp : (s.plane x.1 x.2).plan.isSome = true) :
    ((loadsPlaced s).plane x.1 x.2).loaded = true := by
  refine foldl_reaches (p := fun t : State => (t.plane x.1 x.2).plan.isSome = true)
    (r := fun t : State => (t.plane x.1 x.2).plan.isSome = true ∧ (t.plane x.1 x.2).loaded = true)
    hx (fun t y _ ht => ?_) (fun t ht => ?_) (fun t y _ ht => ?_) ?_ |>.2
  · by_cases h : x = y
    · subst h
      rwa [completeLoad_plane_same ht]
    · rwa [completeLoad_plane_other t h]
  · rw [completeLoad_plane_same ht]
    exact ⟨ht, rfl⟩
  · by_cases h : x = y
    · subst h
      rw [completeLoad_plane_same ht.1]
      exact ⟨ht.1, rfl⟩
    · rwa [completeLoad_plane_other t h]
  · rwa [(ForgesKept.retireLoads s).plane]

/-- A plane that loads alone has its plan's program in the tile of the last entry. -/
theorem loadsPlaced_progOf {f : Nat} {q : Bool} {p : ForgingPlan} {tp : TilePlan} (h : loadingSet s = [(f, q)])
    (hp : (s.plane f q).plan = some p) (ht : p.tiles.getLast? = some tp) :
    progOf ((loadsPlaced s).tile tp.tile q) q = tp.program := by
  have hr : ((retireLoads s).plane f q).plan = some p := by rw [(ForgesKept.retireLoads s).plane, hp]
  rw [loadsPlaced, h, List.foldl_cons, List.foldl_nil, completeLoad_some (x := (f, q)) hr]
  exact placePlan_progOf ht

theorem loadsComplete_eq (h : loadingSet s ≠ []) : loadsComplete s =
    if s.act.phase = 2 then
      if s.act.cancelled then endActivation (loadsPlaced s) 4 (s.reg Reg.imgReason)
      else { loadsPlaced s with act := { s.act with phase := 3 } }
    else if s.reg Reg.imgShadowState = 2 then (loadsPlaced s).setReg Reg.imgShadowState 0 3
    else loadsPlaced s := by
  have hne : (loadingSet s).isEmpty = false := List.isEmpty_eq_false_iff.mpr h
  rw [← loadsPlaced_act s, ← loadsPlaced_reg s (r := Reg.imgReason) (n := 0) (by decide),
    ← loadsPlaced_reg s (r := Reg.imgShadowState) (n := 0) (by decide)]
  unfold loadsComplete
  dsimp only
  rw [← loadingSet, hne]
  rfl

end

section
variable {s : State} (hne : loadingSet s ≠ [])
include hne

/-- Unless HOLD has cancelled it, a load ends as its planes and tiles have been left. -/
theorem loadsComplete_stands (h : ¬ (s.act.phase = 2 ∧ s.act.cancelled = true)) : (loadsComplete s).planes = (loadsPlaced s).planes ∧
    (∀ d q, (loadsComplete s).tile d q = (loadsPlaced s).tile d q) ∧
    ∀ f q, (loadsComplete s).planeState f q = (loadsPlaced s).planeState f q := by
  rw [loadsComplete_eq s hne]
  split
  case isTrue h2 =>
    rw [if_neg fun hc => h ⟨h2, hc⟩]
    exact ⟨rfl, fun _ _ => rfl, fun _ _ => rfl⟩
  case isFalse =>
    split
    · exact ⟨rfl, fun _ _ => rfl, fun _ _ => State.planeState_setReg _ _ _ _ (planeReg_key_ne_of_low (by decide) _ _)⟩
    · exact ⟨rfl, fun _ _ => rfl, fun _ _ => rfl⟩

theorem loadsComplete_loaded (h : ¬ (s.act.phase = 2 ∧ s.act.cancelled = true)) {x : PlaneId} (hx : x ∈ loadingSet s)
    (hp : (s.plane x.1 x.2).plan.isSome = true) :
    ((loadsComplete s).plane x.1 x.2).loaded = true ∧ (loadsComplete s).planeState x.1 x.2 = 1 := by
  obtain ⟨hpl, -, hst⟩ := loadsComplete_stands hne h
  rw [State.plane_of_planes hpl, hst]
  exact ⟨loadsPlaced_loaded s hx hp, loadsPlaced_planeState s hx⟩

theorem loadsComplete_sounds (h2 : s.act.phase = 2) (hc : s.act.cancelled = false) : (loadsComplete s).act.phase = 3 := by
  rw [loadsComplete_eq s hne, if_pos h2, hc]
  rfl

theorem loadsComplete_cancelled (h2 : s.act.phase = 2) (hc : s.act.cancelled = true)
    (hp : ∀ x ∈ loadingSet s, (s.plane x.1 x.2).plan.isSome = true) :
    (loadsComplete s).act.phase = 0 ∧ (loadsComplete s).reg Reg.imgState = 1 ∧ (loadsComplete s).reg Reg.idStateReason = 4 ∧
      ∀ x ∈ loadingSet s, (loadsComplete s).planeState x.1 x.2 = 7 := by
  rw [loadsComplete_eq s hne, if_pos h2, if_pos hc]
  obtain ⟨himg, -, hreason, hphase, -⟩ := endActivation_held (loadsPlaced s) 4 (s.reg Reg.imgReason)
  exact ⟨hphase, himg, hreason, fun x hx => endActivation_loaded (loadingSet_loading hx).1
    (.inr ⟨loadsPlaced_planeState s hx, loadsPlaced_loaded s hx (hp x hx)⟩) _ _⟩

theorem loadsComplete_shadow (h2 : s.act.phase ≠ 2) (hs : s.reg Reg.imgShadowState = 2) :
    (loadsComplete s).reg Reg.imgShadowState = 3 := by
  rw [loadsComplete_eq s hne, if_neg h2, if_pos hs]
  exact State.reg_setReg_same ..

end

/-! ### The start of a load (R101, R112) -/

section
variable (s : State) (i : ImagePlan) (hash : List Byte) (shadow q : Bool) (f : Nat)

theorem startLoad_none (h : planIn i f = none) : startLoad s i hash shadow q f = s := by
  unfold startLoad
  simp only [h]

/-- A plane on its way to a plan, with the remap tables of its islands in force and no word of the load served. -/
def loadPrepared (p : ForgingPlan) : State :=
  let x := s.plane f q
  let t := latchTables (s.setPlane f q { x with plan := some p, shoals := i.shoals, parts := i.parts, hash := hash, fromShadow := shadow,
                                                loaded := false, soundBeat := none, ownResult := none }) f q p
  p.tiles.foldl (fun (t : State) tp => t.setTile tp.tile q (setServed (t.tile tp.tile q) q 0)) t

theorem startLoad_some {p : ForgingPlan} (h : planIn i f = some p) : startLoad s i hash shadow q f =
    (dispatchLoads (installProgram shadow p (loadPrepared s i hash shadow q f p))).setPlaneState f q 1 := by
  unfold startLoad
  simp only [h]
  rfl

theorem loadPrepared_regs (p : ForgingPlan) : (loadPrepared s i hash shadow q f p).regs = s.regs :=
  foldl_keep State.regs _ (fun _ _ => State.setTileAt_regs ..) _ _

theorem loadPrepared_planes (p : ForgingPlan) : (loadPrepared s i hash shadow q f p).planes =
    (latchTables (s.setPlane f q { s.plane f q with
      plan := some p, shoals := i.shoals, parts := i.parts, hash := hash, fromShadow := shadow, loaded := false, soundBeat := none,
      ownResult := none }) f q p).planes :=
  foldl_keep State.planes _ (fun _ _ => State.setTileAt_planes ..) _ _

theorem latchTables_plan (s : State) (f : Nat) (q : Bool) (p : ForgingPlan) :
    ((latchTables s f q p).plane f q).plan = (s.plane f q).plan := by
  unfold latchTables
  rw [State.plane_setPlane_same]
  rfl

theorem latchTables_plane_other (s : State) {f g : Nat} {q b : Bool} (p : ForgingPlan) (h : (g, b) ≠ (f, q)) :
    (latchTables s f q p).plane g b = s.plane g b := by
  unfold latchTables
  exact State.plane_setPlane_other _ _ h

/-- A plane that begins to load is LOADING toward its plan. -/
theorem startLoad_loading {p : ForgingPlan} (h : planIn i f = some p) :
    (startLoad s i hash shadow q f).planeState f q = 1 ∧ ((startLoad s i hash shadow q f).plane f q).plan = some p := by
  rw [startLoad_some s i hash shadow q f h]
  refine ⟨State.planeState_setPlaneState_same .., ?_⟩
  rw [State.plane_setPlaneState, (ForgesKept.dispatchLoads _).plane, (ForgesKept.installProgram shadow p _).plane,
    State.plane_of_planes (loadPrepared_planes ..), latchTables_plan, State.plane_setPlane_same]

theorem startLoad_reg {r : Reg} {n : Nat} (hk : r.key n < 0x340000) (hr : (planeReg q).key f ≠ r.key n) :
    (startLoad s i hash shadow q f).reg r n = s.reg r n := by
  cases h : planIn i f with
  | none => rw [startLoad_none s i hash shadow q f h]
  | some p =>
    rw [startLoad_some s i hash shadow q f h]
    exact (State.reg_setReg_other _ _ hr).trans (((ForgesKept.dispatchLoads _).reg r n hk).trans
      (((ForgesKept.installProgram shadow p _).reg r n hk).trans (State.reg_of_regs (loadPrepared_regs ..) r n)))

theorem startLoad_plane_other {g : Nat} {b : Bool} (hg : (g, b) ≠ (f, q)) :
    (startLoad s i hash shadow q f).plane g b = s.plane g b := by
  cases h : planIn i f with
  | none => rw [startLoad_none s i hash shadow q f h]
  | some p =>
    rw [startLoad_some s i hash shadow q f h, State.plane_setPlaneState, (ForgesKept.dispatchLoads _).plane,
      (ForgesKept.installProgram shadow p _).plane, State.plane_of_planes (loadPrepared_planes ..), latchTables_plane_other _ _ hg,
      State.plane_setPlane_other _ _ hg]

end

/-! ### IMG_SHADOW_LOAD (R352) -/

/-- The loads of the masked forgings begin. -/
def shadowLoads (s : State) (i : ImagePlan) (q : Bool) (fs : List Nat) : State :=
  fs.foldl (fun t f => startLoad t i t.images.shadowHash true q f) s

theorem shadowLoads_reg (s : State) (i : ImagePlan) (q : Bool) (fs : List Nat) {r : Reg} {n : Nat} (h : r.key n < 0x310100) :
    (shadowLoads s i q fs).reg r n = s.reg r n :=
  foldl_keep (fun t => t.reg r n) _
    (fun t f => startLoad_reg t i _ true q f (by omega) (planeReg_key_ne_of_low h f q).symm) _ _

theorem shadowLoads_loading (s : State) {i : ImagePlan} {q : Bool} {fs : List Nat} (h16 : ∀ f ∈ fs, f < 16) {f : Nat} (hf : f ∈ fs)
    {p : ForgingPlan} (hp : planIn i f = some p) :
    (shadowLoads s i q fs).planeState f q = 1 ∧ ((shadowLoads s i q fs).plane f q).plan = some p := by
  refine foldl_reaches (p := fun _ => True) (r := fun t : State => t.planeState f q = 1 ∧ (t.plane f q).plan = some p) hf
    (fun _ _ _ _ => trivial) (fun t _ => startLoad_loading t i _ true q f hp) (fun t g _ ht => ?_) trivial
  by_cases hg : f = g
  · subst hg
    exact startLoad_loading t i _ true q f hp
  · have hne : (f, q) ≠ (g, q) := fun e => hg (congrArg Prod.fst e)
    refine ⟨(startLoad_reg t i _ true q g (planeReg_key_low (h16 f hf) q) fun e => hg (planeReg_key_inj e).1.symm).trans ht.1, ?_⟩
    rw [startLoad_plane_other t i _ true q g hne]
    exact ht.2

/-- The forgings that a value of IMG_SHADOW_LOAD masks. -/
def maskedForgings (v : Nat) : List Nat := (List.range 16).filter fun f => bit v f

theorem maskedForgings_lt {v f : Nat} (h : f ∈ maskedForgings v) : f < 16 := List.mem_range.mp (List.mem_filter.mp h).1

section
variable {s : State} {v : Nat} {i : ImagePlan}

theorem shadowLoadWrite_barred (h : s.mode.flows = false ∨ (s.reg Reg.imgShadowState ≠ 1 ∧ s.reg Reg.imgShadowState ≠ 3)) :
    shadowLoadWrite v s = (scState, s) := by
  unfold shadowLoadWrite
  refine if_pos ?_
  rcases h with h | ⟨h1, h3⟩
  · simp [h]
  · simp [h1, h3]

variable (hf : s.mode.flows = true) (hst : s.reg Reg.imgShadowState = 1 ∨ s.reg Reg.imgShadowState = 3)
  (hi : s.images.shadow = some i)
include hf hst hi

theorem shadowLoadWrite_loads (hr : shadowRefusal s i (maskedForgings v) (bit v 16) = 0) :
    ∃ t, shadowLoadWrite v s = (scOk, t) ∧ t.reg Reg.imgShadowState = (if (maskedForgings v).isEmpty then 3 else 2) ∧
      t.reg Reg.imgReason = s.reg Reg.imgReason ∧ ∀ f ∈ maskedForgings v, ∀ p, planIn i f = some p →
        t.planeState f (bit v 16) = 1 ∧ (t.plane f (bit v 16)).plan = some p := by
  refine ⟨(shadowLoads s i (bit v 16) (maskedForgings v)).setReg Reg.imgShadowState 0 (if (maskedForgings v).isEmpty then 3 else 2),
    ?_, State.reg_setReg_same .., (State.reg_setReg_other _ _ (by decide)).trans (shadowLoads_reg s i _ _ (by decide)),
    fun f hf p hp => ?_⟩
  · unfold shadowLoadWrite
    refine (if_neg (by simpa [hf, or_iff_not_imp_left] using hst)).trans ?_
    simp only [hi]
    rw [← maskedForgings, hr]
    rfl
  · rw [State.plane_setReg, State.planeState_setReg _ _ _ _ (planeReg_key_ne_of_low (by decide) _ _)]
    exact shadowLoads_loading s (fun _ h => maskedForgings_lt h) hf hp

theorem shadowLoadWrite_fails (hr : shadowRefusal s i (maskedForgings v) (bit v 16) ≠ 0) :
    ∃ t, shadowLoadWrite v s = (if shadowRefusal s i (maskedForgings v) (bit v 16) = 5 then scValue else scState, t) ∧
      t.planes = s.planes ∧ t.reg Reg.imgReason = shadowRefusal s i (maskedForgings v) (bit v 16) := by
  generalize hc : shadowRefusal s i (maskedForgings v) (bit v 16) = c at hr
  refine ⟨if c = 10 then (s.setReg Reg.imgReason 0 c).setReg Reg.imgShadowState 0 0 else s.setReg Reg.imgReason 0 c, ?_, ?_, ?_⟩
  · unfold shadowLoadWrite
    refine (if_neg (by simpa [hf, or_iff_not_imp_left] using hst)).trans ?_
    simp only [hi]
    rw [← maskedForgings, hc]
    split
    case h_1 => exact absurd rfl hr
    case h_2 => rfl
  · split <;> rfl
  · split
    · exact (State.reg_setReg_other _ _ (by decide)).trans (State.reg_setReg_same ..)
    · exact State.reg_setReg_same ..

end

/-- The row of IMG_SHADOW_LOAD in the table of objects. -/
def shadowLoadRow : ObjRow := ⟨Reg.imgShadowLoad, 1, 1, .unsigned 4, .wo, .mask 0x1FFFF⟩

theorem Mode.ne_off_of_online {m : Mode} (h : m.online = true) : m ≠ .off := by
  rintro rfl
  cases h

theorem Mode.online_of_flows {m : Mode} (h : m.flows = true) : m.online = true := by
  cases m with
  | held => rfl
  | off | boot | armed | running | stopped | faulted => exact h

theorem ownerWrite_imgShadowLoad (b : BootInputs) (n k v : Nat) (s : State) :
    ownerWrite b shadowLoadRow.reg n k v s = shadowLoadWrite v s := by
  unfold ownerWrite
  exact (if_neg (by decide)).trans <| (if_neg (by decide)).trans <| (if_neg (by decide)).trans <| (if_neg (by decide)).trans <|
    (if_neg (by decide)).trans <| (if_neg (by decide)).trans <| if_pos rfl

/-- A refusal is counted, and leaves the planes and every other register. -/
theorem countRefusal_kept (c : Nat) (t : State) : (countRefusal (c, t)).2.planes = t.planes ∧
    ∀ (r : Reg) (n : Nat), Reg.odWritesRefused.key 0 ≠ r.key n → (countRefusal (c, t)).2.reg r n = t.reg r n := by
  unfold countRefusal refuseWrite
  split
  · exact ⟨rfl, fun _ _ _ => rfl⟩
  · exact ⟨rfl, fun _ _ h => State.reg_count_other _ _ _ h⟩

/-- A write of a mask in HELD or while tokens flow passes every check before the rule of IMG_SHADOW_LOAD itself (R266): that rule's
code is answered, and what it leaves of the planes and the images' objects stands. -/
theorem imgShadowLoad_answers {s : State} {v c : Nat} {t : State} (hv : v < 2 ^ 17) (hm : s.mode.online = true)
    (h : shadowLoadWrite v s = (c, t)) : ∃ u, exec (.imgShadowLoad (leBytes 4 v)) s = .next u ∧ u.outbox.head? = some (.status c) ∧
      u.planes = t.planes ∧ ∀ (r : Reg) (n : Nat), Reg.odWritesRefused.key 0 ≠ r.key n → u.reg r n = t.reg r n := by
  have hle : leNat (leBytes 4 v) = v := by
    rw [leNat_leBytes]
    exact Nat.mod_eq_of_lt (by omega)
  have hf : findObject s 0x2101 0x02 = .object shadowLoadRow := findObject_of_mem (by decide +kernel) (by decide) rfl
  have hc : shadowLoadRow.check.ok shadowLoadRow (leNat (leBytes 4 v)) = true := by
    rw [hle]
    simp only [shadowLoadRow, Check.ok, beq_iff_eq]
    rw [show (0x1FFFF : Nat) = 2 ^ 17 - 1 from rfl, Nat.and_two_pow_sub_one_eq_mod, Nat.mod_eq_of_lt hv]
  have hw : writeState s shadowLoadRow = scOk := if_pos (.inl hm)
  have ho : ownerWrite (standingInputs s) shadowLoadRow.reg (shadowLoadRow.unit 0x2101) (0x02 - shadowLoadRow.reg.sub)
      (leNat (leBytes 4 v)) s = (c, t) := by
    rw [ownerWrite_imgShadowLoad, hle, h]
  have hexec : exec (.imgShadowLoad (leBytes 4 v)) s = done s (hostWrite 0x2101 0x02 (leBytes 4 v) s) := rfl
  have hkept := countRefusal_kept c t
  rw [hexec, hostWrite, hostWrites_number (Mode.ne_off_of_online hm) hf rfl hw (leBytes_length 4 v) hc ho]
  generalize (countRefusal (c, t)).2 = x at hkept
  exact done_leaves ⟨rfl, hkept⟩ fun _ _ h => h

theorem planeReg_key_ne_refused (f : Nat) (q : Bool) : Reg.odWritesRefused.key 0 ≠ (planeReg q).key f :=
  planeReg_key_ne_of_low (by decide) f q

/-- Settles O24. The load of a set leaves its planes' plans in the tiles, and the write of IMG_SHADOW_LOAD is judged once every check
of R266 has passed. That a plane stays LOADING when its load completes, that an empty mask reads LOADED at once, and that a load
which begins leaves IMG_REASON are the model's choices (notes/assumptions/61.md, 84.md, 62.md; R346). -/
theorem loadsCompleteAndShadowLoads : Obligations.LoadsCompleteAndShadowLoads := by
  unfold Obligations.LoadsCompleteAndShadowLoads
  refine ⟨fun s => ?_, fun s v i hv => ?_⟩
  · intro set hne hp
    refine done_leaves (s := s) (t := loadsComplete s) ⟨fun h => ⟨fun x hx => loadsComplete_loaded hne h hx (hp x hx), ?_⟩,
      loadsComplete_sounds hne, fun h2 hc => loadsComplete_cancelled hne h2 hc hp, loadsComplete_shadow hne⟩ fun _ _ h => h
    intro f q p tp hset hplan htp
    rw [(loadsComplete_stands hne h).2.1]
    exact loadsPlaced_progOf s hset hplan htp
  · intro fs q
    refine ⟨fun hf hst hi hr => ?_, fun hf hst hi hr => ?_, fun hm h => ?_⟩
    · obtain ⟨t, ht, hstate, hreason, hload⟩ := shadowLoadWrite_loads hf hst hi hr
      obtain ⟨u, hu, hout, hplanes, hregs⟩ := imgShadowLoad_answers hv (Mode.online_of_flows hf) ht
      refine ⟨u, hu, hout, (hregs _ 0 (by decide)).trans hstate, (hregs _ 0 (by decide)).trans hreason, fun f hf p hp => ?_⟩
      obtain ⟨hloading, hplan⟩ := hload f hf p hp
      exact ⟨(hregs _ f (planeReg_key_ne_refused f q)).trans hloading, (State.plane_of_planes hplanes f q).symm ▸ hplan⟩
    · obtain ⟨t, ht, hpl, hreason⟩ := shadowLoadWrite_fails hf hst hi hr
      obtain ⟨u, hu, hout, hplanes, hregs⟩ := imgShadowLoad_answers hv (Mode.online_of_flows hf) ht
      exact ⟨u, hu, hplanes.trans hpl, hout, (hregs _ 0 (by decide)).trans hreason⟩
    · obtain ⟨u, hu, hout, hplanes, hregs⟩ := imgShadowLoad_answers hv hm (shadowLoadWrite_barred h)
      exact ⟨u, hu, hout, hplanes, hregs _ 0 (by decide)⟩

end Sys2Proof.Machine
end

section
/-! SUPPORT. The step and its queue (R25, R35). -/

namespace Sys2Proof.Machine

/-- Settles O1. That an idle step lets one core cycle pass is the model's choice (notes/assumptions/2.md). -/
theorem stepRunsFrontOfQueue : Obligations.StepRunsFrontOfQueue := by
  refine ⟨fun c rest s => rfl, fun s h => ?_⟩
  unfold step
  rw [h]

end Sys2Proof.Machine
end

section
/-! SUPPORT. What an EMCY and a change of the engine's state leave: everything but registers, links, the log and the outbox. -/

namespace Sys2Proof.Machine

theorem State.pushErrorField_eq (s : State) (code unit : Nat) : ∃ regs, s.pushErrorField code unit = { s with regs := regs } := by
  unfold State.pushErrorField
  refine foldl_holds (fun t => ∃ regs, t = { s with regs := regs }) _ ?_ _ _ ⟨s.regs, rfl⟩
  rintro _ x ⟨regs, rfl⟩
  exact ⟨_, rfl⟩

theorem State.log_eq (s : State) (e : Event) : ∃ faults, s.log e = { s with faults := faults } := by
  unfold State.log
  exact ⟨_, rfl⟩

/-- An EMCY writes registers, the log and the links, and nothing else (R300, R382, R383). -/
theorem State.emcy_eq (s : State) (e : Event) :
    ∃ regs links faults, s.emcy e = { s with regs := regs, links := links, faults := faults } := by
  obtain ⟨reg, t, ht, h⟩ := s.emcy_form e
  have hx : ∃ regs faults, t = { s with regs := regs, faults := faults } := by
    obtain ⟨faults, hl⟩ := s.log_eq e
    rw [hl] at ht
    obtain ⟨regs, hr⟩ := State.pushErrorField_eq (({ s with faults := faults } : State).setReg Reg.errorRegister 0 reg) e.code e.unit
    exact ⟨regs, faults, ht.trans hr⟩
  obtain ⟨regs, faults, rfl⟩ := hx
  rw [h]
  split
  · exact ⟨regs, _, faults, rfl⟩
  · exact ⟨_, s.links, faults, rfl⟩

end Sys2Proof.Machine
end

section
/-! SUPPORT. The servo: what a PTP message, a sample and a loss do to its state and its registers (R38 to R45). -/

namespace Sys2Proof.Machine

/-! ### Frames that carry a PTP message (R302) -/

theorem onPtp_whole {s : State} {via : PtpVia} (h : via.frame = .whole) (taken : State → State) : onPtp s via taken = taken s := by
  unfold onPtp State.onFrame
  exact if_pos h

theorem onPtp_dropped {s : State} {via : PtpVia} (hf : via.frame ≠ .whole) (hm : s.mode ≠ .off) (hp : via.port < 2)
    (he : s.flag Reg.ethEnable via.port = true) (taken : State → State) :
    onPtp s via taken = s.count Reg.ethRxDropped via.port := by
  unfold onPtp State.onFrame
  rw [if_neg hf, if_neg]
  simp [hm, he]
  omega

theorem fromSelected_of {s : State} {m : Nat} (h : s.servo.selected = some m) (hl : s.servo.lost = false) : fromSelected s m = true := by
  simp [fromSelected, h, hl]

/-! ### Samples (R41 to R45) -/

/-- The registers that a sample writes beside TIME_OFFSET: TIME_STATE and its cause, the last step, the refusals and the objects of an
EMCY. -/
def sampleRegs : List Reg :=
  [Reg.timeState, Reg.timeHoldoverReason, Reg.timeLastStep, Reg.timeLastStepBeat, Reg.timeGuardRefused, Reg.timeStateFlags,
    Reg.errorRegister, Reg.canEmcyLost] ++ (List.range 16).map Reg.errorField.at

theorem markStepped_regs (before : Time96) (s : State) (k : Nat) : (markStepped before s k).regs = s.regs := by
  unfold markStepped
  split
  · rfl
  · dsimp only
    split
    · split <;> rfl
    · rfl

theorem mem_sampleRegs_errorField {k : Nat} (h : k < 16) : Reg.errorField.at k ∈ sampleRegs :=
  List.mem_append_right _ (List.mem_map.mpr ⟨k, List.mem_range.mpr h, rfl⟩)

section
variable {r : Reg} {n : Nat} (h : ∀ x ∈ sampleRegs, x.key 0 ≠ r.key n)
include h

theorem emcy_reg_of_sample (s : State) (e : Event) : (s.emcy e).reg r n = s.reg r n :=
  State.emcy_reg s e r n (h _ (by simp [sampleRegs])) (fun _ hk => h _ (mem_sampleRegs_errorField hk)) (h _ (by simp [sampleRegs]))

theorem setReg_reg_of_sample (s : State) {x : Reg} (v : Nat) (hx : x ∈ sampleRegs) : (s.setReg x 0 v).reg r n = s.reg r n :=
  State.reg_setReg_other _ _ (h x hx)

theorem holdoverCause_reg (s : State) (reason : Nat) : (holdoverCause s reason).reg r n = s.reg r n := by
  have hr := setReg_reg_of_sample h s (x := Reg.timeHoldoverReason) reason (by simp [sampleRegs])
  unfold holdoverCause
  dsimp only
  split
  · exact hr
  · exact (emcy_reg_of_sample h _ _).trans ((setReg_reg_of_sample h _ _ (by simp [sampleRegs])).trans hr)

theorem goodSample_reg (s : State) : (goodSample s).reg r n = s.reg r n := by
  have hst : ∀ t : State, (t.setReg Reg.timeState 0 2).reg r n = t.reg r n := fun t =>
    setReg_reg_of_sample h t 2 (by simp [sampleRegs])
  unfold goodSample
  dsimp only
  split
  · split
    · exact hst _
    · rfl
  · split
    · exact (hst _).trans rfl
    · rfl

theorem clockStep_reg (s : State) (offset : Int) : (clockStep s offset).reg r n = s.reg r n := by
  unfold clockStep
  dsimp only
  refine (State.reg_of_regs (foldl_keep State.regs _ (markStepped_regs _) _ _) _ _).trans ?_
  exact (setReg_reg_of_sample h _ _ (by simp [sampleRegs])).trans (setReg_reg_of_sample h _ _ (by simp [sampleRegs]))

theorem refuseSample_reg (s : State) : (refuseSample s).reg r n = s.reg r n := by
  have hs : ((s.count Reg.timeGuardRefused 0).setReg Reg.timeStateFlags 0 1).reg r n = s.reg r n :=
    (setReg_reg_of_sample h _ _ (by simp [sampleRegs])).trans (setReg_reg_of_sample h _ _ (by simp [sampleRegs]))
  unfold refuseSample
  dsimp only
  split
  · exact (holdoverCause_reg h _ _).trans hs
  · exact hs

end

/-- A sample shows its offset (R42). -/
theorem offsetSample_offset (s : State) (offset : Int) : (offsetSample s offset).reg Reg.timeOffset = toCode 64 offset := by
  have h : ∀ x ∈ sampleRegs, x.key 0 ≠ Reg.timeOffset.key 0 := by decide
  have hs := State.reg_setReg_same s Reg.timeOffset 0 (toCode 64 offset)
  unfold offsetSample
  dsimp only
  split
  · exact (goodSample_reg h _).trans hs
  · split
    · exact (clockStep_reg h _ _).trans hs
    · exact (refuseSample_reg h _).trans hs

/-- In ACQUIRING the good sample that completes TIME_RELOCK_COUNT locks (R41). -/
theorem goodSample_locks {s : State} (ha : s.reg Reg.timeState = 1) (hn : s.reg Reg.timeRelockCount ≤ s.servo.good + 1) :
    (goodSample s).reg Reg.timeState = 2 := by
  have hslew : ∀ t : State, t.reg Reg.timeState = 1 → (slew t).reg Reg.timeState = 1 := fun t h => h
  have hs : ∀ v : Servo, ({ s with servo := v } : State).reg Reg.timeState = 1 := fun _ => ha
  have hl : ∀ v : Servo, ({ s with servo := v } : State).reg Reg.timeRelockCount = s.reg Reg.timeRelockCount := fun _ => rfl
  unfold goodSample
  simp only [hs, hl, hn, Nat.reduceEqDiff, decide_true, and_self, ↓reduceIte]
  exact State.reg_setReg_same ..

theorem offsetSample_locks {s : State} {offset : Int} (ha : s.reg Reg.timeState = 1)
    (hg : offset.natAbs ≤ s.reg Reg.timeGuardNs * 65536) (hn : s.reg Reg.timeRelockCount ≤ s.servo.good + 1) :
    (offsetSample s offset).reg Reg.timeState = 2 := by
  have hs : ∀ r : Reg, Reg.timeOffset.key 0 ≠ r.key 0 → (s.setReg Reg.timeOffset 0 (toCode 64 offset)).reg r = s.reg r :=
    fun r h => State.reg_setReg_other _ _ h
  unfold offsetSample
  dsimp only
  rw [hs Reg.timeGuardNs (by decide), if_pos hg]
  exact goodSample_locks ((hs Reg.timeState (by decide)).trans ha) ((hs Reg.timeRelockCount (by decide)).trans_le hn)

/-! ### Messages of the selected master (R38, R41) -/

/-- A Sync or a Follow_Up that forms a sample shows the offset of its receive stamp from the corrected origin time and the path delay. -/
theorem syncSample_offset (s : State) (origin : Time96) (t2 c : Int) :
    (syncSample s origin t2 c).reg Reg.timeOffset = toCode 64 (unitsDiff t2 (timeUnits origin + c + s.servo.delay)) :=
  offsetSample_offset ..

section
variable {s : State} {m : PtpSync} (hh : ptpHears s m.via m.domain = true) (hs : s.servo.selected = some m.master)
  (hl : s.servo.lost = false) (h7 : -7 ≤ m.logInterval) (h1 : m.logInterval ≤ 1)
include hh hs hl h7 h1

/-- What a Sync of the selected master does, by the state of the servo and the kind of the Sync. -/
theorem syncArrives_selected : syncArrives s m =
    if s.reg Reg.timeState = 0 then
      { s.setReg Reg.timeState 0 1 with servo := { s.servo with good := 0, refusedRun := 0, waiting := none } }
    else if m.twoStep then { s with servo := { s.servo with waiting := some (m, rxUnits s m.age) } }
    else syncSample { s with servo := { s.servo with waiting := none } } m.origin (rxUnits s m.age) m.correction := by
  unfold syncArrives
  rw [if_neg]
  simp [hh, fromSelected_of hs hl, h7, h1]

end

/-- A message of another domain, port or mapping, and one while PTP is disabled, changes nothing (R38). -/
theorem syncArrives_unheard {s : State} {m : PtpSync} (h : ptpHears s m.via m.domain = false) : syncArrives s m = s := by
  unfold syncArrives
  rw [if_pos]
  simp [h]

/-- A Follow_Up of the selected master completes the sample of the Sync that waits for it (R38). -/
theorem followUpArrives_waited {s : State} {x : PtpSync} {t2 : Int} {m : PtpFollowUp} (hh : ptpHears s m.via m.domain = true)
    (hs : s.servo.selected = some m.master) (hl : s.servo.lost = false) (hw : s.servo.waiting = some (x, t2))
    (hm : x.master = m.master) (hq : x.seq = m.seq) :
    followUpArrives s m =
      syncSample { s with servo := { s.servo with waiting := none } } m.origin t2 (x.correction + m.correction) := by
  unfold followUpArrives
  simp only [hw]
  rw [if_pos]
  simp [hh, fromSelected_of hs hl, hm, hq]

/-- A slave that has heard no master selects the master of an Announce and takes its UTC offset (R41). -/
theorem announceArrives_first {s : State} {m : PtpAnnounce} (hh : ptpHears s m.via m.domain = true) (hn : m.stepsRemoved < 255)
    (hr : s.reg Reg.ptpRole = 0) (hm : s.servo.masters = []) (hs : s.servo.selected = none) :
    (announceArrives s m).servo.selected = some m.master ∧ (announceArrives s m).servo.lost = false ∧
      (announceArrives s m).reg Reg.timeUtcOffset = toCode 16 m.utcOffset ∧
      (announceArrives s m).reg Reg.timeState = s.reg Reg.timeState := by
  have hbest : ∀ f : Foreign, bestMaster [f] = some f := fun _ => rfl
  unfold announceArrives
  rw [if_neg (by simp [hh, hn])]
  simp only [hm, List.filter_nil, selectMaster, hbest]
  rw [if_neg (by simp [show ∀ v : Servo, ({ s with servo := v } : State).reg Reg.ptpRole = 0 from fun _ => hr])]
  simp only [hs, reduceCtorEq, ↓reduceIte, Option.isSome_none, Bool.false_eq_true]
  exact ⟨rfl, rfl, State.reg_setReg_same .., State.reg_setReg_other _ _ (by decide)⟩

/-! ### A Sync that waited is gone once its sample is formed -/

theorem markStepped_servo (before : Time96) (s : State) (k : Nat) : (markStepped before s k).servo = s.servo := by
  unfold markStepped
  split
  · rfl
  · dsimp only
    split
    · split <;> rfl
    · rfl

theorem offsetSample_waiting (s : State) (offset : Int) : (offsetSample s offset).servo.waiting = s.servo.waiting := by
  unfold offsetSample
  dsimp only
  split
  · unfold goodSample
    (repeat' (first | split | dsimp only)) <;> rfl
  · split
    · unfold clockStep
      dsimp only
      rw [foldl_keep State.servo _ (markStepped_servo _)]
      rfl
    · unfold refuseSample
      dsimp only
      split <;> rfl

/-- Settles O7. That a frame which is not whole is dropped, and counted where its port is enabled, is R302 with the model's choice of
notes/assumptions/114.md. -/
theorem ptpMasterMovesServo : Obligations.PtpMasterMovesServo := by
  unfold Obligations.PtpMasterMovesServo
  refine ⟨fun s m hf hh hs hl h7 h1 => ?_, fun s x t2 m hf hh hs hl hw hm hq => ?_, fun s m hf hh hn hr hm hs => ?_, fun s m => ⟨?_, ?_⟩⟩
  · have hexec : exec (.ptpSync m) s = done s (syncArrives s m) := congrArg (done s) (onPtp_whole hf _)
    rw [hexec, syncArrives_selected hh hs hl h7 h1]
    refine ⟨fun h0 => ?_, fun h0 h2 => ?_, fun h0 h2 => ?_, fun ha h2 hn hg => ?_⟩
    · rw [if_pos h0]
      exact ⟨_, rfl, State.reg_setReg_same s Reg.timeState 0 1⟩
    · rw [if_neg h0, if_pos h2]
      exact ⟨_, rfl, rfl⟩
    · rw [if_neg h0, h2]
      exact done_leaves (syncSample_offset ..) fun _ _ h => h
    · rw [if_neg (by omega), h2]
      exact done_leaves (offsetSample_locks ha hg hn) fun _ _ h => h
  · have hexec : exec (.ptpFollowUp m) s = done s (followUpArrives s m) := congrArg (done s) (onPtp_whole hf _)
    rw [hexec, followUpArrives_waited hh hs hl hw hm hq]
    exact done_leaves ⟨offsetSample_waiting .., syncSample_offset ..⟩ fun _ _ h => h
  · have hexec : exec (.ptpAnnounce m) s = done s (announceArrives s m) := congrArg (done s) (onPtp_whole hf _)
    rw [hexec]
    exact done_leaves (announceArrives_first hh hn hr hm hs) fun _ _ h => h
  · intro hf hh
    have hexec : exec (.ptpSync m) s = done s (syncArrives s m) := congrArg (done s) (onPtp_whole hf _)
    rw [hexec, syncArrives_unheard hh]
    rfl
  · intro hf hm hp he
    exact congrArg (done s) (onPtp_dropped hf hm hp he _)

end Sys2Proof.Machine
end

section
/-! SUPPORT. Writes of objects that only store their value, and of those that an owning rule takes (R266, R267). -/

namespace Sys2Proof.Machine

/-- The objects whose write is a command or has a rule of its own. -/
def ruledRegs : List Reg :=
  [Reg.idCommand, Reg.actCommit, Reg.silReenable, Reg.laneInjectFire, Reg.xlaneInjectFire, Reg.forgeSound, Reg.imgShadowLoad,
    Reg.engResume, Reg.cacheHoldDirectMib, Reg.fltLogClear, Reg.bistStart, Reg.pwrDomainOn, Reg.hazClear]

theorem ownerWrite_stores {r : Reg} (h : r ∉ ruledRegs) (b : BootInputs) (n k v : Nat) (s : State) :
    ownerWrite b r n k v s = storeWrite' s r n k v := by
  simp only [ruledRegs, List.mem_cons, List.not_mem_nil, or_false, not_or] at h
  unfold ownerWrite
  simp only [h, ↓reduceIte]

theorem storeWrite'_stores {s : State} {r : Reg} {n k v : Nat} (h : storeRefusal s r n k v = 0) : storeWrite' s r n k v =
    (scOk, if actField r then actFieldWritten n (afterStore (s.setReg (r.at k) n v) r n (s.reg (r.at k) n) v)
      else afterStore (s.setReg (r.at k) n v) r n (s.reg (r.at k) n) v) := by
  unfold storeWrite'
  rw [h]
  rfl

theorem storeWrite'_refuses {s : State} {r : Reg} {n k v c : Nat} (h : storeRefusal s r n k v = c + 1) :
    storeWrite' s r n k v = (c + 1, s) := by
  unfold storeWrite'
  rw [h]
  rfl

section
variable {s t : State} {r : ObjRow} {index sub : Nat} {bs : List Byte} (hr : r ∈ objRows) (hh : r.holds index sub = true)
  (hu : unitPresent s index = true) (hm : s.mode ≠ .off) (hd : r.isDomain = false) (hw : writeState s r = scOk)
  (hl : bs.length = r.type.bytes) (hc : r.check.ok r (leNat bs) = true)
include hr hh hu hm hd hw hl hc

/-- A write of a number on a unit that is there, which passes every check: what the owning rule leaves stands (R266). -/
theorem hostWrite_accepted
    (ho : ownerWrite (standingInputs s) r.reg (r.unit index) (sub - r.reg.sub) (leNat bs) s = (scOk, t)) :
    hostWrite index sub bs s = t.emit (.status 0) :=
  hostWrites_accepted hm (findObject_of_mem hr hh hu) hd hw hl hc ho

end

end Sys2Proof.Machine
end

section
/-! SUPPORT. PTP's two delay mechanisms, and the loss of the master or of the link (R38 to R41, R45). -/

namespace Sys2Proof.Machine

/-- What a message that the engine hears says of the servo's objects (R38). -/
theorem ptpHears_port {s : State} {via : PtpVia} {domain : Nat} (h : ptpHears s via domain = true) : s.reg Reg.ptpPort = via.port := by
  simp only [ptpHears, Bool.and_eq_true, beq_iff_eq] at h
  obtain ⟨⟨-, hport⟩, -⟩ := h
  exact hport

/-! ### Delays (R38, R39) -/

theorem delayRespArrives_answered {s : State} {m : PtpDelayResp} {t1 t2 t3 : Int} (hh : ptpHears s m.via m.domain = true)
    (hs : s.servo.selected = some m.master) (hl : s.servo.lost = false) (hd : s.reg Reg.ptpDelay = 0)
    (hq : s.servo.request = some (m.seq, t3)) (hy : s.servo.lastSync = some (t1, t2)) :
    delayRespArrives s m = { s with servo := { s.servo with
      delay := (unitsDiff t2 t1 + unitsDiff (timeUnits m.rx - m.correction) t3) / 2, request := none } } := by
  unfold delayRespArrives
  simp [hq, hy, hh, fromSelected_of hs hl, hd]

theorem pdelayRespArrives_answered {s : State} {m : PtpPdelayResp} {t1 : Int} (hh : ptpHears s m.via m.domain = true)
    (hd : s.reg Reg.ptpDelay = 1) (hq : s.servo.request = some (m.seq, t1)) :
    pdelayRespArrives s m = { s with servo := { s.servo with
      delay := (unitsDiff (rxUnits s m.age) t1 - m.correction) / 2, request := none } } := by
  unfold pdelayRespArrives
  simp [hq, hh, hd]

/-- A Pdelay_Req under peer-to-peer is answered with its receive stamp, and with its turnaround in the correction (R39). -/
theorem pdelayReqArrives_answers {s : State} {m : PtpPdelayReq} (hh : ptpHears s m.via m.domain = true) (hd : s.reg Reg.ptpDelay = 1) :
    let rx := timeOfUnits (rxUnits s m.age)
    let c := m.correction + unitsDiff (timeUnits (txStamp s m.leave)) (timeUnits rx)
    pdelayReqArrives s m = sendPtp s 4 m.seq rx c (ptpFix s 8 (toCode 64 c)) := by
  unfold pdelayReqArrives
  simp [hh, hd]

theorem delayReqArrives_answers {s : State} {m : PtpDelayReq} (hi : isMaster s = true) (hh : ptpHears s m.via m.domain = true)
    (hd : s.reg Reg.ptpDelay = 0) :
    delayReqArrives s m = sendPtp s 3 m.seq (timeOfUnits (rxUnits s m.age)) m.correction (ptpFix s 0 0) := by
  unfold delayReqArrives
  simp [hi, hh, hd]

/-- A slave that has a master remembers each of its requests with the transmit stamp (R38). -/
theorem delayReqLeaves_remembers {s : State} (hr : ptpRuns s = true) (hs : s.servo.selected.isSome = true) (hl : s.servo.lost = false)
    (e : Nat) : (delayReqLeaves s e).servo =
      { s.servo with request := some (s.servo.reqSeq, timeUnits (txStamp s e)), reqSeq := (s.servo.reqSeq + 1) % 65536 } := by
  unfold delayReqLeaves
  simp [hr, hs, hl]

/-! ### Losses (R41, R45; Table 2.5) -/

section
variable {s : State} {reason : Nat}

theorem servoEvent_acquiring (h : s.reg Reg.timeState = 1) (h2 : reason ≠ 2) : (servoEvent s reason).reg Reg.timeState = 0 := by
  unfold servoEvent
  simp only [h, h2, ↓reduceIte]
  exact State.reg_setReg_same ..

/-- HOLDOVER is entered with its cause, and an EMCY says so (R45, R300). -/
theorem holdoverCause_enters (h : s.reg Reg.timeState ≠ 3) : (holdoverCause s reason).reg Reg.timeState = 3 ∧
    (holdoverCause s reason).reg Reg.timeHoldoverReason = reason ∧
    (holdoverCause s reason).faults.log.getLast? = some (logRecord s.beat.n 0xFF21 0xFF 0 0 0 0) := by
  unfold holdoverCause
  dsimp only
  rw [if_neg (by rwa [State.reg_setReg_other _ _ (by decide)])]
  refine ⟨?_, ?_, State.emcy_log ..⟩
  · exact (State.emcy_reg _ _ _ _ (by decide) (by decide) (by decide)).trans (State.reg_setReg_same ..)
  · exact (State.emcy_reg _ _ _ _ (by decide) (by decide) (by decide)).trans
      ((State.reg_setReg_other _ _ (by decide)).trans (State.reg_setReg_same ..))

theorem servoEvent_locked (h : s.reg Reg.timeState = 2) : (servoEvent s reason).reg Reg.timeState = 3 ∧
    (servoEvent s reason).reg Reg.timeHoldoverReason = reason ∧
    (servoEvent s reason).faults.log.getLast? = some (logRecord s.beat.n 0xFF21 0xFF 0 0 0 0) := by
  have he : servoEvent s reason = holdoverCause s reason := by
    unfold servoEvent
    simp only [h]
  rw [he]
  exact holdoverCause_enters (by rw [h]; decide)

end

/-- The announce receipt timeout of the selected master is a loss with cause MASTER_LOST (R41, R45). -/
theorem announceTimeout_loses {s : State} (hr : ptpRuns s = true) (hs : s.servo.selected.isSome = true) (hl : s.servo.lost = false) :
    ∃ v : Servo, announceTimeout s = servoEvent { s with servo := v } 1 := by
  refine ⟨{ s.servo with
    masters := s.servo.masters.filter fun x => some x.master != s.servo.selected, lost := true, waiting := none }, ?_⟩
  unfold announceTimeout
  rw [if_pos (by simp [hr, hs, hl])]

/-- The loss of the PTP port's link is a loss with cause LINK_DOWN (R41, R45). -/
theorem ptpLinkDown_loses {s : State} (hr : ptpRuns s = true) : ∃ v : Servo, ptpLinkDown s = servoEvent { s with servo := v } 4 := by
  refine ⟨{ s.servo with masters := [], lost := s.servo.selected.isSome, waiting := none }, ?_⟩
  unfold ptpLinkDown
  rw [if_pos hr]

/-! ### TIME_PTP_ENABLE (R41) -/

def ptpEnableRow : ObjRow := ⟨Reg.ptpEnable, 1, 1, .boolean, .rwHeld, .range 0 1⟩

theorem ptpEnable_off_owner (b : BootInputs) (s : State) :
    ownerWrite b Reg.ptpEnable 0 0 0 s = (scOk, servoOff (s.setReg Reg.ptpEnable 0 0)) := by
  rw [ownerWrite_stores (by decide), storeWrite'_stores (by rfl)]
  rfl

/-- A write of FALSE in HELD frees the servo; the increment of the clock stays (R41). -/
theorem timePtpEnable_frees {s : State} (hm : s.mode = .held) (ha : s.act.phase = 0) :
    exec (.timePtpEnable [0#8]) s = done s ((servoOff (s.setReg Reg.ptpEnable 0 0)).emit (.status 0)) := by
  have hw : writeState s ptpEnableRow = scOk := if_pos ⟨hm, ha⟩
  have hx : hostWrite 0x2202 1 [0#8] s = (servoOff (s.setReg Reg.ptpEnable 0 0)).emit (.status 0) :=
    hostWrite_accepted (r := ptpEnableRow) (by decide +kernel) (by decide) rfl (by simp [hm]) rfl hw rfl (by decide)
      (ptpEnable_off_owner _ s)
  have hexec : exec (.timePtpEnable [0#8]) s = done s (hostWrite 0x2202 1 [0#8] s) := rfl
  rw [hexec, hx]

/-- Settles O8. -/
theorem ptpDelaysAndLoss : Obligations.PtpDelaysAndLoss := by
  unfold Obligations.PtpDelaysAndLoss
  refine ⟨⟨?delayResp, ?pdelayResp, ?pdelayReq, ?mapping, ?delayReq, ?syncTx, ?delayReqTx, fun s => rfl⟩, ?timeout, ?link, ?disable⟩
  case delayResp =>
    intro s m t1 t2 t3 hf hh hs hl hd hq hy
    have hexec : exec (.ptpDelayResp m) s = done s (delayRespArrives s m) := congrArg (done s) (onPtp_whole hf _)
    rw [hexec, delayRespArrives_answered hh hs hl hd hq hy]
    exact ⟨_, rfl, rfl, rfl⟩
  case pdelayResp =>
    intro s m t1 hf hh hd hq
    have hexec : exec (.ptpPdelayResp m) s = done s (pdelayRespArrives s m) := congrArg (done s) (onPtp_whole hf _)
    rw [hexec, pdelayRespArrives_answered hh hd hq]
    exact ⟨_, rfl, rfl, rfl⟩
  case pdelayReq =>
    intro s m hf hh hd
    have hexec : exec (.ptpPdelayReq m) s = done s (pdelayReqArrives s m) := congrArg (done s) (onPtp_whole hf _)
    rw [hexec, pdelayReqArrives_answers hh hd, ← ptpHears_port hh]
    exact ⟨_, rfl, rfl⟩
  case mapping =>
    intro s n v h0
    unfold ptpFix
    rw [h0]
    rfl
  case delayReq =>
    intro s m hf hi hh hd
    have hexec : exec (.ptpDelayReq m) s = done s (delayReqArrives s m) := congrArg (done s) (onPtp_whole hf _)
    rw [hexec, delayReqArrives_answers hi hh hd, ← ptpHears_port hh]
    exact ⟨_, rfl, rfl⟩
  case syncTx =>
    intro s e hi
    have hexec : exec (.ptpSyncTx e) s = done s (syncLeaves s e) := rfl
    rw [hexec, syncLeaves, if_pos hi]
    exact ⟨_, rfl, ⟨_, rfl⟩, rfl⟩
  case delayReqTx =>
    intro s e hr hs hl
    have hexec : exec (.ptpDelayReqTx e) s = done s (delayReqLeaves s e) := rfl
    have hservo := delayReqLeaves_remembers hr hs hl e
    rw [hexec]
    exact done_leaves ⟨congrArg Servo.request hservo, congrArg Servo.reqSeq hservo⟩ fun _ _ h => h
  case timeout =>
    intro s hr hs hl
    have hexec : exec .announceReceiptTimeout s = done s (announceTimeout s) := rfl
    obtain ⟨v, hv⟩ := announceTimeout_loses hr hs hl
    rw [hexec, hv]
    exact ⟨fun h => done_leaves (servoEvent_acquiring h (by decide)) fun _ _ h => h,
      fun h => done_leaves (servoEvent_locked h) fun _ _ h => h⟩
  case link =>
    intro s hr
    have hexec : exec .ptpPortLinkDown s = done s (ptpLinkDown s) := rfl
    obtain ⟨v, hv⟩ := ptpLinkDown_loses hr
    rw [hexec, hv]
    exact ⟨fun h => done_leaves (servoEvent_acquiring h (by decide)) fun _ _ h => h,
      fun h => done_leaves (servoEvent_locked h) fun _ _ h => h⟩
  case disable =>
    intro s hm ha
    rw [timePtpEnable_frees hm ha]
    have he : (servoOff (s.setReg Reg.ptpEnable 0 0)).reg Reg.ptpEnable = 0 :=
      (State.reg_setReg_other _ _ (by decide)).trans (State.reg_setReg_same ..)
    exact ⟨_, rfl, he, State.reg_setReg_same (s.setReg Reg.ptpEnable 0 0) Reg.timeState 0 0, rfl⟩

end Sys2Proof.Machine
end

section
/-! SUPPORT. POWER_UP and the steps of BOOT: what they leave of the carrier, the rails and the engine's state (R342, R404). -/

namespace Sys2Proof.Machine

/-! ### Steps that write objects of the dictionary alone -/

/-- `t` is `s` with other registers and byte strings in the dictionary. -/
def ObjectsOnly (s t : State) : Prop := ∃ regs domains, t = { s with regs := regs, domains := domains }

namespace ObjectsOnly

theorem refl (s : State) : ObjectsOnly s s := ⟨s.regs, s.domains, rfl⟩

theorem trans {s t u : State} (h : ObjectsOnly s t) (k : ObjectsOnly t u) : ObjectsOnly s u := by
  obtain ⟨_, _, rfl⟩ := h
  obtain ⟨r, d, rfl⟩ := k
  exact ⟨r, d, rfl⟩

theorem setReg (s : State) (r : Reg) (n v : Nat) : ObjectsOnly s (s.setReg r n v) := ⟨_, s.domains, rfl⟩

theorem setDomain (s : State) (r : Reg) (n : Nat) (v : List Byte) : ObjectsOnly s (s.setDomain r n v) := ⟨s.regs, _, rfl⟩

theorem putReg (s : State) (r : Reg) (n v : Nat) : ObjectsOnly s (s.putReg r n v) := by
  unfold State.putReg
  split
  · exact refl s
  · exact setReg ..

theorem foldl {α : Type} {f : State → α → State} (h : ∀ s x, ObjectsOnly s (f s x)) (l : List α) (s : State) :
    ObjectsOnly s (l.foldl f s) :=
  foldl_holds (ObjectsOnly s) f (fun _ x k => k.trans (h _ x)) l s (refl s)

theorem identityObjects (s : State) : ObjectsOnly s (identityObjects s) := by
  unfold Machine.identityObjects
  exact (((((((((((setDomain ..).trans (setDomain ..)).trans (setDomain ..)).trans (setDomain ..)).trans (setDomain ..)).trans
    (putReg ..)).trans (putReg ..)).trans (putReg ..)).trans (putReg ..)).trans (setReg ..)).trans (setReg ..)).trans
    ((setReg ..).trans (setReg ..))

theorem nodeObjects (s : State) : ObjectsOnly s (nodeObjects s) := by
  unfold Machine.nodeObjects
  exact (setReg ..).trans (foldl (fun _ _ => (setReg ..).trans (setReg ..)) _ _)

variable {s t : State} (h : ObjectsOnly s t)
include h

theorem carrier : t.carrier = s.carrier := by
  obtain ⟨_, _, rfl⟩ := h
  rfl

theorem power : t.power = s.power := by
  obtain ⟨_, _, rfl⟩ := h
  rfl

end ObjectsOnly

/-! ### BOOT is entered (R267, R336) -/

theorem storedObjects_kept (s : State) (v : Nat) :
    (nodeObjects (canBoots (s.putReg Reg.bistAtBoot 0 v))).carrier = s.carrier ∧
    (nodeObjects (canBoots (s.putReg Reg.bistAtBoot 0 v))).power = s.power :=
  have hput := ObjectsOnly.putReg s Reg.bistAtBoot 0 v
  have hnode := ObjectsOnly.nodeObjects (canBoots (s.putReg Reg.bistAtBoot 0 v))
  ⟨hnode.carrier.trans hput.carrier, hnode.power.trans hput.power⟩

theorem bootDefaults_kept (s : State) : (bootDefaults s).carrier = s.carrier ∧ (bootDefaults s).power.aux = s.power.aux ∧
    (bootDefaults s).power.testEn = s.power.testEn := by
  unfold bootDefaults
  dsimp only
  rw [(storedObjects_kept _ _).1, (storedObjects_kept _ _).2]
  split <;> exact ⟨rfl, rfl, rfl⟩

/-- What stands in BOOT: the state and its reason, the carrier and the rails. -/
structure InBoot (t : State) (reason : Nat) (c : Carrier) (p : Power) : Prop where
  mode : t.mode = .boot
  reason : t.reg Reg.idStateReason = reason
  carrier : t.carrier = c
  aux : t.power.aux = p.aux
  testEn : t.power.testEn = p.testEn

theorem bootCleared_kept (s : State) : (clearArrays (identityObjects (bootDefaults s))).carrier = s.carrier ∧
    (clearArrays (identityObjects (bootDefaults s))).power.aux = s.power.aux ∧
    (clearArrays (identityObjects (bootDefaults s))).power.testEn = s.power.testEn := by
  have harrays : ∀ t : State, (clearArrays t).carrier = t.carrier ∧ (clearArrays t).power = t.power := fun _ => ⟨rfl, rfl⟩
  have hi := ObjectsOnly.identityObjects (bootDefaults s)
  rw [(harrays _).1, (harrays _).2, hi.carrier, hi.power]
  exact bootDefaults_kept s

/-- BOOT is entered with a reason, with the carrier and the rails as they are. -/
theorem enterBoot_inBoot (s : State) (reason : Nat) : InBoot (enterBoot s reason) reason s.carrier s.power := by
  obtain ⟨hc, ha, ht⟩ := bootCleared_kept s
  unfold enterBoot
  dsimp only
  generalize clearArrays (identityObjects (bootDefaults s)) = x at hc ha ht
  have hb := publishFirst_below ((x.setReg Reg.idState 0 1).setReg Reg.idStateReason 0 reason)
  refine ⟨?_, ?_, hb.carrier.trans hc, (congrArg Power.aux hb.power).trans ha, (congrArg Power.testEn hb.power).trans ht⟩
  · rw [hb.mode, State.mode_setReg _ _ (by decide), State.mode, State.reg_setReg_same]
    rfl
  · rw [hb.reg _ _ (by decide), State.reg_setReg_same]

/-! ### Steps 2 and 3 -/

theorem emcy_carrier (s : State) (e : Event) : (s.emcy e).carrier = s.carrier := by
  obtain ⟨_, _, _, h⟩ := s.emcy_eq e
  rw [h]

/-- Step 2 leaves the engine in BOOT, with its carrier. -/
theorem bootPower_kept (s : State) (failed : List Nat) :
    (bootPower s failed).mode = s.mode ∧ (bootPower s failed).carrier = s.carrier := by
  have hk : ∀ (r : Reg) (d : Nat), 0x4001 ≤ r.base → r.key d ≠ Reg.idState.key 0 := by
    intro r d h
    simp only [Reg.key, Reg.idState]
    omega
  unfold bootPower
  dsimp only
  refine ⟨?_, ?_⟩
  · refine (foldl_keep State.mode _ (fun _ _ => State.emcy_mode ..) _ _).trans (foldl_keep State.mode _ (fun t d => ?_) _ _)
    exact (State.mode_setReg _ _ (hk _ _ (by decide))).trans (State.mode_setReg _ _ (hk _ _ (by decide)))
  · exact (foldl_keep State.carrier _ (fun _ _ => emcy_carrier ..) _ _).trans (foldl_keep State.carrier _ (fun _ _ => by rfl) _ _)

/-- A step of BOOT that fails: FAULTED with BOOT_FAULT, and the record of the cause is the newest (R342, R382, R383). -/
theorem bootFails_faulted {s : State} (h : s.mode = .boot) (code step : Nat) : (bootFails s code step).mode = .faulted ∧
    (bootFails s code step).reg Reg.idStateReason = 10 ∧
    (bootFails s code step).faults.log.getLast? = some (logRecord (bootFails s code step).beat.n code 0xFF 0 0 0 step) := by
  have hoff : s.mode ≠ .off := by rw [h]; decide
  have hf : s.mode ≠ .faulted := by rw [h]; decide
  unfold bootFails
  rw [startPublications_mode, startPublications_reg _ _ _ (by decide), startPublications_faults, startPublications_beat,
    machineCheck_reason _ _ hoff hf, if_pos h]
  exact ⟨machineCheck_mode _ _ hoff, rfl, machineCheck_log _ _ hoff⟩

/-- Without lock of the hearth BOOT waits, with REFCLK as it was found (R27). -/
theorem bootFromHearth_waits (s : State) {b : BootInputs} (hr : b.refclk = true) (hl : b.hearthLocks = false) :
    bootFromHearth s b = { s with clocks := { s.clocks with refclk := true, hearth := false } } := by
  unfold bootFromHearth
  simp [hr, hl]

/-- An engine whose REFCLK is absent. -/
def withoutRefclk (s : State) : State := { s with clocks := { s.clocks with refclk := false, hearth := false } }

/-- Without REFCLK step 3 fails (R27). -/
theorem bootFromHearth_noRefclk (s : State) {b : BootInputs} (hr : b.refclk = false) :
    bootFromHearth s b = bootFails (withoutRefclk s) 0xFF10 3 := by
  unfold bootFromHearth withoutRefclk
  simp [hr]

theorem bootFromHearth_waits_inBoot {s : State} (h : s.mode = .boot) {b : BootInputs} (hr : b.refclk = true)
    (hl : b.hearthLocks = false) : (bootFromHearth s b).mode = .boot ∧ (bootFromHearth s b).clocks.refclk = true ∧
      (bootFromHearth s b).clocks.hearth = false ∧ (bootFromHearth s b).carrier = s.carrier := by
  rw [bootFromHearth_waits s hr hl]
  exact ⟨h, rfl, rfl, rfl⟩

theorem bootFromHearth_noRefclk_faulted {s : State} (h : s.mode = .boot) {b : BootInputs} (hr : b.refclk = false) :
    (bootFromHearth s b).mode = .faulted ∧
    (bootFromHearth s b).faults.log.getLast? = some (logRecord (bootFromHearth s b).beat.n 0xFF10 0xFF 0 0 0 3) := by
  rw [bootFromHearth_noRefclk s hr]
  have hm : (withoutRefclk s).mode = .boot := h
  obtain ⟨hm, -, hlog⟩ := bootFails_faulted hm 0xFF10 3
  exact ⟨hm, hlog⟩

/-! ### POWER_UP (R342, R404, R409) -/

/-- The carrier's values as Virrin has read them: the floor of the patches never falls. -/
def readCarrier (s : State) (b : BootInputs) : Carrier :=
  { b.carrier with patchFloor := max s.carrier.patchFloor b.carrier.patchFloor }

/-- The rails as POWER_UP finds them. -/
def foundRails (b : BootInputs) : Power := { Power.off with aux := true, mainOn := b.mainPresent, testEn := b.testEn }

/-- An OFF engine after step 1 of BOOT. -/
def poweredUp (s : State) (b : BootInputs) : State := enterBoot { s with carrier := readCarrier s b, power := foundRails b } 1

theorem poweredUp_inBoot (s : State) (b : BootInputs) : InBoot (poweredUp s b) 1 (readCarrier s b) (foundRails b) :=
  enterBoot_inBoot { s with carrier := readCarrier s b, power := foundRails b } 1

theorem powersUp_eq {s : State} (h : s.mode = .off) (b : BootInputs) : powersUp s b =
    if b.testEn then poweredUp s b
    else if !b.mainPresent then bootFails (poweredUp s b) 0xFF11 2
    else bootFromHearth (bootPower (poweredUp s b) b.failedDomains) b := by
  unfold powersUp
  rw [if_neg (not_not_intro h)]
  rfl

/-- What an engine in BOOT loses with a machine check of its clocks: REFCLK or the hearth. -/
theorem clockFails_faulted {s : State} (h : s.mode ≠ .off) :
    (machineCheck s { code := 0xFF10 }).mode = .faulted ∧
    (s.mode = .running → (machineCheck s { code := 0xFF10 }).reg Reg.idStateReason = 9) ∧
    (machineCheck s { code := 0xFF10 }).faults.log.getLast? =
      some (logRecord (machineCheck s { code := 0xFF10 }).beat.n 0xFF10 0xFF 0 0 0 0) ∧
    (s.links.emcys.length < 32 → ((machineCheck s { code := 0xFF10 }).links.emcys.getLast?.map Emcy.code) = some 0xFF10) := by
  refine ⟨machineCheck_mode _ _ h, fun hr => ?_, machineCheck_log _ _ h, machineCheck_emcy _ _ h⟩
  rw [machineCheck_reason _ _ h (by rw [hr]; decide), hr]
  rfl

/-- Settles O5. That a BOOT which fails sends EMCY 0xFF10 for its clocks is the model's choice (notes/assumptions/39.md), and so is
that POWER_UP runs BOOT as one command and waits in it without lock (notes/assumptions/75.md). -/
theorem powerAndClocksEnterBootOrFaulted : Obligations.PowerAndClocksEnterBootOrFaulted := by
  unfold Obligations.PowerAndClocksEnterBootOrFaulted
  refine ⟨fun s b hoff => ?_, fun s => ⟨fun hb ht hh => ?_, fun hoff hh => ?_, fun hoff hr => ?_⟩⟩
  · have hexec : exec (.powerUp b) s = done s (powersUp s b) := rfl
    have hup := poweredUp_inBoot s b
    obtain ⟨hmode, hcarrier⟩ := bootPower_kept (poweredUp s b) b.failedDomains
    have hnode : (bootPower (poweredUp s b) b.failedDomains).carrier.nodeId = b.carrier.nodeId := by
      rw [hcarrier, hup.carrier]
      rfl
    rw [hexec, powersUp_eq hoff]
    generalize bootPower (poweredUp s b) b.failedDomains = x at hmode hnode
    replace hmode := hmode.trans hup.mode
    refine ⟨fun ht => ?_, fun ht hm hr hl => ?_, fun ht hm hr => ?_⟩
    · rw [if_pos ht]
      exact done_leaves ⟨hup.mode, hup.reason, hup.aux, hup.testEn.trans ht, by rw [hup.carrier]; rfl, by rw [hup.carrier]; rfl⟩
        fun _ _ h => h
    · rw [ht, hm]
      obtain ⟨h1, h2, h3, h4⟩ := bootFromHearth_waits_inBoot hmode hr hl
      exact done_leaves ⟨h1, h2, h3, (congrArg Carrier.nodeId h4).trans hnode⟩ fun _ _ h => h
    · rw [ht, hm]
      exact done_leaves (bootFromHearth_noRefclk_faulted hmode hr) fun _ _ h => h
  · have hexec : exec .hearthLockTimeout s = done s (bootFails s 0xFF10 3) :=
      congrArg (done s) (if_pos ⟨hb, by simp [ht], by simp [hh]⟩)
    rw [hexec]
    exact done_leaves (bootFails_faulted hb 0xFF10 3) fun _ _ h => h
  · have hm : ({ s with clocks := { s.clocks with hearth := false } }.setReg Reg.hearthState 0 0).mode = s.mode :=
      State.mode_setReg _ _ (by decide)
    have hexec : exec .hearthUnlock s =
        done s (machineCheck ({ s with clocks := { s.clocks with hearth := false } }.setReg Reg.hearthState 0 0) { code := 0xFF10 }) :=
      congrArg (done s) (if_neg (by simp [hoff, hh]))
    obtain ⟨hf, hreason, hlog, hemcy⟩ := clockFails_faulted (hm ▸ hoff)
    rw [hm] at hreason
    rw [hexec]
    exact done_leaves ⟨hf, congrArg Clocks.hearth (machineCheck_clocks _ _), hreason, hlog, hemcy⟩ fun _ _ h => h
  · have hexec : exec .refclkAbsent s = done s (machineCheck { s with clocks := { s.clocks with refclk := false } } { code := 0xFF10 }) :=
      congrArg (done s) (if_neg (by simp [hoff, hr]))
    obtain ⟨hf, hreason, hlog, hemcy⟩ := clockFails_faulted (s := { s with clocks := { s.clocks with refclk := false } }) hoff
    rw [hexec]
    exact done_leaves ⟨hf, congrArg Clocks.refclk (machineCheck_clocks _ _), hreason, hlog, hemcy⟩ fun _ _ h => h

end Sys2Proof.Machine
end

section
/-! SUPPORT. RESET, and the object in which the result of an aborted BIST is shown (R341, R386). -/

namespace Sys2Proof.Machine

def idCommandRow : ObjRow := ⟨Reg.idCommand, 1, 1, .unsigned 1, .wo, .range 1 6⟩

/-- RESET is accepted where tokens may flow, in HELD and in FAULTED (Table 15.3). -/
theorem exec_reset_accepted {s : State} (h : s.mode.online = true) (b : BootInputs) :
    exec (.reset b) s = done s ((resets s b).emit (.status 0)) := by
  have hf : findObject s 0x2001 0x02 = .object idCommandRow := findObject_of_mem (by decide +kernel) (by decide) rfl
  have hw : writeState s idCommandRow = scOk := if_pos (.inl h)
  have ho : ownerWrite b idCommandRow.reg (idCommandRow.unit 0x2001) (0x02 - idCommandRow.reg.sub) (leNat [6#8]) s = (scOk, resets s b) := by
    have hc : resetCommand b s = (scOk, resets s b) := if_pos (by simp [h])
    exact ((if_pos rfl).trans (if_pos (by decide))).trans hc
  have hexec : exec (.reset b) s = done s (hostWrites b 0x2001 0x02 [6#8] s) := rfl
  rw [hexec, hostWrites_accepted (Mode.ne_off_of_online h) hf rfl hw rfl (by decide) ho]

/-- What goes back to the host leaves the registers. -/
theorem reg_of_done_emit {s x t : State} {o : Out} (h : done s (x.emit o) = .next t) (r : Reg) (n : Nat) : t.reg r n = x.reg r n :=
  (done_keeps (x := x.emit o) (fun u => u.reg r n) (fun _ _ => rfl) h).trans rfl

/-- A BIST that ran shows ABORTED once BOOT waits for the hearth (R386). -/
theorem resets_bistAborted {s : State} {u k : Nat} {b : BootInputs} (ht : s.faults.bist = some (u, k)) (hr : b.refclk = true)
    (hl : b.hearthLocks = false) : (resets s b).reg Reg.bistResult u = 6 := by
  unfold resets
  dsimp only
  rw [ht, bootFromHearth_waits _ hr hl]
  exact State.reg_setReg_same _ Reg.bistResult u 6

/-- The result object of a unit 512, which the wafer does not have, stands where PWR_DOMAIN_ON of domain 0 stands. -/
theorem reg_bistResult_512 (s : State) : s.reg Reg.bistResult 512 = s.reg Reg.pwrDomainOn 0 := rfl

/-- A state in HELD that holds a BIST of unit 512. -/
def bistBeyond : State :=
  { State.reset with regs := [(Reg.idState.key 0, 2)], faults := { Faults.none with bist := some (512, 3) } }

/-- What BOOT meets where REFCLK is present and the hearth does not lock. -/
def unlockedInputs : BootInputs :=
  { carrier := Carrier.blank, testEn := false, mainPresent := true, refclk := true, hearthLocks := false, failedDomains := [],
    failedStacks := [], failedBist := [] }

/-- Refutes O57, by its clause on PWR_DOMAIN_ON. The statement takes every state, also one that holds a BIST of a unit beyond the 80 of
Table 17.7; RESET then shows ABORTED at 0x3E01 + 512, which is the object of power domain 0. No command starts such a BIST (R384), so
no run from reset comes to such a state. -/
theorem not_drainsEndAndResetsBoot : ¬ Obligations.DrainsEndAndResetsBoot := by
  unfold Obligations.DrainsEndAndResetsBoot
  intro h
  have honline : bistBeyond.mode.online = true := by decide +kernel
  obtain ⟨-, -, hreset, -⟩ := h bistBeyond
  obtain ⟨t, ht, -, -, -, -, -, -, -, -, -, -, -, -, hdomains⟩ := hreset unlockedInputs (.inl honline) (.inr rfl)
  rw [exec_reset_accepted honline] at ht
  obtain ⟨hstate, hon⟩ := hdomains 0 (by decide)
  have hsix : t.reg Reg.pwrDomainOn 0 = 6 := by
    have haborted := resets_bistAborted (s := bistBeyond) (b := unlockedInputs) rfl rfl rfl
    exact (reg_of_done_emit ht Reg.pwrDomainOn 0).trans ((reg_bistResult_512 _).symm.trans haborted)
  have hoff : bistBeyond.domainState 0 = 0 := by decide
  rw [hsix, hoff] at hon
  revert hon
  decide

end Sys2Proof.Machine
end

section
/-! SUPPORT. The beat number through a boundary: only `countBeat` moves it (R29). -/

namespace Sys2Proof.Machine

theorem foldl_beat {α : Type} (f : State → α → State) (h : ∀ s x, (f s x).beat = s.beat) (l : List α) (s : State) :
    (l.foldl f s).beat = s.beat := foldl_keep State.beat f h l s

theorem foldl_beatN {α : Type} (f : State → α → State) (h : ∀ s x, (f s x).beat.n = s.beat.n) (l : List α) (s : State) :
    (l.foldl f s).beat.n = s.beat.n := foldl_keep (fun s => s.beat.n) f h l s

theorem ite_beat (c : Prop) [Decidable c] (s t : State) : (if c then s else t).beat = if c then s.beat else t.beat := by
  split <;> rfl

/-! ### The operations on the state -/

@[simp] theorem State.setPlaneState_beat (s : State) (f : Nat) (q : Bool) (v : Nat) : (s.setPlaneState f q v).beat = s.beat := rfl
@[simp] theorem State.modLane_beat (s : State) (l : Nat) (g : Lane → Lane) : (s.modLane l g).beat = s.beat := rfl
@[simp] theorem State.setTemper_beat (s : State) (h u : Nat) (t : Temper) : (s.setTemper h u t).beat = s.beat := rfl
@[simp] theorem stopTokens_beat (s : State) : (stopTokens s).beat = s.beat := rfl
@[simp] theorem dropLoads_beat (s : State) : (dropLoads s).beat = s.beat := rfl
@[simp] theorem State.runTo_beat (s : State) (c : Nat) : (s.runTo c).beat = s.beat := (ForgesKept.runTo s c).beat
@[simp] theorem transmit_beat (s : State) (x : Nat) (bs : List Coded) : (transmit s x bs).beat = s.beat :=
  (ForgesKept.transmit s x bs).beat
@[simp] theorem tagFerries_beat (s : State) (ps : List FerryPlan) (fail result : Bool) : (tagFerries s ps fail result).beat = s.beat :=
  (ForgesKept.tagFerries s ps fail result).beat

@[simp] theorem State.sendCan_beat (s : State) (i : Nat) (bs : List Byte) : (s.sendCan i bs).beat = s.beat := by
  unfold State.sendCan
  split <;> rfl

@[simp] theorem State.sendHeartbeat_beat (s : State) : s.sendHeartbeat.beat = s.beat := by
  unfold State.sendHeartbeat
  split
  · rfl
  · split
    · rfl
    · exact State.sendCan_beat ..

@[simp] theorem State.enter_beat (s : State) (m : Mode) (k : Nat) : (s.enter m k).beat = s.beat := by
  unfold State.enter State.sendBootUp
  dsimp only
  split
  · rfl
  · split
    · simp
    · split <;> simp

@[simp] theorem leaveRunning_beat (s : State) : (leaveRunning s).beat = s.beat :=
  foldl_beat (fun s (e : Nat × Lane) => s.setReg Reg.laneState e.1 5) (fun _ _ => rfl) _ _

/-! ### Entry to HELD -/

theorem holdAccess_kept (s : State) (h line : Nat) (write : Bool) : ForgesKept s (holdAccess s h line write) := by
  unfold holdAccess
  split
  · exact (ForgesKept.holdTouch ..).trans (ForgesKept.count _ _ _ _ _ (by decide))
  · exact (ForgesKept.count _ _ _ _ _ (by decide)).trans (ForgesKept.holdInstall ..)

@[simp] theorem writeLine_beat (s : State) (a : Nat) (d : BitVec 512) (p : Bool) : (writeLine s a d p).beat = s.beat := by
  unfold writeLine
  simp [ite_beat, (holdAccess_kept _ _ _ _).beat]

@[simp] theorem quietTempers_beat (s : State) (h : Nat) : (quietTempers s h).beat = s.beat := by
  unfold quietTempers flushTemper invalidateTemper
  simp [foldl_beat, ite_beat]

@[simp] theorem huntLanes_beat (s : State) : (huntLanes s).beat = s.beat :=
  foldl_beat (fun s (e : Nat × Lane) => s.setLaneSt e.1 lsMarkerHunt) (fun _ _ => rfl) _ _

@[simp] theorem clearFromImage_beat (s : State) : (clearFromImage s).beat = s.beat :=
  foldl_beat (fun s (x : Reg × Nat) => s.dropReg x.1 x.2) (fun _ _ => rfl) _ _

@[simp] theorem staleAll_beat (s : State) : (staleAll s).beat = s.beat := by
  unfold staleAll
  simp [foldl_beat, ite_beat]

@[simp] theorem quietAll_beatN (s : State) : (quietAll s).beat.n = s.beat.n := by
  unfold quietAll
  simp [foldl_beat]

@[simp] theorem silHunt_beat (s : State) : (silHunt s).beat = s.beat := rfl

@[simp] theorem enterHeld_beatN (s : State) (reason : Nat) : (enterHeld s reason).beat.n = s.beat.n := by
  unfold enterHeld
  simp [ite_beat]

/-! ### Stamps, actions and runs -/

@[simp] theorem takeStamps_beat (s : State) : (takeStamps s).beat = s.beat := by
  unfold takeStamps
  split
  · rfl
  · refine foldl_beat _ (fun _ _ => ?_) _ _
    rfl

@[simp] theorem slippedWait_beat (s : State) : (slippedWait s).beat = s.beat :=
  foldl_beat (fun s (e : Nat × Lane) => s.setLaneSt e.1 lsWaitHost) (fun _ _ => rfl) _ _

@[simp] theorem injectionOff_beat (s : State) : (injectionOff s).beat = s.beat := rfl

@[simp] theorem startRun_beat (s : State) (b : Beat) (reason : Nat) : (startRun s b reason).beat = s.beat := by
  unfold startRun
  simp [ite_beat]

@[simp] theorem stopRun_beat (s : State) (b : Beat) (reason : Nat) : (stopRun s b reason).beat = s.beat := by
  unfold stopRun
  simp

@[simp] theorem armLane_beat (s : State) (l : Nat) (b : Beat) : (armLane s l b).beat = s.beat := by
  unfold armLane
  split <;> simp

@[simp] theorem setFromImage_beat (s : State) (f : Nat) (q : Bool) : (setFromImage s f q).beat = s.beat := by
  unfold setFromImage
  split
  · rfl
  · refine (foldl_beat _ (fun _ _ => ?_) _ _).trans ?_ <;> simp

@[simp] theorem goLive_beat (s : State) (b : Beat) (q : Bool) (f : Nat) : (goLive s b q f).beat = s.beat := by
  unfold goLive
  simp

@[simp] theorem goRetiring_beat (s : State) (b : Beat) (q : Bool) (f : Nat) : (goRetiring s b q f).beat = s.beat := rfl

@[simp] theorem swapPlanes_beat (s : State) (arg : Nat) (b : Beat) : (swapPlanes s arg b).beat = s.beat := by
  unfold swapPlanes
  simp [foldl_beat]

/-- A BEAT_PERIOD that executes changes the period alone of the count. -/
@[simp] theorem actEffect_beatN (s : State) (kind arg : Nat) (b : Beat) : (actEffect s kind arg b).beat.n = s.beat.n := by
  unfold actEffect
  split <;> simp

@[simp] theorem actEnds_beat (s : State) (k status reason : Nat) : (actEnds s k status reason).beat = s.beat := rfl

@[simp] theorem collisionCheck_beat (s : State) (arg p : Nat) : (collisionCheck s arg p).1.beat = s.beat := by
  unfold collisionCheck
  split <;> rfl

@[simp] theorem executeAction_beatN (s : State) (k : Nat) (held : Bool) : (executeAction s k held).beat.n = s.beat.n := by
  unfold executeAction
  simp [ite_beat, apply_ite BeatCount.n]

@[simp] theorem actionAt_beatN (s : State) (k : Nat) : (actionAt s k).beat.n = s.beat.n := by
  unfold actionAt
  split
  · rfl
  · split <;> simp [ite_beat, apply_ite BeatCount.n]

@[simp] theorem actionsDue_beatN (s : State) : (actionsDue s).beat.n = s.beat.n := by
  unfold actionsDue
  simp [foldl_beatN]

@[simp] theorem runCommands_beat (s : State) : (runCommands s).beat = s.beat := by
  unfold runCommands
  dsimp only
  split <;> split <;> simp [ite_beat]

@[simp] theorem oweVerdicts_beat (s : State) : (oweVerdicts s).beat = s.beat := by
  unfold oweVerdicts
  split
  · exact foldl_beat _ (fun _ _ => State.setQuench_beat ..) _ _
  · rfl

/-! ### Soundings -/

@[simp] theorem soundOutcome_beat (pass : Bool) (s : State) (r : PlaneId × Nat) : (soundOutcome pass s r).beat = s.beat := by
  unfold soundOutcome
  simp [ite_beat]

@[simp] theorem endActivation_beatN (s : State) (reason imgReason : Nat) : (endActivation s reason imgReason).beat.n = s.beat.n := by
  unfold endActivation
  simp [foldl_beat, ite_beat]

@[simp] theorem concludeSounding_beatN (s : State) (all : List (PlaneId × Nat)) : (concludeSounding s all).beat.n = s.beat.n := by
  unfold concludeSounding
  simp [foldl_beat, ite_beat, apply_ite BeatCount.n]

@[simp] theorem judgePeers_beatN (s : State) : (judgePeers s).beat.n = s.beat.n := by
  unfold judgePeers
  dsimp only
  split
  · rfl
  · split <;> simp

@[simp] theorem placePlan_beat (s : State) (f : Nat) (q : Bool) (p : ForgingPlan) : (placePlan s f q p).beat = s.beat := by
  unfold placePlan
  dsimp only
  refine (foldl_beat (selectPorts q) (fun _ _ => rfl) _ _).trans ?_
  refine foldl_beat _ (fun _ _ => ?_) _ _
  rfl

@[simp] theorem latchTables_beat (s : State) (f : Nat) (q : Bool) (p : ForgingPlan) : (latchTables s f q p).beat = s.beat := rfl

@[simp] theorem startSounding_beat (s : State) (x : PlaneId) : (startSounding s x).beat = s.beat := by
  unfold startSounding
  dsimp only
  split <;> simp [ite_beat]

@[simp] theorem soundBoundary_beat (s : State) : (soundBoundary s).beat = s.beat := by
  unfold soundBoundary
  simp [foldl_beat, ite_beat]

@[simp] theorem soundTokens_beat (s : State) : (soundTokens s).beat = s.beat := by
  unfold soundTokens
  split <;> simp [ite_beat]

@[simp] theorem soundFerries_beat (s : State) : (soundFerries s).beat = s.beat := by
  unfold soundFerries relayFailures
  simp

@[simp] theorem retirePlanes_beat (s : State) : (retirePlanes s).beat = s.beat := by
  unfold retirePlanes
  simp [foldl_beat, ite_beat]

@[simp] theorem pruneOffers_beat (s : State) : (pruneOffers s).beat = s.beat := rfl

/-! ### Readout, late accept and digests -/

@[simp] theorem moveShare_beat (s : State) (f h : Nat) (n : Beat) (c : Nat) (late : Bool) : (moveShare s f h n c late).beat = s.beat := rfl

@[simp] theorem deliverBeat_beat (f h : Nat) (s : State) (n : Beat) : (deliverBeat f h s n).beat = s.beat := by
  unfold deliverBeat
  split <;> simp [ite_beat]

@[simp] theorem deliverAccepted_beat (s : State) : (deliverAccepted s).beat = s.beat :=
  foldl_beat _ (fun _ _ => foldl_beat _ (fun _ _ => foldl_beat _ (fun _ _ => deliverBeat_beat ..) _ _) _ _) _ _

@[simp] theorem sendBundle_beat (s : State) (h : Nat) (blocks : List TxBlock) : (sendBundle s h blocks).beat = s.beat := by
  unfold sendBundle
  simp [foldl_beat]

@[simp] theorem txSlot_beat (s : State) (h : Nat) : (txSlot s h).beat = s.beat := by
  unfold txSlot
  split <;> simp

@[simp] theorem txSlots_beat (s : State) : (txSlots s).beat = s.beat := by
  unfold txSlots
  simp [foldl_beat, ite_beat]

@[simp] theorem drainLedgers_beat (s : State) : (drainLedgers s).beat = s.beat := rfl
@[simp] theorem releasePins_beat (s : State) : (releasePins s).beat = s.beat := rfl

@[simp] theorem grantPin_beat (f : Nat) (n : Beat) (c : Nat) (s : State) (h : Nat) : (grantPin f n c s h).beat = s.beat := by
  unfold grantPin
  split <;> simp [ite_beat]

@[simp] theorem putRecord_beat (s : State) (f home : Nat) (n : Beat) (second : Bool) (r : BitVec 128) :
    (putRecord s f home n second r).beat = s.beat := by
  unfold putRecord
  simp [ite_beat]

@[simp] theorem tryLate_beat (s : State) (x : Nat × Refused) : (tryLate s x).beat = s.beat := by
  unfold tryLate
  dsimp only
  split
  · rfl
  · split
    · simp only [putRecord_beat, State.count_beat, State.setQuench_beat]
      refine foldl_beat _ (fun _ _ => ?_) _ _
      rfl
    · rfl

@[simp] theorem grantLate_beat (taken : List (Nat × Refused)) (s : State) : (grantLate taken s).beat = s.beat := by
  unfold grantLate
  simp [foldl_beat]

@[simp] theorem dropLate_beat (s : State) (x : Nat × Refused) : (dropLate s x).beat = s.beat := by
  unfold dropLate
  dsimp only
  split
  · refine foldl_beat _ (fun _ _ => ?_) _ _
    rfl
  · rfl

@[simp] theorem lateAccept_beat (s : State) : (lateAccept s).beat = s.beat := by
  unfold lateAccept
  simp [foldl_beat]

@[simp] theorem diverge_beat (s : State) (n : Beat) : (diverge s n).beat = s.beat := by
  unfold diverge
  simp [ite_beat]

@[simp] theorem compareBeat_beat (s : State) (n : Beat) : (compareBeat s n).beat = s.beat := by
  unfold compareBeat
  split
  · rfl
  · split <;> simp [ite_beat]

@[simp] theorem digestSend_beat (s : State) : (digestSend s).beat = s.beat := by
  unfold digestSend
  simp [ite_beat]

@[simp] theorem digestTimeout_beat (s : State) : (digestTimeout s).beat = s.beat := by
  unfold digestTimeout logCompare
  simp [ite_beat]

/-! ### The boundary -/

@[simp] theorem liveBoundary_beatN (s : State) : (liveBoundary s).beat.n = s.beat.n := by
  unfold liveBoundary
  simp [apply_ite State.beat, apply_ite BeatCount.n]

theorem countBeat_beatN (s : State) : (countBeat s).beat.n = s.beat.n + 1#48 := by
  unfold countBeat
  simp

theorem countBeat_at (s : State) : (countBeat s).beat.at' = s.beat.at' + s.beat.period := rfl

theorem countBeat_cycle (s : State) : (countBeat s).clocks.cycle = max s.clocks.cycle (s.beat.at' + s.beat.period) :=
  State.runTo_cycle ..

end Sys2Proof.Machine
end

section
/-! SUPPORT. The action slots: commit, cancel, field writes and an action due in HELD (R46, R48, R50, R52, R412). -/

namespace Sys2Proof.Machine

/-! ### The objects of a slot -/

theorem slotKey_ne {r r' : Reg} (hb : r.base = r'.base) (hs : r.sub ≠ r'.sub) (k : Nat) : r.key k ≠ r'.key k := by
  simp only [Reg.key]
  omega

theorem slotKey_ge {r : Reg} (hb : r.base = 0x2210) (k : Nat) : 0x221000 ≤ r.key k := by
  simp only [Reg.key]
  omega

section
variable {r : Reg} (hb : r.base = 0x2210)
include hb

theorem reg_setReg_slot (s : State) {r' : Reg} (v : Nat) (hb' : r'.base = 0x2210) (hs : r'.sub ≠ r.sub) (k : Nat) :
    (s.setReg r' k v).reg r k = s.reg r k :=
  State.reg_setReg_other _ _ (slotKey_ne (hb'.trans hb.symm) hs k)

theorem mode_setReg_slot (s : State) (k v : Nat) : (s.setReg r k v).mode = s.mode :=
  State.mode_setReg _ _ (ne_of_gt (lt_of_lt_of_le (by decide) (slotKey_ge hb k)))

theorem actEnds_reg (s : State) (k status reason : Nat) (hs : Reg.actStatus.sub ≠ r.sub) (hr : Reg.actReason.sub ≠ r.sub) :
    (actEnds s k status reason).reg r k = s.reg r k := by
  unfold actEnds
  rw [reg_setReg_slot hb _ _ rfl hr, reg_setReg_slot hb _ _ rfl hs]

end

@[simp] theorem actEnds_status (s : State) (k status reason : Nat) : (actEnds s k status reason).reg Reg.actStatus k = status :=
  (reg_setReg_slot rfl _ _ rfl (by decide) k).trans (State.reg_setReg_same ..)

@[simp] theorem actEnds_reason (s : State) (k status reason : Nat) : (actEnds s k status reason).reg Reg.actReason k = reason :=
  State.reg_setReg_same ..

@[simp] theorem State.actExtra_setActExtra (s : State) (k : Nat) (x : ActionExtra) : (s.setActExtra k x).actExtra k = x :=
  tabGet_tabSet_same ..

/-- An action that ASAP has moved is named by the beat it was moved to (R48). -/
theorem actBeatOf_moved {s : State} {k : Nat} {b : Beat} (h : (s.actExtra k).asapBeat = some b) : actBeatOf s k = some b := by
  unfold actBeatOf
  rw [h]

/-- A beat-named action is named by its own beat. -/
theorem actBeatOf_own {s : State} {k : Nat} (h : (s.actExtra k).asapBeat = none) (hm : bit (s.reg Reg.actMode k) 0 = true) :
    actBeatOf s k = some (BitVec.ofNat 48 (s.reg Reg.actBeat k)) := by
  unfold actBeatOf
  rw [h]
  exact if_pos hm

/-! ### Commit (R48) -/

/-- The state whose slot a commit judges: nothing is kept of the action that the slot held before. -/
def slotTaken (s : State) (k : Nat) : State :=
  (s.setActExtra k { asapBeat := none, stepped := false, inHeld := s.mode == .held, expected := 0#48 }).setReg Reg.actNote k 0

theorem slotTaken_reg {r : Reg} (hb : r.base = 0x2210) (hs : Reg.actNote.sub ≠ r.sub) (s : State) (k : Nat) :
    (slotTaken s k).reg r k = s.reg r k := reg_setReg_slot hb _ _ rfl hs k

@[simp] theorem slotTaken_mode (s : State) (k : Nat) : (slotTaken s k).mode = s.mode := mode_setReg_slot rfl _ _ _

/-- The state with a slot PENDING for the boundary at which its action is expected. -/
def slotPending (s : State) (k : Nat) : State :=
  actEnds (s.setActExtra k { s.actExtra k with expected := actBoundary s k }) k 1 0

/-- The state whose slot ASAP has moved to the next beat. -/
def slotMoved (s : State) (k : Nat) : State :=
  s.setActExtra k { s.actExtra k with asapBeat := some (s.beat.n + 1#48) }

/-- R104 holds back no other kind than PLANE_SWAP and BEAT_PERIOD. -/
theorem swapCheck_passes {s : State} {k : Nat} (h1 : s.reg Reg.actKind k ≠ 1) (h6 : s.reg Reg.actKind k ≠ 6) : swapCheck s k = (s, true) := by
  unfold swapCheck
  dsimp only
  split
  · exact absurd ‹_› h1
  · exact absurd ‹_› h6
  · rfl

section
variable {s : State} {k : Nat} (h2 : 2 ≤ s.reg Reg.actKind k) (h5 : s.reg Reg.actKind k ≤ 5)
  (ha : s.reg Reg.actArg k &&& argMask (s.reg Reg.actKind k) = s.reg Reg.actArg k)
include h2 h5 ha

/-- A commit of WINDOW_CHANGE, LANE_REALIGN, RUN_START or RUN_STOP fails for nothing but its time (R48). -/
theorem commitAction_eq : commitAction s k =
    let c := slotTaken s k
    if actPast c k && c.mode == .held then actEnds c k 3 7
    else if actPast c k && !actAsap c k then actEnds c k 3 0
    else slotPending (if actPast c k then slotMoved c k else c) k := by
  have hkind : ∀ t : State, t.regs = (slotTaken s k).regs → t.reg Reg.actKind k = s.reg Reg.actKind k := fun t h =>
    (State.reg_of_regs h _ _).trans (slotTaken_reg rfl (by decide) s k)
  have n1 : s.reg Reg.actKind k ≠ 1 := by omega
  have n6 : s.reg Reg.actKind k ≠ 6 := by omega
  have nk : ¬ (s.reg Reg.actKind k = 0 ∨ 6 < s.reg Reg.actKind k) := by omega
  have moved (t : State) : t.reg Reg.actKind k = s.reg Reg.actKind k →
      (let y := t.setActExtra k { t.actExtra k with expected := actBoundary t k }
       let x := swapCheck y k
       if x.2 then actEnds x.1 k 1 0 else actEnds x.1 k 4 5) = slotPending t k := fun h => by
    dsimp only
    rw [swapCheck_passes (h.symm ▸ n1) (h.symm ▸ n6)]
    rfl
  unfold commitAction
  dsimp only
  rw [if_neg nk, if_neg (not_not.2 ha), if_neg fun h => n1 h.1, if_neg fun h => n6 h.1, if_neg fun h => n6 h.1]
  simp only [if_neg n6]
  refine congrArg (ite _ _) (congrArg (ite _ _) (moved (if actPast (slotTaken s k) k then slotMoved (slotTaken s k) k else slotTaken s k) ?_))
  split <;> exact hkind _ rfl

end

section
variable {s : State} {k : Nat} (h2 : 2 ≤ s.reg Reg.actKind k) (h5 : s.reg Reg.actKind k ≤ 5)
  (ha : s.reg Reg.actArg k &&& argMask (s.reg Reg.actKind k) = s.reg Reg.actArg k) (hb : bit (s.reg Reg.actMode k) 0 = true)

theorem slotTaken_actBeatOf (hb : bit (s.reg Reg.actMode k) 0 = true) :
    actBeatOf (slotTaken s k) k = some (BitVec.ofNat 48 (s.reg Reg.actBeat k)) := by
  have hextra : ((slotTaken s k).actExtra k).asapBeat = none := congrArg ActionExtra.asapBeat (State.actExtra_setActExtra ..)
  have hmode : (slotTaken s k).reg Reg.actMode k = s.reg Reg.actMode k := slotTaken_reg rfl (by decide) s k
  rw [actBeatOf_own hextra (hmode.symm ▸ hb), slotTaken_reg rfl (by decide)]

theorem slotTaken_actAsap : actAsap (slotTaken s k) k = bit (s.reg Reg.actMode k) 1 := by
  unfold actAsap
  rw [slotTaken_reg rfl (by decide)]

include h5 hb

/-- A beat-named action is past where the count is the engine's and the beat does not lie ahead (R48). -/
theorem slotTaken_actPast : actPast (slotTaken s k) k =
    (s.mode.flows && decide (beatDiff (BitVec.ofNat 48 (s.reg Reg.actBeat k)) s.beat.n < 1)) := by
  have hkind : (slotTaken s k).reg Reg.actKind k ≠ 6 := by
    rw [slotTaken_reg rfl (by decide)]
    omega
  unfold actPast
  rw [slotTaken_actBeatOf hb, slotTaken_mode]
  simp only [if_neg hkind]
  rfl

include h2 ha

theorem commitAction_ahead (h : s.mode = .held ∨ 1 ≤ beatDiff (BitVec.ofNat 48 (s.reg Reg.actBeat k)) s.beat.n) :
    commitAction s k = slotPending (slotTaken s k) k := by
  have hpast : actPast (slotTaken s k) k = false := by
    rw [slotTaken_actPast h5 hb]
    rcases h with h | h
    · simp [h, Mode.flows]
    · simp only [Bool.and_eq_false_iff, decide_eq_false_iff_not, not_lt]
      exact .inr h
  rw [commitAction_eq h2 h5 ha]
  simp [hpast]

section
variable (hm : s.mode.online = true) (hh : s.mode ≠ .held) (hd : beatDiff (BitVec.ofNat 48 (s.reg Reg.actBeat k)) s.beat.n ≤ 0)
include hm hh hd

theorem commitAction_behind : commitAction s k =
    if bit (s.reg Reg.actMode k) 1 then slotPending (slotMoved (slotTaken s k) k) k else actEnds (slotTaken s k) k 3 0 := by
  have hflows : s.mode.flows = true := by
    cases h : s.mode <;> simp_all [Mode.online]
  have hpast : actPast (slotTaken s k) k = true := by
    rw [slotTaken_actPast h5 hb, hflows, decide_eq_true (by omega)]
    rfl
  rw [commitAction_eq h2 h5 ha]
  cases hasap : bit (s.reg Reg.actMode k) 1 <;> simp [hpast, slotTaken_actAsap, hasap, hh]

end

end

theorem slotPending_status (s : State) (k : Nat) : (slotPending s k).reg Reg.actStatus k = 1 := actEnds_status ..
theorem slotPending_reason (s : State) (k : Nat) : (slotPending s k).reg Reg.actReason k = 0 := actEnds_reason ..

theorem slotPending_note (s : State) (k : Nat) : (slotPending s k).reg Reg.actNote k = s.reg Reg.actNote k :=
  actEnds_reg rfl _ _ _ _ (by decide) (by decide)

theorem slotMoved_pending_beat (s : State) (k : Nat) : actBeatOf (slotPending (slotMoved s k) k) k = some (s.beat.n + 1#48) := by
  refine actBeatOf_moved ?_
  have h : (slotPending (slotMoved s k) k).actExtra k =
      { (slotMoved s k).actExtra k with expected := actBoundary (slotMoved s k) k } := State.actExtra_setActExtra ..
  rw [h]
  exact congrArg ActionExtra.asapBeat (State.actExtra_setActExtra ..)

/-! ### Writes of the slots' objects (R46, R52) -/

def actKindRow : ObjRow := ⟨Reg.actKind, 16, 1, .unsigned 1, .rw, .any⟩
def actCommitRow : ObjRow := ⟨Reg.actCommit, 16, 1, .unsigned 1, .wo, .range 1 2⟩

/-- Every engine has the action slots. -/
theorem slot_present (s : State) {k : Nat} (hk : k < 16) : unitPresent s (0x2210 + k) = true := by
  have hout {base n : Nat} (h : 0x2220 ≤ base) : indexIn (0x2210 + k) base n = false := by
    simp [indexIn]
    omega
  unfold unitPresent
  simp [hout]

section
variable {r : ObjRow} (hr : r = actKindRow ∨ r = actCommitRow) {k : Nat} (hk : k < 16)
include hr

theorem slotRow_holds (hk : k < 16) : r.holds (0x2210 + k) r.reg.sub = true := by
  rcases hr with rfl | rfl <;> simp [ObjRow.holds, actKindRow, actCommitRow, Reg.actKind, Reg.actCommit] <;>
    exact decide_eq_true (by omega)

theorem slotRow_unit : r.unit (0x2210 + k) = k := by
  rcases hr with rfl | rfl <;> exact Nat.add_sub_cancel_left ..

variable {s t : State} (hm : s.mode.online = true) {v : Byte} (hc : r.check.ok r v.toNat = true)
include hk hm hc

/-- A write of a slot's object ends as its owning rule says. -/
theorem slotWrite {c : Nat} (ho : ownerWrite (standingInputs s) r.reg k 0 v.toNat s = (c, t)) :
    onUnit (decide (k < 16)) s (hostWrite (0x2210 + k) r.reg.sub [v] s) = done s ((countRefusal (c, t)).2.emit (.status c)) := by
  have hw : writeState s r = scOk := by
    rcases hr with rfl | rfl <;> exact if_pos (.inl hm)
  have hrow : r ∈ objRows := by
    rcases hr with rfl | rfl <;> decide +kernel
  have hx : hostWrite (0x2210 + k) r.reg.sub [v] s = (countRefusal (c, t)).2.emit (.status c) := by
    refine hostWrites_number (Mode.ne_off_of_online hm) (findObject_of_mem hrow (slotRow_holds hr hk) (slot_present s hk)) ?_ hw ?_ ?_ ?_
    · rcases hr with rfl | rfl <;> rfl
    · rcases hr with rfl | rfl <;> rfl
    · simpa [leNat] using hc
    · rw [slotRow_unit hr, Nat.sub_self]
      simpa [leNat] using ho
  rw [hx]
  exact onUnit_present s _ (decide_eq_true hk)

end

end Sys2Proof.Machine
end

section
/-! SUPPORT. The entry to HELD, and the clock at a boundary of a sounding (R29, R339). -/

namespace Sys2Proof.Machine

/-! ### Entry to HELD (R339) -/

/-- What an entry to HELD leaves of an object that its last steps do not write. -/
theorem enterHeld_reg (s : State) (reason : Nat) {r : Reg} (h1 : Reg.idState.key 0 ≠ r.key 0) (h2 : Reg.idStateReason.key 0 ≠ r.key 0)
    (h3 : Reg.silState.key 0 ≠ r.key 0) (h4 : Reg.imgShadowState.key 0 ≠ r.key 0) : ∃ u : State, (enterHeld s reason).reg r =
      ((u.setReg Reg.forgeActiveMask 0 0).setReg Reg.imgState 0 1).reg r := by
  refine ⟨quietAll (if s.mode = .running then leaveRunning s else s), ?_⟩
  unfold enterHeld
  dsimp only
  generalize quietAll _ = u
  rw [State.reg_of_regs (State.enter_spec ..).1, State.reg_setReg_other _ _ h2, State.reg_setReg_other _ _ h1]
  refine (State.reg_setReg_other _ _ h3).trans ?_
  split
  · exact State.reg_setReg_other _ _ h4
  · rfl

theorem enterHeld_mask (s : State) (reason : Nat) : (enterHeld s reason).reg Reg.forgeActiveMask = 0 := by
  obtain ⟨u, hu⟩ := enterHeld_reg s reason (r := Reg.forgeActiveMask) (by decide) (by decide) (by decide) (by decide)
  rw [hu, State.reg_setReg_other _ _ (by decide)]
  exact State.reg_setReg_same ..

theorem enterHeld_imgState (s : State) (reason : Nat) : (enterHeld s reason).reg Reg.imgState = 1 := by
  obtain ⟨u, hu⟩ := enterHeld_reg s reason (r := Reg.imgState) (by decide) (by decide) (by decide) (by decide)
  rw [hu]
  exact State.reg_setReg_same ..

@[simp] theorem enterHeld_mode (s : State) (reason : Nat) : (enterHeld s reason).mode = .held := by
  unfold enterHeld
  exact State.enter_mode ..

@[simp] theorem enterHeld_reason (s : State) (reason : Nat) : (enterHeld s reason).reg Reg.idStateReason = reason := by
  unfold enterHeld
  exact State.enter_reason ..

/-! ### Soundings let no time pass -/

theorem foldl_clocks {α : Type} (f : State → α → State) (h : ∀ s x, (f s x).clocks = s.clocks) (l : List α) (s : State) :
    (l.foldl f s).clocks = s.clocks := foldl_keep State.clocks f h l s

@[simp] theorem serialize_clocks (s : State) (x n v : Nat) : (serialize s x n v).clocks = s.clocks := by
  unfold serialize
  split <;> rfl

@[simp] theorem transmit_clocks (s : State) (x : Nat) (bs : List Coded) : (transmit s x bs).clocks = s.clocks := by
  unfold transmit
  dsimp only
  split
  · rfl
  · split <;> simp

@[simp] theorem tagFerries_clocks (s : State) (ps : List FerryPlan) (fail result : Bool) :
    (tagFerries s ps fail result).clocks = s.clocks := by
  refine foldl_clocks _ (fun _ _ => ?_) _ _
  exact transmit_clocks ..

@[simp] theorem placePlan_clocks (s : State) (f : Nat) (q : Bool) (p : ForgingPlan) : (placePlan s f q p).clocks = s.clocks := by
  unfold placePlan
  dsimp only
  refine (foldl_clocks (selectPorts q) (fun _ _ => rfl) _ _).trans ?_
  refine foldl_clocks _ (fun _ _ => ?_) _ _
  rfl

@[simp] theorem latchTables_clocks (s : State) (f : Nat) (q : Bool) (p : ForgingPlan) : (latchTables s f q p).clocks = s.clocks := rfl
@[simp] theorem State.setPlaneState_clocks (s : State) (f : Nat) (q : Bool) (v : Nat) : (s.setPlaneState f q v).clocks = s.clocks := rfl

@[simp] theorem startSounding_clocks (s : State) (x : PlaneId) : (startSounding s x).clocks = s.clocks := by
  unfold startSounding
  dsimp only
  split <;> simp [apply_ite State.clocks]

@[simp] theorem soundBoundary_clocks (s : State) : (soundBoundary s).clocks = s.clocks := by
  unfold soundBoundary
  simp [foldl_clocks, apply_ite State.clocks]

@[simp] theorem soundTokens_clocks (s : State) : (soundTokens s).clocks = s.clocks := by
  unfold soundTokens
  split
  · split <;> simp
  · rfl

@[simp] theorem soundFerries_clocks (s : State) : (soundFerries s).clocks = s.clocks := by
  unfold soundFerries relayFailures
  simp

/-! ### Boundaries -/

theorem countBeat_regs_low (s : State) {r : Reg} (h : r.key 0 < 0x340000) : (countBeat s).reg r = s.reg r :=
  (ForgesKept.runTo s _).reg r 0 h

theorem countBeat_mode (s : State) : (countBeat s).mode = s.mode :=
  congrArg Mode.ofCode (countBeat_regs_low s (by decide))

theorem countBeat_awaitingPeers {s : State} (h : awaitingPeers s = []) : awaitingPeers (countBeat s) = [] := by
  have kept : ForgesKept s (s.runTo (s.beat.at' + s.beat.period)) := .runTo ..
  refine List.eq_nil_iff_forall_not_mem.mpr fun x hx => List.eq_nil_iff_forall_not_mem.mp h x ?_
  obtain ⟨⟨h16, hstate⟩, hown⟩ := mem_awaitingPeers.mp hx
  refine mem_awaitingPeers.mpr ⟨⟨h16, (kept.planeState h16 x.2).symm.trans hstate⟩, ?_⟩
  rw [← kept.plane]
  exact hown

theorem countBeat_run (s : State) : (countBeat s).run = s.run := (ForgesKept.runTo s _).run

theorem countBeat_act (s : State) : (countBeat s).act = s.act := (ForgesKept.runTo s _).act

section
variable {s : State} (hon : s.beat.on = true)
include hon

theorem nextBoundary_flows (h : s.mode.flows = true) : nextBoundary s = liveBoundary (countBeat s) := by
  unfold nextBoundary
  simp [hon, h]

/-- In an activation that sounds and awaits no peers, a boundary counts a beat and serves the sounding. -/
theorem nextBoundary_sounds (h : s.mode = .held) (hp : s.act.phase ≠ 4) (hw : awaitingPeers s = []) :
    nextBoundary s = soundFerries (soundBoundary (countBeat s)) := by
  have hjudge : judgePeers (countBeat s) = countBeat s := by
    unfold judgePeers
    simp [countBeat_awaitingPeers hw]
  unfold nextBoundary soundingBoundary
  rw [hjudge, countBeat_act, if_neg hp]
  simp [hon, h, Mode.flows]

end

end Sys2Proof.Machine
end

section
/-! SUPPORT. What the commands of the slots end with, and the boundaries of O6. -/

namespace Sys2Proof.Machine

section
variable {s : State} {k : Nat} (hk : k < 16) (hm : s.mode.online = true)
include hk

theorem exec_actionDueInHeld : exec (.actionDueInHeld k) s = done s (dueInHeld s k) :=
  onUnit_present s _ (decide_eq_true hk)

include hm

theorem exec_actionCommit (hs : s.reg Reg.actStatus k ≠ 1) : exec (.actionCommit k) s = done s ((commitAction s k).emit (.status 0)) := by
  have ho : ownerWrite (standingInputs s) Reg.actCommit k 0 1 s = (scOk, commitAction s k) := if_neg hs
  exact slotWrite (r := actCommitRow) (v := 1#8) (.inr rfl) hk hm (by decide) ho

theorem exec_actionCancel (hs : s.reg Reg.actStatus k = 1) (h6 : s.reg Reg.actKind k ≠ 6) :
    exec (.actionCancel k) s = done s ((actEnds s k 5 0).emit (.status 0)) := by
  have hc : cancelOk s k = true := by
    unfold cancelOk
    simp [hs, h6]
  have ho : ownerWrite (standingInputs s) Reg.actCommit k 0 2 s = (scOk, actEnds s k 5 0) := if_pos hc
  exact slotWrite (r := actCommitRow) (v := 2#8) (.inr rfl) hk hm (by decide) ho

/-- A kind written to a slot that has ended stands, and the slot is EMPTY (R46). -/
theorem exec_kindWrite_ended (hs : 2 ≤ s.reg Reg.actStatus k) (v : Byte) : exec (.timeActFieldWrite k 1 [v]) s =
    done s ((actEnds (s.setReg Reg.actKind k v.toNat) k 0 0).emit (.status 0)) := by
  have hfree : storeRefusal s Reg.actKind k 0 v.toNat = 0 := (if_pos (.inl rfl)).trans (if_neg (by omega))
  have hended : 2 ≤ (s.setReg Reg.actKind k v.toNat).reg Reg.actStatus k := by
    rwa [reg_setReg_slot rfl _ _ rfl (by decide)]
  have ho : ownerWrite (standingInputs s) Reg.actKind k 0 v.toNat s = (scOk, actEnds (s.setReg Reg.actKind k v.toNat) k 0 0) := by
    rw [ownerWrite_stores (by decide), storeWrite'_stores hfree]
    exact congrArg (Prod.mk scOk) (if_pos hended)
  exact slotWrite (r := actKindRow) (.inl rfl) hk hm rfl ho

/-- A kind written to a PENDING slot is refused (R46). -/
theorem exec_kindWrite_pending (hs : s.reg Reg.actStatus k = 1) (v : Byte) : exec (.timeActFieldWrite k 1 [v]) s =
    done s ((s.count Reg.odWritesRefused 0).emit (.status 0x08000022)) := by
  have hstate : storeRefusal s Reg.actKind k 0 v.toNat = scState := (if_pos (.inl rfl)).trans (if_pos hs)
  have ho : ownerWrite (standingInputs s) Reg.actKind k 0 v.toNat s = (scState, s) := by
    rw [ownerWrite_stores (by decide)]
    exact storeWrite'_refuses hstate
  exact slotWrite (r := actKindRow) (.inl rfl) hk hm rfl ho

end

theorem reg_countRefused_slot {r : Reg} (hb : r.base = 0x2210) (s : State) (k : Nat) :
    (s.count Reg.odWritesRefused 0).reg r k = s.reg r k :=
  State.reg_count_other _ _ _ (ne_of_lt (lt_of_lt_of_le (by decide) (slotKey_ge hb k)))

/-- A property of what a write leaves, where neither its answer nor the queue matters to it, is one of the next state. -/
theorem done_emit_leaves {s t : State} {o : Out} {p : State → Prop} (hp : p t) (hq : ∀ u o q, p u → p { u.emit o with pending := q }) :
    ∃ u, done s (t.emit o) = .next u ∧ p u := ⟨_, rfl, hq _ _ _ hp⟩

/-- In HELD a time-named action that comes due ends in PAST, with reason HELD (R50). -/
theorem dueInHeld_ends {s : State} {k : Nat} (hm : s.mode = .held) (hs : s.reg Reg.actStatus k = 1) (hb : actBeatOf s k = none) :
    (dueInHeld s k).reg Reg.actStatus k = 3 ∧ (dueInHeld s k).reg Reg.actReason k = 7 := by
  unfold dueInHeld
  rw [if_neg (by simp [hm, hs, hb])]
  exact ⟨actEnds_status .., actEnds_reason ..⟩

theorem liveBoundary_holds {s : State} (hm : s.mode = .armed) (hh : s.run.holdAt = some s.beat.n) : liveBoundary s = enterHeld s 4 :=
  if_pos ⟨hm, hh⟩

/-- Settles O6. That a note and a reason read 0 from a commit or a field write on is the model's choice (notes/assumptions/98.md). -/
theorem boundariesAndActionSlots : Obligations.BoundariesAndActionSlots := by
  unfold Obligations.BoundariesAndActionSlots
  refine ⟨fun s hon => ⟨?flows, ?sounds, ?holds⟩, fun s k hk => ⟨?commit, ?cancel, ?write, ?due⟩⟩
  case flows =>
    intro hf
    have hexec : exec .beatBoundary s = done s (liveBoundary (countBeat s)) := congrArg (done s) (nextBoundary_flows hon hf)
    rw [hexec]
    exact done_leaves ((liveBoundary_beatN _).trans (countBeat_beatN s)) fun _ _ h => h
  case sounds =>
    intro hm hp hw
    have hexec : exec .beatBoundary s = done s (soundFerries (soundBoundary (countBeat s))) :=
      congrArg (done s) (nextBoundary_sounds hon hm hp hw)
    have hbeat : (soundFerries (soundBoundary (countBeat s))).beat = (countBeat s).beat := by simp
    have hclocks : (soundFerries (soundBoundary (countBeat s))).clocks = (countBeat s).clocks := by simp
    rw [hexec]
    refine done_leaves ⟨?_, ?_, ?_⟩ fun _ _ h => h
    · rw [hbeat, countBeat_beatN]
    · rw [hbeat, countBeat_at]
    · rw [hclocks, countBeat_cycle]
  case holds =>
    intro hm hh
    have hheld : nextBoundary s = enterHeld (countBeat s) 4 := by
      rw [nextBoundary_flows hon (by simp [hm, Mode.flows])]
      exact liveBoundary_holds ((countBeat_mode s).trans hm) ((congrArg Run.holdAt (countBeat_run s)).trans (hh.trans (by rw [countBeat_beatN])))
    have hexec : exec .beatBoundary s = done s (enterHeld (countBeat s) 4) := congrArg (done s) hheld
    rw [hexec]
    exact done_leaves ⟨enterHeld_mode .., enterHeld_reason .., enterHeld_mask .., enterHeld_imgState ..⟩ fun _ _ h => h
  case commit =>
    intro hm hs h2 h5 ha hb
    rw [exec_actionCommit hk hm hs]
    refine ⟨fun h => ?_, fun hh hd hasap => ?_, fun hh hd hasap => ?_⟩
    · rw [commitAction_ahead h2 h5 ha hb h]
      exact done_emit_leaves ⟨slotPending_status .., slotPending_reason .., (slotPending_note ..).trans (State.reg_setReg_same ..)⟩
        fun _ _ _ h => h
    · rw [commitAction_behind h2 h5 ha hb hm hh hd, hasap]
      exact done_emit_leaves ⟨actEnds_status .., actEnds_reason ..⟩ fun _ _ _ h => h
    · rw [commitAction_behind h2 h5 ha hb hm hh hd, hasap]
      exact done_emit_leaves ⟨slotPending_status .., slotMoved_pending_beat ..⟩ fun _ _ _ h => h
  case cancel =>
    intro hm hs h6
    rw [exec_actionCancel hk hm hs h6]
    exact done_emit_leaves (actEnds_status ..) fun _ _ _ h => h
  case write =>
    intro v hm
    refine ⟨fun hs => ?_, fun hs => ?_⟩
    · have hkind := actEnds_reg (r := Reg.actKind) rfl (s.setReg Reg.actKind k v.toNat) k 0 0 (by decide) (by decide)
      rw [exec_kindWrite_ended hk hm hs]
      exact done_emit_leaves ⟨hkind.trans (State.reg_setReg_same ..), actEnds_status ..⟩ fun _ _ _ h => h
    · have hkept (r : Reg) (hb : r.base = 0x2210) := reg_countRefused_slot hb s k
      rw [exec_kindWrite_pending hk hm hs]
      exact ⟨_, rfl, hkept Reg.actKind rfl, (hkept Reg.actStatus rfl).trans hs, rfl⟩
  case due =>
    intro hm hs hb
    rw [exec_actionDueInHeld hk]
    exact done_leaves (dueInHeld_ends hm hs hb) fun _ _ h => h

end Sys2Proof.Machine
end

section
/-! SUPPORT. Silush: the answer, the start of a cycle and a slot 0 burst on the pace (R317, R321, R325, R326, R330). -/

namespace Sys2Proof.Machine

/-! ### The answer (R325) -/

/-- What the answer's burst holds. -/
def answerData (seq : Nat) (notReady noQuery : Bool) (busy : Nat) (beat : BitVec 16) : BitVec 56 :=
  BitVec.ofNat 6 seq ++ BitVec.ofBool notReady ++ BitVec.ofBool noQuery ++ BitVec.ofNat 32 busy ++ beat

section
variable (seq : Nat) (notReady noQuery : Bool) (busy : Nat) (beat : BitVec 16)

theorem answerData_noQuery : (answerData seq notReady noQuery busy beat).extractLsb' 48 1 = BitVec.ofBool noQuery := by
  unfold answerData
  rw [BitVec.extractLsb'_append_eq_of_le (by decide), BitVec.extractLsb'_append_eq_of_le (by decide)]
  exact BitVec.extractLsb'_append_eq_right

theorem answerData_notReady : (answerData seq notReady noQuery busy beat).extractLsb' 49 1 = BitVec.ofBool notReady := by
  unfold answerData
  iterate 3 rw [BitVec.extractLsb'_append_eq_of_le (by decide)]
  exact BitVec.extractLsb'_append_eq_right

theorem answerData_seq : (answerData seq notReady noQuery busy beat).extractLsb' 50 6 = BitVec.ofNat 6 seq := by
  unfold answerData
  iterate 3 rw [BitVec.extractLsb'_append_eq_of_le (by decide)]
  exact BitVec.extractLsb'_append_eq_left

end

/-- Does the engine answer in this cycle. -/
def answersNow (s : State) : Prop := s.silSt = 3 ∧ s.silush.sent = false ∧ s.silush.dark = false

theorem answer_silent {s : State} (h : ¬ answersNow s) (noQuery : Bool) : answer s noQuery = s := by
  unfold answersNow at h
  unfold answer
  rw [if_pos]
  by_contra hn
  simp only [not_or, Bool.not_eq_true, ne_eq, not_not] at hn
  exact h hn

/-- What an answer leaves: it changes the outbox, and in the star's state the sequence and the mark that the engine has sent. -/
theorem answer_keeps (s : State) (noQuery : Bool) : ∃ outbox sent seq, answer s noQuery =
    { s with outbox := outbox, silush := { s.silush with sent := sent, seq := seq } } ∧ (noQuery = false → seq = s.silush.seq) := by
  unfold answer
  split
  · exact ⟨s.outbox, s.silush.sent, s.silush.seq, rfl, fun _ => rfl⟩
  · exact ⟨_, _, _, rfl, fun h => by simp [h]⟩

theorem answer_sends {s : State} (h : answersNow s) (noQuery : Bool) : ∃ (c : Nat) (busy : Nat) (beat : BitVec 16),
    (answer s noQuery).outbox = .silush c (burstOf (answerData (if noQuery then (s.silush.seq + 1) % 64 else s.silush.seq)
      (s.mode == .held || s.mode == .faulted) noQuery busy beat)) :: s.outbox ∧ (answer s noQuery).silush.sent = true := by
  obtain ⟨hstate, hsent, hdark⟩ := h
  unfold answer
  rw [if_neg (by simp [hstate, hsent, hdark])]
  exact ⟨_, _, _, rfl, rfl⟩


/-! ### The start of a cycle (R326, R330) -/

/-- The cycles in a row in which a slot was empty, once a cycle ends. -/
def runAfter (x : Silush) (k : Nat) : Nat :=
  if x.seen.contains k then 0 else if x.rangeCycle && k != 0 then tabGet 0 x.absentRun k else tabGet 0 x.absentRun k + 1

theorem tabGet_map_of_mem (f : Nat → Nat) {l : List Nat} {k : Nat} (h : k ∈ l) : tabGet 0 (l.map fun k => (k, f k)) k = f k := by
  induction l with
  | nil => cases h
  | cons j l ih =>
    by_cases hj : j = k
    · simp [tabGet, hj]
    · simpa [tabGet, hj] using ih ((List.mem_cons.mp h).resolve_left (Ne.symm hj))

/-- A cycle whose answer has been given: each slot's run of empty cycles moves on. -/
def runsMoved (s : State) : State :=
  s.modSil fun y => { y with
    collRun := if y.sent && !y.collided.contains (s.reg Reg.silSlot) then 0 else y.collRun
    absentRun := (List.range 8).map fun k => (k, runAfter s.silush k) }

theorem closeCycle_eq (s : State) :
    closeCycle s = runsMoved (if s.silush.slot0Seen ∨ !s.silush.originKnown then s else answer s true) := rfl

/-- The end of a cycle that heard slot 0. -/
theorem closeCycle_heard {s : State} (h : s.silush.slot0Seen = true) : closeCycle s = runsMoved s := by
  rw [closeCycle_eq, if_pos (.inl h)]

/-- The end of a cycle that missed slot 0. -/
theorem closeCycle_missed {s : State} (h : s.silush.slot0Seen = false) (hk : s.silush.originKnown = true) :
    closeCycle s = runsMoved (answer s true) := by
  rw [closeCycle_eq, if_neg (by simp [h, hk])]

/-- What the end of a cycle leaves as it was, and the runs of empty cycles. -/
structure CycleClosed (s t : State) : Prop where
  regs : t.regs = s.regs
  clocks : t.clocks = s.clocks
  origin : t.silush.origin = s.silush.origin
  originKnown : t.silush.originKnown = s.silush.originKnown
  refusedNow : t.silush.refusedNow = s.silush.refusedNow
  absentRun : t.silush.absentRun = (List.range 8).map fun k => (k, runAfter s.silush k)

theorem closeCycle_closes (s : State) : CycleClosed s (closeCycle s) := by
  rw [closeCycle_eq]
  split
  · exact ⟨rfl, rfl, rfl, rfl, rfl, rfl⟩
  · obtain ⟨outbox, sent, seq, h, -⟩ := answer_keeps s true
    rw [h]
    exact ⟨rfl, rfl, rfl, rfl, rfl, rfl⟩

theorem State.runTo_star (s : State) (c : Nat) : (s.runTo c).silush = s.silush ∧ (s.runTo c).outbox = s.outbox := by
  have hf (t : State) (n : Nat) : ((t.harbourList.foldl (groupTick n) t).silush, (t.harbourList.foldl (groupTick n) t).outbox) =
      (t.silush, t.outbox) := foldl_keep (fun t => (t.silush, t.outbox)) (groupTick n) (fun _ _ => rfl) _ _
  unfold State.runTo State.advance
  dsimp only
  split
  · exact ⟨rfl, rfl⟩
  · exact Prod.mk.inj (hf s _)

/-- The cycle that begins: what the star's state reads then. -/
def cycleFresh (x : Silush) (origin : Nat) : Silush :=
  { x with
    origin := origin, slot0Before := x.slot0Seen, slot0Seen := false, sent := false, dark := false, rangeCycle := false, seen := [],
    collided := if x.spill then [0] else [], spill := false, beatAge := x.beatAge + 1,
    beatHeard := if x.beatAge = 0 then x.beatHeard else none, refusing := x.refusedNow, refusedNow := false }

/-- A cycle starts at the predicted origin (R326). -/
theorem cycleStart_begins {s : State} (h1 : s.mode ≠ .off) (h2 : s.mode ≠ .boot) (hk : s.silush.originKnown = true) :
    let next := s.silush.origin + silCycle s
    (cycleStart s).silush = cycleFresh (closeCycle s).silush next ∧
      (cycleStart s).clocks.cycle = max s.clocks.cycle (next / 256) ∧ (cycleStart s).outbox = (closeCycle s).outbox := by
  have hc := closeCycle_closes s
  have hnext : (if (closeCycle s).silush.originKnown then (closeCycle s).silush.origin + silCycle (closeCycle s)
      else (closeCycle s).clocks.cycle * 256) = s.silush.origin + silCycle s := by
    rw [hc.originKnown, hk, hc.origin, silCycle, State.reg_of_regs hc.regs]
    rfl
  obtain ⟨hsil, hout⟩ := (closeCycle s).runTo_star ((s.silush.origin + silCycle s) / 256)
  have hcycle := (closeCycle s).runTo_cycle ((s.silush.origin + silCycle s) / 256)
  rw [hc.clocks] at hcycle
  unfold cycleStart
  rw [if_neg (by simp [h1, h2])]
  dsimp only
  rw [hnext]
  generalize (closeCycle s).runTo ((s.silush.origin + silCycle s) / 256) = u at hsil hout hcycle
  rw [← hsil, ← hout, ← hcycle]
  split <;> exact ⟨rfl, rfl, rfl⟩


/-! ### A slot 0 burst on the pace (R321, R326, R330) -/

/-- A slot 0 burst that is the first of its cycle and arrives on the pace. -/
def onPace (s : State) (b : Burst) : Prop :=
  s.silush.slot0Seen = false ∧ s.silush.collided.contains 0 = false ∧
    (s.silush.originKnown = true → ((arrival s b : Int) - (s.silush.origin + 512 : Nat)).natAbs ≤ 512)

/-- The cycle takes its origin from a slot 0 preamble. -/
def originTaken (s : State) (origin : Nat) : State :=
  s.modSil fun x => { x with origin := origin, originKnown := true, slot0Seen := true, seen := 0 :: x.seen }

/-- What a slot 0 preamble on the pace leaves. -/
def preambleTaken (s : State) (origin : Nat) : State :=
  if s.silSt = 1 then
    (if s.silush.originKnown && s.silush.slot0Before then (originTaken s origin).setReg Reg.silState 0 2 else originTaken s origin)
  else (originTaken s origin).modSil fun x => { x with offRun := 0 }

theorem slot0Preamble_paced {s : State} {b : Burst} (h : onPace s b) :
    slot0Preamble s b = preambleTaken s (arrival s b - 512) := by
  obtain ⟨hseen, -, hpace⟩ := h
  have hpaced : (s.silush.originKnown && decide (guardUi < ((arrival s b : Int) - (s.silush.origin + guardUi : Nat)).natAbs)) = false := by
    cases hk : s.silush.originKnown
    · rfl
    · exact decide_eq_false (not_lt.mpr (hpace hk))
  unfold slot0Preamble preambleTaken
  simp only [hseen, Bool.false_eq_true, if_false]
  revert hpaced
  generalize decide (guardUi < ((arrival s b : Int) - (s.silush.origin + guardUi : Nat)).natAbs) = off
  rw [show guardUi = 512 from rfl]
  generalize arrival s b - 512 = origin
  intro hpaced
  cases hk : s.silush.originKnown with
  | false => simp only [Bool.false_and]; rfl
  | true =>
    obtain rfl : off = false := by rwa [hk, Bool.true_and] at hpaced
    simp only [Bool.true_and, Bool.not_false, Bool.and_true]
    rfl

/-- The state in which the data of a slot 0 burst acts. -/
def slot0Heard (s : State) (origin seq : Nat) : State :=
  (clearAbsent (preambleTaken s origin) 0).modSil fun x => { x with seq := seq }

/-- The star's state once slot 0 has been heard. -/
def silushHeard (x : Silush) (origin seq offRun : Nat) : Silush :=
  { x with origin := origin, originKnown := true, slot0Seen := true, seen := 0 :: x.seen, offRun := offRun, seq := seq }

theorem preambleTaken_form (s : State) (origin : Nat) : ∃ regs offRun,
    preambleTaken s origin = { s with regs := regs, silush := silushHeard s.silush origin s.silush.seq offRun } ∧
      ∀ (r : Reg) (n : Nat), Reg.silState.key 0 ≠ r.key n → (preambleTaken s origin).reg r n = s.reg r n := by
  unfold preambleTaken
  split
  · split
    · exact ⟨_, _, rfl, fun r n hr => State.reg_setReg_other (originTaken s origin) 2 hr⟩
    · exact ⟨_, _, rfl, fun _ _ _ => rfl⟩
  · exact ⟨_, _, rfl, fun _ _ _ => rfl⟩

/-- A HUNT engine that heard a slot 0 in the cycle before too is RANGING (Table 14.5). -/
theorem preambleTaken_silSt (s : State) (origin : Nat) : (preambleTaken s origin).silSt =
    if s.silSt = 1 ∧ s.silush.originKnown = true ∧ s.silush.slot0Before = true then 2 else s.silSt := by
  unfold preambleTaken
  split
  case isTrue h1 =>
    simp only [Bool.and_eq_true]
    split
    case isTrue hb =>
      rw [if_pos ⟨h1, hb⟩]
      exact State.reg_setReg_same (originTaken s origin) Reg.silState 0 2
    case isFalse hb => exact (if_neg fun h => hb h.2).symm
  case isFalse h1 => exact (if_neg fun h => h1 h.1).symm

theorem clearAbsent_form (s : State) (k : Nat) : ∃ regs, clearAbsent s k = { s with regs := regs } ∧
    ∀ (r : Reg) (n : Nat), Reg.silAbsentMask.key 0 ≠ r.key n → (clearAbsent s k).reg r n = s.reg r n := by
  unfold clearAbsent
  dsimp only
  split
  · exact ⟨_, rfl, fun r n hr => State.reg_setReg_other _ _ hr⟩
  · exact ⟨_, rfl, fun _ _ _ => rfl⟩

/-- Slot 0 is absent no longer. -/
theorem clearAbsent_bit (s : State) : bit ((clearAbsent s 0).reg Reg.silAbsentMask) 0 = false := by
  unfold clearAbsent
  dsimp only
  split
  case isTrue h =>
    rw [State.reg_setReg_same]
    simp only [bit, Nat.testBit_zero, decide_eq_true_eq, decide_eq_false_iff_not] at h ⊢
    omega
  case isFalse h => exact Bool.eq_false_iff.mpr h

section
variable (s : State) (origin seq : Nat)

theorem slot0Heard_form : ∃ regs offRun,
    slot0Heard s origin seq = { s with regs := regs, silush := silushHeard s.silush origin seq offRun } := by
  obtain ⟨_, offRun, h, -⟩ := preambleTaken_form s origin
  obtain ⟨regs, hc, -⟩ := clearAbsent_form (preambleTaken s origin) 0
  refine ⟨regs, offRun, ?_⟩
  unfold slot0Heard
  rw [hc, h]
  rfl

theorem slot0Heard_reg {r : Reg} {n : Nat} (h1 : Reg.silState.key 0 ≠ r.key n) (h2 : Reg.silAbsentMask.key 0 ≠ r.key n) :
    (slot0Heard s origin seq).reg r n = s.reg r n := by
  obtain ⟨_, _, -, h⟩ := preambleTaken_form s origin
  obtain ⟨_, -, hc⟩ := clearAbsent_form (preambleTaken s origin) 0
  exact (hc r n h2).trans (h r n h1)

theorem slot0Heard_silSt : (slot0Heard s origin seq).silSt =
    if s.silSt = 1 ∧ s.silush.originKnown = true ∧ s.silush.slot0Before = true then 2 else s.silSt := by
  obtain ⟨_, -, hc⟩ := clearAbsent_form (preambleTaken s origin) 0
  exact (hc Reg.silState 0 (by decide)).trans (preambleTaken_silSt s origin)

theorem slot0Heard_absent : bit ((slot0Heard s origin seq).reg Reg.silAbsentMask) 0 = false := clearAbsent_bit _

theorem slot0Heard_silush : ∃ offRun, (slot0Heard s origin seq).silush = silushHeard s.silush origin seq offRun := by
  obtain ⟨_, offRun, h⟩ := slot0Heard_form s origin seq
  exact ⟨offRun, by rw [h]⟩

theorem slot0Heard_rest : (slot0Heard s origin seq).beat = s.beat ∧ (slot0Heard s origin seq).clocks = s.clocks ∧
    (slot0Heard s origin seq).act = s.act ∧ (slot0Heard s origin seq).links = s.links ∧
    (slot0Heard s origin seq).images = s.images ∧ (slot0Heard s origin seq).outbox = s.outbox := by
  obtain ⟨_, _, h⟩ := slot0Heard_form s origin seq
  rw [h]
  exact ⟨rfl, rfl, rfl, rfl, rfl, rfl⟩

end

theorem field_eq (x lo n : Nat) : field x lo n = x / 2 ^ lo % 2 ^ n := by
  rw [field, Nat.shiftRight_eq_div_pow]

section
variable {s : State} {b : Burst} {d : BitVec 56} (h0 : s.silSt ≠ 0) (h1 : s.mode ≠ .off) (h2 : s.mode ≠ .boot)
  (hd : burstData b.bits = some d) (hp : onPace s b) (h3 : d.toNat / 2 ^ 54 ≠ 3)
include h0 h1 h2 hd hp h3

theorem slot0Burst_eq (kind : Nat) (g : BitVec 56 → State → State) : slot0Burst s kind b g =
    if d.toNat / 2 ^ 54 ≠ kind then s
    else answer (g d (slot0Heard s (arrival s b - 512) (d.toNat / 2 ^ 48 % 64))) false := by
  have hpre := slot0Preamble_paced hp
  obtain ⟨hseen, hcoll, -⟩ := hp
  have hdata : slot0Data s b = some (d.toNat / 2 ^ 54, d) := by
    unfold slot0Data
    rw [hcoll, hd]
    exact (if_neg Bool.false_ne_true).trans (if_neg h3)
  unfold slot0Burst
  rw [if_neg (by simp [h0, h1, h2]), if_neg (by simp [hseen]), if_neg (by rw [hseen, hcoll]; simp), hdata]
  dsimp only
  rw [hpre, field_eq]
  rfl

/-- A burst of another kind is no such event (R321). -/
theorem slot0Burst_other {kind : Nat} (hk : d.toNat / 2 ^ 54 ≠ kind) (g : BitVec 56 → State → State) : slot0Burst s kind b g = s := by
  rw [slot0Burst_eq h0 h1 h2 hd hp h3, if_pos hk]

omit h3 in
theorem slot0Burst_heard {kind : Nat} (hk : d.toNat / 2 ^ 54 = kind) (h3 : kind ≠ 3) (g : BitVec 56 → State → State) :
    slot0Burst s kind b g = answer (g d (slot0Heard s (arrival s b - 512) (d.toNat / 2 ^ 48 % 64))) false := by
  rw [slot0Burst_eq h0 h1 h2 hd hp (hk ▸ h3), if_neg (not_not.mpr hk)]

end

end Sys2Proof.Machine
end

section
/-! SUPPORT. What slot 0's data does: BEAT, PHASE and RANGE, and what the answer after them keeps (R30, R322, R323, R325, R348, R350). -/

namespace Sys2Proof.Machine

/-! ### Slot 0 is heard, and answered -/

/-- The star's state after a slot 0 burst on the pace. -/
def hearsSlot0 (t : State) (origin seq : Nat) : Prop :=
  t.silush.origin = origin ∧ t.silush.originKnown = true ∧ t.silush.slot0Seen = true ∧ t.silush.seq = seq

theorem hearsSlot0_of_silush {t : State} {x : Silush} {origin seq offRun : Nat} (h : t.silush = silushHeard x origin seq offRun) :
    hearsSlot0 t origin seq := by
  unfold hearsSlot0
  rw [h]
  exact ⟨rfl, rfl, rfl, rfl⟩

theorem answer_hears {t : State} {origin seq : Nat} (h : hearsSlot0 t origin seq) : hearsSlot0 (answer t false) origin seq := by
  obtain ⟨horigin, hknown, hseen, hseq⟩ := h
  obtain ⟨_, _, _, ha, hs⟩ := answer_keeps t false
  rw [ha]
  exact ⟨horigin, hknown, hseen, (hs rfl).trans hseq⟩

/-- The answer to a slot 0 whose data was used. -/
def answeredSlot0 (t : State) (seq : Nat) : Prop := t.silush.sent = true ∧ ∃ (c : Nat) (data : BitVec 56),
  t.outbox.head? = some (.silush c (burstOf data)) ∧ data.extractLsb' 48 1 = 0#1 ∧ (data.extractLsb' 50 6).toNat = seq

theorem answer_answers {t : State} (h : answersNow t) {seq : Nat} (hs : t.silush.seq = seq) (h64 : seq < 64) :
    answeredSlot0 (answer t false) seq := by
  obtain ⟨c, busy, beat, hout, hsent⟩ := answer_sends h false
  refine ⟨hsent, c, _, by rw [hout]; rfl, answerData_noQuery .., ?_⟩
  rw [answerData_seq, BitVec.toNat_ofNat, if_neg Bool.false_ne_true, hs]
  exact Nat.mod_eq_of_lt h64

theorem answer_rest (s : State) (noQuery : Bool) : (answer s noQuery).regs = s.regs ∧ (answer s noQuery).beat = s.beat ∧
    (answer s noQuery).act = s.act ∧ (answer s noQuery).links = s.links := by
  obtain ⟨_, _, _, h, -⟩ := answer_keeps s noQuery
  rw [h]
  exact ⟨rfl, rfl, rfl, rfl⟩

@[simp] theorem answer_reg (s : State) (noQuery : Bool) (r : Reg) (n : Nat) : (answer s noQuery).reg r n = s.reg r n :=
  State.reg_of_regs (answer_rest s noQuery).1 r n

@[simp] theorem answer_mode (s : State) (noQuery : Bool) : (answer s noQuery).mode = s.mode :=
  State.mode_of_regs (answer_rest s noQuery).1

@[simp] theorem answer_beat (s : State) (noQuery : Bool) : (answer s noQuery).beat = s.beat := (answer_rest s noQuery).2.1
@[simp] theorem answer_act (s : State) (noQuery : Bool) : (answer s noQuery).act = s.act := (answer_rest s noQuery).2.2.1
@[simp] theorem answer_links (s : State) (noQuery : Bool) : (answer s noQuery).links = s.links := (answer_rest s noQuery).2.2.2

theorem answersNow_of {s t : State} (h : answersNow s) (hst : t.silSt = s.silSt) (hsent : t.silush.sent = s.silush.sent)
    (hdark : t.silush.dark = s.silush.dark) : answersNow t := by
  obtain ⟨h3, hs, hd⟩ := h
  exact ⟨hst.trans h3, hsent.trans hs, hdark.trans hd⟩

/-- What `u` keeps of `s`, and what it takes, where the data of a slot 0 burst acts. -/
structure SlotHeard (s u : State) (origin seq : Nat) : Prop where
  silush : ∃ offRun, u.silush = silushHeard s.silush origin seq offRun
  silSt : u.silSt = if s.silSt = 1 ∧ s.silush.originKnown = true ∧ s.silush.slot0Before = true then 2 else s.silSt
  absent : bit (u.reg Reg.silAbsentMask) 0 = false
  reg : ∀ (r : Reg) (n : Nat), Reg.silState.key 0 ≠ r.key n → Reg.silAbsentMask.key 0 ≠ r.key n → u.reg r n = s.reg r n
  beat : u.beat = s.beat
  clocks : u.clocks = s.clocks
  act : u.act = s.act
  links : u.links = s.links
  images : u.images = s.images
  outbox : u.outbox = s.outbox

theorem slot0Heard_heard (s : State) (origin seq : Nat) : SlotHeard s (slot0Heard s origin seq) origin seq := by
  obtain ⟨hbeat, hclocks, hact, hlinks, himages, hout⟩ := slot0Heard_rest s origin seq
  exact ⟨slot0Heard_silush .., slot0Heard_silSt .., slot0Heard_absent .., fun _ _ => slot0Heard_reg s origin seq, hbeat, hclocks, hact, hlinks,
    himages, hout⟩

namespace SlotHeard

variable {s u : State} {origin seq : Nat} (hu : SlotHeard s u origin seq)
include hu

theorem hears : hearsSlot0 u origin seq := by
  obtain ⟨_, h⟩ := hu.silush
  exact hearsSlot0_of_silush h

theorem mode : u.mode = s.mode := congrArg Mode.ofCode (hu.reg _ _ (by decide) (by decide))

/-- An engine in another state than HUNT stays in it. -/
theorem silSt_same (h : s.silSt ≠ 1) : u.silSt = s.silSt := hu.silSt.trans (if_neg fun hh => h hh.1)

theorem dark : u.silush.dark = s.silush.dark := by
  obtain ⟨_, h⟩ := hu.silush
  rw [h]
  rfl

theorem beatHeard : u.silush.beatHeard = s.silush.beatHeard ∧ u.silush.beatAge = s.silush.beatAge := by
  obtain ⟨_, h⟩ := hu.silush
  rw [h]
  exact ⟨rfl, rfl⟩

/-- An engine that may answer before the burst may answer after it. -/
theorem answersNow (h : answersNow s) : answersNow u := by
  obtain ⟨_, hsil⟩ := hu.silush
  refine answersNow_of h (hu.silSt_same fun h1 => absurd (h.1.symm.trans h1) (by decide)) ?_ hu.dark
  rw [hsil]
  rfl

end SlotHeard

/-! ### The pair (R30, R322, R348, R350) -/

section
variable {s : State} {b : Beat} {c : Int} {period : Nat} {ok : Bool} (h0 : s.reg Reg.beatSource = 0)
include h0

section
variable (hf : s.mode.flows = true)
include hf

theorem pairHeard_disputed (h : ok = false ∨ (s.beat.fresh = false ∧ pairDisagrees s b c period = true)) :
    pairHeard s b c period ok = beatMismatch s := by
  unfold pairHeard
  rw [if_neg (not_not.mpr h0), if_pos hf]
  rcases h with rfl | ⟨hfresh, hd⟩
  · rfl
  · cases ok
    · rfl
    · simp [hfresh, hd]

theorem pairHeard_agreed (hfresh : s.beat.fresh = false) (hd : pairDisagrees s b c period = false) : pairHeard s b c period true = s := by
  unfold pairHeard
  rw [if_neg (not_not.mpr h0), if_pos hf]
  simp [hfresh, hd]

theorem pairHeard_first (hfresh : s.beat.fresh = true) : pairHeard s b c period true = takePair s b c period := by
  unfold pairHeard
  rw [if_neg (not_not.mpr h0), if_pos hf]
  simp [hfresh]

end

theorem pairHeard_waited (hm : s.mode = .held) (hp : s.act.phase = 1) : pairHeard s b c period true = pairActivates s b c period := by
  unfold pairHeard
  rw [if_neg (not_not.mpr h0), if_neg (by simp [hm, Mode.flows]), if_pos ⟨hm, hp, rfl⟩]

end

/-- A disagreement is counted and raises an EMCY; the count stays (R30). -/
theorem beatMismatch_counts (s : State) : (beatMismatch s).beat = s.beat ∧ (beatMismatch s).silush = s.silush ∧
    (beatMismatch s).reg Reg.beatMismatch = (s.reg Reg.beatMismatch + 1) % 2 ^ 32 ∧
    (s.links.emcys.length < 32 → ∃ e, (beatMismatch s).links.emcys = s.links.emcys ++ [e] ∧ e.code = 0xFF20) := by
  have hreg : (beatMismatch s).reg Reg.beatMismatch = (s.count Reg.beatMismatch 0).reg Reg.beatMismatch :=
    State.emcy_reg _ _ _ _ (by decide) (by decide) (by decide)
  refine ⟨State.emcy_beat .., ?_, hreg.trans (State.reg_setReg_same ..), fun hq => ?_⟩
  · obtain ⟨_, _, _, h⟩ := (s.count Reg.beatMismatch 0).emcy_eq { code := 0xFF20 }
    rw [beatMismatch, h]
    rfl
  · obtain ⟨r, h⟩ := (s.count Reg.beatMismatch 0).emcy_queue { code := 0xFF20 } hq
    exact ⟨_, h, rfl⟩

section
variable {s : State} {b : Beat} {c : Int} {period : Nat}

/-- Does the pair's boundary lie on one of the present count, with its period (R30). -/
def pairNear (s : State) (c : Int) (period : Nat) : Prop :=
  (c - nearestBoundary s c * s.beat.period - s.beat.at').natAbs ≤ 2 ∧ period = s.beat.period

theorem not_pairNear_iff : (decide (2 < (c - nearestBoundary s c * s.beat.period - s.beat.at').natAbs) || period != s.beat.period) = true ↔
    ¬ pairNear s c period := by
  unfold pairNear
  simp only [Bool.or_eq_true, decide_eq_true_eq, bne_iff_ne, ne_eq]
  omega

/-- The first pair gives the count its number and phase (R350). -/
theorem takePair_near (h : pairNear s c period) : (takePair s b c period).beat.n = b - BitVec.ofInt 48 (nearestBoundary s c) ∧
    (takePair s b c period).beat.fresh = false ∧
    (takePair s b c period).beat.at' = (c - nearestBoundary s c * s.beat.period).toNat ∧ (takePair s b c period).mode = s.mode := by
  unfold takePair
  dsimp only
  rw [if_neg fun hn => not_pairNear_iff.mp hn h]
  split <;> exact ⟨rfl, rfl, rfl, rfl⟩

/-- A first pair far from the present count takes the engine to HELD (R30). -/
theorem takePair_moved (h : ¬ pairNear s c period) : takePair s b c period = (enterHeld s 8).setReg Reg.imgReason 0 9 :=
  if_pos (not_pairNear_iff.mpr h)

end

/-! ### The pair that an activation waits for (R348) -/

/-- The loads of every forging of an image begin on plane 0. -/
def mainLoads (s : State) (i : ImagePlan) : State :=
  i.forgings.foldl (fun (s : State) p => startLoad s i s.images.mainHash false false p.forging) s


theorem startLoad_timing (s : State) (i : ImagePlan) (hash : List Byte) (shadow q : Bool) (f : Nat) :
    ((startLoad s i hash shadow q f).beat, (startLoad s i hash shadow q f).act) = (s.beat, s.act) := by
  cases h : planIn i f with
  | none => rw [startLoad_none s i hash shadow q f h]
  | some p =>
    have hprep : ((loadPrepared s i hash shadow q f p).beat, (loadPrepared s i hash shadow q f p).act) = (s.beat, s.act) := by
      refine foldl_keep (fun t => (t.beat, t.act)) _ (fun _ _ => ?_) _ _
      rfl
    have kept := (ForgesKept.installProgram shadow p (loadPrepared s i hash shadow q f p)).trans (ForgesKept.dispatchLoads _)
    rw [startLoad_some s i hash shadow q f h, ← hprep]
    exact congrArg₂ Prod.mk kept.beat kept.act

theorem mainLoads_timing (s : State) (i : ImagePlan) : ((mainLoads s i).beat, (mainLoads s i).act) = (s.beat, s.act) :=
  foldl_keep (fun t => (t.beat, t.act)) _ (fun t p => startLoad_timing t i _ false false p.forging) _ _

theorem mainLoads_reg (s : State) (i : ImagePlan) {r : Reg} {n : Nat} (h : r.key n < 0x310100) : (mainLoads s i).reg r n = s.reg r n := by
  refine foldl_keep (fun t => t.reg r n) _ (fun t p => ?_) _ _
  exact startLoad_reg t i _ false false p.forging (by omega) (planeReg_key_ne_of_low h _ _).symm

theorem endActivation_mode (s : State) (a b : Nat) : (endActivation s a b).mode = s.mode := by
  have hreg : (endActivation s a b).reg Reg.idState = s.reg Reg.idState := by
    rw [endActivation_eq, heldAgain_reg _ _ _ (by decide)]
    exact foldl_keep (fun t => t.reg Reg.idState) _ (fun t x => endPlane_reg t x (planeReg_key_ne_of_low (by decide) _ _).symm) _ _
  exact congrArg Mode.ofCode hreg

/-- The count that a pair places, with an activation in its load. -/
def pairPlaced (s : State) (b : Beat) (c : Int) (period : Nat) : State :=
  ({ s with beat := placeCount s b c period, act := { s.act with phase := 2 } } : State).setReg Reg.beatPeriod 0 period

theorem pairActivates_eq {s : State} {i : ImagePlan} (h : s.images.main = some i) (b : Beat) (c : Int) (period : Nat) :
    pairActivates s b c period = if !resourceOk s period i then endActivation s 7 5 else if storePoisoned s false then storeFails s
      else mainLoads (pairPlaced s b c period) i := by
  unfold pairActivates
  rw [h]
  rfl

/-- An activation that its pair reaches takes the count and loads, or ends: for its resources, or for its store (R348). -/
theorem pairActivates_ends {s : State} {i : ImagePlan} (h : s.images.main = some i) (b : Beat) (c : Int) (period : Nat) :
    (pairActivates s b c period).mode = s.mode ∧
      (((pairActivates s b c period).act.phase = 2 ∧ (pairActivates s b c period).beat.on = true ∧
          (pairActivates s b c period).beat.period = period ∧ (pairActivates s b c period).reg Reg.beatPeriod = period) ∨
        ((pairActivates s b c period).act.phase = 0 ∧
          ((pairActivates s b c period).reg Reg.imgReason = 5 ∨ (pairActivates s b c period).reg Reg.imgReason = 10))) := by
  rw [pairActivates_eq h]
  split
  · obtain ⟨-, hreason, -, hphase, -⟩ := endActivation_held s 7 5
    exact ⟨endActivation_mode .., .inr ⟨hphase, .inl hreason⟩⟩
  · split
    · obtain ⟨-, hreason, -, hphase, -⟩ := endActivation_held s 7 10
      exact ⟨(State.mode_setReg _ _ (by decide)).trans (endActivation_mode ..),
        .inr ⟨hphase, .inr ((State.reg_setReg_other _ _ (by decide)).trans hreason)⟩⟩
    · obtain ⟨hbeat, hact⟩ := Prod.mk.inj (mainLoads_timing (pairPlaced s b c period) i)
      have hmode : (pairPlaced s b c period).mode = s.mode := State.mode_setReg _ _ (by decide)
      refine ⟨(congrArg Mode.ofCode (mainLoads_reg _ i (by decide))).trans hmode, .inl ⟨?_, ?_, ?_, ?_⟩⟩
      · rw [hact]
        rfl
      · rw [hbeat]
        rfl
      · rw [hbeat]
        rfl
      · rw [mainLoads_reg _ i (by decide)]
        exact State.reg_setReg_same ..

/-! ### PHASE and RANGE -/

/-- The star's state with no BEAT that waits. -/
def beatTaken (s : State) : State := s.modSil fun x => { x with beatHeard := none }

/-- A PHASE that follows its BEAT by one cycle gives a pair (R322). -/
theorem hearPhase_pairs {s : State} {d : BitVec 56} {q n h : Nat} (hb : s.silush.beatHeard = some (q, n, h)) (ha : s.silush.beatAge = 1)
    (hq : (q + 1) % 64 = d.toNat / 2 ^ 48 % 64) (hz : d.toNat % 2 ^ 16 = 0) : hearPhase d s =
      pairHeard (beatTaken s) (BitVec.ofNat 48 n) ((ceilDiv h 256 + d.toNat / 2 ^ 32 % 2 ^ 16 : Nat) : Int)
        (d.toNat / 2 ^ 16 % 2 ^ 16) (decide (16 ≤ d.toNat / 2 ^ 16 % 2 ^ 16)) := by
  unfold hearPhase
  rw [hb]
  simp only [field_eq]
  rw [if_neg (by simpa [ha, hq] using hz)]
  rfl

/-- A RANGE cycle as the engine hears it: an engine that is not named stays dark (R323). -/
def rangeCycle (s : State) (named : Bool) : State := s.modSil fun x => { x with rangeCycle := true, dark := x.dark || !named }

section
variable {s : State} {d : BitVec 56}

theorem hearRange_eq (d : BitVec 56) (s : State) : hearRange d s =
    let named := decide (d.toNat / 2 ^ 45 % 2 ^ 3 = s.reg Reg.silSlot)
    let t := rangeCycle s named
    if named ∧ (s.silSt = 2 ∨ s.silSt = 5) ∧ !t.silush.dark then
      (t.emit (.silush (s.silush.origin + 8704) (burstOf 0#56))).modSil
        fun x => { x with rangeSent := some (s.silush.origin + 8704), dark := true }
    else t := by
  unfold hearRange
  rw [field_eq]
  rfl

/-- What a RANGE leaves of the state. -/
theorem hearRange_form (d : BitVec 56) (s : State) : ∃ outbox dark sent, hearRange d s =
    { s with outbox := outbox, silush := { s.silush with rangeCycle := true, dark := dark, rangeSent := sent } } := by
  rw [hearRange_eq]
  dsimp only
  split
  · exact ⟨_, _, _, rfl⟩
  · exact ⟨_, _, _, rfl⟩

/-- A RANGING or FAR engine that is named sends its ranging burst (R323). -/
theorem hearRange_sends (hn : d.toNat / 2 ^ 45 % 2 ^ 3 = s.reg Reg.silSlot) (hst : s.silSt = 2 ∨ s.silSt = 5) (hd : s.silush.dark = false) :
    (hearRange d s).outbox = .silush (s.silush.origin + 8704) (burstOf 0#56) :: s.outbox ∧
      (hearRange d s).silush.rangeSent = some (s.silush.origin + 8704) ∧ (hearRange d s).silSt = s.silSt := by
  have hdark : (rangeCycle s true).silush.dark = false := by
    unfold rangeCycle
    simp [hd]
  rw [hearRange_eq, decide_eq_true hn]
  dsimp only
  rw [if_pos ⟨rfl, hst, by rw [hdark]; rfl⟩]
  exact ⟨rfl, rfl, rfl⟩

/-- An engine that is not named stays dark. -/
theorem hearRange_unnamed (hn : d.toNat / 2 ^ 45 % 2 ^ 3 ≠ s.reg Reg.silSlot) :
    (hearRange d s).silush.dark = true ∧ (hearRange d s).outbox = s.outbox := by
  rw [hearRange_eq, decide_eq_false hn]
  dsimp only
  rw [if_neg (by simp)]
  exact ⟨Bool.or_true _, rfl⟩

end

end Sys2Proof.Machine
end

section
/-! SUPPORT. O54, from the lemmas about cycles and slot 0. -/

namespace Sys2Proof.Machine

theorem cycleStarts_outbox {s : State} (hk : s.silush.originKnown = true) (h : answersNow s) (hm : s.silush.slot0Seen = false) :
    ∃ (c : Nat) (data : BitVec 56), (closeCycle s).outbox.head? = some (.silush c (burstOf data)) ∧ data.extractLsb' 48 1 = 1#1 ∧
      (data.extractLsb' 49 1 = 1#1 ↔ s.mode = .held ∨ s.mode = .faulted) := by
  obtain ⟨c, busy, beat, hout, -⟩ := answer_sends h true
  have hclose : (closeCycle s).outbox = (answer s true).outbox := by
    rw [closeCycle_missed hm hk]
    rfl
  refine ⟨c, _, congrArg List.head? (hclose.trans hout), answerData_noQuery .., ?_⟩
  rw [answerData_notReady]
  cases s.mode <;> decide

theorem cycleStart_absentRun {s : State} (h1 : s.mode ≠ .off) (h2 : s.mode ≠ .boot) (hk : s.silush.originKnown = true) {k : Nat}
    (h8 : k < 8) : tabGet 0 (cycleStart s).silush.absentRun k = if k ∈ s.silush.seen then 0
      else if s.silush.rangeCycle = true ∧ k ≠ 0 then tabGet 0 s.silush.absentRun k else tabGet 0 s.silush.absentRun k + 1 := by
  obtain ⟨hsil, -, -⟩ := cycleStart_begins h1 h2 hk
  have hrun : (cycleStart s).silush.absentRun = (closeCycle s).silush.absentRun := by
    rw [hsil]
    rfl
  rw [hrun, (closeCycle_closes s).absentRun, tabGet_map_of_mem _ (List.mem_range.mpr h8)]
  simp [runAfter]

section
variable {s u : State} {origin seq : Nat} (hu : SlotHeard s u origin seq)
include hu

/-! #### BEAT (R322) -/

theorem beat_waits (b : Burst) (d : BitVec 56) : (answer (hearBeat b d u) false).silush.beatHeard =
      some (d.toNat / 2 ^ 48 % 64, d.toNat % 2 ^ 48, arrival s b) ∧ (answer (hearBeat b d u) false).silush.beatAge = 0 := by
  have harrival : arrival u b = arrival s b := by
    unfold arrival
    rw [hu.clocks]
  obtain ⟨_, _, _, h, -⟩ := answer_keeps (hearBeat b d u) false
  rw [h]
  unfold hearBeat
  rw [harrival, field_eq, field_eq, pow_zero, Nat.div_one]
  exact ⟨rfl, rfl⟩

theorem beat_hears (b : Burst) (d : BitVec 56) : hearsSlot0 (hearBeat b d u) origin seq := hu.hears

theorem beat_answers (h : answersNow s) (h64 : seq < 64) (b : Burst) (d : BitVec 56) : answeredSlot0 (answer (hearBeat b d u) false) seq := by
  have hn : answersNow (hearBeat b d u) := answersNow_of (hu.answersNow h) rfl rfl rfl
  obtain ⟨-, -, -, hseq⟩ := beat_hears hu b d
  exact answer_answers hn hseq h64

/-! #### PHASE (R30, R322, R348, R350) -/

theorem beatTaken_boundaryAt (n : Beat) : (beatTaken u).boundaryAt n = s.boundaryAt n := by
  have hb : (beatTaken u).beat = s.beat := hu.beat
  unfold State.boundaryAt
  rw [hb]

theorem beatTaken_nearestBoundary (c : Int) : nearestBoundary (beatTaken u) c = nearestBoundary s c := by
  have hb : (beatTaken u).beat = s.beat := hu.beat
  unfold nearestBoundary
  rw [hb]

theorem beatTaken_reg {r : Reg} {n : Nat} (h1 : Reg.silState.key 0 ≠ r.key n) (h2 : Reg.silAbsentMask.key 0 ≠ r.key n) :
    (beatTaken u).reg r n = s.reg r n := hu.reg r n h1 h2

theorem beatTaken_mode : (beatTaken u).mode = s.mode := hu.mode

theorem beatTaken_pairDisagrees (n : Beat) (c : Int) (period : Nat) :
    pairDisagrees (beatTaken u) n c period = true ↔ ¬ ((c - s.boundaryAt n).natAbs ≤ 2 ∧ period = s.beat.period) := by
  have hb : (beatTaken u).beat = s.beat := hu.beat
  unfold pairDisagrees
  rw [beatTaken_boundaryAt hu, hb]
  simp only [Bool.or_eq_true, decide_eq_true_eq, bne_iff_ne, ne_eq]
  omega

theorem beatTaken_pairNear (c : Int) (period : Nat) : pairNear (beatTaken u) c period ↔
    (c - nearestBoundary s c * s.beat.period - s.beat.at').natAbs ≤ 2 ∧ period = s.beat.period := by
  have hb : (beatTaken u).beat = s.beat := hu.beat
  unfold pairNear
  rw [beatTaken_nearestBoundary hu, hb]

theorem phase_agreed_answers (h : answersNow s) (h64 : seq < 64) : answeredSlot0 (answer (beatTaken u) false) seq := by
  have hn : answersNow (beatTaken u) := answersNow_of (hu.answersNow h) rfl rfl rfl
  obtain ⟨-, -, -, hseq⟩ := hu.hears
  exact answer_answers hn hseq h64

section
variable {n : Beat} {c : Int} {period : Nat} (hsrc : s.reg Reg.beatSource = 0) (hf : s.mode.flows = true)
include hsrc hf

/-- A pair that disagrees, or has a period under 16, leaves the count and is reported (R30). -/
theorem phase_disputed (h : period < 16 ∨ (s.beat.fresh = false ∧ ¬ ((c - s.boundaryAt n).natAbs ≤ 2 ∧ period = s.beat.period))) :
    let t := answer (pairHeard (beatTaken u) n c period (decide (16 ≤ period))) false
    t.beat = s.beat ∧ hearsSlot0 t origin seq ∧ t.reg Reg.beatMismatch = (s.reg Reg.beatMismatch + 1) % 2 ^ 32 ∧
      (s.links.emcys.length < 32 → ∃ e, t.links.emcys = s.links.emcys ++ [e] ∧ e.code = 0xFF20) := by
  have hpair : pairHeard (beatTaken u) n c period (decide (16 ≤ period)) = beatMismatch (beatTaken u) := by
    refine pairHeard_disputed ((beatTaken_reg hu (by decide) (by decide)).trans hsrc) ((beatTaken_mode hu).symm ▸ hf) ?_
    rcases h with h | ⟨hfresh, h⟩
    · exact .inl (decide_eq_false (by omega))
    · exact .inr ⟨(congrArg BeatCount.fresh hu.beat).trans hfresh, (beatTaken_pairDisagrees hu n c period).mpr h⟩
  obtain ⟨hbeat, hsil, hcount, hqueue⟩ := beatMismatch_counts (beatTaken u)
  have hlinks : (beatTaken u).links = s.links := hu.links
  have hhears : hearsSlot0 (beatMismatch (beatTaken u)) origin seq := by
    unfold hearsSlot0
    rw [hsil]
    exact hu.hears
  rw [hlinks] at hqueue
  rw [hpair]
  dsimp only
  rw [answer_beat, answer_reg, answer_links, hbeat, hcount, beatTaken_reg hu (by decide) (by decide)]
  exact ⟨hu.beat, answer_hears hhears, rfl, hqueue⟩

/-- A pair that agrees leaves the count. -/
theorem phase_agreed (h16 : 16 ≤ period) (hfresh : s.beat.fresh = false)
    (h : (c - s.boundaryAt n).natAbs ≤ 2 ∧ period = s.beat.period) :
    pairHeard (beatTaken u) n c period (decide (16 ≤ period)) = beatTaken u := by
  rw [decide_eq_true h16]
  refine pairHeard_agreed ((beatTaken_reg hu (by decide) (by decide)).trans hsrc) ((beatTaken_mode hu).symm ▸ hf)
    ((congrArg BeatCount.fresh hu.beat).trans hfresh) ?_
  rw [← Bool.not_eq_true, beatTaken_pairDisagrees hu, not_not]
  exact h

theorem phase_first (h16 : 16 ≤ period) (hfresh : s.beat.fresh = true) :
    pairHeard (beatTaken u) n c period (decide (16 ≤ period)) = takePair (beatTaken u) n c period := by
  rw [decide_eq_true h16]
  exact pairHeard_first ((beatTaken_reg hu (by decide) (by decide)).trans hsrc) ((beatTaken_mode hu).symm ▸ hf)
    ((congrArg BeatCount.fresh hu.beat).trans hfresh)

/-- The first pair after ARMED gives the count its number and phase (R350). -/
theorem phase_near (h16 : 16 ≤ period) (hfresh : s.beat.fresh = true)
    (h : (c - nearestBoundary s c * s.beat.period - s.beat.at').natAbs ≤ 2 ∧ period = s.beat.period) :
    let t := answer (pairHeard (beatTaken u) n c period (decide (16 ≤ period))) false
    t.beat.n = n - BitVec.ofInt 48 (nearestBoundary s c) ∧ t.beat.fresh = false ∧
      t.beat.at' = (c - nearestBoundary s c * s.beat.period).toNat ∧ t.mode = s.mode := by
  have hperiod : (beatTaken u).beat.period = s.beat.period := congrArg BeatCount.period hu.beat
  obtain ⟨hn, hfalse, hat, hmode⟩ := takePair_near (b := n) ((beatTaken_pairNear hu c period).mpr h)
  rw [beatTaken_nearestBoundary hu] at hn hat
  rw [hperiod] at hat
  rw [phase_first hu hsrc hf h16 hfresh]
  dsimp only
  rw [answer_beat, answer_mode]
  exact ⟨hn, hfalse, hat, hmode.trans (beatTaken_mode hu)⟩

/-- A first pair that moves the beat takes the engine to HELD with BEAT_MOVED (R30). -/
theorem phase_moved (h16 : 16 ≤ period) (hfresh : s.beat.fresh = true)
    (h : ¬ ((c - nearestBoundary s c * s.beat.period - s.beat.at').natAbs ≤ 2 ∧ period = s.beat.period)) :
    let t := answer (pairHeard (beatTaken u) n c period (decide (16 ≤ period))) false
    t.mode = .held ∧ t.reg Reg.idStateReason = 8 ∧ t.reg Reg.imgReason = 9 := by
  rw [phase_first hu hsrc hf h16 hfresh, takePair_moved (mt (beatTaken_pairNear hu c period).mp h)]
  dsimp only
  rw [answer_mode, answer_reg, answer_reg]
  exact ⟨(State.mode_setReg _ _ (by decide)).trans (enterHeld_mode ..),
    (State.reg_setReg_other _ _ (by decide)).trans (enterHeld_reason ..), State.reg_setReg_same ..⟩

end

/-- An activation that waits takes the pair's count, or ends (R348). -/
theorem phase_waited {n : Beat} {c : Int} {period : Nat} {i : ImagePlan} (hsrc : s.reg Reg.beatSource = 0) (hm : s.mode = .held)
    (hp : s.act.phase = 1) (h16 : 16 ≤ period) (hi : s.images.main = some i) :
    let t := answer (pairHeard (beatTaken u) n c period (decide (16 ≤ period))) false
    t.mode = .held ∧ (t.act.phase = 2 ∧ t.beat.on = true ∧ t.beat.period = period ∧ t.reg Reg.beatPeriod = period ∨
      t.act.phase = 0 ∧ (t.reg Reg.imgReason = 5 ∨ t.reg Reg.imgReason = 10)) := by
  have hpair : pairHeard (beatTaken u) n c period (decide (16 ≤ period)) = pairActivates (beatTaken u) n c period := by
    rw [decide_eq_true h16]
    exact pairHeard_waited ((beatTaken_reg hu (by decide) (by decide)).trans hsrc) ((beatTaken_mode hu).trans hm)
      ((congrArg Activation.phase hu.act).trans hp)
  obtain ⟨hmode, hends⟩ := pairActivates_ends (s := beatTaken u) ((congrArg Images.main hu.images).trans hi) n c period
  rw [hpair]
  dsimp only
  rw [answer_mode, answer_act, answer_beat, answer_reg, answer_reg]
  exact ⟨hmode.trans ((beatTaken_mode hu).trans hm), hends⟩

/-! #### RANGE (R323) -/

theorem range_hears (d : BitVec 56) : hearsSlot0 (answer (hearRange d u) false) origin seq ∧
    (answer (hearRange d u) false).silush.rangeCycle = true := by
  have hhears : hearsSlot0 u origin seq := hu.hears
  obtain ⟨_, _, _, hform⟩ := hearRange_form d u
  obtain ⟨_, _, _, hanswer, hseq⟩ := answer_keeps (hearRange d u) false
  have hr : hearsSlot0 (hearRange d u) origin seq := by
    rw [hform]
    exact hhears
  refine ⟨answer_hears hr, ?_⟩
  rw [hanswer, hform]

theorem range_sends {d : BitVec 56} (hn : d.toNat / 2 ^ 45 % 2 ^ 3 = s.reg Reg.silSlot) (hst : s.silSt = 2 ∨ s.silSt = 5)
    (hd : s.silush.dark = false) :
    (answer (hearRange d u) false).outbox = .silush (origin + 8704) (burstOf 0#56) :: s.outbox ∧
      (answer (hearRange d u) false).silush.rangeSent = some (origin + 8704) := by
  have hsame : u.silSt = s.silSt := hu.silSt_same (by omega)
  have hslot : u.reg Reg.silSlot = s.reg Reg.silSlot := hu.reg _ _ (by decide) (by decide)
  obtain ⟨horigin, -⟩ := hu.hears
  obtain ⟨hout, hsent, hstate⟩ := hearRange_sends (hn.trans hslot.symm) (hsame.symm ▸ hst) (hu.dark.trans hd)
  have hsilent : ¬ answersNow (hearRange d u) := fun h => by
    have h3 : s.silSt = 3 := hsame.symm.trans (hstate.symm.trans h.1)
    omega
  rw [answer_silent hsilent, hout, hsent, horigin, hu.outbox]
  exact ⟨rfl, rfl⟩

theorem range_unnamed {d : BitVec 56} (hn : d.toNat / 2 ^ 45 % 2 ^ 3 ≠ s.reg Reg.silSlot) :
    (answer (hearRange d u) false).silush.dark = true ∧ (answer (hearRange d u) false).outbox = s.outbox := by
  have hslot : u.reg Reg.silSlot = s.reg Reg.silSlot := hu.reg _ _ (by decide) (by decide)
  obtain ⟨hdark, hout⟩ := hearRange_unnamed (d := d) (s := u) (fun h => hn (h.trans hslot))
  have hsilent : ¬ answersNow (hearRange d u) := fun ⟨_, _, h⟩ => Bool.false_ne_true (h.symm.trans hdark)
  rw [answer_silent hsilent]
  exact ⟨hdark, hout.trans hu.outbox⟩

end

/-- Settles O54. That a RANGE cycle does not count towards ABSENT, and that NO_QUERY is judged where the next cycle starts, are the
model's choices (notes/assumptions/74.md). -/
theorem silushCyclesAndBroadcasts : Obligations.SilushCyclesAndBroadcasts := by
  unfold Obligations.SilushCyclesAndBroadcasts
  intro s b h0 h1 h2
  refine ⟨fun hk => ?cycle, fun d hd hp => ?slot0⟩
  case cycle =>
    have hexec : exec .silushCycleStart s = done s (cycleStart s) := rfl
    have hruns (k : Nat) (h8 : k < 8) := cycleStart_absentRun h1 h2 hk h8
    obtain ⟨hsil, hcycle, hout⟩ := cycleStart_begins h1 h2 hk
    have hclosed := closeCycle_closes s
    rw [hexec]
    generalize cycleStart s = t at hsil hcycle hout hruns ⊢
    have horigin : t.silush.origin = s.silush.origin + silCycle s := by
      rw [hsil]
      rfl
    refine done_leaves ⟨horigin, ?_, ?_, ?_, ?_, ?_, ?_, hruns, fun hs => ?_, fun hs h3 hsent hdark => ?_⟩ fun _ _ h => h
    · rw [hcycle, horigin]
    · rw [hsil]
      rfl
    · rw [hsil]
      rfl
    · rw [hsil]
      rfl
    · rw [hsil]
      exact hclosed.refusedNow
    · rw [hsil]
      rfl
    · rw [hout, closeCycle_heard hs]
      rfl
    · rw [hout]
      exact cycleStarts_outbox hk ⟨h3, hsent, hdark⟩ hs
  case slot0 =>
    intro kind seq hears answers
    have h64 : seq < 64 := Nat.mod_lt _ (by decide)
    have hburst {k : Nat} (hk : kind = k) (h3 : k ≠ 3) := slot0Burst_heard h0 h1 h2 hd hp hk h3
    have hu := slot0Heard_heard s (arrival s b - 512) seq
    refine ⟨fun hk => ?beat, fun hk h3 => ?other, fun q n h hk hb ha hq hz hsrc => ?phase, fun hk => ?range⟩
    case beat =>
      have hexec : exec (.slot0Beat b) s = done s (answer (hearBeat b d (slot0Heard s (arrival s b - 512) seq)) false) :=
        congrArg (done s) (hburst hk (by decide) (hearBeat b))
      rw [hexec]
      generalize slot0Heard s (arrival s b - 512) seq = u at hu
      obtain ⟨hwaits, hage⟩ := beat_waits hu b d
      refine done_leaves ⟨answer_hears (beat_hears hu b d), fun h3 hs hdk => beat_answers hu ⟨h3, hs, hdk⟩ h64 b d,
        (answer_beat ..).trans hu.beat, hwaits, hage, (answer_reg ..).trans hu.silSt, ?_⟩ fun _ _ h => h
      rw [answer_reg]
      exact hu.absent
    case other =>
      exact congrArg (done s) (slot0Burst_other h0 h1 h2 hd hp h3 hk (hearBeat b))
    case phase =>
      intro period c at' agrees k place near
      have hexec : exec (.slot0Phase b) s = done s (answer (hearPhase d (slot0Heard s (arrival s b - 512) seq)) false) :=
        congrArg (done s) (hburst hk (by decide) hearPhase)
      generalize slot0Heard s (arrival s b - 512) seq = u at hu hexec
      obtain ⟨hbu, hau⟩ := hu.beatHeard
      have hpair : hearPhase d u = pairHeard (beatTaken u) (BitVec.ofNat 48 n) c period (decide (16 ≤ period)) :=
        hearPhase_pairs (hbu.trans hb) (hau.trans ha) hq hz
      rw [hexec, hpair]
      refine done_leaves ⟨fun hf h => phase_disputed hu hsrc hf h, fun hf h16 hag hfresh => ?_,
        fun hf h16 hnear hfresh => phase_near hu hsrc hf h16 hfresh hnear, fun hf h16 hnear hfresh => phase_moved hu hsrc hf h16 hfresh hnear,
        fun i hm hph h16 hi => phase_waited hu hsrc hm hph h16 hi⟩ fun _ _ h => h
      rw [phase_agreed hu hsrc hf h16 hfresh hag]
      exact ⟨(answer_beat ..).trans hu.beat, answer_hears hu.hears, fun h3 hs hdk => phase_agreed_answers hu ⟨h3, hs, hdk⟩ h64,
        (answer_reg ..).trans (beatTaken_reg hu (by decide) (by decide))⟩
    case range =>
      have hexec : exec (.slot0Range b) s = done s (answer (hearRange d (slot0Heard s (arrival s b - 512) seq)) false) :=
        congrArg (done s) (hburst hk (by decide) hearRange)
      generalize slot0Heard s (arrival s b - 512) seq = u at hu hexec
      obtain ⟨hhears, hcycle⟩ := range_hears hu d
      rw [hexec]
      exact done_leaves ⟨hhears, hcycle, range_sends hu, range_unnamed hu⟩ fun _ _ h => h

end Sys2Proof.Machine
end

section
/-! SUPPORT. Receive lanes: what a lane and its objects read after each named operation (R64 to R80). -/

namespace Sys2Proof.Machine

/-! ### Units of a grade -/

theorem hasHarbour_lt {s : State} {h : Nat} (hh : s.hasHarbour h = true) : h < 16 := by
  unfold State.hasHarbour gradeHarbour at hh
  split at hh <;> simp only [Bool.or_eq_true, Bool.and_eq_true, decide_eq_true_eq] at hh <;> omega

theorem hasLane_lt {s : State} {l : Nat} (h : s.hasLane l = true) : l < 1024 := by
  have := hasHarbour_lt h
  omega

theorem hasXlane_lt {s : State} {x : Nat} (h : s.hasXlane x = true) : x < 256 := by
  have := hasHarbour_lt h
  omega

/-! ### A lane and its objects -/

@[simp] theorem State.lane_modLane_same (s : State) (l : Nat) (g : Lane → Lane) : (s.modLane l g).lane l = g (s.lane l) :=
  tabGet_tabSet_same ..

@[simp] theorem State.lane_setReg (s : State) (r : Reg) (n v l : Nat) : (s.setReg r n v).lane l = s.lane l := rfl
@[simp] theorem State.lane_count (s : State) (r : Reg) (n b k l : Nat) : (s.count r n b k).lane l = s.lane l := rfl
@[simp] theorem State.lane_setLaneSt (s : State) (l v k : Nat) : (s.setLaneSt l v).lane k = s.lane k := rfl
@[simp] theorem State.reg_modLane (s : State) (l : Nat) (g : Lane → Lane) (r : Reg) (n : Nat) : (s.modLane l g).reg r n = s.reg r n := rfl
@[simp] theorem State.laneSt_setLaneSt (s : State) (l v : Nat) : (s.setLaneSt l v).laneSt l = v := State.reg_setReg_same ..

/-- An object of a lane other than its state does not change with it. -/
theorem reg_setLaneSt (s : State) (l v : Nat) {r : Reg} (hb : r.base = 0x2800) (hs : r.sub ≠ 7) : (s.setLaneSt l v).reg r l = s.reg r l :=
  State.reg_setReg_other _ _ (slotKey_ne (r := Reg.laneState) hb.symm (Ne.symm hs) l)

theorem State.flag_true {s : State} {r : Reg} {n : Nat} (h : s.reg r n ≠ 0) : s.flag r n = true := bne_iff_ne.mpr h
theorem State.flag_false {s : State} {r : Reg} {n : Nat} (h : s.reg r n = 0) : s.flag r n = false := by simp [State.flag, h]

/-! ### Injected errors (R77) -/

/-- A lane on which no injected error waits gives what comes as it is, and stays as it is. -/
theorem takeInject_lane {s : State} {l : Nat} (h : (s.lane l).injectBits = 0) : (takeInject s l).2.lane l = s.lane l := by
  rw [takeInject, State.lane_modLane_same, ← h]

theorem flipSync_zero (hs : List (BitVec 2)) : flipSync hs 0 = hs := by cases hs <;> rfl

theorem flipSymbols_zero (xs : List Nat) : flipSymbols xs 0 = xs := by
  cases xs with
  | nil => rfl
  | cons x xs => simp [flipSymbols]

theorem flipBits_zero (bs : List Bool) : flipBits 0 bs = bs := by cases bs <;> rfl

theorem flipWord_zero (w : Word64) : flipWord w 0 = w := by simp [flipWord]

/-! ### A shoal that becomes DEGRADED or OVERFULL (R70, R72) -/

@[simp] theorem degrade_lane (s : State) (k : Nat) (b : Beat) (t l : Nat) : (degrade s k b t).lane l = s.lane l := by
  unfold degrade
  dsimp only
  split <;> rfl

@[simp] theorem overfill_lane (s : State) (k : Nat) (b : Beat) (t l : Nat) : (overfill s k b t).lane l = s.lane l := by
  unfold overfill
  dsimp only
  split <;> rfl

@[simp] theorem degradeHome_lane (s : State) (l k : Nat) : (degradeHome s l).lane k = s.lane k := by
  unfold degradeHome
  split <;> simp

/-- The counters of shoals stand above the objects of lanes. -/
theorem degradeHome_reg (s : State) (l : Nat) {r : Reg} {n : Nat} (h : r.key n < 0x2C0000) : (degradeHome s l).reg r n = s.reg r n := by
  have hk (k : Nat) : Reg.shoalDegradedBeats.key k ≠ r.key n := by
    have : 0x2C0000 ≤ Reg.shoalDegradedBeats.key k := by
      simp only [Reg.key, Reg.shoalDegradedBeats]
      omega
    omega
  unfold degradeHome degrade
  split
  · dsimp only
    split
    · exact State.reg_count_other _ _ _ (hk _)
    · rfl
  · rfl

theorem laneReg_low {r : Reg} (hb : r.base = 0x2800) (hs : r.sub < 256) {l : Nat} (hl : l < 1024) : r.key l < 0x2C0000 := by
  simp only [Reg.key, hb]
  omega

/-! ### Leaving ALIGNED, and the loss of signal and locks (Table 3.6) -/

@[simp] theorem leaveAligned_laneSt (s : State) (l st : Nat) : (leaveAligned s l st).laneSt l = st := State.laneSt_setLaneSt ..

theorem leaveAligned_lane (s : State) (l st : Nat) :
    ∃ leftAt, (leaveAligned s l st).lane l = { s.lane l with leftAt := leftAt, crcValid := false } := by
  have hx : (if s.laneSt l = lsAligned then degradeHome s l else s).lane l = s.lane l := by
    split
    · exact degradeHome_lane s l l
    · rfl
  unfold leaveAligned
  dsimp only
  rw [State.lane_setLaneSt, State.lane_modLane_same, hx]
  exact ⟨_, rfl⟩

theorem leaveAligned_reg (s : State) {l : Nat} (hl : l < 1024) (st : Nat) {r : Reg} (hb : r.base = 0x2800) (hs : r.sub < 256) (h7 : r.sub ≠ 7) :
    (leaveAligned s l st).reg r l = s.reg r l := by
  unfold leaveAligned
  dsimp only
  rw [reg_setLaneSt _ _ _ hb h7, State.reg_modLane]
  split
  · exact degradeHome_reg s l (laneReg_low hb hs hl)
  · rfl

/-- The objects of a lane that goes DOWN, but for the lock of its checker, are as leaving ALIGNED left them. -/
theorem laneDown_reg (s : State) (l : Nat) {r : Reg} (hb : r.base = 0x2800) (hs : r.sub ≠ 0x13) :
    (laneDown s l).reg r l = (leaveAligned s l lsDown).reg r l := by
  unfold laneDown
  rw [State.reg_setReg_other _ _ (slotKey_ne (r := Reg.lanePrbsLock) hb.symm (Ne.symm hs) l), State.reg_modLane]

theorem laneDown_laneSt (s : State) (l : Nat) : (laneDown s l).laneSt l = 0 :=
  (laneDown_reg s l rfl (by decide)).trans (leaveAligned_laneSt ..)

/-- A lane that goes DOWN has lost both locks; its signal is what it was. -/
theorem laneDown_lane (s : State) (l : Nat) : ((laneDown s l).lane l).signal = (s.lane l).signal ∧
    ((laneDown s l).lane l).blockLock = false ∧ ((laneDown s l).lane l).fecLock = false := by
  obtain ⟨leftAt, h⟩ := leaveAligned_lane s l lsDown
  unfold laneDown
  rw [State.lane_setReg, State.lane_modLane_same, h]
  exact ⟨rfl, rfl, rfl⟩

theorem laneDown_enable (s : State) {l : Nat} (hl : l < 1024) : (laneDown s l).reg Reg.laneEnable l = s.reg Reg.laneEnable l :=
  (laneDown_reg s l rfl (by decide)).trans (leaveAligned_reg s hl _ rfl (by decide) (by decide))

/-- Loss of block or FEC lock takes MARKER_HUNT to WAIT_HOST to BLOCK_HUNT; the locks are as the loss left them. -/
theorem loseLock_hunts {s : State} {l : Nat} (h2 : 2 ≤ s.laneSt l) (h6 : s.laneSt l ≤ 6) : (loseLock s l).laneSt l = 1 ∧
    ((loseLock s l).lane l).blockLock = (s.lane l).blockLock ∧ ((loseLock s l).lane l).fecLock = (s.lane l).fecLock := by
  obtain ⟨leftAt, h⟩ := leaveAligned_lane s l lsBlockHunt
  have hx : loseLock s l = (leaveAligned s l lsBlockHunt).modLane l Lane.unframed :=
    congrArg (fun t : State => t.modLane l Lane.unframed) (if_pos ⟨h2, h6⟩)
  rw [hx, State.lane_modLane_same, h]
  exact ⟨leaveAligned_laneSt .., rfl, rfl⟩

/-! ### DOWN and BLOCK_HUNT go onward (Table 3.6, R75, R80) -/

@[simp] theorem laneOnward_lane (s : State) (l k : Nat) : (laneOnward s l).lane k = s.lane k := by
  unfold laneOnward
  dsimp only
  rw [apply_ite (fun t : State => t.lane k), State.lane_setLaneSt, ite_self, apply_ite (fun t : State => t.lane k), State.lane_setLaneSt, ite_self]

/-- An enabled lane that is DOWN goes to BLOCK_HUNT when it sees a signal, and one of role PRBS to PRBS. -/
theorem laneOnward_down {s : State} {l : Nat} (hst : s.laneSt l = 0) (he : s.reg Reg.laneEnable l ≠ 0) (hs : (s.lane l).signal = true)
    (hb : (s.lane l).blockLock = false) : laneOnward s l = s.setLaneSt l (if s.reg Reg.laneRole l = 2 then 7 else 1) := by
  have hgo : s.laneSt l = lsDown ∧ s.flag Reg.laneEnable l = true ∧ (s.lane l).signal = true := ⟨hst, State.flag_true he, hs⟩
  unfold laneOnward
  simp only [hgo, and_self, ↓reduceIte, hb, Bool.false_eq_true, false_and, and_false]
  rfl

/-- BLOCK_HUNT with block lock, and FEC lock where the lane has FEC, goes to MARKER_HUNT. -/
theorem laneOnward_hunt {s : State} {l : Nat} (hst : s.laneSt l = 1) (hb : (s.lane l).blockLock = true)
    (hf : s.reg Reg.laneFec l = 0 ∨ (s.lane l).fecLock = true) : laneOnward s l = s.setLaneSt l 2 := by
  have hfec : (!s.flag Reg.laneFec l) = true ∨ (s.lane l).fecLock = true := hf.imp_left fun h => by simp [State.flag_false h]
  unfold laneOnward
  simp only [hst, lsDown, lsBlockHunt, one_ne_zero, false_and, ↓reduceIte, hb, hfec, and_self]
  rfl

end Sys2Proof.Machine
end

section
/-! SUPPORT. Signal and locks of a lane, and the writes of LANE_ENABLE (R66, R75, R265, R266, R399). -/

namespace Sys2Proof.Machine

/-! ### Block and FEC lock -/

theorem gainsBlockLock_of_valid {hs : List (BitVec 2)} (h64 : hs.length = 64) (h : ∀ x ∈ hs, x = 1#2 ∨ x = 2#2) : gainsBlockLock hs = true := by
  simp only [gainsBlockLock, h64, le_refl, decide_true, Nat.sub_self, List.drop_zero, Bool.true_and, List.all_eq_true]
  exact fun x hx => by simpa [syncOk] using h x hx

theorem losesBlockLock_of_invalid {hs : List (BitVec 2)} (h64 : hs.length = 64)
    (h : 16 ≤ (hs.filter fun x => x == 0#2 || x == 3#2).length) : losesBlockLock hs = true := by
  have hbad : (fun x : BitVec 2 => !syncOk x) = fun x => x == 0#2 || x == 3#2 := funext (by decide)
  rw [losesBlockLock, List.take_of_length_le h64.le, hbad]
  exact decide_eq_true h

theorem gainsFecLock_of_clean {xs : List (List Nat)} (h4 : xs.length = 4) (h : ∀ x ∈ xs, isClean x = true) : gainsFecLock xs = true := by
  simp only [gainsFecLock, h4, le_refl, decide_true, Nat.sub_self, List.drop_zero, Bool.true_and, List.all_eq_true]
  exact h

section
variable {s : State} {l : Nat}

theorem blockLocks_gains (hi : (s.lane l).injectBits = 0) (hst : s.laneSt l = 1) (hs : (s.lane l).signal = true)
    (hf : s.reg Reg.laneFec l = 0 ∨ (s.lane l).fecLock = true) {hs' : List (BitVec 2)} (hg : gainsBlockLock hs' = true) :
    ((blockLocks s l hs').lane l).blockLock = true ∧ (blockLocks s l hs').laneSt l = 2 := by
  have hfec : (!s.flag Reg.laneFec l) = true ∨ (s.lane l).fecLock = true := hf.imp_left fun h => by simp [State.flag_false h]
  have hx : blockLocks s l hs' = laneOnward ((takeInject s l).2.modLane l fun x => { x with blockLock := true }) l :=
    if_pos ⟨by rw [takeInject, hi, flipSync_zero, hg], hs, hfec⟩
  have hlane : ((takeInject s l).2.modLane l fun x => { x with blockLock := true }).lane l = { s.lane l with blockLock := true } := by
    rw [State.lane_modLane_same, takeInject_lane hi]
  have hgo := laneOnward_hunt (s := (takeInject s l).2.modLane l fun x => { x with blockLock := true }) hst (by rw [hlane])
    (by rw [hlane]; exact hf)
  rw [hx, laneOnward_lane, hlane, hgo]
  exact ⟨rfl, State.laneSt_setLaneSt ..⟩

theorem blockUnlocks_loses (hi : (s.lane l).injectBits = 0) (h2 : 2 ≤ s.laneSt l) (h6 : s.laneSt l ≤ 6) {hs : List (BitVec 2)}
    (hb : losesBlockLock hs = true) : ((blockUnlocks s l hs).lane l).blockLock = false ∧ (blockUnlocks s l hs).laneSt l = 1 := by
  have hx : blockUnlocks s l hs = loseLock ((takeInject s l).2.modLane l fun x => { x with blockLock := false }) l :=
    if_pos (by rw [takeInject, hi, flipSync_zero, hb])
  obtain ⟨hst, hlock, -⟩ := loseLock_hunts (s := (takeInject s l).2.modLane l fun x => { x with blockLock := false }) h2 h6
  rw [hx]
  exact ⟨hlock.trans (by rw [State.lane_modLane_same]), hst⟩

theorem fecLocks_gains (hi : (s.lane l).injectBits = 0) (hf : s.reg Reg.laneFec l ≠ 0) (hst : s.laneSt l = 1) (hs : (s.lane l).signal = true)
    {xs : List (List Nat)} (hg : gainsFecLock xs = true) :
    fecLocks s l xs = (takeInject s l).2.modLane l fun x => { x with fecLock := true, blockLock := false, fecBad := 0 } := by
  refine if_pos ⟨State.flag_true hf, hs, hst, ?_⟩
  rw [takeInject, hi]
  cases xs with
  | nil => exact hg
  | cons x xs => exact (congrArg (fun y => gainsFecLock (y :: xs)) (flipSymbols_zero x)).trans hg

theorem fecUnlocks_loses (hf : s.reg Reg.laneFec l ≠ 0) (h8 : 8 ≤ (s.lane l).fecBad) (h2 : 2 ≤ s.laneSt l) (h6 : s.laneSt l ≤ 6) :
    ((fecUnlocks s l).lane l).fecLock = false ∧ ((fecUnlocks s l).lane l).blockLock = false ∧ (fecUnlocks s l).laneSt l = 1 := by
  have hx : fecUnlocks s l = loseLock (s.modLane l fun x => { x with fecLock := false, blockLock := false }) l :=
    if_pos ⟨State.flag_true hf, h8⟩
  obtain ⟨hst, hblock, hfec⟩ := loseLock_hunts (s := s.modLane l fun x => { x with fecLock := false, blockLock := false }) h2 h6
  rw [hx]
  exact ⟨hfec.trans (by rw [State.lane_modLane_same]), hblock.trans (by rw [State.lane_modLane_same]), hst⟩

end

/-! ### Writes of an object of a lane -/

theorem indexIn_iff {index base n : Nat} : indexIn index base n = true ↔ base ≤ index ∧ index < base + n := by simp [indexIn]

theorem lane_present {s : State} {l : Nat} (h : s.hasLane l = true) : unitPresent s (0x2800 + l) = true := by
  have hl := hasLane_lt h
  rw [unitPresent, if_pos (indexIn_iff.mpr (by omega)), Nat.add_sub_cancel_left, h]

theorem xlane_present {s : State} {x : Nat} (h : s.hasXlane x = true) : unitPresent s (0x2D00 + x) = true := by
  have hx := hasXlane_lt h
  rw [unitPresent, if_neg (by rw [indexIn_iff]; omega), if_neg (by rw [indexIn_iff]; omega), if_pos (indexIn_iff.mpr (by omega)),
    Nat.add_sub_cancel_left, h]

/-- A row holds its own subindex at each of its units. -/
theorem ObjRow.holds_unit {r : ObjRow} {n : Nat} (hn : n < r.units) (hs : 0 < r.subs) : r.holds (r.reg.base + n) r.reg.sub = true := by
  simp [ObjRow.holds, hn, hs]

/-- A write of a number that the state of the engine or the access right refuses counts, and answers its code (R266). -/
theorem hostWrites_refused {b : BootInputs} {s : State} {r : ObjRow} {index sub c : Nat} {bs : List Byte} (hm : s.mode ≠ .off)
    (hf : findObject s index sub = .object r) (hd : r.isDomain = false) (hw : writeState s r = c) (hc : c ≠ scOk) :
    hostWrites b index sub bs s = (s.count Reg.odWritesRefused 0).emit (.status c) := by
  subst hw
  simp only [hostWrites, hm, ↓reduceIte, objectWrite, hf, hd, Bool.false_eq_true, numberWrite, hc, ne_eq, not_false_eq_true, refuseWrite]

/-- The row of LANE_ENABLE in the table of objects. -/
def laneEnableRow : ObjRow := ⟨Reg.laneEnable, 1024, 1, .boolean, .rwHeld, .range 0 1⟩

theorem laneEnableRow_mem : laneEnableRow ∈ objRows := by decide +kernel

theorem ownerWrite_laneEnable (b : BootInputs) (l v : Nat) (s : State) : ownerWrite b Reg.laneEnable l 0 v s =
    (scOk, laneWritten (s.setReg Reg.laneEnable l v) l 1 (s.reg Reg.laneEnable l) v) := by
  rw [ownerWrite_stores (by decide), storeWrite'_stores (by rfl)]
  rfl

section
variable {s : State} {l : Nat} (hl : s.hasLane l = true)
include hl

/-- In HELD with no activation under way LANE_ENABLE takes 0 and 1 (R265, R266). -/
theorem exec_laneEnable (hm : s.mode = .held) (ha : s.act.phase = 0) {v : Byte} (hv : v.toNat ≤ 1) : exec (.laneConfigWrite l 1 [v]) s =
    done s ((laneWritten (s.setReg Reg.laneEnable l v.toNat) l 1 (s.reg Reg.laneEnable l) v.toNat).emit (.status 0)) := by
  have hlt := hasLane_lt hl
  have hexec : exec (.laneConfigWrite l 1 [v]) s = onUnit (decide (l < 1024)) s (hostWrite (0x2800 + l) 1 [v] s) := rfl
  have hunit : laneEnableRow.unit (0x2800 + l) = l := Nat.add_sub_cancel_left ..
  have hval : leNat [v] = v.toNat := rfl
  have hx : hostWrite (0x2800 + l) 1 [v] s =
      (laneWritten (s.setReg Reg.laneEnable l v.toNat) l 1 (s.reg Reg.laneEnable l) v.toNat).emit (.status 0) := by
    refine hostWrite_accepted laneEnableRow_mem (ObjRow.holds_unit hlt (by decide)) (lane_present hl) (by simp [hm]) rfl
      (if_pos ⟨hm, ha⟩) rfl ?_ ?_
    · simpa [laneEnableRow, Check.ok, hval] using hv
    · rw [hunit, hval]
      exact ownerWrite_laneEnable ..
  rw [hexec, hx]
  exact onUnit_present s _ (decide_eq_true hlt)

/-- Outside HELD a write of LANE_ENABLE is refused with STATE (R265, R266). -/
theorem exec_laneEnable_refused (hm : s.mode ≠ .held) (ho : s.mode ≠ .off) (v : Byte) : exec (.laneConfigWrite l 1 [v]) s =
    done s ((s.count Reg.odWritesRefused 0).emit (.status 0x08000022)) := by
  have hlt := hasLane_lt hl
  have hexec : exec (.laneConfigWrite l 1 [v]) s = onUnit (decide (l < 1024)) s (hostWrite (0x2800 + l) 1 [v] s) := rfl
  have hfound : findObject s (0x2800 + l) 1 = .object laneEnableRow :=
    findObject_of_mem laneEnableRow_mem (ObjRow.holds_unit hlt (by decide)) (lane_present hl)
  have hstate : writeState s laneEnableRow = scState := if_neg fun h => hm h.1
  rw [hexec, hostWrite, hostWrites_refused ho hfound rfl hstate (by decide)]
  exact onUnit_present s _ (decide_eq_true hlt)

end

section
variable {s : State} {l : Nat}

/-- Enabled, a lane that is DOWN with a signal goes onward by its role (R66). -/
theorem laneWritten_on (hst : s.reg Reg.laneState l = 0) (hs : (s.lane l).signal = true) (hb : (s.lane l).blockLock = false) (old : Nat) :
    (laneWritten (s.setReg Reg.laneEnable l 1) l 1 old 1).reg Reg.laneEnable l = 1 ∧
      (laneWritten (s.setReg Reg.laneEnable l 1) l 1 old 1).reg Reg.laneState l = if s.reg Reg.laneRole l = 2 then 7 else 1 := by
  have hkept {r : Reg} (hr : r.base = 0x2800) (h1 : 1 ≠ r.sub) : (s.setReg Reg.laneEnable l 1).reg r l = s.reg r l :=
    State.reg_setReg_other _ _ (slotKey_ne (r := Reg.laneEnable) hr.symm h1 l)
  have hx : laneWritten (s.setReg Reg.laneEnable l 1) l 1 old 1 = laneOnward (s.setReg Reg.laneEnable l 1) l := rfl
  rw [hx, laneOnward_down ((hkept rfl (by decide)).trans hst) (by rw [State.reg_setReg_same]; decide) hs hb, hkept rfl (by decide)]
  exact ⟨(reg_setLaneSt _ _ _ rfl (by decide)).trans (State.reg_setReg_same ..), State.reg_setReg_same ..⟩

/-- Disabled, a lane goes DOWN whatever its state (R66). -/
theorem laneWritten_off (hl : l < 1024) (old : Nat) : (laneWritten (s.setReg Reg.laneEnable l 0) l 1 old 0).reg Reg.laneEnable l = 0 ∧
    (laneWritten (s.setReg Reg.laneEnable l 0) l 1 old 0).reg Reg.laneState l = 0 :=
  ⟨(laneDown_enable _ hl).trans (State.reg_setReg_same ..), laneDown_laneSt ..⟩

end

/-- Settles O9. -/
theorem laneLocksAndEnables : Obligations.LaneLocksAndEnables := by
  unfold Obligations.LaneLocksAndEnables
  refine ⟨fun s l hl => ⟨?signal, ?loss, ?block, ?blockLoss, ?fec, ?fecLoss⟩, fun s l hl => ⟨fun hm ha => ⟨?on, ?off⟩, ?refused⟩⟩
  case signal =>
    intro hp he hst hb
    have hlane : (s.modLane l fun x => { x with signal := s.lanePowered l }).lane l = { s.lane l with signal := true } := by
      rw [State.lane_modLane_same, hp]
    have hon := laneOnward_down (s := s.modLane l fun x => { x with signal := s.lanePowered l }) (l := l) hst he
      (by rw [hlane]) (by rw [hlane]; exact hb)
    refine onUnit_leaves hl (t := laneOnward (s.modLane l fun x => { x with signal := s.lanePowered l }) l) ⟨?_, ?_⟩ fun _ _ h => h
    · rw [laneOnward_lane, hlane]
    · rw [hon]
      exact State.laneSt_setLaneSt ..
  case loss =>
    obtain ⟨hs, hb, hf⟩ := laneDown_lane (s.modLane l fun x => { x with signal := false }) l
    exact onUnit_leaves hl ⟨laneDown_laneSt .., hs.trans (by rw [State.lane_modLane_same]), hb, hf⟩ fun _ _ h => h
  case block =>
    intro hst hs hf hs' h64 hv hi
    exact onUnit_leaves hl (blockLocks_gains hi hst hs hf (gainsBlockLock_of_valid h64 hv)) fun _ _ h => h
  case blockLoss =>
    intro h2 h6 hi hs h64 h16
    exact onUnit_leaves hl (blockUnlocks_loses hi h2 h6 (losesBlockLock_of_invalid h64 h16)) fun _ _ h => h
  case fec =>
    intro xs hf hst hs hi h4 hc
    have hx := fecLocks_gains hi hf hst hs (gainsFecLock_of_clean h4 hc)
    refine onUnit_leaves hl (t := fecLocks s l xs) ?_ fun _ _ h => h
    rw [hx, State.lane_modLane_same]
    exact ⟨rfl, rfl, hst⟩
  case fecLoss =>
    intro hf h8 h2 h6
    exact onUnit_leaves hl (fecUnlocks_loses hf h8 h2 h6) fun _ _ h => h
  case on =>
    intro hst hs hb
    rw [exec_laneEnable hl hm ha (v := 1#8) (by decide)]
    exact done_emit_leaves (laneWritten_on hst hs hb _) fun _ _ _ h => h
  case off =>
    rw [exec_laneEnable hl hm ha (v := 0#8) (by decide)]
    exact done_emit_leaves (laneWritten_off (hasLane_lt hl) _) fun _ _ _ h => h
  case refused =>
    intro v hm ho
    have hkey : Reg.odWritesRefused.key 0 ≠ Reg.laneEnable.key l := by
      simp only [Reg.key, Reg.odWritesRefused, Reg.laneEnable]
      omega
    rw [exec_laneEnable_refused hl hm ho v]
    exact ⟨_, rfl, State.reg_count_other _ _ _ hkey, State.reg_count_same .., rfl⟩

end Sys2Proof.Machine
end

section
/-! SUPPORT. Headers, markers, words and fill as they land on a receive lane (R57, R58, R62, R66). -/

namespace Sys2Proof.Machine

/-! ### What a block does on a lane where no injected error waits -/

section
variable {s : State} {l : Nat} (hi : (s.lane l).injectBits = 0)
include hi

theorem exec_beatHeader (w : Word64) (age : Nat) :
    exec (.beatHeader l w age) s = onUnit (s.hasLane l) s (beatBlock (takeInject s l).2 l w (s.stampAt age 64)) :=
  congrArg (onUnit _ s) (if_pos hi)

theorem exec_alignMarker (a : Word64) (b : Option Word64) (age : Nat) :
    exec (.alignMarker l a b age) s = onUnit (s.hasLane l) s (alignBlock (takeInject s l).2 l a b (s.stampAt age 64)) :=
  congrArg (onUnit _ s) (if_pos hi)

theorem exec_fillBlock : exec (.fillBlock l) s = onUnit (s.hasLane l) s (takeInject s l).2 := congrArg (onUnit _ s) (if_pos hi)

/-- A data block of a lane that is no ferry and not in PRBS lands as a word. -/
theorem exec_dataBlock (hst : s.laneSt l ≠ 7) (hr : s.reg Reg.laneRole l ≠ 1) (w : Word64) :
    exec (.dataBlock l (.data w)) s = onUnit (s.hasLane l) s (landWord (takeInject s l).2 l w false) := by
  have hland : landBlock (takeInject s l).2 l (s.lane l).injectBits (.data w) =
      dataWord (takeInject s l).2 l (flipWord w (s.lane l).injectBits) false := if_neg hst
  have hword : dataWord (takeInject s l).2 l w false = landWord (takeInject s l).2 l w false := if_neg hr
  refine congrArg (onUnit _ s) (hland.trans ?_)
  rw [hi, flipWord_zero, hword]

end

/-! ### Headers (R62, R66) -/

/-- The header that is accepted opens its beat: no word of it has come, and its CRC starts anew. -/
theorem openBeat_opens (s : State) (l : Nat) (p : ShoalPlan) (b : Beat) (declared : Nat) (stamp : Time96) :
    ((openBeat s l p b declared stamp).lane l).beat = some b ∧ ((openBeat s l p b declared stamp).lane l).count = 0 ∧
      ((openBeat s l p b declared stamp).lane l).declared = declared ∧ ((openBeat s l p b declared stamp).lane l).crc = 0xFFFF ∧
      ((openBeat s l p b declared stamp).lane l).crcValid = true := by
  have hx : (openBeat s l p b declared stamp).lane l = { s.lane l with
      beat := some b, declared := declared, count := 0, crc := 0xFFFF, crcValid := true,
      stamps := (b, portStamp s l stamp) :: (s.lane l).stamps.filter fun y => decide (0 ≤ beatDiff y.1 s.beat.n) } := by
    unfold openBeat
    split
    · rw [degrade_lane, State.lane_count, State.lane_modLane_same]
    · split
      · rw [overfill_lane, State.lane_modLane_same]
      · rw [State.lane_modLane_same]
  rw [hx]
  exact ⟨rfl, rfl, rfl, rfl, rfl⟩

section
variable {s : State} {l : Nat} {p : ShoalPlan} {pos : Nat} (hh : s.laneHome l = some (p, pos))
include hh

/-- A header on an ALIGNED lane that names the next beat closes the beat before it and opens its own. -/
theorem beatBlock_next {w : Word64} {b : Beat} (hb : rebuildBeat s.beat.n (w.extractLsb' 40 16) = b) (hst : s.laneSt l = 4)
    (hm : isMarkerBeat p b = false) (h1 : 1 ≤ beatDiff b s.beat.n) (h64 : beatDiff b s.beat.n ≤ 64)
    (hn : (s.lane l).beat = some (b - 1#48)) (stamp : Time96) : beatBlock s l w stamp =
      openBeat (closeBeat s l p (field w.toNat 0 16)) l p b (field w.toNat 16 16) stamp := by
  subst hb
  have hacc : (headerAccepted s (rebuildBeat s.beat.n (w.extractLsb' 40 16)) &&
      isNextHeader s l (rebuildBeat s.beat.n (w.extractLsb' 40 16))) = true := by
    simp only [headerAccepted, isNextHeader, h1, h64, hn, decide_true, beq_self_eq_true, Bool.and_self]
  unfold beatBlock
  simp only [hh, hst, lsVerify, lsPrbs, lsAligned, hm, hacc, ↓reduceIte, Nat.reduceLT, Nat.reduceEqDiff, or_self, Bool.false_eq_true, ne_eq,
    not_true_eq_false]

/-- A consistent marker pair in MARKER_HUNT moves the lane to VERIFY (Table 3.6). -/
theorem alignBlock_hunting {a b : Word64} (hst : s.laneSt l = 2) (hk : field a.toNat 48 8 = p.shoal) (hp : field b.toNat 50 6 = pos)
    (hm : isMarkerBeat p (a.extractLsb' 0 48) = true) (h1 : 1 ≤ beatDiff (a.extractLsb' 0 48) s.beat.n)
    (h64 : beatDiff (a.extractLsb' 0 48) s.beat.n ≤ 64) (stamp : Time96) :
    alignBlock s l a (some b) stamp = (s.modLane l fun x => { x with verify := 0 }).setLaneSt l lsVerify := by
  have hok : markerOk s l p pos a (some b) = true := by
    simp [markerOk, headerAccepted, hk, hp, h1, h64, hm, hst, lsAligned]
  unfold alignBlock
  simp only [hh, hst, lsMarkerHunt, lsPrbs, hok, ↓reduceIte, lt_self_iff_false, Nat.reduceEqDiff, or_self]
  exact if_pos hst

/-! ### Words (R57, R62) -/

/-- A good word on an ALIGNED lane counts, enters the CRC, and stands behind the words that have landed, while the beat has fewer than
W words and the buffer fewer than 512. -/
theorem landWord_lands {b : Beat} (hst : s.laneSt l = 4) (hb : (s.lane l).beat = some b) (hc : (s.lane l).count < p.width)
    (hw : (s.lane l).words.length < 512) (w : Word64) : (landWord s l w false).lane l = { s.lane l with
      count := (s.lane l).count + 1, crc := crc16Bits (s.lane l).crc w.toNat 64,
      words := (s.lane l).words ++ [{ beat := b, idx := (s.lane l).count, data := w, bad := false, at' := s.clocks.cycle }] } := by
  have hwide : ¬ p.width ≤ (s.lane l).count := by omega
  have hroom : ¬ 512 ≤ (s.lane l).words.length := by omega
  unfold landWord
  simp only [hh, hb, hst, lsAligned, ne_eq, not_true_eq_false, ↓reduceIte, Bool.false_eq_true, false_and, hwide, hroom,
    State.lane_modLane_same, Nat.add_sub_cancel]

end

/-- Settles O10. -/
theorem laneBlocksLand : Obligations.LaneBlocksLand := by
  unfold Obligations.LaneBlocksLand
  intro s l p pos hl hh hi
  have hlane := takeInject_lane hi
  refine ⟨fun w age hst => ?header, fun a b age hst hk hp hm h1 h64 => ?marker, fun w b hst hr hb hc hw => ?data, ?fill⟩
  case header =>
    intro b hm h1 h64 hn
    rw [exec_beatHeader hi, beatBlock_next (s := (takeInject s l).2) hh rfl hst hm h1 h64 (by rw [hlane]; exact hn)]
    exact onUnit_leaves hl (openBeat_opens ..) fun _ _ h => h
  case marker =>
    rw [exec_alignMarker hi, alignBlock_hunting (s := (takeInject s l).2) hh hst hk hp hm h1 h64]
    refine onUnit_leaves hl ⟨State.laneSt_setLaneSt .., ?_⟩ fun _ _ h => h
    rw [State.lane_setLaneSt, State.lane_modLane_same]
  case data =>
    have hst7 : s.laneSt l ≠ 7 := fun h => absurd (hst.symm.trans h) (by decide)
    have hland := landWord_lands (s := (takeInject s l).2) hh hst (by rw [hlane]; exact hb) (by rw [hlane]; exact hc) (by rw [hlane]; exact hw) w
    rw [hlane] at hland
    rw [exec_dataBlock hi hst7 hr]
    refine onUnit_leaves hl (t := landWord (takeInject s l).2 l w false) ?_ fun _ _ h => h
    rw [hland]
    exact ⟨rfl, rfl, rfl⟩
  case fill =>
    rw [exec_fillBlock hi]
    refine onUnit_leaves hl (t := (takeInject s l).2) ?_ fun _ _ h => h
    rw [hlane]
    exact ⟨rfl, rfl⟩

end Sys2Proof.Machine
end

section
/-! SUPPORT. Injected errors and pattern checkers of a lane (R76, R77). -/

namespace Sys2Proof.Machine

/-! ### Injected errors -/

/-- The bits that one injected error flips: a burst where bit 2 of the mode says so. -/
def injectWidth (s : State) (tx : Bool) (l : Nat) : Nat := if bit (injectMode s tx l) 2 then 8 else 1

theorem injectError_rx (s : State) (l : Nat) : (injectError s false l).lane l =
    { s.lane l with injectBits := injectWidth s false l, injectCount := (s.lane l).injectCount + 1 } := by
  simp only [injectError, Bool.false_eq_true, ↓reduceIte, State.lane_modLane_same, injectWidth]

theorem injectError_tx (s : State) (l : Nat) : (injectError s true l).xlane l = { s.xlane l with inject := injectWidth s true l } :=
  tabGet_tabSet_same ..

theorem injectError_outbox (s : State) (tx : Bool) (l : Nat) : (injectError s tx l).outbox = s.outbox := by cases tx <;> rfl

/-- The row of LANE_INJECT_FIRE of a transmit or a receive lane. -/
def injectFireRow (tx : Bool) : ObjRow :=
  if tx then ⟨Reg.xlaneInjectFire, 256, 1, .unsigned 1, .wo, .any⟩ else ⟨Reg.laneInjectFire, 1024, 1, .unsigned 1, .wo, .any⟩

theorem injectFireRow_mem (tx : Bool) : injectFireRow tx ∈ objRows := by cases tx <;> decide +kernel

theorem ownerWrite_injectFire (b : BootInputs) (tx : Bool) (l k : Nat) (s : State) :
    ownerWrite b (injectFireRow tx).reg l k 1 s = (scOk, injectFired s tx l) := by cases tx <;> rfl

section
variable {s : State} {tx : Bool} {l : Nat} (hl : (if tx then s.hasXlane l else s.hasLane l) = true)
include hl

theorem lane_numbered : l < if tx then 256 else 1024 := by
  cases tx with
  | false => exact hasLane_lt hl
  | true => exact hasXlane_lt hl

theorem injectFire_present : unitPresent s ((injectFireRow tx).reg.base + l) = true := by
  cases tx with
  | false => exact lane_present hl
  | true => exact xlane_present hl

/-- A write of 1 to LANE_INJECT_FIRE in mode SINGLE injects one error (R77). -/
theorem exec_laneInjectFire (hm : s.mode.online = true) (h1 : injectMode s tx l % 4 = 1) :
    exec (.laneInjectFire tx l [1#8]) s = done s ((injectError s tx l).emit (.status 0)) := by
  have hlt := lane_numbered hl
  have hunits : (injectFireRow tx).units = if tx then 256 else 1024 := by cases tx <;> rfl
  have hsubs : 0 < (injectFireRow tx).subs := by cases tx <;> decide
  have hunit : (injectFireRow tx).unit ((injectFireRow tx).reg.base + l) = l := Nat.add_sub_cancel_left ..
  have hexec : exec (.laneInjectFire tx l [1#8]) s = onUnit (decide (l < if tx then 256 else 1024)) s
      (hostWrite ((injectFireRow tx).reg.base + l) (injectFireRow tx).reg.sub [1#8] s) := by cases tx <;> rfl
  have hfired : injectFired s tx l = injectError s tx l := if_pos h1
  have hx : hostWrite ((injectFireRow tx).reg.base + l) (injectFireRow tx).reg.sub [1#8] s = (injectError s tx l).emit (.status 0) := by
    refine hostWrite_accepted (injectFireRow_mem tx) (ObjRow.holds_unit (hunits ▸ hlt) hsubs) (injectFire_present hl)
      (Mode.ne_off_of_online hm) ?_ ?_ ?_ ?_ ?_
    · cases tx <;> rfl
    · cases tx <;> exact if_pos (.inl hm)
    · cases tx <;> rfl
    · cases tx <;> rfl
    · rw [hunit, ← hfired]
      exact ownerWrite_injectFire ..
  rw [hexec, hx]
  exact onUnit_present s _ (decide_eq_true hlt)

end

/-! ### Periods of injected errors -/

theorem State.runTo_lanes (s : State) (c : Nat) : (s.runTo c).lanes = s.lanes := by
  unfold State.runTo State.advance
  dsimp only
  split
  · rfl
  · exact foldl_keep State.lanes _ (fun t h => (rfl : (groupTick _ t h).lanes = t.lanes)) _ _

@[simp] theorem State.lane_runTo (s : State) (c l : Nat) : (s.runTo c).lane l = s.lane l := by
  rw [State.lane, State.runTo_lanes, State.lane]

/-- The objects of lanes do not change as time passes. -/
theorem injectMode_runTo {s : State} {tx : Bool} {l : Nat} (hl : l < if tx then 256 else 1024) (c : Nat) :
    injectMode (s.runTo c) tx l = injectMode s tx l := by
  refine (ForgesKept.runTo s c).reg _ l ?_
  cases tx with
  | false =>
    have : l < 1024 := hl
    simp only [Reg.key, Reg.laneInjectMode, Bool.false_eq_true, ↓reduceIte]
    omega
  | true =>
    have : l < 256 := hl
    simp only [Reg.key, Reg.xlaneInjectMode, ↓reduceIte]
    omega

theorem injectFrom_clocks (s : State) (tx : Bool) (l c : Nat) : (injectFrom s tx l c).clocks = s.clocks := by cases tx <;> rfl

theorem injectError_clocks (s : State) (tx : Bool) (l : Nat) : (injectError s tx l).clocks = s.clocks := by cases tx <;> rfl

theorem injectFrom_rx (s : State) (l c : Nat) : (injectFrom s false l c).lane l = { s.lane l with injectAt := c } := by
  simp only [injectFrom, Bool.false_eq_true, ↓reduceIte, State.lane_modLane_same]

theorem injectFrom_tx (s : State) (l c : Nat) : (injectFrom s true l c).xlane l = { s.xlane l with injectAt := c } := tabGet_tabSet_same ..

theorem injectFrom_since (s : State) (tx : Bool) (l c : Nat) : injectSince (injectFrom s tx l c) tx l = c := by
  cases tx with
  | false => exact congrArg Lane.injectAt (injectFrom_rx s l c)
  | true => exact congrArg XLane.injectAt (injectFrom_tx s l c)

/-- The passing of the period in mode PERIODIC injects one error, and the next period runs from there (R77). -/
theorem injectPeriod_injects {s : State} {tx : Bool} {l : Nat} (hl : l < if tx then 256 else 1024) (h2 : injectMode s tx l % 4 = 2) :
    (injectPeriod s tx l).clocks.cycle = max s.clocks.cycle (injectSince s tx l + injectCycles s tx l) ∧
      injectSince (injectPeriod s tx l) tx l = injectSince s tx l + injectCycles s tx l ∧
      (tx = false → ((injectPeriod s tx l).lane l).injectBits = injectWidth s tx l ∧
        ((injectPeriod s tx l).lane l).injectCount = (s.lane l).injectCount + 1) ∧
      (tx = true → ((injectPeriod s tx l).xlane l).inject = injectWidth s tx l) := by
  have hmode (c : Nat) := injectMode_runTo (s := s) hl c
  have hperiod : injectPeriod s tx l =
      injectFrom (injectError (s.runTo (injectSince s tx l + injectCycles s tx l)) tx l) tx l (injectSince s tx l + injectCycles s tx l) :=
    if_pos h2
  rw [hperiod]
  generalize injectSince s tx l + injectCycles s tx l = due
  refine ⟨?_, injectFrom_since .., ?_, ?_⟩
  · rw [injectFrom_clocks, injectError_clocks, State.runTo_cycle]
  · rintro rfl
    rw [injectFrom_rx, injectError_rx, State.lane_runTo, injectWidth, injectWidth, hmode]
    exact ⟨rfl, rfl⟩
  · rintro rfl
    rw [injectFrom_tx, injectError_tx, injectWidth, injectWidth, hmode]

/-! ### The pattern checker (R76) -/

/-- The checker predicts the bit that the pattern sends. -/
theorem prbs_received (poly hist : Nat) : ((prbsNext poly hist != bit poly 7) != bit poly 7) = prbsNext poly hist := by
  cases prbsNext poly hist <;> cases bit poly 7 <;> rfl

/-- While it is not locked, a checker that remembers enough bits takes one more as predicted, and counts nothing. -/
theorem Prbs.take_predicted {poly : Nat} {x : Prbs} (hl : x.locked = false) (hf : (prbsTaps poly).1 ≤ x.fill) :
    Prbs.take poly x (prbsNext poly x.hist != bit poly 7) =
      ({ hist := (2 * x.hist + ofBool (prbsNext poly x.hist)) % 2 ^ 31, fill := x.fill + 1, run := x.run + 1,
         locked := decide (64 ≤ x.run + 1), seen := 0, bad := [] }, 0, 0) := by
  simp only [Prbs.take, prbs_received, hl, hf, decide_true, beq_self_eq_true, Bool.and_self, Bool.false_eq_true, ↓reduceIte]

/-- As many bits as predicted as the checker still needs lock it, and count nothing. -/
theorem Prbs.takeAll_locks {poly : Nat} (c : Nat × Nat) : ∀ (n : Nat) (x : Prbs), x.locked = false → (prbsTaps poly).1 ≤ x.fill →
    x.run + (n + 1) = 64 → (Prbs.takeAll poly (prbsStream poly (n + 1) x.hist) (x, c)).1.locked = true ∧
      (Prbs.takeAll poly (prbsStream poly (n + 1) x.hist) (x, c)).2 = c := by
  intro n
  induction n with
  | zero =>
    intro x hl hf hr
    simp only [prbsStream, Prbs.takeAll, Prbs.take_predicted hl hf]
    exact ⟨decide_eq_true (by omega), rfl⟩
  | succ n ih =>
    intro x hl hf hr
    rw [prbsStream, Prbs.takeAll]
    simp only [Prbs.take_predicted hl hf]
    refine ih { hist := _, fill := x.fill + 1, run := x.run + 1, locked := _, seen := 0, bad := [] } (decide_eq_false ?_) ?_ ?_
    · omega
    · exact Nat.le_succ_of_le hf
    · show x.run + 1 + (n + 1) = 64
      omega

/-- A locked checker takes a wrong bit: it counts as a bit and an error, and the 256th among 1,024 loses the lock. -/
theorem Prbs.take_wrong {poly : Nat} {x : Prbs} (hl : x.locked = true) (hb : ∀ k ∈ x.bad, x.seen < k + 1023) :
    Prbs.take poly x (!(prbsNext poly x.hist != bit poly 7)) =
      (if 256 ≤ x.bad.length + 1 then Prbs.idle
        else { x with hist := (2 * x.hist + ofBool (prbsNext poly x.hist)) % 2 ^ 31, seen := x.seen + 1, bad := (x.seen + 1) :: x.bad }, 1, 1) := by
  have hr : ((!(prbsNext poly x.hist != bit poly 7)) != bit poly 7) = !prbsNext poly x.hist := by
    cases prbsNext poly x.hist <;> cases bit poly 7 <;> rfl
  have hne : ¬ (!prbsNext poly x.hist) = prbsNext poly x.hist := by cases prbsNext poly x.hist <;> decide
  have hkeep : (((x.seen + 1) :: x.bad).filter fun k => decide (x.seen + 1 < k + 1024)) = (x.seen + 1) :: x.bad := by
    refine List.filter_eq_self.mpr fun k hk => decide_eq_true ?_
    rcases List.mem_cons.mp hk with rfl | h
    · omega
    · have := hb k h
      omega
  have hcount : ofBool ((!prbsNext poly x.hist) != prbsNext poly x.hist) = 1 := by cases prbsNext poly x.hist <;> rfl
  simp only [Prbs.take, hl, ↓reduceIte, hr, hne, hkeep, hcount, List.length_cons, decide_eq_true_eq]

/-- Wrong bits in a row, until 256 have come since the lock, all count and lose it. -/
theorem Prbs.takeAll_loses {poly : Nat} : ∀ (n : Nat) (x : Prbs) (c : Nat × Nat), x.locked = true → x.bad.length = x.seen →
    x.seen + (n + 1) = 256 → Prbs.takeAll poly ((prbsStream poly (n + 1) x.hist).map (!·)) (x, c) =
      (Prbs.idle, c.1 + (n + 1), c.2 + (n + 1)) := by
  intro n
  induction n with
  | zero =>
    intro x c hl hb hs
    simp only [prbsStream, List.map_cons, List.map_nil, Prbs.takeAll,
      Prbs.take_wrong (poly := poly) hl (fun _ _ => by omega), hb, if_pos (show 256 ≤ x.seen + 1 by omega)]
  | succ n ih =>
    intro x c hl hb hs
    rw [prbsStream, List.map_cons, Prbs.takeAll]
    simp only [Prbs.take_wrong (poly := poly) hl (fun _ _ => by omega), hb, if_neg (show ¬ 256 ≤ x.seen + 1 by omega)]
    have h := ih { x with hist := (2 * x.hist + ofBool (prbsNext poly x.hist)) % 2 ^ 31, seen := x.seen + 1, bad := (x.seen + 1) :: x.bad }
      (c.1 + 1, c.2 + 1) hl (congrArg (· + 1) hb) (show x.seen + 1 + (n + 1) = 256 by omega)
    refine h.trans ?_
    rw [Nat.add_assoc, Nat.add_assoc, Nat.add_comm 1]

/-- PRBS_LOCK and PRBS_LOCK_LOSS give the checker the bits as they come where no injected error waits. -/
theorem exec_prbs {s : State} {l : Nat} (hi : (s.lane l).injectBits = 0) {bs : List Bool} {i : Instr}
    (h : i ∈ [Instr.prbsLock l bs, .prbsLockLoss l bs]) : exec i s = onUnit (s.hasLane l) s (prbsBits (takeInject s l).2 l bs) := by
  have hbits : onUnit (s.hasLane l) s (prbsBits (takeInject s l).2 l (flipBits (takeInject s l).1 bs)) =
      onUnit (s.hasLane l) s (prbsBits (takeInject s l).2 l bs) := by
    rw [show (takeInject s l).1 = 0 from hi, flipBits_zero]
  rcases List.mem_pair.mp h with rfl | rfl <;> exact hbits

/-- The bits of a lane in PRBS go to its checker, whose counters and lock are the lane's objects. -/
theorem prbsBits_checks {s : State} {l : Nat} (hst : s.laneSt l = 7) (bs : List Bool) :
    let y := Prbs.takeAll (s.reg Reg.lanePrbsPoly l) bs ((s.lane l).prbs, 0, 0)
    ((prbsBits s l bs).lane l).prbs = y.1 ∧ (prbsBits s l bs).reg Reg.lanePrbsLock l = ofBool y.1.locked ∧
      (prbsBits s l bs).reg Reg.lanePrbsBits l = (s.reg Reg.lanePrbsBits l + y.2.1) % 2 ^ 64 ∧
      (prbsBits s l bs).reg Reg.lanePrbsErrors l = (s.reg Reg.lanePrbsErrors l + y.2.2) % 2 ^ 64 := by
  intro y
  have hx : prbsBits s l bs = (((s.count Reg.lanePrbsBits l 64 y.2.1).count Reg.lanePrbsErrors l 64 y.2.2).modLane l
      fun x => { x with prbs := y.1 }).setReg Reg.lanePrbsLock l (ofBool y.1.locked) := if_pos hst
  have hne {r r' : Reg} (hb : r.base = r'.base) (hs : r.sub ≠ r'.sub) : r.key l ≠ r'.key l := slotKey_ne hb hs l
  rw [hx, State.lane_setReg, State.lane_modLane_same, State.reg_setReg_same,
    State.reg_setReg_other _ _ (hne (r := Reg.lanePrbsLock) (r' := Reg.lanePrbsBits) rfl (by decide)),
    State.reg_setReg_other _ _ (hne (r := Reg.lanePrbsLock) (r' := Reg.lanePrbsErrors) rfl (by decide)),
    State.reg_modLane, State.reg_modLane, State.reg_count_same,
    State.reg_count_other _ _ _ (hne (r := Reg.lanePrbsErrors) (r' := Reg.lanePrbsBits) rfl (by decide)), State.reg_count_same,
    State.reg_count_other _ _ _ (hne (r := Reg.lanePrbsBits) (r' := Reg.lanePrbsErrors) rfl (by decide))]
  exact ⟨rfl, rfl, rfl, rfl⟩

end Sys2Proof.Machine
end

section
/-! SUPPORT. What a token that is placed on the fabric leaves of lanes, shoals and the clock (R86, R105, R166, R362). -/

namespace Sys2Proof.Machine

/-- What the landing side holds, and the present cycle. -/
def State.landing (s : State) : List (Nat × Lane) × List (Nat × Shoal) × Clocks := (s.lanes, s.shoals, s.clocks)

theorem State.lane_of_landing {s t : State} (h : t.landing = s.landing) (l : Nat) : t.lane l = s.lane l := by
  have hlanes : t.lanes = s.lanes := congrArg Prod.fst h
  rw [State.lane, State.lane, hlanes]

theorem State.shoalBeat_of_landing {s t : State} (h : t.landing = s.landing) (k : Nat) (b : Beat) : t.shoalBeat k b = s.shoalBeat k b := by
  have hshoals : t.shoals = s.shoals := congrArg (fun x => x.2.1) h
  rw [State.shoalBeat, State.shoalBeat, State.shoal, State.shoal, hshoals]

theorem State.clocks_of_landing {s t : State} (h : t.landing = s.landing) : t.clocks = s.clocks := congrArg (fun x => x.2.2) h

@[simp] theorem State.count_landing (s : State) (r : Reg) (n b k : Nat) : (s.count r n b k).landing = s.landing := rfl
@[simp] theorem State.setTank_landing (s : State) (h : Nat) (x : Tank) : (s.setTank h x).landing = s.landing := rfl
@[simp] theorem State.setXlane_landing (s : State) (x : Nat) (v : XLane) : (s.setXlane x v).landing = s.landing := rfl
@[simp] theorem setClass_landing (s : State) (c : UnitClass) : (setClass s c).landing = s.landing := rfl

/-! ### Errors of a port (R371, R375) -/

@[simp] theorem State.log_landing (s : State) (e : Event) : (s.log e).landing = s.landing := by
  obtain ⟨faults, h⟩ := s.log_eq e
  rw [h]
  rfl

@[simp] theorem State.emcy_landing (s : State) (e : Event) : (s.emcy e).landing = s.landing := by
  obtain ⟨regs, links, faults, h⟩ := s.emcy_eq e
  rw [h]
  rfl

@[simp] theorem makeOffer_landing (s : State) (w : Waiting) : (makeOffer s w).landing = s.landing := by
  unfold makeOffer
  split
  · split
    · rw [State.emcy_landing]
      rfl
    · rfl
  · rfl

@[simp] theorem remapOffer_landing (s : State) (u : FaultUnit) : (remapOffer s u).landing = s.landing := by
  unfold remapOffer
  dsimp only
  split
  · rfl
  · split <;> simp

@[simp] theorem classify_landing (s : State) (u : FaultUnit) (fails : Bool) (c d : Nat) : (classify s u fails c d).landing = s.landing := by
  unfold classify
  dsimp only
  split
  · simp
  · split
    · simp
    · split <;> simp

@[simp] theorem detect_landing (s : State) (u : FaultUnit) (unc : Bool) (d c : Nat) : (detect s u unc d c).landing = s.landing := by
  unfold detect
  extract_lets +lift pers ev t
  have ht : t.landing = s.landing := by
    simp only [t]
    split <;> simp
  clear_value t
  split
  · exact ht
  · split
    · exact ht
    · split
      · exact (classify_landing ..).trans ht
      · exact ht

@[simp] theorem hazard_landing (s : State) (cls : Nat) (b : Beat) (f : Nat) (q : Bool) (t : TileId) (slot port d : Nat) :
    (hazard s cls b f q t slot port d).landing = s.landing := by
  unfold hazard
  split
  · dsimp only
    split <;> rfl
  · rfl

theorem faultToken_landing (m : Fmt) (s : State) (t : TileId) (q : Bool) (p : Port) (slot : Nat) (tok : Token) :
    (faultToken m s t q p slot tok).1.landing = s.landing := by
  unfold faultToken
  simp

/-! ### Taps and transmit ferries -/

@[simp] theorem tapInto_landing (s : State) (i : Nat) (q : Bool) (tok : Token) (b : Beat) : (tapInto s i q tok b).landing = s.landing := by
  unfold tapInto
  dsimp only
  split <;> rfl

@[simp] theorem tap_landing (s : State) (kind place colRow port : Nat) (q : Bool) (tok : Token) (b : Beat) :
    (tap s kind place colRow port q tok b).landing = s.landing := by
  refine foldl_keep State.landing _ (fun t i => ?_) _ _
  dsimp only
  split
  · exact tapInto_landing ..
  · rfl

@[simp] theorem serialize_landing (s : State) (x n v : Nat) : (serialize s x n v).landing = s.landing := by
  unfold serialize
  split <;> rfl

@[simp] theorem transmit_landing (s : State) (x : Nat) (bs : List Coded) : (transmit s x bs).landing = s.landing := by
  unfold transmit
  dsimp only
  split
  · rfl
  · split <;> simp

@[simp] theorem sendFerry_landing (s : State) (x c : Nat) (tok : Token) : (sendFerry s x c tok).landing = s.landing :=
  transmit_landing ..

/-! ### Routes (R86) -/

theorem deliver_landing (s : State) (f : Nat) (q : Bool) (dst : Dest) (c : Nat) (tok : Token) :
    (deliver s f q dst c tok).landing = s.landing := by
  unfold deliver
  cases dst with
  | port t p =>
    dsimp only
    split <;> rfl
  | quench input => rfl
  | ferry x => exact sendFerry_landing ..

theorem crossPass_landing (f : Nat) (q : Bool) (b : Beat) (t : TileId) (i o : Port) (y : State × Token) :
    (crossPass f q b t i o y).1.landing = y.1.landing := by
  unfold crossPass
  dsimp only
  rw [tap_landing]
  split
  · rfl
  · exact faultToken_landing ..

theorem crossPasses_landing (s : State) (f : Nat) (q : Bool) (b : Beat) (seen : List (TileId × Port)) (path : List PathEl) (tok : Token) :
    (crossPasses s f q b seen path tok).1.landing = s.landing := by
  refine foldl_fixed (fun y : State × Token => y.1.landing) _ (fun y el => ?_) path (s, tok)
  split
  · split
    · rfl
    · exact crossPass_landing ..
  · rfl

theorem crossRoutes_landing (f : Nat) (q : Bool) (c : Nat) (b : Beat) (tok : Token) (ls : List Link) :
    ∀ (seen : List (TileId × Port)) (s : State), (crossRoutes f q c b tok seen ls s).landing = s.landing := by
  induction ls with
  | nil => exact fun _ _ => rfl
  | cons l ls ih => exact fun seen s => (ih _ _).trans ((deliver_landing ..).trans (crossPasses_landing ..))

theorem launchToken_landing (s : State) (f : Nat) (q : Bool) (src : Source) (c : Nat) (b : Beat) (tok : Token) :
    (launchToken s f q src c b tok).landing = s.landing := crossRoutes_landing ..

theorem sendRelease_landing (p : ShoalPlan) (pos tok : Nat) (n : Beat) (r : Release) (s : State) (f : Nat) :
    (sendRelease p pos tok n r s f).landing = s.landing := by
  unfold sendRelease
  split
  · rfl
  · dsimp only
    split
    · rw [State.setTank_landing, tap_landing, launchToken_landing]
    · rw [tap_landing, launchToken_landing]

end Sys2Proof.Machine
end

section
/-! SUPPORT. The release of a shoal's token (R60, R69, R70, R106). -/

namespace Sys2Proof.Machine

/-! ### What a shoal keeps of a beat -/

theorem State.shoalBeat_beat (s : State) (k : Nat) (b : Beat) : (s.shoalBeat k b).beat = b := by
  unfold State.shoalBeat
  cases h : (s.shoal k).beats.find? fun x => x.beat = b with
  | none => rfl
  | some x => exact of_decide_eq_true (List.find?_some (p := fun y : ShoalBeat => decide (y.beat = b)) h)

theorem State.shoalBeat_setShoalBeat (s : State) (k : Nat) (x : ShoalBeat) : (s.setShoalBeat k x).shoalBeat k x.beat = x := by
  simp [State.shoalBeat, State.setShoalBeat, State.shoal, State.setShoal]

/-! ### The lane's token lets no time pass -/

@[simp] theorem degrade_clocks (s : State) (k : Nat) (b : Beat) (t : Nat) : (degrade s k b t).clocks = s.clocks := by
  unfold degrade
  dsimp only
  split <;> rfl

theorem leaveAligned_clocks (s : State) (l st : Nat) : (leaveAligned s l st).clocks = s.clocks := by
  have hx : (if s.laneSt l = lsAligned then degradeHome s l else s).clocks = s.clocks := by
    split
    · unfold degradeHome
      split <;> simp
    · rfl
  exact hx

theorem loseAlign_clocks (s : State) (l : Nat) : (loseAlign s l).clocks = s.clocks := by
  unfold loseAlign
  split
  · exact leaveAligned_clocks ..
  · rfl

theorem laneRelease_clocks (s : State) (p : ShoalPlan) (l : Nat) (n : Beat) (tok : Nat) : (laneRelease s p l n tok).1.clocks = s.clocks := by
  unfold laneRelease
  dsimp only
  rw [apply_ite State.clocks, degrade_clocks, ite_self, apply_ite State.clocks, loseAlign_clocks, State.count_clocks, ite_self]

/-! ### The release -/

/-- What a shoal releases as a token in its cycle: the replayed one, or what has landed (R69, R366). -/
def tokenTaken (s : State) (p : ShoalPlan) (l pos tok off : Nat) (n : Beat) : State × Release :=
  if s.replaying then (s, replayRelease s p pos tok off n) else laneRelease s p l n tok

theorem tokenTaken_clocks (s : State) (p : ShoalPlan) (l pos tok off : Nat) (n : Beat) :
    (tokenTaken s p l pos tok off n).1.clocks = s.clocks := by
  unfold tokenTaken
  split
  · rfl
  · exact laneRelease_clocks ..

/-- The words of a token leave its lane's landing buffer, with those of beats that have passed. -/
def wordsTaken (s : State) (l : Nat) (n : Beat) (tok : Nat) : State :=
  s.modLane l fun x => { x with words := x.words.filter fun w => !(beatBefore w.beat n || (w.beat == n && w.idx / 4 == tok)) }

/-- A shoal keeps that it has released a token of a beat. -/
def markReleased (s : State) (k pos tok : Nat) (n : Beat) : State :=
  s.setShoalBeat k { s.shoalBeat k n with released := (pos, tok) :: (s.shoalBeat k n).released }

theorem wordsTaken_words (s : State) (l : Nat) (n : Beat) (tok : Nat) :
    (((wordsTaken s l n tok).lane l).words.all fun w => !(w.beat == n && w.idx / 4 == tok)) = true := by
  rw [wordsTaken, State.lane_modLane_same, List.all_eq_true]
  intro w hw
  have hkept := (List.mem_filter.mp hw).2
  rw [Bool.not_or, Bool.and_eq_true] at hkept
  exact hkept.2

theorem markReleased_released (s : State) (k pos tok : Nat) (n : Beat) : (pos, tok) ∈ ((markReleased s k pos tok n).shoalBeat k n).released := by
  have hb : ({ s.shoalBeat k n with released := (pos, tok) :: (s.shoalBeat k n).released } : ShoalBeat).beat = n := s.shoalBeat_beat k n
  have hx := s.shoalBeat_setShoalBeat k { s.shoalBeat k n with released := (pos, tok) :: (s.shoalBeat k n).released }
  rw [hb] at hx
  rw [markReleased, hx]
  exact List.mem_cons_self

section
variable {s : State} {p : ShoalPlan} {k pos tok l off : Nat} (hp : s.shoalPlan k = some p)
  (hl : (p.lanes.find? fun x => x.2 = pos) = some (l, pos)) (ho : releaseOffset p pos tok = some off) (hf : s.mode.flows = true)
  (ht : tok < p.width / 4) (hr : (s.shoalBeat k s.beat.n).released.contains (pos, tok) = false)
include hp hl ho hf ht hr

/-- A token that its shoal has not released leaves at the beat's boundary plus its release offset: its words are taken, it is marked
released, and it goes to the shoal's forgings. -/
theorem releaseToken_eq : ∃ (u : State) (r : Release), u.clocks = (s.runTo (s.beat.at' + off)).clocks ∧ releaseToken s k pos tok =
    p.forgings.foldl (sendRelease p pos tok s.beat.n r) (markReleased (wordsTaken u l s.beat.n tok) k pos tok s.beat.n) := by
  refine ⟨(tokenTaken (s.runTo (s.beat.at' + off)) p l pos tok off s.beat.n).1,
    (tokenTaken (s.runTo (s.beat.at' + off)) p l pos tok off s.beat.n).2, tokenTaken_clocks .., ?_⟩
  have hgo : ¬ ((!s.mode.flows || (s.shoalBeat k s.beat.n).released.contains (pos, tok) || decide (p.width / 4 ≤ tok)) = true) := by
    simpa only [hf, hr, Bool.not_true, Bool.false_or, decide_eq_true_eq, Nat.not_le] using ht
  unfold releaseToken
  simp only [hp, hl, ho]
  rw [if_neg hgo]
  rfl

/-- What the release leaves: the token is marked, the clock stands at its cycle, and the landing buffer holds none of its words (R60). -/
theorem releaseToken_releases : (pos, tok) ∈ ((releaseToken s k pos tok).shoalBeat k s.beat.n).released ∧
    (releaseToken s k pos tok).clocks.cycle = max s.clocks.cycle (s.beat.at' + off) ∧
    (((releaseToken s k pos tok).lane l).words.all fun w => !(w.beat == s.beat.n && w.idx / 4 == tok)) = true := by
  obtain ⟨u, r, hclocks, hx⟩ := releaseToken_eq hp hl ho hf ht hr
  have hland := foldl_keep State.landing _ (sendRelease_landing p pos tok s.beat.n r) p.forgings
    (markReleased (wordsTaken u l s.beat.n tok) k pos tok s.beat.n)
  rw [hx, State.shoalBeat_of_landing hland, State.clocks_of_landing hland, State.lane_of_landing hland]
  exact ⟨markReleased_released .., (congrArg Clocks.cycle hclocks).trans (State.runTo_cycle ..), wordsTaken_words ..⟩

end

end Sys2Proof.Machine
end

section
/-! SUPPORT. Receive ferries: a token that arrives, and the release of a slot (R78, R79, R99). -/

namespace Sys2Proof.Machine

/-! ### Arrival -/

/-- A ferry that is ALIGNED stays so with a good TOKEN block. -/
theorem ferryVerify_aligned {s : State} {l : Nat} (hst : s.laneSt l = 4) (n : Beat) : ferryVerify s l n = s := by
  have hno : ferryAligns s l n = false := by simp [ferryAligns, hst, lsMarkerHunt, lsVerify, lsSlipped, lsWaitHost]
  simp [ferryVerify, hno, hst, lsMarkerHunt, lsVerify]

/-- A token that is on time, and finds room, is held in order of release. -/
theorem ferryHold_holds {s : State} {l j : Nat} {p : FerryPlan} {n : Beat} {tok : Token} (hj : ferrySlot p (tagSeq tok.tag).toNat = some j)
    (hd : s.clocks.cycle ≤ ferryCycle s l j n) (hn : (s.lane l).ferryDone.contains (j, n) = false)
    (hr : (s.lane l).ferryTokens.length < 64) : ∃ start, ferryHold s l p n tok = s.modLane l fun x =>
      { x with ferryTokens := insertTimed { at' := ferryCycle s l j n, tok := tok } x.ferryTokens, ferryFrom := start } := by
  have hgo : ¬ (ferryCycle s l j n < s.clocks.cycle ∨ (s.lane l).ferryDone.contains (j, n) = true ∨ 64 ≤ (s.lane l).ferryTokens.length) := by
    rw [hn, Bool.false_eq_true, false_or]
    omega
  unfold ferryHold
  simp only [hj]
  rw [if_neg hgo]
  exact ⟨_, rfl⟩

/-- A good TOKEN block counts among those in a row, and its sequence is kept (R80). -/
def tokenCounted (s : State) (l seq : Nat) : State :=
  s.modLane l fun x => { x with
    verify := if (s.lane l).ferrySeq = some ((seq + 255) % 256) then (s.lane l).verify + 1 else 1, ferrySeq := some seq }

section
variable {s : State} {l j : Nat} {p : FerryPlan} {header : Word64} {data : Word256} {tag : Tag} {n : Beat}
  (hr : s.reg Reg.laneRole l = 1) (hst : s.laneSt l = 4) (hp : ferryPlan s l = some p) (htag : header.extractLsb' 24 32 = tag)
  (hn : rebuildBeat s.beat.n (tagBeat tag) = n)
  (hcrc : ferryCrc tag ((tokenWords data).map BitVec.toNat) = field header.toNat 0 16) (hv : tagValid tag = true)
include hr hst hp htag hn hcrc hv

/-- A data token with a good CRC on an ALIGNED ferry lane counts, and goes to the ferry's buffer. -/
theorem ferryArrives_data : ferryArrives s l header data =
    ferryHold (tokenCounted s l (field header.toNat 16 8)) l p n { data := data, tag := tag } := by
  subst htag hn
  have hlive : ¬ (s.reg Reg.laneRole l ≠ 1 ∨ s.laneSt l < lsMarkerHunt ∨ s.laneSt l = lsPrbs) := by
    rw [hr, hst]
    decide
  have hplan : ferryPlan (tokenCounted s l (field header.toNat 16 8)) l = some p := hp
  have hverify := ferryVerify_aligned (s := tokenCounted s l (field header.toNat 16 8)) hst
    (rebuildBeat s.beat.n (tagBeat (header.extractLsb' 24 32)))
  unfold tokenCounted at hverify hplan ⊢
  unfold ferryArrives
  dsimp only
  rw [if_neg hlive, if_neg (not_not_intro hcrc), hverify, hplan]
  simp only [hv, Bool.not_true, Bool.false_eq_true, ↓reduceIte]
  exact if_pos hst

/-- A data token that is on time and finds room is held until the cycle of its slot (R79, R99). -/
theorem ferryArrives_holds (hj : ferrySlot p (tagSeq tag).toNat = some j)
    (hd : s.clocks.cycle ≤ s.boundaryAt n + (s.lane l).ferryRelease.getD j 0) (hdone : (s.lane l).ferryDone.contains (j, n) = false)
    (hroom : (s.lane l).ferryTokens.length < 64) :
    ((ferryArrives s l header data).lane l).ferryTokens =
        insertTimed { at' := s.boundaryAt n + (s.lane l).ferryRelease.getD j 0, tok := { data := data, tag := tag } }
          (s.lane l).ferryTokens ∧
      ((ferryArrives s l header data).lane l).ferrySeq = some (field header.toNat 16 8) := by
  rw [ferryArrives_data hr hst hp htag hn hcrc hv]
  have hlane : (tokenCounted s l (field header.toNat 16 8)).lane l = { s.lane l with
      verify := if (s.lane l).ferrySeq = some ((field header.toNat 16 8 + 255) % 256) then (s.lane l).verify + 1 else 1,
      ferrySeq := some (field header.toNat 16 8) } := State.lane_modLane_same ..
  have hcycle : ferryCycle (tokenCounted s l (field header.toNat 16 8)) l j n = s.boundaryAt n + (s.lane l).ferryRelease.getD j 0 := by
    rw [ferryCycle, hlane]
    rfl
  obtain ⟨start, hhold⟩ := ferryHold_holds (s := tokenCounted s l (field header.toNat 16 8)) (p := p) (tok := { data := data, tag := tag })
    hj (by rw [hcycle]; exact hd) (by rw [hlane]; exact hdone) (by rw [hlane]; exact hroom)
  rw [hhold, State.lane_modLane_same, hcycle, hlane]
  exact ⟨rfl, rfl⟩

end

/-! ### Release -/

theorem ferryLoss_lane (s : State) (l : Nat) (substitute : Bool) :
    ∃ lost, (ferryLoss s l substitute).lane l = { s.lane l with ferryLost := lost } := by
  unfold ferryLoss
  split
  · exact ⟨_, State.lane_modLane_same ..⟩
  · split
    · exact ⟨_, (State.lane_of_landing (State.emcy_landing ..) l).trans (State.lane_modLane_same ..)⟩
    · exact ⟨_, rfl⟩

theorem ferryLoss_clocks (s : State) (l : Nat) (substitute : Bool) : (ferryLoss s l substitute).clocks = s.clocks := by
  unfold ferryLoss
  split
  · rfl
  · split
    · exact State.emcy_clocks ..
    · rfl

/-- Is a held token that of a slot's sequence and a beat. -/
def ofSlot (p : FerryPlan) (j : Nat) (n : Beat) (y : Timed) : Bool :=
  tagBeat y.tok.tag == n.extractLsb' 0 16 && (tagSeq y.tok.tag).toNat == p.seqs.getD j 0

/-- A slot's token of a beat leaves the ferry's buffer, and the slot has had its release of that beat. -/
def slotReleased (s : State) (l : Nat) (p : FerryPlan) (j : Nat) (n : Beat) : State :=
  s.modLane l fun x => { x with ferryTokens := x.ferryTokens.filter fun y => !ofSlot p j n y, ferryDone := (j, n) :: x.ferryDone.take 255 }

section
variable {s : State} {l j : Nat} {p : FerryPlan} {q : Bool} (hp : ferryPlan s l = some p) (hj : j < p.seqs.length)
  (hf : s.mode.flows = true) {rel : Nat} (hrel : (s.lane l).ferryRelease.getD j 0 = rel) {n : Beat}
  (hn : s.beat.n - BitVec.ofNat 48 (rel / s.beat.period) = n) (hq : s.planeFor p.forging n = some q)
  (hdone : (s.lane l).ferryDone.contains (j, n) = false)
include hp hj hf hrel hn hq hdone

/-- A slot that has not had its release of a beat has it at its cycle after the beat's boundary: the token leaves the buffer and goes
onto the fabric. -/
theorem ferryRelease_eq : ∃ (substitute : Bool) (c : Nat) (tok : Token), ferryRelease s l j =
    launchToken (ferryLoss (slotReleased (s.runTo (s.beat.at' + rel % s.beat.period)) l p j n) l substitute) p.forging q (.ferry l) c n tok := by
  subst hrel hn
  have hgo : ¬ ((!s.mode.flows) = true ∨ p.seqs.length ≤ j ∨ (s.lane l).ferryDone.contains
      (j, s.beat.n - BitVec.ofNat 48 ((s.lane l).ferryRelease.getD j 0 / s.beat.period)) = true) := by
    rw [hf, hdone, Bool.not_true, Bool.false_eq_true, false_or, or_false]
    omega
  unfold ferryRelease
  simp only [hp, hq]
  rw [if_neg hgo]
  exact ⟨_, _, _, rfl⟩

/-- What the release of a slot leaves: it has had it, the clock stands at its cycle, and the buffer holds no token of it (R79, R99). -/
theorem ferryRelease_releases : ((ferryRelease s l j).lane l).ferryDone.head? = some (j, n) ∧
    (ferryRelease s l j).clocks.cycle = max s.clocks.cycle (s.beat.at' + rel % s.beat.period) ∧
    (((ferryRelease s l j).lane l).ferryTokens.all fun y => !ofSlot p j n y) = true := by
  obtain ⟨substitute, c, tok, hx⟩ := ferryRelease_eq hp hj hf hrel hn hq hdone
  have hland := launchToken_landing (ferryLoss (slotReleased (s.runTo (s.beat.at' + rel % s.beat.period)) l p j n) l substitute)
    p.forging q (.ferry l) c n tok
  obtain ⟨lost, hlane⟩ := ferryLoss_lane (slotReleased (s.runTo (s.beat.at' + rel % s.beat.period)) l p j n) l substitute
  rw [hx, State.lane_of_landing hland, State.clocks_of_landing hland, hlane, ferryLoss_clocks, slotReleased, State.lane_modLane_same]
  exact ⟨rfl, State.runTo_cycle .., List.all_eq_true.mpr fun y hy => (List.mem_filter.mp hy).2⟩

end

/-- Settles O11. That a checker predicts from the bits received until it locks, and from its own pattern after that, is the model's
choice (notes/assumptions/109.md), and so is which bits an injected error flips (notes/assumptions/21.md). -/
theorem injectionShoalsAndFerries : Obligations.InjectionShoalsAndFerries := by
  unfold Obligations.InjectionShoalsAndFerries
  refine ⟨⟨fun s l => ⟨fun tx hl => ⟨?fire, ?period⟩, ?checker⟩, fun poly x _ => ⟨?locks, ?loses⟩⟩, ?shoal, ?arrives, ?leaves⟩
  case fire =>
    intro hm h1
    rw [exec_laneInjectFire hl hm h1]
    refine ⟨_, rfl, congrArg (Out.status 0 :: ·) (injectError_outbox s tx l), ?_, ?_⟩
    · rintro rfl
      exact congrArg Lane.injectBits (injectError_rx s l)
    · rintro rfl
      exact ⟨congrArg XLane.inject (injectError_tx s l), rfl⟩
  case period => exact fun h2 => onUnit_leaves hl (injectPeriod_injects (lane_numbered hl) h2) fun _ _ h => h
  case checker =>
    intro bs hl hst hi y i hmem
    have hcheck := prbsBits_checks (s := (takeInject s l).2) hst bs
    rw [takeInject_lane hi] at hcheck
    rw [exec_prbs hi hmem]
    exact onUnit_leaves hl hcheck fun _ _ h => h
  case locks =>
    intro hl hr hf
    exact Prbs.takeAll_locks (0, 0) 63 x hl hf (by omega)
  case loses =>
    intro hl hs hb y
    have hy : y = (Prbs.idle, 256, 256) := Prbs.takeAll_loses 255 x (0, 0) hl (by rw [hb, hs]; rfl) (by omega)
    rw [hy]
    exact ⟨rfl, rfl⟩
  case shoal =>
    intro s p k pos tok l off hh hp hl ho hf ht hr
    exact onUnit_leaves hh (releaseToken_releases hp hl ho hf ht hr) fun _ _ h => h
  case arrives =>
    intro s l p header data j hl hi hr hst hp tag n due hcrc hv hj hd hdone hroom
    have hlane := takeInject_lane hi
    have hexec : exec (.ferryToken l header data) s = onUnit (s.hasLane l) s (ferryArrives (takeInject s l).2 l header data) :=
      congrArg (onUnit _ s) (if_pos hi)
    have hheld := ferryArrives_holds (s := (takeInject s l).2) hr hst hp rfl rfl hcrc hv hj (by rw [hlane]; exact hd) (by rw [hlane]; exact hdone)
      (by rw [hlane]; exact hroom)
    rw [hlane] at hheld
    rw [hexec]
    exact onUnit_leaves hl hheld fun _ _ h => h
  case leaves =>
    intro s l j p q hl hp hj hf rel n hq hdone
    exact onUnit_leaves hl (ferryRelease_releases hp hj hf rfl rfl hq hdone) fun _ _ h => h

end Sys2Proof.Machine
end

section
/-! SUPPORT. Writes of FORGE_SOUND: what the dictionary answers, and what each value does to the plane (R102, R103, R266, R380). -/

namespace Sys2Proof.Machine

/-- A write of a number outside what its object takes counts, and answers VALUE (R266). -/
theorem hostWrites_outOfRange {b : BootInputs} {s : State} {r : ObjRow} {index sub : Nat} {bs : List Byte} (hm : s.mode ≠ .off)
    (hf : findObject s index sub = .object r) (hd : r.isDomain = false) (hw : writeState s r = scOk) (hl : bs.length = r.type.bytes)
    (hc : r.check.ok r (leNat bs) = false) : hostWrites b index sub bs s = (s.count Reg.odWritesRefused 0).emit (.status scValue) := by
  simp only [hostWrites, hm, ↓reduceIte, objectWrite, hf, hd, Bool.false_eq_true, numberWrite, hw, hl, hc, ne_eq, not_true_eq_false,
    Bool.not_false, refuseWrite]

/-- The row of FORGE_SOUND in the table of objects. -/
def forgeSoundRow : ObjRow := ⟨Reg.forgeSound, 16, 1, .unsigned 1, .wo, .range 1 3⟩

theorem forgeSoundRow_mem : forgeSoundRow ∈ objRows := by decide +kernel

/-- Every grade has all the forgings (R6). -/
theorem forging_present (s : State) {f : Nat} (hf : f < 16) : unitPresent s (0x3101 + f) = true := by
  have hout {base n : Nat} (h : 0x3101 + f < base ∨ base + n ≤ 0x3101 + f) : indexIn (0x3101 + f) base n = false := by
    rw [Bool.eq_false_iff, ne_eq, indexIn_iff]
    omega
  unfold unitPresent
  rw [hout (by omega), hout (by omega), hout (by omega), hout (by omega), hout (by omega), hout (by omega), hout (by omega),
    hout (by omega), hout (by omega), hout (by omega), hout (by omega), hout (by omega), hout (by omega)]
  rfl

theorem findObject_forgeSound (s : State) {f : Nat} (hf : f < 16) :
    findObject s (Reg.forgeSound.base + f) Reg.forgeSound.sub = .object forgeSoundRow :=
  findObject_of_mem forgeSoundRow_mem (ObjRow.holds_unit hf (by decide)) (forging_present s hf)

theorem ownerWrite_forgeSound (b : BootInputs) (f k v : Nat) (s : State) : ownerWrite b forgeSoundRow.reg f k v s = forgeSoundWrite f v s := by
  unfold ownerWrite
  exact (if_neg (by decide)).trans <| (if_neg (by decide)).trans <| (if_neg (by decide)).trans <| (if_neg (by decide)).trans <|
    (if_neg (by decide)).trans <| if_pos rfl

section
variable {s t : State} {f c : Nat} {v : Byte} (hf : f < 16) (hm : s.mode.online = true)
include hf hm

/-- A value from 1 to 3 passes every check before the rule of FORGE_SOUND: that rule's code is answered, and what it leaves of the
planes and their states stands. -/
theorem writeOn_forgeSound (hv : 1 ≤ v.toNat ∧ v.toNat ≤ 3) (h : forgeSoundWrite f v.toNat s = (c, t)) :
    ∃ u, writeOn (decide (f < 16)) Reg.forgeSound f [v] s = .next u ∧ u.outbox.head? = some (.status c) ∧ u.planes = t.planes ∧
      ∀ y, u.planeState f y = t.planeState f y := by
  have hval : leNat [v] = v.toNat := rfl
  have hc : forgeSoundRow.check.ok forgeSoundRow (leNat [v]) = true := by
    simpa [forgeSoundRow, Check.ok, hval] using hv
  have ho : ownerWrite (standingInputs s) forgeSoundRow.reg (forgeSoundRow.unit (Reg.forgeSound.base + f))
      (Reg.forgeSound.sub - forgeSoundRow.reg.sub) (leNat [v]) s = (c, t) := by
    rw [ownerWrite_forgeSound, hval, ← h]
    exact congrArg (forgeSoundWrite · v.toNat s) (Nat.add_sub_cancel_left ..)
  have hkept := countRefusal_kept c t
  rw [writeOn, hostWrite, hostWrites_number (Mode.ne_off_of_online hm) (findObject_forgeSound s hf) rfl (if_pos (.inl hm)) rfl hc ho]
  generalize (countRefusal (c, t)).2 = x at hkept
  obtain ⟨hplanes, hregs⟩ := hkept
  exact onUnit_leaves (decide_eq_true hf) ⟨rfl, hplanes, fun y => hregs _ _ (planeReg_key_ne_refused f y)⟩ fun _ _ h => h

/-- Any other value is refused with VALUE. -/
theorem registerWrite_forgeSound_refused (h1 : v ≠ 1#8) (h2 : v ≠ 2#8) (h3 : v ≠ 3#8) :
    ∃ u, exec (.registerWrite (Reg.forgeSound.base + f) Reg.forgeSound.sub [v]) s = .next u ∧
      u.outbox.head? = some (.status 0x06090030) ∧ u.planes = s.planes := by
  have hexec : exec (.registerWrite (Reg.forgeSound.base + f) Reg.forgeSound.sub [v]) s =
      done s (hostWrite (Reg.forgeSound.base + f) Reg.forgeSound.sub [v] s) := rfl
  have hc : forgeSoundRow.check.ok forgeSoundRow (leNat [v]) = false := by
    have hval : leNat [v] = v.toNat := rfl
    simp only [forgeSoundRow, Check.ok, hval, Bool.and_eq_false_iff, decide_eq_false_iff_not]
    bv_omega
  rw [hexec, hostWrite, hostWrites_outOfRange (Mode.ne_off_of_online hm) (findObject_forgeSound s hf) rfl (if_pos (.inl hm)) rfl hc]
  exact done_leaves (s := s) ⟨rfl, rfl⟩ fun _ _ h => h

end

/-! ### The rule of FORGE_SOUND (R103) -/

theorem isIdlePlane_iff {n : Nat} : isIdlePlane n = true ↔ n = 0 ∨ n = 6 ∨ n = 7 := by simp [isIdlePlane, or_assoc]

theorem awaitSounding_planeState (s : State) (f : Nat) (q : Bool) : (awaitSounding s f q).planeState f q = 2 :=
  State.planeState_setPlaneState_same ..

theorem awaitSounding_plane_other (s : State) (f : Nat) (q : Bool) : (awaitSounding s f q).plane f (!q) = s.plane f (!q) := by
  rw [awaitSounding, State.plane_setPlaneState]
  exact State.plane_setPlane_other _ _ fun h => Bool.not_ne_self q (congrArg Prod.snd h)

/-- Prime values are words of tiles. -/
theorem reprime_planes (s : State) (f : Nat) (q : Bool) : (reprime s f q).planes = s.planes := by
  unfold reprime
  split
  · rfl
  · exact foldl_keep State.planes _ (fun _ _ => State.setTileAt_planes ..) _ _

section
variable {s : State} {f v : Nat}

theorem forgeSoundWrite_barred (h : s.mode.flows = false ∨ isActive s f = false) : forgeSoundWrite f v s = (scState, s) := by
  unfold forgeSoundWrite
  refine if_pos ?_
  rcases h with h | h <;> simp [h]

/-- A value that does not fit the state of the plane, or finds no image to load from, is refused with STATE. -/
theorem forgeSoundWrite_refused
    (h : (v = 1 ∧ s.planeState f (!s.flag Reg.forgeLivePlane f) ≠ 7) ∨ (v = 2 ∧ s.planeState f (!s.flag Reg.forgeLivePlane f) ≠ 6) ∨
      (v = 3 ∧ (isIdlePlane (s.planeState f (!s.flag Reg.forgeLivePlane f)) = false ∨ s.replaying = true ∨
        imageOf s (s.plane f (!!s.flag Reg.forgeLivePlane f)) = none))) : forgeSoundWrite f v s = (scState, s) := by
  unfold forgeSoundWrite
  dsimp only
  split
  · rfl
  · rcases h with ⟨rfl, h7⟩ | ⟨rfl, h6⟩ | ⟨rfl, h3⟩
    · exact (if_pos rfl).trans (if_neg h7)
    · exact (if_neg (by decide)).trans ((if_pos rfl).trans (if_neg h6))
    · refine (if_neg (by decide)).trans ((if_neg (by decide)).trans ?_)
      rcases h3 with hidle | hreplay | himage
      · exact if_neg (by simp [hidle])
      · exact if_neg (by simp [hreplay])
      · rw [himage]
        exact ite_self _

variable (hfl : s.mode.flows = true) (ha : isActive s f = true)
include hfl ha

theorem forgeSoundWrite_loaded (h : s.planeState f (!s.flag Reg.forgeLivePlane f) = 7) :
    forgeSoundWrite f 1 s = (scOk, awaitSounding s f (!s.flag Reg.forgeLivePlane f)) := by
  simp [forgeSoundWrite, hfl, ha, h]

theorem forgeSoundWrite_stale (h : s.planeState f (!s.flag Reg.forgeLivePlane f) = 6) : forgeSoundWrite f 2 s =
    (scOk, awaitSounding (reprime s f (!s.flag Reg.forgeLivePlane f)) f (!s.flag Reg.forgeLivePlane f)) := by
  simp [forgeSoundWrite, hfl, ha, h]

theorem forgeSoundWrite_reloads {q : Bool} (hq : (!s.flag Reg.forgeLivePlane f) = q) {i : ImagePlan} {p : ForgingPlan}
    (hidle : isIdlePlane (s.planeState f q) = true) (hr : s.replaying = false) (hi : imageOf s (s.plane f (!q)) = some i)
    (hp : planIn i f = some p) (ht : tilesFree s q p = true) (hw : workFits s q p = true) (hl : meetsLive s p = false) :
    forgeSoundWrite f 3 s = (scOk, startLoad s i (s.plane f (!q)).hash (s.plane f (!q)).fromShadow q f) := by
  simp [forgeSoundWrite, hfl, ha, hq, hidle, hr, hi, hp, ht, hw, hl]

end

/-- Settles O25. That a plane which FORGE_SOUND sounds reads SOUNDING at once, and that a reload without room is refused with STATE,
are the model's choices (notes/assumptions/61.md, 117.md; R85, R377, R380). -/
theorem forgeSoundWritesOneToThree : Obligations.ForgeSoundWritesOneToThree := by
  unfold Obligations.ForgeSoundWritesOneToThree
  intro s f hf q st
  refine ⟨fun hfl ha => ⟨fun h7 => ?_, fun h6 => ?_, fun i p hidle hr hi hp ht hw hl => ?_⟩, fun c hm hc => ?_, fun v hm h1 h2 h3 => ?_⟩
  · obtain ⟨u, hu, hout, hplanes, hstate⟩ := writeOn_forgeSound (v := 1#8) hf (Mode.online_of_flows hfl) (by decide)
      (forgeSoundWrite_loaded hfl ha h7)
    exact ⟨u, hu, hout, (hstate q).trans (awaitSounding_planeState ..),
      (State.plane_of_planes hplanes f _).trans (awaitSounding_plane_other ..)⟩
  · obtain ⟨u, hu, hout, hplanes, hstate⟩ := writeOn_forgeSound (v := 2#8) hf (Mode.online_of_flows hfl) (by decide)
      (forgeSoundWrite_stale hfl ha h6)
    exact ⟨u, hu, hout, (hstate q).trans (awaitSounding_planeState ..), (State.plane_of_planes hplanes f _).trans
      ((awaitSounding_plane_other ..).trans (State.plane_of_planes (reprime_planes s f q) f _))⟩
  · obtain ⟨u, hu, hout, hplanes, hstate⟩ := writeOn_forgeSound (v := 3#8) hf (Mode.online_of_flows hfl) (by decide)
      (forgeSoundWrite_reloads hfl ha rfl (isIdlePlane_iff.mpr hidle) hr hi hp ht hw hl)
    obtain ⟨hloading, hplan⟩ := startLoad_loading s i (s.plane f (!q)).hash (s.plane f (!q)).fromShadow q f hp
    refine ⟨u, hu, hout, (hstate q).trans hloading, (congrArg Plane.plan (State.plane_of_planes hplanes f q)).trans hplan, ?_⟩
    exact (State.plane_of_planes hplanes f _).trans
      (startLoad_plane_other s i _ _ q f fun h => Bool.not_ne_self q (congrArg Prod.snd h))
  · have refused {k : Nat} {v : Byte} (hv : v.toNat = k) (hk : 1 ≤ k ∧ k ≤ 3) (hw : forgeSoundWrite f k s = (scState, s)) :
        ∃ t, writeOn (decide (f < 16)) Reg.forgeSound f [v] s = .next t ∧ t.outbox.head? = some (.status 0x08000022) ∧
          t.planes = s.planes ∧ ∀ y, t.planeState f y = s.planeState f y :=
      writeOn_forgeSound hf hm (hv ▸ hk) (hv ▸ hw)
    have held (h : s.mode = .held ∨ isActive s f = false) (k : Nat) : forgeSoundWrite f k s = (scState, s) :=
      forgeSoundWrite_barred (h.imp_left fun hh => by rw [hh]; rfl)
    rcases hc with ⟨rfl, h7⟩ | ⟨rfl, h6⟩ | ⟨rfl, h3⟩ | ⟨rfl | rfl | rfl, h⟩
    · exact refused (v := 1#8) rfl (by decide) (forgeSoundWrite_refused (.inl ⟨rfl, h7⟩))
    · exact refused (v := 2#8) rfl (by decide) (forgeSoundWrite_refused (.inr (.inl ⟨rfl, h6⟩)))
    · refine refused (v := 3#8) rfl (by decide) (forgeSoundWrite_refused (.inr (.inr ⟨rfl, h3.imp_left fun hidle => ?_⟩)))
      exact Bool.eq_false_iff.mpr fun e => hidle (isIdlePlane_iff.mp e)
    · exact refused (v := 1#8) rfl (by decide) (held h 1)
    · exact refused (v := 2#8) rfl (by decide) (held h 2)
    · exact refused (v := 3#8) rfl (by decide) (held h 3)
  · exact registerWrite_forgeSound_refused hf hm h1 h2 h3

end Sys2Proof.Machine
end

section
/-! SUPPORT. A frame that O60 claims and one state breaks: a temper's kernel in the middle of a port operation (R92, R193). -/

namespace Sys2Proof.Machine

/-- The RECV of port N that the kernel meets. -/
def portRecv : Instr := .recv (.temper 0 0) (tFields 0 0 0 0 0)

/-- A temper's kernel has RECV as its next word and has done none of its repetitions, though it counts as fetched; a token leaves the
delay register of tile 0's port N in the present cycle. -/
def recvInKernel : State :=
  { (tTempered 0x08 (tFields 0 0 0 0 0) Regfile.clear).setTemper 0 0
      { ((tTempered 0x08 (tFields 0 0 0 0 0) Regfile.clear).temper 0 0) with
        kernel := some { tKernel Regfile.clear with done := some 0 } } with
    lines := [(0, [{ at' := 0, tok := { data := 0#256, tag := 0#32 } }])] }

/-- The RECV takes the tile's token. -/
theorem recvInKernel_takes : (answered (exec portRecv recvInKernel)).map State.lines = some [(0, [])] := by decide +kernel

/-- Refutes O60: its last frame asks that an instruction on a temper leave the tiles' delay registers. The runner turns RECV away
where a kernel fetches it, and does not ask again for the work on a word that counts as fetched; so RECV runs there, as on tile 0,
and takes a token. No step fetches RECV on a temper, but the statement speaks of every state. -/
theorem not_commandsKeepToTheirOwnState : ¬ Obligations.CommandsKeepToTheirOwnState := by
  unfold Obligations.CommandsKeepToTheirOwnState
  intro h
  obtain ⟨t, ht, -⟩ := (commandsEndAsPresenceSays portRecv recvInKernel).1 (by decide +kernel)
  obtain ⟨-, -, -, -, htemper⟩ := h portRecv recvInKernel t ht
  obtain ⟨-, hlines, -⟩ := htemper 0 0 rfl
  have htaken := recvInKernel_takes
  rw [ht] at htaken
  have hempty : t.lines = [(0, [])] := Option.some.inj htaken
  rw [hempty] at hlines
  exact absurd hlines (by decide)

end Sys2Proof.Machine
end

section
/-! SUPPORT. What a report of an error or a hazard moves: registers of the log's and the node's objects, links and faults
(R155, R300, R371, R375). -/

namespace Sys2Proof.Machine

/-- `t` is `s` but for what reports write: links, faults, and registers outside the indices 0x3000 to 0x3BFF of islands, forgings and
engines. -/
structure Reported (s t : State) : Prop where
  same : ∃ regs links faults, t = { s with regs := regs, links := links, faults := faults }
  reg : ∀ (r : Reg) (n : Nat), 0x300000 ≤ r.key n → r.key n < 0x3C0000 → t.reg r n = s.reg r n

namespace Reported

theorem refl (s : State) : Reported s s := ⟨⟨_, _, _, rfl⟩, fun _ _ _ _ => rfl⟩

theorem trans {s t u : State} (h : Reported s t) (k : Reported t u) : Reported s u := by
  obtain ⟨⟨_, _, _, rfl⟩, hr⟩ := h
  obtain ⟨⟨_, _, _, rfl⟩, kr⟩ := k
  exact ⟨⟨_, _, _, rfl⟩, fun r n h1 h2 => (kr r n h1 h2).trans (hr r n h1 h2)⟩

theorem foldl {α : Type} {f : State → α → State} (h : ∀ s x, Reported s (f s x)) (l : List α) (s : State) : Reported s (l.foldl f s) :=
  foldl_holds (Reported s) f (fun _ x k => k.trans (h _ x)) l s (refl s)

/-! ### What they leave -/

section
variable {s t : State} (h : Reported s t)
include h

theorem tile (d : TileId) (q : Bool) : t.tile d q = s.tile d q := by
  obtain ⟨⟨_, _, _, rfl⟩, -⟩ := h
  rfl

theorem lines : t.lines = s.lines := by
  obtain ⟨⟨_, _, _, rfl⟩, -⟩ := h
  rfl

theorem mem : t.mem = s.mem := by
  obtain ⟨⟨_, _, _, rfl⟩, -⟩ := h
  rfl

theorem clocks : t.clocks = s.clocks := by
  obtain ⟨⟨_, _, _, rfl⟩, -⟩ := h
  rfl

end

/-! ### Reports -/

theorem withFaults (s : State) (x : Faults) : Reported s { s with faults := x } := ⟨⟨_, _, _, rfl⟩, fun _ _ _ _ => rfl⟩

/-- A counter of an object outside the indices of islands, forgings and engines. -/
theorem count (s : State) (r : Reg) (n bits k : Nat) (hr : r.key n < 0x300000 ∨ 0x3C0000 ≤ r.key n) :
    Reported s (s.count r n bits k) :=
  ⟨⟨_, _, _, rfl⟩, fun r' n' h1 h2 => State.reg_count_other _ _ _ (by omega)⟩

theorem log (s : State) (e : Event) : Reported s (s.log e) := by
  unfold State.log
  exact withFaults ..

theorem emcy (s : State) (e : Event) : Reported s (s.emcy e) := by
  refine ⟨s.emcy_eq e, fun r n h1 h2 => s.emcy_reg e r n ?_ (fun k hk => ?_) ?_⟩
  · rw [show Reg.errorRegister.key 0 = 0x100100 from rfl]
    omega
  · rw [show (Reg.errorField.at k).key 0 = 0x100301 + k by simp [Reg.at, Reg.key, Reg.errorField]; omega]
    omega
  · rw [show Reg.canEmcyLost.key 0 = 0x200407 from rfl]
    omega

theorem makeOffer (s : State) (w : Waiting) : Reported s (makeOffer s w) := by
  unfold Machine.makeOffer
  split
  · split
    · exact (withFaults ..).trans (emcy ..)
    · exact withFaults ..
  · exact withFaults ..

theorem remapOffer (s : State) (u : FaultUnit) : Reported s (remapOffer s u) := by
  unfold Machine.remapOffer
  dsimp only
  split
  · exact refl s
  · split
    · exact makeOffer ..
    · exact emcy ..

theorem classify (s : State) (u : FaultUnit) (fails : Bool) (c d : Nat) : Reported s (classify s u fails c d) := by
  have hclass (x : UnitClass) : Reported s (setClass s x) := withFaults ..
  unfold Machine.classify
  dsimp only
  split
  · exact ((hclass _).trans (count _ Reg.fltTransient 0 _ _ (by decide))).trans (log ..)
  · split
    · exact ((hclass _).trans (count _ Reg.fltIntermittent 0 _ _ (by decide))).trans (emcy ..)
    · split
      · exact (((hclass _).trans (count _ Reg.fltPersistent 0 _ _ (by decide))).trans (emcy ..)).trans (remapOffer ..)
      · exact ((hclass _).trans (count _ Reg.fltPersistent 0 _ _ (by decide))).trans (emcy ..)

theorem detect (s : State) (u : FaultUnit) (unc : Bool) (d c : Nat) : Reported s (detect s u unc d c) := by
  unfold Machine.detect
  extract_lets +lift pers ev t
  have ht : Reported s t := by
    simp only [t]
    split
    · exact log ..
    · exact emcy ..
  clear_value t
  split
  · exact ht
  · split
    · exact ht.trans (withFaults ..)
    · split
      · exact ht.trans (classify ..)
      · exact ht.trans (withFaults ..)

theorem hazard (s : State) (cls : Nat) (b : Beat) (f : Nat) (q : Bool) (t : TileId) (slot port d : Nat) :
    Reported s (hazard s cls b f q t slot port d) := by
  have hk : 0x3C0000 ≤ (Reg.hazCount.at (cls - 1)).key 0 := by simp [Reg.at, Reg.key, Reg.hazCount]; omega
  unfold Machine.hazard
  split
  · dsimp only
    split
    · exact (count _ _ _ _ _ (.inr hk)).trans (withFaults ..)
    · exact count _ _ _ _ _ (.inr hk)
  · exact refl s

end Reported

/-! ### Time -/

/-- Cycles that pass move the clocks and the groups' counters. -/
theorem State.runTo_eq (s : State) (c : Nat) : ∃ regs clocks, s.runTo c = { s with regs := regs, clocks := clocks } := by
  have hgroups : ∃ regs, (if s.mode = .off ∨ s.mode = .boot then s else s.harbourList.foldl (groupTick (c - s.clocks.cycle)) s) =
      { s with regs := regs } := by
    split
    · exact ⟨s.regs, rfl⟩
    · refine foldl_holds (fun t => ∃ regs, t = { s with regs := regs }) _ ?_ _ _ ⟨s.regs, rfl⟩
      rintro _ h ⟨regs, rfl⟩
      exact ⟨(groupTick (c - s.clocks.cycle) { s with regs := regs } h).regs, rfl⟩
  obtain ⟨regs, h⟩ := hgroups
  unfold State.runTo State.advance
  rw [h]
  exact ⟨regs, _, rfl⟩

theorem State.runTo_lines (s : State) (c : Nat) : (s.runTo c).lines = s.lines := by
  obtain ⟨_, _, h⟩ := s.runTo_eq c
  rw [h]

theorem State.runTo_plane (s : State) (c f : Nat) (q : Bool) : (s.runTo c).plane f q = s.plane f q := (ForgesKept.runTo s c).plane f q

theorem State.runTo_reg {s : State} {r : Reg} {n : Nat} (h : r.key n < 0x340000) (c : Nat) : (s.runTo c).reg r n = s.reg r n :=
  (ForgesKept.runTo s c).reg r n h

end Sys2Proof.Machine
end

section
/-! SUPPORT. What stands on a tile or a temper after its next instruction: the whole of what the body left, and the REP in force for the
word after it (R92, R152, R193). -/

namespace Sys2Proof.Machine

/-- The REP that the next instruction of a seat repeats by. -/
def seatRepeat (s : State) (u : Seat) : Option Repeat :=
  match u with
  | .tile d q => (s.tile d q).inst.bind Instance.rep
  | .temper h k => (s.temper h k).kernel.bind Kernel.rep

theorem seatExec_u (s : State) (u : Seat) : (seatExec s u).u = u := by
  cases u <;> (unfold seatExec; dsimp only; split <;> rfl)

theorem seatExec_off (s : State) (u : Seat) : (seatExec s u).off = 0 := by
  cases u <;> (unfold seatExec; dsimp only; split <;> rfl)

theorem tile_withPending (s : State) (p : List Instr) (d : TileId) (q : Bool) : ({ s with pending := p } : State).tile d q = s.tile d q := rfl

/-- A tile as its next instruction leaves it: what the body left, with its run on the next word. -/
def tileAfter (s r : State) (d : TileId) (q : Bool) (i : Instance) : State :=
  { r.setTile d q { r.tile d q with inst := some i } with pending := s.pending }

theorem tileAfter_tile (s r : State) (d : TileId) (q : Bool) (i : Instance) :
    (tileAfter s r d q i).tile d q = { r.tile d q with inst := some i } := State.tile_setTile ..

/-- What an instruction that is next on a tile leaves: its body's state, with its run on the next word and the REP that the
instruction leaves (R92, R152). -/
theorem tile_ran {op : Nat} {body : Body} {d : TileId} {q : Bool} {f : AnvilFields} {s : State} {rf : Regfile} {sh : Shape} {r : Ran}
    (h : readyAt s (.tile d q) op f rf) (hs : shapeOf op f = some sh)
    (hr : runOnce op body (seatExec s (.tile d q)) f { s := seatState s (.tile d q), rf := rf, stop := none } = r)
    (hk : progOf (r.s.tile d q) q = progOf (s.tile d q) q) :
    ∃ i, anvil op body (.tile d q) f s = .next (tileAfter s r.s d q i) ∧ ranOn s (tileAfter s r.s d q i) (.tile d q) sh.slots r.rf ∧
      i.rep = nextRepeat op f false := by
  have hseat : s.hasSeat (.tile d q) = true := h.1
  have hrun := tile_runs (body := body) h hs
  obtain ⟨-, i, hi, rfl, -, hrep, -, -, hlen⟩ := h
  have hpos : i.pos + 1 < (progOf (r.s.tile d q) q).length := by rw [hk]; exact hlen
  refine ⟨{ i with
    rf := r.rf, slot := i.slot + sh.slots, pos := i.pos + 1, rep := nextRepeat op f false,
    wrote := ((r.s.tile d q).inst.map Instance.wrote).getD i.wrote }, ?_, ?_, rfl⟩
  · simp only [anvil]
    rw [hseat, hrun, hr]
    simp only [seatNext, hi, tileNext, hrep, repeats, Nat.one_mul, hpos, ↓reduceIte]
    rfl
  · simp only [ranOn, seatRegs, seatPlace, tileAfter_tile, hi, Option.map_some]
    exact ⟨trivial, trivial⟩

/-- A kernel ends without a change of its REP. -/
theorem endKernel_rep (s : State) (h k a b : Nat) :
    ((endKernel s h k a b).temper h k).kernel.bind Kernel.rep = (s.temper h k).kernel.bind Kernel.rep := by
  unfold endKernel
  rw [modKernel_kernel]
  cases (s.temper h k).kernel with
  | none => rfl
  | some x =>
    dsimp only [Option.map_some, Option.bind_some]
    split
    · rfl
    · split <;> rfl

theorem kernelNext_rep {op : Nat} {sh : Shape} {f : AnvilFields} {h k : Nat} {x : Kernel} {r : Ran}
    (hy : ((r.s.temper h k).kernel).isSome = true) :
    ((kernelNext op sh f h k x r).temper h k).kernel.bind Kernel.rep = nextRepeat op f false := by
  obtain ⟨z, hz⟩ := Option.isSome_iff_exists.mp hy
  have hmod (g : Kernel → Kernel) (hg : ∀ y, (g y).rep = nextRepeat op f false) :
      ((modKernel r.s h k g).temper h k).kernel.bind Kernel.rep = nextRepeat op f false := by
    rw [modKernel_kernel, hz]
    exact hg z
  unfold kernelNext
  dsimp only
  generalize (if (decide (op = 0x3C) && predOn x.rf f) = true then xf f 0 14 else x.pos + 1) = pos
  split
  · exact (endKernel_rep ..).trans (hmod _ fun _ => rfl)
  · split
    · exact (endKernel_rep ..).trans (hmod _ fun _ => rfl)
    · exact hmod _ fun _ => rfl

/-- What an instruction that is next on a temper leaves where its body does not stop the kernel: the body's memory, the kernel on the
next word, and the REP that the instruction leaves (R152, R193). -/
theorem temper_ran {op : Nat} {body : Body} {h k : Nat} {f : AnvilFields} {s : State} {rf : Regfile} {sh : Shape} {r : Ran}
    (hr : readyAt s (.temper h k) op f rf) (hs : shapeOf op f = some sh)
    (hrun : runOnce op body (seatExec s (.temper h k)) f { s := seatState s (.temper h k), rf := rf, stop := none } = r)
    (hop : op ≠ 0x3C) (hk : keepsSeat s r.s (.temper h k)) (hw : r.wait = false) (hstop : r.stop = none) :
    ∃ t, anvil op body (.temper h k) f s = .next t ∧ ranOn s t (.temper h k) sh.slots r.rf ∧ t.mem = r.s.mem ∧
      seatRepeat t (.temper h k) = nextRepeat op f false := by
  obtain ⟨t, ht, hran⟩ := anvil_once hr hs hrun hop hk hw
  obtain ⟨x, l, hx, -, hnext⟩ := kernel_runs hr hs r hrun hk hw
  have hseat : s.hasSeat (.temper h k) = true := by simp [State.hasSeat, hr.2.1, hr.2.2.1]
  obtain ⟨y, hy⟩ : ∃ y, (r.s.temper h k).kernel = some y := by
    have hsome : (r.s.temper h k).kernel.map Kernel.place = some x.place := by rw [hk.1, hx]; rfl
    obtain ⟨y, hy, -⟩ := Option.map_eq_some_iff.mp hsome
    exact ⟨y, hy⟩
  have hy' : ((modKernel r.s h k fun y => { y with rf := r.rf, done := some 1, arrived := [] }).temper h k).kernel =
      some { y with rf := r.rf, done := some 1, arrived := [] } := by rw [modKernel_kernel, hy]; rfl
  have hexec : anvil op body (.temper h k) f s = .next { kernelNext op sh f h k { y with rf := r.rf, done := some 1, arrived := [] }
      { s := modKernel r.s h k fun y => { y with rf := r.rf, done := some 1, arrived := [] }, rf := r.rf, stop := none } with
      pending := s.pending } := by
    simp only [anvil]
    rw [hseat, hnext]
    simp only [hstop, seatNext, hy']
    rfl
  refine ⟨t, ht, hran, ?_⟩
  cases ht.symm.trans hexec
  refine ⟨?_, ?_⟩
  · simp
  · exact kernelNext_rep (by rw [hy']; rfl)

end Sys2Proof.Machine
end

section
/-! SUPPORT. Slots, predicates and REP: what the instructions of Table 6.4 that move no data leave, and the repetitions of a register
instruction on a tile (R127, R138, R151, R152, R360). -/

namespace Sys2Proof.Machine

/-! ### The REP that an instruction leaves -/

/-- An instruction on registers alone leaves the repeat of its opcode. -/
theorem regBody_repeat {op : Nat} {g : (Nat → Rnd) → AnvilFields → Regfile → Regfile × Nat} {u : Seat} {f : AnvilFields} {s : State}
    {rf : Regfile} {sh : Shape} (h : readyAt s u op f rf) (hs : shapeOf op f = some sh) (hp : predOn rf f = true) (hop : op ≠ 0x3C) :
    ∃ t, anvil op (regBody g) u f s = .next t ∧ ranOn s t u sh.slots (g (seatRnd s u f) f rf).1 ∧
      seatRepeat t u = nextRepeat op f false := by
  obtain ⟨hti, hre, hca, hha⟩ := countClamps_keeps u (seatState s u) (g (seatRnd s u f) f rf).2
  have hk : keepsSeat s (countClamps u (seatState s u) (g (seatRnd s u f) f rf).2) u := keepsSeat_of h hti hre hca hha
  have hbody : regBody g (seatExec s u) f (seatState s u) rf =
      { s := countClamps u (seatState s u) (g (seatRnd s u f) f rf).2, rf := (g (seatRnd s u f) f rf).1, stop := none } := by
    rw [regBody, seatExec_u]
    rfl
  have hrun := (anvil_on (op := op) (s := s) (u := u) (regBody g) hp (seatState s u)).trans hbody
  cases u with
  | tile d q =>
    obtain ⟨i, hi, hran, hrep⟩ := tile_ran h hs hrun hk
    refine ⟨_, hi, hran, ?_⟩
    rw [seatRepeat, tileAfter_tile]
    exact hrep
  | temper a k =>
    obtain ⟨t, ht, hran, -, hrep⟩ := temper_ran h hs hrun hop hk rfl rfl
    exact ⟨t, ht, hran, hrep⟩

/-! ### Single instructions -/

section
variable {s : State} {u : Seat} {f : AnvilFields} {rf : Regfile}

/-- NOP passes its slots, with its predicate on or off (R138). -/
theorem exec_nop (h : readyAt s u 0x00 f rf) : ∃ t, exec (.nop u f) s = .next t ∧ ranOn s t u (xf f 0 7 + 1) rf := by
  have hexec : exec (.nop u f) s = anvil 0x00 nopBody u f s := rfl
  rw [hexec]
  cases hp : predOn rf f with
  | true => exact regBody_ran h rfl hp (by decide)
  | false => exact anvil_skipped h rfl hp (by decide)

/-- REP is in force for the word after it (R152). -/
theorem exec_rep (h : readyAt s u 0x01 f rf) (hp : predOn rf f = true) : ∃ t, exec (.rep u f) s = .next t ∧ ranOn s t u 1 rf ∧
    seatRepeat t u = some { n := xf f 0 10, sd := xf f 10 2, sa := xf f 12 2, sb := xf f 14 2, sm := xf f 16 4, lost := false } :=
  regBody_repeat (op := 0x01) h rfl hp (by decide)

end

/-! ### Repetitions on a tile -/

/-- `t` is `s` after some cycles and counts. -/
def Ticked (s t : State) : Prop := ∃ regs clocks, t = { s with regs := regs, clocks := clocks }

theorem Ticked.trans {s t u : State} (h : Ticked s t) (k : Ticked t u) : Ticked s u := by
  obtain ⟨_, _, rfl⟩ := h
  obtain ⟨_, _, rfl⟩ := k
  exact ⟨_, _, rfl⟩

theorem Ticked.tile {s t : State} (h : Ticked s t) (d : TileId) (q : Bool) : t.tile d q = s.tile d q := by
  obtain ⟨_, _, rfl⟩ := h
  rfl

/-- The draws of a slot come from the plane's seed, which neither time nor counts move (Table 16.5). -/
theorem Ticked.draw {s t : State} (h : Ticked s t) (q : Bool) (tl : Tile) (i : Instance) (slot : Nat) :
    tileDraw t q tl i slot = tileDraw s q tl i slot := by
  obtain ⟨_, _, rfl⟩ := h
  rfl

theorem countClamps_ticked (u : Seat) (s : State) (n : Nat) : Ticked s (countClamps u s n) := by
  unfold countClamps
  split
  · exact ⟨_, _, rfl⟩
  · split <;> exact ⟨_, _, rfl⟩

section
variable {g : (Nat → Rnd) → AnvilFields → Regfile → Regfile × Nat} (hg : ∀ rnd f rf, (g rnd f rf).1.p = rf.p)
  {s : State} {d : TileId} {q : Bool} {tl : Tile} {i : Instance} {f : AnvilFields} (sh : Shape) (op : Nat)

theorem fieldsAt_pred (r : Option Repeat) (j : Nat) (f : AnvilFields) (rf : Regfile) : predOn rf (fieldsAt sh r j f) = predOn rf f := by
  cases r <;> rfl

theorem fieldsAt_rm (r : Option Repeat) (j : Nat) (f : AnvilFields) : (fieldsAt sh r j f).rm = f.rm := by
  cases r <;> rfl

/-- The registers after repetition `j` of a register instruction: its fields are stepped, and its slot has its own draws (R152, R360). -/
def repeatRegs (g : (Nat → Rnd) → AnvilFields → Regfile → Regfile × Nat) (s : State) (q : Bool) (tl : Tile) (i : Instance)
    (f : AnvilFields) (sh : Shape) (rf : Regfile) (j : Nat) : Regfile :=
  (g (rounding f.rm (tileDraw s q tl i (i.slot + j * sh.slots))) (fieldsAt sh i.rep j f) rf).1

/-- One repetition works on the registers that stand, and moves nothing but time and counts beside them. -/
theorem tileOnce_regBody {x : Ran} (hx : Ticked s x.s) (hstop : x.stop = none) (hp : predOn x.rf f = true) (j : Nat) :
    Ticked s (tileOnce op (regBody g) sh f d q tl i false x j).s ∧ (tileOnce op (regBody g) sh f d q tl i false x j).stop = none ∧
      (tileOnce op (regBody g) sh f d q tl i false x j).rf = repeatRegs g s q tl i f sh x.rf j := by
  have honce : tileOnce op (regBody g) sh f d q tl i false x j =
      { s := countClamps (.tile d q) (x.s.runTo (issueCycle x.s i.start (i.slot + j * sh.slots)))
          (g (rounding (fieldsAt sh i.rep j f).rm (tileDraw x.s q tl i (i.slot + j * sh.slots))) (fieldsAt sh i.rep j f) x.rf).2
        rf := (g (rounding (fieldsAt sh i.rep j f).rm (tileDraw x.s q tl i (i.slot + j * sh.slots))) (fieldsAt sh i.rep j f) x.rf).1
        stop := none } := by
    simp only [tileOnce, runOnce, hstop, Bool.false_and, Bool.false_eq_true, ↓reduceIte, fieldsAt_pred, hp, Bool.not_true, Bool.and_false]
    rfl
  rw [honce]
  dsimp only
  refine ⟨(hx.trans (x.s.runTo_eq (issueCycle x.s i.start (i.slot + j * sh.slots)))).trans (countClamps_ticked ..), rfl, ?_⟩
  rw [fieldsAt_rm, hx.draw]
  rfl

include hg in
/-- All repetitions: each works on the registers that the one before it left. -/
theorem tileRepeats_regBody {x : Ran} (hx : Ticked s x.s) (hstop : x.stop = none) (hp : predOn x.rf f = true) (n : Nat) :
    Ticked s ((List.range n).foldl (tileOnce op (regBody g) sh f d q tl i false) x).s ∧
      ((List.range n).foldl (tileOnce op (regBody g) sh f d q tl i false) x).rf = (List.range n).foldl (repeatRegs g s q tl i f sh) x.rf := by
  have hpred (l : List Nat) : ((l.foldl (repeatRegs g s q tl i f sh) x.rf)).p = x.rf.p :=
    foldl_fixed Regfile.p _ (fun _ _ => hg ..) l x.rf
  suffices h : Ticked s ((List.range n).foldl (tileOnce op (regBody g) sh f d q tl i false) x).s ∧
      ((List.range n).foldl (tileOnce op (regBody g) sh f d q tl i false) x).stop = none ∧
      ((List.range n).foldl (tileOnce op (regBody g) sh f d q tl i false) x).rf = (List.range n).foldl (repeatRegs g s q tl i f sh) x.rf from
    ⟨h.1, h.2.2⟩
  induction n with
  | zero => exact ⟨hx, hstop, rfl⟩
  | succ n ih =>
    obtain ⟨hticked, hnone, hregs⟩ := ih
    have hp' : predOn ((List.range n).foldl (tileOnce op (regBody g) sh f d q tl i false) x).rf f = true := by
      rw [hregs, predOn, hpred]
      exact hp
    rw [List.range_succ, List.foldl_append, List.foldl_append, ← hregs]
    exact tileOnce_regBody sh op hticked hnone hp' n

end

section
variable {g : (Nat → Rnd) → AnvilFields → Regfile → Regfile × Nat} (hg : ∀ rnd f rf, (g rnd f rf).1.p = rf.p) {s : State} {d : TileId}
  {q : Bool} {i : Instance} {f : AnvilFields} {sh : Shape} {op : Nat} (ht : s.hasTile d = true) (hi : (s.tile d q).inst = some i)
  (hq : tagPlane i.rf.it = q) (hs : shapeOf op f = some sh) (hp : predOn i.rf f = true)
  (hw : (progOf (s.tile d q) q)[i.pos]? = some (encodeWord op f)) (hl : wordLost (s.tile d q) q i = false)
include hg ht hi hq hs hp hw hl

/-- The next word of a program, where it is a register instruction, runs as often as the REP before it says (R92, R152). -/
theorem anvil_repeated : ∃ x : Ran, Ticked s x.s ∧
    x.rf = (List.range (repeats i.rep)).foldl (repeatRegs g s q (s.tile d q) i f sh) i.rf ∧
    anvil op (regBody g) (.tile d q) f s = .next { tileNext op sh f d q i false x with pending := s.pending } := by
  have hx : Ticked s ({ s := s, rf := i.rf, stop := none } : Ran).s := ⟨_, _, rfl⟩
  obtain ⟨hticked, hregs⟩ := tileRepeats_regBody hg (d := d) (tl := s.tile d q) (i := i) (q := q) sh op hx rfl hp (repeats i.rep)
  refine ⟨_, hticked, hregs, ?_⟩
  have hseat : s.hasSeat (.tile d q) = true := ht
  simp only [anvil]
  rw [hseat]
  simp only [runTile, hi, hs, hq, hw, hl, beq_self_eq_true, Bool.and_self, ↓reduceIte, Bool.false_eq_true]
  rfl

end

/-- The run moves to the next word, where there is one. -/
theorem tileNext_tile {op : Nat} {sh : Shape} {f : AnvilFields} {d : TileId} {q : Bool} {i : Instance} {s : State} {x : Ran}
    (hx : Ticked s x.s) (hi : (s.tile d q).inst = some i) (p : List Instr) :
    (({ tileNext op sh f d q i false x with pending := p } : State).tile d q).inst =
      if i.pos + 1 < (progOf (s.tile d q) q).length then
        some { i with rf := x.rf, slot := i.slot + repeats i.rep * sh.slots, pos := i.pos + 1, rep := nextRepeat op f false }
      else none := by
  rw [tile_withPending, tileNext]
  simp only [State.tile_setTile, hx.tile, hi, Option.map_some, Option.getD_some]

/-! ### VMAX under REP -/

/-- VMAX on registers. -/
def vmaxRegs (rnd : Nat → Rnd) (f : AnvilFields) (rf : Regfile) : Regfile × Nat :=
  match fmtOf f with
  | none => (rf, 0)
  | some m =>
    let o := mapElems m rnd (fun a b _ => a.max b) (vReg rf f.a.toNat).toNat (vReg rf f.b.toNat).toNat (vReg rf f.d.toNat).toNat
    (setV rf f.d.toNat (BitVec.ofNat 256 o.word), o.clamps)

theorem exec_vmax_eq (u : Seat) (f : AnvilFields) (s : State) : exec (.vmax u f) s = anvil 0x24 (regBody vmaxRegs) u f s := rfl

theorem vmaxRegs_p (rnd : Nat → Rnd) (f : AnvilFields) (rf : Regfile) : (vmaxRegs rnd f rf).1.p = rf.p := by
  unfold vmaxRegs
  split <;> rfl

/-- The shape of VMAX in Table 6.4. -/
def vmaxShape : Shape := ⟨1, true, .reg, .reg, .reg⟩

theorem stepField_reg (v : BitVec 4) (n : Nat) : (stepField .reg v n).toNat = (v.toNat + n) % 16 := by
  simp [stepField]

/-- Repetition `k` of VMAX under a REP, in the terms of R139 and R152. -/
theorem repeatRegs_vmax {s : State} {q : Bool} {tl : Tile} {i : Instance} {f : AnvilFields} {m : Fmt} {r : Repeat} (hm : fmtOf f = some m)
    (hr : i.rep = some r) (rf : Regfile) (k : Nat) : repeatRegs vmaxRegs s q tl i f vmaxShape rf k =
      setV rf ((f.d.toNat + k * r.sd) % 16) (BitVec.ofNat 256 (packElems m ((List.range m.count).map fun j =>
        (roundInto m (rounding f.rm (tileDraw s q tl i (i.slot + k)) j)
          ((elemNum m (vReg rf ((f.a.toNat + k * r.sa) % 16)).toNat j).max (elemNum m (vReg rf ((f.b.toNat + k * r.sb) % 16)).toNat j))).code))) := by
  have hfmt : fmtOf (fieldsAt vmaxShape (some r) k f) = some m := hm
  have hfields : fieldsAt vmaxShape (some r) k f = { f with
    d := stepField .reg f.d (k * r.sd), a := stepField .reg f.a (k * r.sa), b := stepField .reg f.b (k * r.sb) } := rfl
  rw [hfields] at hfmt
  have hslots : vmaxShape.slots = 1 := rfl
  simp only [repeatRegs, hr, vmaxRegs, hfmt, hfields, hslots, Nat.mul_one, stepField_reg, mapElems, packRounded, List.map_map]
  rfl

/-- Settles O14. -/
theorem slotsPredicatesAndRepeats : Obligations.SlotsPredicatesAndRepeats := by
  unfold Obligations.SlotsPredicatesAndRepeats
  refine ⟨fun s u f rf => ⟨exec_nop, fun h hp => ?_, fun hp => ⟨fun h => ?_, fun h => ?_, fun h => ?_⟩⟩,
    fun s d q f i m ht hi hq hm hp hw hl => ⟨fun r hrep hlost hlen => ?_, fun hrep hlen => ?_⟩⟩
  · obtain ⟨t, ht, hran, hrep⟩ := exec_rep h hp
    refine ⟨t, ht, hran, ?_⟩
    cases u <;> exact hrep
  · exact regBody_ran h rfl hp (by decide)
  · exact regBody_ran h rfl hp (by decide)
  · exact regBody_ran h rfl hp (by decide)
  · have hwhole : wordLost (s.tile d q) q i = false := by simp only [wordLost, hl, hrep, Option.map_some, hlost, Option.getD_some, Bool.or_self]
    obtain ⟨x, hx, hregs, hexec⟩ := anvil_repeated vmaxRegs_p (sh := vmaxShape) ht hi hq rfl hp hw hwhole
    have hinst := tileNext_tile (op := 0x24) (sh := vmaxShape) (f := f) hx hi s.pending
    rw [if_pos hlen] at hinst
    refine ⟨_, _, (exec_vmax_eq ..).trans hexec, hinst, ?_, rfl, rfl, ?_⟩
    · rw [hrep]
      exact congrArg (i.slot + ·) (Nat.mul_one _)
    · dsimp only
      rw [hregs, hrep]
      have hstep := funext fun rf => funext fun k => repeatRegs_vmax (s := s) (q := q) (tl := s.tile d q) hm hrep rf k
      rw [hstep]
      rfl
  · have hwhole : wordLost (s.tile d q) q i = false := by simp only [wordLost, hl, hrep, Option.map_none, Option.getD_none, Bool.or_self]
    obtain ⟨x, hx, -, hexec⟩ := anvil_repeated vmaxRegs_p (sh := vmaxShape) ht hi hq rfl hp hw hwhole
    have hinst := tileNext_tile (op := 0x24) (sh := vmaxShape) (f := f) hx hi s.pending
    rw [if_neg (by omega)] at hinst
    exact ⟨_, (exec_vmax_eq ..).trans hexec, hinst⟩

end Sys2Proof.Machine
end

section
/-! SUPPORT. The state and the place in which a seat's next instruction does its work, and what the reads of constants, working words and
scratchpads leave of them (R85, R193, R214, R371). -/

namespace Sys2Proof.Machine

/-! ### The seat -/

section
variable {s : State} {d : TileId} {q : Bool} {i : Instance} (hi : (s.tile d q).inst = some i)
include hi

theorem seatState_tile : seatState s (.tile d q) = s.runTo (issueCycle s i.start i.slot) := by
  simp only [seatState, hi]

theorem seatExec_tile : seatExec s (.tile d q) =
    { u := .tile d q, lost := false, slot := i.slot, off := 0, cycle := issueCycle s i.start i.slot, beat := i.beat,
      draw := tileDraw s q (s.tile d q) i i.slot } := by
  simp only [seatExec, hi]

end

/-- What an instruction that is next on a tile leaves, with its predicate on. -/
theorem tile_ran_on {op : Nat} {body : Body} {d : TileId} {q : Bool} {f : AnvilFields} {s : State} {rf : Regfile} {sh : Shape} {r : Ran}
    (h : readyAt s (.tile d q) op f rf) (hs : shapeOf op f = some sh) (hp : predOn rf f = true)
    (hr : body (seatExec s (.tile d q)) f (seatState s (.tile d q)) rf = r) (hk : progOf (r.s.tile d q) q = progOf (s.tile d q) q) :
    ∃ i, anvil op body (.tile d q) f s = .next (tileAfter s r.s d q i) ∧ ranOn s (tileAfter s r.s d q i) (.tile d q) sh.slots r.rf := by
  obtain ⟨i, hi, hran, -⟩ := tile_ran h hs ((anvil_on body hp _).trans hr) hk
  exact ⟨i, hi, hran⟩

theorem tileAfter_byte {s r : State} (d : TileId) (q : Bool) (i : Instance) (h : r.mem = s.mem) (a : Nat) :
    (tileAfter s r d q i).byte a = s.byte a := congrArg (storeGet · a) h

/-! ### Reads of a temper -/

/-- The reads of a kernel's instruction leave the kernel in its place. -/
def placeKept (s t : State) (h k : Nat) : Prop := (t.temper h k).kernel.map Kernel.place = (s.temper h k).kernel.map Kernel.place

theorem firstRead_place (s : State) (h k c a : Nat) : placeKept s (firstRead s h k c a).1 h k := by
  obtain ⟨g, hg, hgx⟩ := firstRead_kernel s h k c a
  rw [placeKept, hg, Option.map_map]
  refine congrArg (Option.map · _) (funext fun x => ?_)
  rw [Function.comp_apply, hgx x]
  rfl

theorem temperBits_place (s : State) (h k c a : Nat) : placeKept s (temperBits s h k c a).s h k := by
  unfold temperBits
  dsimp only
  split
  · exact firstRead_place ..
  · exact (firstRead_place ..).trans (firstRead_place ..)

theorem notePoison_clean {h k l : Nat} {r : MemRead} (hp : r.poison = false) : notePoison h k l r = r := by
  rw [notePoison, hp]
  rfl

theorem notePoison_poison (h k l : Nat) (r : MemRead) : (notePoison h k l r).poison = r.poison := by
  unfold notePoison
  split <;> rfl

theorem temperConst_place {s : State} {h k w : Nat} (hp : (temperConst s h k w).poison = false) :
    placeKept s (temperConst s h k w).s h k := by
  unfold temperConst at hp ⊢
  dsimp only at hp ⊢
  split at hp
  · rw [if_pos ‹_›]
    rfl
  · rw [if_neg ‹_›]
    cases hstop : accessStop s h ((arOf s h k 7 + 32 * w) % 2 ^ 64) with
    | some x => rfl
    | none =>
      rw [hstop] at hp
      dsimp only at hp ⊢
      rw [notePoison_clean ((notePoison_poison ..).symm.trans hp)]
      exact temperBits_place ..

/-! ### Constants -/

section
variable {op : Nat} {s : State} {u : Seat} {f : AnvilFields} {rf : Regfile} (h : readyAt s u op f rf)
include h

/-- A clean constant word leaves the seat, where the temper's caches hold it (R193, R214). -/
theorem constWord_keepsSeat {w : Nat} (hp : (constWord (seatExec s u) (seatState s u) w).poison = false)
    (hm : missedNothing (constWord (seatExec s u) (seatState s u) w).s u = true) :
    keepsSeat s (constWord (seatExec s u) (seatState s u) w).s u := by
  have hkept := keepsSeat_state h
  unfold constWord at hp hm ⊢
  rw [seatExec_u] at hp hm ⊢
  cases u with
  | tile d q => exact hkept
  | temper a k => exact ⟨(temperConst_place hp).trans hkept.1, List.isEmpty_iff.mp hm⟩

/-- So do two of them. -/
theorem constPair_keepsSeat {w : Nat} (hs : (constPair (seatExec s u) (seatState s u) w).stop = none)
    (hp : (constPair (seatExec s u) (seatState s u) w).poison = false)
    (hm : missedNothing (constPair (seatExec s u) (seatState s u) w).s u = true) :
    keepsSeat s (constPair (seatExec s u) (seatState s u) w).s u := by
  have hkept := keepsSeat_state h
  unfold constPair constWord at hs hp hm ⊢
  rw [seatExec_u] at hs hp hm ⊢
  cases u with
  | tile d q => exact hkept
  | temper a k =>
    dsimp only at hs hp hm ⊢
    cases hstop : (temperConst (seatState s (.temper a k)) a k w).stop with
    | some x =>
      rw [hstop] at hs
      dsimp only at hs
      rw [hstop] at hs
      cases hs
    | none =>
      rw [hstop] at hp hm
      dsimp only at hp hm ⊢
      obtain ⟨hp1, hp2⟩ := Bool.or_eq_false_iff.mp hp
      exact ⟨(temperConst_place hp2).trans ((temperConst_place hp1).trans hkept.1), List.isEmpty_iff.mp hm⟩

end

theorem constError_clean (e : Exec) (s : State) (w : Nat) : constError e s w .clean = s := by
  unfold constError
  split <;> rfl

/-- A read that neither stops nor finds poison writes its bits, and ORs its flags. -/
theorem loadInto_clean {f : AnvilFields} {rf : Regfile} {r : MemRead} (hs : r.stop = none) (hp : r.poison = false) :
    loadInto f rf r = { s := r.s, rf := orFlags (setV rf f.d.toNat (BitVec.ofNat 256 r.data)) r.fl, stop := none } := by
  rw [loadInto, hs, rawBits, hp]
  rfl

theorem orFlags_zero (rf : Regfile) : orFlags rf 0#5 = rf := by
  rw [orFlags, BitVec.or_zero]

/-! ### Working words of a tile -/

theorem setWorking_tile (s : State) (d : TileId) (q : Bool) (w : Nat) (v : Word256) :
    (setWorking s d q w v).tile d q = { s.tile d q with work := storeSet (s.tile d q).work w v } := State.tile_setTile ..

theorem markWrote_tile (s : State) (d : TileId) (q : Bool) (w : Nat) : ∃ i, (markWrote s d q w).tile d q = { s.tile d q with inst := i } :=
  ⟨_, State.tile_setTile ..⟩

theorem ldwHazard_reported (e : Exec) (f : AnvilFields) (s : State) (rf : Regfile) : Reported s (ldwHazard e f s rf) := by
  unfold ldwHazard
  dsimp only
  split
  · exact .hazard ..
  · exact .refl s

end Sys2Proof.Machine
end

section
/-! SUPPORT. LDC, LDW, HLD and ACCI, STW and HPUSH on the seats of O16 (R138, R141, R150, R193, R371). -/

namespace Sys2Proof.Machine

/-! ### Constants into registers -/

/-- 512 bits as raw codes are the 16 fields of the number (R141). -/
theorem rawLanes_ofNat (n : Nat) : rawLanes (BitVec.ofNat 512 n).toNat =
    (List.range 16).map fun k => BitVec.ofNat 32 (field (n % 2 ^ 512) (32 * k) 32) :=
  congrArg (fun m => (List.range 16).map fun k => BitVec.ofNat 32 (field m (32 * k) 32)) (BitVec.toNat_ofNat n 512)

section
variable {s : State} {u : Seat} {f : AnvilFields} {rf : Regfile} (hp : predOn rf f = true)
include hp

theorem exec_ldc_clean (h : readyAt s u 0x10 f rf) (hs : (constWord (seatExec s u) (seatState s u) (xf f 0 11)).stop = none)
    (hc : (constWord (seatExec s u) (seatState s u) (xf f 0 11)).poison = false)
    (hm : missedNothing (constWord (seatExec s u) (seatState s u) (xf f 0 11)).s u = true) :
    ∃ t, exec (.ldc u f .clean) s = .next t ∧ ranOn s t u 1
      (orFlags (setV rf f.d.toNat (BitVec.ofNat 256 (constWord (seatExec s u) (seatState s u) (xf f 0 11)).data))
        (constWord (seatExec s u) (seatState s u) (xf f 0 11)).fl) := by
  have hbody := loadInto_clean (f := f) (rf := rf) hs hc
  refine anvil_ran (op := 0x10) (body := ldcBody .clean) h rfl hp (r := {
    s := (constWord (seatExec s u) (seatState s u) (xf f 0 11)).s
    rf := orFlags (setV rf f.d.toNat (BitVec.ofNat 256 (constWord (seatExec s u) (seatState s u) (xf f 0 11)).data))
      (constWord (seatExec s u) (seatState s u) (xf f 0 11)).fl
    stop := none }) ?_ (by decide) (constWord_keepsSeat h hc hm) rfl
  rw [← hbody, ldcBody, constError_clean, seatExec_off, Nat.add_zero]

theorem exec_acci_zero (h : readyAt s u 0x18 f rf) (hx : f.x.getLsbD 16 = false) :
    ∃ t, exec (.acci u f) s = .next t ∧ ranOn s t u 1 (setAcc rf f.d.toNat (List.replicate 16 0#32) 0) := by
  refine anvil_ran (op := 0x18) (body := acciBody) h rfl hp
    (r := { s := seatState s u, rf := setAcc rf f.d.toNat (List.replicate 16 0#32) 0, stop := none }) ?_ (by decide) (keepsSeat_state h) rfl
  rw [acciBody, hx]
  rfl

theorem exec_acci_constants (h : readyAt s u 0x18 f rf) (hx : f.x.getLsbD 16 = true)
    (hs : (constPair (seatExec s u) (seatState s u) (xf f 0 11)).stop = none)
    (hc : (constPair (seatExec s u) (seatState s u) (xf f 0 11)).poison = false)
    (hm : missedNothing (constPair (seatExec s u) (seatState s u) (xf f 0 11)).s u = true) :
    ∃ t, exec (.acci u f) s = .next t ∧ ranOn s t u 1 (orFlags (setAcc rf f.d.toNat
      ((List.range 16).map fun k => BitVec.ofNat 32
        (field ((constPair (seatExec s u) (seatState s u) (xf f 0 11)).data % 2 ^ 512) (32 * k) 32)) 0)
      (constPair (seatExec s u) (seatState s u) (xf f 0 11)).fl) := by
  refine anvil_ran (op := 0x18) (body := acciBody) h rfl hp (r := {
    s := (constPair (seatExec s u) (seatState s u) (xf f 0 11)).s
    rf := orFlags (setAcc rf f.d.toNat ((List.range 16).map fun k => BitVec.ofNat 32
      (field ((constPair (seatExec s u) (seatState s u) (xf f 0 11)).data % 2 ^ 512) (32 * k) 32)) 0)
      (constPair (seatExec s u) (seatState s u) (xf f 0 11)).fl
    stop := none }) ?_ (by decide) (constPair_keepsSeat h hs hc hm) rfl
  rw [acciBody, if_pos hx, seatExec_off, Nat.add_zero]
  simp only [hs, rawBits, hc, Bool.false_eq_true, ↓reduceIte, rawLanes_ofNat]

end

/-- HPUSH stores A and, under debug, notes the push: the word, and the tile's notes of pushes. -/
theorem hpushBody_stores {e : Exec} {f : AnvilFields} {t : State} {rf : Regfile} {w : Nat}
    (hw : histWord e t (xf f 0 4) (xf f 4 4) 0 rf = some w) : ∃ r, hpushBody e f t rf = { s := r, rf := rf, stop := none } ∧
    r.mem = t.mem ∧ ∃ pushed, r.tile e.t e.q =
      { t.tile e.t e.q with work := storeSet (t.tile e.t e.q).work w (vReg rf f.a.toNat), pushed := pushed } := by
  refine ⟨_, by rw [hpushBody, hw], ?_⟩
  split
  · exact ⟨rfl, _, by rw [State.tile_setTile, setWorking_tile]⟩
  · exact ⟨setWorking_mem .., _, setWorking_tile ..⟩

/-! ### Words of a tile into registers -/

section
variable {s : State} {d : TileId} {q : Bool} {f : AnvilFields} {rf : Regfile} {i : Instance} (hi : (s.tile d q).inst = some i)
  (hp : predOn rf f = true)
include hi hp

/-- A working word that a read finds clean. -/
theorem exec_ldw_tile (h : readyAt s (.tile d q) 0x11 f rf) : ∃ t, exec (.ldw (.tile d q) f .clean) s = .next t ∧
    ranOn s t (.tile d q) 1 (setV rf f.d.toNat (storeGet (s.tile d q).work (workBase (s.tile d q) q + xf f 0 10))) := by
  have hrep := ldwHazard_reported (seatExec s (.tile d q)) f (seatState s (.tile d q)) rf
  have htile : (ldwHazard (seatExec s (.tile d q)) f (seatState s (.tile d q)) rf).tile d q = s.tile d q := by
    rw [hrep.tile, seatState_tile hi, State.runTo_tile]
  have hread : ldwRead (seatExec s (.tile d q)) f .clean (ldwHazard (seatExec s (.tile d q)) f (seatState s (.tile d q)) rf) =
      { s := ldwHazard (seatExec s (.tile d q)) f (seatState s (.tile d q)) rf
        data := (storeGet (s.tile d q).work (workBase (s.tile d q) q + xf f 0 10)).toNat, fl := 0#5, poison := false, stop := none } := by
    rw [ldwRead, seatExec_u, seatExec_off, Nat.add_zero]
    simp only [tileWorking, readError, htile]
  have hbody : ldwBody .clean (seatExec s (.tile d q)) f (seatState s (.tile d q)) rf = {
      s := ldwHazard (seatExec s (.tile d q)) f (seatState s (.tile d q)) rf
      rf := setV rf f.d.toNat (storeGet (s.tile d q).work (workBase (s.tile d q) q + xf f 0 10)), stop := none } := by
    rw [ldwBody, hread, loadInto_clean rfl rfl, orFlags_zero, BitVec.ofNat_toNat, BitVec.setWidth_eq]
  obtain ⟨j, hj, hran⟩ := tile_ran_on (op := 0x11) (body := ldwBody .clean) h rfl hp hbody (congrArg (progOf · q) htile)
  exact ⟨_, hj, hran⟩

theorem exec_hld (h : readyAt s (.tile d q) 0x14 f rf) {x : History} (hx : historyOf (s.tile d q) q (xf f 0 4) = some x) :
    ∃ t, exec (.hld (.tile d q) f .clean) s = .next t ∧ ranOn s t (.tile d q) 1 (setV rf f.d.toNat (storeGet (s.tile d q).work
      (historyWord (s.tile d q) q x i.beat (s.plane (tagForging rf.it) q).first (xf f 8 16) (xf f 4 4)))) := by
  have hexec := seatExec_tile hi
  have hstate : seatState s (.tile d q) = s.runTo (issueCycle s i.start i.slot) := seatState_tile hi
  have hword : histWord (seatExec s (.tile d q)) (seatState s (.tile d q)) (xf f 0 4) (xf f 4 4) (xf f 8 16) rf =
      some (historyWord (s.tile d q) q x i.beat (s.plane (tagForging rf.it) q).first (xf f 8 16) (xf f 4 4)) := by
    rw [hexec, hstate]
    simp only [histWord, Exec.t, Exec.q, State.runTo_tile, hx, Option.map_some, State.runTo_plane]
  have hread (t : State) (htile : t.tile d q = s.tile d q) (w : Nat) (b : Beat) : loadInto f rf (tileWorking t d q w .clean b) =
      { s := t, rf := setV rf f.d.toNat (storeGet (s.tile d q).work w), stop := none } := by
    rw [loadInto_clean rfl rfl]
    simp only [tileWorking, readError, htile, orFlags_zero, BitVec.ofNat_toNat, BitVec.setWidth_eq]
  obtain ⟨t, ht⟩ : ∃ t, Reported (seatState s (.tile d q)) t ∧ hldBody .clean (seatExec s (.tile d q)) f (seatState s (.tile d q)) rf =
      loadInto f rf (tileWorking t d q
        (historyWord (s.tile d q) q x i.beat (s.plane (tagForging rf.it) q).first (xf f 8 16) (xf f 4 4)) .clean i.beat) := by
    rw [hldBody, hword]
    dsimp only
    rw [hexec]
    split
    · exact ⟨_, .hazard .., rfl⟩
    · exact ⟨_, .refl _, rfl⟩
  obtain ⟨hrep, hbody⟩ := ht
  have htile : t.tile d q = s.tile d q := by rw [hrep.tile, hstate, State.runTo_tile]
  obtain ⟨j, hj, hran⟩ := tile_ran_on (op := 0x14) (body := hldBody .clean) h rfl hp (hbody.trans (hread t htile ..))
    (congrArg (progOf · q) htile)
  exact ⟨_, hj, hran⟩

end

/-! ### An uncorrectable constant of a tile (R371) -/

/-- The part that a single lost 64-bit word names, and no other part, is cleared. -/
theorem clearLost_one (q : Bool) (w : Nat) {part : Nat} (h : part < 4) (v : Word256) :
    clearLost [(q, 4 * w + part)] q w v = clearPart v part := by
  have hmem (k : Nat) : [(q, 4 * w + part)].contains (q, 4 * w + k) = decide (k = part) := by
    rw [Bool.eq_iff_iff, List.contains_iff_mem, List.mem_singleton, decide_eq_true_eq]
    simp
  simp only [clearLost, hmem]
  interval_cases part <;> rfl

theorem anyLost_one (q : Bool) (w : Nat) {part : Nat} (h : part < 4) : anyLost [(q, 4 * w + part)] q w = true := by
  rw [anyLost, List.any_eq_true]
  exact ⟨part, List.mem_range.mpr h, by simp⟩

/-- An error of a tile's word is noted in the tile, then reported. -/
theorem readError_lost (s : State) (d : TileId) (q : Bool) (w p : Nat) (b : Beat) : ∃ m n,
    (readError s d q .const w (.lost p) b).tile d q = loseTileWord (s.tile d q) .const q (4 * w + p % 4) m n := by
  refine ⟨b, s.primeDepth (forgingOf (s.tile d q) q) q, ?_⟩
  exact ((Reported.detect ..).tile d q).trans (State.tile_setTile s d q _)

section
variable {s : State} {d : TileId} {q : Bool} {f : AnvilFields} {rf : Regfile} {i : Instance} (hi : (s.tile d q).inst = some i)
  (hp : predOn rf f = true)
include hi hp

theorem exec_ldc_lost (h : readyAt s (.tile d q) 0x10 f rf) {part : Nat} (h4 : part < 4) (hl : (s.tile d q).lostConst = []) :
    ∃ t, exec (.ldc (.tile d q) f (.lost part)) s = .next t ∧
      ranOn s t (.tile d q) 1 (setV { rf with fl := rf.fl ||| 0b01000#5 } f.d.toNat
        (clearPart (storeGet (if q then (s.tile d q).const1 else (s.tile d q).const0) (xf f 0 11)) part)) ∧
      (t.tile d q).lostConst = [(q, 4 * xf f 0 11 + part)] := by
  obtain ⟨m, n, herr⟩ := readError_lost (seatState s (.tile d q)) d q (xf f 0 11) part (seatExec s (.tile d q)).beat
  generalize ht : readError (seatState s (.tile d q)) d q .const (xf f 0 11) (.lost part) (seatExec s (.tile d q)).beat = t at herr
  have htile : t.tile d q = { s.tile d q with lostConst := [(q, 4 * xf f 0 11 + part)] } := by
    rw [herr, seatState_tile hi, State.runTo_tile, loseTileWord, hl, Nat.mod_eq_of_lt h4]
    rfl
  have hread : tileConst t d q (xf f 0 11) = {
      s := t
      data := (clearPart (storeGet (if q then (s.tile d q).const1 else (s.tile d q).const0) (xf f 0 11)) part).toNat
      fl := flDegraded, poison := false, stop := none } := by
    simp only [tileConst, htile, clearLost_one q _ h4, anyLost_one q _ h4, ↓reduceIte]
  have hbody : ldcBody (.lost part) (seatExec s (.tile d q)) f (seatState s (.tile d q)) rf = {
      s := t
      rf := orFlags (setV rf f.d.toNat (clearPart (storeGet (if q then (s.tile d q).const1 else (s.tile d q).const0) (xf f 0 11)) part)) flDegraded
      stop := none } := by
    rw [ldcBody, seatExec_off, Nat.add_zero, constError, constWord, seatExec_u]
    dsimp only
    rw [ht, hread, loadInto_clean rfl rfl, BitVec.ofNat_toNat, BitVec.setWidth_eq]
  obtain ⟨j, hj, hran⟩ := tile_ran_on (op := 0x10) (body := ldcBody (.lost part)) h rfl hp hbody (by dsimp only; rw [htile]; cases q <;> rfl)
  refine ⟨_, hj, hran, ?_⟩
  rw [tileAfter_tile]
  dsimp only
  rw [htile]

/-! ### Words of a tile from registers -/

theorem exec_stw_tile (h : readyAt s (.tile d q) 0x12 f rf) : ∃ t, exec (.stw (.tile d q) f) s = .next t ∧
    ranOn s t (.tile d q) 1 rf ∧
    (t.tile d q).work = storeSet (s.tile d q).work (workBase (s.tile d q) q + xf f 0 10) (vReg rf f.a.toNat) ∧
    ∀ a, t.byte a = s.byte a := by
  have hS : (seatState s (.tile d q)).tile d q = s.tile d q := by rw [seatState_tile hi, State.runTo_tile]
  obtain ⟨x, hx⟩ := markWrote_tile (seatState s (.tile d q)) d q (xf f 0 10)
  have hbody : stwBody (seatExec s (.tile d q)) f (seatState s (.tile d q)) rf = {
      s := setWorking (markWrote (seatState s (.tile d q)) d q (xf f 0 10)) d q (workBase (s.tile d q) q + xf f 0 10) (vReg rf f.a.toNat)
      rf := rf, stop := none } := by
    rw [stwBody, seatExec_u, seatExec_off, Nat.add_zero]
    dsimp only
    rw [hS]
  obtain ⟨j, hj, hran⟩ := tile_ran_on (op := 0x12) (body := stwBody) h rfl hp hbody (by
    dsimp only
    rw [setWorking_tile, hx, hS]
    cases q <;> rfl)
  refine ⟨_, hj, hran, ?_, tileAfter_byte d q j ?_⟩
  · rw [tileAfter_tile]
    dsimp only
    rw [setWorking_tile, hx, hS]
  · rw [seatState_tile hi]
    simp

theorem exec_hpush (h : readyAt s (.tile d q) 0x13 f rf) {x : History} (hx : historyOf (s.tile d q) q (xf f 0 4) = some x) :
    ∃ t, exec (.hpush (.tile d q) f) s = .next t ∧ ranOn s t (.tile d q) 1 rf ∧ (∀ a, t.byte a = s.byte a) ∧
      (t.tile d q).work = storeSet (s.tile d q).work
        (historyWord (s.tile d q) q x i.beat (s.plane (tagForging rf.it) q).first 0 (xf f 4 4)) (vReg rf f.a.toNat) := by
  have hexec := seatExec_tile hi
  have hstate : seatState s (.tile d q) = s.runTo (issueCycle s i.start i.slot) := seatState_tile hi
  have hword : histWord (seatExec s (.tile d q)) (seatState s (.tile d q)) (xf f 0 4) (xf f 4 4) 0 rf =
      some (historyWord (s.tile d q) q x i.beat (s.plane (tagForging rf.it) q).first 0 (xf f 4 4)) := by
    rw [hexec, hstate]
    simp only [histWord, Exec.t, Exec.q, State.runTo_tile, hx, Option.map_some, State.runTo_plane]
  obtain ⟨r, hbody, hmem, pushed, htile⟩ := hpushBody_stores hword
  rw [hstate, State.runTo_mem] at hmem
  have htile : r.tile d q = { s.tile d q with
      work := storeSet (s.tile d q).work (historyWord (s.tile d q) q x i.beat (s.plane (tagForging rf.it) q).first 0 (xf f 4 4))
        (vReg rf f.a.toNat)
      pushed := pushed } := by
    rw [hexec, hstate, State.runTo_tile] at htile
    exact htile
  obtain ⟨j, hj, hran⟩ := tile_ran_on (op := 0x13) (body := hpushBody) h rfl hp hbody (by
    dsimp only
    rw [htile]
    cases q <;> rfl)
  refine ⟨_, hj, hran, tileAfter_byte d q j hmem, ?_⟩
  rw [tileAfter_tile]
  dsimp only
  rw [htile]

end

/-! ### The scratchpad of a temper -/

/-- The fetch of an instruction keeps the canonical form of the memory. -/
theorem seatState_wf (s : State) (u : Seat) (hw : Memory.wf s = true) : storeWf (seatState s u).mem = true := by
  cases u with
  | tile d q =>
    unfold seatState
    dsimp only
    split
    · rw [State.runTo_mem]
      exact hw
    · exact hw
  | temper h k =>
    unfold seatState
    dsimp only
    split
    · next x _ =>
      have hread := firstRead_wf s h k 3 x.next hw
      rw [modKernel_mem, seatFetch, modKernel_mem]
      split
      · rw [commitCmd_mem]
        exact hread
      · exact hread
    · exact hw

section
variable {s : State} {h k : Nat} {f : AnvilFields} {rf : Regfile} (hp : predOn rf f = true)
include hp

theorem exec_ldw_temper (hr : readyAt s (.temper h k) 0x11 f rf)
    (hc : (seatState s (.temper h k)).poisoned (scratchAddr h k (xf f 0 10) / 64) = false) :
    ∃ t, exec (.ldw (.temper h k) f .clean) s = .next t ∧ ranOn s t (.temper h k) 1
      (setV rf f.d.toNat (BitVec.ofNat 256 (leNat ((seatState s (.temper h k)).load (scratchAddr h k (xf f 0 10)) 32)))) := by
  have hhaz : ldwHazard (seatExec s (.temper h k)) f (seatState s (.temper h k)) rf = seatState s (.temper h k) := by
    have htemper : (seatExec s (.temper h k)).onTile = false := by rw [Exec.onTile, seatExec_u]
    simp only [ldwHazard, htemper, Bool.false_and, Bool.false_eq_true, ↓reduceIte]
  have hread : ldwRead (seatExec s (.temper h k)) f .clean (seatState s (.temper h k)) =
      { s := seatState s (.temper h k), data := leNat ((seatState s (.temper h k)).load (scratchAddr h k (xf f 0 10)) 32), fl := 0#5,
        poison := false, stop := none } := by
    rw [ldwRead, seatExec_u, seatExec_off, Nat.add_zero]
    dsimp only [temperWorking, arrayError]
    rw [notePoison_clean hc, hc]
  refine anvil_ran (op := 0x11) (body := ldwBody .clean) hr rfl hp (r := {
    s := seatState s (.temper h k)
    rf := setV rf f.d.toNat (BitVec.ofNat 256 (leNat ((seatState s (.temper h k)).load (scratchAddr h k (xf f 0 10)) 32)))
    stop := none }) ?_ (by decide) (keepsSeat_state hr) rfl
  rw [ldwBody, hhaz, hread, loadInto_clean rfl rfl, orFlags_zero]

theorem exec_stw_temper (hr : readyAt s (.temper h k) 0x12 f rf) : ∃ t, exec (.stw (.temper h k) f) s = .next t ∧
    ranOn s t (.temper h k) 1 rf ∧
    t.mem = storeWrite (seatState s (.temper h k)).mem (scratchAddr h k (xf f 0 10)) (leBytes 32 (vReg rf f.a.toNat).toNat) ∧
    (Memory.wf s = true → ∀ b, b < scratchAddr h k (xf f 0 10) ∨ scratchAddr h k (xf f 0 10) + 32 ≤ b →
      t.byte b = (seatState s (.temper h k)).byte b) := by
  have hbody : stwBody (seatExec s (.temper h k)) f (seatState s (.temper h k)) rf = {
      s := (seatState s (.temper h k)).store (scratchAddr h k (xf f 0 10)) (leBytes 32 (vReg rf f.a.toNat).toNat), rf := rf, stop := none } := by
    rw [stwBody, seatExec_u, seatExec_off, Nat.add_zero]
  have hkeeps (a : Nat) (l : List Byte) : keepsSeat s ((seatState s (.temper h k)).store a l) (.temper h k) := keepsSeat_of hr rfl rfl rfl rfl
  obtain ⟨t, ht, hran, hmem, -⟩ := temper_ran (op := 0x12) (body := stwBody) hr rfl ((anvil_on _ hp _).trans hbody) (by decide)
    (hkeeps ..) rfl rfl
  dsimp only [State.store] at hmem
  refine ⟨t, ht, hran, hmem, fun hw b hb => ?_⟩
  have hlen : (leBytes 32 (vReg rf f.a.toNat).toNat).length = 32 := leBytes_length ..
  have hout := storeGet_storeWrite (seatState s (.temper h k)).mem (scratchAddr h k (xf f 0 10)) b (leBytes 32 (vReg rf f.a.toNat).toNat)
    (seatState_wf s _ hw)
  rw [hlen, if_neg (by omega)] at hout
  rw [State.byte, hmem]
  exact hout

end

/-- Settles O16. -/
theorem loadsAndStoresOfWords : Obligations.LoadsAndStoresOfWords := by
  unfold Obligations.LoadsAndStoresOfWords
  refine ⟨⟨fun s u f rf hp => ?_, fun s d q f rf i hi => ?_, fun s h k f rf hr hp => exec_ldw_temper hp hr⟩,
    fun s d q f rf i hi hp => ?_, fun s h k f rf hr hp => exec_stw_temper hp hr⟩
  · exact ⟨exec_ldc_clean hp, exec_acci_zero hp, exec_acci_constants hp⟩
  · exact ⟨fun h hp => exec_ldw_tile hi hp h, fun x h hp hx => exec_hld hi hp h hx, fun part h4 h hp hl => exec_ldc_lost hi hp h h4 hl⟩
  · exact ⟨exec_stw_tile hi hp, fun x h hx => exec_hpush hi hp h hx⟩

end Sys2Proof.Machine
end

section
/-! SUPPORT. RECV and SEND of a tile (R86, R87, R92, R147, R148): what a tap and the path of a data token move, and what the cycles before
a slot leave of the fabric. -/

namespace Sys2Proof.Machine

/-! ### Tokens on the way -/

theorem tap_faults (s : State) (kind place colRow port : Nat) (q : Bool) (tok : Token) (b : Beat) :
    ∃ x, tap s kind place colRow port q tok b = { s with faults := x } := by
  refine foldl_holds (fun t => ∃ x, t = { s with faults := x }) _ ?_ _ _ ⟨s.faults, rfl⟩
  rintro _ i ⟨x, rfl⟩
  dsimp only
  split
  · unfold tapInto
    dsimp only
    split <;> exact ⟨_, rfl⟩
  · exact ⟨x, rfl⟩

/-- A data token that is VALID crosses pass-through registers unchanged, and taps alone note it (R89, R363). -/
theorem crossPass_valid (f : Nat) (q : Bool) (b : Beat) (t : TileId) (i o : Port) (s : State) {tok : Token} (hv : tagValid tok.tag = true) :
    ∃ x, crossPass f q b t i o (s, tok) = ({ s with faults := x }, tok) := by
  obtain ⟨x, hx⟩ := tap_faults s 1 t.island (t.col * 16 + t.row) (portIdx o) q tok b
  exact ⟨x, by simp only [crossPass, hv, ↓reduceIte, hx]⟩

theorem crossPasses_valid (s : State) (f : Nat) (q : Bool) (b : Beat) (seen : List (TileId × Port)) (path : List PathEl) {tok : Token}
    (hv : tagValid tok.tag = true) : ∃ x, crossPasses s f q b seen path tok = ({ s with faults := x }, tok) := by
  refine foldl_holds (fun y => ∃ x, y = ({ s with faults := x }, tok)) _ ?_ _ _ ⟨s.faults, rfl⟩
  rintro _ el ⟨x, rfl⟩
  cases el with
  | pass t i o =>
    obtain ⟨y, hy⟩ := crossPass_valid f q b t i o { s with faults := x } hv
    dsimp only
    rw [hy]
    split
    · exact ⟨x, rfl⟩
    · exact ⟨y, rfl⟩
  | _ => exact ⟨x, rfl⟩

/-- A data token over the one powered route of its source to a tile port stands in that port's delay register (R86, R87). -/
theorem launchToken_port {s : State} {f : Nat} {q : Bool} {src : Source} {l : Link} {d : TileId} {p : Port} {tok : Token}
    (hl : routesFrom s f q src = [l]) (hp : pathPowered s l.path = true) (hd : l.dst = .port d p) (ho : s.domainOn d.island = true)
    (hv : tagValid tok.tag = true) (c : Nat) (b : Beat) :
    ∃ x, launchToken s f q src c b tok = { s with
      faults := x
      lines := tabMod [] s.lines (lineKey d p q)
        (insertTimed { at' := c + pathDelay s f q l.path + tabGet 0 (s.plane f q).portDelay (portKey d p), tok := tok }) } := by
  obtain ⟨x, hx⟩ := crossPasses_valid s f q b [] l.path hv
  refine ⟨x, ?_⟩
  have hon : ({ s with faults := x } : State).domainOn d.island = true := ho
  simp only [launchToken, hl, List.filter_singleton, hp, cond_true, crossRoutes, hx, hd, deliver, hon, ↓reduceIte]
  rfl

/-- So it does after a tap at its source: the delay register of its destination holds it, and every tile is as before. -/
theorem launchToken_tap_port {s : State} {f : Nat} {q : Bool} {src : Source} {l : Link} {d : TileId} {p : Port} {tok : Token}
    (hl : routesFrom s f q src = [l]) (hp : pathPowered s l.path = true) (hd : l.dst = .port d p) (ho : s.domainOn d.island = true)
    (hv : tagValid tok.tag = true) (c kind place colRow port : Nat) (b : Beat) :
    ∃ t, launchToken (tap s kind place colRow port q tok b) f q src c b tok = t ∧ (∀ d q, t.tile d q = s.tile d q) ∧
      t.lines = tabMod [] s.lines (lineKey d p q)
        (insertTimed { at' := c + pathDelay s f q l.path + tabGet 0 (s.plane f q).portDelay (portKey d p), tok := tok }) := by
  obtain ⟨x, hx⟩ := tap_faults s kind place colRow port q tok b
  obtain ⟨y, hy⟩ := launchToken_port (s := { s with faults := x }) hl hp hd ho hv c b
  exact ⟨_, (congrArg (launchToken · f q src c b tok) hx).trans hy, fun _ _ => rfl, rfl⟩

/-! ### What says where a token goes -/

/-- `t` has the planes, remap tables, delay registers and powered domains of `s`. -/
structure RoutesKept (s t : State) : Prop where
  planes : t.planes = s.planes
  remaps : t.remaps = s.remaps
  carrier : t.carrier = s.carrier
  lines : t.lines = s.lines
  domains : ∀ n, t.domainOn n = s.domainOn n

namespace RoutesKept

theorem trans {s t u : State} (h : RoutesKept s t) (k : RoutesKept t u) : RoutesKept s u :=
  ⟨k.planes.trans h.planes, k.remaps.trans h.remaps, k.carrier.trans h.carrier, k.lines.trans h.lines,
    fun n => (k.domains n).trans (h.domains n)⟩

theorem count (s : State) (r : Reg) (n bits k : Nat) (h : r.sub % 256 ≠ 2) : RoutesKept s (s.count r n bits k) := by
  refine ⟨rfl, rfl, rfl, rfl, fun m => ?_⟩
  have hkey : r.key n ≠ Reg.pwrDomainState.key m := by
    intro hk
    simp only [Reg.key, Reg.pwrDomainState] at hk
    omega
  rw [State.domainOn, State.domainOn, State.reg_count_other _ _ _ hkey]

theorem runTo (s : State) (c : Nat) : RoutesKept s (s.runTo c) := by
  have hgroups : RoutesKept s (if s.mode = .off ∨ s.mode = .boot then s else s.harbourList.foldl (groupTick (c - s.clocks.cycle)) s) := by
    split
    · exact ⟨rfl, rfl, rfl, rfl, fun _ => rfl⟩
    · refine foldl_holds (RoutesKept s) _ (fun t h ht => ht.trans ?_) _ _ ⟨rfl, rfl, rfl, rfl, fun _ => rfl⟩
      exact (count _ _ _ _ _ (by decide)).trans (count _ _ _ _ _ (by decide))
  exact ⟨hgroups.planes, hgroups.remaps, hgroups.carrier, hgroups.lines, hgroups.domains⟩

theorem hazard (s : State) (cls : Nat) (b : Beat) (f : Nat) (q : Bool) (t : TileId) (slot port d : Nat)
    (h : (Reg.hazCount.at (cls - 1)).sub % 256 ≠ 2) : RoutesKept s (hazard s cls b f q t slot port d) := by
  have hcount := count s _ 0 32 1 h
  unfold Machine.hazard
  split
  · dsimp only
    split
    · exact ⟨hcount.planes, hcount.remaps, hcount.carrier, hcount.lines, hcount.domains⟩
    · exact hcount
  · exact ⟨rfl, rfl, rfl, rfl, fun _ => rfl⟩

theorem noteSent (s : State) (e : Exec) (p : Port) (tag : Tag) : RoutesKept s (noteSent s e p tag) := by
  have hmarks (t : State) (h : RoutesKept s t) (b : Bool) (beat : Beat) (f n m k : Nat) :
      RoutesKept s (if b then Machine.hazard t 7 beat f e.q e.t n m k else t) := by
    split
    · exact h.trans (hazard _ _ _ _ _ _ _ _ _ (by decide))
    · exact h
  refine hmarks _ ?_ ..
  split <;> exact ⟨rfl, rfl, rfl, rfl, fun _ => rfl⟩

section
variable {s t : State} (h : RoutesKept s t)
include h

theorem plane (f : Nat) (q : Bool) : t.plane f q = s.plane f q := by rw [State.plane, State.plane, h.planes]

theorem routesFrom (f : Nat) (q : Bool) (src : Source) : routesFrom t f q src = routesFrom s f q src := by
  rw [Machine.routesFrom, Machine.routesFrom, h.plane]

theorem pathPowered (p : List PathEl) : pathPowered t p = pathPowered s p := by
  rw [Machine.pathPowered, Machine.pathPowered, show t.domainOn = s.domainOn from funext h.domains]

theorem crossByte (f : Nat) (q : Bool) (i r : Nat) : crossByte t f q i r = crossByte s f q i r := by
  rw [Machine.crossByte, Machine.crossByte, h.plane, State.remap, State.remap, State.remapFactory, State.remapFactory, h.remaps, h.carrier]

theorem pathDelay (f : Nat) (q : Bool) (p : List PathEl) : pathDelay t f q p = pathDelay s f q p := by
  have hel (el : PathEl) : elDelay (portPad t f q) t f q el = elDelay (portPad s f q) s f q el := by
    cases el <;> simp only [elDelay, portPad, h.plane, h.crossByte]
  rw [Machine.pathDelay, Machine.pathDelay, show elDelay (portPad t f q) t f q = _ from funext hel]

end

end RoutesKept

/-! ### RECV -/

/-- No token has left a delay register before the cycle in which its first one leaves (R95). -/
theorem purge_due {s : State} {t : TileId} {p : Port} {q : Bool} {x : Timed} (h : lineHead s t p q = some x) :
    purge s t p q x.at' = s := by
  obtain ⟨ys, hys⟩ := List.head?_eq_some_iff.mp h
  rw [purge, hys, List.takeWhile_cons_of_neg (by simp)]
  rfl

theorem purge_empty {s : State} {t : TileId} {p : Port} {q : Bool} (h : tabGet [] s.lines (lineKey t p q) = []) (c : Nat) :
    purge s t p q c = s := by
  rw [purge, h]
  rfl

theorem recvToken_valid {e : Exec} {tok : Token} {rf : Regfile} (f : AnvilFields) (p : Port) (s : State) (hlost : e.lost = false)
    (hv : tagValid tok.tag = true) (ht : sameTrigger tok.tag rf.it = true) :
    recvToken e f p tok s rf = { s := s, rf := setV (orFlags rf (tagFlags tok.tag)) f.d.toNat tok.data, stop := none } := by
  have hit (g : BitVec 5) (n : Nat) (v : Word256) : (setV (orFlags rf g) n v).it = rf.it := rfl
  simp only [recvToken, hv, hlost, Bool.false_eq_true, ↓reduceIte, hit, ht]

/-- A RECV with no token counts a port fault of its tile (R147). -/
theorem recvMissing_reported (e : Exec) (f : AnvilFields) (p : Port) (s : State) (rf : Regfile) (hi : e.t.island < 64) :
    ∃ t, (recvMissing e f p s rf).s = t ∧ (∀ d q, t.tile d q = s.tile d q) ∧
      t.reg Reg.islPortFaults e.t.island = (s.reg Reg.islPortFaults e.t.island + 1) % 2 ^ 32 := by
  have hrep : Reported (s.count Reg.islPortFaults e.t.island) (recvMissing e f p s rf).s := .trans (.detect ..) (.hazard ..)
  refine ⟨_, rfl, fun d q => hrep.tile d q, ?_⟩
  rw [hrep.reg _ _ (by simp only [Reg.key, Reg.islPortFaults]; omega) (by simp only [Reg.key, Reg.islPortFaults]; omega),
    State.reg_count_same]

/-- The islands of a carrier are 0 to 63. -/
theorem State.hasIsland_lt {s : State} {n : Nat} (h : s.hasIsland n = true) : n < 64 := by
  have hrows : gradeRows s.carrier.grade ≤ 8 := by
    unfold gradeRows
    split <;> decide
  simp only [State.hasIsland, gradeIsland, decide_eq_true_eq] at h
  omega

theorem State.island_lt {s : State} {d : TileId} (h : s.hasTile d = true) : d.island < 64 := by
  simp only [State.hasTile, Bool.and_eq_true] at h
  obtain ⟨⟨hisland, -⟩, -⟩ := h
  exact State.hasIsland_lt hisland

/-! ### SEND -/

theorem sentTag_valid (it : Tag) (fl : BitVec 5) (copy last : Bool) (seq : BitVec 4) : tagValid (sentTag it fl copy last seq) = true := by
  simp only [tagValid, sentTag, makeTag, BitVec.getLsbD_append]
  rfl

/-- A tile that no fault degrades sends the flags of its registers (R148). -/
theorem sendTag_sound {s : State} {e : Exec} (f : AnvilFields) (rf : Regfile)
    (hc : tileDegrades s e.t.island e.t.row (physCol (s.remapByte e.t.island e.t.row e.q) e.t.col) = false)
    (hd : (s.tile e.t e.q).degraded = []) :
    sendTag s e f rf = sentTag rf.it rf.fl (f.x.getLsbD 7) (f.x.getLsbD 6) (BitVec.ofNat 4 (xf f 2 4)) := by
  simp only [sendTag, hc, beatDegraded, hd, List.any_nil, Bool.or_self, Bool.false_eq_true, ↓reduceIte]

/-- The cycles that pass leave the faults of a tile. -/
theorem tileDegrades_runTo (s : State) (c island row col : Nat) : tileDegrades (s.runTo c) island row col = tileDegrades s island row col := by
  obtain ⟨_, _, h⟩ := s.runTo_eq c
  rw [h]
  rfl

theorem noteSent_prog (s : State) (e : Exec) (p : Port) (tag : Tag) :
    progOf ((noteSent s e p tag).tile e.t e.q) e.q = progOf (s.tile e.t e.q) e.q := by
  have hmarks (t : State) (b : Bool) (beat : Beat) (f n m k : Nat) :
      (if b then hazard t 7 beat f e.q e.t n m k else t).tile e.t e.q = t.tile e.t e.q := by
    split
    · exact (Reported.hazard ..).tile ..
    · rfl
  unfold noteSent
  dsimp only
  rw [hmarks]
  split
  · rw [State.tile_setTile]
    cases e.q <;> rfl
  · rfl

section
variable {s : State} {d : TileId} {q : Bool} {f : AnvilFields} {rf : Regfile} {i : Instance} (hi : (s.tile d q).inst = some i)
  (hp : predOn rf f = true)
include hi hp

theorem exec_send {l : Link} {d2 : TileId} {p2 : Port} (h : readyAt s (.tile d q) 0x09 f rf)
    (hl : routesFrom s (tagForging rf.it) q (.tile d (portOf (xf f 0 2))) = [l]) (hpow : pathPowered s l.path = true)
    (hd : l.dst = .port d2 p2) (ho : s.domainOn d2.island = true)
    (hc : tileDegrades s d.island d.row (physCol (s.remapByte d.island d.row q) d.col) = false) (hdeg : (s.tile d q).degraded = []) :
    ∃ t, exec (.send (.tile d q) f) s = .next t ∧ ranOn s t (.tile d q) 1 rf ∧
      tabGet [] t.lines (lineKey d2 p2 q) = insertTimed
        { at' := issueCycle s i.start i.slot + 1 + pathDelay s (tagForging rf.it) q l.path +
            tabGet 0 (s.plane (tagForging rf.it) q).portDelay (portKey d2 p2),
          tok := { data := vReg rf f.a.toNat,
                   tag := sentTag rf.it rf.fl (f.x.getLsbD 7) (f.x.getLsbD 6) (BitVec.ofNat 4 (xf f 2 4)) } }
        (tabGet [] s.lines (lineKey d2 p2 q)) := by
  have hexec := seatExec_tile hi
  have hstate : seatState s (.tile d q) = s.runTo (issueCycle s i.start i.slot) := seatState_tile hi
  have hrun := RoutesKept.runTo s (issueCycle s i.start i.slot)
  have htile : (seatState s (.tile d q)).tile d q = s.tile d q := by rw [hstate, State.runTo_tile]
  have htag : sendTag (seatState s (.tile d q)) (seatExec s (.tile d q)) f rf =
      sentTag rf.it rf.fl (f.x.getLsbD 7) (f.x.getLsbD 6) (BitVec.ofNat 4 (xf f 2 4)) := by
    refine sendTag_sound f rf ?_ ?_
    · rw [hexec, hstate, tileDegrades_runTo, State.remapByte, State.remap, State.remapFactory, hrun.remaps, hrun.carrier]
      exact hc
    · rw [hexec]
      exact (congrArg Tile.degraded htile).trans hdeg
  generalize htok : ({ data := vReg rf f.a.toNat, tag := sentTag rf.it rf.fl (f.x.getLsbD 7) (f.x.getLsbD 6) (BitVec.ofNat 4 (xf f 2 4)) } :
    Token) = tok
  have hvalid : tagValid tok.tag = true := by rw [← htok]; exact sentTag_valid ..
  generalize hn : noteSent (seatState s (.tile d q)) (seatExec s (.tile d q)) (portOf (xf f 0 2)) tok.tag = n
  have hkept : RoutesKept s n := by
    rw [← hn, hstate]
    exact hrun.trans (.noteSent ..)
  have hprog : progOf (n.tile d q) q = progOf (s.tile d q) q := by
    rw [← htile, ← hn]
    have := noteSent_prog (seatState s (.tile d q)) (seatExec s (.tile d q)) (portOf (xf f 0 2)) tok.tag
    rw [hexec] at this ⊢
    exact this
  obtain ⟨t, ht, htiles, hlines⟩ := launchToken_tap_port ((hkept.routesFrom ..).trans hl) ((hkept.pathPowered _).trans hpow) hd
    ((hkept.domains _).trans ho) hvalid (issueCycle s i.start i.slot + 1) 1 d.island (d.col * 16 + d.row) (portIdx (portOf (xf f 0 2))) i.beat
  have hbody : sendBody (seatExec s (.tile d q)) f (seatState s (.tile d q)) rf = { s := t, rf := rf, stop := none } := by
    rw [← ht, ← hn, ← htok, ← htag, hexec]
    rfl
  obtain ⟨j, hj, hran⟩ := tile_ran_on (op := 0x09) (body := sendBody) h rfl hp hbody ((congrArg (progOf · q) (htiles d q)).trans hprog)
  refine ⟨_, hj, hran, ?_⟩
  calc tabGet [] t.lines (lineKey d2 p2 q) = _ := by rw [hlines, tabMod, tabGet_tabSet_same]
    _ = _ := by rw [hkept.pathDelay, hkept.plane, hkept.lines]

theorem exec_recv_token {x : Timed} (h : readyAt s (.tile d q) 0x08 f rf) (hx : lineHead s d (portOf (xf f 0 2)) q = some x)
    (hat : x.at' = issueCycle s i.start i.slot) (hv : tagValid x.tok.tag = true) (ht : sameTrigger x.tok.tag rf.it = true) :
    ∃ t, exec (.recv (.tile d q) f) s = .next t ∧
      ranOn s t (.tile d q) 1 (setV { rf with fl := rf.fl ||| tagFlags x.tok.tag } f.d.toNat x.tok.data) ∧
      tabGet [] t.lines (lineKey d (portOf (xf f 0 2)) q) = (tabGet [] s.lines (lineKey d (portOf (xf f 0 2)) q)).tail := by
  have hexec := seatExec_tile hi
  have hstate : seatState s (.tile d q) = s.runTo (issueCycle s i.start i.slot) := seatState_tile hi
  have hlines : (seatState s (.tile d q)).lines = s.lines := by rw [hstate, State.runTo_lines]
  have hhead : lineHead (seatState s (.tile d q)) d (portOf (xf f 0 2)) q = some x := by rw [lineHead, hlines]; exact hx
  have hpurge := purge_due hhead
  rw [hat] at hpurge
  have htake (e : Exec) (he : e.lost = false) : recvToken e f (portOf (xf f 0 2)) x.tok (dropLine (seatState s (.tile d q)) d (portOf (xf f 0 2)) q) rf =
      { s := dropLine (seatState s (.tile d q)) d (portOf (xf f 0 2)) q
        rf := setV (orFlags rf (tagFlags x.tok.tag)) f.d.toNat x.tok.data, stop := none } := recvToken_valid f _ _ he hv ht
  have hbody : recvBody (seatExec s (.tile d q)) f (seatState s (.tile d q)) rf = {
      s := dropLine (seatState s (.tile d q)) d (portOf (xf f 0 2)) q
      rf := setV (orFlags rf (tagFlags x.tok.tag)) f.d.toNat x.tok.data, stop := none } := by
    rw [hexec]
    dsimp only [recvBody, Exec.t, Exec.q]
    rw [hpurge, hhead]
    dsimp only
    rw [if_pos hat]
    exact htake _ rfl
  have hkeep : (dropLine (seatState s (.tile d q)) d (portOf (xf f 0 2)) q).tile d q = s.tile d q := by
    rw [show (dropLine (seatState s (.tile d q)) d (portOf (xf f 0 2)) q).tile d q = (seatState s (.tile d q)).tile d q from rfl, hstate,
      State.runTo_tile]
  obtain ⟨j, hj, hran⟩ := tile_ran_on (op := 0x08) (body := recvBody) h rfl hp hbody (congrArg (progOf · q) hkeep)
  refine ⟨_, hj, hran, ?_⟩
  calc tabGet [] (dropLine (seatState s (.tile d q)) d (portOf (xf f 0 2)) q).lines (lineKey d (portOf (xf f 0 2)) q)
      = (tabGet [] (seatState s (.tile d q)).lines (lineKey d (portOf (xf f 0 2)) q)).tail := tabGet_tabSet_same ..
    _ = _ := by rw [hlines]

theorem exec_recv_missing (h : readyAt s (.tile d q) 0x08 f rf) (hnone : tabGet [] s.lines (lineKey d (portOf (xf f 0 2)) q) = []) :
    ∃ t, exec (.recv (.tile d q) f) s = .next t ∧
      ranOn s t (.tile d q) 1 (setV { rf with fl := rf.fl ||| 0b01000#5 } f.d.toNat
        (BitVec.ofNat 256 (invalidWord (portFmt (s.tile d q) q (portOf (xf f 0 2)))))) ∧
      t.reg Reg.islPortFaults d.island = (s.reg Reg.islPortFaults d.island + 1) % 2 ^ 32 := by
  have hexec := seatExec_tile hi
  have hstate : seatState s (.tile d q) = s.runTo (issueCycle s i.start i.slot) := seatState_tile hi
  have hlines : tabGet [] (seatState s (.tile d q)).lines (lineKey d (portOf (xf f 0 2)) q) = [] := by
    rw [hstate, State.runTo_lines]
    exact hnone
  have hisland : d.island < 64 := State.island_lt h.1
  obtain ⟨t, ht, htiles, hreg⟩ := recvMissing_reported (seatExec s (.tile d q)) f (portOf (xf f 0 2)) (seatState s (.tile d q)) rf
    (by rw [hexec]; exact hisland)
  have htile : t.tile d q = s.tile d q := by rw [htiles, hstate, State.runTo_tile]
  have hbody : recvBody (seatExec s (.tile d q)) f (seatState s (.tile d q)) rf = {
      s := t, rf := setV (orFlags rf flDegraded) f.d.toNat (BitVec.ofNat 256 (invalidWord (portFmt (s.tile d q) q (portOf (xf f 0 2)))))
      stop := none } := by
    have hhead : lineHead (seatState s (.tile d q)) d (portOf (xf f 0 2)) q = none := by rw [lineHead, hlines]; rfl
    rw [← ht, hexec]
    dsimp only [recvBody, Exec.t, Exec.q]
    rw [purge_empty hlines, hhead]
    dsimp only [recvMissing, Exec.t, Exec.q]
    rw [hstate, State.runTo_tile]
    rfl
  obtain ⟨j, hj, hran⟩ := tile_ran_on (op := 0x08) (body := recvBody) h rfl hp hbody (congrArg (progOf · q) htile)
  refine ⟨_, hj, hran, ?_⟩
  rw [hexec, hstate, State.runTo_reg (by simp only [Reg.key, Reg.islPortFaults]; dsimp only [Exec.t]; omega)] at hreg
  exact hreg

end

/-- Settles O15. -/
theorem receiveAndSend : Obligations.ReceiveAndSend := by
  unfold Obligations.ReceiveAndSend
  intro s d q f rf i hi
  exact ⟨fun x h hp hx hat hv ht => exec_recv_token hi hp h hx hat hv ht, fun h hp hnone => exec_recv_missing hi hp h hnone,
    fun l d2 p2 h hp hl hpow hd ho hc hdeg => exec_send hi hp h hl hpow hd ho hc hdeg⟩

end Sys2Proof.Machine
end

section
/-! SUPPORT. Tokens that a tile discards, the hazard log's clear, and what a banked cycle serves (R92, R93, R95, R149, R155, R363, R371). -/

namespace Sys2Proof.Machine

/-! ### Tokens discarded -/

theorem dropLine_lines (s : State) (d : TileId) (p : Port) (q : Bool) :
    tabGet [] (dropLine s d p q).lines (lineKey d p q) = (tabGet [] s.lines (lineKey d p q)).tail := tabGet_tabSet_same ..

/-- A VALID trigger token that leaves its delay register while the tile is occupied is dropped (R149). -/
theorem triggerArrives_busy {s : State} {d : TileId} {q : Bool} {p : TilePlan} {x : Timed} (hp : planOf (s.tile d q) q = some p)
    (hx : lineHead s d p.trigger q = some x) (hv : tagValid x.tok.tag = true) (hb : x.at' ≤ (s.tile d q).busyTo) :
    triggerArrives s d q = dropTrigger (dropLine (s.runTo x.at') d p.trigger q) d q x.tok := by
  have htile : (dropLine (s.runTo x.at') d p.trigger q).tile d q = s.tile d q := State.runTo_tile ..
  simp only [triggerArrives, hp, hx, hv, ↓reduceIte, htile, hb]

theorem dropTrigger_reported (s : State) (d : TileId) (q : Bool) (tok : Token) :
    Reported (s.count Reg.islTrigDrops d.island) (dropTrigger s d q tok) := .hazard ..

theorem exec_triggerArrival_busy {s : State} {d : TileId} {q : Bool} {p : TilePlan} {x : Timed} (ht : s.hasTile d = true)
    (hp : planOf (s.tile d q) q = some p) (hx : lineHead s d p.trigger q = some x) (hv : tagValid x.tok.tag = true)
    (hb : x.at' ≤ (s.tile d q).busyTo) : ∃ t, exec (.triggerArrival d q) s = .next t ∧ (t.tile d q).inst = (s.tile d q).inst ∧
      t.reg Reg.islTrigDrops d.island = (s.reg Reg.islTrigDrops d.island + 1) % 2 ^ 32 ∧
      tabGet [] t.lines (lineKey d p.trigger q) = (tabGet [] s.lines (lineKey d p.trigger q)).tail ∧ ∀ a, t.byte a = s.byte a := by
  have hisland := State.island_lt ht
  have hrep := dropTrigger_reported (dropLine (s.runTo x.at') d p.trigger q) d q x.tok
  have hkey : 0x300000 ≤ Reg.islTrigDrops.key d.island ∧ Reg.islTrigDrops.key d.island < 0x340000 := by
    simp only [Reg.key, Reg.islTrigDrops]
    omega
  refine onUnit_leaves (t := triggerArrives s d q) ht ?_ fun _ _ h => h
  rw [triggerArrives_busy hp hx hv hb]
  refine ⟨?_, ?_, ?_, fun a => ?_⟩
  · rw [hrep.tile]
    exact congrArg Tile.inst (State.runTo_tile ..)
  · rw [hrep.reg _ _ hkey.1 (by omega), State.reg_count_same]
    exact congrArg (fun n => (n + 1) % 2 ^ 32) (State.runTo_reg hkey.2 _)
  · rw [hrep.lines]
    exact (dropLine_lines ..).trans (by rw [State.runTo_lines])
  · exact congrArg (storeGet · a) (hrep.mem.trans (State.runTo_mem ..))

theorem exec_orphanToken {s : State} {d : TileId} {p : Port} {q : Bool} {x : Timed} (ht : s.hasTile d = true)
    (hx : lineHead s d p q = some x) (hp : (planOf (s.tile d q) q).map TilePlan.trigger ≠ some p) :
    ∃ t, exec (.orphanToken d p q) s = .next t ∧ t.clocks.cycle = max s.clocks.cycle x.at' ∧
      tabGet [] t.lines (lineKey d p q) = (tabGet [] s.lines (lineKey d p q)).tail ∧ t.tile d q = s.tile d q ∧
      ∀ a, t.byte a = s.byte a := by
  have hleaves : orphanLeaves s d p q = discardToken (s.runTo x.at') d p q x := by simp only [orphanLeaves, hx, hp, ↓reduceIte]
  have hrep : Reported (dropLine (s.runTo x.at') d p q) (discardToken (s.runTo x.at') d p q x) := .hazard ..
  refine onUnit_leaves (t := orphanLeaves s d p q) ht ?_ fun _ _ h => h
  rw [hleaves]
  refine ⟨?_, ?_, ?_, fun a => ?_⟩
  · rw [hrep.clocks]
    exact State.runTo_cycle ..
  · rw [hrep.lines]
    exact (dropLine_lines ..).trans (by rw [State.runTo_lines])
  · rw [hrep.tile]
    exact State.runTo_tile ..
  · exact congrArg (storeGet · a) (hrep.mem.trans (State.runTo_mem ..))

/-! ### The hazard log's clear (R155) -/

def hazClearRow : ObjRow := ⟨Reg.hazClear, 1, 1, .unsigned 1, .wo, .range 1 1⟩

theorem hazClearRow_mem : hazClearRow ∈ objRows := by decide +kernel

theorem clearHazards_hazards (s : State) : (clearHazards s).faults.hazards = [] :=
  congrArg Faults.hazards (foldl_keep State.faults (fun t k => t.setReg (Reg.hazCount.at k) 0 0) (fun _ _ => rfl) _ _)

theorem clearHazards_count (s : State) {k : Nat} (h : k < 9) : (clearHazards s).reg (Reg.hazCount.at k) = 0 := by
  have hcleared (l : List Nat) (t : State) (hk : k ∈ l ∨ t.reg (Reg.hazCount.at k) = 0) :
      (l.foldl (fun t k => t.setReg (Reg.hazCount.at k) 0 0) t).reg (Reg.hazCount.at k) = 0 := by
    induction l generalizing t with
    | nil => exact hk.resolve_left (List.not_mem_nil)
    | cons j l ih =>
      refine ih _ ?_
      by_cases hj : j = k
      · exact .inr (by rw [hj, State.reg_setReg_same])
      · refine hk.imp (fun hm => (List.mem_cons.mp hm).resolve_left (Ne.symm hj)) fun h0 => ?_
        rw [State.reg_setReg_other _ _ (by simp only [Reg.key, Reg.at, Reg.hazCount]; omega), h0]
  exact hcleared _ _ (.inl (List.mem_range.mpr h))

theorem exec_dbgHazClear {s : State} (hm : s.mode.online = true) : ∃ t, exec (.dbgHazClear [1#8]) s = .next t ∧ t.faults.hazards = [] ∧
    ∀ k, k < 9 → t.reg (Reg.hazCount.at k) = 0 := by
  have howner : ownerWrite (standingInputs s) hazClearRow.reg (hazClearRow.unit (Reg.hazClear.base + 0)) (Reg.hazClear.sub - hazClearRow.reg.sub)
      (leNat [1#8]) s = (scOk, clearHazards s) := rfl
  have hwrite : hostWrite (Reg.hazClear.base + 0) Reg.hazClear.sub [1#8] s = (clearHazards s).emit (.status 0) :=
    hostWrite_accepted hazClearRow_mem (by decide) rfl (Mode.ne_off_of_online hm) rfl (if_pos (.inl hm)) rfl (by decide) howner
  refine onUnit_leaves (t := hostWrite (Reg.hazClear.base + 0) Reg.hazClear.sub [1#8] s) rfl ?_ fun _ _ h => h
  rw [hwrite]
  exact ⟨clearHazards_hazards s, fun k hk => clearHazards_count s hk⟩

/-! ### The cycles that are not banked (R92, R93, R133) -/

/-- In an occupancy of `l` slots from cycle `a`, with every cycle after `n` issue cycles a banked one, the cycles that are not banked are
those in which a slot issues. -/
theorem issues_iff {n : Nat} (hn : n = 7 ∨ n = 31) (a l c : Nat) :
    (c ≤ a + l + ceilDiv l n ∧ a < c ∧ (c - a - 1) % (n + 1) ≠ n ∧ c ≠ a + l + ceilDiv l n) ↔ ∃ i, i < l ∧ c = a + 1 + i + i / n := by
  unfold ceilDiv
  constructor
  · rintro ⟨h1, h2, h3, h4⟩
    refine ⟨c - a - 1 - (c - a - 1) / (n + 1), ?_⟩
    rcases hn with rfl | rfl <;> omega
  · rintro ⟨i, hi, rfl⟩
    rcases hn with rfl | rfl <;> omega

theorem bankEvery_eq (s : State) : bankEvery s = 7 ∨ bankEvery s = 31 := by
  unfold bankEvery
  split
  · exact .inl rfl
  · exact .inr rfl

theorem isBanked_eq_false_iff {s : State} {tl : Tile} {slots : Nat} (h : tl.busyTo = occupancyEnd s tl.busyFrom slots) :
    isBanked s tl = false ↔ ∃ i, i < slots ∧ s.clocks.cycle = issueCycle s tl.busyFrom i := by
  refine Iff.trans ?_ (issues_iff (bankEvery_eq s) tl.busyFrom slots s.clocks.cycle)
  simp only [isBanked, h, occupancyEnd, Bool.or_eq_false_iff, decide_eq_false_iff_not, beq_eq_false_iff_ne, Nat.not_lt, Nat.not_le, and_assoc]

/-! ### What a banked cycle serves (R93) -/

theorem State.tileAt_setTileAt (s : State) (k : Nat) (v : Tile) : (s.setTileAt k v).tileAt k = v := tabGet_tabSet_same ..

section
variable {s : State} {island row col : Nat} {e : Option TileError}

theorem serveBanked_test (h : s.faults.tests.any (testOnTile island row col) = true) :
    serveBanked s island row col e = startTests s (testOnTile island row col) := if_pos h

variable (ht : s.faults.tests.any (testOnTile island row col) = false)
include ht

theorem serveBanked_restores (h : (s.tileAt (physKey island row col)).lostInstr ≠ [] ∨ (s.tileAt (physKey island row col)).lostConst ≠ []) :
    serveBanked s island row col e = s.setTileAt (physKey island row col) (restoreOne (s.tileAt (physKey island row col))) := by
  refine (if_neg (ne_true_of_eq_false ht)).trans (if_pos ?_)
  simpa using h

variable (hi : (s.tileAt (physKey island row col)).lostInstr = []) (hc : (s.tileAt (physKey island row col)).lostConst = [])
include hi hc

theorem serveBanked_loads {q : Bool} {tp : TilePlan} (h : loadingOn s (physKey island row col) = some (q, tp)) :
    serveBanked s island row col e = s.setTileAt (physKey island row col)
      (setServed (loadWrite (s.tileAt (physKey island row col)) q tp (servedOf (s.tileAt (physKey island row col)) q)) q
        (servedOf (s.tileAt (physKey island row col)) q + 1)) := by
  simp [serveBanked, ht, hi, hc, h]

variable (hl : loadingOn s (physKey island row col) = none)
include hl

theorem serveBanked_taps {b : Nat} {bs : List Nat} (h : tileTaps s island row col = b :: bs) :
    serveBanked s island row col e = tapDrain s b := by
  simp [serveBanked, ht, hi, hc, hl, h]

theorem serveBanked_scrubs {x : TileError} (h : tileTaps s island row col = []) (he : e = some x) (hs : s.reg Reg.fltScrubEnable ≠ 0) :
    serveBanked s island row col e = tileError s island row col x s.beat.n
      (s.primeDepth (forgingOf (s.tileAt (physKey island row col)) x.plane) x.plane) := by
  simp [serveBanked, ht, hi, hc, hl, h, he, State.flag, hs]

theorem serveBanked_idle (h : tileTaps s island row col = []) (he : e = none ∨ s.reg Reg.fltScrubEnable = 0) :
    serveBanked s island row col e = s := by
  rcases he with rfl | he
  · simp [serveBanked, ht, hi, hc, hl, h]
  · cases e <;> simp [serveBanked, ht, hi, hc, hl, h, State.flag, he]

end

/-- The words of a load are counted. -/
theorem servedOf_setServed (tl : Tile) (q : Bool) (n : Nat) : servedOf (setServed tl q n) q = n := by cases q <;> rfl

/-- One of the first 1,536 writes of a load is the constant of its number (R93). -/
theorem loadWrite_const {tl : Tile} {q : Bool} {tp : TilePlan} {n : Nat} (hn : n < 1536) (m : Nat)
    (hw : storeWf (if q then tl.const1 else tl.const0) = true) :
    storeGet (if q then (setServed (loadWrite tl q tp n) q m).const1 else (setServed (loadWrite tl q tp n) q m).const0) n =
      storeGet (constStore tp) n := by
  have hget (x : Store 256) (hx : storeWf x = true) (w : Word256) : storeGet (storeSet x n w) n = w := by
    rw [storeGet_storeSet x hx, if_pos rfl]
  simp only [loadWrite, hn, ↓reduceIte]
  cases q
  · exact hget _ hw _
  · exact hget _ hw _

/-- The first token of a tap buffer leaves it for the tap memory, unless that is frozen (R363, R364). -/
theorem tapDrain_taken {s : State} {b : Nat} {r : TapRecord} {rs : List TapRecord} (h : tabGet [] s.faults.tapBuffers b = r :: rs) :
    tabGet [] (tapDrain s b).faults.tapBuffers b = rs ∧ (tapDrain s b).tiles = s.tiles ∧
      (s.faults.frozen = false → (tapDrain s b).faults.taps.getLast? = some r) := by
  simp only [tapDrain, h]
  refine ⟨tabGet_tabSet_same .., trivial, fun hf => ?_⟩
  rw [hf, List.getLast?_drop]
  simp

/-- The record of an uncorrectable error of a tile word is the newest of the log (R371). -/
theorem detect_tile_log {s : State} {u : FaultUnit} (hu : u.kind = 1) (d c : Nat) (hc : c ≠ 0) : ∃ cls loc,
    (detect s u true d c).faults.log.getLast? = some (logRecord s.beat.n c u.unit cls u.kind loc d) := by
  refine ⟨if isPersistent s u then 3 else 0, locField s u, ?_⟩
  unfold detect
  dsimp only
  rw [if_neg hc]
  split
  · exact State.emcy_log ..
  · split
    · exact State.emcy_log ..
    · rw [if_neg (by simp [hu])]
      exact State.emcy_log ..

/-- A field above the lower part of a record is one of its upper part. -/
theorem field_append_high {w m : Nat} (x : BitVec w) (y : BitVec m) (lo n : Nat) : field (x ++ y).toNat (m + lo) n = field x.toNat lo n := by
  rw [field, field, BitVec.toNat_append, Nat.shiftRight_add, Nat.shiftRight_or_distrib, Nat.shiftLeft_shiftRight,
    Nat.shiftRight_eq_zero _ _ y.isLt, Nat.or_zero]

theorem field_append_low {w m : Nat} (x : BitVec w) (y : BitVec m) : field (x ++ y).toNat 0 m = y.toNat := by
  rw [field, BitVec.toNat_append, Nat.shiftRight_zero, Nat.or_mod_two_pow, Nat.shiftLeft_eq, Nat.mul_mod_left, Nat.zero_or,
    Nat.mod_eq_of_lt y.isLt]

/-- The fields of a log record: code, unit and kind (R371). -/
theorem logRecord_fields (b : Beat) {code unit kind : Nat} (cls loc detail : Nat) (hc : code < 2 ^ 16) (hu : unit < 2 ^ 8) (hk : kind < 2 ^ 6) :
    (field (logRecord b code unit cls kind loc detail).toNat 64 16, field (logRecord b code unit cls kind loc detail).toNat 56 8,
      field (logRecord b code unit cls kind loc detail).toNat 48 6) = (code, unit, kind) := by
  have hcode : field (logRecord b code unit cls kind loc detail).toNat (32 + (16 + (6 + (2 + (8 + 0))))) 16 = code := by
    rw [logRecord, field_append_high, field_append_high, field_append_high, field_append_high, field_append_high, field_append_low,
      BitVec.toNat_ofNat, Nat.mod_eq_of_lt hc]
  have hunit : field (logRecord b code unit cls kind loc detail).toNat (32 + (16 + (6 + (2 + 0)))) 8 = unit := by
    rw [logRecord, field_append_high, field_append_high, field_append_high, field_append_high, field_append_low,
      BitVec.toNat_ofNat, Nat.mod_eq_of_lt hu]
  have hkind : field (logRecord b code unit cls kind loc detail).toNat (32 + (16 + 0)) 6 = kind := by
    rw [logRecord, field_append_high, field_append_high, field_append_low, BitVec.toNat_ofNat, Nat.mod_eq_of_lt hk]
  exact Prod.ext hcode (Prod.ext hunit hkind)
section
variable {s : State} {d : TileId} {e : Option TileError} (hd : s.hasIsland d.island = true) (hrow : d.row < 16) (hcol : d.col < 17)
include hd hrow hcol

theorem bankedCycle_leaves {p : State → Prop} (hp : p (bankedServes s d.island d.row d.col e))
    (hq : ∀ u q, p u → p { u with pending := q }) : ∃ t, exec (.bankedCycle d e) s = .next t ∧ p t :=
  onUnit_leaves (by simp [hd, hrow, hcol]) hp hq

/-- What a banked cycle serves stands after it. -/
theorem bankedCycle_serves {p : State → Prop} {t : State} (hb : isBanked s (s.tileAt (physKey d.island d.row d.col)) = true)
    (hs : serveBanked s d.island d.row d.col e = t) (hp : p t) (hq : ∀ u q, p u → p { u with pending := q }) :
    ∃ t, exec (.bankedCycle d e) s = .next t ∧ p t :=
  bankedCycle_leaves hd hrow hcol ((congrArg p ((if_pos hb).trans hs)).mpr hp) hq

end

/-- An uncorrectable error of a tile is logged as one of the tile: code 0xFF62, kind 1, its island (R371). -/
theorem tileError_log {s : State} {island : Nat} {e : TileError} (hi : island < 64) (hl : e.lost = true) (row col : Nat) (m : Beat) (d : Nat) :
    (tileError s island row col e m d).faults.log.getLast?.map (fun r => (field r.toNat 64 16, field r.toNat 56 8, field r.toNat 48 6)) =
      some (0xFF62, island, 1) := by
  obtain ⟨cls, loc, hlog⟩ := detect_tile_log (s := s.setTileAt (physKey island row col)
    (loseTileWord (s.tileAt (physKey island row col)) e.store e.plane e.word m d))
    (u := tileUnit island row col (tileWordAddr e.store e.plane e.word)) rfl (tileWordAddr e.store e.plane e.word) 0xFF62 (by decide)
  simp only [tileError, hl, ↓reduceIte]
  rw [hlog, Option.map_some]
  exact congrArg some (logRecord_fields _ _ _ _ (by decide) (by change island < _; omega) (by change 1 < _; decide))

/-- Settles O13. -/
theorem tilesDiscardClearAndServe : Obligations.TilesDiscardClearAndServe := by
  unfold Obligations.TilesDiscardClearAndServe
  refine ⟨⟨fun s d q p x => exec_triggerArrival_busy, fun s d p q x => exec_orphanToken, fun s hm _ => exec_dbgHazClear hm⟩,
    fun s tl slots => isBanked_eq_false_iff, fun s d e hd hrow hcol => ?_⟩
  dsimp only
  refine ⟨fun hb => ?_, fun hb => ⟨fun ht => ?_, fun ht => ⟨fun w ws hi => ?_, fun w ws hi hc => ?_, fun hi hc =>
    ⟨fun q tp hl => ?_, fun hl => ⟨fun b bs r rs htaps hbuf => ?_, fun htaps => ⟨fun x he hs hlost => ?_, fun he => ?_⟩⟩⟩⟩⟩⟩
  · refine bankedCycle_leaves hd hrow hcol (p := fun t => t.tileAt _ = s.tileAt _ ∧ t.faults = s.faults) ?_ fun _ _ h => h
    rw [bankedServes, hb]
    exact ⟨rfl, rfl⟩
  · exact bankedCycle_serves hd hrow hcol hb (serveBanked_test ht) ⟨rfl, rfl, rfl⟩ fun _ _ h => h
  · refine bankedCycle_serves hd hrow hcol hb (serveBanked_restores ht (.inl (by simp [hi]))) ⟨?_, rfl⟩ fun _ _ h => h
    rw [State.tileAt_setTileAt, restoreOne, hi]
  · refine bankedCycle_serves hd hrow hcol hb (serveBanked_restores ht (.inr (by simp [hc]))) ⟨?_, rfl⟩ fun _ _ h => h
    rw [State.tileAt_setTileAt, restoreOne, hi]
    exact congrArg List.tail hc
  · refine bankedCycle_serves hd hrow hcol hb (serveBanked_loads ht hi hc hl) ⟨rfl, ?_, fun hn hw => ?_⟩ fun _ _ h => h
    · rw [State.tileAt_setTileAt, servedOf_setServed]
    · rw [State.tileAt_setTileAt]
      exact loadWrite_const hn _ hw
  · obtain ⟨hrest, htiles, htaken⟩ := tapDrain_taken hbuf
    exact bankedCycle_serves hd hrow hcol hb (serveBanked_taps ht hi hc hl htaps)
      ⟨hrest, congrArg (tabGet Tile.empty · _) htiles, htaken⟩ fun _ _ h => h
  · refine bankedCycle_serves hd hrow hcol hb (serveBanked_scrubs ht hi hc hl htaps he hs) (p := fun t =>
      (t.faults.log.getLast?.map fun r => (field r.toNat 64 16, field r.toNat 56 8, field r.toNat 48 6)) = some (0xFF62, d.island, 1)) ?_
      fun _ _ h => h
    exact tileError_log (State.hasIsland_lt hd) hlost ..
  · exact bankedCycle_serves hd hrow hcol hb (serveBanked_idle ht hi hc hl htaps he) ⟨rfl, rfl⟩ fun _ _ h => h

end Sys2Proof.Machine
end

section
/-! SUPPORT. The clamps that a register instruction counts at its tile's island, and the elementwise arithmetic of the Anvil (R120, R138,
R139, R153). -/

namespace Sys2Proof.Machine

/-! ### Clamps of a tile -/

/-- The counter of clamps of an island stands among the registers that passing cycles leave. -/
theorem islSatClamps_key {island : Nat} (hi : island < 64) : Reg.islSatClamps.key island < 0x340000 := by
  simp only [Reg.key, Reg.islSatClamps]
  omega

/-- Between `s` and `t` the island of a tile has counted `n` clamps in 64 bits; without a clamp its counter stands (R120, R153). -/
def clampsCounted (s t : State) (u : Seat) (n : Nat) : Prop :=
  ∀ (d : TileId) (q : Bool), u = .tile d q →
    t.reg Reg.islSatClamps d.island = (s.reg Reg.islSatClamps d.island + n) % 2 ^ 64 ∨
    n = 0 ∧ t.reg Reg.islSatClamps d.island = s.reg Reg.islSatClamps d.island

theorem countClamps_counted (u : Seat) (s : State) (n : Nat) : clampsCounted s (countClamps u s n) u n := by
  rintro d q rfl
  unfold countClamps
  by_cases hn : n = 0
  · rw [if_pos hn]
    exact .inr ⟨hn, rfl⟩
  · rw [if_neg hn]
    exact .inl (State.reg_count_same ..)

/-- The slot's cycle leaves the counter, and so do the run's next word and what is pending. -/
theorem clampsCounted_tileAfter {s r : State} {d : TileId} {q : Bool} {i : Instance} {n : Nat} (ht : s.hasTile d = true)
    (hi : (s.tile d q).inst = some i) (hr : clampsCounted (seatState s (.tile d q)) r (.tile d q) n) (j : Instance) :
    clampsCounted s (tileAfter s r d q j) (.tile d q) n := by
  rintro d' q' hu
  have hcount := hr d' q' hu
  cases hu
  rw [seatState_tile hi, State.runTo_reg (islSatClamps_key (State.island_lt ht))] at hcount
  exact hcount

/-! ### Instructions on registers -/

/-- What the next instruction of a seat does to the registers, with the seat's roundings, and to the count of clamps. -/
theorem regBody_seat (g : (Nat → Rnd) → AnvilFields → Regfile → Regfile × Nat) (s : State) (u : Seat) (f : AnvilFields) (t : State)
    (rf : Regfile) : regBody g (seatExec s u) f t rf =
      { s := countClamps u t (g (seatRnd s u f) f rf).2, rf := (g (seatRnd s u f) f rf).1, stop := none } := by
  rw [regBody, seatExec_u]
  rfl

section
variable {op : Nat} {u : Seat} {f : AnvilFields} {s : State} {rf : Regfile} {sh : Shape} (h : readyAt s u op f rf)
  (hs : shapeOf op f = some sh) (hp : predOn rf f = true) (hop : op ≠ 0x3C)
include h hs hp hop

/-- An instruction on registers alone leaves its registers, and a tile's island counts its clamps. -/
theorem regBody_counts (g : (Nat → Rnd) → AnvilFields → Regfile → Regfile × Nat) :
    ∃ t, anvil op (regBody g) u f s = .next t ∧ ranOn s t u sh.slots (g (seatRnd s u f) f rf).1 ∧
      clampsCounted s t u (g (seatRnd s u f) f rf).2 := by
  cases u with
  | temper a k =>
    obtain ⟨t, ht, hran⟩ := regBody_ran (g := g) h hs hp hop
    exact ⟨t, ht, hran, fun d q hu => nomatch hu⟩
  | tile d q =>
    obtain ⟨hti, hre, hca, hha⟩ := countClamps_keeps (.tile d q) (seatState s (.tile d q)) (g (seatRnd s (.tile d q) f) f rf).2
    obtain ⟨j, hj, hran⟩ := tile_ran_on h hs hp (regBody_seat g s (.tile d q) f _ rf) (keepsSeat_of h hti hre hca hha)
    obtain ⟨htile, i, hi, -⟩ := h
    exact ⟨_, hj, hran, clampsCounted_tileAfter htile hi (countClamps_counted _ _ _) j⟩

/-- An instruction that forms D in FMT writes the word, and a tile's island counts the elements that clamped. -/
theorem vecBody_counts {m : Fmt} (hm : fmtOf f = some m) (g : Fmt → (Nat → Rnd) → AnvilFields → Regfile → WordOut) :
    ∃ t, anvil op (vecBody g) u f s = .next t ∧
      ranOn s t u sh.slots (setV rf f.d.toNat (BitVec.ofNat 256 (g m (seatRnd s u f) f rf).word)) ∧
      clampsCounted s t u (g m (seatRnd s u f) f rf).clamps := by
  have hran := regBody_counts h hs hp hop fun rnd f rf => match fmtOf f with
    | none => (rf, 0)
    | some m => (setV rf f.d.toNat (BitVec.ofNat 256 (g m rnd f rf).word), (g m rnd f rf).clamps)
  simp only [hm] at hran
  exact hran

end

/-! ### Elementwise arithmetic -/

/-- The elements of D that an elementwise operation forms: each the exact result on its sources, rounded once (R120, R139). -/
def roundedElems (s : State) (u : Seat) (f : AnvilFields) (rf : Regfile) (m : Fmt) (g : Num → Num → Num → Num) : List Rounded :=
  (List.range m.count).map fun j => roundInto m (seatRnd s u f j) (g (elemNum m (vReg rf f.a.toNat).toNat j)
    (elemNum m (vReg rf f.b.toNat).toNat j) (elemNum m (vReg rf f.d.toNat).toNat j))

/-- An elementwise operation packs its rounded elements into D, and a tile's island counts those that clamped. -/
theorem elemBody_ran {op : Nat} {u : Seat} {f : AnvilFields} {s : State} {rf : Regfile} {sh : Shape} {m : Fmt}
    (hs : shapeOf op f = some sh) (hop : op ≠ 0x3C) (hm : fmtOf f = some m) (hp : predOn rf f = true)
    (g : AnvilFields → Num → Num → Num → Num) (h : readyAt s u op f rf) :
    ∃ t, anvil op (elemBody g) u f s = .next t ∧
      ranOn s t u sh.slots (setV rf f.d.toNat (BitVec.ofNat 256 (packElems m ((roundedElems s u f rf m (g f)).map Rounded.code)))) ∧
      clampsCounted s t u ((roundedElems s u f rf m (g f)).filter Rounded.clamped).length :=
  vecBody_counts h hs hp hop hm _

/-- Settles O18. -/
theorem elementwiseArithmetic : Obligations.ElementwiseArithmetic := by
  unfold Obligations.ElementwiseArithmetic
  intro s u f rf m hm hp
  refine ⟨?vadd, ?vsub, ?vmul, ?vfma, ?vmax, ?vmin, ?vshr⟩
  case vadd => exact elemBody_ran (op := 0x20) rfl (by decide) hm hp fun _ a b _ => a.add b
  case vsub => exact elemBody_ran (op := 0x21) rfl (by decide) hm hp fun _ a b _ => a.add b.neg
  case vmul => exact elemBody_ran (op := 0x22) rfl (by decide) hm hp fun _ a b _ => a.mul b
  case vfma => exact elemBody_ran (op := 0x23) rfl (by decide) hm hp fun _ a b d => (a.mul b).add d
  case vmax => exact elemBody_ran (op := 0x24) rfl (by decide) hm hp fun _ a b _ => a.max b
  case vmin => exact elemBody_ran (op := 0x25) rfl (by decide) hm hp fun _ a b _ => a.min b
  case vshr => exact elemBody_ran (op := 0x26) rfl (by decide) hm hp fun f a _ _ => a.scale (-(signed 6 (xf f 0 6)))

end Sys2Proof.Machine
end

section
/-! SUPPORT. A trigger token that finds its tile idle, and the register file that its run begins with (R92, R128, R411). -/

namespace Sys2Proof.Machine

/-! ### The register file of a new run (R128) -/

theorem startRegs_v0 (tok : Token) : vReg (startRegs tok) 0 = tok.data := rfl

/-- An entry of a list of equal values. -/
theorem listGet_replicate {α : Type} (d v : α) {n k : Nat} (h : k < n) : listGet d (List.replicate n v) k = v := by
  rw [listGet, List.getD_eq_getElem _ _ (h.trans_eq List.length_replicate.symm), List.getElem_replicate]

theorem startRegs_v (tok : Token) {k : Nat} (h1 : 1 ≤ k) (h16 : k < 16) : vReg (startRegs tok) k = 0#256 := by
  obtain ⟨j, rfl⟩ := Nat.exists_eq_add_of_le' h1
  rw [vReg, Nat.mod_eq_of_lt h16]
  exact listGet_replicate (n := 15) _ _ (by omega)

theorem startRegs_acc (tok : Token) {k : Nat} (h : k < 4) : accReg (startRegs tok) k = List.replicate 16 0#32 := by
  rw [accReg, Nat.mod_eq_of_lt h]
  exact listGet_replicate _ _ h

theorem startRegs_p (tok : Token) {k : Nat} (h1 : 1 ≤ k) (h8 : k < 8) : pReg (startRegs tok) k = false := by
  obtain ⟨j, rfl⟩ := Nat.exists_eq_add_of_le' h1
  rw [pReg, Nat.mod_eq_of_lt h8]
  exact listGet_replicate (n := 7) _ _ (by omega)

/-- The register file with which a tile begins: DEGRADED besides where a word of the plane's program is known lost (R128, R411). -/
def firstRegs (tl : Tile) (q : Bool) (tok : Token) : Regfile :=
  if tl.lostInstr.any (fun x => x.1 == q) then orFlags (startRegs tok) flDegraded else startRegs tok

/-- Only the flags of a tile's first registers depend on what it has lost. -/
theorem firstRegs_eq (tl : Tile) (q : Bool) (tok : Token) : firstRegs tl q tok = { startRegs tok with
    fl := if tl.lostInstr.any (fun x => x.1 == q) then tok.tag.extractLsb' 5 5 ||| 0b01000#5 else tok.tag.extractLsb' 5 5 } := by
  unfold firstRegs
  split <;> rfl

/-! ### The start of a run (R92) -/

/-- A VALID trigger token that leaves its delay register after the tile's occupancy starts a run of the program. -/
theorem triggerArrives_idle {s : State} {d : TileId} {q : Bool} {p : TilePlan} {x : Timed} (hp : planOf (s.tile d q) q = some p)
    (hx : lineHead s d p.trigger q = some x) (hv : tagValid x.tok.tag = true) (hb : (s.tile d q).busyTo < x.at') :
    triggerArrives s d q = startInstance (dropLine (s.runTo x.at') d p.trigger q) d q x.at' x.tok := by
  have htile : (dropLine (s.runTo x.at') d p.trigger q).tile d q = s.tile d q := State.runTo_tile ..
  simp only [triggerArrives, hp, hx, hv, ↓reduceIte, htile, Nat.not_le.mpr hb]

/-- A run of a program that is not empty begins at its first word, with the token's registers. -/
theorem startInstance_begins {s : State} {d : TileId} {q : Bool} (a : Nat) (tok : Token) (hw : progOf (s.tile d q) q ≠ []) :
    ∃ i, ((startInstance s d q a tok).tile d q).inst = some i ∧ i.rf = firstRegs (s.tile d q) q tok ∧ i.start = a ∧ i.slot = 0 ∧ i.pos = 0 := by
  have hne : (progOf (s.tile d q) q).isEmpty = false := by simpa using hw
  rw [startInstance, State.tile_setTile, hne]
  exact ⟨_, rfl, rfl, rfl, rfl, rfl⟩

theorem startInstance_progOf (s : State) (d : TileId) (q : Bool) (a : Nat) (tok : Token) :
    progOf ((startInstance s d q a tok).tile d q) q = progOf (s.tile d q) q := by
  rw [startInstance, State.tile_setTile]
  cases q <;> rfl

/-- Settles O12. -/
theorem triggerWritesRegisters : Obligations.TriggerWritesRegisters := by
  unfold Obligations.TriggerWritesRegisters
  intro s d q p x w ws ht hp hx hv hq hb hprog
  have htile : (dropLine (s.runTo x.at') d p.trigger q).tile d q = s.tile d q := State.runTo_tile ..
  obtain ⟨i, hi, hrf, hstart, hslot, hpos⟩ := startInstance_begins (s := dropLine (s.runTo x.at') d p.trigger q) x.at' x.tok
    (by rw [htile, hprog]; exact List.cons_ne_nil w ws)
  rw [htile, firstRegs_eq] at hrf
  refine ⟨{ triggerArrives s d q with pending := s.pending }, i, if_pos ht, ?_⟩
  rw [triggerArrives_idle hp hx hv hb, tile_withPending]
  refine ⟨hi, ?_⟩
  rw [hrf, hpos]
  refine ⟨startRegs_v0 x.tok, rfl, rfl, fun k => startRegs_v x.tok, fun k => startRegs_acc x.tok, fun k => startRegs_p x.tok, rfl, hstart,
    hslot, rfl, ?_⟩
  change (progOf (State.tile _ d (tagPlane x.tok.tag)) (tagPlane x.tok.tag))[0]? = some w
  rw [hq, tile_withPending, startInstance_progOf, htile, hprog]
  rfl

end Sys2Proof.Machine
end

section
/-! SUPPORT. An instruction whose predicate reads 0 (R132): the seat passes to the next word, and nothing but its run has moved. -/

namespace Sys2Proof.Machine

/-! ### What the run of a seat is kept in -/

/-- `t` is `s` but for the tiles and the harbours, which hold the runs of tiles and of kernels, and for what is pending. -/
def SeatMoved (s t : State) : Prop :=
  ∃ tiles harbours pending, t = { s with tiles := tiles, harbours := harbours, pending := pending }

theorem SeatMoved.trans {s t u : State} (h : SeatMoved s t) (k : SeatMoved t u) : SeatMoved s u := by
  obtain ⟨_, _, _, rfl⟩ := h
  obtain ⟨_, _, _, rfl⟩ := k
  exact ⟨_, _, _, rfl⟩

theorem modKernel_seatMoved (s : State) (h k : Nat) (g : Kernel → Kernel) : SeatMoved s (modKernel s h k g) := ⟨_, _, _, rfl⟩

theorem kernelNext_seatMoved (op : Nat) (sh : Shape) (f : AnvilFields) (h k : Nat) (x : Kernel) (r : Ran) :
    SeatMoved r.s (kernelNext op sh f h k x r) := by
  unfold kernelNext
  dsimp only
  generalize (if (decide (op = 0x3C) && predOn x.rf f) = true then xf f 0 14 else x.pos + 1) = pos
  split
  · exact (modKernel_seatMoved ..).trans (modKernel_seatMoved ..)
  · split
    · exact (modKernel_seatMoved ..).trans (modKernel_seatMoved ..)
    · exact modKernel_seatMoved ..

theorem SeatMoved.withPending {s t : State} (h : SeatMoved s t) (p : List Instr) : SeatMoved s { t with pending := p } :=
  h.trans ⟨_, _, _, rfl⟩

theorem tileAfter_seatMoved (s r : State) (d : TileId) (q : Bool) (i : Instance) : SeatMoved r (tileAfter s r d q i) := ⟨_, _, _, rfl⟩

/-- A kernel that is not stopped passes to its next word. -/
theorem seatNext_seatMoved {op : Nat} {sh : Shape} {f : AnvilFields} {h k : Nat} {s : State} {r : Ran} (hstop : r.stop = none)
    (hk : (r.s.temper h k).kernel.isSome = true) : SeatMoved r.s (seatNext op sh f (.temper h k) s r) := by
  obtain ⟨y, hy⟩ := Option.isSome_iff_exists.mp hk
  simp only [seatNext, hstop, modKernel_kernel, hy, Option.map_some]
  exact (modKernel_seatMoved ..).trans (kernelNext_seatMoved ..)

/-! ### The predicate is off -/

section
variable {op : Nat} {body : Body} {u : Seat} {f : AnvilFields} {s : State} {rf : Regfile} {sh : Shape} (h : readyAt s u op f rf)
  (hs : shapeOf op f = some sh) (hp : predOn rf f = false)
include h hs hp

/-- A tile passes the slots, with its memories as they were. -/
theorem tile_skips {d : TileId} {q : Bool} (hu : u = .tile d q) : ∃ t, anvil op body u f s = .next t ∧ ranOn s t u sh.slots rf ∧
    SeatMoved (seatState s u) t ∧ (t.tile d q).work = (s.tile d q).work ∧ (t.tile d q).lostConst = (s.tile d q).lostConst := by
  subst hu
  obtain ⟨j, hj, hran, -⟩ := tile_ran h hs (anvil_off body hp _) (keepsSeat_state h)
  obtain ⟨-, i, hi, -⟩ := h
  refine ⟨_, hj, hran, tileAfter_seatMoved .., ?_⟩
  rw [tileAfter_tile, seatState_tile hi, State.runTo_tile]
  exact ⟨rfl, rfl⟩

/-- A temper's kernel passes the slots, once it has fetched the word. -/
theorem temper_skips {a k : Nat} (hu : u = .temper a k) (hop : op ≠ 0x3C) : ∃ t, anvil op body u f s = .next t ∧
    ranOn s t u sh.slots rf ∧ SeatMoved (seatState s u) t := by
  subst hu
  have hkept := keepsSeat_state h
  obtain ⟨t, ht, hran⟩ := anvil_skipped (body := body) h hs hp hop
  obtain ⟨x, _, hx, -, hnext⟩ := kernel_runs h hs _ (anvil_off body hp _) hkept rfl
  have hseat : s.hasSeat (.temper a k) = true := by simp [State.hasSeat, h.2.1, h.2.2.1]
  have hsome : ((seatState s (.temper a k)).temper a k).kernel.isSome = true := by
    rw [← Option.isSome_map, hkept.1, hx]
    rfl
  have hexec : anvil op body (.temper a k) f s = .next { runKernel op body a k f s with pending := s.pending } := if_pos hseat
  refine ⟨t, ht, hran, ?_⟩
  rw [Host.Outcome.next.inj (ht.symm.trans hexec), hnext]
  exact (seatNext_seatMoved (r := { s := seatState s (.temper a k), rf := rf, stop := none }) rfl hsome).withPending _

/-- With its predicate off an instruction moves its seat's run, and nothing else (R132). -/
theorem anvil_off_moves (hop : op ≠ 0x3C) : ∃ t, anvil op body u f s = .next t ∧ ranOn s t u sh.slots rf ∧
    t.mem = (seatState s u).mem ∧ t.regs = (seatState s u).regs ∧ t.faults = (seatState s u).faults ∧
    t.lines = (seatState s u).lines ∧ t.free = (seatState s u).free ∧
    ∀ d q, u = .tile d q → (t.tile d q).work = (s.tile d q).work ∧ (t.tile d q).lostConst = (s.tile d q).lostConst := by
  have hparts {t : State} (hm : SeatMoved (seatState s u) t) : t.mem = (seatState s u).mem ∧ t.regs = (seatState s u).regs ∧
      t.faults = (seatState s u).faults ∧ t.lines = (seatState s u).lines ∧ t.free = (seatState s u).free := by
    obtain ⟨_, _, _, rfl⟩ := hm
    exact ⟨rfl, rfl, rfl, rfl, rfl⟩
  cases hu : u with
  | tile d q =>
    obtain ⟨t, ht, hran, hmoved, htile⟩ := tile_skips (body := body) h hs hp hu
    obtain ⟨hmem, hregs, hfaults, hlines, hfree⟩ := hparts hmoved
    subst hu
    exact ⟨t, ht, hran, hmem, hregs, hfaults, hlines, hfree, fun d' q' hu' => by cases hu'; exact htile⟩
  | temper a k =>
    obtain ⟨t, ht, hran, hmoved⟩ := temper_skips (body := body) h hs hp hu hop
    obtain ⟨hmem, hregs, hfaults, hlines, hfree⟩ := hparts hmoved
    subst hu
    exact ⟨t, ht, hran, hmem, hregs, hfaults, hlines, hfree, fun d q hu' => nomatch hu'⟩

end

/-- The instructions that cannot be predicated: NOP, REP, RECV, SEND and HPUSH (R132, Table 6.4). -/
theorem shapeOf_unpredicated (f : AnvilFields) : ∀ op ∈ [0x00, 0x01, 0x08, 0x09, 0x13], (shapeOf op f).map Shape.pred = some false := by
  simp [shapeOf]

/-- Settles O20: every row of Table 6.4 that has a predicate is an instruction of the runner with the slots of its shape, so that one lemma
holds for them all. -/
theorem predicateOffWritesNothing : Obligations.PredicateOffWritesNothing := by
  unfold Obligations.PredicateOffWritesNothing
  refine ⟨fun s u f rf e hp => ?_, fun op hop f => shapeOf_unpredicated f op hop⟩
  simp only [List.forall_mem_cons, List.not_mem_nil, false_implies, implies_true, and_true]
  and_intros
  all_goals exact fun h => anvil_off_moves h rfl hp (by decide)

end Sys2Proof.Machine
end

section
/-! SUPPORT. What a seat keeps through reports, counts and reads of constants, and DOT, ACCOUT and ACCRED (R138, R140, R141, R154). -/

namespace Sys2Proof.Machine

/-! ### What keeps a seat -/

/-- Reports of errors and hazards leave a seat as it stands. -/
theorem Reported.keepsSeat {s S t : State} {u : Seat} (h : Reported S t) (hk : Machine.keepsSeat s S u) : Machine.keepsSeat s t u := by
  obtain ⟨⟨_, _, _, rfl⟩, -⟩ := h
  cases u <;> exact hk

/-- So do cycles and counts. -/
theorem Ticked.keepsSeat {s S t : State} {u : Seat} (h : Ticked S t) (hk : Machine.keepsSeat s S u) : Machine.keepsSeat s t u := by
  obtain ⟨_, _, rfl⟩ := h
  cases u <;> exact hk

theorem countClamps_keepsSeat {s S : State} {u : Seat} (n : Nat) (hk : keepsSeat s S u) : keepsSeat s (countClamps u S n) u :=
  (countClamps_ticked u S n).keepsSeat hk

/-! ### Accumulators read as another kind (Table 6.6 class 9) -/

theorem kindHazard_reported (e : Exec) (s : State) (rf : Regfile) (acc : Nat) (fp : Bool) : Reported s (kindHazard e s rf acc fp) := by
  unfold kindHazard
  dsimp only
  split
  · exact .hazard ..
  · exact .refl s

/-- A temper has no hazard detector (R193). -/
theorem kindHazard_temper {e : Exec} (he : e.onTile = false) (s : State) (rf : Regfile) (acc : Nat) (fp : Bool) :
    kindHazard e s rf acc fp = s := by
  simp only [kindHazard, he, Bool.false_and, Bool.false_eq_true, ↓reduceIte]

/-- A tile's constants are those of the tile, whatever else has moved. -/
theorem constPair_tile {e : Exec} {d : TileId} {q : Bool} (he : e.u = .tile d q) {s t : State} (ht : t.tile d q = s.tile d q) (w : Nat) :
    constPair e t w = { constPair e s w with s := t } := by
  simp only [constPair, constWord, he, tileConst, ht]

/-- The hazard of an accumulator's kind leaves a pair of constants as it reads, and the seat as the read leaves it. -/
theorem constPair_kindHazard {s : State} {u : Seat} {rf : Regfile} {acc w : Nat} {fp : Bool}
    (hk : keepsSeat s (constPair (seatExec s u) (seatState s u) w).s u) :
    ∃ t, constPair (seatExec s u) (kindHazard (seatExec s u) (seatState s u) rf acc fp) w =
      { constPair (seatExec s u) (seatState s u) w with s := t } ∧ keepsSeat s t u := by
  cases u with
  | tile d q =>
    have hrep := kindHazard_reported (seatExec s (.tile d q)) (seatState s (.tile d q)) rf acc fp
    have hS : (constPair (seatExec s (.tile d q)) (seatState s (.tile d q)) w).s = seatState s (.tile d q) := by
      simp only [constPair, constWord, seatExec_u, tileConst]
    rw [hS] at hk
    exact ⟨_, constPair_tile (seatExec_u s _) (hrep.tile d q) w, hrep.keepsSeat hk⟩
  | temper a k =>
    have htemper : (seatExec s (.temper a k)).onTile = false := by rw [Exec.onTile, seatExec_u]
    rw [kindHazard_temper htemper]
    exact ⟨_, rfl, hk⟩

/-! ### DOT (R140) -/

/-- DOT with a second operand that is read clean: the products of its elements added to the lanes. -/
theorem exec_dot {s : State} {u : Seat} {f : AnvilFields} {rf : Regfile} {m : Fmt} {r : MemRead} (hm : fmtOf f = some m)
    (hp : predOn rf f = true) (h : readyAt s u 0x19 f rf)
    (hr : dotSecond (seatExec s u) f (kindHazard (seatExec s u) (seatState s u) rf f.d.toNat (dotIsFp m)) rf = r) (hs : r.stop = none)
    (hc : r.poison = false) (hk : keepsSeat s r.s u) : ∃ t, exec (.dot u f) s = .next t ∧ ranOn s t u (if isFp8 f then 2 else 1)
      (orFlags (setAcc rf f.d.toNat (dotLanes m (seatRnd s u f) (vPair rf f.a.toNat) r.data (accReg rf f.d.toNat)).1
        (if m.isFloat then 2 else 1)) r.fl) := by
  have hdata : inFormat m 2 r = r.data := by
    rw [inFormat, hc]
    rfl
  refine anvil_ran (op := 0x19) (body := dotBody) h rfl hp (r := {
    s := countClamps u r.s (dotLanes m (seatRnd s u f) (vPair rf f.a.toNat) r.data (accReg rf f.d.toNat)).2
    rf := orFlags (setAcc rf f.d.toNat (dotLanes m (seatRnd s u f) (vPair rf f.a.toNat) r.data (accReg rf f.d.toNat)).1
      (if m.isFloat then 2 else 1)) r.fl
    stop := none }) ?_ (by decide) (countClamps_keepsSeat _ hk) rfl
  simp only [dotBody, hm, hr, hs, hdata, seatExec_u]
  rfl

/-! ### ACCOUT and ACCRED (R141) -/

/-- An instruction that reads an accumulator and writes D in FMT. -/
theorem accBody_ran {op : Nat} {g : Fmt → (Nat → Rnd) → AnvilFields → Regfile → WordOut} {u : Seat} {f : AnvilFields} {s : State}
    {rf : Regfile} {sh : Shape} {m : Fmt} (hs : shapeOf op f = some sh) (hp : predOn rf f = true) (hm : fmtOf f = some m)
    (hop : op ≠ 0x3C) (h : readyAt s u op f rf) : ∃ t, anvil op (accBody g) u f s = .next t ∧
      ranOn s t u sh.slots (setV rf f.d.toNat (BitVec.ofNat 256 (g m (seatRnd s u f) f rf).word)) := by
  have hrep := kindHazard_reported (seatExec s u) (seatState s u) rf f.a.toNat (f.x.getLsbD 8)
  refine anvil_ran (body := accBody g) h hs hp (r := {
    s := countClamps u (kindHazard (seatExec s u) (seatState s u) rf f.a.toNat (f.x.getLsbD 8)) (g m (seatRnd s u f) f rf).clamps
    rf := setV rf f.d.toNat (BitVec.ofNat 256 (g m (seatRnd s u f) f rf).word)
    stop := none }) ?_ hop (countClamps_keepsSeat _ (hrep.keepsSeat (keepsSeat_state h))) rfl
  rw [accBody, vecBody, regBody_seat]
  simp only [hm]

/-- Settles O17. -/
theorem dotProductsAndAccumulators : Obligations.DotProductsAndAccumulators := by
  unfold Obligations.DotProductsAndAccumulators
  intro s u f rf m hm hp
  dsimp only
  have hlanes (b : Nat) : (dotLanes m (seatRnd s u f) (vPair rf f.a.toNat) b (accReg rf f.d.toNat)).1 =
      (accReg rf f.d.toNat).zipIdx.map fun x => BitVec.ofNat 32 (dotLane m (seatRnd s u f) (vPair rf f.a.toNat) b x.2 x.1).code :=
    List.map_map
  refine ⟨fun h hx => ?pairs, fun h hx hs hc hmiss => ?constants, accBody_ran (op := 0x1A) rfl hp hm (by decide),
    accBody_ran (op := 0x1B) rfl hp hm (by decide)⟩
  case pairs =>
    have hrep := kindHazard_reported (seatExec s u) (seatState s u) rf f.d.toNat (dotIsFp m)
    have hran := exec_dot hm hp h (by rw [dotSecond, if_pos hx]) rfl rfl (hrep.keepsSeat (keepsSeat_state h))
    rw [orFlags_zero, hlanes] at hran
    exact hran
  case constants =>
    obtain ⟨t, ht, hk⟩ := constPair_kindHazard (rf := rf) (acc := f.d.toNat) (fp := dotIsFp m) (constPair_keepsSeat h hs hc hmiss)
    have hsecond : dotSecond (seatExec s u) f (kindHazard (seatExec s u) (seatState s u) rf f.d.toNat (dotIsFp m)) rf =
        { constPair (seatExec s u) (seatState s u) (xf f 0 11) with s := t } := by
      rw [dotSecond, if_neg (ne_true_of_eq_false hx), seatExec_off, Nat.add_zero, ht]
    have hran := exec_dot hm hp h hsecond hs hc hk
    rw [hlanes] at hran
    exact hran

end Sys2Proof.Machine
end

section
/-! SUPPORT. Tables in constant memory and masks: what LUT and LUTI leave once their words are read, and what compares write
(R127, R143, R144, R199, R214). -/

namespace Sys2Proof.Machine

/-! ### Reads of a table (R143) -/

/-- A poisoned line lets the kernel stand where it is, whatever the policy says (R199). -/
theorem kernelPoison_place (s : State) (h k l : Nat) : placeKept s (kernelPoison s h k l).1 h k := by
  unfold kernelPoison
  dsimp only
  split
  · rfl
  · have htemper : (s.count Reg.engPoisoned h).temper h k = s.temper h k := rfl
    rw [placeKept, modKernel_kernel, Option.map_map, htemper]
    refine congrArg (Option.map · _) (funext fun x => ?_)
    rw [Function.comp_apply]
    split <;> rfl

theorem notePoison_place (h k l : Nat) (r : MemRead) : placeKept r.s (notePoison h k l r).s h k := by
  unfold notePoison
  split
  · exact kernelPoison_place ..
  · rfl

/-- A constant word of a temper leaves its kernel in its place, poisoned or not. -/
theorem temperConst_keepsPlace (s : State) (h k w : Nat) : placeKept s (temperConst s h k w).s h k := by
  unfold temperConst
  dsimp only
  split
  · rfl
  · split
    · rfl
    · exact (notePoison_place ..).trans (temperBits_place ..)

/-- What each word of a table that is read leaves, all of them leave. -/
theorem readTable_holds {e : Exec} {s : State} (p : State → Prop) (hs : p s) (hw : ∀ t w, p t → p (constWord e t w).s) (m : Fmt) (base : Nat)
    (entries : List Nat) : p (readTable e s m base entries).1.s := by
  unfold readTable
  refine foldl_holds (fun r : MemRead × List (Nat × Nat) => p r.1.s) _ (fun r w hr => ?_) _ _ hs
  dsimp only
  split
  · exact hr
  · exact hw _ _ hr

/-- A table whose lines a temper holds leaves the seat (R214). -/
theorem readTable_keepsSeat {op : Nat} {s : State} {u : Seat} {f : AnvilFields} {rf : Regfile} (h : readyAt s u op f rf) {m : Fmt} {base : Nat}
    {entries : List Nat} (hm : missedNothing (readTable (seatExec s u) (seatState s u) m base entries).1.s u = true) :
    keepsSeat s (readTable (seatExec s u) (seatState s u) m base entries).1.s u := by
  have hkept := keepsSeat_state h
  cases u with
  | tile d q =>
    refine readTable_holds (keepsSeat s · (.tile d q)) hkept (fun t w ht => ?_) m base entries
    rw [constWord, seatExec_u]
    exact ht
  | temper a k =>
    refine ⟨readTable_holds (placeKept s · a k) hkept.1 (fun t w ht => ?_) m base entries, List.isEmpty_iff.mp hm⟩
    rw [constWord, seatExec_u]
    exact (temperConst_keepsPlace t a k w).trans ht

/-! ### LUT and LUTI (R143) -/

/-- What a lookup of A writes to D, once the table's words are read: LUTI interpolates between entries, LUT does not. -/
def lookupOut (interp : Bool) (s : State) (u : Seat) (f : AnvilFields) (rf : Regfile) (src m : Fmt) (words : List (Nat × Nat)) : WordOut :=
  let entry (k : Nat) : Nat := getElem m (tabGet 0 words (k / m.count)) (k % m.count)
  let a := (vReg rf f.a.toNat).toNat
  let d := (vReg rf f.d.toNat).toNat
  if interp then vLuti src m (seatRnd s u f) entry (xf f 19 3) (xf f 22 3) a d else vLut src m entry (xf f 19 3) (xf f 22 3) a d

/-- A lookup whose table is read without a stop. -/
theorem lookupBody_ran {op : Nat} {s : State} {u : Seat} {f : AnvilFields} {rf : Regfile} {sh : Shape} {m src : Fmt} {interp : Bool}
    (hs : shapeOf op f = some sh) (hop : op ≠ 0x3C) (hm : fmtOf f = some m) (hsrc : srcOf f = some src) (hp : predOn rf f = true)
    (h : readyAt s u op f rf) {r : MemRead × List (Nat × Nat)} (hr : readTable (seatExec s u) (seatState s u) m (xf f 8 11)
      (lutEntries src m interp (xf f 19 3) (vReg rf f.a.toNat).toNat) = r) (hstop : r.1.stop = none)
    (hmiss : missedNothing r.1.s u = true) : ∃ t, anvil op (lookupBody interp) u f s = .next t ∧ ranOn s t u sh.slots
      (orFlags (setV rf f.d.toNat (BitVec.ofNat 256 (lookupOut interp s u f rf src m r.2).word)) r.1.fl) := by
  have hk : keepsSeat s r.1.s u := by
    subst hr
    exact readTable_keepsSeat h hmiss
  have hbody : lookupBody interp (seatExec s u) f (seatState s u) rf = {
      s := countClamps u r.1.s (lookupOut interp s u f rf src m r.2).clamps
      rf := orFlags (setV rf f.d.toNat (BitVec.ofNat 256 (lookupOut interp s u f rf src m r.2).word)) r.1.fl, stop := none } := by
    simp only [lookupBody, hm, hsrc, seatExec_off, seatExec_u, Nat.add_zero, hr, hstop]
    rfl
  exact anvil_ran h hs hp hbody hop (countClamps_keepsSeat _ hk) rfl

/-! ### Masks (R144) -/

/-- A predicate field of three bits names one of P0 to P7, and P0 is not written (R127). -/
theorem setP_field (rf : Regfile) (f : AnvilFields) (lo : Nat) (v : Bool) :
    setP rf (xf f lo 3) v = if xf f lo 3 = 0 then rf else { rf with p := listSet rf.p (xf f lo 3) v } := by
  have hlt : xf f lo 3 < 8 := Nat.mod_lt _ (by decide)
  rw [setP, Nat.mod_eq_of_lt hlt]

/-- A mask written to D, with its predicate where the field does not name P0. -/
theorem writeMask_field (rf : Regfile) (d : Nat) (f : AnvilFields) (lo : Nat) (all : Bool) (n : Nat) (mask : List Nat) :
    writeMask rf d (xf f lo 3) all n mask = if xf f lo 3 = 0 then setV rf d (BitVec.ofNat 256 (packElems .uint1 mask))
      else { setV rf d (BitVec.ofNat 256 (packElems .uint1 mask)) with p := listSet rf.p (xf f lo 3) (maskPred all n mask) } := by
  rw [writeMask, setP_field]
  rfl

/-- What an instruction that writes a mask formed in FMT, and ANY or ALL of it, does to the registers. -/
def maskRegs (all : AnvilFields → Bool) (g : Fmt → AnvilFields → Regfile → List Nat) (f : AnvilFields) (rf : Regfile) : Regfile :=
  match fmtOf f with
  | none => rf
  | some m => writeMask rf f.d.toNat (xf f 4 3) (all f) m.count (g m f rf)

theorem maskRegs_eq {f : AnvilFields} {m : Fmt} (hm : fmtOf f = some m) (all : AnvilFields → Bool)
    (g : Fmt → AnvilFields → Regfile → List Nat) (rf : Regfile) :
    maskRegs all g f rf = writeMask rf f.d.toNat (xf f 4 3) (all f) m.count (g m f rf) := by
  rw [maskRegs, hm]

/-- The mask that CMP forms from A and B. -/
def cmpOut (m : Fmt) (f : AnvilFields) (rf : Regfile) : List Nat := cmpMask m (xf f 0 3) (vReg rf f.a.toNat).toNat (vReg rf f.b.toNat).toNat

/-- The mask that TESTV forms from A. -/
def testvOut (m : Fmt) (f : AnvilFields) (rf : Regfile) : List Nat := testMask m (vReg rf f.a.toNat).toNat

/-- CMP takes ALL with X[7], and ANY without. -/
theorem cmpBody_eq : cmpBody = regBody fun _ f rf => (maskRegs (fun f => f.x.getLsbD 7) cmpOut f rf, 0) := by
  refine congrArg regBody (funext fun _ => funext fun f => funext fun rf => ?_)
  unfold maskRegs
  cases fmtOf f <;> rfl

/-- TESTV takes ANY. -/
theorem testvBody_eq : testvBody = regBody fun _ f rf => (maskRegs (fun _ => false) testvOut f rf, 0) := by
  refine congrArg regBody (funext fun _ => funext fun f => funext fun rf => ?_)
  unfold maskRegs
  cases fmtOf f <;> rfl

section
variable {s : State} {u : Seat} {f : AnvilFields} {rf : Regfile} {m : Fmt} (hm : fmtOf f = some m) (hp : predOn rf f = true)
include hm hp

theorem exec_cmp (h : readyAt s u 0x30 f rf) : ∃ t, exec (.cmp u f) s = .next t ∧
    ranOn s t u 1 (writeMask rf f.d.toNat (xf f 4 3) (f.x.getLsbD 7) m.count (cmpOut m f rf)) := by
  have hexec : exec (.cmp u f) s = anvil 0x30 cmpBody u f s := rfl
  rw [hexec, cmpBody_eq, ← maskRegs_eq hm (fun f => f.x.getLsbD 7) cmpOut]
  exact regBody_ran h rfl hp (by decide)

theorem exec_testv (h : readyAt s u 0x31 f rf) : ∃ t, exec (.testv u f) s = .next t ∧
    ranOn s t u 1 (writeMask rf f.d.toNat (xf f 4 3) false m.count (testvOut m f rf)) := by
  have hexec : exec (.testv u f) s = anvil 0x31 testvBody u f s := rfl
  rw [hexec, testvBody_eq, ← maskRegs_eq hm (fun _ => false) testvOut]
  exact regBody_ran h rfl hp (by decide)

end

end Sys2Proof.Machine
end

section
/-! SUPPORT. O19, from the lemmas about register instructions, lookups and masks. -/

namespace Sys2Proof.Machine

/-- What VCVT forms in FMT: D stays where the source format of X is none. -/
def vcvtOut (m : Fmt) (rnd : Nat → Rnd) (f : AnvilFields) (rf : Regfile) : WordOut :=
  match srcOf f with
  | none => { word := (vReg rf f.d.toNat).toNat, clamps := 0 }
  | some src => vConvert src m rnd (xf f 8 3) (xf f 11 3) (vReg rf f.a.toNat).toNat (vReg rf f.d.toNat).toNat

theorem vcvtBody_eq : vcvtBody = vecBody vcvtOut := rfl

/-- VCVT converts a group of A into a group of D (R142). -/
theorem exec_vcvt {s : State} {u : Seat} {f : AnvilFields} {rf : Regfile} {m src : Fmt} (hm : fmtOf f = some m) (hp : predOn rf f = true)
    (hsrc : srcOf f = some src) (h : readyAt s u 0x27 f rf) : ∃ t, exec (.vcvt u f) s = .next t ∧
      ranOn s t u 1 (setV rf f.d.toNat (BitVec.ofNat 256 (vConvert src m (seatRnd s u f) (xf f 8 3) (xf f 11 3)
        (vReg rf f.a.toNat).toNat (vReg rf f.d.toNat).toNat).word)) := by
  have hexec : exec (.vcvt u f) s = anvil 0x27 vcvtBody u f s := rfl
  have hout : vcvtOut m (seatRnd s u f) f rf = vConvert src m (seatRnd s u f) (xf f 8 3) (xf f 11 3) (vReg rf f.a.toNat).toNat
      (vReg rf f.d.toNat).toNat := by rw [vcvtOut, hsrc]
  rw [hexec, vcvtBody_eq, ← hout]
  exact vecBody_ran h rfl hp hm (by decide)

/-- Settles O19. -/
theorem conversionsComparesAndMasks : Obligations.ConversionsComparesAndMasks := by
  unfold Obligations.ConversionsComparesAndMasks
  refine ⟨fun s u f rf m hm hp => ?writes, fun s u f rf m hm hp => ?masks⟩
  case writes =>
    refine ⟨fun src hsrc => ⟨fun h => ?vcvt, fun h hstop hmiss => ?lut, fun h hstop hmiss => ?luti⟩, fun h => ?vbc, fun h => ?vslide⟩
    case vcvt => exact exec_vcvt hm hp hsrc h
    case lut => exact lookupBody_ran (op := 0x2C) (interp := false) rfl (by decide) hm hsrc hp h rfl hstop hmiss
    case luti => exact lookupBody_ran (op := 0x2D) (interp := true) rfl (by decide) hm hsrc hp h rfl hstop hmiss
    case vbc => exact vecBody_ran (op := 0x28) h rfl hp hm (by decide)
    case vslide => exact vecBody_ran (op := 0x29) h rfl hp hm (by decide)
  case masks =>
    refine ⟨fun h => ?cmp, fun h => ?testv, fun h => ?sel, fun h => ?mlog, fun h => ?popc⟩
    case cmp =>
      have hran := exec_cmp hm hp h
      rw [writeMask_field] at hran
      exact hran
    case testv =>
      have hran := exec_testv hm hp h
      rw [writeMask_field] at hran
      exact hran
    case sel => exact vecBody_ran (op := 0x32) h rfl hp hm (by decide)
    case mlog => exact vecBody_ran (op := 0x33) h rfl hp hm (by decide)
    case popc => exact vecBody_ran (op := 0x34) h rfl hp hm (by decide)

end Sys2Proof.Machine
end

section
/-! SUPPORT. What the issue of a record leaves of the ledgers, the records and the outputs (R161, R162, R167, R168, R195). -/

namespace Sys2Proof.Machine

/-- What `t` keeps of `s` where neither the ledgers and records of a forging nor the clock have moved and nothing was put out. -/
structure LedgersKept (f : Nat) (s t : State) : Prop where
  outbox : t.outbox = s.outbox
  clocks : t.clocks = s.clocks
  records : (t.quench f).records = (s.quench f).records
  led0 : (t.quench f).led0 = (s.quench f).led0
  ledP : (t.quench f).ledP = (s.quench f).ledP

namespace LedgersKept

variable {f : Nat}

theorem refl (s : State) : LedgersKept f s s := ⟨rfl, rfl, rfl, rfl, rfl⟩

theorem trans {s t u : State} (h : LedgersKept f s t) (k : LedgersKept f t u) : LedgersKept f s u :=
  ⟨k.outbox.trans h.outbox, k.clocks.trans h.clocks, k.records.trans h.records, k.led0.trans h.led0, k.ledP.trans h.ledP⟩

theorem foldl {α : Type} {g : State → α → State} (h : ∀ s x, LedgersKept f s (g s x)) (l : List α) (s : State) :
    LedgersKept f s (l.foldl g s) :=
  foldl_holds (LedgersKept f s) g (fun _ x k => k.trans (h _ x)) l s (refl s)

theorem of_quenches {s t : State} (ho : t.outbox = s.outbox) (hc : t.clocks = s.clocks) (hq : t.quenches = s.quenches) :
    LedgersKept f s t := by
  have h : t.quench f = s.quench f := by simp only [State.quench, hq]
  exact ⟨ho, hc, by rw [h], by rw [h], by rw [h]⟩

/-- A quench written with other tokens, beats to issue or refused beats keeps its ledgers and records. -/
theorem setQuench {s : State} {x : Quench} (hr : x.records = (s.quench f).records) (h0 : x.led0 = (s.quench f).led0)
    (hp : x.ledP = (s.quench f).ledP) : LedgersKept f s (s.setQuench f x) :=
  ⟨rfl, rfl, by simp [hr], by simp [h0], by simp [hp]⟩

theorem count (s : State) (r : Reg) (n bits k : Nat) : LedgersKept f s (s.count r n bits k) := of_quenches rfl rfl rfl

theorem emcy (s : State) (e : Event) : LedgersKept f s (s.emcy e) := by
  obtain ⟨_, _, _, h⟩ := s.emcy_eq e
  rw [h]
  exact of_quenches rfl rfl rfl

theorem countVerdict (s : State) (g verdict c : Nat) (deferred : Bool) : LedgersKept f s (countVerdict s g verdict c deferred) := by
  unfold Machine.countVerdict
  split
  case h_1 =>
    dsimp only
    split
    · exact (count ..).trans (count ..)
    · exact count ..
  case h_2 => exact count ..
  case h_3 => exact count ..

theorem noteRefuse (s : State) (home c : Nat) (n : Beat) (r : BitVec 128) : LedgersKept f s (noteRefuse s f home c n r) := by
  unfold Machine.noteRefuse
  dsimp only
  have hnow : LedgersKept f s { s with silush := { s.silush with refusedNow := true } } := of_quenches rfl rfl rfl
  refine hnow.trans ?_
  generalize ({ s with silush := { s.silush with refusedNow := true } } : State) = t
  have hlate (x : Refused) : LedgersKept f t
      (if lateOpen t f n then t.setQuench f { t.quench f with refused := (t.quench f).refused ++ [x] } else t) := by
    split
    · exact setQuench rfl rfl rfl
    · exact refl t
  split
  · exact (hlate _).trans (emcy ..)
  · exact hlate _

theorem grantPin (g : Nat) (n : Beat) (c : Nat) (s : State) (h : Nat) : LedgersKept f s (grantPin g n c s h) := by
  have hpin (x : Tank) (b : Prop) [Decidable b] : LedgersKept f s
      (if b then (s.setTank h x).count Reg.engPinsGranted h 64 else s.count Reg.engPinsRefused h 64) := by
    split <;> exact of_quenches rfl rfl rfl
  unfold Machine.grantPin
  split
  · exact refl s
  · exact hpin _ _

theorem expireRules (g : Nat) (n : Beat) (s : State) : LedgersKept f s (expireRules g n s) := of_quenches rfl rfl rfl

theorem setPlaneState (s : State) (g : Nat) (q : Bool) (v : Nat) : LedgersKept f s (s.setPlaneState g q v) := of_quenches rfl rfl rfl

end LedgersKept

/-- `t` is `s` once one record of a forging is out: the newest of the forging and of the outputs, in the same cycle, with the
ledgers of `s`. -/
structure RecordOut (f : Nat) (r : BitVec 128) (s t : State) : Prop where
  outbox : t.outbox = .verdict f r :: s.outbox
  clocks : t.clocks = s.clocks
  head : (t.quench f).records.head? = some r
  led0 : (t.quench f).led0 = (s.quench f).led0
  ledP : (t.quench f).ledP = (s.quench f).ledP

namespace RecordOut

variable {f : Nat} {r : BitVec 128} {s t u : State}

theorem after (h : LedgersKept f s t) (k : RecordOut f r t u) : RecordOut f r s u :=
  ⟨by rw [k.outbox, h.outbox], k.clocks.trans h.clocks, k.head, k.led0.trans h.led0, k.ledP.trans h.ledP⟩

theorem keep (h : RecordOut f r s t) (k : LedgersKept f t u) : RecordOut f r s u :=
  ⟨k.outbox.trans h.outbox, k.clocks.trans h.clocks, by rw [k.records, h.head], k.led0.trans h.led0, k.ledP.trans h.ledP⟩

theorem putRecord (s : State) (f home : Nat) (n : Beat) (r : BitVec 128) : RecordOut f r s (putRecord s f home n false r) := by
  have h : (Machine.putRecord s f home n false r).quench f = { s.quench f with records := r :: (s.quench f).records.take 199 } :=
    State.quench_setQuench_same ..
  exact ⟨rfl, rfl, by rw [h]; rfl, by rw [h], by rw [h]⟩

end RecordOut

/-- What admission makes of an evaluated beat: the verdict, its reason, whether it is DEFERRED, and the forging's quench with the
ledgers that the beat has entered (R161, R167, R168). -/
inductive Admitted (s : State) (f : Nat) (q : Bool) (p : ForgingPlan) (n : Beat) : Nat → Nat → Bool → Quench → Prop where
  | reject {k : Nat} (hv : (evaluate s f q p n).reject = some k) : Admitted s f q p n 1 k false (s.quench f)
  | accept {x : Quench} {deferred : Bool} (hv : (evaluate s f q p n).reject = none)
      (ht : takeBeat s f q n (evaluate s f q p n).cls = some (x, deferred)) :
      Admitted s f q p n 0 (evaluate s f q p n).cand deferred x
  | refuse (hv : (evaluate s f q p n).reject = none) (ht : takeBeat s f q n (evaluate s f q p n).cls = none) :
      Admitted s f q p n 2 (16 + (evaluate s f q p n).cls) false (s.quench f)

/-- The end of a beat at its quench: it is issued, its tokens go, and a plane that has issued its last beat is STALE. -/
def beatIssued (s : State) (f : Nat) (q : Bool) (n : Beat) : State :=
  let x := s.quench f
  let s := s.setQuench f { x with toIssue := x.toIssue.filter (· != n), taken := x.taken.filter fun y => y.1 != n }
  if s.planeState f (!q) = 5 ∧ (s.plane f (!q)).last = n then s.setPlaneState f (!q) 6
  else if s.planeState f q = 5 ∧ (s.plane f q).last = n then s.setPlaneState f q 6
  else s

theorem beatIssued_eq (s : State) (f : Nat) (q : Bool) (n : Beat) : ∃ regs, beatIssued s f q n =
    { s.setQuench f { s.quench f with toIssue := (s.quench f).toIssue.filter (· != n),
                                      taken := (s.quench f).taken.filter fun y => y.1 != n } with regs := regs } := by
  unfold beatIssued
  dsimp only
  split
  · exact ⟨_, rfl⟩
  · split <;> exact ⟨_, rfl⟩

theorem beatIssued_quench (s : State) (f : Nat) (q : Bool) (n : Beat) : (beatIssued s f q n).quench f =
    { s.quench f with toIssue := (s.quench f).toIssue.filter (· != n), taken := (s.quench f).taken.filter fun y => y.1 != n } := by
  obtain ⟨_, h⟩ := beatIssued_eq s f q n
  rw [h]
  exact State.quench_setQuench_same ..

theorem LedgersKept.beatIssued (s : State) (f : Nat) (q : Bool) (n : Beat) : LedgersKept f s (beatIssued s f q n) := by
  have hq := beatIssued_quench s f q n
  obtain ⟨_, h⟩ := beatIssued_eq s f q n
  exact ⟨by rw [h]; rfl, by rw [h]; rfl, by rw [hq], by rw [hq], by rw [hq]⟩

/-- All that follows admission: the counters, the record, what a REFUSE and an ACCEPT add, and the end of the beat at the quench. -/
def recordIssues (s : State) (f : Nat) (q : Bool) (p : ForgingPlan) (n : Beat) (verdict c : Nat) (deferred : Bool) (r : BitVec 128) :
    State :=
  let s := putRecord (countVerdict s f verdict c deferred) f p.home n false r
  let s := if verdict = 2 then noteRefuse s f p.home c n r else s
  let s := if verdict = 0 then s.harbourList.foldl (grantPin f n c) s else s
  beatIssued (expireRules f n s) f q n

/-- A record is issued once admission has decided: only an ACCEPT changes the forging's quench before that. -/
theorem issueRecord_eq (s : State) (f : Nat) (q : Bool) (p : ForgingPlan) (n : Beat) :
    ∃ verdict reason deferred x u, Admitted s f q p n verdict reason deferred x ∧ u.outbox = s.outbox ∧ u.clocks = s.clocks ∧
      u.quench f = x ∧ issueRecord s f q p n = recordIssues u f q p n verdict (evaluate s f q p n).cls deferred
        (verdictRecord n f verdict reason (evaluate s f q p n) false deferred (truncWords s f n)) := by
  cases hv : (evaluate s f q p n).reject with
  | some k => exact ⟨1, k, false, _, s, .reject hv, rfl, rfl, rfl, by unfold issueRecord; simp only [hv]; rfl⟩
  | none =>
    cases ht : takeBeat s f q n (evaluate s f q p n).cls with
    | some y =>
      exact ⟨0, _, y.2, y.1, s.setQuench f y.1, .accept hv ht, rfl, rfl, State.quench_setQuench_same .., by
        unfold issueRecord; simp only [hv, ht]; rfl⟩
    | none => exact ⟨2, _, false, _, s, .refuse hv ht, rfl, rfl, rfl, by unfold issueRecord; simp only [hv, ht]; rfl⟩

section
variable (s : State) (f : Nat) (q : Bool) (p : ForgingPlan) (n : Beat) (verdict c : Nat) (deferred : Bool) (r : BitVec 128)

theorem recordIssues_out : RecordOut f r s (recordIssues s f q p n verdict c deferred r) := by
  have hput : RecordOut f r s (putRecord (countVerdict s f verdict c deferred) f p.home n false r) :=
    .after (.countVerdict ..) (.putRecord ..)
  unfold recordIssues
  dsimp only
  generalize putRecord (countVerdict s f verdict c deferred) f p.home n false r = t at hput ⊢
  have hnote : LedgersKept f t (if verdict = 2 then noteRefuse t f p.home c n r else t) := by
    split
    · exact .noteRefuse ..
    · exact .refl t
  generalize (if verdict = 2 then noteRefuse t f p.home c n r else t) = u at hnote ⊢
  have hpins : LedgersKept f u (if verdict = 0 then u.harbourList.foldl (grantPin f n c) u else u) := by
    split
    · exact .foldl (.grantPin f n c) ..
    · exact .refl u
  generalize (if verdict = 0 then u.harbourList.foldl (grantPin f n c) u else u) = w at hpins ⊢
  exact hput.keep ((hnote.trans hpins).trans ((LedgersKept.expireRules f n w).trans (.beatIssued ..)))

theorem recordIssues_issued : n ∉ ((recordIssues s f q p n verdict c deferred r).quench f).toIssue := by
  unfold recordIssues
  dsimp only
  rw [beatIssued_quench]
  simp

end

/-- `t` is `s` once the record `r` of a forging's beat is issued and its ledgers are those of `x`. -/
structure Issued (f : Nat) (n : Beat) (r : BitVec 128) (x : Quench) (s t : State) : Prop where
  outbox : t.outbox = .verdict f r :: s.outbox
  clocks : t.clocks = s.clocks
  issued : n ∉ (t.quench f).toIssue
  head : (t.quench f).records.head? = some r
  led0 : (t.quench f).led0 = x.led0
  ledP : (t.quench f).ledP = x.ledP

/-- `t` is `s` once a beat's record `r` is issued: the one that its evaluation and its admission give. -/
def Recorded (s : State) (f : Nat) (q : Bool) (p : ForgingPlan) (n : Beat) (r : BitVec 128) (t : State) : Prop :=
  ∃ verdict reason deferred x, Admitted s f q p n verdict reason deferred x ∧
    r = verdictRecord n f verdict reason (evaluate s f q p n) false deferred (truncWords s f n) ∧ Issued f n r x s t

theorem Recorded.withPending {s t : State} {f : Nat} {q : Bool} {p : ForgingPlan} {n : Beat} {r : BitVec 128}
    (h : Recorded s f q p n r t) (l : List Instr) : Recorded s f q p n r { t with pending := l } := by
  obtain ⟨verdict, reason, deferred, x, hadm, hr, hi⟩ := h
  exact ⟨verdict, reason, deferred, x, hadm, hr, hi.outbox, hi.clocks, hi.issued, hi.head, hi.led0, hi.ledP⟩

theorem issueRecord_recorded (s : State) (f : Nat) (q : Bool) (p : ForgingPlan) (n : Beat) :
    ∃ r, Recorded s f q p n r (issueRecord s f q p n) := by
  obtain ⟨verdict, reason, deferred, x, u, hadm, hout, hclk, rfl, h⟩ := issueRecord_eq s f q p n
  refine ⟨_, verdict, reason, deferred, _, hadm, rfl, ?_⟩
  have hrec := recordIssues_out u f q p n verdict (evaluate s f q p n).cls deferred
    (verdictRecord n f verdict reason (evaluate s f q p n) false deferred (truncWords s f n))
  rw [h]
  exact ⟨by rw [hrec.outbox, hout], hrec.clocks.trans hclk, recordIssues_issued u f q p n _ _ _ _, hrec.head, hrec.led0, hrec.ledP⟩

/-! ### VERDICT_ISSUE -/

/-- Beat `n` is the one whose record a forging issues next, its cycle has come, and no forging of lower number issues in that
cycle too (R162, R197). -/
structure IssuesNext (s : State) (f : Nat) (q : Bool) (p : ForgingPlan) (n : Beat) : Prop where
  next : s.nextIssue f = some n
  plane : s.planeFor f n = some q
  plan : (s.plane f q).plan = some p
  due : s.dueNow (s.verdictCycle f n) = true
  alone : issuesAfter s f (s.verdictCycle f n) = false

theorem verdictIssues_eq {s : State} {f : Nat} {q : Bool} {p : ForgingPlan} {n : Beat} (h : IssuesNext s f q p n) (lost : Bool) :
    verdictIssues s f lost =
      if lost then machineCheck (s.runTo (s.verdictCycle f n)) { code := 0xFF58, unit := harbourUnit p.home, detail := f }
      else issueRecord (s.runTo (s.verdictCycle f n)) f q p n := by
  unfold verdictIssues
  simp [h.next, h.plane, h.plan, h.due, h.alone]

/-- VERDICT_ISSUE of a beat that is next issues its record in its cycle (R161, R162). -/
theorem verdictIssue_issues {s : State} {f : Nat} {q : Bool} {p : ForgingPlan} {n : Beat} (hf : f < 16)
    (h : IssuesNext s f q p n) : ∃ t r, exec (.verdictIssue f false) s = .next t ∧
      Recorded (s.runTo (s.verdictCycle f n)) f q p n r t := by
  have hrec : ∃ r, Recorded (s.runTo (s.verdictCycle f n)) f q p n r (verdictIssues s f false) := by
    rw [verdictIssues_eq h]
    exact issueRecord_recorded ..
  obtain ⟨r, hr⟩ := hrec
  exact ⟨_, r, onUnit_present s _ (decide_eq_true hf), hr.withPending _⟩

/-- Quench state that is lost makes the issue of a record a machine check (R161, R371). -/
theorem verdictIssue_lost {s : State} {f : Nat} {q : Bool} {p : ForgingPlan} {n : Beat} (hf : f < 16)
    (h : IssuesNext s f q p n) (hm : s.mode ≠ .off) : ∃ t, exec (.verdictIssue f true) s = .next t ∧ t.mode = .faulted ∧
      t.faults.log.getLast? = some (logRecord t.beat.n 0xFF58 (harbourUnit p.home) 0 0 0 f) := by
  have hrun : (s.runTo (s.verdictCycle f n)).mode ≠ .off := by
    rwa [State.mode, (ForgesKept.runTo ..).reg _ _ (by decide), ← State.mode]
  refine onUnit_leaves (decide_eq_true hf) ?_ fun _ _ h => h
  rw [verdictIssues_eq h]
  exact ⟨machineCheck_mode _ _ hrun, machineCheck_log _ _ hrun⟩

end Sys2Proof.Machine
end

section
/-! SUPPORT. The ledgers of an admitted beat, and the conditions on which its harbours take it (R167, R168). -/

namespace Sys2Proof.Machine

/-! ### Tables changed under several keys -/

/-- Entries changed under keys that differ: each is changed once, by its own change. -/
theorem tabGet_foldl_tabMod {α β : Type} (d : α) (key : β → Nat) (g : β → α → α) {x : β} {l : List β} (hx : x ∈ l)
    (hl : (l.map key).Nodup) (t : List (Nat × α)) :
    tabGet d (l.foldl (fun t y => tabMod d t (key y) (g y)) t) (key x) = g x (tabGet d t (key x)) := by
  have hother : ∀ (l : List β) (t : List (Nat × α)), key x ∉ l.map key →
      tabGet d (l.foldl (fun t y => tabMod d t (key y) (g y)) t) (key x) = tabGet d t (key x) := by
    intro l
    induction l with
    | nil => intros; rfl
    | cons y l ih =>
      intro t hn
      obtain ⟨hy, hn⟩ := not_or.mp (List.mem_cons.not.mp hn)
      exact (ih _ hn).trans (tabGet_tabSet_other _ _ _ (Ne.symm hy))
  induction l generalizing t with
  | nil => cases hx
  | cons y l ih =>
    obtain ⟨hy, hl⟩ := List.nodup_cons.mp hl
    rcases List.mem_cons.mp hx with rfl | hx
    · exact (hother l _ hy).trans (tabGet_tabSet_same ..)
    · have hne : key y ≠ key x := fun e => hy (e ▸ List.mem_map_of_mem hx)
      exact (ih hx hl _).trans (congrArg (g x) (tabGet_tabSet_other _ _ _ hne))

/-! ### Contributing harbours -/

/-- Harbours of this wafer have keys below 16 and those of other wafers keys from 16 on, and no two share one (R167). -/
theorem contributorsOf_keys (s : State) (f : Nat) (q : Bool) : ((contributorsOf s f q).map Contributor.key).Nodup := by
  have hlocal : ((contributorsOf s f q).map Contributor.key) = contributors (s.plane f q).shoals f ++
      (List.range (((s.plane f q).plan.map ForgingPlan.remote).getD []).length).map (16 + ·) := by
    unfold contributorsOf
    dsimp only
    rw [List.map_append, List.map_map, List.map_map, List.range_eq_range', ← List.zipIdx_map_snd, List.map_map]
    congr 1
    refine (List.map_congr_left fun h _ => ?_).trans (List.map_id _)
    dsimp only [Function.comp]
    split <;> rfl
  rw [hlocal, List.nodup_append]
  refine ⟨List.nodup_range.filter _, List.nodup_range.map fun a b h => by simpa using h, fun a ha b hb => ?_⟩
  have : a < 16 := List.mem_range.mp (List.mem_filter.mp ha).1
  obtain ⟨k, -, rfl⟩ := List.mem_map.mp hb
  omega

theorem ForgesKept.contributorsOf {s t : State} (h : ForgesKept s t) (f : Nat) (q : Bool) :
    contributorsOf t f q = contributorsOf s f q := by
  simp only [Machine.contributorsOf, h.plane]

/-! ### One ledger -/

theorem owedOf_insertEntry (x : LedEntry) (l : List LedEntry) : owedOf (insertEntry x l) = owedOf l + x.owed := by
  induction l with
  | nil => simp [insertEntry, owedOf]
  | cons y l ih =>
    have hcons (z : LedEntry) (m : List LedEntry) : owedOf (z :: m) = z.owed + owedOf m := List.sum_cons
    unfold insertEntry
    split
    · rw [hcons x, Nat.add_comm]
    · rw [hcons, hcons, ih, Nat.add_assoc]

theorem mem_insertEntry {x e : LedEntry} {l : List LedEntry} : e ∈ insertEntry x l ↔ e = x ∨ e ∈ l := by
  induction l with
  | nil => simp [insertEntry]
  | cons y l ih =>
    unfold insertEntry
    split <;> simp [ih]
    tauto

/-- The slack that a beat of class `c` leaves an entry of ledger +. -/
def yieldSlack (c share : Nat) (e : LedEntry) : LedEntry := if e.cls < c then { e with slack := e.slack - share } else e

/-- Ledger + of a harbour with a beat of class `c` from 1 to 7. -/
def enterPlus (n : Beat) (limit c : Nat) (x : Contributor) (l : List LedEntry) : List LedEntry :=
  insertEntry { beat := n, cls := c, owed := x.share, slack := ((limit * drainWords x.gPlus : Nat) : Int) - aheadOf l c x.share }
    (l.map (yieldSlack c x.share))

/-- Ledger 0 of a harbour with a beat of class 0. -/
def enterZero (n : Beat) (x : Contributor) (l : List LedEntry) : List LedEntry :=
  l ++ [{ beat := n, cls := 0, owed := x.share, slack := 0 }]

theorem owedOf_enterZero (n : Beat) (x : Contributor) (l : List LedEntry) : owedOf (enterZero n x l) = owedOf l + x.share := by
  simp [enterZero, owedOf]

theorem owedOf_enterPlus (n : Beat) (limit c : Nat) (x : Contributor) (l : List LedEntry) :
    owedOf (enterPlus n limit c x l) = owedOf l + x.share := by
  have howed : LedEntry.owed ∘ yieldSlack c x.share = LedEntry.owed := by
    funext e
    simp only [Function.comp, yieldSlack]
    split <;> rfl
  rw [enterPlus, owedOf_insertEntry, owedOf, List.map_map, howed, owedOf]

/-- Entries of a lower class keep their promises where each had the share to spare. -/
theorem enterPlus_slack {n : Beat} {limit c : Nat} {x : Contributor} {l : List LedEntry}
    (h : ∀ e ∈ l, e.cls < c → (x.share : Int) ≤ e.slack) : ∀ e ∈ enterPlus n limit c x l, e.cls < c → 0 ≤ e.slack := by
  intro e he hc
  rcases mem_insertEntry.mp he with rfl | he
  · exact absurd hc (lt_irrefl c)
  · obtain ⟨y, hy, rfl⟩ := List.mem_map.mp he
    unfold yieldSlack at hc ⊢
    split at hc
    case isTrue hlow =>
      rw [if_pos hlow]
      exact Int.sub_nonneg_of_le (h y hy hlow)
    case isFalse hlow => exact absurd hc hlow

/-! ### The ledgers of every contributing harbour -/

theorem foldl_enterLedger_zero (n : Beat) (limit : Nat) (l : List Contributor) (x : Quench) :
    l.foldl (enterLedger n limit 0) x =
      { x with led0 := l.foldl (fun t y => tabMod [] t y.key (enterZero n y)) x.led0 } := by
  induction l generalizing x with
  | nil => rfl
  | cons y l ih => exact ih _

theorem foldl_enterLedger_plus {c : Nat} (hc : c ≠ 0) (n : Beat) (limit : Nat) (l : List Contributor) (x : Quench) :
    l.foldl (enterLedger n limit c) x =
      { x with ledP := l.foldl (fun t y => tabMod [] t y.key (enterPlus n limit c y)) x.ledP } := by
  induction l generalizing x with
  | nil => rfl
  | cons y l ih =>
    have hy : enterLedger n limit c x y = { x with ledP := tabMod [] x.ledP y.key (enterPlus n limit c y) } := if_neg hc
    rw [List.foldl_cons, hy, ih]
    rfl

/-- What a harbour's admission of a class 0 beat says. -/
theorem admits_zero {x : Quench} {limit : Nat} {y : Contributor} (h : admits x limit 0 y = true) :
    owedOf (tabGet [] x.led0 y.key) + y.share ≤ y.cap0 := of_decide_eq_true h

/-- What a harbour's admission of a beat of a class from 1 to 7 says of capacity and of the lower classes. -/
theorem admits_plus {x : Quench} {limit c : Nat} {y : Contributor} (hc : c ≠ 0) (h : admits x limit c y = true) :
    owedOf (tabGet [] x.ledP y.key) + y.share ≤ y.capPlus ∧
      ∀ e ∈ tabGet [] x.ledP y.key, e.cls < c → (y.share : Int) ≤ e.slack := by
  simp only [admits, hc, if_false, Bool.and_eq_true, decide_eq_true_eq, List.all_eq_true, List.mem_filter] at h
  obtain ⟨⟨hcap, -⟩, hslack⟩ := h
  exact ⟨hcap, fun e he hlow => hslack e ⟨he, hlow⟩⟩

/-! ### Admission at every harbour or at none -/

section
variable {s : State} {f : Nat} {q : Bool} {n : Beat} {c : Nat}

theorem takeBeat_some {x : Quench} {deferred : Bool} (h : takeBeat s f q n c = some (x, deferred)) :
    (contributorsOf s f q).all (admits (s.quench f) (deferLimit s f c) c) = true ∧
      x = (contributorsOf s f q).foldl (enterLedger n (deferLimit s f c) c) (s.quench f) := by
  unfold takeBeat at h
  dsimp only at h
  split at h
  case isTrue hall => exact ⟨hall, (congrArg Prod.fst (Option.some.inj h)).symm⟩
  case isFalse => cases h

theorem takeBeat_none (h : takeBeat s f q n c = none) :
    ¬ (contributorsOf s f q).all (admits (s.quench f) (deferLimit s f c) c) = true := by
  unfold takeBeat at h
  dsimp only at h
  split at h
  case isTrue => cases h
  case isFalse hall => exact hall

/-- A class 0 beat that every harbour takes: ledger 0 of each owes its share more, within its capacity. -/
theorem takeBeat_zero {x : Quench} {deferred : Bool} (h : takeBeat s f q n 0 = some (x, deferred)) {y : Contributor}
    (hy : y ∈ contributorsOf s f q) :
    owedOf (tabGet [] x.led0 y.key) = owedOf (tabGet [] (s.quench f).led0 y.key) + y.share ∧
      owedOf (tabGet [] x.led0 y.key) ≤ y.cap0 ∧ x.ledP = (s.quench f).ledP := by
  obtain ⟨hall, hx⟩ := takeBeat_some h
  rw [foldl_enterLedger_zero] at hx
  have hled : tabGet [] x.led0 y.key = enterZero n y (tabGet [] (s.quench f).led0 y.key) := by
    rw [hx]
    exact tabGet_foldl_tabMod [] Contributor.key (enterZero n) hy (contributorsOf_keys s f q) _
  have hcap := admits_zero (List.all_eq_true.mp hall y hy)
  rw [hled, owedOf_enterZero]
  exact ⟨rfl, hcap, by rw [hx]⟩

/-- A beat of a class from 1 to 7 that every harbour takes: ledger + of each owes its share more, within its capacity, and no
entry of a lower class has its slack below 0. -/
theorem takeBeat_plus (hc : c ≠ 0) {x : Quench} {deferred : Bool} (h : takeBeat s f q n c = some (x, deferred)) {y : Contributor}
    (hy : y ∈ contributorsOf s f q) :
    owedOf (tabGet [] x.ledP y.key) = owedOf (tabGet [] (s.quench f).ledP y.key) + y.share ∧
      owedOf (tabGet [] x.ledP y.key) ≤ y.capPlus ∧ x.led0 = (s.quench f).led0 ∧
      ∀ e ∈ tabGet [] x.ledP y.key, e.cls < c → 0 ≤ e.slack := by
  obtain ⟨hall, hx⟩ := takeBeat_some h
  rw [foldl_enterLedger_plus hc] at hx
  have hled : tabGet [] x.ledP y.key = enterPlus n (deferLimit s f c) c y (tabGet [] (s.quench f).ledP y.key) := by
    rw [hx]
    exact tabGet_foldl_tabMod [] Contributor.key (enterPlus n (deferLimit s f c) c) hy (contributorsOf_keys s f q) _
  obtain ⟨hcap, hslack⟩ := admits_plus hc (List.all_eq_true.mp hall y hy)
  rw [hled, owedOf_enterPlus]
  exact ⟨rfl, hcap, by rw [hx], enterPlus_slack hslack⟩

end

end Sys2Proof.Machine
end

section
/-! SUPPORT. The fields of a verdict record, and the reasons in the order in which the evaluation reaches them (R156 to R163). -/

namespace Sys2Proof.Machine

/-! ### The record (Table 7.2) -/

section
variable (n : Beat) (f verdict reason : Nat) (v : Verdict) (late deferred : Bool) (trunc : Nat)

theorem verdictRecord_beat : (verdictRecord n f verdict reason v late deferred trunc).extractLsb' 80 48 = n := by
  unfold verdictRecord
  iterate 15 rw [BitVec.extractLsb'_append_eq_of_le (by decide)]
  exact BitVec.extractLsb'_append_eq_left

theorem verdictRecord_forging : (verdictRecord n f verdict reason v late deferred trunc).extractLsb' 76 4 = BitVec.ofNat 4 f := by
  unfold verdictRecord
  iterate 15 rw [BitVec.extractLsb'_append_eq_of_le (by decide)]
  exact BitVec.extractLsb'_append_eq_right

theorem verdictRecord_verdict :
    (verdictRecord n f verdict reason v late deferred trunc).extractLsb' 74 2 = BitVec.ofNat 2 verdict := by
  unfold verdictRecord
  iterate 14 rw [BitVec.extractLsb'_append_eq_of_le (by decide)]
  exact BitVec.extractLsb'_append_eq_right

theorem verdictRecord_reason :
    (verdictRecord n f verdict reason v late deferred trunc).extractLsb' 69 5 = BitVec.ofNat 5 reason := by
  unfold verdictRecord
  iterate 13 rw [BitVec.extractLsb'_append_eq_of_le (by decide)]
  exact BitVec.extractLsb'_append_eq_right

theorem verdictRecord_cls : (verdictRecord n f verdict reason v late deferred trunc).extractLsb' 66 3 = BitVec.ofNat 3 v.cls := by
  unfold verdictRecord
  iterate 12 rw [BitVec.extractLsb'_append_eq_of_le (by decide)]
  exact BitVec.extractLsb'_append_eq_right

end

/-! ### The first reason (R158 to R163) -/

/-- Element `k` of a beat's decision word, the invalid code where its token is missing (R156). -/
def decisionCode (t : Option Token) (k : Nat) : Nat := (t.map fun x => decisionElem x k).getD 0x8000

theorem ite_or {α : Type} (c : Prop) [Decidable c] (a b y : Option α) : (if c then a else b).or y = if c then a.or y else b.or y :=
  apply_ite (Option.or · y) c a b

theorem windowReason_eq (ws : List Window) (t : Option (Time96 × Nat)) : windowReason ws t =
    if ws ≠ [] ∧ t = none then some 8
    else if (∃ w ∈ ws, w.isVeto = false) ∧ ∀ w ∈ ws, w.isVeto = false → ∀ y, t = some y → w.inside y.1 = false then some 3
    else if ∃ w ∈ ws, w.isVeto = true ∧ ∃ y, t = some y ∧ w.inside y.1 = true then some 4
    else none := by
  unfold windowReason
  by_cases hw : ws = []
  · simp [hw]
  · cases t with
    | none => simp [hw]
    | some y => simp [hw]

theorem networkReason_eq (s : State) (f : Nat) (t : Option Token) (degraded : Bool) : networkReason s f t degraded =
    if degraded = true ∧ s.reg Reg.qnDegradedPolicy f = 1 then some 9
    else if t = none then some 7
    else if decisionCode t 0 = 0x8000 ∨ decisionCode t 2 = 0x8000 then some 6
    else if signed 16 (decisionCode t 0) ≤ 0 then some 1
    else if signed 16 (decisionCode t 2) < signed 16 (s.reg Reg.qnThreshold f) then some 2
    else none := by
  unfold networkReason decisionCode
  cases t <;> simp

theorem beatClass_eq (s : State) (f : Nat) (t : Option Token) : beatClass s f t =
    if t.isSome ∧ 1 ≤ decisionCode t 1 ∧ decisionCode t 1 ≤ 7 then decisionCode t 1 else s.reg Reg.qnClass f := by
  unfold beatClass decisionCode
  cases t <;> simp

section
variable (s : State) (f : Nat) (q : Bool) (p : ForgingPlan) (n : Beat)

/-- The beat is PRIMING and its forging prescales such beats, so that no network decides on it (R161, R163). -/
abbrev prescaled : Prop := (beatFlags s f p n).getLsbD 4 = true ∧ s.reg Reg.forgePrimePolicy f = 1

/-- The prescale takes the beat. -/
abbrev prescaleHits : Prop := (n - (s.plane f q).first).toNat % s.reg Reg.forgePrimePrescale f = 0

/-- The beat is PRIMING and its forging rejects such beats. -/
abbrev forceRejected : Prop := (beatFlags s f p n).getLsbD 4 = true ∧ s.reg Reg.forgePrimePolicy f = 0

/-- What the windows decide on a beat. -/
def beatWindows : Option Nat :=
  windowReason (enabledWindows s f n) (eventTime s p n ((decisionToken s f n).map fun t => decisionElem t 3))

theorem evaluate_reject : (evaluate s f q p n).reject =
    if forceRejected s f p n then some 5
    else if prescaled s f p n then (if prescaleHits s f q n then beatWindows s f p n else some 5)
    else (networkReason s f (decisionToken s f n) ((beatFlags s f p n).getLsbD 3)).or (beatWindows s f p n) := by
  simp only [evaluate, beatWindows, forceRejected, prescaled, prescaleHits, Bool.and_eq_true, beq_iff_eq, ite_or,
    Option.some_or, Option.none_or]

theorem evaluate_cand : (evaluate s f q p n).cand = if prescaled s f p n then 10 else 0 := by
  simp only [evaluate, prescaled, Bool.and_eq_true, beq_iff_eq]

theorem evaluate_cls : (evaluate s f q p n).cls =
    if prescaled s f p n ∧ prescaleHits s f q n then s.reg Reg.qnClass f else beatClass s f (decisionToken s f n) := by
  simp only [evaluate, prescaled, prescaleHits, Bool.and_eq_true, beq_iff_eq]

end

/-! ### From the evaluation to the record -/

section
variable {s : State} {f : Nat} {q : Bool} {p : ForgingPlan} {n : Beat} {verdict reason : Nat} {deferred : Bool} {x : Quench}

theorem windowReason_lt {ws : List Window} {t : Option (Time96 × Nat)} {k : Nat} (h : windowReason ws t = some k) : k < 32 := by
  rw [windowReason_eq] at h
  split_ifs at h <;> cases h <;> decide

theorem networkReason_lt {t : Option Token} {degraded : Bool} {k : Nat} (h : networkReason s f t degraded = some k) : k < 32 := by
  rw [networkReason_eq] at h
  split_ifs at h <;> cases h <;> decide

/-- Every reason that rejects has a code of five bits (Table 7.3). -/
theorem evaluate_reject_lt {k : Nat} (h : (evaluate s f q p n).reject = some k) : k < 32 := by
  rw [evaluate_reject] at h
  split at h
  case isTrue => cases h; decide
  case isFalse =>
    split at h
    case isTrue =>
      split at h
      case isTrue => exact windowReason_lt h
      case isFalse => cases h; decide
    case isFalse =>
      rcases Option.or_eq_some_iff.mp h with hn | ⟨-, hw⟩
      · exact networkReason_lt hn
      · exact windowReason_lt hw

/-- A candidate that no network decides on is one that the prescale takes. -/
theorem prescaleHits_of_candidate (h : prescaled s f p n) (hr : (evaluate s f q p n).reject = none) : prescaleHits s f q n := by
  by_contra hh
  have hforce : ¬ forceRejected s f p n := fun e => absurd (e.2.symm.trans h.2) (by decide)
  rw [evaluate_reject, if_neg hforce, if_pos h, if_neg hh] at hr
  cases hr

theorem Admitted.of_reject (h : Admitted s f q p n verdict reason deferred x) {k : Nat}
    (hk : (evaluate s f q p n).reject = some k) : verdict = 1 ∧ reason = k := by
  cases h with
  | reject hv => exact ⟨rfl, Option.some.inj (hv.symm.trans hk)⟩
  | accept hv | refuse hv => cases hv.symm.trans hk

theorem Admitted.of_candidate (h : Admitted s f q p n verdict reason deferred x) (hr : (evaluate s f q p n).reject = none) :
    if (contributorsOf s f q).all (admits (s.quench f) (deferLimit s f (evaluate s f q p n).cls) (evaluate s f q p n).cls)
    then verdict = 0 ∧ reason = (evaluate s f q p n).cand else verdict = 2 ∧ reason = 16 + (evaluate s f q p n).cls := by
  cases h with
  | reject hv => cases hv.symm.trans hr
  | accept _ ht => exact (if_pos (takeBeat_some ht).1).mpr ⟨rfl, rfl⟩
  | refuse _ ht => exact (if_neg (takeBeat_none ht)).mpr ⟨rfl, rfl⟩

end

/-- Settles O27. The reasons are taken in the order of R161: the statement's list is that of `evaluate` with its two halves, the
network's and the windows', written one after the other; admission then turns the first of them, or none, into the record. -/
theorem verdictFollowsTheEvaluation : Obligations.VerdictFollowsTheEvaluation := by
  unfold Obligations.VerdictFollowsTheEvaluation
  intro s f n q p hf hnext hplane hplan hdue halone u fl policy skips hit d code time ws cls reject
  have h : IssuesNext s f q p n := ⟨hnext, hplane, hplan, hdue, halone⟩
  refine ⟨?_, fun hm => verdictIssue_lost hf h hm⟩
  have hreject : (evaluate u f q p n).reject = reject := by
    rw [evaluate_reject]
    have hcode : code = decisionCode d := rfl
    have hforce : forceRejected u f p n ↔ fl.getLsbD 4 = true ∧ policy = 0 := Iff.rfl
    have hskip : prescaled u f p n ↔ skips := Iff.rfl
    have hhit : prescaleHits u f q n ↔ hit := Iff.rfl
    by_cases hs : skips
    · by_cases hh : hit
      · simp [reject, hskip, hforce, hhit, hs, hh, beatWindows, windowReason_eq, time, ws, d]
      · simp [reject, hskip, hforce, hhit, hs, hh]
    · simp only [reject, hskip, hforce, hs, hcode, networkReason_eq, beatWindows, windowReason_eq, ite_or,
        Option.some_or, Option.none_or, not_false_eq_true, true_and, false_and, if_false, fl, time, ws, d]
  have hcls (hr : reject = none) : (evaluate u f q p n).cls = cls := by
    rw [evaluate_cls, beatClass_eq]
    by_cases hs : skips
    · exact (if_pos ⟨hs, prescaleHits_of_candidate hs (hreject.trans hr)⟩).trans (if_pos hs).symm
    · exact (if_neg fun e => hs e.1).trans (if_neg hs).symm
  obtain ⟨t, r, ht, verdict, reason, deferred, x, hadm, hr, hi⟩ := verdictIssue_issues hf h
  refine ⟨t, r, ht, ?_, ?_, hi.issued, ?_, ?_, fun k hk => ?_, fun hnone => ?_⟩
  · rw [hi.outbox, (State.runTo_star s _).2]
  · rw [hi.clocks, State.runTo_cycle]
  · rw [hr, verdictRecord_beat]
  · rw [hr, verdictRecord_forging, BitVec.toNat_ofNat, Nat.mod_eq_of_lt hf]
  · obtain ⟨rfl, rfl⟩ := hadm.of_reject (hreject.trans hk)
    rw [hr, verdictRecord_verdict, verdictRecord_reason, BitVec.toNat_ofNat, BitVec.toNat_ofNat]
    exact ⟨rfl, Nat.mod_eq_of_lt (evaluate_reject_lt (hreject.trans hk))⟩
  · have hc := hadm.of_candidate (hreject.trans hnone)
    rw [evaluate_cand, hcls hnone] at hc
    rw [hr, verdictRecord_cls, verdictRecord_verdict, verdictRecord_reason, hcls hnone]
    refine ⟨BitVec.toNat_ofNat .., ?_⟩
    split at hc
    case isTrue hall =>
      obtain ⟨rfl, rfl⟩ := hc
      refine (if_pos hall).mpr ⟨rfl, ?_⟩
      split <;> rfl
    case isFalse hall =>
      obtain ⟨rfl, rfl⟩ := hc
      exact (if_neg hall).mpr ⟨rfl, rfl⟩

/-- Settles O28. Only an ACCEPT changes the ledgers, and each contributing harbour's then changes once, since no two of them share
a key; what `admits` has checked of the harbour before is what the entered ledger keeps. -/
theorem admissionKeepsItsPromises : Obligations.AdmissionKeepsItsPromises := by
  unfold Obligations.AdmissionKeepsItsPromises
  intro s f n q p hf hnext hplane hplan hdue halone
  obtain ⟨t, r, ht, verdict, reason, deferred, x, hadm, hr, hi⟩ := verdictIssue_issues hf ⟨hnext, hplane, hplan, hdue, halone⟩
  have hkept := ForgesKept.runTo s (s.verdictCycle f n)
  have hverdict : r.extractLsb' 74 2 = BitVec.ofNat 2 verdict := by rw [hr, verdictRecord_verdict]
  refine ⟨t, r, ht, hi.head, fun hno => ?_, fun hyes y hy => ?_⟩
  · rw [hi.led0, hi.ledP]
    cases hadm with
    | reject | refuse => rw [hkept.quench]; exact ⟨rfl, rfl⟩
    | accept => exact absurd hverdict hno
  · rw [hi.led0, hi.ledP, ← hkept.quench]
    rw [← hkept.contributorsOf] at hy
    cases hadm with
    | reject | refuse => rw [hverdict] at hyes; cases hyes
    | accept hv htake =>
      intro c
      refine ⟨fun hc => ?_, fun hc => takeBeat_plus hc htake hy⟩
      rw [show (evaluate _ f q p n).cls = 0 from hc] at htake
      exact takeBeat_zero htake hy

end Sys2Proof.Machine
end

section
/-! SUPPORT. The canonical form of the engine memory through every command, by the ending that its family shares (R176, R397). -/

namespace Sys2Proof.Machine

/-- A command that answers a next state leaves the memory in canonical form. -/
def KeepsForm (o : Host.Outcome State Fault Refusal) : Prop := ∀ t, o = .next t → storeWf t.mem = true

/-! ### The shared endings of commands -/

theorem done_keepsForm (s : State) {x : State} (hx : storeWf x.mem = true) : KeepsForm (done s x) := by
  intro t ht
  rw [done_keeps State.mem (fun _ _ => rfl) ht]
  exact hx

theorem onUnit_keepsForm (b : Bool) (s : State) {x : State} (hx : storeWf x.mem = true) : KeepsForm (onUnit b s x) := by
  intro t ht
  rw [onUnit_keeps State.mem (fun _ _ => rfl) ht]
  exact hx

theorem elemBody_wf (g : AnvilFields → Num → Num → Num → Num) : keepsWf (elemBody g) := vecBody_wf _

section
variable {s : State} (hs : storeWf s.mem = true)
include hs

theorem anvil_keepsForm (op : Nat) {body : Body} (hb : keepsWf body) (u : Seat) (f : AnvilFields) : KeepsForm (anvil op body u f s) := by
  refine onUnit_keepsForm _ _ ?_
  cases u with
  | tile t q => exact runTile_wf _ _ hb _ _ _ _ hs
  | temper h k => exact runKernel_wf _ _ hb _ _ _ _ hs

theorem temperOnly_keepsForm (op : Nat) {body : Nat → Nat → Body} (hb : ∀ h k, keepsWf (body h k)) (u : Seat) (f : AnvilFields) :
    KeepsForm (temperOnly op body u f s) := by
  refine onUnit_keepsForm _ _ ?_
  cases u with
  | tile t q => exact hs
  | temper h k => exact runKernel_wf _ _ (hb h k) _ _ _ _ hs

theorem command_keepsForm (op : Nat) {g : State → Running → State} (hg : ∀ s r, storeWf s.mem = true → storeWf (g s r).mem = true)
    (h e q : Nat) : KeepsForm (command op g h e q s) :=
  onUnit_keepsForm _ _ (routine_wf _ _ hg _ _ _ _ hs)

theorem seqRow_keepsForm (seq : Nat) (i : MicroIssue) : KeepsForm (seqRow seq i s) := onUnit_keepsForm _ _ (issue_wf _ _ _ hs)

theorem onPtp_keepsForm (via : PtpVia) {taken : State → State} (ht : ∀ t, storeWf t.mem = true → storeWf (taken t).mem = true) :
    KeepsForm (done s (onPtp s via taken)) :=
  done_keepsForm _ (onPtp_wf _ _ _ ht hs)

/-! ### Datagrams -/

theorem serve'_keepsForm (op : Nat) {run : State → Option (List Byte × State)}
    (hr : ∀ s bs t, storeWf s.mem = true → run s = some (bs, t) → storeWf t.mem = true) (d : Datagram) :
    KeepsForm (done s (serve' op run d s)) :=
  done_keepsForm _ (serveq_wf _ _ hr _ _ hs)

end

theorem sized_mem {n : Nat} {d : Datagram} {bs cs : List Byte} {s t : State} (h : sized n d (some (bs, s)) = some (cs, t)) :
    t.mem = s.mem := by
  unfold sized at h
  split at h
  · cases h; rfl
  · cases h

theorem readStep_mem (via : Via) (x : List Byte × State) (item : Nat × Nat) : (readStep via x item).2.mem = x.2.mem := by
  unfold readStep
  dsimp only
  split
  · rfl
  · dsimp only
    split
    · exact afterRead_mem _ _ _ _
    · rfl

theorem readItems_wf (d : Datagram) (s : State) (bs : List Byte) (t : State) (hs : storeWf s.mem = true)
    (h : readItems d s = some (bs, t)) : storeWf t.mem = true := by
  unfold readItems at h
  dsimp only at h
  split at h
  · cases h
  · have hf := foldl_fixed (fun x : List Byte × State => x.2.mem) _ (readStep_mem (sourceOf d))
      ((List.range (d.payload.length / 4)).map fun k => (leAt d.payload (4 * k) 2, leAt d.payload (4 * k + 2) 1)) ([], s)
    rw [Option.some.inj h] at hf
    rw [hf]
    exact hs

theorem writeStep_wf (x : List Byte × State) (item : Nat × Nat × List Byte) (hx : storeWf x.2.mem = true) :
    storeWf (writeStep x item).2.mem = true := by
  unfold writeStep
  exact valueWrite_wf _ _ _ _ _ (by split <;> simp [hx])

theorem writeSteps_wf (items : List (Nat × Nat × List Byte)) (x : List Byte × State) (hx : storeWf x.2.mem = true) :
    storeWf (items.foldl writeStep x).2.mem = true := by
  induction items generalizing x with
  | nil => exact hx
  | cons i items ih => exact ih _ (writeStep_wf _ _ hx)

theorem writeAll_wf (d : Datagram) (s : State) (bs : List Byte) (t : State) (hs : storeWf s.mem = true)
    (h : writeAll d s = some (bs, t)) : storeWf t.mem = true := by
  unfold writeAll at h
  split at h
  · cases h
  · cases h
  · cases h
    rw [State.accessed_mem]
    exact writeSteps_wf _ _ hs

theorem openAsked_mem (d : Datagram) (s : State) (bs : List Byte) (t : State) (h : openAsked d s = some (bs, t)) : t.mem = s.mem :=
  (sized_mem h).trans (openWrite_mem ..)

theorem chunkAsked_mem (d : Datagram) (s : State) (bs : List Byte) (t : State) (h : chunkAsked d s = some (bs, t)) : t.mem = s.mem := by
  unfold chunkAsked at h
  dsimp only at h
  split at h
  · cases h
  · exact (sized_mem h).trans (chunkWrite_mem ..)

theorem commitAsked_mem (d : Datagram) (s : State) (bs : List Byte) (t : State) (h : commitAsked d s = some (bs, t)) :
    t.mem = s.mem := (sized_mem h).trans (commitWrite_mem ..)

theorem cancelAsked_mem (d : Datagram) (s : State) (bs : List Byte) (t : State) (h : cancelAsked d s = some (bs, t)) :
    t.mem = s.mem := (sized_mem h).trans (cancelWrite_mem ..)

theorem fragmentAsked_mem (d : Datagram) (s : State) (bs : List Byte) (t : State) (h : fragmentAsked d s = some (bs, t)) :
    t.mem = s.mem := by
  unfold fragmentAsked at h
  dsimp only at h
  split at h
  · cases h
  · exact (sized_mem h).trans (domainFragment_mem ..)

theorem subscribeAsked_mem (d : Datagram) (s : State) (bs : List Byte) (t : State) (h : subscribeAsked d s = some (bs, t)) :
    t.mem = s.mem := (sized_mem h).trans (State.modLinks_mem ..)

theorem closeAsked_mem (d : Datagram) (s : State) (bs : List Byte) (t : State) (h : closeAsked d s = some (bs, t)) :
    t.mem = s.mem := (sized_mem h).trans (endSession_mem ..)

theorem keeping_wf {run : State → Option (List Byte × State)} (hr : ∀ s bs t, run s = some (bs, t) → t.mem = s.mem) (s : State)
    (bs : List Byte) (t : State) (hs : storeWf s.mem = true) (h : run s = some (bs, t)) : storeWf t.mem = true := by
  rw [hr s bs t h]
  exact hs

/-! ### Every command -/

/-- The families are grouped by the ending that they share; the first two are those whose one effect has a law of its own. -/
theorem exec_keepsForm (c : Instr) {s : State} (hs : storeWf s.mem = true) : KeepsForm (exec c s) := by
  cases c with
  | powerUp | hearthLockTimeout | hearthUnlock | refclkAbsent | beatBoundary | ptpManagement | ptpSyncTx | ptpDelayReqTx
  | announceReceiptTimeout | ptpPortLinkDown | soundingEnd | soundLost | shadowLoadComplete | publication | mainRailTimeout
  | mainPowerRemoval | snapshotExpiry | uartPartExpiry | domainSessionIdle | domainReadIdle | registerWrite | sessionTimeout
  | nmtStartRemoteNode | nmtStopRemoteNode | nmtEnterPreOperational | nmtResetNode | nmtResetCommunication | heartbeat | sync
  | emcyTransmit | busOff | busOffRecovery | uartReadLine | uartWriteLine | uartOpenLine | uartCommitLine | uartCancelLine
  | silushCycleStart | rangingReturn | ownBurst | noBeatTimeout | reset | drainEnd | testStart | testForcedStart | testComplete
  | bistComplete | jtagIdcode | jtagBypass | canErrorPassive =>
    refine done_keepsForm _ ?_
    simp [hs, ite_mem]
  | actionDueInHeld | timeActFieldWrite | signalPresent | lossOfSignal | blockLock | blockLockLoss | fecLock | fecLockLoss
  | beatHeader | alignMarker | dataBlock | fillBlock | shoalTokenRelease | laneConfigWrite | injectPeriodic | prbsLock
  | prbsLockLoss | ferryToken | ferryTokenRelease | triggerArrival | orphanToken | bankedCycle | budgetExhausted
  | quenchFinalToken | verdictIssue | verdictRingArrival | commandStart | commandComplete | engCompletionsRead | itemArrival
  | itemDue | itemTimeout | reductionApply | orderedReductionApply | hbmRefresh | hbmScrub | routineRestart | ethLinkChange
  | tpdoEventTimer | slotBurst | slotAbsent | digest | harbourScrub | rampComplete | domainFailed =>
    refine onUnit_keepsForm _ _ ?_
    simp [hs, ite_mem]
  | timePtpEnable | dbgHazClear | imgShadowLoad | silReenable | activate | start | stop | hold | rearm | fltLogClear =>
    exact done_keepsForm _ (hostWrite_wf _ _ _ _ hs)
  | actionCommit | actionCancel | laneInjectFire | forgeSoundLoaded | forgeSoundReprime | forgeSoundReload | engTokens
  | engResume | cacheHoldDirectMib | pwrDomainOn | bistLogic | bistMemory | bistBoth =>
    exact onUnit_keepsForm _ _ (hostWrite_wf _ _ _ _ hs)
  | ptpSync | ptpFollowUp | ptpAnnounce | ptpDelayReq | ptpDelayResp | ptpPdelayReq | ptpPdelayResp =>
    exact onPtp_keepsForm hs _ fun t ht => by simp [ht]
  | slot0Beat | slot0Phase | slot0Range =>
    exact done_keepsForm _ (slot0Burst_wf _ _ _ _ (fun d t ht => by simp [ht]) hs)
  | arpRequest | icmpEcho | neighbourSolicitation =>
    exact onUnit_keepsForm _ _ (State.onFrame_wf _ _ _ _ (fun t ht => by simp [ite_mem, ht]) hs)
  | usdoUpload | usdoDownload | usdoAbort => exact done_keepsForm _ (onFd_wf _ _ _ (by simp [hs]) hs)
  | receivePdo => exact onUnit_keepsForm _ _ (onFd_wf _ _ _ (by simp [hs]) hs)
  | read d => exact serve'_keepsForm hs _ (readItems_wf d) d
  | write d => exact serve'_keepsForm hs _ (writeAll_wf d) d
  | domainOpen d => exact serve'_keepsForm hs _ (keeping_wf (openAsked_mem d)) d
  | domainChunk d => exact serve'_keepsForm hs _ (keeping_wf (chunkAsked_mem d)) d
  | domainCommit d => exact serve'_keepsForm hs _ (keeping_wf (commitAsked_mem d)) d
  | domainCancel d => exact serve'_keepsForm hs _ (keeping_wf (cancelAsked_mem d)) d
  | domainRead d => exact serve'_keepsForm hs _ (keeping_wf (fragmentAsked_mem d)) d
  | subscribe d => exact serve'_keepsForm hs _ (keeping_wf (subscribeAsked_mem d)) d
  | close d => exact serve'_keepsForm hs _ (keeping_wf (closeAsked_mem d)) d
  | nop | rep | pset | ttest | tflag => exact anvil_keepsForm hs _ (fun _ _ _ _ ht => ht) _ _
  | recv => exact anvil_keepsForm hs _ recvBody_wf _ _
  | send => exact anvil_keepsForm hs _ sendBody_wf _ _
  | ldc => exact anvil_keepsForm hs _ (ldcBody_wf _) _ _
  | ldw => exact anvil_keepsForm hs _ (ldwBody_wf _) _ _
  | stw => exact anvil_keepsForm hs _ stwBody_wf _ _
  | hpush => exact anvil_keepsForm hs _ hpushBody_wf _ _
  | hld => exact anvil_keepsForm hs _ (hldBody_wf _) _ _
  | acci => exact anvil_keepsForm hs _ acciBody_wf _ _
  | dot => exact anvil_keepsForm hs _ dotBody_wf _ _
  | accout | accred => exact anvil_keepsForm hs _ (accBody_wf _) _ _
  | lut | luti => exact anvil_keepsForm hs _ (lookupBody_wf _) _ _
  | vadd | vsub | vmul | vfma | vmax | vmin | vshr => exact anvil_keepsForm hs _ (elemBody_wf _) _ _
  | vcvt | vbc | vslide | sel | mlog | popc => exact anvil_keepsForm hs _ (vecBody_wf _) _ _
  | cmp | testv => exact anvil_keepsForm hs _ (regBody_wf _) _ _
  | lda => exact temperOnly_keepsForm hs _ ldaBody_wf _ _
  | sta => exact temperOnly_keepsForm hs _ staBody_wf _ _
  | reda => exact temperOnly_keepsForm hs _ redaBody_wf _ _
  | aradd => exact temperOnly_keepsForm hs _ araddBody_wf _ _
  | br => exact temperOnly_keepsForm hs _ brBody_wf _ _
  | endKernel => exact temperOnly_keepsForm hs _ endBody_wf _ _
  | nopCommand | signal | list | rangePrefetch | rangeFlush | rangeInvalidate | sieveJob | pairJob | pin | pinCopy | launch =>
    exact command_keepsForm hs _ (fun t r ht => by simp [ht]) _ _ _
  | copy | fetch | store =>
    exact command_keepsForm hs _ (fun t r ht => tongsLine_wf _ _ _ (fun t r n ht => by simp [ht, ite_mem]) _ _ ht) _ _ _
  | fill =>
    exact command_keepsForm hs _ (fun t r ht => tongsLine_wf _ _ _ (fun t r n ht => by simp [ht, ite_mem]) _ _ ht) _ _ _
  | seqNext | seqJump | seqJumpP | seqBranch | seqCall | seqReturn | seqWait | seqEnd => exact seqRow_keepsForm hs _ _

/-- Settles O3: a step either lets one core cycle pass, which leaves the memory, or runs the command at the front of the queue. That a
byte which nothing has written is 0, and so is not listed, is the model's choice (notes/assumptions/8.md). -/
theorem everyStepKeepsMemoryForm : Obligations.EveryStepKeepsMemoryForm := by
  intro s t hs h
  unfold step at h
  split at h
  · cases h
    exact (congrArg storeWf (State.advance_mem s 1)).trans hs
  · rename_i c rest _
    exact exec_keepsForm c (s := { s with pending := rest }) hs t h

end Sys2Proof.Machine
end


section
/-! SUPPORT. Memories that are not in canonical form, for the statements that ask what a byte reads once 0 has been written over it. -/

namespace Sys2Proof.Machine

/-- A memory out of order: the entry of address `a` stands behind that of a greater one, so that a 0 written to `a` does not find it
(`storeSet`) and the byte goes on to read 1. -/
def unsortedMem (a : Nat) : List Host.Cell := [(2 ^ 60, 1#8), (a, 1#8)]

/-! ### FILL -/

/-- A FILL of one line of temper 0's scratchpad with the pattern 0. -/
def zeroFill : Cmd := tCmd 0x11 (scratchAddr 0 0 0 + 1 * 2 ^ 96)

/-- The FILL's turn in queue mode, over an unsorted memory. -/
def fillUnsorted : State := { (tWork 0 zeroFill).setReg Reg.engQueueMode 0 1 with mem := unsortedMem (scratchAddr 0 0 0) }

/-- The line's first byte still reads 1. -/
theorem fillUnsorted_byte : (answered (exec (.fill 0 0 0) fillUnsorted)).map (fun t => t.load (scratchAddr 0 0 0) 4)
    = some [1#8, 0#8, 0#8, 0#8] := by decide +kernel

/-- Refutes O32, by its clause on the bytes of FILL. The statement takes every memory, also one out of canonical form, where a 0 that is
written may not be what is read. No step leads from reset to such a memory (O3). -/
theorem not_copyAndFillWriteTheirLines : ¬ Obligations.CopyAndFillWriteTheirLines := by
  unfold Obligations.CopyAndFillWriteTheirLines
  intro h
  have hruns : runsNow fillUnsorted 0 0 0 0x11 (tRun 0 zeroFill) := by unfold runsNow; decide +kernel
  obtain ⟨-, -, hline⟩ := h fillUnsorted 0 0 (tRun 0 zeroFill) true hruns
  have hserved : servedAtOnce fillUnsorted 0 (itemOf 0 0 (.write 64) 0 (scratchAddr 0 0 0) 0 0#512 false) := by
    unfold servedAtOnce; decide +kernel
  obtain ⟨t, ht, -, -, hbytes, -⟩ := hline (by decide +kernel) (by decide +kernel) (by decide +kernel) (.inr rfl) (by decide +kernel)
    (.inr rfl) hserved (by decide +kernel)
  have hbyte := fillUnsorted_byte
  rw [show exec (.fill 0 0 0) fillUnsorted = .next t from ht] at hbyte
  have hread : t.load (scratchAddr 0 0 0) 4 = [1#8, 0#8, 0#8, 0#8] := Option.some.inj hbyte
  have haddr : cmdBody zeroFill 0 48 + 64 * (tRun 0 zeroFill).issued + 4 * 0 = scratchAddr 0 0 0 := by decide +kernel
  have hfirst : t.load (cmdBody zeroFill 0 48 + 64 * (tRun 0 zeroFill).issued + 4 * 0) 4 = leBytes 4 (cmdBody zeroFill 64 32) :=
    hbytes rfl 0 (by decide)
  rw [haddr, hread] at hfirst
  exact absurd hfirst (by decide +kernel)

/-! ### PIN_COPY -/

/-- A pin of one word, 0, of beat 5 of forging 0. -/
def zeroPin : Pin := { forging := 0, beat := 5#48, size := 1, words := [0#64], release := 9#48 }

/-- A PIN_COPY of that pin to temper 0's scratchpad. -/
def zeroPinCopy : Cmd := tCmd 0x15 (5 + scratchAddr 0 0 0 * 2 ^ 52)

/-- The PIN_COPY's turn in queue mode, in beat 5, over an unsorted memory. -/
def pinUnsorted : State :=
  { ((tWork 0 zeroPinCopy).setTank 0 { Tank.empty with pins := [zeroPin] }).setReg Reg.engQueueMode 0 1 with
    beat := { BeatCount.off with on := true, n := 5#48, period := 1600 }, mem := unsortedMem (scratchAddr 0 0 0) }

/-- The word's first byte still reads 1. -/
theorem pinUnsorted_byte : (answered (exec (.pinCopy 0 0 0) pinUnsorted)).map (fun t => t.load (scratchAddr 0 0 0) 8)
    = some (1#8 :: zeros 7) := by decide +kernel

/-- Refutes O31, by its clause on the bytes of PIN_COPY. The statement takes every memory, also one out of canonical form, where a 0 that
is written may not be what is read. No step leads from reset to such a memory (O3). -/
theorem not_plainCommandsListsAndPins : ¬ Obligations.PlainCommandsListsAndPins := by
  unfold Obligations.PlainCommandsListsAndPins
  intro h
  have hruns : runsNow pinUnsorted 0 0 0 0x15 (tRun 0 zeroPinCopy) := by unfold runsNow; decide +kernel
  obtain ⟨-, hpins⟩ := h
  obtain ⟨-, hcopy⟩ := hpins pinUnsorted 0 0 (tRun 0 zeroPinCopy)
  obtain ⟨-, hline⟩ := hcopy hruns (by decide +kernel) (by decide +kernel)
  have hserved : servedAtOnce pinUnsorted 0 (itemOf 0 0 (.write 8) 0 (scratchAddr 0 0 0) 0 0#512 false) := by
    unfold servedAtOnce; decide +kernel
  obtain ⟨t, ht, -, -, hwords, -⟩ := hline zeroPin (by decide +kernel) (by decide +kernel) (by decide +kernel) (by decide +kernel)
    (by decide +kernel) (by decide +kernel) (by decide +kernel) hserved
  have hbyte := pinUnsorted_byte
  rw [ht] at hbyte
  have hread : t.load (scratchAddr 0 0 0) 8 = 1#8 :: zeros 7 := Option.some.inj hbyte
  have haddr : cmdBody zeroPinCopy 52 48 + 64 * (tRun 0 zeroPinCopy).issued + 8 * 0 = scratchAddr 0 0 0 := by decide +kernel
  have hfirst : t.load (cmdBody zeroPinCopy 52 48 + 64 * (tRun 0 zeroPinCopy).issued + 8 * 0) 8 = leBytes 8 0 :=
    hwords 0 (by decide +kernel)
  rw [haddr, hread] at hfirst
  exact absurd hfirst (by decide +kernel)

/-! ### Items -/

/-- A line of zeros on its way from 0x40 to 0x80 of the direct region, for a FETCH. -/
def zeroItem : Item := itemOf 0 0 .copy (mkAddr 1 0 0x40) (mkAddr 1 0 0x80) 0 0#512 false

/-- The item stands alone in DQ0 in queue mode, over an unsorted memory. -/
def itemUnsorted : State := { tItems [(Reg.engQueueMode, 0, 1)] zeroItem with mem := unsortedMem (mkAddr 1 0 0x80) }

/-- An arrival without errors. -/
def cleanReport : EccReport := { corrected := false, uncorrected := false, odCorrected := false, odUncorrected := false }

/-- The source line reads 0, and the destination line, once the item has landed, 1. -/
theorem itemUnsorted_lines : lineData itemUnsorted (mkAddr 1 0 0x40) = 0#512 ∧
    (answered (exec (.itemArrival 0 0 0 cleanReport) itemUnsorted)).map (fun t => lineData t (mkAddr 1 0 0x80)) = some 1#512 := by
  decide +kernel

/-- Refutes O37, by its clause on the line that an item leaves in queue mode. The statement takes every memory, also one out of canonical
form, where a 0 that is written may not be what is read. No step leads from reset to such a memory (O3). -/
theorem not_itemsAreDeliveredInOrder : ¬ Obligations.ItemsAreDeliveredInOrder := by
  unfold Obligations.ItemsAreDeliveredInOrder
  intro h
  obtain ⟨harrive, -⟩ := h itemUnsorted 0 0 zeroItem (tRun 0 (tCmd 0x12 (2 ^ 96))) (by decide +kernel) (by decide) (by decide +kernel)
    (by decide +kernel) rfl (by decide) rfl (by decide +kernel) (by decide +kernel) rfl (by decide +kernel) (by decide +kernel) rfl rfl
    (by decide +kernel)
  obtain ⟨t, ht, -, hdata, -⟩ := harrive (by decide +kernel) rfl
  obtain ⟨hsrc, hdst⟩ := itemUnsorted_lines
  rw [show exec (.itemArrival 0 0 0 cleanReport) itemUnsorted = .next t from ht] at hdst
  have hone : lineData t zeroItem.dst = 1#512 := Option.some.inj hdst
  rw [hone, show lineData itemUnsorted zeroItem.src = 0#512 from hsrc] at hdata
  exact absurd hdata (by decide +kernel)

end Sys2Proof.Machine
end

section
/-! SUPPORT. The rules of a harbour's state: what is read after its record, its running commands or its queues' halts are changed, and
what a routine does on a command that runs (R182, R184, R185). -/

namespace Sys2Proof.Machine

/-! ### A harbour read back -/

@[simp] theorem State.harbour_setHarbour (s : State) (h : Nat) (x : Harbour) : (s.setHarbour h x).harbour h = x := tabGet_tabSet_same ..

theorem State.harbour_setHarbour_other (s : State) {h g : Nat} (x : Harbour) (hne : h ≠ g) : (s.setHarbour h x).harbour g = s.harbour g :=
  tabGet_tabSet_other _ _ _ hne

@[simp] theorem State.harbour_modHarbour (s : State) (h : Nat) (f : Harbour → Harbour) : (s.modHarbour h f).harbour h = f (s.harbour h) :=
  State.harbour_setHarbour ..

theorem State.harbour_modHarbour_other (s : State) {h g : Nat} (f : Harbour → Harbour) (hne : h ≠ g) :
    (s.modHarbour h f).harbour g = s.harbour g := State.harbour_setHarbour_other _ _ hne

@[simp] theorem State.harbour_setReg (s : State) (r : Reg) (n v h : Nat) : (s.setReg r n v).harbour h = s.harbour h := rfl

@[simp] theorem State.harbour_count (s : State) (r : Reg) (n b k h : Nat) : (s.count r n b k).harbour h = s.harbour h := rfl

/-! ### Running commands -/

/-- The map that modRunning applies to each running command. -/
theorem modRunning_harbour (s : State) (h e q : Nat) (g : Running → Running) :
    (modRunning s h e q g).harbour h = { s.harbour h with
      running := (s.harbour h).running.map fun r => if r.engine = e ∧ r.queue = q then g r else r } :=
  State.harbour_modHarbour ..

/-- The command that a queue runs is one of that queue. -/
theorem runningAt_place {x : Harbour} {e q : Nat} {r : Running} (hr : x.runningAt e q = some r) : r.engine = e ∧ r.queue = q := by
  have := List.find?_some hr
  simpa using this

/-- A change that leaves a command in its queue changes what the queue runs. -/
theorem runningAt_modRunning (s : State) (h e q : Nat) {g : Running → Running} (hg : ∀ r, (g r).engine = r.engine ∧ (g r).queue = r.queue) :
    ((modRunning s h e q g).harbour h).runningAt e q = ((s.harbour h).runningAt e q).map g := by
  rw [modRunning_harbour]
  simp only [Harbour.runningAt, List.find?_map]
  have hpick : ((fun r : Running => r.engine == e && r.queue == q) ∘ fun r => if r.engine = e ∧ r.queue = q then g r else r)
      = fun r => r.engine == e && r.queue == q := by
    funext r
    by_cases hr : r.engine = e ∧ r.queue = q <;> simp [hr, hg]
  rw [hpick]
  cases hf : (s.harbour h).running.find? fun r => r.engine == e && r.queue == q with
  | none => rfl
  | some r => simp [runningAt_place (x := s.harbour h) hf]

/-- The commit point marks the command as posted. -/
theorem runningAt_commitCmd (s : State) (h e q : Nat) :
    ((commitCmd s h e q).harbour h).runningAt e q = ((s.harbour h).runningAt e q).map fun r => { r with posted := true } := by
  have hrun : ((commitCmd s h e q).harbour h).runningAt e q
      = ((modRunning s h e q fun r => { r with posted := true }).harbour h).runningAt e q := by
    simp only [commitCmd, State.harbour_modHarbour]; rfl
  rw [hrun, runningAt_modRunning]
  exact fun _ => ⟨rfl, rfl⟩

/-- A command that ends is done, with its status and detail, past its commit point. -/
theorem runningAt_finish (s : State) (h e q a b : Nat) : ((finish s h e q a b).harbour h).runningAt e q =
    ((s.harbour h).runningAt e q).map fun r => { r with posted := true, finished := true, status := a, detail := b } := by
  rw [finish, runningAt_modRunning, runningAt_commitCmd, Option.map_map]
  · rfl
  · exact fun _ => ⟨rfl, rfl⟩

theorem endedWith_finish {s : State} {h e q : Nat} {r : Running} (hr : (s.harbour h).runningAt e q = some r) (a b : Nat) :
    endedWith (finish s h e q a b) h e q a b :=
  ⟨_, by rw [runningAt_finish, hr]; rfl, rfl, rfl, rfl⟩

/-- A commit and an end move the running commands and the contexts of their harbour, and nothing else of it. -/
theorem finish_harbour (s : State) (h e q a b : Nat) : ∃ rs cs, (finish s h e q a b).harbour h = { s.harbour h with running := rs, ctxs := cs } := by
  refine ⟨((finish s h e q a b).harbour h).running, ((finish s h e q a b).harbour h).ctxs, ?_⟩
  rw [finish, modRunning_harbour, commitCmd, State.harbour_modHarbour, modRunning_harbour]

theorem modRunning_temper (s : State) (h e q : Nat) (g : Running → Running) (a b : Nat) :
    (modRunning s h e q g).temper a b = s.temper a b := State.modHarbour_temper _ _ _ (by intro; rfl) (by intro; rfl) _ _

theorem finish_temper (s : State) (h e q x y a b : Nat) : (finish s h e q x y).temper a b = s.temper a b :=
  (modRunning_temper _ _ _ _ _ _ _).trans (commitCmd_temper _ _ _ _ _ _)

@[simp] theorem queueHalted_haltQueue (s : State) (h e q : Nat) : queueHalted (haltQueue s h e q) h e q = true := by
  simp [queueHalted, haltQueue, bit, Nat.testBit_or]

/-! ### Routines -/

/-- A routine of the opcode that runs acts. -/
theorem command_runs {s : State} {h e q op : Nat} {r : Running} (hr : runsNow s h e q op r) (g : State → Running → State) :
    command op g h e q s = .next { g s r with pending := s.pending } := by
  obtain ⟨hq, hrun, hop, hfin, hlist, hstand⟩ := hr
  simp [command, routine, onUnit, done, hq, hrun, hop, hfin, hlist, hstand]

/-- A command that has the lines it asks for goes on with them at once. -/
theorem withLines_has {s : State} {h e q : Nat} {r : Running} {ls : List Nat} (hr : (s.harbour h).runningAt e q = some r)
    (hfin : r.finished = false) (hls : ∀ l ∈ ls, r.has l = true) (image : Bool) (base : Nat) (go : State → Running → State) :
    withLines h e q image base ls go s = go s r := by
  have hask : ls.foldl (askLine h e q image base) s = s := by
    clear hfin
    induction ls with
    | nil => rfl
    | cons l ls ih =>
      have hone : askLine h e q image base s l = s := by simp [askLine, hr, hls l (by simp)]
      rw [List.foldl_cons, hone]
      exact ih fun l hl => hls l (by simp [hl])
  simp only [withLines, hask, hr, hfin, List.all_eq_true.2 hls]
  rfl

theorem withDescriptor_clean {s : State} {h e q a n : Nat} {r : Running} (hr : (s.harbour h).runningAt e q = some r)
    (hfin : r.finished = false) (hls : holdsLines r a n) (go : State → Running → State) : withDescriptor h e q a n go s = go s r := by
  have hbad : r.badOf (linesOf a n) = none := List.find?_eq_none.2 fun l hl => by simp [(hls l hl).2]
  rw [withDescriptor, withLines_has hr hfin fun l hl => (hls l hl).1]
  simp only [hbad]

theorem withDescriptor_poisoned {s : State} {h e q a n l : Nat} {r : Running} (hr : (s.harbour h).runningAt e q = some r)
    (hfin : r.finished = false) (hls : ∀ l ∈ linesOf a n, r.has l = true) (hbad : r.badOf (linesOf a n) = some l)
    (go : State → Running → State) : withDescriptor h e q a n go s = poisonedDescriptor s h e q (l - a / 64) := by
  rw [withDescriptor, withLines_has hr hfin hls]
  simp only [hbad]

/-- A line of `[a, a + n)` lies at most `n / 64 + 1` lines after the first. -/
theorem linesOf_offset {a n l : Nat} (hl : l ∈ linesOf a n) : l - a / 64 ≤ n / 64 + 1 := by
  unfold linesOf at hl
  split at hl
  · simp at hl
  · simp only [List.mem_map, List.mem_range] at hl
    obtain ⟨k, hk, rfl⟩ := hl
    omega

theorem poisonedDescriptor_ends {s : State} {h e q k : Nat} {r : Running} (hr : (s.harbour h).runningAt e q = some r) (hk : k < 2 ^ 32) :
    endedWith (poisonedDescriptor s h e q k) h e q 3 k ∧ queueHalted (poisonedDescriptor s h e q k) h e q = true := by
  refine ⟨?_, queueHalted_haltQueue _ _ _ _⟩
  rw [poisonedDescriptor, Nat.mod_eq_of_lt hk]
  exact endedWith_finish hr 3 k

end Sys2Proof.Machine
end

section
/-! SUPPORT. LAUNCH (R192, R194, R199, R211). -/

namespace Sys2Proof.Machine

/-- The state under the split that a LAUNCH asks for. -/
def underSplit (s : State) (h k : Nat) (l : Launch) : State :=
  if s.reg Reg.arraySplit (2 * h + k) = l.split then s else changeSplit s h k l.split

theorem underSplit_split (s : State) (h k : Nat) (l : Launch) : (underSplit s h k l).reg Reg.arraySplit (2 * h + k) = l.split := by
  unfold underSplit
  split
  · assumption
  · exact State.reg_setReg_same ..

/-- A LAUNCH without a kernel before it acts on its descriptor. -/
theorem launch_withDescriptor {s : State} {h e q : Nat} {r : Running} (hr : runsNow s h e q 0x20 r)
    (hk : (s.temper h (e - 1)).kernel = none) : exec (.launch h e q) s = .next { withDescriptor h e q (cmdBody r.cmd 0 48) 64
      (fun s r' => startKernel h e q s r' (r'.bytes (cmdBody r.cmd 0 48) 64)) s with pending := s.pending } := by
  refine (command_runs hr (launches h e q)).trans ?_
  simp only [launches, hk]

theorem startKernel_starts {s : State} {h e q : Nat} {r : Running} {d : List Byte} (hok : launchOk s d (launchOf d) = true)
    (hroute : freeRoute s h (addrHarbour (launchOf d).addr) = true)
    (hst : kernelStatus (underSplit s h (e - 1) (launchOf d)).strict (launchOf d).split
      (kernelWords (underSplit s h (e - 1) (launchOf d)) h (e - 1) (launchOf d)) = 0) :
    startKernel h e q s r d = (underSplit s h (e - 1) (launchOf d)).setTemper h (e - 1)
      { (underSplit s h (e - 1) (launchOf d)).temper h (e - 1) with kernel := some (newKernel (launchOf d) (cmdTag r.cmd) q) } := by
  unfold underSplit at hst ⊢
  simp only [startKernel, hok, hroute, hst]
  rfl

theorem startKernel_refuses {s : State} {h e q : Nat} {r : Running} {d : List Byte} (hok : launchOk s d (launchOf d) = false) :
    startKernel h e q s r d = finish s h e q 2 0 := by
  simp [startKernel, hok]

/-- AR0 to AR4 of a new kernel are its arguments. -/
theorem newKernel_args {l : Launch} (hl : l.args.length = 5) (tag q : Nat) {i : Nat} (hi : i < 5) :
    listGet 0#64 (newKernel l tag q).ar i = BitVec.ofNat 64 (l.args.getD i 0) := by
  have hi' : i < l.args.length := by omega
  simp [listGet, newKernel, List.getD, List.getElem?_append, hi']

/-- AR5 to AR7 of a new kernel are 0. -/
theorem newKernel_rest {l : Launch} (hl : l.args.length = 5) (tag q : Nat) {i : Nat} (h5 : 5 ≤ i) (h8 : i < 8) :
    listGet 0#64 (newKernel l tag q).ar i = 0#64 := by
  have hi : i = 5 ∨ i = 6 ∨ i = 7 := by omega
  rcases hi with rfl | rfl | rfl <;> simp [listGet, newKernel, List.getD, hl]

/-- Settles O34: the three cases are those of the descriptor read, and of startKernel on it. -/
theorem launchStartsAKernel : Obligations.LaunchStartsAKernel := by
  unfold Obligations.LaunchStartsAKernel
  intro s h e q r _ hruns hkernel
  have hexec := launch_withDescriptor hruns hkernel
  obtain ⟨-, hrun, -, hfin, -, -⟩ := hruns
  refine ⟨fun hlines hok hroute hst => ?_, fun hlines hok => ?_, fun hhas x hbad => ?_⟩
  · rw [withDescriptor_clean hrun hfin hlines, startKernel_starts hok hroute hst] at hexec
    refine ⟨_, newKernel (launchOf (r.bytes (cmdBody r.cmd 0 48) 64)) (cmdTag r.cmd) q, hexec, ?_, rfl, rfl, rfl, rfl, rfl, rfl, rfl, rfl, rfl, fun i hi => ?_, fun i h5 h8 => ?_, ?_⟩
    · exact congrArg Temper.kernel (State.temper_setTemper _ _ _ _)
    · rw [newKernel_args rfl _ _ hi]
      simp [launchOf, leAt, List.getD, hi]
    · exact newKernel_rest rfl _ _ h5 h8
    · exact underSplit_split s h (e - 1) _
  · rw [withDescriptor_clean hrun hfin hlines, startKernel_refuses hok] at hexec
    exact ⟨_, hexec, endedWith_finish hrun 2 0, (congrArg Temper.kernel (finish_temper s h e q 2 0 h (e - 1))).trans hkernel⟩
  · rw [withDescriptor_poisoned hrun hfin hhas hbad] at hexec
    have hx := linesOf_offset (List.mem_of_find?_eq_some hbad)
    exact ⟨_, hexec, poisonedDescriptor_ends hrun (by omega)⟩

end Sys2Proof.Machine
end

section
/-! SUPPORT. COMMAND_START (R178, R180, R182, R183, R185, R215, R244). -/

namespace Sys2Proof.Machine

/-! ### What a check of a command reads of the harbours -/

/-- What a predicate finds in the entry read, where it does not find the default, it finds in the table. -/
theorem any_of_tabGet {α : Type} {d : α} {p : Nat × α → Bool} {t : List (Nat × α)} {k : Nat} (hd : p (k, d) = false)
    (hp : p (k, tabGet d t k) = true) : t.any p = true := by
  induction t with
  | nil => simp [tabGet, hd] at hp
  | cons e t ih =>
    obtain ⟨j, w⟩ := e
    simp only [tabGet] at hp
    by_cases hj : j = k
    · subst hj; simp_all
    · rw [if_neg hj] at hp
      simp [ih hp]

/-- A table entry that a predicate does not tell from the one before leaves what the predicate finds in the table. -/
theorem tabSet_any {α : Type} {d : α} {p : Nat × α → Bool} {t : List (Nat × α)} {k : Nat} {v : α} (hd : p (k, d) = false)
    (hv : p (k, v) = p (k, tabGet d t k)) : (tabSet t k v).any p = t.any p := by
  induction t with
  | nil => simp [tabSet, hv, tabGet, hd]
  | cons e t ih =>
    obtain ⟨j, w⟩ := e
    have hall := any_of_tabGet (t := (j, w) :: t) hd
    simp only [tabSet, tabGet] at hv hall ⊢
    by_cases hj : j = k
    · subst hj; simp_all
    · rw [if_neg hj] at hv hall ⊢
      split
      · rw [List.any_cons, hv]
        cases hb : p (k, tabGet d t k) with
        | false => rfl
        | true => rw [hall hb]; rfl
      · rw [List.any_cons, List.any_cons, ih hv]

/-- A change of a harbour that leaves its scratch ranges bars the same addresses. -/
theorem scratchHeld_modHarbour (s : State) (h : Nat) {f : Harbour → Harbour} (hf : ∀ x, (f x).scratch = x.scratch) (own : Nat → Nat → Bool)
    (a n : Nat) : scratchHeld (s.modHarbour h f) own a n = scratchHeld s own a n :=
  tabSet_any (d := Harbour.empty) rfl (by simp only [hf, State.harbour])

theorem rangeOk_modHarbour (s : State) (h : Nat) {f : Harbour → Harbour} (hf : ∀ x, (f x).scratch = x.scratch) (a n : Nat) :
    rangeOk (s.modHarbour h f) a n = rangeOk s a n := by
  rw [rangeOk, scratchHeld_modHarbour s h hf]
  rfl

theorem rangeFor_modHarbour (s : State) (h : Nat) {f : Harbour → Harbour} (hf : ∀ x, (f x).scratch = x.scratch) (g e q a n : Nat) :
    rangeFor (s.modHarbour h f) g e q a n = rangeFor s g e q a n := by
  rw [rangeFor, scratchHeld_modHarbour s h hf]
  rfl

theorem cmdCheck_modHarbour (s : State) (h : Nat) {f : Harbour → Harbour} (hf : ∀ x, (f x).scratch = x.scratch) (g e : Nat) (c : Cmd) :
    cmdCheck (s.modHarbour h f) g e c = cmdCheck s g e c := by
  unfold cmdCheck
  simp only [rangeOk_modHarbour s h hf]
  rfl

theorem cmdCheck_opcode {s : State} {h e : Nat} {c : Cmd} (hop : opcodeOn (cmdOpcode c) e = false) : cmdCheck s h e c = some (1, 0) := by
  simp [cmdCheck, hop]

/-! ### Turns -/

theorem tokenReached_iff (s : State) (h k v : Nat) : tokenReached (s.harbour h) k v = true ↔ waitOver s h k v := by
  simp only [tokenReached, waitOver, decide_eq_true_eq, BitVec.toNat_sub, BitVec.toNat_ofNat]
  have := (tabGet 0#16 (s.harbour h).tokens k).isLt
  omega

/-- The waits of a command, as the statement writes them. -/
theorem waitsMet_iff (s : State) (h : Nat) (c : Cmd) : waitsMet (s.harbour h) c = true ↔
    (cmdWaitA c = true → waitOver s h (cmdTokenA c) (cmdValueA c)) ∧ (cmdWaitB c = true → waitOver s h (cmdTokenB c) (cmdValueB c)) := by
  simp only [waitsMet, Bool.and_eq_true, Bool.or_eq_true, Bool.not_eq_true', ← tokenReached_iff]
  cases cmdWaitA c <;> cases cmdWaitB c <;> simp

theorem lowestReady_of {s : State} {h e q : Nat} (hfree : ∀ r ∈ (s.harbour h).running, r.engine = e → betweenListed r = true)
    (hlow : ∀ p < q, queueHalted s h e p = true ∨ ∀ d, headOf (s.harbour h) e p = some d → canStart (s.harbour h) e p d = false) :
    lowestReady s h e q = true := by
  simp only [lowestReady, Bool.and_eq_true, List.all_eq_true, List.mem_range, Bool.or_eq_true, bne_iff_ne, Bool.not_eq_true']
  refine ⟨fun r hr => ?_, fun p hp => (hlow p hp).imp id fun hd => ?_⟩
  · by_cases he : r.engine = e
    · exact .inr (hfree r hr he)
    · exact .inl he
  · cases hh : headOf (s.harbour h) e p with
    | none => rfl
    | some d => exact hd d hh

/-! ### The start -/

theorem dispatch_harbour (s : State) (h k op b e q : Nat) : ∃ c : Ctx, c.state = 1 ∧ c.opcode = op ∧
    (dispatch s h k op b e q).harbour h = { s.harbour h with ctxs := tabSet (s.harbour h).ctxs k c } := by
  refine ⟨_, ?_, ?_, State.harbour_modHarbour _ _ _⟩ <;> rfl

theorem dispatch_temper (s : State) (h k op b e q i j : Nat) : (dispatch s h k op b e q).temper i j = s.temper i j :=
  State.modHarbour_temper _ _ _ (by intro; rfl) (by intro; rfl) _ _

theorem setTemper_harbour (s : State) (h u : Nat) (v : Temper) : ∃ x y, (s.setTemper h u v).harbour h =
    { s.harbour h with temper0 := x, temper1 := y } := by
  rw [State.setTemper, State.harbour_modHarbour]
  split
  · exact ⟨_, _, rfl⟩
  · exact ⟨_, _, rfl⟩

theorem invalidateAtStart_harbour (s : State) (h e : Nat) (c : Cmd) : ∃ x y, (invalidateAtStart s h e c).harbour h =
    { s.harbour h with temper0 := x, temper1 := y } := by
  unfold invalidateAtStart
  split
  · split
    · exact setTemper_harbour _ _ _ _
    · split
      · exact setTemper_harbour _ _ _ _
      · exact ⟨_, _, rfl⟩
  · exact ⟨_, _, rfl⟩

/-- A start empties the data and constant caches at a LAUNCH, and every first level after a fence. -/
theorem invalidateAtStart_temper (s : State) {h e : Nat} {c : Cmd} (he : e = 1 ∨ e = 2) (hc : cmdFence c = true ∨ cmdOpcode c = 0x20) :
    let x := (invalidateAtStart s h e c).temper h (e - 1)
    x.data = [] ∧ x.const = [] ∧ (cmdFence c = true → x.desc = [] ∧ x.instr = []) := by
  have hb : (e == 1 || e == 2) = true := by simpa using he
  have hall : bit 15 0 = true ∧ bit 15 1 = true ∧ bit 15 2 = true ∧ bit 15 3 = true ∧ bit 3 0 = true ∧ bit 3 1 = true := by decide
  obtain ⟨h0, h1, h2, h3, g0, g1⟩ := hall
  by_cases hf : cmdFence c = true
  · simp [invalidateAtStart, hb, hf, invalidateTemper, State.temper_setTemper, h0, h1, h2, h3]
  · have hop : cmdOpcode c = 0x20 := hc.resolve_left hf
    simp [invalidateAtStart, hb, hf, hop, invalidateTemper, State.temper_setTemper, g0, g1]

/-- The state without the head of a queue. -/
def dequeued (s : State) (h e q : Nat) (rest : List Cmd) : State :=
  s.modHarbour h fun x => { x with queues := tabSet x.queues (queueKey e q) rest }

theorem startHead_eq (s : State) (h e q : Nat) (c : Cmd) (rest : List Cmd) : startHead s h e q c rest =
    dispatch ((invalidateAtStart (dequeued s h e q rest) h e c).modHarbour h fun x =>
      { x with running := x.running ++ [newRunning e q c s.clocks.cycle (cmdCheck s h e c)] }) h (ctxOf e q) (cmdOpcode c) (maskBit e) e q := by
  have hchk : cmdCheck (dequeued s h e q rest) h e c = cmdCheck s h e c := cmdCheck_modHarbour s h (by intro; rfl) h e c
  rw [← hchk]
  rfl

/-- The state in which the head of a queue runs. -/
theorem startHead_spec {s : State} {h e q : Nat} (c : Cmd) (rest : List Cmd) (hnone : (s.harbour h).runningAt e q = none) :
    let t := startHead s h e q c rest
    (t.harbour h).queue e q = rest ∧ (t.harbour h).runningAt e q = some (newRunning e q c s.clocks.cycle (cmdCheck s h e c)) ∧
      (tabGet Ctx.idle (t.harbour h).ctxs (ctxOf e q)).state = 1 ∧ (tabGet Ctx.idle (t.harbour h).ctxs (ctxOf e q)).opcode = cmdOpcode c := by
  obtain ⟨k, hst, hop, hk⟩ := dispatch_harbour ((invalidateAtStart (dequeued s h e q rest) h e c).modHarbour h fun x =>
      { x with running := x.running ++ [newRunning e q c s.clocks.cycle (cmdCheck s h e c)] }) h (ctxOf e q) (cmdOpcode c) (maskBit e) e q
  obtain ⟨t0, t1, hy⟩ := invalidateAtStart_harbour (dequeued s h e q rest) h e c
  dsimp only
  rw [startHead_eq, hk, State.harbour_modHarbour, hy, dequeued, State.harbour_modHarbour]
  refine ⟨tabGet_tabSet_same _ _ _ _, ?_, ?_, ?_⟩
  · have hn : ((s.harbour h).running.find? fun r => r.engine == e && r.queue == q) = none := hnone
    simp [Harbour.runningAt, List.find?_append, hn, newRunning]
  · exact (congrArg Ctx.state (tabGet_tabSet_same _ _ _ _)).trans hst
  · exact (congrArg Ctx.opcode (tabGet_tabSet_same _ _ _ _)).trans hop

theorem startHead_temper (s : State) (h e q : Nat) (c : Cmd) (rest : List Cmd) (i j : Nat) : (startHead s h e q c rest).temper i j =
    (invalidateAtStart (dequeued s h e q rest) h e c).temper i j := by
  rw [startHead_eq, dispatch_temper]
  exact State.modHarbour_temper _ _ _ (by intro; rfl) (by intro; rfl) _ _

theorem startsCommand_head {s : State} {h e q : Nat} {c : Cmd} {rest : List Cmd} (hnone : (s.harbour h).runningAt e q = none)
    (hqueue : (s.harbour h).queue e q = c :: rest) : startsCommand s h e q =
      if (mayStart s h e q && (e == 0 || lowestReady s h e q) && canStart (s.harbour h) e q c) = true then startHead s h e q c rest else s := by
  simp only [startsCommand, hnone, hqueue]
  cases mayStart s h e q && (e == 0 || lowestReady s h e q) <;> simp

/-- Settles O29: the conditions are those of mayStart, canStart and lowestReady; startHead then takes the head. -/
theorem commandsStartInTheirTurn : Obligations.CommandsStartInTheirTurn := by
  unfold Obligations.CommandsStartInTheirTurn
  intro s h e q c rest hq hnone hqueue
  have hexec : exec (.commandStart h e q) s = .next { startsCommand s h e q with pending := s.pending } := onUnit_present _ _ hq
  rw [startsCommand_head hnone hqueue] at hexec
  refine ⟨fun hflow hon hdrain hstand hhalt hwaits hfence hring hturn => ?_, fun hnot => ?_⟩
  · have hmay : mayStart s h e q = true := by simp [mayStart, hflow, hon, hdrain, hstand, hhalt]
    have hready : (e == 0 || lowestReady s h e q) = true := by
      by_cases he : e = 0
      · simp [he]
      · simp [lowestReady_of (hturn he).1 (hturn he).2]
    have hcan : canStart (s.harbour h) e q c = true := by
      have hf : fenceMet (s.harbour h) e q c = true := by cases hb : cmdFence c <;> simp [fenceMet, hb, hfence]
      have hr : ringMet (s.harbour h) c = true := by cases hb : cmdNotify c <;> simp [ringMet, hb, hring]
      simp [canStart, (waitsMet_iff s h c).2 hwaits, hf, hr]
    rw [hmay, hready, hcan, if_pos (by rfl)] at hexec
    obtain ⟨hrest, hrun, hst, hop⟩ := startHead_spec c rest hnone
    refine ⟨_, _, hexec, hrest, hrun, rfl, rfl, rfl, rfl, fun hchk => ?_, fun hno => ?_, hst, hop, fun he hc => ?_⟩
    · simp [newRunning, hchk]
    · simp [newRunning, cmdCheck_opcode hno]
    · have hinv := invalidateAtStart_temper (dequeued s h e q rest) (h := h) he hc
      rwa [← startHead_temper] at hinv
  · rw [hexec, if_neg]
    rcases hnot with hflow | hhalt | hwaits
    · simp [mayStart, hflow]
    · simp [mayStart, hhalt]
    · have hw : waitsMet (s.harbour h) c = false := Bool.eq_false_iff.2 fun hw => hwaits ((waitsMet_iff s h c).1 hw)
      simp [canStart, hw]

end Sys2Proof.Machine
end

section
/-! SUPPORT. What the decoupling queues do among themselves: requests handed to a stack, and evicted lines that enter DQ3 (R186). -/

namespace Sys2Proof.Machine

/-! ### A step of the decoupling queues -/

/-- Between two states only the decoupling queues of the harbours, their evicted lines and their stacks' turns have moved; every command
has what it had in the queues, where a request may have been taken. -/
structure DqsMoved (s t : State) : Prop where
  rest : t = { s with harbours := t.harbours }
  harbour : ∀ g, ∃ ds vs n, t.harbour g = { s.harbour g with dqs := ds, victims := vs, takeNext := n }
  outstanding : ∀ g e q, e ≠ noEngine → (t.harbour g).outstanding e q = (s.harbour g).outstanding e q
  kept : ∀ g d, ∀ i ∈ (s.harbour g).dq d, ∃ b, { i with taken := b } ∈ (t.harbour g).dq d

namespace DqsMoved

theorem refl (s : State) : DqsMoved s s := ⟨rfl, fun _ => ⟨_, _, _, rfl⟩, fun _ _ _ _ => rfl, fun _ _ i hi => ⟨i.taken, hi⟩⟩

theorem trans {s t u : State} (h : DqsMoved s t) (k : DqsMoved t u) : DqsMoved s u where
  rest := by rw [k.rest, h.rest]
  harbour g := by
    obtain ⟨ds, vs, n, hg⟩ := k.harbour g
    obtain ⟨ds', vs', n', hg'⟩ := h.harbour g
    exact ⟨ds, vs, n, by rw [hg, hg']⟩
  outstanding g e q he := (k.outstanding g e q he).trans (h.outstanding g e q he)
  kept g d i hi := by
    obtain ⟨b, hb⟩ := h.kept g d i hi
    obtain ⟨b', hb'⟩ := k.kept g d _ hb
    exact ⟨b', hb'⟩

theorem foldl {α : Type} {f : State → α → State} (hf : ∀ s x, DqsMoved s (f s x)) (l : List α) (s : State) : DqsMoved s (l.foldl f s) := by
  induction l generalizing s with
  | nil => exact refl s
  | cons x l ih => exact (hf s x).trans (ih _)

theorem temper {s t : State} (h : DqsMoved s t) (a b : Nat) : t.temper a b = s.temper a b := by
  obtain ⟨ds, vs, n, hg⟩ := h.harbour a
  simp [State.temper, hg]

theorem regs {s t : State} (h : DqsMoved s t) : t.regs = s.regs := by rw [h.rest]

theorem mem {s t : State} (h : DqsMoved s t) : t.mem = s.mem := by rw [h.rest]

theorem poison {s t : State} (h : DqsMoved s t) : t.poison = s.poison := by rw [h.rest]

theorem clocks {s t : State} (h : DqsMoved s t) : t.clocks = s.clocks := by rw [h.rest]

theorem reg {s t : State} (h : DqsMoved s t) (r : Reg) (n : Nat) : t.reg r n = s.reg r n := State.reg_of_regs h.regs r n

/-- A change of one decoupling queue that leaves other commands' items is such a step. -/
theorem dq (s : State) (h d : Nat) (f : List Item → List Item) (hout : ∀ l e q, e ≠ noEngine → (f l).any (·.isOf e q) = l.any (·.isOf e q))
    (hkept : ∀ l, ∀ i ∈ l, ∃ b, { i with taken := b } ∈ f l) :
    DqsMoved s (s.modHarbour h fun x => { x with dqs := tabMod [] x.dqs d f }) where
  rest := rfl
  harbour g := by
    by_cases hg : h = g
    · subst hg; exact ⟨_, _, _, State.harbour_modHarbour _ _ _⟩
    · exact ⟨_, _, _, State.harbour_modHarbour_other _ _ hg⟩
  outstanding g e q he := by
    by_cases hg : h = g
    · subst hg
      rw [State.harbour_modHarbour]
      exact tabSet_any (d := []) rfl (hout _ e q he)
    · rw [State.harbour_modHarbour_other _ _ hg]
  kept g k i hi := by
    by_cases hg : h = g
    · subst hg
      rw [State.harbour_modHarbour]
      simp only [Harbour.dq, tabMod, tabGet_tabSet] at hi ⊢
      split
      · next hk => subst hk; exact hkept _ i hi
      · exact ⟨i.taken, hi⟩
    · rw [State.harbour_modHarbour_other _ _ hg]
      exact ⟨i.taken, hi⟩

/-- A change of a harbour's evicted lines or its stack's turn is such a step. -/
theorem turns (s : State) (h : Nat) (vs : Harbour → List Nat) (n : Harbour → Nat) :
    DqsMoved s (s.modHarbour h fun x => { x with victims := vs x, takeNext := n x }) where
  rest := rfl
  harbour g := by
    by_cases hg : h = g
    · subst hg; exact ⟨_, _, _, State.harbour_modHarbour _ _ _⟩
    · exact ⟨_, _, _, State.harbour_modHarbour_other _ _ hg⟩
  outstanding g e q _ := by
    by_cases hg : h = g
    · subst hg; rw [State.harbour_modHarbour]; rfl
    · rw [State.harbour_modHarbour_other _ _ hg]
  kept g d i hi := by
    refine ⟨i.taken, ?_⟩
    by_cases hg : h = g
    · subst hg; rw [State.harbour_modHarbour]; exact hi
    · rw [State.harbour_modHarbour_other _ _ hg]; exact hi

end DqsMoved

/-! ### Requests -/

theorem listMod_taken_any (l : List Item) (n e q : Nat) :
    (listMod l n fun i => { i with taken := true }).any (·.isOf e q) = l.any (·.isOf e q) := by
  induction l generalizing n with
  | nil => simp [listMod]
  | cons i l ih =>
    cases n with
    | zero => simp [listMod, Item.isOf]
    | succ n => simpa [listMod] using congrArg (i.isOf e q || ·) (ih n)

theorem listMod_taken_mem (l : List Item) (n : Nat) (i : Item) (hi : i ∈ l) :
    ∃ b, { i with taken := b } ∈ listMod l n fun i => { i with taken := true } := by
  induction l generalizing n with
  | nil => simp at hi
  | cons j l ih =>
    cases n with
    | zero =>
      rcases List.mem_cons.1 hi with rfl | hi
      · exact ⟨true, by simp [listMod]⟩
      · exact ⟨i.taken, by simp [listMod, hi]⟩
    | succ n =>
      rcases List.mem_cons.1 hi with rfl | hi
      · exact ⟨i.taken, by simp [listMod]⟩
      · obtain ⟨b, hb⟩ := ih n hi
        exact ⟨b, by simpa [listMod] using .inr hb⟩

theorem takeOne_moved {s t : State} {g : Nat} (h : takeOne s g = some t) : DqsMoved s t := by
  unfold takeOne at h
  split at h
  · cases h
  · obtain ⟨m, -, hm⟩ := List.exists_of_findSome?_eq_some h
    obtain ⟨p, -, rfl⟩ := Option.map_eq_some_iff.1 hm
    exact (DqsMoved.dq _ _ _ _ (fun l e q _ => listMod_taken_any l p.2.2 e q) fun l => listMod_taken_mem l p.2.2).trans
      (DqsMoved.turns _ g Harbour.victims fun _ => (m + 1) % 5)

theorem takeAll_moved (g n : Nat) (s : State) : DqsMoved s (takeAll g n s) := by
  induction n generalizing s with
  | zero => exact .refl s
  | succ n ih =>
    simp only [takeAll]
    split
    · next t ht => exact (takeOne_moved ht).trans (ih t)
    · exact .refl s

theorem takeFor_moved (s : State) (i : Item) : DqsMoved s (takeFor s i) := by
  unfold takeFor
  split
  · split
    · exact takeAll_moved _ _ _
    · exact .refl s
  · exact .refl s

/-! ### Evicted lines -/

/-- An item that no command owns and that reads nothing only enters its queue. -/
theorem appendItem_moved (s : State) (h d : Nat) {i : Item} (he : i.engine = noEngine) (hread : i.reads = none) :
    DqsMoved s (appendItem s h d i) := by
  have hfill : i.fill = none := by simp [Item.fill, hread]
  have hstate : (launchItem s h i).1 = s := by
    simp only [launchItem, countFill, loseFill, hfill]
    split <;> rfl
  have heng : (launchItem s h i).2.engine = noEngine := he
  have hcap : (capture s ((s.harbour h).dq d) (launchItem s h i).2) = (launchItem s h i).2 := by
    have : (launchItem s h i).2.reads = none := hread
    simp [capture, this]
  rw [appendItem, hstate, hcap]
  refine (DqsMoved.dq s h d (· ++ [(launchItem s h i).2]) (fun l e q hq => ?_) fun l i hi => ⟨i.taken, ?_⟩).trans (takeFor_moved _ _)
  · simp [Item.isOf, heng, Ne.symm hq]
  · simp [hi]

theorem drainOne_moved (s : State) (h : Nat) : DqsMoved s (drainOne s h) := by
  unfold drainOne
  exact (DqsMoved.turns s h (fun x => x.victims.drop (512 - ((s.harbour h).dq 3).length)) Harbour.takeNext).trans
    (DqsMoved.foldl (fun s l => appendItem_moved s h 3 rfl rfl) _ _)

theorem drainVictims_moved (s : State) : DqsMoved s (drainVictims s) := DqsMoved.foldl drainOne_moved _ _

end Sys2Proof.Machine
end

section
/-! SUPPORT. COMMAND_COMPLETE (R181, R184, R185, R193, R215, R219, R250). -/

namespace Sys2Proof.Machine

/-! ### Records -/

/-- Registers of different subindices are different. -/
theorem Reg.key_ne_of_sub {r r' : Reg} (h : r.sub < 256) (h' : r'.sub < 256) (hne : r.sub ≠ r'.sub) (n m : Nat) : r.key n ≠ r'.key m := by
  unfold Reg.key
  omega

theorem extractLsb'_field {w : Nat} (x : BitVec w) (lo n : Nat) : (x.extractLsb' lo n).toNat = field x.toNat lo n :=
  BitVec.extractLsb'_toNat ..

/-- The fields of a completion record (Table 8.5). -/
theorem completionRecord_fields {op h e q tag : Nat} (status group detail : Nat) (hop : op < 2 ^ 8) (hh : h < 2 ^ 4) (he : e < 2 ^ 4)
    (hq : q < 2 ^ 2) (htag : tag < 2 ^ 16) :
    let x := completionRecord op h e q status tag group detail
    (x.extractLsb' 120 8).toNat = op ∧ (x.extractLsb' 116 4).toNat = h ∧ (x.extractLsb' 112 4).toNat = e ∧
      (x.extractLsb' 110 2).toNat = q ∧ (x.extractLsb' 96 8).toNat = status % 256 ∧ (x.extractLsb' 80 16).toNat = tag ∧
      (x.extractLsb' 32 48).toNat = group % 2 ^ 48 ∧ (x.extractLsb' 0 32).toNat = detail % 2 ^ 32 := by
  dsimp only
  simp only [extractLsb'_field, completionRecord]
  refine ⟨?_, ?_, ?_, ?_, ?_, ?_, ?_, ?_⟩
  · rw [show 120 = 32 + (48 + (16 + (8 + (6 + (2 + (4 + (4 + 0))))))) from rfl, field_append_high, field_append_high, field_append_high,
      field_append_high, field_append_high, field_append_high, field_append_high, field_append_high,
      field_eq, Nat.pow_zero, Nat.div_one, BitVec.toNat_ofNat, Nat.mod_mod, Nat.mod_eq_of_lt hop]
  · rw [show 116 = 32 + (48 + (16 + (8 + (6 + (2 + (4 + 0)))))) from rfl, field_append_high, field_append_high, field_append_high,
      field_append_high, field_append_high, field_append_high, field_append_high, field_append_low, BitVec.toNat_ofNat, Nat.mod_eq_of_lt hh]
  · rw [show 112 = 32 + (48 + (16 + (8 + (6 + (2 + 0))))) from rfl, field_append_high, field_append_high, field_append_high,
      field_append_high, field_append_high, field_append_high, field_append_low, BitVec.toNat_ofNat, Nat.mod_eq_of_lt he]
  · rw [show 110 = 32 + (48 + (16 + (8 + (6 + 0)))) from rfl, field_append_high, field_append_high, field_append_high,
      field_append_high, field_append_high, field_append_low, BitVec.toNat_ofNat, Nat.mod_eq_of_lt hq]
  · rw [show 96 = 32 + (48 + (16 + 0)) from rfl, field_append_high, field_append_high, field_append_high, field_append_low,
      BitVec.toNat_ofNat]
  · rw [show 80 = 32 + (48 + 0) from rfl, field_append_high, field_append_high, field_append_low, BitVec.toNat_ofNat, Nat.mod_eq_of_lt htag]
  · exact (field_append_high _ _ 0 48).trans (by rw [field_append_low, BitVec.toNat_ofNat])
  · rw [field_append_low, BitVec.toNat_ofNat]

/-! ### One command retires -/

/-- The record that a retire writes (R185). -/
def retireRecord (s : State) (h : Nat) (r : Running) (c : Cmd) (status detail : Nat) : BitVec 128 :=
  completionRecord (cmdOpcode c) h r.engine r.queue status (cmdTag c) (s.reg Reg.engGroupCycles h) detail

/-- The token counters after a retire. -/
def retiredTokens (x : Harbour) (c : Cmd) : List (Nat × BitVec 16) :=
  if (cmdDoneEn c && !cmdPerItem c) = true then tabMod 0#16 x.tokens (cmdDone c) fun v => v + BitVec.ofNat 16 1 else x.tokens

/-- The completion ring with one record more, while there is room. -/
def ringWith (l : List (BitVec 128)) (r : BitVec 128) : List (BitVec 128) := if l.length < 1024 then l ++ [r] else l

/-- The completion ring after a retire. -/
def retiredRing (s : State) (h : Nat) (r : Running) (c : Cmd) (status detail : Nat) : List (BitVec 128) :=
  if (cmdNotify c || status != 0) = true then ringWith (s.harbour h).completions (retireRecord s h r c status detail)
  else (s.harbour h).completions

@[simp] theorem haltQueue_harbour (s : State) (h e q g : Nat) : (haltQueue s h e q).harbour g = s.harbour g := rfl

theorem Harbour.complete_eq (x : Harbour) (r : BitVec 128) : x.complete r = { x with completions := ringWith x.completions r } := by
  unfold Harbour.complete ringWith
  split <;> rfl

theorem retireOne_harbour (s : State) (h : Nat) (r : Running) (c : Cmd) (status detail : Nat) : (retireOne s h r c status detail).harbour h =
    { s.harbour h with tokens := retiredTokens (s.harbour h) c, completions := retiredRing s h r c status detail } := by
  have htok : ((if (cmdDoneEn c && !cmdPerItem c) = true then advanceToken s h (cmdDone c) 1 else s).harbour h) =
      { s.harbour h with tokens := retiredTokens (s.harbour h) c } := by
    unfold retiredTokens
    split
    · exact State.harbour_modHarbour _ _ _
    · rfl
  have hgroup : (if (cmdDoneEn c && !cmdPerItem c) = true then advanceToken s h (cmdDone c) 1 else s).reg Reg.engGroupCycles h
      = s.reg Reg.engGroupCycles h := by split <;> rfl
  unfold retireOne retiredRing retireRecord
  dsimp only
  rw [hgroup]
  split
  · rw [haltQueue_harbour, State.harbour_count]
    split
    · rw [State.harbour_modHarbour, htok, Harbour.complete_eq]
    · exact htok
  · rw [State.harbour_count]
    split
    · rw [State.harbour_modHarbour, htok, Harbour.complete_eq]
    · exact htok

/-- The state in which a retire counts its command: token and record are written. -/
theorem retireOne_commands (s : State) (h : Nat) (r : Running) (c : Cmd) (status detail : Nat) :
    (retireOne s h r c status detail).reg Reg.engCommands (8 * h + r.engine) = (s.reg Reg.engCommands (8 * h + r.engine) + 1) % 2 ^ 64 := by
  have hkey : Reg.engHalted.key (8 * h + r.engine) ≠ Reg.engCommands.key (8 * h + r.engine) :=
    Reg.key_ne_of_sub (by decide) (by decide) (by decide) _ _
  unfold retireOne
  dsimp only
  have hcount : ∀ u : State, u.reg Reg.engCommands (8 * h + r.engine) = s.reg Reg.engCommands (8 * h + r.engine) →
      (u.count Reg.engCommands (8 * h + r.engine) 64).reg Reg.engCommands (8 * h + r.engine)
        = (s.reg Reg.engCommands (8 * h + r.engine) + 1) % 2 ^ 64 := fun u hu => by rw [State.reg_count_same, hu]
  split
  · rw [haltQueue, State.reg_setReg_other _ _ hkey]
    refine hcount _ ?_
    split <;> split <;> rfl
  · refine hcount _ ?_
    split <;> split <;> rfl

/-- ERRSTOP halts the queue of a command that did not end with OK. -/
theorem retireOne_halts (s : State) (h : Nat) {r : Running} {c : Cmd} {status : Nat} (detail : Nat) (hst : status ≠ 0)
    (hstop : cmdErrStop c = true) : queueHalted (retireOne s h r c status detail) h r.engine r.queue = true := by
  have hcond : (status != 0 && cmdErrStop c) = true := by simp [hst, hstop]
  simp only [retireOne, hcond, if_true, queueHalted_haltQueue]

/-! ### A queue's command retires -/

/-- The state once a command's own retire is over, the command still in its place. -/
def ownRetire (s : State) (h e q : Nat) (r : Running) : State :=
  idleCtx (retireOne (freeScratch (dropKernel s h e) h e q) h r r.cmd r.status r.detail) h (ctxOf e q)

/-- What a retire frees of the harbour: the temper's kernel and the pair's scratch range. -/
theorem freeScratch_dropKernel_harbour (s : State) (h e q : Nat) : ∃ x y z, (freeScratch (dropKernel s h e) h e q).harbour h =
    { s.harbour h with temper0 := x, temper1 := y, scratch := z } := by
  have hdrop : ∃ x y, (dropKernel s h e).harbour h = { s.harbour h with temper0 := x, temper1 := y } := by
    unfold dropKernel
    split
    · exact setTemper_harbour _ _ _ _
    · exact ⟨_, _, rfl⟩
  obtain ⟨x, y, hxy⟩ := hdrop
  unfold freeScratch
  split
  · rw [State.harbour_modHarbour, hxy]; exact ⟨_, _, _, rfl⟩
  · rw [hxy]; exact ⟨_, _, _, rfl⟩

theorem freeScratch_dropKernel_regs (s : State) (h e q : Nat) : (freeScratch (dropKernel s h e) h e q).regs = s.regs := by
  unfold freeScratch dropKernel
  split <;> split <;> rfl

theorem freeScratch_dropKernel_kernel (s : State) {h e : Nat} (q : Nat) (he : e = 1 ∨ e = 2) :
    ((freeScratch (dropKernel s h e) h e q).temper h (e - 1)).kernel = none := by
  have hne : e ≠ 4 := by omega
  rw [freeScratch, if_neg hne, dropKernel, if_pos he, State.temper_setTemper]

theorem ownRetire_harbour (s : State) (h e q : Nat) (r : Running) : ∃ x y z cs, (ownRetire s h e q r).harbour h =
    { s.harbour h with temper0 := x, temper1 := y, scratch := z, ctxs := tabSet cs (ctxOf e q) Ctx.idle,
                       tokens := retiredTokens (s.harbour h) r.cmd, completions := retiredRing s h r r.cmd r.status r.detail } := by
  obtain ⟨x, y, z, hfree⟩ := freeScratch_dropKernel_harbour s h e q
  refine ⟨x, y, z, (s.harbour h).ctxs, ?_⟩
  have hring : retiredRing (freeScratch (dropKernel s h e) h e q) h r r.cmd r.status r.detail = retiredRing s h r r.cmd r.status r.detail := by
    unfold retiredRing retireRecord
    rw [hfree, State.reg_of_regs (freeScratch_dropKernel_regs s h e q)]
  rw [ownRetire, idleCtx, State.harbour_count, State.harbour_modHarbour, retireOne_harbour, hring, hfree]
  rfl

theorem ownRetire_kernel (s : State) {h e : Nat} (q : Nat) (r : Running) (he : e = 1 ∨ e = 2) :
    ((ownRetire s h e q r).temper h (e - 1)).kernel = none := by
  rw [← freeScratch_dropKernel_kernel s (h := h) q he]
  simp only [State.temper, ownRetire, idleCtx, State.harbour_count, State.harbour_modHarbour, retireOne_harbour]

theorem ownRetire_commands (s : State) (h q : Nat) {e : Nat} {r : Running} (he : r.engine = e) :
    (ownRetire s h e q r).reg Reg.engCommands (8 * h + e) = (s.reg Reg.engCommands (8 * h + e) + 1) % 2 ^ 64 := by
  have hkey : Reg.seqRoutines.key h ≠ Reg.engCommands.key (8 * h + e) := Reg.key_ne_of_sub (by decide) (by decide) (by decide) _ _
  rw [ownRetire, idleCtx, State.reg_count_other _ _ _ hkey]
  subst he
  exact (retireOne_commands _ h r r.cmd r.status r.detail).trans
    (by rw [State.reg_of_regs (freeScratch_dropKernel_regs s h r.engine q)])

theorem ownRetire_halts (s : State) (h : Nat) {e q : Nat} {r : Running} (he : r.engine = e) (hq : r.queue = q) (hst : r.status ≠ 0)
    (hstop : cmdErrStop r.cmd = true) : queueHalted (ownRetire s h e q r) h e q = true := by
  have hkey : Reg.seqRoutines.key h ≠ Reg.engHalted.key (8 * h + e) := Reg.key_ne_of_sub (by decide) (by decide) (by decide) _ _
  rw [queueHalted, ownRetire, idleCtx, State.reg_count_other _ _ _ hkey]
  subst he hq
  exact retireOne_halts _ _ _ hst hstop

/-- A command that is not the last of a list leaves its place, or leaves its LIST in it; only the running commands move. -/
theorem retire_eq (s : State) (h e q : Nat) {r : Running} (hlast : r.listCmd = none ∨ r.listLeft ≠ []) : ∃ rs,
    (retire s h e q r).harbour h = { (ownRetire s h e q r).harbour h with running := rs } ∧
    (retire s h e q r).regs = (ownRetire s h e q r).regs := by
  unfold retire
  dsimp only
  split
  · exact ⟨_, modRunning_harbour _ _ _ _ _, rfl⟩
  · next hnone => simp_all
  · exact ⟨_, State.harbour_modHarbour _ _ _, rfl⟩

theorem runningAt_dropRunning (s : State) (h e q : Nat) : ((dropRunning s h e q).harbour h).runningAt e q = none := by
  rw [dropRunning, State.harbour_modHarbour]
  refine List.find?_eq_none.2 fun r hr => ?_
  have hkept := (List.mem_filter.1 hr).2
  cases hb : r.engine == e && r.queue == q <;> simp_all

/-- The LIST behind the last of its commands retires with it. -/
theorem retire_last (s : State) (h : Nat) {e q : Nat} {r : Running} {l : Cmd} (he : r.engine = e) (hlist : r.listCmd = some l)
    (hleft : r.listLeft = []) : ((retire s h e q r).harbour h).runningAt e q = none ∧
      (retire s h e q r).reg Reg.engCommands (8 * h + e) = (s.reg Reg.engCommands (8 * h + e) + 2) % 2 ^ 64 := by
  have heq : retire s h e q r = (retireOne (dropRunning (ownRetire s h e q r) h e q) h r l 0 0).count Reg.seqRoutines h 64 := by
    simp only [retire, hlist, hleft]
    rfl
  have hkey : Reg.seqRoutines.key h ≠ Reg.engCommands.key (8 * h + e) := Reg.key_ne_of_sub (by decide) (by decide) (by decide) _ _
  have hown := ownRetire_commands s h q he
  have hlistOne := retireOne_commands (dropRunning (ownRetire s h e q r) h e q) h r l 0 0
  subst he
  rw [heq, State.harbour_count, retireOne_harbour, State.reg_count_other _ _ _ hkey, hlistOne]
  refine ⟨?_, ?_⟩
  · exact runningAt_dropRunning _ _ _ _
  · rw [show (dropRunning (ownRetire s h r.engine q r) h r.engine q).reg Reg.engCommands (8 * h + r.engine)
        = (ownRetire s h r.engine q r).reg Reg.engCommands (8 * h + r.engine) from rfl, hown]
    omega

theorem runningAt_retire_alone (s : State) (h e q : Nat) {r : Running} (hlist : r.listCmd = none) :
    ((retire s h e q r).harbour h).runningAt e q = none := by
  simp only [retire, hlist]
  exact runningAt_dropRunning _ _ _ _

/-- A LIST with commands left stands in its place, between two of them. -/
theorem runningAt_retire_listed (s : State) (h : Nat) {e q : Nat} {r r0 : Running} {l : Cmd} (hlist : r.listCmd = some l)
    (hleft : r.listLeft ≠ []) (hrun : (s.harbour h).runningAt e q = some r0) : ((retire s h e q r).harbour h).runningAt e q =
      some { r0 with cmd := l, finished := false, status := 0, detail := 0, poison := false, lines := [] } := by
  obtain ⟨c, rest, hcons⟩ := List.exists_cons_of_ne_nil hleft
  have heq : retire s h e q r = modRunning (ownRetire s h e q r) h e q fun x =>
      { x with cmd := l, finished := false, status := 0, detail := 0, poison := false, lines := [] } := by
    simp only [retire, hlist, hcons]
    rfl
  obtain ⟨x, y, z, cs, hown⟩ := ownRetire_harbour s h e q r
  rw [heq, runningAt_modRunning, hown]
  · exact congrArg (Option.map _) hrun
  · exact fun _ => ⟨rfl, rfl⟩

/-! ### Completion -/

/-- The end of a kernel gives its LAUNCH an end and a status, and nothing else. -/
theorem withKernel_keeps (s : State) (h : Nat) (r : Running) : ∃ b x y, withKernel s h r = { r with finished := b, status := x, detail := y } := by
  unfold withKernel
  split
  · split
    · split
      · exact ⟨_, _, _, rfl⟩
      · exact ⟨_, _, _, rfl⟩
    · exact ⟨_, _, _, rfl⟩
  · exact ⟨_, _, _, rfl⟩

theorem DqsMoved.withKernel {s t : State} (hm : DqsMoved s t) (h : Nat) (r : Running) :
    Machine.withKernel t h r = Machine.withKernel s h r := by
  unfold Machine.withKernel
  rw [hm.temper]

theorem DqsMoved.dirtyLines {s t : State} (hm : DqsMoved s t) (h u : Nat) : Machine.dirtyLines t h u = Machine.dirtyLines s h u := by
  rw [Machine.dirtyLines, Machine.dirtyLines, hm.temper]

theorem settleTemper_moved {s : State} {h e : Nat} (hclean : e = 1 ∨ e = 2 → dirtyLines s h (e - 1) = []) :
    DqsMoved s (settleTemper s h e) := by
  unfold settleTemper
  split
  · next he => rw [hclean he]; exact drainVictims_moved s
  · exact .refl s

/-- A command whose work is done, with nothing in the queues and no dirty line, retires once the evicted lines have moved on. -/
theorem completes_retires {s : State} {h e q : Nat} {r0 : Running} (hrun : (s.harbour h).runningAt e q = some r0) (he : e ≠ noEngine)
    (htemper : e = 1 ∨ e = 2 → reductionsLeft s h (e - 1) = false ∧ dirtyLines s h (e - 1) = [])
    (hout : (s.harbour h).outstanding e q = false) (hfin : (withKernel s h r0).finished = true) :
    ∃ u, DqsMoved s u ∧ completes s h e q = retire u h e q (withKernel s h r0) := by
  have hmoved : DqsMoved s (settleTemper s h e) := settleTemper_moved fun hb => (htemper hb).2
  obtain ⟨hre, hrq⟩ := runningAt_place hrun
  obtain ⟨b, x, y, hkeep⟩ := withKernel_keeps s h r0
  have hdone : workDone s h (withKernel s h r0) = true := by
    have hred : (e != 1 && e != 2 || !reductionsLeft s h (e - 1)) = true := by
      by_cases hb : e = 1 ∨ e = 2
      · simp [(htemper hb).1]
      · simp_all
    have hbetween : betweenListed (withKernel s h r0) = false := by simp [betweenListed, hfin]
    have heng : (withKernel s h r0).engine = e ∧ (withKernel s h r0).queue = q := by rw [hkeep]; exact ⟨hre, hrq⟩
    simp only [workDone, hfin, hbetween, heng, hout, hred]
    rfl
  have hrest : (((settleTemper s h e).harbour h).outstanding e q
      || ((e == 1 || e == 2) && !(dirtyLines (settleTemper s h e) h (e - 1)).isEmpty)) = false := by
    rw [hmoved.outstanding h e q he, hmoved.dirtyLines, hout]
    by_cases hb : e = 1 ∨ e = 2
    · simp [(htemper hb).2]
    · simp_all
  refine ⟨settleTemper s h e, hmoved, ?_⟩
  simp only [completes, hrun, hdone, if_true, hrest, hmoved.withKernel]
  rfl

/-- What a queue's harbour holds after a command that is not the last of a list has retired. -/
theorem retired_harbour {s u : State} (hm : DqsMoved s u) (h e q : Nat) {r : Running} (hlast : r.listCmd = none ∨ r.listLeft ≠ []) :
    let t := retire u h e q r
    (t.harbour h).tokens = retiredTokens (s.harbour h) r.cmd ∧
      (t.harbour h).completions = retiredRing s h r r.cmd r.status r.detail ∧
      tabGet Ctx.idle (t.harbour h).ctxs (ctxOf e q) = Ctx.idle := by
  obtain ⟨rs, hret, -⟩ := retire_eq u h e q hlast
  obtain ⟨x, y, z, cs, hown⟩ := ownRetire_harbour u h e q r
  obtain ⟨ds, vs, n, hu⟩ := hm.harbour h
  dsimp only
  rw [hret, hown]
  refine ⟨?_, ?_, tabGet_tabSet_same _ _ _ _⟩
  · rw [hu]; rfl
  · unfold retiredRing retireRecord
    rw [hu, hm.reg]

theorem retire_kernel (u : State) {h e : Nat} (q : Nat) {r : Running} (hlast : r.listCmd = none ∨ r.listLeft ≠ []) (he : e = 1 ∨ e = 2) :
    ((retire u h e q r).temper h (e - 1)).kernel = none := by
  obtain ⟨rs, hret, -⟩ := retire_eq u h e q hlast
  rw [← ownRetire_kernel u (h := h) q r he]
  simp only [State.temper, hret]

theorem tabGet_retiredTokens (x : Harbour) (c : Cmd) : tabGet 0#16 (retiredTokens x c) (cmdDone c) =
    if (cmdDoneEn c && !cmdPerItem c) = true then tabGet 0#16 x.tokens (cmdDone c) + 1#16 else tabGet 0#16 x.tokens (cmdDone c) := by
  unfold retiredTokens
  split
  · exact tabGet_tabSet_same _ _ _ _
  · rfl

/-- Settles O30: completes_retires leads to the retire, and the rules of retire and ownRetire give each clause. -/
theorem commandsCompleteForTheirTokens : Obligations.CommandsCompleteForTheirTokens := by
  unfold Obligations.CommandsCompleteForTheirTokens
  intro s h e q r0 hq hrun htemper hout
  dsimp only
  intro hfin
  have hbounds : s.hasHarbour h = true ∧ e < 5 ∧ q < 4 := by simpa [State.hasQueue, and_assoc] using hq
  obtain ⟨hh, he, hq4⟩ := hbounds
  obtain ⟨u, hmoved, hcomp⟩ := completes_retires hrun (by unfold noEngine; omega) htemper hout hfin
  have hexec : exec (.commandComplete h e q) s = .next { completes s h e q with pending := s.pending } := onUnit_present _ _ hq
  rw [hcomp] at hexec
  obtain ⟨b, x, y, hkeep⟩ := withKernel_keeps s h r0
  obtain ⟨hre, hrq⟩ := runningAt_place hrun
  have hreg : ∀ r n, u.reg r n = s.reg r n := hmoved.reg
  have hurun : (u.harbour h).runningAt e q = some r0 := by
    obtain ⟨ds, vs, n, hu⟩ := hmoved.harbour h
    rw [hu]; exact hrun
  generalize hr : withKernel s h r0 = r at *
  have heng : r.engine = e := by rw [hkeep]; exact hre
  have hque : r.queue = q := by rw [hkeep]; exact hrq
  have hlistCmd : r.listCmd = r0.listCmd := by rw [hkeep]
  have hlistLeft : r.listLeft = r0.listLeft := by rw [hkeep]
  refine ⟨fun hlast => ⟨_, hexec, ?_⟩, fun hlist hleft => ?_⟩
  · have hlast' : r.listCmd = none ∨ r.listLeft ≠ [] := by rwa [hlistCmd, hlistLeft]
    obtain ⟨htok, hring, hctx⟩ := retired_harbour hmoved h e q hlast'
    obtain ⟨rs, -, hregs⟩ := retire_eq u h e q hlast'
    refine ⟨fun hd hp => ?_, fun hd => ?_, fun hn hroom => ?_, fun hn hst => ?_, fun hst hstop => ?_, ?_, hctx, fun hb => ?_, fun hn => ?_,
      fun l hl => ?_⟩
    · exact (congrArg (tabGet 0#16 · _) htok).trans ((tabGet_retiredTokens _ _).trans (if_pos (by simp [hd, hp])))
    · exact (congrArg (tabGet 0#16 · _) htok).trans ((tabGet_retiredTokens _ _).trans (if_neg (by rcases hd with hd | hd <;> simp [hd])))
    · refine ⟨retireRecord s h r r.cmd r.status r.detail, hring.trans ?_, ?_⟩
      · rw [retiredRing, if_pos (by simpa using hn), ringWith, if_pos hroom]
      · have hfields := completionRecord_fields (op := cmdOpcode r.cmd) (h := h) (e := e) (q := q) (tag := cmdTag r.cmd) r.status
          (s.reg Reg.engGroupCycles h) r.detail (Nat.mod_lt _ (by decide)) (hasHarbour_lt hh) (by omega) hq4 (Nat.mod_lt _ (by decide))
        rw [retireRecord, heng, hque]
        exact hfields
    · exact hring.trans (if_neg (by simp [hn, hst]))
    · have hhalt := ownRetire_halts u h heng hque hst hstop
      rw [queueHalted, State.reg_of_regs (t := ownRetire u h e q r)]
      · exact hhalt
      · exact hregs
    · rw [State.reg_of_regs (t := ownRetire u h e q r), ownRetire_commands u h q heng, hreg]
      exact hregs
    · exact retire_kernel u q hlast' hb
    · exact runningAt_retire_alone u h e q (hlistCmd.trans hn)
    · have hleft : r.listLeft ≠ [] := hlast'.resolve_left (by rw [hlistCmd, hl]; simp)
      exact ⟨_, runningAt_retire_listed u h (hlistCmd.trans hl) hleft hurun, rfl, rfl, rfl⟩
  · obtain ⟨l, hl⟩ := Option.ne_none_iff_exists'.1 hlist
    obtain ⟨hnone, hcount⟩ := retire_last (q := q) u h heng (hlistCmd.trans hl) (hlistLeft.trans hleft)
    exact ⟨_, hexec, hnone, hcount.trans (by rw [hreg])⟩

end Sys2Proof.Machine
end

section
/-! SUPPORT. What decides how an access goes, and how an item enters its queue (R176, R186, R187, R189, R190, R205, R216). -/

namespace Sys2Proof.Machine

/-! ### Time -/

/-- Time moves no register but the cycles that the groups count. -/
theorem State.runTo_reg_of_sub (s : State) (c : Nat) {r : Reg} (hs : r.sub < 256) (h4 : r.sub ≠ 4) (h5 : r.sub ≠ 5) (n : Nat) :
    (s.runTo c).reg r n = s.reg r n := by
  have hgroup : Reg.engGroupCycles.sub = 4 ∧ Reg.engStallCycles.sub = 5 := ⟨rfl, rfl⟩
  have htick : ∀ (t : State) (h : Nat), (groupTick (c - s.clocks.cycle) t h).reg r n = t.reg r n := by
    intro t h
    unfold groupTick
    dsimp only
    rw [State.reg_count_other, State.reg_count_other]
    · exact Reg.key_ne_of_sub (by decide) hs (Ne.symm h4) _ _
    · exact Reg.key_ne_of_sub (by decide) hs (Ne.symm h5) _ _
  unfold State.runTo State.advance
  dsimp only
  split
  · rfl
  · exact foldl_keep (fun t => t.reg r n) (groupTick (c - s.clocks.cycle)) htick _ _

/-- Time moves the registers and the clocks alone. -/
theorem State.runTo_rest (s : State) (c : Nat) : s.runTo c = { s with regs := (s.runTo c).regs, clocks := (s.runTo c).clocks } := by
  obtain ⟨regs, clocks, h⟩ := s.runTo_eq c
  rw [h]

@[simp] theorem State.runTo_harbour (s : State) (c h : Nat) : (s.runTo c).harbour h = s.harbour h := by
  rw [State.runTo_rest]
  rfl

/-! ### Accesses -/

/-- The registers that decide how an access goes. -/
def accessRegs : List Reg := [Reg.detStrict, Reg.engQueueMode, Reg.engDqDueLocal, Reg.engDqDueRemote, Reg.cacheHoldDirectMib, Reg.hbmState, Reg.arraySplit]

/-- Between two states nothing has moved that decides whether an access may go, and how. -/
structure AccessKept (s t : State) : Prop where
  carrier : t.carrier = s.carrier
  reg : ∀ r ∈ accessRegs, ∀ n, t.reg r n = s.reg r n
  hold : ∀ g, (t.harbour g).hold = (s.harbour g).hold
  scratch : ∀ own a n, scratchHeld t own a n = scratchHeld s own a n

namespace AccessKept

theorem refl (s : State) : AccessKept s s := ⟨rfl, fun _ _ _ => rfl, fun _ => rfl, fun _ _ _ => rfl⟩

theorem trans {s t u : State} (h : AccessKept s t) (k : AccessKept t u) : AccessKept s u :=
  ⟨k.carrier.trans h.carrier, fun r hr n => (k.reg r hr n).trans (h.reg r hr n), fun g => (k.hold g).trans (h.hold g),
    fun own a n => (k.scratch own a n).trans (h.scratch own a n)⟩

theorem runTo (s : State) (c : Nat) : AccessKept s (s.runTo c) where
  carrier := by rw [State.runTo_rest]
  reg r hr n := by
    have hsubs : ∀ r ∈ accessRegs, r.sub < 256 ∧ r.sub ≠ 4 ∧ r.sub ≠ 5 := by decide
    obtain ⟨h256, h4, h5⟩ := hsubs r hr
    exact State.runTo_reg_of_sub s c h256 h4 h5 n
  hold g := by rw [State.runTo_harbour]
  scratch own a n := by rw [State.runTo_rest]; rfl

theorem modHarbour (s : State) (h : Nat) (f : Harbour → Harbour) (hh : ∀ x, (f x).hold = x.hold) (hs : ∀ x, (f x).scratch = x.scratch) :
    AccessKept s (s.modHarbour h f) where
  carrier := rfl
  reg _ _ _ := rfl
  hold g := by
    by_cases hg : h = g
    · subst hg; rw [State.harbour_modHarbour, hh]
    · rw [State.harbour_modHarbour_other _ _ hg]
  scratch := scratchHeld_modHarbour s h hs

theorem modRunning (s : State) (h e q : Nat) (g : Running → Running) : AccessKept s (Machine.modRunning s h e q g) := by
  let f : Harbour → Harbour := fun x => { x with running := x.running.map fun r => if r.engine = e ∧ r.queue = q then g r else r }
  exact modHarbour s h f (fun _ => rfl) fun _ => rfl

theorem commitCmd (s : State) (h e q : Nat) : AccessKept s (Machine.commitCmd s h e q) := by
  unfold Machine.commitCmd
  exact (modRunning s h e q fun r => { r with posted := true }).trans (modHarbour _ h (fun x => { x with ctxs := x.ctxs.map _ })
    (fun _ => rfl) fun _ => rfl)

section
variable {s t : State} (k : AccessKept s t)
include k

theorem lockstep (h : Nat) : t.lockstep h = s.lockstep h := by
  simp [State.lockstep, State.strict, State.flag, k.reg Reg.detStrict (by decide), k.reg Reg.engQueueMode (by decide)]

theorem spaceOk (a n : Nat) : Machine.spaceOk t a n = Machine.spaceOk s a n := by
  simp only [Machine.spaceOk, State.hasHarbour, scratchBytes, k.carrier, k.reg Reg.cacheHoldDirectMib (by decide), k.reg Reg.arraySplit (by decide)] <;> rfl

theorem rangeOk (a n : Nat) : Machine.rangeOk t a n = Machine.rangeOk s a n := by
  rw [Machine.rangeOk, k.spaceOk, k.scratch, Machine.rangeOk]

theorem rangeFor (h e q a n : Nat) : Machine.rangeFor t h e q a n = Machine.rangeFor s h e q a n := by
  rw [Machine.rangeFor, k.spaceOk, k.scratch, Machine.rangeFor]

theorem stackReady (h : Nat) : Machine.stackReady t h = Machine.stackReady s h := by
  rw [Machine.stackReady, k.reg Reg.hbmState (by decide), Machine.stackReady]

theorem holdHas (h line : Nat) : Machine.holdHas t h line = Machine.holdHas s h line := by
  rw [Machine.holdHas, k.hold, Machine.holdHas]

theorem addressesLost (i : Item) : Machine.addressesLost t i = Machine.addressesLost s i := by
  simp only [Machine.addressesLost, k.stackReady, k.holdHas]

theorem needsStack (i : Item) : Machine.needsStack t i = Machine.needsStack s i := by
  unfold Machine.needsStack
  split
  · rfl
  · rw [k.hold]
  · simp only [missesHold, k.holdHas]

theorem arrivesAtOnce (h : Nat) (i : Item) : Machine.arrivesAtOnce t h i = Machine.arrivesAtOnce s h i := by
  rw [Machine.arrivesAtOnce, k.needsStack, Machine.arrivesAtOnce]

end

end AccessKept

/-! ### What an access does to holds -/

/-- The registers in which holds count. -/
def holdCounters : List Reg := [Reg.cacheHoldHits, Reg.cacheHoldMisses, Reg.cacheHoldDupMisses, Reg.cacheHoldWritebacks]

/-- Between two states only the holds have moved, with their evicted and bad lines, their counters and marks of poison. -/
structure HoldsMoved (s t : State) : Prop where
  rest : t = { s with harbours := t.harbours, regs := t.regs, poison := t.poison }
  harbour : ∀ g, ∃ l vs bad, t.harbour g = { s.harbour g with hold := l, victims := vs, badLines := bad }
  reg : ∀ r n, (∀ c ∈ holdCounters, ∀ m, c.key m ≠ r.key n) → t.reg r n = s.reg r n

namespace HoldsMoved

theorem refl (s : State) : HoldsMoved s s := ⟨rfl, fun _ => ⟨_, _, _, rfl⟩, fun _ _ _ => rfl⟩

theorem trans {s t u : State} (h : HoldsMoved s t) (k : HoldsMoved t u) : HoldsMoved s u where
  rest := by rw [k.rest, h.rest]
  harbour g := by
    obtain ⟨l, vs, bad, hg⟩ := k.harbour g
    obtain ⟨l', vs', bad', hg'⟩ := h.harbour g
    exact ⟨l, vs, bad, by rw [hg, hg']⟩
  reg r n hr := (k.reg r n hr).trans (h.reg r n hr)

theorem clocks {s t : State} (h : HoldsMoved s t) : t.clocks = s.clocks := by rw [h.rest]

theorem mem {s t : State} (h : HoldsMoved s t) : t.mem = s.mem := by rw [h.rest]

theorem count (s : State) {c : Reg} (hc : c ∈ holdCounters) (n b k : Nat) : HoldsMoved s (s.count c n b k) :=
  ⟨rfl, fun _ => ⟨_, _, _, rfl⟩, fun _ _ hr => State.reg_count_other _ _ _ (hr c hc n)⟩

theorem setPoison (s : State) (l : Nat) (p : Bool) : HoldsMoved s (s.setPoison l p) := ⟨rfl, fun _ => ⟨_, _, _, rfl⟩, fun _ _ _ => rfl⟩

theorem setHarbour (s : State) (h : Nat) (l : List (Nat × Bool)) (vs bad : List Nat) :
    HoldsMoved s (s.setHarbour h { s.harbour h with hold := l, victims := vs, badLines := bad }) where
  rest := rfl
  harbour g := by
    by_cases hg : h = g
    · subst hg; exact ⟨_, _, _, State.harbour_setHarbour _ _ _⟩
    · exact ⟨_, _, _, State.harbour_setHarbour_other _ _ hg⟩
  reg _ _ _ := rfl

theorem holdTouch (s : State) (h line : Nat) (w : Bool) : HoldsMoved s (Machine.holdTouch s h line w) := by
  unfold Machine.holdTouch State.modHarbour
  dsimp only
  split
  · exact setHarbour s h _ (s.harbour h).victims (s.harbour h).badLines
  · exact setHarbour s h (s.harbour h).hold (s.harbour h).victims (s.harbour h).badLines

theorem holdLeaves (s : State) (h : Nat) (v : Nat × Bool) : HoldsMoved s (Machine.holdLeaves s h v) := by
  unfold Machine.holdLeaves
  dsimp only
  split
  · exact (setHarbour s h (s.harbour h).hold _ _).trans (count _ (by decide) _ _ _)
  · split
    · exact (setHarbour s h (s.harbour h).hold (s.harbour h).victims _).trans (setPoison _ _ _)
    · exact refl s

theorem holdInstall (s : State) (h line : Nat) (d : Bool) : HoldsMoved s (Machine.holdInstall s h line d) := by
  unfold Machine.holdInstall
  dsimp only
  split
  · exact setHarbour s h _ (s.harbour h).victims (s.harbour h).badLines
  · exact (setHarbour s h _ (s.harbour h).victims (s.harbour h).badLines).trans (holdLeaves _ _ _)

theorem holdLook (s : State) (h line : Nat) : HoldsMoved s (Machine.holdLook s h line) := by
  unfold Machine.holdLook
  split
  · exact (holdTouch _ _ _ _).trans (count _ (by decide) _ _ _)
  · exact count _ (by decide) _ _ _

theorem holdWrites (s : State) (h line : Nat) : HoldsMoved s (Machine.holdWrites s h line) := by
  unfold Machine.holdWrites
  split
  · exact holdTouch _ _ _ _
  · exact holdInstall _ _ _ _

theorem holdAccess (s : State) (h line : Nat) (w : Bool) : HoldsMoved s (Machine.holdAccess s h line w) := by
  unfold Machine.holdAccess
  split
  · exact (holdTouch _ _ _ _).trans (count _ (by decide) _ _ _)
  · exact (count _ (by decide) _ _ _).trans (holdInstall _ _ _ _)

theorem fillArrives (s : State) (h line : Nat) (x y : Bool) : HoldsMoved s (Machine.fillArrives s h line x y) := by
  unfold Machine.fillArrives
  dsimp only
  split
  · exact refl s
  · split
    · exact (holdInstall _ _ _ _).trans (setPoison _ _ _)
    · exact holdInstall _ _ _ _

theorem countFill (s : State) (i : Item) : HoldsMoved s (Machine.countFill s i) := by
  unfold Machine.countFill
  split
  · dsimp only
    split
    · exact (holdLook _ _ _).trans (count _ (by decide) _ _ _)
    · exact holdLook _ _ _
  · exact refl s

theorem loseFill (s : State) (i : Item) : HoldsMoved s (Machine.loseFill s i) := by
  unfold Machine.loseFill
  split
  · exact fillArrives _ _ _ _ _
  · exact refl s

theorem launchItem (s : State) (h : Nat) (i : Item) : HoldsMoved s (Machine.launchItem s h i).1 := by
  unfold Machine.launchItem
  dsimp only
  split
  · exact (countFill _ _).trans (loseFill _ _)
  · exact countFill _ _

end HoldsMoved

/-! ### An item enters its queue -/

/-- An item as it stands in its queue. -/
def queuedItem (s : State) (h d : Nat) (i : Item) : Item :=
  capture (launchItem s h i).1 (((launchItem s h i).1.harbour h).dq d) (launchItem s h i).2

/-- What is read on the way moves neither the item's command and place nor its times. -/
theorem capture_eq (s : State) (l : List Item) (i : Item) : ∃ b p x, capture s l i = { i with got := b, poisoned := p, data := x } := by
  unfold capture
  split
  · split
    · exact ⟨_, _, _, rfl⟩
    · exact ⟨_, _, _, rfl⟩
  · exact ⟨_, _, _, rfl⟩

/-- An item stands in its queue as it was issued, with the time of its issue and its due group cycle. -/
theorem queuedItem_eq (s : State) (h d : Nat) (i : Item) : ∃ st b p x, queuedItem s h d i =
    { i with issued := s.clocks.cycle, due := itemDue s h i, stack := st, taken := false,
             arrived := addressesLost s i || arrivesAtOnce s h i, got := b, poisoned := p, data := x } := by
  obtain ⟨b, p, x, hcap⟩ := capture_eq (launchItem s h i).1 (((launchItem s h i).1.harbour h).dq d) (launchItem s h i).2
  exact ⟨needsStack s i && !addressesLost s i, b, p, x, hcap⟩

/-- The state in which an item stands last in its queue, before its stack takes requests. -/
def queued (s : State) (h d : Nat) (i : Item) : State :=
  (launchItem s h i).1.modHarbour h fun y => { y with dqs := tabMod [] y.dqs d fun l => l ++ [queuedItem s h d i] }

theorem appendItem_eq (s : State) (h d : Nat) (i : Item) : appendItem s h d i = takeFor (queued s h d i) (queuedItem s h d i) := rfl

theorem appendItem_moves (s : State) (h d : Nat) (i : Item) : DqsMoved (queued s h d i) (appendItem s h d i) := by
  rw [appendItem_eq]
  exact takeFor_moved _ _

/-- An item that enters its queue moves no register of a subindex that no hold counts at. -/
theorem appendItem_reg (s : State) (h d : Nat) (i : Item) {r : Reg} (hr : r.sub < 256) (hc : ∀ c ∈ holdCounters, c.sub ≠ r.sub) (n : Nat) :
    (appendItem s h d i).reg r n = s.reg r n := by
  have hcounters : ∀ c ∈ holdCounters, c.sub < 256 := by decide
  exact ((appendItem_moves s h d i).reg r n).trans
    ((HoldsMoved.launchItem s h i).reg r n fun c hm m => Reg.key_ne_of_sub (hcounters c hm) hr (hc c hm) m n)

theorem mem_queued (s : State) (h d : Nat) (i : Item) : queuedItem s h d i ∈ ((queued s h d i).harbour h).dq d := by
  rw [queued, State.harbour_modHarbour]
  simp [Harbour.dq, tabMod]

/-- What stands of the harbours and the clocks while an item enters its queue and evicted lines follow. -/
theorem drained_append (s : State) (h d : Nat) (i : Item) :
    (drainVictims (appendItem s h d i)).clocks = s.clocks ∧ (∀ g, ∃ l vs bad ds n, (drainVictims (appendItem s h d i)).harbour g =
      { s.harbour g with hold := l, victims := vs, badLines := bad, dqs := ds, takeNext := n }) ∧
      (∀ r n, (∀ c ∈ holdCounters, ∀ m, c.key m ≠ r.key n) → (drainVictims (appendItem s h d i)).reg r n = s.reg r n) ∧
      (drainVictims (appendItem s h d i)).mem = s.mem ∧
      ∃ b, { queuedItem s h d i with taken := b } ∈ ((drainVictims (appendItem s h d i)).harbour h).dq d := by
  have hmoves := (appendItem_moves s h d i).trans (drainVictims_moved _)
  have hholds := HoldsMoved.launchItem s h i
  refine ⟨hmoves.clocks.trans hholds.clocks, fun g => ?_, fun r n hr => (hmoves.reg r n).trans (hholds.reg r n hr),
    hmoves.mem.trans hholds.mem, hmoves.kept h d _ (mem_queued s h d i)⟩
  obtain ⟨ds, vs, n, hg⟩ := hmoves.harbour g
  obtain ⟨l, vs', bad, hg'⟩ := hholds.harbour g
  by_cases hgh : h = g
  · subst hgh
    rw [hg, queued, State.harbour_modHarbour, hg']
    exact ⟨_, _, _, _, _, rfl⟩
  · rw [hg, queued, State.harbour_modHarbour_other _ _ hgh, hg']
    exact ⟨_, _, _, _, _, rfl⟩

/-! ### Where nothing has arrived -/

/-- Nothing has arrived in a harbour's four queues. -/
def noneArrived (s : State) (h : Nat) : Prop := ∀ d < 4, ∀ i ∈ (s.harbour h).dq d, i.arrived = false

theorem nextItem_none {p skip : Item → Bool} {l : List Item} (hl : ∀ i ∈ l, p i = false) : nextItem p skip l = none := by
  induction l with
  | nil => rfl
  | cons i l ih =>
    simp [nextItem, hl i (by simp), ih fun j hj => hl j (by simp [hj])]

theorem deliverHead_none {p skip : Item → Bool} {s : State} {h d : Nat} (hl : ∀ i ∈ (s.harbour h).dq d, p i = false) (n : Nat) :
    deliverHead p skip h d n s = s := by
  cases n with
  | zero => rfl
  | succ n => simp only [deliverHead, nextItem_none hl]

/-- In queue mode nothing is delivered where nothing has arrived. -/
theorem settle_noneArrived {s : State} {h : Nat} (hmode : s.lockstep h = false) (hnone : noneArrived s h) : settle s h = drainVictims s := by
  have hall : ∀ l : List Nat, (∀ d ∈ l, d < 4) → l.foldl (fun s d => deliverHead Item.arrived (fun i => i.use == .evict) h d
      ((s.harbour h).dq d).length s) s = s := by
    intro l
    induction l with
    | nil => exact fun _ => rfl
    | cons d l ih =>
      intro hl
      rw [List.foldl_cons, deliverHead_none (hnone d (hl d (by simp)))]
      exact ih fun d hd => hl d (by simp [hd])
  rw [settle, hmode]
  exact congrArg drainVictims (hall _ fun d hd => List.mem_range.1 hd)

theorem listMod_mem {l : List Item} {n : Nat} {g : Item → Item} {j : Item} (hj : j ∈ listMod l n g) : j ∈ l ∨ ∃ i ∈ l, j = g i := by
  induction l generalizing n with
  | nil => simp [listMod] at hj
  | cons i l ih =>
    cases n with
    | zero =>
      rcases List.mem_cons.1 (by simpa [listMod] using hj) with rfl | h
      · exact .inr ⟨i, by simp, rfl⟩
      · exact .inl (by simp [h])
    | succ n =>
      rcases List.mem_cons.1 (by simpa [listMod] using hj) with rfl | h
      · exact .inl (by simp)
      · rcases ih h with h | ⟨k, hk, hg⟩
        · exact .inl (by simp [h])
        · exact .inr ⟨k, by simp [hk], hg⟩

theorem takeOne_noneArrived {s t : State} {g h : Nat} (ht : takeOne s g = some t) (hn : noneArrived s h) : noneArrived t h := by
  unfold takeOne at ht
  split at ht
  · cases ht
  · obtain ⟨m, -, hm⟩ := List.exists_of_findSome?_eq_some ht
    obtain ⟨p, -, rfl⟩ := Option.map_eq_some_iff.1 hm
    have hmod : noneArrived (modItem s p.1 p.2.1 p.2.2 fun i => { i with taken := true }) h := by
      intro d hd i hi
      unfold modItem at hi
      by_cases hp : p.1 = h
      · rw [hp, State.harbour_modHarbour] at hi
        simp only [Harbour.dq, tabMod, tabGet_tabSet] at hi
        split at hi
        · next hk =>
          subst hk
          rcases listMod_mem hi with hi | ⟨j, hj, rfl⟩
          · exact hn _ hd i hi
          · exact hn _ hd j hj
        · exact hn d hd i hi
      · rw [State.harbour_modHarbour_other _ _ hp] at hi
        exact hn d hd i hi
    intro d hd i hi
    refine hmod d hd i ?_
    by_cases hg : g = h
    · subst hg; rwa [State.harbour_modHarbour] at hi
    · rwa [State.harbour_modHarbour_other _ _ hg] at hi

theorem takeAll_noneArrived (g h n : Nat) {s : State} (hn : noneArrived s h) : noneArrived (takeAll g n s) h := by
  induction n generalizing s with
  | zero => exact hn
  | succ n ih =>
    simp only [takeAll]
    split
    · next t ht => exact ih (takeOne_noneArrived ht hn)
    · exact hn

theorem takeFor_noneArrived {s : State} {h : Nat} (i : Item) (hn : noneArrived s h) : noneArrived (takeFor s i) h := by
  unfold takeFor
  split
  · split
    · exact takeAll_noneArrived _ _ _ hn
    · exact hn
  · exact hn

/-- An item that has not arrived joins others that have not. -/
theorem appendItem_noneArrived {s : State} {h : Nat} (d : Nat) {i : Item} (hn : noneArrived s h) (hlost : addressesLost s i = false)
    (hitem : arrivesAtOnce s h i = false) : noneArrived (appendItem s h d i) h := by
  rw [appendItem_eq]
  refine takeFor_noneArrived _ fun k hk j hj => ?_
  obtain ⟨l, vs, bad, hlaunch⟩ := (HoldsMoved.launchItem s h i).harbour h
  rw [queued, State.harbour_modHarbour] at hj
  simp only [Harbour.dq, tabMod, tabGet_tabSet, hlaunch] at hj
  split at hj
  · next hd =>
    subst hd
    rcases List.mem_append.1 hj with hj | hj
    · exact hn _ hk j hj
    · obtain ⟨st, b, p, x, hq⟩ := queuedItem_eq s h d i
      rw [List.mem_singleton.1 hj, hq]
      simp [hlost, hitem]
  · exact hn k hk j hj

/-- An item that waits once it is issued enters its queue, and evicted lines follow. -/
theorem placeItem_waits {s : State} {h d : Nat} {named : Bool} {i : Item} (hw : waitsInQueue s h i) :
    placeItem s h d named i = drainVictims (appendItem s h d i) := by
  unfold placeItem
  cases hmode : s.lockstep h with
  | true => rfl
  | false =>
    obtain ⟨hitem, hlost, hnone⟩ := hw.resolve_left (by simp [hmode])
    have harrived : (launchItem s h i).2.arrived = false := by simp [launchItem, hitem, hlost]
    have hsettle := appendItem_noneArrived d hnone hlost hitem
    have hmode' : (appendItem s h d i).lockstep h = false := by
      rw [← hmode]
      simp only [State.lockstep, State.strict, State.flag, appendItem_reg s h d i (r := Reg.detStrict) (by decide) (by decide),
        appendItem_reg s h d i (r := Reg.engQueueMode) (by decide) (by decide)]
    simp only [harrived, Bool.false_and, Bool.false_eq_true, if_false]
    exact settle_noneArrived hmode' hsettle

end Sys2Proof.Machine
end

section
/-! SUPPORT. FETCH, STORE and COPY (R182, R184, R186, R189). -/

namespace Sys2Proof.Machine

/-! ### A turn of the tongs -/

/-- The state in which a queue of the tongs has taken its turn, and its command counts the line. -/
def turnTaken (s : State) (h q : Nat) (r : Running) : State :=
  modRunning ((s.runTo (s.harbour h).tongsFree).modHarbour h fun x =>
    { x with tongsNext := (q + 1) % 4,
             tongsFree := (s.runTo (s.harbour h).tongsFree).clocks.cycle + groupPace (s.runTo (s.harbour h).tongsFree) })
    h 0 q fun y => { y with issued := r.issued + 1 }

/-- The state in which the line of a turn moves: its command may have passed its commit point. -/
def lineState (s : State) (h q : Nat) (r : Running) (commits : Bool) : State :=
  if commits then commitCmd (turnTaken s h q r) h 0 q else turnTaken s h q r

theorem tongsLine_ends {s : State} {h q : Nat} {r : Running} (h0 : r.total = 0) (put : State → Running → Nat → State) :
    tongsLine h q put s r = finish s h 0 q 0 0 := if_pos h0

theorem tongsLine_puts {s : State} {h q : Nat} {r : Running} (h0 : r.total ≠ 0) (hturn : tongsTurn (s.harbour h) = some q)
    (put : State → Running → Nat → State) : tongsLine h q put s r = put (turnTaken s h q r) r r.issued := by
  simp only [tongsLine, if_neg h0, if_pos hturn]
  rfl

theorem lineState_kept (s : State) (h q : Nat) (r : Running) (commits : Bool) : AccessKept s (lineState s h q r commits) := by
  have hturn : AccessKept s (turnTaken s h q r) := by
    unfold turnTaken
    refine AccessKept.trans ((AccessKept.runTo s _).trans (.modHarbour _ h _ ?_ ?_)) (.modRunning _ _ _ _ _) <;> exact fun _ => rfl
  unfold lineState
  split
  · exact hturn.trans (.commitCmd _ _ _ _)
  · exact hturn

theorem groupPace_runTo (s : State) (c : Nat) : groupPace (s.runTo c) = groupPace s := by rw [State.runTo_rest]; rfl

theorem lineState_cycle (s : State) (h q : Nat) (r : Running) (commits : Bool) :
    (lineState s h q r commits).clocks.cycle = max s.clocks.cycle (s.harbour h).tongsFree := by
  unfold lineState
  split <;> exact State.runTo_cycle _ _

/-- The turn moves the running commands, the contexts and the turn of its harbour, and no other harbour. -/
theorem lineState_harbour (s : State) (h q : Nat) (r : Running) (commits : Bool) : ∃ rs cs, (lineState s h q r commits).harbour h =
    { s.harbour h with running := rs, ctxs := cs, tongsNext := (q + 1) % 4,
                       tongsFree := max s.clocks.cycle (s.harbour h).tongsFree + groupPace s } := by
  have hturn : ∃ rs, (turnTaken s h q r).harbour h =
      { s.harbour h with running := rs, tongsNext := (q + 1) % 4, tongsFree := max s.clocks.cycle (s.harbour h).tongsFree + groupPace s } := by
    refine ⟨((turnTaken s h q r).harbour h).running, ?_⟩
    rw [turnTaken, modRunning_harbour, State.harbour_modHarbour, State.runTo_harbour, State.runTo_cycle, groupPace_runTo]
  obtain ⟨rs, hrs⟩ := hturn
  unfold lineState
  split
  · refine ⟨((commitCmd (turnTaken s h q r) h 0 q).harbour h).running, ((commitCmd (turnTaken s h q r) h 0 q).harbour h).ctxs, ?_⟩
    rw [commitCmd, State.harbour_modHarbour, modRunning_harbour, hrs]
  · exact ⟨rs, _, hrs⟩

theorem lineState_runningAt {s : State} {h q : Nat} {r : Running} (hrun : (s.harbour h).runningAt 0 q = some r) (commits : Bool) : ∃ b,
    ((lineState s h q r commits).harbour h).runningAt 0 q = some { r with issued := r.issued + 1, posted := b } := by
  have hturn : ((turnTaken s h q r).harbour h).runningAt 0 q = some { r with issued := r.issued + 1 } := by
    rw [turnTaken, runningAt_modRunning, State.harbour_modHarbour, State.runTo_harbour]
    · exact congrArg (Option.map _) hrun
    · exact fun _ => ⟨rfl, rfl⟩
  unfold lineState
  split
  · exact ⟨true, by rw [runningAt_commitCmd, hturn]; rfl⟩
  · exact ⟨r.posted, hturn⟩

/-! ### The line of a turn -/

/-- A line outside its space stops its command: the lines before it are all there are. -/
theorem stopAt_spec {s : State} {h e q k d : Nat} {r : Running} (hrun : (s.harbour h).runningAt e q = some r) : ∃ y,
    ((stopAt s h e q k d).harbour h).runningAt e q = some y ∧ y.total = k ∧ y.finished = decide (r.delivered = k) ∧
      (r.status = 0 → y.status = 2 ∧ y.detail = d % 2 ^ 32) := by
  refine ⟨{ r with issued := k, total := k, finished := decide (r.delivered = k), status := if r.status = 0 then 2 else r.status,
                   detail := if r.status = 0 then d % 2 ^ 32 else r.detail }, ?_, rfl, rfl, fun h0 => ⟨if_pos h0, if_pos h0⟩⟩
  rw [stopAt, runningAt_modRunning, hrun]
  · rfl
  · exact fun _ => ⟨rfl, rfl⟩

/-- FETCH, STORE and COPY move the line of their turn, FETCH and STORE past their commit point. -/
theorem exec_moveLine {s : State} {h q op : Nat} {r : Running} (hop : op = 0x10 ∨ op = 0x12 ∨ op = 0x13) (hruns : runsNow s h 0 q op r) :
    ∃ named commits put, exec (if op = 0x10 then .copy h 0 q else if op = 0x12 then .fetch h 0 q else .store h 0 q) s =
        .next { tongsLine h q put s r with pending := s.pending } ∧
      put (turnTaken s h q r) r r.issued = moveLine h q named (lineState s h q r commits) r r.issued := by
  rcases hop with rfl | rfl | rfl
  · exact ⟨false, copyCommits r.cmd, _, command_runs hruns _, rfl⟩
  · exact ⟨true, true, _, command_runs hruns _, rfl⟩
  · exact ⟨true, true, _, command_runs hruns _, rfl⟩

theorem lineDq_moves {c : Cmd} {op : Nat} (hop : op = 0x10 ∨ op = 0x12 ∨ op = 0x13) (hc : cmdOpcode c = op) :
    lineDq c = if op = 0x10 then 3 else cmdBody c 120 2 := by
  unfold lineDq
  rcases hop with rfl | rfl | rfl <;> rw [hc] <;> rfl

/-- What waits once it is issued from a state waits from another with the same accesses and decoupling queues. -/
theorem waitsInQueue_of {s u : State} {h : Nat} {i : Item} (hk : AccessKept s u) (hdq : (u.harbour h).dqs = (s.harbour h).dqs)
    (hw : waitsInQueue s h i) : waitsInQueue u h i := by
  unfold waitsInQueue at hw ⊢
  rwa [hk.lockstep, hk.arrivesAtOnce, hk.addressesLost, show (u.harbour h).dq = (s.harbour h).dq from funext fun d => congrArg (tabGet [] · d) hdq]

theorem itemDue_copy {s u : State} {h : Nat} (hk : AccessKept s u) (q src dst k : Nat) : itemDue u h (itemOf 0 q .copy src dst k 0#512 false) =
    u.reg Reg.engGroupCycles h +
      if addrHarbour src = h ∧ addrHarbour dst = h then s.reg Reg.engDqDueLocal h else s.reg Reg.engDqDueRemote h := by
  rw [itemDue, hk.reg Reg.engDqDueLocal (by decide), hk.reg Reg.engDqDueRemote (by decide)]
  simp [itemOf, Item.places]

/-- Settles O33: a turn leads to moveLine on the state of the turn; placeItem_waits then gives the item, and stopAt the refusal. -/
theorem fetchAndStoreIssueItems : Obligations.FetchAndStoreIssueItems := by
  unfold Obligations.FetchAndStoreIssueItems
  intro s h q op r hop hruns
  obtain ⟨named, commits, put, hexec, hput⟩ := exec_moveLine hop hruns
  obtain ⟨hq, hrun, hopc, hfin, -, -⟩ := hruns
  have hdq := lineDq_moves hop hopc
  have hh : h < 16 := hasHarbour_lt (s := s) (by simp_all [State.hasQueue])
  dsimp only
  refine ⟨fun h0 => ?_, fun h0 hturn => ⟨fun hsrc hdst hwait => ?_, fun hbad => ?_⟩⟩
  · rw [tongsLine_ends h0] at hexec
    exact ⟨_, hexec, endedWith_finish hrun 0 0⟩
  all_goals
    rw [tongsLine_puts h0 hturn, hput] at hexec
    have hkept := lineState_kept s h q r commits
    obtain ⟨b, hline⟩ := lineState_runningAt hrun commits
    obtain ⟨rs, cs, hharbour⟩ := lineState_harbour s h q r commits
  · have hwait' := waitsInQueue_of hkept (by rw [hharbour]) hwait
    have hmove : moveLine h q named (lineState s h q r commits) r r.issued = drainVictims (appendItem (lineState s h q r commits) h
        (lineDq r.cmd) (itemOf 0 q .copy (cmdBody r.cmd 0 48 + 64 * r.issued) (cmdBody r.cmd 48 48 + 64 * r.issued) r.issued 0#512 false)) := by
      simp only [moveLine, hkept.rangeFor, hsrc, hdst]
      exact placeItem_waits hwait'
    rw [hmove, hdq] at hexec
    obtain ⟨hclocks, hharbours, hregs, -, taken, hmem⟩ := drained_append (lineState s h q r commits) h (if op = 0x10 then 3 else cmdBody r.cmd 120 2)
      (itemOf 0 q .copy (cmdBody r.cmd 0 48 + 64 * r.issued) (cmdBody r.cmd 48 48 + 64 * r.issued) r.issued 0#512 false)
    obtain ⟨st, got, p, x, hitem⟩ := queuedItem_eq (lineState s h q r commits) h (if op = 0x10 then 3 else cmdBody r.cmd 120 2)
      (itemOf 0 q .copy (cmdBody r.cmd 0 48 + 64 * r.issued) (cmdBody r.cmd 48 48 + 64 * r.issued) r.issued 0#512 false)
    obtain ⟨l, vs, bad, ds, n, hh'⟩ := hharbours h
    have hcycle := (congrArg Clocks.cycle hclocks).trans (lineState_cycle s h q r commits)
    have hgroup := hregs Reg.engGroupCycles h fun c hc m => by
      have hbase : c.base = 0x3801 ∧ c.sub < 256 := (by decide : ∀ c ∈ holdCounters, c.base = 0x3801 ∧ c.sub < 256) c hc
      have hkey : Reg.engGroupCycles.key h = (0x3401 + h) * 256 + 4 := rfl
      have hckey : c.key m = (0x3801 + m) * 256 + c.sub := by rw [Reg.key, hbase.1]
      omega
    have hrunning := (congrArg (Harbour.runningAt · 0 q) hh').trans hline
    rw [hharbour] at hh'
    refine ⟨_, { r with issued := r.issued + 1, posted := b }, hexec,
      ⟨hcycle, congrArg Harbour.tongsNext hh', (congrArg Harbour.tongsFree hh').trans (congrArg (· + groupPace s) hcycle.symm)⟩,
      hrunning, rfl, rfl, hfin, _, hmem, ?_⟩
    rw [hitem]
    refine ⟨rfl, rfl, rfl, rfl, rfl, rfl, (congrArg Clocks.cycle hclocks).symm, ?_⟩
    exact (itemDue_copy hkept _ _ _ _).trans (congrArg (· + _) hgroup.symm)
  · have hstop : moveLine h q named (lineState s h q r commits) r r.issued = stopAt (lineState s h q r commits) h 0 q r.issued r.issued := by
      rcases hbad with hbad | hbad <;> simp [moveLine, hkept.rangeFor, hbad]
    rw [hstop] at hexec
    obtain ⟨y, hy, htotal, hyfin, hst⟩ := stopAt_spec (k := r.issued) (d := r.issued) hline
    exact ⟨_, y, hexec, hy, htotal, hyfin, hst⟩

end Sys2Proof.Machine
end

section
/-! SUPPORT. Refresh and scrub of a stack (R204, R206). -/

namespace Sys2Proof.Machine

/-- A step taken only under a condition leaves a register that the step leaves. -/
theorem reg_of_ite {b : Prop} [Decidable b] {s t : State} {r : Reg} {n : Nat} (h : t.reg r n = s.reg r n) :
    (if b then t else s).reg r n = s.reg r n := by
  split
  · exact h
  · rfl

/-! ### What a controller counts of a read -/

/-- The registers in which a stack's controller counts errors. -/
def eccCounters : List Reg := [Reg.hbmOdeccCorr, Reg.hbmOdeccUncorr, Reg.hbmCorrected, Reg.hbmUncorr]

theorem reg_count_sub (s : State) {r x : Reg} (h n b k : Nat) (hx : x.sub < 256) (hr : r.sub < 256) (hne : x.sub ≠ r.sub) :
    (s.count x n b k).reg r h = s.reg r h := State.reg_count_other _ _ _ (Reg.key_ne_of_sub hx hr hne n h)

/-- The registers of a stack lie where no report of an error writes. -/
theorem reg_detect {h : Nat} (hh : h < 16) {r : Reg} (hb : r.base = 0x3811) (hs : r.sub < 256) (s : State) (u : FaultUnit) (unc : Bool)
    (d k : Nat) : (detect s u unc d k).reg r h = s.reg r h := by
  have hkey : r.key h = (0x3811 + h) * 256 + r.sub := by rw [Reg.key, hb]
  exact (Reported.detect s u unc d k).reg r h (by omega) (by omega)

/-- A report counts in its four registers, and in no other of its stack. -/
theorem reg_eccCounts_other (s : State) {h : Nat} (hh : h < 16) (line : Nat) (c : EccReport) {r : Reg} (hb : r.base = 0x3811)
    (hs : r.sub < 3 ∨ 6 < r.sub ∧ r.sub < 256) : (eccCounts s h line c).reg r h = s.reg r h := by
  have hdetect := reg_detect hh hb (by omega)
  have hcount (x : Reg) (hx : x ∈ eccCounters) (u : State) (b : Nat) : (u.count x h b).reg r h = u.reg r h := by
    have hsub : 3 ≤ x.sub ∧ x.sub ≤ 6 := (by decide : ∀ x ∈ eccCounters, 3 ≤ x.sub ∧ x.sub ≤ 6) x hx
    exact reg_count_sub u h h b 1 (by omega) (by omega) (by omega)
  unfold eccCounts
  dsimp only
  rw [reg_of_ite (hdetect _ _ _ _ _), reg_of_ite (hcount Reg.hbmUncorr (by decide) _ _),
    reg_of_ite ((hdetect _ _ _ _ _).trans (hcount Reg.hbmCorrected (by decide) _ _)), reg_of_ite (hcount Reg.hbmOdeccUncorr (by decide) _ _),
    reg_of_ite (hcount Reg.hbmOdeccCorr (by decide) _ _)]

theorem reg_eccCounts_corrected (s : State) {h : Nat} (hh : h < 16) (line : Nat) {c : EccReport} (hc : c.corrected = true) :
    (eccCounts s h line c).reg Reg.hbmCorrected h = (s.reg Reg.hbmCorrected h + 1) % 2 ^ 64 := by
  have hdetect := reg_detect (r := Reg.hbmCorrected) hh rfl (by decide)
  have hcount {x : Reg} (hx : x.sub < 256) (hne : x.sub ≠ 3) (u : State) (b : Nat) := reg_count_sub (r := Reg.hbmCorrected) u h h b 1 hx (by decide) hne
  unfold eccCounts
  dsimp only
  rw [reg_of_ite (hdetect _ _ _ _ _), reg_of_ite (hcount (x := Reg.hbmUncorr) (by decide) (by decide) _ _), if_pos hc, hdetect,
    State.reg_count_same, reg_of_ite (hcount (x := Reg.hbmOdeccUncorr) (by decide) (by decide) _ _),
    reg_of_ite (hcount (x := Reg.hbmOdeccCorr) (by decide) (by decide) _ _)]

theorem reg_eccCounts_uncorrected (s : State) {h : Nat} (hh : h < 16) (line : Nat) {c : EccReport} (hc : c.uncorrected = true) :
    (eccCounts s h line c).reg Reg.hbmUncorr h = (s.reg Reg.hbmUncorr h + 1) % 2 ^ 32 := by
  have hdetect := reg_detect (r := Reg.hbmUncorr) hh rfl (by decide)
  have hcount {x : Reg} (hx : x.sub < 256) (hne : x.sub ≠ 4) (u : State) (b : Nat) := reg_count_sub (r := Reg.hbmUncorr) u h h b 1 hx (by decide) hne
  unfold eccCounts
  dsimp only
  rw [reg_of_ite (hdetect _ _ _ _ _), if_pos hc, State.reg_count_same,
    reg_of_ite ((hdetect _ _ _ _ _).trans (hcount (x := Reg.hbmCorrected) (by decide) (by decide) _ _)),
    reg_of_ite (hcount (x := Reg.hbmOdeccUncorr) (by decide) (by decide) _ _), reg_of_ite (hcount (x := Reg.hbmOdeccCorr) (by decide) (by decide) _ _)]

/-- A report moves registers, links and faults. -/
theorem eccCounts_rest (s : State) (h line : Nat) (c : EccReport) :
    ∃ regs links faults, eccCounts s h line c = { s with regs := regs, links := links, faults := faults } := by
  let p (t : State) : Prop := ∃ regs links faults, t = { s with regs := regs, links := links, faults := faults }
  have hcount : ∀ {t : State} (r : Reg) (b : Nat), p t → p (t.count r h b) := by
    rintro t r b ⟨_, _, _, rfl⟩
    exact ⟨_, _, _, rfl⟩
  have hdetect : ∀ {t : State} (u : FaultUnit) (unc : Bool) (d k : Nat), p t → p (detect t u unc d k) := by
    rintro t u unc d k ⟨_, _, _, rfl⟩
    obtain ⟨_, _, _, ht⟩ := (Reported.detect _ u unc d k).same
    exact ⟨_, _, _, ht⟩
  have hite : ∀ {b : Prop} [Decidable b] {t u : State}, p u → p t → p (if b then u else t) := by
    intro b _ t u hu ht
    split
    · exact hu
    · exact ht
  have h1 : p (if c.odCorrected then s.count Reg.hbmOdeccCorr h 64 else s) := hite (hcount _ _ ⟨_, _, _, rfl⟩) ⟨_, _, _, rfl⟩
  have h2 := hite (b := c.odUncorrected = true) (hcount Reg.hbmOdeccUncorr 32 h1) h1
  have h3 := hite (b := c.corrected = true) (hdetect (hbmUnit h line) false line 0 (hcount Reg.hbmCorrected 64 h2)) h2
  have h4 := hite (b := c.uncorrected = true) (hcount Reg.hbmUncorr 32 h3) h3
  exact hite (hdetect _ _ _ _ h4) h4

/-! ### Refresh and scrub -/

/-- What the scrub leaves of a line it has read. -/
def scrubRead (s : State) (h line : Nat) (c : EccReport) : State :=
  if eccBad c then scrubBad (eccCounts s h line c) h line else eccCounts s h line c

/-- The scrub's read of its next line. -/
theorem hbmScrubs_next {s : State} {h line : Nat} (c : EccReport) (hready : stackReady s h = true) (hon : s.reg Reg.hbmScrubH h ≠ 0)
    (hline : line = (s.harbour h).scrubLine) : hbmScrubs s h line c =
      let t := (scrubRead s h line c).modHarbour h fun x => { x with scrubLine := (line + 1) % stackLines }
      if line + 1 = stackLines then t.count Reg.hbmScrubPasses h else t := by
  have hcond : ¬ (s.reg Reg.hbmScrubH h = 0 ∨ (!stackReady s h) = true ∨ line ≠ (s.harbour h).scrubLine) := by simp [hready, hon, hline]
  exact if_neg hcond

theorem reg_scrubRead (s : State) (h line : Nat) (c : EccReport) (r : Reg) (n : Nat) :
    (scrubRead s h line c).reg r n = (eccCounts s h line c).reg r n := by
  unfold scrubRead scrubBad
  split
  · split <;> rfl
  · rfl

/-- An uncorrectable line is bad in the stack while its hold has it, and poisoned otherwise. -/
theorem scrubRead_bad {s : State} {h line : Nat} {c : EccReport} (hbad : eccBad c = true) :
    if holdHas s h line = true then line ∈ ((scrubRead s h line c).harbour h).badLines
    else (scrubRead s h line c).poisoned (stackLine h line) = true := by
  obtain ⟨regs, links, faults, hrest⟩ := eccCounts_rest s h line c
  have hhold : holdHas (eccCounts s h line c) h line = holdHas s h line := by rw [hrest]; rfl
  rw [scrubRead, if_pos hbad, scrubBad, hhold]
  split
  · rw [State.harbour_modHarbour]
    exact List.mem_cons_self
  · simp [State.poisoned, State.setPoison]

theorem stackLine_eq {h line : Nat} (hline : line < 375000000) : mkAddr 0 h (64 * line) / 64 = stackLine h line := by
  unfold mkAddr stackLine
  omega

/-- What a scrub's read leaves. -/
theorem hbmScrubs_spec {s : State} {h line : Nat} (hh : h < 16) (c : EccReport) (hready : stackReady s h = true)
    (hon : s.reg Reg.hbmScrubH h ≠ 0) (hline : line = (s.harbour h).scrubLine) (hlt : line < 375000000) :
    let t := hbmScrubs s h line c
    (t.harbour h).scrubLine = (if line = 374999999 then 0 else line + 1) ∧
      t.reg Reg.hbmScrubPasses h = (if line = 374999999 then (s.reg Reg.hbmScrubPasses h + 1) % 2 ^ 32 else s.reg Reg.hbmScrubPasses h) ∧
      (c.corrected = true → t.reg Reg.hbmCorrected h = (s.reg Reg.hbmCorrected h + 1) % 2 ^ 64) ∧
      (c.uncorrected = true → t.reg Reg.hbmUncorr h = (s.reg Reg.hbmUncorr h + 1) % 2 ^ 32) ∧
      (eccBad c = true → if holdHas s h line = true then line ∈ (t.harbour h).badLines
        else t.poisoned (mkAddr 0 h (64 * line) / 64) = true) := by
  have hpass : (scrubRead s h line c).reg Reg.hbmScrubPasses h = s.reg Reg.hbmScrubPasses h :=
    (reg_scrubRead ..).trans (reg_eccCounts_other s hh line c rfl (by decide))
  have hcor (hc : c.corrected = true) := (reg_scrubRead s h line c Reg.hbmCorrected h).trans (reg_eccCounts_corrected s hh line hc)
  have hunc (hc : c.uncorrected = true) := (reg_scrubRead s h line c Reg.hbmUncorr h).trans (reg_eccCounts_uncorrected s hh line hc)
  have hbad (hb : eccBad c = true) := scrubRead_bad (s := s) (h := h) (line := line) hb
  have hother (u : State) {r : Reg} (hr : r.sub < 256) (hne : r.sub ≠ 7) : (u.count Reg.hbmScrubPasses h).reg r h = u.reg r h :=
    reg_count_sub u h h 32 1 (by decide) hr (Ne.symm hne)
  dsimp only
  rw [hbmScrubs_next c hready hon hline, stackLine_eq hlt]
  generalize scrubRead s h line c = u at *
  dsimp only
  by_cases hlast : line = 374999999
  · rw [if_pos (by rw [hlast]; rfl), if_pos hlast, if_pos hlast]
    refine ⟨?_, ?_, fun hc => (hother _ (by decide) (by decide)).trans (hcor hc), fun hc => (hother _ (by decide) (by decide)).trans (hunc hc),
      fun hb => ?_⟩
    · rw [State.harbour_count, State.harbour_modHarbour, hlast]; rfl
    · exact (State.reg_count_same ..).trans (congrArg (fun x => (x + 1) % 2 ^ 32) hpass)
    · rw [State.harbour_count, State.harbour_modHarbour]
      exact hbad hb
  · rw [if_neg (by unfold stackLines; omega), if_neg hlast, if_neg hlast]
    refine ⟨?_, hpass, hcor, hunc, fun hb => ?_⟩
    · rw [State.harbour_modHarbour]
      exact Nat.mod_eq_of_lt (by unfold stackLines; omega)
    · rw [State.harbour_modHarbour]
      exact hbad hb

theorem hbmScrubs_otherLine {s : State} {h line : Nat} (c : EccReport) (hline : line ≠ (s.harbour h).scrubLine) : hbmScrubs s h line c = s :=
  if_pos (.inr (.inr hline))

theorem hbmScrubs_notReady {s : State} {h : Nat} (line : Nat) (c : EccReport) (hready : stackReady s h = false) : hbmScrubs s h line c = s :=
  if_pos (.inr (.inl (by simp [hready])))

end Sys2Proof.Machine
end

section
/-! SUPPORT. The engine objects that the host writes and reads: ENG_TOKENS, ENG_RESUME, CACHE_HOLD_DIRECT_MIB and ENG_COMPLETIONS
(R178, R185, R208, R279). -/

namespace Sys2Proof.Machine

/-! ### Their rows and units -/

def engTokensRow : ObjRow := ⟨Reg.engTokens, 16, 1, .domain 128 true, .rw, .any⟩
def engResumeRow : ObjRow := ⟨Reg.engResume, 128, 1, .unsigned 1, .wo, .range 0 3⟩
def holdDirectRow : ObjRow := ⟨Reg.cacheHoldDirectMib, 16, 1, .unsigned 1, .rwHeld, .multiple 4 4 28⟩
def engCompletionsRow : ObjRow := ⟨Reg.engCompletions, 16, 1, .domain 16384 false, .ro, .any⟩

theorem engineRows_mem : engTokensRow ∈ objRows ∧ engResumeRow ∈ objRows ∧ holdDirectRow ∈ objRows ∧ engCompletionsRow ∈ objRows := by
  decide +kernel

section
variable {s : State} {h : Nat} (hh : s.hasHarbour h = true)
include hh

theorem group_present : unitPresent s (0x3401 + h) = true := by
  have hlt := hasHarbour_lt hh
  unfold unitPresent
  repeat rw [if_neg (by rw [indexIn_iff]; omega)]
  rw [if_pos (indexIn_iff.mpr (by omega)), Nat.add_sub_cancel_left, hh]

theorem engine_present {e : Nat} (he : e < 5) : unitPresent s (0x3411 + (8 * h + e)) = true := by
  have hlt := hasHarbour_lt hh
  unfold unitPresent
  repeat rw [if_neg (by rw [indexIn_iff]; omega)]
  rw [if_pos (indexIn_iff.mpr (by omega)), Nat.add_sub_cancel_left, show (8 * h + e) / 8 = h by omega, show (8 * h + e) % 8 = e by omega, hh]
  simpa using he

theorem hold_present : unitPresent s (0x3801 + h) = true := by
  have hlt := hasHarbour_lt hh
  unfold unitPresent
  repeat rw [if_neg (by rw [indexIn_iff]; omega)]
  rw [if_pos (indexIn_iff.mpr (by omega)), Nat.add_sub_cancel_left, hh]

end

/-! ### ENG_TOKENS -/

theorem tabGet_map_listed {α : Type} (d : α) (f : Nat → α) {l : List Nat} {k : Nat} (hk : k ∈ l) : tabGet d (l.map fun k => (k, f k)) k = f k := by
  induction l with
  | nil => cases hk
  | cons j l ih =>
    by_cases hj : j = k
    · simp [tabGet, hj]
    · simpa [tabGet, hj] using ih ((List.mem_cons.mp hk).resolve_left (Ne.symm hj))

theorem leNat_lt (bs : List Byte) : leNat bs < 256 ^ bs.length := by
  induction bs with
  | nil => simp [leNat]
  | cons b bs ih =>
    have hb := b.isLt
    rw [leNat, List.length_cons, Nat.pow_succ]
    omega

theorem slice_length (bs : List Byte) (off n : Nat) : (slice bs off n).length = n := by
  simp only [slice, zeros, List.length_append, List.length_replicate, List.length_take]
  omega

/-- A DOMAIN that takes its content whole: the content stands, and the write answers 0 (R277, R278). -/
theorem hostWrite_domain {s t : State} {r : ObjRow} {index sub : Nat} {bs : List Byte} (hm : s.mode ≠ .off)
    (hf : findObject s index sub = .object r) (hd : r.isDomain = true) (ho : openCheck s r (index * 256 + sub) bs.length = 0)
    (ht : domainTaken s r.reg (r.unit index) bs = (scOk, t)) :
    hostWrite index sub bs s = (endReadsOf t (index * 256 + sub)).emit (.status 0) := by
  simp only [hostWrite, hostWrites, hm, if_false, objectWrite, hf, hd, if_true, domainWrite, ho, takeContent, ht]
  rfl

theorem exec_engTokens {s : State} {h : Nat} (hh : s.hasHarbour h = true) {v : List Byte} (hm : s.mode.online = true) (hv : v.length = 128)
    (hfree : sessionHolds s (Reg.engTokens.key h) = false) : exec (.engTokens h v) s =
      done s ((endReadsOf (setTokens s h v) (Reg.engTokens.key h)).emit (.status 0)) := by
  have hlt := hasHarbour_lt hh
  have hkey : (0x3401 + h) * 256 + 6 = Reg.engTokens.key h := rfl
  have hfound : findObject s (0x3401 + h) 6 = .object engTokensRow :=
    findObject_of_mem engineRows_mem.1 (ObjRow.holds_unit (r := engTokensRow) hlt (by decide)) (group_present hh)
  have hopen : openCheck s engTokensRow ((0x3401 + h) * 256 + 6) v.length = 0 := by
    have hw : writeState s engTokensRow = scOk := if_pos (.inl hm)
    have hlen : domainLengthOk engTokensRow v.length = true := by simp [domainLengthOk, engTokensRow, hv]
    have hrule : openRefusal s engTokensRow.reg = scOk := rfl
    simp only [openCheck, hw, hlen, hrule, hkey, hfree]
    rfl
  have htaken : domainTaken s engTokensRow.reg (engTokensRow.unit (0x3401 + h)) v = (scOk, setTokens s h v) := by
    rw [show engTokensRow.unit (0x3401 + h) = h from Nat.add_sub_cancel_left ..]
    rfl
  have hwrite := hostWrite_domain (Mode.ne_off_of_online hm) hfound rfl hopen htaken
  have hexec : exec (.engTokens h v) s = onUnit (decide (h < 16)) s (hostWrite (0x3401 + h) 6 v s) := rfl
  rw [hexec, hwrite]
  exact onUnit_present _ _ (decide_eq_true hlt)

theorem setTokens_token (s : State) (h : Nat) (v : List Byte) {k : Nat} (hk : k < 64) :
    (tabGet 0#16 ((setTokens s h v).harbour h).tokens k).toNat = leNat (slice v (2 * k) 2) := by
  have hlt := leNat_lt (slice v (2 * k) 2)
  rw [slice_length] at hlt
  rw [setTokens, State.harbour_modHarbour]
  dsimp only
  rw [tabGet_map_listed 0#16 (fun k => BitVec.ofNat 16 (leAt v (2 * k) 2)) (List.mem_range.mpr hk), BitVec.toNat_ofNat]
  exact Nat.mod_eq_of_lt hlt

/-! ### ENG_RESUME -/

/-- A bit taken off a number that has it. -/
theorem testBit_sub_two_pow {m q : Nat} (hm : m.testBit q = true) (p : Nat) :
    (m - 2 ^ q).testBit p = if p = q then false else m.testBit p := by
  have hodd : m / 2 ^ q % 2 = 1 := by simpa [Nat.testBit_eq_decide_div_mod_eq] using hm
  have hlow : m % 2 ^ q < 2 ^ q := Nat.mod_lt _ (Nat.two_pow_pos q)
  have hm' : m = 2 ^ q * (m / 2 ^ q) + m % 2 ^ q := (Nat.div_add_mod ..).symm
  obtain ⟨a, ha⟩ : ∃ a, m / 2 ^ q = 2 * a + 1 := ⟨m / 2 ^ q / 2, by omega⟩
  generalize m % 2 ^ q = r at hlow hm'
  have hsub : m - 2 ^ q = 2 ^ q * (2 * a) + r := by
    rw [hm', ha, Nat.mul_add, Nat.mul_one]
    omega
  rw [hsub, Nat.testBit_two_pow_mul_add _ hlow]
  have hmp : m.testBit p = if p < q then r.testBit p else (2 * a + 1).testBit (p - q) := by
    rw [hm', ha, Nat.testBit_two_pow_mul_add _ hlow]
  rw [hmp]
  by_cases hlt : p < q
  · rw [if_pos hlt, if_neg (by omega), if_pos hlt]
  · rw [if_neg hlt, if_neg hlt]
    by_cases heq : p = q
    · subst heq; simp
    · obtain ⟨k, hk⟩ : ∃ k, p - q = k + 1 := ⟨p - q - 1, by omega⟩
      rw [hk, if_neg heq, Nat.testBit_succ, Nat.testBit_succ, show (2 * a + 1) / 2 = 2 * a / 2 by omega]

theorem queueHalted_resumeQueue (s : State) (h e q p : Nat) :
    queueHalted (resumeQueue s h e q) h e p = if p = q then false else queueHalted s h e p := by
  simp only [queueHalted, resumeQueue, State.reg_setReg_same]
  by_cases hm : bit (s.reg Reg.engHalted (8 * h + e)) q = true
  · rw [if_pos hm]
    exact testBit_sub_two_pow hm p
  · rw [if_neg hm]
    split
    · next hp => rw [hp]; simpa using hm
    · rfl

theorem exec_engResume {s : State} {h e q : Nat} (hh : s.hasHarbour h = true) (he : e < 5) (hq : q < 4) (hm : s.mode.online = true) :
    exec (.engResume h e [BitVec.ofNat 8 q]) s = done s ((resumeQueue s h e q).emit (.status 0)) := by
  have hlt := hasHarbour_lt hh
  have hval : leNat [BitVec.ofNat 8 q] = q := by
    simp only [leNat, BitVec.toNat_ofNat]
    omega
  have howner : ownerWrite (standingInputs s) engResumeRow.reg (engResumeRow.unit (0x3411 + (8 * h + e))) (6 - engResumeRow.reg.sub)
      (leNat [BitVec.ofNat 8 q]) s = (scOk, resumeQueue s h e q) := by
    rw [hval, show engResumeRow.unit (0x3411 + (8 * h + e)) = 8 * h + e from Nat.add_sub_cancel_left ..]
    have hrule (n : Nat) : ownerWrite (standingInputs s) Reg.engResume n 0 q s = (scOk, resumeQueue s (n / 8) (n % 8) q) := rfl
    exact (hrule _).trans (by rw [show (8 * h + e) / 8 = h by omega, show (8 * h + e) % 8 = e by omega])
  have hwrite : hostWrite (0x3411 + (8 * h + e)) 6 [BitVec.ofNat 8 q] s = (resumeQueue s h e q).emit (.status 0) :=
    hostWrite_accepted engineRows_mem.2.1 (ObjRow.holds_unit (r := engResumeRow) (n := 8 * h + e) (by show _ < 128; omega) (by decide))
      (engine_present hh he) (Mode.ne_off_of_online hm) rfl (if_pos (.inl hm)) rfl
      (by rw [hval]; simp only [engResumeRow, Check.ok, Bool.and_eq_true, decide_eq_true_eq]; omega) howner
  have hexec : exec (.engResume h e [BitVec.ofNat 8 q]) s =
      onUnit (decide (h < 16) && decide (e < 5)) s (hostWrite (0x3411 + (8 * h + e)) 6 [BitVec.ofNat 8 q] s) := rfl
  rw [hexec, hwrite]
  exact onUnit_present _ _ (by simp [hlt, he])

/-! ### CACHE_HOLD_DIRECT_MIB -/

theorem tabGet_filter_none {α : Type} (d : α) (p : Nat × α → Bool) (t : List (Nat × α)) {a : Nat} (hp : ∀ v, p (a, v) = false) :
    tabGet d (t.filter p) a = d := by
  induction t with
  | nil => rfl
  | cons e t ih =>
    obtain ⟨k, v⟩ := e
    rw [List.filter_cons]
    split
    · next hkv =>
      have hk : k ≠ a := by rintro rfl; simp [hp] at hkv
      rw [tabGet, if_neg hk, ih]
    · exact ih

/-- What has been cleared reads 0, in any memory. -/
theorem storeGet_storeClear {w : Nat} (m : Store w) {lo hi a : Nat} (hlo : lo ≤ a) (hhi : a < hi) : storeGet (storeClear m lo hi) a = 0#w :=
  tabGet_filter_none _ _ _ fun v => by simp [Nat.not_lt.2 hlo, Nat.not_le.2 hhi]

theorem exec_holdDirect {s : State} {h v : Nat} (hh : s.hasHarbour h = true) (hm : s.mode = .held) (ha : s.act.phase = 0) (h4 : v % 4 = 0)
    (hlo : 4 ≤ v) (hhi : v ≤ 28) : exec (.cacheHoldDirectMib h [BitVec.ofNat 8 v]) s = done s ((directWrite s h v).emit (.status 0)) := by
  have hlt := hasHarbour_lt hh
  have hval : leNat [BitVec.ofNat 8 v] = v := by
    simp only [leNat, BitVec.toNat_ofNat]
    omega
  have howner : ownerWrite (standingInputs s) holdDirectRow.reg (holdDirectRow.unit (0x3801 + h)) (1 - holdDirectRow.reg.sub)
      (leNat [BitVec.ofNat 8 v]) s = (scOk, directWrite s h v) := by
    rw [hval, show holdDirectRow.unit (0x3801 + h) = h from Nat.add_sub_cancel_left ..]
    rfl
  have hwrite : hostWrite (0x3801 + h) 1 [BitVec.ofNat 8 v] s = (directWrite s h v).emit (.status 0) :=
    hostWrite_accepted engineRows_mem.2.2.1 (ObjRow.holds_unit (r := holdDirectRow) (n := h) hlt (by decide))
      (hold_present hh) (by simp [hm]) rfl (if_pos ⟨hm, ha⟩) rfl (by rw [hval]; simp [holdDirectRow, Check.ok, h4, hlo, hhi]) howner
  have hexec : exec (.cacheHoldDirectMib h [BitVec.ofNat 8 v]) s = onUnit (decide (h < 16)) s (hostWrite (0x3801 + h) 1 [BitVec.ofNat 8 v] s) := rfl
  rw [hexec, hwrite]
  exact onUnit_present _ _ (decide_eq_true hlt)

/-- A new size of the direct region: the hold is empty, and the region reads 0. -/
theorem directWrite_spec (s : State) (h v : Nat) : (directWrite s h v).reg Reg.cacheHoldDirectMib h = v ∧
    ((directWrite s h v).harbour h).hold = [] ∧ ∀ a < v * 1048576, (directWrite s h v).byte (mkAddr 1 h a) = 0#8 := by
  refine ⟨State.reg_setReg_same .., ?_, fun a ha => ?_⟩
  · show (((s.count Reg.cacheHoldWritebacks h 64 _).modHarbour h fun x => { x with hold := [] }).harbour h).hold = []
    rw [State.harbour_modHarbour]
  refine storeGet_storeClear _ ?_ ?_
  · unfold mkAddr; omega
  · unfold mkAddr; omega

/-! ### ENG_COMPLETIONS -/

/-- Records of 16 bytes each, from the record `i` on. -/
theorem flatMap_drop {α : Type} (f : α → List Byte) {n : Nat} (hf : ∀ x, (f x).length = n) (l : List α) (i : Nat) :
    (l.flatMap f).drop (n * i) = (l.drop i).flatMap f := by
  induction i generalizing l with
  | zero => simp
  | succ i ih =>
    cases l with
    | nil => simp
    | cons x l =>
      rw [List.flatMap_cons, List.drop_succ_cons, ← ih l, Nat.mul_succ, Nat.add_comm, ← List.drop_drop, ← hf x, List.drop_left]

/-- Entry `i` of bytes made of entries of one length. -/
theorem slice_flatMap {α : Type} (f : α → List Byte) {n : Nat} (hf : ∀ x, (f x).length = n) (l : List α) {i : Nat} (hi : i < l.length) :
    slice (l.flatMap f) (n * i) n = f l[i] := by
  have htake : ((l.flatMap f).drop (n * i)).take n = f l[i] := by
    rw [flatMap_drop f hf, List.drop_eq_getElem_cons hi, List.flatMap_cons]
    exact List.take_left' (hf _)
  rw [slice, htake, hf, Nat.sub_self]
  exact List.append_nil _

theorem leNat_record (r : BitVec 128) : BitVec.ofNat 128 (leNat (leBytes 16 r.toNat)) = r := by
  have hsize : 256 ^ 16 = 2 ^ 128 := by norm_num
  rw [leNat_leBytes, hsize, Nat.mod_eq_of_lt r.isLt, BitVec.ofNat_toNat, BitVec.setWidth_eq]

/-- The records that bytes of records hold are those records. -/
theorem recordsIn_bytes (l : List (BitVec 128)) : recordsIn (l.flatMap fun r => leBytes 16 r.toNat) = l := by
  refine List.ext_getElem ?_ fun i hi hi' => ?_
  · simp [recordsIn]
  · simp only [recordsIn, List.getElem_map, List.getElem_range, leAt]
    rw [slice_flatMap (fun r : BitVec 128 => leBytes 16 r.toNat) (fun r => leBytes_length 16 r.toNat) l hi']
    exact leNat_record _

/-- The records at the front leave one by one. -/
theorem foldl_erase_take {α : Type} [BEq α] [LawfulBEq α] (l : List α) (k : Nat) : (l.take k).foldl (fun l r => l.erase r) l = l.drop k := by
  induction k generalizing l with
  | zero => simp
  | succ k ih =>
    cases l with
    | nil => simp
    | cons x l => simp [ih l]

theorem takeCompletions_front {s : State} {h k : Nat} : ((takeCompletions s h (((s.harbour h).completions.take k).flatMap fun r =>
    leBytes 16 r.toNat)).harbour h).completions = (s.harbour h).completions.drop k := by
  rw [takeCompletions, State.harbour_modHarbour, recordsIn_bytes]
  exact foldl_erase_take _ _

theorem sayTo_head (s : State) (via : Via) (bs : List Byte) : ∃ o, (sayTo s via bs).outbox.head? = some o ∧
    (o = .answer via bs ∨ ∃ mac, o = .udp mac via bs) := by
  unfold sayTo
  split
  · exact ⟨_, rfl, .inr ⟨_, rfl⟩⟩
  · exact ⟨_, rfl, .inl rfl⟩

theorem sayTo_harbour (s : State) (via : Via) (bs : List Byte) (h : Nat) : (sayTo s via bs).harbour h = s.harbour h := by
  unfold sayTo
  split <;> rfl

theorem takeSnapshot_harbours (s : State) (via : Via) (key : Nat) (bs : List Byte) (b : Bool) : (takeSnapshot s via key bs b).harbours = s.harbours := by
  have hold (t : State) : (endOldest t via).harbours = t.harbours := by
    unfold endOldest
    dsimp only
    split
    · rfl
    · split <;> rfl
  unfold takeSnapshot
  dsimp only
  show (if _ then _ else _ : State).harbours = _
  split
  · rfl
  · exact hold _

section
variable {s : State} {via : Via} {h : Nat} (hh : s.hasHarbour h = true) (hoff : s.mode ≠ .off) (hboot : s.mode ≠ .boot)
include hh

theorem engCompletions_found : findObject s (0x3401 + h) 13 = .object engCompletionsRow :=
  findObject_of_mem engineRows_mem.2.2.2 (ObjRow.holds_unit (r := engCompletionsRow) (hasHarbour_lt hh) (by decide)) (group_present hh)

include hboot

/-- A read that opens its session shows the published ring. -/
theorem engCompletions_content : (readOne s via (0x3401 + h) 13).2 = tabGet [] s.pubDomains (Reg.engCompletions.key h) := by
  have hstate : readState s via (0x3401 + h) = scOk := if_neg (by simp [hboot])
  have hmuted : hazardMuted s (0x3401 + h) = false := by
    have hlt := hasHarbour_lt hh
    have hin : indexIn (0x3401 + h) 0x4400 2 = false := by
      rw [Bool.eq_false_iff, Ne, indexIn_iff]
      omega
    rw [hazardMuted, hin, Bool.false_and]
  simp only [readOne, hstate, engCompletions_found hh]
  show shownContent s engCompletionsRow (0x3401 + h) 13 = _
  unfold shownContent
  simp only [hmuted]
  rfl

theorem engCompletions_check : domainReadCheck s via (0x3401 + h) 13 = 0 := by
  have hstate : readState s via (0x3401 + h) = scOk := if_neg (by simp [hboot])
  simp only [domainReadCheck, hstate, engCompletions_found hh]
  rfl

include hoff

/-- A whole read of the published records delivers them, and takes them out of the ring. -/
theorem completionsRead_whole {bs : List Byte} (hopen : openRead s via (Reg.engCompletions.key h) = none)
    (hpub : tabGet [] s.pubDomains (Reg.engCompletions.key h) = bs) : completionsRead s via h =
      sayTo (takeCompletions (dropSnapshot (takeSnapshot s via (Reg.engCompletions.key h) bs true) via (Reg.engCompletions.key h)) h bs) via bs := by
  have hlt := hasHarbour_lt hh
  have hread := (engCompletions_content (via := via) hh hboot).trans hpub
  have hcheck : domainReadCheck s via (Reg.engCompletions.base + h) Reg.engCompletions.sub = 0 := engCompletions_check hh hboot
  have hcontent : readContent s via (Reg.engCompletions.base + h) Reg.engCompletions.sub
      (openRead s via ((Reg.engCompletions.base + h) * 256 + Reg.engCompletions.sub)).isNone =
      some (bs, takeSnapshot s via (Reg.engCompletions.key h) bs true) := by
    rw [show openRead s via ((Reg.engCompletions.base + h) * 256 + Reg.engCompletions.sub) = none from hopen, ← hread]
    rfl
  have hafter (t : State) : afterRead t (Reg.engCompletions.base + h) Reg.engCompletions.sub bs = takeCompletions t h bs := by
    have hat : completionsAt (0x3401 + h) 13 = some h := by
      rw [completionsAt, if_pos ⟨indexIn_iff.mpr (by omega), rfl⟩, Nat.add_sub_cancel_left]
    show afterRead t (0x3401 + h) 13 bs = _
    rw [afterRead, if_neg (by omega), hat]
  simp only [completionsRead, if_neg hoff, hcheck, hcontent, endRead, hafter]
  rfl

end

theorem exec_completionsRead {s : State} {via : Via} {h k : Nat} {bs : List Byte} (hh : s.hasHarbour h = true) (hoff : s.mode ≠ .off)
    (hboot : s.mode ≠ .boot) (hopen : openRead s via (Reg.engCompletions.key h) = none)
    (hpub : tabGet [] s.pubDomains (Reg.engCompletions.key h) = bs) (hbs : bs = ((s.harbour h).completions.take k).flatMap fun r => leBytes 16 r.toNat) :
    ∃ t o, exec (.engCompletionsRead via h) s = .next t ∧ t.outbox.head? = some o ∧ (o = .answer via bs ∨ ∃ mac, o = .udp mac via bs) ∧
      (t.harbour h).completions = (s.harbour h).completions.drop k := by
  have hexec : exec (.engCompletionsRead via h) s = .next { completionsRead s via h with pending := s.pending } :=
    onUnit_present _ _ (decide_eq_true (hasHarbour_lt hh))
  rw [completionsRead_whole hh hoff hboot hopen hpub] at hexec
  have hsame : (dropSnapshot (takeSnapshot s via (Reg.engCompletions.key h) bs true) via (Reg.engCompletions.key h)).harbour h = s.harbour h :=
    congrArg (tabGet Harbour.empty · h) (takeSnapshot_harbours s via _ bs true)
  generalize dropSnapshot (takeSnapshot s via (Reg.engCompletions.key h) bs true) via (Reg.engCompletions.key h) = u at *
  obtain ⟨o, hhead, ho⟩ := sayTo_head (takeCompletions u h bs) via bs
  refine ⟨_, o, hexec, hhead, ho, (congrArg Harbour.completions (sayTo_harbour (takeCompletions u h bs) via bs h)).trans ?_⟩
  rw [hbs, ← hsame]
  exact takeCompletions_front

/-- Settles O38: the stack's clauses are those of refreshes and hbmScrubs, the host's those of its four objects. -/
theorem stacksAndHostEngineRegisters : Obligations.StacksAndHostEngineRegisters := by
  unfold Obligations.StacksAndHostEngineRegisters
  refine ⟨fun s h hh => ?_, fun s h hh hlt => ?_⟩
  · have hrefresh (bank : Nat) : exec (.hbmRefresh h bank) s = .next { (if stackReady s h then refreshes s h bank else s) with pending := s.pending } :=
      onUnit_present _ _ hh
    have hscrub (line : Nat) (c : EccReport) : exec (.hbmScrub h line c) s = .next { hbmScrubs s h line c with pending := s.pending } :=
      onUnit_present _ _ hh
    refine ⟨fun bank hready => ?_, fun line c hready hon hline hbound => ?_, fun line c hline => ?_, fun n c hready => ⟨?_, ?_⟩⟩
    · refine ⟨_, hrefresh bank, ?_⟩
      rw [if_pos hready]
      show tabGet 0 ((refreshes s h bank).harbour h).refreshAt bank = _
      rw [refreshes, State.harbour_modHarbour]
      exact tabGet_tabSet_same _ _ _ _
    · obtain ⟨hnext, hpass, hcor, hunc, hbad⟩ := hbmScrubs_spec (hasHarbour_lt hh) c hready hon hline hbound
      exact ⟨_, hscrub line c, hnext, hpass, hcor, hunc, fun hc => hbad (by simpa [eccBad] using hc)⟩
    · rw [hscrub, hbmScrubs_otherLine c hline]
    · rw [hrefresh, hready]; rfl
    · rw [hscrub, hbmScrubs_notReady n c hready]
  · refine ⟨fun v hm hv hfree => ?_, fun e q he hq hm => ?_, fun v hm ha h4 hlo hhi => ?_, fun via k hoff hboot hopen hpub => ?_⟩
    · exact ⟨_, exec_engTokens hh hm hv hfree, rfl, fun k hk => setTokens_token s h v hk⟩
    · exact ⟨_, exec_engResume hh he hq hm, rfl, (queueHalted_resumeQueue s h e q q).trans (if_pos rfl),
        fun p hp => (queueHalted_resumeQueue s h e q p).trans (if_neg hp)⟩
    · obtain ⟨hreg, hhold, hbytes⟩ := directWrite_spec s h v
      exact ⟨_, exec_holdDirect hh hm ha h4 hlo hhi, rfl, hreg, hhold, hbytes⟩
    · exact exec_completionsRead hh hoff hboot hopen hpub rfl

end Sys2Proof.Machine
end

section
/-! SUPPORT. What a temper's next instruction leaves: the whole state that its body left, with the kernel gone on, ended, or waiting to
issue (R193, R199, R214). -/

namespace Sys2Proof.Machine

/-! ### A change of one kernel -/

/-- Between two states only the kernel of a temper has moved: it is `z` now. -/
structure KernelLeft (s t : State) (h k : Nat) (z : Kernel) : Prop where
  rest : t = { s with harbours := t.harbours, pending := t.pending }
  harbour : ∀ a, ∃ x y, t.harbour a = { s.harbour a with temper0 := x, temper1 := y }
  temper : t.temper h k = { s.temper h k with kernel := some z }

namespace KernelLeft

theorem modKernel {s : State} {h k : Nat} {y : Kernel} (hy : (s.temper h k).kernel = some y) (g : Kernel → Kernel) :
    KernelLeft s (Machine.modKernel s h k g) h k (g y) where
  rest := rfl
  harbour a := by
    unfold Machine.modKernel
    by_cases ha : h = a
    · subst ha; exact setTemper_harbour _ _ _ _
    · exact ⟨_, _, State.harbour_modHarbour_other _ _ ha⟩
  temper := by rw [Machine.modKernel, State.temper_setTemper, hy]; rfl

theorem kernel {s t : State} {h k : Nat} {z : Kernel} (l : KernelLeft s t h k z) : (t.temper h k).kernel = some z := by
  rw [l.temper]

theorem trans {s t u : State} {h k : Nat} {y z : Kernel} (l : KernelLeft s t h k y) (m : KernelLeft t u h k z) : KernelLeft s u h k z where
  rest := by rw [m.rest, l.rest]
  harbour a := by
    obtain ⟨x, y, ha⟩ := m.harbour a
    obtain ⟨x', y', ha'⟩ := l.harbour a
    exact ⟨x, y, by rw [ha, ha']⟩
  temper := by rw [m.temper, l.temper]

theorem withPending {s t : State} {h k : Nat} {z : Kernel} (l : KernelLeft s t h k z) (p : List Instr) :
    KernelLeft s { t with pending := p } h k z where
  rest := by rw [l.rest]
  harbour a := l.harbour a
  temper := l.temper

section
variable {s t : State} {h k : Nat} {z : Kernel} (l : KernelLeft s t h k z)
include l

theorem mem : t.mem = s.mem := by rw [l.rest]

theorem byte (a : Nat) : t.byte a = s.byte a := congrArg (storeGet · a) l.mem

theorem dq (a d : Nat) : (t.harbour a).dq d = (s.harbour a).dq d := by
  obtain ⟨x, y, ha⟩ := l.harbour a
  rw [ha]
  rfl

theorem ordered (a : Nat) : (t.harbour a).ordered = (s.harbour a).ordered := by
  obtain ⟨x, y, ha⟩ := l.harbour a
  rw [ha]

theorem reductions (a : Nat) : (t.harbour a).reductions = (s.harbour a).reductions := by
  obtain ⟨x, y, ha⟩ := l.harbour a
  rw [ha]

end

end KernelLeft

/-! ### A kernel ends -/

/-- A kernel that ends with a status and a detail. -/
def Kernel.endsWith (x : Kernel) (status detail : Nat) : Kernel :=
  if x.ended then x
  else if status = 0 then { x with ended := true }
  else { x with ended := true, status := status, detail := detail }

theorem endKernel_left {s : State} {h k : Nat} {y : Kernel} (hy : (s.temper h k).kernel = some y) (a b : Nat) :
    KernelLeft s (endKernel s h k a b) h k (y.endsWith a b) := .modKernel hy fun x => x.endsWith a b

section
variable (x : Kernel) (a b : Nat)

theorem Kernel.endsWith_ar : (x.endsWith a b).ar = x.ar := by
  unfold Kernel.endsWith
  split
  · rfl
  · split <;> rfl

theorem Kernel.endsWith_rf : (x.endsWith a b).rf = x.rf := by
  unfold Kernel.endsWith
  split
  · rfl
  · split <;> rfl

theorem Kernel.endsWith_slot : (x.endsWith a b).slot = x.slot := by
  unfold Kernel.endsWith
  split
  · rfl
  · split <;> rfl

theorem Kernel.endsWith_pos : (x.endsWith a b).pos = x.pos := by
  unfold Kernel.endsWith
  split
  · rfl
  · split <;> rfl

end

/-- A kernel that runs is ended by it, with the status and detail that it had where it ends with status 0. -/
theorem Kernel.endsWith_running {x : Kernel} (hx : x.ended = false) (a b : Nat) : (x.endsWith a b).ended = true ∧
    (x.endsWith a b).status = (if a = 0 then x.status else a) ∧ (x.endsWith a b).detail = if a = 0 then x.detail else b := by
  unfold Kernel.endsWith
  rw [hx]
  by_cases ha : a = 0 <;> simp [ha]

/-! ### The next instruction -/

/-- The word after an instruction of a kernel: the target of a branch that is taken, or the one that follows. -/
def nextPos (op : Nat) (f : AnvilFields) (rf : Regfile) (pos : Nat) : Nat :=
  if op = 0x3C && predOn rf f then xf f 0 14 else pos + 1

/-- A kernel on its next word. -/
def Kernel.goesOn (x : Kernel) (op : Nat) (sh : Shape) (f : AnvilFields) (rf : Regfile) (y : Kernel) : Kernel :=
  { y with
    rf := rf, slot := x.slot + repeats x.rep * sh.slots, pos := nextPos op f x.rf x.pos, rep := nextRepeat op f false, done := none,
    arrived := [] }

/-- The kernel that an instruction leaves: on its next word, or ended by a stop or by the end of its code. -/
def Kernel.leaves (x : Kernel) (op : Nat) (sh : Shape) (f : AnvilFields) (r : Ran) (y : Kernel) : Kernel :=
  match r.stop with
  | some p => (x.goesOn op sh f r.rf y).endsWith p.1 p.2
  | none => if x.len ≤ nextPos op f x.rf x.pos then (x.goesOn op sh f r.rf y).endsWith 0 0 else x.goesOn op sh f r.rf y

theorem kernelNext_left {op h k : Nat} {sh : Shape} {f : AnvilFields} {x y : Kernel} {r : Ran} (hy : (r.s.temper h k).kernel = some y) :
    KernelLeft r.s (kernelNext op sh f h k x r) h k (x.leaves op sh f r y) := by
  have hon : KernelLeft r.s (modKernel r.s h k (x.goesOn op sh f r.rf)) h k (x.goesOn op sh f r.rf y) := .modKernel hy _
  unfold kernelNext Kernel.leaves
  cases r.stop with
  | some p => exact hon.trans (endKernel_left hon.kernel _ _)
  | none =>
    refine iteInduction (motive := fun t => KernelLeft r.s t h k _) (fun hlen => ?_) fun hlen => ?_
    · rw [nextPos, if_pos hlen]
      exact hon.trans (endKernel_left hon.kernel _ _)
    · rw [nextPos, if_neg hlen]
      exact hon

/-- What stands of a kernel after its next instruction, from the kernel `y` that its body left. -/
structure LeftKernel (op : Nat) (sh : Shape) (f : AnvilFields) (r : Ran) (y z : Kernel) : Prop where
  ar : z.ar = y.ar
  rf : z.rf = r.rf
  slot : z.slot = y.slot + sh.slots
  pos : z.pos = nextPos op f z.rf y.pos
  stopped : ∀ p, r.stop = some p → z.ended = true ∧ z.status = (if p.1 = 0 then y.status else p.1) ∧
    z.detail = if p.1 = 0 then y.detail else p.2

theorem Kernel.leaves_kernel {op : Nat} {sh : Shape} {f : AnvilFields} {x y : Kernel} {r : Ran} (hp : y.place = x.place)
    (hrep : x.rep = none) (he : x.ended = false) (hrf : op = 0x3C → x.rf = r.rf) : LeftKernel op sh f r y (x.leaves op sh f r y) := by
  simp only [Kernel.place, Prod.mk.injEq] at hp
  obtain ⟨hslot, hpos, -, hended⟩ := hp
  have hnext : nextPos op f x.rf x.pos = nextPos op f r.rf y.pos := by
    rw [hpos]
    by_cases hop : op = 0x3C
    · rw [hrf hop]
    · simp [nextPos, hop]
  have hslots : x.slot + repeats x.rep * sh.slots = y.slot + sh.slots := by rw [hrep, hslot, repeats, Nat.one_mul]
  unfold Kernel.leaves
  refine ⟨?_, ?_, ?_, ?_, fun p hstop => ?_⟩
  · split
    · exact Kernel.endsWith_ar ..
    · split
      · exact Kernel.endsWith_ar ..
      · rfl
  · split
    · exact Kernel.endsWith_rf ..
    · split
      · exact Kernel.endsWith_rf ..
      · rfl
  · rw [← hslots]
    split
    · exact Kernel.endsWith_slot ..
    · split
      · exact Kernel.endsWith_slot ..
      · rfl
  · split
    · rw [Kernel.endsWith_pos, Kernel.endsWith_rf]
      exact hnext
    · split
      · rw [Kernel.endsWith_pos, Kernel.endsWith_rf]
        exact hnext
      · exact hnext
  · rw [hstop]
    exact Kernel.endsWith_running (x := x.goesOn op sh f r.rf y) (hended.trans he) p.1 p.2

/-- What an instruction that is next on a temper leaves, where its body does not hold it up. -/
theorem temper_leaves {op h k : Nat} {body : Body} {f : AnvilFields} {s : State} {rf : Regfile} {sh : Shape} {r : Ran} {y : Kernel}
    (hr : readyAt s (.temper h k) op f rf) (hs : shapeOf op f = some sh)
    (hrun : runOnce op body (seatExec s (.temper h k)) f { s := seatState s (.temper h k), rf := rf, stop := none } = r)
    (hk : keepsSeat s r.s (.temper h k)) (hw : r.wait = false) (hrf : op = 0x3C → r.rf = rf) (hy : (r.s.temper h k).kernel = some y) :
    ∃ t z, anvil op body (.temper h k) f s = .next t ∧ KernelLeft r.s t h k z ∧ LeftKernel op sh f r y z := by
  obtain ⟨x, l, hx, hrep, hnext⟩ := kernel_runs hr hs r hrun hk hw
  have hseat : s.hasSeat (.temper h k) = true := by simp [State.hasSeat, hr.2.1, hr.2.2.1]
  obtain ⟨-, -, -, -, -, x', hx', hxrf, he, -⟩ := hr
  cases hx.symm.trans hx'
  have hplace : y.place = x.place := by
    have := hk.1
    rw [hy, hx] at this
    simpa using this
  have hexec : anvil op body (.temper h k) f s = .next { runKernel op body h k f s with pending := s.pending } := by
    simp only [anvil]
    rw [hseat]
    rfl
  rw [hexec, hnext]
  cases hstop : r.stop with
  | some p =>
    exact ⟨_, _, rfl, (kernelNext_left hy).withPending _,
      Kernel.leaves_kernel (x := { x with arrived := l, done := some 0 }) hplace hrep he fun hop => hxrf.trans (hrf hop).symm⟩
  | none =>
    have hdone := KernelLeft.modKernel hy fun y => { y with rf := r.rf, done := some 1, arrived := [] }
    have hleft : seatNext op sh f (.temper h k) s r = kernelNext op sh f h k { y with rf := r.rf, done := some 1, arrived := [] }
        { s := modKernel r.s h k fun y => { y with rf := r.rf, done := some 1, arrived := [] }, rf := r.rf, stop := none } := by
      simp only [seatNext, hstop, hdone.kernel]
    rw [hleft]
    have hplace' := hplace
    simp only [Kernel.place, Prod.mk.injEq] at hplace'
    obtain ⟨-, -, hrep', hended⟩ := hplace'
    have hkernel := Kernel.leaves_kernel (op := op) (sh := sh) (f := f) (x := { y with rf := r.rf, done := some 1, arrived := [] })
      (y := { y with rf := r.rf, done := some 1, arrived := [] }) (r := { s := r.s, rf := r.rf, stop := none }) rfl (hrep'.trans hrep)
      (hended.trans he) fun _ => rfl
    have hlast := kernelNext_left (op := op) (sh := sh) (f := f) (x := { y with rf := r.rf, done := some 1, arrived := [] })
      (r := { s := modKernel r.s h k fun y => { y with rf := r.rf, done := some 1, arrived := [] }, rf := r.rf, stop := none }) hdone.kernel
    refine ⟨_, _, rfl, (hdone.trans hlast).withPending _, ?_⟩
    obtain ⟨har, hrfz, hslot, hpos, -⟩ := hkernel
    exact ⟨har, hrfz, hslot, hpos, fun p hp => by rw [hstop] at hp; cases hp⟩

end Sys2Proof.Machine
end

section
/-! SUPPORT. The kernel of a temper while its instruction works: what reads and writes through the first levels leave of it, and its
address registers (R193, R213, R214). -/

namespace Sys2Proof.Machine

/-! ### The kernel at work -/

/-- The kernel of a temper is `y`, but for the lines that have come for its instruction. -/
def KernelAt (s : State) (h k : Nat) (y : Kernel) : Prop := ∃ l, (s.temper h k).kernel = some { y with arrived := l }

/-- A kernel that has fetched its next instruction and counted it against its budget. -/
def Kernel.fetched (x : Kernel) : Kernel := { x with executed := x.executed + 1, done := some 0 }

theorem State.store_temper (s : State) (a : Nat) (bs : List Byte) (h k : Nat) : (s.store a bs).temper h k = s.temper h k :=
  State.temper_of_harbours rfl h k

section
variable {s : State} {h k : Nat} {y : Kernel} (hy : KernelAt s h k y)
include hy

theorem KernelAt.of_kernel {t : State} (ht : (t.temper h k).kernel = (s.temper h k).kernel) : KernelAt t h k y := by
  rw [KernelAt, ht]
  exact hy

theorem KernelAt.of_temper {t : State} (ht : t.temper h k = s.temper h k) : KernelAt t h k y := hy.of_kernel (by rw [ht])

theorem kernelAt_firstRead (c a : Nat) : KernelAt (firstRead s h k c a).1 h k y := by
  obtain ⟨g, hg, hgx⟩ := firstRead_kernel s h k c a
  obtain ⟨l, hl⟩ := hy
  exact ⟨(g { y with arrived := l }).arrived, by rw [hg, hl, Option.map_some, hgx]⟩

theorem kernelAt_temperBits (c a : Nat) : KernelAt (temperBits s h k c a).s h k y := by
  unfold temperBits
  dsimp only
  split
  · exact kernelAt_firstRead hy _ _
  · exact kernelAt_firstRead (kernelAt_firstRead hy _ _) _ _

theorem kernelAt_firstInstall (c : Nat) (v : CLine) : KernelAt (firstInstall s h k c v) h k y :=
  hy.of_kernel (firstInstall_temper s h k c v).1

theorem kernelAt_firstPut (a n v : Nat) : KernelAt (firstPut s h k a n v).1 h k y := by
  have hread := kernelAt_firstRead hy 0 a
  unfold firstPut
  dsimp only
  split
  · exact kernelAt_firstInstall hread _ _
  · exact hread.of_temper (sendWrite_temper ..)

theorem kernelAt_temperStore (a : Nat) (v : Word256) : KernelAt (temperStore s h k a v).1 h k y := by
  unfold temperStore
  dsimp only
  split
  · exact hy.of_temper (State.store_temper ..)
  · split
    · exact hy.of_temper (sendWrite_temper ..)
    · split
      · exact kernelAt_firstPut hy _ _ _
      · exact kernelAt_firstPut (kernelAt_firstPut hy _ _ _) _ _ _

theorem arOf_kernelAt (n : Nat) : arOf s h k n = (listGet 0#64 y.ar (n % 8)).toNat := by
  obtain ⟨l, hl⟩ := hy
  rw [arOf, hl]
  rfl

end

theorem seatState_kernelAt {s : State} {h k : Nat} {x : Kernel} (hx : (s.temper h k).kernel = some x) :
    KernelAt (seatState s (.temper h k)) h k x.fetched := by
  obtain ⟨l, hl⟩ := seatFetch_kernel hx
  refine ⟨l, ?_⟩
  simp only [seatState, hx, modKernel_kernel, hl]
  rfl

theorem seatState_wants {op : Nat} {s : State} {h k : Nat} {f : AnvilFields} {rf : Regfile} (hr : readyAt s (.temper h k) op f rf) :
    (seatState s (.temper h k)).wants h k = [] := (keepsSeat_state hr).2

theorem State.wants_of_temper {s t : State} {h k : Nat} (ht : t.temper h k = s.temper h k) : t.wants h k = s.wants h k := by
  rw [State.wants, ht, State.wants]

/-! ### Address registers -/

/-- AR + offset, modulo 2^64 (Table 8.6). -/
def steppedAddr (ar : List (BitVec 64)) (n : Nat) (f : AnvilFields) : Nat := toCode 64 (((listGet 0#64 ar (n % 8)).toNat : Int) + arOffset f)

/-- The address registers after the post-add of X[24]. -/
def steppedAr (ar : List (BitVec 64)) (n : Nat) (f : AnvilFields) : List (BitVec 64) :=
  if f.x.getLsbD 24 then listSet ar (n % 8) (BitVec.ofNat 64 (steppedAddr ar n f)) else ar

theorem ofInt_eq_toCode (v : Int) : BitVec.ofInt 64 v = BitVec.ofNat 64 (toCode 64 v) := by
  apply BitVec.eq_of_toNat_eq
  rw [BitVec.toNat_ofInt, BitVec.toNat_ofNat, toCode, Nat.mod_eq_of_lt]
  omega

theorem kernelAt_setAr {s : State} {h k : Nat} {y : Kernel} (hy : KernelAt s h k y) (n : Nat) (v : Int) :
    KernelAt (setAr s h k n v) h k { y with ar := listSet y.ar (n % 8) (BitVec.ofInt 64 v) } := by
  obtain ⟨l, hl⟩ := hy
  exact ⟨l, by rw [setAr, modKernel_kernel, hl]; rfl⟩

theorem setAr_wants (s : State) (h k n : Nat) (v : Int) : (setAr s h k n v).wants h k = s.wants h k := modKernel_wants ..

section
variable {s : State} {h k : Nat} {y : Kernel} (hy : KernelAt s h k y) (n : Nat) (f : AnvilFields)
include hy

theorem arAddr_kernelAt : arAddr s h k n f = steppedAddr y.ar n f := by
  rw [arAddr, arOf_kernelAt hy, steppedAddr]

theorem kernelAt_postAdd : KernelAt (postAdd s h k n f) h k { y with ar := steppedAr y.ar n f } := by
  unfold postAdd steppedAr
  split
  · have hset := kernelAt_setAr hy n ((arOf s h k n : Int) + arOffset f)
    rw [ofInt_eq_toCode, arOf_kernelAt hy] at hset
    rw [arOf_kernelAt hy]
    exact hset
  · exact hy

end

theorem postAdd_wants (s : State) (h k n : Nat) (f : AnvilFields) : (postAdd s h k n f).wants h k = s.wants h k := by
  unfold postAdd
  split
  · exact setAr_wants ..
  · rfl

/-- The post-add moves nothing but the kernel. -/
theorem postAdd_left {s : State} {h k : Nat} {y : Kernel} (hy : KernelAt s h k y) (n : Nat) (f : AnvilFields) :
    ∃ z, KernelLeft s (postAdd s h k n f) h k z := by
  obtain ⟨l, hl⟩ := hy
  unfold postAdd
  split
  · exact ⟨_, .modKernel hl _⟩
  · exact ⟨_, rfl, fun a => ⟨_, _, rfl⟩, by rw [← hl]⟩

/-! ### An instruction of a kernel -/

/-- An instruction of a temper other than BR, with its predicate on, leaves the state and the registers of its body, and the kernel
ended by its stop. -/
theorem temper_does {op h k : Nat} {body : Body} {f : AnvilFields} {s : State} {rf : Regfile} {sh : Shape} {r : Ran} {x y : Kernel}
    (hr : readyAt s (.temper h k) op f rf) (hs : shapeOf op f = some sh) (hp : predOn rf f = true) (hop : op ≠ 0x3C)
    (hbody : body (seatExec s (.temper h k)) f (seatState s (.temper h k)) rf = r) (hx : (s.temper h k).kernel = some x)
    (hy : KernelAt r.s h k y) (hplace : y.place = x.place) (hmiss : r.s.wants h k = []) (hw : r.wait = false) :
    ∃ t z, anvil op body (.temper h k) f s = .next t ∧ ranOn s t (.temper h k) sh.slots r.rf ∧ KernelLeft r.s t h k z ∧
      LeftKernel op sh f r y z := by
  obtain ⟨l, hl⟩ := hy
  have hkeeps : keepsSeat s r.s (.temper h k) := ⟨by rw [hl, hx, Option.map_some, Option.map_some, ← hplace]; rfl, hmiss⟩
  obtain ⟨t, z, ht, hleft, har, hrf, hslot, hpos, hstop⟩ :=
    temper_leaves hr hs ((anvil_on body hp _).trans hbody) hkeeps hw (fun h => absurd h hop) hl
  simp only [Kernel.place, Prod.mk.injEq] at hplace
  refine ⟨t, z, ht, ?_, hleft, har, hrf, hslot, hpos, hstop⟩
  simp only [ranOn, seatRegs, seatPlace, hleft.kernel, hx, Option.map_some, hrf, hslot, hpos, nextPos, hop, hplace]
  simp

end Sys2Proof.Machine
end

section
/-! SUPPORT. LDA, STA and ARADD, BR, END and the budget of a kernel (R176, R193, R194, R212, R213). -/

namespace Sys2Proof.Machine

/-! ### Where an access may go -/

section
variable {s : State} {h a : Nat}

theorem accessStop_eq_none : accessStop s h a = none ↔ rangeOk s a 32 = true ∧ freeRoute s h (addrHarbour a) = true := by
  unfold accessStop
  cases rangeOk s a 32 <;> cases freeRoute s h (addrHarbour a) <;> simp

/-- An access that may not go stops with RANGE outside its space, and with NO_ROUTE in it. -/
theorem accessStop_eq_some (hmay : ¬ (rangeOk s a 32 = true ∧ freeRoute s h (addrHarbour a) = true)) :
    accessStop s h a = some (if rangeOk s a 32 = true then 5 else 2, a / 64 % 2 ^ 32) := by
  unfold accessStop
  cases hr : rangeOk s a 32 with
  | false => simp
  | true =>
    have hroute : freeRoute s h (addrHarbour a) = false := by simpa [hr] using hmay
    simp [hroute]

end

/-- A kernel that an access stopped holds the status of the stop. -/
theorem LeftKernel.stoppedWith {op : Nat} {sh : Shape} {f : AnvilFields} {r : Ran} {y z : Kernel} (l : LeftKernel op sh f r y z) {a b : Nat}
    (hstop : r.stop = some (a, b)) (ha : a ≠ 0) : (z.ended, z.status) = (true, a) := by
  obtain ⟨hended, hstatus, -⟩ := l.stopped _ hstop
  rw [hended, hstatus, if_neg ha]

/-! ### Reads -/

theorem temperLoad_may {s : State} {h k a : Nat} {y : Kernel} (hy : KernelAt s h k y) (hmay : accessStop s h a = none)
    (hp : (temperLoad s h k a).poison = false) : (temperLoad s h k a).stop = none ∧ KernelAt (temperLoad s h k a).s h k y := by
  unfold temperLoad at hp ⊢
  rw [hmay] at hp ⊢
  dsimp only at hp ⊢
  split at hp
  · rw [if_pos ‹_›, notePoison_clean ((notePoison_poison ..).symm.trans hp)]
    exact ⟨rfl, hy⟩
  · rw [if_neg ‹_›, notePoison_clean ((notePoison_poison ..).symm.trans hp)]
    refine ⟨?_, kernelAt_temperBits hy _ _⟩
    unfold temperBits
    dsimp only
    split <;> rfl

/-! ### Lines of the data cache -/

/-- The field that a number was put into reads it, where the field lies in the word. -/
theorem lineBits_putField (w b n v : Nat) (hb : 8 * b + n ≤ 512) (hv : v < 2 ^ n) :
    lineBits (BitVec.ofNat 512 (putField w (8 * b) n v)) b n = v := by
  have hput : putField w (8 * b) n v = w % 2 ^ (8 * b) + 2 ^ (8 * b) * (v + 2 ^ n * (w >>> (8 * b + n))) := by
    rw [putField, Nat.mod_eq_of_lt hv, Nat.pow_add]
    ring
  have hsplit : 2 ^ 512 = 2 ^ (8 * b) * (2 ^ n * 2 ^ (512 - (8 * b + n))) := by
    rw [← Nat.pow_add, ← Nat.pow_add]
    congr 1
    omega
  have hlow : w % 2 ^ (8 * b) < 2 ^ (8 * b) := Nat.mod_lt _ (Nat.two_pow_pos _)
  rw [lineBits, field, BitVec.toNat_ofNat, Nat.shiftRight_eq_div_pow, hsplit, Nat.mod_mul_right_div_self, Nat.mod_mul_right_mod, hput,
    Nat.add_mul_div_left _ _ (Nat.two_pow_pos _), Nat.div_eq_of_lt hlow, Nat.zero_add, Nat.add_mul_mod_self_left, Nat.mod_eq_of_lt hv]

theorem firstInstall_data (s : State) (h k : Nat) (c : CLine) : ((firstInstall s h k 0 c).temper h k).data.head? = some c := by
  unfold firstInstall
  dsimp only
  split
  · rw [State.temper_setTemper]; rfl
  · rw [writeBack_temper, State.temper_setTemper]; rfl

/-- A store within one line leaves its data cache, where that has sets, with the line newest and dirty, and its bits in it. -/
theorem temperStore_data {s : State} {h k a : Nat} (v : Word256) (hspace : addrSpace a ≠ 2) (hline : a % 64 ≤ 32)
    (hsets : firstSets s h k 0 ≠ 0) :
    ((temperStore s h k a v).1.temper h k).data.head?.map (fun c => (c.line, c.dirty, lineBits c.data (a % 64) 256)) =
      some (a / 64, true, v.toNat) := by
  have hown : ownArray h a = false := by simp [ownArray, hspace]
  have hn : min 32 (64 - a % 64) = 32 := by omega
  have hlevel : hasLevel s h k 0 = true := by simp [hasLevel, hsets]
  have hv : v.toNat % 2 ^ (8 * 32) = v.toNat := Nat.mod_eq_of_lt v.isLt
  simp only [temperStore, hown, Bool.false_eq_true, if_false, hspace, hn, if_true, firstPut, hlevel, hv, firstInstall_data, Option.map_some]
  rw [lineBits_putField _ _ _ _ (by omega) v.isLt]

/-! ### Scratchpads -/

theorem temperStore_own {s : State} {h k a : Nat} (v : Word256) (hown : ownArray h a = true) :
    (temperStore s h k a v).1.mem = storeWrite s.mem a (leBytes 32 v.toNat) := by
  rw [temperStore, if_pos hown, State.store_mem]

/-- A store into a scratchpad of another harbour stands on DQ3. -/
theorem temperStore_remote {s : State} {h k a : Nat} (v : Word256) (hspace : addrSpace a = 2) (hown : ownArray h a = false) :
    ∃ i ∈ ((temperStore s h k a v).1.harbour h).dq 3, i.use = .write 32 ∧ i.dst = a ∧ i.data.toNat = v.toNat := by
  have hother : (addrHarbour a == h) = false := by simpa [ownArray, hspace] using hown
  let q := ((s.temper h k).kernel.map Kernel.queue).getD 0
  let i := itemOf (k + 1) q (.write 32) 0 a 0 (BitVec.ofNat 512 v.toNat) false
  have hstore : (temperStore s h k a v).1 = appendItem s h 3 i := by
    have honce : arrivesAtOnce s h i = false := by simp [arrivesAtOnce, Item.places, i, itemOf, hother]
    simp only [temperStore, hown, Bool.false_eq_true, if_false, hspace, if_true, sendWrite]
    rw [show arrivesAtOnce s h (itemOf (k + 1) (((s.temper h k).kernel.map Kernel.queue).getD 0) (.write 32) 0 a 0 (BitVec.ofNat 512 v.toNat) false)
      = false from honce]
    simp [i, q]
  have hquiet : (launchItem s h i).2.arrived = false := by
    simp [launchItem, arrivesAtOnce, addressesLost, Item.places, i, itemOf, hother, hspace]
  have hqueued : queuedItem s h 3 i = (launchItem s h i).2 := by
    unfold queuedItem capture
    split
    · simp [hquiet]
    · rfl
  obtain ⟨b, hb⟩ := (appendItem_moves s h 3 i).kept h 3 _ (mem_queued s h 3 i)
  rw [hqueued] at hb
  rw [hstore]
  refine ⟨_, hb, rfl, rfl, ?_⟩
  change (BitVec.ofNat 512 v.toNat).toNat = v.toNat
  rw [BitVec.toNat_ofNat]
  exact Nat.mod_eq_of_lt (v.isLt.trans (Nat.pow_lt_pow_right (by decide) (by decide)))

/-! ### The instructions -/

section
variable {s : State} {h k : Nat} {f : AnvilFields} {rf : Regfile} {x : Kernel} (hx : (s.temper h k).kernel = some x)
include hx

theorem seatState_addr (n : Nat) : arAddr (seatState s (.temper h k)) h k n f = steppedAddr x.ar n f :=
  arAddr_kernelAt (seatState_kernelAt hx) n f

/-- An access that may not go stops its kernel before it does anything. -/
theorem temper_stops {op : Nat} {body : Body} {sh : Shape} {a : Nat} (hr : readyAt s (.temper h k) op f rf) (hs : shapeOf op f = some sh)
    (hp : predOn rf f = true) (hop : op ≠ 0x3C) (st : Nat) (hst : st ≠ 0)
    (hbody : body (seatExec s (.temper h k)) f (seatState s (.temper h k)) rf =
      { s := seatState s (.temper h k), rf := rf, stop := some (st, a) }) :
    ∃ t, anvil op body (.temper h k) f s = .next t ∧ t.mem = (seatState s (.temper h k)).mem ∧
      (t.temper h k).kernel.map (fun y => (y.ended, y.status)) = some (true, st) := by
  obtain ⟨t, z, ht, -, hleft, hkernel⟩ := temper_does hr hs hp hop hbody hx (seatState_kernelAt hx) rfl (seatState_wants hr) rfl
  exact ⟨t, ht, hleft.mem, by rw [hleft.kernel, Option.map_some, hkernel.stoppedWith rfl hst]⟩

theorem exec_lda (hr : readyAt s (.temper h k) 0x38 f rf) (hp : predOn rf f = true)
    (hmay : accessStop (seatState s (.temper h k)) h (steppedAddr x.ar f.a.toNat f) = none)
    (hclean : (temperLoad (seatState s (.temper h k)) h k (steppedAddr x.ar f.a.toNat f)).poison = false)
    (hmiss : (temperLoad (seatState s (.temper h k)) h k (steppedAddr x.ar f.a.toNat f)).s.wants h k = []) :
    ∃ t, exec (.lda (.temper h k) f) s = .next t ∧
      ranOn s t (.temper h k) 1
        (setV rf f.d.toNat (BitVec.ofNat 256 (temperLoad (seatState s (.temper h k)) h k (steppedAddr x.ar f.a.toNat f)).data)) ∧
      (t.temper h k).kernel.map Kernel.ar = some (steppedAr x.ar f.a.toNat f) := by
  obtain ⟨hstop, hkernel⟩ := temperLoad_may (seatState_kernelAt hx) hmay hclean
  have hbody : ldaBody h k (seatExec s (.temper h k)) f (seatState s (.temper h k)) rf = {
      s := postAdd (temperLoad (seatState s (.temper h k)) h k (steppedAddr x.ar f.a.toNat f)).s h k f.a.toNat f
      rf := setV rf f.d.toNat (BitVec.ofNat 256 (temperLoad (seatState s (.temper h k)) h k (steppedAddr x.ar f.a.toNat f)).data)
      stop := none } := by
    simp only [ldaBody, seatState_addr hx, hstop, rawBits, hclean, Bool.false_eq_true, if_false]
  obtain ⟨t, z, ht, hran, hleft, hz⟩ := temper_does (op := 0x38) (body := ldaBody h k) hr rfl hp (by decide) hbody hx
    (kernelAt_postAdd hkernel _ _) rfl ((postAdd_wants ..).trans hmiss) rfl
  exact ⟨t, ht, hran, by rw [hleft.kernel, Option.map_some, hz.ar]; rfl⟩

theorem exec_lda_stops (hr : readyAt s (.temper h k) 0x38 f rf) (hp : predOn rf f = true) {st b : Nat} (hst : st ≠ 0)
    (hstop : accessStop (seatState s (.temper h k)) h (steppedAddr x.ar f.a.toNat f) = some (st, b)) :
    ∃ t, exec (.lda (.temper h k) f) s = .next t ∧ t.mem = (seatState s (.temper h k)).mem ∧
      (t.temper h k).kernel.map (fun y => (y.ended, y.status)) = some (true, st) :=
  temper_stops (op := 0x38) (body := ldaBody h k) hx hr rfl hp (by decide) st hst (a := b) (by
    simp only [ldaBody, seatState_addr hx, temperLoad, hstop, stopRead])

theorem exec_sta_stops (hr : readyAt s (.temper h k) 0x39 f rf) (hp : predOn rf f = true) {st b : Nat} (hst : st ≠ 0)
    (hstop : accessStop (seatState s (.temper h k)) h (steppedAddr x.ar f.b.toNat f) = some (st, b)) :
    ∃ t, exec (.sta (.temper h k) f) s = .next t ∧ t.mem = (seatState s (.temper h k)).mem ∧
      (t.temper h k).kernel.map (fun y => (y.ended, y.status)) = some (true, st) :=
  temper_stops (op := 0x39) (body := staBody h k) hx hr rfl hp (by decide) st hst (a := b) (by
    simp only [staBody, seatState_addr hx, hstop])

/-- STA that goes leaves what its store leaves, but for the kernel. -/
theorem exec_sta (hr : readyAt s (.temper h k) 0x39 f rf) (hp : predOn rf f = true)
    (hmay : accessStop (seatState s (.temper h k)) h (steppedAddr x.ar f.b.toNat f) = none)
    (hentry : ownArray h (steppedAddr x.ar f.b.toNat f) = true ∨ noEntry (seatState s (.temper h k)) h = false)
    (hclean : (temperStore (seatState s (.temper h k)) h k (steppedAddr x.ar f.b.toNat f) (vReg rf f.a.toNat)).2 = false)
    (hmiss : (temperStore (seatState s (.temper h k)) h k (steppedAddr x.ar f.b.toNat f) (vReg rf f.a.toNat)).1.wants h k = []) :
    ∃ t z, exec (.sta (.temper h k) f) s = .next t ∧ ranOn s t (.temper h k) 1 rf ∧
      KernelLeft (temperStore (seatState s (.temper h k)) h k (steppedAddr x.ar f.b.toNat f) (vReg rf f.a.toNat)).1 t h k z ∧
      z.ar = steppedAr x.ar f.b.toNat f := by
  have hkernel := kernelAt_temperStore (seatState_kernelAt hx) (steppedAddr x.ar f.b.toNat f) (vReg rf f.a.toNat)
  have hfree : (!ownArray h (steppedAddr x.ar f.b.toNat f) && noEntry (seatState s (.temper h k)) h) = false := by
    rcases hentry with h1 | h1 <;> simp [h1]
  have hbody : staBody h k (seatExec s (.temper h k)) f (seatState s (.temper h k)) rf = {
      s := postAdd (temperStore (seatState s (.temper h k)) h k (steppedAddr x.ar f.b.toNat f) (vReg rf f.a.toNat)).1 h k f.b.toNat f
      rf := rf
      stop := none } := by
    simp only [staBody, seatState_addr hx, hmay, hfree, hclean, Bool.false_eq_true, if_false]
  obtain ⟨t, z, ht, hran, hleft, hz⟩ := temper_does (op := 0x39) (body := staBody h k) hr rfl hp (by decide) hbody hx
    (kernelAt_postAdd hkernel _ _) rfl ((postAdd_wants ..).trans hmiss) rfl
  obtain ⟨y, hpost⟩ := postAdd_left hkernel f.b.toNat f
  exact ⟨t, z, ht, hran, hpost.trans hleft, hz.ar⟩

theorem exec_aradd (hr : readyAt s (.temper h k) 0x3B f rf) (hp : predOn rf f = true) :
    ∃ t, exec (.aradd (.temper h k) f) s = .next t ∧ ranOn s t (.temper h k) 1 rf ∧ t.mem = (seatState s (.temper h k)).mem ∧
      (t.temper h k).kernel.map Kernel.ar =
        some (listSet x.ar (f.d.toNat % 8) (listGet 0#64 x.ar (f.d.toNat % 8) + f.x.signExtend 64)) := by
  have hkernel := kernelAt_setAr (seatState_kernelAt hx) f.d.toNat
    ((arOf (seatState s (.temper h k)) h k f.d.toNat : Int) + f.x.toInt)
  obtain ⟨t, z, ht, hran, hleft, hz⟩ := temper_does (op := 0x3B) (body := araddBody h k) hr rfl hp (by decide) rfl hx hkernel rfl
    ((setAr_wants ..).trans (seatState_wants hr)) rfl
  refine ⟨t, ht, hran, hleft.mem, ?_⟩
  rw [hleft.kernel, Option.map_some, hz.ar, arOf_kernelAt (seatState_kernelAt hx)]
  have hsum (v : BitVec 64) : BitVec.ofInt 64 ((v.toNat : Int) + f.x.toInt) = v + f.x.signExtend 64 := by
    rw [BitVec.ofInt_add, BitVec.signExtend, BitVec.ofInt_natCast, BitVec.ofNat_toNat, BitVec.setWidth_eq]
  rw [hsum]
  rfl

theorem exec_br (hr : readyAt s (.temper h k) 0x3C f rf) : ∃ t, exec (.br (.temper h k) f) s = .next t ∧
    seatRegs t (.temper h k) = some rf ∧
    seatPlace t (.temper h k) = some (x.slot + 1, if predOn rf f = true then xf f 0 14 else x.pos + 1) := by
  have hrun : runOnce 0x3C (brBody h k) (seatExec s (.temper h k)) f { s := seatState s (.temper h k), rf := rf, stop := none } =
      { s := seatState s (.temper h k), rf := rf, stop := none } := by
    cases hp : predOn rf f with
    | true => exact anvil_on _ hp _
    | false => exact anvil_off _ hp _
  obtain ⟨l, hl⟩ := seatState_kernelAt hx
  obtain ⟨t, z, ht, hleft, hz⟩ := temper_leaves (op := 0x3C) (body := brBody h k) hr rfl hrun (keepsSeat_state hr) rfl (fun _ => rfl) hl
  refine ⟨t, ht, ?_, ?_⟩
  · rw [seatRegs, hleft.kernel, Option.map_some, hz.rf]
  · rw [seatPlace, hleft.kernel, Option.map_some, hz.slot, hz.pos, hz.rf]
    rfl

theorem exec_endKernel (hr : readyAt s (.temper h k) 0x3D f rf) (hp : predOn rf f = true) :
    ∃ t, exec (.endKernel (.temper h k) f) s = .next t ∧ seatRegs t (.temper h k) = some rf ∧
      (t.temper h k).kernel.map (fun y => (y.ended, y.status, y.detail)) = some (true, x.status, x.detail) := by
  obtain ⟨t, z, ht, hran, hleft, hz⟩ := temper_does (op := 0x3D) (body := endBody h k) hr rfl hp (by decide) rfl hx (seatState_kernelAt hx) rfl
    (seatState_wants hr) rfl
  obtain ⟨hended, hstatus, hdetail⟩ := hz.stopped (0, 0) rfl
  exact ⟨t, ht, hran.1, by rw [hleft.kernel, Option.map_some, hended, hstatus, hdetail]; rfl⟩

theorem exec_budgetExhausted (hh : s.hasHarbour h = true) (hk : k < 2) (hb : x.budget ≤ x.executed) (he : x.ended = false) :
    ∃ t, exec (.budgetExhausted h k) s = .next t ∧ t.mem = s.mem ∧
      (t.temper h k).kernel.map (fun y => (y.ended, y.status, y.detail, y.rf)) = some (true, 8, 0, x.rf) := by
  have hend : budgetEnds s h k = endKernel s h k 8 0 := by simp [budgetEnds, hx, hb, he]
  have hexec : exec (.budgetExhausted h k) s = .next { endKernel s h k 8 0 with pending := s.pending } := by
    rw [← hend]
    change onUnit (s.hasHarbour h && decide (k < 2)) s (budgetEnds s h k) = _
    simp [hh, hk, onUnit, done]
  have hleft := (endKernel_left hx 8 0).withPending s.pending
  obtain ⟨hended, hstatus, hdetail⟩ := Kernel.endsWith_running he 8 0
  refine ⟨_, hexec, hleft.mem, ?_⟩
  rw [hleft.kernel, Option.map_some, hended, hstatus, hdetail, Kernel.endsWith_rf]
  rfl

end

/-- Settles O21: temperLoad_may and the lemmas about temperStore say what an access that may go does, temper_does what its kernel keeps. -/
theorem tempersMoveLinesAndEnd : Obligations.TempersMoveLinesAndEnd := by
  unfold Obligations.TempersMoveLinesAndEnd
  refine ⟨fun s h k f rf x hx => ?_, fun s h k f rf x hx => ⟨exec_br hx, exec_endKernel hx⟩,
    fun s h k x hh hk hx => exec_budgetExhausted hx hh hk⟩
  intro u S ar addr stepped may stopped hp
  have hstatus (a : Nat) : (if rangeOk S a 32 = true then 5 else 2) ≠ 0 := by split <;> decide
  refine ⟨fun hr => ⟨fun hmay hclean hmiss => ?_, fun hmay => ?_⟩, fun hr => ⟨fun hmay hentry hclean hmiss => ?_, fun hmay => ?_⟩,
    fun hr => exec_aradd hx hr hp⟩
  · exact exec_lda hx hr hp (accessStop_eq_none.2 hmay) hclean (List.isEmpty_iff.1 hmiss)
  · exact exec_lda_stops hx hr hp (hstatus _) (accessStop_eq_some hmay)
  · obtain ⟨t, z, ht, hran, hleft, har⟩ := exec_sta hx hr hp (accessStop_eq_none.2 hmay) hentry hclean (List.isEmpty_iff.1 hmiss)
    refine ⟨t, ht, hran, by rw [hleft.kernel, Option.map_some, har]; rfl, fun hown => ?_, fun hspace hline hsets => ?_, fun hspace hown => ?_⟩
    · have hmem : t.mem = storeWrite S.mem (addr f.b) (leBytes 32 (vReg rf f.a.toNat).toNat) :=
        hleft.mem.trans (temperStore_own _ hown)
      refine ⟨hmem, fun hw b hb => ?_⟩
      have hout := storeGet_storeWrite S.mem (addr f.b) b (leBytes 32 (vReg rf f.a.toNat).toNat) (seatState_wf s u hw)
      rw [leBytes_length, if_neg (by omega)] at hout
      rw [State.byte, hmem]
      exact hout
    · rw [hleft.temper]
      exact temperStore_data _ hspace hline hsets
    · rw [hleft.dq]
      exact temperStore_remote _ hspace hown
  · exact exec_sta_stops hx hr hp (hstatus _) (accessStop_eq_some hmay)

end Sys2Proof.Machine
end

section
/-! SUPPORT. What a temper sends on leaves the reductions that wait at every harbour, the scratch ranges and the mode (R188, R213, R219,
R236). -/

namespace Sys2Proof.Machine

/-- Between two states neither the reductions that wait, nor the scratch ranges, nor any register of subindex 1 have moved. -/
structure WaitingKept (s t : State) : Prop where
  ordered : ∀ g, (t.harbour g).ordered = (s.harbour g).ordered
  reductions : ∀ g, (t.harbour g).reductions = (s.harbour g).reductions
  scratch : ∀ own a n, scratchHeld t own a n = scratchHeld s own a n
  reg : ∀ r : Reg, r.sub = 1 → ∀ n, t.reg r n = s.reg r n

namespace WaitingKept

theorem refl (s : State) : WaitingKept s s := ⟨fun _ => rfl, fun _ => rfl, fun _ _ _ => rfl, fun _ _ _ => rfl⟩

theorem trans {s t u : State} (h : WaitingKept s t) (k : WaitingKept t u) : WaitingKept s u :=
  ⟨fun g => (k.ordered g).trans (h.ordered g), fun g => (k.reductions g).trans (h.reductions g),
    fun own a n => (k.scratch own a n).trans (h.scratch own a n), fun r hr n => (k.reg r hr n).trans (h.reg r hr n)⟩

theorem lockstep {s t : State} (h : WaitingKept s t) (g : Nat) : t.lockstep g = s.lockstep g := by
  simp only [State.lockstep, State.strict, State.flag, h.reg Reg.detStrict rfl, h.reg Reg.engQueueMode rfl]

/-! ### Changes of the state -/

theorem modHarbour (s : State) (h : Nat) (f : Harbour → Harbour) (ho : ∀ x, (f x).ordered = x.ordered)
    (hr : ∀ x, (f x).reductions = x.reductions) (hs : ∀ x, (f x).scratch = x.scratch) : WaitingKept s (s.modHarbour h f) where
  ordered g := by
    by_cases hg : h = g
    · subst hg; rw [State.harbour_modHarbour, ho]
    · rw [State.harbour_modHarbour_other _ _ hg]
  reductions g := by
    by_cases hg : h = g
    · subst hg; rw [State.harbour_modHarbour, hr]
    · rw [State.harbour_modHarbour_other _ _ hg]
  scratch := scratchHeld_modHarbour s h hs
  reg _ _ _ := rfl

/-- A hold's lines, its evicted lines and its bad lines. -/
theorem hold (s : State) (h : Nat) (l : List (Nat × Bool)) (vs bad : List Nat) :
    WaitingKept s (s.setHarbour h { s.harbour h with hold := l, victims := vs, badLines := bad }) where
  ordered g := by
    by_cases hg : h = g
    · subst hg; rw [State.harbour_setHarbour]
    · rw [State.harbour_setHarbour_other _ _ hg]
  reductions g := by
    by_cases hg : h = g
    · subst hg; rw [State.harbour_setHarbour]
    · rw [State.harbour_setHarbour_other _ _ hg]
  scratch own a n := tabSet_any (d := Harbour.empty) rfl rfl
  reg _ _ _ := rfl

theorem count (s : State) (c : Reg) (hsub : c.sub < 256) (hone : c.sub ≠ 1) (n b k : Nat) : WaitingKept s (s.count c n b k) where
  ordered _ := rfl
  reductions _ := rfl
  scratch _ _ _ := rfl
  reg r hr m := State.reg_count_other _ _ _ (Reg.key_ne_of_sub hsub (by omega) (by omega) n m)

theorem setPoison (s : State) (l : Nat) (p : Bool) : WaitingKept s (s.setPoison l p) :=
  ⟨fun _ => rfl, fun _ => rfl, fun _ _ _ => rfl, fun _ _ _ => rfl⟩

theorem store (s : State) (a : Nat) (bs : List Byte) : WaitingKept s (s.store a bs) :=
  ⟨fun _ => rfl, fun _ => rfl, fun _ _ _ => rfl, fun _ _ _ => rfl⟩

theorem setTemper (s : State) (h u : Nat) (t : Temper) : WaitingKept s (s.setTemper h u t) :=
  modHarbour s h (fun x => if u = 0 then { x with temper0 := t } else { x with temper1 := t }) (fun x => by split <;> rfl)
    (fun x => by split <;> rfl) fun x => by split <;> rfl

theorem modKernel (s : State) (h u : Nat) (g : Kernel → Kernel) : WaitingKept s (Machine.modKernel s h u g) := setTemper ..

theorem commitCmd (s : State) (h e q : Nat) : WaitingKept s (Machine.commitCmd s h e q) := by
  let f : Harbour → Harbour := fun x => { x with
    running := x.running.map fun r => if r.engine = e ∧ r.queue = q then { r with posted := true } else r }
  exact (modHarbour s h f (fun _ => rfl) (fun _ => rfl) fun _ => rfl).trans
    (modHarbour _ h (fun x => { x with ctxs := x.ctxs.map _ }) (fun _ => rfl) (fun _ => rfl) fun _ => rfl)

/-! ### Holds -/

theorem holdTouch (s : State) (h line : Nat) (w : Bool) : WaitingKept s (Machine.holdTouch s h line w) := by
  unfold Machine.holdTouch State.modHarbour
  dsimp only
  split
  · exact hold s h _ (s.harbour h).victims (s.harbour h).badLines
  · exact hold s h (s.harbour h).hold (s.harbour h).victims (s.harbour h).badLines

theorem holdLeaves (s : State) (h : Nat) (v : Nat × Bool) : WaitingKept s (Machine.holdLeaves s h v) := by
  unfold Machine.holdLeaves
  dsimp only
  split
  · exact (hold s h (s.harbour h).hold _ _).trans (count _ _ (by decide) (by decide) _ _ _)
  · split
    · exact (hold s h (s.harbour h).hold (s.harbour h).victims _).trans (setPoison _ _ _)
    · exact refl s

theorem holdInstall (s : State) (h line : Nat) (d : Bool) : WaitingKept s (Machine.holdInstall s h line d) := by
  unfold Machine.holdInstall
  dsimp only
  split
  · exact hold s h _ (s.harbour h).victims (s.harbour h).badLines
  · exact (hold s h _ (s.harbour h).victims (s.harbour h).badLines).trans (holdLeaves _ _ _)

theorem holdLook (s : State) (h line : Nat) : WaitingKept s (Machine.holdLook s h line) := by
  unfold Machine.holdLook
  split
  · exact (holdTouch _ _ _ _).trans (count _ _ (by decide) (by decide) _ _ _)
  · exact count _ _ (by decide) (by decide) _ _ _

theorem holdWrites (s : State) (h line : Nat) : WaitingKept s (Machine.holdWrites s h line) := by
  unfold Machine.holdWrites
  split
  · exact holdTouch _ _ _ _
  · exact holdInstall _ _ _ _

theorem holdAccess (s : State) (h line : Nat) (w : Bool) : WaitingKept s (Machine.holdAccess s h line w) := by
  unfold Machine.holdAccess
  split
  · exact (holdTouch _ _ _ _).trans (count _ _ (by decide) (by decide) _ _ _)
  · exact (count _ _ (by decide) (by decide) _ _ _).trans (holdInstall _ _ _ _)

theorem fillArrives (s : State) (h line : Nat) (x y : Bool) : WaitingKept s (Machine.fillArrives s h line x y) := by
  unfold Machine.fillArrives
  dsimp only
  split
  · exact refl s
  · split
    · exact (holdInstall _ _ _ _).trans (setPoison _ _ _)
    · exact holdInstall _ _ _ _

theorem writeLine (s : State) (a : Nat) (d : BitVec 512) (p : Bool) : WaitingKept s (Machine.writeLine s a d p) := by
  have hstored (t : State) (bs : List Byte) : WaitingKept t ((t.store (a / 64 * 64) bs).setPoison (a / 64 * 64 / 64) p) :=
    (store _ _ _).trans (setPoison _ _ _)
  unfold Machine.writeLine
  dsimp only
  refine WaitingKept.trans ?_ (hstored _ _)
  split
  · exact holdAccess _ _ _ _
  · exact refl s

theorem writePart (s : State) (a : Nat) (bs : List Byte) : WaitingKept s (Machine.writePart s a bs) := by
  unfold Machine.writePart
  dsimp only
  refine WaitingKept.trans ?_ (store _ a bs)
  split
  · exact holdWrites _ _ _
  · exact refl s

theorem putBytes (s : State) (a n : Nat) (d : BitVec 512) (p : Bool) : WaitingKept s (Machine.putBytes s a n d p) := by
  unfold Machine.putBytes
  split
  · exact writeLine _ _ _ _
  · dsimp only
    split
    · exact (writePart s a (leBytes n d.toNat)).trans (setPoison _ _ _)
    · exact writePart _ _ _

/-! ### Decoupling queues -/

theorem countFill (s : State) (i : Item) : WaitingKept s (Machine.countFill s i) := by
  unfold Machine.countFill
  split
  · dsimp only
    split
    · exact (holdLook _ _ _).trans (count _ _ (by decide) (by decide) _ _ _)
    · exact holdLook _ _ _
  · exact refl s

theorem loseFill (s : State) (i : Item) : WaitingKept s (Machine.loseFill s i) := by
  unfold Machine.loseFill
  split
  · exact fillArrives _ _ _ _ _
  · exact refl s

theorem launchItem (s : State) (h : Nat) (i : Item) : WaitingKept s (Machine.launchItem s h i).1 := by
  unfold Machine.launchItem
  dsimp only
  split
  · exact (countFill _ _).trans (loseFill _ _)
  · exact countFill _ _

theorem takeOne {s t : State} {g : Nat} (h : Machine.takeOne s g = some t) : WaitingKept s t := by
  unfold Machine.takeOne at h
  split at h
  · cases h
  · obtain ⟨m, -, hm⟩ := List.exists_of_findSome?_eq_some h
    obtain ⟨p, -, rfl⟩ := Option.map_eq_some_iff.1 hm
    unfold modItem
    exact (modHarbour s p.1 (fun x => { x with dqs := tabMod [] x.dqs p.2.1 _ }) (fun _ => rfl) (fun _ => rfl) fun _ => rfl).trans
      (modHarbour _ g (fun x => { x with takeNext := (m + 1) % 5 }) (fun _ => rfl) (fun _ => rfl) fun _ => rfl)

theorem takeAll (g n : Nat) (s : State) : WaitingKept s (Machine.takeAll g n s) := by
  induction n generalizing s with
  | zero => exact refl s
  | succ n ih =>
    simp only [Machine.takeAll]
    split
    · next t ht => exact (takeOne ht).trans (ih t)
    · exact refl s

theorem takeFor (s : State) (i : Item) : WaitingKept s (Machine.takeFor s i) := by
  unfold Machine.takeFor
  split
  · split
    · exact takeAll _ _ _
    · exact refl s
  · exact refl s

theorem appendItem (s : State) (h d : Nat) (i : Item) : WaitingKept s (Machine.appendItem s h d i) := by
  rw [appendItem_eq]
  refine WaitingKept.trans ?_ (takeFor _ _)
  unfold queued
  exact (launchItem s h i).trans
    (modHarbour _ h (fun x => { x with dqs := tabMod [] x.dqs d _ }) (fun _ => rfl) (fun _ => rfl) fun _ => rfl)

/-! ### First levels -/

theorem sendWrite (s : State) (h u a n : Nat) (d : BitVec 512) (p : Bool) : WaitingKept s (Machine.sendWrite s h u a n d p) := by
  unfold Machine.sendWrite
  dsimp only
  split
  · exact (countFill _ _).trans (putBytes _ _ _ _ _)
  · exact appendItem _ _ _ _

theorem writeBack (s : State) (h u : Nat) (c : CLine) : WaitingKept s (Machine.writeBack s h u c) := by
  unfold Machine.writeBack
  split
  · exact sendWrite _ _ _ _ _ _ _
  · exact refl s

theorem firstInstall (s : State) (h u cls : Nat) (c : CLine) : WaitingKept s (Machine.firstInstall s h u cls c) := by
  unfold Machine.firstInstall
  dsimp only
  split
  · exact setTemper _ _ _ _
  · exact (setTemper _ _ _ _).trans (writeBack _ _ _ _)

/-- A read of an instruction's word. -/
theorem firstRead (s : State) (h u a : Nat) : WaitingKept s (Machine.firstRead s h u 3 a).1 := by
  unfold Machine.firstRead
  dsimp only
  split
  · exact modKernel _ _ _ _
  · split
    · refine (firstInstall _ _ _ _ _).trans (count _ _ ?_ ?_ _ _ _) <;> decide
    · exact setTemper _ _ _ _

theorem seatFetch (s : State) (h k : Nat) (x : Kernel) : WaitingKept s (Machine.seatFetch s h k x) := by
  unfold Machine.seatFetch
  dsimp only
  refine WaitingKept.trans ?_ (modKernel _ _ _ _)
  split
  · exact (firstRead _ _ _ _).trans (commitCmd _ _ _ _)
  · exact firstRead _ _ _ _

theorem seatState (s : State) (h k : Nat) : WaitingKept s (Machine.seatState s (.temper h k)) := by
  unfold Machine.seatState
  dsimp only
  split
  · exact (seatFetch _ _ _ _).trans (modKernel _ _ _ _)
  · exact refl s

theorem dropForReduction (s : State) (h k a : Nat) : WaitingKept s (Machine.dropForReduction s h k a) := by
  unfold Machine.dropForReduction
  dsimp only
  split
  · exact refl s
  · exact (setTemper _ _ _ _).trans (writeBack _ _ _ _)

end WaitingKept

end Sys2Proof.Machine
end

section
/-! SUPPORT. An add-to-line takes effect on 32 bytes of a line that its hold has, or poisons it (R205, R217 to R219, R224). -/

namespace Sys2Proof.Machine

/-! ### Poison -/

theorem mem_setPoison (s : State) (l m : Nat) (p : Bool) : m ∈ (s.setPoison l p).poison ↔ (m ≠ l ∧ m ∈ s.poison) ∨ (m = l ∧ p = true) := by
  unfold State.setPoison
  cases p with
  | false => simp [and_comm]
  | true =>
    simp only [if_true, List.mem_cons, List.mem_filter, bne_iff_ne, and_true]
    tauto

theorem poisoned_iff (s : State) (l : Nat) : s.poisoned l = true ↔ l ∈ s.poison := by simp [State.poisoned]

/-- A line that is poisoned stays so. -/
def PoisonGrows (s t : State) : Prop := ∀ l ∈ s.poison, l ∈ t.poison

theorem PoisonGrows.refl (s : State) : PoisonGrows s s := fun _ h => h

theorem PoisonGrows.of_eq {s t : State} (h : t.poison = s.poison) : PoisonGrows s t := fun _ hl => h.symm ▸ hl

theorem PoisonGrows.trans {s t u : State} (h : PoisonGrows s t) (k : PoisonGrows t u) : PoisonGrows s u := fun l hl => k l (h l hl)

theorem PoisonGrows.setPoison (s : State) (l : Nat) : PoisonGrows s (s.setPoison l true) := fun m hm => by
  rw [mem_setPoison]
  by_cases h : m = l
  · exact .inr ⟨h, rfl⟩
  · exact .inl ⟨h, hm⟩

theorem holdLeaves_grows (s : State) (h : Nat) (v : Nat × Bool) : PoisonGrows s (holdLeaves s h v) := by
  unfold holdLeaves
  dsimp only
  split
  · exact .of_eq rfl
  · split
    · exact (PoisonGrows.of_eq (t := s.setHarbour h _) rfl).trans (.setPoison _ _)
    · exact .refl s

theorem holdInstall_grows (s : State) (h line : Nat) (d : Bool) : PoisonGrows s (holdInstall s h line d) := by
  unfold holdInstall
  dsimp only
  split
  · exact .of_eq rfl
  · exact (PoisonGrows.of_eq (t := s.setHarbour h _) rfl).trans (holdLeaves_grows _ _ _)

theorem holdAccess_grows (s : State) (h line : Nat) (w : Bool) : PoisonGrows s (holdAccess s h line w) := by
  unfold holdAccess
  split
  · exact .of_eq rfl
  · exact (PoisonGrows.of_eq (t := s.count Reg.cacheHoldMisses h 64) rfl).trans (holdInstall_grows _ _ _ _)

theorem fillArrives_grows (s : State) (h line : Nat) (x y : Bool) : PoisonGrows s (fillArrives s h line x y) := by
  unfold fillArrives
  dsimp only
  split
  · exact .refl s
  · split
    · exact (holdInstall_grows _ _ _ _).trans (.setPoison _ _)
    · exact holdInstall_grows _ _ _ _

/-- The least recently used line of a set is one of the hold's lines. -/
theorem lruOf_mem {α : Type} {key : α → Nat} {sets line : Nat} {l : List α} {v : α} (h : lruOf key sets line l = some v) : v ∈ l := by
  have hfold : ∀ (l : List α) (o : Option α), l.foldl (fun r e => if key e % sets = line % sets then some e else r) o = some v →
      o = some v ∨ v ∈ l := by
    intro l
    induction l with
    | nil => exact fun _ h => .inl h
    | cons e l ih =>
      intro o h
      rcases ih _ h with h | h
      · dsimp only at h
        split at h
        · exact .inr (by simp [Option.some.inj h])
        · exact .inl h
      · exact .inr (by simp [h])
  exact (hfold l none h).resolve_left (by simp)

theorem stackLine_inj {h a b : Nat} (e : stackLine h a = stackLine h b) : a = b := Nat.add_left_cancel e

/-- A line that enters its hold poisons no other line but one that was in the hold. -/
theorem holdInstall_clean {s : State} {h line : Nat} (habsent : holdHas s h line = false) (d : Bool)
    (hclean : stackLine h line ∉ s.poison) : stackLine h line ∉ (holdInstall s h line d).poison := by
  unfold holdInstall
  dsimp only
  split
  · exact hclean
  · next v hv =>
    have hne : stackLine h line ≠ stackLine h v.1 := fun e => by
      have hmem : v ∈ (s.harbour h).hold := by
        split at hv
        · cases hv
        · exact lruOf_mem hv
      have hhas : holdHas s h line = true := List.any_eq_true.2 ⟨v, hmem, by simp [stackLine_inj e]⟩
      rw [habsent] at hhas
      cases hhas
    unfold holdLeaves
    dsimp only
    split
    · exact hclean
    · split
      · rw [mem_setPoison]
        exact fun hm => hm.elim (fun hm => hclean hm.2) fun hm => hne hm.1
      · exact hclean

theorem holdAccess_clean {s : State} {h line : Nat} (w : Bool) (hclean : stackLine h line ∉ s.poison) :
    stackLine h line ∉ (holdAccess s h line w).poison := by
  unfold holdAccess
  split
  · exact hclean
  · next habsent => exact holdInstall_clean (s := s.count Reg.cacheHoldMisses h 64) (Bool.not_eq_true _ ▸ habsent) w hclean

/-- The line of an address of space 0, by its stack and the line in it. -/
theorem stackLine_lineOf {a : Nat} (ha : a < 2 ^ 48) (hspace : addrSpace a = 0) : stackLine (addrHarbour a) (lineOf a) = a / 64 := by
  simp only [stackLine, lineOf, addrHarbour, addrOffset, addrSpace, field, Nat.shiftRight_eq_div_pow] at *
  omega

/-! ### Clamps -/

/-- What clamps write: counters and reports. -/
theorem redClamps_rest (s : State) (a h k n : Nat) : ∃ regs links faults, redClamps s a h k n = { s with regs := regs, links := links, faults := faults } := by
  have hfault (t : State) (u d : Nat) : Reported t (t.detFault u d) := by
    unfold State.detFault
    split
    · exact (Reported.count _ Reg.detFaults 0 _ _ (by decide)).trans (.emcy ..)
    · exact .refl t
  have hfaults (t : State) (l : List Nat) (u d : Nat) : ∃ regs links faults, l.foldl (fun s _ => s.detFault u d) t =
      { t with regs := regs, links := links, faults := faults } := (Reported.foldl (fun t _ => hfault t u d) l t).same
  unfold redClamps
  dsimp only
  split
  · exact hfaults ..
  · split
    · obtain ⟨regs, links, faults, h⟩ := hfaults (s.count Reg.engSatClamps (8 * h + 1 + k) 64 n) (List.range n) (harbourUnit (addrHarbour a)) (addrOffset a / 64 % 2 ^ 32)
      exact ⟨regs, links, faults, h⟩
    · obtain ⟨regs, links, faults, h⟩ := hfaults (s.count Reg.cacheRedClamps (addrHarbour a) 64 n) (List.range n) (harbourUnit (addrHarbour a)) (addrOffset a / 64 % 2 ^ 32)
      exact ⟨regs, links, faults, h⟩

/-! ### A reduction takes effect -/

/-- What a reduction moves of the harbours and the clocks: the holds alone. -/
structure HoldsAlone (s t : State) : Prop where
  clocks : t.clocks = s.clocks
  harbour : ∀ g, ∃ l vs bad, t.harbour g = { s.harbour g with hold := l, victims := vs, badLines := bad }

theorem HoldsAlone.refl (s : State) : HoldsAlone s s := ⟨rfl, fun _ => ⟨_, _, _, rfl⟩⟩

theorem HoldsAlone.trans {s t u : State} (h : HoldsAlone s t) (k : HoldsAlone t u) : HoldsAlone s u := by
  refine ⟨k.clocks.trans h.clocks, fun g => ?_⟩
  obtain ⟨l, vs, bad, hg⟩ := k.harbour g
  obtain ⟨l', vs', bad', hg'⟩ := h.harbour g
  exact ⟨l, vs, bad, by rw [hg, hg']⟩

theorem HoldsMoved.alone {s t : State} (h : HoldsMoved s t) : HoldsAlone s t := ⟨h.clocks, h.harbour⟩

theorem HoldsAlone.count (s : State) (r : Reg) (n b k : Nat) : HoldsAlone s (s.count r n b k) := ⟨rfl, fun _ => ⟨_, _, _, rfl⟩⟩

/-- The fill of a reduction whose line neither its hold has nor its stack can give. -/
def redFill (s : State) (a : Nat) : State :=
  if addrSpace a = 0 && !(decide (addrSpace a ≠ 0) || holdHas s (addrHarbour a) (lineOf a)) && !stackReady s (addrHarbour a) then
    fillArrives s (addrHarbour a) (lineOf a) true false
  else s

/-- The access of a reduction to its line, which its hold counts. -/
def redAccess (s : State) (a : Nat) : State :=
  let s := if addrSpace a = 0 then holdAccess s (addrHarbour a) (lineOf a) true else s
  if addrSpace a = 2 then s else s.count Reg.cacheRedOps (addrHarbour a) 64

/-- The state in which a reduction finds its line, poisoned or not. -/
def redFinds (s : State) (r : Reduction) : State :=
  redAccess (redFill (countClass s r.harbour r.temper 4 (decide (addrSpace r.addr ≠ 0) || holdHas s (addrHarbour r.addr) (lineOf r.addr))) r.addr)
    r.addr

theorem applyReduction_eq {s : State} {r : Reduction} (hheld : scratchHeld s (fun _ _ => false) r.addr 32 = false) :
    applyReduction s r = if (redFinds s r).poisoned (r.addr / 64) = true then (redFinds s r).count Reg.cacheRedPoisoned (addrHarbour r.addr)
      else redClamps ((redFinds s r).store r.addr
        (leBytes 32 (redLine r.fmt (BitVec.ofNat 256 (leNat ((redFinds s r).load r.addr 32))) r.data).1.toNat)) r.addr r.harbour r.temper
        (redLine r.fmt (BitVec.ofNat 256 (leNat ((redFinds s r).load r.addr 32))) r.data).2 := by
  rw [applyReduction]
  dsimp only
  rw [hheld]
  rfl

end Sys2Proof.Machine
end

section
/-! SUPPORT. REDUCTION_APPLY and ORDERED_REDUCTION_APPLY: what stands after a reduction takes effect (R205, R217, R219, R221). -/

namespace Sys2Proof.Machine

theorem State.load_of_mem {s t : State} (h : t.mem = s.mem) (a n : Nat) : t.load a n = s.load a n := by
  rw [State.load, h, State.load]

/-! ### How a reduction finds its line -/

theorem countClass_reg_redPoisoned (s : State) (h u : Nat) (hit : Bool) (g : Nat) :
    (countClass s h u 4 hit).reg Reg.cacheRedPoisoned g = s.reg Reg.cacheRedPoisoned g := by
  unfold countClass
  refine State.reg_count_other _ _ _ (Reg.key_ne_of_sub ?_ (by decide) ?_ _ _)
  · cases hit <;> decide
  · cases hit <;> decide

theorem HoldsMoved.redPoisoned {s t : State} (h : HoldsMoved s t) (g : Nat) : t.reg Reg.cacheRedPoisoned g = s.reg Reg.cacheRedPoisoned g := by
  have hsubs : ∀ c ∈ holdCounters, c.sub < 256 ∧ c.sub ≠ Reg.cacheRedPoisoned.sub := by decide
  exact h.reg _ _ fun c hc m => Reg.key_ne_of_sub (hsubs c hc).1 (by decide) (hsubs c hc).2 m g

theorem redFill_moved (s : State) (a : Nat) : HoldsMoved s (redFill s a) := by
  unfold redFill
  split
  · exact .fillArrives _ _ _ _ _
  · exact .refl s

/-- The access counts a hit or a miss of the hold, and the reduction. -/
theorem redAccess_eq (s : State) (a : Nat) : ∃ u, HoldsMoved s u ∧ (redAccess s a = u ∨ redAccess s a = u.count Reg.cacheRedOps (addrHarbour a) 64) := by
  unfold redAccess
  dsimp only
  refine ⟨_, ?_, ite_eq_or_eq _ _ _⟩
  split
  · exact .holdAccess _ _ _ _
  · exact .refl s

theorem redFinds_keeps (s : State) (r : Reduction) : HoldsAlone s (redFinds s r) ∧ (redFinds s r).mem = s.mem ∧
    ∀ g, (redFinds s r).reg Reg.cacheRedPoisoned g = s.reg Reg.cacheRedPoisoned g := by
  unfold redFinds
  generalize hclass : countClass s r.harbour r.temper 4 (decide (addrSpace r.addr ≠ 0) || holdHas s (addrHarbour r.addr) (lineOf r.addr)) = c
  have hc : HoldsAlone s c ∧ c.mem = s.mem ∧ ∀ g, c.reg Reg.cacheRedPoisoned g = s.reg Reg.cacheRedPoisoned g := by
    subst hclass
    exact ⟨.count .., rfl, fun g => countClass_reg_redPoisoned ..⟩
  obtain ⟨halone, hmem, hreg⟩ := hc
  have hfill := redFill_moved c r.addr
  obtain ⟨u, hu, he⟩ := redAccess_eq (redFill c r.addr) r.addr
  have hall := hfill.trans hu
  rcases he with he | he
  · rw [he]
    exact ⟨halone.trans hall.alone, hall.mem.trans hmem, fun g => (hall.redPoisoned g).trans (hreg g)⟩
  · rw [he]
    refine ⟨(halone.trans hall.alone).trans (.count ..), hall.mem.trans hmem, fun g => ?_⟩
    rw [State.reg_count_other _ _ _ (Reg.key_ne_of_sub (by decide) (by decide) (by decide) _ _)]
    exact (hall.redPoisoned g).trans (hreg g)

/-- Can a reduction have its line: in another space, in its hold, or from a READY stack (R205). -/
def redHere (s : State) (a : Nat) : Prop :=
  addrSpace a ≠ 0 ∨ holdHas s (addrHarbour a) (lineOf a) = true ∨ stackReady s (addrHarbour a) = true

theorem redAccess_grows (s : State) (a : Nat) : PoisonGrows s (redAccess s a) := by
  have hops (u : State) : PoisonGrows u (if addrSpace a = 2 then u else u.count Reg.cacheRedOps (addrHarbour a) 64) := by
    split
    · exact .refl u
    · exact .of_eq rfl
  unfold redAccess
  dsimp only
  refine PoisonGrows.trans ?_ (hops _)
  split
  · exact holdAccess_grows _ _ _ _
  · exact .refl s

section
variable {s : State} {r : Reduction}

theorem redFill_here {a : Nat} (hhere : redHere s a) : redFill s a = s := by
  have hcond : ¬ (decide (addrSpace a = 0) && !(decide (addrSpace a ≠ 0) || holdHas s (addrHarbour a) (lineOf a))
      && !stackReady s (addrHarbour a)) = true := by
    rcases hhere with h | h | h <;> simp [h]
  exact if_neg hcond

/-- The class counter of a temper is no register of a stack's state. -/
theorem stackReady_countClass (s : State) (h u : Nat) (hit : Bool) (g : Nat) :
    stackReady (countClass s h u 4 hit) g = stackReady s g := by
  unfold stackReady countClass
  rw [State.reg_count_other]
  exact Reg.key_ne_of_sub (by cases hit <;> decide) (by decide) (by cases hit <;> decide) _ _

theorem redHere_countClass {a : Nat} (h u : Nat) (hit : Bool) : redHere (countClass s h u 4 hit) a ↔ redHere s a := by
  rw [redHere, stackReady_countClass]
  rfl

/-- A reduction that can have its clean line finds it clean. -/
theorem redFinds_clean (ha : r.addr < 2 ^ 48) (hclean : s.poisoned (r.addr / 64) = false) (hhere : redHere s r.addr) :
    (redFinds s r).poisoned (r.addr / 64) = false := by
  have hnot : r.addr / 64 ∉ s.poison := fun h => by
    rw [(poisoned_iff s _).2 h] at hclean
    cases hclean
  unfold redFinds
  rw [redFill_here ((redHere_countClass ..).2 hhere), Bool.eq_false_iff, Ne, poisoned_iff]
  unfold redAccess
  dsimp only
  have hops (u : State) (hu : r.addr / 64 ∉ u.poison) :
      r.addr / 64 ∉ (if addrSpace r.addr = 2 then u else u.count Reg.cacheRedOps (addrHarbour r.addr) 64).poison := by
    split
    · exact hu
    · exact hu
  refine hops _ ?_
  split
  · next hspace =>
    rw [← stackLine_lineOf ha hspace] at hnot ⊢
    exact holdAccess_clean true hnot
  · exact hnot

/-- One whose line is poisoned, or cannot be had, finds it poisoned. -/
theorem redFinds_poisoned (ha : r.addr < 2 ^ 48) (hlost : s.poisoned (r.addr / 64) = true ∨ ¬ redHere s r.addr) :
    (redFinds s r).poisoned (r.addr / 64) = true := by
  unfold redFinds
  generalize hclass : countClass s r.harbour r.temper 4 (decide (addrSpace r.addr ≠ 0) || holdHas s (addrHarbour r.addr) (lineOf r.addr)) = c
  rw [poisoned_iff]
  refine redAccess_grows _ _ _ ?_
  rcases hlost with hp | haway
  · have hfill : PoisonGrows c (redFill c r.addr) := by
      unfold redFill
      split
      · exact fillArrives_grows _ _ _ _ _
      · exact .refl c
    subst hclass
    exact hfill _ ((poisoned_iff s _).1 hp)
  · have haway' : ¬ redHere c r.addr := by
      subst hclass
      rwa [redHere_countClass]
    simp only [redHere, not_or, Bool.not_eq_true, not_not] at haway'
    obtain ⟨hspace0, hcold, hdown⟩ := haway'
    rw [redFill, if_pos (by simp [hspace0, hcold, hdown]), fillArrives, hcold]
    simp only [Bool.false_eq_true, if_false, if_true]
    rw [mem_setPoison]
    exact .inr ⟨(stackLine_lineOf ha hspace0).symm, rfl⟩

/-! ### What it leaves -/

/-- The 32 bytes at an address after a reduction. -/
def redSum (s : State) (r : Reduction) : Word256 := (redLine r.fmt (BitVec.ofNat 256 (leNat (s.load r.addr 32))) r.data).1

theorem applyReduction_adds (hheld : scratchHeld s (fun _ _ => false) r.addr 32 = false) (ha : r.addr < 2 ^ 48)
    (hclean : s.poisoned (r.addr / 64) = false) (hhere : redHere s r.addr) :
    HoldsAlone s (applyReduction s r) ∧ (applyReduction s r).mem = storeWrite s.mem r.addr (leBytes 32 (redSum s r).toNat) := by
  obtain ⟨halone, hmem, -⟩ := redFinds_keeps s r
  have hload := State.load_of_mem hmem r.addr 32
  rw [applyReduction_eq hheld, redFinds_clean ha hclean hhere, if_neg Bool.false_ne_true, hload]
  refine ⟨halone.trans ?_, ?_⟩
  · generalize leBytes 32 _ = bs
    obtain ⟨regs, links, faults, he⟩ := redClamps_rest ((redFinds s r).store r.addr bs) r.addr r.harbour r.temper
      (redLine r.fmt (BitVec.ofNat 256 (leNat (s.load r.addr 32))) r.data).2
    rw [he]
    exact ⟨rfl, fun _ => ⟨_, _, _, rfl⟩⟩
  · rw [redClamps_mem, State.store_mem, hmem]
    rfl

theorem applyReduction_lost (hheld : scratchHeld s (fun _ _ => false) r.addr 32 = false) (ha : r.addr < 2 ^ 48)
    (hlost : s.poisoned (r.addr / 64) = true ∨ ¬ redHere s r.addr) :
    HoldsAlone s (applyReduction s r) ∧ (applyReduction s r).mem = s.mem ∧ (applyReduction s r).poisoned (r.addr / 64) = true ∧
      (applyReduction s r).reg Reg.cacheRedPoisoned (addrHarbour r.addr) =
        (s.reg Reg.cacheRedPoisoned (addrHarbour r.addr) + 1) % 2 ^ 32 := by
  obtain ⟨halone, hmem, hreg⟩ := redFinds_keeps s r
  have hfound := redFinds_poisoned ha hlost
  rw [applyReduction_eq hheld, if_pos hfound]
  exact ⟨halone.trans (.count ..), hmem, hfound, by rw [State.reg_count_same, hreg]⟩

end

end Sys2Proof.Machine
end

section
/-! SUPPORT. O22: a REDA on its temper, and the turns of a hold and of the ordering unit (R188, R193, R205, R217 to R219, R221). -/

namespace Sys2Proof.Machine

/-! ### A turn of a hold or of the ordering unit -/

/-- A state that differs in time and in what one harbour keeps of its reductions. -/
structure TurnTaken (s u : State) : Prop where
  access : AccessKept s u
  mem : u.mem = s.mem
  poison : u.poison = s.poison
  redPoisoned : ∀ g, u.reg Reg.cacheRedPoisoned g = s.reg Reg.cacheRedPoisoned g

theorem turnTaken_runTo_modHarbour (s : State) (c h : Nat) (f : Harbour → Harbour) (hh : ∀ x, (f x).hold = x.hold) (hs : ∀ x, (f x).scratch = x.scratch) :
    TurnTaken s ((s.runTo c).modHarbour h f) where
  access := (AccessKept.runTo s c).trans (.modHarbour _ h f hh hs)
  mem := State.runTo_mem s c
  poison := by
    rw [State.runTo_rest]
    rfl
  redPoisoned g := State.runTo_reg_of_sub s c (by decide) (by decide) (by decide) g

/-- What stands after a reduction and the evicted lines that follow it: the harbours but for their holds and queues, and the clocks. -/
structure QueuesAlone (u t : State) : Prop where
  clocks : t.clocks = u.clocks
  harbour : ∀ g, ∃ l vs bad ds n, t.harbour g =
    { u.harbour g with hold := l, victims := vs, badLines := bad, dqs := ds, takeNext := n }

theorem QueuesAlone.withPending {u t : State} (h : QueuesAlone u t) (p : List Instr) : QueuesAlone u { t with pending := p } :=
  ⟨h.clocks, h.harbour⟩

theorem HoldsAlone.drained {u t : State} (h : HoldsAlone u t) : QueuesAlone u (drainVictims t) := by
  have hmoved := drainVictims_moved t
  refine ⟨hmoved.clocks.trans h.clocks, fun g => ?_⟩
  obtain ⟨ds, vs, n, hg⟩ := hmoved.harbour g
  obtain ⟨l, vs', bad, hg'⟩ := h.harbour g
  exact ⟨l, vs, bad, ds, n, by rw [hg, hg']⟩

section
variable {s u : State} {r : Reduction} (k : TurnTaken s u) (hheld : scratchHeld s (fun _ _ => false) r.addr 32 = false)
  (ha : r.addr < 2 ^ 48)
include k hheld ha

theorem turn_adds (hclean : s.poisoned (r.addr / 64) = false) (hhere : redHere s r.addr) :
    QueuesAlone u (drainVictims (applyReduction u r)) ∧
      (drainVictims (applyReduction u r)).mem = storeWrite s.mem r.addr (leBytes 32 (redSum s r).toNat) := by
  have hheld' : scratchHeld u (fun _ _ => false) r.addr 32 = false := by rw [k.access.scratch, hheld]
  have hclean' : u.poisoned (r.addr / 64) = false := by rw [State.poisoned, k.poison]; exact hclean
  have hhere' : redHere u r.addr := by
    rw [redHere, k.access.holdHas, k.access.stackReady]
    exact hhere
  have hsum : redSum u r = redSum s r := by rw [redSum, State.load_of_mem k.mem, redSum]
  obtain ⟨halone, hmem⟩ := applyReduction_adds hheld' ha hclean' hhere'
  rw [hsum, k.mem] at hmem
  exact ⟨halone.drained, (drainVictims_moved _).mem.trans hmem⟩

theorem turn_loses (hlost : s.poisoned (r.addr / 64) = true ∨ ¬ redHere s r.addr) :
    QueuesAlone u (drainVictims (applyReduction u r)) ∧ (drainVictims (applyReduction u r)).mem = s.mem ∧
      (drainVictims (applyReduction u r)).poisoned (r.addr / 64) = true ∧
      (drainVictims (applyReduction u r)).reg Reg.cacheRedPoisoned (addrHarbour r.addr) =
        (s.reg Reg.cacheRedPoisoned (addrHarbour r.addr) + 1) % 2 ^ 32 := by
  have hheld' : scratchHeld u (fun _ _ => false) r.addr 32 = false := by rw [k.access.scratch, hheld]
  have hlost' : u.poisoned (r.addr / 64) = true ∨ ¬ redHere u r.addr := by
    rw [State.poisoned, k.poison, redHere, k.access.holdHas, k.access.stackReady]
    exact hlost
  obtain ⟨halone, hmem, hpoison, hcount⟩ := applyReduction_lost hheld' ha hlost'
  have hmoved := drainVictims_moved (applyReduction u r)
  refine ⟨halone.drained, (hmoved.mem.trans hmem).trans k.mem, ?_, ?_⟩
  · rw [State.poisoned, hmoved.poison]
    exact hpoison
  · rw [hmoved.reg, hcount, k.redPoisoned]

end

/-- A reduction changes no byte but its 32. -/
theorem byte_outside {s t : State} {a : Nat} {v : Word256} (hmem : t.mem = storeWrite s.mem a (leBytes 32 v.toNat)) (hw : Memory.wf s = true)
    (b : Nat) (hb : b < a ∨ a + 32 ≤ b) : t.byte b = s.byte b := by
  have hout := storeGet_storeWrite s.mem a b (leBytes 32 v.toNat) hw
  rw [leBytes_length, if_neg (by omega)] at hout
  rw [State.byte, hmem]
  exact hout

section
variable {s : State} {h : Nat} {r : Reduction} {rest : List Reduction} (hh : s.hasHarbour h = true)

/-- The state in which the hold takes its oldest unordered reduction. -/
def redTurn (s : State) (h : Nat) (rest : List Reduction) : State :=
  (s.runTo (s.harbour h).redFree).modHarbour h fun x => { x with
    reductions := rest, redFree := (s.runTo (s.harbour h).redFree).clocks.cycle + 2 }

theorem redTurn_taken (s : State) (h : Nat) (rest : List Reduction) : TurnTaken s (redTurn s h rest) := turnTaken_runTo_modHarbour _ _ _ _ (fun _ => rfl) fun _ => rfl

include hh in
theorem exec_reductionApply (hr : (s.harbour h).reductions = r :: rest) :
    exec (.reductionApply h) s = .next { drainVictims (applyReduction (redTurn s h rest) r) with pending := s.pending } := by
  have hturn : holdReduces s h = drainVictims (applyReduction (redTurn s h rest) r) := by
    rw [holdReduces, hr]
    rfl
  change onUnit (s.hasHarbour h) s (holdReduces s h) = _
  rw [hturn, hh]
  rfl

/-- What the hold's turn leaves of its harbour and the clocks. -/
theorem redTurn_place {t : State} (hq : QueuesAlone (redTurn s h rest) t) : (t.harbour h).reductions = rest ∧
    t.clocks.cycle = max s.clocks.cycle (s.harbour h).redFree ∧ (t.harbour h).redFree = t.clocks.cycle + 2 := by
  obtain ⟨l, vs, bad, ds, n, hg⟩ := hq.harbour h
  have hcycle : t.clocks.cycle = (s.runTo (s.harbour h).redFree).clocks.cycle := by rw [hq.clocks]; rfl
  rw [hg, hcycle]
  refine ⟨?_, State.runTo_cycle s _, ?_⟩
  · rw [redTurn, State.harbour_modHarbour]
  · rw [redTurn, State.harbour_modHarbour]

/-- The state in which the ordering unit takes a reduction in cycle `c`. -/
def orderedTurn (s : State) (h c : Nat) (rest : List Reduction) : State :=
  (s.runTo c).modHarbour h fun x => { x with ordered := rest, orderedFree := (s.runTo c).clocks.cycle + 16 }

theorem orderedTurn_taken (s : State) (h c : Nat) (rest : List Reduction) : TurnTaken s (orderedTurn s h c rest) :=
  turnTaken_runTo_modHarbour _ _ _ _ (fun _ => rfl) fun _ => rfl

/-- The cycle in which the ordering unit may take a reduction (R189, R221). -/
def orderedAt (s : State) (h : Nat) (r : Reduction) : Nat :=
  max (s.harbour h).orderedFree (s.clocks.cycle +
    if s.lockstep h then groupPace s * (r.cycle + s.reg Reg.engDqDueLocal h - s.reg Reg.engGroupCycles h) else 0)

include hh in
theorem exec_orderedReductionApply (hr : nextOrdered (s.harbour h).ordered = some (r, rest))
    (hdue : orderedDue (s.runTo (orderedAt s h r)) h r = true) :
    exec (.orderedReductionApply h) s =
      .next { drainVictims (applyReduction (orderedTurn s h (orderedAt s h r) rest) r) with pending := s.pending } := by
  have hwait : groupPace s * (if s.lockstep h then r.cycle + s.reg Reg.engDqDueLocal h - s.reg Reg.engGroupCycles h else 0) =
      if s.lockstep h then groupPace s * (r.cycle + s.reg Reg.engDqDueLocal h - s.reg Reg.engGroupCycles h) else 0 := by
    split
    · rfl
    · exact Nat.mul_zero _
  have hturn : orderedReduces s h = drainVictims (applyReduction (orderedTurn s h (orderedAt s h r) rest) r) := by
    rw [orderedReduces, hr]
    dsimp only
    rw [hwait]
    exact if_pos hdue
  change onUnit (s.hasHarbour h) s (orderedReduces s h) = _
  rw [hturn, hh]
  rfl

/-- What the ordering unit's turn leaves of its harbour and the clocks. -/
theorem orderedTurn_place {t : State} (hq : QueuesAlone (orderedTurn s h (orderedAt s h r) rest) t) : (t.harbour h).ordered = rest ∧
    t.clocks.cycle = orderedAt s h r ∧ (t.harbour h).orderedFree = orderedAt s h r + 16 := by
  obtain ⟨l, vs, bad, ds, n, hg⟩ := hq.harbour h
  have hcycle : (s.runTo (orderedAt s h r)).clocks.cycle = orderedAt s h r := by
    rw [State.runTo_cycle]
    exact max_eq_right (by unfold orderedAt; omega)
  refine ⟨?_, ?_, ?_⟩
  · rw [hg, orderedTurn, State.harbour_modHarbour]
  · rw [hq.clocks]
    exact hcycle
  · rw [hg, orderedTurn, State.harbour_modHarbour]
    exact congrArg (· + 16) hcycle

end

end Sys2Proof.Machine
end

section
/-! SUPPORT. REDA on its temper (R189, R193, R194, R217, R219, R221). -/

namespace Sys2Proof.Machine

/-! ### The line of the data cache -/

theorem dropForReduction_temper (s : State) (h k a : Nat) : ∃ l, (dropForReduction s h k a).temper h k = { s.temper h k with data := l } := by
  unfold dropForReduction
  dsimp only
  split
  · exact ⟨_, rfl⟩
  · rw [writeBack_temper, State.temper_setTemper]
    exact ⟨_, rfl⟩

theorem kernelAt_drop {s : State} {h k : Nat} {y : Kernel} (hy : KernelAt s h k y) (a : Nat) : KernelAt (dropForReduction s h k a) h k y := by
  obtain ⟨l, hl⟩ := dropForReduction_temper s h k a
  exact hy.of_kernel (by rw [hl])

theorem dropForReduction_wants (s : State) (h k a : Nat) : (dropForReduction s h k a).wants h k = s.wants h k := by
  obtain ⟨l, hl⟩ := dropForReduction_temper s h k a
  rw [State.wants, hl]
  rfl

/-- A reduction into an array leaves every temper. -/
theorem applyReduction_temper {s : State} {r : Reduction} (hheld : scratchHeld s (fun _ _ => false) r.addr 32 = false) (h k : Nat) :
    (applyReduction s r).temper h k = s.temper h k := by
  have hfinds : (redFinds s r).temper h k = s.temper h k := by
    obtain ⟨l, vs, bad, hg⟩ := (redFinds_keeps s r).1.harbour h
    rw [State.temper, hg, State.temper]
  rw [applyReduction_eq hheld]
  split
  · rw [← hfinds]
    rfl
  · generalize leBytes 32 _ = bs
    obtain ⟨regs, links, faults, he⟩ := redClamps_rest ((redFinds s r).store r.addr bs) r.addr r.harbour r.temper
      (redLine r.fmt (BitVec.ofNat 256 (leNat ((redFinds s r).load r.addr 32))) r.data).2
    rw [he, ← hfinds]
    rfl

/-- A reduction that no scratch range bars leaves its temper without a change of that temper. -/
theorem sendReduction_temper {s : State} {h k : Nat} {r : Reduction} (hheld : scratchHeld s (fun _ _ => false) r.addr 32 = false) :
    (sendReduction s h k r).temper h k = s.temper h k := by
  unfold sendReduction
  split
  · exact State.modHarbour_temper _ _ _ (by intro; rfl) (by intro; rfl) _ _
  · split
    · exact applyReduction_temper hheld h k
    · split
      · exact State.modHarbour_temper _ _ _ (by intro; rfl) (by intro; rfl) _ _
      · exact appendItem_temper ..

/-! ### Where it goes -/

/-- A kernel whose instruction is held up has fetched it, and nothing more. -/
theorem kernel_waits {op h k : Nat} {body : Body} {f : AnvilFields} {s : State} {rf : Regfile} {sh : Shape} {r : Ran}
    (hr : readyAt s (.temper h k) op f rf) (hs : shapeOf op f = some sh)
    (hrun : runOnce op body (seatExec s (.temper h k)) f { s := seatState s (.temper h k), rf := rf, stop := none } = r)
    (hw : r.wait = true) (hstop : r.stop = none) (hmiss : r.s.wants h k = []) :
    ∃ x, (s.temper h k).kernel = some x ∧ x.rf = rf ∧ runKernel op body h k f s = seatFetch s h k x := by
  obtain ⟨hto, hu, hk2, hst, hwait, x, hx, rfl, he, hb, hrep, hdone, hfw, hword, hp⟩ := hr
  obtain ⟨l, hl⟩ := seatFetch_kernel hx
  refine ⟨x, hx, rfl, ?_⟩
  have hb2 : ¬ x.budget ≤ x.executed := by omega
  have hfetch : kernelFetch op sh f h k x s = (seatFetch s h k x, true) := by
    simp [kernelFetch, hfw, hword, hp, hto, seatFetch]
  have hlen : repeats x.rep = 1 := by rw [hrep]; rfl
  have honce : kernelOnce op body sh f h k { x with arrived := l, done := some 0 } (seatFetch s h k x) 0 = r := by
    rw [← hrun]
    simp only [kernelOnce, seatExec, seatState, hx, hrep, stepOffset, fieldsAt, Nat.zero_mul, Nat.add_zero]
    rfl
  have hrepeat : kernelRepeat op body sh f h k { x with arrived := l, done := some 0 } (seatFetch s h k x) 0 = (seatFetch s h k x, false) := by
    simp [kernelRepeat, hlen, hb, honce, hmiss, hstop, hw]
  simp only [runKernel, hx, hs, he, hst, hwait, hdone, Option.isNone_none, Bool.true_and, hb2, decide_false, Bool.or_self,
    kernelWord_of_fetch hfw, hword, bne_self_eq_false, Bool.false_eq_true, ↓reduceIte]
  rw [show (16384 : Nat) = 16382 + 1 + 1 from rfl, kernelRun_none hx he hdone hfetch, if_pos rfl,
    kernelRun_some hl he rfl hrepeat, if_neg Bool.false_ne_true]

section
variable {s : State} {h k : Nat} {f : AnvilFields} {rf : Regfile} (hr : readyAt s (.temper h k) 0x3A f rf) (hp : predOn rf f = true)

/-- The half-line of the REDA that is next. -/
def redaAddr (s : State) (h k : Nat) (f : AnvilFields) : Nat := arAddr (seatState s (.temper h k)) h k f.b.toNat f / 32 * 32

/-- The reduction of the REDA that is next. -/
def redaOf (s : State) (h k : Nat) (f : AnvilFields) (rf : Regfile) : Reduction :=
  { temper := k, addr := redaAddr s h k f, fmt := f.fmt.toNat, data := vReg rf f.a.toNat, ordered := f.x.getLsbD 25,
    cycle := (seatState s (.temper h k)).reg Reg.engGroupCycles h, harbour := h }

/-- The state in which it leaves its temper. -/
def redaFrom (s : State) (h k : Nat) (f : AnvilFields) : State := dropForReduction (seatState s (.temper h k)) h k (redaAddr s h k f)

include hr hp

theorem exec_reda_range (hrange : redRange (seatState s (.temper h k)) h k (redaAddr s h k f) (f.x.getLsbD 25) = false) :
    ∃ t, exec (.reda (.temper h k) f) s = .next t ∧ t.mem = (seatState s (.temper h k)).mem ∧
      (t.temper h k).kernel.map (fun y => (y.ended, y.status)) = some (true, 2) := by
  have hbody : redaBody h k (seatExec s (.temper h k)) f (seatState s (.temper h k)) rf =
      { s := seatState s (.temper h k), rf := rf, stop := some (2, redaAddr s h k f / 64 % 2 ^ 32) } := by
    rw [redaAddr] at hrange
    simp only [redaBody, hrange, Bool.not_false, if_true, redaAddr]
  obtain ⟨x, hx⟩ : ∃ x, (s.temper h k).kernel = some x := by
    obtain ⟨-, -, -, -, -, x, hx, -⟩ := hr
    exact ⟨x, hx⟩
  exact temper_stops (op := 0x3A) (body := redaBody h k) hx hr rfl hp (by decide) 2 (by decide) hbody

variable (hrange : redRange (seatState s (.temper h k)) h k (redaAddr s h k f) (f.x.getLsbD 25) = true)

omit hr hp in
include hrange in
/-- No scratch range bars a reduction that is in its space. -/
theorem redaFrom_held : scratchHeld (redaFrom s h k f) (fun _ _ => false) (redaOf s h k f rf).addr 32 = false := by
  have hok : rangeOk (seatState s (.temper h k)) (redaAddr s h k f) 32 = true := (Bool.and_eq_true_iff.1 hrange).1
  have hheld : scratchHeld (seatState s (.temper h k)) (fun _ _ => false) (redaAddr s h k f) 32 = false :=
    Bool.not_eq_true' _ ▸ (Bool.and_eq_true_iff.1 hok).2
  exact ((WaitingKept.dropForReduction ..).scratch _ _ _).trans hheld

variable (hroute : freeRoute (seatState s (.temper h k)) h (addrHarbour (redaAddr s h k f)) = true)
  (hentry : addrSpace (redaAddr s h k f) = 2 ∨ noEntry (seatState s (.temper h k)) h = false)
include hrange hroute hentry

/-- A REDA that may issue leaves its reduction where it goes. -/
theorem exec_reda_sends (hroom : f.x.getLsbD 25 = true → (s.harbour h).ordered.length < 64) :
    ∃ t z, exec (.reda (.temper h k) f) s = .next t ∧ ranOn s t (.temper h k) 1 rf ∧
      KernelLeft (sendReduction (redaFrom s h k f) h k (redaOf s h k f rf)) t h k z := by
  have hwait : (addrSpace (redaAddr s h k f) != 2 && noEntry (seatState s (.temper h k)) h ||
      f.x.getLsbD 25 && decide (64 ≤ ((seatState s (.temper h k)).harbour h).ordered.length)) = false := by
    have hfirst : (addrSpace (redaAddr s h k f) != 2 && noEntry (seatState s (.temper h k)) h) = false := by
      rcases hentry with he | he <;> simp [he]
    rw [hfirst, Bool.false_or, Bool.and_eq_false_imp, (WaitingKept.seatState s h k).ordered]
    exact fun ho => decide_eq_false (by have := hroom ho; omega)
  have hbody : redaBody h k (seatExec s (.temper h k)) f (seatState s (.temper h k)) rf =
      { s := sendReduction (redaFrom s h k f) h k (redaOf s h k f rf), rf := rf, stop := none } := by
    simp only [redaAddr] at hrange hroute hwait
    simp only [redaBody, hrange, hroute, hwait, Bool.not_true, Bool.false_eq_true, if_false]
    rfl
  obtain ⟨x, hx⟩ : ∃ x, (s.temper h k).kernel = some x := by
    obtain ⟨-, -, -, -, -, x, hx, -⟩ := hr
    exact ⟨x, hx⟩
  have htemper := sendReduction_temper (h := h) (k := k) (redaFrom_held (rf := rf) hrange)
  have hmiss : (redaFrom s h k f).wants h k = [] := (dropForReduction_wants ..).trans (seatState_wants hr)
  obtain ⟨t, z, ht, hran, hleft, -⟩ := temper_does (op := 0x3A) (body := redaBody h k) hr rfl hp (by decide) hbody hx
    ((kernelAt_drop (seatState_kernelAt hx) (redaAddr s h k f)).of_temper htemper) rfl ((State.wants_of_temper htemper).trans hmiss) rfl
  exact ⟨t, z, ht, hran, hleft⟩

omit hentry in
/-- While the ordering unit is full, a REDA for it waits to issue: its kernel has fetched it, and nothing more. -/
theorem exec_reda_waits (ho : f.x.getLsbD 25 = true) (hfull : 64 ≤ (s.harbour h).ordered.length) :
    ∃ t, exec (.reda (.temper h k) f) s = .next t ∧ seatRegs t (.temper h k) = some rf ∧
      seatPlace t (.temper h k) = seatPlace s (.temper h k) ∧ (t.harbour h).ordered = (s.harbour h).ordered := by
  have hwait : (addrSpace (redaAddr s h k f) != 2 && noEntry (seatState s (.temper h k)) h ||
      f.x.getLsbD 25 && decide (64 ≤ ((seatState s (.temper h k)).harbour h).ordered.length)) = true := by
    simp [ho, hfull, (WaitingKept.seatState s h k).ordered]
  have hbody : redaBody h k (seatExec s (.temper h k)) f (seatState s (.temper h k)) rf = holdUp (seatState s (.temper h k)) rf := by
    simp only [redaAddr] at hrange hroute hwait
    simp only [redaBody, hrange, hroute, hwait, Bool.not_true, Bool.false_eq_true, if_false, if_true]
  obtain ⟨x, hx, hxrf, hrun⟩ := kernel_waits (op := 0x3A) hr rfl ((anvil_on (redaBody h k) hp _).trans hbody) rfl rfl (seatState_wants hr)
  have hseat : s.hasSeat (.temper h k) = true := by simp [State.hasSeat, hr.2.1, hr.2.2.1]
  have hexec : exec (.reda (.temper h k) f) s = .next { seatFetch s h k x with pending := s.pending } := by
    rw [← hrun]
    change onUnit (s.hasSeat (.temper h k)) s (runKernel 0x3A (redaBody h k) h k f s) = _
    rw [hseat]
    rfl
  obtain ⟨l, hl⟩ := seatFetch_kernel hx
  have htemper : ({ seatFetch s h k x with pending := s.pending } : State).temper h k = (seatFetch s h k x).temper h k := rfl
  refine ⟨_, hexec, ?_, ?_, (WaitingKept.seatFetch s h k x).ordered h⟩
  · rw [seatRegs, htemper, hl, ← hxrf]
    rfl
  · rw [seatPlace, seatPlace, htemper, hl, hx]
    rfl

/-! ### What it leaves -/

theorem exec_reda_ordered (ho : f.x.getLsbD 25 = true) (hroom : (s.harbour h).ordered.length < 64) :
    ∃ t, exec (.reda (.temper h k) f) s = .next t ∧ ranOn s t (.temper h k) 1 rf ∧
      (t.harbour h).ordered = (s.harbour h).ordered ++ [redaOf s h k f rf] := by
  obtain ⟨t, z, ht, hran, hleft⟩ := exec_reda_sends hr hp hrange hroute hentry fun _ => hroom
  have hsend : sendReduction (redaFrom s h k f) h k (redaOf s h k f rf) =
      (redaFrom s h k f).modHarbour h fun x => { x with ordered := x.ordered ++ [redaOf s h k f rf] } := if_pos ho
  refine ⟨t, ht, hran, ?_⟩
  rw [hleft.ordered, hsend, State.harbour_modHarbour]
  exact congrArg (· ++ _) (((WaitingKept.seatState s h k).trans (.dropForReduction ..)).ordered h)

theorem exec_reda_own (ho : f.x.getLsbD 25 = false) (hspace : addrSpace (redaAddr s h k f) = 2)
    (hclean : (redaFrom s h k f).poisoned (redaAddr s h k f / 64) = false) :
    ∃ t, exec (.reda (.temper h k) f) s = .next t ∧ ranOn s t (.temper h k) 1 rf ∧
      t.mem = storeWrite (redaFrom s h k f).mem (redaAddr s h k f) (leBytes 32 (redSum (redaFrom s h k f) (redaOf s h k f rf)).toNat) := by
  obtain ⟨t, z, ht, hran, hleft⟩ := exec_reda_sends hr hp hrange hroute hentry fun h => by rw [ho] at h; cases h
  have hsend : sendReduction (redaFrom s h k f) h k (redaOf s h k f rf) = applyReduction (redaFrom s h k f) (redaOf s h k f rf) :=
    (if_neg (by rw [redaOf, ho]; exact Bool.false_ne_true)).trans (if_pos hspace)
  have hlow : (redaOf s h k f rf).addr < 2 ^ 48 := by
    have hok : rangeOk (seatState s (.temper h k)) (redaAddr s h k f) 32 = true := (Bool.and_eq_true_iff.1 hrange).1
    have hspaceOk : spaceOk (seatState s (.temper h k)) (redaAddr s h k f) 32 = true := (Bool.and_eq_true_iff.1 hok).1
    rw [spaceOk, Bool.and_eq_true, Bool.and_eq_true, decide_eq_true_eq] at hspaceOk
    exact hspaceOk.1.1
  have hadds := (applyReduction_adds (redaFrom_held (rf := rf) hrange) hlow hclean (.inl (by rw [redaOf, hspace]; decide))).2
  exact ⟨t, ht, hran, by rw [hleft.mem, hsend, hadds]; rfl⟩

theorem exec_reda_away (ho : f.x.getLsbD 25 = false) (hspace : addrSpace (redaAddr s h k f) ≠ 2) :
    ∃ t, exec (.reda (.temper h k) f) s = .next t ∧ ranOn s t (.temper h k) 1 rf ∧
      (s.lockstep h = false → addrHarbour (redaAddr s h k f) = h →
        (t.harbour h).reductions = (s.harbour h).reductions ++ [redaOf s h k f rf]) ∧
      (s.lockstep h = true ∨ addrHarbour (redaAddr s h k f) ≠ h →
        ∃ i ∈ (t.harbour h).dq 3, i.use = .reduce (redaOf s h k f rf) ∧ i.dst = redaAddr s h k f) := by
  obtain ⟨t, z, ht, hran, hleft⟩ := exec_reda_sends hr hp hrange hroute hentry fun h => by rw [ho] at h; cases h
  have hkept := (WaitingKept.seatState s h k).trans (.dropForReduction (seatState s (.temper h k)) h k (redaAddr s h k f))
  have hmode : (redaFrom s h k f).lockstep h = s.lockstep h := hkept.lockstep h
  let q := (((redaFrom s h k f).temper h k).kernel.map Kernel.queue).getD 0
  let i := itemOf (k + 1) q (.reduce (redaOf s h k f rf)) 0 (redaAddr s h k f) 0 0#512 false
  have hsend : sendReduction (redaFrom s h k f) h k (redaOf s h k f rf) =
      if (!s.lockstep h && addrHarbour (redaAddr s h k f) == h) = true then
        (redaFrom s h k f).modHarbour h fun x => { x with reductions := x.reductions ++ [redaOf s h k f rf] }
      else appendItem (redaFrom s h k f) h 3 i := by
    rw [← hmode]
    exact (if_neg (by rw [redaOf, ho]; exact Bool.false_ne_true)).trans (if_neg hspace)
  refine ⟨t, ht, hran, fun hqueue hhere => ?_, fun haway => ?_⟩
  · rw [hleft.reductions, hsend, if_pos (by simp [hqueue, hhere]), State.harbour_modHarbour]
    exact congrArg (· ++ _) (hkept.reductions h)
  · have hcond : ¬ (!s.lockstep h && addrHarbour (redaAddr s h k f) == h) = true := by
      rcases haway with h1 | h1 <;> simp [h1]
    obtain ⟨b, hb⟩ := (appendItem_moves (redaFrom s h k f) h 3 i).kept h 3 _ (mem_queued (redaFrom s h k f) h 3 i)
    obtain ⟨st, g, p, x, he⟩ := queuedItem_eq (redaFrom s h k f) h 3 i
    rw [he] at hb
    rw [hleft.dq, hsend, if_neg hcond]
    exact ⟨_, hb, rfl, rfl⟩

end

/-- Settles O22: exec_reda_sends leads to where the reduction goes, turn_adds and turn_loses say what its turn leaves. -/
theorem reductionsAddToLines : Obligations.ReductionsAddToLines := by
  unfold Obligations.ReductionsAddToLines
  refine ⟨fun s h k f rf hr hp => ⟨exec_reda_range hr hp, fun hrange hroute hentry => ?_⟩, fun s h r hh ha hheld => ?_⟩
  · exact ⟨exec_reda_ordered hr hp hrange hroute hentry, exec_reda_waits hr hp hrange hroute,
      fun ho hspace hclean => exec_reda_own hr hp hrange hroute hentry ho hspace hclean, exec_reda_away hr hp hrange hroute hentry⟩
  · refine ⟨fun rest hred => ⟨fun hclean hhere => ?_, fun hlost => ?_⟩, fun rest hord => ?_⟩
    · obtain ⟨hq, hmem⟩ := turn_adds (redTurn_taken s h rest) hheld ha hclean hhere
      exact ⟨_, exec_reductionApply hh hred, ⟨hmem, byte_outside hmem⟩, redTurn_place (hq.withPending _)⟩
    · obtain ⟨hq, hmem, hpoison, hcount⟩ := turn_loses (redTurn_taken s h rest) hheld ha hlost
      exact ⟨_, exec_reductionApply hh hred, hmem, hpoison, (redTurn_place (hq.withPending _)).1, hcount⟩
    · intro wait c hdue hclean hhere
      obtain ⟨hq, hmem⟩ := turn_adds (orderedTurn_taken s h (orderedAt s h r) rest) hheld ha hclean hhere
      exact ⟨_, exec_orderedReductionApply hh hord hdue, ⟨hmem, byte_outside hmem⟩, orderedTurn_place (hq.withPending _)⟩

end Sys2Proof.Machine
end

section
/-! SUPPORT. What stands while a command works through its lines: the accesses, the queues and the holds, where only running commands,
tokens and tempers move; and the line more that a command has (R184, R199). -/

namespace Sys2Proof.Machine

/-- Between two states only running commands, tokens and tempers have moved. -/
structure WorkMoved (s t : State) : Prop where
  rest : t = { s with harbours := t.harbours }
  access : AccessKept s t
  harbour : ∀ g, ∃ rs ts x y, t.harbour g = { s.harbour g with running := rs, tokens := ts, temper0 := x, temper1 := y }

namespace WorkMoved

theorem refl (s : State) : WorkMoved s s := ⟨rfl, .refl s, fun _ => ⟨_, _, _, _, rfl⟩⟩

theorem trans {s t u : State} (h : WorkMoved s t) (k : WorkMoved t u) : WorkMoved s u where
  rest := by rw [k.rest, h.rest]
  access := h.access.trans k.access
  harbour g := by
    obtain ⟨rs, ts, x, y, hg⟩ := k.harbour g
    obtain ⟨rs', ts', x', y', hg'⟩ := h.harbour g
    exact ⟨rs, ts, x, y, by rw [hg, hg']⟩

theorem modHarbour (s : State) (h : Nat) (f : Harbour → Harbour)
    (hf : ∀ x, ∃ rs ts a b, f x = { x with running := rs, tokens := ts, temper0 := a, temper1 := b }) : WorkMoved s (s.modHarbour h f) where
  rest := rfl
  access := .modHarbour s h f (fun x => by obtain ⟨rs, ts, a, b, hx⟩ := hf x; rw [hx])
    fun x => by obtain ⟨rs, ts, a, b, hx⟩ := hf x; rw [hx]
  harbour g := by
    by_cases hg : h = g
    · subst hg; rw [State.harbour_modHarbour]; exact hf _
    · rw [State.harbour_modHarbour_other _ _ hg]; exact ⟨_, _, _, _, rfl⟩

theorem modRunning (s : State) (h e q : Nat) (g : Running → Running) : WorkMoved s (Machine.modRunning s h e q g) :=
  modHarbour s h _ fun _ => ⟨_, _, _, _, rfl⟩

theorem lineDone (s : State) (h : Nat) (c : Cmd) : WorkMoved s (Machine.lineDone s h c) := by
  unfold Machine.lineDone
  split
  · exact modHarbour s h _ fun _ => ⟨_, _, _, _, rfl⟩
  · exact refl s

theorem setTemper (s : State) (h u : Nat) (v : Temper) : WorkMoved s (s.setTemper h u v) := by
  refine modHarbour s h _ fun x => ?_
  split
  · exact ⟨_, _, _, _, rfl⟩
  · exact ⟨_, _, _, _, rfl⟩

section
variable {s t : State} (k : WorkMoved s t)
include k

theorem mem : t.mem = s.mem := by rw [k.rest]

theorem clocks : t.clocks = s.clocks := by rw [k.rest]

theorem hold (g : Nat) : (t.harbour g).hold = (s.harbour g).hold := k.access.hold g

theorem dqs (g : Nat) : (t.harbour g).dqs = (s.harbour g).dqs := by
  obtain ⟨rs, ts, x, y, hg⟩ := k.harbour g
  rw [hg]

theorem dqRoom (g d : Nat) : (t.harbour g).dqRoom d = (s.harbour g).dqRoom d := by
  unfold Harbour.dqRoom Harbour.dq
  rw [k.dqs]

theorem tongs (g : Nat) : (t.harbour g).tongsNext = (s.harbour g).tongsNext ∧ (t.harbour g).tongsFree = (s.harbour g).tongsFree := by
  obtain ⟨rs, ts, x, y, hg⟩ := k.harbour g
  rw [hg]
  exact ⟨rfl, rfl⟩

end

end WorkMoved

/-! ### One line more -/

/-- A running command that has one line more, not poisoned. -/
def Running.oneMore (r : Running) : Running := { r with delivered := r.delivered + 1, finished := decide (r.delivered + 1 = r.total) }

section
variable {s : State} {h e q : Nat} {r : Running} (hrun : (s.harbour h).runningAt e q = some r) (hfin : r.finished = false) (k : Nat)
include hrun hfin

/-- A line that is not poisoned advances the token of its command with PER_ITEM, and counts. -/
theorem noteLine_clean : noteLine s h e q k false = modRunning (lineDone s h r.cmd) h e q Running.oneMore := by
  simp only [noteLine, hrun, hfin, countPoison, abortsOn, Bool.false_and, Bool.false_eq_true, if_false, Bool.or_false]
  rfl

theorem noteLine_moved : WorkMoved s (noteLine s h e q k false) := by
  rw [noteLine_clean hrun hfin]
  exact (WorkMoved.lineDone s h r.cmd).trans (.modRunning _ _ _ _ _)

theorem runningAt_noteLine : ((noteLine s h e q k false).harbour h).runningAt e q = some r.oneMore := by
  have hline : ((lineDone s h r.cmd).harbour h).runningAt e q = some r := by
    unfold lineDone
    split
    · rw [advanceToken, State.harbour_modHarbour]; exact hrun
    · exact hrun
  rw [noteLine_clean hrun hfin, runningAt_modRunning, hline]
  · rfl
  · exact fun _ => ⟨rfl, rfl⟩

theorem noteLine_temper (a b : Nat) : (noteLine s h e q k false).temper a b = s.temper a b := by
  rw [noteLine_clean hrun hfin, modRunning_temper]
  unfold lineDone
  split
  · rw [advanceToken, State.modHarbour_temper] <;> exact fun _ => rfl
  · rfl

theorem noteLine_token : tabGet 0#16 ((noteLine s h e q k false).harbour h).tokens (cmdDone r.cmd) =
    tabGet 0#16 (s.harbour h).tokens (cmdDone r.cmd) + if cmdPerItem r.cmd = true ∧ cmdDoneEn r.cmd = true then 1#16 else 0#16 := by
  rw [noteLine_clean hrun hfin, modRunning_harbour]
  unfold lineDone
  by_cases hc : cmdPerItem r.cmd = true ∧ cmdDoneEn r.cmd = true
  · simp [hc, advanceToken, tabMod]
  · simp only [Bool.and_eq_true, if_neg hc, BitVec.add_zero]

end

/-- A command that has taken up its next line has one line more once that is noted. -/
theorem oneLineDone_noteLine {s u : State} {h e q : Nat} {r : Running} {b : Bool} (hrun : (u.harbour h).runningAt e q =
    some { r with issued := r.issued + 1, posted := b }) (hfin : r.finished = false) (htokens : (u.harbour h).tokens = (s.harbour h).tokens)
    (k : Nat) : oneLineDone s (noteLine u h e q k false) h e q r r.total false := by
  refine ⟨_, runningAt_noteLine hrun hfin k, rfl, rfl, rfl, rfl, by simp [Running.oneMore], ?_⟩
  rw [← htokens]
  exact noteLine_token hrun hfin k

theorem oneLineDone_of {s t t' : State} {h e q total : Nat} {r : Running} {p : Bool} (hrunning : (t'.harbour h).running = (t.harbour h).running)
    (htokens : (t'.harbour h).tokens = (t.harbour h).tokens) (hd : oneLineDone s t h e q r total p) : oneLineDone s t' h e q r total p := by
  simpa only [oneLineDone, Harbour.runningAt, hrunning, htokens] using hd

end Sys2Proof.Machine
end

section
/-! SUPPORT. An item that is placed waits in its queue, or is carried out at once (R186, R189, R190, R236). -/

namespace Sys2Proof.Machine

/-- An item of this command, use and place stands in a decoupling queue. -/
def standsIn (s : State) (h d : Nat) (i : Item) : Prop :=
  ∃ j ∈ (s.harbour h).dq d, j.engine = i.engine ∧ j.queue = i.queue ∧ j.use = i.use ∧ j.src = i.src ∧ j.dst = i.dst

/-- What an item that waits in its queue leaves, and the item there. -/
theorem placeItem_waiting {s : State} {h d : Nat} {i : Item} (hw : waitsInQueue s h i) :
    (placeItem s h d false i).clocks = s.clocks ∧ (placeItem s h d false i).mem = s.mem ∧
      ((placeItem s h d false i).harbour h).tongsNext = (s.harbour h).tongsNext ∧
      ((placeItem s h d false i).harbour h).tongsFree = (s.harbour h).tongsFree ∧
      standsIn (placeItem s h d false i) h d i := by
  rw [placeItem_waits hw]
  obtain ⟨hclocks, hharbours, -, hmem, taken, hitem⟩ := drained_append s h d i
  obtain ⟨l, vs, bad, ds, n, hh⟩ := hharbours h
  obtain ⟨st, got, p, x, hq⟩ := queuedItem_eq s h d i
  refine ⟨hclocks, hmem, by rw [hh], by rw [hh], _, hitem, ?_⟩
  rw [hq]
  exact ⟨rfl, rfl, rfl, rfl, rfl⟩

/-- The only place of an item is no scratch range's of another command where its command may access it. -/
theorem scratchBars_of_range {s : State} {h a : Nat} {i : Item} (hplaces : i.places = [a]) (hspan : i.span = 64)
    (hrange : rangeFor s h i.engine i.queue a 64 = true) : scratchBars s h i = false := by
  simp only [rangeFor, Bool.and_eq_true, Bool.not_eq_true'] at hrange
  obtain ⟨-, hfree⟩ := hrange
  simp [scratchBars, hplaces, hspan, hfree]

/-- An item that is carried out at once: as it was issued, arrived. -/
theorem placeItem_serves {s : State} {h d : Nat} {i : Item} (hs : servedAtOnce s h i) (hbars : scratchBars s h i = false) : ∃ n m,
    placeItem s h d false i = drainVictims (useItem (countFill s i) h
      { i with issued := n, due := m, stack := false, taken := false, arrived := true }) := by
  obtain ⟨hmode, hat, hlost, hout⟩ := hs
  have hneeds : needsStack s i = false := by
    simp only [arrivesAtOnce, Bool.and_eq_true, Bool.not_eq_true'] at hat
    exact hat.2
  refine ⟨s.clocks.cycle, itemDue s h i, ?_⟩
  have hlaunch : launchItem s h i = (countFill s i,
      { i with issued := s.clocks.cycle, due := itemDue s h i, stack := false, taken := false, arrived := true }) := by
    simp [launchItem, hlost, hat, hneeds]
  have hbars' : scratchBars (countFill s i) h
      { i with issued := s.clocks.cycle, due := itemDue s h i, stack := false, taken := false, arrived := true } = false := by
    rw [← hbars]
    simp only [scratchBars, (WaitingKept.countFill s i).scratch]
    rfl
  simp [placeItem, hmode, hlaunch, hout, deliverItem, hbars']

theorem servedAtOnce_of {s u : State} {h : Nat} {i : Item} (hk : AccessKept s u) (hdq : (u.harbour h).dqs = (s.harbour h).dqs)
    (hs : servedAtOnce s h i) : servedAtOnce u h i := by
  unfold servedAtOnce at hs ⊢
  rwa [hk.lockstep, hk.arrivesAtOnce, hk.addressesLost, Harbour.outstanding, hdq]

/-- What is carried out at once is its own harbour's. -/
theorem servedAtOnce_own {s : State} {h : Nat} {i : Item} (hs : servedAtOnce s h i) : ∀ a ∈ i.places, addrHarbour a = h := by
  obtain ⟨-, hat, -, -⟩ := hs
  simp only [arrivesAtOnce, Bool.and_eq_true, List.all_eq_true, beq_iff_eq] at hat
  exact hat.1

end Sys2Proof.Machine
end

section
/-! SUPPORT. A range operation of the tongs, at the hold (R182, R186, R206, R222, R223). -/

namespace Sys2Proof.Machine

/-! ### A line of the hold, written back -/

theorem holdLeaves_hold (s : State) (h : Nat) (v : Nat × Bool) : ((holdLeaves s h v).harbour h).hold = (s.harbour h).hold := by
  unfold holdLeaves
  dsimp only
  split
  · rw [State.harbour_count, State.harbour_setHarbour]
  · split
    · change ((s.setHarbour h _).harbour h).hold = _
      rw [State.harbour_setHarbour]
    · rfl

/-- The state in which a dirty line of a hold has been written back, before it is kept or dropped. -/
def heldBack (s : State) (h line : Nat) (dirty : Bool) : State :=
  if dirty then (s.setHarbour h { s.harbour h with badLines := (s.harbour h).badLines.filter (· != line) }).count Reg.cacheHoldWritebacks h 64
  else s

theorem heldBack_moved (s : State) (h line : Nat) (d : Bool) : HoldsMoved s (heldBack s h line d) := by
  unfold heldBack
  split
  · exact (HoldsMoved.setHarbour s h (s.harbour h).hold (s.harbour h).victims _).trans (.count _ (by decide) _ _ _)
  · exact .refl s

theorem heldBack_hold (s : State) (h line : Nat) (d : Bool) : ((heldBack s h line d).harbour h).hold = (s.harbour h).hold := by
  unfold heldBack
  split
  · rw [State.harbour_count, State.harbour_setHarbour]
  · rfl

theorem cleanLine_absent {s : State} {h line : Nat} (drop : Bool) (hf : (s.harbour h).hold.find? (fun y => y.1 == line) = none) :
    cleanLine s h line drop = s := by
  simp only [cleanLine, hf]

theorem cleanLine_drop {s : State} {h line : Nat} {y : Nat × Bool} (hf : (s.harbour h).hold.find? (fun y => y.1 == line) = some y) :
    cleanLine s h line true = ((if y.2 then heldBack s h line y.2 else holdLeaves (heldBack s h line y.2) h (line, false)).modHarbour h fun z =>
      { z with hold := z.hold.filter fun w => w.1 != line }) := by
  simp only [cleanLine, hf]
  rfl

theorem cleanLine_keep {s : State} {h line : Nat} {y : Nat × Bool} (hf : (s.harbour h).hold.find? (fun y => y.1 == line) = some y) :
    cleanLine s h line false = (heldBack s h line y.2).modHarbour h fun z =>
      { z with hold := z.hold.map fun w => if w.1 = line then (line, false) else w } := by
  simp only [cleanLine, hf]
  rfl

theorem HoldsMoved.cleanLine (s : State) (h line : Nat) (drop : Bool) : HoldsMoved s (Machine.cleanLine s h line drop) := by
  have hfiled : ∀ (t : State) (f : List (Nat × Bool) → List (Nat × Bool)), HoldsMoved t (t.modHarbour h fun z => { z with hold := f z.hold }) :=
    fun t f => setHarbour t h (f (t.harbour h).hold) (t.harbour h).victims (t.harbour h).badLines
  cases hf : (s.harbour h).hold.find? fun y => y.1 == line with
  | none => rw [cleanLine_absent drop hf]; exact refl s
  | some y =>
    cases drop with
    | true =>
      rw [cleanLine_drop hf]
      refine (heldBack_moved s h line y.2).trans (HoldsMoved.trans ?_ (hfiled _ _))
      split
      · exact refl _
      · exact holdLeaves _ _ _
    | false =>
      rw [cleanLine_keep hf]
      exact (heldBack_moved s h line y.2).trans (hfiled _ _)

/-- A line that is not dirty stays in its hold as it is where it is kept. -/
theorem cleanLine_keeps {s : State} {h line : Nat} (hclean : ∀ y ∈ (s.harbour h).hold, y.1 = line → y.2 = false) :
    ((cleanLine s h line false).harbour h).hold = (s.harbour h).hold := by
  cases hf : (s.harbour h).hold.find? fun y => y.1 == line with
  | none => rw [cleanLine_absent false hf]
  | some y =>
    rw [cleanLine_keep hf, State.harbour_modHarbour]
    dsimp only
    rw [heldBack_hold]
    refine (List.map_congr_left fun w hw => ?_).trans (List.map_id _)
    split
    · next hl => exact Prod.ext hl.symm (hclean w hw hl).symm
    · rfl

/-- A hold has no longer a line that is dropped. -/
theorem cleanLine_drops (s : State) (h line : Nat) : holdHas (cleanLine s h line true) h line = false := by
  cases hf : (s.harbour h).hold.find? fun y => y.1 == line with
  | none =>
    rw [cleanLine_absent true hf, holdHas, List.any_eq_false]
    exact List.find?_eq_none.1 hf
  | some y =>
    rw [cleanLine_drop hf, holdHas, State.harbour_modHarbour]
    simp [List.any_filter]

/-! ### The line of a turn -/

/-- The three range operations are routines of their opcodes. -/
theorem exec_range {s : State} {h e q op : Nat} {c : Instr} {r : Running}
    (hc : (op, c) ∈ [(0x21, Instr.rangePrefetch h e q), (0x22, .rangeFlush h e q), (0x23, .rangeInvalidate h e q)])
    (hruns : runsNow s h e q op r) : exec c s = .next { rangeOp op h e q s r with pending := s.pending } := by
  simp only [List.mem_cons, Prod.mk.injEq, List.not_mem_nil, or_false] at hc
  rcases hc with ⟨rfl, rfl⟩ | ⟨rfl, rfl⟩ | ⟨rfl, rfl⟩ <;> exact command_runs hruns _

section
variable {s : State} {h q op : Nat} {r : Running}

theorem rangeOp_turn (h0 : r.total ≠ 0) (hturn : tongsTurn (s.harbour h) = some q) :
    rangeOp op h 0 q s r = rangeHold op h q (lineState s h q r false) r r.issued := tongsLine_puts h0 hturn _

/-- The address of the line that a range operation visits in its turn. -/
def rangeLine (r : Running) : Nat := cmdBody r.cmd 0 48 + 64 * r.issued

theorem rangeHold_passes {u : State} (hrange : rangeFor u h 0 q (rangeLine r) 64 = true)
    (hpass : addrSpace (rangeLine r) ≠ 0 ∨ op = 0x21 ∧ addrHarbour (rangeLine r) = h ∧ holdHas u h (lineOf (rangeLine r)) = true) :
    rangeHold op h q u r r.issued = noteLine u h 0 q r.issued false := by
  unfold rangeLine at *
  by_cases hspace : addrSpace (cmdBody r.cmd 0 48 + 64 * r.issued) = 0
  · obtain ⟨rfl, hown, hhas⟩ := hpass.resolve_left (not_not_intro hspace)
    simp [rangeHold, hrange, hspace, hown, hhas]
  · simp [rangeHold, hrange, hspace]

theorem rangeHold_prefetches {u : State} (hrange : rangeFor u h 0 q (rangeLine r) 64 = true) (hspace : addrSpace (rangeLine r) = 0)
    (hlacks : ¬ (addrHarbour (rangeLine r) = h ∧ holdHas u h (lineOf (rangeLine r)) = true)) :
    rangeHold 0x21 h q u r r.issued = placeItem u h (lineDq r.cmd) false (itemOf 0 q (.prefetch []) (rangeLine r) 0 r.issued 0#512 false) := by
  unfold rangeLine at *
  simp only [rangeHold, hrange, hspace, if_neg hlacks]
  rfl

theorem rangeHold_cleans {u : State} (hop : op ≠ 0x21) (hrange : rangeFor u h 0 q (rangeLine r) 64 = true) (hspace : addrSpace (rangeLine r) = 0) :
    rangeHold op h q u r r.issued = placeItem u h 3 false (itemOf 0 q (.clean (op == 0x23)) 0 (rangeLine r) r.issued 0#512 false) := by
  unfold rangeLine at *
  simp only [rangeHold, hrange, hspace, if_neg hop]
  rfl

/-! ### What a turn leaves -/

theorem lineState_mem (s : State) (h q : Nat) (r : Running) : (lineState s h q r false).mem = s.mem := State.runTo_mem s _

theorem turnUsed_of {t : State} (hclocks : t.clocks = (lineState s h q r false).clocks)
    (hnext : (t.harbour h).tongsNext = ((lineState s h q r false).harbour h).tongsNext)
    (hfree : (t.harbour h).tongsFree = ((lineState s h q r false).harbour h).tongsFree) : turnUsed s t h q := by
  obtain ⟨rs, cs, hh⟩ := lineState_harbour s h q r false
  have hcycle : t.clocks.cycle = max s.clocks.cycle (s.harbour h).tongsFree := by rw [hclocks, lineState_cycle]
  refine ⟨hcycle, ?_, ?_⟩
  · rw [hnext, hh]
  · rw [hfree, hh, hcycle]

/-- A line that is passed is one line more, and nothing else. -/
theorem turn_passes (hrun : (s.harbour h).runningAt 0 q = some r) (hfin : r.finished = false) (k : Nat) :
    let t := noteLine (lineState s h q r false) h 0 q k false
    turnUsed s t h q ∧ oneLineDone s t h 0 q r r.total false ∧ t.mem = s.mem ∧ ∀ g, (t.harbour g).hold = (s.harbour g).hold := by
  obtain ⟨b, hline⟩ := lineState_runningAt hrun false
  obtain ⟨rs, cs, hh⟩ := lineState_harbour s h q r false
  have hmoved := noteLine_moved hline hfin k
  obtain ⟨hnext, hfree⟩ := hmoved.tongs h
  exact ⟨turnUsed_of hmoved.clocks hnext hfree, oneLineDone_noteLine hline hfin (by rw [hh]) k,
    hmoved.mem.trans (lineState_mem s h q r), fun g => (hmoved.hold g).trans ((lineState_kept s h q r false).hold g)⟩

/-- A line whose item waits leaves that item in its queue. -/
theorem turn_waits {i : Item} (hw : waitsInQueue s h i) (d : Nat) :
    let t := placeItem (lineState s h q r false) h d false i
    turnUsed s t h q ∧ t.mem = s.mem ∧ standsIn t h d i := by
  obtain ⟨rs, cs, hh⟩ := lineState_harbour s h q r false
  obtain ⟨hclocks, hmem, hnext, hfree, hitem⟩ := placeItem_waiting (d := d) (waitsInQueue_of (lineState_kept s h q r false) (by rw [hh]) hw)
  exact ⟨turnUsed_of hclocks hnext hfree, hmem.trans (lineState_mem s h q r), hitem⟩

/-- A line that is written back at once is not dirty in its hold. -/
theorem servedAtOnce_clean {a k : Nat} {drop : Bool} (hs : servedAtOnce s h (itemOf 0 q (.clean drop) 0 a k 0#512 false)) :
    ∀ y ∈ (s.harbour h).hold, y.1 = lineOf a → y.2 = false := by
  have hown : addrHarbour a = h := servedAtOnce_own hs a (by simp [itemOf, Item.places])
  obtain ⟨-, hat, -, -⟩ := hs
  simp only [arrivesAtOnce, Bool.and_eq_true, Bool.not_eq_true'] at hat
  have hclean : ((s.harbour (addrHarbour a)).hold.any fun y => y.1 == lineOf a && y.2) = false := hat.2
  rw [hown] at hclean
  intro y hy hl
  simpa [hl] using List.any_eq_false.1 hclean y hy

theorem DqsMoved.tongs {t u : State} (m : DqsMoved t u) (g : Nat) :
    (u.harbour g).tongsNext = (t.harbour g).tongsNext ∧ (u.harbour g).tongsFree = (t.harbour g).tongsFree := by
  obtain ⟨ds, vs, n, hg⟩ := m.harbour g
  rw [hg]
  exact ⟨rfl, rfl⟩

theorem DqsMoved.hold {t u : State} (m : DqsMoved t u) (g : Nat) : (u.harbour g).hold = (t.harbour g).hold := by
  obtain ⟨ds, vs, n, hg⟩ := m.harbour g
  rw [hg]

theorem HoldsMoved.tongs {t u : State} (m : HoldsMoved t u) (g : Nat) :
    (u.harbour g).tongsNext = (t.harbour g).tongsNext ∧ (u.harbour g).tongsFree = (t.harbour g).tongsFree := by
  obtain ⟨l, vs, bad, hg⟩ := m.harbour g
  rw [hg]
  exact ⟨rfl, rfl⟩

/-- What is written back at once is written back, noted as a line, and followed by evicted lines. -/
theorem placeItem_cleans {u : State} {a k d : Nat} {drop : Bool} (hs : servedAtOnce u h (itemOf 0 q (.clean drop) 0 a k 0#512 false))
    (hrange : rangeFor u h 0 q a 64 = true) : placeItem u h d false (itemOf 0 q (.clean drop) 0 a k 0#512 false) =
      drainVictims (noteLine (cleanLine u h (lineOf a) drop) h 0 q k false) := by
  have hown : addrHarbour a = h := servedAtOnce_own hs a (by simp [itemOf, Item.places])
  obtain ⟨n, m, hplace⟩ := placeItem_serves (d := d) hs
    (scratchBars_of_range (i := itemOf 0 q (.clean drop) 0 a k 0#512 false) rfl rfl hrange)
  rw [hplace, ← hown]
  rfl

/-- A clean line of its own hold is kept or dropped at once. -/
theorem turn_cleans (hrun : (s.harbour h).runningAt 0 q = some r) (hfin : r.finished = false) {a k : Nat} {drop : Bool}
    (hs : servedAtOnce s h (itemOf 0 q (.clean drop) 0 a k 0#512 false)) (hrange : rangeFor s h 0 q a 64 = true) :
    let t := placeItem (lineState s h q r false) h 3 false (itemOf 0 q (.clean drop) 0 a k 0#512 false)
    turnUsed s t h q ∧ oneLineDone s t h 0 q r r.total false ∧ t.mem = s.mem ∧
      (drop = false → (t.harbour h).hold = (s.harbour h).hold) ∧ (drop = true → holdHas t h (lineOf a) = false) := by
  obtain ⟨b, hline⟩ := lineState_runningAt hrun false
  obtain ⟨rs, cs, hh⟩ := lineState_harbour s h q r false
  have hkept := lineState_kept s h q r false
  dsimp only
  rw [placeItem_cleans (servedAtOnce_of hkept (by rw [hh]) hs) ((hkept.rangeFor h 0 q a 64).trans hrange)]
  have hclean := HoldsMoved.cleanLine (lineState s h q r false) h (lineOf a) drop
  obtain ⟨l, vs, bad, hch⟩ := hclean.harbour h
  have hcrun : ((cleanLine (lineState s h q r false) h (lineOf a) drop).harbour h).runningAt 0 q =
      some { r with issued := r.issued + 1, posted := b } := by rw [hch]; exact hline
  have hmoved := noteLine_moved hcrun hfin k
  have hdrained := drainVictims_moved (noteLine (cleanLine (lineState s h q r false) h (lineOf a) drop) h 0 q k false)
  obtain ⟨ds, vs', n', hdh⟩ := hdrained.harbour h
  have hhold := (hdrained.hold h).trans (hmoved.hold h)
  refine ⟨?_, ?_, ?_, fun hkeep => ?_, fun hdrop => ?_⟩
  · obtain ⟨hnext, hfree⟩ := hclean.tongs h
    obtain ⟨hnext', hfree'⟩ := hmoved.tongs h
    obtain ⟨hnext'', hfree''⟩ := hdrained.tongs h
    exact turnUsed_of (hdrained.clocks.trans (hmoved.clocks.trans hclean.clocks)) (hnext''.trans (hnext'.trans hnext))
      (hfree''.trans (hfree'.trans hfree))
  · exact oneLineDone_of (by rw [hdh]) (by rw [hdh]) (oneLineDone_noteLine hcrun hfin (by rw [hch, hh]) k)
  · exact hdrained.mem.trans (hmoved.mem.trans (hclean.mem.trans (lineState_mem s h q r)))
  · subst hkeep
    have hnone : ∀ y ∈ ((lineState s h q r false).harbour h).hold, y.1 = lineOf a → y.2 = false := by
      rw [hkept.hold]; exact servedAtOnce_clean hs
    exact hhold.trans ((cleanLine_keeps hnone).trans (hkept.hold h))
  · subst hdrop
    rw [holdHas, hhold]
    exact cleanLine_drops (lineState s h q r false) h (lineOf a)

end

end Sys2Proof.Machine
end

section
/-! SUPPORT. A range operation of a temper, on its first levels (R186, R213, R222, R223). -/

namespace Sys2Proof.Machine

/-! ### First levels -/

/-- Between two states only tempers have moved. -/
structure LevelsMoved (s t : State) : Prop where
  work : WorkMoved s t
  running : ∀ g, (t.harbour g).running = (s.harbour g).running

namespace LevelsMoved

theorem refl (s : State) : LevelsMoved s s := ⟨.refl s, fun _ => rfl⟩

theorem trans {s t u : State} (h : LevelsMoved s t) (k : LevelsMoved t u) : LevelsMoved s u :=
  ⟨h.work.trans k.work, fun g => (k.running g).trans (h.running g)⟩

theorem setTemper (s : State) (h u : Nat) (v : Temper) : LevelsMoved s (s.setTemper h u v) where
  work := .setTemper s h u v
  running g := by
    by_cases hg : h = g
    · subst hg
      obtain ⟨x, y, hh⟩ := setTemper_harbour s h u v
      rw [hh]
    · exact congrArg Harbour.running (State.harbour_modHarbour_other s _ hg)

theorem runningAt {s t : State} (m : LevelsMoved s t) (g e q : Nat) : (t.harbour g).runningAt e q = (s.harbour g).runningAt e q := by
  rw [Harbour.runningAt, m.running, Harbour.runningAt]

end LevelsMoved

theorem Temper.cache_setCache (t : Temper) {c cls : Nat} (hc : c < 4) (hcls : cls < 4) (l : List CLine) :
    (t.setCache c l).cache cls = if cls = c then l else t.cache cls := by
  interval_cases c <;> interval_cases cls <;> rfl

theorem maskClasses_lt {c : Cmd} {cls : Nat} (h : cls ∈ maskClasses c) : cls < 4 := List.mem_range.1 (List.mem_of_mem_filter h)

theorem mem_maskClasses {c : Cmd} {cls : Nat} : cls ∈ maskClasses c ↔ cls < 4 ∧ bit (cmdBody c 80 4) cls = true := by
  simp [maskClasses]

/-- The first levels of a temper hold no dirty line. -/
def levelsClean (s : State) (h u : Nat) : Prop := ∀ cls < 4, ∀ x ∈ (s.temper h u).cache cls, x.dirty = false

/-- Has a first level of a temper a line. -/
def levelHas (s : State) (h u cls line : Nat) : Prop := ∃ x ∈ (s.temper h u).cache cls, x.line = line

theorem firstSets_of {s t : State} (h u cls : Nat) (hs : t.reg Reg.arraySplit (2 * h + u) = s.reg Reg.arraySplit (2 * h + u)) :
    firstSets t h u cls = firstSets s h u cls := by
  unfold firstSets
  split
  · rw [hs]
  · rfl
  · rfl

/-! ### Flush and invalidate -/

/-- A first level drops a line. -/
def dropFrom (h u line : Nat) (s : State) (c : Nat) : State :=
  s.setTemper h u ((s.temper h u).setCache c (((s.temper h u).cache c).filter fun x => x.line != line))

theorem dropsFrom_moved (h u line : Nat) (cs : List Nat) (s : State) : LevelsMoved s (cs.foldl (dropFrom h u line) s) := by
  induction cs generalizing s with
  | nil => exact .refl s
  | cons c cs ih => exact (LevelsMoved.setTemper s h u _).trans (ih _)

/-- What the first levels still have once a line is dropped from some of them. -/
theorem mem_dropsFrom {h u line cls : Nat} (hcls : cls < 4) {cs : List Nat} (hcs : ∀ c ∈ cs, c < 4) {s : State} {x : CLine} :
    x ∈ ((cs.foldl (dropFrom h u line) s).temper h u).cache cls ↔ x ∈ (s.temper h u).cache cls ∧ (cls ∈ cs → x.line ≠ line) := by
  induction cs generalizing s with
  | nil => simp
  | cons c cs ih =>
    rw [List.foldl_cons, ih fun c hc => hcs c (by simp [hc]), dropFrom, State.temper_setTemper, Temper.cache_setCache _ (hcs c (by simp)) hcls]
    by_cases hc : cls = c
    · subst hc
      simp only [List.mem_filter, bne_iff_ne, List.mem_cons, true_or, forall_const, if_true]
      exact ⟨fun hx => hx.1, fun hx => ⟨hx, fun _ => hx.2⟩⟩
    · simp [hc]

/-- From `s` to `t` a flush or an invalidate of a temper has taken the lines from `lo` to `hi` of its range. -/
structure LinesCleaned (op h u : Nat) (c : Cmd) (lo hi : Nat) (s t : State) : Prop where
  moved : WorkMoved s t
  flush : op = 0x22 → t.temper h u = s.temper h u
  fewer : ∀ cls < 4, ∀ x ∈ (t.temper h u).cache cls, x ∈ (s.temper h u).cache cls
  gone : op = 0x23 → ∀ k, lo ≤ k → k < hi → ∀ cls ∈ maskClasses c, ∀ x ∈ (t.temper h u).cache cls,
    x.line ≠ (cmdBody c 0 48 + 64 * k) / 64

theorem LinesCleaned.none (op h u k : Nat) (c : Cmd) (s : State) : LinesCleaned op h u c k k s s :=
  ⟨.refl s, fun _ => rfl, fun _ _ _ hx => hx, fun _ _ hlo hhi => absurd hhi (by omega)⟩

theorem LinesCleaned.trans {op h u lo mid hi : Nat} {c : Cmd} {s t v : State} (a : LinesCleaned op h u c lo mid s t)
    (b : LinesCleaned op h u c mid hi t v) : LinesCleaned op h u c lo hi s v where
  moved := a.moved.trans b.moved
  flush hop := (b.flush hop).trans (a.flush hop)
  fewer cls hcls x hx := a.fewer cls hcls x (b.fewer cls hcls x hx)
  gone hop k hlo hhi cls hcls x hx := by
    by_cases hk : k < mid
    · exact a.gone hop k hlo hk cls hcls x (b.fewer cls (maskClasses_lt hcls) x hx)
    · exact b.gone hop k (by omega) hhi cls hcls x hx

theorem dirtyLines_fewer {s t : State} {h u : Nat} (hs : dirtyLines s h u = [])
    (hfewer : ∀ x ∈ (t.temper h u).data, x ∈ (s.temper h u).data) : dirtyLines t h u = [] := by
  simp only [dirtyLines, List.filter_eq_nil_iff] at *
  exact fun x hx => hs x (hfewer x hx)

section
variable {op h e q : Nat}

/-- The state in which the command of a queue has taken up its next line. -/
def takenUp (s : State) (h e q : Nat) (r : Running) : State := modRunning s h e q fun y => { y with issued := r.issued + 1 }

theorem takenUp_moved (s : State) (h e q : Nat) (r : Running) : WorkMoved s (takenUp s h e q r) := .modRunning _ _ _ _ _

theorem takenUp_temper (s : State) (h e q : Nat) (r : Running) (a b : Nat) : (takenUp s h e q r).temper a b = s.temper a b := modRunning_temper ..

theorem takenUp_runningAt {s : State} {r : Running} (hrun : (s.harbour h).runningAt e q = some r) :
    ((takenUp s h e q r).harbour h).runningAt e q = some { r with issued := r.issued + 1 } := by
  rw [takenUp, runningAt_modRunning, hrun]
  · rfl
  · exact fun _ => ⟨rfl, rfl⟩

/-- A temper's range operation takes its next line where its queue has room and the line lies in its space. -/
theorem rangeLines_next {s : State} {r : Running} (hrun : (s.harbour h).runningAt e q = some r) (hfin : r.finished = false)
    (hleft : r.issued < r.total) (hroom : (s.harbour h).dqRoom (lineDq r.cmd) = true)
    (hrange : rangeFor s h e q (cmdBody r.cmd 0 48 + 64 * r.issued) 64 = true) (n : Nat) :
    rangeLines op h e q (n + 1) s = rangeLines op h e q n (rangeFirst op h e q r r.issued (takenUp s h e q r)) := by
  simp [rangeLines, hrun, hfin, hroom, hrange, hleft, takenUp]

/-- One line of a flush or an invalidate. -/
theorem rangeFirst_cleans {s : State} {r y : Running} {k : Nat} (hop : op ≠ 0x21) (hrun : (s.harbour h).runningAt e q = some y)
    (hfin : y.finished = false) (hdirty : dirtyLines s h (e - 1) = []) :
    LinesCleaned op h (e - 1) r.cmd k (k + 1) s (rangeFirst op h e q r k s) ∧
      ((rangeFirst op h e q r k s).harbour h).runningAt e q = some y.oneMore := by
  have hline : rangeFirst op h e q r k s = noteLine (if op = 0x22 then s else
      (maskClasses r.cmd).foldl (dropFrom h (e - 1) ((cmdBody r.cmd 0 48 + 64 * k) / 64)) s) h e q k false := by
    simp only [rangeFirst, if_neg hop, hdirty, List.filter_nil, sendDirty, ite_self]
    rfl
  rw [hline]
  by_cases hflush : op = 0x22
  · have htemper := noteLine_temper hrun hfin k h (e - 1)
    rw [if_pos hflush]
    refine ⟨⟨noteLine_moved hrun hfin k, fun _ => htemper, fun cls _ x hx => ?_, fun h23 => absurd (hflush.symm.trans h23) (by decide)⟩,
      runningAt_noteLine hrun hfin k⟩
    rwa [htemper] at hx
  · rw [if_neg hflush]
    generalize hline : (cmdBody r.cmd 0 48 + 64 * k) / 64 = line
    have hmoved := dropsFrom_moved h (e - 1) line (maskClasses r.cmd) s
    have hrun' : (((maskClasses r.cmd).foldl (dropFrom h (e - 1) line) s).harbour h).runningAt e q = some y :=
      (hmoved.runningAt h e q).trans hrun
    have htemper := noteLine_temper hrun' hfin k h (e - 1)
    refine ⟨⟨hmoved.work.trans (noteLine_moved hrun' hfin k), fun h22 => absurd h22 hflush, fun cls hcls x hx => ?_,
      fun _ j hlo hhi cls hcls x hx => ?_⟩, runningAt_noteLine hrun' hfin k⟩
    · rw [htemper, mem_dropsFrom hcls fun c => maskClasses_lt] at hx
      exact hx.1
    · obtain rfl : j = k := by omega
      rw [htemper, mem_dropsFrom (maskClasses_lt hcls) fun c => maskClasses_lt] at hx
      rw [hline]
      exact hx.2 hcls

/-- A flush or an invalidate takes all the lines that it has left, where none is dirty. -/
theorem rangeLines_cleans (hop : op ≠ 0x21) {n : Nat} {s : State} {r : Running} (hrun : (s.harbour h).runningAt e q = some r)
    (htotal : r.total = r.issued + n) (hdelivered : r.delivered = r.issued) (hfin : r.finished = decide (n = 0))
    (hroom : (s.harbour h).dqRoom (lineDq r.cmd) = true) (hdirty : dirtyLines s h (e - 1) = [])
    (hrange : ∀ k, r.issued ≤ k → k < r.total → rangeFor s h e q (cmdBody r.cmd 0 48 + 64 * k) 64 = true) :
    LinesCleaned op h (e - 1) r.cmd r.issued r.total s (rangeLines op h e q n s) ∧
      ((rangeLines op h e q n s).harbour h).runningAt e q = some { r with issued := r.total, delivered := r.total, finished := true } := by
  induction n generalizing s r with
  | zero =>
    have hall : r = { r with issued := r.total, delivered := r.total, finished := true } := by
      cases r
      simp_all
    exact ⟨htotal ▸ .none _ _ _ _ _ s, hrun.trans (congrArg some hall)⟩
  | succ n ih =>
    have hunfinished : r.finished = false := by simpa using hfin
    have htaken := takenUp_moved s h e q r
    have htemper := takenUp_temper s h e q r h (e - 1)
    obtain ⟨hone, hrun'⟩ := rangeFirst_cleans (r := r) (k := r.issued) hop (takenUp_runningAt hrun) hunfinished
      (by rw [dirtyLines, htemper]; exact hdirty)
    have hnext := rangeLines_next (op := op) hrun hunfinished (by omega) hroom (hrange r.issued le_rfl (by omega)) n
    have hstep : LinesCleaned op h (e - 1) r.cmd r.issued (r.issued + 1) s (rangeFirst op h e q r r.issued (takenUp s h e q r)) :=
      ⟨htaken.trans hone.moved, fun h22 => (hone.flush h22).trans htemper, fun cls hcls x hx => htemper ▸ hone.fewer cls hcls x hx, hone.gone⟩
    obtain ⟨hrest, hend⟩ := ih hrun' (by simp only [Running.oneMore]; omega) (by simp [Running.oneMore, hdelivered])
      (by simp [Running.oneMore, hdelivered, htotal])
      ((hstep.moved.dqRoom h _).trans hroom) (dirtyLines_fewer hdirty (hstep.fewer 0 (by omega)))
      fun k hlo hhi => (hstep.moved.access.rangeFor h e q _ 64).trans (hrange k (Nat.le_of_succ_le hlo) hhi)
    rw [hnext]
    exact ⟨hstep.trans hrest, hend⟩

end

/-! ### Prefetch -/

/-- A line enters a first level without a dirty line: nothing is written back. -/
theorem firstInstall_clean {s : State} {h u cls : Nat} (c : CLine) (hclean : ∀ x ∈ (s.temper h u).cache cls, x.dirty = false) :
    ∃ l, (∀ x ∈ l, x ∈ (s.temper h u).cache cls) ∧ firstInstall s h u cls c = s.setTemper h u ((s.temper h u).setCache cls (c :: l)) := by
  unfold firstInstall
  dsimp only
  split
  · exact ⟨_, fun x hx => List.mem_of_mem_filter hx, rfl⟩
  · next v hv =>
    have hvictim : v.dirty = false := by
      split at hv
      · cases hv
      · exact hclean v (List.mem_of_mem_filter (lruOf_mem hv))
    refine ⟨(((s.temper h u).cache cls).filter fun e => e.line != c.line).filter fun e => e.line != v.line,
      fun x hx => List.mem_of_mem_filter (List.mem_of_mem_filter hx), ?_⟩
    rw [writeBack, hvictim]
    rfl

/-- From `s` to `t` a line has come to first levels that hold no dirty line, and others have made room. -/
structure LineEnters (h u line : Nat) (s t : State) : Prop where
  moved : LevelsMoved s t
  clean : levelsClean s h u → levelsClean t h u
  kept : ∀ cls < 4, levelHas s h u cls line → levelHas t h u cls line

theorem LineEnters.refl (h u line : Nat) (s : State) : LineEnters h u line s s := ⟨.refl s, id, fun _ _ hl => hl⟩

theorem LineEnters.trans {h u line : Nat} {s t v : State} (a : LineEnters h u line s t) (b : LineEnters h u line t v) : LineEnters h u line s v :=
  ⟨a.moved.trans b.moved, fun hs => b.clean (a.clean hs), fun cls hcls hl => b.kept cls hcls (a.kept cls hcls hl)⟩

theorem firstInstall_enters {s : State} {h u cls : Nat} {c : CLine} (hcls : cls < 4) (hs : levelsClean s h u) (hc : c.dirty = false) :
    LineEnters h u c.line s (firstInstall s h u cls c) ∧ levelHas (firstInstall s h u cls c) h u cls c.line := by
  obtain ⟨l, hl, hinstall⟩ := firstInstall_clean c (hs cls hcls)
  have hcache : ∀ k < 4, ((firstInstall s h u cls c).temper h u).cache k = if k = cls then c :: l else (s.temper h u).cache k := fun k hk => by
    rw [hinstall, State.temper_setTemper, Temper.cache_setCache _ hcls hk]
  have hhas : levelHas (firstInstall s h u cls c) h u cls c.line := ⟨c, by rw [hcache cls hcls, if_pos rfl]; exact List.mem_cons_self, rfl⟩
  refine ⟨⟨hinstall ▸ .setTemper s h u _, fun _ k hk x hx => ?_, fun k hk hline => ?_⟩, hhas⟩
  · rw [hcache k hk] at hx
    split at hx
    · rcases List.mem_cons.1 hx with rfl | hx
      · exact hc
      · exact hs cls hcls x (hl x hx)
    · exact hs k hk x hx
  · by_cases hkc : k = cls
    · exact hkc ▸ hhas
    · obtain ⟨x, hx, hxl⟩ := hline
      exact ⟨x, by rw [hcache k hk, if_neg hkc]; exact hx, hxl⟩

/-- A prefetched line comes to each class that has sets; no first level with a dirty line makes room. -/
theorem prefetchArrives_enters {h u line : Nat} (v : BitVec 512 × Bool) {cs : List Nat} (hcs : ∀ c ∈ cs, c < 4) {s : State}
    (hs : levelsClean s h u) : LineEnters h u line s (prefetchArrives s h u cs line v) ∧
      ∀ cls ∈ cs, firstSets s h u cls ≠ 0 → levelHas (prefetchArrives s h u cs line v) h u cls line := by
  induction cs generalizing s with
  | nil => exact ⟨.refl h u line s, by simp⟩
  | cons c cs ih =>
    have hc : c < 4 := hcs c (by simp)
    generalize ht : prefetchArrives s h u [c] line v = t
    have hone : LineEnters h u line s t ∧ (firstSets s h u c ≠ 0 → levelHas t h u c line) := by
      rw [← ht, prefetchArrives, List.foldl_cons, List.foldl_nil]
      by_cases hskip : (!hasLevel s h u c || ((s.temper h u).cache c).any fun x => x.line == line) = true
      · rw [if_pos hskip]
        refine ⟨.refl h u line s, fun hsets => ?_⟩
        simpa [hasLevel, hc, hsets, levelHas] using hskip
      · rw [if_neg hskip]
        obtain ⟨henters, hhas⟩ := firstInstall_enters (c := { line := line, data := v.1, dirty := false, poison := v.2 }) hc hs rfl
        exact ⟨henters, fun _ => hhas⟩
    have hfold : prefetchArrives s h u (c :: cs) line v = prefetchArrives t h u cs line v := by rw [← ht]; rfl
    obtain ⟨henters, hthere⟩ := hone
    obtain ⟨hrest, hhas⟩ := ih (fun k hk => hcs k (by simp [hk])) (henters.clean hs)
    rw [hfold]
    refine ⟨henters.trans hrest, fun cls hcls hsets => ?_⟩
    rcases List.mem_cons.1 hcls with rfl | hcls
    · exact hrest.kept cls hc (hthere hsets)
    · exact hhas cls hcls (by rwa [firstSets_of h u cls (henters.moved.work.access.reg _ (by decide) _)])

/-- Lacks a first level of the mask that has sets a line. -/
def prefetchLacks (s : State) (h u : Nat) (c : Cmd) (line : Nat) : Prop :=
  ∃ cls ∈ maskClasses c, firstSets s h u cls ≠ 0 ∧ ∀ x ∈ (s.temper h u).cache cls, x.line ≠ line

theorem prefetchLacks_iff (s : State) (h u : Nat) (c : Cmd) (line : Nat) : prefetchLacks s h u c line ↔
    ((maskClasses c).all fun k => !hasLevel s h u k || ((s.temper h u).cache k).any fun x => x.line == line) = false := by
  rw [List.all_eq_false, prefetchLacks]
  refine exists_congr fun cls => and_congr_right fun hcls => ?_
  simp [hasLevel, maskClasses_lt hcls]

theorem countFill_poison (s : State) (i : Item) : (countFill s i).poison = s.poison := by
  unfold countFill
  split
  · dsimp only
    unfold holdLook
    split <;> split <;> rfl
  · rfl

theorem countFill_split (s : State) (i : Item) (n : Nat) : (countFill s i).reg Reg.arraySplit n = s.reg Reg.arraySplit n :=
  (HoldsMoved.countFill s i).reg _ _ fun c hc m =>
    have hsubs : ∀ c ∈ holdCounters, c.sub < 256 ∧ c.sub ≠ Reg.arraySplit.sub := by decide
    Reg.key_ne_of_sub (hsubs c hc).1 (by decide) (hsubs c hc).2 m n

section
variable {s : State} {h e q : Nat} {r : Running} {k : Nat}

/-- A line that no first level of the mask lacks is one line more. -/
theorem rangeFirst_has (hhas : ¬ prefetchLacks s h (e - 1) r.cmd ((cmdBody r.cmd 0 48 + 64 * k) / 64)) :
    rangeFirst 0x21 h e q r k s = noteLine s h e q k false := by
  rw [prefetchLacks_iff, Bool.not_eq_false] at hhas
  simp [rangeFirst, hhas]

/-- The item of a prefetch of a temper. -/
def prefetchItem (e q : Nat) (c : Cmd) (k : Nat) : Item := itemOf e q (.prefetch (maskClasses c)) (cmdBody c 0 48 + 64 * k) 0 k 0#512 false

theorem rangeFirst_prefetches (hlacks : prefetchLacks s h (e - 1) r.cmd ((cmdBody r.cmd 0 48 + 64 * k) / 64)) :
    rangeFirst 0x21 h e q r k s = placeItem s h (lineDq r.cmd) false (prefetchItem e q r.cmd k) := by
  rw [prefetchLacks_iff] at hlacks
  simp only [rangeFirst, hlacks, if_true, Bool.false_eq_true, if_false]
  rfl

/-- A prefetch that is carried out at once is one line more, and its line is in the masked first levels. -/
theorem prefetch_served {y : Running} (hrun : (s.harbour h).runningAt e q = some y) (hfin : y.finished = false) {d : Nat}
    (hs : servedAtOnce s h (prefetchItem e q r.cmd k)) (hrange : rangeFor s h e q (cmdBody r.cmd 0 48 + 64 * k) 64 = true)
    (hgood : s.poisoned ((cmdBody r.cmd 0 48 + 64 * k) / 64) = false) (hclean : levelsClean s h (e - 1)) :
    let t := placeItem s h d false (prefetchItem e q r.cmd k)
    t.mem = s.mem ∧ (t.harbour h).runningAt e q = some y.oneMore ∧
      ∀ cls ∈ maskClasses r.cmd, firstSets s h (e - 1) cls ≠ 0 → levelHas t h (e - 1) cls ((cmdBody r.cmd 0 48 + 64 * k) / 64) := by
  obtain ⟨n, m, hplace⟩ := placeItem_serves (d := d) hs (scratchBars_of_range (i := prefetchItem e q r.cmd k) rfl rfl hrange)
  have hholds := HoldsMoved.countFill s (prefetchItem e q r.cmd k)
  have hutemper := countFill_temper s (prefetchItem e q r.cmd k) h (e - 1)
  have hupoison := countFill_poison s (prefetchItem e q r.cmd k)
  have husplit := countFill_split s (prefetchItem e q r.cmd k) (2 * h + (e - 1))
  generalize hline : (cmdBody r.cmd 0 48 + 64 * k) / 64 = line at *
  generalize countFill s (prefetchItem e q r.cmd k) = u at *
  obtain ⟨l, vs, bad, hh⟩ := hholds.harbour h
  have hgood' : u.poisoned line = false := by rw [State.poisoned, hupoison]; exact hgood
  have huse : ∃ v, placeItem s h d false (prefetchItem e q r.cmd k) =
      drainVictims (noteLine (prefetchArrives u h (e - 1) (maskClasses r.cmd) line v) h e q k false) := by
    refine ⟨(lineData u (cmdBody r.cmd 0 48 + 64 * k), false), ?_⟩
    rw [hplace, ← hgood', ← hline]
    rfl
  obtain ⟨v, hv⟩ := huse
  obtain ⟨henters, hhas⟩ := prefetchArrives_enters (h := h) (u := e - 1) (line := line) v (fun c => maskClasses_lt) (s := u)
    (by unfold levelsClean; rw [hutemper]; exact hclean)
  generalize prefetchArrives u h (e - 1) (maskClasses r.cmd) line v = w at *
  have hwrun : (w.harbour h).runningAt e q = some y := (henters.moved.runningAt h e q).trans (by rw [hh]; exact hrun)
  have hnoted := noteLine_moved hwrun hfin k
  have hdrained := drainVictims_moved (noteLine w h e q k false)
  obtain ⟨ds, vs', n', hdh⟩ := hdrained.harbour h
  dsimp only
  rw [hv]
  refine ⟨hdrained.mem.trans (hnoted.mem.trans (henters.moved.work.mem.trans hholds.mem)), ?_, fun cls hcls hsets => ?_⟩
  · rw [hdh]
    exact runningAt_noteLine hwrun hfin k
  · obtain ⟨x, hx, hxl⟩ := hhas cls hcls (by rwa [firstSets_of h (e - 1) cls husplit])
    exact ⟨x, by rw [hdrained.temper, noteLine_temper hwrun hfin]; exact hx, hxl⟩

end

end Sys2Proof.Machine
end

section
/-! SUPPORT. O35: the range operations of the tongs and of a temper (R182, R186, R190, R222, R223). -/

namespace Sys2Proof.Machine

theorem lineDq_prefetch {c : Cmd} (hc : cmdOpcode c = 0x21) : lineDq c = cmdBody c 84 2 := by
  simp [lineDq, hc]

theorem lineDq_cleans {c : Cmd} (hc : cmdOpcode c = 0x22 ∨ cmdOpcode c = 0x23) : lineDq c = 3 := by
  rcases hc with hc | hc <;> simp [lineDq, hc]

section
variable {s : State} {h e q op : Nat} {r : Running}

theorem rangeOp_temper (he : e = 1 ∨ e = 2) : rangeOp op h e q s r = rangeLines op h e q r.total s := if_neg (by omega)

/-- A flush or an invalidate of a temper is done at once where no line is dirty. -/
theorem temper_cleans (he : e = 1 ∨ e = 2) (hruns : runsNow s h e q op r) (hop : op = 0x22 ∨ op = 0x23) (hissued : r.issued = 0)
    (hdelivered : r.delivered = 0) (hstatus : r.status = 0) (hdetail : r.detail = 0)
    (hrange : ∀ k < r.total, rangeFor s h e q (cmdBody r.cmd 0 48 + 64 * k) 64 = true) (htotal : r.total ≠ 0)
    (hroom : (s.harbour h).dqRoom 3 = true) (hdirty : dirtyLines s h (e - 1) = []) :
    LinesCleaned op h (e - 1) r.cmd 0 r.total s (rangeOp op h e q s r) ∧ endedWith (rangeOp op h e q s r) h e q 0 0 := by
  obtain ⟨-, hrun, hcode, hfin, -, -⟩ := hruns
  obtain ⟨hcleaned, hend⟩ := rangeLines_cleans (op := op) (n := r.total) (by omega) hrun (by omega) (by omega) (by simp [hfin, htotal])
    (by rwa [lineDq_cleans (hcode ▸ hop)]) hdirty fun k _ hk => hrange k hk
  rw [rangeOp_temper he]
  exact ⟨hissued ▸ hcleaned, _, hend, rfl, hstatus, hdetail⟩

theorem prefetchLacks_takenUp (c : Cmd) (line : Nat) : prefetchLacks (takenUp s h e q r) h (e - 1) c line ↔ prefetchLacks s h (e - 1) c line := by
  simp only [prefetchLacks, takenUp_temper, firstSets_of h (e - 1) _ ((takenUp_moved s h e q r).access.reg Reg.arraySplit (by decide) _)]

/-- A command of one line is done with that line. -/
theorem oneMore_ends {t : State} (hdelivered : r.delivered = 0) (hstatus : r.status = 0) (hdetail : r.detail = 0)
    (htotal : r.total = 1) (hrun : (t.harbour h).runningAt e q = some ({ r with issued := r.issued + 1 } : Running).oneMore) :
    endedWith t h e q 0 0 :=
  ⟨_, hrun, by simp [Running.oneMore, hdelivered, htotal], hstatus, hdetail⟩

section
variable (he : e = 1 ∨ e = 2) (hruns : runsNow s h e q 0x21 r) (hissued : r.issued = 0) (htotal : r.total = 1)
  (hroom : (s.harbour h).dqRoom (lineDq r.cmd) = true) (hrange : rangeFor s h e q (cmdBody r.cmd 0 48) 64 = true)
include he hruns hissued htotal hroom hrange

/-- A prefetch of one line visits it. -/
theorem rangeOp_one : rangeOp 0x21 h e q s r = rangeFirst 0x21 h e q r 0 (takenUp s h e q r) := by
  obtain ⟨-, hrun, -, hfin, -, -⟩ := hruns
  rw [rangeOp_temper he, htotal, rangeLines_next hrun hfin (by omega) hroom (by rwa [hissued]) 0, hissued]
  rfl

theorem prefetch_waits (hlacks : prefetchLacks s h (e - 1) r.cmd (cmdBody r.cmd 0 48 / 64)) (hw : waitsInQueue s h (prefetchItem e q r.cmd 0)) :
    (rangeOp 0x21 h e q s r).mem = s.mem ∧ ∃ j ∈ ((rangeOp 0x21 h e q s r).harbour h).dq (lineDq r.cmd),
      j.engine = e ∧ j.queue = q ∧ j.use = .prefetch (maskClasses r.cmd) ∧ j.src = cmdBody r.cmd 0 48 := by
  have hmoved := takenUp_moved s h e q r
  rw [rangeOp_one he hruns hissued htotal hroom hrange, rangeFirst_prefetches ((prefetchLacks_takenUp _ _).2 hlacks)]
  obtain ⟨-, hmem, -, -, j, hj, hje, hjq, hjuse, hjsrc, -⟩ :=
    placeItem_waiting (d := lineDq r.cmd) (waitsInQueue_of hmoved.access (hmoved.dqs h) hw)
  exact ⟨hmem.trans hmoved.mem, j, hj, hje, hjq, hjuse, hjsrc⟩

variable (hdelivered : r.delivered = 0) (hstatus : r.status = 0) (hdetail : r.detail = 0)
include hdelivered hstatus hdetail

theorem prefetch_passes (hhas : ¬ prefetchLacks s h (e - 1) r.cmd (cmdBody r.cmd 0 48 / 64)) :
    endedWith (rangeOp 0x21 h e q s r) h e q 0 0 ∧ (rangeOp 0x21 h e q s r).mem = s.mem ∧
      (rangeOp 0x21 h e q s r).temper h (e - 1) = s.temper h (e - 1) := by
  have hmoved := takenUp_moved s h e q r
  obtain ⟨-, hcmd, -, hfin, -, -⟩ := id hruns
  have hrun := takenUp_runningAt hcmd
  rw [rangeOp_one he hruns hissued htotal hroom hrange, rangeFirst_has ((prefetchLacks_takenUp _ _).not.2 hhas)]
  exact ⟨oneMore_ends hdelivered hstatus hdetail htotal (runningAt_noteLine hrun hfin 0), (noteLine_moved hrun hfin 0).mem.trans hmoved.mem,
    (noteLine_temper hrun hfin 0 h (e - 1)).trans (takenUp_temper s h e q r h (e - 1))⟩

theorem prefetch_enters (hlacks : prefetchLacks s h (e - 1) r.cmd (cmdBody r.cmd 0 48 / 64)) (hs : servedAtOnce s h (prefetchItem e q r.cmd 0))
    (hgood : s.poisoned (cmdBody r.cmd 0 48 / 64) = false) (hclean : levelsClean s h (e - 1)) :
    endedWith (rangeOp 0x21 h e q s r) h e q 0 0 ∧ (rangeOp 0x21 h e q s r).mem = s.mem ∧
      ∀ cls ∈ maskClasses r.cmd, firstSets s h (e - 1) cls ≠ 0 →
        levelHas (rangeOp 0x21 h e q s r) h (e - 1) cls (cmdBody r.cmd 0 48 / 64) := by
  have hmoved := takenUp_moved s h e q r
  obtain ⟨-, hrun, -, hfin, -, -⟩ := id hruns
  have hgood' : (takenUp s h e q r).poisoned (cmdBody r.cmd 0 48 / 64) = false := by rw [hmoved.rest]; exact hgood
  rw [rangeOp_one he hruns hissued htotal hroom hrange, rangeFirst_prefetches ((prefetchLacks_takenUp _ _).2 hlacks)]
  obtain ⟨hmem, hend, hlevels⟩ := prefetch_served (r := r) (k := 0) (d := lineDq r.cmd) (takenUp_runningAt hrun) hfin
    (servedAtOnce_of hmoved.access (hmoved.dqs h) hs) ((hmoved.access.rangeFor h e q _ 64).trans hrange) hgood'
    (by unfold levelsClean; rw [takenUp_temper]; exact hclean)
  refine ⟨oneMore_ends hdelivered hstatus hdetail htotal hend, hmem.trans hmoved.mem, fun cls hcls hsets => hlevels cls hcls ?_⟩
  rwa [firstSets_of h (e - 1) cls (hmoved.access.reg Reg.arraySplit (by decide) _)]

end

end

/-- Settles O35. At the tongs each clause is a turn that passes, waits or cleans its line; at a temper a flush or an invalidate goes through
rangeLines_cleans, and a prefetch of one line passes, enters the first levels or waits. That what is written back goes on DQ3 is the model's
choice (notes/assumptions/104.md). -/
theorem rangesActOnEveryLine : Obligations.RangesActOnEveryLine := by
  unfold Obligations.RangesActOnEveryLine
  intro s h e q op c r hc hruns
  have hexec := exec_range hc hruns
  have hops : op = 0x21 ∨ op = 0x22 ∨ op = 0x23 := by
    simp only [List.mem_cons, Prod.mk.injEq, List.not_mem_nil, or_false] at hc
    exact hc.imp And.left (Or.imp And.left And.left)
  obtain ⟨-, hrun, hcode, hfin, -, -⟩ := id hruns
  dsimp only
  refine ⟨fun he h0 hturn hrange => ?_, fun he hissued hdelivered hstatus hdetail hrange =>
    ⟨fun hop htotal hroom hdirty => ?_, fun hop htotal hroom => ?_⟩⟩
  · subst he
    have hkept := lineState_kept s h q r false
    have hrange' : rangeFor (lineState s h q r false) h 0 q (rangeLine r) 64 = true := (hkept.rangeFor h 0 q _ 64).trans hrange
    rw [rangeOp_turn h0 hturn] at hexec
    refine ⟨fun hpass => ?_, fun hspace hop hw hlacks => ?_, fun hspace hop hs => ?_, fun hspace hop hw => ?_⟩
    · rw [rangeHold_passes hrange' (by rwa [hkept.holdHas])] at hexec
      obtain ⟨hturned, hdone, hmem, hhold⟩ := turn_passes hrun hfin r.issued
      exact ⟨_, hexec, hturned, hdone, hmem, hhold _⟩
    · subst hop
      rw [rangeHold_prefetches hrange' hspace (by rwa [hkept.holdHas]), lineDq_prefetch hcode] at hexec
      obtain ⟨hturned, hmem, j, hj, hje, hjq, hjuse, hjsrc, -⟩ := turn_waits (r := r) hw (cmdBody r.cmd 84 2)
      exact ⟨_, hexec, hturned, hmem, j, hj, hje, hjq, hjuse, hjsrc⟩
    · rw [rangeHold_cleans hop hrange' hspace] at hexec
      obtain ⟨hturned, hdone, hmem, hkeeps, hdrops⟩ := turn_cleans hrun hfin hs hrange
      have hown : addrHarbour (cmdBody r.cmd 0 48 + 64 * r.issued) = h := servedAtOnce_own hs _ (by simp [itemOf, Item.places])
      rw [hown]
      exact ⟨_, hexec, hturned, hdone, hmem, fun h22 => hkeeps (by simp [h22]), fun h23 => hdrops (by simp [h23])⟩
    · rw [rangeHold_cleans hop hrange' hspace] at hexec
      obtain ⟨hturned, hmem, j, hj, hje, hjq, hjuse, -, hjdst⟩ := turn_waits (r := r) hw 3
      exact ⟨_, hexec, hturned, hmem, j, hj, hje, hjq, hjuse, hjdst⟩
  · obtain ⟨hcleaned, hend⟩ := temper_cleans he hruns (hops.resolve_left hop) hissued hdelivered hstatus hdetail hrange htotal hroom hdirty
    refine ⟨_, hexec, hend, hcleaned.moved.mem, fun h22 cls _ => congrArg (Temper.cache · cls) (hcleaned.flush h22),
      fun h23 k hk cls hcls hbit x hx => ?_⟩
    have hgone := hcleaned.gone h23 k (Nat.zero_le k) hk cls (mem_maskClasses.2 ⟨hcls, hbit⟩) x hx
    rwa [Nat.add_mul_div_left _ _ (by decide)] at hgone
  · subst hop
    have hdq := lineDq_prefetch hcode
    have hroom' : (s.harbour h).dqRoom (lineDq r.cmd) = true := by rwa [hdq]
    have hfirst : rangeFor s h e q (cmdBody r.cmd 0 48) 64 = true := hrange 0 (by omega)
    refine ⟨fun hhas => ?_, fun hlacks hs hgood hclean => ?_, fun hlacks hw => ?_⟩
    · obtain ⟨hend, hmem, htemper⟩ := prefetch_passes he hruns hissued htotal hroom' hfirst hdelivered hstatus hdetail hhas
      exact ⟨_, hexec, hend, hmem, fun cls _ => congrArg (Temper.cache · cls) htemper⟩
    · obtain ⟨hend, hmem, hlevels⟩ := prefetch_enters he hruns hissued htotal hroom' hfirst hdelivered hstatus hdetail hlacks hs hgood hclean
      exact ⟨_, hexec, hend, hmem, hlevels⟩
    · obtain ⟨hmem, hfill⟩ := prefetch_waits he hruns hissued htotal hroom' hfirst hlacks hw
      rw [hdq] at hfill
      exact ⟨_, hexec, hmem, hfill⟩

end Sys2Proof.Machine
end

section
/-! SUPPORT. A median job over a memory that is not in canonical form: a 0 of its output does not land (R228, R233, R397). -/

namespace Sys2Proof.Machine

/-- The median job of `tSieve`, over an image of zeros, and its descriptor as it has read it. -/
def medianRun : Running := tSieve 2
def medianBytes : List Byte := medianRun.bytes (cmdBody medianRun.cmd 0 48) 64
def medianJob : SieveJob := sieveOf medianBytes

/-- The job runs in queue mode, and the memory from its output base on, in the direct region, is unsorted. -/
def medianUnsorted : State := { (tBusy tHarbour medianRun).setReg Reg.engQueueMode 0 1 with mem := unsortedMem (mkAddr 1 0 0x2000) }

/-- The job is a median without coefficients that passes its checks (R229, Table 10.1). -/
theorem medianJob_passes : medianJob.op = 2 ∧ medianJob.outBase = mkAddr 1 0 0x2000 ∧ 0 < medianJob.w ∧ 0 < medianJob.h ∧
    readsKernel medianUnsorted 0 0 medianJob = false ∧ sieveOk medianUnsorted 0 0 medianBytes medianJob [] = true := by decide +kernel

/-- Its image has been read, without poison (R228). -/
theorem medianJob_read : ∀ l ∈ medianJob.input.lines, medianRun.has l = true ∧ (medianRun.line l).poison = false := by decide +kernel

/-- The median of zeros is 0 (R233). -/
theorem medianJob_zero : medianAt medianJob (medianJob.input.code medianRun) 0 0 = 0 := by decide +kernel

/-- The first output pixel reads 1 after the job. -/
theorem medianUnsorted_pixel : (answered (exec (.sieveJob 0 3 0) medianUnsorted)).map (fun t => t.load (mkAddr 1 0 0x2000) 2)
    = some [1#8, 0#8] := by decide +kernel

/-- Refutes O36, by its clause on the codes of a median. The statement takes every memory, also one out of canonical form, where a 0 that
is written may not be what is read. No step leads from reset to such a memory (O3). -/
theorem not_visionJobsWriteTheirOutput : ¬ Obligations.VisionJobsWriteTheirOutput := by
  unfold Obligations.VisionJobsWriteTheirOutput
  intro h
  obtain ⟨hop, hbase, hw, hh, hkernel, hok⟩ := medianJob_passes
  have hruns : runsNow medianUnsorted 0 3 0 0x30 medianRun := by unfold runsNow; decide +kernel
  have hlines : holdsLines medianRun (cmdBody medianRun.cmd 0 48) 64 := by unfold holdsLines; decide +kernel
  obtain ⟨hsieve, -⟩ := h medianUnsorted 0 0 medianRun
  obtain ⟨hwrites, -⟩ := hsieve hruns ⟨rfl, rfl, rfl, rfl, rfl, hlines⟩ fun hk => absurd (hkernel.symm.trans hk) (by decide)
  rw [show sieveOf (medianRun.bytes (cmdBody medianRun.cmd 0 48) 64) = medianJob from rfl, hkernel] at hwrites
  obtain ⟨t, ht, -, hcodes⟩ := hwrites hok hop.le (by decide +kernel) medianJob_read
  have hpixel := medianUnsorted_pixel
  rw [ht] at hpixel
  have hread : t.load (mkAddr 1 0 0x2000) 2 = [1#8, 0#8] := Option.some.inj hpixel
  have hcode := hcodes 0 0 hw hh
  have haddr : medianJob.outBase + 0 * medianJob.outPitch + 2 * 0 = mkAddr 1 0 0x2000 := by simp [hbase]
  rw [haddr, hread, if_pos hop, medianJob_zero] at hcode
  exact absurd hcode (by decide)

end Sys2Proof.Machine
end

section
/-! SUPPORT. The reset state (R267, R333). -/

namespace Sys2Proof.Machine

/-- Settles O4: every table of the reset state is empty, so each reading is its default. -/
theorem resetIsOffWithCanonicalMemory : Obligations.ResetIsOffWithCanonicalMemory :=
  ⟨rfl, rfl, rfl, fun _ => rfl, rfl, fun _ _ => rfl⟩

end Sys2Proof.Machine
end

section
/-! SUPPORT. Accesses that are held for a later part, and how each of them ends by itself (R272, R275, R278, R279, R307). -/

namespace Sys2Proof.Machine

/-- Cycles that pass move registers and clocks, up to the cycle that is named. -/
theorem State.runTo_form (s : State) (c : Nat) :
    ∃ regs clocks, s.runTo c = { s with regs := regs, clocks := clocks } ∧ clocks.cycle = max s.clocks.cycle c :=
  ⟨_, _, s.runTo_rest c, s.runTo_cycle c⟩

/-- SNAPSHOT_EXPIRY of a snapshot that is alive ends every one of the value, 1 ms after the first fragment (R272). -/
theorem snapshotExpires_ends {s : State} {via : Via} {key : Nat} {x : Snapshot}
    (hx : s.links.snapshots.find? (fun y => y.via = via ∧ y.key = key ∧ !y.isDomain ∧ !y.dead) = some x) :
    (snapshotExpires s via key).clocks.cycle = max s.clocks.cycle (x.opened + 1600000) ∧ (snapshotExpires s via key).mem = s.mem ∧
      ∀ y ∈ (snapshotExpires s via key).links.snapshots, y.via = via → y.key = key → y.isDomain = false → y.dead = true := by
  obtain ⟨regs, clocks, hrun, hcycle⟩ := s.runTo_form (x.opened + msCycles)
  simp only [snapshotExpires, hx, hrun]
  refine ⟨hcycle, rfl, fun y hy hvia hkey hdomain => ?_⟩
  obtain ⟨z, -, rfl⟩ := List.mem_map.mp hy
  split_ifs at hvia hkey hdomain ⊢ with hz
  · rfl
  · exact absurd ⟨hvia, hkey, by simp [hdomain]⟩ hz

theorem snapshotExpires_none {s : State} {via : Via} {key : Nat}
    (h : ∀ y ∈ s.links.snapshots, y.via = via → y.key = key → y.isDomain = false → y.dead = true) : snapshotExpires s via key = s := by
  have hnone : s.links.snapshots.find? (fun y => y.via = via ∧ y.key = key ∧ !y.isDomain ∧ !y.dead) = none := by
    rw [List.find?_eq_none]
    intro y hy hp
    simp only [Bool.not_eq_eq_eq_not, Bool.not_true, decide_eq_true_eq] at hp
    obtain ⟨hvia, hkey, hdomain, hdead⟩ := hp
    rw [h y hy hvia hkey hdomain] at hdead
    cases hdead
  simp only [snapshotExpires, hnone]

/-- UART_PART_EXPIRY ends the pending write of the object, 1 ms after its first part (R275). -/
theorem partsExpire_ends {s : State} {key : Nat} {x : PendingWrite} (hx : pendingOf s key = some x) (hlive : x.dead = false) :
    (partsExpire s key).mem = s.mem ∧ (partsExpire s key).clocks.cycle = max s.clocks.cycle (x.opened + 1600000) ∧
      ∀ y, pendingOf (partsExpire s key) key = some y → y.dead = true := by
  have hopen : (pendingOf s key).filter (fun x => !x.dead) = some x := by rw [hx, Option.filter_some_eq_some.mpr (by simp [hlive])]
  obtain ⟨regs, clocks, hrun, hcycle⟩ := s.runTo_form (x.opened + msCycles)
  simp only [partsExpire, hopen, hrun]
  refine ⟨rfl, hcycle, fun y hy => ?_⟩
  have hmem := List.mem_of_find?_eq_some hy
  have hat := List.find?_some hy
  obtain ⟨z, -, rfl⟩ := List.mem_map.mp hmem
  split_ifs at hat ⊢ with hz
  · rfl
  · exact absurd (of_decide_eq_true hat) hz

/-- DOMAIN_SESSION_IDLE ends the write session of the object, ID_OD_DOMAIN_IDLE after its last access (R278). -/
theorem writeIdles_ends {s : State} {key : Nat} {x : WriteSession} (hx : s.links.writes.find? (fun y => y.key = key) = some x) :
    (writeIdles s key).clocks.cycle = max s.clocks.cycle (x.touched + s.reg Reg.odDomainIdle * 1600000) ∧
      (writeIdles s key).domains = s.domains ∧ (writeIdles s key).mem = s.mem ∧ ∀ y ∈ (writeIdles s key).links.writes, y.id ≠ x.id := by
  obtain ⟨regs, clocks, hrun, hcycle⟩ := s.runTo_form (x.touched + idleCycles s)
  simp only [writeIdles, hx, hrun]
  exact ⟨hcycle, rfl, rfl, fun y hy => by simpa using (List.mem_filter.mp hy).2⟩

theorem writeIdles_none {s : State} {key : Nat} (h : ∀ y ∈ s.links.writes, y.key ≠ key) : writeIdles s key = s := by
  have hnone : s.links.writes.find? (fun y => y.key = key) = none := List.find?_eq_none.mpr fun y hy hp => h y hy (of_decide_eq_true hp)
  simp only [writeIdles, hnone]

/-- Nothing is held of a value once its snapshot is dropped. -/
theorem dropSnapshot_left {s : State} {via : Via} {key : Nat} {y : Snapshot} (hy : y ∈ (dropSnapshot s via key).links.snapshots)
    (hvia : y.via = via) : y.key ≠ key := by
  intro hkey
  have h := (List.mem_filter.mp hy).2
  simp [hvia, hkey] at h

/-- DOMAIN_READ_IDLE ends the read session of the object, ID_OD_DOMAIN_IDLE after its last fragment (R279). -/
theorem readIdles_ends {s : State} {via : Via} {key : Nat} {x : Snapshot}
    (hx : s.links.snapshots.find? (fun y => y.via = via ∧ y.key = key ∧ y.isDomain) = some x) :
    (readIdles s via key).mem = s.mem ∧
      (readIdles s via key).clocks.cycle = max s.clocks.cycle (x.touched + s.reg Reg.odDomainIdle * 1600000) ∧
      ∀ y ∈ (readIdles s via key).links.snapshots, y.via = via → y.key ≠ key := by
  obtain ⟨regs, clocks, hrun, hcycle⟩ := s.runTo_form (x.touched + idleCycles s)
  simp only [readIdles, hx, hrun]
  exact ⟨rfl, hcycle, fun y hy hvia => dropSnapshot_left hy hvia⟩

/-- What the end of a transport session leaves: nothing of its source, and the other sessions (R307). -/
theorem endSession_left (s : State) (via : Via) :
    (∀ y ∈ (endSession s via).links.sessions, y.via ≠ via) ∧ (∀ y ∈ (endSession s via).links.snapshots, y.via ≠ via) ∧
      (∀ y ∈ (endSession s via).links.pendingWrites, y.via ≠ via) ∧ (∀ y ∈ (endSession s via).links.writes, y.via ≠ via) ∧
      ∀ y, y.via ≠ via → (y ∈ (endSession s via).links.sessions ↔ y ∈ s.links.sessions) := by
  simp only [endSession, State.modLinks_links, List.mem_filter, bne_iff_ne]
  exact ⟨fun _ h => h.2, fun _ h => h.2, fun _ h => h.2, fun _ h => h.2, fun _ h => and_iff_left h⟩

/-- SESSION_TIMEOUT ends the session of a source, 60 s after its last datagram (R307). -/
theorem sessionTimesOut_ends {s : State} {via : Via} {x : EthSession} (hx : s.links.sessions.find? (fun y => y.via = via) = some x) :
    let t := sessionTimesOut s via
    t.mem = s.mem ∧ t.clocks.cycle = max s.clocks.cycle (x.lastSeen + 60000 * 1600000) ∧
      (∀ y ∈ t.links.sessions, y.via ≠ via) ∧
      (∀ y ∈ t.links.snapshots, y.via ≠ via) ∧ (∀ y ∈ t.links.pendingWrites, y.via ≠ via) ∧ (∀ y ∈ t.links.writes, y.via ≠ via) ∧
      ∀ y, y.via ≠ via → (y ∈ t.links.sessions ↔ y ∈ s.links.sessions) := by
  obtain ⟨regs, clocks, hrun, hcycle⟩ := s.runTo_form (x.lastSeen + sessionCycles)
  simp only [sessionTimesOut, hx, hrun]
  exact ⟨rfl, hcycle, endSession_left _ via⟩

theorem sessionTimesOut_none {s : State} {via : Via} (h : ∀ y ∈ s.links.sessions, y.via ≠ via) : sessionTimesOut s via = s := by
  have hnone : s.links.sessions.find? (fun y => y.via = via) = none :=
    List.find?_eq_none.mpr fun y hy hp => h y hy (of_decide_eq_true hp)
  simp only [sessionTimesOut, hnone]

/-- Settles O43, command by command. -/
theorem heldAccessesExpire : Obligations.HeldAccessesExpire := by
  unfold Obligations.HeldAccessesExpire
  intro s via key
  have hpart (h : pendingOf s key = none) : partsExpire s key = s := by simp [partsExpire, h]
  exact ⟨fun x hx => ⟨_, rfl, snapshotExpires_ends hx⟩, fun h => congrArg (done s) (snapshotExpires_none h),
    fun x hx hlive => ⟨_, rfl, partsExpire_ends hx hlive⟩, fun h => congrArg (done s) (hpart h),
    fun x hx => ⟨_, rfl, writeIdles_ends hx⟩, fun h => congrArg (done s) (writeIdles_none h), fun x hx => ⟨_, rfl, readIdles_ends hx⟩,
    fun x hx => ⟨_, rfl, sessionTimesOut_ends hx⟩, fun h => congrArg (done s) (sessionTimesOut_none h)⟩

end Sys2Proof.Machine
end

section
/-! SUPPORT. A power limit written below the draw that was published last: the write throttles the harbour groups (R401). -/

namespace Sys2Proof.Machine

/-- HELD, with a published draw of 3,000 W. -/
def drawsPower : State := { tMode .held with pub := [(Reg.pwrTotalW.key 0, 3000)] }

/-- A limit of 2,000 W, which PWR_LIMIT_W takes. -/
def lowLimit : List Byte := leBytes 4 2000

theorem drawsPower_held : drawsPower.mode = .held ∧ drawsPower.act.phase = 0 ∧ lowLimit.length = 4 ∧ leNat lowLimit = 2000 ∧
    drawsPower.power.throttled = false := by decide +kernel

theorem lowLimit_throttles : (answered (exec (.registerWrite Reg.pwrLimitW.base Reg.pwrLimitW.sub lowLimit) drawsPower)).map
    (fun t => t.power.throttled) = some true := by decide +kernel

/-- Refutes O44, by its clause on PWR_LIMIT_W: the write is said to leave nothing but the value, and a limit below the published draw
throttles the groups at once. -/
theorem not_writesAreCheckedInOrder : ¬ Obligations.WritesAreCheckedInOrder := by
  unfold Obligations.WritesAreCheckedInOrder
  intro h
  obtain ⟨hheld, hphase, hlen, hval, hthrottled⟩ := drawsPower_held
  obtain ⟨-, -, hlimit⟩ := h drawsPower 0 0 lowLimit
  have hthrottles := lowLimit_throttles
  rw [hlimit hheld hphase hlen hval.ge (by rw [hval]; decide)] at hthrottles
  exact absurd (hthrottled.symm.trans (Option.some.inj hthrottles)) (by decide)

end Sys2Proof.Machine
end

section
/-! SUPPORT. Datagrams: what an access and the admission of a session leave, and what is sent back (R269, R276, R302 to R307). -/

namespace Sys2Proof.Machine

/-! ### What an access leaves -/

/-- An access moves time and its own mark, and time only through the group counters. -/
theorem State.accessed_form (s : State) (via : Via) : ∃ regs clocks a,
    s.accessed via = { s with regs := regs, clocks := clocks, links := { s.links with applied := a } } ∧ s.clocks.cycle ≤ clocks.cycle := by
  unfold State.accessed
  dsimp only
  split
  · obtain ⟨regs, clocks, hrun, hcycle⟩ := s.runTo_form (8 * (s.clocks.cycle / 8 + 1))
    rw [hrun]
    exact ⟨regs, clocks, _, rfl, by rw [hcycle]; exact le_max_left _ _⟩
  · exact ⟨s.regs, s.clocks, _, rfl, le_rfl⟩

/-- A register that is not a group's cycle counter keeps its value in an access. -/
theorem State.accessed_reg (s : State) (via : Via) {r : Reg} (hs : r.sub < 256) (h4 : r.sub ≠ 4) (h5 : r.sub ≠ 5) (n : Nat) :
    (s.accessed via).reg r n = s.reg r n := by
  unfold State.accessed
  dsimp only
  split
  · exact State.runTo_reg_of_sub s _ hs h4 h5 n
  · rfl

@[simp] theorem State.accessed_pending (s : State) (via : Via) : (s.accessed via).pending = s.pending := by
  obtain ⟨regs, clocks, a, h, -⟩ := s.accessed_form via
  rw [h]

@[simp] theorem State.accessed_domains (s : State) (via : Via) : (s.accessed via).domains = s.domains := by
  obtain ⟨regs, clocks, a, h, -⟩ := s.accessed_form via
  rw [h]

@[simp] theorem State.accessed_outbox (s : State) (via : Via) : (s.accessed via).outbox = s.outbox := by
  obtain ⟨regs, clocks, a, h, -⟩ := s.accessed_form via
  rw [h]

/-! ### Sessions -/

/-- Silence and admission move the links alone. -/
theorem admitSession_form {s v : State} {d : Datagram} (h : admitSession s d = some v) : ∃ links, v = { s with links := links } := by
  have hsilent : ∃ links, endSilent s = { s with links := links } := by
    unfold endSilent
    refine foldl_holds (fun t => ∃ links, t = { s with links := links }) _ ?_ _ _ ⟨s.links, rfl⟩
    rintro _ x ⟨links, rfl⟩
    exact ⟨_, rfl⟩
  obtain ⟨links, hsilent⟩ := hsilent
  unfold admitSession at h
  rw [hsilent] at h
  dsimp only at h
  split at h
  · exact ⟨_, (Option.some.inj h).symm⟩
  · split at h
    · exact ⟨_, (Option.some.inj h).symm⟩
    · cases h

/-! ### What every datagram meets -/

/-- The operations of Table 13.6 that a host may send. -/
def hostOperations (d : Datagram) : List (Nat × Instr) :=
  [(0x01, .read d), (0x02, .write d), (0x03, .domainOpen d), (0x04, .domainChunk d), (0x05, .domainCommit d), (0x06, .domainCancel d),
    (0x07, .domainRead d), (0x08, .subscribe d), (0x09, .close d)]

/-- Each of them is served in the same way. -/
theorem hostOperations_serve {d : Datagram} {op : Nat} {c : Instr} (h : (op, c) ∈ hostOperations d) :
    ∃ run, ∀ s, exec c s = done s (serve' op run d s) := by
  simp only [hostOperations, List.mem_cons, Prod.mk.injEq, List.not_mem_nil, or_false] at h
  rcases h with ⟨rfl, rfl⟩ | ⟨rfl, rfl⟩ | ⟨rfl, rfl⟩ | ⟨rfl, rfl⟩ |
    ⟨rfl, rfl⟩ | ⟨rfl, rfl⟩ | ⟨rfl, rfl⟩ | ⟨rfl, rfl⟩ | ⟨rfl, rfl⟩ <;>
    exact ⟨_, fun _ => rfl⟩

section
variable {s : State} {d : Datagram} {op : Nat} {run : State → Option (List Byte × State)} (hoff : s.mode ≠ .off) (hport : d.port < 2)
  (hen : s.flag Reg.ethEnable d.port = true)
include hoff hport hen

theorem port_takes : ¬ (s.mode = .off ∨ 2 ≤ d.port ∨ (!s.flag Reg.ethEnable d.port) = true) := by
  simp [hoff, hport, hen]

/-- A frame that is not whole, or a datagram whose magic, version or length fields are wrong, is dropped and counted (R302, R306). -/
theorem serve'_drops (h : d.frame ≠ .whole ∨ frameOk d = false) : serve' op run d s = s.count Reg.ethRxDropped d.port := by
  have hport' := port_takes hoff hport hen
  unfold serve' State.onFrame
  by_cases hw : d.frame = .whole
  · rw [if_pos hw, serveFrame, if_neg hport', h.resolve_left (fun h => h hw)]
    rfl
  · rw [if_neg hw, if_neg hport']

section
variable (hw : d.frame = .whole) (hf : frameOk d = true)
include hw hf

/-- One whose CRC fails is answered and counted (R306). -/
theorem serve'_badCrc (h : d.crc ≠ crc32c (datagramBytes op d)) :
    serve' op run d s = (s.count Reg.ethCrcErrors d.port).answerTo d (datagram (op + 0x80) d.reqId scCrc []) := by
  unfold serve' State.onFrame
  rw [if_pos hw, serveFrame, if_neg (port_takes hoff hport hen), hf, if_pos h]
  rfl

variable (hboot : s.mode ≠ .boot) (hcrc : d.crc = crc32c (datagramBytes op d))
include hboot hcrc

theorem serve'_full (h : admitSession s d = none) :
    serve' op run d s = s.answerTo d (datagram (op + 0x80) d.reqId scState []) := by
  unfold serve' State.onFrame
  rw [if_pos hw, serveFrame, if_neg (port_takes hoff hport hen), hf, if_neg (not_not.mpr hcrc), if_neg hboot, h]
  rfl

theorem serve'_again {u : State} {bytes : List Byte} (h : admitSession s d = some u) (hk : keptReply u d = some bytes) :
    serve' op run d s = u.answerTo d bytes := by
  unfold serve' State.onFrame
  rw [if_pos hw, serveFrame, if_neg (port_takes hoff hport hen), hf, if_neg (not_not.mpr hcrc), if_neg hboot, h]
  simp only [hk]
  rfl

end

end

/-- A datagram that reaches the dictionary is executed there, and its response is kept and sent (R304, R307). -/
theorem serve'_reached {s u w : State} {d : Datagram} {op : Nat} {run : State → Option (List Byte × State)} {bs : List Byte}
    (h : reaches s op d u) (hrun : run u = some (bs, w)) : serve' op run d s = sendReply w d (datagram (op + 0x80) d.reqId 0 bs) := by
  obtain ⟨hoff, hboot, hport, hen, hw, hf, hcrc, v, hadmit, hkept, rfl⟩ := h
  unfold serve' State.onFrame
  rw [if_pos hw, serveFrame, if_neg (port_takes hoff hport hen), hf, if_neg (not_not.mpr hcrc), if_neg hboot, hadmit]
  simp only [hkept, hrun]
  rfl

/-- The state in which a datagram takes effect has what waits, the contents and the outputs of the state that it came in. -/
theorem reaches_keeps {s u : State} {op : Nat} {d : Datagram} (h : reaches s op d u) :
    u.pending = s.pending ∧ u.domains = s.domains ∧ u.outbox = s.outbox := by
  obtain ⟨-, -, -, -, -, -, -, v, hadmit, -, rfl⟩ := h
  obtain ⟨links, rfl⟩ := admitSession_form hadmit
  exact ⟨State.accessed_pending .., State.accessed_domains .., State.accessed_outbox ..⟩

/-- The response is the newest output. -/
theorem sendReply_replied (w : State) (d : Datagram) (op : Nat) (bs : List Byte) :
    replied (sendReply w d (datagram (op + 0x80) d.reqId 0 bs)) op d bs := rfl

/-- Settles O47, from the fate of a datagram that is not well formed. -/
theorem badDatagramsAreDroppedOrAnswered : Obligations.BadDatagramsAreDroppedOrAnswered := by
  unfold Obligations.BadDatagramsAreDroppedOrAnswered
  intro s d op c hop hoff hport hen
  obtain ⟨run, hexec⟩ := hostOperations_serve hop
  have hright : frameOk d = true ↔
      d.magic = 0xC47E ∧ d.version = 1 ∧ d.length % 4 = 0 ∧ d.length ≤ 1412 ∧ d.length = d.payload.length := by
    simp [frameOk, and_assoc]
  refine ⟨fun hbad => ?_, fun hw hr hcrc => ?_⟩
  · rw [hexec, serve'_drops hoff hport hen (hbad.imp_right fun h => Bool.eq_false_iff.mpr (mt hright.mp h))]
    rfl
  · rw [hexec, serve'_badCrc hoff hport hen hw (hright.mpr hr) hcrc]
    rfl

end Sys2Proof.Machine
end

section
/-! SUPPORT. Sessions that answer again, subscribe and close, and the frames that a port answers itself (R276, R302, R303, R307, R308). -/

namespace Sys2Proof.Machine

/-! ### Sessions -/

/-- What SUBSCRIBE leaves: the mask and the address in its session, which keeps its reply before the seven newest (R307, R308). -/
theorem subscribe_sets {s u : State} {d : Datagram} (h : reaches s 0x08 d u) (hlen : d.payload.length = 4) :
    ∃ t, exec (.subscribe d) s = .next t ∧ replied t 0x08 d (leBytes 4 0) ∧ t.domains = s.domains ∧ t.regs = u.regs ∧
      ∀ x ∈ t.links.sessions, x.via = sourceOf d → x.mask = leAt d.payload 0 4 ∧ x.mac = d.mac ∧
        ∃ y ∈ u.links.sessions, y.via = sourceOf d ∧ x.replies = (d.reqId, datagram 0x88 d.reqId 0 (leBytes 4 0)) :: y.replies.take 7 := by
  obtain ⟨-, hdomains, -⟩ := reaches_keeps h
  have hrun : subscribeAsked d u = some (leBytes 4 0, _) := if_pos hlen
  refine ⟨_, congrArg (done s) (serve'_reached h hrun), sendReply_replied .., hdomains, rfl, fun x hx hvia => ?_⟩
  obtain ⟨z, hz, rfl⟩ := List.mem_map.mp hx
  obtain ⟨y, hy, rfl⟩ := List.mem_map.mp hz
  by_cases hyvia : y.via = sourceOf d
  · simp only [hyvia, if_true]
    exact ⟨trivial, trivial, y, hy, hyvia, rfl⟩
  · simp [hyvia] at hvia

/-- What CLOSE leaves: its answer, and nothing of its source (R307). -/
theorem close_ends {s u : State} {d : Datagram} (h : reaches s 0x09 d u) (hlen : d.payload = []) :
    ∃ t, exec (.close d) s = .next t ∧ replied t 0x09 d (leBytes 4 0) ∧ (∀ x ∈ t.links.sessions, x.via ≠ sourceOf d) ∧
      (∀ x ∈ t.links.snapshots, x.via ≠ sourceOf d) ∧ (∀ x ∈ t.links.pendingWrites, x.via ≠ sourceOf d) ∧
      ∀ x ∈ t.links.writes, x.via ≠ sourceOf d := by
  obtain ⟨hsessions, hsnapshots, hpending, hwrites, -⟩ := endSession_left u (sourceOf d)
  have hrun : closeAsked d u = some (leBytes 4 0, endSession u (sourceOf d)) := by
    rw [closeAsked, sized, if_pos (by rw [hlen]; rfl)]
    rfl
  refine ⟨_, congrArg (done s) (serve'_reached h hrun), sendReply_replied .., fun x hx => ?_, hsnapshots, hpending, hwrites⟩
  obtain ⟨y, hy, rfl⟩ := List.mem_map.mp hx
  have hy' := hsessions y hy
  simp only [if_neg hy']
  exact hy'

/-! ### Frames that a port answers itself -/

/-- A frame of ARP, ICMP or neighbour discovery: the port answers one that it takes for its own address, drops one that it does not
take, and else does nothing (R302, R303). -/
theorem onFrame_answers (s : State) (f : EthFrame) {port mac : Nat} (hport : port < 2) (own : State → Bool) (bs : State → List Byte) :
    let live := s.mode ≠ .off ∧ s.flag Reg.ethEnable port = true
    let t := s.onFrame port f fun s => if portAnswers s port && own s then s.emit (.eth port mac (bs s)) else s
    (f = .whole → live ∧ s.mode ≠ .boot → own s = true → t = s.emit (.eth port mac (bs s))) ∧
      (f = .whole → ¬ (live ∧ s.mode ≠ .boot) ∨ ¬ own s = true → t = s) ∧
      (f ≠ .whole → live → t = s.count Reg.ethRxDropped port) ∧ (f ≠ .whole → ¬ live → t = s) := by
  have hup : portAnswers s port = true ↔ (s.mode ≠ .off ∧ s.flag Reg.ethEnable port = true) ∧ s.mode ≠ .boot := by
    simp [portAnswers, hport, and_comm]
  have hlive : (s.mode = .off ∨ 2 ≤ port ∨ (!s.flag Reg.ethEnable port) = true) ↔
      ¬ (s.mode ≠ .off ∧ s.flag Reg.ethEnable port = true) := by
    simp only [not_and_or, not_not, Bool.not_eq_true', Bool.not_eq_true]
    constructor
    · rintro (h | h | h)
      · exact .inl h
      · omega
      · exact .inr h
    · exact fun h => h.imp_right .inr
  dsimp only
  refine ⟨fun hf hu ho => ?_, fun hf hn => ?_, fun hf hl => ?_, fun hf hl => ?_⟩
  · rw [State.onFrame, if_pos hf, hup.mpr hu, ho]
    rfl
  · have hno : ¬ ((portAnswers s port && own s) = true) := by
      rw [Bool.and_eq_true, hup]
      exact fun h => hn.elim (fun k => k h.1) fun k => k h.2
    rw [State.onFrame, if_pos hf, if_neg hno]
  · rw [State.onFrame, if_neg hf, if_neg (hlive.not.mpr (not_not.mpr hl))]
  · rw [State.onFrame, if_neg hf, if_pos (hlive.mpr hl)]

theorem ownV4_iff (s : State) (port target : Nat) : ownV4 s port target = true ↔ target ≠ 0 ∧ target = s.reg Reg.ethIpv4 port := by
  simp [ownV4]

theorem ownV6_iff (s : State) (port target : Nat) : ownV6 s port target = true ↔
    target = linkLocal s port ∨ target ≠ 0 ∧ target = beNat (s.domain Reg.ethIpv6 port) := by
  simp [ownV6]

/-- The four fates of such a frame, as the command that ends with it. -/
theorem onUnit_answers {s : State} {f : EthFrame} {port mac : Nat} (hport : port < 2) {own : State → Bool} {bs : State → List Byte}
    {c : Instr} (hexec : exec c s = onUnit (decide (port < 2)) s
      (s.onFrame port f fun s => if portAnswers s port && own s then s.emit (.eth port mac (bs s)) else s))
    {p : Prop} (hp : own s = true ↔ p) :
    let live := s.mode ≠ .off ∧ s.flag Reg.ethEnable port = true
    (f = .whole → live ∧ s.mode ≠ .boot → p → exec c s = .next (s.emit (.eth port mac (bs s)))) ∧
      (f = .whole → ¬ (live ∧ s.mode ≠ .boot) ∨ ¬ p → exec c s = .next s) ∧
      (f ≠ .whole → live → exec c s = .next (s.count Reg.ethRxDropped port)) ∧ (f ≠ .whole → ¬ live → exec c s = .next s) := by
  obtain ⟨hanswers, hnot, hdrops, hdead⟩ := onFrame_answers s f (mac := mac) hport own bs
  rw [hexec, onUnit_present _ _ (decide_eq_true hport), ← hp]
  exact ⟨fun hf hu ho => by rw [hanswers hf hu ho]; rfl, fun hf hn => by rw [hnot hf hn], fun hf hl => by rw [hdrops hf hl]; rfl,
    fun hf hl => by rw [hdead hf hl]⟩

/-- Settles O48, from what sessions keep and what a port answers itself. -/
theorem sessionsAndPortsAnswer : Obligations.SessionsAndPortsAnswer := by
  unfold Obligations.SessionsAndPortsAnswer
  refine ⟨fun s u d => ⟨fun op c hop hoff hboot hport hen hw hf hcrc => ?_, subscribe_sets, close_ends⟩, ?_⟩
  · obtain ⟨run, hexec⟩ := hostOperations_serve hop
    refine ⟨fun bytes hadmit hkept => ?_, fun hfull => ?_⟩
    · obtain ⟨links, rfl⟩ := admitSession_form hadmit
      rw [hexec, serve'_again hoff hport hen hw hf hboot hcrc hadmit hkept]
      rfl
    · rw [hexec, serve'_full hoff hport hen hw hf hboot hcrc hfull]
      rfl
  · intro s f port mac target hport
    refine ⟨onUnit_answers (own := fun s => ownV4 s port target) (bs := fun s => beBytes 2 0x0806 ++ beBytes 2 2 ++
        beBytes 6 (s.reg Reg.ethMac port) ++ beBytes 4 target) hport rfl (ownV4_iff s port target), fun body =>
      ⟨onUnit_answers (own := fun s => ownV4 s port target) (bs := fun _ => beBytes 2 0x0800 ++ leBytes 1 0 ++ body) hport rfl
          (ownV4_iff s port target),
        onUnit_answers (own := fun s => ownV6 s port target) (bs := fun _ => beBytes 2 0x86DD ++ leBytes 1 129 ++ body) hport rfl
          (ownV6_iff s port target)⟩, fun dad =>
      onUnit_answers (own := fun s => ownV6 s port target) (bs := fun s => beBytes 2 0x86DD ++ leBytes 1 136 ++
        leBytes 1 (if dad then 0x20 else 0x60) ++ beBytes 16 target ++ beBytes 6 (s.reg Reg.ethMac port)) hport rfl
        (ownV6_iff s port target), fun b hoff => ?_⟩
    refine ⟨_, onUnit_present _ _ (decide_eq_true hport), ?_⟩
    rw [if_neg hoff, ofBool]
    simp only [Bool.and_eq_true]
    rfl

end Sys2Proof.Machine
end

section
/-! SUPPORT. The items of READ and WRITE as their payloads lay them out, and what each datagram does with them in order (R269, R273, R305). -/

namespace Sys2Proof.Machine

/-! ### Fields of a byte string -/

theorem slice_append (pre xs post : List Byte) : slice (pre ++ (xs ++ post)) pre.length xs.length = xs := by
  rw [slice, List.drop_left, List.take_left, Nat.sub_self]
  exact List.append_nil _

theorem slice_add (bs : List Byte) (a b n : Nat) : slice bs (a + b) n = slice (bs.drop a) b n := by
  rw [slice, slice, List.drop_drop]

/-- The number that stands in the bytes of a string from an offset on. -/
theorem leAt_field {bs pre post : List Byte} {off n x : Nat} (h : bs = pre ++ (leBytes n x ++ post)) (hoff : pre.length = off)
    (hx : x < 256 ^ n) : leAt bs off n = x := by
  have hslice := slice_append pre (leBytes n x) post
  rw [leBytes_length] at hslice
  rw [leAt, h, ← hoff, hslice, leNat_leBytes, Nat.mod_eq_of_lt hx]

theorem pad4_length (bs : List Byte) : (pad4 bs).length = (bs.length + 3) / 4 * 4 := by
  simp only [pad4, zeros, List.length_append, List.length_replicate]
  omega

/-! ### READ -/

/-- An item of a READ: index, subindex and a reserved byte. -/
def readItemBytes (x : Nat × Nat) : List Byte := leBytes 2 x.1 ++ leBytes 1 x.2 ++ [0#8]

theorem readItemBytes_length (x : Nat × Nat) : (readItemBytes x).length = 4 := by
  simp [readItemBytes]

/-- The items of a READ are read from its payload. -/
theorem readItems_payload {items : List (Nat × Nat)} (hx : ∀ x ∈ items, x.1 < 65536 ∧ x.2 < 256) :
    (List.range items.length).map (fun k => (leAt (items.flatMap readItemBytes) (4 * k) 2, leAt (items.flatMap readItemBytes) (4 * k + 2) 1))
      = items := by
  refine List.ext_getElem (by simp) fun k hk hk' => ?_
  obtain ⟨hindex, hsub⟩ := hx _ (List.getElem_mem hk')
  have hdrop : (items.flatMap readItemBytes).drop (4 * k) = readItemBytes items[k] ++ (items.drop (k + 1)).flatMap readItemBytes := by
    rw [flatMap_drop readItemBytes readItemBytes_length, List.drop_eq_getElem_cons hk', List.flatMap_cons]
  have hfst : leAt (items.flatMap readItemBytes) (4 * k) 2 = items[k].1 := by
    rw [leAt, show 4 * k = 4 * k + 0 from rfl, slice_add, hdrop, ← leAt]
    exact leAt_field (pre := []) (by simp [readItemBytes]; rfl) rfl hindex
  have hsnd : leAt (items.flatMap readItemBytes) (4 * k + 2) 1 = items[k].2 := by
    rw [leAt, slice_add, hdrop, ← leAt]
    exact leAt_field (pre := leBytes 2 items[k].1) (by simp [readItemBytes]; rfl) (leBytes_length _ _) hsub
  rw [List.getElem_map, List.getElem_range, hfst, hsnd]

/-- The answer to one item of a READ. -/
def readPart (u : State) (via : Via) (x : Nat × Nat) : List Byte :=
  readAnswer x.1 x.2 (readItem u via x.1 x.2).1 (readItem u via x.1 x.2).2

/-- Items that take nothing of what they read are all answered from one state, while the answers fit (R273, R305). -/
theorem readSteps_answer {u : State} {via : Via} {items : List (Nat × Nat)} (acc : List Byte)
    (hx : ∀ x ∈ items, x.1 ≠ 0x2200 ∧ completionsAt x.1 x.2 = none) (hfit : (acc ++ items.flatMap (readPart u via)).length ≤ 1412) :
    items.foldl (readStep via) (acc, u) = (acc ++ items.flatMap (readPart u via), u) := by
  induction items generalizing acc with
  | nil => simp
  | cons x items ih =>
    obtain ⟨hindex, hring⟩ := hx x (by simp)
    rw [List.flatMap_cons, ← List.append_assoc] at hfit ⊢
    have hroom : ¬ 1412 < acc.length + (readPart u via x).length := by
      rw [List.length_append, List.length_append] at hfit
      omega
    have hafter (bs : List Byte) : afterRead u x.1 x.2 bs = u := by
      simp only [afterRead, hindex, false_and, if_false, hring]
    have hstep : readStep via (acc, u) x = (acc ++ readPart u via x, u) := by
      simp only [readStep, hafter, ite_self]
      exact if_neg hroom
    rw [List.foldl_cons, hstep]
    exact ih _ (fun y hy => hx y (by simp [hy])) hfit

/-! ### WRITE -/

/-- An item of a WRITE: index, subindex, length and padded value. -/
def writeItemBytes (x : Nat × Nat × List Byte) : List Byte :=
  leBytes 2 x.1 ++ leBytes 1 x.2.1 ++ [0#8] ++ leBytes 2 x.2.2.length ++ leBytes 2 0 ++ pad4 x.2.2

theorem writeItemBytes_length (x : Nat × Nat × List Byte) : (writeItemBytes x).length = 8 + (x.2.2.length + 3) / 4 * 4 := by
  simp [writeItemBytes, pad4_length]
  omega

/-- The first item of a WRITE is read from the payload. -/
theorem writeItemBytes_fields {x : Nat × Nat × List Byte} (hx : x.1 < 65536 ∧ x.2.1 < 256 ∧ x.2.2.length < 65536) (rest : List Byte) :
    leAt (writeItemBytes x ++ rest) 0 2 = x.1 ∧ leAt (writeItemBytes x ++ rest) 2 1 = x.2.1 ∧
      leAt (writeItemBytes x ++ rest) 4 2 = x.2.2.length ∧ slice (writeItemBytes x ++ rest) 8 x.2.2.length = x.2.2 := by
  obtain ⟨hindex, hsub, hlen⟩ := hx
  refine ⟨leAt_field (pre := []) (by simp [writeItemBytes]; rfl) rfl hindex,
    leAt_field (pre := leBytes 2 x.1) (by simp [writeItemBytes]; rfl) (leBytes_length _ _) hsub,
    leAt_field (pre := leBytes 2 x.1 ++ leBytes 1 x.2.1 ++ [0#8]) (by simp [writeItemBytes]; rfl) (by simp) hlen, ?_⟩
  have hslice := slice_append (leBytes 2 x.1 ++ leBytes 1 x.2.1 ++ [0#8] ++ leBytes 2 x.2.2.length ++ leBytes 2 0) x.2.2
    (zeros ((4 - x.2.2.length % 4) % 4) ++ rest)
  simpa [writeItemBytes, pad4] using hslice

/-- The items of a WRITE are read from its payload. -/
theorem writeItems_payload {items : List (Nat × Nat × List Byte)} (hx : ∀ x ∈ items, x.1 < 65536 ∧ x.2.1 < 256 ∧ x.2.2.length < 65536)
    {fuel : Nat} (hfuel : items.length ≤ fuel) : writeItems fuel (items.flatMap writeItemBytes) = some items := by
  induction items generalizing fuel with
  | nil => cases fuel <;> rfl
  | cons x items ih =>
    obtain ⟨n, rfl⟩ : ∃ n, fuel = n + 1 := ⟨fuel - 1, by simp at hfuel; omega⟩
    obtain ⟨hindex, hsub, hlen, hvalue⟩ := writeItemBytes_fields (hx x (by simp)) (items.flatMap writeItemBytes)
    have hsize := writeItemBytes_length x
    have hsome : (writeItemBytes x ++ items.flatMap writeItemBytes).isEmpty = false := by
      rw [List.isEmpty_eq_false_iff, Ne, List.append_eq_nil_iff]
      rintro ⟨h, -⟩
      rw [h, List.length_nil] at hsize
      omega
    have hroom : ¬ (writeItemBytes x ++ items.flatMap writeItemBytes).length < 8 + (x.2.2.length + 3) / 4 * 4 := by
      rw [List.length_append]
      omega
    have hrest := ih (fun y hy => hx y (by simp [hy])) (fuel := n) (by simpa using hfuel)
    rw [List.flatMap_cons, writeItems]
    simp only [hsome, hindex, hsub, hlen, hvalue, if_neg hroom, Bool.false_eq_true, if_false]
    rw [← hsize, List.drop_left, hrest]
    rfl

/-- Settles O45, from the items of each payload and the fold over them. -/
theorem datagramsReadAndWrite : Obligations.DatagramsReadAndWrite := by
  unfold Obligations.DatagramsReadAndWrite
  intro s u d
  refine ⟨fun items h hsome hmax hx hp => ?_, fun items h hsome hmax hx hp => ?_⟩
  · intro part hfit
    obtain ⟨hpending, -, -⟩ := reaches_keeps h
    have hpayload : d.payload = items.flatMap readItemBytes := hp
    have hcount : d.payload.length / 4 = items.length := by
      rw [hpayload, List.length_flatMap, List.map_congr_left fun x _ => readItemBytes_length x]
      simp
    have hitems := readItems_payload fun x hxm => ⟨(hx x hxm).1, (hx x hxm).2.1⟩
    have hsteps := readSteps_answer (u := u) (via := sourceOf d) [] (fun x hxm => (hx x hxm).2.2) hfit
    have hrun : readItems d u = some (items.flatMap part, u) := by
      rw [readItems, hcount, if_neg (by omega), hpayload, hitems, hsteps]
      rfl
    show done s (serve' 0x01 (readItems d) d s) = _
    rw [serve'_reached h hrun, done, ← hpending]
    rfl
  · intro one r
    have hitems : writeItems 64 d.payload = some items := by
      rw [show d.payload = items.flatMap writeItemBytes from hp, writeItems_payload hx hmax]
    have hone : writeStep = one := by
      funext y x
      simp only [writeStep, List.isEmpty_iff, one]
      rw [List.append_assoc, List.append_assoc, List.append_assoc]
      rfl
    have hrun : writeAll d u = some (r.1, r.2.accessed (sourceOf d)) := by
      obtain ⟨x, rest, rfl⟩ : ∃ x rest, items = x :: rest := List.exists_cons_of_length_pos hsome
      rw [writeAll, hitems]
      simp only [hone]
      rfl
    show done s (serve' 0x02 (writeAll d) d s) = _
    rw [serve'_reached h hrun]
    rfl

end Sys2Proof.Machine
end

section
/-! SUPPORT. Snapshots and read sessions of one value: what is found after one is taken, marked and dropped (R272, R276, R279). -/

namespace Sys2Proof.Machine

/-- A snapshot that has just been taken. -/
def newSnapshot (s : State) (via : Via) (key : Nat) (bs : List Byte) (isDomain : Bool) : Snapshot :=
  { via := via, key := key, bytes := bs, parts := [], opened := s.clocks.cycle, touched := s.clocks.cycle, isDomain := isDomain, dead := false }

/-- The end of the oldest leaves nothing that was not held before. -/
theorem endOldest_form (s : State) (via : Via) : ∃ l, endOldest s via = { s with links := { s.links with snapshots := l } } ∧
    ∀ y ∈ l, ∃ z ∈ s.links.snapshots, z.via = y.via ∧ z.key = y.key := by
  have hsame : ∃ l, s = { s with links := { s.links with snapshots := l } } ∧
      ∀ y ∈ l, ∃ z ∈ s.links.snapshots, z.via = y.via ∧ z.key = y.key := ⟨_, rfl, fun y hy => ⟨y, hy, rfl, rfl⟩⟩
  unfold endOldest
  dsimp only
  split
  · exact hsame
  · split
    · exact hsame
    · refine ⟨_, rfl, fun y hy => ?_⟩
      obtain ⟨z, hz, hzy⟩ := List.mem_filterMap.mp hy
      refine ⟨z, hz, ?_⟩
      split_ifs at hzy <;> cases hzy <;> exact ⟨rfl, rfl⟩

/-- A snapshot that is taken moves the snapshots alone, and is the one found of its value (R272). -/
theorem takeSnapshot_form (s : State) (via : Via) (key : Nat) (bs : List Byte) (b : Bool) :
    ∃ l, takeSnapshot s via key bs b = { s with links := { s.links with snapshots := l } } ∧
      l.find? (fun x => x.via = via ∧ x.key = key) = some (newSnapshot s via key bs b) := by
  have hroom : ∃ l, (if b && !publishedKey key then dropSnapshot s via key else endOldest (dropSnapshot s via key) via) =
      { s with links := { s.links with snapshots := l } } ∧ ∀ y ∈ l, y.via = via → y.key ≠ key := by
    split
    · exact ⟨_, rfl, fun y hy => dropSnapshot_left hy⟩
    · obtain ⟨l, hl, hold⟩ := endOldest_form (dropSnapshot s via key) via
      refine ⟨l, hl, fun y hy hvia => ?_⟩
      obtain ⟨z, hz, hzvia, hzkey⟩ := hold y hy
      exact hzkey ▸ dropSnapshot_left hz (hzvia.trans hvia)
  obtain ⟨l, hl, hnone⟩ := hroom
  refine ⟨l ++ [newSnapshot s via key bs b], ?_, ?_⟩
  · unfold takeSnapshot
    dsimp only
    rw [hl]
    rfl
  · have hold : l.find? (fun x => x.via = via ∧ x.key = key) = none := by
      rw [List.find?_eq_none]
      intro y hy hp
      obtain ⟨hvia, hkey⟩ := of_decide_eq_true hp
      exact hnone y hy hvia hkey
    rw [List.find?_append, hold]
    simp [newSnapshot]

theorem snapshotOf_dropSnapshot (s : State) (via : Via) (key : Nat) : snapshotOf (dropSnapshot s via key) via key = none := by
  refine List.find?_eq_none.mpr fun y hy hp => ?_
  obtain ⟨hvia, hkey⟩ := of_decide_eq_true hp
  exact dropSnapshot_left hy hvia hkey

theorem snapshotOf_takeSnapshot (s : State) (via : Via) (key : Nat) (bs : List Byte) (b : Bool) :
    snapshotOf (takeSnapshot s via key bs b) via key = some (newSnapshot s via key bs b) := by
  obtain ⟨l, hl, hfind⟩ := takeSnapshot_form s via key bs b
  rw [snapshotOf, hl]
  exact hfind

/-- A part that is delivered joins the parts of the snapshot found. -/
theorem snapshotOf_markPart {s : State} {via : Via} {key : Nat} {x : Snapshot} (p : Nat) (h : snapshotOf s via key = some x) :
    snapshotOf (markPart s via key p) via key = some { x with parts := p :: x.parts, touched := s.clocks.cycle } := by
  have hx : x.via = via ∧ x.key = key := of_decide_eq_true (List.find?_some (p := fun x : Snapshot => x.via = via ∧ x.key = key) h)
  rw [snapshotOf, markPart, State.modLinks_links, List.find?_map]
  have hsame : ((fun x : Snapshot => decide (x.via = via ∧ x.key = key)) ∘ fun x : Snapshot =>
      if x.via = via ∧ x.key = key then { x with parts := p :: x.parts, touched := s.clocks.cycle } else x) =
      fun x => decide (x.via = via ∧ x.key = key) := by
    funext y
    by_cases hy : y.via = via ∧ y.key = key
    · simp [hy]
    · simp only [Function.comp, if_neg hy]
  rw [hsame, show s.links.snapshots.find? (fun x => decide (x.via = via ∧ x.key = key)) = some x from h, Option.map_some, if_pos hx]

/-- The delivery of a value takes nothing from links, contents or outputs. -/
theorem afterRead_keeps (s : State) (index sub : Nat) (bs : List Byte) :
    (afterRead s index sub bs).links = s.links ∧ (afterRead s index sub bs).domains = s.domains ∧
      (afterRead s index sub bs).outbox = s.outbox ∧ (afterRead s index sub bs).clocks = s.clocks ∧
      (afterRead s index sub bs).pending = s.pending := by
  unfold afterRead
  split
  · unfold clearGuard
    dsimp only
    split <;> exact ⟨rfl, rfl, rfl, rfl, rfl⟩
  · split <;> exact ⟨rfl, rfl, rfl, rfl, rfl⟩

theorem snapshotOf_endRead (s : State) (via : Via) (index sub : Nat) (bs : List Byte) :
    snapshotOf (endRead s via index sub bs) via (index * 256 + sub) = none := by
  obtain ⟨hlinks, -⟩ := afterRead_keeps (dropSnapshot s via (index * 256 + sub)) index sub bs
  have h := snapshotOf_dropSnapshot s via (index * 256 + sub)
  rw [snapshotOf] at h ⊢
  rw [endRead, hlinks]
  exact h

end Sys2Proof.Machine
end

section
/-! SUPPORT. DOMAIN write sessions: what an open, a chunk, a commit and a cancel leave (R277, R278). -/

namespace Sys2Proof.Machine

/-! ### Open -/

/-- The session that an open adds. -/
def newSession (s : State) (via : Via) (key n : Nat) (crc : Option Nat) : WriteSession :=
  { id := s.links.nextSession, via := via, key := key, size := n, crc := crc, chunks := [], touched := s.clocks.cycle }

/-- The state in which the session stands open, the only one of its object. -/
def opened (s : State) (via : Via) (key n : Nat) (crc : Option Nat) : State :=
  s.modLinks fun l => { l with
    writes := (l.writes.filter fun y => y.key != key) ++ [newSession s via key n crc], nextSession := l.nextSession % 65535 + 1 }

/-- The new session is the one of its object. -/
theorem opened_session (s : State) (via : Via) (key n : Nat) (crc : Option Nat) :
    newSession s via key n crc ∈ (opened s via key n crc).links.writes ∧
      ∀ y ∈ (opened s via key n crc).links.writes, y.key = key → y = newSession s via key n crc := by
  refine ⟨by simp [opened], fun y hy hkey => ?_⟩
  rcases List.mem_append.mp hy with hy | hy
  · exact absurd hkey (by simpa using (List.mem_filter.mp hy).2)
  · exact List.mem_singleton.mp hy

section
variable {s : State} {via : Via} {index sub n : Nat} {crc : Option Nat} {r : ObjRow}

/-- An open of a DOMAIN of a size that its transport takes fails by the checks of the object alone. -/
theorem openWrite_sizes (hdomain : r.isDomain = true) (hsmall : smallOnly via = true → n ≤ 4096) :
    ¬ (writeState s r = scOk ∧ ((!r.isDomain) = true ∨ (smallOnly via = true ∧ 4096 < n))) := by
  rintro ⟨-, h | ⟨hvia, hn⟩⟩
  · simp [hdomain] at h
  · exact absurd (hsmall hvia) (by omega)

variable (hfound : findObject s index sub = .object r) (hdomain : r.isDomain = true) (hsmall : smallOnly via = true → n ≤ 4096)
include hfound hdomain hsmall

theorem openWrite_opens (hcheck : openCheck s r (index * 256 + sub) n = 0) :
    openWrite via index sub n crc s = (scOk, s.links.nextSession, opened s via (index * 256 + sub) n crc) := by
  simp only [openWrite, hfound, if_neg (openWrite_sizes hdomain hsmall), hcheck]
  rfl

theorem openWrite_refuses (hcheck : openCheck s r (index * 256 + sub) n ≠ 0) :
    openWrite via index sub n crc s = (openCheck s r (index * 256 + sub) n, 0, s.count Reg.odWritesRefused 0) := by
  simp only [openWrite, hfound, if_neg (openWrite_sizes hdomain hsmall)]
  exact if_neg hcheck

end

/-! ### Sessions found by their number -/

theorem sessionOf_found {s : State} {via : Via} {id : Nat} {x : WriteSession} (h : sessionOf s via id = some x) :
    x ∈ s.links.writes ∧ x.id = id ∧ x.via = via ∧ x.alive s = true :=
  ⟨List.mem_of_find?_eq_some h, of_decide_eq_true (List.find?_some (p := fun x : WriteSession => x.id = id ∧ x.via = via ∧ x.alive s) h)⟩

/-- A session that has ended is not found. -/
theorem endWrite_left {s : State} {id : Nat} {y : WriteSession} (hy : y ∈ (endWrite s id).links.writes) : y.id ≠ id := by
  simpa using (List.mem_filter.mp hy).2

theorem sessionOf_endWrite (s : State) (via : Via) (id : Nat) : sessionOf (endWrite s id) via id = none :=
  List.find?_eq_none.mpr fun _ hy hp => endWrite_left hy (of_decide_eq_true hp).1

/-! ### Chunks -/

/-- The state in which a chunk has joined its session. -/
def joined (s : State) (id off : Nat) (bs : List Byte) : State :=
  s.modLinks fun l => { l with
    writes := l.writes.map fun y => if y.id = id then { y with chunks := y.chunks ++ [(off, bs)], touched := s.clocks.cycle } else y }

theorem chunkWrite_joins {s : State} {via : Via} {id off : Nat} {bs : List Byte} {x : WriteSession} (h : sessionOf s via id = some x)
    (hsome : bs ≠ []) (hfit : off + bs.length ≤ x.size) : chunkWrite via id off bs s = (scOk, joined s id off bs) := by
  have hok : ¬ (bs.isEmpty = true ∨ x.size < off + bs.length) := by
    rw [List.isEmpty_iff]
    rintro (hnil | hlong)
    · exact hsome hnil
    · omega
  simp only [chunkWrite, h, if_neg hok]
  rfl

/-! ### Commit -/

section
variable {s : State} {via : Via} {id : Nat} {x : WriteSession} {r : ObjRow} (h : sessionOf s via id = some x)
  (hrow : findRow (x.key / 256) (x.key % 256) = some r)
include h hrow

theorem commitWrite_refuses {c : Nat} (hcheck : commitCheck (endWrite s id) x r = c) (hc : c ≠ 0) :
    commitWrite via id s = (c, (endWrite s id).count Reg.odWritesRefused 0) := by
  obtain ⟨k, rfl⟩ := Nat.exists_eq_succ_of_ne_zero hc
  simp only [commitWrite, h, hrow, hcheck]
  rfl

theorem commitWrite_takes (hcheck : commitCheck (endWrite s id) x r = 0) :
    commitWrite via id s = takeContent (endWrite s id) r (x.key / 256) (x.key % 256) (assemble x) := by
  simp only [commitWrite, h, hrow, hcheck]

end

theorem commitCheck_incomplete {s : State} {x : WriteSession} {r : ObjRow} (h : coveredFrom x.chunks x.chunks.length 0 < x.size) :
    commitCheck s x r = scIncomplete := if_pos h

section
variable {s : State} {x : WriteSession} {r : ObjRow} (hwhole : coveredFrom x.chunks x.chunks.length 0 = x.size)
include hwhole

theorem commitCheck_crc (hcrc : x.crc ≠ some (crc32c (assemble x))) : commitCheck s x r = scCrc := by
  rw [commitCheck, if_neg (by omega), if_pos hcrc]

theorem commitCheck_state (hcrc : x.crc = some (crc32c (assemble x))) : commitCheck s x r = writeState s r := by
  rw [commitCheck, if_neg (by omega), if_neg (not_not.mpr hcrc)]

end

/-! ### Cancel -/

theorem cancelWrite_ends {s : State} {via : Via} {id : Nat} {x : WriteSession} (h : sessionOf s via id = some x) :
    cancelWrite via id s = (scOk, endWrite s id) := by
  simp only [cancelWrite, h]

end Sys2Proof.Machine
end

section
/-! SUPPORT. O46: the datagrams that move the contents of DOMAINs (R277 to R279, R304, R305). -/

namespace Sys2Proof.Machine

section
variable {s u : State} {d : Datagram}

theorem exec_domainOpen (h : reaches s 0x03 d u) (hlen : d.payload.length = 12) :
    let x := openWrite (sourceOf d) (leAt d.payload 0 2) (leAt d.payload 2 1) (leAt d.payload 4 4) (some (leAt d.payload 8 4)) u
    exec (.domainOpen d) s =
      done s (sendReply x.2.2 d (datagram 0x83 d.reqId 0 (leBytes 4 x.1 ++ leBytes 2 x.2.1 ++ leBytes 2 0))) :=
  congrArg (done s) (serve'_reached h (if_pos hlen))

theorem exec_domainChunk (h : reaches s 0x04 d u) (hsome : 1 ≤ leAt d.payload 8 2) (hmax : leAt d.payload 8 2 ≤ 1400)
    (hlen : d.payload.length = 12 + (leAt d.payload 8 2 + 3) / 4 * 4) :
    let x := chunkWrite (sourceOf d) (leAt d.payload 0 2) (leAt d.payload 4 4) (slice d.payload 12 (leAt d.payload 8 2)) u
    exec (.domainChunk d) s = done s (sendReply x.2 d (datagram 0x84 d.reqId 0 (leBytes 4 x.1))) :=
  congrArg (done s) (serve'_reached h ((if_neg (by omega)).trans (if_pos hlen)))

theorem exec_domainCommit (h : reaches s 0x05 d u) (hlen : d.payload.length = 4) :
    let x := commitWrite (sourceOf d) (leAt d.payload 0 2) u
    exec (.domainCommit d) s = done s (sendReply x.2 d (datagram 0x85 d.reqId 0 (leBytes 4 x.1))) :=
  congrArg (done s) (serve'_reached h (if_pos hlen))

theorem exec_domainCancel (h : reaches s 0x06 d u) (hlen : d.payload.length = 4) :
    let x := cancelWrite (sourceOf d) (leAt d.payload 0 2) u
    exec (.domainCancel d) s = done s (sendReply x.2 d (datagram 0x86 d.reqId 0 (leBytes 4 x.1))) :=
  congrArg (done s) (serve'_reached h (if_pos hlen))

/-- The response to a DOMAIN_READ at an offset, from its status, the total length and the fragment. -/
def fragmentReply (off : Nat) (x : Nat × Nat × List Byte × State) : List Byte :=
  leBytes 4 x.1 ++ leBytes 4 x.2.1 ++ leBytes 4 off ++ leBytes 2 x.2.2.1.length ++ leBytes 2 0 ++ pad4 x.2.2.1

theorem exec_domainRead (h : reaches s 0x07 d u) (hsome : 1 ≤ leAt d.payload 8 2) (hmax : leAt d.payload 8 2 ≤ 1384)
    (hlen : d.payload.length = 12) :
    let x := domainFragment u (sourceOf d) (leAt d.payload 0 2) (leAt d.payload 2 1) (leAt d.payload 4 4) (leAt d.payload 8 2)
    exec (.domainRead d) s = done s (sendReply x.2.2.2 d (datagram 0x87 d.reqId 0 (fragmentReply (leAt d.payload 4 4) x))) :=
  congrArg (done s) (serve'_reached h ((if_neg (by omega)).trans (if_pos hlen)))

end

/-! ### Fragments (R279) -/

section
variable {s : State} {via : Via} {index sub off n : Nat} (hcheck : domainReadCheck s via index sub = 0)
include hcheck

/-- A fragment within a content delivers its bytes, and ends the read session with the last of them. -/
theorem domainFragment_delivers {w : State} {bs : List Byte} (hcontent : readContent s via index sub (off == 0) = some (bs, w))
    (hin : off = 0 ∨ off < bs.length) : domainFragment s via index sub off n =
      (scOk, bs.length, slice bs off (min n (bs.length - off)),
        if bs.length ≤ off + n then endRead w via index sub bs else markPart w via (index * 256 + sub) off) := by
  have hinside : ¬ (off ≠ 0 ∧ bs.length ≤ off) := by omega
  simp only [domainFragment, hcheck, hcontent, if_neg hinside]

theorem domainFragment_none (hcontent : readContent s via index sub (off == 0) = none) :
    domainFragment s via index sub off n = (scSession, 0, [], s) := by
  simp only [domainFragment, hcheck, hcontent]

end

/-- Settles O46, operation by operation. -/
theorem datagramsMoveDomains : Obligations.DatagramsMoveDomains := by
  unfold Obligations.DatagramsMoveDomains
  intro s u d via p id key size code
  refine ⟨fun r h hlen hfound hdomain => ⟨fun hcheck => ?_, fun hcheck => ?_⟩, fun x h hx hsome hmax hlen hfit => ?_,
    fun x r h hlen hx hrow => ?_, fun x h hlen hx => ?_, fun hnone => ⟨fun h hsome hmax hlen => ?_, fun h hlen => ?_, fun h hlen => ?_⟩,
    fun h hlen hsome hmax hcheck => ?_⟩
  · have hopen := openWrite_opens (via := via) (crc := some (leAt p 8 4)) hfound hdomain
      (fun h => absurd h (by simp [via, sourceOf, smallOnly])) hcheck
    obtain ⟨hnew, honly⟩ := opened_session u via key size (some (leAt p 8 4))
    refine ⟨_, exec_domainOpen h hlen, ?_⟩
    rw [hopen]
    exact ⟨sendReply_replied .., _, hnew, rfl, rfl, rfl, rfl, rfl, rfl, honly⟩
  · have hopen := openWrite_refuses (via := via) (crc := some (leAt p 8 4)) hfound hdomain
      (fun h => absurd h (by simp [via, sourceOf, smallOnly])) hcheck
    refine ⟨_, exec_domainOpen h hlen, ?_⟩
    rw [hopen]
    exact ⟨rfl, sendReply_replied .., State.reg_count_same ..⟩
  · obtain ⟨-, hdomains, -⟩ := reaches_keeps h
    obtain ⟨hmem, hid, -, -⟩ := sessionOf_found hx
    have hlen' : (slice p 12 (leAt p 8 2)).length = leAt p 8 2 := slice_length ..
    have hjoin := chunkWrite_joins (bs := slice p 12 (leAt p 8 2)) hx (List.ne_nil_of_length_pos (by omega)) (by rw [hlen']; exact hfit)
    refine ⟨_, exec_domainChunk h hsome hmax hlen, ?_⟩
    rw [hjoin]
    refine ⟨sendReply_replied .., hdomains, _, List.mem_map_of_mem hmem, ?_⟩
    rw [if_pos hid]
    exact ⟨hid, rfl⟩
  · obtain ⟨-, hdomains, -⟩ := reaches_keeps h
    have hbad (c : Nat) (hc : c ≠ 0) (hcode : commitCheck (endWrite u id) x r = c) : ∃ t, exec (.domainCommit d) s = .next t ∧
        replied t 0x05 d (leBytes 4 c) ∧ t.domains = s.domains ∧ ∀ y ∈ t.links.writes, y.id ≠ id := by
      refine ⟨_, exec_domainCommit h hlen, ?_⟩
      rw [commitWrite_refuses hx hrow hcode hc]
      exact ⟨sendReply_replied .., hdomains, fun y hy => endWrite_left hy⟩
    refine ⟨fun hshort => hbad _ (by decide) (commitCheck_incomplete hshort), fun hwhole hcrc =>
      hbad _ (by decide) (commitCheck_crc hwhole hcrc), fun w hwhole hcrc hstate htaken => ?_⟩
    have hok : commitCheck (endWrite u id) x r = 0 := (commitCheck_state hwhole hcrc).trans hstate
    rw [exec_domainCommit h hlen, commitWrite_takes hx hrow hok, takeContent, htaken]
    rfl
  · obtain ⟨-, hdomains, -⟩ := reaches_keeps h
    refine ⟨_, exec_domainCancel h hlen, ?_⟩
    rw [cancelWrite_ends hx]
    exact ⟨sendReply_replied .., hdomains, fun y hy => endWrite_left hy⟩
  · refine ⟨_, exec_domainChunk h hsome hmax hlen, ?_⟩
    rw [show chunkWrite (sourceOf d) _ _ _ u = (scSession, u) by simp only [chunkWrite]; rw [hnone]]
    exact sendReply_replied ..
  · refine ⟨_, exec_domainCommit h hlen, ?_⟩
    rw [show commitWrite (sourceOf d) _ u = (scSession, u) by simp only [commitWrite]; rw [hnone]]
    exact sendReply_replied ..
  · refine ⟨_, exec_domainCancel h hlen, ?_⟩
    rw [show cancelWrite (sourceOf d) _ u = (scSession, u) by simp only [cancelWrite]; rw [hnone]]
    exact sendReply_replied ..
  · intro n part tells
    refine ⟨fun hzero => ?_, fun y hlater hopen hin => ?_, fun hlater hopen => ?_⟩
    · have hcontent : readContent u via (leAt p 0 2) (leAt p 2 1) (size == 0) = some ((readOne u via (leAt p 0 2) (leAt p 2 1)).2,
          takeSnapshot u via key (readOne u via (leAt p 0 2) (leAt p 2 1)).2 true) := by rw [hzero]; rfl
      have hfragment := domainFragment_delivers (n := n) hcheck hcontent (.inl hzero)
      refine ⟨_, exec_domainRead h hsome hmax hlen, ?_⟩
      rw [hfragment]
      refine ⟨sendReply_replied .., fun hmore => ?_⟩
      rw [if_neg (by omega)]
      exact ⟨_, snapshotOf_markPart size (snapshotOf_takeSnapshot u via key _ true), rfl, rfl⟩
    · have hcontent : readContent u via (leAt p 0 2) (leAt p 2 1) (size == 0) = some (y.bytes, u) := by
        rw [show (size == 0) = false by simpa using hlater]
        exact congrArg (Option.map fun x : Snapshot => (x.bytes, u)) hopen
      have hfragment := domainFragment_delivers (n := n) hcheck hcontent (.inr hin)
      refine ⟨_, exec_domainRead h hsome hmax hlen, ?_⟩
      rw [hfragment]
      exact sendReply_replied ..
    · have hcontent : readContent u via (leAt p 0 2) (leAt p 2 1) (size == 0) = none := by
        rw [show (size == 0) = false by simpa using hlater]
        exact congrArg (Option.map fun x : Snapshot => (x.bytes, u)) hopen
      have hfragment := domainFragment_none (n := n) hcheck hcontent
      have hreply : fragmentReply size (scSession, 0, [], u) =
          leBytes 4 0x0A000002 ++ leBytes 4 0 ++ leBytes 4 size ++ leBytes 2 0 ++ leBytes 2 0 := by
        simp [fragmentReply, pad4, zeros, scSession]
      refine ⟨_, exec_domainRead h hsome hmax hlen, ?_⟩
      rw [hfragment, ← hreply]
      exact sendReply_replied ..

end Sys2Proof.Machine
end

section
/-! SUPPORT. NMT commands and the CAN controller's restart (R292 to R294). -/

namespace Sys2Proof.Machine

/-! ### NMT commands -/

theorem nmtHears_iff (s : State) (node : Nat) :
    nmtHears s node = true ↔ s.mode ≠ .off ∧ s.mode ≠ .boot ∧ s.reg Reg.canState ≠ 2 ∧ (node = 0 ∨ node = s.links.node) := by
  simp [nmtHears, canListens]
  tauto

/-- An NMT command that is accepted acts as its ID_COMMAND code (R293). -/
theorem nmtActs_accepted {s t : State} {node code : Nat} (hears : nmtHears s node = true) (h : idCommand code s = (scOk, t)) :
    nmtActs s node code = t := by simp [nmtActs, hears, h]

/-- An NMT command that is refused is ignored and counted (R293). -/
theorem nmtActs_refused {s t : State} {node code c : Nat} (hears : nmtHears s node = true) (h : idCommand code s = (c, t)) (hc : c ≠ scOk) :
    nmtActs s node code = s.count Reg.canNmtIgnored 0 := by simp [nmtActs, hears, h, hc]

/-- An NMT command that the engine does not hear does nothing. -/
theorem nmtActs_deaf {s : State} {node : Nat} (code : Nat) (hears : ¬ nmtHears s node = true) : nmtActs s node code = s := by
  simp [nmtActs, hears]

/-! ### START, STOP and HOLD by the state of the engine (R337 to R339, Table 15.3) -/

theorem startCommand_accepted {s : State} (h : s.mode = .armed ∨ s.mode = .stopped) :
    startCommand s = (scOk, { s with run := { s.run with startAt := some (s.beat.n + 1#48) } }) := by
  rcases h with h | h <;> simp [startCommand, h]

theorem startCommand_refused {s : State} (ha : s.mode ≠ .armed) (hs : s.mode ≠ .stopped) : startCommand s = (scState, s) := by
  simp [startCommand, ha, hs]

theorem stopCommand_accepted {s : State} (h : s.mode = .running) :
    stopCommand s = (scOk, { s with run := { s.run with stopCmd := some (s.beat.n + 1#48) } }) := by simp [stopCommand, h]

theorem stopCommand_refused {s : State} (h : s.mode ≠ .running) : stopCommand s = (scState, s) := by simp [stopCommand, h]

theorem holdCommand_armed {s : State} (h : s.mode = .armed) :
    holdCommand s = (scOk, { s with run := { s.run with holdAt := some (s.beat.n + 1#48) } }) := by simp [holdCommand, h]

theorem holdCommand_running {s : State} (h : s.mode = .running) :
    holdCommand s = (scOk, { s with run := { s.run with stopCmd := some (s.beat.n + 1#48), holdAt := some (s.beat.n + 1#48) } }) := by
  simp [holdCommand, h]

theorem holdCommand_stopped {s : State} (h : s.mode = .stopped) :
    holdCommand s = (scOk, { s with run := { s.run with drain := 1 } }) := by simp [holdCommand, h]

theorem holdCommand_refused {s : State} (h : s.mode = .off ∨ s.mode = .boot ∨ s.mode = .faulted ∨ (s.mode = .held ∧ s.act.phase = 0)) :
    holdCommand s = (scState, s) := by
  rcases h with h | h | h | ⟨h, hphase⟩
  · simp [holdCommand, h]
  · simp [holdCommand, h]
  · simp [holdCommand, h]
  · simp [holdCommand, h, hphase]

theorem resetCommand_accepted {s : State} (b : BootInputs) (hoff : s.mode ≠ .off) (hboot : s.mode ≠ .boot) :
    resetCommand b s = (scOk, resets s b) := by
  cases h : s.mode <;> simp_all [resetCommand, Mode.online, Mode.flows]

/-! ### Reset communication -/

/-- What the end of a client's download leaves: registers, outputs, snapshots, the node and the rate; no transfer of the client stays
and none comes. -/
theorem dropTransfer_keeps (s : State) (node : Nat) :
    (dropTransfer s node).outbox = s.outbox ∧ (dropTransfer s node).links.snapshots = s.links.snapshots ∧
      (dropTransfer s node).domains = s.domains ∧ (dropTransfer s node).clocks = s.clocks ∧ (dropTransfer s node).carrier = s.carrier ∧
      (dropTransfer s node).links.transfers = s.links.transfers.filter fun x => x.node != node := by
  unfold dropTransfer cancelWrite endWrite
  cases transferOf s node with
  | none => exact ⟨rfl, rfl, rfl, rfl, rfl, rfl⟩
  | some x =>
    dsimp only
    cases sessionOf s (.can node) x.session <;> exact ⟨rfl, rfl, rfl, rfl, rfl, rfl⟩

/-- Ending the download of each client of a list leaves those of the others. -/
theorem dropTransfers_left (l : List UsdoTransfer) (s : State) :
    (l.foldl (fun (t : State) x => dropTransfer t x.node) s).links.transfers =
      s.links.transfers.filter fun x => l.all fun y => x.node != y.node := by
  induction l generalizing s with
  | nil => simp
  | cons y l ih =>
    rw [List.foldl_cons, ih, (dropTransfer_keeps s y.node).2.2.2.2.2, List.filter_filter]
    simp [Bool.and_comm]

/-- Ending every download leaves none. -/
theorem dropTransfers_all (s : State) :
    (s.links.transfers.foldl (fun (t : State) x => dropTransfer t x.node) s).links.transfers = [] := by
  rw [dropTransfers_left, List.filter_eq_nil_iff]
  intro x hx hall
  simpa using List.all_eq_true.mp hall x hx

@[simp] theorem State.modLinks_reg (s : State) (g : Links → Links) (r : Reg) (n : Nat) : (s.modLinks g).reg r n = s.reg r n := rfl

/-- A frame that the controller sends, unless it is bus-off, leaves first (R291). -/
theorem State.sendCan_head {s : State} (hbus : s.reg Reg.canState ≠ 2) (id : Nat) (bs : List Byte) :
    s.sendCan id bs = s.emit (.can (.fd true) s.links.rate id bs) := by simp [State.sendCan, hbus]

/-- Reset communication: the node and the rate of the registers are in force, nothing of a CAN node stays, and the boot-up byte leaves
first (R292 to R294). -/
theorem resetsCommunication_restarts {s : State} {node : Nat} (hears : nmtHears s node = true) :
    let t := resetsCommunication s node
    t.links.node = s.reg Reg.canNodeId ∧ t.links.rate = s.reg Reg.canDataRate ∧ t.links.transfers = [] ∧
      (∀ x ∈ t.links.snapshots, viaPlace x.via ≠ 0) ∧
      t.outbox.head? = some (.can (.fd true) (s.reg Reg.canDataRate) (0x700 + s.reg Reg.canNodeId) [0#8]) := by
  have hbus := ((nmtHears_iff s node).mp hears).2.2.1
  have hnone := dropTransfers_all s
  have hregs : (s.links.transfers.foldl (fun (t : State) x => dropTransfer t x.node) s).regs = s.regs :=
    foldl_keep State.regs _ (fun t (x : UsdoTransfer) => dropTransfer_regs t x.node) _ _
  unfold resetsCommunication
  rw [if_neg (by simp [hears])]
  dsimp only
  generalize s.links.transfers.foldl (fun (t : State) x => dropTransfer t x.node) s = w at hnone hregs ⊢
  have hreg (r : Reg) : w.reg r = s.reg r := State.reg_of_regs hregs _ _
  rw [State.sendBootUp, State.sendCan_head (by rw [State.modLinks_reg, hreg]; exact hbus)]
  refine ⟨hreg _, hreg _, hnone, fun x hx => ?_, ?_⟩
  · simpa using (List.mem_filter.mp hx).2
  · simp [State.emit, hreg]

/-- Settles O50, by the state that the command finds. -/
theorem nmtCommandsActAsIdCommands : Obligations.NmtCommandsActAsIdCommands := by
  unfold Obligations.NmtCommandsActAsIdCommands
  intro s node
  dsimp only
  rw [← nmtHears_iff]
  refine ⟨fun hears => ?_, fun deaf => ⟨congrArg (done s) (nmtActs_deaf 2 deaf), congrArg (done s) (nmtActs_deaf 3 deaf),
    congrArg (done s) (nmtActs_deaf 4 deaf), congrArg (done s) (nmtActs_deaf 6 deaf),
    congrArg (done s) (show resetsCommunication s node = s by simp [resetsCommunication, deaf])⟩⟩
  obtain ⟨hoff, hboot, -, -⟩ := (nmtHears_iff s node).mp hears
  have accepted (code : Nat) {t : State} (h : idCommand code s = (scOk, t)) : done s (nmtActs s node code) = done s t :=
    congrArg (done s) (nmtActs_accepted hears h)
  have refused (code : Nat) (h : idCommand code s = (scState, s)) :
      done s (nmtActs s node code) = done s (s.count Reg.canNmtIgnored 0) :=
    congrArg (done s) (nmtActs_refused hears h (by decide))
  refine ⟨fun h => accepted 2 (startCommand_accepted h), fun ha hs => refused 2 (startCommand_refused ha hs),
    fun h => accepted 3 (stopCommand_accepted h), fun h => refused 3 (stopCommand_refused h),
    fun h => accepted 4 (holdCommand_armed h), fun h => accepted 4 (holdCommand_running h), fun h => accepted 4 (holdCommand_stopped h),
    fun h => refused 4 (holdCommand_refused (.inr (.inr h))), accepted 6 (resetCommand_accepted _ hoff hboot), ?_⟩
  obtain ⟨hnode, hrate, hnone, hsnaps, hhead⟩ := resetsCommunication_restarts hears
  exact ⟨_, rfl, hnode, hrate, hnone, resetsCommunication_regs s node, resetsCommunication_mem s node, hsnaps, hhead⟩

end Sys2Proof.Machine
end

section
/-! SUPPORT. The heartbeat, EMCY frames and the controller's own states (R291, R294, R300, R383). -/

namespace Sys2Proof.Machine

/-! ### What a NOTIFY and a heartbeat are -/

/-- A NOTIFY changes the sequence numbers of the sessions, and only adds to what has left. -/
theorem State.notify_form (s : State) (maskBit kind : Nat) (body : List Byte) : ∃ sessions out,
    s.notify maskBit kind body = { s with links := { s.links with sessions := sessions }, outbox := out ++ s.outbox } := by
  unfold State.notify
  refine foldl_holds (fun t => ∃ sessions out, t = { s with links := { s.links with sessions := sessions }, outbox := out ++ s.outbox })
    _ ?_ _ s ⟨s.links.sessions, [], rfl⟩
  rintro t x ⟨sessions, out, rfl⟩
  dsimp only
  split
  · exact ⟨_, _ :: out, rfl⟩
  · exact ⟨sessions, out, rfl⟩

/-- The heartbeat of a state that has one, with a period: its byte leaves unless the controller is bus-off, and the period restarts (R294). -/
theorem State.sendHeartbeat_sends {s : State} {b : Nat} (hb : s.mode.heartbeat = some b) (htime : s.reg Reg.heartbeatTime ≠ 0) :
    s.sendHeartbeat = (s.sendCan (0x700 + s.links.node) (leBytes 1 b)).modLinks fun l =>
      { l with heartbeatAt := s.clocks.cycle + s.reg Reg.heartbeatTime * 1600000 } := by
  unfold State.sendHeartbeat
  rw [hb]
  dsimp only
  rw [if_neg htime]
  have hnext : (s.sendCan (0x700 + s.links.node) (leBytes 1 b)).clocks.cycle +
      (s.sendCan (0x700 + s.links.node) (leBytes 1 b)).reg Reg.heartbeatTime * 1600000 =
        s.clocks.cycle + s.reg Reg.heartbeatTime * 1600000 := by
    rw [State.sendCan_clocks, State.reg_of_regs (State.sendCan_regs ..)]
  exact congrArg (fun n => (s.sendCan (0x700 + s.links.node) (leBytes 1 b)).modLinks fun l => { l with heartbeatAt := n }) hnext

/-- A heartbeat adds at most its frame to what has left, and restarts the period. -/
theorem State.sendHeartbeat_form (s : State) : ∃ n out,
    s.sendHeartbeat = { s with links := { s.links with heartbeatAt := n }, outbox := out ++ s.outbox } := by
  cases hb : s.mode.heartbeat with
  | none => exact ⟨s.links.heartbeatAt, [], by simp [State.sendHeartbeat, hb]⟩
  | some b =>
    by_cases htime : s.reg Reg.heartbeatTime = 0
    · exact ⟨s.links.heartbeatAt, [], by simp [State.sendHeartbeat, hb, htime]⟩
    · rw [State.sendHeartbeat_sends hb htime, State.sendCan]
      split
      · exact ⟨_, [], rfl⟩
      · exact ⟨_, [_], rfl⟩

theorem Mode.heartbeat_byte {m : Mode} {b : Nat} (h : m.heartbeat = some b) :
    (m = .running → b = 0x05) ∧ (m = .faulted → b = 0x04) ∧ (m = .held ∨ m = .armed ∨ m = .stopped → b = 0x7F) := by
  cases m <;> simp_all [Mode.heartbeat]

/-- HEARTBEAT with a period and nothing owed comes at its time, sends the byte of the state and restarts the period (R294). -/
theorem beats_sends {s : State} {b : Nat} (hb : s.mode.heartbeat = some b) (htime : s.reg Reg.heartbeatTime ≠ 0)
    (howed : s.links.beatOwed = false) :
    (beats s).clocks.cycle = max s.clocks.cycle s.links.heartbeatAt ∧
      (beats s).links.heartbeatAt = (beats s).clocks.cycle + s.reg Reg.heartbeatTime * 1600000 ∧
      (s.reg Reg.canState ≠ 2 →
        (beats s).outbox.head? = some (.can (.fd true) s.links.rate (0x700 + s.links.node) [BitVec.ofNat 8 b])) := by
  have htime' : (s.runTo s.links.heartbeatAt).reg Reg.heartbeatTime = s.reg Reg.heartbeatTime := State.runTo_reg (by decide) _
  have hstate : (s.runTo s.links.heartbeatAt).reg Reg.canState = s.reg Reg.canState := State.runTo_reg (by decide) _
  have hmode : (s.runTo s.links.heartbeatAt).mode = s.mode := congrArg Mode.ofCode (State.runTo_reg (by decide) _)
  have hbeats : beats s = (s.runTo s.links.heartbeatAt).sendHeartbeat := by simp [beats, hb, htime, howed]
  rw [hbeats, State.sendHeartbeat_sends (by rw [hmode, hb]) (by rwa [htime']), htime']
  obtain ⟨regs, clocks, hrun, hcycle⟩ := s.runTo_form s.links.heartbeatAt
  rw [hrun] at hstate ⊢
  refine ⟨?_, ?_, fun hbus => ?_⟩
  · rw [State.modLinks_clocks, State.sendCan_clocks]; exact hcycle
  · rw [State.modLinks_clocks, State.sendCan_clocks]; rfl
  · rw [State.modLinks_outbox, State.sendCan_head (by rwa [hstate])]; rfl

/-- HEARTBEAT without a period, or where the engine has none, does nothing. -/
theorem beats_silent {s : State} (h : s.mode = .off ∨ s.mode = .boot ∨ s.reg Reg.heartbeatTime = 0) : beats s = s := by
  rcases h with h | h | h <;> simp [beats, h, Mode.heartbeat]

/-! ### EMCYs -/

/-- EMCY_TRANSMIT without an EMCY, or off the bus, does nothing. -/
theorem sendsEmcy_silent {s : State} (h : s.links.emcys = [] ∨ s.mode = .off ∨ s.reg Reg.canState = 2) : sendsEmcy s = s := by
  unfold sendsEmcy
  cases hqueue : s.links.emcys with
  | nil => rfl
  | cons e rest =>
    have hdeaf : canListens s = false := by
      rcases h with h | h | h
      · rw [hqueue] at h; cases h
      · simp [canListens, h]
      · simp [canListens, h]
    simp [hdeaf]


/-- The wait for the gap after the last EMCY: only the clock and the counters of the groups go on. -/
theorem emcyWait_form (s : State) : ∃ u, (if s.links.lastEmcy = 0 then s else s.runTo (s.links.lastEmcy + emcyGap)) = u ∧
    u.links = s.links ∧ u.clocks.cycle = (if s.links.lastEmcy = 0 then s.clocks.cycle else max s.clocks.cycle (s.links.lastEmcy + 160000)) ∧
    ∀ r : Reg, r.key 0 < 0x340000 → u.reg r = s.reg r := by
  split
  · exact ⟨s, rfl, rfl, rfl, fun _ _ => rfl⟩
  · exact ⟨_, rfl, by rw [State.runTo_rest], State.runTo_cycle .., fun r hr => State.runTo_reg hr _⟩

/-- The state that has sent an EMCY, with the rest of the queue, and told the subscribed sessions. -/
def emcySent (u : State) (e : Emcy) (rest : List Emcy) : State :=
  ((u.sendCan (cobFrame (u.reg Reg.cobEmcy)) (emcyBytes e)).modLinks fun l =>
    { l with emcys := rest, lastEmcy := (u.sendCan (cobFrame (u.reg Reg.cobEmcy)) (emcyBytes e)).clocks.cycle }).notify 0 1 (emcyBytes e)

/-- What the sending of an EMCY does to registers, clock, links and what has left. -/
theorem emcySent_spec {u : State} {e : Emcy} {rest : List Emcy} (hbus : u.reg Reg.canState ≠ 2) :
    let v := emcySent u e rest
    v.regs = u.regs ∧ v.clocks = u.clocks ∧
      (∃ sessions, v.links = { u.links with emcys := rest, lastEmcy := u.clocks.cycle, sessions := sessions }) ∧
      .can (.fd true) u.links.rate (cobFrame (u.reg Reg.cobEmcy)) (emcyBytes e) ∈ v.outbox := by
  unfold emcySent
  rw [State.sendCan_head hbus]
  obtain ⟨sessions, out, hnotify⟩ := State.notify_form
    ((u.emit (.can (.fd true) u.links.rate (cobFrame (u.reg Reg.cobEmcy)) (emcyBytes e))).modLinks fun l =>
      { l with emcys := rest, lastEmcy := u.clocks.cycle }) 0 1 (emcyBytes e)
  dsimp only [State.emit] at hnotify ⊢
  rw [hnotify]
  exact ⟨rfl, rfl, ⟨sessions, rfl⟩, List.mem_append_right _ (List.mem_cons_self ..)⟩

/-- EMCY_TRANSMIT with an EMCY waiting and the controller on the bus (R300, R308). -/
theorem sendsEmcy_sends {s : State} {e : Emcy} {rest : List Emcy} (hqueue : s.links.emcys = e :: rest) (hoff : s.mode ≠ .off)
    (hbus : s.reg Reg.canState ≠ 2) :
    let t := sendsEmcy s
    let frame (id : Nat) (bs : List Byte) : Out := .can (.fd true) s.links.rate id bs
    t.links.emcys = rest ∧ t.links.lastEmcy = t.clocks.cycle ∧
      t.clocks.cycle = (if s.links.lastEmcy = 0 then s.clocks.cycle else max s.clocks.cycle (s.links.lastEmcy + 160000)) ∧
      frame (s.reg Reg.cobEmcy % 2048) (emcyBytes e) ∈ t.outbox ∧
      (s.links.beatOwed = true → rest = [] → s.mode = .faulted → s.reg Reg.heartbeatTime ≠ 0 → t.links.beatOwed = false ∧
        t.outbox.head? = some (frame (0x700 + s.links.node) [4#8])) := by
  obtain ⟨u, hwait, hlinks, hcycle, hreg⟩ := emcyWait_form s
  have hlisten : canListens s = true := by simp [canListens, hoff, hbus]
  have hstate := hreg Reg.canState (by decide)
  have htime := hreg Reg.heartbeatTime (by decide)
  have hmode : u.mode = s.mode := congrArg Mode.ofCode (hreg Reg.idState (by decide))
  obtain ⟨hregs, hclocks, ⟨sessions, hafter⟩, hframe⟩ := emcySent_spec (e := e) (rest := rest) (by rwa [hstate])
  have hsends : sendsEmcy s = if s.links.beatOwed = true ∧ rest.isEmpty = true then
      ((emcySent u e rest).modLinks fun l => { l with beatOwed := false }).sendHeartbeat else emcySent u e rest := by
    have howed : (emcySent u e rest).links.beatOwed = s.links.beatOwed := by rw [hafter, hlinks]
    rw [← howed, ← hwait]
    simp only [sendsEmcy, hqueue, hlisten]
    rfl
  rw [hsends]
  generalize emcySent u e rest = v at hregs hclocks hafter hframe ⊢
  rw [hlinks, hreg _ (by decide)] at hframe
  rw [hlinks] at hafter
  by_cases howes : s.links.beatOwed = true ∧ rest.isEmpty = true
  · rw [if_pos howes]
    obtain ⟨n, out, hform⟩ := (v.modLinks fun l => { l with beatOwed := false }).sendHeartbeat_form
    refine ⟨?_, ?_, ?_, ?_, fun _ _ hfaulted hperiod => ⟨?_, ?_⟩⟩
    · rw [hform]; simp [hafter]
    · rw [hform]; simp [hafter, hclocks]
    · rw [hform]; simpa [hclocks] using hcycle
    · rw [hform]; exact List.mem_append_right _ hframe
    · rw [hform]; rfl
    · have hbeat : (v.modLinks fun l => { l with beatOwed := false }).mode.heartbeat = some 4 := by
        rw [show (v.modLinks fun l => { l with beatOwed := false }).mode = .faulted from
          (State.mode_of_regs hregs).trans (hmode.trans hfaulted)]
        rfl
      have hperiod' : (v.modLinks fun l => { l with beatOwed := false }).reg Reg.heartbeatTime ≠ 0 := by
        rwa [State.modLinks_reg, State.reg_of_regs hregs, htime]
      have hbus' : (v.modLinks fun l => { l with beatOwed := false }).reg Reg.canState ≠ 2 := by
        rwa [State.modLinks_reg, State.reg_of_regs hregs, hstate]
      rw [State.sendHeartbeat_sends hbeat hperiod', State.modLinks_outbox, State.sendCan_head hbus']
      simp [State.emit, hafter, leBytes]
  · rw [if_neg howes]
    refine ⟨by simp [hafter], by simp [hafter, hclocks], by rw [hclocks]; exact hcycle, hframe, fun howed hrest => ?_⟩
    exact absurd ⟨howed, by simp [hrest]⟩ howes

/-! ### The states of the controller -/

/-- 0x1001 with bit 4 set has bit 0 set too (R383). -/
theorem errorRegisterOf_bits (faulted : Bool) (bits : Nat) :
    bit (errorRegisterOf faulted (bits ||| 2 ^ 4)) 4 = true ∧ bit (errorRegisterOf faulted (bits ||| 2 ^ 4)) 0 = true := by
  generalize hbits : bits ||| 2 ^ 4 = y
  have hset : y.testBit 4 = true := by rw [← hbits, Nat.testBit_or, show Nat.testBit (2 ^ 4) 4 = true by decide, Bool.or_true]
  have hfour : (y / 2 * 2 % 256).testBit 4 = true := by
    rw [show (256 : Nat) = 2 ^ 8 from rfl, Nat.testBit_mod_two_pow, Nat.testBit_succ, Nat.mul_div_cancel _ (by decide), ← Nat.testBit_succ]
    simpa using hset
  have hne : y / 2 * 2 % 256 ≠ 0 := fun h => by simp [h] at hfour
  have hvalue : errorRegisterOf faulted y = y / 2 * 2 % 256 + 1 := by simp [errorRegisterOf, hne]
  rw [hvalue]
  refine ⟨?_, by simp only [bit, Nat.testBit_zero, decide_eq_true_eq]; omega⟩
  rw [bit, Nat.testBit_succ, show (y / 2 * 2 % 256 + 1) / 2 = y / 2 * 2 % 256 / 2 by omega, ← Nat.testBit_succ]
  exact hfour

/-- An EMCY with a bit of 0x1001 sets it (R383). -/
theorem State.emcy_errorRegister {s : State} {e : Event} {b : Nat} (h : emcyBit e.code = some b) :
    (s.emcy e).reg Reg.errorRegister = errorRegisterOf (s.mode = .faulted) (s.reg Reg.errorRegister ||| 2 ^ b) := by
  have hpushed : ((((s.log e).setReg Reg.errorRegister 0
      (errorRegisterOf ((s.log e).mode = .faulted) ((s.log e).reg Reg.errorRegister ||| 2 ^ b))).pushErrorField e.code e.unit).reg
        Reg.errorRegister) = errorRegisterOf (s.mode = .faulted) (s.reg Reg.errorRegister ||| 2 ^ b) := by
    rw [State.pushErrorField_reg _ _ _ _ _ (by decide), State.reg_setReg_same, State.mode_of_regs (State.log_regs s e),
      State.reg_of_regs (State.log_regs s e)]
  unfold State.emcy
  rw [h]
  dsimp only
  generalize ((s.log e).setReg Reg.errorRegister 0 _).pushErrorField e.code e.unit = t at hpushed ⊢
  split
  · exact hpushed
  · rw [State.reg_count_other _ _ _ (by decide)]; exact hpushed

/-- An EMCY of the communication class sets bits 4 and 0 of 0x1001, and enters the queue where it has room (R300, R383). -/
theorem State.emcy_rings (s : State) {e : Event} (h : emcyBit e.code = some 4) :
    (s.links.emcys.length < 32 → ∃ x, (s.emcy e).links.emcys = s.links.emcys ++ [x] ∧ x.code = e.code ∧ x.unit = e.unit ∧
      x.beat = s.beat.n.toNat) ∧
    bit ((s.emcy e).reg Reg.errorRegister) 4 = true ∧ bit ((s.emcy e).reg Reg.errorRegister) 0 = true := by
  refine ⟨fun hroom => ?_, ?_⟩
  · obtain ⟨r, hr⟩ := s.emcy_queue e hroom
    exact ⟨_, hr, rfl, rfl, rfl⟩
  · rw [State.emcy_errorRegister h]
    exact errorRegisterOf_bits _ _

/-- Settles O51, by the branches of the heartbeat, of the queue's head and of the bus states. -/
theorem heartbeatsAndEmcysLeave : Obligations.HeartbeatsAndEmcysLeave := by
  unfold Obligations.HeartbeatsAndEmcysLeave
  intro s
  dsimp only
  refine ⟨fun b hb htime howed => ?_, fun h => congrArg (done s) (beats_silent h), fun e rest hqueue hoff hbus => ?_,
    fun h => congrArg (done s) (sendsEmcy_silent h), fun hoff => ⟨?_, fun hstate => ?_, fun hstate => ?_, fun hstate => ?_, fun hstate => ?_,
      fun p hstate => ?_⟩⟩
  · obtain ⟨hcycle, hnext, hframe⟩ := beats_sends hb htime howed
    obtain ⟨hrunning, hfaulted, hother⟩ := Mode.heartbeat_byte hb
    exact ⟨_, rfl, hcycle, hnext, hrunning, hfaulted, hother, hframe⟩
  · exact ⟨_, rfl, sendsEmcy_sends hqueue hoff hbus⟩
  · exact congrArg (done s) (if_neg hoff)
  · have hrecovers : exec .busOffRecovery s = done s (((s.setReg Reg.canState 0 0).count Reg.canBusoff 0).emcy { code := 0x8140 }) :=
      congrArg (done s) (if_neg (by simp [hoff, hstate]))
    have hrang := State.emcy_rings ((s.setReg Reg.canState 0 0).count Reg.canBusoff 0) (e := { code := 0x8140 }) rfl
    have hback : (((s.setReg Reg.canState 0 0).count Reg.canBusoff 0).emcy { code := 0x8140 }).reg Reg.canState = 0 := by
      rw [State.emcy_reg _ _ _ _ (by decide) (by decide) (by decide), State.reg_count_other _ _ _ (by decide), State.reg_setReg_same]
    have hcount : (((s.setReg Reg.canState 0 0).count Reg.canBusoff 0).emcy { code := 0x8140 }).reg Reg.canBusoff =
        (s.reg Reg.canBusoff + 1) % 2 ^ 32 := by
      rw [State.emcy_reg _ _ _ _ (by decide) (by decide) (by decide), State.reg_count_same, State.reg_setReg_other _ _ (by decide)]
    rw [State.count_links, State.count_beat] at hrang
    generalize ((s.setReg Reg.canState 0 0).count Reg.canBusoff 0).emcy { code := 0x8140 } = t at hrecovers hback hcount hrang
    exact ⟨_, hrecovers, hback, hcount, hrang⟩
  · exact congrArg (done s) (if_pos (.inr hstate))
  · have hpassive : errorPassive s true = (s.setReg Reg.canState 0 1).emcy { code := 0x8120 } := by simp [errorPassive, hoff, hstate]
    have hrang := State.emcy_rings (s.setReg Reg.canState 0 1) (e := { code := 0x8120 }) rfl
    have hback : ((s.setReg Reg.canState 0 1).emcy { code := 0x8120 }).reg Reg.canState = 1 := by
      rw [State.emcy_reg _ _ _ _ (by decide) (by decide) (by decide), State.reg_setReg_same]
    generalize (s.setReg Reg.canState 0 1).emcy { code := 0x8120 } = t at hpassive hback hrang
    exact ⟨_, congrArg (done s) hpassive, hback, hrang⟩
  · exact congrArg (done s) (show errorPassive s false = s.setReg Reg.canState 0 0 by simp [errorPassive, hoff, hstate])
  · exact congrArg (done s) (show errorPassive s p = s by simp [errorPassive, hstate])

end Sys2Proof.Machine
end

section
/-! SUPPORT. SYNC and PDOs (R294, R297 to R299, R301). -/

namespace Sys2Proof.Machine

/-! ### What a PDO's mapping and values are read from -/

theorem mapping_of_regs {s t : State} (h : s.regs = t.regs) (tx : Bool) (k : Nat) : mapping s tx k = mapping t tx k := by
  unfold mapping mapEntries
  simp only [State.reg_of_regs h]

/-- A read takes its value neither from the links nor from what has left. -/
theorem readOne_of_links (s : State) (l : Links) (o : List Out) (via : Via) (index sub : Nat) :
    readOne { s with links := l, outbox := o } via index sub = readOne s via index sub := rfl

/-- The frame of a transmit PDO that is formed now. -/
def pdoFrame (s : State) (k : Nat) : Out :=
  .can (.fd true) s.links.rate (s.reg Reg.tpdoCob k % 2048) ((mapping s true k).flatMap (mappedBytes s))

/-- A transmit PDO that is formed on the bus leaves first, and notes its time (R298). -/
theorem formPdo_forms {s : State} (hbus : s.reg Reg.canState ≠ 2) (k : Nat) :
    formPdo s k = (s.emit (pdoFrame s k)).modLinks fun l =>
      { l with tpdoLast := tabSet l.tpdoLast k s.clocks.cycle, tpdoChanged := l.tpdoChanged.filter (· != k) } := by
  unfold formPdo
  rw [State.sendCan_head hbus]
  rfl

/-! ### SYNC forms the transmit PDOs (R298, R301) -/

/-- What a SYNC owes a transmit PDO that is enabled and of type 1 to 240: the count, or at the nth the frame. -/
def SyncedPdo (s t : State) (j : Nat) : Prop :=
  tpdoOn s j = true → 1 ≤ s.reg Reg.tpdoType j → s.reg Reg.tpdoType j ≤ 240 →
    (tabGet 0 s.links.tpdoSyncs j + 1 < s.reg Reg.tpdoType j → tabGet 0 t.links.tpdoSyncs j = tabGet 0 s.links.tpdoSyncs j + 1) ∧
    (s.reg Reg.tpdoType j ≤ tabGet 0 s.links.tpdoSyncs j + 1 → tabGet 0 t.links.tpdoSyncs j = 0 ∧
      tabGet 0 t.links.tpdoLast j = s.clocks.cycle ∧ pdoFrame s j ∈ t.outbox)

/-- The step of a SYNC at one transmit PDO leaves the others. -/
theorem syncPdo_synced {s : State} (hbus : s.reg Reg.canState ≠ 2) (k : Nat) : ∃ l o,
    syncPdo s k = { s with links := l, outbox := o ++ s.outbox } ∧ l.rpdoWaiting = s.links.rpdoWaiting ∧ l.syncCount = s.links.syncCount ∧
      l.rate = s.links.rate ∧ (∀ j, k ≠ j → tabGet 0 l.tpdoSyncs j = tabGet 0 s.links.tpdoSyncs j ∧
        tabGet 0 l.tpdoLast j = tabGet 0 s.links.tpdoLast j) ∧ SyncedPdo s (syncPdo s k) k := by
  by_cases hskip : (!tpdoOn s k) = true ∨ s.reg Reg.tpdoType k = 0 ∨ 240 < s.reg Reg.tpdoType k
  · have hstays : syncPdo s k = s := by unfold syncPdo; dsimp only; rw [if_pos hskip]
    rw [hstays]
    refine ⟨s.links, [], rfl, rfl, rfl, rfl, fun _ _ => ⟨rfl, rfl⟩, fun hon hlow hhigh => ?_⟩
    rw [hon] at hskip
    rcases hskip with h | h | h
    · cases h
    · omega
    · omega
  · by_cases hdue : s.reg Reg.tpdoType k ≤ tabGet 0 s.links.tpdoSyncs k + 1
    · have hform : syncPdo s k = (s.emit (pdoFrame s k)).modLinks fun l => { l with
          tpdoSyncs := tabSet l.tpdoSyncs k 0, tpdoLast := tabSet l.tpdoLast k s.clocks.cycle, tpdoChanged := l.tpdoChanged.filter (· != k) } := by
        unfold syncPdo
        dsimp only
        rw [if_neg hskip, if_pos hdue, formPdo_forms (by exact hbus)]
        rfl
      rw [hform]
      refine ⟨_, [_], rfl, rfl, rfl, rfl, fun j hj => ⟨tabGet_tabSet_other _ _ _ hj, tabGet_tabSet_other _ _ _ hj⟩,
        fun _ _ _ => ⟨fun h => absurd hdue (by omega), fun _ => ⟨?_, ?_, ?_⟩⟩⟩
      · exact tabGet_tabSet_same ..
      · exact tabGet_tabSet_same ..
      · exact List.mem_cons_self ..
    · have hput : syncPdo s k = s.modLinks fun l => { l with tpdoSyncs := tabSet l.tpdoSyncs k (tabGet 0 s.links.tpdoSyncs k + 1) } := by
        unfold syncPdo
        dsimp only
        rw [if_neg hskip, if_neg hdue]
      rw [hput]
      exact ⟨_, [], rfl, rfl, rfl, rfl, fun j hj => ⟨tabGet_tabSet_other _ _ _ hj, rfl⟩,
        fun _ _ _ => ⟨fun _ => tabGet_tabSet_same .., fun h => absurd h hdue⟩⟩

/-- After the steps at the first `m` transmit PDOs, those have what SYNC owes them and the others stand as they were. -/
theorem syncPdos_synced {s : State} (hbus : s.reg Reg.canState ≠ 2) (m : Nat) : ∃ l o,
    (List.range m).foldl syncPdo s = { s with links := l, outbox := o } ∧ l.rpdoWaiting = s.links.rpdoWaiting ∧
      l.syncCount = s.links.syncCount ∧ l.rate = s.links.rate ∧ (∀ j, m ≤ j → tabGet 0 l.tpdoSyncs j = tabGet 0 s.links.tpdoSyncs j) ∧
      ∀ j, j < m → SyncedPdo s { s with links := l, outbox := o } j := by
  induction m with
  | zero => exact ⟨s.links, s.outbox, rfl, rfl, rfl, rfl, fun _ _ => rfl, fun j hj => absurd hj (by omega)⟩
  | succ m ih =>
    obtain ⟨l, o, hfold, hwaiting, hcount, hrate, hlater, hdone⟩ := ih
    obtain ⟨l', o', hstep, hwaiting', hcount', hrate', hothers, hsynced⟩ := syncPdo_synced (s := { s with links := l, outbox := o }) hbus m
    rw [List.range_succ, List.foldl_append, hfold]
    rw [hstep] at hsynced
    refine ⟨l', o' ++ o, hstep, hwaiting'.trans hwaiting, hcount'.trans hcount, hrate'.trans hrate,
      fun j hj => (hothers j (by omega)).1.trans (hlater j (by omega)), fun j hj => ?_⟩
    have hframe : pdoFrame { s with links := l, outbox := o } j = pdoFrame s j := by
      unfold pdoFrame
      rw [show ({ s with links := l, outbox := o } : State).links.rate = s.links.rate from hrate]
      rfl
    by_cases hlast : j = m
    · subst hlast
      intro hon hlow hhigh
      have hnow := hsynced hon hlow hhigh
      rw [hframe, show ({ s with links := l, outbox := o } : State).links = l from rfl, hlater j (Nat.le_refl j)] at hnow
      exact hnow
    · intro hon hlow hhigh
      obtain ⟨hcounts, hforms⟩ := hdone j (by omega) hon hlow hhigh
      obtain ⟨hsyncs, hlasts⟩ := hothers j (Ne.symm hlast)
      refine ⟨fun h => hsyncs.trans (hcounts h), fun h => ?_⟩
      obtain ⟨hzero, htime, hsent⟩ := hforms h
      exact ⟨hsyncs.trans hzero, hlasts.trans htime, List.mem_append_right _ hsent⟩

/-- SYNC does nothing with the transmit PDOs when none is enabled. -/
theorem syncPdos_off {s : State} (h : ∀ j < 16, tpdoOn s j = false) : (List.range 16).foldl syncPdo s = s := by
  have hstays (l : List Nat) (hl : ∀ j ∈ l, j < 16) : l.foldl syncPdo s = s := by
    induction l with
    | nil => rfl
    | cons j l ih =>
      have hj : syncPdo s j = s := by simp [syncPdo, h j (hl j (List.mem_cons_self ..))]
      rw [List.foldl_cons, hj]
      exact ih fun i hi => hl i (List.mem_cons_of_mem _ hi)
  exact hstays _ fun j hj => List.mem_range.mp hj

/-- SYNC in RUNNING on the bus: the transmit PDOs, then the receive PDOs that wait (R301). -/
theorem syncs_live {s : State} (hmode : s.mode = .running) (hbus : s.reg Reg.canState ≠ 2) :
    syncs s = ((List.range 16).foldl syncPdo s).links.rpdoWaiting.foldl applyPdo
      (((List.range 16).foldl syncPdo s).modLinks fun l => { l with rpdoWaiting := [], syncCount := l.syncCount + 1 }) := by
  simp [syncs, canListens, hmode, hbus]

/-! ### Receive PDOs (R294, R299) -/

theorem applyEntries_nil (s : State) (bs : List Byte) : applyEntries s [] bs = s := rfl

/-- The first write of a receive PDO, then the rest of its mapping. -/
theorem applyEntries_cons (s : State) (x : Nat) (es : List Nat) (bs : List Byte) {index sub bits : Nat}
    (hentry : mapEntry x = (index, sub, bits)) {r : Nat × State}
    (hwrite : objectWrite (standingInputs s) index sub (bs.take (bits / 8)) s = r) :
    applyEntries s (x :: es) bs = applyEntries ((if r.1 = 0 then r.2 else r.2.count Reg.canRpdoRefused 0).advance 8) es
      (bs.drop (bits / 8)) := by
  conv_lhs => unfold applyEntries
  dsimp only
  rw [hentry]
  dsimp only
  rw [hwrite]
  rfl

/-- A receive PDO whose mapping has one entry makes one write. -/
theorem applyEntries_one (s : State) (x : Nat) (bs : List Byte) :
    applyEntries s [x] bs =
      (let r := objectWrite (standingInputs s) (x / 2 ^ 16 % 2 ^ 16) (x / 2 ^ 8 % 2 ^ 8) (bs.take (x % 2 ^ 8 / 8)) s
       (if r.1 = 0 then r.2 else r.2.count Reg.canRpdoRefused 0).advance 8) := by
  have hentry : mapEntry x = (x / 2 ^ 16 % 2 ^ 16, x / 2 ^ 8 % 2 ^ 8, x % 2 ^ 8) := by
    simp [mapEntry, field, Nat.shiftRight_eq_div_pow]
  rw [applyEntries_cons s x [] bs hentry rfl, applyEntries_nil]

/-- An EMCY changes no link but the queue of EMCYs. -/
theorem State.emcy_links (s : State) (e : Event) : ∃ q, (s.emcy e).links = { s.links with emcys := q } := by
  obtain ⟨reg, t, ht, h⟩ := s.emcy_form e
  have hl : t.links = s.links := by rw [ht, State.pushErrorField_links, State.setReg_links, State.log_links]
  rw [h, ← hl]
  split
  · exact ⟨_, rfl⟩
  · exact ⟨t.links.emcys, rfl⟩

/-- A receive PDO that is heard, by its length and its type. -/
theorem pdoArrives_live {s : State} {k : Nat} (data : List Byte) (hmode : s.mode = .running) (hbus : s.reg Reg.canState ≠ 2)
    (hon : rpdoOn s k = true) :
    pdoArrives s k data =
      if data.length < mappedLength (mapping s false k) then s.emcy { code := 0x8210, detail := k }
      else if s.reg Reg.rpdoType k ≤ 240 then s.modLinks fun l => { l with rpdoWaiting := tabSet l.rpdoWaiting k data }
      else (applyPdo (s.accessed (.can 0)) (k, data)).accessed (.can 0) := by
  simp [pdoArrives, canListens, hmode, hbus, hon]

theorem pdoArrives_idle {s : State} (k : Nat) (data : List Byte) (hmode : s.mode ≠ .running) : pdoArrives s k data = s := by
  simp [pdoArrives, hmode]

/-- An access leaves a mapping of one entry. -/
theorem accessed_mapping {s : State} {k x : Nat} (via : Via) (h : mapping s false k = [x]) :
    mapping (s.accessed via) false k = [x] := by
  have hcount : s.reg Reg.rpdoMapCount k = 1 := by simpa [mapping, mapEntries] using congrArg List.length h
  have hsame : (s.accessed via).reg Reg.rpdoMapCount k = s.reg Reg.rpdoMapCount k :=
    State.accessed_reg s via (by decide) (by decide) (by decide) k
  have hentry : (s.accessed via).reg (Reg.rpdoMap.at 0) k = s.reg (Reg.rpdoMap.at 0) k :=
    State.accessed_reg s via (by decide) (by decide) (by decide) k
  rw [← h]
  simp [mapping, mapEntries, hsame, hcount, hentry]

/-- RECEIVE_PDO of a PDO that there is, in a CAN FD frame. -/
theorem exec_receivePdo {s : State} {k : Nat} {f : CanFrame} {data : List Byte} (hk : k < 8) (hf : f ≠ .classical) :
    exec (.receivePdo f k data) s = done s (pdoArrives s k data) :=
  (onUnit_present _ _ (by simpa using hk)).trans (congrArg (done s) (if_neg hf))

/-! ### The event timer (R298) -/

/-- TPDO_EVENT_TIMER of a PDO with a timer comes at its time and forms the PDO. -/
theorem eventTimer_forms {s : State} {j : Nat} (hmode : s.mode = .running) (hbus : s.reg Reg.canState ≠ 2) (hon : tpdoOn s j = true)
    (htype : 254 ≤ s.reg Reg.tpdoType j) (hevent : s.reg Reg.tpdoEvent j ≠ 0) (hj : j < 16) :
    let t := eventTimer s j
    t.clocks.cycle = max s.clocks.cycle (tabGet s.clocks.cycle s.links.tpdoLast j + s.reg Reg.tpdoEvent j * 1600000) ∧
      tabGet 0 t.links.tpdoLast j = t.clocks.cycle ∧
      ∃ bs, t.outbox = .can (.fd true) s.links.rate (s.reg Reg.tpdoCob j % 2048) bs :: s.outbox := by
  obtain ⟨c, hc⟩ : ∃ c, c = tabGet s.clocks.cycle s.links.tpdoLast j + s.reg Reg.tpdoEvent j * 1600000 := ⟨_, rfl⟩
  have hform : eventTimer s j = formPdo (s.runTo c) j := by
    simp [eventTimer, eventPdo, hmode, hon, htype, hevent, msCycles, hc]
  have hstate : (s.runTo c).reg Reg.canState = s.reg Reg.canState := State.runTo_reg (by decide) c
  have hcob : (s.runTo c).reg Reg.tpdoCob j = s.reg Reg.tpdoCob j := State.runTo_reg (by simp only [Reg.key, Reg.tpdoCob]; omega) _
  dsimp only
  rw [hform, formPdo_forms (fun h => hbus (hstate.symm.trans h)), pdoFrame, hcob, ← hc]
  obtain ⟨regs, clocks, hrun, hcycle⟩ := s.runTo_form c
  rw [hrun]
  exact ⟨hcycle, tabGet_tabSet_same .., _, rfl⟩

/-- Settles O52, by the kind of PDO: the fold over the transmit PDOs, then what waits or arrives. -/
theorem pdosActInRunning : Obligations.PdosActInRunning := by
  unfold Obligations.PdosActInRunning
  intro s f k data hk
  dsimp only
  refine ⟨fun ⟨hmode, hbus⟩ hwaiting => ?_, fun ⟨hmode, hbus⟩ hoff hwaiting => ?_, fun ⟨⟨hmode, hbus⟩, hf, hon⟩ hlong htype => ?_,
    fun x ⟨⟨hmode, hbus⟩, hf, hon⟩ hlong htype hone => ?_, fun ⟨⟨hmode, hbus⟩, hf, hon⟩ hshort hroom => ?_,
    fun j hj ⟨hmode, hbus⟩ hon htype hevent => ?_, fun hf => ?_, fun hmode => ⟨?_, ?_, fun j hj => ?_⟩⟩
  · obtain ⟨l, o, hfold, hnone, hcount, -, -, hdone⟩ := syncPdos_synced hbus 16
    have hsyncs := syncs_live hmode hbus
    rw [hfold, show ({ s with links := l, outbox := o } : State).links.rpdoWaiting = [] from hnone.trans hwaiting] at hsyncs
    refine ⟨_, congrArg (done s) hsyncs, congrArg (· + 1) hcount, fun j hj hon hlow hhigh => hdone j hj hon hlow hhigh⟩
  · have hsyncs := syncs_live hmode hbus
    rw [syncPdos_off hoff, hwaiting] at hsyncs
    exact congrArg (done s) hsyncs
  · refine ⟨_, (exec_receivePdo hk hf).trans (congrArg (done s) ((pdoArrives_live data hmode hbus hon).trans
      ((if_neg hlong).trans (if_pos htype)))), tabGet_tabSet_same .., rfl, rfl⟩
  · rw [exec_receivePdo hk hf, pdoArrives_live data hmode hbus hon, if_neg hlong, if_neg (by omega), applyPdo,
      accessed_mapping _ hone, applyEntries_one]
    rfl
  · obtain ⟨r, hr⟩ := s.emcy_queue { code := 0x8210, detail := k } hroom
    have hwaiting : (s.emcy { code := 0x8210, detail := k }).links.rpdoWaiting = s.links.rpdoWaiting := by
      obtain ⟨q, hlinks⟩ := s.emcy_links { code := 0x8210, detail := k }
      rw [hlinks]
    refine ⟨_, _, (exec_receivePdo hk hf).trans (congrArg (done s) ((pdoArrives_live data hmode hbus hon).trans (if_pos hshort))),
      hr, rfl, ?_, ?_⟩
    · exact State.emcy_mem ..
    · exact hwaiting
  · obtain ⟨hcycle, hlast, bs, hsent⟩ := eventTimer_forms hmode hbus hon htype hevent hj
    exact ⟨_, bs, onUnit_present _ _ (by simpa using hj), hcycle, hlast, hsent⟩
  · rw [hf]
    exact onUnit_present _ _ (by simpa using hk)
  · exact congrArg (done s) (show syncs s = s by simp [syncs, hmode])
  · by_cases hf : f = .classical
    · rw [hf]
      exact onUnit_present _ _ (by simpa using hk)
    · rw [exec_receivePdo hk hf, pdoArrives_idle k data hmode]; rfl
  · rw [show exec (.tpdoEventTimer j) s = done s (eventTimer s j) from onUnit_present _ _ (by simpa using hj)]
    exact congrArg (done s) (show eventTimer s j = s by simp [eventTimer, hmode])

end Sys2Proof.Machine
end

section
/-! SUPPORT. USDO transfers (R295, R296). -/

namespace Sys2Proof.Machine

/-! ### What an access and the end of a transfer leave -/

@[simp] theorem usdoAnswer_domains (s : State) (node code : Nat) (bs : List Byte) : (usdoAnswer s node code bs).domains = s.domains := rfl

theorem State.accessed_clock_le (s : State) (via : Via) : s.clocks.cycle ≤ (s.accessed via).clocks.cycle := by
  obtain ⟨regs, clocks, a, h, hle⟩ := s.accessed_form via
  rw [h]; exact hle

theorem State.accessed_links (s : State) (via : Via) : ∃ a, (s.accessed via).links = { s.links with applied := a } := by
  obtain ⟨regs, clocks, a, h, -⟩ := s.accessed_form via
  exact ⟨a, by rw [h]⟩

theorem namesDomain_accessed (s : State) (via : Via) (index sub : Nat) : namesDomain (s.accessed via) index sub = namesDomain s index sub := by
  obtain ⟨regs, clocks, a, h, -⟩ := s.accessed_form via
  rw [h]; rfl

theorem transferOf_accessed (s : State) (via : Via) (node : Nat) : transferOf (s.accessed via) node = transferOf s node := by
  obtain ⟨a, h⟩ := s.accessed_links via
  rw [transferOf, h]; rfl

/-- A client without a download has none to end. -/
theorem dropTransfer_none {s : State} {node : Nat} (h : transferOf s node = none) : dropTransfer s node = s := by
  have hothers : s.links.transfers.filter (fun x => x.node != node) = s.links.transfers :=
    List.filter_eq_self.mpr fun x hx => by simpa using List.find?_eq_none.mp h x hx
  rw [dropTransfer, h]
  dsimp only
  rw [State.modLinks, hothers]

/-- After a client's download has ended it has none. -/
theorem transferOf_dropTransfer (s : State) (node : Nat) : transferOf (dropTransfer s node) node = none := by
  rw [transferOf, (dropTransfer_keeps s node).2.2.2.2.2]
  exact List.find?_eq_none.mpr fun x hx => by simpa using (List.mem_filter.mp hx).2

/-- The end of a client's download cancels the session that it opened. -/
theorem sessionOf_dropTransfer {s : State} {node : Nat} {x : UsdoTransfer} (h : transferOf s node = some x) :
    sessionOf (dropTransfer s node) (.can node) x.session = none := by
  rw [dropTransfer, h]
  dsimp only [cancelWrite]
  cases hopen : sessionOf s (.can node) x.session with
  | none => exact hopen
  | some w => exact sessionOf_endWrite s (.can node) x.session

/-! ### A client on the bus -/

/-- The controller hears a client: the engine is not OFF, the controller not bus-off, and the frame a CAN FD frame (R291). -/
def UsdoLive (s : State) (f : CanFrame) : Prop := s.mode ≠ .off ∧ s.reg Reg.canState ≠ 2 ∧ f ≠ .classical

theorem onFd_deaf {s : State} {f : CanFrame} (h : ¬ UsdoLive s f) {g : State → State} (hg : canListens s = false → g s = s) : onFd f s g = s := by
  by_cases hf : f = .classical
  · exact if_pos hf
  · refine (if_neg hf).trans (hg ?_)
    rw [Bool.eq_false_iff]
    exact fun hlisten => h (by simpa [UsdoLive, canListens, hf] using hlisten)

section
variable {s : State} {f : CanFrame} {node index sub : Nat} (hlive : UsdoLive s f)
include hlive

theorem canListens_of_live : canListens s = true := by simp [canListens, hlive.1, hlive.2.1]

theorem exec_usdoUpload_first : exec (.usdoUpload f node index sub false) s = done s (uploadOpens (s.accessed (.can node)) node index sub) := by
  have hlisten := canListens_of_live hlive
  exact congrArg (done s) (by simp [onFd, hlive.2.2, uploads, hlisten])

theorem exec_usdoUpload_more : exec (.usdoUpload f node index sub true) s = done s (uploadGoesOn (s.accessed (.can node)) node index sub) := by
  have hlisten := canListens_of_live hlive
  exact congrArg (done s) (by simp [onFd, hlive.2.2, uploads, hlisten])

end

/-! ### Uploads -/

/-- A segment leaves, and the last one ends the upload. -/
theorem segmentLeaves_sends {s : State} {node index sub : Nat} {x : Snapshot}
    (h : snapshotOf s (.can node) (index * 256 + sub) = some x) :
    let t := segmentLeaves s node index sub x
    let off := 56 * x.parts.length
    t.outbox = .answer (.can node) (leBytes 4 0 ++ slice x.bytes off (min 56 (x.bytes.length - off))) :: s.outbox ∧
      snapshotOf t (.can node) (index * 256 + sub) =
        if x.bytes.length ≤ off + 56 then none else some { x with parts := off :: x.parts, touched := s.clocks.cycle } := by
  dsimp only
  rw [Nat.mul_comm]
  rw [segmentLeaves]
  by_cases hlast : x.bytes.length ≤ x.parts.length * usdoBytes + usdoBytes
  · rw [if_pos hlast, if_pos (show x.bytes.length ≤ x.parts.length * 56 + 56 from hlast)]
    exact ⟨congrArg (_ :: ·) (afterRead_keeps ..).2.2.1, snapshotOf_endRead ..⟩
  · rw [if_neg hlast, if_neg (show ¬ x.bytes.length ≤ x.parts.length * 56 + 56 from hlast)]
    exact ⟨rfl, snapshotOf_markPart _ h⟩

/-- An upload opens with the code of its item alone, or with the first segment. -/
theorem uploadOpens_fails {u : State} {node index sub c : Nat} {bs : List Byte} (h : readItem u (.can node) index sub = (c, bs)) (hc : c ≠ 0) :
    uploadOpens u node index sub = usdoAnswer u node c [] := by
  simp only [uploadOpens, h]
  exact if_pos hc

/-- The first segment of an upload: at most 56 bytes, and the rest is kept. -/
theorem uploadOpens_first {u : State} {node index sub : Nat} {bs : List Byte} (h : readItem u (.can node) index sub = (0, bs)) :
    (uploadOpens u node index sub).outbox = .answer (.can node) (leBytes 4 0 ++ bs.take 56) :: u.outbox ∧
      snapshotOf (uploadOpens u node index sub) (.can node) (index * 256 + sub) =
        if bs.length ≤ 56 then none else
          some { newSnapshot u (.can node) (index * 256 + sub) bs (namesDomain u index sub) with parts := [0] } := by
  obtain ⟨l, hform, -⟩ := takeSnapshot_form u (.can node) (index * 256 + sub) bs (namesDomain u index sub)
  have htaken := snapshotOf_takeSnapshot u (.can node) (index * 256 + sub) bs (namesDomain u index sub)
  have hleaves : uploadOpens u node index sub = segmentLeaves (takeSnapshot u (.can node) (index * 256 + sub) bs (namesDomain u index sub))
      node index sub (newSnapshot u (.can node) (index * 256 + sub) bs (namesDomain u index sub)) := by
    simp only [uploadOpens, h, htaken]
    exact if_neg (by decide)
  obtain ⟨hsent, hleft⟩ := segmentLeaves_sends htaken
  rw [← hleaves] at hsent hleft
  refine ⟨hsent.trans ?_, hleft.trans ?_⟩
  · rw [hform]
    simp only [newSnapshot, slice, List.length_nil, Nat.mul_zero, List.drop_zero, Nat.sub_zero, List.length_take]
    rw [Nat.min_eq_left (Nat.min_le_right 56 bs.length), Nat.sub_self, ← List.take_eq_take_min]
    simp [zeros]
  · rw [hform]
    simp [newSnapshot]

/-- What is kept of an upload: the read session of a DOMAIN that is open, or the snapshot of a whole index that is alive. -/
def keptUpload (u : State) (node index sub : Nat) : Option Snapshot :=
  if namesDomain u index sub = true then openRead u (.can node) (index * 256 + sub)
  else (snapshotOf u (.can node) (index * 256 + sub)).filter fun x => x.live u.clocks.cycle

theorem uploadGoesOn_sends {u : State} {node index sub : Nat} {x : Snapshot} (h : keptUpload u node index sub = some x) :
    uploadGoesOn u node index sub = segmentLeaves u node index sub x ∧ snapshotOf u (.can node) (index * 256 + sub) = some x := by
  unfold keptUpload at h
  unfold uploadGoesOn
  dsimp only
  split at h
  · rename_i hdomain
    rw [if_pos hdomain, h]
    exact ⟨rfl, (Option.filter_eq_some_iff.mp h).1⟩
  · rename_i hdomain
    rw [if_neg hdomain, h]
    exact ⟨rfl, (Option.filter_eq_some_iff.mp h).1⟩

theorem uploadGoesOn_ended {u : State} {node index sub : Nat} (h : keptUpload u node index sub = none) :
    (uploadGoesOn u node index sub).outbox =
      .answer (.can node) (leBytes 4 (if namesDomain u index sub = true then 0x0A000002 else 0x0A000001) ++ []) :: u.outbox := by
  unfold keptUpload at h
  unfold uploadGoesOn
  dsimp only
  split at h
  · rename_i hdomain
    rw [if_pos hdomain, if_pos hdomain, h]
    rfl
  · rename_i hdomain
    rw [if_neg hdomain, if_neg hdomain, h]
    rfl

/-! ### Downloads -/

theorem exec_usdoDownload {s : State} {f : CanFrame} {node index sub size : Nat} {data : List Byte} (hlive : UsdoLive s f) :
    exec (.usdoDownload f node index sub size data) s = done s (downloads s node index sub size data) :=
  congrArg (done s) (if_neg hlive.2.2)

/-- A download of a number answers the code of its write. -/
theorem downloads_number {s : State} {node index sub size : Nat} {data : List Byte} (hlisten : canListens s = true)
    (hnone : transferOf s node = none) (hnumber : namesDomain s index sub = false) :
    downloads s node index sub size data =
      (let u := s.accessed (.can node)
       let r := objectWrite (standingInputs u) index sub data u
       usdoAnswer r.2 node r.1 []) := by
  have hnone' : transferOf (s.accessed (.can node)) node = none := (transferOf_accessed ..).trans hnone
  have hnumber' : namesDomain (s.accessed (.can node)) index sub = false := (namesDomain_accessed ..).trans hnumber
  simp only [downloads, hlisten, hnone', Option.filter_none, dropTransfer_none hnone', hnumber']
  rfl

/-- The first frame of a download of a DOMAIN opens its session. -/
theorem downloads_domain {s : State} {node index sub size : Nat} {data : List Byte} (hlisten : canListens s = true)
    (hnone : transferOf s node = none) (hdomain : namesDomain s index sub = true) :
    downloads s node index sub size data = downloadOpens (s.accessed (.can node)) node index sub size data := by
  have hnone' : transferOf (s.accessed (.can node)) node = none := (transferOf_accessed ..).trans hnone
  have hdomain' : namesDomain (s.accessed (.can node)) index sub = true := (namesDomain_accessed ..).trans hdomain
  simp only [downloads, hlisten, hnone', Option.filter_none, dropTransfer_none hnone', hdomain']
  rfl

/-- A further frame of the object in progress is a segment. -/
theorem downloads_further {s : State} {node index sub size : Nat} {data : List Byte} {x : UsdoTransfer} (hlisten : canListens s = true)
    (hx : transferOf s node = some x) (hkey : x.key = index * 256 + sub) :
    downloads s node index sub size data = segmentArrives (s.accessed (.can node)) x data := by
  have hx' : transferOf (s.accessed (.can node)) node = some x := (transferOf_accessed ..).trans hx
  simp only [downloads, hlisten, hx', Option.filter_some, hkey]
  rfl

/-- A segment short of the end joins its transfer, and nothing is answered. -/
theorem segmentArrives_stores {u : State} {x : UsdoTransfer} {w : WriteSession} {data : List Byte} (hx : transferOf u x.node = some x)
    (hw : sessionOf u (.can x.node) x.session = some w) (hsize : w.size + 4 = x.size) (hshort : x.data.length + data.length < x.size) :
    let t := segmentArrives u x data
    transferOf t x.node = some { x with data := x.data ++ data } ∧ t.outbox = u.outbox ∧ t.domains = u.domains := by
  have hstep : ∃ writes, (if (data.take (x.size - 4 - x.data.length)).isEmpty then (scOk, u) else
      chunkWrite (.can x.node) x.session x.data.length (data.take (x.size - 4 - x.data.length)) u) =
        (scOk, u.modLinks fun l => { l with writes := writes }) := by
    by_cases hempty : (data.take (x.size - 4 - x.data.length)).isEmpty = true
    · exact ⟨u.links.writes, if_pos hempty⟩
    · rw [if_neg hempty]
      have hlen : 0 < (data.take (x.size - 4 - x.data.length)).length :=
        List.length_pos_iff.mpr fun h => hempty (List.isEmpty_iff.mpr h)
      rw [chunkWrite_joins hw (List.length_pos_iff.mp hlen) (by rw [List.length_take] at hlen ⊢; omega)]
      exact ⟨_, rfl⟩
  obtain ⟨writes, hstep⟩ := hstep
  have hfits : ¬ x.size < (x.data ++ data).length := by rw [List.length_append]; omega
  have hmore : (x.data ++ data).length ≠ x.size := by rw [List.length_append]; omega
  dsimp only [segmentArrives]
  rw [if_neg hfits, hstep, if_neg (by simp), if_neg hmore]
  refine ⟨?_, rfl, rfl⟩
  have hsame : ((fun y : UsdoTransfer => decide (y.node = x.node)) ∘ fun y : UsdoTransfer =>
      if y.node = x.node then { y with data := x.data ++ data } else y) = fun y => decide (y.node = x.node) := by
    funext y
    dsimp only [Function.comp_apply]
    split <;> rfl
  rw [transferOf, State.modLinks_links, List.find?_map, hsame]
  rw [transferOf] at hx
  rw [State.modLinks_links, hx]
  simp

/-- The segment that ends a transfer commits it. -/
theorem segmentArrives_finishes {s t : State} {x : UsdoTransfer} {data : List Byte} (hsome : data.take (x.size - 4 - x.data.length) ≠ [])
    (hchunk : chunkWrite (.can x.node) x.session x.data.length (data.take (x.size - 4 - x.data.length)) s = (scOk, t))
    (hwhole : (x.data ++ data).length = x.size) : segmentArrives s x data = finishDownload t x (x.data ++ data) := by
  unfold segmentArrives
  dsimp only
  rw [if_neg (by omega), if_neg (mt List.isEmpty_iff.mp hsome), hchunk, if_neg (not_not.mpr rfl), if_pos hwhole]

/-! ### A whole DOMAIN in one frame -/

/-- The session found by its number among others. -/
theorem sessionOf_last {s : State} {via : Via} {l : List WriteSession} {x : WriteSession} (hwrites : s.links.writes = l ++ [x])
    (hothers : ∀ y ∈ l, y.id ≠ x.id) (hvia : x.via = via) (halive : x.alive s = true) : sessionOf s via x.id = some x := by
  rw [sessionOf, hwrites, List.find?_append, List.find?_eq_none.mpr (fun y hy hp => hothers y hy (of_decide_eq_true hp).1)]
  simp [hvia, halive]

/-- The session of a DOMAIN that one frame brings whole, as its commit finds it. -/
def wholeSession (u : State) (node key crc : Nat) (body : List Byte) : WriteSession :=
  { id := u.links.nextSession, via := .can node, key := key, size := body.length, crc := some crc, chunks := [(0, body)],
    touched := u.clocks.cycle }

/-- The state at the commit of a DOMAIN that one frame brings whole. -/
def wholeDownload (u : State) (node key crc : Nat) (body : List Byte) : State :=
  u.modLinks fun l => { l with
    writes := (l.writes.filter fun y => y.key != key) ++ [wholeSession u node key crc body], nextSession := l.nextSession % 65535 + 1
    transfers := l.transfers ++ [{ node := node, key := key, size := body.length + 4, data := [], session := l.nextSession }] }

section
variable {u : State} {node index sub n : Nat} {r : ObjRow} (hfresh : ∀ y ∈ u.links.writes, y.id ≠ u.links.nextSession)
  (hidle : u.reg Reg.odDomainIdle ≠ 0)
include hfresh hidle

theorem sessionOf_wholeDownload (key crc : Nat) (body : List Byte) :
    sessionOf (wholeDownload u node key crc body) (.can node) u.links.nextSession = some (wholeSession u node key crc body) := by
  have hpos : 0 < u.reg Reg.odDomainIdle * msCycles := Nat.mul_pos (Nat.pos_of_ne_zero hidle) (by decide)
  have halive : (wholeSession u node key crc body).alive (wholeDownload u node key crc body) = true :=
    decide_eq_true (Nat.lt_add_of_pos_right hpos)
  exact sessionOf_last (x := wholeSession u node key crc body) rfl (fun y hy => hfresh y (List.mem_filter.mp hy).1) rfl halive

/-- The state in which the session of a download stands open. -/
def openDownload (u : State) (node key n : Nat) : State :=
  (opened u (.can node) key n none).modLinks fun l => { l with
    transfers := l.transfers ++ [{ node := node, key := key, size := n + 4, data := [], session := u.links.nextSession }] }

theorem sessionOf_openDownload (key n : Nat) :
    sessionOf (openDownload u node key n) (.can node) u.links.nextSession = some (newSession u (.can node) key n none) := by
  have hpos : 0 < u.reg Reg.odDomainIdle * msCycles := Nat.mul_pos (Nat.pos_of_ne_zero hidle) (by decide)
  have halive : (newSession u (.can node) key n none).alive (openDownload u node key n) = true :=
    decide_eq_true (Nat.lt_add_of_pos_right hpos)
  exact sessionOf_last (x := newSession u (.can node) key n none) rfl (fun y hy => hfresh y (List.mem_filter.mp hy).1) rfl halive

omit hidle in
/-- With its one chunk and its CRC the session is whole. -/
theorem openDownload_whole (key crc : Nat) {body : List Byte} (hbody : body.length = n) :
    (joined (openDownload u node key n) u.links.nextSession 0 body).modLinks (fun l => { l with
      writes := l.writes.map fun y => if y.id = u.links.nextSession then { y with crc := some crc } else y }) =
      wholeDownload u node key crc body := by
  have hothers : (u.links.writes.filter fun y => y.key != key).map ((fun y : WriteSession =>
      if y.id = u.links.nextSession then { y with crc := some crc } else y) ∘ fun y =>
        if y.id = u.links.nextSession then { y with chunks := y.chunks ++ [(0, body)], touched := u.clocks.cycle } else y) =
      u.links.writes.filter fun y => y.key != key := by
    refine (List.map_congr_left (g := id) fun y hy => ?_).trans (List.map_id _)
    have hid := hfresh y (List.mem_filter.mp hy).1
    simp [hid]
  subst hbody
  simp only [joined, openDownload, opened, wholeDownload, State.modLinks, List.map_append, List.map_map]
  rw [hothers]
  simp [newSession, wholeSession]

/-- A DOMAIN whole in one frame is opened, filled and committed with the CRC that ends the frame (R296). -/
theorem downloadOpens_whole {data : List Byte} (hfound : findObject u index sub = .object r) (hdomain : r.isDomain = true)
    (hcheck : openCheck u r (index * 256 + sub) n = 0) (hpos : 0 < n) (hsmall : n ≤ 4096) (hlen : data.length = n + 4) :
    downloadOpens u node index sub (n + 4) data =
      (let c := commitWrite (.can node) u.links.nextSession (wholeDownload u node (index * 256 + sub) (leAt data n 4) (data.take n))
       usdoAnswer (c.2.modLinks fun l => { l with transfers := l.transfers.filter fun y => y.node != node }) node c.1 []) := by
  have hopens := openWrite_opens (via := .can node) (crc := none) hfound hdomain (fun _ => hsmall) hcheck
  have hbody : (data.take n).length = n := by rw [List.length_take]; omega
  have hchunk := chunkWrite_joins (off := 0) (bs := data.take n)
    (sessionOf_openDownload (node := node) hfresh hidle (index * 256 + sub) n) (List.length_pos_iff.mp (by omega))
    (by rw [hbody]; exact Nat.le_of_eq (Nat.zero_add n))
  have hwhole := openDownload_whole (node := node) hfresh (index * 256 + sub) (leAt data n 4) hbody
  have hsize : (if n + 4 < 4 then 4097 else n + 4 - 4) = n := by rw [if_neg (by omega)]; omega
  have hsegment := segmentArrives_finishes (s := openDownload u node (index * 256 + sub) n) (data := data)
    (x := { node := node, key := index * 256 + sub, size := n + 4, data := [], session := u.links.nextSession })
    (List.length_pos_iff.mp (Nat.lt_of_lt_of_eq hpos hbody.symm)) hchunk hlen
  unfold downloadOpens
  rw [hsize, hopens]
  dsimp only
  rw [if_neg (not_not.mpr rfl)]
  refine hsegment.trans ?_
  unfold finishDownload
  dsimp only [List.nil_append]
  rw [Nat.add_sub_cancel, hwhole]

end

/-- One chunk over the whole length covers it, and is the content. -/
theorem wholeSession_content (u : State) (node key crc : Nat) {body : List Byte} (hsome : body ≠ []) :
    let w := wholeSession u node key crc body
    coveredFrom w.chunks w.chunks.length 0 = w.size ∧ assemble w = body := by
  have hpos := List.length_pos_iff.mpr hsome
  constructor
  · simp [wholeSession, coveredFrom, hpos]
  · simp [wholeSession, assemble, overlay, zeros]

/-! ### The end of a transfer (R296) -/

theorem aborts_ends {s : State} (node index sub : Nat) (hlisten : canListens s = true) :
    let t := aborts s node index sub
    t.domains = s.domains ∧ snapshotOf t (.can node) (index * 256 + sub) = none ∧
      ∀ x, transferOf s node = some x → x.key = index * 256 + sub → transferOf t node = none ∧ sessionOf t (.can node) x.session = none := by
  have haborts : aborts s node index sub = dropSnapshot (if ((transferOf s node).map UsdoTransfer.key) = some (index * 256 + sub)
      then dropTransfer s node else s) (.can node) (index * 256 + sub) := by simp [aborts, hlisten]
  rw [haborts]
  refine ⟨?_, snapshotOf_dropSnapshot .., fun x hx hkey => ?_⟩
  · split
    · exact (dropTransfer_keeps s node).2.2.1
    · rfl
  · rw [if_pos (by rw [hx, Option.map_some, hkey])]
    exact ⟨transferOf_dropTransfer s node, sessionOf_dropTransfer hx⟩

/-! ### ID_ETH_IPV6 -/

/-- The row of ID_ETH_IPV6. -/
def ipv6Row : ObjRow := ⟨Reg.ethIpv6, 2, 1, .domain 16 true, .rwHeld, .any⟩

theorem findObject_ipv6 (s : State) {p : Nat} (hp : p < 2) : findObject s (Reg.ethIpv6.base + p) Reg.ethIpv6.sub = .object ipv6Row := by
  interval_cases p <;> rfl

theorem findRow_ipv6 {p : Nat} (hp : p < 2) : findRow (Reg.ethIpv6.base + p) Reg.ethIpv6.sub = some ipv6Row := by
  interval_cases p <;> rfl

/-- In HELD without an activation the port's address may be opened where no session holds it. -/
theorem openCheck_ipv6 {s : State} {key : Nat} (hmode : s.mode = .held) (hact : s.act.phase = 0) (hheld : sessionHolds s key = false) :
    openCheck s ipv6Row key 16 = 0 := by
  have hstate : writeState s ipv6Row = scOk := if_pos ⟨hmode, hact⟩
  have hrefusal : openRefusal s ipv6Row.reg = scOk := if_neg fun h => absurd h.1 (by decide)
  unfold openCheck
  rw [if_neg (not_not.mpr hstate), if_neg (by decide), if_neg (not_not.mpr hrefusal), hheld]
  rfl

/-- A session that is idle too long stays so: an access leaves what no session holds. -/
theorem sessionHolds_accessed {s : State} {key : Nat} (via : Via) (h : sessionHolds s key = false) :
    sessionHolds (s.accessed via) key = false := by
  obtain ⟨a, hlinks⟩ := s.accessed_links via
  have hidle : idleCycles (s.accessed via) = idleCycles s :=
    congrArg (· * msCycles) (State.accessed_reg s via (by decide) (by decide) (by decide) 0)
  have hclock := s.accessed_clock_le via
  simp only [sessionHolds, List.any_eq_false, Bool.and_eq_true, WriteSession.alive, decide_eq_true_eq, not_and, not_lt] at h ⊢
  intro x hx hkey
  rw [hlinks] at hx
  have := h x hx hkey
  omega

/-- A commit of ID_ETH_IPV6 takes the content. -/
theorem takeContent_ipv6 (s : State) (p : Nat) (sub : Nat) (bs : List Byte) :
    takeContent s ipv6Row (Reg.ethIpv6.base + p) sub bs =
      (scOk, endReadsOf (s.setDomain Reg.ethIpv6 p bs) ((Reg.ethIpv6.base + p) * 256 + sub)) := by
  have hunit : ipv6Row.unit (Reg.ethIpv6.base + p) = p := Nat.add_sub_cancel_left ..
  have htaken : domainTaken s ipv6Row.reg p bs = (scOk, s.setDomain Reg.ethIpv6 p bs) := rfl
  simp only [takeContent, hunit, htaken]
  rfl

/-- A download of ID_ETH_IPV6 that is whole in one frame: its CRC decides, and no transfer is left (R296). -/
theorem downloads_ipv6 {s : State} {node p : Nat} {data : List Byte} (hlisten : canListens s = true) (hnone : transferOf s node = none)
    (hp : p < 2) (hmode : s.mode = .held) (hact : s.act.phase = 0) (hidle : s.reg Reg.odDomainIdle ≠ 0) (hlen : data.length = 20)
    (hheld : sessionHolds s ((Reg.ethIpv6.base + p) * 256 + Reg.ethIpv6.sub) = false)
    (hfresh : ∀ y ∈ s.links.writes, y.id ≠ s.links.nextSession) :
    let t := downloads s node (Reg.ethIpv6.base + p) Reg.ethIpv6.sub 20 data
    transferOf t node = none ∧
      (leAt data 16 4 = crc32c (data.take 16) →
        t.outbox = .answer (.can node) (leBytes 4 0 ++ []) :: s.outbox ∧ t.domain Reg.ethIpv6 p = data.take 16) ∧
      (leAt data 16 4 ≠ crc32c (data.take 16) →
        t.outbox = .answer (.can node) (leBytes 4 0x05040004 ++ []) :: s.outbox ∧ t.domains = s.domains) := by
  have hnames : namesDomain s (Reg.ethIpv6.base + p) Reg.ethIpv6.sub = true := by rw [namesDomain, findObject_ipv6 s hp]; rfl
  dsimp only
  rw [downloads_domain hlisten hnone hnames]
  have hmode' : (s.accessed (.can node)).mode = .held :=
    (congrArg Mode.ofCode (State.accessed_reg s _ (by decide) (by decide) (by decide) 0)).trans hmode
  have hidle' : (s.accessed (.can node)).reg Reg.odDomainIdle ≠ 0 := by
    rwa [State.accessed_reg s _ (by decide) (by decide) (by decide)]
  have hheld' := sessionHolds_accessed (.can node) hheld
  obtain ⟨regs, clocks, a, hu, -⟩ := s.accessed_form (.can node)
  have hact' : (s.accessed (.can node)).act.phase = 0 := by rw [hu]; exact hact
  have hfresh' : ∀ y ∈ (s.accessed (.can node)).links.writes, y.id ≠ (s.accessed (.can node)).links.nextSession := by rw [hu]; exact hfresh
  have hdomains : (s.accessed (.can node)).domains = s.domains := by rw [hu]
  have houtbox : (s.accessed (.can node)).outbox = s.outbox := by rw [hu]
  clear hu
  generalize s.accessed (.can node) = u at hmode' hidle' hheld' hact' hfresh' hdomains houtbox ⊢
  rw [downloadOpens_whole (n := 16) hfresh' hidle' (findObject_ipv6 u hp) rfl (openCheck_ipv6 hmode' hact' hheld') (by decide) (by decide) hlen,
    ← hdomains, ← houtbox]
  have hsome : data.take 16 ≠ [] := List.length_pos_iff.mp (by rw [List.length_take]; omega)
  have hfound := sessionOf_wholeDownload (node := node) hfresh' hidle' ((Reg.ethIpv6.base + p) * 256 + Reg.ethIpv6.sub) (leAt data 16 4)
    (data.take 16)
  obtain ⟨hwhole, hcontent⟩ := wholeSession_content u node ((Reg.ethIpv6.base + p) * 256 + Reg.ethIpv6.sub) (leAt data 16 4) hsome
  have hindex : ((Reg.ethIpv6.base + p) * 256 + Reg.ethIpv6.sub) / 256 = Reg.ethIpv6.base + p := by simp only [Reg.ethIpv6]; omega
  have hsub : ((Reg.ethIpv6.base + p) * 256 + Reg.ethIpv6.sub) % 256 = Reg.ethIpv6.sub := by simp only [Reg.ethIpv6]; omega
  have hrow : findRow ((wholeSession u node ((Reg.ethIpv6.base + p) * 256 + Reg.ethIpv6.sub) (leAt data 16 4) (data.take 16)).key / 256)
      ((wholeSession u node ((Reg.ethIpv6.base + p) * 256 + Reg.ethIpv6.sub) (leAt data 16 4) (data.take 16)).key % 256) = some ipv6Row := by
    simp only [wholeSession, hindex, hsub]
    exact findRow_ipv6 hp
  refine ⟨List.find?_eq_none.mpr fun x hx => by simpa using (List.mem_filter.mp hx).2, fun hcrc => ?_, fun hcrc => ?_⟩
  · have hstate := commitCheck_state (s := endWrite (wholeDownload u node ((Reg.ethIpv6.base + p) * 256 + Reg.ethIpv6.sub) (leAt data 16 4)
      (data.take 16)) u.links.nextSession) (r := ipv6Row) hwhole (by rw [hcontent]; exact congrArg some hcrc)
    rw [commitWrite_takes hfound hrow (hstate.trans (if_pos ⟨hmode', hact'⟩)), hcontent]
    have hkeys : (wholeSession u node ((Reg.ethIpv6.base + p) * 256 + Reg.ethIpv6.sub) (leAt data 16 4) (data.take 16)).key / 256 =
        Reg.ethIpv6.base + p := hindex
    rw [hkeys, takeContent_ipv6]
    have hkept : (endWrite (wholeDownload u node ((Reg.ethIpv6.base + p) * 256 + Reg.ethIpv6.sub) (leAt data 16 4) (data.take 16))
        u.links.nextSession).outbox = u.outbox := rfl
    generalize endWrite (wholeDownload u node ((Reg.ethIpv6.base + p) * 256 + Reg.ethIpv6.sub) (leAt data 16 4) (data.take 16))
      u.links.nextSession = v at hkept ⊢
    exact ⟨congrArg (_ :: ·) hkept, tabGet_tabSet_same [] v.domains (Reg.ethIpv6.key p) (data.take 16)⟩
  · have hbad := commitCheck_crc (s := endWrite (wholeDownload u node ((Reg.ethIpv6.base + p) * 256 + Reg.ethIpv6.sub) (leAt data 16 4)
      (data.take 16)) u.links.nextSession) (r := ipv6Row) hwhole (by rw [hcontent]; exact fun h => hcrc (Option.some.inj h))
    rw [commitWrite_refuses hfound hrow hbad (by decide)]
    refine ⟨rfl, ?_⟩
    rw [usdoAnswer_domains, State.modLinks_domains, State.count_domains]
    rfl

/-- Settles O49, by the kind of transfer. -/
theorem usdoServesTransfers : Obligations.UsdoServesTransfers := by
  unfold Obligations.UsdoServesTransfers
  intro s f node index sub size data
  dsimp only
  have houtbox : (s.accessed (.can node)).outbox = s.outbox := s.accessed_outbox _
  refine ⟨fun hlive => ?_, fun hlive => ⟨fun x hx => ?_, fun hx => ?_⟩, fun hlive hnone hnumber => ?_,
    fun p hp hlive hnone hmode hact hidle hindex hsub hsize hlen hheld hfresh => ?_,
    fun x w hlive hx hkey hw hsize hshort => ?_, fun hlive => ?_, fun hdead => ⟨?_, ?_, ?_, ?_⟩⟩
  · rw [← houtbox]
    refine ⟨_, exec_usdoUpload_first hlive, fun hcode => ?_, ?_⟩
    · rw [uploadOpens_fails (c := (readItem (s.accessed (.can node)) (.can node) index sub).1)
        (bs := (readItem (s.accessed (.can node)) (.can node) index sub).2) rfl hcode]
      rfl
    · refine ⟨fun hcode hfits => ?_, fun hcode hlong => ?_⟩
      · obtain ⟨hsent, hleft⟩ := uploadOpens_first (Prod.ext hcode rfl)
        refine ⟨?_, hleft.trans (if_pos hfits)⟩
        rw [List.take_of_length_le hfits] at hsent
        exact hsent
      · obtain ⟨hsent, hleft⟩ := uploadOpens_first (Prod.ext hcode rfl)
        exact ⟨hsent, _, hleft.trans (if_neg (Nat.not_le_of_lt hlong)), rfl, rfl⟩
  · obtain ⟨hgoes, hfound⟩ := uploadGoesOn_sends hx
    obtain ⟨hsent, hleft⟩ := segmentLeaves_sends hfound
    refine ⟨_, exec_usdoUpload_more hlive, ?_, ?_⟩
    · rw [hgoes, ← houtbox]; exact hsent
    · rw [hgoes]
      refine (iff_of_eq (congrArg (· = none) hleft)).trans ?_
      simp [Nat.add_comm]
  · exact ⟨_, exec_usdoUpload_more hlive, by rw [← houtbox]; exact uploadGoesOn_ended hx⟩
  · rw [exec_usdoDownload hlive, downloads_number (canListens_of_live hlive) hnone hnumber]; rfl
  · subst hindex hsub hsize
    exact ⟨_, exec_usdoDownload hlive, downloads_ipv6 (canListens_of_live hlive) hnone hp hmode hact hidle hlen hheld hfresh⟩
  · have hnode : x.node = node := of_decide_eq_true (List.find?_some (p := fun x : UsdoTransfer => decide (x.node = node)) hx)
    subst hnode
    have hx' : transferOf (s.accessed (.can x.node)) x.node = some x := (transferOf_accessed ..).trans hx
    obtain ⟨hstored, hsilent, hkept⟩ := segmentArrives_stores hx' hw hsize hshort
    refine ⟨_, _, (exec_usdoDownload hlive).trans (congrArg (done s) (downloads_further (canListens_of_live hlive) hx hkey)), hstored, rfl, ?_, ?_⟩
    · exact hsilent.trans houtbox
    · exact hkept.trans (s.accessed_domains _)
  · exact ⟨_, congrArg (done s) (if_neg hlive.2.2), aborts_ends node index sub (canListens_of_live hlive)⟩
  · exact congrArg (done s) (onFd_deaf hdead fun h => by simp [uploads, h])
  · exact congrArg (done s) (onFd_deaf hdead fun h => by simp [uploads, h])
  · exact congrArg (done s) (onFd_deaf hdead fun h => by simp [downloads, h])
  · exact congrArg (done s) (onFd_deaf hdead fun h => by simp [aborts, h])

end Sys2Proof.Machine
end

section
/-! SUPPORT. Lines of the maintenance UART (R272, R274, R275, R277 to R279, R312, R313). -/

namespace Sys2Proof.Machine

/-! ### A line of unflagged characters (R312) -/

/-- A character without a flag. -/
def plainChar (c : Nat) : RxChar := { code := c, framing := false, parity := false, brk := false }

/-- The state in which characters wait for the end of their line. -/
def lineWaits (s : State) (l : List RxChar) : State := s.modLinks fun x => { x with uartLine := l }

/-- A plain character other than CR and LF joins the line. -/
theorem takeChar_joins (k : LineKind) (early : Bool) (s : State) (l : List RxChar) {c : Nat} (hlf : c ≠ 10) (hcr : c ≠ 13) :
    takeChar k early (lineWaits s l) (plainChar c) = lineWaits s (l ++ [plainChar c]) := by
  have hjoin : flagged (plainChar c) = true ∨ ((plainChar c).code ≠ 13 ∧ (plainChar c).code ≠ 10) := .inr ⟨hcr, hlf⟩
  unfold takeChar
  dsimp only
  rw [if_pos hjoin]
  rfl

theorem takeChars_join (k : LineKind) (early : Bool) (s : State) (cs : List Nat) (hcs : ∀ c ∈ cs, c ≠ 10 ∧ c ≠ 13) (l : List RxChar) :
    (cs.map plainChar).foldl (takeChar k early) (lineWaits s l) = lineWaits s (l ++ cs.map plainChar) := by
  induction cs generalizing l with
  | nil => rw [List.map_nil, List.append_nil]; rfl
  | cons c cs ih =>
    obtain ⟨hlf, hcr⟩ := hcs c (List.mem_cons_self ..)
    rw [List.map_cons, List.foldl_cons, takeChar_joins k early s l hlf hcr, ih (fun d hd => hcs d (List.mem_cons_of_mem _ hd)),
      List.append_assoc]
    rfl

/-- CR ends the line. -/
theorem takeChar_ends (k : LineKind) (early : Bool) (s : State) (l : List RxChar) :
    takeChar k early (lineWaits s l) (plainChar 13) = endLine k early (lineWaits s []) l := rfl

theorem endLine_what {k : LineKind} {early : Bool} {s : State} {cs : List Nat}
    (h : early = true ∨ 64 < cs.length ∨ parseLine cs = none) : endLine k early s (cs.map plainChar) = sayWhat s := by
  have hcodes : (cs.map plainChar).map RxChar.code = cs := by simp [plainChar, Function.comp_def]
  unfold endLine
  rw [List.length_map, hcodes]
  rcases h with h | h | h
  · exact if_pos (.inl h)
  · exact if_pos (.inr (.inl h))
  · split
    · rfl
    · rw [h]

theorem endLine_runs {k : LineKind} {s : State} {cs : List Nat} {x : UartCmd} (hlen : cs.length ≤ 64) (hparse : parseLine cs = some x)
    (hkind : x.kind = k) : endLine k false s (cs.map plainChar) = runLine (s.accessed .uart) x := by
  have hcodes : (cs.map plainChar).map RxChar.code = cs := by simp [plainChar, Function.comp_def]
  have hplain : (cs.map plainChar).any flagged = false := by simp [plainChar, flagged]
  unfold endLine
  rw [List.length_map, hcodes, hplain, if_neg (by simp; omega), hparse]
  exact if_pos hkind

/-- A whole line on an idle receiver, outside OFF. -/
theorem lineArrives_whole {s : State} (k : LineKind) (early : Bool) {cs : List Nat} (hoff : s.mode ≠ .off) (hidle : s.links.uartLine = [])
    (hcs : ∀ c ∈ cs, c ≠ 10 ∧ c ≠ 13) :
    lineArrives k (.chars early ((cs ++ [13]).map plainChar)) s = endLine k early (takeRate s) (cs.map plainChar) := by
  have hwaits : takeRate s = lineWaits (takeRate s) [] := by
    rw [lineWaits, ← show (takeRate s).links.uartLine = [] from hidle]
    rfl
  unfold lineArrives
  rw [if_neg hoff]
  dsimp only [lineChars, lineEarly]
  rw [hwaits, List.map_append, List.foldl_append, takeChars_join k early _ cs hcs, List.map_singleton, List.foldl_cons, List.foldl_nil,
    takeChar_ends]
  rfl

/-! ### Reads (R272, R274) -/

/-- A value of at most 4 bytes is answered at once. -/
theorem uartRead_small {u : State} {index sub p : Nat} {bs : List Byte} (hnumber : namesDomain u index sub = false)
    (hread : readOne u .uart index sub = (0, bs)) (hp : p < partCount bs.length) (hsmall : bs.length ≤ 4) (hflags : index ≠ 0x2200)
    (hring : completionsAt index sub = none) : uartRead u index sub p = sayValue u (leAt bs 0 4) := by
  have hafter : afterRead u index sub bs = u := by
    unfold afterRead
    rw [if_neg (fun h => hflags h.1), hring]
  unfold uartRead
  rw [hnumber, hread]
  dsimp only
  rw [if_neg (by decide), if_neg (by decide), if_neg (by omega), if_pos hsmall, hafter]
  rfl

/-- A part of a wider value comes from its snapshot. -/
theorem uartRead_wide {u : State} {index sub p : Nat} {bs : List Byte} (hnumber : namesDomain u index sub = false)
    (hread : readOne u .uart index sub = (0, bs)) (hp : p < partCount bs.length) (hwide : 4 < bs.length) :
    uartRead u index sub p = readWide u index sub p bs := by
  unfold uartRead
  rw [hnumber, hread]
  dsimp only
  rw [if_neg (by decide), if_neg (by decide), if_neg (by omega), if_neg (by omega)]

theorem uartRead_refused {u : State} {index sub c : Nat} (p : Nat) {bs : List Byte} (hnumber : namesDomain u index sub = false)
    (hread : readOne u .uart index sub = (c, bs)) (hc : c ≠ 0) : uartRead u index sub p = sayCode u c := by
  unfold uartRead
  rw [hnumber, hread]
  exact if_pos hc

/-- A part leaves with the response; the snapshot ends with its last part. -/
theorem deliverPart_delivers {u : State} {key p : Nat} {x : Snapshot} (h : snapshotOf u .uart key = some x) :
    (deliverPart u key p x).outbox = (sayValue u (leAt x.bytes (4 * p) 4)).outbox ∧
      snapshotOf (deliverPart u key p x) .uart key =
        if (List.range (partCount x.bytes.length)).all (fun k => k = p || x.parts.contains k) = true then none
        else some { x with parts := p :: x.parts, touched := u.clocks.cycle } := by
  unfold deliverPart
  dsimp only
  split
  · exact ⟨rfl, snapshotOf_dropSnapshot u .uart key⟩
  · exact ⟨rfl, snapshotOf_markPart p h⟩

/-- The first part of a value takes its snapshot (R274). -/
theorem freshPart_starts {u : State} {key p : Nat} {bs : List Byte} (hwide : 4 < bs.length) :
    (freshPart u key p bs).outbox = (sayValue u (leAt bs (4 * p) 4)).outbox ∧
      snapshotOf (freshPart u key p bs) .uart key = some { newSnapshot u .uart key bs false with parts := [p] } := by
  obtain ⟨l, hform, -⟩ := takeSnapshot_form u .uart key bs false
  have htaken := snapshotOf_takeSnapshot u .uart key bs false
  have hfresh : freshPart u key p bs = deliverPart (takeSnapshot u .uart key bs false) key p (newSnapshot u .uart key bs false) := by
    simp only [freshPart, htaken]
  obtain ⟨hsent, hleft⟩ := deliverPart_delivers (p := p) htaken
  have hmore : ¬ (List.range (partCount (newSnapshot u .uart key bs false).bytes.length)).all
      (fun k => k = p || (newSnapshot u .uart key bs false).parts.contains k) = true := by
    intro hall
    have hcount : 2 ≤ partCount bs.length := by unfold partCount; omega
    have only (k : Nat) (hk : k < 2) : k = p := by
      simpa [newSnapshot] using List.all_eq_true.mp hall k (List.mem_range.mpr (Nat.lt_of_lt_of_le hk hcount))
    have := only 0 (by decide)
    have := only 1 (by decide)
    omega
  rw [if_neg hmore] at hleft
  rw [hfresh]
  refine ⟨hsent.trans ?_, hleft.trans ?_⟩
  · rw [hform]; rfl
  · rw [hform]; rfl

theorem readWide_fresh {u : State} {index sub : Nat} (p : Nat) (bs : List Byte) (hnone : snapshotOf u .uart (index * 256 + sub) = none) :
    readWide u index sub p bs = freshPart u (index * 256 + sub) p bs := by
  simp only [readWide, hnone]

section
variable {u : State} {index sub p : Nat} {x : Snapshot} (bs : List Byte) (hx : snapshotOf u .uart (index * 256 + sub) = some x)
  (hfresh : x.parts.contains p = false)
include hx hfresh

theorem readWide_live (hlive : x.live u.clocks.cycle = true) : readWide u index sub p bs = deliverPart u (index * 256 + sub) p x := by
  simp only [readWide, hx, hfresh, hlive]
  rfl

theorem readWide_expired (hdead : x.live u.clocks.cycle = false) :
    readWide u index sub p bs = sayCode ((dropSnapshot u .uart (index * 256 + sub)).count Reg.odSnapshotExpired 0) scExpired := by
  simp only [readWide, hx, hfresh, hdead]
  rfl

end

/-! ### Pending writes (R275) -/

/-- What has come of a pending write is found again. -/
theorem pendingOf_keepPending (s : State) (x : PendingWrite) (hvia : x.via = .uart) (hnone : pendingOf s x.key = none) :
    pendingOf (keepPending s x) x.key = some x := by
  have hapart : s.links.pendingWrites.any (fun y => y.via == x.via && y.key == x.key) = false := by
    rw [List.any_eq_false]
    intro y hy hsame
    refine List.find?_eq_none.mp hnone y hy ?_
    simpa [hvia] using hsame
  have hkept : keepPending s x = s.modLinks fun l => { l with pendingWrites := l.pendingWrites ++ [x] } := by
    unfold keepPending
    dsimp only
    rw [State.modLinks, State.modLinks, hapart]
    rfl
  rw [pendingOf] at hnone
  rw [hkept, pendingOf, State.modLinks_links, List.find?_append, hnone]
  simp [hvia]

theorem pendingOf_dropPending (s : State) (key : Nat) : pendingOf (dropPending s key) key = none := by
  refine List.find?_eq_none.mpr fun y hy hp => ?_
  have hleft := (List.mem_filter.mp hy).2
  obtain ⟨hvia, hkey⟩ := of_decide_eq_true hp
  simp [hvia, hkey] at hleft

/-- The end of the oldest pending write takes none of an object that has none. -/
theorem endOldestPending_form (s : State) (key : Nat) : ∃ l, endOldestPending s = { s with links := { s.links with pendingWrites := l } } ∧
    (pendingOf s key = none → l.find? (fun x => x.via = .uart ∧ x.key = key) = none) := by
  unfold endOldestPending
  dsimp only
  split
  · rename_i y _ _ _ _ _
    refine ⟨_, rfl, fun hnone => ?_⟩
    rw [List.find?_map, Option.map_eq_none_iff]
    refine Eq.trans (congrArg (fun q => List.find? q _) ?_) hnone
    funext x
    dsimp only [Function.comp_apply]
    split <;> rfl
  · exact ⟨s.links.pendingWrites, rfl, fun hnone => hnone⟩

theorem uartWrite_number {u : State} {index sub : Nat} (p v : Nat) {r : ObjRow} (hfound : findObject u index sub = .object r)
    (hnumber : r.isDomain = false) : uartWrite u index sub p v = uartWriteNumber u index sub p v r := by
  simp only [uartWrite, hfound, hnumber]
  rfl

theorem uartWriteNumber_small {u : State} {index sub v : Nat} {r : ObjRow} (hsmall : r.type.bytes ≤ 4)
    (hfits : leNat ((leBytes 4 v).drop r.type.bytes) = 0) :
    uartWriteNumber u index sub 0 v r =
      (let w := objectWrite (standingInputs u) index sub (leBytes r.type.bytes v) u
       sayCode w.2 w.1) := by
  have hcount : ¬ partCount r.type.bytes ≤ 0 := by unfold partCount; omega
  unfold uartWriteNumber
  dsimp only
  rw [if_neg hcount, if_neg (by omega), if_neg (by simpa using hfits)]

theorem uartWriteNumber_wide {u : State} {index sub p : Nat} (v : Nat) {r : ObjRow} (hwide : r.type.bytes = 8) (hp : p < 2) :
    uartWriteNumber u index sub p v r = writeWide u index sub p v 2 := by
  unfold uartWriteNumber
  dsimp only
  rw [hwide, if_neg (show ¬ partCount 8 ≤ p by rw [show partCount 8 = 2 from rfl]; omega), if_pos (by decide)]
  rfl

/-- The first part of a wide value is kept. -/
theorem writeWide_starts {u : State} {index sub p v : Nat} (hnone : pendingOf u (index * 256 + sub) = none) :
    let t := writeWide u index sub p v 2
    pendingOf t (index * 256 + sub) =
        some { via := .uart, key := index * 256 + sub, parts := [(p, v)], opened := u.clocks.cycle, dead := false } ∧
      t.outbox = (sayOk u).outbox ∧ t.regs = u.regs := by
  obtain ⟨l, hform, hleft⟩ := endOldestPending_form u (index * 256 + sub)
  let x : PendingWrite := { via := .uart, key := index * 256 + sub, parts := [(p, v)], opened := u.clocks.cycle, dead := false }
  have htakes : writeWide u index sub p v 2 = sayOk (keepPending (endOldestPending u) x) := by
    simp only [writeWide, hnone, takePart]
    exact if_neg (by simp [tabSet])
  rw [htakes, hform]
  exact ⟨pendingOf_keepPending _ x rfl (hleft hnone), rfl, rfl⟩

/-- The last part of a wide value writes it. -/
theorem writeWide_ends {u : State} {index sub p v a : Nat} {x : PendingWrite} (hp : p < 2) (hx : pendingOf u (index * 256 + sub) = some x)
    (hparts : x.parts = [(1 - p, a)]) (hlive : x.live u.clocks.cycle = true) :
    writeWide u index sub p v 2 =
      (let w := objectWrite (standingInputs u) index sub (if p = 0 then leBytes 4 v ++ leBytes 4 a else leBytes 4 a ++ leBytes 4 v)
         (dropPending u (index * 256 + sub))
       sayCode w.2 w.1) := by
  have hgot : (tabSet x.parts p v).length = 2 ∧ (List.range 2).flatMap (fun k => leBytes 4 (tabGet 0 (tabSet x.parts p v) k)) =
      if p = 0 then leBytes 4 v ++ leBytes 4 a else leBytes 4 a ++ leBytes 4 v := by
    rw [hparts]
    interval_cases p
    · exact ⟨rfl, rfl⟩
    · exact ⟨rfl, rfl⟩
  simp only [writeWide, hx, hlive, takePart]
  rw [if_pos trivial, if_pos hgot.1, hgot.2]

/-- A part of a write that was discarded. -/
theorem writeWide_discarded {u : State} {index sub p v : Nat} {x : PendingWrite} (hx : pendingOf u (index * 256 + sub) = some x)
    (hdead : x.live u.clocks.cycle = false) :
    writeWide u index sub p v 2 = sayCode (dropPending u (index * 256 + sub)) scExpired := by
  simp only [writeWide, hx, hdead]
  rfl

/-! ### DOMAIN sessions (R277 to R279) -/

theorem uartCommit_none {u : State} {index sub : Nat} (h : uartSession u (index * 256 + sub) = none) :
    uartCommit u index sub = sayCode u scSession := by
  simp only [uartCommit, h]

theorem uartCommit_open {u : State} {index sub : Nat} {x : WriteSession} (h : uartSession u (index * 256 + sub) = some x) :
    uartCommit u index sub = sayCode (commitWrite .uart x.id u).2 (commitWrite .uart x.id u).1 := by
  simp only [uartCommit, h]

/-- The open session of an object ends when it is cancelled. -/
theorem cancelWrite_uart {u : State} {key : Nat} {x : WriteSession} (h : uartSession u key = some x) :
    (cancelWrite .uart x.id u).2 = endWrite u x.id := by
  obtain ⟨hkey, hvia, halive⟩ :=
    of_decide_eq_true (List.find?_some (p := fun x : WriteSession => x.key = key ∧ x.via = .uart ∧ x.alive u) h)
  have hopen : (sessionOf u .uart x.id).isSome = true :=
    List.find?_isSome.mpr ⟨x, List.mem_of_find?_eq_some h, decide_eq_true ⟨rfl, hvia, halive⟩⟩
  obtain ⟨w, hw⟩ := Option.isSome_iff_exists.mp hopen
  rw [cancelWrite_ends hw]

/-- An X line ends the read session and the write session of its object. -/
theorem uartCancel_ends (u : State) (index sub : Nat) :
    let t := uartCancel u index sub
    t.outbox = (sayOk u).outbox ∧ t.domains = u.domains ∧ snapshotOf t .uart (index * 256 + sub) = none ∧
      ∀ x, uartSession u (index * 256 + sub) = some x → ∀ y ∈ t.links.writes, y.id ≠ x.id := by
  have hdropped := snapshotOf_dropSnapshot u .uart (index * 256 + sub)
  cases hopen : uartSession u (index * 256 + sub) with
  | none =>
    have hcancel : uartCancel u index sub = sayOk (dropSnapshot u .uart (index * 256 + sub)) := by
      have : uartSession (dropSnapshot u .uart (index * 256 + sub)) (index * 256 + sub) = none := hopen
      simp only [uartCancel, this]
    rw [hcancel]
    exact ⟨rfl, rfl, hdropped, nofun⟩
  | some x =>
    have hopen' : uartSession (dropSnapshot u .uart (index * 256 + sub)) (index * 256 + sub) = some x := hopen
    have hcancel : uartCancel u index sub = sayOk (endWrite (dropSnapshot u .uart (index * 256 + sub)) x.id) := by
      simp only [uartCancel, hopen', cancelWrite_uart hopen']
    rw [hcancel]
    refine ⟨rfl, rfl, hdropped, fun y hy z hz => ?_⟩
    rw [← Option.some.inj hy]
    exact endWrite_left hz

/-! ### The lines of Table 13.8 -/

/-- What a state that lines have not touched queues. -/
theorem done_accessed {s t : State} {u : State} (hu : u.pending = s.pending) (h : t.pending = u.pending) : done s t = .next t := by
  rw [done, ← hu, ← h]

/-- Settles O53, by the kind of line. -/
theorem uartLinesAnswer : Obligations.UartLinesAnswer := by
  unfold Obligations.UartLinesAnswer
  intro s cs early index sub p v hoff hidle hcs
  dsimp only
  have arrives (k : LineKind) : lineArrives k (.chars early ((cs ++ [13]).map plainChar)) s = endLine k early (takeRate s) (cs.map plainChar) :=
    lineArrives_whole k early hoff hidle hcs
  have runs {x : UartCmd} (hok : early = false ∧ cs.length ≤ 64 ∧ parseLine cs = some x) :
      done s (lineArrives x.kind (.chars early ((cs ++ [13]).map plainChar)) s) = done s (runLine ((takeRate s).accessed .uart) x) := by
    obtain ⟨hearly, hlen, hparse⟩ := hok
    rw [arrives x.kind, hearly, endLine_runs hlen hparse rfl]
  have hrate : ((takeRate s).accessed .uart).links.uartDivisor = uartDivisor (s.reg Reg.uartBaud) := by
    obtain ⟨a, hlinks⟩ := (takeRate s).accessed_links .uart
    rw [hlinks]
    rfl
  have hpending : ((takeRate s).accessed .uart).pending = s.pending := (takeRate s).accessed_pending _
  have hdomains : ((takeRate s).accessed .uart).domains = s.domains := (takeRate s).accessed_domains _
  generalize (takeRate s).accessed .uart = u at runs hrate hpending hdomains ⊢
  refine ⟨hrate, fun h => ⟨?_, ?_⟩, fun bs hok hnumber hread hp => ⟨fun hsmall hflags hring => ?_, fun hwide hnone => ?_,
    fun x hwide hx hfresh => ⟨fun hlive => ?_, fun hdead => ?_⟩⟩, fun c bs hok hnumber hc hread => ?_, fun r hok hfound hnumber =>
      ⟨fun hsmall hzero hfits => ?_, fun hwide hp hnone => ?_, fun x a hwide hp hx hparts => ⟨fun hlive => ?_, fun hdead => ?_⟩⟩,
    fun n crc hok => runs hok, fun hok => ⟨fun hnone => ?_, fun x hx => ?_⟩, fun hok => ?_⟩
  · exact congrArg (done s) ((arrives .read).trans (endLine_what h))
  · exact congrArg (done s) ((arrives .write).trans (endLine_what h))
  · refine (runs hok).trans ((congrArg (done s) (uartRead_small hnumber hread hp hsmall hflags hring)).trans ?_)
    exact done_accessed hpending rfl
  · obtain ⟨hsent, hkept⟩ := freshPart_starts (u := u) (key := index * 256 + sub) (p := p) hwide
    exact ⟨_, _, (runs hok).trans (congrArg (done s) ((uartRead_wide hnumber hread hp hwide).trans (readWide_fresh p bs hnone))),
      hkept, rfl, rfl, rfl, hsent⟩
  · obtain ⟨hsent, hleft⟩ := deliverPart_delivers (p := p) hx
    refine ⟨_, (runs hok).trans (congrArg (done s) ((uartRead_wide hnumber hread hp hwide).trans (readWide_live bs hx hfresh hlive))),
      hsent, fun hlast => hleft.trans (if_pos ?_)⟩
    simpa using hlast
  · exact ⟨_, (runs hok).trans (congrArg (done s) ((uartRead_wide hnumber hread hp hwide).trans (readWide_expired bs hx hfresh hdead))),
      rfl, snapshotOf_dropSnapshot u .uart _, State.reg_count_same ..⟩
  · exact (runs hok).trans (congrArg (done s) (uartRead_refused p hnumber hread hc))
  · subst hzero
    exact (runs hok).trans (congrArg (done s) ((uartWrite_number 0 v hfound hnumber).trans (uartWriteNumber_small hsmall hfits)))
  · obtain ⟨hkept, hsent, hregs⟩ := writeWide_starts (p := p) (v := v) hnone
    exact ⟨_, _, (runs hok).trans (congrArg (done s) ((uartWrite_number p v hfound hnumber).trans (uartWriteNumber_wide v hwide hp))),
      hkept, rfl, hsent, hregs⟩
  · exact (runs hok).trans (congrArg (done s) ((uartWrite_number p v hfound hnumber).trans ((uartWriteNumber_wide v hwide hp).trans
      (writeWide_ends hp hx hparts hlive))))
  · refine ⟨_, (runs hok).trans (congrArg (done s) ((uartWrite_number p v hfound hnumber).trans ((uartWriteNumber_wide v hwide hp).trans
      (writeWide_discarded hx hdead)))), rfl, pendingOf_dropPending u _, rfl⟩
  · exact (runs hok).trans (congrArg (done s) (uartCommit_none hnone))
  · exact (runs hok).trans (congrArg (done s) (uartCommit_open hx))
  · obtain ⟨hsent, hkept, hdropped, hended⟩ := uartCancel_ends u index sub
    exact ⟨_, runs hok, hsent, hkept.trans hdomains, hdropped, hended⟩

end Sys2Proof.Machine
end

section
/-! SUPPORT. ACTIVATE, START, STOP, HOLD and REARM (R335, R337 to R339, R348, R349). -/

namespace Sys2Proof.Machine

/-! ### A write of ID_COMMAND -/

section
variable {s t : State} {code : Nat} (hlow : 1 ≤ code) (hhigh : code ≤ 5)
include hlow hhigh

/-- The value that a command writes is its code, and is one that the object takes. -/
theorem commandValue : leNat [BitVec.ofNat 8 code] = code ∧ idCommandRow.check.ok idCommandRow (leNat [BitVec.ofNat 8 code]) = true := by
  interval_cases code <;> exact ⟨rfl, rfl⟩

theorem ownerWrite_idCommand (b : BootInputs) : ownerWrite b Reg.idCommand 0 0 code s = idCommand code s :=
  (if_pos rfl).trans (if_neg (by omega))

/-- A command that its state takes. -/
theorem commandWrite_accepted (hoff : s.mode ≠ .off) (hmode : s.mode.online = true) (h : idCommand code s = (scOk, t)) :
    writeOn true Reg.idCommand 0 [BitVec.ofNat 8 code] s = done s (t.emit (.status 0)) := by
  obtain ⟨hvalue, hcheck⟩ := commandValue hlow hhigh
  have hfound : findObject s 0x2001 0x02 = .object idCommandRow := findObject_of_mem (by decide +kernel) (by decide) rfl
  have howner : ownerWrite (standingInputs s) idCommandRow.reg (idCommandRow.unit 0x2001) (0x02 - idCommandRow.reg.sub)
      (leNat [BitVec.ofNat 8 code]) s = (scOk, t) := by
    rw [hvalue]
    exact (ownerWrite_idCommand hlow hhigh _).trans h
  exact congrArg (done s) (hostWrites_accepted hoff hfound rfl (if_pos (.inl hmode)) rfl hcheck howner)

/-- A command that its state does not take is refused and counted (R335). -/
theorem commandWrite_refused (hoff : s.mode ≠ .off) (h : idCommand code s = (scState, s)) :
    writeOn true Reg.idCommand 0 [BitVec.ofNat 8 code] s = writeRefused s 0x08000022 := by
  obtain ⟨hvalue, hcheck⟩ := commandValue hlow hhigh
  have hfound : findObject s 0x2001 0x02 = .object idCommandRow := findObject_of_mem (by decide +kernel) (by decide) rfl
  by_cases hstate : writeState s idCommandRow = scOk
  · have howner : ownerWrite (standingInputs s) idCommandRow.reg (idCommandRow.unit 0x2001) (0x02 - idCommandRow.reg.sub)
        (leNat [BitVec.ofNat 8 code]) s = (scState, s) := by
      rw [hvalue]
      exact (ownerWrite_idCommand hlow hhigh _).trans h
    exact congrArg (done s) (hostWrites_number hoff hfound rfl hstate rfl hcheck howner)
  · have hcode : writeState s idCommandRow = scState := if_neg fun hc => hstate (if_pos hc)
    exact congrArg (done s) (hostWrites_refused hoff hfound rfl hcode (by decide))

end

/-! ### ACTIVATE (R348, R349) -/

theorem activateCommand_accepted {s : State} (hmode : s.mode = .held) (himg : s.reg Reg.imgState = 1) (hphase : s.act.phase = 0) :
    activateCommand s = (scOk, activates s) := by simp [activateCommand, hmode, himg, hphase]

theorem activateCommand_refused {s : State} (h : s.mode ≠ .held ∨ s.reg Reg.imgState ≠ 1 ∨ s.act.phase ≠ 0) :
    activateCommand s = (scState, s) := by
  have hnot : ¬ (s.mode == .held && s.reg Reg.imgState == 1 && s.act.phase == 0) = true := by
    simp only [Bool.and_eq_true, beq_iff_eq, not_and]
    tauto
  exact if_neg hnot

/-- What an activation that has ended shows (R349). -/
theorem endActivation_shows (s : State) (reason imgReason : Nat) :
    let t := endActivation s reason imgReason
    t.mode = s.mode ∧ t.reg Reg.idStateReason = reason ∧ t.act.phase = 0 ∧ t.reg Reg.imgReason = imgReason ∧ t.beat.on = false ∧
      t.reg Reg.imgState = 1 := by
  obtain ⟨himg, hcode, hreason, hphase, hbeat⟩ := endActivation_held s reason imgReason
  exact ⟨endActivation_mode .., hreason, hphase, hcode, hbeat, himg⟩

/-- What an activation that its store ends shows: the image must be committed again (R349). -/
theorem storeFails_shows (s : State) :
    let t := storeFails s
    t.mode = s.mode ∧ t.reg Reg.idStateReason = 7 ∧ t.act.phase = 0 ∧ t.reg Reg.imgReason = 10 ∧ t.beat.on = false ∧
      t.reg Reg.imgState = 0 := by
  obtain ⟨hmode, hreason, hphase, hcode, hbeat, -⟩ := endActivation_shows s 7 10
  exact ⟨(State.mode_setReg _ _ (by decide)).trans hmode, (State.reg_setReg_other _ _ (by decide)).trans hreason, hphase,
    (State.reg_setReg_other _ _ (by decide)).trans hcode, hbeat, State.reg_setReg_same ..⟩

theorem activates_fails {s : State} (h : activationReason s ≠ 0) : activates s = endActivation s 7 (activationReason s) := by
  obtain ⟨k, hk⟩ := Nat.exists_eq_succ_of_ne_zero h
  simp only [activates, hk]

/-- The state in which the frame of the image is the one in force. -/
def framed (s : State) : State := { s with images := { s.images with activeFrame := imageFrame (s.domain Reg.imgDomain) } }

/-- The state in which the loads of an activation begin. -/
def activating (s : State) : State := framed (s.setReg Reg.imgState 0 2)

/-- The loads of plane 0 under the present count. -/
def loadingNow (s : State) : State := { s with beat := localCount s, act := { Activation.none with phase := 2 } }

theorem activationLoads_some {s : State} {i : ImagePlan} (h : s.images.main = some i) : activationLoads s =
    if (framed s).reg Reg.beatSource = 1 ∧ storePoisoned (framed s) false = true then storeFails (framed s)
    else if (framed s).reg Reg.beatSource = 1 then mainLoads (loadingNow (framed s)) i
    else { framed s with act := { Activation.none with phase := 1 } } := by
  unfold activationLoads
  rw [h]
  rfl

theorem activating_reg (s : State) {r : Reg} {n : Nat} (h : Reg.imgState.key 0 ≠ r.key n) : (activating s).reg r n = s.reg r n :=
  State.reg_setReg_other _ _ h

theorem activating_poisoned (s : State) : storePoisoned (activating s) false = storePoisoned s false := by
  have hstacks (h : Nat) : (activating s).reg Reg.hbmState h = s.reg Reg.hbmState h :=
    activating_reg s (by simp only [Reg.key, Reg.imgState, Reg.hbmState]; omega)
  unfold storePoisoned
  simp only [hstacks]
  rfl

/-- An activation whose checks pass goes on by the beat source (R348 steps 3 and 4). -/
theorem activates_passes {s : State} (h : activationReason s = 0) : ∃ i, s.images.main = some i ∧ activates s =
    if s.reg Reg.beatSource = 1 ∧ storePoisoned s false = true then storeFails (activating s)
    else if s.reg Reg.beatSource = 1 then
      mainLoads (loadingNow (activating s)) i
    else { activating s with act := { Activation.none with phase := 1 } } := by
  cases hmain : s.images.main with
  | none => simp [activationReason, hmain] at h
  | some i =>
    refine ⟨i, rfl, ?_⟩
    rw [← activating_poisoned s, ← activating_reg s (r := Reg.beatSource) (n := 0) (by decide)]
    simp only [activates, h]
    exact activationLoads_some hmain

/-- An activation that goes on is loading under LOCAL, and waits for its pair under SILUSH (R348 steps 3 and 4). -/
theorem activates_goesOn {s : State} (h : activationReason s = 0) (hstore : s.reg Reg.beatSource ≠ 1 ∨ storePoisoned s false = false) :
    let t := activates s
    t.mode = s.mode ∧ t.reg Reg.imgState = 2 ∧
      (s.reg Reg.beatSource = 1 → t.act.phase = 2 ∧ t.beat.on = true ∧ t.beat.n = BitVec.ofNat 48 (s.reg Reg.beatStart) ∧
        t.beat.at' = s.clocks.cycle ∧ t.beat.period = s.reg Reg.beatPeriod) ∧
      (s.reg Reg.beatSource ≠ 1 → t.act.phase = 1) := by
  obtain ⟨i, -, hactivates⟩ := activates_passes h
  have hmode : (activating s).mode = s.mode := State.mode_setReg _ _ (by decide)
  have himg : (activating s).reg Reg.imgState = 2 := State.reg_setReg_same ..
  rw [hactivates, if_neg (by rintro ⟨hlocal, hpoisoned⟩; rcases hstore with h | h <;> simp_all)]
  by_cases hlocal : s.reg Reg.beatSource = 1
  · obtain ⟨hbeat, hact⟩ := Prod.mk.inj (mainLoads_timing (loadingNow (activating s)) i)
    rw [if_pos hlocal]
    refine ⟨(congrArg Mode.ofCode (mainLoads_reg _ i (by decide))).trans hmode, (mainLoads_reg _ i (by decide)).trans himg,
      fun _ => ?_, fun h => absurd hlocal h⟩
    rw [hact, hbeat]
    refine ⟨rfl, rfl, ?_, rfl, ?_⟩
    · exact congrArg (BitVec.ofNat 48) (activating_reg s (by decide))
    · exact activating_reg s (by decide)
  · rw [if_neg hlocal]
    exact ⟨hmode, himg, fun h => absurd h hlocal, fun _ => rfl⟩

/-! ### The end of an activation that waits, REARM and HOLD (R339, R349) -/

theorem rearmCommand_accepted {s : State} (h : s.mode = .stopped) :
    rearmCommand s = (scOk, { s with run := { s.run with drain := 2 } }) := by simp [rearmCommand, h]

theorem rearmCommand_refused {s : State} (h : s.mode ≠ .stopped) : rearmCommand s = (scState, s) := by simp [rearmCommand, h]

theorem holdCommand_held {s : State} (hmode : s.mode = .held) (hphase : s.act.phase ≠ 0) :
    holdCommand s = (scOk, cancelActivation s) := by simp [holdCommand, hmode, hphase]

/-- Settles O56, by the command and the state that it finds. -/
theorem runCommandsAct : Obligations.RunCommandsAct := by
  unfold Obligations.RunCommandsAct
  intro s hoff
  dsimp only
  have online {m : Mode} (h : s.mode = m) (hm : m.online = true) : s.mode.online = true := by rw [h, hm]
  refine ⟨fun hmode himg hphase => ?_, fun h => ?_, fun hmode hphase => ?_, fun h => ?_, fun h => ?_, fun ha hs => ?_, fun h => ?_,
    fun h => ?_, fun h => ?_, fun h => ?_, fun h => ?_, fun hmode hphase => ?_, fun hmode hzero htwo => ?_, fun h => ?_, fun h => ?_, fun h => ?_⟩
  · refine ⟨_, commandWrite_accepted (code := 1) (by decide) (by decide) hoff (online hmode rfl)
      (activateCommand_accepted hmode himg hphase), rfl, fun hfails => ?_, fun hpasses hlocal hpoisoned => ?_, fun hpasses hstore => ?_⟩
    · obtain ⟨hheld, hreason, hended, hcode, hbeat, himg⟩ := endActivation_shows s 7 (activationReason s)
      rw [activates_fails hfails]
      generalize endActivation s 7 (activationReason s) = t at hheld hreason hended hcode hbeat himg ⊢
      exact ⟨⟨hheld.trans hmode, hreason, hended, hcode, hbeat⟩, himg⟩
    · obtain ⟨i, -, hactivates⟩ := activates_passes hpasses
      obtain ⟨hheld, hreason, hended, hcode, hbeat, himg⟩ := storeFails_shows (activating s)
      rw [hactivates, if_pos ⟨hlocal, hpoisoned⟩]
      generalize storeFails (activating s) = t at hheld hreason hended hcode hbeat himg ⊢
      exact ⟨⟨hheld.trans ((State.mode_setReg _ _ (by decide)).trans hmode), hreason, hended, hcode, hbeat⟩, himg⟩
    · obtain ⟨hheld, himg, hlocal, hwaits⟩ := activates_goesOn hpasses hstore
      exact ⟨himg, hheld.trans hmode, hlocal, hwaits⟩
  · exact commandWrite_refused (code := 1) (by decide) (by decide) hoff (activateCommand_refused h)
  · obtain ⟨hheld, hreason, hended, hcode, hbeat, himg⟩ := endActivation_shows s 7 7
    have hnoBeat : noBeat s = endActivation s 7 7 := if_pos ⟨hmode, hphase⟩
    generalize endActivation s 7 7 = t at hheld hreason hended hcode hbeat himg hnoBeat
    exact ⟨_, congrArg (done s) hnoBeat, ⟨hheld.trans hmode, hreason, hended, hcode, hbeat⟩, himg⟩
  · exact congrArg (done s) (if_neg (by tauto))
  · exact commandWrite_accepted (code := 2) (by decide) (by decide) hoff (h.elim (online · rfl) (online · rfl)) (startCommand_accepted h)
  · exact commandWrite_refused (code := 2) (by decide) (by decide) hoff (startCommand_refused ha hs)
  · exact commandWrite_accepted (code := 3) (by decide) (by decide) hoff (online h rfl) (stopCommand_accepted h)
  · exact commandWrite_refused (code := 3) (by decide) (by decide) hoff (stopCommand_refused h)
  · exact commandWrite_accepted (code := 4) (by decide) (by decide) hoff (online h rfl) (holdCommand_armed h)
  · exact commandWrite_accepted (code := 4) (by decide) (by decide) hoff (online h rfl) (holdCommand_running h)
  · exact commandWrite_accepted (code := 4) (by decide) (by decide) hoff (online h rfl) (holdCommand_stopped h)
  · have hcancels : cancelActivation s = { s with act := { s.act with cancelled := true } } := if_pos hphase
    exact ⟨_, commandWrite_accepted (code := 4) (by decide) (by decide) hoff (online hmode rfl)
      ((holdCommand_held hmode (by omega)).trans (congrArg (Prod.mk scOk) hcancels)), rfl, rfl⟩
  · have hcancels : cancelActivation s = endActivation s 4 (s.reg Reg.imgReason) := if_neg htwo
    obtain ⟨hheld, hreason, hended, hcode, hbeat, himg⟩ := endActivation_shows s 4 (s.reg Reg.imgReason)
    generalize endActivation s 4 (s.reg Reg.imgReason) = t at hheld hreason hended hcode hbeat himg hcancels
    exact ⟨_, commandWrite_accepted (code := 4) (by decide) (by decide) hoff (online hmode rfl)
      ((holdCommand_held hmode hzero).trans (congrArg (Prod.mk scOk) hcancels)), ⟨hheld.trans hmode, hreason, hended, hcode, hbeat⟩, himg⟩
  · exact commandWrite_refused (code := 4) (by decide) (by decide) hoff (holdCommand_refused (.inr h))
  · exact commandWrite_accepted (code := 5) (by decide) (by decide) hoff (online h rfl) (rearmCommand_accepted h)
  · exact commandWrite_refused (code := 5) (by decide) (by decide) hoff (rearmCommand_refused h)

end Sys2Proof.Machine
end

section
/-! SUPPORT. A machine check at a publication while a BIST of a unit beyond Table 17.7 is held: its ABORTED stands where the draw is
shown (R386, R400). -/

namespace Sys2Proof.Machine

/-- The result object of a unit 511, which the wafer does not have, stands where PWR_TOTAL_W stands. -/
theorem reg_bistResult_511 (s : State) : s.reg Reg.bistResult 511 = s.reg Reg.pwrTotalW 0 := rfl

/-- A state in HELD that holds a BIST of unit 511. -/
def bistBelowPower : State :=
  { State.reset with regs := [(Reg.idState.key 0, 2)], faults := { Faults.none with bist := some (511, 3) } }

/-- A 380 V input that reads 0, with a 48 V input in its range and no draw. -/
def mainLost : Sensors := { totalW := 0, mainMv := 0, auxMv := 48000, domainW := [], islandC := [], stackC := [] }

/-- The publication shows 6, the code of ABORTED, as the draw. -/
theorem mainLost_shows : (answered (exec (.publication mainLost) bistBelowPower)).map (fun t => t.reg Reg.pwrTotalW) = some 6 := by
  decide +kernel

/-- Refutes O42, by its clause on the draw that a publication shows. The statement takes every state, also one that holds a BIST of a unit
beyond the 80 of Table 17.7; the machine check that the 380 V input makes then shows ABORTED at 0x3E01 + 511, which is PWR_TOTAL_W. No
command starts such a BIST (R384), so no run from reset comes to such a state. -/
theorem not_rampsRailsAndPublications : ¬ Obligations.RampsRailsAndPublications := by
  unfold Obligations.RampsRailsAndPublications
  intro h
  obtain ⟨hpublication, -⟩ := h.2 bistBelowPower
  have hheld : bistBelowPower.mode = .held := by decide +kernel
  obtain ⟨t, ht, -, -, hshown, -⟩ := hpublication mainLost (by rw [hheld]; decide) (by rw [hheld]; decide)
    (show 40000 ≤ 48000 by omega)
  have hsix := mainLost_shows
  rw [ht] at hsix
  exact absurd ((Option.some.inj hsix).symm.trans hshown) (show 6 ≠ 0 by omega)

end Sys2Proof.Machine
end

section
/-! SUPPORT. The issue of a micro-word: the slot of a context, and a word whose nano-word does nothing (R244 to R250). -/

namespace Sys2Proof.Machine

/-! ### A context read back -/

@[simp] theorem setCtx_harbour (s : State) (h k : Nat) (c : Ctx) :
    (setCtx s h k c).harbour h = { s.harbour h with ctxs := tabSet (s.harbour h).ctxs k c } :=
  State.harbour_modHarbour ..

@[simp] theorem setCtx_ctx (s : State) (h k : Nat) (c : Ctx) : ((setCtx s h k c).harbour h).ctx k = c := by
  rw [setCtx_harbour]
  exact tabGet_tabSet_same ..

theorem tabSet_tabSet {α : Type} (t : List (Nat × α)) (k : Nat) (v w : α) : tabSet (tabSet t k v) k w = tabSet t k w := by
  induction t with
  | nil => simp [tabSet]
  | cons e t ih =>
    obtain ⟨j, x⟩ := e
    rw [tabSet, tabSet]
    split_ifs with hlt heq
    · simp [tabSet]
    · simp [tabSet]
    · rw [tabSet, if_neg hlt, if_neg heq, ih]

/-- A condition on the entries of a table that does not tell two values of an entry apart. -/
theorem any_tabSet {α : Type} (p : Nat × α → Bool) {k : Nat} {v w : α} (h : p (k, v) = p (k, w)) (t : List (Nat × α)) :
    (tabSet t k v).any p = (tabSet t k w).any p := by
  induction t with
  | nil => simp [tabSet, h]
  | cons e t ih =>
    obtain ⟨j, x⟩ := e
    rw [tabSet, tabSet]
    split_ifs <;> simp [h, ih]

/-! ### The slot of a context -/

/-- What the wait for its slot leaves: all but the registers, the clocks and the harbour's own record; of the record all that a
word or a command is about, and of the context all but the time of its next issue. -/
structure SlotOf (s u : State) (h k : Nat) : Prop where
  form : ∃ regs clocks x, u = { s with regs := regs, clocks := clocks, harbours := tabSet s.harbours h x }
  reg : ∀ (r : Reg) (n : Nat), r.sub ≠ 4 → r.sub ≠ 5 → r.sub < 256 → u.reg r n = s.reg r n
  ctx : ∃ n, (u.harbour h).ctx k = { (s.harbour h).ctx k with next := n }

/-- The state is one that time alone has reached. -/
structure Elapsed (s t : State) : Prop where
  form : ∃ regs clocks, t = { s with regs := regs, clocks := clocks }
  reg : ∀ (r : Reg) (n : Nat), r.sub ≠ 4 → r.sub ≠ 5 → r.sub < 256 → t.reg r n = s.reg r n

theorem Elapsed.refl (s : State) : Elapsed s s := ⟨⟨s.regs, s.clocks, rfl⟩, fun _ _ _ _ _ => rfl⟩

theorem Elapsed.runTo (s : State) (c : Nat) : Elapsed s (s.runTo c) :=
  ⟨s.runTo_eq c, fun _ n h4 h5 hsub => s.runTo_reg_of_sub c hsub h4 h5 n⟩

theorem Elapsed.harbour {s t : State} (ht : Elapsed s t) (h : Nat) : t.harbour h = s.harbour h := by
  obtain ⟨_, _, hform⟩ := ht.form
  rw [hform]; rfl

/-- What a slot leaves, from the time that passes and the change of the harbour's record. -/
theorem Elapsed.slotOf {s t : State} (ht : Elapsed s t) (h k : Nat) (f : Harbour → Harbour)
    (hctx : ∃ n, (f (s.harbour h)).ctx k = { (s.harbour h).ctx k with next := n }) : SlotOf s (t.modHarbour h f) h k where
  form := by
    obtain ⟨regs, clocks, hform⟩ := ht.form
    rw [hform]; exact ⟨regs, clocks, _, rfl⟩
  reg r n h4 h5 hsub := ht.reg r n h4 h5 hsub
  ctx := by
    rw [State.harbour_modHarbour, ht.harbour]; exact hctx

theorem runToGroup_eq {s t : State} {h g : Nat} (ht : runToGroup s h g = some t) : Elapsed s t ∧ t.reg Reg.engGroupCycles h = g := by
  unfold runToGroup at ht
  extract_lets d u c x at ht
  have hx : Elapsed s x := by
    by_cases hd : d = 0
    · rw [show x = s from if_pos hd]; exact .refl s
    · rw [show x = _ from if_neg hd]; exact .runTo s _
  split at ht
  · cases ht
  · next hcond =>
    rw [Bool.or_eq_true, not_or] at hcond
    have hgroup := hcond.2
    rw [← Option.some.inj ht]
    exact ⟨hx, by simpa using hgroup⟩

theorem slotFrom_mod {k : Nat} (hk : k < 8) (g : Nat) : slotFrom k g % 32 = 4 * k := by
  unfold slotFrom; omega

/-- A slot comes at a group cycle that the group context owns, or at a CONTROL cycle, and leaves the context. -/
theorem issueSlot_some {s u : State} {h k : Nat} (hu : issueSlot s h k = some u) :
    SlotOf s u h k ∧ (k < 8 → u.reg Reg.engGroupCycles h % 32 = 4 * k) ∧ (8 ≤ k → u.clocks.cycle % 8 = 0) := by
  unfold issueSlot at hu
  extract_lets c g at hu
  split at hu
  · cases hu
  · split at hu
    · next hpipe =>
      unfold runToPipe at hu
      extract_lets x at' at hu
      split at hu
      · cases hu
      · rw [← Option.some.inj hu]
        refine ⟨(Elapsed.runTo s at').slotOf h k _ ⟨_, rfl⟩, fun hlow => by omega, fun _ => ?_⟩
        have hcycle : (s.runTo at').clocks.cycle = max s.clocks.cycle at' := s.runTo_cycle at'
        show (s.runTo at').clocks.cycle % 8 = 0
        omega
    · next hgroup =>
      obtain ⟨t, ht, rfl⟩ := Option.map_eq_some_iff.mp hu
      obtain ⟨htime, hcycles⟩ := runToGroup_eq ht
      refine ⟨htime.slotOf h k _ ⟨g + 1, ?_⟩, fun hlow => ?_, fun hhigh => absurd hhigh hgroup⟩
      · rw [htime.harbour]
        exact tabGet_tabSet_same ..
      · show t.reg Reg.engGroupCycles h % 32 = 4 * k
        rw [hcycles]
        exact slotFrom_mod hlow _

/-! ### The context in its slot -/

section
variable {s u : State} {h k : Nat} (hslot : SlotOf s u h k)
include hslot

theorem SlotOf.patch : u.patch = s.patch := by
  obtain ⟨_, _, _, hform⟩ := hslot.form
  rw [hform]

theorem SlotOf.beat : u.beat = s.beat := by
  obtain ⟨_, _, _, hform⟩ := hslot.form
  rw [hform]

theorem SlotOf.domain (r : Reg) (n : Nat) : u.domain r n = s.domain r n := by
  obtain ⟨_, _, _, hform⟩ := hslot.form
  rw [hform]; rfl

theorem SlotOf.mode : u.mode = s.mode := by
  simp only [State.mode, hslot.reg Reg.idState 0 (by decide) (by decide) (by decide)]

theorem SlotOf.state : ((u.harbour h).ctx k).state = ((s.harbour h).ctx k).state := by
  obtain ⟨_, hctx⟩ := hslot.ctx
  rw [hctx]

theorem SlotOf.microWord (i : MicroIssue) : microWord s ((s.harbour h).ctx k) i = microWord u ((u.harbour h).ctx k) i := by
  obtain ⟨_, hctx⟩ := hslot.ctx
  rw [hctx, Machine.microWord, Machine.microWord, hslot.patch]

end

/-- A live context whose slot has come issues its word. -/
theorem issue_in_slot {s u : State} {i : MicroIssue} (hu : issueSlot s i.h i.ctx = some u)
    (hlive : ((u.harbour i.h).ctx i.ctx).state = 1 ∨ ((u.harbour i.h).ctx i.ctx).state = 2) {seq : Nat}
    (hseq : microSeq (microWord u ((u.harbour i.h).ctx i.ctx) i) = seq) :
    issue seq i s = issueWord u i (microWord u ((u.harbour i.h).ctx i.ctx) i) (nanoWord u (microWord u ((u.harbour i.h).ctx i.ctx) i) i) := by
  obtain ⟨hslot, -, -⟩ := issueSlot_some hu
  rw [hslot.state] at hlive
  unfold issue
  dsimp only
  rw [hslot.microWord, hseq, if_neg (by omega), if_neg (by omega), hu]

theorem seqRow_in_slot {s u : State} {i : MicroIssue} (hh : s.hasHarbour i.h = true) (hk : i.ctx < 10) (hu : issueSlot s i.h i.ctx = some u)
    (hlive : ((u.harbour i.h).ctx i.ctx).state = 1 ∨ ((u.harbour i.h).ctx i.ctx).state = 2) {seq : Nat}
    (hseq : microSeq (microWord u ((u.harbour i.h).ctx i.ctx) i) = seq) :
    seqRow seq i s = done s (issueWord u i (microWord u ((u.harbour i.h).ctx i.ctx) i)
      (nanoWord u (microWord u ((u.harbour i.h).ctx i.ctx) i) i)) := by
  rw [seqRow, onUnit_present _ _ (by simp [hh, hk]), issue_in_slot hu hlive hseq]
  rfl

/-! ### A nano-word of 0 -/

@[simp] theorem nanoF_zero (lo n : Nat) : nanoF 0#144 lo n = 0 := by simp [nanoF, field]

/-- A nano-word of 0 does nothing. -/
theorem nanoStep_zero (s : State) (h : Nat) (c : Ctx) (w : BitVec 24) : nanoStep s h c w 0#144 = (s, c) := by
  simp [nanoStep, aluStep, busStep, tokenStep, recordStep]

/-- A nano-word of 0 has no check of its own, in a word that is sound. -/
theorem issueCheck_zero {s : State} {c : Ctx} {w : BitVec 24} (hrange : microNano w < 448) (hsound : patchBroken s c w = none) :
    issueCheck s c w 0#144 .clean = none := by
  simp [issueCheck, hsound, show ¬ 448 ≤ microNano w by omega, needsCommit]

/-- The context of a word that has issued, before its sequence. -/
def issuedCtx (c : Ctx) (w : BitVec 24) : Ctx :=
  let commit := c.commit || microCommit w
  { c with commit := commit, issued := c.issued + 1, restarts := if commit then 0 else c.restarts }

/-- A sound word whose nano-word is 0 only sequences. -/
theorem issueWord_zero {u : State} {i : MicroIssue} {w : BitVec 24} (hclean : i.check = .clean) (hrange : microNano w < 448)
    (hsound : patchBroken u ((u.harbour i.h).ctx i.ctx) w = none) : issueWord u i w 0#144 =
      let y := issuedCtx ((u.harbour i.h).ctx i.ctx) w
      match sequence y w i.cond with
      | .go a st => setCtx u i.h i.ctx { y with state := liveState y.commit, addr := a, stack := st }
      | .wait => setCtx u i.h i.ctx { y with state := 3 }
      | .fin => endRoutine (setCtx u i.h i.ctx { y with state := liveState y.commit }) i.h i.ctx
      | .check cause => bellowsCheck (setCtx u i.h i.ctx y) i.h i.ctx cause 15 (microNano w) := by
  unfold issueWord
  dsimp only
  rw [hclean, issueCheck_zero hrange hsound]
  dsimp only
  rw [issueActs, nanoStep_zero]
  rfl

/-! ### Sequence codes -/

theorem goTo_natCast {a : Nat} (h : a < 0x880) (st : List Nat) : goTo (a : Int) st = .go a st := by
  rw [goTo, if_pos (by omega), Int.toNat_natCast]

theorem microField_lt (w : BitVec 24) : microField w < 0x800 := Nat.mod_lt _ (by decide)

theorem goTo_succ {a : Nat} (h : a + 1 < 0x880) (st : List Nat) : goTo ((a : Int) + 1) st = .go (a + 1) st := by
  exact_mod_cast goTo_natCast h st

section
variable {c : Ctx} {w : BitVec 24} {cond : Bool}

theorem sequence_next (hseq : microSeq w = 0) (h : c.addr + 1 < 0x880) : sequence c w cond = .go (c.addr + 1) c.stack := by
  simp only [sequence, hseq]
  exact goTo_succ h _

theorem sequence_jump (hseq : microSeq w = 1) : sequence c w cond = .go (microField w) c.stack := by
  simp only [sequence, hseq]
  exact goTo_natCast (by have := microField_lt w; omega) _

theorem sequence_jumpP (hseq : microSeq w = 2) (h : microField w < 128) : sequence c w cond = .go (0x800 + microField w) c.stack := by
  simp only [sequence, hseq]
  rw [if_pos (by omega)]
  exact goTo_natCast (by omega) _

theorem sequence_jumpP_outside (hseq : microSeq w = 2) (h : 128 ≤ microField w) : sequence c w cond = .check 4 := by
  simp only [sequence, hseq]
  exact if_neg (by omega)

theorem sequence_branch_not_taken (hseq : microSeq w = 3) (h : c.addr + 1 < 0x880) :
    sequence c w false = .go (c.addr + 1) c.stack := by
  simp only [sequence, hseq]
  rw [if_pos (show (!false) = true from rfl)]
  exact goTo_succ h _

theorem sequence_branch_taken (hseq : microSeq w = 3) {a : Nat} (ha : (a : Int) = c.addr + signed 7 (microField w % 128)) (hrange : a < 0x880)
    (hstore : a < 0x800 ↔ c.addr < 0x800) : sequence c w true = .go a c.stack := by
  have hsame : sameStore c.addr (a : Int) = true := by simp [sameStore, ← hstore]
  simp only [sequence, hseq]
  rw [← ha, if_neg (show ¬ (!true) = true from Bool.false_ne_true), if_pos hsame]
  exact goTo_natCast hrange _

theorem sequence_call (hseq : microSeq w = 4) (h : c.stack.length < 4) : sequence c w cond = .go (microField w) ((c.addr + 1) :: c.stack) := by
  simp only [sequence, hseq]
  rw [if_neg (by omega)]
  exact goTo_natCast (by have := microField_lt w; omega) _

theorem sequence_call_full (hseq : microSeq w = 4) (h : 4 ≤ c.stack.length) : sequence c w cond = .check 3 := by
  simp only [sequence, hseq]
  exact if_pos h

theorem sequence_return (hseq : microSeq w = 5) {a : Nat} {rest : List Nat} (hstack : c.stack = a :: rest) (h : a < 0x880) :
    sequence c w cond = .go a rest := by
  simp only [sequence, hseq, hstack]
  exact goTo_natCast h _

theorem sequence_return_empty (hseq : microSeq w = 5) (hstack : c.stack = []) : sequence c w cond = .check 3 := by
  simp only [sequence, hseq, hstack]

theorem sequence_wait (hseq : microSeq w = 6) : sequence c w false = .wait := by
  simp only [sequence, hseq]
  rfl

theorem sequence_wait_over (hseq : microSeq w = 6) (h : c.addr + 1 < 0x880) : sequence c w true = .go (c.addr + 1) c.stack := by
  simp only [sequence, hseq]
  rw [if_pos trivial]
  exact goTo_succ h _

theorem sequence_end (hseq : microSeq w = 7) : sequence c w cond = .fin := by
  simp only [sequence, hseq]

end

/-! ### The end of a routine -/

/-- A context has no part in whether a command's work is done. -/
theorem workDone_setCtx {s u : State} {h k : Nat} (hslot : SlotOf s u h k) (c : Ctx) (r : Running) :
    workDone (setCtx u h k c) h r = workDone u h r := by
  obtain ⟨regs, clocks, x, hform⟩ := hslot.form
  have hx : u.harbour h = x := by rw [hform]; exact tabGet_tabSet_same ..
  have hleft (j : Nat) : reductionsLeft (setCtx u h k c) h j = reductionsLeft u h j := by
    have hset : (setCtx u h k c).harbours = tabSet s.harbours h { x with ctxs := tabSet x.ctxs k c } := by
      show tabSet u.harbours h _ = _
      rw [hx, hform]; exact tabSet_tabSet ..
    have hwas : u.harbours = tabSet s.harbours h x := by rw [hform]
    unfold reductionsLeft
    dsimp only
    rw [hset, hwas]
    apply any_tabSet
    rfl
  simp only [workDone, hleft, setCtx_harbour]
  rfl

theorem withKernel_setCtx (u : State) (h k : Nat) (c : Ctx) (r : Running) : withKernel (setCtx u h k c) h r = withKernel u h r := by
  have htemper (j : Nat) : (setCtx u h k c).temper h j = u.temper h j := by
    simp only [State.temper, setCtx_harbour]
  simp only [withKernel, htemper]

/-- A routine whose command is not done yet stays where it stands. -/
theorem endRoutine_waits {s u : State} {h k : Nat} (hslot : SlotOf s u h k) (hk : k < 8) {c : Ctx} {r : Running}
    (hrun : (u.harbour h).runningAt c.engine c.queue = some r) (hwork : workDone u h (withKernel u h r) = false) :
    endRoutine (setCtx u h k c) h k = setCtx u h k c := by
  unfold endRoutine
  dsimp only
  rw [if_neg (by omega), setCtx_ctx, show ((setCtx u h k c).harbour h).runningAt c.engine c.queue = some r by rw [setCtx_harbour]; exact hrun]
  dsimp only
  rw [withKernel_setCtx, workDone_setCtx hslot, hwork]
  rfl

/-- A routine with nothing left to do leaves its context idle. -/
theorem endRoutine_idle {u : State} {h k : Nat} {c : Ctx}
    (hdone : (8 ≤ k ∧ systemDone u k = true) ∨ (k < 8 ∧ (u.harbour h).runningAt c.engine c.queue = none)) :
    endRoutine (setCtx u h k c) h k = idleCtx (setCtx u h k c) h k := by
  unfold endRoutine
  dsimp only
  rcases hdone with ⟨hk, hdone⟩ | ⟨hk, hrun⟩
  · rw [if_pos hk]
    exact if_pos hdone
  · rw [if_neg (by omega), setCtx_ctx,
      show ((setCtx u h k c).harbour h).runningAt c.engine c.queue = none by rw [setCtx_harbour]; exact hrun]

theorem idleCtx_shows (s : State) (h k : Nat) : ((idleCtx s h k).harbour h).ctx k = Ctx.idle ∧
    (idleCtx s h k).reg Reg.seqRoutines h = (s.reg Reg.seqRoutines h + 1) % 2 ^ 64 := by
  refine ⟨?_, State.reg_count_same ..⟩
  rw [idleCtx, State.harbour_count, State.harbour_modHarbour]
  exact tabGet_tabSet_same ..

/-! ### A held WAIT -/

theorem seqWait_held {s : State} {i : MicroIssue} (hh : s.hasHarbour i.h = true) (hk : i.ctx < 10)
    (hheld : ((s.harbour i.h).ctx i.ctx).state = 3) (hseq : microSeq (microWord s ((s.harbour i.h).ctx i.ctx) i) = 6) :
    exec (.seqWait i) s = done s (heldWait s i.h i.ctx ((s.harbour i.h).ctx i.ctx) (microWord s ((s.harbour i.h).ctx i.ctx) i) i.cond) := by
  have hissue : issue 6 i s = heldWait s i.h i.ctx ((s.harbour i.h).ctx i.ctx) (microWord s ((s.harbour i.h).ctx i.ctx) i) i.cond := by
    unfold issue
    dsimp only
    rw [hheld, hseq, if_neg (by omega), if_pos rfl]
  show seqRow 6 i s = _
  rw [seqRow, onUnit_present _ _ (by simp [hh, hk]), hissue]
  rfl

/-! ### O39 -/

/-- Settles O39: the slot leaves the context, and a sound word whose nano-word is 0 does what its sequence code says. -/
theorem contextsIssueTheirWords : Obligations.ContextsIssueTheirWords := by
  unfold Obligations.ContextsIssueTheirWords
  intro s u i hh hk hclean
  refine ⟨?_, ?_⟩
  · intro c hheld hseq
    have hrow := seqWait_held hh hk hheld hseq
    refine ⟨fun hcond => ?_, fun hcond haddr => ?_⟩
    · rw [hrow, hcond, heldWait, sequence_wait hseq]; rfl
    · rw [hrow, hcond, heldWait, sequence_wait_over hseq haddr]; rfl
  · intro hu
    obtain ⟨hslot, hgroup, hpipe⟩ := issueSlot_some hu
    refine ⟨hgroup, hpipe, ?_⟩
    intro c w f hlive hrange hnano hsound commit y goes
    have hpending (t : State) (ht : t.pending = u.pending) : done s t = .next t := by
      obtain ⟨_, _, _, hform⟩ := hslot.form
      have hsame : s.pending = t.pending := by rw [ht, hform]
      rw [done, hsame]
    have hrow {r : Instr} {n : Nat} (hr : exec r s = seqRow n i s) (hseq : microSeq w = n) : exec r s = done s (issueWord u i w 0#144) := by
      rw [hr, seqRow_in_slot hh hk hu hlive hseq]
      exact congrArg (fun n => done s (issueWord u i w n)) hnano
    have hword := issueWord_zero hclean hrange hsound
    have hgo {r : Instr} {n a : Nat} {stack : List Nat} (hr : exec r s = seqRow n i s) (hseq : microSeq w = n)
        (hnext : sequence (issuedCtx c w) w i.cond = .go a stack) : goes r a stack := by
      show exec r s = _
      rw [hrow hr hseq, hword]
      dsimp only
      rw [hnext]
      exact hpending _ rfl
    have hend (hseq : microSeq w = 7) : exec (.seqEnd i) s = done s (endRoutine (setCtx u i.h i.ctx y) i.h i.ctx) := by
      rw [hrow rfl hseq, hword]
      dsimp only
      rw [sequence_end hseq]
      rfl
    refine ⟨fun hseq haddr => hgo rfl hseq (sequence_next hseq haddr), fun hseq => hgo rfl hseq (sequence_jump hseq),
      fun hseq hf => hgo rfl hseq (sequence_jumpP hseq hf), fun hseq hcond haddr => hgo rfl hseq ?_,
      fun a hseq hcond ha hin hstore => hgo rfl hseq ?_, fun hseq hstack => hgo rfl hseq (sequence_call hseq hstack),
      fun a rest hseq hstack ha => hgo rfl hseq (sequence_return hseq hstack ha), fun hseq hcond haddr => hgo rfl hseq ?_,
      fun hseq hcond => ?_, fun hseq hlow r hrun hwork => ?_, fun hseq hdone => ?_⟩
    · rw [hcond]; exact sequence_branch_not_taken hseq haddr
    · rw [hcond]; exact sequence_branch_taken hseq ha hin hstore
    · rw [hcond]; exact sequence_wait_over hseq haddr
    · rw [hrow rfl hseq, hword]
      dsimp only
      rw [hcond, sequence_wait hseq]
      exact hpending _ rfl
    · show exec (.seqEnd i) s = _
      rw [hend hseq, endRoutine_waits (c := y) hslot hlow hrun hwork]
      exact hpending _ rfl
    · obtain ⟨hctx, hcount⟩ := idleCtx_shows (setCtx u i.h i.ctx y) i.h i.ctx
      rw [hend hseq, endRoutine_idle (c := y) hdone]
      exact ⟨_, rfl, hctx, hcount⟩

end Sys2Proof.Machine
end

section
/-! SUPPORT. The machine checks of the bellows, and the restart of a routine (R246, R248, R250, R252 to R256). -/

namespace Sys2Proof.Machine

/-! ### What a machine check leaves of a harbour's own record -/

/-- The beat, the contents of the DOMAINs and the counts of machine checks are as they were. -/
structure ChecksKept (s t : State) : Prop where
  beat : t.beat = s.beat
  domains : t.domains = s.domains
  count : ∀ h < 16, t.reg Reg.seqMcCount h = s.reg Reg.seqMcCount h

namespace ChecksKept

theorem refl (s : State) : ChecksKept s s := ⟨rfl, rfl, fun _ _ => rfl⟩

theorem trans {s t u : State} (h : ChecksKept s t) (k : ChecksKept t u) : ChecksKept s u :=
  ⟨k.beat.trans h.beat, k.domains.trans h.domains, fun n hn => (k.count n hn).trans (h.count n hn)⟩

theorem setReg (s : State) {r : Reg} {n : Nat} (v : Nat) (hkey : ∀ h < 16, r.key n ≠ Reg.seqMcCount.key h) : ChecksKept s (s.setReg r n v) :=
  ⟨rfl, rfl, fun h hh => State.reg_setReg_other s v (hkey h hh)⟩

theorem setReg_sub (s : State) {r : Reg} (n v : Nat) (hlt : r.sub < 256) (hsub : r.sub ≠ 3) : ChecksKept s (s.setReg r n v) :=
  setReg s v fun h _ => Reg.key_ne_of_sub hlt (by decide) hsub n h

theorem foldl {α : Type} {f : State → α → State} (hf : ∀ s x, ChecksKept s (f s x)) (l : List α) (s : State) : ChecksKept s (l.foldl f s) :=
  foldl_holds (ChecksKept s) f (fun t x ht => ht.trans (hf t x)) l s (.refl s)

theorem of_regs {s t : State} (hbeat : t.beat = s.beat) (hdomains : t.domains = s.domains) (hregs : t.regs = s.regs) : ChecksKept s t :=
  ⟨hbeat, hdomains, fun h _ => State.reg_of_regs hregs _ h⟩

theorem leaveRunning (s : State) : ChecksKept s (leaveRunning s) := by
  unfold Machine.leaveRunning
  dsimp only
  exact (foldl (fun t (e : Nat × Lane) => setReg_sub t (r := Reg.laneState) e.1 5 (by decide) (by decide)) _ s).trans (of_regs rfl rfl rfl)

theorem cancelActions (s : State) : ChecksKept s (cancelActions s) := by
  unfold Machine.cancelActions
  refine foldl (fun t k => ?_) _ s
  split
  · exact setReg_sub t k 5 (by decide) (by decide)
  · exact .refl t

theorem stopTokens (s : State) : ChecksKept s (stopTokens s) := by
  unfold Machine.stopTokens
  exact of_regs rfl rfl rfl

theorem abortBist (s : State) : ChecksKept s (abortBist s) := by
  unfold Machine.abortBist
  split
  · exact .refl s
  · next u _ _ =>
    refine (setReg_sub s u 6 (by decide) (by decide)).trans ((setReg _ 0 ?_).trans (of_regs rfl rfl rfl))
    intro h hh
    simp only [Reg.key, Reg.bistState, Reg.seqMcCount]
    omega

theorem modHarbour (s : State) (h : Nat) (f : Harbour → Harbour) : ChecksKept s (s.modHarbour h f) := of_regs rfl rfl rfl

theorem stopHarbour (s : State) (h : Nat) : ChecksKept s (stopHarbour s h) := by
  unfold Machine.stopHarbour
  dsimp only
  refine (modHarbour s h _).trans (foldl (fun t e => ?_) _ _)
  exact setReg_sub t _ 0xF (by decide) (by decide)

theorem log (s : State) (e : Event) : ChecksKept s (s.log e) := by
  refine of_regs (State.log_beat s e) ?_ (State.log_regs s e)
  unfold State.log
  with_reducible rfl

theorem logUnsent (s : State) : ChecksKept s (logUnsent s) := by
  unfold Machine.logUnsent
  refine foldl (fun t f => ?_) _ s
  split
  · exact .refl t
  · exact log t _

theorem enter (s : State) (m : Mode) (k : Nat) : ChecksKept s (s.enter m k) where
  beat := State.enter_beat ..
  domains := by
    have hdomains {t u : State} (h : t.control = u.control) : t.domains = u.domains := congrArg (·.2.2.2.1) h
    refine hdomains ?_
    unfold State.enter
    simp [ite_control, mk_control, fold_control]
  count h _ := by
    rw [State.reg_of_regs (s.enter_spec m k).1]
    have hreason : Reg.idStateReason.key 0 ≠ Reg.seqMcCount.key h := by
      simp only [Reg.key, Reg.idStateReason, Reg.seqMcCount]; omega
    rw [State.reg_setReg_other _ _ hreason, State.reg_setReg_other _ _ (Reg.key_ne_of_sub (by decide) (by decide) (by decide) _ _)]

theorem discardTanks (s : State) : ChecksKept s { s with tanks := [] } := of_regs rfl rfl rfl

theorem enterFaulted (s : State) : ChecksKept s (enterFaulted s) := by
  unfold Machine.enterFaulted
  split
  · exact .refl s
  · dsimp only
    refine .trans ?_ (enter _ _ _)
    refine .trans ?_ (discardTanks _)
    refine .trans ?_ (logUnsent _)
    refine .trans ?_ (foldl stopHarbour _ _)
    refine .trans ?_ (abortBist _)
    refine .trans ?_ (cancelActions _)
    refine .trans ?_ (stopTokens _)
    split
    · exact leaveRunning s
    · exact .refl s

theorem emcy (s : State) (e : Event) : ChecksKept s (s.emcy e) where
  beat := State.emcy_beat ..
  domains := congrArg (·.2.2.2.1) (State.emcy_control s e)
  count h _ := State.emcy_reg s e _ h (Reg.key_ne_of_sub (by decide) (by decide) (by decide) _ _)
    (fun k hk => by simp only [Reg.key, Reg.at, Reg.errorField, Reg.seqMcCount]; omega)
    (Reg.key_ne_of_sub (by decide) (by decide) (by decide) _ _)

theorem machineCheck (s : State) (e : Event) : ChecksKept s (machineCheck s e) := by
  unfold Machine.machineCheck
  split
  · exact .refl s
  · exact (enterFaulted s).trans (emcy _ e)

end ChecksKept

/-! ### A machine check of the bellows -/

/-- The fields of SEQ_MC_RECORD (Table 11.5). -/
theorem mcRecord_fields {cause store ctx nano : Nat} (opcode addr : Nat) (beat : Beat) (hcause : cause < 2 ^ 8) (hstore : store < 2 ^ 4)
    (hctx : ctx < 2 ^ 4) (hnano : nano < 2 ^ 9) :
    let y := mcRecord cause store ctx opcode addr nano beat
    (y.extractLsb' 120 8).toNat = cause ∧ (y.extractLsb' 116 4).toNat = store ∧ (y.extractLsb' 112 4).toNat = ctx ∧
      (y.extractLsb' 104 8).toNat = opcode % 256 ∧ (y.extractLsb' 92 12).toNat = addr % 4096 ∧ (y.extractLsb' 83 9).toNat = nano ∧
      y.extractLsb' 0 48 = beat := by
  dsimp only
  refine ⟨?_, ?_, ?_, ?_, ?_, ?_, ?_⟩
  · rw [extractLsb'_field, mcRecord, show 120 = 48 + (35 + (9 + (12 + (8 + (4 + (4 + 0)))))) from rfl, field_append_high, field_append_high,
      field_append_high, field_append_high, field_append_high, field_append_high, field_append_high, field_eq, Nat.pow_zero, Nat.div_one,
      BitVec.toNat_ofNat, Nat.mod_mod, Nat.mod_eq_of_lt hcause]
  · rw [extractLsb'_field, mcRecord, show 116 = 48 + (35 + (9 + (12 + (8 + (4 + 0))))) from rfl, field_append_high, field_append_high,
      field_append_high, field_append_high, field_append_high, field_append_high, field_append_low, BitVec.toNat_ofNat, Nat.mod_eq_of_lt hstore]
  · rw [extractLsb'_field, mcRecord, show 112 = 48 + (35 + (9 + (12 + (8 + 0)))) from rfl, field_append_high, field_append_high,
      field_append_high, field_append_high, field_append_high, field_append_low, BitVec.toNat_ofNat, Nat.mod_eq_of_lt hctx]
  · rw [extractLsb'_field, mcRecord, show 104 = 48 + (35 + (9 + (12 + 0))) from rfl, field_append_high, field_append_high,
      field_append_high, field_append_high, field_append_low, BitVec.toNat_ofNat]
  · rw [extractLsb'_field, mcRecord, show 92 = 48 + (35 + (9 + 0)) from rfl, field_append_high, field_append_high,
      field_append_high, field_append_low, BitVec.toNat_ofNat]
  · rw [extractLsb'_field, mcRecord, show 83 = 48 + (35 + 0) from rfl, field_append_high, field_append_high, field_append_low,
      BitVec.toNat_ofNat, Nat.mod_eq_of_lt hnano]
  · refine BitVec.eq_of_toNat_eq ?_
    rw [extractLsb'_field, mcRecord, field_append_low]

/-- What the machine check of a word shows: the engine FAULTED, the newest log record, and the harbour's record or its count. -/
def CheckRaised (s t : State) (h k cause store nano : Nat) (c : Ctx) : Prop :=
  t.mode = .faulted ∧ t.faults.log.getLast? = some (logRecord s.beat.n (0xFF50 + cause) (harbourUnit h) 0 0 0 cause) ∧
    (s.domain Reg.seqMcRecord h = [] → t.domain Reg.seqMcRecord h = leBytes 16 (mcRecord cause store k c.opcode c.addr nano s.beat.n).toNat) ∧
    (s.domain Reg.seqMcRecord h ≠ [] → t.domain Reg.seqMcRecord h = s.domain Reg.seqMcRecord h ∧
      t.reg Reg.seqMcCount h = (s.reg Reg.seqMcCount h + 1) % 2 ^ 32)

theorem bellowsCheck_raised {s : State} (hoff : s.mode ≠ .off) {h : Nat} (hh : h < 16) (k cause store nano : Nat) :
    CheckRaised s (bellowsCheck s h k cause store nano) h k cause store nano ((s.harbour h).ctx k) := by
  unfold bellowsCheck
  extract_lets c u
  have hmode : u.mode = s.mode := by
    show (if _ then _ else _ : State).mode = _
    split
    · rfl
    · exact State.mode_setReg s _ (Reg.key_ne_of_sub (by decide) (by decide) (by decide) _ _)
  have hbeat : u.beat = s.beat := by
    show (if _ then _ else _ : State).beat = _
    split <;> rfl
  generalize hev : ({ code := 0xFF50 + cause, unit := harbourUnit h, detail := cause } : Event) = e
  have hkept := ChecksKept.machineCheck u e
  refine ⟨machineCheck_mode _ _ (hmode ▸ hoff), ?_, fun hempty => ?_, fun hfull => ?_⟩
  · rw [machineCheck_log _ _ (hmode ▸ hoff), hkept.beat, hbeat, ← hev]
  · rw [State.domain, hkept.domains]
    have hu : u = s.setDomain Reg.seqMcRecord h _ := if_pos (by rw [hempty]; rfl)
    rw [hu]
    exact tabGet_tabSet_same ..
  · have hu : u = s.count Reg.seqMcCount h := if_neg (by simpa using hfull)
    refine ⟨?_, ?_⟩
    · rw [State.domain, hkept.domains, hu]; rfl
    · rw [hkept.count h hh, hu, State.reg_count_same]

theorem logRecord_extract_beat (b : Beat) (code unit cls kind loc detail : Nat) :
    (logRecord b code unit cls kind loc detail).extractLsb' 80 48 = b := by
  refine BitVec.eq_of_toNat_eq ?_
  rw [extractLsb'_field, logRecord, show 80 = 32 + (16 + (6 + (2 + (8 + (16 + 0))))) from rfl, field_append_high, field_append_high,
    field_append_high, field_append_high, field_append_high, field_append_high, field_eq, Nat.pow_zero, Nat.div_one,
    Nat.mod_eq_of_lt b.isLt]

/-- What the row of a word shows when the word raises a machine check in its slot. -/
theorem raised_of_check {s u t : State} {h k cause store nano : Nat} {c : Ctx} (hslot : SlotOf s u h k) (hh : h < 16)
    (hk : k < 10) (hcause : cause < 16) (hstore : store < 16) (hnano : nano < 2 ^ 9) (ht : CheckRaised u t h k cause store nano c) :
    ∃ t' x, done s t = .next t' ∧ t'.mode = .faulted ∧ t'.faults.log.getLast? = some x ∧ (x.extractLsb' 64 16).toNat = 0xFF50 + cause ∧
      (x.extractLsb' 56 8).toNat = 64 + h ∧ x.extractLsb' 80 48 = s.beat.n ∧
      (s.domain Reg.seqMcRecord h = [] → ∃ y : BitVec 128, t'.domain Reg.seqMcRecord h = leBytes 16 y.toNat ∧
        (y.extractLsb' 120 8).toNat = cause ∧ (y.extractLsb' 116 4).toNat = store ∧ (y.extractLsb' 112 4).toNat = k ∧
        (y.extractLsb' 104 8).toNat = c.opcode % 256 ∧ (y.extractLsb' 92 12).toNat = c.addr % 4096 ∧ (y.extractLsb' 83 9).toNat = nano ∧
        y.extractLsb' 0 48 = s.beat.n) ∧
      (s.domain Reg.seqMcRecord h ≠ [] → t'.domain Reg.seqMcRecord h = s.domain Reg.seqMcRecord h ∧
        t'.reg Reg.seqMcCount h = (s.reg Reg.seqMcCount h + 1) % 2 ^ 32) := by
  obtain ⟨hmode, hlog, hempty, hfull⟩ := ht
  have hfields := logRecord_fields s.beat.n (code := 0xFF50 + cause) (unit := harbourUnit h) (kind := 0) 0 0 cause (by omega)
    (by unfold harbourUnit; omega) (by omega)
  rw [hslot.beat] at hlog hempty
  rw [hslot.domain] at hempty hfull
  rw [hslot.reg Reg.seqMcCount h (by decide) (by decide) (by decide)] at hfull
  simp only [Prod.mk.injEq] at hfields
  obtain ⟨hcode, hunit, -⟩ := hfields
  refine ⟨_, _, rfl, hmode, hlog, (extractLsb'_field ..).trans hcode, (extractLsb'_field ..).trans hunit, ?_, fun hnone => ?_, hfull⟩
  · exact logRecord_extract_beat s.beat.n _ _ _ _ _ _
  · exact ⟨_, hempty hnone, mcRecord_fields c.opcode c.addr s.beat.n (by omega) hstore (by omega) hnano⟩

/-! ### A restart and the registers -/

theorem groupTick_reg (n : Nat) (s : State) (g : Nat) {r : Reg} {m : Nat} (hgroup : Reg.engGroupCycles.key g ≠ r.key m)
    (hstall : Reg.engStallCycles.key g ≠ r.key m) : (groupTick n s g).reg r m = s.reg r m := by
  unfold groupTick
  rw [State.reg_count_other _ _ _ hstall, State.reg_count_other _ _ _ hgroup]

/-- Time moves no register but the cycles that the sixteen groups count. -/
theorem State.advance_reg (s : State) (n : Nat) {r : Reg} {m : Nat} (hgroup : ∀ g < 16, Reg.engGroupCycles.key g ≠ r.key m)
    (hstall : ∀ g < 16, Reg.engStallCycles.key g ≠ r.key m) : (s.advance n).reg r m = s.reg r m := by
  have hfold : ∀ l : List Nat, (∀ g ∈ l, g < 16) → ∀ t : State, (l.foldl (groupTick n) t).reg r m = t.reg r m := by
    intro l
    induction l with
    | nil => intro _ t; rfl
    | cons g l ih =>
      intro hl t
      have hg := hl g List.mem_cons_self
      rw [List.foldl_cons, ih (fun a ha => hl a (List.mem_cons_of_mem _ ha)), groupTick_reg n t g (hgroup g hg) (hstall g hg)]
  show (if s.mode = .off ∨ s.mode = .boot then s else s.harbourList.foldl (groupTick n) s).reg r m = _
  split
  · rfl
  · exact hfold _ (fun g hg => List.mem_range.mp (List.mem_filter.mp hg).1) s

/-- A group that stands counts every one of its cycles as a stall. -/
theorem State.advance_stalled {s : State} (honline : s.mode.online = true) {h : Nat} (hh : s.hasHarbour h = true)
    (hstall : (s.harbour h).stalled = true) (n : Nat) :
    (s.advance n).reg Reg.engStallCycles h = (s.reg Reg.engStallCycles h + harbourCycles s.clocks.cycle n) % 2 ^ 64 := by
  have hkeys (g : Nat) (hg : g ≠ h) (t : State) : (groupTick n t g).reg Reg.engStallCycles h = t.reg Reg.engStallCycles h :=
    groupTick_reg n t g (Reg.key_ne_of_sub (by decide) (by decide) (by decide) _ _) (by simp only [Reg.key, Reg.engStallCycles]; omega)
  have hfold : ∀ l : List Nat, l.Nodup → ∀ t : State, t.clocks = s.clocks → (t.harbour h).stalled = true →
      (l.foldl (groupTick n) t).reg Reg.engStallCycles h = if h ∈ l then
        (t.reg Reg.engStallCycles h + harbourCycles s.clocks.cycle n) % 2 ^ 64 else t.reg Reg.engStallCycles h := by
    intro l
    induction l with
    | nil => intro _ t _ _; rfl
    | cons g l ih =>
      intro hnodup t hclocks hst
      obtain ⟨hnot, hrest⟩ := List.nodup_cons.mp hnodup
      rw [List.foldl_cons, ih hrest (groupTick n t g) hclocks hst]
      by_cases hg : g = h
      · subst hg
        rw [if_neg hnot, if_pos List.mem_cons_self]
        unfold groupTick
        dsimp only
        rw [State.reg_count_same, State.reg_count_other _ _ _ (Reg.key_ne_of_sub (by decide) (by decide) (by decide) _ _), hclocks,
          show t.groupStands g = true by simp [State.groupStands, hst], if_pos rfl]
        congr 2
        split
        · split
          · simp
          · simp
        · simp
      · rw [hkeys g hg]
        simp only [List.mem_cons, show ¬ h = g from fun e => hg e.symm, false_or]
  have hrun : ¬ (s.mode = .off ∨ s.mode = .boot) := by
    rintro (h | h) <;> rw [h] at honline <;> exact Bool.false_ne_true honline
  have hmem : h ∈ s.harbourList := List.mem_filter.mpr ⟨List.mem_range.mpr (hasHarbour_lt hh), hh⟩
  show (if s.mode = .off ∨ s.mode = .boot then s else s.harbourList.foldl (groupTick n) s).reg Reg.engStallCycles h = _
  rw [if_neg hrun, hfold s.harbourList (List.nodup_range.filter _) s rfl hstall, if_pos hmem]

theorem retireOne_reg (s : State) (h : Nat) (r : Running) (c : Cmd) (status detail : Nat) {a : Reg} (n : Nat) (hlt : a.sub < 256)
    (h7 : a.sub ≠ 7) (h8 : a.sub ≠ 8) : (retireOne s h r c status detail).reg a n = s.reg a n := by
  have hcommands (t : State) (m : Nat) : (t.count Reg.engCommands m 64).reg a n = t.reg a n :=
    State.reg_count_other _ _ _ (Reg.key_ne_of_sub (by decide) hlt (fun e => h8 e.symm) _ _)
  have hhalt (t : State) (e q : Nat) : (haltQueue t h e q).reg a n = t.reg a n :=
    State.reg_setReg_other _ _ (Reg.key_ne_of_sub (by decide) hlt (fun e => h7 e.symm) _ _)
  unfold retireOne
  dsimp only
  split
  · rw [hhalt, hcommands]
    split <;> split <;> rfl
  · rw [hcommands]
    split <;> split <;> rfl

theorem idleCtx_reg (s : State) (h k : Nat) {a : Reg} (n : Nat) (hlt : a.sub < 256) (h5 : a.sub ≠ 5) :
    (idleCtx s h k).reg a n = s.reg a n :=
  State.reg_count_other _ _ _ (Reg.key_ne_of_sub (by decide) hlt (fun e => h5 e.symm) _ _)

/-- A retire writes no register but the counts of its command and routine and the halt of its queue. -/
theorem retire_reg (s : State) (h e q : Nat) (r : Running) {a : Reg} (n : Nat) (hlt : a.sub < 256) (h5 : a.sub ≠ 5) (h7 : a.sub ≠ 7)
    (h8 : a.sub ≠ 8) : (retire s h e q r).reg a n = s.reg a n := by
  have hown : (ownRetire s h e q r).reg a n = s.reg a n := by
    rw [ownRetire, idleCtx_reg _ _ _ n hlt h5, retireOne_reg _ _ _ _ _ _ n hlt h7 h8, State.reg_of_regs (freeScratch_dropKernel_regs s h e q)]
  unfold retire
  dsimp only
  split
  · exact hown
  · rw [State.reg_count_other _ _ _ (Reg.key_ne_of_sub (by decide) hlt (fun e => h5 e.symm) _ _), retireOne_reg _ _ _ _ _ _ n hlt h7 h8]
    exact hown
  · exact hown

/-! ### A restart -/

theorem restartWork_regs (s : State) (h e q : Nat) : (restartWork s h e q).regs = s.regs := by
  unfold restartWork
  split
  · rfl
  · split
    · rfl
    · exact (modRunning_regs ..).trans (freeScratch_dropKernel_regs ..)

/-- The context of a routine that starts again. -/
def restartedCtx (s : State) (h k : Nat) (c : Ctx) : Ctx :=
  let rom := s.reg Reg.seqRomId
  let word := Config.dispatchEntry rom c.opcode
  let entry := if word.getLsbD (if 8 ≤ k then 11 else maskBit c.engine) then word.toNat % 2048
    else (Config.refusalEntry rom).toNat % 2048
  { Ctx.idle with state := 1, opcode := c.opcode, addr := entry, engine := c.engine, queue := c.queue, restarts := c.restarts + 1,
                  next := s.reg Reg.engGroupCycles h }

theorem dispatch_ctx (s : State) (h k op bit' e q : Nat) : ((dispatch s h k op bit' e q).harbour h).ctx k =
    let rom := s.reg Reg.seqRomId
    let word := Config.dispatchEntry rom op
    let entry := if word.getLsbD bit' then word.toNat % 2048 else (Config.refusalEntry rom).toNat % 2048
    { Ctx.idle with state := 1, opcode := op, addr := entry, engine := e, queue := q, next := s.reg Reg.engGroupCycles h } := by
  unfold dispatch
  dsimp only
  rw [State.harbour_modHarbour]
  exact tabGet_tabSet_same ..

theorem restartRoutine_ctx (s : State) (h k : Nat) (c : Ctx) : ((restartRoutine s h k c).harbour h).ctx k = restartedCtx s h k c := by
  have hregs : (if 8 ≤ k then s else restartWork s h c.engine c.queue).regs = s.regs := by
    split
    · rfl
    · exact restartWork_regs ..
  unfold restartRoutine
  dsimp only
  rw [setCtx_ctx, dispatch_ctx]
  dsimp only
  rw [State.reg_of_regs hregs, State.reg_of_regs hregs]
  rfl

theorem restartRoutine_regs (s : State) (h k : Nat) (c : Ctx) : (restartRoutine s h k c).regs = s.regs := by
  unfold restartRoutine
  dsimp only
  rw [setCtx_regs, dispatch_regs]
  split
  · rfl
  · exact restartWork_regs ..

theorem stallFor_harbour (s : State) (h n : Nat) : (stallFor s h n).harbour h = s.harbour h := by
  have hadvance (t : State) : (t.advance (2 * n)).harbour h = t.harbour h := by
    rw [State.harbour, (t.advance_keeps _).2.2.2]; rfl
  unfold stallFor
  dsimp only
  rw [State.harbour_modHarbour, hadvance, State.harbour_modHarbour]

theorem stallFor_cycle (s : State) (h n : Nat) : (stallFor s h n).clocks.cycle = s.clocks.cycle + 2 * n := by
  have hadvance (t : State) : (t.advance (2 * n)).clocks.cycle = t.clocks.cycle + 2 * n := by
    have := t.runTo_cycle (t.clocks.cycle + 2 * n)
    rw [State.runTo, Nat.add_sub_cancel_left] at this
    omega
  exact hadvance _

theorem stallFor_stalls {s : State} (honline : s.mode.online = true) {h : Nat} (hh : s.hasHarbour h = true) (n : Nat) :
    (stallFor s h n).reg Reg.engStallCycles h = (s.reg Reg.engStallCycles h + n) % 2 ^ 64 := by
  have hcycles (c : Nat) : harbourCycles c (2 * n) = n := by unfold harbourCycles; omega
  have hstalled := State.advance_stalled (s := s.modHarbour h fun x => { x with stalled := true }) honline hh
    (by rw [State.harbour_modHarbour]) (2 * n)
  rw [hcycles] at hstalled
  exact hstalled

/-- The group of a count of restarts: the state and the mode of the harbour's queues are the same. -/
theorem count_seqRestarts (s : State) (h : Nat) : (s.count Reg.seqRestarts h 64).mode = s.mode ∧
    (∀ g, (s.count Reg.seqRestarts h 64).lockstep g = s.lockstep g) ∧ ∀ k c, restartedCtx (s.count Reg.seqRestarts h 64) h k c = restartedCtx s h k c := by
  have hother (r : Reg) (n : Nat) (hlt : r.sub < 256) (hne : r.sub ≠ 4) : (s.count Reg.seqRestarts h 64).reg r n = s.reg r n :=
    State.reg_count_other _ _ _ (Reg.key_ne_of_sub (by decide) hlt (fun e => hne e.symm) _ _)
  have hgroup : (s.count Reg.seqRestarts h 64).reg Reg.engGroupCycles h = s.reg Reg.engGroupCycles h :=
    State.reg_count_other _ _ _ (by simp only [Reg.key, Reg.seqRestarts, Reg.engGroupCycles]; omega)
  refine ⟨?_, fun g => ?_, fun k c => ?_⟩
  · simp only [State.mode, hother Reg.idState 0 (by decide) (by decide)]
  · simp only [State.lockstep, State.strict, State.flag, hother Reg.detStrict 0 (by decide) (by decide),
      hother Reg.engQueueMode g (by decide) (by decide)]
  · simp only [restartedCtx, hgroup, hother Reg.seqRomId 0 (by decide) (by decide)]

section
variable {s : State} {h k : Nat} (hlive : ((s.harbour h).ctx k).state ≠ 0) (hcommit : ((s.harbour h).ctx k).commit = false)
include hlive hcommit

/-- The seventh restart in a row was the last that starts the routine again. -/
theorem restart_aborts (hlast : 7 ≤ ((s.harbour h).ctx k).restarts) : restart s h k = abortCommand (s.count Reg.seqRestarts h 64) h k := by
  unfold restart
  dsimp only
  rw [if_neg (by simp [hlive, hcommit]), if_pos (by omega)]

theorem restart_starts (hmore : ((s.harbour h).ctx k).restarts < 7) (hqueue : 8 ≤ k ∨ s.lockstep h = false) :
    restart s h k = restartRoutine (s.count Reg.seqRestarts h 64) h k ((s.harbour h).ctx k) := by
  have hnot : ¬ (k < 8 ∧ (s.count Reg.seqRestarts h 64).lockstep h = true) := by
    rw [(count_seqRestarts s h).2.1]
    rintro ⟨hlow, hlock⟩
    rcases hqueue with hk | hq
    · omega
    · rw [hq] at hlock; exact Bool.false_ne_true hlock
  unfold restart
  dsimp only
  rw [if_neg (by simp [hlive, hcommit]), if_neg (by omega), if_neg hnot]

theorem restart_stalls (hmore : ((s.harbour h).ctx k).restarts < 7) (hk : k < 8) (hlock : s.lockstep h = true) :
    restart s h k = stallFor (setCtx (s.count Reg.seqRestarts h 64) h k
      { (s.harbour h).ctx k with restarts := ((s.harbour h).ctx k).restarts + 1, awaits := none }) h (4 * (((s.harbour h).ctx k).issued + 1)) := by
  unfold restart
  dsimp only
  rw [if_neg (by simp [hlive, hcommit]), if_neg (by omega), if_pos ⟨hk, by rw [(count_seqRestarts s h).2.1]; exact hlock⟩]

end

theorem abortCommand_reg (s : State) (h k : Nat) {a : Reg} (n : Nat) (hlt : a.sub < 256) (h5 : a.sub ≠ 5) (h7 : a.sub ≠ 7)
    (h8 : a.sub ≠ 8) : (abortCommand s h k).reg a n = s.reg a n := by
  unfold abortCommand
  dsimp only
  split
  · rfl
  · split
    · exact retire_reg _ _ _ _ _ n hlt h5 h7 h8
    · rfl

theorem stallFor_reg (s : State) (h n : Nat) {r : Reg} {m : Nat} (hgroup : ∀ g < 16, Reg.engGroupCycles.key g ≠ r.key m)
    (hstall : ∀ g < 16, Reg.engStallCycles.key g ≠ r.key m) : (stallFor s h n).reg r m = s.reg r m :=
  State.advance_reg (s.modHarbour h fun x => { x with stalled := true }) (2 * n) hgroup hstall

/-- Every restart counts. -/
theorem restart_counts {s : State} {h k : Nat} (hlive : ((s.harbour h).ctx k).state ≠ 0) (hcommit : ((s.harbour h).ctx k).commit = false) :
    (restart s h k).reg Reg.seqRestarts h = (s.reg Reg.seqRestarts h + 1) % 2 ^ 64 := by
  have hcount := s.reg_count_same Reg.seqRestarts h 64 1
  rw [← hcount]
  unfold restart
  dsimp only
  rw [if_neg (by simp [hlive, hcommit])]
  split
  · exact abortCommand_reg _ h k h (by decide) (by decide) (by decide) (by decide)
  · split
    · refine stallFor_reg _ h _ (fun g hg => ?_) (fun g _ => Reg.key_ne_of_sub (by decide) (by decide) (by decide) _ _)
      simp only [Reg.key, Reg.engGroupCycles, Reg.seqRestarts]
      omega
    · exact State.reg_of_regs (restartRoutine_regs ..) _ _

/-- Status and detail of a completion record. -/
theorem completionRecord_outcome (op h e q status tag group detail : Nat) (hstatus : status < 2 ^ 8) (hdetail : detail < 2 ^ 32) :
    ((completionRecord op h e q status tag group detail).extractLsb' 96 8).toNat = status ∧
    ((completionRecord op h e q status tag group detail).extractLsb' 0 32).toNat = detail := by
  refine ⟨?_, ?_⟩
  · rw [extractLsb'_field, completionRecord, show 96 = 32 + (48 + (16 + 0)) from rfl, field_append_high, field_append_high, field_append_high,
      field_append_low, BitVec.toNat_ofNat, Nat.mod_eq_of_lt hstatus]
  · rw [extractLsb'_field, completionRecord, field_append_low, BitVec.toNat_ofNat, Nat.mod_eq_of_lt hdetail]

/-- The command of an aborted routine is gone, and its record is in the completion ring. -/
theorem abortCommand_completes {s : State} {h k : Nat} (hk : k < 8) {r : Running}
    (hrun : (s.harbour h).runningAt ((s.harbour h).ctx k).engine ((s.harbour h).ctx k).queue = some r) (hlist : r.listCmd = none)
    (hroom : (s.harbour h).completions.length < 1024) :
    ((abortCommand s h k).harbour h).runningAt ((s.harbour h).ctx k).engine ((s.harbour h).ctx k).queue = none ∧
      ∃ x, ((abortCommand s h k).harbour h).completions = (s.harbour h).completions ++ [x] ∧ (x.extractLsb' 96 8).toNat = 4 ∧
        (x.extractLsb' 0 32).toNat = 0 := by
  generalize hc : (s.harbour h).ctx k = c at hrun ⊢
  have heq : abortCommand s h k =
      retire (dropItems s h c.engine c.queue) h c.engine c.queue { r with finished := true, status := 4, detail := 0 } := by
    unfold abortCommand
    dsimp only
    rw [if_neg (by omega), hc, hrun]
  have hring : ((dropItems s h c.engine c.queue).harbour h).completions = (s.harbour h).completions := by
    rw [dropItems, State.harbour_modHarbour]
  rw [heq]
  generalize dropItems s h c.engine c.queue = u at hring ⊢
  generalize hr : ({ r with finished := true, status := 4, detail := 0 } : Running) = r'
  have hlist' : r'.listCmd = none := by rw [← hr]; exact hlist
  refine ⟨runningAt_retire_alone u h c.engine c.queue hlist', ?_⟩
  obtain ⟨_, hretired, -⟩ := retire_eq u h c.engine c.queue (.inl hlist')
  obtain ⟨_, _, _, _, hown⟩ := ownRetire_harbour u h c.engine c.queue r'
  have hstatus : r'.status = 4 ∧ r'.detail = 0 := by rw [← hr]; exact ⟨rfl, rfl⟩
  obtain ⟨hstat, hdet⟩ := completionRecord_outcome (cmdOpcode r'.cmd) h r'.engine r'.queue 4 (cmdTag r'.cmd) (u.reg Reg.engGroupCycles h) 0
    (by decide) (by decide)
  refine ⟨_, ?_, hstat, hdet⟩
  rw [hretired, hown]
  show retiredRing u h r' r'.cmd r'.status r'.detail = _
  rw [hstatus.1, hstatus.2, retiredRing, if_pos (by simp), ringWith, hring, if_pos hroom]
  rfl

/-! ### O40 -/

/-- A word that the checks of its issue stop raises its machine check. -/
theorem issueWord_checked {u : State} {i : MicroIssue} {w : BitVec 24} {n : BitVec 144} {cause store : Nat}
    (hcheck : issueCheck u ((u.harbour i.h).ctx i.ctx) w n i.check = some (cause, store)) :
    issueWord u i w n = bellowsCheck u i.h i.ctx cause store (microNano w) := by
  unfold issueWord
  dsimp only
  rw [hcheck]

/-- An effect that wants the commit point is refused before it. -/
theorem issueCheck_early {s : State} {c : Ctx} {w : BitVec 24} {n : BitVec 144} (hrange : microNano w < 448) (hsound : patchBroken s c w = none)
    (halu : nanoF n 138 6 = 0) (hneeds : needsCommit n = true) (hc : c.commit = false) (hw : microCommit w = false) :
    issueCheck s c w n .clean = some (6, 15) := by
  simp [issueCheck, hsound, show ¬ 448 ≤ microNano w by omega, halu, hneeds, hc, hw]

/-- Settles O40: a check raised in the slot is the harbour's machine check, and a restart is one of three. -/
theorem bellowsChecksAndRestarts : Obligations.BellowsChecksAndRestarts := by
  unfold Obligations.BellowsChecksAndRestarts
  refine ⟨?_, ?_⟩
  · intro s u i hh hk hoff hu c w hlive hrange raised
    obtain ⟨hslot, -, -⟩ := issueSlot_some hu
    have hlt := hasHarbour_lt hh
    have hoff' : u.mode ≠ .off := by rw [hslot.mode]; exact hoff
    have hraise {r : Instr} {n cause store : Nat} (hr : exec r s = seqRow n i s) (hseq : microSeq w = n) (v : State)
        (hword : issueWord u i w (nanoWord u w i) = v) (hcause : cause < 16) (hstore : store < 16)
        (hv : CheckRaised u v i.h i.ctx cause store (microNano w) c) : raised r cause store := by
      have hrow : exec r s = done s v := by
        rw [hr, seqRow_in_slot hh hk hu hlive hseq]
        exact congrArg (done s) hword
      show ∃ t x, exec r s = _ ∧ _
      rw [hrow]
      exact raised_of_check hslot hlt hk hcause hstore (by omega) hv
    have hfetch {r : Instr} {cause store : Nat} (hr : exec r s = seqRow 0 i s) (hseq : microSeq w = 0)
        (hcheck : issueCheck u c w (nanoWord u w i) i.check = some (cause, store)) (hcause : cause < 16) (hstore : store < 16) :
        raised r cause store :=
      hraise hr hseq _ (issueWord_checked hcheck) hcause hstore (bellowsCheck_raised hoff' hlt i.ctx cause store _)
    refine ⟨fun hseq hcheck => hfetch rfl hseq (by rw [hcheck]; rfl) (by decide) (by split <;> decide),
      fun hseq hcheck => hfetch rfl hseq (by rw [hcheck]; rfl) (by decide) (by split <;> decide),
      fun hseq hcheck => hfetch rfl hseq (by rw [hcheck]; rfl) (by decide) (by decide),
      fun hseq hcheck => hfetch rfl hseq (by rw [hcheck]; rfl) (by decide) (by decide),
      fun _ hseq hcheck => hfetch rfl hseq (by rw [hcheck]; rfl) (by decide) (by decide), fun hclean hsound => ?_⟩
    have hsequence {r : Instr} {n cause : Nat} (hr : exec r s = seqRow n i s) (hseq : microSeq w = n) (hnano : nanoWord u w i = 0#144)
        (hnext : sequence (issuedCtx c w) w i.cond = .check cause) (hcause : cause < 16) : raised r cause 15 := by
      have hword : issueWord u i w (nanoWord u w i) = bellowsCheck (setCtx u i.h i.ctx (issuedCtx c w)) i.h i.ctx cause 15 (microNano w) := by
        rw [hnano, issueWord_zero hclean hrange hsound]
        dsimp only
        rw [hnext]
      have hcheck := bellowsCheck_raised (s := setCtx u i.h i.ctx (issuedCtx c w)) hoff' hlt i.ctx cause 15 (microNano w)
      rw [setCtx_ctx] at hcheck
      exact hraise hr hseq _ hword hcause (by decide) hcheck
    refine ⟨fun hseq hnano hc hw => hfetch rfl hseq ?_ (by decide) (by decide),
      fun hnano hseq hf => hsequence rfl hseq hnano (sequence_jumpP_outside hseq hf) (by decide),
      fun hnano hseq hstack => hsequence rfl hseq hnano (sequence_call_full hseq hstack) (by decide),
      fun hnano hseq hstack => hsequence rfl hseq hnano (sequence_return_empty hseq hstack) (by decide)⟩
    rw [hnano, hclean]
    exact issueCheck_early hrange hsound (by decide) (by decide) hc hw
  · intro s h k hh hk c
    have hexec : exec (.routineRestart h k) s = done s (restart s h k) := by
      show onUnit _ s (restart s h k) = _
      rw [onUnit_present _ _ (by simp [hh, hk])]
      rfl
    refine ⟨fun hidle => ?_, fun hlive hcommit => ?_⟩
    · have hsame : restart s h k = s := if_pos hidle
      rw [hexec, hsame]
      rfl
    · rw [hexec]
      refine ⟨_, rfl, restart_counts hlive hcommit, fun hmore hqueue => ?_, fun hmore hlow hlock honline => ?_, fun hlast hhigh => ?_,
        fun hlast hlow r hrun hlist hroom => ?_⟩
      · show ((restart s h k).harbour h).ctx k = restartedCtx s h k c
        rw [restart_starts hlive hcommit hmore hqueue, restartRoutine_ctx, (count_seqRestarts s h).2.2]
      · show ((restart s h k).harbour h).ctx k = _ ∧ ((restart s h k).harbour h).stalled = _ ∧ (restart s h k).clocks.cycle = _ ∧
          (restart s h k).reg Reg.engStallCycles h = _
        rw [restart_stalls hlive hcommit hmore hlow hlock]
        generalize hy : ({ c with restarts := c.restarts + 1, awaits := none } : Ctx) = y
        have honline' : (setCtx (s.count Reg.seqRestarts h 64) h k y).mode.online = true := by
          show (s.count Reg.seqRestarts h 64).mode.online = true
          rw [(count_seqRestarts s h).1]; exact honline
        have hwas : (setCtx (s.count Reg.seqRestarts h 64) h k y).reg Reg.engStallCycles h = s.reg Reg.engStallCycles h :=
          State.reg_count_other _ _ _ (Reg.key_ne_of_sub (by decide) (by decide) (by decide) _ _)
        have hstalls := stallFor_stalls honline' (h := h) hh (4 * (c.issued + 1))
        rw [hwas] at hstalls
        rw [stallFor_harbour, setCtx_ctx, setCtx_harbour]
        refine ⟨rfl, rfl, (stallFor_cycle ..).trans ?_, hstalls⟩
        show s.clocks.cycle + 2 * (4 * (c.issued + 1)) = _
        omega
      · show ((restart s h k).harbour h).ctx k = _
        rw [restart_aborts hlive hcommit hlast, abortCommand, if_pos hhigh, setCtx_ctx]
      · show ((restart s h k).harbour h).runningAt _ _ = none ∧ ∃ x, ((restart s h k).harbour h).completions = _ ∧ _
        rw [restart_aborts hlive hcommit hlast]
        exact abortCommand_completes (s := s.count Reg.seqRestarts h 64) hlow hrun hlist hroom

end Sys2Proof.Machine
end

section
/-! SUPPORT. FLT_LOG_CLEAR, BIST and the test port (R382 to R386, R409). -/

namespace Sys2Proof.Machine

/-! ### FLT_LOG_CLEAR -/

/-- The row of FLT_LOG_CLEAR in the table of objects. -/
def fltLogClearRow : ObjRow := ⟨Reg.fltLogClear, 1, 1, .unsigned 1, .wo, .range 1 1⟩

theorem fltLogClearRow_mem : fltLogClearRow ∈ objRows := by decide +kernel

theorem fltLogClear_writes {s : State} (h : s.mode.online = true ∨ s.mode = .faulted) :
    exec (.fltLogClear [1#8]) s = done s ((logClear s).emit (.status 0)) := by
  have hoff : s.mode ≠ .off := by rintro hoff; rw [hoff] at h; simp [Mode.online, Mode.flows] at h
  have hfound : findObject s 0x3C00 0x02 = .object fltLogClearRow := findObject_of_mem fltLogClearRow_mem (by decide) rfl
  have hstate : writeState s fltLogClearRow = scOk := if_pos (h.imp_right fun hf => ⟨hf, rfl⟩)
  have howner : ownerWrite (standingInputs s) fltLogClearRow.reg (fltLogClearRow.unit 0x3C00) (0x02 - fltLogClearRow.reg.sub) (leNat [1#8]) s =
      (scOk, logClear s) := rfl
  exact congrArg (done s) (hostWrites_accepted hoff hfound rfl hstate rfl rfl howner)

/-- The log with its errors cleared, before its EMCY. -/
def logEmptied (s : State) : State :=
  let s := { s with faults := { s.faults with log := [] } }
  if s.mode = .faulted then s else s.setReg Reg.errorRegister 0 0

theorem logEmptied_shows (s : State) : (logEmptied s).faults.log = [] ∧ (logEmptied s).links = s.links ∧
    (s.mode ≠ .faulted → (logEmptied s).reg Reg.errorRegister = 0) ∧
    ∀ (r : Reg) (n : Nat), Reg.errorRegister.key 0 ≠ r.key n → (logEmptied s).reg r n = s.reg r n := by
  unfold logEmptied
  dsimp only
  rw [show ({ s with faults := { s.faults with log := [] } } : State).mode = s.mode from rfl]
  split
  · next hf => exact ⟨rfl, rfl, fun h => absurd hf h, fun _ _ _ => rfl⟩
  · exact ⟨rfl, rfl, fun _ => State.reg_setReg_same .., fun r n h => State.reg_setReg_other _ _ h⟩

/-- An EMCY with code 0 leaves 0x1001. -/
theorem State.emcy_errorRegister_zero {s : State} {e : Event} (h : e.code = 0) : (s.emcy e).reg Reg.errorRegister = s.reg Reg.errorRegister := by
  have hpushed : (((s.log e).setReg Reg.errorRegister 0 ((s.log e).reg Reg.errorRegister)).pushErrorField e.code e.unit).reg Reg.errorRegister =
      s.reg Reg.errorRegister := by
    rw [State.pushErrorField_reg _ _ _ _ _ (by decide), State.reg_setReg_same, State.reg_of_regs (State.log_regs s e)]
  have hbit : emcyBit e.code = none := by rw [h]; rfl
  unfold State.emcy
  rw [hbit]
  dsimp only
  generalize ((s.log e).setReg Reg.errorRegister 0 _).pushErrorField e.code e.unit = t at hpushed ⊢
  split
  · exact hpushed
  · rw [State.reg_count_other _ _ _ (by decide)]
    exact hpushed

theorem State.log_alone {s : State} (h : s.faults.log = []) (e : Event) :
    (s.log e).faults.log = [logRecord s.beat.n e.code e.unit e.cls e.kind e.loc e.detail] := by
  simp [State.log, h]

theorem logClear_shows (s : State) : ∃ y, (logClear s).faults.log = [y] ∧ (y.extractLsb' 64 16).toNat = 0 ∧
    (s.mode ≠ .faulted → (logClear s).reg Reg.errorRegister = 0) ∧ (logClear s).reg Reg.fltTransient = s.reg Reg.fltTransient ∧
    (logClear s).reg Reg.fltIntermittent = s.reg Reg.fltIntermittent ∧ (logClear s).reg Reg.fltPersistent = s.reg Reg.fltPersistent ∧
    (s.links.emcys.length < 32 → ∃ e, (logClear s).links.emcys = s.links.emcys ++ [e] ∧ e.code = 0) := by
  have hclear : logClear s = (logEmptied s).emcy { code := 0 } := rfl
  obtain ⟨hlog, hlinks, hregister, hregs⟩ := logEmptied_shows s
  rw [hclear]
  generalize logEmptied s = t at *
  have hcode := logRecord_fields t.beat.n (code := 0) (unit := 0xFF) (kind := 0) 0 0 0 (by decide) (by decide) (by decide)
  simp only [Prod.mk.injEq] at hcode
  have hkeep (r : Reg) (h1 : Reg.errorRegister.key 0 ≠ r.key 0) (h2 : ∀ k < 16, (Reg.errorField.at k).key 0 ≠ r.key 0)
      (h3 : Reg.canEmcyLost.key 0 ≠ r.key 0) : (t.emcy { code := 0 }).reg r = s.reg r := by
    rw [State.emcy_reg _ _ _ _ h1 h2 h3, hregs r 0 h1]
  refine ⟨_, ?_, (extractLsb'_field ..).trans hcode.1, fun hmode => ?_, hkeep _ (by decide) (by decide) (by decide),
    hkeep _ (by decide) (by decide) (by decide), hkeep _ (by decide) (by decide) (by decide), fun hroom => ?_⟩
  · rw [State.emcy_faults]
    exact State.log_alone hlog _
  · rw [State.emcy_errorRegister_zero rfl, hregister hmode]
  · rw [← hlinks] at hroom ⊢
    obtain ⟨r, hr⟩ := State.emcy_queue t { code := 0 } hroom
    exact ⟨_, hr, rfl⟩

/-! ### The start of a BIST -/

/-- The row of BIST_START in the table of objects. -/
def bistStartRow : ObjRow := ⟨Reg.bistStart, 1, 1, .unsigned 2, .wo, .mask 0x3FF⟩

theorem bistStartRow_mem : bistStartRow ∈ objRows := by decide +kernel

theorem startBist_writes {s t : State} {u kind c : Nat} (honline : s.mode.online = true) (hu : u < 256) (hkind : kind < 4)
    (h : bistStartWrite (u + 256 * kind) s = (c, t)) : startBist u kind s = done s ((countRefusal (c, t)).2.emit (.status c)) := by
  have hoff : s.mode ≠ .off := by rintro hoff; rw [hoff] at honline; exact Bool.false_ne_true honline
  have hfound : findObject s 0x3E00 0x02 = .object bistStartRow := findObject_of_mem bistStartRow_mem (by decide) rfl
  have hvalue : leNat (leBytes 2 (u + 256 * kind)) = u + 256 * kind := by rw [leNat_leBytes]; omega
  have hcheck : bistStartRow.check.ok bistStartRow (leNat (leBytes 2 (u + 256 * kind))) = true := by
    rw [hvalue]
    have hmask : (u + 256 * kind) &&& 0x3FF = u + 256 * kind := by
      rw [show 0x3FF = 2 ^ 10 - 1 by decide, Nat.and_two_pow_sub_one_eq_mod]
      omega
    exact beq_iff_eq.mpr hmask
  have howner : ownerWrite (standingInputs s) bistStartRow.reg (bistStartRow.unit 0x3E00) (0x02 - bistStartRow.reg.sub)
      (leNat (leBytes 2 (u + 256 * kind))) s = (c, t) := by
    rw [hvalue]
    exact h
  unfold startBist writeOn
  rw [onUnit_present _ _ (by simpa using hu)]
  exact congrArg (done s) (hostWrites_number hoff hfound rfl (if_pos (.inl honline)) rfl hcheck howner)

theorem bistStartWrite_eq (s : State) {u : Nat} (kind : Nat) (hu : u < 256) : bistStartWrite (u + 256 * kind) s =
    if 80 ≤ u ∨ kind = 0 then (scValue, s)
    else if u < 64 ∧ !s.hasIsland u ∧ kind ≠ 1 then (scValue, s)
    else if bistAllowed s u kind then (scOk, bistStarts s u kind)
    else (scState, s) := by
  have hunit : (u + 256 * kind) % 256 = u := by omega
  have hkind : (u + 256 * kind) / 256 = kind := by omega
  unfold bistStartWrite
  rw [hunit, hkind]

theorem bistStartWrite_noUnit {s : State} {u kind : Nat} (hu : u < 256) (h : 80 ≤ u) : bistStartWrite (u + 256 * kind) s = (scValue, s) := by
  rw [bistStartWrite_eq s kind hu, if_pos (.inl h)]

section
variable {s : State} {u kind : Nat} (hkind : 1 ≤ kind ∧ kind ≤ 3)
include hkind

theorem bistStartWrite_fabric (h : u < 64) (hisland : s.hasIsland u = false) (hlogic : kind ≠ 1) :
    bistStartWrite (u + 256 * kind) s = (scValue, s) := by
  rw [bistStartWrite_eq s kind (by omega), if_neg (by omega), if_pos ⟨h, by simp [hisland], hlogic⟩]

theorem bistStartWrite_refused (h : u < 80) (hvalue : u < 64 → s.hasIsland u = true ∨ kind = 1) (hnot : bistAllowed s u kind = false) :
    bistStartWrite (u + 256 * kind) s = (scState, s) := by
  have hunit : ¬ (u < 64 ∧ (!s.hasIsland u) = true ∧ kind ≠ 1) := by
    rintro ⟨hlow, hisland, hne⟩
    rcases hvalue hlow with hi | hk
    · rw [hi] at hisland; exact Bool.false_ne_true hisland
    · exact hne hk
  rw [bistStartWrite_eq s kind (by omega), if_neg (by omega), if_neg hunit, if_neg (by simp [hnot])]

theorem bistStartWrite_accepted (h : u < 80) (hvalue : u < 64 → s.hasIsland u = true ∨ kind = 1) (hallowed : bistAllowed s u kind = true) :
    bistStartWrite (u + 256 * kind) s = (scOk, bistStarts s u kind) := by
  have hunit : ¬ (u < 64 ∧ (!s.hasIsland u) = true ∧ kind ≠ 1) := by
    rintro ⟨hlow, hisland, hne⟩
    rcases hvalue hlow with hi | hk
    · rw [hi] at hisland; exact Bool.false_ne_true hisland
    · exact hne hk
  rw [bistStartWrite_eq s kind (by omega), if_neg (by omega), if_neg hunit, if_pos hallowed]

end

theorem bistAllowed_busy {s : State} {u kind : Nat} (h : s.reg Reg.bistState ≠ 0) : bistAllowed s u kind = false := by
  simp [bistAllowed, h]

theorem bistAllowed_notHeld {s : State} {u kind : Nat} (h : 64 ≤ u) (hmode : s.mode ≠ .held) : bistAllowed s u kind = false := by
  simp [bistAllowed, h, hmode]

theorem interrupt_faults (s : State) (h k : Nat) (u : FaultUnit) : (interrupt s h k u).faults = s.faults := by
  unfold interrupt
  dsimp only
  split <;> rfl

/-- A BIST that starts runs on its unit; on a harbour its routine stands in context 9. -/
theorem bistStarts_shows (s : State) (u kind : Nat) : (bistStarts s u kind).reg Reg.bistState = 1 ∧ (bistStarts s u kind).reg Reg.bistResult u = 1 ∧
    (bistStarts s u kind).faults.bist = some (u, kind) ∧ (64 ≤ u → (((bistStarts s u kind).harbour (u - 64)).ctx 9).state = 1) := by
  have hregs : ((s.setReg Reg.bistState 0 1).setReg Reg.bistResult u 1).reg Reg.bistState = 1 := by
    rw [State.reg_setReg_other _ _ (Reg.key_ne_of_sub (by decide) (by decide) (by decide) _ _), State.reg_setReg_same]
  unfold bistStarts
  extract_lets t f x h y z
  have hx : x.regs = t.regs ∧ x.faults.bist = some (u, kind) := ⟨rfl, rfl⟩
  clear_value x
  have hy : y.regs = x.regs ∧ y.faults = x.faults :=
    ⟨foldl_keep State.regs _ (fun v k => interrupt_regs v h k _) _ _, foldl_keep State.faults _ (fun v k => interrupt_faults v h k _) _ _⟩
  have hz : z.2.regs = y.regs ∧ z.2.faults = y.faults := ⟨State.fresh_regs .., State.fresh_faults ..⟩
  clear_value y
  by_cases hu : 64 ≤ u
  · rw [if_pos hu]
    refine ⟨?_, ?_, ?_, fun _ => ?_⟩
    · rw [State.reg_of_regs ((dispatch_regs ..).trans (hz.1.trans (hy.1.trans hx.1)))]; exact hregs
    · rw [State.reg_of_regs ((dispatch_regs ..).trans (hz.1.trans (hy.1.trans hx.1)))]; exact State.reg_setReg_same ..
    · show z.2.faults.bist = _
      rw [hz.2, hy.2, hx.2]
    · rw [show u - 64 = h from rfl, dispatch_ctx]
  · rw [if_neg hu]
    refine ⟨?_, ?_, hx.2, fun hhigh => absurd hhigh hu⟩
    · rw [State.reg_of_regs hx.1]; exact hregs
    · rw [State.reg_of_regs hx.1]; exact State.reg_setReg_same ..

/-! ### The end of a BIST -/

/-- What the routines of a harbour leave: the links, the fault logic, and the registers that count no routine, command or cycle. -/
structure RoutineKept (s t : State) : Prop where
  links : t.links = s.links
  faults : t.faults = s.faults
  reg : ∀ (r : Reg) (n : Nat), r.sub < 4 → t.reg r n = s.reg r n

namespace RoutineKept

theorem refl (s : State) : RoutineKept s s := ⟨rfl, rfl, fun _ _ _ => rfl⟩

theorem trans {s t u : State} (h : RoutineKept s t) (k : RoutineKept t u) : RoutineKept s u :=
  ⟨k.links.trans h.links, k.faults.trans h.faults, fun r n hr => (k.reg r n hr).trans (h.reg r n hr)⟩

theorem of_regs {s t : State} (hlinks : t.links = s.links) (hfaults : t.faults = s.faults) (hregs : t.regs = s.regs) : RoutineKept s t :=
  ⟨hlinks, hfaults, fun r n _ => State.reg_of_regs hregs r n⟩

theorem modHarbour (s : State) (h : Nat) (f : Harbour → Harbour) : RoutineKept s (s.modHarbour h f) := of_regs rfl rfl rfl

theorem setReg (s : State) {r : Reg} (n v : Nat) (hlt : r.sub < 256) (hsub : 4 ≤ r.sub) : RoutineKept s (s.setReg r n v) :=
  ⟨rfl, rfl, fun a m ha => State.reg_setReg_other s v (Reg.key_ne_of_sub hlt (by omega) (by omega) n m)⟩

theorem ite {s t u : State} {p : Prop} [Decidable p] (ht : RoutineKept s t) (hu : RoutineKept s u) : RoutineKept s (if p then t else u) := by
  split
  · exact ht
  · exact hu

theorem foldl {α : Type} {f : State → α → State} (hf : ∀ s x, RoutineKept s (f s x)) (l : List α) (s : State) : RoutineKept s (l.foldl f s) :=
  foldl_holds (RoutineKept s) f (fun t x ht => ht.trans (hf t x)) l s (.refl s)

theorem modRunning (s : State) (h e q : Nat) (g : Running → Running) : RoutineKept s (modRunning s h e q g) := of_regs rfl rfl rfl

theorem dropItems (s : State) (h e q : Nat) : RoutineKept s (dropItems s h e q) := of_regs rfl rfl rfl

theorem dropRunning (s : State) (h e q : Nat) : RoutineKept s (dropRunning s h e q) := of_regs rfl rfl rfl

theorem setCtx (s : State) (h k : Nat) (c : Ctx) : RoutineKept s (setCtx s h k c) := of_regs rfl rfl rfl

theorem dispatch (s : State) (h k op bit' e q : Nat) : RoutineKept s (dispatch s h k op bit' e q) := of_regs rfl rfl (dispatch_regs ..)

theorem idleCtx (s : State) (h k : Nat) : RoutineKept s (idleCtx s h k) :=
  (modHarbour s h _).trans (setReg _ _ _ (by decide) (by decide))

theorem freeScratch_dropKernel (s : State) (h e q : Nat) : RoutineKept s (freeScratch (dropKernel s h e) h e q) := by
  have hdrop : RoutineKept s (dropKernel s h e) := ite (modHarbour s h _) (.refl s)
  exact hdrop.trans (ite (modHarbour _ h _) (.refl _))

theorem retireOne (s : State) (h : Nat) (r : Running) (c : Cmd) (status detail : Nat) : RoutineKept s (retireOne s h r c status detail) := by
  unfold Machine.retireOne
  extract_lets t g x u v
  have ht : RoutineKept s t := ite (modHarbour s h _) (.refl s)
  have hu : RoutineKept t u := ite (modHarbour t h _) (.refl t)
  have hv : RoutineKept u v := setReg u _ _ (by decide) (by decide)
  exact ht.trans (hu.trans (hv.trans (ite (setReg v _ _ (by decide) (by decide)) (.refl v))))

theorem retire (s : State) (h e q : Nat) (r : Running) : RoutineKept s (retire s h e q r) := by
  unfold Machine.retire
  extract_lets t u
  have hu : RoutineKept s u := (freeScratch_dropKernel s h e q).trans ((retireOne t h r r.cmd r.status r.detail).trans (idleCtx _ h _))
  split
  · exact hu.trans (modRunning u h e q _)
  · exact hu.trans ((dropRunning u h e q).trans ((retireOne _ h r _ 0 0).trans (setReg _ _ _ (by decide) (by decide))))
  · exact hu.trans (dropRunning u h e q)

theorem abortCommand (s : State) (h k : Nat) : RoutineKept s (abortCommand s h k) := by
  unfold Machine.abortCommand
  dsimp only
  split
  · exact setCtx s h k _
  · split
    · exact (dropItems s h _ _).trans (retire _ h _ _ _)
    · exact setCtx s h k _

theorem restartRoutine (s : State) (h k : Nat) (c : Ctx) : RoutineKept s (restartRoutine s h k c) := by
  have hwork : RoutineKept s (restartWork s h c.engine c.queue) := by
    unfold restartWork
    split
    · exact .refl s
    · split
      · exact .refl s
      · exact (dropItems s h _ _).trans ((freeScratch_dropKernel _ h _ _).trans (modRunning _ h _ _ _))
  unfold Machine.restartRoutine
  exact (ite (.refl s) hwork).trans ((dispatch _ h k _ _ _ _).trans (setCtx _ h k _))

theorem advance (s : State) (n : Nat) : RoutineKept s (s.advance n) := by
  have hrun := s.runTo_rest (s.clocks.cycle + n)
  have hregs (r : Reg) (m : Nat) (hr : r.sub < 4) := s.runTo_reg_of_sub (s.clocks.cycle + n) (r := r) (by omega) (by omega) (by omega) m
  rw [State.runTo, Nat.add_sub_cancel_left] at hrun
  simp only [State.runTo, Nat.add_sub_cancel_left] at hregs
  exact ⟨by rw [hrun], by rw [hrun], hregs⟩

theorem stallFor (s : State) (h n : Nat) : RoutineKept s (stallFor s h n) := by
  unfold Machine.stallFor
  exact (modHarbour s h _).trans ((advance _ (2 * n)).trans (modHarbour _ h _))

theorem restart (s : State) (h k : Nat) : RoutineKept s (restart s h k) := by
  unfold Machine.restart
  extract_lets c t
  have ht : RoutineKept s t := setReg s _ _ (by decide) (by decide)
  refine ite (.refl s) (ht.trans (ite (abortCommand t h k) (ite ?_ (restartRoutine t h k c))))
  exact (setCtx t h k _).trans (stallFor _ h _)

theorem releaseUnit (s : State) (u : FaultUnit) : RoutineKept s (releaseUnit s u) :=
  foldl (fun t k => ite (restart t _ k) (.refl t)) _ s

theorem bistRetires (s : State) (u : Nat) : RoutineKept s (bistRetires s u) :=
  ite ((setReg s _ _ (by decide) (by decide)).trans (releaseUnit _ _)) (.refl s)

end RoutineKept

/-- What a BIST clears has no part in the links, the fault logic and the units of the wafer. -/
theorem bistClears_keeps (s : State) (u : Nat) : (bistClears s u).links = s.links ∧ (bistClears s u).faults = s.faults := by
  have hplanes (l : List PlaneId) : (l.foldl emptyPlane s).links = s.links ∧ (l.foldl emptyPlane s).faults = s.faults :=
    ⟨foldl_keep State.links emptyPlane (fun _ _ => rfl) l s, foldl_keep State.faults emptyPlane (fun _ _ => rfl) l s⟩
  unfold bistClears
  split
  · exact ⟨rfl, rfl⟩
  · split
    · exact hplanes _
    · exact ⟨rfl, rfl⟩

theorem bistClears_hasIsland (s : State) (u i : Nat) : (bistClears s u).hasIsland i = s.hasIsland i := by
  have hcarrier : (bistClears s u).carrier = s.carrier := congrArg (·.2.1) (bistClears_control s u)
  rw [State.hasIsland, hcarrier]
  rfl

/-- The code of a BIST's result (Table 17.7). -/
def bistCode (badLogic badMemory : Bool) : Nat := if badLogic && badMemory then 5 else if badLogic then 3 else if badMemory then 4 else 2

/-- The registers of a BIST's verdict. -/
def bistRegisters (s : State) (u kind : Nat) (logic memory : BitVec 64) (code : Nat) : State :=
  let s := if bit kind 0 then s.setReg Reg.bistMisrLogic u logic.toNat else s
  let s := if bit kind 1 then s.setReg Reg.bistMisrMemory u memory.toNat else s
  s.setReg Reg.bistResult u code

theorem bistRegisters_shows (s : State) (u kind : Nat) (logic memory : BitVec 64) (code : Nat) :
    let t := bistRegisters s u kind logic memory code
    t.links = s.links ∧ t.faults = s.faults ∧ t.reg Reg.bistState = s.reg Reg.bistState ∧ t.reg Reg.bistResult u = code ∧
      (bit kind 0 = true → t.reg Reg.bistMisrLogic u = logic.toNat) ∧ (bit kind 1 = true → t.reg Reg.bistMisrMemory u = memory.toNat) := by
  have hresult (v : State) (r : Reg) (n : Nat) (hlt : r.sub < 256) (hne : r.sub ≠ 1) :
      (v.setReg Reg.bistResult u code).reg r n = v.reg r n :=
    State.reg_setReg_other _ _ (Reg.key_ne_of_sub (by decide) hlt (fun e => hne e.symm) _ _)
  have hmemory (v : State) (r : Reg) (n : Nat) (h : Reg.bistMisrMemory.key u ≠ r.key n) :
      (if bit kind 1 then v.setReg Reg.bistMisrMemory u memory.toNat else v : State).reg r n = v.reg r n := by
    split
    · exact State.reg_setReg_other _ _ h
    · rfl
  have hlogic (v : State) (r : Reg) (n : Nat) (h : Reg.bistMisrLogic.key u ≠ r.key n) :
      (if bit kind 0 then v.setReg Reg.bistMisrLogic u logic.toNat else v : State).reg r n = v.reg r n := by
    split
    · exact State.reg_setReg_other _ _ h
    · rfl
  have hstate : Reg.bistMisrMemory.key u ≠ Reg.bistState.key 0 := by
    simp only [Reg.key, Reg.bistMisrMemory, Reg.bistState]; omega
  unfold bistRegisters
  dsimp only
  refine ⟨?_, ?_, ?_, State.reg_setReg_same .., fun hk => ?_, fun hk => ?_⟩
  · rw [State.setReg_links]; split <;> split <;> rfl
  · rw [State.setReg_faults]; split <;> split <;> rfl
  · rw [hresult _ _ _ (by decide) (by decide), hmemory _ _ _ hstate,
      hlogic _ _ _ (Reg.key_ne_of_sub (by decide) (by decide) (by decide) _ _)]
  · rw [hresult _ _ _ (by decide) (by decide), hmemory _ _ _ (Reg.key_ne_of_sub (by decide) (by decide) (by decide) _ _), if_pos hk]
    exact State.reg_setReg_same ..
  · rw [hresult _ _ _ (by decide) (by decide), if_pos hk]
    exact State.reg_setReg_same ..

theorem State.log_bist (s : State) (e : Event) : (s.log e).faults.bist = s.faults.bist := by
  unfold State.log
  with_reducible rfl

/-- A failing BIST logs its rows and sends its EMCY. -/
def bistReports (u : Nat) (rows : List (Nat × Bool)) (s : State) : State :=
  (if u < 64 then rows.foldl (bistRow u) s else s).emcy { code := 0xFFA0, unit := u }

theorem bistReports_shows (u : Nat) (rows : List (Nat × Bool)) (s : State) :
    (bistReports u rows s).faults.bist = s.faults.bist ∧
      (∀ (r : Reg) (n : Nat), 0x3E00 ≤ r.base → r.sub < 256 → (bistReports u rows s).reg r n = s.reg r n) ∧
      (s.links.emcys.length < 32 → ∃ e, (bistReports u rows s).links.emcys = s.links.emcys ++ [e] ∧ e.code = 0xFFA0 ∧ e.unit = u) := by
  have hrow (t : State) (x : Nat × Bool) : (bistRow u t x).regs = t.regs ∧ (bistRow u t x).links = t.links ∧
      (bistRow u t x).faults.bist = t.faults.bist := ⟨State.log_regs .., State.log_links .., State.log_bist ..⟩
  unfold bistReports
  generalize ht : (if u < 64 then rows.foldl (bistRow u) s else s) = t
  have hkept : t.regs = s.regs ∧ t.links = s.links ∧ t.faults.bist = s.faults.bist := by
    rw [← ht]
    split
    · exact ⟨foldl_keep State.regs _ (fun t x => (hrow t x).1) _ _, foldl_keep State.links _ (fun t x => (hrow t x).2.1) _ _,
        foldl_keep (fun t => t.faults.bist) _ (fun t x => (hrow t x).2.2) _ _⟩
    · exact ⟨rfl, rfl, rfl⟩
  obtain ⟨hregs, hlinks, hbist⟩ := hkept
  refine ⟨?_, fun r n hbase hsub => ?_, fun hroom => ?_⟩
  · rw [State.emcy_faults, State.log_bist, hbist]
  · rw [State.emcy_reg, State.reg_of_regs hregs]
    · simp only [Reg.key, Reg.errorRegister]; omega
    · intro k hk; simp only [Reg.key, Reg.at, Reg.errorField]; omega
    · simp only [Reg.key, Reg.canEmcyLost]; omega
  · rw [← hlinks] at hroom ⊢
    obtain ⟨r, hr⟩ := State.emcy_queue t { code := 0xFFA0, unit := u } hroom
    exact ⟨_, hr, rfl, rfl⟩

/-- A signature of a BIST is not that of the ROM: of the logic, and of the memory. -/
def badLogic (rom : Nat) (s : State) (u kind : Nat) (logic : BitVec 64) : Bool :=
  bit kind 0 && logic != Config.bistSignature rom (decide (u < 64) && !s.hasIsland u) (decide (64 ≤ u)) false

def badMemory (rom : Nat) (s : State) (u kind : Nat) (memory : BitVec 64) : Bool :=
  bit kind 1 && memory != Config.bistSignature rom (decide (u < 64) && !s.hasIsland u) (decide (64 ≤ u)) true

theorem judgeBist_eq (rom : Nat) (s : State) (u kind : Nat) (logic memory : BitVec 64) (rows : List (Nat × Bool)) :
    judgeBist rom s u kind logic memory rows =
      let t := bistRegisters s u kind logic memory (bistCode (badLogic rom s u kind logic) (badMemory rom s u kind memory))
      if badLogic rom s u kind logic || badMemory rom s u kind memory then bistReports u rows t else t := rfl

/-- What a judged BIST shows. -/
theorem judgeBist_shows (rom : Nat) (s : State) (u kind : Nat) (logic memory : BitVec 64) (rows : List (Nat × Bool)) :
    let t := judgeBist rom s u kind logic memory rows
    let bad := badLogic rom s u kind logic || badMemory rom s u kind memory
    t.faults.bist = s.faults.bist ∧ t.reg Reg.bistState = s.reg Reg.bistState ∧
      t.reg Reg.bistResult u = bistCode (badLogic rom s u kind logic) (badMemory rom s u kind memory) ∧
      (bit kind 0 = true → t.reg Reg.bistMisrLogic u = logic.toNat) ∧ (bit kind 1 = true → t.reg Reg.bistMisrMemory u = memory.toNat) ∧
      (bad = true → s.links.emcys.length < 32 → ∃ e, t.links.emcys = s.links.emcys ++ [e] ∧ e.code = 0xFFA0 ∧ e.unit = u) ∧
      (bad = false → t.links = s.links) := by
  intro t bad
  have ht : t = if bad then bistReports u rows _ else _ := judgeBist_eq rom s u kind logic memory rows
  obtain ⟨hlinks, hfaults, hstate, hresult, hlogic, hmemory⟩ :=
    bistRegisters_shows s u kind logic memory (bistCode (badLogic rom s u kind logic) (badMemory rom s u kind memory))
  generalize bistRegisters s u kind logic memory (bistCode (badLogic rom s u kind logic) (badMemory rom s u kind memory)) = v at *
  obtain ⟨hbist, hregs, hemcy⟩ := bistReports_shows u rows v
  rw [hfaults] at hbist
  rw [hlinks] at hemcy
  by_cases hbad : bad = true
  · rw [if_pos hbad] at ht
    rw [ht]
    refine ⟨hbist, ?_, ?_, fun hk => ?_, fun hk => ?_, fun _ => hemcy, fun h => absurd hbad (by simp [h])⟩
    · rw [hregs _ _ (by decide) (by decide), hstate]
    · rw [hregs _ _ (by decide) (by decide), hresult]
    · rw [hregs _ _ (by decide) (by decide), hlogic hk]
    · rw [hregs _ _ (by decide) (by decide), hmemory hk]
  · rw [if_neg hbad] at ht
    rw [ht]
    exact ⟨by rw [hfaults], hstate, hresult, hlogic, hmemory, fun h => absurd h hbad, fun _ => hlinks⟩

/-- The state that a BIST leaves to its judgement. -/
def bistCleared (s : State) (u : Nat) : State := (bistClears { s with faults := { s.faults with bist := none } } u).setReg Reg.bistState 0 0

theorem bistCleared_shows (s : State) (u : Nat) : (bistCleared s u).faults.bist = none ∧ (bistCleared s u).links = s.links ∧
    (bistCleared s u).reg Reg.bistState = 0 ∧ (bistCleared s u).hasIsland u = s.hasIsland u := by
  obtain ⟨hlinks, hfaults⟩ := bistClears_keeps { s with faults := { s.faults with bist := none } } u
  have hisland := bistClears_hasIsland { s with faults := { s.faults with bist := none } } u u
  refine ⟨?_, ?_, State.reg_setReg_same .., hisland⟩
  · rw [bistCleared, State.setReg_faults, hfaults]
  · rw [bistCleared, State.setReg_links, hlinks]

theorem bistEnds_eq {s : State} {u kind : Nat} (hbist : s.faults.bist = some (u, kind)) (hready : 64 ≤ u → bistWaits s (u - 64) = false)
    (logic memory : BitVec 64) (rows : List (Nat × Bool)) : bistEnds s logic memory rows =
      bistRetires (judgeBist (s.reg Reg.seqRomId) (bistCleared s u) u kind logic memory rows) u := by
  have hnot : ¬ (64 ≤ u ∧ bistWaits s (u - 64) = true) := fun ⟨hu, hwaits⟩ => by
    rw [hready hu] at hwaits; exact Bool.false_ne_true hwaits
  unfold bistEnds
  rw [hbist]
  exact if_neg hnot

/-- The code of a result, by what the statement says of the signatures. -/
theorem bistCode_eq {a b : Bool} {p q : Prop} [Decidable p] [Decidable q] (ha : a = true ↔ p) (hb : b = true ↔ q) :
    bistCode a b = if p ∧ q then 5 else if p then 3 else if q then 4 else 2 := by
  simp only [bistCode, Bool.and_eq_true, ha, hb]

/-! ### O59 -/

theorem exec_startBist {s : State} {u kind : Nat} {c : Instr}
    (hc : (kind, c) ∈ [(1, Instr.bistLogic u), (2, .bistMemory u), (3, .bistBoth u)]) : 1 ≤ kind ∧ kind ≤ 3 ∧ exec c s = startBist u kind s := by
  simp only [List.mem_cons, Prod.mk.injEq, List.not_mem_nil, or_false] at hc
  rcases hc with ⟨rfl, rfl⟩ | ⟨rfl, rfl⟩ | ⟨rfl, rfl⟩ <;> exact ⟨by decide, by decide, rfl⟩

/-- The bits of a kind of BIST. -/
theorem bistKind_bits {kind : Nat} (hlow : 1 ≤ kind) (hhigh : kind ≤ 3) : (bit kind 0 = true ↔ kind ≠ 2) ∧ (bit kind 1 = true ↔ kind ≠ 1) := by
  interval_cases kind <;> decide

/-- Settles O59, from what each of the three does to the registers, the log and the queue of EMCYs. -/
theorem logClearBistAndTestPort : Obligations.LogClearBistAndTestPort := by
  unfold Obligations.LogClearBistAndTestPort
  intro s u
  refine ⟨fun hmode => ?_, fun kind c hc honline hu => ?_, fun kind logic memory rows hbist hu hlow hhigh hready => ?_, fun hon => ?_, fun hoff => ?_⟩
  · obtain ⟨y, hlog, hcode, hregister, h1, h2, h3, hemcys⟩ := logClear_shows s
    rw [fltLogClear_writes hmode]
    generalize logClear s = t at *
    exact ⟨_, y, rfl, rfl, hlog, hcode, hregister, h1, h2, h3, hemcys⟩
  · obtain ⟨hlow, hhigh, hexec⟩ := exec_startBist (s := s) hc
    have hkind : 1 ≤ kind ∧ kind ≤ 3 := ⟨hlow, hhigh⟩
    have hwrite {d : Nat} {t : State} (h : bistStartWrite (u + 256 * kind) s = (d, t)) :
        exec c s = done s ((countRefusal (d, t)).2.emit (.status d)) := hexec.trans (startBist_writes honline hu (by omega) h)
    refine ⟨fun h => hwrite (bistStartWrite_noUnit hu h), fun h hisland hne => hwrite (bistStartWrite_fabric hkind h hisland hne),
      fun h hlow hvalue hbusy => hwrite (bistStartWrite_refused hkind h (fun _ => hvalue) (bistAllowed_busy hbusy)),
      fun h hlt hmode => hwrite (bistStartWrite_refused hkind hlt (fun hlow => by omega) (bistAllowed_notHeld h hmode)),
      fun hidle hcond => ?_⟩
    have hallowed : u < 80 ∧ (u < 64 → s.hasIsland u = true ∨ kind = 1) ∧ bistAllowed s u kind = true := by
      rcases hcond with ⟨h, hisland, hon, hplanes⟩ | ⟨h, hisland, hone⟩ | ⟨h, hlt, hmode, hon, hharbour⟩
      · refine ⟨by omega, fun _ => .inl hisland, ?_⟩
        have hall : ((planesWithTile s u).all fun x => s.planeState x.1 x.2 == 0 || s.planeState x.1 x.2 == 6) = true :=
          List.all_eq_true.mpr fun x hx => by simpa using hplanes x hx
        simp [bistAllowed, hidle, show ¬ 64 ≤ u by omega, hisland, honline, hon, hall]
      · exact ⟨by omega, fun _ => .inr hone, by simp [bistAllowed, hidle, show ¬ 64 ≤ u by omega, hisland, honline, hone]⟩
      · exact ⟨hlt, fun hlow => by omega, by simp [bistAllowed, hidle, h, hmode, hon, hharbour]⟩
    obtain ⟨hlt, hvalue, hok⟩ := hallowed
    rw [hwrite (bistStartWrite_accepted hkind hlt hvalue hok)]
    have hshows := bistStarts_shows s u kind
    generalize bistStarts s u kind = t at *
    exact ⟨_, rfl, rfl, hshows⟩
  · obtain ⟨hbit0, hbit1⟩ := bistKind_bits hlow hhigh
    intro rom fabric badL badM
    obtain ⟨hnone, hlinks, hstate, hisland⟩ := bistCleared_shows s u
    have hbadL : badLogic rom (bistCleared s u) u kind logic = true ↔ badL := by
      simp only [badLogic, hisland, Bool.and_eq_true, bne_iff_ne, hbit0]; rfl
    have hbadM : badMemory rom (bistCleared s u) u kind memory = true ↔ badM := by
      simp only [badMemory, hisland, Bool.and_eq_true, bne_iff_ne, hbit1]; rfl
    have hexec : exec (.bistComplete logic memory rows) s =
        done s (bistRetires (judgeBist rom (bistCleared s u) u kind logic memory rows) u) := congrArg (done s) (bistEnds_eq hbist hready _ _ _)
    have hkept := RoutineKept.bistRetires (judgeBist rom (bistCleared s u) u kind logic memory rows) u
    obtain ⟨hjudged, hjstate, hjresult, hjlogic, hjmemory, hjbad, hjgood⟩ := judgeBist_shows rom (bistCleared s u) u kind logic memory rows
    rw [hexec]
    rw [hlinks] at hjbad hjgood
    refine ⟨_, rfl, ?_, ?_, ?_, fun hk => ?_, fun hk => ?_, fun hbad hroom => ?_, fun hgoodL hgoodM => ?_⟩
    · show (bistRetires _ u).faults.bist = none
      rw [hkept.faults, hjudged, hnone]
    · exact (hkept.reg Reg.bistState 0 (by decide)).trans (hjstate.trans hstate)
    · exact (hkept.reg Reg.bistResult u (by decide)).trans (hjresult.trans (bistCode_eq hbadL hbadM))
    · exact (hkept.reg Reg.bistMisrLogic u (by decide)).trans (hjlogic (hbit0.mpr hk))
    · exact (hkept.reg Reg.bistMisrMemory u (by decide)).trans (hjmemory (hbit1.mpr hk))
    · show ∃ e, (bistRetires _ u).links.emcys = _ ∧ _
      rw [hkept.links]
      exact hjbad (by rw [Bool.or_eq_true, hbadL, hbadM]; exact hbad) hroom
    · show (bistRetires _ u).links.emcys = _
      rw [hkept.links, hjgood]
      rw [Bool.or_eq_false_iff, Bool.eq_false_iff, Bool.eq_false_iff, Ne, Ne, hbadL, hbadM]
      exact ⟨hgoodL, hgoodM⟩
  · have hanswers (bits v : Nat) : tapAnswers s bits v = s.emit (.jtag bits v) := if_neg hon
    exact ⟨congrArg (done s) (hanswers _ _), fun tdi => congrArg (done s) (hanswers _ _)⟩
  · have hanswers (bits v : Nat) : tapAnswers s bits v = s := if_pos hoff
    exact ⟨congrArg (done s) (hanswers _ _), fun tdi => congrArg (done s) (hanswers _ _)⟩

end Sys2Proof.Machine
end

section
/-! SUPPORT. Scrub errors, self-tests and digests (R368 to R375, R382). -/

namespace Sys2Proof.Machine

/-! ### The fields of a log record -/

theorem logRecord_kind (b : Beat) (code unit cls loc detail : Nat) {kind : Nat} (hk : kind < 2 ^ 6) :
    ((logRecord b code unit cls kind loc detail).extractLsb' 48 6).toNat = kind := by
  have hfield : field (logRecord b code unit cls kind loc detail).toNat (32 + (16 + 0)) 6 = kind := by
    rw [logRecord, field_append_high, field_append_high, field_append_low, BitVec.toNat_ofNat, Nat.mod_eq_of_lt hk]
  exact (extractLsb'_field ..).trans hfield

theorem logRecord_cls (b : Beat) (code unit kind loc detail : Nat) {cls : Nat} (hc : cls < 2 ^ 2) :
    ((logRecord b code unit cls kind loc detail).extractLsb' 54 2).toNat = cls := by
  rw [extractLsb'_field, logRecord, show 54 = 32 + (16 + (6 + 0)) from rfl, field_append_high, field_append_high, field_append_high,
    field_append_low, BitVec.toNat_ofNat, Nat.mod_eq_of_lt hc]

theorem logRecord_detail (b : Beat) (code unit cls kind loc detail : Nat) :
    ((logRecord b code unit cls kind loc detail).extractLsb' 0 32).toNat = detail % 2 ^ 32 := by
  rw [extractLsb'_field, logRecord, field_append_low, BitVec.toNat_ofNat]

/-- The high digit of the location of a log record. -/
theorem logRecord_store (b : Beat) (code unit cls kind detail : Nat) {loc : Nat} (hloc : loc < 2 ^ 16) :
    ((logRecord b code unit cls kind loc detail).extractLsb' 44 4).toNat = loc / 2 ^ 12 := by
  have hlow {w : Nat} (x : BitVec w) (y : BitVec 16) : field (x ++ y).toNat 12 4 = y.toNat / 2 ^ 12 := by
    rw [BitVec.toNat_append, ← Nat.shiftLeft_add_eq_or_of_lt y.isLt, field_eq, Nat.shiftLeft_eq]
    have := y.isLt
    omega
  rw [extractLsb'_field, logRecord, show 44 = 32 + 12 from rfl, field_append_high, hlow, BitVec.toNat_ofNat, Nat.mod_eq_of_lt hloc]

/-! ### Tests -/

theorem testOf_of_faults {s t : State} (h : t.faults.tests = s.faults.tests) (u : FaultUnit) : testOf t u = testOf s u := by
  rw [testOf, testOf, h]

theorem testOf_unit {s : State} {u : FaultUnit} {x : Test} (h : testOf s u = some x) : x.unit = u := by
  simpa using List.find?_some h

theorem classOf_of_faults {s t : State} (h : t.faults.classes = s.faults.classes) (u : FaultUnit) : classOf t u = classOf s u := by
  rw [classOf, classOf, h]

theorem classOf_unit (s : State) (u : FaultUnit) : (classOf s u).unit = u := by
  unfold classOf
  cases h : s.faults.classes.find? fun c => c.unit = u with
  | none => rfl
  | some c => simpa using List.find?_some h

/-- A report leaves all but the log, the registers and the EMCYs. -/
theorem State.log_faults (s : State) (e : Event) : (s.log e).faults = { s.faults with log := (s.log e).faults.log } := by
  unfold State.log
  with_reducible rfl

theorem State.emcy_rest (s : State) (e : Event) : (s.emcy e).faults = { s.faults with log := (s.emcy e).faults.log } := by
  rw [State.emcy_faults]
  exact State.log_faults s e

/-- The record of a detected error, with the EMCY where it has a code. -/
def reported (s : State) (e : Event) : State := if e.code = 0 then s.log e else s.emcy e

theorem reported_shows (s : State) (e : Event) : (reported s e).clocks = s.clocks ∧ (reported s e).poison = s.poison ∧
    (reported s e).faults = { s.faults with log := (reported s e).faults.log } ∧
    (reported s e).faults.log.getLast? = some (logRecord s.beat.n e.code e.unit e.cls e.kind e.loc e.detail) := by
  have hpoison {t v : State} (h : t.engines = v.engines) : t.poison = v.poison := congrArg (·.2.2.2.2.2.2.2.1) h
  unfold reported
  split
  · exact ⟨State.log_clocks .., hpoison (State.log_engines ..), State.log_faults .., State.log_last ..⟩
  · exact ⟨State.emcy_clocks .., hpoison (State.emcy_engines ..), State.emcy_rest .., State.emcy_log ..⟩

/-- The test that an error begins. -/
def newTest (s : State) (u : FaultUnit) (uncorrectable : Bool) (detail : Nat) : Test :=
  { unit := u, running := decide (u.kind = 4), since := s.clocks.cycle, uncorrectable := uncorrectable, errors := 0, detail := detail }

/-- The report of an error on a unit that is not PERSISTENT. -/
def errorEvent (s : State) (u : FaultUnit) (detail code : Nat) : Event :=
  { code := code, unit := u.unit, cls := 0, kind := u.kind, loc := locField s u, detail := detail }

/-- An error on a unit that is not PERSISTENT and has no test begins one. -/
theorem detect_begins {s : State} {u : FaultUnit} (hnew : isPersistent s u = false) (hnone : testOf s u = none) (hkind : u.kind = 2)
    (uncorrectable : Bool) (detail code : Nat) :
    let t := reported s (errorEvent s u detail code)
    detect s u uncorrectable detail code =
      { t with faults := { t.faults with tests := t.faults.tests ++ [newTest t u uncorrectable detail] } } := by
  intro t
  have htests : t.faults.tests = s.faults.tests := by rw [(reported_shows s _).2.2.1]
  have hany : ¬ (t.faults.tests.any fun x => x.unit = u) = true := by
    rw [htests]
    simpa [testOf] using hnone
  unfold detect
  extract_lets pers ev v
  have hpers : pers = false := hnew
  have hev : ev = errorEvent s u detail code := by simp only [ev, errorEvent, hpers, Bool.false_eq_true, if_false]
  have hv : v = t := by
    show (if code = 0 then s.log ev else s.emcy ev) = reported s (errorEvent s u detail code)
    rw [hev]
    rfl
  clear_value v t pers
  subst hv
  rw [if_neg (by simp [hpers]), if_neg hany, if_neg (by simp [hkind])]
  rfl

/-! ### A harbour scrub -/

theorem loseSram_shows (s : State) (h : Nat) (e : SramError) : (loseSram s h e).faults = s.faults ∧ (loseSram s h e).clocks = s.clocks ∧
    (e.store < 3 → (loseSram s h e).poisoned e.line = true) := by
  unfold loseSram
  split
  · exact ⟨rfl, rfl, fun hlow => by omega⟩
  · exact ⟨rfl, rfl, fun hlow => by omega⟩
  · exact ⟨rfl, rfl, fun hlow => by omega⟩
  · exact ⟨rfl, rfl, fun _ => by simp [State.poisoned, State.setPoison]⟩

/-- The state in which the error of a scrub is reported. -/
def scrubbed (s : State) (h : Nat) (e : SramError) : State := if e.lost then loseSram s h e else s

theorem scrubbed_shows (s : State) (h : Nat) (e : SramError) : (scrubbed s h e).faults = s.faults ∧ (scrubbed s h e).clocks = s.clocks ∧
    (e.lost = true → e.store < 3 → (scrubbed s h e).poisoned e.line = true) ∧ (e.lost = false → scrubbed s h e = s) := by
  unfold scrubbed
  split
  · next hlost =>
    obtain ⟨hfaults, hclocks, hpoison⟩ := loseSram_shows s h e
    exact ⟨hfaults, hclocks, fun _ => hpoison, fun hkept => absurd hlost (by simp [hkept])⟩
  · next hkept => exact ⟨rfl, rfl, fun hlost => absurd hlost hkept, fun _ => rfl⟩

theorem scrubs_error {s : State} (h : Nat) (e : SramError) (henable : s.flag Reg.fltScrubEnable = true) : scrubs s h (some e) =
    detect (scrubbed s h e) (sramUnit h e.store e.line) e.lost e.line (if e.lost then 0xFF61 else 0) := if_pos henable

/-- The location of a line of a harbour store. -/
theorem sramUnit_loc (s : State) (h line : Nat) {store : Nat} (hstore : store < 6) : locField s (sramUnit h store line) = store * 4096 := by
  unfold locField sramUnit
  dsimp only
  rw [if_neg (by decide)]
  omega

/-! ### Self-tests -/

theorem usersOf_of_harbours {s t : State} (h : t.harbours = s.harbours) (u : FaultUnit) : usersOf t u = usersOf s u := by
  have hharbour (g : Nat) : t.harbour g = s.harbour g := by rw [State.harbour, h]; rfl
  unfold usersOf
  split
  · refine List.filter_congr fun k _ => ?_
    simp only [routineUses, hharbour]
  · rfl

theorem startTests_starts {s : State} {u : FaultUnit} {x : Test} (h : testOf s u = some x) :
    testOf (startTests s fun t => t.unit == u) u = some { x with running := true } := by
  have hunit := testOf_unit h
  rw [testOf] at h ⊢
  show (s.faults.tests.map _).find? _ = _
  rw [List.find?_map]
  have hsame : ((fun t : Test => decide (t.unit = u)) ∘ fun t : Test => if (t.unit == u) = true then { t with running := true } else t) =
      fun t => decide (t.unit = u) := by
    funext t
    simp only [Function.comp]
    split <;> rfl
  rw [hsame, h]
  simp [hunit]

/-- A test that starts while no routine past its commit point uses its unit. -/
theorem claimUnit_starts {s : State} {u : FaultUnit} {x : Test} (h : testOf s u = some x)
    (hfree : ¬ ∃ k ∈ usersOf s u, ((s.harbour (u.unit - 64)).ctx k).commit = true) :
    testOf (claimUnit s u) u = some { x with running := true } ∧ (claimUnit s u).clocks = s.clocks ∧ (claimUnit s u).regs = s.regs := by
  have hany : ¬ ((usersOf s u).any fun k => ((s.harbour (u.unit - 64)).ctx k).commit) = true := by
    simpa using hfree
  have hinterrupt (t : State) (k : Nat) : (interrupt t (u.unit - 64) k u).clocks = t.clocks := by
    unfold interrupt
    dsimp only
    split <;> rfl
  unfold claimUnit
  rw [if_neg hany]
  generalize ht : startTests s (fun t => t.unit == u) = t
  have hstart := startTests_starts h
  rw [ht] at hstart
  have hclocks : t.clocks = s.clocks := by rw [← ht]; rfl
  have hregs : t.regs = s.regs := by rw [← ht]; rfl
  refine ⟨?_, ?_, ?_⟩
  · rw [testOf, foldl_keep State.faults _ (fun v k => interrupt_faults v (u.unit - 64) k u)]
    exact hstart
  · rw [foldl_keep State.clocks _ hinterrupt, hclocks]
  · rw [foldl_keep State.regs _ (fun v k => interrupt_regs v (u.unit - 64) k u), hregs]

theorem claimUnit_waits {s : State} {u : FaultUnit} (h : ∃ k ∈ usersOf s u, ((s.harbour (u.unit - 64)).ctx k).commit = true) :
    claimUnit s u = s := if_pos (by simpa using h)

theorem testStarts_pending {s : State} {u : FaultUnit} {x : Test} (h : testOf s u = some x) (hpending : x.running = false) :
    testStarts s u = claimUnit s u := by
  unfold testStarts
  rw [h]
  exact if_neg (by simp [hpending])

/-- A test that is forced comes 1 ms after its error, where it holds up no group in lockstep. -/
theorem testForced_pending {s : State} {u : FaultUnit} {x : Test} (h : testOf s u = some x) (hpending : x.running = false)
    (hkind : u.kind = 2 ∨ u.kind = 3 ∨ u.kind = 6) (hflow : (claimUnit (s.runTo (x.since + 1600000)) u).mode.flows = false) :
    testForced s u = claimUnit (s.runTo (x.since + 1600000)) u := by
  unfold testForced
  rw [h]
  dsimp only
  rw [if_neg (by rcases hkind with hk | hk | hk <;> simp [hpending, hk]), if_neg (by simp [hflow])]

theorem testForced_other {s : State} {u : FaultUnit} (h : testOf s u = none ∨ u.kind = 1) : testForced s u = s := by
  unfold testForced
  split
  · next x hx =>
    rcases h with h | h
    · rw [h] at hx; cases hx
    · exact if_pos (by simp [h])
  · rfl

/-! ### Classes -/

/-- The counter of a class (R375). -/
def classCounter (k : Nat) : Reg := if k = 1 then Reg.fltTransient else if k = 2 then Reg.fltIntermittent else Reg.fltPersistent

/-- What is remembered of a unit once its error has class `k`. -/
def classedUnit (s : State) (u : FaultUnit) (k : Nat) : UnitClass :=
  let c := classOf s u
  { c with last := some s.clocks.cycle, persistent := c.persistent || k == 3,
           intermittent := if k = 2 then s.clocks.cycle :: c.intermittent else c.intermittent }

/-- The report of a class, with its EMCY unless it is TRANSIENT. -/
def classEvent (s : State) (u : FaultUnit) (k detail : Nat) : Event :=
  { code := if k = 1 then 0 else if k = 2 then 0xFF80 else 0xFF81, unit := u.unit, cls := k, kind := u.kind, loc := locField s u, detail := detail }

theorem classCode_cases (s : State) (u : FaultUnit) (fails : Bool) (since : Nat) :
    classCode s u fails since = 1 ∨ classCode s u fails since = 2 ∨ classCode s u fails since = 3 := by
  unfold classCode
  dsimp only
  split_ifs <;> simp

/-- A class of a unit other than a tile is remembered, counted and reported. -/
theorem classify_eq {s : State} {u : FaultUnit} (hkind : u.kind ≠ 1) (fails : Bool) (since detail : Nat) :
    classify s u fails since detail =
      let k := classCode s u fails since
      let t := setClass s (classedUnit s u k)
      reported (t.count (classCounter k) 0) (classEvent t u k detail) := by
  have h := classCode_cases s u fails since
  unfold classify
  extract_lets k c now times c' v ev w
  rcases h with hk | hk | hk
  all_goals
    replace hk : k = _ := hk
    have hc : c' = classedUnit s u k := rfl
    rw [hk]
    clear_value k
    subst hk
  · rfl
  · rfl
  · exact if_neg hkind

theorem classOf_setClass (s : State) (c : UnitClass) : classOf (setClass s c) c.unit = c := by
  show ((c :: _).find? _).getD _ = c
  rw [List.find?_cons_of_pos (by simp)]
  rfl

theorem reported_reg (s : State) (e : Event) {r : Reg} (n : Nat) (hbase : 0x3000 ≤ r.base) (hsub : r.sub < 256) :
    (reported s e).reg r n = s.reg r n := by
  unfold reported
  split
  · exact State.reg_of_regs (State.log_regs ..) _ _
  · refine State.emcy_reg s e r n ?_ (fun k hk => ?_) ?_
    · simp only [Reg.key, Reg.errorRegister]; omega
    · simp only [Reg.key, Reg.at, Reg.errorField]; omega
    · simp only [Reg.key, Reg.canEmcyLost]; omega

/-- What a class shows: its record, its counter, and that a PERSISTENT unit is one. -/
theorem classify_shows {s : State} {u : FaultUnit} (hkind : u.kind ≠ 1) (hlt : u.kind < 64) (fails : Bool) (since detail : Nat) :
    let k := classCode s u fails since
    let t := classify s u fails since detail
    t.faults.tests = s.faults.tests ∧ (∃ y, t.faults.log.getLast? = some y ∧ (y.extractLsb' 54 2).toNat = k ∧ (y.extractLsb' 48 6).toNat = u.kind) ∧
      (∀ j ∈ [1, 2, 3], t.reg (classCounter j) = if k = j then (s.reg (classCounter j) + 1) % 2 ^ 32 else s.reg (classCounter j)) ∧
      (k = 3 → isPersistent t u = true) := by
  intro k t
  have hk : k = 1 ∨ k = 2 ∨ k = 3 := classCode_cases s u fails since
  have ht : t = _ := classify_eq hkind fails since detail
  dsimp only at ht
  have hcounters : ∀ i ∈ [1, 2, 3], 0x3000 ≤ (classCounter i).base ∧ (classCounter i).sub < 256 ∧
      ∀ j ∈ [1, 2, 3], i ≠ j → (classCounter i).key 0 ≠ (classCounter j).key 0 := by decide
  have hmem : k ∈ [1, 2, 3] := by simpa using hk
  obtain ⟨-, -, hfaults, hlog⟩ := reported_shows ((setClass s (classedUnit s u k)).count (classCounter k) 0)
    (classEvent (setClass s (classedUnit s u k)) u k detail)
  rw [← ht] at hfaults hlog
  have hregs (r : Reg) (n : Nat) (hbase : 0x3000 ≤ r.base) (hsub : r.sub < 256) :
      t.reg r n = ((setClass s (classedUnit s u k)).count (classCounter k) 0).reg r n := by
    rw [ht]
    exact reported_reg _ _ n hbase hsub
  refine ⟨by rw [hfaults]; rfl, ⟨_, hlog, logRecord_cls _ _ _ _ _ _ (cls := k) (by omega), logRecord_kind _ _ _ _ _ _ hlt⟩, fun j hj => ?_, fun hpersistent => ?_⟩
  · obtain ⟨hbase, hsub, hother⟩ := hcounters j hj
    rw [hregs _ 0 hbase hsub]
    split
    · next hkj => rw [hkj]; exact State.reg_count_same ..
    · next hkj => exact State.reg_count_other _ _ _ fun h => hother k hmem (fun h' => hkj h'.symm) h.symm
  · have hclasses : t.faults.classes = (setClass s (classedUnit s u k)).faults.classes := by rw [hfaults]; rfl
    have hunit : (classedUnit s u k).unit = u := classOf_unit s u
    have hset := classOf_setClass s (classedUnit s u k)
    rw [hunit] at hset
    rw [isPersistent, classOf_of_faults hclasses, hset, classedUnit, hpersistent]
    simp

/-- The release of a unit that no routine awaits. -/
theorem releaseUnit_idle {s : State} {u : FaultUnit} (h : ∀ k < 10, ((s.harbour (u.unit - 64)).ctx k).awaits ≠ some u) : releaseUnit s u = s := by
  unfold releaseUnit
  refine List.foldlRecOn _ _ (motive := (· = s)) rfl fun t ht k hk => ?_
  subst ht
  exact if_neg (h k (List.mem_range.mp hk))

/-! ### Digests -/

/-- The low bits of a beat near the present one name it (R369). -/
theorem beat_of_low {n b : Beat} (hlow : -(2 ^ 23) ≤ beatDiff n b) (hhigh : beatDiff n b < 2 ^ 23) :
    b + BitVec.ofInt 48 (modDiff 24 (n.toNat % 2 ^ 24) (b.toNat % 2 ^ 24)) = n := by
  have hn := n.isLt
  have hb := b.isLt
  have hmod : modDiff 24 (n.toNat % 2 ^ 24) (b.toNat % 2 ^ 24) = beatDiff n b := by
    unfold modDiff signed
    unfold beatDiff at hlow hhigh ⊢
    rw [BitVec.toNat_sub] at hlow hhigh ⊢
    dsimp only at hlow hhigh ⊢
    generalize n.toNat = x at *
    generalize b.toNat = y at *
    split_ifs at hlow hhigh ⊢ <;> omega
  rw [hmod]
  refine BitVec.eq_of_toNat_eq ?_
  unfold beatDiff
  rw [BitVec.toNat_add, BitVec.toNat_ofInt, BitVec.toNat_sub]
  dsimp only
  generalize n.toNat = x at *
  generalize b.toNat = y at *
  split_ifs <;> omega

/-- The fields of a DIGEST block. -/
theorem digestWord_fields (n : Beat) (v : BitVec 32) :
    let w : Word64 := 0xCA#8 ++ n.extractLsb' 0 24 ++ v
    field w.toNat 56 8 = 0xCA ∧ field w.toNat 32 24 = n.toNat % 2 ^ 24 ∧ field w.toNat 0 32 = v.toNat := by
  dsimp only
  refine ⟨?_, ?_, field_append_low _ _⟩
  · have htype : field (0xCA#8 ++ n.extractLsb' 0 24 ++ v).toNat (32 + (24 + 0)) 8 = 0xCA := by
      rw [field_append_high, field_append_high]; rfl
    exact htype
  · have hlow : field (0xCA#8 ++ n.extractLsb' 0 24 ++ v).toNat (32 + 0) 24 = n.toNat % 2 ^ 24 := by
      rw [field_append_high, field_append_low, extractLsb'_field]
      exact field_eq ..  |>.trans (by rw [Nat.pow_zero, Nat.div_one])
    exact hlow

/-- A digest of a peer, remembered. -/
def peered (s : State) (n : Beat) (lane d : Nat) : State := { s with faults := { s.faults with peers := s.faults.peers ++ [(n, lane, d)] } }

/-- The first digest of a beat near the present one is compared. -/
theorem digestLands_near {s : State} {lane : Nat} {n : Beat} {v : BitVec 32} (henable : s.flag Reg.detLsEnable = true)
    (hflow : s.mode.flows = true) (hlow : -(2 ^ 23) ≤ beatDiff n s.beat.n) (hhigh : beatDiff n s.beat.n < 2 ^ 23)
    (hfirst : ∀ x ∈ s.faults.peers, x.1 ≠ n) :
    digestLands s lane (0xCA#8 ++ n.extractLsb' 0 24 ++ v) = compareBeat (peered s n lane v.toNat) n := by
  obtain ⟨htype, hbeat, hvalue⟩ := digestWord_fields n v
  have hknown : (s.faults.peers.filter fun x => x.1 = n) = [] := List.filter_eq_nil_iff.mpr fun x hx => by simpa using hfirst x hx
  unfold digestLands
  dsimp only
  rw [htype, hbeat, hvalue, if_neg (by simp [henable, hflow]), beat_of_low hlow hhigh, hknown]
  rfl

theorem digestLands_deaf {s : State} {lane : Nat} {w : Word64}
    (h : s.flag Reg.detLsEnable = false ∨ s.mode.flows = false ∨ field w.toNat 56 8 ≠ 0xCA) : digestLands s lane w = s := by
  refine if_pos ?_
  rcases h with h | h | h <;> simp [h]

/-- The state in which a beat's own digest has been compared. -/
def digestTaken (s : State) (n : Beat) : State := { s with faults := { s.faults with digests := s.faults.digests.filter fun x => x.1 != n } }

/-- One peer's digest of a beat meets the own one. -/
theorem compareBeat_peered {s : State} {n : Beat} {lane d own : Nat} (hfirst : ∀ x ∈ s.faults.peers, x.1 ≠ n)
    (hown : s.faults.digests.find? (fun x => x.1 = n) = some (n, own)) : compareBeat (peered s n lane d) n =
      if own = d then digestTaken (peered s n lane d) n else diverge (digestTaken (peered s n lane d) n) n := by
  have hpeers : ((peered s n lane d).faults.peers.filter fun x => x.1 = n) = [(n, lane, d)] := by
    show ((s.faults.peers ++ [(n, lane, d)]).filter _) = _
    rw [List.filter_append, List.filter_eq_nil_iff.mpr fun x hx => by simpa using hfirst x hx]
    simp
  have hdigest : (peered s n lane d).faults.digests.find? (fun x => x.1 = n) = some (n, own) := hown
  unfold compareBeat
  rw [hdigest, hpeers]
  rfl

theorem compareBeat_alone {s : State} {n : Beat} (h : ∀ x ∈ s.faults.digests, x.1 ≠ n) : compareBeat s n = s := by
  have hnone : s.faults.digests.find? (fun x => x.1 = n) = none := List.find?_eq_none.mpr fun x hx => by simpa using h x hx
  unfold compareBeat
  rw [hnone]

/-- The first divergence is noted, freezes the taps and sends its EMCY. -/
theorem diverge_first {s : State} (hfrozen : s.faults.frozen = false) (n : Beat) :
    (diverge s n).reg Reg.detLsDiverged = n.toNat ∧ (diverge s n).faults.frozen = true ∧ (diverge s n).faults.taps = s.faults.taps ∧
      (s.links.emcys.length < 32 → ∃ e, (diverge s n).links.emcys = s.links.emcys ++ [e] ∧ e.code = 0xFF23) := by
  have hdiverge : diverge s n = ({ s.setReg Reg.detLsDiverged 0 n.toNat with faults := { s.faults with frozen := true } } : State).emcy
      { code := 0xFF23, detail := n.toNat % 2 ^ 32 } := if_neg (by simp [hfrozen])
  generalize ht : ({ s.setReg Reg.detLsDiverged 0 n.toNat with faults := { s.faults with frozen := true } } : State) = t at hdiverge
  have hlinks : t.links = s.links := by rw [← ht]; rfl
  have hfaults : t.faults = { s.faults with frozen := true } := by rw [← ht]
  have hreg : t.reg Reg.detLsDiverged = n.toNat := by rw [← ht]; exact State.reg_setReg_same ..
  rw [hdiverge]
  refine ⟨?_, ?_, ?_, fun hroom => ?_⟩
  · rw [State.emcy_reg _ _ _ _ (by decide) (by decide) (by decide), hreg]
  · rw [State.emcy_rest, hfaults]
  · rw [State.emcy_rest, hfaults]
  · rw [← hlinks] at hroom ⊢
    obtain ⟨r, hr⟩ := State.emcy_queue t { code := 0xFF23, detail := n.toNat % 2 ^ 32 } hroom
    exact ⟨_, hr, rfl⟩

/-- A later divergence is only logged. -/
theorem diverge_frozen {s : State} (hfrozen : s.faults.frozen = true) (n : Beat) :
    (diverge s n).regs = s.regs ∧ (diverge s n).links = s.links ∧ (diverge s n).faults.taps = s.faults.taps ∧
      (diverge s n).faults.frozen = s.faults.frozen ∧
      ∃ y, (diverge s n).faults.log.getLast? = some y ∧ (y.extractLsb' 0 32).toNat = n.toNat % 2 ^ 32 := by
  have hdiverge : diverge s n = s.log { detail := n.toNat % 2 ^ 32 } := if_pos hfrozen
  rw [hdiverge]
  refine ⟨State.log_regs .., State.log_links .., by rw [State.log_faults], by rw [State.log_faults], _, State.log_last .., ?_⟩
  rw [logRecord_detail, Nat.mod_mod]

/-! ### A scrub, a forced test and the end of a test -/

/-- A scrub that finds an error on a unit that is not PERSISTENT and has no test logs it and begins its test. -/
theorem harbourScrub_begins {s : State} {h : Nat} {e : SramError} (hh : s.hasHarbour h = true) (hstore : e.store < 6)
    (henable : s.flag Reg.fltScrubEnable = true) (hnew : isPersistent s (sramUnit h e.store e.line) = false)
    (hnone : testOf s (sramUnit h e.store e.line) = none) :
    ∃ t x y, exec (.harbourScrub h (some e)) s = .next t ∧ testOf t (sramUnit h e.store e.line) = some x ∧
      x.running = false ∧ x.since = s.clocks.cycle ∧ x.uncorrectable = e.lost ∧ t.faults.log.getLast? = some y ∧
      (y.extractLsb' 48 6).toNat = 2 ∧ (y.extractLsb' 56 8).toNat = 64 + h ∧ (y.extractLsb' 44 4).toNat = e.store ∧
      (y.extractLsb' 64 16).toNat = (if e.lost then 0xFF61 else 0) ∧
      (e.lost = true → e.store < 3 → t.poisoned e.line = true) ∧ (e.lost = false → t.poison = s.poison) := by
  generalize hu : sramUnit h e.store e.line = u at hnew hnone ⊢
  obtain ⟨hfaults, hclocks, hlost, hkept⟩ := scrubbed_shows s h e
  have hlt := hasHarbour_lt hh
  have hexec : exec (.harbourScrub h (some e)) s =
      done s (detect (scrubbed s h e) u e.lost e.line (if e.lost then 0xFF61 else 0)) := by
    rw [← hu, ← scrubs_error h e henable]
    exact onUnit_present s _ (by simp [hh, hstore])
  have hnew' : isPersistent (scrubbed s h e) u = false := by
    rw [isPersistent, classOf_of_faults (s := s) (by rw [hfaults])]; exact hnew
  have hnone' : testOf (scrubbed s h e) u = none := by
    rw [testOf_of_faults (s := s) (by rw [hfaults])]; exact hnone
  rw [hexec, detect_begins hnew' hnone' (by rw [← hu]; rfl)]
  generalize hev : errorEvent (scrubbed s h e) u e.line (if e.lost then 0xFF61 else 0) = ev
  obtain ⟨hclock, hpoison, hrest, hlog⟩ := reported_shows (scrubbed s h e) ev
  generalize reported (scrubbed s h e) ev = t at *
  have htests : t.faults.tests = s.faults.tests := by rw [hrest, hfaults]
  have hcode : ev.code = (if e.lost then 0xFF61 else 0) ∧ ev.unit = 64 + h ∧ ev.kind = 2 ∧ ev.loc = e.store * 4096 := by
    rw [← hev, ← hu]
    exact ⟨rfl, rfl, rfl, sramUnit_loc (scrubbed s h e) h e.line hstore⟩
  obtain ⟨hcode, hunit, hkind, hloc⟩ := hcode
  have hfields := logRecord_fields (scrubbed s h e).beat.n (code := ev.code) (unit := ev.unit) (kind := ev.kind) ev.cls ev.loc ev.detail
    (by rw [hcode]; split <;> decide) (by rw [hunit]; omega) (by rw [hkind]; decide)
  simp only [Prod.mk.injEq] at hfields
  obtain ⟨hfcode, hfunit, hfkind⟩ := hfields
  have hstored := logRecord_store (scrubbed s h e).beat.n ev.code ev.unit ev.cls ev.kind ev.detail (loc := ev.loc) (by rw [hloc]; omega)
  have hfound : testOf { t with faults := { t.faults with tests := t.faults.tests ++ [newTest t u e.lost e.line] } } u =
      some (newTest t u e.lost e.line) := by
    show (t.faults.tests ++ _).find? _ = _
    rw [htests, List.find?_append, show s.faults.tests.find? (fun x => x.unit = u) = none from hnone]
    simp [newTest]
  refine ⟨_, newTest t u e.lost e.line, _, rfl, hfound, by rw [← hu]; rfl, ?_, rfl, hlog, (extractLsb'_field ..).trans (hfkind.trans hkind),
    (extractLsb'_field ..).trans (hfunit.trans hunit), ?_, (extractLsb'_field ..).trans (hfcode.trans hcode), fun hl hs => ?_, fun hl => ?_⟩
  · show t.clocks.cycle = s.clocks.cycle
    rw [hclock, hclocks]
  · rw [hstored, hloc]; omega
  · show t.poison.contains e.line = true
    rw [hpoison]
    exact hlost hl hs
  · show t.poison = s.poison
    rw [hpoison, hkept hl]

/-- A scrub without an error, or one that is not enabled, does nothing. -/
theorem harbourScrub_quiet {s : State} {h : Nat} {e : Option SramError} (hh : s.hasHarbour h = true) (hstore : ∀ x, e = some x → x.store < 6)
    (hquiet : e = none ∨ s.flag Reg.fltScrubEnable = false) : exec (.harbourScrub h e) s = .next s := by
  have hscrub : scrubs s h e = s := by
    rcases hquiet with rfl | hoff
    · rfl
    · cases e with
      | none => rfl
      | some e => exact if_neg (by simp [hoff])
  show onUnit _ s (scrubs s h e) = _
  rw [hscrub]
  cases e with
  | none => exact onUnit_present s s (by simp [hh])
  | some e => exact onUnit_present s s (by simp [hh, hstore e rfl])

/-- What a forced test leaves: it runs, 1 ms after its error. -/
theorem testForced_runs {s : State} {u : FaultUnit} {x : Test} (htest : testOf s u = some x) (hpending : x.running = false)
    (hkind : u.kind = 2 ∨ u.kind = 3 ∨ u.kind = 6) (hflow : s.mode.flows = false)
    (hfree : ¬ ∃ k ∈ usersOf s u, ((s.harbour (u.unit - 64)).ctx k).commit = true) :
    testOf (testForced s u) u = some { x with running := true } ∧ (testForced s u).clocks.cycle = max s.clocks.cycle (x.since + 1600000) := by
  have hforced := testForced_pending htest hpending hkind
  have hcycle := s.runTo_cycle (x.since + 1600000)
  have hrest := s.runTo_rest (x.since + 1600000)
  have hmode : (s.runTo (x.since + 1600000)).mode = s.mode := by
    rw [State.mode, State.runTo_reg_of_sub s _ (by decide) (by decide) (by decide), State.mode]
  generalize s.runTo (x.since + 1600000) = v at *
  have hharbours : v.harbours = s.harbours := by rw [hrest]
  have hfree' : ¬ ∃ k ∈ usersOf v u, ((v.harbour (u.unit - 64)).ctx k).commit = true := by
    rw [usersOf_of_harbours hharbours, State.harbour, hharbours]; exact hfree
  obtain ⟨hclaimed, hclocks, hregs⟩ := claimUnit_starts ((testOf_of_faults (by rw [hrest]) u).trans htest) hfree'
  rw [hforced (by rw [State.mode_of_regs hregs, hmode]; exact hflow)]
  exact ⟨hclaimed, by rw [hclocks, hcycle]⟩

/-- The state in which the error of a test is classed: the test is gone. -/
def testGone (s : State) (u : FaultUnit) : State := { s with faults := { s.faults with tests := s.faults.tests.filter fun x => x.unit != u } }

/-- A running test fails: a lane's at 16 errors. -/
def testFails (u : FaultUnit) (x : Test) (fails : Bool) : Bool := if u.kind = 4 then decide (16 ≤ x.errors) else fails

theorem testFails_iff (u : FaultUnit) (x : Test) (fails : Bool) :
    testFails u x fails = true ↔ if u.kind = 4 then 16 ≤ x.errors else fails = true := by
  unfold testFails
  split <;> simp

section
variable {s : State} {u : FaultUnit} {x : Test} (htest : testOf s u = some x) (hrun : x.running = true) (hkind : u.kind ≠ 1)
  (hawaits : ∀ k < 10, ((s.harbour (u.unit - 64)).ctx k).awaits ≠ some u)
include htest hrun hawaits

/-- A test that no routine awaits ends with the class of its error. -/
theorem testEnds_running (fails : Bool) : testEnds s u fails = classify (testGone s u) u (testFails u x fails) x.since x.detail := by
  have hharbours : (classify (testGone s u) u (testFails u x fails) x.since x.detail).harbours = s.harbours :=
    congrArg (·.2.2.2.2.2.1) (classify_engines (testGone s u) u (testFails u x fails) x.since x.detail)
  have hends : testEnds s u fails = if 64 ≤ u.unit then releaseUnit (classify (testGone s u) u (testFails u x fails) x.since x.detail) u
      else classify (testGone s u) u (testFails u x fails) x.since x.detail := by
    unfold testEnds
    rw [htest]
    exact if_pos hrun
  rw [hends]
  generalize classify (testGone s u) u (testFails u x fails) x.since x.detail = t at hharbours ⊢
  split
  · refine releaseUnit_idle fun j hj => ?_
    rw [State.harbour, hharbours]
    exact hawaits j hj
  · rfl

include hkind

/-- What a test that has ended shows. -/
theorem testEnds_shows (hlt : u.kind < 64) (fails : Bool) :
    let k := classCode s u (testFails u x fails) x.since
    let t := testEnds s u fails
    testOf t u = none ∧ (∃ y, t.faults.log.getLast? = some y ∧ (y.extractLsb' 54 2).toNat = k ∧ (y.extractLsb' 48 6).toNat = u.kind) ∧
      (∀ j ∈ [1, 2, 3], t.reg (classCounter j) = if k = j then (s.reg (classCounter j) + 1) % 2 ^ 32 else s.reg (classCounter j)) ∧
      (k = 3 → isPersistent t u = true) := by
  intro k t
  have ht : t = _ := testEnds_running htest hrun hawaits fails
  have hclass : classCode (testGone s u) u (testFails u x fails) x.since = k := rfl
  obtain ⟨htests, hlog, hcounters, hpersistent⟩ := classify_shows (s := testGone s u) hkind hlt (testFails u x fails) x.since x.detail
  rw [hclass] at hlog hcounters hpersistent
  rw [← ht] at htests hlog hcounters hpersistent
  refine ⟨?_, hlog, hcounters, hpersistent⟩
  rw [testOf_of_faults htests]
  exact List.find?_eq_none.mpr fun z hz => by simpa using (List.mem_filter.mp hz).2

end

/-- The class that the statement gives an error, by its own words. -/
theorem classCode_eq (s : State) (u : FaultUnit) (since : Nat) {fails : Bool} {bad : Prop} [Decidable bad] (hbad : fails = true ↔ bad) :
    classCode s u fails since =
      let win := s.reg Reg.fltRecurWindow * 1600000
      let c := classOf s u
      let recent := (c.last.any fun k => decide (since ≤ k + win)) = true
      let twice := 2 ≤ (c.intermittent.filter fun k => s.clocks.cycle ≤ k + win).length
      if bad then 3 else if recent ∧ twice then 3 else if recent then 2 else 1 := by
  unfold classCode
  dsimp only
  rw [recurWindow]
  simp only [hbad]
  cases h : (classOf s u).last with
  | none => simp
  | some t => simp

/-! ### O58 -/

section
variable (s : State) (lane : Nat) (n : Beat) (v : BitVec 32)

/-- A first digest of a beat near the present one. -/
theorem digest_compares (hlane : lane = 2 ∨ lane = 3) (henable : s.flag Reg.detLsEnable = true) (hflow : s.mode.flows = true)
    (hnear : -(2 ^ 23) ≤ beatDiff n s.beat.n ∧ beatDiff n s.beat.n < 2 ^ 23) (hfirst : ∀ x ∈ s.faults.peers, x.1 ≠ n) :
    exec (.digest lane (0xCA#8 ++ n.extractLsb' 0 24 ++ v)) s = done s (compareBeat (peered s n lane v.toNat) n) := by
  rw [← digestLands_near henable hflow hnear.1 hnear.2 hfirst]
  exact onUnit_present s _ (by simpa using hlane)

theorem digest_deaf (hlane : lane = 2 ∨ lane = 3) {w : Word64}
    (h : s.flag Reg.detLsEnable = false ∨ s.mode.flows = false ∨ field w.toNat 56 8 ≠ 0xCA) : exec (.digest lane w) s = .next s := by
  have hdeaf := digestLands_deaf (lane := lane) h
  show onUnit _ s (digestLands s lane w) = _
  rw [hdeaf]
  exact onUnit_present s s (by simpa using hlane)

end

/-- Settles O58: an error begins a test, a test is claimed and classed, and a digest is compared with its peer's. -/
theorem errorsTestsAndDigests : Obligations.ErrorsTestsAndDigests := by
  unfold Obligations.ErrorsTestsAndDigests
  refine ⟨?_, ?_⟩
  · intro s win
    refine ⟨fun h e hh hstore henable => harbourScrub_begins hh hstore henable, fun h e => harbourScrub_quiet, fun u x htest hpending => ?_,
      fun u x fails htest hrun hkind hlt hawaits => ?_, fun u fails hnone => ?_⟩
    · intro waits
      refine ⟨fun hwaits => congrArg (done s) ((testStarts_pending htest hpending).trans (claimUnit_waits hwaits)), fun hfree => ?_,
        fun hkind hflow hfree => ?_, fun hkind => congrArg (done s) (testForced_other (.inr hkind))⟩
      · obtain ⟨hclaimed, hclocks, -⟩ := claimUnit_starts htest hfree
        have hexec : exec (.testStart u) s = done s (claimUnit s u) := congrArg (done s) (testStarts_pending htest hpending)
        exact ⟨_, _, hexec, hclaimed, rfl, hclocks⟩
      · obtain ⟨hclaimed, hclock⟩ := testForced_runs htest hpending hkind hflow hfree
        exact ⟨_, _, rfl, hclaimed, rfl, hclock⟩
    · intro bad c recent twice k
      have hclass : classCode s u (testFails u x fails) x.since = k := classCode_eq s u x.since (testFails_iff u x fails)
      obtain ⟨hnone, hlog, hcounters, hpersistent⟩ := testEnds_shows htest hrun hkind hawaits hlt fails
      rw [hclass] at hlog hcounters hpersistent
      obtain ⟨y, hlast, hcls, hykind⟩ := hlog
      exact ⟨_, y, rfl, hnone, hlast, hcls, hykind, hcounters 1 (by decide), hcounters 2 (by decide), hcounters 3 (by decide), hpersistent⟩
    · have hstart : testStarts s u = s := by unfold testStarts; rw [hnone]
      have hends : testEnds s u fails = s := by unfold testEnds; rw [hnone]
      exact ⟨congrArg (done s) hstart, congrArg (done s) (testForced_other (.inl hnone)), congrArg (done s) hends⟩
  · intro s lane n v hlane w out near same
    refine ⟨fun henable hflow hnear hfirst => ?_, fun hdeaf => digest_deaf s lane hlane (hdeaf.imp_right .inl), fun z hz => ?_⟩
    · refine ⟨_, digest_compares s lane n v hlane henable hflow hnear hfirst, fun d hown hne hfrozen => ?_, fun d hown hne hfrozen => ?_,
        fun hequal => ?_⟩
      · have hcompare := compareBeat_peered (lane := lane) (d := v.toNat) hfirst hown
        rw [if_neg hne] at hcompare
        have hdiverge := diverge_first (s := digestTaken (peered s n lane v.toNat) n) hfrozen n
        rw [← hcompare] at hdiverge
        exact hdiverge
      · have hcompare := compareBeat_peered (lane := lane) (d := v.toNat) hfirst hown
        rw [if_neg hne] at hcompare
        obtain ⟨hregs, hlinks, htaps, hstill, hlog⟩ := diverge_frozen (s := digestTaken (peered s n lane v.toNat) n) hfrozen n
        rw [← hcompare] at hregs hlinks htaps hstill hlog
        exact ⟨⟨hregs, hlinks, htaps, hstill⟩, hlog⟩
      · rcases hequal with hown | hnone
        · have hcompare := compareBeat_peered (lane := lane) (d := v.toNat) hfirst hown
          rw [if_pos rfl] at hcompare
          rw [hcompare]
          exact ⟨⟨rfl, rfl, rfl, rfl⟩, rfl⟩
        · rw [compareBeat_alone (s := peered s n lane v.toNat) hnone]
          exact ⟨⟨rfl, rfl, rfl, rfl⟩, rfl⟩
    · refine digest_deaf s lane hlane (.inr (.inr fun h => hz (BitVec.eq_of_toNat_eq ?_)))
      rw [extractLsb'_field, h]
      rfl

end Sys2Proof.Machine
end

section
/-! SUPPORT. Ranging, the classes of bursts, and the absence and collision of slots (R318, R320, R323, R324, R327 to R331). -/

namespace Sys2Proof.Machine

/-! ### A state of the star that sends an EMCY -/

/-- What the star shows after it has entered a state with an EMCY. -/
structure SilFailed (s t : State) (st code : Nat) : Prop where
  state : t.silSt = st
  reg : ∀ r ∈ [Reg.silCollided, Reg.silAbsentMask], t.reg r = s.reg r
  beat : t.beat = s.beat
  silush : st ≠ 1 → t.silush = s.silush
  emcy : s.links.emcys.length < 32 → ∃ e, t.links.emcys = s.links.emcys ++ [e] ∧ e.code = code

theorem State.log_silush (s : State) (e : Event) : (s.log e).silush = s.silush := by
  unfold State.log
  with_reducible rfl

theorem State.pushErrorField_silush (s : State) (c u : Nat) : (s.pushErrorField c u).silush = s.silush := by
  unfold State.pushErrorField
  exact foldl_keep State.silush _ (by intro s x; exact State.setReg_silush ..) _ _

theorem silFails_shows (s : State) (st code : Nat) : SilFailed s (silFails s st code) st code := by
  unfold silFails
  extract_lets v u
  have hu : u.regs = v.regs ∧ u.beat = s.beat ∧ u.links = s.links ∧ (st ≠ 1 → u.silush = s.silush) := by
    by_cases h : st = 1
    · rw [show u = v.modSil _ from if_pos h]
      exact ⟨rfl, rfl, rfl, fun hne => absurd h hne⟩
    · rw [show u = v from if_neg h]
      exact ⟨rfl, rfl, rfl, fun _ => rfl⟩
  obtain ⟨hregs, hbeat, hlinks, hsilush⟩ := hu
  clear_value u
  have hreg (r : Reg) (h1 : Reg.errorRegister.key 0 ≠ r.key 0) (h2 : ∀ k < 16, (Reg.errorField.at k).key 0 ≠ r.key 0)
      (h3 : Reg.canEmcyLost.key 0 ≠ r.key 0) : (u.emcy { code := code }).reg r = v.reg r :=
    (State.emcy_reg u _ r 0 h1 h2 h3).trans (State.reg_of_regs hregs r 0)
  have hrest (e : Event) : (u.emcy e).silush = u.silush := by
    obtain ⟨q, t, ht, h⟩ := u.emcy_form e
    have : t.silush = u.silush := by
      rw [ht, State.pushErrorField_silush, State.setReg_silush, State.log_silush]
    rw [h, ← this]
    split <;> rfl
  refine ⟨?_, ?_, ?_, fun hst => ?_, fun hroom => ?_⟩
  · exact (hreg Reg.silState (by decide) (by decide) (by decide)).trans (State.reg_setReg_same ..)
  · simp only [List.forall_mem_cons, List.not_mem_nil, false_implies, implies_true, and_true]
    exact ⟨(hreg _ (by decide) (by decide) (by decide)).trans (State.reg_setReg_other _ _ (by decide)),
      (hreg _ (by decide) (by decide) (by decide)).trans (State.reg_setReg_other _ _ (by decide))⟩
  · rw [State.emcy_beat, hbeat]
  · rw [hrest, hsilush hst]
  · rw [← hlinks] at hroom ⊢
    obtain ⟨r, hr⟩ := State.emcy_queue u { code := code } hroom
    exact ⟨_, hr, rfl⟩

/-! ### The bits of SIL_ABSENT_MASK -/

theorem bit_sub_two_pow {m k : Nat} (h : bit m k = true) : bit (m - 2 ^ k) k = false := by
  have hdiv : (m - 2 ^ k) / 2 ^ k = m / 2 ^ k - 1 := by simpa using Nat.sub_mul_div m (2 ^ k) 1
  simp only [bit, Nat.testBit_eq_decide_div_mod_eq, decide_eq_true_eq, decide_eq_false_iff_not] at h ⊢
  rw [hdiv]
  omega

theorem bit_or_two_pow (m k : Nat) : bit (m ||| 2 ^ k) k = true := by
  simp [bit, Nat.testBit_or, Nat.testBit_two_pow_self]

/-- A slot that has had its burst is not absent. -/
theorem clearAbsent_clears (s : State) (k : Nat) : bit ((clearAbsent s k).reg Reg.silAbsentMask) k = false := by
  unfold clearAbsent
  dsimp only
  split
  · next h =>
    rw [State.reg_setReg_same]
    exact bit_sub_two_pow h
  · next h => exact Bool.eq_false_iff.mpr h

/-! ### The class of a burst -/

/-- The slot of a burst, noted. -/
def slotSeen (s : State) (k : Nat) : State := s.modSil fun x => { x with seen := k :: x.seen }

/-- A burst that is not a UI off the middle of its window is counted (R327). -/
def skewCounted (s : State) (d : Int) : State := if d.natAbs < 64 then s else s.count Reg.silSkew 0

section
variable {s : State} {k : Nat} {d : Int} (hearly : -512 ≤ d)
  (hlate : d + 512 + 5632 ≤ ((slotStart s (k + 1) - slotStart s k : Nat) : Int))
include hearly hlate

theorem notLate : ¬ (decide (((slotStart s (k + 1) - slotStart s k : Nat) : Int) < d + guardUi + 88 * ui) = true) ∧
    ¬ (decide (d < -(guardUi : Int)) = true) := by
  have hguard : (guardUi : Int) = 512 ∧ (ui : Int) = 64 := ⟨rfl, rfl⟩
  obtain ⟨hg, hu⟩ := hguard
  refine ⟨fun h => ?_, fun h => ?_⟩
  · have h := of_decide_eq_true h
    omega
  · have h := of_decide_eq_true h
    omega

/-- The first burst of a slot, within its window. -/
theorem classBurst_accepted (hseen : s.silush.seen.contains k = false) (hcollided : s.silush.collided.contains k = false) :
    classBurst s k d = (skewCounted (slotSeen s k) d, true) := by
  obtain ⟨hl, he⟩ := notLate hearly hlate
  unfold classBurst
  extract_lets room again v early late a b e c
  have hagain : again = false := hseen
  have hc : c = slotSeen s k := by
    rw [show c = b from if_neg hl, show b = a from if_neg he, show a = v from if_neg (by simp [hagain])]
    rfl
  have he' : early = false := Bool.eq_false_iff.mpr he
  have hl' : late = false := Bool.eq_false_iff.mpr hl
  rw [if_neg (by simp [hagain, he', hl']), hc, if_neg (by rw [show (slotSeen s k).silush.collided = s.silush.collided from rfl, hcollided]; simp)]
  rfl

/-- Another burst of the slot, within its window. -/
theorem classBurst_again (hseen : s.silush.seen.contains k = true) : classBurst s k d = (collide (slotSeen s k) k, false) := by
  obtain ⟨hl, he⟩ := notLate hearly hlate
  unfold classBurst
  extract_lets room again v early late a b e c
  have hagain : again = true := hseen
  have hc : c = collide (slotSeen s k) k := by
    rw [show c = b from if_neg hl, show b = a from if_neg he, show a = _ from if_pos hagain]
    rfl
  rw [if_pos (by simp [hagain]), hc]

end

/-- What the data of a burst leaves and writes. -/
theorem takeData_shows (s : State) (k : Nat) (o : Option (BitVec 56)) : (takeData s k o).silush = s.silush ∧
    (∀ r : Reg, Reg.silAbsentMask.key 0 ≠ r.key 0 → Reg.silCrcErrors.key 0 ≠ r.key 0 → (takeData s k o).reg r = s.reg r) ∧
    ((∃ c, o = some c) → bit ((takeData s k o).reg Reg.silAbsentMask) k = false ∧
      (takeData s k o).reg Reg.silCrcErrors = s.reg Reg.silCrcErrors) ∧
    (¬ (∃ c, o = some c) → (takeData s k o).reg Reg.silAbsentMask = s.reg Reg.silAbsentMask ∧
      (takeData s k o).reg Reg.silCrcErrors = (s.reg Reg.silCrcErrors + 1) % 2 ^ 32) := by
  cases o with
  | some c =>
    obtain ⟨regs, hform, hregs⟩ := clearAbsent_form s k
    refine ⟨?_, fun r hr _ => hregs r 0 hr, fun _ => ⟨clearAbsent_clears s k, hregs _ 0 (by decide)⟩, fun hno => absurd ⟨c, rfl⟩ hno⟩
    show (clearAbsent s k).silush = _
    rw [hform]
  | none =>
    exact ⟨rfl, fun r _ hr => State.reg_count_other _ _ _ hr, (fun hsome => by obtain ⟨c, hc⟩ := hsome; cases hc),
      fun _ => ⟨State.reg_count_other _ _ _ (by decide), State.reg_count_same ..⟩⟩

/-- The burst of a slot, accepted, with its data used. -/
def burstTaken (s : State) (k : Nat) (d : Int) (o : Option (BitVec 56)) : State := takeData (skewCounted (slotSeen s k) d) k o

theorem burstTaken_shows (s : State) (k : Nat) (d : Int) (o : Option (BitVec 56)) :
    let t := burstTaken s k d o
    t.silush = { s.silush with seen := k :: s.silush.seen } ∧
      t.reg Reg.silSkew = (if d.natAbs < 64 then s.reg Reg.silSkew else (s.reg Reg.silSkew + 1) % 2 ^ 32) ∧
      (∀ r ∈ [Reg.silState, Reg.silSlot, Reg.silCycle], t.reg r = s.reg r) ∧
      ((∃ c, o = some c) → bit (t.reg Reg.silAbsentMask) k = false ∧ t.reg Reg.silCrcErrors = s.reg Reg.silCrcErrors) ∧
      (¬ (∃ c, o = some c) → t.reg Reg.silAbsentMask = s.reg Reg.silAbsentMask ∧
        t.reg Reg.silCrcErrors = (s.reg Reg.silCrcErrors + 1) % 2 ^ 32) := by
  have hskew : (skewCounted (slotSeen s k) d).silush = { s.silush with seen := k :: s.silush.seen } ∧
      (skewCounted (slotSeen s k) d).reg Reg.silSkew = (if d.natAbs < 64 then s.reg Reg.silSkew else (s.reg Reg.silSkew + 1) % 2 ^ 32) ∧
      ∀ r : Reg, Reg.silSkew.key 0 ≠ r.key 0 → (skewCounted (slotSeen s k) d).reg r = s.reg r := by
    unfold skewCounted
    split
    · exact ⟨rfl, rfl, fun _ _ => rfl⟩
    · exact ⟨rfl, State.reg_count_same .., fun r hr => State.reg_count_other (slotSeen s k) _ _ hr⟩
  obtain ⟨hsil, hcount, hregs⟩ := hskew
  obtain ⟨husil, huregs, hgood, hbad⟩ := takeData_shows (skewCounted (slotSeen s k) d) k o
  rw [hregs _ (by decide)] at hgood
  rw [hregs Reg.silAbsentMask (by decide), hregs Reg.silCrcErrors (by decide)] at hbad
  refine ⟨husil.trans hsil, (huregs _ (by decide) (by decide)).trans hcount, ?_, hgood, hbad⟩
  simp only [List.forall_mem_cons, List.not_mem_nil, false_implies, implies_true, and_true]
  exact ⟨(huregs _ (by decide) (by decide)).trans (hregs _ (by decide)), (huregs _ (by decide) (by decide)).trans (hregs _ (by decide)),
    (huregs _ (by decide) (by decide)).trans (hregs _ (by decide))⟩

/-! ### Collisions -/

/-- A slot marked COLLIDED, and the run of the engine's own collisions where it counts. -/
def collidedSlot (s : State) (k : Nat) (own : Bool) : State :=
  (s.count Reg.silCollided 0).modSil fun x => { x with collided := k :: x.collided, collRun := if own then x.collRun + 1 else x.collRun }

theorem collide_eq {s : State} {k : Nat} (h : s.silush.collided.contains k = false) : collide s k =
    let own := decide (k = s.reg Reg.silSlot) && s.silush.sent
    if own ∧ 3 ≤ s.silush.collRun + 1 ∧ s.silSt = 3 then silFails (collidedSlot s k own) 4 0xFF90 else collidedSlot s k own := by
  have hslot : (s.count Reg.silCollided 0).reg Reg.silSlot = s.reg Reg.silSlot := State.reg_count_other _ _ _ (by decide)
  have hst : (s.count Reg.silCollided 0).silSt = s.silSt := State.reg_count_other _ _ _ (by decide)
  unfold collide
  rw [if_neg (by rw [h]; exact Bool.false_ne_true)]
  extract_lets v run u own
  have hcond : (k = v.reg Reg.silSlot ∧ v.silush.sent = true) ↔ own = true := by
    show (k = (s.count Reg.silCollided 0).reg Reg.silSlot ∧ s.silush.sent = true) ↔ _
    rw [hslot]
    simp [own]
  have hu : u.silSt = s.silSt := hst
  by_cases hown : own = true
  · rw [if_pos (hcond.mpr hown), hu, hown]
    simp only [true_and]
    rfl
  · rw [if_neg (fun h => hown (hcond.mp h)), if_neg (fun h => hown h.1), Bool.eq_false_iff.mpr hown]
    rfl

/-- What a collision shows. -/
theorem collide_shows {s : State} {k : Nat} (h : s.silush.collided.contains k = false) :
    let t := collide s k
    t.silush.collided = k :: s.silush.collided ∧ t.reg Reg.silCollided = (s.reg Reg.silCollided + 1) % 2 ^ 32 ∧
      t.reg Reg.silAbsentMask = s.reg Reg.silAbsentMask ∧
      (k = s.reg Reg.silSlot → s.silush.sent = true → s.silSt = 3 → 2 ≤ s.silush.collRun → t.silSt = 4 ∧
        (s.links.emcys.length < 32 → ∃ e, t.links.emcys = s.links.emcys ++ [e] ∧ e.code = 0xFF90)) := by
  intro t
  have ht : t = _ := collide_eq h
  generalize hown : (decide (k = s.reg Reg.silSlot) && s.silush.sent) = own at ht
  dsimp only at ht
  have hfails := silFails_shows (collidedSlot s k own) 4 0xFF90
  have hcount : (collidedSlot s k own).reg Reg.silCollided = (s.reg Reg.silCollided + 1) % 2 ^ 32 := State.reg_count_same ..
  have hmask : (collidedSlot s k own).reg Reg.silAbsentMask = s.reg Reg.silAbsentMask :=
    State.reg_count_other s (r' := Reg.silCollided) (m := 0) 32 1 (by decide)
  have hcoll : (collidedSlot s k own).silush.collided = k :: s.silush.collided := rfl
  have hlinks : (collidedSlot s k own).links = s.links := rfl
  rw [ht]
  split
  · rw [hfails.silush (by decide), hfails.reg _ (by simp), hfails.reg _ (by simp), ← hlinks]
    exact ⟨hcoll, hcount, hmask, fun _ _ _ _ => ⟨hfails.state, hfails.emcy⟩⟩
  · next hnot =>
    refine ⟨hcoll, hcount, hmask, fun hk hsent hst hrun => absurd ⟨?_, by omega, hst⟩ hnot⟩
    rw [← hown, hk, hsent]
    simp

/-! ### Ranging, the own burst and absence -/

theorem delayOk_iff (s : State) (a : Nat) : delayOk s a = true ↔ a + 8192 ≤ slotStart s (s.reg Reg.silSlot) := by
  simp only [delayOk, decide_eq_true_eq]
  rfl

theorem slotStart_of_reg {s t : State} (h : t.reg Reg.silCycle = s.reg Reg.silCycle) (k : Nat) : slotStart t k = slotStart s k := by
  rw [slotStart, slotStart, h]

theorem delayOk_of_reg {s t : State} (hcycle : t.reg Reg.silCycle = s.reg Reg.silCycle) (hslot : t.reg Reg.silSlot = s.reg Reg.silSlot) (a : Nat) :
    delayOk t a = delayOk s a := by
  rw [delayOk, delayOk, hslot, slotStart_of_reg hcycle]

/-- The ranging burst, measured; `c` is its data. -/
def rangeMeasured (s : State) (c : Option (BitVec 56)) (a : Nat) : State :=
  (countCrc s c).modSil fun x => { x with loopDelay := a, rangeSent := none, collRun := 0, seen := s.reg Reg.silSlot :: x.seen }

theorem countCrc_reg (s : State) (d : Option (BitVec 56)) {r : Reg} (h : Reg.silCrcErrors.key 0 ≠ r.key 0) : (countCrc s d).reg r = s.reg r := by
  cases d with
  | some _ => rfl
  | none => exact State.reg_count_other _ _ _ h

theorem countCrc_rest (s : State) (d : Option (BitVec 56)) : (countCrc s d).silush = s.silush ∧ (countCrc s d).links = s.links := by
  cases d <;> exact ⟨rfl, rfl⟩

theorem rangeMeasured_shows (s : State) (c : Option (BitVec 56)) (a : Nat) :
    (∀ r : Reg, Reg.silCrcErrors.key 0 ≠ r.key 0 → (rangeMeasured s c a).reg r = s.reg r) ∧ (rangeMeasured s c a).links = s.links ∧
      (rangeMeasured s c a).silush.loopDelay = a ∧ (rangeMeasured s c a).silush.rangeSent = none :=
  ⟨fun _ h => countCrc_reg s c h, (countCrc_rest s c).2, rfl, rfl⟩

theorem rangeHeard_eq (s : State) (c : Option (BitVec 56)) (a : Nat) :
    rangeHeard (countCrc s c) a = rangeSettles (rangeMeasured s c a) (delayOk s a) := by
  have hslot : (countCrc s c).reg Reg.silSlot = s.reg Reg.silSlot := countCrc_reg s c (by decide)
  have hregs := (rangeMeasured_shows s c a).1
  rw [← delayOk_of_reg (hregs Reg.silCycle (by decide)) (hregs Reg.silSlot (by decide)) a, rangeHeard, rangeMeasured, hslot]

/-- What a measured loop delay shows (R320, R323). -/
theorem rangeHeard_shows (s : State) (c : Option (BitVec 56)) (a : Nat) :
    let t := rangeHeard (countCrc s c) a
    t.silush.loopDelay = a ∧ t.silush.rangeSent = none ∧ (a + 8192 ≤ slotStart s (s.reg Reg.silSlot) → t.silSt = 3) ∧
      (¬ a + 8192 ≤ slotStart s (s.reg Reg.silSlot) → t.silSt = 5 ∧ (s.silSt ≠ 5 → s.links.emcys.length < 32 →
        ∃ e, t.links.emcys = s.links.emcys ++ [e] ∧ e.code = 0xFF92)) := by
  intro t
  have ht : t = rangeSettles (rangeMeasured s c a) (delayOk s a) := rangeHeard_eq s c a
  obtain ⟨hregs, hlink, hloop, hsent⟩ := rangeMeasured_shows s c a
  have hst : (rangeMeasured s c a).silSt = s.silSt := hregs _ (by decide)
  generalize rangeMeasured s c a = v at *
  have hfails := silFails_shows v 5 0xFF92
  rw [ht, ← delayOk_iff, rangeSettles]
  cases hok : delayOk s a with
  | true =>
    exact ⟨hloop, hsent, fun _ => State.reg_setReg_same .., fun hno => absurd rfl hno⟩
  | false =>
    rw [if_neg Bool.false_ne_true, hst]
    split
    · next h5 => exact ⟨hloop, hsent, (fun hno => by cases hno), fun _ => ⟨hst.trans h5, fun hne => absurd h5 hne⟩⟩
    · rw [hfails.silush (by decide), ← hlink]
      exact ⟨hloop, hsent, (fun hno => by cases hno), fun _ => ⟨hfails.state, fun _ => hfails.emcy⟩⟩

/-- The loop delay after an own burst (R324). -/
def movedDelay (a : Nat) (d : Int) : Nat := if 64 ≤ d then a + 64 else if d ≤ -64 then a - 64 else a

theorem ownBurst_shows {s : State} {b : Burst} {o : Option (BitVec 56)} {d : Int} {a : Nat} (ho : burstData b.bits = o) (hst : s.silSt = 3) (hsent : s.silush.sent = true)
    (hseen : s.silush.seen.contains (s.reg Reg.silSlot) = false) (hcollided : s.silush.collided.contains (s.reg Reg.silSlot) = false)
    (hd : burstOffset s (s.reg Reg.silSlot) b = d) (ha : movedDelay s.silush.loopDelay d = a) (hearly : -512 ≤ d)
    (hlate : d + 512 + 5632 ≤ ((slotStart s (s.reg Reg.silSlot + 1) - slotStart s (s.reg Reg.silSlot) : Nat) : Int)) :
    let t := ownBurst s b
    t.silush.loopDelay = a ∧ t.silSt = if a + 8192 ≤ slotStart s (s.reg Reg.silSlot) then 3 else 5 := by
  intro t
  obtain ⟨hsil, -, hregs, -, -⟩ := burstTaken_shows s (s.reg Reg.silSlot) d o
  simp only [List.forall_mem_cons, List.not_mem_nil, false_implies, implies_true, and_true] at hregs
  obtain ⟨hstate, hslot, hcycle⟩ := hregs
  have ht : t = if delayOk s a then (burstTaken s (s.reg Reg.silSlot) d o).modSil (fun y => { y with loopDelay := a })
      else silFails ((burstTaken s (s.reg Reg.silSlot) d o).modSil (fun y => { y with loopDelay := a })) 5 0xFF92 := by
    have hdelay := delayOk_of_reg (t := (burstTaken s (s.reg Reg.silSlot) d o).modSil (fun y => { y with loopDelay := a })) hcycle hslot a
    have hloop : (burstTaken s (s.reg Reg.silSlot) d o).silush.loopDelay = s.silush.loopDelay := by rw [hsil]
    show ownBurst s b = _
    rw [← hdelay]
    have ha : (if (ui : Int) ≤ d then s.silush.loopDelay + ui else if d ≤ -(ui : Int) then s.silush.loopDelay - ui else s.silush.loopDelay) = a := ha
    unfold ownBurst
    rw [if_neg (by simp [hst, hsent])]
    dsimp only
    rw [hd, classBurst_accepted hearly hlate hseen hcollided]
    rw [if_pos rfl, if_neg (by simp), useData, ho, ← burstTaken, hloop, ha]
  have hfails := silFails_shows ((burstTaken s (s.reg Reg.silSlot) d o).modSil (fun y => { y with loopDelay := a })) 5 0xFF92
  have hst' : (burstTaken s (s.reg Reg.silSlot) d o).silSt = 3 := hstate.trans hst
  rw [ht]
  split
  · next hok => exact ⟨rfl, by rw [if_pos ((delayOk_iff s a).mp hok)]; exact hst'⟩
  · next hnot =>
    rw [hfails.silush (by decide), hfails.state, if_neg fun h => hnot ((delayOk_iff s a).mpr h)]
    exact ⟨rfl, rfl⟩

theorem slotAbsent_shows {s : State} {k : Nat} (hst : s.silSt ≠ 0) (hbit : bit (s.reg Reg.silAbsentMask) k = false)
    (hrun : 4 ≤ tabGet 0 s.silush.absentRun k) :
    let t := slotAbsent s k
    bit (t.reg Reg.silAbsentMask) k = true ∧ (k ≠ 0 → t.silSt = s.silSt) ∧
      (k = 0 → t.silSt = 1 ∧ (s.links.emcys.length < 32 → ∃ e, t.links.emcys = s.links.emcys ++ [e] ∧ e.code = 0xFF91) ∧ t.beat = s.beat) := by
  intro t
  have ht : t = if k = 0 then silFails (s.setReg Reg.silAbsentMask 0 (s.reg Reg.silAbsentMask ||| 2 ^ k)) 1 0xFF91
      else s.setReg Reg.silAbsentMask 0 (s.reg Reg.silAbsentMask ||| 2 ^ k) := if_neg (by simp [hst, hbit]; omega)
  have hfails := silFails_shows (s.setReg Reg.silAbsentMask 0 (s.reg Reg.silAbsentMask ||| 2 ^ k)) 1 0xFF91
  rw [ht]
  split
  · next hk =>
    rw [hfails.reg _ (by simp), State.reg_setReg_same]
    exact ⟨bit_or_two_pow .., fun hne => absurd hk hne, fun _ => ⟨hfails.state, hfails.emcy, hfails.beat⟩⟩
  · next hk =>
    rw [State.reg_setReg_same]
    exact ⟨bit_or_two_pow .., fun _ => State.reg_setReg_other _ _ (by decide), fun h => absurd h hk⟩

/-! ### SIL_REENABLE -/

/-- The row of SIL_REENABLE in the table of objects. -/
def silReenableRow : ObjRow := ⟨Reg.silReenable, 1, 1, .unsigned 1, .wo, .range 1 1⟩

theorem silReenable_writes {s : State} (h : s.mode.online = true) :
    exec (.silReenable [1#8]) s = done s ((silReenabled s).emit (.status 0)) := by
  have hoff : s.mode ≠ .off := by rintro hoff; rw [hoff] at h; exact Bool.false_ne_true h
  have hfound : findObject s 0x2300 0x05 = .object silReenableRow := findObject_of_mem (by decide +kernel) (by decide) rfl
  have howner : ownerWrite (standingInputs s) silReenableRow.reg (silReenableRow.unit 0x2300) (0x05 - silReenableRow.reg.sub) (leNat [1#8]) s =
      (scOk, silReenabled s) := rfl
  exact congrArg (done s) (hostWrites_accepted hoff hfound rfl (if_pos (.inl h)) rfl rfl howner)

theorem silReenabled_silSt (s : State) : (silReenabled s).silSt = if s.silSt = 4 then 2 else s.silSt := by
  unfold silReenabled
  split
  · exact State.reg_setReg_same ..
  · rfl

/-- A ranging burst that returns, with its data and its delay. -/
theorem rangingReturn_shows {s : State} {b : Burst} {sent a : Nat} {o : Option (BitVec 56)} (hsent : s.silush.rangeSent = some sent)
    (ho : burstData b.bits = o) (ha : arrival s b - sent = a) : ∃ t, exec (.rangingReturn b) s = .next t ∧ t.silush.loopDelay = a ∧
      t.silush.rangeSent = none ∧ (a + 8192 ≤ slotStart s (s.reg Reg.silSlot) → t.silSt = 3) ∧
      (¬ a + 8192 ≤ slotStart s (s.reg Reg.silSlot) → t.silSt = 5 ∧ (s.silSt ≠ 5 → s.links.emcys.length < 32 →
        ∃ e, t.links.emcys = s.links.emcys ++ [e] ∧ e.code = 0xFF92)) := by
  have hreturns : rangingReturns s b = rangeHeard (countCrc s o) a := by rw [rangingReturns, hsent, ← ho, ← ha]
  exact ⟨_, congrArg (done s) hreturns, rangeHeard_shows s o a⟩

/-- The first burst of a slot, within its window. -/
theorem slotBurst_accepted {s : State} {k : Nat} {b : Burst} {o : Option (BitVec 56)} {d : Int} (ho : burstData b.bits = o)
    (hd : burstOffset s k b = d) (hst : s.silSt ≠ 0) (hknown : s.silush.originKnown = true) (hearly : -512 ≤ d)
    (hlate : d + 512 + 5632 ≤ ((slotStart s (k + 1) - slotStart s k : Nat) : Int)) (hseen : s.silush.seen.contains k = false)
    (hcollided : s.silush.collided.contains k = false) : ∃ t, slotBurst s k b = t ∧
      t.silush = { s.silush with seen := k :: s.silush.seen } ∧
      t.reg Reg.silSkew = (if d.natAbs < 64 then s.reg Reg.silSkew else (s.reg Reg.silSkew + 1) % 2 ^ 32) ∧
      ((∃ c, o = some c) → bit (t.reg Reg.silAbsentMask) k = false ∧ t.reg Reg.silCrcErrors = s.reg Reg.silCrcErrors) ∧
      (¬ (∃ c, o = some c) → t.reg Reg.silAbsentMask = s.reg Reg.silAbsentMask ∧
        t.reg Reg.silCrcErrors = (s.reg Reg.silCrcErrors + 1) % 2 ^ 32) := by
  have hburst : slotBurst s k b = burstTaken s k d o := by
    unfold slotBurst
    rw [if_neg (by simp [hst, hknown])]
    dsimp only
    rw [hd, classBurst_accepted hearly hlate hseen hcollided]
    dsimp only
    rw [if_pos rfl, useData, ho, ← burstTaken]
  obtain ⟨hsil, hskew, -, hgood, hbad⟩ := burstTaken_shows s k d o
  exact ⟨_, hburst, hsil, hskew, hgood, hbad⟩

/-! ### O55 -/

/-- Settles O55, by the classes of Table 14.4 and the entries of Table 14.5. -/
theorem silushRangesAndClassesBursts : Obligations.SilushRangesAndClassesBursts := by
  unfold Obligations.SilushRangesAndClassesBursts
  intro s b k hk x slot start d inside fits rang fresh good
  have hslotBurst (t : State) (h : slotBurst s k b = t) : exec (.slotBurst k b) s = done s t := by
    show onUnit _ s (slotBurst s k b) = _
    rw [h]
    exact onUnit_present s t (by simpa using hk)
  have hslotAbsent (t : State) (h : slotAbsent s k = t) : exec (.slotAbsent k) s = done s t := by
    show onUnit _ s (slotAbsent s k) = _
    rw [h]
    exact onUnit_present s t (by simpa using hk)
  refine ⟨fun sent hsent => ?_, fun hnone => ?_, fun hst hsent hfresh hin => ?_, fun hno => ?_, fun hst hknown hfresh hin => ?_,
    fun hst hknown hseen hcollided hin => ?_, fun hst hbit hrun => ?_, fun hrun => ?_, fun honline => ?_⟩
  · exact rangingReturn_shows hsent rfl rfl
  · have hsame : rangingReturns s b = s := by rw [rangingReturns, hnone]
    exact congrArg (done s) hsame
  · have hshows := ownBurst_shows (b := b) rfl hst hsent hfresh.1 hfresh.2 rfl rfl hin.1 hin.2
    have hexec : exec (.ownBurst b) s = done s (ownBurst s b) := rfl
    generalize ownBurst s b = t at *
    exact ⟨_, hexec, hshows⟩
  · have hsame : ownBurst s b = s := if_pos (hno.imp_right fun h => by simp [show s.silush.sent = false from h])
    exact congrArg (done s) hsame
  · obtain ⟨t, ht, hsil, hskew, hgood, hbad⟩ := slotBurst_accepted (o := burstData b.bits) rfl (d := d k) rfl hst hknown hin.1 hin.2 hfresh.1 hfresh.2
    have hseen : t.silush.seen = k :: s.silush.seen := by rw [hsil]
    have hcollided : t.silush.collided = s.silush.collided := by rw [hsil]
    rw [hslotBurst t ht]
    exact ⟨_, rfl, hseen, hcollided, hskew, hgood, hbad⟩
  · have hburst : slotBurst s k b = collide (slotSeen s k) k := by
      unfold slotBurst
      rw [if_neg (by simp [hst, show s.silush.originKnown = true from hknown])]
      dsimp only
      rw [show burstOffset s k b = d k from rfl, classBurst_again hin.1 hin.2 hseen]
      rfl
    obtain ⟨hcoll, hcount, hmask, hsilent⟩ := collide_shows (s := slotSeen s k) hcollided
    rw [hslotBurst _ hburst]
    generalize collide (slotSeen s k) k = t at *
    exact ⟨_, rfl, hcoll, hcount, hmask, hsilent⟩
  · have hshows := slotAbsent_shows hst hbit hrun
    rw [hslotAbsent _ rfl]
    generalize slotAbsent s k = t at *
    exact ⟨_, rfl, hshows⟩
  · exact hslotAbsent s (if_pos (.inr (.inr hrun)))
  · have hst := silReenabled_silSt s
    rw [silReenable_writes honline]
    generalize silReenabled s = t at *
    exact ⟨_, rfl, rfl, hst⟩

end Sys2Proof.Machine
end

section
/-! SUPPORT. PWR_DOMAIN_ON: what switching a domain on or off leaves (R394 to R398, R401). -/

namespace Sys2Proof.Machine

/-! ### The write -/

/-- The row of PWR_DOMAIN_ON in the table of objects. -/
def pwrDomainOnRow : ObjRow := ⟨Reg.pwrDomainOn, 128, 1, .boolean, .rw, .range 0 1⟩

theorem pwrDomainOnRow_mem : pwrDomainOnRow ∈ objRows := by decide +kernel

theorem domain_present (s : State) (d : Nat) : unitPresent s (0x4001 + d) = true := by
  unfold unitPresent
  repeat rw [if_neg (by rw [indexIn_iff]; omega)]

theorem ownerWrite_pwrDomainOn (b : BootInputs) (d v : Nat) (s : State) : ownerWrite b Reg.pwrDomainOn d 0 v s = domainOnWrite d v s := rfl

section
variable {s : State} {d : Nat} (hd : d < 128) (honline : s.mode.online = true)
include hd honline

/-- A write of PWR_DOMAIN_ON answers the code of its rule, and a refusal counts (R266, R394). -/
theorem pwrDomainOn_exec {v : Byte} (hv : v.toNat ≤ 1) {c : Nat} {t : State} (h : domainOnWrite d v.toNat s = (c, t)) :
    exec (.pwrDomainOn d [v]) s = .next { (countRefusal (c, t)).2.emit (.status c) with pending := s.pending } := by
  have hoff : s.mode ≠ .off := by
    intro hoff
    rw [hoff] at honline
    exact Bool.false_ne_true honline
  have hval : leNat [v] = v.toNat := rfl
  have howner : ownerWrite (standingInputs s) pwrDomainOnRow.reg (pwrDomainOnRow.unit (0x4001 + d)) (1 - pwrDomainOnRow.reg.sub)
      (leNat [v]) s = (c, t) := by
    rw [hval, show pwrDomainOnRow.unit (0x4001 + d) = d from Nat.add_sub_cancel_left .., ← h]
    exact ownerWrite_pwrDomainOn ..
  have hwrite : hostWrite (0x4001 + d) 1 [v] s = (countRefusal (c, t)).2.emit (.status c) :=
    hostWrites_number hoff (findObject_of_mem pwrDomainOnRow_mem (ObjRow.holds_unit (r := pwrDomainOnRow) (n := d) hd (by decide))
      (domain_present s d)) rfl (if_pos (.inl honline)) rfl (by simpa [pwrDomainOnRow, Check.ok, hval] using hv) howner
  have hexec : exec (.pwrDomainOn d [v]) s = onUnit (decide (d < 128)) s (hostWrite (0x4001 + d) 1 [v] s) := rfl
  rw [hexec, hwrite]
  exact onUnit_present _ _ (decide_eq_true hd)

theorem pwrDomainOn_accepted {v : Byte} (hv : v.toNat ≤ 1) {t : State} (h : domainOnWrite d v.toNat s = (scOk, t)) :
    exec (.pwrDomainOn d [v]) s = .next { t.emit (.status 0) with pending := s.pending } := pwrDomainOn_exec hd honline hv h

theorem pwrDomainOn_refused {v : Byte} (hv : v.toNat ≤ 1) {c : Nat} (hc : c ≠ scOk) (h : domainOnWrite d v.toNat s = (c, s)) :
    exec (.pwrDomainOn d [v]) s = .next ((s.count Reg.odWritesRefused 0).emit (.status c)) := by
  have hcount : (countRefusal (c, s)).2 = s.count Reg.odWritesRefused 0 := by
    rw [countRefusal, if_neg hc]
    rfl
  rw [pwrDomainOn_exec hd honline hv h, hcount]
  rfl

end

/-! ### What the loss of a domain leaves of the others -/

/-- What a filter keeps of a table reads as before. -/
theorem tabGet_filter_kept {α : Type} (d : α) (p : Nat × α → Bool) (t : List (Nat × α)) {a : Nat} (hp : ∀ v, p (a, v) = true) :
    tabGet d (t.filter p) a = tabGet d t a := by
  induction t with
  | nil => rfl
  | cons e t ih =>
    obtain ⟨k, v⟩ := e
    rw [List.filter_cons]
    split
    · rw [tabGet, tabGet, ih]
    · next hkv =>
      have hk : k ≠ a := by rintro rfl; exact hkv (hp v)
      rw [tabGet, if_neg hk, ih]

/-- Between two states the domains and the clocks stand as they were. -/
structure DomainsKept (s t : State) : Prop where
  states : ∀ x < 128, t.domainState x = s.domainState x
  clocks : t.clocks = s.clocks

namespace DomainsKept

theorem refl (s : State) : DomainsKept s s := ⟨fun _ _ => rfl, rfl⟩

theorem trans {s t u : State} (h : DomainsKept s t) (k : DomainsKept t u) : DomainsKept s u :=
  ⟨fun x hx => (k.states x hx).trans (h.states x hx), k.clocks.trans h.clocks⟩

theorem of_regs {s t : State} (hr : t.regs = s.regs) (hc : t.clocks = s.clocks) : DomainsKept s t :=
  ⟨fun x _ => State.reg_of_regs hr _ x, hc⟩

theorem setReg (s : State) {r : Reg} {n : Nat} (v : Nat) (h : ∀ x < 128, r.key n ≠ Reg.pwrDomainState.key x) : DomainsKept s (s.setReg r n v) :=
  ⟨fun x hx => State.reg_setReg_other _ _ (h x hx), rfl⟩

theorem setReg_of_sub (s : State) {r : Reg} (n v : Nat) (hs : r.sub < 256) (h2 : r.sub ≠ 2) : DomainsKept s (s.setReg r n v) :=
  setReg s v fun x _ => Reg.key_ne_of_sub hs (by decide) h2 n x

theorem foldl {α : Type} {f : State → α → State} (h : ∀ s x, DomainsKept s (f s x)) (l : List α) (s : State) : DomainsKept s (l.foldl f s) :=
  foldl_holds (DomainsKept s) f (fun t x ht => ht.trans (h t x)) l s (refl s)

/-! ### Islands -/

theorem emptyPlane (s : State) (x : PlaneId) : DomainsKept s (emptyPlane s x) :=
  ⟨fun _ _ => State.reg_setReg_other _ _ fun h => planeReg_key_ne_of_sub (by decide) (by decide) (by decide) _ _ _ h.symm, rfl⟩

theorem wipeIsland (s : State) (i : Nat) : DomainsKept s (wipeIsland s i) := of_regs rfl rfl

/-! ### Harbours -/

theorem dropEngineObjects (s : State) {h : Nat} (hh : h < 16) : DomainsKept s (dropEngineObjects s h) := by
  refine ⟨fun x hx => ?_, rfl⟩
  refine tabGet_filter_kept _ _ _ fun v => ?_
  have hindex : Reg.pwrDomainState.key x / 256 = 0x4001 + x := by
    simp only [Reg.key, Reg.pwrDomainState]
    omega
  simp only [hindex]
  simp
  omega

theorem wipeHarbour (s : State) {h : Nat} (hh : h < 16) : DomainsKept s (wipeHarbour s h) := by
  unfold Machine.wipeHarbour
  extract_lets u v
  refine trans ?_ (dropEngineObjects _ hh)
  exact of_regs rfl rfl

/-! ### Lanes -/

theorem degradeHome (s : State) (l : Nat) : DomainsKept s (degradeHome s l) := by
  unfold Machine.degradeHome
  split
  · refine ⟨fun x _ => ?_, degrade_clocks ..⟩
    unfold degrade
    dsimp only
    split
    · exact State.reg_count_other _ _ _ (Reg.key_ne_of_sub (by decide) (by decide) (by decide) _ _)
    · rfl
  · exact refl s

theorem leaveAligned (s : State) (l st : Nat) : DomainsKept s (leaveAligned s l st) := by
  have hhome : DomainsKept s (if s.laneSt l = lsAligned then Machine.degradeHome s l else s) := by
    split
    · exact degradeHome s l
    · exact refl s
  unfold Machine.leaveAligned
  extract_lets u v
  have hlane : DomainsKept u v := of_regs rfl rfl
  exact (hhome.trans hlane).trans (setReg_of_sub (r := Reg.laneState) v l st (by decide) (by decide))

theorem laneDown (s : State) (l : Nat) : DomainsKept s (laneDown s l) := by
  unfold Machine.laneDown
  extract_lets u v
  have hlane : DomainsKept u v := of_regs rfl rfl
  exact ((leaveAligned s l lsDown).trans hlane).trans (setReg_of_sub (r := Reg.lanePrbsLock) v l 0 (by decide) (by decide))

theorem darkLanes (s : State) (h : Nat) : DomainsKept s (darkLanes s h) := by
  unfold Machine.darkLanes
  extract_lets up
  refine trans ?_ (foldl (fun s l => laneDown s l) up _)
  exact of_regs rfl rfl

end DomainsKept

/-! ### Decoupling queues that hold evicted lines alone -/

/-- The decoupling queues hold nothing but evicted lines. -/
def EvictsOnly (s : State) : Prop := ∀ h d, ∀ i ∈ (s.harbour h).dq d, i.use = .evict

/-- A step of the decoupling queues, where they hold evicted lines alone: nothing else moves. -/
structure EvictsMoved (s t : State) : Prop where
  regs : t.regs = s.regs
  clocks : t.clocks = s.clocks
  mem : t.mem = s.mem
  evicts : EvictsOnly t

theorem EvictsMoved.trans {s t u : State} (h : EvictsMoved s t) (k : EvictsMoved t u) : EvictsMoved s u :=
  ⟨k.regs.trans h.regs, k.clocks.trans h.clocks, k.mem.trans h.mem, k.evicts⟩

theorem EvictsOnly.moved {s : State} (hs : EvictsOnly s) : EvictsMoved s s := ⟨rfl, rfl, rfl, hs⟩

theorem evictsMoved_foldl {α : Type} {f : State → α → State} (hf : ∀ s x, EvictsOnly s → EvictsMoved s (f s x)) (l : List α) {s : State}
    (hs : EvictsOnly s) : EvictsMoved s (l.foldl f s) :=
  foldl_holds (EvictsMoved s) f (fun t x ht => ht.trans (hf t x ht.evicts)) l s hs.moved

/-- A change of the queues of one harbour. -/
theorem EvictsOnly.modHarbour {s : State} (hs : EvictsOnly s) (h : Nat) {f : Harbour → Harbour}
    (hf : ∀ d, ∀ i ∈ (f (s.harbour h)).dq d, i.use = .evict) : EvictsMoved s (s.modHarbour h f) := by
  refine ⟨rfl, rfl, rfl, fun g d i hi => ?_⟩
  by_cases hg : h = g
  · subst hg
    rw [State.harbour_modHarbour] at hi
    exact hf d i hi
  · rw [State.harbour_modHarbour_other _ _ hg] at hi
    exact hs g d i hi

/-- A change of one queue. -/
theorem EvictsOnly.queue {s : State} (hs : EvictsOnly s) (h d : Nat) {f : List Item → List Item}
    (hf : ∀ l, (∀ i ∈ l, i.use = .evict) → ∀ i ∈ f l, i.use = .evict) :
    EvictsMoved s (s.modHarbour h fun x => { x with dqs := tabMod [] x.dqs d f }) := by
  refine hs.modHarbour h fun k i hi => ?_
  simp only [Harbour.dq, tabMod, tabGet_tabSet] at hi
  split at hi
  · exact hf _ (hs h d) i hi
  · exact hs h k i hi

theorem listMod_use {l : List Item} (hl : ∀ i ∈ l, i.use = .evict) (n : Nat) :
    ∀ i ∈ listMod l n fun i => { i with taken := true }, i.use = .evict := by
  intro i hi
  rcases listMod_mem hi with h | ⟨j, hj, rfl⟩
  · exact hl i h
  · exact hl j hj

theorem EvictsOnly.takeOne {s t : State} {g : Nat} (hs : EvictsOnly s) (h : takeOne s g = some t) : EvictsMoved s t := by
  unfold Machine.takeOne at h
  split at h
  · cases h
  · obtain ⟨m, -, hm⟩ := List.exists_of_findSome?_eq_some h
    obtain ⟨p, -, rfl⟩ := Option.map_eq_some_iff.1 hm
    have hmod := hs.queue p.1 p.2.1 (f := fun l => listMod l p.2.2 fun i => { i with taken := true }) fun l hl => listMod_use hl _
    exact hmod.trans (hmod.evicts.modHarbour g (hmod.evicts g))

theorem EvictsOnly.takeAll {s : State} (hs : EvictsOnly s) (g n : Nat) : EvictsMoved s (takeAll g n s) := by
  induction n generalizing s with
  | zero => exact hs.moved
  | succ n ih =>
    rw [Machine.takeAll]
    split
    · next t ht =>
      have hone := hs.takeOne ht
      exact hone.trans (ih hone.evicts)
    · exact hs.moved

theorem EvictsOnly.takeFor {s : State} (hs : EvictsOnly s) (i : Item) : EvictsMoved s (takeFor s i) := by
  unfold Machine.takeFor
  split
  · split
    · exact hs.takeAll _ _
    · exact hs.moved
  · exact hs.moved

/-- An evicted line enters its queue. -/
theorem EvictsOnly.appendItem {s : State} (hs : EvictsOnly s) (h d : Nat) {i : Item} (hi : i.use = .evict) : EvictsMoved s (appendItem s h d i) := by
  have hfill : i.fill = none := by simp [Item.fill, Item.reads, hi]
  have hstate : (launchItem s h i).1 = s := by
    simp only [launchItem, countFill, loseFill, hfill]
    split <;> rfl
  obtain ⟨_, _, _, _, hq⟩ := queuedItem_eq s h d i
  have hqueued : EvictsMoved s (queued s h d i) := by
    rw [queued, hstate]
    refine hs.queue h d fun l hl j hj => ?_
    rcases List.mem_append.1 hj with hj | hj
    · exact hl j hj
    · rw [List.mem_singleton.1 hj, hq]
      exact hi
  rw [appendItem_eq]
  exact hqueued.trans (hqueued.evicts.takeFor _)

theorem EvictsOnly.drainOne {s : State} (hs : EvictsOnly s) (h : Nat) : EvictsMoved s (drainOne s h) := by
  unfold Machine.drainOne
  have hvictims := hs.modHarbour h (f := fun y => { y with victims := y.victims.drop (512 - ((s.harbour h).dq 3).length) }) (hs h)
  exact hvictims.trans (evictsMoved_foldl (fun t l ht => ht.appendItem h 3 rfl) _ hvictims.evicts)

theorem EvictsOnly.drainVictims {s : State} (hs : EvictsOnly s) : EvictsMoved s (drainVictims s) :=
  evictsMoved_foldl (fun _ h ht => ht.drainOne h) _ hs

theorem nextItem_mem {p skip : Item → Bool} {l : List Item} {x : Item × List Item} (h : nextItem p skip l = some x) :
    x.1 ∈ l ∧ ∀ i ∈ x.2, i ∈ l := by
  induction l generalizing x with
  | nil => cases h
  | cons i l ih =>
    rw [nextItem] at h
    split at h
    · cases h
      exact ⟨List.mem_cons_self .., fun j hj => List.mem_cons_of_mem _ hj⟩
    · split at h
      · obtain ⟨y, hy, rfl⟩ := Option.map_eq_some_iff.1 h
        obtain ⟨hmem, hrest⟩ := ih hy
        refine ⟨List.mem_cons_of_mem _ hmem, fun j hj => ?_⟩
        rcases List.mem_cons.1 hj with rfl | hj
        · exact List.mem_cons_self ..
        · exact List.mem_cons_of_mem _ (hrest j hj)
      · cases h

/-- An evicted line that is delivered does nothing. -/
theorem deliverItem_evict (s : State) (h : Nat) {i : Item} (hi : i.use = .evict) : deliverItem s h i = s := by
  unfold deliverItem useItem
  simp [hi]

theorem EvictsOnly.deliverHead {s : State} (hs : EvictsOnly s) (p skip : Item → Bool) (h d n : Nat) : EvictsMoved s (deliverHead p skip h d n s) := by
  induction n generalizing s with
  | zero => exact hs.moved
  | succ n ih =>
    rw [Machine.deliverHead]
    split
    · next x hx =>
      obtain ⟨hmem, hrest⟩ := nextItem_mem hx
      rw [deliverItem_evict _ _ (hs h d _ hmem)]
      have hset : EvictsMoved s (s.modHarbour h fun y => { y with dqs := tabSet y.dqs d x.2 }) := by
        refine hs.modHarbour h fun k i hi => ?_
        simp only [Harbour.dq, tabGet_tabSet] at hi
        split at hi
        · exact hs h d i (hrest i hi)
        · exact hs h k i hi
      exact hset.trans (ih hset.evicts)
    · exact hs.moved

theorem EvictsOnly.deliverAll {s : State} (hs : EvictsOnly s) (p skip : Item → Bool) (h : Nat) : EvictsMoved s (deliverAll p skip h s) :=
  evictsMoved_foldl (fun _ d ht => ht.deliverHead p skip h d _) _ hs

theorem EvictsOnly.settle {s : State} (hs : EvictsOnly s) (h : Nat) : EvictsMoved s (settle s h) := by
  have hgroup : EvictsMoved s (settleLockstep s h) := by
    unfold settleLockstep
    dsimp only
    split
    · have hstall := hs.modHarbour h (f := fun x => { x with stalled := false }) (hs h)
      exact hstall.trans (hstall.evicts.deliverAll ..)
    · exact hs.modHarbour h (hs h)
  unfold Machine.settle
  split
  · exact hgroup.trans hgroup.evicts.drainVictims
  · have hall := hs.deliverAll Item.arrived (fun i => i.use == .evict) h
    exact hall.trans hall.evicts.drainVictims


/-! ### Stacks -/

theorem tabGet_tabMap {α : Type} (d : α) (f : Nat → α → α) (t : List (Nat × α)) {k : Nat} (hd : f k d = d) :
    tabGet d (tabMap f t) k = f k (tabGet d t k) := by
  induction t with
  | nil => exact hd.symm
  | cons e t ih =>
    obtain ⟨j, v⟩ := e
    show (if j = k then f j v else tabGet d (tabMap f t) k) = f k (if j = k then v else tabGet d t k)
    split
    · next hjk => rw [hjk]
    · exact ih

theorem tabGet_of_all {α : Type} {d : α} {t : List (Nat × α)} (h : ∀ e ∈ t, e.2 = d) (k : Nat) : tabGet d t k = d := by
  induction t with
  | nil => rfl
  | cons e t ih =>
    rw [tabGet, ih fun x hx => h x (List.mem_cons_of_mem _ hx), h e (List.mem_cons_self ..)]
    split <;> rfl

/-- Where nothing waits, nothing is poisoned in a queue. -/
theorem poisonItems_moved {s : State} (hempty : ∀ y d, (s.harbour y).dq d = []) (h : Nat) :
    (poisonItems s h).regs = s.regs ∧ (poisonItems s h).clocks = s.clocks ∧ (poisonItems s h).mem = s.mem := by
  unfold poisonItems
  extract_lets toStack mark u
  have hu : EvictsOnly u := by
    intro y d i hi
    have hharbour : u.harbour y = { s.harbour y with dqs := tabMap (fun _ l => l.map mark) (s.harbour y).dqs } :=
      tabGet_tabMap Harbour.empty (fun _ (x : Harbour) => { x with dqs := tabMap (fun _ l => l.map mark) x.dqs }) s.harbours rfl
    have hdq : (u.harbour y).dq d = [] := by
      rw [hharbour, Harbour.dq, tabGet_tabMap [] _ _ rfl, show tabGet [] (s.harbour y).dqs d = [] from hempty y d]
      rfl
    rw [hdq] at hi
    cases hi
  have hall := evictsMoved_foldl (fun t y (ht : EvictsOnly t) => ht.settle y) u.harbourList hu
  exact ⟨hall.regs, hall.clocks, hall.mem⟩

theorem wipeStack_shows {s : State} (hempty : ∀ y d, (s.harbour y).dq d = []) (h st : Nat) : DomainsKept s (wipeStack s h st) ∧
    (wipeStack s h st).reg Reg.hbmState h = st ∧ ∀ a < 2 ^ 40, (wipeStack s h st).byte (mkAddr 0 h a) = 0#8 := by
  unfold wipeStack
  extract_lets u
  have hstate : DomainsKept s (s.setReg Reg.hbmState h st) := .setReg_of_sub s h st (by decide) (by decide)
  generalize hv : (u.modHarbour h fun x => { x with hold := [], badLines := [], victims := [] }) = v
  have hv' : v.regs = u.regs ∧ v.clocks = u.clocks ∧ v.mem = u.mem := by
    rw [← hv]
    exact ⟨rfl, rfl, rfl⟩
  have hdqs : ∀ y d, (v.harbour y).dq d = [] := by
    intro y d
    rw [← hv]
    by_cases hy : h = y
    · subst hy
      rw [State.harbour_modHarbour]
      exact hempty h d
    · rw [State.harbour_modHarbour_other _ _ hy]
      exact hempty y d
  obtain ⟨hregs, hclocks, hmem⟩ := poisonItems_moved hdqs h
  have hregs' := hregs.trans hv'.1
  refine ⟨hstate.trans (.of_regs hregs' (hclocks.trans hv'.2.1)), ?_, fun a ha => ?_⟩
  · rw [State.reg_of_regs hregs' Reg.hbmState h]
    exact State.reg_setReg_same ..
  · rw [State.byte, hmem, hv'.2.2]
    refine storeGet_storeClear _ ?_ ?_
    · unfold mkAddr; omega
    · unfold mkAddr; omega

theorem emptyStores_shows (s : State) : DomainsKept s (emptyStores s) ∧ (emptyStores s).mem = s.mem ∧
    ∀ h, (emptyStores s).reg Reg.hbmState h = s.reg Reg.hbmState h := by
  have hmain (t : State) : DomainsKept t (emptyMain t) ∧ (emptyMain t).mem = t.mem ∧
      ∀ h, (emptyMain t).reg Reg.hbmState h = t.reg Reg.hbmState h := by
    refine ⟨⟨fun x _ => State.reg_setReg_other (t.setDomain Reg.imgDomain 0 []) _ ?_, rfl⟩, rfl, fun h =>
      State.reg_setReg_other (t.setDomain Reg.imgDomain 0 []) _ (Reg.key_ne_of_sub (by decide) (by decide) (by decide) _ _)⟩
    simp only [Reg.key, Reg.imgState, Reg.pwrDomainState]
    omega
  have hshadow (t : State) : DomainsKept t (emptyShadow t) ∧ (emptyShadow t).mem = t.mem ∧
      ∀ h, (emptyShadow t).reg Reg.hbmState h = t.reg Reg.hbmState h :=
    ⟨⟨fun x _ => State.reg_setReg_other (t.setDomain Reg.imgShadow 0 []) _ (Reg.key_ne_of_sub (by decide) (by decide) (by decide) _ _), rfl⟩,
      rfl, fun h => State.reg_setReg_other (t.setDomain Reg.imgShadow 0 []) _ (Reg.key_ne_of_sub (by decide) (by decide) (by decide) _ _)⟩
  unfold emptyStores
  extract_lets u v
  have hu : DomainsKept s u ∧ u.mem = s.mem ∧ ∀ h, u.reg Reg.hbmState h = s.reg Reg.hbmState h := by
    by_cases hc : (s.domain Reg.imgDomain).isEmpty
    · rw [show u = s from if_pos hc]
      exact ⟨.refl s, rfl, fun _ => rfl⟩
    · rw [show u = emptyMain s from if_neg hc]
      exact hmain s
  have hv : DomainsKept u v ∧ v.mem = u.mem ∧ ∀ h, v.reg Reg.hbmState h = u.reg Reg.hbmState h := by
    by_cases hc : (u.domain Reg.imgShadow).isEmpty
    · rw [show v = u from if_pos hc]
      exact ⟨.refl u, rfl, fun _ => rfl⟩
    · rw [show v = emptyShadow u from if_neg hc]
      exact hshadow u
  clear_value u v
  exact ⟨(hu.1.trans hv.1).trans (.of_regs rfl rfl), hv.2.1.trans hu.2.1, fun h => (hv.2.2 h).trans (hu.2.2 h)⟩

/-! ### Domains -/

theorem domainHarbour_lt (d : Nat) : domainHarbour d < 16 := Nat.mod_lt _ (by decide)

theorem domainKind_island {d : Nat} (h : d < 64) : domainKind d = .island := if_pos h

theorem domainKind_harbour {d : Nat} (h : 64 ≤ d) (h' : d < 80) : domainKind d = .harbour := by
  rw [domainKind, if_neg (by omega), if_pos h']

theorem domainKind_stack {d : Nat} (h : 80 ≤ d) (h' : d < 96) : domainKind d = .stack := by
  rw [domainKind, if_neg (by omega), if_neg (by omega), if_pos h']

theorem domainKind_lanes {d : Nat} (h : 96 ≤ d) : domainKind d = .optics ∨ domainKind d = .bank := by
  rw [domainKind, if_neg (by omega), if_neg (by omega), if_neg (by omega)]
  split
  · exact .inl rfl
  · exact .inr rfl

theorem domainLost_stack {s : State} {d : Nat} (h : domainKind d = .stack) (hempty : ∀ y e, (s.harbour y).dq e = []) :
    DomainsKept s (domainLost s d) ∧ (domainLost s d).reg Reg.hbmState (domainHarbour d) = 0 ∧
      ∀ a < 2 ^ 40, (domainLost s d).byte (mkAddr 0 (domainHarbour d) a) = 0#8 := by
  have hlost : domainLost s d = emptyStores (wipeStack s (domainHarbour d) 0) := by rw [domainLost, h]
  obtain ⟨hkept, hreg, hbyte⟩ := wipeStack_shows hempty (domainHarbour d) 0
  obtain ⟨hkept', hmem, hreg'⟩ := emptyStores_shows (wipeStack s (domainHarbour d) 0)
  rw [hlost]
  exact ⟨hkept.trans hkept', (hreg' _).trans hreg, fun a ha => by rw [State.byte, hmem]; exact hbyte a ha⟩

theorem domainLost_kept (s : State) {d : Nat} (h : domainKind d ≠ .stack) : DomainsKept s (domainLost s d) := by
  unfold domainLost
  dsimp only
  split
  · exact (DomainsKept.foldl DomainsKept.emptyPlane _ s).trans (.wipeIsland _ d)
  · exact .wipeHarbour s (domainHarbour_lt d)
  · next hk => exact absurd hk h
  · exact .darkLanes s _
  · exact .darkLanes s _

/-! ### An island that is switched off -/

theorem emptyPlane_planeState (s : State) (x : PlaneId) : (emptyPlane s x).planeState x.1 x.2 = 0 :=
  State.reg_setReg_same (State.setPlane { s with tiles := _ } x.1 x.2 Plane.empty) (planeReg x.2) x.1 0

/-- A plane that is EMPTY stays so while others are emptied. -/
theorem emptyPlane_keepsEmpty {s : State} {x : PlaneId} (y : PlaneId) (h : s.planeState x.1 x.2 = 0) : (emptyPlane s y).planeState x.1 x.2 = 0 := by
  show tabGet _ (tabSet s.regs ((planeReg y.2).key y.1) 0) ((planeReg x.2).key x.1) = 0
  rw [tabGet_tabSet]
  split
  · rfl
  · exact h

theorem emptyPlanes_empties (l : List PlaneId) (s : State) : ∀ x ∈ l, (l.foldl emptyPlane s).planeState x.1 x.2 = 0 := by
  induction l generalizing s with
  | nil => exact fun _ hx => nomatch hx
  | cons y l ih =>
    intro x hx
    rcases List.mem_cons.1 hx with rfl | hx
    · exact foldl_holds (fun t => t.planeState x.1 x.2 = 0) emptyPlane (fun t y ht => emptyPlane_keepsEmpty y ht) l _ (emptyPlane_planeState s x)
    · exact ih _ x hx

theorem wipeIsland_tiles (s : State) (d : Nat) : ∀ r < 16, ∀ c < 17, (wipeIsland s d).tileAt (physKey d r c) = Tile.empty := by
  intro r hr c hc
  refine tabGet_filter_none _ _ _ fun v => ?_
  have hrow : physKey d r c / 512 = d := by
    unfold physKey
    omega
  simp [hrow]

theorem domainLost_island (s : State) {d : Nat} (h : d < 64) : (∀ x ∈ planesOn s d, (domainLost s d).planeState x.1 x.2 = 0) ∧
    ∀ r < 16, ∀ c < 17, (domainLost s d).tileAt (physKey d r c) = Tile.empty := by
  have hlost : domainLost s d = wipeIsland ((planesOn s d).foldl emptyPlane s) d := by rw [domainLost, domainKind_island h]
  rw [hlost]
  exact ⟨emptyPlanes_empties _ s, wipeIsland_tiles _ d⟩

/-! ### A domain that is switched off -/

/-- The CONTROL cycle after the present one. -/
def nextControl (s : State) : Nat := 8 * (s.clocks.cycle / 8 + 1)

/-- The state in which a domain is switched off, before what it held is lost. -/
def nowOff (s : State) (d : Nat) : State := (s.runTo (nextControl s)).setDomainState d 0

theorem nowOff_shows (s : State) (d : Nat) : (nowOff s d).domainState d = 0 ∧ (∀ x, x ≠ d → (nowOff s d).domainState x = s.domainState x) ∧
    (nowOff s d).clocks.cycle = nextControl s ∧ (∀ y, (nowOff s d).harbour y = s.harbour y) ∧ planesOn (nowOff s d) d = planesOn s d := by
  have hstates (x : Nat) : (s.runTo (nextControl s)).domainState x = s.domainState x :=
    State.runTo_reg_of_sub s _ (by decide) (by decide) (by decide) x
  refine ⟨State.reg_setReg_same .., fun x hx => (State.reg_setReg_other _ _ ?_).trans (hstates x), ?_, State.runTo_harbour s _, ?_⟩
  · simp only [ne_eq, Reg.key, Reg.pwrDomainState]
    omega
  · have hcycle : (nowOff s d).clocks.cycle = max s.clocks.cycle (nextControl s) := State.runTo_cycle ..
    rw [hcycle, nextControl]
    omega
  · obtain ⟨regs, clocks, h⟩ := s.runTo_eq (nextControl s)
    unfold nowOff
    rw [h]
    rfl

theorem switchedOff_eq {s : State} {d : Nat} (h : s.domainState d = 1 ∨ s.domainState d = 2) :
    switchedOff s d = (domainLost (nowOff s d) d).setReg Reg.pwrDomainOn d 0 := by
  have hstate : (s.runTo (nextControl s)).domainState d = s.domainState d := State.runTo_reg_of_sub s _ (by decide) (by decide) (by decide) d
  have hoff : domainOff (s.runTo (nextControl s)) d = domainLost (nowOff s d) d := if_pos (by rw [hstate]; exact h.symm)
  rw [← hoff]
  rfl

theorem domainOnWrite_off {s : State} {d : Nat} (h : s.domainState d = 1 ∨ s.domainState d = 2) :
    domainOnWrite d 0 s = if mayPowerOff s d then (scOk, switchedOff s d) else (scState, s) := by
  unfold domainOnWrite
  dsimp only
  rw [if_neg (by decide), if_neg (by unfold pdOff pdFailed; omega)]

section
variable {s : State} {d : Nat} (hd : d < 128) (honline : s.mode.online = true) (h12 : s.domainState d = 1 ∨ s.domainState d = 2)
include hd honline h12

/-- A domain is switched off: what it held is lost, and the others stay (R394, R397). -/
theorem pwrDomainOff_switches (hmay : mayPowerOff s d = true) (hkept : DomainsKept (nowOff s d) (domainLost (nowOff s d) d)) :
    ∃ t, exec (.pwrDomainOn d [0#8]) s = .next t ∧ t.outbox.head? = some (.status 0) ∧ t.domainState d = 0 ∧
      (∀ x < 128, x ≠ d → t.domainState x = s.domainState x) ∧ t.clocks.cycle = nextControl s ∧ t.reg Reg.pwrDomainOn d = 0 ∧
      (∀ (r : Reg) (n : Nat), Reg.pwrDomainOn.key d ≠ r.key n → t.reg r n = (domainLost (nowOff s d) d).reg r n) ∧
      t.mem = (domainLost (nowOff s d) d).mem ∧ t.tiles = (domainLost (nowOff s d) d).tiles := by
  have hwrite : domainOnWrite d (0#8).toNat s = (scOk, (domainLost (nowOff s d) d).setReg Reg.pwrDomainOn d 0) := by
    rw [← switchedOff_eq h12]
    exact (domainOnWrite_off h12).trans (if_pos hmay)
  obtain ⟨hself, hothers, hcycle, -, -⟩ := nowOff_shows s d
  have hexec := pwrDomainOn_accepted hd honline (v := 0#8) (by decide) hwrite
  obtain ⟨hstates, hclocks⟩ := hkept
  generalize domainLost (nowOff s d) d = u at *
  have hstate (x : Nat) : (u.setReg Reg.pwrDomainOn d 0).domainState x = u.domainState x :=
    State.reg_setReg_other _ _ (Reg.key_ne_of_sub (by decide) (by decide) (by decide) _ _)
  refine ⟨_, hexec, rfl, (hstate d).trans ((hstates d hd).trans hself), fun x hx hne => (hstate x).trans ((hstates x hx).trans (hothers x hne)),
    ?_, State.reg_setReg_same .., fun r n hr => State.reg_setReg_other _ _ hr, rfl, rfl⟩
  rw [← hcycle, ← hclocks]
  rfl

theorem pwrDomainOff_refused (hmay : mayPowerOff s d = false) :
    exec (.pwrDomainOn d [0#8]) s = .next ((s.count Reg.odWritesRefused 0).emit (.status 0x08000022)) := by
  refine pwrDomainOn_refused hd honline (v := 0#8) (by decide) (c := scState) (by decide) ?_
  exact (domainOnWrite_off h12).trans (if_neg (by rw [hmay]; exact Bool.false_ne_true))

end

/-! ### A domain that is switched on -/

theorem domainOnWrite_on {s : State} {d : Nat} (hhas : s.hasDomain d = true) (hpower : s.power.throttled = false) :
    domainOnWrite d 1 s = if s.domainState d ≠ 0 then (scOk, s)
      else if otherRamps s d || !mayPowerOn s d then (scState, s) else (scOk, startRamp s d) := by
  unfold domainOnWrite
  dsimp only
  rw [if_pos rfl, if_neg (by simp [hhas]), if_neg (by simp [hpower])]
  rfl

section
variable {s : State} {d : Nat} (hd : d < 128) (honline : s.mode.online = true)
include hd honline

/-- A domain begins its ramp: the others stay, and no time passes (R394, R395). -/
theorem pwrDomainOn_ramps (hhas : s.hasDomain d = true) (hpower : s.power.throttled = false) (hstate : s.domainState d = 0)
    (hramps : otherRamps s d = false) (hmay : mayPowerOn s d = true) :
    ∃ t, exec (.pwrDomainOn d [1#8]) s = .next t ∧ t.outbox.head? = some (.status 0) ∧ t.domainState d = 1 ∧
      (∀ x < 128, x ≠ d → t.domainState x = s.domainState x) ∧ t.clocks.cycle = s.clocks.cycle ∧ t.reg Reg.pwrDomainOn d = 1 := by
  have hwrite : domainOnWrite d (1#8).toNat s = (scOk, startRamp s d) := by
    refine (domainOnWrite_on hhas hpower).trans ?_
    rw [if_neg (by simp [hstate]), if_neg (by simp [hramps, hmay])]
  have hdomain (x : Nat) : (startRamp s d).domainState x = (s.setDomainState d pdRamping).domainState x :=
    State.reg_setReg_other (s.setDomainState d pdRamping) _ (Reg.key_ne_of_sub (by decide) (by decide) (by decide) _ _)
  refine ⟨_, pwrDomainOn_accepted hd honline (v := 1#8) (by decide) hwrite, rfl, (hdomain d).trans (State.reg_setReg_same ..),
    fun x _ hne => (hdomain x).trans (State.reg_setReg_other _ _ ?_), rfl, State.reg_setReg_same (s.setDomainState d pdRamping) ..⟩
  simp only [ne_eq, Reg.key, Reg.pwrDomainState]
  omega

end


/-! ### The conditions of Table 19.2 -/

theorem otherRamps_iff (s : State) (d : Nat) : otherRamps s d = true ↔ ∃ x < 128, x ≠ d ∧ s.domainState x = 1 := by
  simp [otherRamps, pdRamping, List.any_eq_true]

theorem domainOn_iff (s : State) (d : Nat) : s.domainOn d = true ↔ s.domainState d = 2 := by
  simp [State.domainOn, State.domainState]

theorem mayPowerOn_iff {s : State} {d : Nat} (honline : s.mode.online = true) : mayPowerOn s d = true ↔
    (64 ≤ d → d < 96 → s.mode = .held) ∧ (80 ≤ d → s.domainState (64 + domainHarbour d) = 2) := by
  rw [← domainOn_iff]
  unfold mayPowerOn
  dsimp only
  rcases Nat.lt_or_ge d 64 with h | h
  · rw [domainKind_island h]
    exact iff_of_true honline ⟨fun h' => absurd h' (by omega), fun h' => absurd h' (by omega)⟩
  rcases Nat.lt_or_ge d 80 with h' | h'
  · rw [domainKind_harbour h h']
    simp [h, show d < 96 by omega, Nat.not_le.2 h']
  rcases Nat.lt_or_ge d 96 with h'' | h''
  · rw [domainKind_stack h' h'']
    simp [h, h', h'']
  · rcases domainKind_lanes h'' with hk | hk
    · rw [hk]
      simp [honline, h', Nat.not_lt.2 h'']
    · rw [hk]
      simp [honline, h', Nat.not_lt.2 h'']

/-- A harbour has an enabled receive or transmit lane. -/
def lanesLit (s : State) (h : Nat) : Prop :=
  ∃ k < 64, s.flag Reg.laneEnable (64 * h + k) = true ∨ (k < 16 ∧ s.flag Reg.xlaneEnable (16 * h + k) = true)

theorem lanesDisabled_iff (s : State) (h : Nat) : lanesDisabled s h = true ↔ ¬ lanesLit s h := by
  simp only [lanesDisabled, harbourLanes, List.all_map, Bool.and_eq_true, List.all_eq_true, List.mem_range, Function.comp_apply,
    Bool.not_eq_true', lanesLit, not_exists, not_and, not_or, Bool.not_eq_true]
  exact ⟨fun hdark k hk => ⟨hdark.1 k hk, fun hk' => hdark.2 k hk'⟩, fun hdark => ⟨fun k hk => (hdark k hk).1, fun k hk => (hdark k (by omega)).2 hk⟩⟩

theorem mayPowerOff_island {s : State} {d : Nat} (h : d < 64) (honline : s.mode.online = true) : mayPowerOff s d =
    (!activationUses s d && (islandIdle s d && !bistOn s d)) := by
  have hload : loadUses s d = false := by simp [loadUses, Nat.not_le.2 h]
  simp [mayPowerOff, domainKind_island h, hload, honline]

theorem mayPowerOff_harbour {s : State} {d : Nat} (h : 64 ≤ d) (h' : d < 80) : mayPowerOff s d =
    (!activationUses s d && !loadUses s d && (s.mode == .held && [80 + domainHarbour d, 96 + domainHarbour d, 112 + domainHarbour d].all
      fun x => s.domainState x == pdOff)) := by
  rw [mayPowerOff, domainKind_harbour h h']

theorem mayPowerOff_stack {s : State} {d : Nat} (h : 80 ≤ d) (h' : d < 96) : mayPowerOff s d =
    (!activationUses s d && !loadUses s d && s.mode == .held) := by
  rw [mayPowerOff, domainKind_stack h h']

theorem mayPowerOff_lanes {s : State} {d : Nat} (h : 96 ≤ d) (honline : s.mode.online = true) : mayPowerOff s d =
    (!activationUses s d && !loadUses s d && lanesDisabled s (domainHarbour d)) := by
  rcases domainKind_lanes h with hk | hk
  · rw [mayPowerOff, hk, honline]
    rfl
  · rw [mayPowerOff, hk, honline]
    rfl

theorem mayPowerOff_of_idle {s : State} {d : Nat} (h : d < 64) (honline : s.mode.online = true) (hact : activationUses s d = false)
    (hbist : bistOn s d = false) (hidle : ∀ x ∈ planesOn s d, s.planeState x.1 x.2 = 0 ∨ s.planeState x.1 x.2 = 6) : mayPowerOff s d = true := by
  rw [mayPowerOff_island h honline, hact, hbist]
  simpa [islandIdle] using fun a b hab => hidle (a, b) hab

theorem mayPowerOff_of_live {s : State} {d : Nat} (h : d < 64) (honline : s.mode.online = true)
    (hlive : ∃ x ∈ planesOn s d, 1 ≤ s.planeState x.1 x.2 ∧ s.planeState x.1 x.2 ≤ 5) : mayPowerOff s d = false := by
  obtain ⟨x, hx, h1, h5⟩ := hlive
  have hbusy : islandIdle s d = false := by
    refine Bool.eq_false_iff.2 fun hidle => ?_
    have := List.all_eq_true.1 hidle x hx
    simp only [Bool.or_eq_true, beq_iff_eq] at this
    omega
  rw [mayPowerOff_island h honline, hbusy]
  simp

theorem mayPowerOff_of_dark {s : State} {d : Nat} (h : 64 ≤ d) (h' : d < 80) (hheld : s.mode = .held) (h80 : s.domainState (80 + domainHarbour d) = 0)
    (h96 : s.domainState (96 + domainHarbour d) = 0) (h112 : s.domainState (112 + domainHarbour d) = 0) (hact : activationUses s d = false)
    (hload : loadUses s d = false) : mayPowerOff s d = true := by
  rw [mayPowerOff_harbour h h', hact, hload, hheld]
  simp only [List.all_cons, List.all_nil, Bool.and_true, Bool.and_eq_true, beq_iff_eq, Bool.not_false, true_and]
  exact ⟨h80, h96, h112⟩

theorem mayPowerOff_of_powered {s : State} {d : Nat} (h : 64 ≤ d) (h' : d < 80) (hno : s.domainState (80 + domainHarbour d) ≠ 0 ∨
    s.domainState (96 + domainHarbour d) ≠ 0 ∨ s.domainState (112 + domainHarbour d) ≠ 0 ∨ s.mode ≠ .held) : mayPowerOff s d = false := by
  have hnot : (s.mode == .held && [80 + domainHarbour d, 96 + domainHarbour d, 112 + domainHarbour d].all
      fun x => s.domainState x == pdOff) = false := by
    refine Bool.eq_false_iff.2 fun hall => ?_
    simp only [List.all_cons, List.all_nil, Bool.and_true, Bool.and_eq_true, beq_iff_eq] at hall
    obtain ⟨hheld, h80, h96, h112⟩ := hall
    rcases hno with hn | hn | hn | hn
    · exact hn h80
    · exact hn h96
    · exact hn h112
    · exact hn hheld
  rw [mayPowerOff_harbour h h', hnot, Bool.and_false]

theorem domainKind_ne_stack {d : Nat} (h : d < 80 ∨ 96 ≤ d) : domainKind d ≠ .stack := by
  rcases h with h | h
  · rcases Nat.lt_or_ge d 64 with h' | h'
    · rw [domainKind_island h']
      exact nofun
    · rw [domainKind_harbour h' h]
      exact nofun
  · rcases domainKind_lanes h with hk | hk
    · rw [hk]
      exact nofun
    · rw [hk]
      exact nofun

/-! ### O41 -/

/-- Settles O41, by the rows of Table 19.2; what each loss leaves of the other domains is `DomainsKept`. -/
theorem domainsSwitchUnderTheirConditions : Obligations.DomainsSwitchUnderTheirConditions := by
  unfold Obligations.DomainsSwitchUnderTheirConditions
  intro s d hd honline on off refused now h ready ramps lit
  have hon {c : Nat} (hc : c ≠ scOk) (hwrite : domainOnWrite d (1#8).toNat s = (c, s)) : on = refused c :=
    pwrDomainOn_refused hd honline (by decide) hc hwrite
  have hready : mayPowerOn s d = true ↔ ready := mayPowerOn_iff honline
  have hramps : otherRamps s d = true ↔ ramps := otherRamps_iff s d
  have hlit : lanesDisabled s h = true ↔ ¬ lit := lanesDisabled_iff s h
  clear_value ready ramps lit
  refine ⟨fun hhas => ?_, fun hhas hpower => ?_, fun hhas hpower hstate => ⟨fun hno => ?_, fun hone hmay => ?_⟩, fun hhas hpower hone hstate => ?_,
    fun hstate => ?_, fun h12 => ?_⟩
  · refine hon (c := scValue) (by decide) ?_
    unfold domainOnWrite
    dsimp only
    rw [if_pos (by decide), if_pos (by simp [hhas])]
  · refine hon (c := scState) (by decide) ?_
    unfold domainOnWrite
    dsimp only
    rw [if_pos (by decide), if_neg (by simp [hhas]), if_pos hpower]
  · refine hon (c := scState) (by decide) ?_
    have hcond : (otherRamps s d || !mayPowerOn s d) = true := by
      rw [← hramps, ← hready] at hno
      simpa using hno
    refine (domainOnWrite_on hhas hpower).trans ?_
    rw [if_neg (by simp [hstate]), if_pos hcond]
  · obtain ⟨t, ht, hout, hself, hothers, hcycle, hreg⟩ :=
      pwrDomainOn_ramps hd honline hhas hpower hstate (Bool.eq_false_iff.2 fun hr => hone (hramps.1 hr)) (hready.2 hmay)
    exact ⟨t, ht, hout, hself, hothers, hcycle, hreg⟩
  · have hwrite : domainOnWrite d (1#8).toNat s = (scOk, s) := (domainOnWrite_on hhas hpower).trans (if_pos hstate)
    exact pwrDomainOn_accepted hd honline (by decide) hwrite
  · have hwrite : domainOnWrite d (0#8).toNat s = (scOk, s) := by
      unfold domainOnWrite
      dsimp only
      rw [if_neg (by decide), if_pos (.inl hstate)]
    exact pwrDomainOn_accepted hd honline (by decide) hwrite
  · have hrefused (hmay : mayPowerOff s d = false) : off = refused 0x08000022 := pwrDomainOff_refused hd honline h12 hmay
    have hnow {p : State → Prop} (hmay : mayPowerOff s d = true) (hkept : DomainsKept (nowOff s d) (domainLost (nowOff s d) d))
        (hp : ∀ t : State, t.reg Reg.pwrDomainOn d = 0 →
          (∀ (r : Reg) (n : Nat), Reg.pwrDomainOn.key d ≠ r.key n → t.reg r n = (domainLost (nowOff s d) d).reg r n) →
          t.mem = (domainLost (nowOff s d) d).mem → t.tiles = (domainLost (nowOff s d) d).tiles → p t) : now off 0 p := by
      obtain ⟨t, ht, hout, hself, hothers, hcycle, hreg, hregs, hmem, htiles⟩ := pwrDomainOff_switches hd honline h12 hmay hkept
      exact ⟨t, ht, hout, hself, hothers, hcycle, hp t hreg hregs hmem htiles⟩
    obtain ⟨-, -, -, hharbours, hplanes⟩ := nowOff_shows s d
    refine ⟨fun hisland hact hbist hidle => ?_, fun hisland hlive => ?_, fun hlo hhi hno => ?_, fun hlo hhi hheld h80 h96 h112 hact hload => ?_,
      fun hlo hhi hheld hact hload hempty => ?_, fun hlo hl => ?_, fun hlo hdark hact hload => ?_⟩
    · have hmay := mayPowerOff_of_idle hisland honline hact hbist hidle
      obtain ⟨hplane, htile⟩ := domainLost_island (nowOff s d) hisland
      rw [hplanes] at hplane
      refine hnow hmay (domainLost_kept _ (domainKind_ne_stack (.inl (by omega)))) fun t hreg hregs _ htiles => ⟨hreg, fun x hx => ?_, fun r hr c hc => ?_⟩
      · exact (hregs _ _ (planeReg_key_ne_of_sub (by decide) (by decide) (by decide) _ _ _)).trans (hplane x hx)
      · rw [State.tileAt, htiles]
        exact htile r hr c hc
    · exact hrefused (mayPowerOff_of_live hisland honline hlive)
    · exact hrefused (mayPowerOff_of_powered hlo hhi hno)
    · exact hnow (mayPowerOff_of_dark hlo hhi hheld h80 h96 h112 hact hload) (domainLost_kept _ (domainKind_ne_stack (.inl hhi)))
        fun t hreg _ _ _ => hreg
    · have hmay : mayPowerOff s d = true := by
        rw [mayPowerOff_stack hlo hhi, hact, hload, hheld]
        rfl
      obtain ⟨hkept, hreg, hbyte⟩ := domainLost_stack (s := nowOff s d) (domainKind_stack hlo hhi) fun y e => by
        rw [hharbours y]
        exact tabGet_of_all (hempty y) e
      refine hnow hmay hkept fun t _ hregs hmem _ => ⟨?_, fun a ha => ?_⟩
      · exact (hregs Reg.hbmState h (by simp only [ne_eq, Reg.key, Reg.pwrDomainOn, Reg.hbmState]; have := domainHarbour_lt d; omega)).trans hreg
      · rw [State.byte, hmem]
        exact hbyte a ha
    · refine hrefused ?_
      have hno : lanesDisabled s (domainHarbour d) = false := Bool.eq_false_iff.2 fun hdark => hlit.1 hdark hl
      rw [mayPowerOff_lanes hlo honline, hno, Bool.and_false]
    · have hmay : mayPowerOff s d = true := by
        rw [mayPowerOff_lanes hlo honline, hact, hload, show lanesDisabled s (domainHarbour d) = true from hlit.2 hdark]
        rfl
      exact hnow hmay (domainLost_kept _ (domainKind_ne_stack (.inr hlo))) fun t hreg _ _ _ => hreg

end Sys2Proof.Machine
end
